-- ==== Sys2Proof/Word.lean ====
section
/-! DEFINITION. Word.lean: the 64-bit word of the Denuc core's general registers (R56), and nothing that a repair
could need to mend. -/

namespace Sys2Proof

/-- A general register's contents: 64 bits (R56). -/
abbrev Word := BitVec 64

/-- One byte of a stack (R241). -/
abbrev Byte := BitVec 8

end Sys2Proof
end

