-- ==== Sys2Proof/Wire.lean ====
section
/-! DEFINITION. Wire.lean: what reaches a unit from outside with a command: packets as they stand on the wire, and the
error pattern that a read of a protected store meets. -/

namespace Sys2Proof

/-- A packet as its header carries it (Table 12-3): raw fields, so that a malformed one can be told. -/
structure Packet where
  dst : Nat
  src : Nat
  op : Nat
  flags : Nat
  dchan : Nat
  schan : Nat
  seq : Nat
  len : Nat
  arg : Nat
  payload : List Nat
  deriving DecidableEq, Repr

/-- What has happened to a stored line by the time the die comes to it: the row that holds it, as the die numbers rows
(`bank * 2^24 + row`, R479), its cells that have changed (symbols 0 to 63 the data bytes, 64 to 71 the check bytes, 72 to 74
the copies of the poison bit) with what each differs by, and whether the die would put a correction down to retention
(R257). -/
structure Ecc where
  row : Nat
  errs : List (Nat × Nat)
  retention : Bool
  deriving DecidableEq, Repr

/-- No cell has changed. -/
def Ecc.clean : Ecc := ⟨0, [], false⟩

/-- A line of a row that the die refreshes (R257), and what its cells have come to by then. -/
structure RefreshedLine where
  line : Nat
  ecc : Ecc
  deriving DecidableEq, Repr

/-- What the die's counters hold of a row beyond the activations that commands name (R254): `more` of them, and whether the
share of R254 does not allow a mitigation yet. -/
structure Activations where
  row : Nat
  more : Nat
  wait : Bool
  deriving DecidableEq, Repr

/-- The words of accumulator memory in which the code finds a single-bit and a double-bit error (R144). -/
structure CellErrors where
  ones : List Nat
  bad : List Nat
  deriving DecidableEq, Repr

/-- An engine that takes one queued state-delta packet (R191), and the single-bit errors that its structure store shows
(R212). -/
structure DeltaRead where
  engine : Nat
  ces : Nat
  deriving DecidableEq, Repr

/-- An engine that has computed 16 instances (R204): the core-clock cycles that the group took (R213) and the single-bit
errors that it met (R212). -/
structure GroupDone where
  engine : Nat
  cc : Nat
  ces : Nat
  deriving DecidableEq, Repr

/-- An engine to which couch-queue data has come (R317), and whether its sender's queue has the NSLOT and SLOT4K of this
side's, as R318 asks. -/
structure CqArrival where
  engine : Nat
  same : Bool
  deriving DecidableEq, Repr

/-- A frame as a port receives it (R328): its bytes after FEC, and how many of its codewords FEC corrected (R346). -/
structure WireFrame where
  bytes : List Nat
  fec : Nat
  deriving DecidableEq, Repr

/-- What the power-on test of a stack finds (R257, R403, R404): the serial of its logic die and the day of the test, whether
the interface trains, whether the self-test passes with no die or lane lost, and by a full test the rows that fail and the rows
that need a bin below B3, with it. -/
structure StackTest where
  stack : Nat
  serial : Nat
  day : Nat
  trained : Bool
  good : Bool
  repairs : List Nat
  rows : List (Nat × Nat)
  deriving DecidableEq, Repr

/-- A unit whose known-answer test failed (R407): its health-map index, the failing step, and whether the retest failed
too. -/
structure KatFail where
  index : Nat
  step : Nat
  again : Bool
  deriving DecidableEq, Repr

/-- An event of Table 15-1 with what it finds outside the device: 1 the input voltage in mV and SLOT_ID, 2 the fuses, 3
the firmware, 4 the Felt links that train and the pages that fail their self-test, 5, 6 the stacks of one group, 7, 8 the
units whose known-answer test fails, 9. -/
inductive PowerEvent where
  | regulated (mv slot : Nat)
  | fuses
  | firmware
  | headbox (links : List Nat) (failed : List (Nat × Nat))
  | pageLive
  | memTest (tests : List StackTest)
  | ports
  | computeUp (fails : List KatFail)
  | ready
  deriving DecidableEq, Repr

/-- A part of Table 15-6: events 1 to 3, events 4 to 7 with the units whose known-answer test fails, event 8. -/
inductive ResetEvent where
  | start
  | test (fails : List KatFail)
  | finish
  deriving DecidableEq, Repr

end Sys2Proof
end

