-- ==== Sys2Proof/Syntax.lean ====
section
/-! DEFINITION. Syntax.lean: the commands and events of the part, one constructor for each row of spec/opcode_table.json,
in its order. What a command finds outside the device (a received frame, a measured value, an error pattern, a test's
outcome) is an operand. -/

namespace Sys2Proof

/-- A command or event. -/
inductive Instr where
  /-- REG_WRITE (R9, R36): `be` are the byte enables, four or the eight of an aligned 64-bit access. -/
  | regWrite (bar off be v : Nat)
  /-- RC_READ (R9, R36): a register read, of 32 or 64 bits; its RC fields clear. -/
  | rcRead (bar off be : Nat)
  /-- PG_SEQ_READ (R41): the read of a low word that latches the high one. -/
  | pgSeqRead (off : Nat)
  /-- RESERVED_PAGE_ACCESS (R40). -/
  | reservedAccess (bar off : Nat) (write : Bool)
  /-- ENABLE (R43): a write of PG_CTRL with ENABLE alone. -/
  | enable (cls inst v : Nat)
  /-- DISABLE_REQ (R43, R45): a write of PG_CTRL that sets DISABLE_REQ or clears ENABLE. -/
  | disableReq (cls inst v : Nat)
  /-- FORCE_STOP (R43): a write of PG_CTRL with FORCE_STOP. -/
  | forceStop (cls inst v : Nat)
  /-- DRAIN_COMPLETE (R43). -/
  | drainComplete (cls inst : Nat)
  /-- DRAIN_BOUND_EXPIRY (R428). -/
  | drainBoundExpiry (cls inst : Nat)
  /-- UNIT_UCC (R423, R424): `sub` and the parameters are what the unit reports. -/
  | unitUcc (cls inst : Nat) (parity : Bool) (sub p0 p1 p2 : Nat)
  /-- DEVICE_UCF (R426). -/
  | deviceUcf (cls inst cause p : Nat)
  /-- FELT_FLIT_RECEIVE (R23, R24): the receiver of `node` takes a flit from `peer`, its 72 bytes and the parity bit
  of each. -/
  | feltFlitReceive (node peer : Nat) (bytes : List Nat) (parity : List Bool)
  /-- FELT_REROUTE (R24, R25). -/
  | feltReroute (a b : Nat)
  /-- BUNDLE_ISSUE (R52): `ecc` is what a code meets at word `word`: 0 nothing, 1 a corrected and 2 an uncorrectable
  error of the program store, 3 and 4 the same of the tile store. -/
  | bundleIssue (p ecc word : Nat)
  /-- STALLED_BUNDLE_ISSUE (R73). -/
  | stalledBundleIssue (p ecc word : Nat)
  /-- WRITE_LANDS (R71). -/
  | writeLands (p : Nat)
  /-- DIVIDE_COMPLETE (R73): `fp` names the shared FDIV/FSQRT unit. -/
  | divideComplete (p : Nat) (fp : Bool)
  /-- WATCHDOG (R74). -/
  | watchdog (p : Nat)
  /-- DMA_COMPLETE (R69). -/
  | dmaComplete (p tag : Nat)
  /-- DMA_TIMEOUT (R69). -/
  | dmaTimeout (p tag : Nat)
  /-- REGION_ACCESS (R242, R244): the next access of a tile leaves it. -/
  | regionAccess (p ecc word : Nat)
  /-- BAR_ARRIVE_SEND (R225). -/
  | barArriveSend (p b : Nat)
  /-- POST_CREDIT_RETURN (R80). -/
  | postCreditReturn (p target : Nat)
  /-- LAUNCH_ENTRY_FIRE (R232). -/
  | launchEntryFire
  /-- START (R59, R88): a write of TIL.RUNCTL with START. -/
  | start (p v : Nat)
  /-- STOP (R88): a write of TIL.RUNCTL with STOP. -/
  | stop (p v : Nat)
  /-- RESUME (R81): a write of TIL.RUNCTL with RESUME. -/
  | resume (p v : Nat)
  /-- MX_OP_START (R126): on the array or on the transfer port. -/
  | mxOpStart (p : Nat) (array : Bool) (ecc word : Nat)
  /-- MX_OP_COMPLETE (R126, R144): `ones` and `bad` list the words of accumulator memory in which the code finds a
  single-bit and an uncorrectable error. -/
  | mxOpComplete (p : Nat) (array : Bool) (errs : CellErrors)
  /-- ACCDBG_GO (R145): a write of TIL.ACCDBG_CTL with GO. -/
  | accdbgGo (p v : Nat)
  /-- ACCDBG_READ_DONE (R145). -/
  | accdbgReadDone (p : Nat)
  /-- VECTOR_OP_START (R159). -/
  | vectorOpStart (p ecc word : Nat)
  /-- VECTOR_OP_COMPLETE (R159). -/
  | vectorOpComplete (p : Nat)
  /-- SLV_LOAD (R187): the command at the front of SQ `q` starts. -/
  | slvLoad (q : Nat)
  /-- SLV_LOAD_COMPLETE (R187). -/
  | slvLoadComplete (e : Nat)
  /-- DELTA_PACKET (R190). -/
  | deltaPacket (e : Nat)
  /-- DELTA_APPLY (R191, R212): the engine, and the single-bit errors that it meets. -/
  | deltaApply (a : DeltaRead)
  /-- SOLVER_LAUNCH (R201): the oldest admitted launch reaches its engine. -/
  | solverLaunch
  /-- CYCLE_START (R191, R202). -/
  | cycleStart (e : Nat)
  /-- LANE_GROUP_COMPLETE (R204, R212, R213): the engine, the core-clock cycles that the group took and the single-bit
  errors that it met. -/
  | laneGroupComplete (a : GroupDone)
  /-- DEADLINE_MARK (R204, R205). -/
  | deadlineMark (e : Nat)
  /-- BAR_ARRIVAL (R224, R226). -/
  | barArrival (p b : Nat)
  /-- BARTMO_EXPIRY (R227). -/
  | bartmoExpiry (b : Nat)
  /-- BARCFG_WRITE (R227). -/
  | barcfgWrite (v : Nat)
  /-- BARRESET (R227). -/
  | barReset (v : Nat)
  /-- ARRIVE (R228). -/
  | arrive (v : Nat)
  /-- HOST_ARRIVAL_COUNT (R228). -/
  | hostArrivalCount (b : Nat)
  /-- CADENCE_MARK (R230). -/
  | cadenceMark
  /-- RUN (R234): a write of CAD.CTL without LOAD. -/
  | run (v : Nat)
  /-- LOAD (R234): a write of CAD.CTL with LOAD. -/
  | load (v : Nat)
  /-- PERIOD_WRITE (R234). -/
  | periodWrite (v : Nat)
  /-- CAL_SWEEP (R444, R235): `kind`, the skew or the sensor, and whether it failed are what the sweep finds. -/
  | calSweep (kind skew sensor : Nat) (failed : Bool)
  /-- CC_MEASURE (R444): the five measured clocks in ps. -/
  | ccMeasure (ps : List Nat)
  /-- STACK_READ (R246): the read at place `n` of the stack's requests. -/
  | stackRead (k n : Nat) (ecc : Ecc)
  /-- STACK_WRITE (R250). -/
  | stackWrite (k n : Nat) (ecc : Ecc)
  /-- ATOMIC_ADD (R251). -/
  | atomicAdd (k n : Nat) (ecc : Ecc)
  /-- ROW_WEAR_MITIGATION (R254): what the die has counted beyond the activations that commands name, and whether the
  share of R254 does not allow a mitigation yet. -/
  | rowWearMitigation (k : Nat) (x : Activations)
  /-- ROW_REPAIR (R255, R256). -/
  | rowRepair (k : Nat)
  /-- REFRESH (R257): the row `x.ecc.row` is refreshed; `x.ecc` is what the cells of one of its lines have come to by
  then. -/
  | refresh (k : Nat) (x : RefreshedLine)
  /-- PATROL_SCRUB (R258). -/
  | patrolScrub (k : Nat) (ecc : Ecc)
  /-- DEMAND_SCRUB (R258). -/
  | demandScrub (k : Nat) (ecc : Ecc)
  /-- DOC_BEHIND (R258). -/
  | docBehind (hours : Nat)
  /-- OPERATING_HOUR_END (R259). -/
  | operatingHourEnd
  /-- STACK_NO_ANSWER (R259, R260). -/
  | stackNoAnswer (k : Nat)
  /-- PLACE (R273). -/
  | place (q : Nat)
  /-- RELEASE (R278). -/
  | release (q : Nat)
  /-- TILE_REMAP (R279). -/
  | tileRemap
  /-- REMAPPED (R279, R280): `bad` lists the program words that do not load. -/
  | remapped (bad : List Nat)
  /-- SOLVER_REMAP (R281). -/
  | solverRemap
  /-- STACK_MIGRATION (R282, R284). -/
  | stackMigration
  /-- MIGRATION_COPY (R283): `ecc` is what the die meets at one line of the unit. -/
  | migrationCopy (line : Nat) (ecc : Ecc)
  /-- DKL_REDRAW (R285). -/
  | dklRedraw (v : Nat)
  /-- REDRAW (R285). -/
  | redraw
  /-- STEP_OPEN_ARRIVAL (R292). -/
  | stepOpenArrival (p : Nat)
  /-- STEP_COMMIT_ARRIVAL (R293). -/
  | stepCommitArrival (p : Nat)
  /-- COMMITTING (R294 to R296). -/
  | committing
  /-- CMTTMO_EXPIRY (R294). -/
  | cmttmoExpiry
  /-- SPOIL (R298): a write of STP.CTL with SPOIL. -/
  | spoil (v : Nat)
  /-- ACK (R299): a write of STP.CTL with ACK alone. -/
  | ack (v : Nat)
  /-- LEDGER_COPY (R307). -/
  | ledgerCopy
  /-- LATE_CONTRIBUTION (R304): `good` says that the contribution reached STP with its CRC intact. -/
  | lateContribution (good : Bool)
  /-- CQ_PUSH (R314, R316, R317). -/
  | cqPush (tile : Nat)
  /-- CQ_POP (R315, R316, R317). -/
  | cqPop (tile : Nat)
  /-- PHASE (R320). -/
  | phase (tile : Nat)
  /-- BADPOST (R313). -/
  | badPost (tile : Nat)
  /-- CQ_ENABLE (R311): a write of STP.CQCFG with EN. -/
  | cqEnable (v : Nat)
  /-- CQ_DATA (R317, R318): the engine, and whether the sender has this queue's NSLOT and SLOT4K. -/
  | cqData (a : CqArrival)
  /-- CQ_PUSHN (R317). -/
  | cqPushn (e : Nat)
  /-- CQ_POPN (R317). -/
  | cqPopn (e : Nat)
  /-- CQ_SLOT_ACKNOWLEDGED (R317). -/
  | cqSlotAcknowledged (q : Nat)
  /-- PORT_TRAINING (R326, R330): `pass` are the lanes that pass; the rest is what the peer announces. -/
  | portTraining (p pass peerId peerPort peerSeq : Nat)
  /-- RETRY_INTERVAL_EXPIRY (R327). -/
  | retryIntervalExpiry (p : Nat)
  /-- RETRAIN (R326): a write of BZP.CTL with RETRAIN. -/
  | retrain (p v : Nat)
  /-- TRAIN_EN (R326): a write of BZP.CTL without RETRAIN. -/
  | trainEn (p v : Nat)
  /-- DATA_FRAME (R328, R329, R331): the bytes of a received frame, and how many of its codewords FEC corrected. -/
  | dataFrame (p : Nat) (f : WireFrame)
  /-- LCF (R328): as DATA_FRAME. -/
  | lcf (p : Nat) (f : WireFrame)
  /-- FEC_UNCORRECTABLE (R326): `newWindow` says that the codeword opens a new 1 ms window. -/
  | fecUncorrectable (p : Nat) (newWindow : Bool)
  /-- LANE_ALIGNMENT_LOST (R326). -/
  | laneAlignmentLost (p : Nat)
  /-- LLTMO_EXPIRY (R329). -/
  | lltmoExpiry (p : Nat)
  /-- FRAME_TRANSMIT (R332): `reserved` says that the frame falls to the reservation. -/
  | frameTransmit (p : Nat) (reserved : Bool)
  /-- CHCFG_EN (R337). -/
  | chcfgEn (e v : Nat)
  /-- CH_OPEN_RETRY (R337). -/
  | chOpenRetry (e c : Nat)
  /-- OPENTMO_EXPIRY (R337). -/
  | opentmoExpiry (e c : Nat)
  /-- CLOSING_EXPIRY (R337): `late` says that 20 ms have passed. -/
  | closingExpiry (e c : Nat) (late : Bool)
  /-- CH_OPEN (R337). -/
  | chOpen (e : Nat)
  /-- CH_OPENACK (R337). -/
  | chOpenack (e : Nat)
  /-- CH_CLOSE (R337). -/
  | chClose (e : Nat)
  /-- WRITE (R338, R340). -/
  | write (e : Nat)
  /-- ADD_PACKET (R340). -/
  | addPacket (e : Nat)
  /-- ACK_PACKET (R338). -/
  | ackPacket (e : Nat)
  /-- REFUSE (R339). -/
  | refuse (e : Nat)
  /-- STOP_PACKET (R342). -/
  | stopPacket (e : Nat)
  /-- RESUME_PACKET (R342). -/
  | resumePacket (e : Nat)
  /-- ACK_TIMER (R338). -/
  | ackTimer (e c : Nat)
  /-- CHRTO_EXPIRY (R338). -/
  | chrtoExpiry (e c : Nat)
  /-- MIRRORED_WRITE (R340). -/
  | mirroredWrite (p tag : Nat)
  /-- CHFLUSH (R341). -/
  | chflush (e v : Nat)
  /-- SLICE (R343): a slice of engine `e` on lane `vl` towards the egress place `egress`. -/
  | slice (e vl egress : Nat)
  /-- READY (R354, R355): the oldest POST of a tile to COL, READY or malformed. -/
  | ready (tile : Nat)
  /-- ABORT (R354). -/
  | abort (tile : Nat)
  /-- COL_LAUNCH (R354). -/
  | colLaunch (q : Nat)
  /-- COL_BEGIN (R353). -/
  | colBegin (e : Nat)
  /-- COL_DATA (R365). -/
  | colData (e : Nat)
  /-- COL_END (R365, R366). -/
  | colEnd (e : Nat)
  /-- COL_VOTE (R367). -/
  | colVote (e : Nat)
  /-- COL_DECIDE (R367). -/
  | colDecide (e : Nat)
  /-- COL_ABORT (R368). -/
  | colAbort (e : Nat)
  /-- COL_EXCL (R371). -/
  | colExcl (e : Nat)
  /-- COL_GRANT (R374). -/
  | colGrant (e : Nat)
  /-- SOFT_DEADLINE (R371): of the active instance of descriptor `k`. -/
  | softDeadline (k : Nat)
  /-- COL_TMO_EXPIRY (R369). -/
  | colTmoExpiry (k : Nat)
  /-- HOSTABORT (R378). -/
  | hostabort (v : Nat)
  /-- FLR (R383): 0 a Function Level Reset, 1 a Hot Reset, 2 the link goes down. -/
  | flr (kind : Nat)
  /-- PERST (R400). -/
  | perst
  /-- CONFIG_REQUEST (R400): 0 reads, 1 writes, 2 sets the size of BAR 4. -/
  | configRequest (kind off v : Nat)
  /-- BAR4_READ (R384, R385). -/
  | bar4Read (o n : Nat) (ecc : Ecc)
  /-- BAR4_WRITE (R384, R385). -/
  | bar4Write (o : Nat) (bs : List Nat) (ecc : Ecc)
  /-- WIN_WRITE_DISCARD (R385). -/
  | winWriteDiscard (o n : Nat)
  /-- SQ_TAIL_DOORBELL (R387). -/
  | sqTailDoorbell (q v : Nat)
  /-- CQ_HEAD_DOORBELL (R387, R395). -/
  | cqHeadDoorbell (q v : Nat)
  /-- HOST_EVENT_DOORBELL (R393). -/
  | hostEventDoorbell (t v : Nat)
  /-- COMMAND_FETCH (R387): the 64 bytes that the read of the ring returns; `bad` says that it failed (R382). -/
  | commandFetch (q : Nat) (bytes : List Nat) (bad : Bool)
  /-- NOP_COMMAND (R388). -/
  | nopCommand (q : Nat)
  /-- PROG_LOAD (R388). -/
  | progLoad (q : Nat)
  /-- TILE_START (R389). -/
  | tileStart (q : Nat)
  /-- TILE_STOP (R388). -/
  | tileStop (q : Nat)
  /-- COMPLETION_WRITE (R390, R391). -/
  | completionWrite (q : Nat)
  /-- MSIX_SIGNAL (R395). -/
  | msixSignal (q : Nat)
  /-- RING_ENABLE (R386): a write of HBX.CQCFG or HBX.SQCFG. -/
  | ringEnable (completion : Bool) (v : Nat)
  /-- STOPCHAN (R394). -/
  | stopchan (v : Nat)
  /-- RESUMECHAN (R394). -/
  | resumechan (v : Nat)
  /-- STOPPEER (R394). -/
  | stoppeer (v : Nat)
  /-- RESUMEPEER (R394). -/
  | resumepeer (v : Nat)
  /-- SQSTOP (R394). -/
  | sqstop (high : Bool) (v : Nat)
  /-- SQGO (R394). -/
  | sqgo (high : Bool) (v : Nat)
  /-- COLABORT (R394). -/
  | colabort (v : Nat)
  /-- URG_SPOIL (R394). -/
  | urgSpoil (v : Nat)
  /-- POWER_ON (R399): one event of Table 15-1. With the loss of its power the memory lost what it held. -/
  | powerOn (e : PowerEvent)
  /-- COMPUTE_RESET (R417): the write of GLB.RESETCTL, or a later part of Table 15-6. -/
  | computeReset (e : ResetEvent)
  /-- EVENT_RECORD (R430): `failing` lists the NV blocks that fail to program. -/
  | eventRecord (failing : List Nat)
  /-- TOKEN_REFILL (R433). -/
  | tokenRefill
  /-- TIMED_FLUSH (R434). -/
  | timedFlush (failing : List Nat)
  /-- FLUSH (R434): a write of EVR.CTL with FLUSH. -/
  | flush (v : Nat) (failing : List Nat)
  /-- RECORDS_LOST (R436). -/
  | recordsLost (failing : List Nat)
  /-- DUMPGO (R442): a write of EVR.CTL with DUMPGO alone. -/
  | dumpgo (v : Nat)
  /-- POWER_FAIL (R465): 0 the input stayed below PWR.PF.MV, 1 PWREN low, 2 PWRFAIL#. -/
  | powerFail (cause mv : Nat)
  /-- INPUT_OVERVOLTAGE (R465). -/
  | inputOvervoltage (mv : Nat)
  /-- THM_SAMPLE (R439, R441, R472): (sensor, reading) pairs. -/
  | thmSample (vs : List (Nat × Nat))
  /-- HARDWARE_TRIP (R472). -/
  | hardwareTrip (sensor v : Nat)
  /-- THM_SNAPSHOT (R440). -/
  | thmSnapshot
  /-- ERROR_SIGNAL (R427): the coalescing interval ends. -/
  | errorSignal
  /-- LC_TRANSITION (R447): a write of SEC.CMD with GO. -/
  | lcTransition (v : Nat)
  /-- FIELD_DEBUG (R450): a write of SEC.CMD with GO. -/
  | fieldDebug (v : Nat)
  /-- OWNER_KEY (R451): a write of SEC.CMD with GO. -/
  | ownerKey (v : Nat)
  /-- ATTEST (R457): a write of SEC.CMD with GO. -/
  | attest (v : Nat)
  /-- CERT_EXPORT (R456): a write of SEC.CMD with GO. -/
  | certExport (v : Nat)
  /-- FW_STAGE (R454): a write of SEC.CMD with GO. -/
  | fwStage (v : Nat)
  /-- SVN_COMMIT (R455): a write of SEC.CMD with GO. -/
  | svnCommit (v : Nat)
  /-- CLEAR_FIELDMAP (R448): a write of SEC.CMD with GO. -/
  | clearFieldmap (v : Nat)
  /-- INSTALL (R458): a write of LIC.CTL with INSTALL. -/
  | install (v : Nat)
  /-- REMOVE (R458): a write of LIC.CTL with REMOVE alone. -/
  | remove (v : Nat)
  /-- ADMISSION_INTERVAL (R468). -/
  | admissionInterval
  /-- UNIT_IDLE (R469). -/
  | unitIdle (kind n : Nat)
  /-- CAP_WINDOW (R470): the mean power of the last window in tenths of a watt. -/
  | capWindow (mean : Nat)
  /-- DUTY_HOLD (R470). -/
  | dutyHold (begins : Bool)
  /-- CAP_WRITE (R463): a write of PWR.CAP or PWR.VSET. -/
  | capWrite (vset : Bool) (v : Nat)
  /-- SMBUS_BLOCK_READ (R474). -/
  | smbusBlockRead (code : Nat)
  /-- DRAM_DIE_LOST (R259). -/
  | dramDieLost (k : Nat)
  /-- FENCE_P_TIMEOUT (R222). -/
  | fencePTimeout (p : Nat)
  /-- PCIE_LINK_UP (R380). -/
  | pcieLinkUp (rate width : Nat) (flit : Bool)
  deriving DecidableEq, Repr

end Sys2Proof
end

