-- ==== Sys2Proof/Decode.lean ====
section
/-! DEFINITION. Decode.lean: commands spelt by words. The table gives no row any bits: commands reach the block as
commands. -/

namespace Sys2Proof

/-- The command that a word spells by the table's bits: none, for no row has any (DESIGN CHOICE, log entry 3). -/
def decodeTableWord (_nbits _w : Nat) : Option Instr := none

end Sys2Proof
end

