-- ==== Sys2Proof/Machine/Map.lean ====
section
/-! DEFINITION. Machine/Map.lean: the sparse ordered list in which the model keeps everything the spec numbers
(register fields, units, tiles, bytes of a store), and the plain bit-field and byte helpers. -/

namespace Sys2Proof.Machine

/-- Entries by rising key. A key that is not listed holds the default its reader names. -/
abbrev SMap (α : Type) := List (Nat × α)

/-- The entry of key `k`, if it is listed. -/
def SMap.find {α : Type} (k : Nat) : SMap α → Option α
  | [] => none
  | (j, v) :: m => if j = k then some v else SMap.find k m

/-- List key `k` with value `v`, in place of any earlier entry. -/
def SMap.insert {α : Type} (k : Nat) (v : α) : SMap α → SMap α
  | [] => [(k, v)]
  | (j, w) :: m =>
    if k < j then (k, v) :: (j, w) :: m
    else if k = j then (k, v) :: m
    else (j, w) :: SMap.insert k v m

/-- Unlist key `k`. -/
def SMap.remove {α : Type} (k : Nat) (m : SMap α) : SMap α := m.filter (fun e => e.1 != k)

/-- The value at key `k`, `d` where it is not listed. -/
def SMap.get {α : Type} (d : α) (k : Nat) (m : SMap α) : α := (SMap.find k m).getD d

/-- Set the value at key `k` and keep the canonical form: the default `d` is never listed. -/
def SMap.put {α : Type} [DecidableEq α] (d : α) (k : Nat) (v : α) (m : SMap α) : SMap α :=
  if v = d then SMap.remove k m else SMap.insert k v m

/-- The canonical form: keys strictly rising from `lo`, and no entry equal to the default. -/
def SMap.wfFrom {α : Type} [DecidableEq α] (d : α) : Nat → SMap α → Bool
  | _, [] => true
  | lo, (j, v) :: m => decide (lo ≤ j) && !decide (v = d) && SMap.wfFrom d (j + 1) m

/-- Keys strictly rising and no entry equal to the default. -/
def SMap.wf {α : Type} [DecidableEq α] (d : α) (m : SMap α) : Bool := SMap.wfFrom d 0 m

/-- Change the value at key `k`. -/
def SMap.modify {α : Type} [DecidableEq α] (d : α) (k : Nat) (f : α → α) (m : SMap α) : SMap α :=
  SMap.put d k (f (SMap.get d k m)) m

/-! ### Sorting -/

/-- Put `x` before the first element that does not come before it. -/
def insertBy {α : Type} (le : α → α → Bool) (x : α) : List α → List α
  | [] => [x]
  | y :: ys => if le x y then x :: y :: ys else y :: insertBy le x ys

/-- The list in ascending order; equal elements keep their order. -/
def sortBy {α : Type} (le : α → α → Bool) (l : List α) : List α := l.foldr (insertBy le) []

/-- Numbers in ascending order. -/
def sortNat (l : List Nat) : List Nat := sortBy (fun a b => decide (a ≤ b)) l

/-! ### Bits and bytes of a natural number -/

/-- Bits `lo` upward of `n`, `w` of them. -/
def bits (n lo w : Nat) : Nat := n / 2 ^ lo % 2 ^ w

/-- Bit `i` of `n`. -/
def bit (n i : Nat) : Bool := n / 2 ^ i % 2 == 1

/-- `n` with the `w` bits from `lo` replaced by those of `v`. -/
def putBits (n lo w v : Nat) : Nat := n - bits n lo w * 2 ^ lo + v % 2 ^ w * 2 ^ lo

/-- 1 for true, 0 for false. -/
def b2n (b : Bool) : Nat := if b then 1 else 0

/-- The `w`-bit two's complement reading of `n`. -/
def signed (w n : Nat) : Int :=
  let m := n % 2 ^ w
  if m < 2 ^ (w - 1) then (m : Int) else (m : Int) - (2 ^ w : Nat)

/-- An integer as a `w`-bit two's complement number. -/
def unsigned (w : Nat) (x : Int) : Nat := (x % ((2 ^ w : Nat) : Int)).toNat

/-- The value of little-endian bytes (R8). -/
def ofLE : List Nat → Nat
  | [] => 0
  | b :: bs => b % 256 + 256 * ofLE bs

/-- The `k` little-endian bytes of `n` (R8). -/
def toLE : Nat → Nat → List Nat
  | 0, _ => []
  | k + 1, n => n % 256 :: toLE k (n / 256)

/-- A counter that stops at `top`. -/
def satAdd (top a b : Nat) : Nat := min top (a + b)

/-- `a` divided by `b`, rounded up. -/
def ceilDiv (a b : Nat) : Nat := (a + b - 1) / b

/-- The positions of the set bits of `n` below `w`, lowest first. -/
def setBits (w n : Nat) : List Nat := (List.range w).filter (fun i => bit n i)

/-- The number with exactly the listed bits set. -/
def ofBits (l : List Nat) : Nat := l.foldl (fun n i => n ||| 2 ^ i) 0

end Sys2Proof.Machine
end

