-- ==== Sys2Proof/Machine/Regs.lean ====
section
/-! DEFINITION. Machine/Regs.lean: the register fields of the block pages that the spec lays out in the register
tables of chapters 1, 2, 3, 5 and 7 to 18. A register whose words follow from structured state
(a barrier, a channel, a run state) has no field here: Machine/RegView.lean computes it. -/

namespace Sys2Proof.Machine

/-- The access codes of Table 0-2 (R9). -/
inductive Access where
  | ro | rw | w1c | w1s | wo | rc | rwl
  deriving DecidableEq, Repr

/-- One field of a page's register map: the page class, the byte offset of its register, its place, its reset value,
its access code, and the least and greatest value that a write stores ("0 stores 1" and its like). -/
structure Field where
  cls : Nat
  off : Nat
  lo : Nat
  width : Nat
  reset : Nat
  acc : Access
  least : Nat
  greatest : Nat
  deriving DecidableEq, Repr

/-- The key of a field of instance `i` in the sparse store of register fields. -/
def Field.key (f : Field) (i : Nat) : Nat := ((i * 64 + f.cls) * 4096 + f.off) * 32 + f.lo

/-- What a write of `v` to the field stores, by the limits its table gives. -/
def Field.stored (f : Field) (v : Nat) : Nat :=
  let w := v % 2 ^ f.width
  if w < f.least then f.least else if f.greatest < w then f.greatest else w

/-- FLT.ARB.COL_WT, RW. -/
def fltArbColWt : Field := ⟨19, 0x044, 0, 8, 0x1, .rw, 0, 0xFF⟩
/-- FLT.ARB.DAT_WT, RW. -/
def fltArbDatWt : Field := ⟨19, 0x044, 8, 8, 0x1, .rw, 0, 0xFF⟩
/-- FLT.RETRYCNT.COUNT, RC. -/
def fltRetrycntCount : Field := ⟨19, 0x048, 0, 32, 0x0, .rc, 0, 0xFFFFFFFF⟩
/-- FLT.BKGUSE.SHARE, RO. -/
def fltBkguseShare : Field := ⟨19, 0x04C, 0, 16, 0x0, .ro, 0, 0xFFFF⟩
/-- FLT.LINKFAIL.FAILED, W1C. -/
def fltLinkfailFailed : Field := ⟨19, 0x050, 0, 5, 0x0, .w1c, 0, 0x1F⟩
/-- GLB.IDENT.PART, RO. -/
def glbIdentPart : Field := ⟨0, 0x040, 0, 32, 0x4737, .ro, 0, 0xFFFFFFFF⟩
/-- GLB.REVISION.BUILD, RO. -/
def glbRevisionBuild : Field := ⟨0, 0x044, 0, 16, 0x0, .ro, 0, 0xFFFF⟩
/-- GLB.REVISION.STEPPING, RO. -/
def glbRevisionStepping : Field := ⟨0, 0x044, 16, 8, 0x0, .ro, 0, 0xFF⟩
/-- GLB.REVISION.MAJOR, RO. -/
def glbRevisionMajor : Field := ⟨0, 0x044, 24, 8, 0x1, .ro, 0, 0xFF⟩
/-- GLB.SERIAL_LO.SERIAL, RO. -/
def glbSerialLoSerial : Field := ⟨0, 0x048, 0, 32, 0x0, .ro, 0, 0xFFFFFFFF⟩
/-- GLB.SERIAL_HI.SERIAL, RO. -/
def glbSerialHiSerial : Field := ⟨0, 0x04C, 0, 32, 0x0, .ro, 0, 0xFFFFFFFF⟩
/-- GLB.RESETCTL.COMPUTE_RESET, WO. -/
def glbResetctlComputeReset : Field := ⟨0, 0x058, 0, 1, 0x0, .wo, 0, 0x1⟩
/-- GLB.BADADDR.OFFSET, RO. -/
def glbBadaddrOffset : Field := ⟨0, 0x05C, 0, 26, 0x0, .ro, 0, 0x3FFFFFF⟩
/-- GLB.BADACC.VALID, W1C. -/
def glbBadaccValid : Field := ⟨0, 0x060, 0, 1, 0x0, .w1c, 0, 0x1⟩
/-- GLB.BADACC.RESV_PAGE, RO. -/
def glbBadaccResvPage : Field := ⟨0, 0x060, 1, 1, 0x0, .ro, 0, 0x1⟩
/-- GLB.BADACC.PARTIAL, RO. -/
def glbBadaccPartial : Field := ⟨0, 0x060, 2, 1, 0x0, .ro, 0, 0x1⟩
/-- GLB.BADACC.WRITE, RO. -/
def glbBadaccWrite : Field := ⟨0, 0x060, 3, 1, 0x0, .ro, 0, 0x1⟩
/-- GLB.BADACC.SOURCE, RO. -/
def glbBadaccSource : Field := ⟨0, 0x060, 4, 2, 0x0, .ro, 0, 0x3⟩
/-- GLB.BADACC.BARRIER, RO. -/
def glbBadaccBarrier : Field := ⟨0, 0x060, 6, 8, 0x0, .ro, 0, 0xFF⟩
/-- GLB.PWRCYC.COUNT, RO. -/
def glbPwrcycCount : Field := ⟨0, 0x064, 0, 16, 0x0, .ro, 0, 0xFFFF⟩
/-- GLB.OPSEC.SECONDS, RO. -/
def glbOpsecSeconds : Field := ⟨0, 0x068, 0, 32, 0x0, .ro, 0, 0xFFFFFFFF⟩
/-- GLB.SCRATCH.SCRATCH, RW. -/
def glbScratchScratch : Field := ⟨0, 0x06C, 0, 32, 0x0, .rw, 0, 0xFFFFFFFF⟩
/-- TIL.RUNCTL.START, WO. -/
def tilRunctlStart : Field := ⟨16, 0x040, 0, 1, 0x0, .wo, 0, 0x1⟩
/-- TIL.RUNCTL.STOP, WO. -/
def tilRunctlStop : Field := ⟨16, 0x040, 1, 1, 0x0, .wo, 0, 0x1⟩
/-- TIL.RUNCTL.RESUME, WO. -/
def tilRunctlResume : Field := ⟨16, 0x040, 2, 1, 0x0, .wo, 0, 0x1⟩
/-- TIL.RUNCTL.ENTRY, RW. -/
def tilRunctlEntry : Field := ⟨16, 0x040, 16, 14, 0x0, .rw, 0, 0x3FFF⟩
/-- TIL.WDOG.MS, RW. -/
def tilWdogMs : Field := ⟨16, 0x058, 0, 16, 0x7D0, .rw, 0, 0xFFFF⟩
/-- TIL.OVERRUNCNT.COUNT, RC. -/
def tilOverruncntCount : Field := ⟨16, 0x05C, 0, 32, 0x0, .rc, 0, 0xFFFFFFFF⟩
/-- TIL.MXBUSY.COUNT, RC. -/
def tilMxbusyCount : Field := ⟨16, 0x084, 0, 32, 0x0, .rc, 0, 0xFFFFFFFF⟩
/-- TIL.MXSPEC.NANCNT, RC. -/
def tilMxspecNancnt : Field := ⟨16, 0x088, 0, 16, 0x0, .rc, 0, 0xFFFF⟩
/-- TIL.MXSPEC.OVFCNT, RC. -/
def tilMxspecOvfcnt : Field := ⟨16, 0x088, 16, 16, 0x0, .rc, 0, 0xFFFF⟩
/-- TIL.ACCDBG_CTL.ROW, RWL. -/
def tilAccdbgCtlRow : Field := ⟨16, 0x08C, 0, 8, 0x0, .rwl, 0, 0xFF⟩
/-- TIL.ACCDBG_CTL.CELL, RWL. -/
def tilAccdbgCtlCell : Field := ⟨16, 0x08C, 8, 12, 0x0, .rwl, 0, 0xFFF⟩
/-- TIL.ACCDBG_CTL.PART, RWL. -/
def tilAccdbgCtlPart : Field := ⟨16, 0x08C, 20, 1, 0x0, .rwl, 0, 0x1⟩
/-- TIL.ACCDBG_CTL.SRC, RWL. -/
def tilAccdbgCtlSrc : Field := ⟨16, 0x08C, 21, 2, 0x0, .rwl, 0, 0x3⟩
/-- TIL.ACCDBG_CTL.MODE, RWL. -/
def tilAccdbgCtlMode : Field := ⟨16, 0x08C, 23, 1, 0x0, .rwl, 0, 0x1⟩
/-- TIL.ACCDBG_CTL.GO, WO. -/
def tilAccdbgCtlGo : Field := ⟨16, 0x08C, 31, 1, 0x0, .wo, 0, 0x1⟩
/-- TIL.ACCDBG_DATA_LO.DATA_LO, RO. -/
def tilAccdbgDataLoDataLo : Field := ⟨16, 0x090, 0, 32, 0x0, .ro, 0, 0xFFFFFFFF⟩
/-- TIL.ACCDBG_DATA_HI.DATA_HI, RO. -/
def tilAccdbgDataHiDataHi : Field := ⟨16, 0x094, 0, 32, 0x0, .ro, 0, 0xFFFFFFFF⟩
/-- TIL.ACCDBG_STAT.DONE, RO. -/
def tilAccdbgStatDone : Field := ⟨16, 0x098, 0, 1, 0x0, .ro, 0, 0x1⟩
/-- TIL.ACCDBG_STAT.NAN, RO. -/
def tilAccdbgStatNan : Field := ⟨16, 0x098, 1, 1, 0x0, .ro, 0, 0x1⟩
/-- TIL.ACCDBG_STAT.PINF, RO. -/
def tilAccdbgStatPinf : Field := ⟨16, 0x098, 2, 1, 0x0, .ro, 0, 0x1⟩
/-- TIL.ACCDBG_STAT.NINF, RO. -/
def tilAccdbgStatNinf : Field := ⟨16, 0x098, 3, 1, 0x0, .ro, 0, 0x1⟩
/-- TIL.ACCDBG_STAT.POISON, RO. -/
def tilAccdbgStatPoison : Field := ⟨16, 0x098, 4, 1, 0x0, .ro, 0, 0x1⟩
/-- TIL.ACCDBG_STAT.INVALID, RO. -/
def tilAccdbgStatInvalid : Field := ⟨16, 0x098, 5, 1, 0x0, .ro, 0, 0x1⟩
/-- TIL.VXBUSY.COUNT, RC. -/
def tilVxbusyCount : Field := ⟨16, 0x0A4, 0, 32, 0x0, .rc, 0, 0xFFFFFFFF⟩
/-- TIL.VXSPEC.NANCNT, RC. -/
def tilVxspecNancnt : Field := ⟨16, 0x0A8, 0, 16, 0x0, .rc, 0, 0xFFFF⟩
/-- TIL.VXSPEC.OVFCNT, RC. -/
def tilVxspecOvfcnt : Field := ⟨16, 0x0A8, 16, 16, 0x0, .rc, 0, 0xFFFF⟩
/-- SLV.CAP.LANES, RO. -/
def slvCapLanes : Field := ⟨17, 0x040, 0, 5, 0x10, .ro, 0, 0x1F⟩
/-- SLV.CAP.SLOTS, RO. -/
def slvCapSlots : Field := ⟨17, 0x040, 8, 8, 0x4, .ro, 0, 0xFF⟩
/-- SLV.CAP.STORE_KIB, RO. -/
def slvCapStoreKib : Field := ⟨17, 0x040, 16, 16, 0x6000, .ro, 0, 0xFFFF⟩
/-- SLV.REG.DELTA, RW. -/
def slvRegDelta : Field := ⟨17, 0x048, 0, 11, 0x1A, .rw, 1, 0x3FE⟩
/-- SLV.REG.TINY, RW. -/
def slvRegTiny : Field := ⟨17, 0x048, 16, 11, 0x28, .rw, 1, 0x3FE⟩
/-- SLV.CYC.MISSLIM, RW. -/
def slvCycMisslim : Field := ⟨17, 0x04C, 0, 8, 0x4, .rw, 0, 0xFF⟩
/-- SLV.CYCCNT.COUNT, RC. -/
def slvCyccntCount : Field := ⟨17, 0x074, 0, 32, 0x0, .rc, 0, 0xFFFFFFFF⟩
/-- SLV.MISSCNT.COUNT, RC. -/
def slvMisscntCount : Field := ⟨17, 0x078, 0, 32, 0x0, .rc, 0, 0xFFFFFFFF⟩
/-- SLV.PIVCNT.ZERO, RC. -/
def slvPivcntZero : Field := ⟨17, 0x07C, 0, 16, 0x0, .rc, 0, 0xFFFF⟩
/-- SLV.PIVCNT.SMALL, RC. -/
def slvPivcntSmall : Field := ⟨17, 0x07C, 16, 16, 0x0, .rc, 0, 0xFFFF⟩
/-- SLV.PIVCNT2.OVERFLOW, RC. -/
def slvPivcnt2Overflow : Field := ⟨17, 0x080, 0, 16, 0x0, .rc, 0, 0xFFFF⟩
/-- SLV.PIVCNT2.NONFINITE, RC. -/
def slvPivcnt2Nonfinite : Field := ⟨17, 0x080, 16, 16, 0x0, .rc, 0, 0xFFFF⟩
/-- SLV.DELTAERR.BADPKT, RC. -/
def slvDeltaerrBadpkt : Field := ⟨17, 0x084, 0, 16, 0x0, .rc, 0, 0xFFFF⟩
/-- SLV.DELTAERR.DISCARDED, RC. -/
def slvDeltaerrDiscarded : Field := ⟨17, 0x084, 16, 16, 0x0, .rc, 0, 0xFFFF⟩
/-- SLV.LASTREC.TAG, RO. -/
def slvLastrecTag : Field := ⟨17, 0x088, 0, 16, 0x0, .ro, 0, 0xFFFF⟩
/-- SLV.LASTREC.RSTAT, RO. -/
def slvLastrecRstat : Field := ⟨17, 0x088, 16, 8, 0x0, .ro, 0, 0xFF⟩
/-- SLV.LASTREC.SI, RO. -/
def slvLastrecSi : Field := ⟨17, 0x088, 24, 5, 0x0, .ro, 0, 0x1F⟩
/-- SLV.LOADSTAT.STATUS, RO. -/
def slvLoadstatStatus : Field := ⟨17, 0x08C, 0, 8, 0x0, .ro, 0, 0xFF⟩
/-- SLV.LOADSTAT.SLOT, RO. -/
def slvLoadstatSlot : Field := ⟨17, 0x08C, 8, 2, 0x0, .ro, 0, 0x3⟩
/-- SLV.BUSY.COUNT, RC. -/
def slvBusyCount : Field := ⟨17, 0x090, 0, 32, 0x0, .rc, 0, 0xFFFFFFFF⟩
/-- CAD.CTL.RUN, RW. -/
def cadCtlRun : Field := ⟨6, 0x040, 0, 1, 0x0, .rw, 0, 0x1⟩
/-- CAD.CTL.LOAD, WO. -/
def cadCtlLoad : Field := ⟨6, 0x040, 1, 1, 0x0, .wo, 0, 0x1⟩
/-- CAD.PERIOD.NS, RW. -/
def cadPeriodNs : Field := ⟨6, 0x044, 0, 20, 0x7D0, .rw, 50, 0xF4240⟩
/-- CAD.COUNTSET_LO.SET_LO, RW. -/
def cadCountsetLoSetLo : Field := ⟨6, 0x050, 0, 32, 0x0, .rw, 0, 0xFFFFFFFF⟩
/-- CAD.COUNTSET_HI.SET_HI, RW. -/
def cadCountsetHiSetHi : Field := ⟨6, 0x054, 0, 16, 0x0, .rw, 0, 0xFFFF⟩
/-- CAD.STAT.RUNNING, RO. -/
def cadStatRunning : Field := ⟨6, 0x058, 0, 1, 0x0, .ro, 0, 0x1⟩
/-- CAD.STAT.SKEWERR, W1C. -/
def cadStatSkewerr : Field := ⟨6, 0x058, 1, 1, 0x0, .w1c, 0, 0x1⟩
/-- CAD.STAT.CALIB, RO. -/
def cadStatCalib : Field := ⟨6, 0x058, 2, 1, 0x0, .ro, 0, 0x1⟩
/-- CAD.STAT.PERPEND, RO. -/
def cadStatPerpend : Field := ⟨6, 0x058, 3, 1, 0x0, .ro, 0, 0x1⟩
/-- CAD.SKEW.MAXSKEW, RO. -/
def cadSkewMaxskew : Field := ⟨6, 0x05C, 0, 8, 0x0, .ro, 0, 0xFF⟩
/-- CAD.SKEW.CALCNT, RO. -/
def cadSkewCalcnt : Field := ⟨6, 0x05C, 16, 16, 0x0, .ro, 0, 0xFFFF⟩
/-- SYN.BARSEL.BARRIER, RW. -/
def synBarselBarrier : Field := ⟨14, 0x040, 0, 8, 0x0, .rw, 0, 0xFF⟩
/-- SYN.ARRIVE.BARRIER, WO. -/
def synArriveBarrier : Field := ⟨14, 0x04C, 0, 8, 0x0, .wo, 0, 0xFF⟩
/-- SYN.BARTMO.TMO, RW. -/
def synBartmoTmo : Field := ⟨14, 0x050, 0, 16, 0x2710, .rw, 0, 0xFFFF⟩
/-- SYN.BARRESET.RESET, WO. -/
def synBarresetReset : Field := ⟨14, 0x054, 0, 1, 0x0, .wo, 0, 0x1⟩
/-- STK.STAT.HEALTH, RO. -/
def stkStatHealth : Field := ⟨18, 0x040, 0, 2, 0x0, .ro, 0, 0x3⟩
/-- STK.STAT.TRAINED, RO. -/
def stkStatTrained : Field := ⟨18, 0x040, 2, 1, 0x0, .ro, 0, 0x1⟩
/-- STK.STAT.SPARE_LOW, RO. -/
def stkStatSpareLow : Field := ⟨18, 0x040, 3, 1, 0x0, .ro, 0, 0x1⟩
/-- STK.STAT.THROTTLE, RO. -/
def stkStatThrottle : Field := ⟨18, 0x040, 4, 1, 0x0, .ro, 0, 0x1⟩
/-- STK.STAT.TEST, RO. -/
def stkStatTest : Field := ⟨18, 0x040, 5, 2, 0x0, .ro, 0, 0x3⟩
/-- STK.ECCCTL.TCORR, RW. -/
def stkEccctlTcorr : Field := ⟨18, 0x044, 0, 3, 0x4, .rw, 0, 0x4⟩
/-- STK.CECNT.COUNT, RC. -/
def stkCecntCount : Field := ⟨18, 0x048, 0, 32, 0x0, .rc, 0, 0xFFFFFFFF⟩
/-- STK.UECNT.COUNT, RC. -/
def stkUecntCount : Field := ⟨18, 0x04C, 0, 32, 0x0, .rc, 0, 0xFFFFFFFF⟩
/-- STK.SPARE.FREE, RO. -/
def stkSpareFree : Field := ⟨18, 0x050, 0, 16, 0x4000, .ro, 0, 0xFFFF⟩
/-- STK.SPARE.REPAIRED, RO. -/
def stkSpareRepaired : Field := ⟨18, 0x050, 16, 16, 0x0, .ro, 0, 0xFFFF⟩
/-- STK.REPAIR.THRESH, RW. -/
def stkRepairThresh : Field := ⟨18, 0x054, 0, 8, 0x4, .rw, 1, 0xFF⟩
/-- STK.WEAR.THRESH, RW. -/
def stkWearThresh : Field := ⟨18, 0x058, 0, 16, 0x800, .rw, 256, 0xFFFF⟩
/-- STK.WEARCNT.COUNT, RC. -/
def stkWearcntCount : Field := ⟨18, 0x05C, 0, 32, 0x0, .rc, 0, 0xFFFFFFFF⟩
/-- STK.REFBIN.B0ROWS, RO. -/
def stkRefbinB0rows : Field := ⟨18, 0x060, 0, 16, 0x0, .ro, 0, 0xFFFF⟩
/-- STK.REFBIN.AGE, RO. -/
def stkRefbinAge : Field := ⟨18, 0x060, 16, 8, 0x0, .ro, 0, 0xFF⟩
/-- STK.ADDCNT.COUNT, RC. -/
def stkAddcntCount : Field := ⟨18, 0x064, 0, 32, 0x0, .rc, 0, 0xFFFFFFFF⟩
/-- STK.UEADDR_LO.OFF_LO, RO. -/
def stkUeaddrLoOffLo : Field := ⟨18, 0x068, 6, 26, 0x0, .ro, 0, 0x3FFFFFF⟩
/-- STK.UEADDR_HI.OFF_HI, RO. -/
def stkUeaddrHiOffHi : Field := ⟨18, 0x06C, 0, 4, 0x0, .ro, 0, 0xF⟩
/-- STK.UEADDR_HI.VALID, W1C. -/
def stkUeaddrHiValid : Field := ⟨18, 0x06C, 31, 1, 0x0, .w1c, 0, 0x1⟩
/-- STK.TEMP.DEGC, RO. -/
def stkTempDegc : Field := ⟨18, 0x070, 0, 8, 0x0, .ro, 0, 0xFF⟩
/-- STK.BKGUSE.SHARE, RO. -/
def stkBkguseShare : Field := ⟨18, 0x074, 0, 16, 0x0, .ro, 0, 0xFFFF⟩
/-- DOC.CTL.PATROL_EN, RW. -/
def docCtlPatrolEn : Field := ⟨13, 0x040, 0, 1, 0x1, .rw, 0, 0x1⟩
/-- DOC.CTL.DEMAND_EN, RW. -/
def docCtlDemandEn : Field := ⟨13, 0x040, 1, 1, 0x1, .rw, 0, 0x1⟩
/-- DOC.PERIOD.HOURS, RW. -/
def docPeriodHours : Field := ⟨13, 0x044, 0, 8, 0x18, .rw, 1, 0xA8⟩
/-- DOC.STAT.BEHIND, W1C. -/
def docStatBehind : Field := ⟨13, 0x048, 0, 1, 0x0, .w1c, 0, 0x1⟩
/-- DOC.STAT.PATROL_ACTIVE, RO. -/
def docStatPatrolActive : Field := ⟨13, 0x048, 1, 1, 0x0, .ro, 0, 0x1⟩
/-- DOC.STAT.BOOSTED, RO. -/
def docStatBoosted : Field := ⟨13, 0x048, 2, 1, 0x0, .ro, 0, 0x1⟩
/-- DOC.PROGRESS.PERMILLE, RO. -/
def docProgressPermille : Field := ⟨13, 0x04C, 0, 16, 0x0, .ro, 0, 0xFFFF⟩
/-- DOC.PROGRESS.PASSES, RO. -/
def docProgressPasses : Field := ⟨13, 0x04C, 16, 16, 0x0, .ro, 0, 0xFFFF⟩
/-- DOC.DEMANDCNT.COUNT, RC. -/
def docDemandcntCount : Field := ⟨13, 0x050, 0, 32, 0x0, .rc, 0, 0xFFFFFFFF⟩
/-- DOC.DROPCNT.COUNT, RC. -/
def docDropcntCount : Field := ⟨13, 0x054, 0, 32, 0x0, .rc, 0, 0xFFFFFFFF⟩
/-- DOC.PATROLCE.COUNT, RC. -/
def docPatrolceCount : Field := ⟨13, 0x058, 0, 32, 0x0, .rc, 0, 0xFFFFFFFF⟩
/-- DOC.PATROLUE.COUNT, RC. -/
def docPatrolueCount : Field := ⟨13, 0x05C, 0, 32, 0x0, .rc, 0, 0xFFFFFFFF⟩
/-- DKL.LASTSTAT.CODE, RO. -/
def dklLaststatCode : Field := ⟨7, 0x044, 0, 8, 0x0, .ro, 0, 0xFF⟩
/-- DKL.LASTSTAT.DETAIL, RO. -/
def dklLaststatDetail : Field := ⟨7, 0x044, 8, 24, 0x0, .ro, 0, 0xFFFFFF⟩
/-- DKL.HMGEN.GEN, RO. -/
def dklHmgenGen : Field := ⟨7, 0x048, 0, 32, 0x0, .ro, 0, 0xFFFFFFFF⟩
/-- DKL.PLGEN.GEN, RO. -/
def dklPlgenGen : Field := ⟨7, 0x04C, 0, 32, 0x0, .ro, 0, 0xFFFFFFFF⟩
/-- DKL.RESERVE.UNITS, RO. -/
def dklReserveUnits : Field := ⟨7, 0x050, 0, 21, 0x0, .ro, 0, 0x1FFFFF⟩
/-- DKL.TSEL.TILE, RW. -/
def dklTselTile : Field := ⟨7, 0x058, 0, 6, 0x0, .rw, 0, 0x3F⟩
/-- DKL.SSEL.SI, RW. -/
def dklSselSi : Field := ⟨7, 0x060, 0, 5, 0x0, .rw, 0, 0x1F⟩
/-- DKL.RSEL.HANDLE, RW. -/
def dklRselHandle : Field := ⟨7, 0x068, 0, 12, 0x0, .rw, 0, 0xFFF⟩
/-- DKL.HSEL.INDEX, RW. -/
def dklHselIndex : Field := ⟨7, 0x08C, 0, 10, 0x0, .rw, 0, 0x3FF⟩
/-- DKL.MIGCTL.RATE, RW. -/
def dklMigctlRate : Field := ⟨7, 0x094, 0, 16, 0xC8, .rw, 1, 0xFFFF⟩
/-- DKL.REDRAW.LAYOUT, WO. -/
def dklRedrawLayout : Field := ⟨7, 0x09C, 0, 2, 0x0, .wo, 0, 0x3⟩
/-- DKL.REDRAW.GO, WO. -/
def dklRedrawGo : Field := ⟨7, 0x09C, 31, 1, 0x0, .wo, 0, 0x1⟩
/-- DKL.REMAPCNT.TILES, RC. -/
def dklRemapcntTiles : Field := ⟨7, 0x0A0, 0, 16, 0x0, .rc, 0, 0xFFFF⟩
/-- DKL.REMAPCNT.SOLVERS, RC. -/
def dklRemapcntSolvers : Field := ⟨7, 0x0A0, 16, 16, 0x0, .rc, 0, 0xFFFF⟩
/-- DKL.MIGCNT.COUNT, RC. -/
def dklMigcntCount : Field := ⟨7, 0x0A4, 0, 32, 0x0, .rc, 0, 0xFFFFFFFF⟩
/-- STP.CTL.SPOIL, WO. -/
def stpCtlSpoil : Field := ⟨11, 0x040, 0, 1, 0x0, .wo, 0, 0x1⟩
/-- STP.CTL.ACK, WO. -/
def stpCtlAck : Field := ⟨11, 0x040, 1, 1, 0x0, .wo, 0, 0x1⟩
/-- STP.STEP.CUR, RO. -/
def stpStepCur : Field := ⟨11, 0x048, 0, 32, 0x0, .ro, 0, 0xFFFFFFFF⟩
/-- STP.NEXT.STEP, RW. -/
def stpNextStep : Field := ⟨11, 0x04C, 0, 32, 0x0, .rw, 0, 0xFFFFFFFF⟩
/-- STP.LASTCMT.STEP, RO. -/
def stpLastcmtStep : Field := ⟨11, 0x050, 0, 32, 0xFFFFFFFF, .ro, 0, 0xFFFFFFFF⟩
/-- STP.BANK.SEL, RO. -/
def stpBankSel : Field := ⟨11, 0x054, 0, 1, 0x0, .ro, 0, 0x1⟩
/-- STP.PART_LO.PART, RW. -/
def stpPartLoPart : Field := ⟨11, 0x058, 0, 32, 0x0, .rw, 0, 0xFFFFFFFF⟩
/-- STP.PART_HI.PART, RW. -/
def stpPartHiPart : Field := ⟨11, 0x05C, 0, 32, 0x0, .rw, 0, 0xFFFFFFFF⟩
/-- STP.CMTTMO.MS, RW. -/
def stpCmttmoMs : Field := ⟨11, 0x060, 0, 16, 0x2710, .rw, 0, 0xFFFF⟩
/-- STP.CMTGRP.GROUP, RW. -/
def stpCmtgrpGroup : Field := ⟨11, 0x064, 0, 8, 0x0, .rw, 0, 0xFF⟩
/-- STP.CMTGRP.EN, RW. -/
def stpCmtgrpEn : Field := ⟨11, 0x064, 8, 1, 0x0, .rw, 0, 0x1⟩
/-- STP.PHASEBAR.BARRIER, RW. -/
def stpPhasebarBarrier : Field := ⟨11, 0x068, 0, 8, 0x0, .rw, 0, 0xFF⟩
/-- STP.PHASEBAR.EN, RW. -/
def stpPhasebarEn : Field := ⟨11, 0x068, 8, 1, 0x0, .rw, 0, 0x1⟩
/-- STP.RECREG.HANDLE, RW. -/
def stpRecregHandle : Field := ⟨11, 0x06C, 0, 12, 0x0, .rw, 0, 0xFFF⟩
/-- STP.RECREG.NREC, RW. -/
def stpRecregNrec : Field := ⟨11, 0x06C, 16, 16, 0x0, .rw, 0, 0xFFFF⟩
/-- STP.RECHEAD.COUNT, RO. -/
def stpRecheadCount : Field := ⟨11, 0x070, 0, 32, 0x0, .ro, 0, 0xFFFFFFFF⟩
/-- STP.BROKEREG.HANDLE, RW. -/
def stpBrokeregHandle : Field := ⟨11, 0x074, 0, 12, 0x0, .rw, 0, 0xFFF⟩
/-- STP.BROKEREG.SLOT4K, RW. -/
def stpBrokeregSlot4k : Field := ⟨11, 0x074, 16, 12, 0x11, .rw, 0, 0xFFF⟩
/-- STP.BROKEREG.BAD, RO. -/
def stpBrokeregBad : Field := ⟨11, 0x074, 30, 1, 0x0, .ro, 0, 0x1⟩
/-- STP.BROKEREG.EN, RW. -/
def stpBrokeregEn : Field := ⟨11, 0x074, 31, 1, 0x0, .rw, 0, 0x1⟩
/-- STP.LEDGER.LIVE, RO. -/
def stpLedgerLive : Field := ⟨11, 0x078, 0, 16, 0x0, .ro, 0, 0xFFFF⟩
/-- STP.LEDGER.CAP, RO. -/
def stpLedgerCap : Field := ⟨11, 0x078, 16, 16, 0x0, .ro, 0, 0xFFFF⟩
/-- STP.LEDGERDROP.FULL, RC. -/
def stpLedgerdropFull : Field := ⟨11, 0x07C, 0, 16, 0x0, .rc, 0, 0xFFFF⟩
/-- STP.LEDGERDROP.AGED, RC. -/
def stpLedgerdropAged : Field := ⟨11, 0x07C, 16, 16, 0x0, .rc, 0, 0xFFFF⟩
/-- STP.SPOILCNT.COUNT, RC. -/
def stpSpoilcntCount : Field := ⟨11, 0x080, 0, 32, 0x0, .rc, 0, 0xFFFFFFFF⟩
/-- STP.CQSEL.QUEUE, RW. -/
def stpCqselQueue : Field := ⟨11, 0x084, 0, 6, 0x0, .rw, 0, 0x3F⟩
/-- STP.CQCFG.EN, RW. -/
def stpCqcfgEn : Field := ⟨11, 0x088, 0, 1, 0x0, .rw, 0, 0x1⟩
/-- STP.CQCFG.KIND, RW. -/
def stpCqcfgKind : Field := ⟨11, 0x088, 1, 2, 0x0, .rw, 0, 0x3⟩
/-- STP.CQCFG.NSLOT_M1, RW. -/
def stpCqcfgNslotM1 : Field := ⟨11, 0x088, 8, 8, 0x0, .rw, 0, 0xFF⟩
/-- STP.CQCFG.SLOT4K, RW. -/
def stpCqcfgSlot4k : Field := ⟨11, 0x088, 16, 12, 0x0, .rw, 0, 0xFFF⟩
/-- STP.CQREG.REGION, RW. -/
def stpCqregRegion : Field := ⟨11, 0x08C, 0, 12, 0x0, .rw, 0, 0xFFF⟩
/-- STP.CQREG.CHANNEL, RW. -/
def stpCqregChannel : Field := ⟨11, 0x08C, 16, 12, 0x0, .rw, 0, 0xFFF⟩
/-- STP.CQPEER.PEERQ, RW. -/
def stpCqpeerPeerq : Field := ⟨11, 0x090, 0, 6, 0x0, .rw, 0, 0x3F⟩
/-- STP.CQERRCNT.COUNT, RC. -/
def stpCqerrcntCount : Field := ⟨11, 0x098, 0, 32, 0x0, .rc, 0, 0xFFFFFFFF⟩
/-- STP.BADPOST.COUNT, RC. -/
def stpBadpostCount : Field := ⟨11, 0x09C, 0, 16, 0x0, .rc, 0, 0xFFFF⟩
/-- BZP.CTL.TRAIN_EN, RW. -/
def bzpCtlTrainEn : Field := ⟨20, 0x040, 0, 1, 0x1, .rw, 0, 0x1⟩
/-- BZP.CTL.RETRAIN, WO. -/
def bzpCtlRetrain : Field := ⟨20, 0x040, 1, 1, 0x0, .wo, 0, 0x1⟩
/-- BZP.CTL.MAXWIDTH, RW. -/
def bzpCtlMaxwidth : Field := ⟨20, 0x040, 2, 2, 0x2, .rw, 0, 0x2⟩
/-- BZP.ARB.COL_WT, RW. -/
def bzpArbColWt : Field := ⟨20, 0x04C, 0, 8, 0x4, .rw, 0, 0xFF⟩
/-- BZP.ARB.DAT_WT, RW. -/
def bzpArbDatWt : Field := ⟨20, 0x04C, 8, 8, 0x4, .rw, 0, 0xFF⟩
/-- BZP.ARB.BKG_WT, RW. -/
def bzpArbBkgWt : Field := ⟨20, 0x04C, 16, 8, 0x1, .rw, 0, 0xFF⟩
/-- BZP.RETRY.INTERVAL, RW. -/
def bzpRetryInterval : Field := ⟨20, 0x050, 0, 16, 0x3E8, .rw, 1, 0xFFFF⟩
/-- BZP.RETRY.MAXMS, RW. -/
def bzpRetryMaxms : Field := ⟨20, 0x050, 16, 16, 0xEA60, .rw, 0, 0xFFFF⟩
/-- BZP.LLTMO.UNITS, RW. -/
def bzpLltmoUnits : Field := ⟨20, 0x054, 0, 16, 0x64, .rw, 1, 0xFFFF⟩
/-- BZP.FECCORR.COUNT, RC. -/
def bzpFeccorrCount : Field := ⟨20, 0x058, 0, 32, 0x0, .rc, 0, 0xFFFFFFFF⟩
/-- BZP.FECUNC.COUNT, RC. -/
def bzpFecuncCount : Field := ⟨20, 0x05C, 0, 32, 0x0, .rc, 0, 0xFFFFFFFF⟩
/-- BZP.REPLAYCNT.COUNT, RC. -/
def bzpReplaycntCount : Field := ⟨20, 0x060, 0, 32, 0x0, .rc, 0, 0xFFFFFFFF⟩
/-- BZP.TRAINCNT.OK, RC. -/
def bzpTraincntOk : Field := ⟨20, 0x064, 0, 16, 0x0, .rc, 0, 0xFFFF⟩
/-- BZP.TRAINCNT.FAIL, RC. -/
def bzpTraincntFail : Field := ⟨20, 0x064, 16, 16, 0x0, .rc, 0, 0xFFFF⟩
/-- BZP.TTLDROP.TTL, RC. -/
def bzpTtldropTtl : Field := ⟨20, 0x06C, 0, 16, 0x0, .rc, 0, 0xFFFF⟩
/-- BZP.TTLDROP.NOROUTE, RC. -/
def bzpTtldropNoroute : Field := ⟨20, 0x06C, 16, 16, 0x0, .rc, 0, 0xFFFF⟩
/-- BZE.CHSEL.CHANNEL, RW. -/
def bzeChselChannel : Field := ⟨21, 0x044, 0, 12, 0x0, .rw, 0, 0xFFF⟩
/-- BZE.CHFLUSH.GO, WO. -/
def bzeChflushGo : Field := ⟨21, 0x054, 0, 1, 0x0, .wo, 0, 0x1⟩
/-- BZE.CHRTO.US, RW. -/
def bzeChrtoUs : Field := ⟨21, 0x058, 0, 16, 0x64, .rw, 1, 0xFFFF⟩
/-- BZE.OPENTMO.MS, RW. -/
def bzeOpentmoMs : Field := ⟨21, 0x05C, 0, 16, 0x3E8, .rw, 1, 0xFFFF⟩
/-- BZE.SLICECNT.COUNT, RC. -/
def bzeSlicecntCount : Field := ⟨21, 0x060, 0, 32, 0x0, .rc, 0, 0xFFFFFFFF⟩
/-- BZE.RETXCNT.COUNT, RC. -/
def bzeRetxcntCount : Field := ⟨21, 0x064, 0, 32, 0x0, .rc, 0, 0xFFFFFFFF⟩
/-- BZE.REFUSECNT.SENT, RC. -/
def bzeRefusecntSent : Field := ⟨21, 0x068, 0, 16, 0x0, .rc, 0, 0xFFFF⟩
/-- BZE.REFUSECNT.RCVD, RC. -/
def bzeRefusecntRcvd : Field := ⟨21, 0x068, 16, 16, 0x0, .rc, 0, 0xFFFF⟩
/-- BZE.DUPCNT.COUNT, RC. -/
def bzeDupcntCount : Field := ⟨21, 0x06C, 0, 32, 0x0, .rc, 0, 0xFFFFFFFF⟩
/-- BZE.BADPKT.COUNT, RC. -/
def bzeBadpktCount : Field := ⟨21, 0x070, 0, 32, 0x0, .rc, 0, 0xFFFFFFFF⟩
/-- BZE.RESETDROP.COUNT, RC. -/
def bzeResetdropCount : Field := ⟨21, 0x074, 0, 32, 0x0, .rc, 0, 0xFFFFFFFF⟩
/-- BZE.DEVID.ID, RW. -/
def bzeDevidId : Field := ⟨21, 0x100, 0, 20, 0xFFFFF, .rw, 0, 0xFFFFF⟩
/-- BZE.RTSEL.INDEX, RW. -/
def bzeRtselIndex : Field := ⟨21, 0x104, 0, 10, 0x0, .rw, 0, 0x3FF⟩
/-- BZE.RTSEL.LEVEL, RW. -/
def bzeRtselLevel : Field := ⟨21, 0x104, 10, 1, 0x0, .rw, 0, 0x1⟩
/-- BZE.RTENT.PORTS, RW. -/
def bzeRtentPorts : Field := ⟨21, 0x108, 0, 18, 0x0, .rw, 0, 0x3FFFF⟩
/-- BZE.RTENT.VALID, RW. -/
def bzeRtentValid : Field := ⟨21, 0x108, 31, 1, 0x0, .rw, 0, 0x1⟩
/-- BZE.TTL.INIT, RW. -/
def bzeTtlInit : Field := ⟨21, 0x10C, 0, 6, 0x10, .rw, 1, 0x3F⟩
/-- BZE.NOROUTE.COUNT, RC. -/
def bzeNorouteCount : Field := ⟨21, 0x110, 0, 32, 0x0, .rc, 0, 0xFFFFFFFF⟩
/-- COL.GRPSEL.GROUP, RW. -/
def colGrpselGroup : Field := ⟨10, 0x044, 0, 8, 0x0, .rw, 0, 0xFF⟩
/-- COL.GRPCFG.NM1, RW. -/
def colGrpcfgNm1 : Field := ⟨10, 0x048, 0, 16, 0x0, .rw, 0, 0xFFFF⟩
/-- COL.GRPCFG.VALID, RW. -/
def colGrpcfgValid : Field := ⟨10, 0x048, 16, 1, 0x0, .rw, 0, 0x1⟩
/-- COL.GRPRANK.RANK, RW. -/
def colGrprankRank : Field := ⟨10, 0x04C, 0, 16, 0x0, .rw, 0, 0xFFFF⟩
/-- COL.GRPTAG.GTAG, RW. -/
def colGrptagGtag : Field := ⟨10, 0x050, 0, 32, 0x0, .rw, 0, 0xFFFFFFFF⟩
/-- COL.GRPREG.HANDLE, RW. -/
def colGrpregHandle : Field := ⟨10, 0x054, 0, 12, 0x0, .rw, 0, 0xFFF⟩
/-- COL.GRPOFF_LO.OFF_LO, RW. -/
def colGrpoffLoOffLo : Field := ⟨10, 0x058, 12, 20, 0x0, .rw, 0, 0xFFFFF⟩
/-- COL.GRPOFF_HI.OFF_HI, RW. -/
def colGrpoffHiOffHi : Field := ⟨10, 0x05C, 0, 16, 0x0, .rw, 0, 0xFFFF⟩
/-- COL.GRPBANK.NEXTBANK, RW. -/
def colGrpbankNextbank : Field := ⟨10, 0x060, 0, 2, 0x0, .rw, 0, 0x3⟩
/-- COL.GRPBANK.LASTBANK, RO. -/
def colGrpbankLastbank : Field := ⟨10, 0x060, 2, 2, 0x0, .ro, 0, 0x3⟩
/-- COL.DESCREG.HANDLE, RW. -/
def colDescregHandle : Field := ⟨10, 0x064, 0, 12, 0x0, .rw, 0, 0xFFF⟩
/-- COL.DESCOFF_LO.OFF_LO, RW. -/
def colDescoffLoOffLo : Field := ⟨10, 0x068, 7, 25, 0x0, .rw, 0, 0x1FFFFFF⟩
/-- COL.DESCOFF_HI.OFF_HI, RW. -/
def colDescoffHiOffHi : Field := ⟨10, 0x06C, 0, 16, 0x0, .rw, 0, 0xFFFF⟩
/-- COL.TMO.MS, RW. -/
def colTmoMs : Field := ⟨10, 0x070, 0, 16, 0x1388, .rw, 1, 0xFFFF⟩
/-- COL.BROKE.MAXAGE, RW. -/
def colBrokeMaxage : Field := ⟨10, 0x074, 0, 8, 0x2, .rw, 1, 0xFF⟩
/-- COL.HOSTABORT.COLID, WO. -/
def colHostabortColid : Field := ⟨10, 0x078, 0, 32, 0x0, .wo, 0, 0xFFFFFFFF⟩
/-- COL.LASTERR.CODE, RO. -/
def colLasterrCode : Field := ⟨10, 0x07C, 0, 8, 0x0, .ro, 0, 0xFF⟩
/-- COL.LASTERR.NOT_AGREED, RO. -/
def colLasterrNotAgreed : Field := ⟨10, 0x07C, 8, 1, 0x0, .ro, 0, 0x1⟩
/-- COL.LASTERRID.COLID, RO. -/
def colLasterridColid : Field := ⟨10, 0x080, 0, 32, 0x0, .ro, 0, 0xFFFFFFFF⟩
/-- COL.LASTERRRANK.RANK, RO. -/
def colLasterrrankRank : Field := ⟨10, 0x084, 0, 32, 0x0, .ro, 0, 0xFFFFFFFF⟩
/-- COL.LASTERRCHUNK.CHUNK, RO. -/
def colLasterrchunkChunk : Field := ⟨10, 0x088, 0, 32, 0x0, .ro, 0, 0xFFFFFFFF⟩
/-- COL.COMMITCNT.COUNT, RC. -/
def colCommitcntCount : Field := ⟨10, 0x08C, 0, 32, 0x0, .rc, 0, 0xFFFFFFFF⟩
/-- COL.ABORTCNT.COUNT, RC. -/
def colAbortcntCount : Field := ⟨10, 0x090, 0, 32, 0x0, .rc, 0, 0xFFFFFFFF⟩
/-- COL.CRCERR.COUNT, RC. -/
def colCrcerrCount : Field := ⟨10, 0x094, 0, 32, 0x0, .rc, 0, 0xFFFFFFFF⟩
/-- COL.EXCLCNT.EXCL, RC. -/
def colExclcntExcl : Field := ⟨10, 0x098, 0, 16, 0x0, .rc, 0, 0xFFFF⟩
/-- COL.EXCLCNT.LATE, RC. -/
def colExclcntLate : Field := ⟨10, 0x098, 16, 16, 0x0, .rc, 0, 0xFFFF⟩
/-- COL.FOLDCNT.FOLDED, RC. -/
def colFoldcntFolded : Field := ⟨10, 0x09C, 0, 16, 0x0, .rc, 0, 0xFFFF⟩
/-- COL.FOLDCNT.DROP, RC. -/
def colFoldcntDrop : Field := ⟨10, 0x09C, 16, 16, 0x0, .rc, 0, 0xFFFF⟩
/-- COL.BADPOST.COUNT, RC. -/
def colBadpostCount : Field := ⟨10, 0x0A0, 0, 16, 0x0, .rc, 0, 0xFFFF⟩
/-- COL.BADPKT.COUNT, RC. -/
def colBadpktCount : Field := ⟨10, 0x0A4, 0, 32, 0x0, .rc, 0, 0xFFFFFFFF⟩
/-- HBX.RINGSEL.RING, RW. -/
def hbxRingselRing : Field := ⟨8, 0x040, 0, 6, 0x0, .rw, 0, 0x3F⟩
/-- HBX.SQBASE_LO.BASE, RW. -/
def hbxSqbaseLoBase : Field := ⟨8, 0x044, 12, 20, 0x0, .rw, 0, 0xFFFFF⟩
/-- HBX.SQBASE_HI.BASE, RW. -/
def hbxSqbaseHiBase : Field := ⟨8, 0x048, 0, 32, 0x0, .rw, 0, 0xFFFFFFFF⟩
/-- HBX.SQCFG.EN, RW. -/
def hbxSqcfgEn : Field := ⟨8, 0x04C, 0, 1, 0x0, .rw, 0, 0x1⟩
/-- HBX.SQCFG.LOG2SIZE, RW. -/
def hbxSqcfgLog2size : Field := ⟨8, 0x04C, 1, 4, 0x4, .rw, 4, 0xF⟩
/-- HBX.SQCFG.CQ, RW. -/
def hbxSqcfgCq : Field := ⟨8, 0x04C, 8, 6, 0x0, .rw, 0, 0x3F⟩
/-- HBX.CQBASE_LO.BASE, RW. -/
def hbxCqbaseLoBase : Field := ⟨8, 0x054, 12, 20, 0x0, .rw, 0, 0xFFFFF⟩
/-- HBX.CQBASE_HI.BASE, RW. -/
def hbxCqbaseHiBase : Field := ⟨8, 0x058, 0, 32, 0x0, .rw, 0, 0xFFFFFFFF⟩
/-- HBX.CQCFG.EN, RW. -/
def hbxCqcfgEn : Field := ⟨8, 0x05C, 0, 1, 0x0, .rw, 0, 0x1⟩
/-- HBX.CQCFG.LOG2SIZE, RW. -/
def hbxCqcfgLog2size : Field := ⟨8, 0x05C, 1, 4, 0x4, .rw, 4, 0xF⟩
/-- HBX.CQCFG.VECTOR, RW. -/
def hbxCqcfgVector : Field := ⟨8, 0x05C, 8, 8, 0x0, .rw, 0, 0xFF⟩
/-- HBX.CQCFG.COALCNT, RW. -/
def hbxCqcfgCoalcnt : Field := ⟨8, 0x05C, 16, 8, 0x0, .rw, 0, 0xFF⟩
/-- HBX.CQCOAL.US, RW. -/
def hbxCqcoalUs : Field := ⟨8, 0x060, 0, 16, 0xA, .rw, 1, 0xFFFF⟩
/-- HBX.UCQ.CQ, RW. -/
def hbxUcqCq : Field := ⟨8, 0x068, 0, 6, 0x0, .rw, 0, 0x3F⟩
/-- HBX.UCQ.EN, RW. -/
def hbxUcqEn : Field := ⟨8, 0x068, 7, 1, 0x0, .rw, 0, 0x1⟩
/-- HBX.ERRVEC.VECTOR, RW. -/
def hbxErrvecVector : Field := ⟨8, 0x06C, 0, 8, 0x0, .rw, 0, 0xFF⟩
/-- HBX.UCDROP.COUNT, RC. -/
def hbxUcdropCount : Field := ⟨8, 0x078, 0, 32, 0x0, .rc, 0, 0xFFFFFFFF⟩
/-- HBX.BADCMD.COUNT, RC. -/
def hbxBadcmdCount : Field := ⟨8, 0x07C, 0, 32, 0x0, .rc, 0, 0xFFFFFFFF⟩
/-- PCI.LINKSTAT.RATE, RO. -/
def pciLinkstatRate : Field := ⟨9, 0x040, 0, 3, 0x0, .ro, 0, 0x7⟩
/-- PCI.LINKSTAT.WIDTH, RO. -/
def pciLinkstatWidth : Field := ⟨9, 0x040, 3, 5, 0x0, .ro, 0, 0x1F⟩
/-- PCI.LINKSTAT.FLIT, RO. -/
def pciLinkstatFlit : Field := ⟨9, 0x040, 8, 1, 0x0, .ro, 0, 0x1⟩
/-- PCI.LINKSTAT.DERATED, RO. -/
def pciLinkstatDerated : Field := ⟨9, 0x040, 9, 1, 0x0, .ro, 0, 0x1⟩
/-- PCI.WINBASE.GIB, RW. -/
def pciWinbaseGib : Field := ⟨9, 0x044, 0, 11, 0x0, .rw, 0, 0x7FF⟩
/-- PCI.WINERR.FAILED, W1C. -/
def pciWinerrFailed : Field := ⟨9, 0x048, 0, 1, 0x0, .w1c, 0, 0x1⟩
/-- PCI.WINERR.OVERFLOW, W1C. -/
def pciWinerrOverflow : Field := ⟨9, 0x048, 1, 1, 0x0, .w1c, 0, 0x1⟩
/-- PCI.WINERR.POISON, W1C. -/
def pciWinerrPoison : Field := ⟨9, 0x048, 2, 1, 0x0, .w1c, 0, 0x1⟩
/-- PCI.WINERR.DISABLED, W1C. -/
def pciWinerrDisabled : Field := ⟨9, 0x048, 3, 1, 0x0, .w1c, 0, 0x1⟩
/-- PCI.WINERR.VALID, W1C. -/
def pciWinerrValid : Field := ⟨9, 0x048, 31, 1, 0x0, .w1c, 0, 0x1⟩
/-- PCI.WINERRADDR_LO.ADDR, RO. -/
def pciWinerraddrLoAddr : Field := ⟨9, 0x04C, 0, 32, 0x0, .ro, 0, 0xFFFFFFFF⟩
/-- PCI.WINERRADDR_HI.ADDR, RO. -/
def pciWinerraddrHiAddr : Field := ⟨9, 0x050, 0, 10, 0x0, .ro, 0, 0x3FF⟩
/-- PCI.RESETCNT.FLR, RC. -/
def pciResetcntFlr : Field := ⟨9, 0x054, 0, 16, 0x0, .rc, 0, 0xFFFF⟩
/-- PCI.RESETCNT.HOT, RC. -/
def pciResetcntHot : Field := ⟨9, 0x054, 16, 16, 0x0, .rc, 0, 0xFFFF⟩
/-- EVR.CTL.FLUSH, WO. -/
def evrCtlFlush : Field := ⟨3, 0x040, 0, 1, 0x0, .wo, 0, 0x1⟩
/-- EVR.CTL.DUMPGO, WO. -/
def evrCtlDumpgo : Field := ⟨3, 0x040, 1, 1, 0x0, .wo, 0, 0x1⟩
/-- EVR.CTL.FLUSHSEC, RW. -/
def evrCtlFlushsec : Field := ⟨3, 0x040, 8, 8, 0x3C, .rw, 0, 0xFF⟩
/-- EVR.STAT.NVOK, RO. -/
def evrStatNvok : Field := ⟨3, 0x044, 0, 1, 0x1, .ro, 0, 0x1⟩
/-- EVR.STAT.DUMPBUSY, RO. -/
def evrStatDumpbusy : Field := ⟨3, 0x044, 1, 1, 0x0, .ro, 0, 0x1⟩
/-- EVR.STAT.HOLDUP_OK, RO. -/
def evrStatHoldupOk : Field := ⟨3, 0x044, 2, 1, 0x0, .ro, 0, 0x1⟩
/-- EVR.STAT.RINGFULL, RO. -/
def evrStatRingfull : Field := ⟨3, 0x044, 3, 1, 0x0, .ro, 0, 0x1⟩
/-- EVR.STAT.DUMPSTAT, RO. -/
def evrStatDumpstat : Field := ⟨3, 0x044, 16, 8, 0x0, .ro, 0, 0xFF⟩
/-- EVR.RLCFG.CAP, RW. -/
def evrRlcfgCap : Field := ⟨3, 0x058, 0, 4, 0x8, .rw, 1, 0xF⟩
/-- EVR.RLCFG.REFILLSEC, RW. -/
def evrRlcfgRefillsec : Field := ⟨3, 0x058, 8, 8, 0x1, .rw, 1, 0xFF⟩
/-- EVR.LOST.COUNT, RC. -/
def evrLostCount : Field := ⟨3, 0x05C, 0, 32, 0x0, .rc, 0, 0xFFFFFFFF⟩
/-- EVR.SUPPR.COUNT, RC. -/
def evrSupprCount : Field := ⟨3, 0x060, 0, 32, 0x0, .rc, 0, 0xFFFFFFFF⟩
/-- EVR.RSEL.SLOT, RW. -/
def evrRselSlot : Field := ⟨3, 0x064, 0, 12, 0x0, .rw, 0, 0xFFF⟩
/-- EVR.DUMPREG.HANDLE, RW. -/
def evrDumpregHandle : Field := ⟨3, 0x090, 0, 12, 0x0, .rw, 0, 0xFFF⟩
/-- EVR.DUMPOFF_LO.OFF, RW. -/
def evrDumpoffLoOff : Field := ⟨3, 0x094, 6, 26, 0x0, .rw, 0, 0x3FFFFFF⟩
/-- EVR.DUMPOFF_HI.OFF, RW. -/
def evrDumpoffHiOff : Field := ⟨3, 0x098, 0, 16, 0x0, .rw, 0, 0xFFFF⟩
/-- EVR.DUMPSEL.FIRST, RW. -/
def evrDumpselFirst : Field := ⟨3, 0x09C, 0, 14, 0x0, .rw, 0, 0x3FFF⟩
/-- EVR.DUMPSEL.COUNT, RW. -/
def evrDumpselCount : Field := ⟨3, 0x09C, 14, 15, 0x0, .rw, 0, 0x7FFF⟩
/-- EVR.ERRCOAL.US, RW. -/
def evrErrcoalUs : Field := ⟨3, 0x0A4, 0, 16, 0x64, .rw, 0, 0xFFFF⟩
/-- THM.SEL.SENSOR, RW. -/
def thmSelSensor : Field := ⟨5, 0x040, 0, 8, 0x0, .rw, 0, 0xFF⟩
/-- THM.PERIOD.MS, RW. -/
def thmPeriodMs : Field := ⟨5, 0x048, 0, 16, 0x1, .rw, 1, 0xFFFF⟩
/-- THM.WARN.JUNCTION, RW. -/
def thmWarnJunction : Field := ⟨5, 0x04C, 0, 16, 0x5A0, .rw, 0, 0xFFFF⟩
/-- THM.WARN.DRAM, RW. -/
def thmWarnDram : Field := ⟨5, 0x04C, 16, 16, 0x550, .rw, 0, 0xFFFF⟩
/-- THM.WARNC.COOLANT, RW. -/
def thmWarncCoolant : Field := ⟨5, 0x050, 0, 16, 0x3C0, .rw, 0, 0xFFFF⟩
/-- THM.SNAPREG.HANDLE, RW. -/
def thmSnapregHandle : Field := ⟨5, 0x058, 0, 12, 0x0, .rw, 0, 0xFFF⟩
/-- THM.SNAPREG.NSNAP, RW. -/
def thmSnapregNsnap : Field := ⟨5, 0x058, 16, 16, 0x0, .rw, 0, 0xFFFF⟩
/-- THM.SNAPPER.MS, RW. -/
def thmSnapperMs : Field := ⟨5, 0x05C, 0, 16, 0x3E8, .rw, 0, 0xFFFF⟩
/-- THM.SNAPHEAD.COUNT, RO. -/
def thmSnapheadCount : Field := ⟨5, 0x060, 0, 32, 0x0, .ro, 0, 0xFFFFFFFF⟩
/-- CAL.CTL.CADENCE, RW. -/
def calCtlCadence : Field := ⟨12, 0x040, 0, 1, 0x1, .rw, 0, 0x1⟩
/-- CAL.CTL.SENSOR, RW. -/
def calCtlSensor : Field := ⟨12, 0x040, 1, 1, 0x1, .rw, 0, 0x1⟩
/-- CAL.PERIOD.MS, RW. -/
def calPeriodMs : Field := ⟨12, 0x044, 0, 16, 0x3E8, .rw, 1, 0xFFFF⟩
/-- CAL.STAT.SWEEP, RO. -/
def calStatSweep : Field := ⟨12, 0x048, 0, 1, 0x0, .ro, 0, 0x1⟩
/-- CAL.STAT.KIND, RO. -/
def calStatKind : Field := ⟨12, 0x048, 1, 2, 0x0, .ro, 0, 0x3⟩
/-- CAL.STAT.FAILED, W1C. -/
def calStatFailed : Field := ⟨12, 0x048, 3, 1, 0x0, .w1c, 0, 0x1⟩
/-- CAL.CC0.PS, RO. -/
def calCc0Ps : Field := ⟨12, 0x04C, 0, 16, 0x0, .ro, 0, 0xFFFF⟩
/-- CAL.CC1.PS, RO. -/
def calCc1Ps : Field := ⟨12, 0x050, 0, 16, 0x0, .ro, 0, 0xFFFF⟩
/-- CAL.CC2.PS, RO. -/
def calCc2Ps : Field := ⟨12, 0x054, 0, 16, 0x0, .ro, 0, 0xFFFF⟩
/-- CAL.CC3.PS, RO. -/
def calCc3Ps : Field := ⟨12, 0x058, 0, 16, 0x0, .ro, 0, 0xFFFF⟩
/-- CAL.CCHB.PS, RO. -/
def calCchbPs : Field := ⟨12, 0x05C, 0, 16, 0x0, .ro, 0, 0xFFFF⟩
/-- CAL.SWEEPCNT.COUNT, RC. -/
def calSweepcntCount : Field := ⟨12, 0x060, 0, 32, 0x0, .rc, 0, 0xFFFFFFFF⟩
/-- CAL.FAILCNT.COUNT, RC. -/
def calFailcntCount : Field := ⟨12, 0x064, 0, 32, 0x0, .rc, 0, 0xFFFFFFFF⟩
/-- SEC.STAT.FUSED, RO. -/
def secStatFused : Field := ⟨1, 0x040, 0, 3, 0x0, .ro, 0, 0x7⟩
/-- SEC.STAT.OWNER, RO. -/
def secStatOwner : Field := ⟨1, 0x040, 3, 1, 0x0, .ro, 0, 0x1⟩
/-- SEC.STAT.BUSY, RO. -/
def secStatBusy : Field := ⟨1, 0x040, 4, 1, 0x0, .ro, 0, 0x1⟩
/-- SEC.STAT.PENDING, RO. -/
def secStatPending : Field := ⟨1, 0x040, 5, 1, 0x0, .ro, 0, 0x1⟩
/-- SEC.STAT.PEND_LCS, RO. -/
def secStatPendLcs : Field := ⟨1, 0x040, 8, 3, 0x0, .ro, 0, 0x7⟩
/-- SEC.STAT.RETCNT, RO. -/
def secStatRetcnt : Field := ⟨1, 0x040, 12, 2, 0x0, .ro, 0, 0x3⟩
/-- SEC.CMD.OP, RW. -/
def secCmdOp : Field := ⟨1, 0x044, 0, 4, 0x0, .rw, 0, 0xF⟩
/-- SEC.CMD.TARGET, RW. -/
def secCmdTarget : Field := ⟨1, 0x044, 4, 3, 0x0, .rw, 0, 0x7⟩
/-- SEC.CMD.SVNVAL, RW. -/
def secCmdSvnval : Field := ⟨1, 0x044, 8, 7, 0x0, .rw, 0, 0x7F⟩
/-- SEC.CMD.GO, WO. -/
def secCmdGo : Field := ⟨1, 0x044, 31, 1, 0x0, .wo, 0, 0x1⟩
/-- SEC.ARGREG.HANDLE, RW. -/
def secArgregHandle : Field := ⟨1, 0x048, 0, 12, 0x0, .rw, 0, 0xFFF⟩
/-- SEC.ARGOFF_LO.OFF, RW. -/
def secArgoffLoOff : Field := ⟨1, 0x04C, 6, 26, 0x0, .rw, 0, 0x3FFFFFF⟩
/-- SEC.ARGOFF_HI.OFF, RW. -/
def secArgoffHiOff : Field := ⟨1, 0x050, 0, 16, 0x0, .rw, 0, 0xFFFF⟩
/-- SEC.ARGLEN.BYTES, RW. -/
def secArglenBytes : Field := ⟨1, 0x054, 0, 24, 0x0, .rw, 0, 0xFFFFFF⟩
/-- SEC.RESULT.STATUS, RO. -/
def secResultStatus : Field := ⟨1, 0x058, 0, 8, 0x0, .ro, 0, 0xFF⟩
/-- SEC.RESULT.DETAIL, RO. -/
def secResultDetail : Field := ⟨1, 0x058, 8, 24, 0x0, .ro, 0, 0xFFFFFF⟩
/-- SEC.FWSTAT.BOOTSLOT, RO. -/
def secFwstatBootslot : Field := ⟨1, 0x060, 0, 1, 0x0, .ro, 0, 0x1⟩
/-- SEC.FWSTAT.FALLBACK, RO. -/
def secFwstatFallback : Field := ⟨1, 0x060, 1, 1, 0x0, .ro, 0, 0x1⟩
/-- SEC.FWSTAT.SLOT0_OK, RO. -/
def secFwstatSlot0Ok : Field := ⟨1, 0x060, 2, 1, 0x0, .ro, 0, 0x1⟩
/-- SEC.FWSTAT.SLOT1_OK, RO. -/
def secFwstatSlot1Ok : Field := ⟨1, 0x060, 3, 1, 0x0, .ro, 0, 0x1⟩
/-- SEC.FWCTL.PREF, RW. -/
def secFwctlPref : Field := ⟨1, 0x064, 0, 1, 0x0, .rw, 0, 0x1⟩
/-- LIC.CTL.INSTALL, WO. -/
def licCtlInstall : Field := ⟨2, 0x044, 0, 1, 0x0, .wo, 0, 0x1⟩
/-- LIC.CTL.REMOVE, WO. -/
def licCtlRemove : Field := ⟨2, 0x044, 1, 1, 0x0, .wo, 0, 0x1⟩
/-- LIC.SRCREG.HANDLE, RW. -/
def licSrcregHandle : Field := ⟨2, 0x048, 0, 12, 0x0, .rw, 0, 0xFFF⟩
/-- LIC.SRCOFF_LO.OFF, RW. -/
def licSrcoffLoOff : Field := ⟨2, 0x04C, 6, 26, 0x0, .rw, 0, 0x3FFFFFF⟩
/-- LIC.SRCOFF_HI.OFF, RW. -/
def licSrcoffHiOff : Field := ⟨2, 0x050, 0, 16, 0x0, .rw, 0, 0xFFFF⟩
/-- LIC.RESULT.STATUS, RO. -/
def licResultStatus : Field := ⟨2, 0x054, 0, 8, 0x0, .ro, 0, 0xFF⟩
/-- PWR.STAT.CAPPED, RO. -/
def pwrStatCapped : Field := ⟨4, 0x040, 0, 1, 0x0, .ro, 0, 0x1⟩
/-- PWR.STAT.FLOOR, RO. -/
def pwrStatFloor : Field := ⟨4, 0x040, 1, 1, 0x0, .ro, 0, 0x1⟩
/-- PWR.STAT.BALLAST, RO. -/
def pwrStatBallast : Field := ⟨4, 0x040, 2, 1, 0x0, .ro, 0, 0x1⟩
/-- PWR.STAT.INRUSH_DONE, RO. -/
def pwrStatInrushDone : Field := ⟨4, 0x040, 3, 1, 0x0, .ro, 0, 0x1⟩
/-- PWR.STAT.PWRFAIL_IN, RO. -/
def pwrStatPwrfailIn : Field := ⟨4, 0x040, 4, 1, 0x0, .ro, 0, 0x1⟩
/-- PWR.STAT.TRIPPED, RO. -/
def pwrStatTripped : Field := ⟨4, 0x040, 5, 1, 0x0, .ro, 0, 0x1⟩
/-- PWR.STAT.SETTLING, RO. -/
def pwrStatSettling : Field := ⟨4, 0x040, 6, 1, 0x0, .ro, 0, 0x1⟩
/-- PWR.CAP.WATTS, RW. -/
def pwrCapWatts : Field := ⟨4, 0x044, 0, 12, 0xAF0, .rw, 1200, 0xAF0⟩
/-- PWR.VSET.VMAX_MV, RW. -/
def pwrVsetVmaxMv : Field := ⟨4, 0x048, 0, 10, 0x2EE, .rw, 650, 0x352⟩
/-- PWR.STEP.UPW, RW. -/
def pwrStepUpw : Field := ⟨4, 0x050, 0, 16, 0x190, .rw, 50, 0xFFFF⟩
/-- PWR.STEP.DNW, RW. -/
def pwrStepDnw : Field := ⟨4, 0x050, 16, 16, 0xFA, .rw, 50, 0xFFFF⟩
/-- PWR.WEIGHT.ARRAY, RW. -/
def pwrWeightArray : Field := ⟨4, 0x054, 0, 8, 0x14, .rw, 1, 0xFF⟩
/-- PWR.WEIGHT.DMA, RW. -/
def pwrWeightDma : Field := ⟨4, 0x054, 8, 8, 0x2, .rw, 1, 0xFF⟩
/-- PWR.WEIGHT.SLV, RW. -/
def pwrWeightSlv : Field := ⟨4, 0x054, 16, 8, 0xC, .rw, 1, 0xFF⟩
/-- PWR.PF.MV, RW. -/
def pwrPfMv : Field := ⟨4, 0x058, 0, 16, 0x9470, .rw, 36000, 0x9A4C⟩
/-- PWR.BALLAST.WATTS, RO. -/
def pwrBallastWatts : Field := ⟨4, 0x05C, 0, 16, 0x0, .ro, 0, 0xFFFF⟩
/-- PWR.DEFERCNT.COUNT, RC. -/
def pwrDefercntCount : Field := ⟨4, 0x060, 0, 32, 0x0, .rc, 0, 0xFFFFFFFF⟩
/-- PWR.CAPTIME.MS, RC. -/
def pwrCaptimeMs : Field := ⟨4, 0x064, 0, 32, 0x0, .rc, 0, 0xFFFFFFFF⟩
/-- PWR.SLOT.ID, RO. -/
def pwrSlotId : Field := ⟨4, 0x068, 0, 6, 0x0, .ro, 0, 0x3F⟩
/-- PWR.GATE.DUTY, RO. -/
def pwrGateDuty : Field := ⟨4, 0x06C, 0, 4, 0x0, .ro, 0, 0xF⟩

/-- The plain fields of the FLT page. -/
def fltFields : List Field :=
  [fltArbColWt, fltArbDatWt, fltRetrycntCount, fltBkguseShare,
   fltLinkfailFailed]

/-- The plain fields of the GLB page. -/
def glbFields : List Field :=
  [glbIdentPart, glbRevisionBuild, glbRevisionStepping, glbRevisionMajor,
   glbSerialLoSerial, glbSerialHiSerial, glbResetctlComputeReset, glbBadaddrOffset,
   glbBadaccValid, glbBadaccResvPage, glbBadaccPartial, glbBadaccWrite,
   glbBadaccSource, glbBadaccBarrier, glbPwrcycCount, glbOpsecSeconds,
   glbScratchScratch]

/-- The plain fields of the TIL page. -/
def tilFields : List Field :=
  [tilRunctlStart, tilRunctlStop, tilRunctlResume, tilRunctlEntry,
   tilWdogMs, tilOverruncntCount, tilMxbusyCount, tilMxspecNancnt,
   tilMxspecOvfcnt, tilAccdbgCtlRow, tilAccdbgCtlCell, tilAccdbgCtlPart,
   tilAccdbgCtlSrc, tilAccdbgCtlMode, tilAccdbgCtlGo, tilAccdbgDataLoDataLo,
   tilAccdbgDataHiDataHi, tilAccdbgStatDone, tilAccdbgStatNan, tilAccdbgStatPinf,
   tilAccdbgStatNinf, tilAccdbgStatPoison, tilAccdbgStatInvalid, tilVxbusyCount,
   tilVxspecNancnt, tilVxspecOvfcnt]

/-- The plain fields of the SLV page. -/
def slvFields : List Field :=
  [slvCapLanes, slvCapSlots, slvCapStoreKib, slvRegDelta,
   slvRegTiny, slvCycMisslim, slvCyccntCount, slvMisscntCount,
   slvPivcntZero, slvPivcntSmall, slvPivcnt2Overflow, slvPivcnt2Nonfinite,
   slvDeltaerrBadpkt, slvDeltaerrDiscarded, slvLastrecTag, slvLastrecRstat,
   slvLastrecSi, slvLoadstatStatus, slvLoadstatSlot, slvBusyCount]

/-- The plain fields of the CAD page. -/
def cadFields : List Field :=
  [cadCtlRun, cadCtlLoad, cadPeriodNs, cadCountsetLoSetLo,
   cadCountsetHiSetHi, cadStatRunning, cadStatSkewerr, cadStatCalib,
   cadStatPerpend, cadSkewMaxskew, cadSkewCalcnt]

/-- The plain fields of the SYN page. -/
def synFields : List Field :=
  [synBarselBarrier, synArriveBarrier, synBartmoTmo, synBarresetReset]

/-- The plain fields of the STK page. -/
def stkFields : List Field :=
  [stkStatHealth, stkStatTrained, stkStatSpareLow, stkStatThrottle,
   stkStatTest, stkEccctlTcorr, stkCecntCount, stkUecntCount,
   stkSpareFree, stkSpareRepaired, stkRepairThresh, stkWearThresh,
   stkWearcntCount, stkRefbinB0rows, stkRefbinAge, stkAddcntCount,
   stkUeaddrLoOffLo, stkUeaddrHiOffHi, stkUeaddrHiValid, stkTempDegc,
   stkBkguseShare]

/-- The plain fields of the DOC page. -/
def docFields : List Field :=
  [docCtlPatrolEn, docCtlDemandEn, docPeriodHours, docStatBehind,
   docStatPatrolActive, docStatBoosted, docProgressPermille, docProgressPasses,
   docDemandcntCount, docDropcntCount, docPatrolceCount, docPatrolueCount]

/-- The plain fields of the DKL page. -/
def dklFields : List Field :=
  [dklLaststatCode, dklLaststatDetail, dklHmgenGen, dklPlgenGen,
   dklReserveUnits, dklTselTile, dklSselSi, dklRselHandle,
   dklHselIndex, dklMigctlRate, dklRedrawLayout, dklRedrawGo,
   dklRemapcntTiles, dklRemapcntSolvers, dklMigcntCount]

/-- The plain fields of the STP page. -/
def stpFields : List Field :=
  [stpCtlSpoil, stpCtlAck, stpStepCur, stpNextStep,
   stpLastcmtStep, stpBankSel, stpPartLoPart, stpPartHiPart,
   stpCmttmoMs, stpCmtgrpGroup, stpCmtgrpEn, stpPhasebarBarrier,
   stpPhasebarEn, stpRecregHandle, stpRecregNrec, stpRecheadCount,
   stpBrokeregHandle, stpBrokeregSlot4k, stpBrokeregBad, stpBrokeregEn,
   stpLedgerLive, stpLedgerCap, stpLedgerdropFull, stpLedgerdropAged,
   stpSpoilcntCount, stpCqselQueue, stpCqcfgEn, stpCqcfgKind,
   stpCqcfgNslotM1, stpCqcfgSlot4k, stpCqregRegion, stpCqregChannel,
   stpCqpeerPeerq, stpCqerrcntCount, stpBadpostCount]

/-- The plain fields of the BZP page. -/
def bzpFields : List Field :=
  [bzpCtlTrainEn, bzpCtlRetrain, bzpCtlMaxwidth, bzpArbColWt,
   bzpArbDatWt, bzpArbBkgWt, bzpRetryInterval, bzpRetryMaxms,
   bzpLltmoUnits, bzpFeccorrCount, bzpFecuncCount, bzpReplaycntCount,
   bzpTraincntOk, bzpTraincntFail, bzpTtldropTtl, bzpTtldropNoroute]

/-- The plain fields of the BZE page. -/
def bzeFields : List Field :=
  [bzeChselChannel, bzeChflushGo, bzeChrtoUs, bzeOpentmoMs,
   bzeSlicecntCount, bzeRetxcntCount, bzeRefusecntSent, bzeRefusecntRcvd,
   bzeDupcntCount, bzeBadpktCount, bzeResetdropCount, bzeDevidId,
   bzeRtselIndex, bzeRtselLevel, bzeRtentPorts, bzeRtentValid,
   bzeTtlInit, bzeNorouteCount]

/-- The plain fields of the COL page. -/
def colFields : List Field :=
  [colGrpselGroup, colGrpcfgNm1, colGrpcfgValid, colGrprankRank,
   colGrptagGtag, colGrpregHandle, colGrpoffLoOffLo, colGrpoffHiOffHi,
   colGrpbankNextbank, colGrpbankLastbank, colDescregHandle, colDescoffLoOffLo,
   colDescoffHiOffHi, colTmoMs, colBrokeMaxage, colHostabortColid,
   colLasterrCode, colLasterrNotAgreed, colLasterridColid, colLasterrrankRank,
   colLasterrchunkChunk, colCommitcntCount, colAbortcntCount, colCrcerrCount,
   colExclcntExcl, colExclcntLate, colFoldcntFolded, colFoldcntDrop,
   colBadpostCount, colBadpktCount]

/-- The plain fields of the HBX page. -/
def hbxFields : List Field :=
  [hbxRingselRing, hbxSqbaseLoBase, hbxSqbaseHiBase, hbxSqcfgEn,
   hbxSqcfgLog2size, hbxSqcfgCq, hbxCqbaseLoBase, hbxCqbaseHiBase,
   hbxCqcfgEn, hbxCqcfgLog2size, hbxCqcfgVector, hbxCqcfgCoalcnt,
   hbxCqcoalUs, hbxUcqCq, hbxUcqEn, hbxErrvecVector,
   hbxUcdropCount, hbxBadcmdCount]

/-- The plain fields of the PCI page. -/
def pciFields : List Field :=
  [pciLinkstatRate, pciLinkstatWidth, pciLinkstatFlit, pciLinkstatDerated,
   pciWinbaseGib, pciWinerrFailed, pciWinerrOverflow, pciWinerrPoison,
   pciWinerrDisabled, pciWinerrValid, pciWinerraddrLoAddr, pciWinerraddrHiAddr,
   pciResetcntFlr, pciResetcntHot]

/-- The plain fields of the EVR page. -/
def evrFields : List Field :=
  [evrCtlFlush, evrCtlDumpgo, evrCtlFlushsec, evrStatNvok,
   evrStatDumpbusy, evrStatHoldupOk, evrStatRingfull, evrStatDumpstat,
   evrRlcfgCap, evrRlcfgRefillsec, evrLostCount, evrSupprCount,
   evrRselSlot, evrDumpregHandle, evrDumpoffLoOff, evrDumpoffHiOff,
   evrDumpselFirst, evrDumpselCount, evrErrcoalUs]

/-- The plain fields of the THM page. -/
def thmFields : List Field :=
  [thmSelSensor, thmPeriodMs, thmWarnJunction, thmWarnDram,
   thmWarncCoolant, thmSnapregHandle, thmSnapregNsnap, thmSnapperMs,
   thmSnapheadCount]

/-- The plain fields of the CAL page. -/
def calFields : List Field :=
  [calCtlCadence, calCtlSensor, calPeriodMs, calStatSweep,
   calStatKind, calStatFailed, calCc0Ps, calCc1Ps,
   calCc2Ps, calCc3Ps, calCchbPs, calSweepcntCount,
   calFailcntCount]

/-- The plain fields of the SEC page. -/
def secFields : List Field :=
  [secStatFused, secStatOwner, secStatBusy, secStatPending,
   secStatPendLcs, secStatRetcnt, secCmdOp, secCmdTarget,
   secCmdSvnval, secCmdGo, secArgregHandle, secArgoffLoOff,
   secArgoffHiOff, secArglenBytes, secResultStatus, secResultDetail,
   secFwstatBootslot, secFwstatFallback, secFwstatSlot0Ok, secFwstatSlot1Ok,
   secFwctlPref]

/-- The plain fields of the LIC page. -/
def licFields : List Field :=
  [licCtlInstall, licCtlRemove, licSrcregHandle, licSrcoffLoOff,
   licSrcoffHiOff, licResultStatus]

/-- The plain fields of the PWR page. -/
def pwrFields : List Field :=
  [pwrStatCapped, pwrStatFloor, pwrStatBallast, pwrStatInrushDone,
   pwrStatPwrfailIn, pwrStatTripped, pwrStatSettling, pwrCapWatts,
   pwrVsetVmaxMv, pwrStepUpw, pwrStepDnw, pwrWeightArray,
   pwrWeightDma, pwrWeightSlv, pwrPfMv, pwrBallastWatts,
   pwrDefercntCount, pwrCaptimeMs, pwrSlotId, pwrGateDuty]

/-- The plain fields of a page class (Table 2-1). -/
def fieldsOf (cls : Nat) : List Field :=
  match cls with
  | 0x13 => fltFields
  | 0x00 => glbFields
  | 0x10 => tilFields
  | 0x11 => slvFields
  | 0x06 => cadFields
  | 0x0E => synFields
  | 0x12 => stkFields
  | 0x0D => docFields
  | 0x07 => dklFields
  | 0x0B => stpFields
  | 0x14 => bzpFields
  | 0x15 => bzeFields
  | 0x0A => colFields
  | 0x08 => hbxFields
  | 0x09 => pciFields
  | 0x03 => evrFields
  | 0x05 => thmFields
  | 0x0C => calFields
  | 0x01 => secFields
  | 0x02 => licFields
  | 0x04 => pwrFields
  | _ => []

end Sys2Proof.Machine
end

