-- ==== Sys2Proof/Config.lean ====
section
/-! DEFINITION. Config.lean: what an implementation fixes and the free values. No constant here has a body: nothing can
be proved of its value. Every constant has an entry in the assumption log. -/

namespace Sys2Proof.Config

/-- Free value (DESIGN CHOICE). A fresh value for a point the spec leaves open: the argument is the counter `Dev.free` (log entries 11, 23, 40,
42, 47, 48 and 52 to 54). -/
opaque freeNat : Nat → Nat

/-- Free value (DESIGN CHOICE). The mode ACCLD gives where the D row and the S row of one number are both valid (R142): true for D (log entry 15). -/
opaque ledgerTie : Nat → Bool

/-- Free value (DESIGN CHOICE). How many units of an interrupted operation had been done when it was discarded (R140, R178; log entry 9). -/
opaque discardProgress : Nat → Nat

/-- Free value (DESIGN CHOICE). What VRARGMAX and VRARGMIN write when every enabled element is a NaN under NANMM = 1 (R108): a function of the
source register (log entry 8). -/
opaque argOfNans : Nat → Nat

/-- Free value (DESIGN CHOICE). What background work took of a node's links or of a stack in the last window, read in BKGUSE (R26, R262): by
page and by the counter `Dev.free` (log entry 103). -/
opaque bkgShare : Nat → Nat → Nat

/-- Free value (DESIGN CHOICE). COLID of STP's commit vote for a step (R295): the spec gives a COMMITVOTE no descriptor (log entry 10). -/
opaque voteColid : Nat → Nat

/-- Free value (DESIGN CHOICE). FANOUT of STP's commit vote beyond the least of 2 (R295, R358; log entry 10). -/
opaque voteFanout : Nat → Nat

/-- Free value (DESIGN CHOICE). The public keys in the boot ROM, 97-byte points (R449, R452, R458): Clowen's debug key and licence key, and
the two release keys (log entry 6). -/
opaque debugKey : List Nat
opaque licenceKey : List Nat
opaque releaseKey : Nat → List Nat

/-- Free value (DESIGN CHOICE). What the NV store holds before the first power-on: the firmware slots and Clowen's certificate (R452, R456; log entry 5). -/
opaque firmware : Nat → List Nat
opaque certificate : List Nat

end Sys2Proof.Config
end

