-- ==== Sys2Proof/Machine/Exact.lean ====
section
/-! DEFINITION. Machine/Exact.lean: exact arithmetic on the values that floating-point codes stand for, and the one
rounding step that every format shares (R63, R90, R91, R103, R104). -/

namespace Sys2Proof.Machine

/-- The value of a code: no number, an infinity, or `(-1)^neg * m * 2^e` (a zero keeps its sign). -/
inductive Val where
  | nan
  | inf (neg : Bool)
  | fin (neg : Bool) (m : Nat) (e : Int)
  deriving DecidableEq, Repr

/-- Positive zero. -/
def Val.zero : Val := .fin false 0 0

/-- One. -/
def Val.one : Val := .fin false 1 0

/-- No number. -/
def Val.isNan : Val → Bool
  | .nan => true
  | _ => false

/-- An infinity. -/
def Val.isInf : Val → Bool
  | .inf _ => true
  | _ => false

/-- A finite value that is not zero. -/
def Val.isNonzero : Val → Bool
  | .fin _ m _ => m != 0
  | _ => false

/-- A zero of either sign. -/
def Val.isZero : Val → Bool
  | .fin _ m _ => m == 0
  | _ => false

/-- The sign. -/
def Val.sign : Val → Bool
  | .nan => false
  | .inf n => n
  | .fin n _ _ => n

/-- The value with the other sign. -/
def Val.neg : Val → Val
  | .nan => .nan
  | .inf n => .inf (!n)
  | .fin n m e => .fin (!n) m e

/-- The magnitude. -/
def Val.abs : Val → Val
  | .nan => .nan
  | .inf _ => .inf false
  | .fin _ m e => .fin false m e

/-- The significand of `m * 2^e` written over the smaller exponent `lo`. -/
def alignTo (lo : Int) (m : Nat) (e : Int) : Nat := m * 2 ^ (e - lo).toNat

/-- A signed integer from sign and magnitude. -/
def signMag (neg : Bool) (m : Nat) : Int := if neg then -(m : Int) else (m : Int)

/-- A finite value from a signed significand; `zneg` is the sign of a zero result. -/
def ofSigned (zneg : Bool) (x : Int) (e : Int) : Val :=
  if x = 0 then .fin zneg 0 0 else .fin (decide (x < 0)) x.natAbs e

/-- The exact sum. A zero sum of two values that are not both negative zeros is positive, or negative where `down`
(rounding toward minus infinity) holds; opposite infinities give no number. -/
def Val.add (down : Bool) : Val → Val → Val
  | .nan, _ => .nan
  | _, .nan => .nan
  | .inf a, .inf b => if a = b then .inf a else .nan
  | .inf a, .fin .. => .inf a
  | .fin .., .inf b => .inf b
  | .fin a m e, .fin b n f =>
    let lo := min e f
    let s := signMag a (alignTo lo m e) + signMag b (alignTo lo n f)
    let zneg := if m = 0 ∧ n = 0 ∧ a = b then a else down
    ofSigned zneg s lo

/-- The exact product; zero times an infinity gives no number. -/
def Val.mul : Val → Val → Val
  | .nan, _ => .nan
  | _, .nan => .nan
  | .inf a, .inf b => .inf (a != b)
  | .inf a, .fin b m _ => if m = 0 then .nan else .inf (a != b)
  | .fin a m _, .inf b => if m = 0 then .nan else .inf (a != b)
  | .fin a m e, .fin b n f => .fin (a != b) (m * n) (e + f)

/-- Bits kept by a quotient or a root beyond which one sticky bit stands for the rest: more than any format's
significand and the 32 discarded bits of R104 together. -/
def guardBits : Nat := 160

/-- The quotient to `guardBits` bits with a sticky last bit; a finite value over zero is an infinity, zero over zero
and infinity over infinity give no number. -/
def Val.div : Val → Val → Val
  | .nan, _ => .nan
  | _, .nan => .nan
  | .inf _, .inf _ => .nan
  | .inf a, .fin b _ _ => .inf (a != b)
  | .fin a _ _, .inf b => .fin (a != b) 0 0
  | .fin a m e, .fin b n f =>
    if n = 0 then (if m = 0 then .nan else .inf (a != b))
    else if m = 0 then .fin (a != b) 0 0
    else
      let k := guardBits + n.log2 + 1
      let q := m * 2 ^ k / n
      let r := m * 2 ^ k % n
      .fin (a != b) (2 * q + b2n (r != 0)) (e - f - k - 1)

/-- The integer square root by digits: the greatest `s` with `s * s ≤ n`, one bit of `s` per turn of the fuel. -/
def isqrtAux : Nat → Nat → Nat → Nat
  | 0, _, s => s
  | k + 1, n, s =>
    let t := s + 2 ^ k
    isqrtAux k n (if t * t ≤ n then t else s)

/-- The integer square root. -/
def isqrt (n : Nat) : Nat := isqrtAux (n.log2 / 2 + 1) n 0

/-- The square root to `guardBits` bits with a sticky last bit; the root of a negative number is no number, the root
of a zero is that zero. -/
def Val.sqrt : Val → Val
  | .nan => .nan
  | .inf n => if n then .nan else .inf false
  | .fin n m e =>
    if m = 0 then .fin n 0 0
    else if n then .nan
    else
      let odd := e % 2 != 0
      let m' := (if odd then 2 * m else m) * 2 ^ (2 * guardBits)
      let e' := (if odd then e - 1 else e) / 2 - guardBits
      let s := isqrt m'
      .fin false (2 * s + b2n (s * s != m')) (e' - 1)

/-- Compare two finite values or infinities (−0 equals +0). -/
def Val.cmp : Val → Val → Ordering
  | .inf a, .inf b => if a = b then .eq else if a then .lt else .gt
  | .inf a, _ => if a then .lt else .gt
  | _, .inf b => if b then .gt else .lt
  | .fin a m e, .fin b n f =>
    let lo := min e f
    compare (signMag a (alignTo lo m e)) (signMag b (alignTo lo n f))
  | _, _ => .eq

/-- `a < b` for numbers; false where either is no number. -/
def Val.lt (a b : Val) : Bool := !a.isNan && !b.isNan && Val.cmp a b == .lt

/-- `a = b` for numbers; false where either is no number. -/
def Val.eqv (a b : Val) : Bool := !a.isNan && !b.isNan && Val.cmp a b == .eq

/-- `a ≤ b` for numbers; false where either is no number. -/
def Val.le (a b : Val) : Bool := Val.lt a b || Val.eqv a b

/-- `a < b` with −0 ordered below +0 (Table 4-6). -/
def Val.ltZero (a b : Val) : Bool := Val.lt a b || (a.isZero && b.isZero && a.sign && !b.sign)

/-- The exponent of the leading bit: `⌊log2 |v|⌋` of a nonzero finite value. -/
def Val.lead : Val → Int
  | .fin _ m e => (m.log2 : Int) + e
  | _ => 0

/-- A finite value times a power of two. -/
def Val.scale (k : Int) : Val → Val
  | .fin n m e => .fin n m (e + k)
  | v => v

/-- The value of an integer. -/
def Val.ofInt (x : Int) : Val := ofSigned false x 0

/-- The rounding directions: the three of R103, and the two further ones that FCSR names (R61). -/
inductive Rounding where
  | rne | rtz | rsr | rdn | rup
  deriving DecidableEq, Repr

/-- Does rounding increment a magnitude `n` whose discarded part is `rem / 2^sh` of a unit (R103, R104)? `r` is the
32-bit stochastic number. -/
def roundsUp (rm : Rounding) (neg : Bool) (r n rem sh : Nat) : Bool :=
  match rm with
  | .rne => decide (2 ^ sh < 2 * rem) || (decide (2 * rem = 2 ^ sh) && n % 2 == 1)
  | .rtz => false
  | .rsr => decide (2 ^ 32 ≤ rem * 2 ^ 32 / 2 ^ sh + r)
  | .rdn => neg && rem != 0
  | .rup => !neg && rem != 0

/-- A magnitude rounded to a multiple of `2^ue`: the multiple, and whether anything was discarded. -/
def roundMag (rm : Rounding) (neg : Bool) (r m : Nat) (e ue : Int) : Nat × Bool :=
  if ue ≤ e then (m * 2 ^ (e - ue).toNat, false)
  else
    let sh := (ue - e).toNat
    let n := m / 2 ^ sh
    let rem := m % 2 ^ sh
    (if roundsUp rm neg r n rem sh then n + 1 else n, rem != 0)

/-- The stochastic number of an element (R104): the top 32 bits of the mixed seed. -/
def stochBits (seed stream index step : Nat) : Nat :=
  let m := 2 ^ 64
  let c := (stream * 2 ^ 40 + index) % m
  let z := seed ^^^ (c * 0x9E3779B97F4A7C15 % m) ^^^ (step * 0xD1B54A32D192ED03 % m)
  let z := z ^^^ (z / 2 ^ 33)
  let z := z * 0xFF51AFD7ED558CCD % m
  let z := z ^^^ (z / 2 ^ 33)
  let z := z * 0xC4CEB9FE1A85EC53 % m
  let z := z ^^^ (z / 2 ^ 33)
  z / 2 ^ 32

end Sys2Proof.Machine
end

