-- ==== Sys2Proof/Machine/Formats.lean ====
section
/-! DEFINITION. Machine/Formats.lean: the element formats (Tables 4-1 and 4-2), their packing and block scales, NMODE,
and every rounding to a tensor format (R89 to R112). -/

namespace Sys2Proof.Machine

/-- The element formats of Table 4-1. -/
inductive Format where
  | binary64 | binary32 | binary16 | bfloat16
  | e4m3 | e5m2 | e3m2 | e2m3 | e2m1
  | int8s | e8m0
  | int64 | int32 | int16 | int8 | int4
  deriving DecidableEq, Repr

/-- The format of a code; none for a code that Table 4-1 does not list (R89). -/
def Format.ofCode : Nat → Option Format
  | 0x01 => some .binary64
  | 0x02 => some .binary32
  | 0x03 => some .binary16
  | 0x04 => some .bfloat16
  | 0x10 => some .e4m3
  | 0x11 => some .e5m2
  | 0x12 => some .e3m2
  | 0x13 => some .e2m3
  | 0x14 => some .e2m1
  | 0x18 => some .int8s
  | 0x1F => some .e8m0
  | 0x20 => some .int64
  | 0x21 => some .int32
  | 0x22 => some .int16
  | 0x23 => some .int8
  | 0x24 => some .int4
  | _ => none

/-- Element width in bits (Table 4-1). -/
def Format.width : Format → Nat
  | .binary64 | .int64 => 64
  | .binary32 | .int32 => 32
  | .binary16 | .bfloat16 | .int16 => 16
  | .e4m3 | .e5m2 | .int8s | .e8m0 | .int8 => 8
  | .e3m2 | .e2m3 => 6
  | .e2m1 | .int4 => 4

/-- Block-scaled: the Scale column of Table 4-1 names a scale format. -/
def Format.blockScaled : Format → Bool
  | .e4m3 | .e5m2 | .e3m2 | .e2m3 | .e2m1 | .int8s => true
  | _ => false

/-- A format the matrix engine reads (Table 4-1). -/
def Format.matrixOperand : Format → Bool
  | .binary64 | .binary32 | .binary16 | .bfloat16 | .e4m3 | .e5m2 | .e3m2 | .e2m3 | .e2m1 => true
  | _ => false

/-- A two's complement format. -/
def Format.isInt : Format → Bool
  | .int64 | .int32 | .int16 | .int8 | .int4 => true
  | _ => false

/-- A floating format: not an integer format, INT8S or E8M0. -/
def Format.isFloat : Format → Bool
  | .int64 | .int32 | .int16 | .int8 | .int4 | .int8s | .e8m0 => false
  | _ => true

/-- Scale width in bytes (R97). -/
def Format.scaleBytes : Format → Nat
  | .int8s => 4
  | .e4m3 | .e5m2 | .e3m2 | .e2m3 | .e2m1 => 1
  | _ => 0

/-- Elements of 6 or 4 bits share bytes (R93). -/
def Format.subByte (f : Format) : Bool := f.width < 8

/-- The bytes of a run of `n` elements of dimension 0, padded as R93 states. -/
def Format.runBytes (f : Format) (n : Nat) : Nat :=
  match f.width with
  | 4 => ceilDiv n 2
  | 6 => 3 * ceilDiv n 4
  | w => n * (w / 8)

/-- How a float format codes its greatest exponent. -/
inductive Specials where
  | ieee      -- infinities and NaNs
  | nanOnly   -- E4M3: one NaN magnitude, no infinity
  | none      -- every code is finite
  deriving DecidableEq, Repr

/-- Significand bits, exponent bits, bias and specials of a float format (R90, Table 4-2). -/
structure FloatShape where
  mant : Nat
  expo : Nat
  bias : Nat
  specials : Specials
  deriving DecidableEq, Repr

/-- The shape of a float format; binary64's for the others, which never use it. -/
def Format.shape : Format → FloatShape
  | .binary32 => ⟨23, 8, 127, .ieee⟩
  | .binary16 => ⟨10, 5, 15, .ieee⟩
  | .bfloat16 => ⟨7, 8, 127, .ieee⟩
  | .e4m3 => ⟨3, 4, 7, .nanOnly⟩
  | .e5m2 => ⟨2, 5, 15, .ieee⟩
  | .e3m2 => ⟨2, 3, 3, .none⟩
  | .e2m3 => ⟨3, 2, 1, .none⟩
  | .e2m1 => ⟨1, 2, 1, .none⟩
  | _ => ⟨52, 11, 1023, .ieee⟩

/-- The code of the largest finite magnitude. -/
def FloatShape.maxCode (s : FloatShape) : Nat :=
  match s.specials with
  | .ieee => (2 ^ s.expo - 1) * 2 ^ s.mant - 1
  | .nanOnly => 2 ^ (s.expo + s.mant) - 2
  | .none => 2 ^ (s.expo + s.mant) - 1

/-- The code of positive infinity in an IEEE shape. -/
def FloatShape.infCode (s : FloatShape) : Nat := (2 ^ s.expo - 1) * 2 ^ s.mant

/-- The sign bit's weight. -/
def FloatShape.signBit (s : FloatShape) : Nat := 2 ^ (s.expo + s.mant)

/-- The canonical quiet NaN (Table 4-5); 0 for a format whose NaN is a block scale. -/
def Format.canonNan (f : Format) : Nat :=
  let s := f.shape
  match f with
  | .int8s | .e8m0 | .int64 | .int32 | .int16 | .int8 | .int4 => 0
  | _ =>
    match s.specials with
    | .ieee => s.infCode + 2 ^ (s.mant - 1)
    | .nanOnly => s.maxCode + 1
    | .none => 0

/-- The exponent of the largest finite element (the emax column of Table 4-2). -/
def Format.emax (f : Format) : Int :=
  match f with
  | .e4m3 => 8
  | .e5m2 => 15
  | .e3m2 => 4
  | .e2m3 => 2
  | .e2m1 => 2
  | _ => 0

/-- The least exponent of a unit: that of the smallest subnormal. -/
def FloatShape.minUnit (s : FloatShape) : Int := 1 - (s.bias : Int) - (s.mant : Int)

/-- The value of a code of a float shape (R90, R91). -/
def FloatShape.decode (s : FloatShape) (c : Nat) : Val :=
  let neg := c / s.signBit % 2 == 1
  let mag := c % s.signBit
  let m := mag % 2 ^ s.mant
  let e := mag / 2 ^ s.mant
  if s.specials = .ieee ∧ mag = s.infCode then .inf neg
  else if s.specials ≠ .none ∧ s.maxCode < mag then .nan
  else if e = 0 then .fin neg m s.minUnit
  else .fin neg (m + 2 ^ s.mant) ((e : Int) - 1 + s.minUnit)

/-- The value of an element code before any block scale. -/
def Format.decode (f : Format) (c : Nat) : Val :=
  match f with
  | .int64 | .int32 | .int16 | .int8 | .int4 | .int8s => .ofInt (signed f.width c)
  | .e8m0 => if c % 256 = 255 then .nan else .fin false 1 (((c % 256 : Nat) : Int) - 127)
  | _ => f.shape.decode c

/-- The value of a block-scaled element with its scale code (R91, R94, R100). -/
def Format.decodeScaled (f : Format) (scale c : Nat) : Val :=
  match f with
  | .int8s => Val.mul (f.decode c) (Format.binary32.decode scale)
  | .e4m3 | .e5m2 | .e3m2 | .e2m3 | .e2m1 =>
    if scale % 256 = 255 then .nan else Val.scale (((scale % 256 : Nat) : Int) - 127) (f.decode c)
  | _ => f.decode c

/-- What writing an element counts as (R109): an ordinary code, a NaN, or an overflowed or saturated element. -/
inductive OutKind where
  | plain | nan | ovf
  deriving DecidableEq, Repr

/-- A finite value rounded in a float shape as if its exponent range had no top: the magnitude code (which may exceed
the largest finite one), whether it was inexact, and the exponent of its unit. -/
def FloatShape.roundCode (s : FloatShape) (rm : Rounding) (neg : Bool) (r m : Nat) (e : Int) : Nat × Bool :=
  if m = 0 then (0, false)
  else
    let ue := max ((m.log2 : Int) + e - (s.mant : Int)) s.minUnit
    let (n, inexact) := roundMag rm neg r m e ue
    ((ue - s.minUnit).toNat * 2 ^ s.mant + n, inexact)

/-- A magnitude is at least the largest finite value plus half its ulp: the threshold of overflow to nearest (R109). -/
def FloatShape.pastTop (s : FloatShape) (m : Nat) (e : Int) : Bool :=
  match s.decode s.maxCode with
  | .fin _ top u => decide (2 * top + 1 ≤ (roundMag .rtz false 0 m e (u - 1)).1)
  | _ => false

/-- A finite value whose code came out as `c` overflows under Table 4-7. To nearest, where the largest finite code is even
and a tie would round down to it (E4M3), the threshold decides. -/
def FloatShape.overflows (s : FloatShape) (rm : Rounding) (c m : Nat) (e : Int) : Bool :=
  decide (s.maxCode < c) || (s.maxCode % 2 == 0 && rm == .rne && s.pastTop m e)

/-- NMODE (Table 4-4). -/
structure NMode where
  rm : Rounding
  numberMM : Bool
  ovfInf : Bool
  bridge : Nat
  seed : Nat
  stream : Nat
  deriving DecidableEq, Repr

/-- The fields of an NMODE word. RM 0b11 cannot be stored (R101). -/
def NMode.ofWord (w : Nat) : NMode where
  rm := match bits w 0 2 with
    | 1 => .rtz
    | 2 => .rsr
    | _ => .rne
  numberMM := bit w 2
  ovfInf := bit w 3
  bridge := bits w 4 2
  seed := bits w 8 32
  stream := bits w 40 24

/-- The NMODE word that a write of `w` stores: RM 0b11 becomes 0b00, reserved bits read 0 (R101). -/
def nmodeStored (w : Nat) : Nat :=
  let w := w % 2 ^ 64
  putBits (if bits w 0 2 = 3 then putBits w 0 2 0 else w) 6 2 0

/-- The stochastic number of the element at position `pos` of an operation with base `ibase` (R104, R105). -/
def NMode.stoch (nm : NMode) (step ibase pos : Nat) : Nat :=
  stochBits nm.seed nm.stream ((ibase + pos) % 2 ^ 40) step

/-- What an overflow writes in a float format (Table 4-7): the magnitude code. `infinite` says the input was an
infinity. A format of the third row answers its largest finite value; its block NaN is R100's. -/
def Format.overflowCode (f : Format) (nm : NMode) (infinite : Bool) : Nat :=
  let s := f.shape
  let top := nm.ovfInf && (infinite || nm.rm != .rtz)
  match s.specials with
  | .ieee => if top then s.infCode else s.maxCode
  | .nanOnly => if top then s.maxCode + 1 else s.maxCode
  | .none => s.maxCode

/-- The canonical NaN that Table 4-7 writes for E4M3 carries no sign. -/
def Format.withSign (f : Format) (neg : Bool) (mag : Nat) : Nat :=
  if neg ∧ ¬(f = .e4m3 ∧ mag = f.canonNan) then mag + f.shape.signBit else mag

/-- One rounding to a float format without a block scale (R103, R106, R109): the code and what it counts as. A zero
keeps its sign; R107's normalisation is the caller's. -/
def Format.roundFloat (f : Format) (nm : NMode) (r : Nat) (v : Val) : Nat × OutKind :=
  match v with
  | .nan => (f.canonNan, .nan)
  | .inf n => (f.withSign n (f.overflowCode nm true), .ovf)
  | .fin n m e =>
    let (c, _) := f.shape.roundCode nm.rm n r m e
    if f.shape.overflows nm.rm c m e then (f.withSign n (f.overflowCode nm false), .ovf)
    else (f.withSign n c, .plain)

/-- One rounding to an integer format of `w` bits, clamped to `lo..hi` (R109). A NaN writes 0. -/
def roundInt (rm : Rounding) (r w : Nat) (lo hi : Int) (v : Val) : Nat × OutKind :=
  match v with
  | .nan => (0, .plain)
  | .inf n => (unsigned w (if n then lo else hi), .ovf)
  | .fin n m e =>
    let x := signMag n (roundMag rm n r m e 0).1
    if x < lo then (unsigned w lo, .ovf)
    else if hi < x then (unsigned w hi, .ovf)
    else (unsigned w x, .plain)

/-- One rounding to an unscaled format. -/
def Format.round (f : Format) (nm : NMode) (r : Nat) (v : Val) : Nat × OutKind :=
  if f.isInt then
    let h : Int := ((2 ^ (f.width - 1) : Nat) : Int)
    roundInt nm.rm r f.width (-h) (h - 1) v
  else if f = .int8s then roundInt nm.rm r 8 (-127) 127 v
  else f.roundFloat nm r v

/-- Negative zero becomes +0 (R107). -/
def Format.plusZero (f : Format) (c : Nat) : Nat :=
  if f.isFloat ∧ c = f.shape.signBit then 0 else c

/-- Rounding to nearest even in binary32 and binary64 with infinities kept (R99, R111, the solver's arithmetic). -/
def rneCode (f : Format) (v : Val) : Nat :=
  (f.roundFloat ⟨.rne, false, true, 0, 0, 0⟩ 0 v).1

/-- The value that `rneCode` codes. -/
def rneVal (f : Format) (v : Val) : Val := f.decode (rneCode f v)

/-- The larger magnitude of two finite values. -/
def maxMag (a b : Val) : Val := if Val.lt a.abs b.abs then b.abs else a.abs

/-- The largest magnitude among the finite values of a block, zero where there is none (R99). -/
def blockAmax (vs : List Val) : Val :=
  vs.foldl (fun a v => match v with
    | .fin .. => maxMag a v
    | _ => a) Val.zero

/-- A block of infinities in a format without them, under OVF = 1, makes the block scale a NaN (R100, Table 4-7). -/
def blockIsNan (f : Format) (nm : NMode) (vs : List Val) : Bool :=
  vs.any Val.isNan ||
    (nm.ovfInf && f.shape.specials == .none && f != .int8s && vs.any Val.isInf)

/-- The NaN scale of a format (R100). -/
def Format.nanScale (f : Format) : Nat := if f = .int8s then Format.binary32.canonNan else 0xFF

/-- The kinds of the elements of a block whose scale is a NaN: an infinity counts as overflow, the rest as NaN (R109). -/
def nanBlock (vs : List Val) : List (Nat × OutKind) :=
  vs.map (fun v => (0, if v.isInf then .ovf else .nan))

/-- The exponent `X` of R99 step 2, before clamping. -/
def Format.scaleExp (f : Format) (amax : Val) : Int := amax.lead - f.emax

/-- The E8M0 clamp of R99 step 2. -/
def clampScale (x : Int) : Int := max (-127) (min 127 x)

/-- One element of an E8M0-scaled block (R99 steps 3 and 4, R100). -/
def Format.blockElement (f : Format) (nm : NMode) (x : Int) (clampedTop : Bool) (r : Nat) (v : Val) : Nat × OutKind :=
  match v with
  | .fin n m e =>
    let (c, _) := f.shape.roundCode nm.rm n r m (e - x)
    if clampedTop && f.shape.overflows nm.rm c m (e - x) then (f.withSign n (f.overflowCode nm false), .ovf)
    else if f.shape.maxCode < c then (f.withSign n f.shape.maxCode, .ovf)
    else (f.withSign n c, .plain)
  | v => f.roundFloat nm r v

/-- The scale S of an INT8S block (R99 step 5). -/
def int8sScale (amax : Val) : Nat :=
  if amax.isZero then rneCode .binary32 .one
  else
    let c := rneCode .binary32 (Val.div amax (.ofInt 127))
    if c = 0 then 1 else min c Format.binary32.shape.maxCode

/-- A block written in a block-scaled format (R99, R100): its scale code, and each element's code and kind. `rs` holds
the elements' stochastic numbers. -/
def Format.encodeBlock (f : Format) (nm : NMode) (vs : List Val) (rs : List Nat) : Nat × List (Nat × OutKind) :=
  if blockIsNan f nm vs then (f.nanScale, nanBlock vs)
  else
    let amax := blockAmax vs
    if f = .int8s then
      let s := int8sScale amax
      let sv := Format.binary32.decode s
      (s, (vs.zip rs).map (fun (v, r) => roundInt nm.rm r 8 (-127) 127
        (match v with
          | .fin .. => Val.div v sv
          | w => w)))
    else
      let raw := f.scaleExp amax
      let x := if amax.isZero then 0 else clampScale raw
      let top := !amax.isZero && decide (127 < raw)
      ((x + 127).toNat, (vs.zip rs).map (fun (v, r) =>
        if amax.isZero ∧ v.isZero then (0, .plain) else f.blockElement nm x top r v))

/-- Round the values of a block, or of a single element, into the descriptor's format (R99, R165). -/
def Format.encodeRun (f : Format) (nm : NMode) (vs : List Val) (rs : List Nat) : Nat × List (Nat × OutKind) :=
  if f.blockScaled then f.encodeBlock nm vs rs else (0, (vs.zip rs).map (fun (v, r) => f.round nm r v))

/-- The larger or smaller of two tensor values (Table 4-6). -/
def tensorMinMax (numberMM isMax : Bool) (a b : Val) : Val :=
  match a.isNan, b.isNan with
  | true, true => .nan
  | true, false => if numberMM then b else .nan
  | false, true => if numberMM then a else .nan
  | false, false =>
    if isMax then (if Val.ltZero a b then b else a) else (if Val.ltZero b a then b else a)

/-! ### Packing (R93) -/

/-- Element `i` of a run whose bytes are read by `rd` (byte offset from the run's start). -/
def Format.element (f : Format) (rd : Nat → Nat) (i : Nat) : Nat :=
  match f.width with
  | 4 => bits (rd (i / 2)) (4 * (i % 2)) 4
  | 6 =>
    let g := 3 * (i / 4)
    bits (ofLE [rd g, rd (g + 1), rd (g + 2)]) (6 * (i % 4)) 6
  | w => ofLE ((List.range (w / 8)).map (fun k => rd (i * (w / 8) + k)))

/-- The packed bytes of a run of elements, its padding zero (R93). -/
def Format.packRun (f : Format) (cs : List Nat) : List Nat :=
  let n := cs.length
  match f.width with
  | 4 => (List.range (ceilDiv n 2)).map (fun k => cs.getD (2 * k) 0 % 16 + 16 * (cs.getD (2 * k + 1) 0 % 16))
  | 6 => (List.range (ceilDiv n 4)).flatMap (fun g =>
      toLE 3 ((List.range 4).foldl (fun a j => a + cs.getD (4 * g + j) 0 % 64 * 2 ^ (6 * j)) 0))
  | w => cs.flatMap (fun c => toLE (w / 8) c)

/-! ### The sizing descriptor (R95, R97) -/

/-- BSIZE, DIR and SPOFF of a SIZING word (Table 4-3). -/
structure Sizing where
  bsize : Nat
  dir : Nat
  spoff : Nat
  deriving DecidableEq, Repr

/-- The fields of a SIZING word. -/
def Sizing.ofWord (w : Nat) : Sizing := ⟨bits w 0 3, bits w 3 2, bits w 8 24⟩

/-- The reserved bits of a SIZING word and its reserved codes (R96). -/
def sizingBad (w rank : Nat) : Bool :=
  let s := Sizing.ofWord w
  decide (6 ≤ s.bsize) || s.dir == 3 || bits w 5 3 != 0
    || (s.dir == 2 && s.bsize != 3 && s.bsize != 5)
    || (decide (1 ≤ s.dir) && rank == 0) || s.spoff == 0

/-- The block extent in dimension `k` (R95, R97). -/
def Sizing.extent (s : Sizing) (k : Nat) : Nat :=
  let n := 8 * 2 ^ s.bsize
  match s.dir, k with
  | 0, 0 => n
  | 1, 1 => n
  | 2, 0 | 2, 1 => if s.bsize = 3 then 8 else 16
  | _, _ => 1

/-- Is dimension `k` blocked? -/
def Sizing.blocked (s : Sizing) (k : Nat) : Bool := s.extent k != 1

/-- Blocks along each dimension of a shape (R97). -/
def Sizing.grid (s : Sizing) (shape : List Nat) : List Nat :=
  (List.range shape.length).map (fun k => ceilDiv (shape.getD k 1) (s.extent k))

/-- A dense index, dimension 0 fastest (R97). -/
def denseIndex (dims idx : List Nat) : Nat :=
  ((dims.zip idx).foldr (fun (n, i) acc => i + n * acc) 0)

/-- The scale index of an element in a grid of blocks (R97). -/
def Sizing.scaleIndex (s : Sizing) (shape idx : List Nat) : Nat :=
  denseIndex (s.grid shape) ((List.range idx.length).map (fun k => idx.getD k 0 / s.extent k))

end Sys2Proof.Machine
end

