-- ==== Sys2Proof/Machine/Flags.lean ====
section
/-! DEFINITION. Machine/Flags.lean: scalar floating point with the five sticky flags of FCSR (R61, R63). Codes are
binary64 or binary32; a result is its code and the flags it raises. -/

namespace Sys2Proof.Machine

/-- The flag bits of FCSR (R61). -/
def flagNX : Nat := 1
/-- Underflow. -/
def flagUF : Nat := 2
/-- Overflow. -/
def flagOF : Nat := 4
/-- Divide by zero. -/
def flagDZ : Nat := 8
/-- Invalid operation. -/
def flagNV : Nat := 16

/-- FCSR.RM (R61). -/
def fcsrRounding (fcsr : Nat) : Rounding :=
  match bits fcsr 8 2 with
  | 0 => .rne
  | 1 => .rtz
  | 2 => .rup
  | _ => .rdn

/-- What an MTS stores in FCSR: the reserved bits read 0 (R60, R61). -/
def fcsrStored (w : Nat) : Nat := bits w 0 5 + bits w 8 2 * 2 ^ 8

/-- The scalar format: binary32 for the `.S` forms, binary64 for the `.D` forms. -/
def scalarFormat (single : Bool) : Format := if single then .binary32 else .binary64

/-- Is the code a NaN of the format? -/
def isNanCode (f : Format) (c : Nat) : Bool := (f.decode c).isNan

/-- Is the code a signalling NaN: its quiet bit clear? -/
def isSignalling (f : Format) (c : Nat) : Bool := isNanCode f c && !bit c (f.shape.mant - 1)

/-- The NaN with its quiet bit set. -/
def quieten (f : Format) (c : Nat) : Nat := c ||| 2 ^ (f.shape.mant - 1)

/-- A rounded result is tiny when rounding with an unbounded exponent leaves it below the smallest normal (R61). -/
def tinyAfter (f : Format) (rm : Rounding) (neg : Bool) (m : Nat) (e : Int) : Bool :=
  let s := f.shape
  let ue := (m.log2 : Int) + e - (s.mant : Int)
  let n := (roundMag rm neg 0 m e ue).1
  m != 0 && decide ((n.log2 : Int) + ue < 1 - (s.bias : Int))

/-- What an overflow gives under FCSR.RM (IEEE 754-2019, by R63): the magnitude code. -/
def scalarOverflow (f : Format) (rm : Rounding) (neg : Bool) : Nat :=
  match rm with
  | .rtz => f.shape.maxCode
  | .rdn => if neg then f.shape.infCode else f.shape.maxCode
  | .rup => if neg then f.shape.maxCode else f.shape.infCode
  | _ => f.shape.infCode

/-- An exact number rounded once under FCSR.RM, with OF, UF and NX (R61, R63). No number gives the canonical NaN and
the caller's NV. -/
def scalarRound (f : Format) (rm : Rounding) (v : Val) : Nat × Nat :=
  match v with
  | .nan => (f.canonNan, flagNV)
  | .inf n => (f.withSign n f.shape.infCode, 0)
  | .fin n m e =>
    let (c, inexact) := f.shape.roundCode rm n 0 m e
    if f.shape.maxCode < c then (f.withSign n (scalarOverflow f rm n), flagOF + flagNX)
    else
      let uf := inexact && tinyAfter f rm n m e
      (f.withSign n c, b2n inexact * flagNX + b2n uf * flagUF)

/-- The first NaN among the operands, quieted, with NV where any operand signals (R63). -/
def nanResult (f : Format) (ops : List Nat) : Option (Nat × Nat) :=
  (ops.find? (isNanCode f)).map (fun c =>
    (quieten f c, if ops.any (isSignalling f) then flagNV else 0))

/-- The arithmetic of the pipelined F operations. -/
inductive FArith where
  | add | sub | mul | fma | fnma
  deriving DecidableEq, Repr

/-- FADD to FNMA: one rounding of the exact result (Table 3-6, R63). -/
def scalarArith (k : FArith) (f : Format) (fcsr a b c : Nat) : Nat × Nat :=
  let rm := fcsrRounding fcsr
  let down := rm == .rdn
  let va := f.decode a
  let vb := f.decode b
  let vc := f.decode c
  let prod := Val.mul va vb
  -- a zero times an infinity is invalid even where c is a quiet NaN (R63)
  let zeroInf := (va.isZero && vb.isInf) || (va.isInf && vb.isZero)
  match k with
  | .add => (nanResult f [a, b]).getD (scalarRound f rm (Val.add down va vb))
  | .sub => (nanResult f [a, b]).getD (scalarRound f rm (Val.add down va vb.neg))
  | .mul => (nanResult f [a, b]).getD (scalarRound f rm prod)
  | .fma =>
    match nanResult f [a, b, c] with
    | some (q, g) => (q, if zeroInf then flagNV else g)
    | none => scalarRound f rm (Val.add down prod vc)
  | .fnma =>
    match nanResult f [a, b, c] with
    | some (q, g) => (q, if zeroInf then flagNV else g)
    | none => scalarRound f rm (Val.add down prod.neg vc)

/-- FDIV (R63): DZ for a finite nonzero number over zero. -/
def scalarDiv (f : Format) (fcsr a b : Nat) : Nat × Nat :=
  let va := f.decode a
  let vb := f.decode b
  (nanResult f [a, b]).getD
    (let (q, g) := scalarRound f (fcsrRounding fcsr) (Val.div va vb)
     (q, if vb.isZero && va.isNonzero then flagDZ else g))

/-- FSQRT (R63). -/
def scalarSqrt (f : Format) (fcsr a : Nat) : Nat × Nat :=
  (nanResult f [a]).getD (scalarRound f (fcsrRounding fcsr) (Val.sqrt (f.decode a)))

/-- FMIN, FMAX, FMINN and FMAXN of binary64 (Table 3-6): NaN-propagating, or preferring the number; −0 below +0. -/
def scalarMinMax (isMax number : Bool) (a b : Nat) : Nat × Nat :=
  let f := Format.binary64
  let va := f.decode a
  let vb := f.decode b
  let g := if isSignalling f a || isSignalling f b then flagNV else 0
  if va.isNan || vb.isNan then
    if number && !va.isNan then (a, g)
    else if number && !vb.isNan then (b, g)
    else (nanResult f [a, b]).getD (f.canonNan, g)
  else if isMax then (if Val.ltZero va vb then b else a, 0)
  else (if Val.ltZero vb va then b else a, 0)

/-- The relations of FEQ, FLT and FLE. -/
inductive FRel where
  | eq | lt | le
  deriving DecidableEq, Repr

/-- FEQ is quiet; FLT and FLE signal any NaN (Table 3-6). -/
def scalarCompare (r : FRel) (a b : Nat) : Nat × Nat :=
  let f := Format.binary64
  let va := f.decode a
  let vb := f.decode b
  let anyNan := va.isNan || vb.isNan
  let sig := isSignalling f a || isSignalling f b
  match r with
  | .eq => (b2n (Val.eqv va vb), if sig then flagNV else 0)
  | .lt => (b2n (Val.lt va vb), if anyNan then flagNV else 0)
  | .le => (b2n (Val.le va vb), if anyNan then flagNV else 0)

/-- FCVT.D.S and FCVT.S.D. A NaN keeps its sign and the leading bits of its payload (DEDUCED, log entry 12: R63 quiets the
operand, and IEEE 754-2019 asks conversions to keep payloads). -/
def scalarConvert (toSingle : Bool) (fcsr a : Nat) : Nat × Nat :=
  let src := scalarFormat (!toSingle)
  let dst := scalarFormat toSingle
  match nanResult src [a] with
  | some (q, g) =>
    let neg := bit q (src.width - 1)
    let frac := q % 2 ^ src.shape.mant
    let frac' := if toSingle then frac / 2 ^ 29 else frac * 2 ^ 29
    (dst.withSign neg (dst.shape.infCode + frac'), g)
  | none => scalarRound dst (fcsrRounding fcsr) (src.decode a)

/-- FCVT.D.X and FCVT.D.XU. -/
def scalarFromInt (isSigned : Bool) (fcsr x : Nat) : Nat × Nat :=
  scalarRound .binary64 (fcsrRounding fcsr) (.ofInt (if isSigned then signed 64 x else (x : Int)))

/-- FCVT.X.D and FCVT.XU.D (R63): NV and never NX for a NaN or a value out of range after rounding. -/
def scalarToInt (isSigned : Bool) (fcsr a : Nat) : Nat × Nat :=
  let hi : Int := if isSigned then 2 ^ 63 - 1 else 2 ^ 64 - 1
  let lo : Int := if isSigned then -2 ^ 63 else 0
  match Format.binary64.decode a with
  | .nan => (unsigned 64 hi, flagNV)
  | .inf n => (unsigned 64 (if n then lo else hi), flagNV)
  | .fin n m e =>
    let (q, inexact) := roundMag (fcsrRounding fcsr) n 0 m e 0
    let x := signMag n q
    if x < lo then (unsigned 64 lo, flagNV)
    else if hi < x then (unsigned 64 hi, flagNV)
    else (unsigned 64 x, b2n inexact * flagNX)

end Sys2Proof.Machine
end

