-- ==== Sys2Proof/Machine/Operands.lean ====
section
/-! DEFINITION. Machine/Operands.lean: the bundle layout and every operand form of its slots (R53 to R56, R123, R155;
Tables 3-1 to 3-3, 3-6, 3-7, 3-11, 5-2, 5-3, 6-3, 6-4): which operation a slot holds, and which registers it names. -/

namespace Sys2Proof.Machine

/-! ### Exception causes (Tables 3-12, 5-4, 6-5) -/

/-- ILLEGAL_OP. -/
def cIllegalOp : Nat := 0x01
/-- ILLEGAL_REG. -/
def cIllegalReg : Nat := 0x02
/-- PC_RANGE. -/
def cPcRange : Nat := 0x03
/-- HAZARD. -/
def cHazard : Nat := 0x04
/-- BUSY. -/
def cBusy : Nat := 0x05
/-- LOOP_DEPTH. -/
def cLoopDepth : Nat := 0x06
/-- MISALIGNED. -/
def cMisaligned : Nat := 0x07
/-- TS_RANGE. -/
def cTsRange : Nat := 0x08
/-- DESC_FAULT. -/
def cDescFault : Nat := 0x09
/-- BOUNDS. -/
def cBounds : Nat := 0x0A
/-- POISON. -/
def cPoison : Nat := 0x0B
/-- DMA_ERROR. -/
def cDmaError : Nat := 0x0C
/-- WATCHDOG. -/
def cWatchdog : Nat := 0x0D
/-- PRIV. -/
def cPriv : Nat := 0x0E
/-- TRAP. -/
def cTrap : Nat := 0x0F
/-- NESTED. -/
def cNested : Nat := 0x10
/-- PS_ECC. -/
def cPsEcc : Nat := 0x18
/-- TS_ECC. -/
def cTsEcc : Nat := 0x19
/-- V_FORMAT. -/
def cVFormat : Nat := 0x20
/-- V_OPERAND. -/
def cVOperand : Nat := 0x21
/-- V_SIZING. -/
def cVSizing : Nat := 0x22
/-- V_MASK. -/
def cVMask : Nat := 0x23
/-- MX_FORMAT. -/
def cMxFormat : Nat := 0x40
/-- MX_OPERAND. -/
def cMxOperand : Nat := 0x41
/-- MX_ACCMODE. -/
def cMxAccMode : Nat := 0x42
/-- MX_NOLEDGER. -/
def cMxNoLedger : Nat := 0x43
/-- MX_ACCROW. -/
def cMxAccRow : Nat := 0x44
/-- MX_MASK. -/
def cMxMask : Nat := 0x45

/-! ### The operations -/

/-- Two-operand integer operations of SA and SB (Table 3-6). -/
inductive AluOp where
  | add | sub | and | or | xor | sll | srl | sra | mul | mulhu | mulhs | seq | slts | sltu
  deriving DecidableEq, Repr

/-- The operations of SA and SB (Table 3-6). -/
inductive ScalarOp where
  | nop
  | alu (o : AluOp) (d a b : Nat)
  | aluImm (o : AluOp) (d a imm : Nat)
  | selz (d a b c : Nat)
  | divide (isSigned isRem : Bool) (d a b : Nat)
  | li (d imm : Nat)
  | lih (d a imm : Nat)
  | farith (k : FArith) (single : Bool) (d a b c : Nat)
  | fdiv (single : Bool) (d a b : Nat)
  | fsqrt (single : Bool) (d a : Nat)
  | fminmax (isMax number : Bool) (d a b : Nat)
  | fcmp (r : FRel) (d a b : Nat)
  | fcvt (toSingle : Bool) (d a : Nat)
  | fcvtDX (isSigned : Bool) (d a : Nat)
  | fcvtXD (isSigned : Bool) (d a : Nat)
  | fmvXF (d a : Nat)
  | fmvFX (d a : Nat)
  | fneg (d a : Nat)
  | fabs (d a : Nat)
  | mfs (d spr : Nat)
  | mts (a spr : Nat)
  | pset (d a : Nat)
  | pget (d a : Nat)
  deriving DecidableEq, Repr

/-- What a DMA moves (Table 3-7). -/
inductive DmaKind where
  | rd | wr | add
  deriving DecidableEq, Repr

/-- The operations of LA and LB (Table 3-7). -/
inductive LoadStoreOp where
  | nop
  | load (bytes : Nat) (isSigned : Bool) (d a imm : Nat)
  | store (bytes : Nat) (d a imm : Nat)
  | fload (bytes : Nat) (d a imm : Nat)
  | fstore (bytes : Nat) (d a imm : Nat)
  | dsld (d a imm : Nat)
  | dsst (d a imm : Nat)
  | dma (kind : DmaKind) (prep : Bool) (ds t s e tag le : Nat)
  | dmaWait (mask : Nat)
  | dmaTest (d mask : Nat)
  deriving DecidableEq, Repr

/-- The fence scopes of Table 3-11. -/
inductive FenceScope where
  | tile | sheet | device
  deriving DecidableEq, Repr

/-- The operations of CT (Table 3-11). -/
inductive ControlOp where
  | nop
  | br (imm : Nat)
  | brz (onZero : Bool) (a imm : Nat)
  | call (d imm : Nat)
  | jr (a : Nat)
  | loop (a imm : Nat)
  | fence (scope : FenceScope)
  | fenceP (d a : Nat)
  | barArrive (b : Nat)
  | barWait (d b : Nat)
  | waitcad (a : Nat)
  | launchAt (a mask : Nat)
  | prepSlv (a entry : Nat)
  | waitev (d imm : Nat)
  | post (d a target : Nat)
  | stepOpen (d a : Nat)
  | stepCommit (d a : Nat)
  | trap (imm : Nat)
  | eret
  | brkpt
  | halt
  deriving DecidableEq, Repr

/-- The operations of MX (Tables 5-2 and 5-3). `acc` is 0 for ping and 1 for pong. -/
inductive MatrixOp where
  | nop
  | mma (prep : Bool) (dsa dsb xs acc : Nat) (z : Bool) (le : Nat)
  | drainT (d xi fmt acc : Nat)
  | drainS (ds xs xi acc : Nat)
  | accld (r acc : Nat)
  | accst (r acc : Nat)
  | accinv (r mode : Nat)
  deriving DecidableEq, Repr

/-- The form VR operations of VA and VB (Table 6-4). -/
inductive VrOp where
  | vadd | vsub | vmul | vfma | vfnma | vdiv | vsqrt | vmax | vmin | vabs | vneg
  | vand | vor | vxor | vsll | vsrl | vsra | vmv | vsel | viota
  | vcmpeq | vcmpne | vcmplt | vcmple | mand | mor | mxor | mandn | vpop | vcvt | vld | vst
  | vrsum | vrprod | vrmax | vrmin | vrand | vror | vrargmax | vrargmin
  | vtrsum | vtrmax | vtrmin | vtget | vtput | vscanAdd | vscanMax | vscanMin
  deriving DecidableEq, Repr

/-- The form VX operations of VA and VB (Table 6-4). -/
inductive VxOp where
  | vgather | vscatter | vcvtLd | vcvtSt | vbridge
  deriving DecidableEq, Repr

/-- The operations of VA and VB with their fields (Table 6-3). -/
inductive VectorOp where
  | nop
  | vr (o : VrOp) (d a b c fmt fmt2 xi : Nat) (axis seg excl bs : Bool)
  | vx (o : VxOp) (ds xs v x dse xi vfmt : Nat)
  deriving DecidableEq, Repr

/-- The operation of a slot. -/
inductive SlotOp where
  | scalar (o : ScalarOp)
  | loadStore (o : LoadStoreOp)
  | vector (o : VectorOp)
  | matrix (o : MatrixOp)
  | control (o : ControlOp)
  deriving DecidableEq, Repr

/-- A decoded slot: its number, its predicate register and its operation (R55). -/
structure Slot where
  k : Nat
  pred : Nat
  op : SlotOp
  deriving DecidableEq, Repr

/-! ### Forms (Table 3-3): fields of the operand bits, and the reserved ones -/

/-- The sign-extended imm32 of form I, as 64 bits. -/
def immI (w : Nat) : Nat := unsigned 64 (signed 32 (bits w 0 32))

/-- The field d. -/
def fD (w : Nat) : Nat := bits w 42 6
/-- The field a. -/
def fA (w : Nat) : Nat := bits w 36 6
/-- The field b. -/
def fB (w : Nat) : Nat := bits w 30 6
/-- The field c. -/
def fC (w : Nat) : Nat := bits w 24 6

/-- Form R has no reserved bit set. -/
def okR (w : Nat) : Bool := bits w 0 24 == 0
/-- Form I has no reserved bit set. -/
def okI (w : Nat) : Bool := bits w 32 4 == 0
/-- Form S has no reserved bit set. -/
def okS (w : Nat) : Bool := bits w 0 30 == 0
/-- Form C has no reserved bit set. -/
def okC (w : Nat) : Bool := bits w 16 20 == 0
/-- Form D has no reserved bit set. -/
def okD (w : Nat) : Bool := bits w 0 19 == 0
/-- The form "—" has every bit reserved. -/
def okNone (w : Nat) : Bool := bits w 0 48 == 0

/-- ILLEGAL_OP unless the condition holds. -/
def opIf {α : Type} (ok : Bool) (v : α) : Except Nat α := if ok then .ok v else .error cIllegalOp

/-- ILLEGAL_OP unless the first condition holds, then ILLEGAL_REG unless the second does (the order within one slot is a
DESIGN CHOICE, log entry 100). -/
def regIf {α : Type} (ok reg : Bool) (v : α) : Except Nat α :=
  if !ok then .error cIllegalOp else if !reg then .error cIllegalReg else .ok v

/-- An F register index (R58). -/
def isF (n : Nat) : Bool := n ≤ 31
/-- An M register index. -/
def isM (n : Nat) : Bool := n ≤ 15

/-- The special registers and whether an MTS may name them (Table 3-5). -/
def sprWritable : Nat → Option Bool
  | 0x000 | 0x001 | 0x010 | 0x011 | 0x012 | 0x021 | 0x030 | 0x031 | 0x032 | 0x034 | 0x040 => some true
  | 0x020 | 0x033 | 0x041 | 0x050 => some false
  | _ => none

/-- Table 3-6: the operation of an SA or SB slot. -/
def decodeScalar (opc w : Nat) : Except Nat ScalarOp :=
  let d := fD w
  let a := fA w
  let b := fB w
  let c := fC w
  let alu (o : AluOp) : Except Nat ScalarOp := opIf (okR w) (.alu o d a b)
  let imm (o : AluOp) : Except Nat ScalarOp := opIf (okI w) (.aluImm o d a (immI w))
  let shi (o : AluOp) : Except Nat ScalarOp :=
    opIf (okI w && bits w 6 26 == 0) (.aluImm o d a (bits w 0 6))
  let fa (k : FArith) (s : Bool) : Except Nat ScalarOp :=
    regIf (okR w) (isF d && isF a && isF b && ((k != .fma && k != .fnma) || isF c)) (.farith k s d a b c)
  match opc with
  | 0x000 => opIf (okNone w) .nop
  | 0x001 => alu .add
  | 0x002 => alu .sub
  | 0x003 => alu .and
  | 0x004 => alu .or
  | 0x005 => alu .xor
  | 0x006 => alu .sll
  | 0x007 => alu .srl
  | 0x008 => alu .sra
  | 0x009 => alu .mul
  | 0x00A => alu .mulhu
  | 0x00B => alu .mulhs
  | 0x00C => alu .seq
  | 0x00D => alu .slts
  | 0x00E => alu .sltu
  | 0x00F => opIf (okR w) (.selz d a b c)
  | 0x010 => opIf (okR w) (.divide false false d a b)
  | 0x011 => opIf (okR w) (.divide true false d a b)
  | 0x012 => opIf (okR w) (.divide false true d a b)
  | 0x013 => opIf (okR w) (.divide true true d a b)
  | 0x021 => imm .add
  | 0x023 => imm .and
  | 0x024 => imm .or
  | 0x025 => imm .xor
  | 0x026 => shi .sll
  | 0x027 => shi .srl
  | 0x028 => shi .sra
  | 0x02C => imm .seq
  | 0x02D => imm .slts
  | 0x02E => imm .sltu
  | 0x030 => opIf (okI w && a == 0) (.li d (immI w))
  | 0x031 => opIf (okI w) (.lih d a (bits w 0 32))
  | 0x040 => fa .add false
  | 0x041 => fa .sub false
  | 0x042 => fa .mul false
  | 0x043 => fa .fma false
  | 0x044 => fa .fnma false
  | 0x048 => fa .add true
  | 0x049 => fa .sub true
  | 0x04A => fa .mul true
  | 0x04B => fa .fma true
  | 0x04C => fa .fnma true
  | 0x050 => regIf (okR w) (isF d && isF a && isF b) (.fdiv false d a b)
  | 0x051 => regIf (okR w) (isF d && isF a) (.fsqrt false d a)
  | 0x052 => regIf (okR w) (isF d && isF a && isF b) (.fdiv true d a b)
  | 0x053 => regIf (okR w) (isF d && isF a) (.fsqrt true d a)
  | 0x058 => regIf (okR w) (isF d && isF a && isF b) (.fminmax false false d a b)
  | 0x059 => regIf (okR w) (isF d && isF a && isF b) (.fminmax true false d a b)
  | 0x05A => regIf (okR w) (isF d && isF a && isF b) (.fminmax false true d a b)
  | 0x05B => regIf (okR w) (isF d && isF a && isF b) (.fminmax true true d a b)
  | 0x05C => regIf (okR w) (isF a && isF b) (.fcmp .eq d a b)
  | 0x05D => regIf (okR w) (isF a && isF b) (.fcmp .lt d a b)
  | 0x05E => regIf (okR w) (isF a && isF b) (.fcmp .le d a b)
  | 0x060 => regIf (okR w) (isF d && isF a) (.fcvt false d a)
  | 0x061 => regIf (okR w) (isF d && isF a) (.fcvt true d a)
  | 0x062 => regIf (okR w) (isF d) (.fcvtDX true d a)
  | 0x063 => regIf (okR w) (isF a) (.fcvtXD true d a)
  | 0x064 => regIf (okR w) (isF d) (.fcvtDX false d a)
  | 0x065 => regIf (okR w) (isF a) (.fcvtXD false d a)
  | 0x068 => regIf (okR w) (isF a) (.fmvXF d a)
  | 0x069 => regIf (okR w) (isF d) (.fmvFX d a)
  | 0x06A => regIf (okR w) (isF d && isF a) (.fneg d a)
  | 0x06B => regIf (okR w) (isF d && isF a) (.fabs d a)
  | 0x080 => regIf (okS w) ((sprWritable (bits w 30 12)).isSome) (.mfs d (bits w 30 12))
  | 0x081 => regIf (okS w) (sprWritable (bits w 30 12) == some true) (.mts d (bits w 30 12))
  | 0x082 => regIf (okR w) (isM d) (.pset d a)
  | 0x083 => regIf (okR w) (isM a) (.pget d a)
  | _ => .error cIllegalOp

/-- Table 3-7: the operation of an LA or LB slot. -/
def decodeLoadStore (opc w : Nat) : Except Nat LoadStoreOp :=
  let d := fD w
  let a := fA w
  let imm := immI w
  let ld (n : Nat) (s : Bool) : Except Nat LoadStoreOp := opIf (okI w) (.load n s d a imm)
  let st (n : Nat) : Except Nat LoadStoreOp := opIf (okI w) (.store n d a imm)
  let dma (k : DmaKind) (p : Bool) : Except Nat LoadStoreOp :=
    let s := bits w 32 6
    regIf (okD w) (s % 2 == 0) (.dma k p (bits w 44 4) (bits w 38 6) s (bits w 26 6) (bits w 21 5) (bits w 19 2))
  match opc with
  | 0x000 => opIf (okNone w) .nop
  | 0x001 => ld 1 true
  | 0x002 => ld 1 false
  | 0x003 => ld 2 true
  | 0x004 => ld 2 false
  | 0x005 => ld 4 true
  | 0x006 => ld 4 false
  | 0x007 => ld 8 false
  | 0x008 => st 1
  | 0x009 => st 2
  | 0x00A => st 4
  | 0x00B => st 8
  | 0x00C => regIf (okI w) (isF d) (.fload 8 d a imm)
  | 0x00D => regIf (okI w) (isF d) (.fstore 8 d a imm)
  | 0x00E => regIf (okI w) (isF d) (.fload 4 d a imm)
  | 0x00F => regIf (okI w) (isF d) (.fstore 4 d a imm)
  | 0x010 => regIf (okI w) (d ≤ 15) (.dsld d a imm)
  | 0x011 => regIf (okI w) (d ≤ 15) (.dsst d a imm)
  | 0x020 => dma .rd false
  | 0x021 => dma .wr false
  | 0x022 => dma .add false
  | 0x024 => dma .rd true
  | 0x025 => dma .wr true
  | 0x026 => dma .add true
  | 0x028 => opIf (okI w && a == 0) (.dmaWait (bits w 0 32))
  | 0x029 => opIf (okI w) (.dmaTest d (bits w 0 32))
  | _ => .error cIllegalOp

/-- Table 3-11: the operation of a CT slot. -/
def decodeControl (opc w : Nat) : Except Nat ControlOp :=
  let d := fD w
  let a := fA w
  let imm := bits w 0 16
  match opc with
  | 0x000 => opIf (okNone w) .nop
  | 0x001 => opIf (okC w) (.br imm)
  | 0x002 => opIf (okC w) (.brz true a imm)
  | 0x003 => opIf (okC w) (.brz false a imm)
  | 0x004 => opIf (okC w) (.call d imm)
  | 0x005 => opIf (okC w) (.jr a)
  | 0x008 => opIf (okC w && imm != 0) (.loop a imm)
  | 0x010 => opIf (okNone w) (.fence .tile)
  | 0x011 => opIf (okNone w) (.fence .sheet)
  | 0x012 => opIf (okNone w) (.fence .device)
  | 0x013 => opIf (okC w) (.fenceP d a)
  | 0x018 => opIf (okC w && bits w 8 8 == 0) (.barArrive (bits w 0 8))
  | 0x019 => opIf (okC w && bits w 8 8 == 0) (.barWait d (bits w 0 8))
  | 0x020 => opIf (okC w) (.waitcad a)
  | 0x021 => opIf (okC w) (.launchAt a (bits w 0 4))
  | 0x022 => opIf (okC w) (.prepSlv a (bits w 0 2))
  | 0x028 => opIf (okI w) (.waitev d (bits w 0 32))
  | 0x029 => opIf (okC w && decide (bits w 0 4 ≤ 3)) (.post d a (bits w 0 4))
  | 0x030 => opIf (okC w) (.stepOpen d a)
  | 0x031 => opIf (okC w) (.stepCommit d a)
  | 0x038 => opIf (okC w) (.trap imm)
  | 0x039 => opIf (okNone w) .eret
  | 0x03A => opIf (okNone w) .brkpt
  | 0x03F => opIf (okNone w) .halt
  | _ => .error cIllegalOp

/-- Tables 5-2 and 5-3: the operation of an MX slot. -/
def decodeMatrix (opc w : Nat) : Except Nat MatrixOp :=
  let xs := bits w 34 6
  let mma (p : Bool) : Except Nat MatrixOp :=
    regIf (bits w 0 30 == 0 && (p || bits w 30 2 == 0)) (xs % 2 == 0)
      (.mma p (bits w 44 4) (bits w 40 4) xs (bits w 33 1) (bit w 32) (bits w 30 2))
  match opc with
  | 0x000 => opIf (okNone w) .nop
  | 0x001 => mma false
  | 0x002 => mma true
  | 0x008 =>
    let d := bits w 44 4
    let fmt := bits w 24 8
    regIf (bits w 0 23 == 0 && bits w 38 6 == 0) (decide (d ≤ 7) && !(fmt == 1 && d % 2 == 1))
      (.drainT d (bits w 32 6) fmt (bits w 23 1))
  | 0x009 =>
    opIf (bits w 0 23 == 0 && bits w 24 8 == 0) (.drainS (bits w 44 4) (bits w 38 6) (bits w 32 6) (bits w 23 1))
  | 0x010 => opIf (bits w 0 41 == 0) (.accld (fD w) (bits w 41 1))
  | 0x011 => opIf (bits w 0 41 == 0) (.accst (fD w) (bits w 41 1))
  | 0x012 => opIf (bits w 0 40 == 0 && !bit w 41) (.accinv (fD w) (bits w 40 1))
  | _ => .error cIllegalOp

/-- Table 6-4: the opcodes of form VR. -/
def vrOfCode : Nat → Option VrOp
  | 0x001 => some .vadd
  | 0x002 => some .vsub
  | 0x003 => some .vmul
  | 0x004 => some .vfma
  | 0x005 => some .vfnma
  | 0x006 => some .vdiv
  | 0x007 => some .vsqrt
  | 0x008 => some .vmax
  | 0x009 => some .vmin
  | 0x00A => some .vabs
  | 0x00B => some .vneg
  | 0x010 => some .vand
  | 0x011 => some .vor
  | 0x012 => some .vxor
  | 0x013 => some .vsll
  | 0x014 => some .vsrl
  | 0x015 => some .vsra
  | 0x018 => some .vmv
  | 0x019 => some .vsel
  | 0x01A => some .viota
  | 0x020 => some .vcmpeq
  | 0x021 => some .vcmpne
  | 0x022 => some .vcmplt
  | 0x023 => some .vcmple
  | 0x024 => some .mand
  | 0x025 => some .mor
  | 0x026 => some .mxor
  | 0x027 => some .mandn
  | 0x028 => some .vpop
  | 0x030 => some .vcvt
  | 0x038 => some .vld
  | 0x039 => some .vst
  | 0x050 => some .vrsum
  | 0x051 => some .vrprod
  | 0x052 => some .vrmax
  | 0x053 => some .vrmin
  | 0x054 => some .vrand
  | 0x055 => some .vror
  | 0x056 => some .vrargmax
  | 0x057 => some .vrargmin
  | 0x058 => some .vtrsum
  | 0x059 => some .vtrmax
  | 0x05A => some .vtrmin
  | 0x05C => some .vtget
  | 0x05D => some .vtput
  | 0x060 => some .vscanAdd
  | 0x061 => some .vscanMax
  | 0x062 => some .vscanMin
  | _ => none

/-- Table 6-4: the opcodes of form VX. -/
def vxOfCode : Nat → Option VxOp
  | 0x040 => some .vgather
  | 0x041 => some .vscatter
  | 0x042 => some .vcvtLd
  | 0x043 => some .vcvtSt
  | 0x044 => some .vbridge
  | _ => none

/-- What a register field of form VR names. -/
inductive FieldKind where
  | none | x | v | m | t
  deriving DecidableEq, Repr

/-- The use an operation of form VR makes of its fields: d, a, b, c, and FMT, FMT2, X i, AXIS, SEG, EXCL, BS. -/
structure VrUse where
  d : FieldKind
  a : FieldKind
  b : FieldKind
  c : FieldKind
  fmt : Bool
  fmt2 : Bool
  xi : Bool
  axis : Bool
  scan : Bool
  bs : Bool
  deriving DecidableEq, Repr

/-- The use each operation makes of its fields (Tables 6-3 and 6-4). -/
def VrOp.uses : VrOp → VrUse
  | .vadd | .vsub | .vmul | .vdiv => ⟨.v, .v, .v, .none, true, false, true, false, false, true⟩
  | .vfma | .vfnma => ⟨.v, .v, .v, .v, true, false, true, false, false, true⟩
  | .vsqrt => ⟨.v, .v, .none, .none, true, false, true, false, false, false⟩
  | .vmax | .vmin => ⟨.v, .v, .v, .none, true, false, false, false, false, true⟩
  | .vabs | .vneg => ⟨.v, .v, .none, .none, true, false, false, false, false, false⟩
  | .vand | .vor | .vxor | .vsll | .vsrl | .vsra => ⟨.v, .v, .v, .none, true, false, false, false, false, true⟩
  | .vmv => ⟨.v, .v, .none, .none, true, false, false, false, false, true⟩
  | .vsel => ⟨.v, .v, .v, .m, true, false, false, false, false, true⟩
  | .viota => ⟨.v, .x, .none, .none, true, false, false, false, false, false⟩
  | .vcmpeq | .vcmpne | .vcmplt | .vcmple => ⟨.m, .v, .v, .none, true, false, false, false, false, true⟩
  | .mand | .mor | .mxor | .mandn => ⟨.m, .m, .m, .none, false, false, false, false, false, false⟩
  | .vpop => ⟨.v, .m, .none, .none, false, false, false, false, false, false⟩
  | .vcvt => ⟨.v, .v, .none, .none, true, true, true, false, false, false⟩
  | .vld => ⟨.v, .x, .none, .none, true, false, false, false, false, false⟩
  | .vst => ⟨.none, .x, .v, .none, true, false, false, false, false, false⟩
  | .vrsum | .vrprod => ⟨.v, .v, .none, .none, true, true, true, false, false, false⟩
  | .vrmax | .vrmin | .vrand | .vror | .vrargmax | .vrargmin =>
    ⟨.v, .v, .none, .none, true, false, false, false, false, false⟩
  | .vtrsum | .vtrmax | .vtrmin => ⟨.v, .t, .none, .none, true, true, true, true, false, false⟩
  | .vtget => ⟨.v, .t, .x, .none, false, false, false, true, false, false⟩
  | .vtput => ⟨.t, .v, .x, .none, false, false, false, true, false, false⟩
  | .vscanAdd | .vscanMax | .vscanMin => ⟨.v, .v, .none, .m, true, true, true, false, true, false⟩

/-- The greatest index of a kind of field. -/
def FieldKind.top : FieldKind → Nat
  | .none => 0
  | .x => 63
  | .v => 31
  | .m => 15
  | .t => 7

/-- A field of FMT code is a floating one, so that BS takes an F register (R156). -/
def fmtIsFloat (fmt : Nat) : Bool := (Format.ofCode fmt).any Format.isFloat

/-- Tables 6-3 and 6-4: the operation of a VA or VB slot (R155, R156, R170, R173). -/
def decodeVector (opc w : Nat) : Except Nat VectorOp :=
  if opc = 0 then opIf (okNone w) .nop
  else
    match vrOfCode opc, vxOfCode opc with
    | some o, _ =>
      let u := o.uses
      let d := fD w
      let a := fA w
      let b := fB w
      let c := fC w
      let fmt := bits w 18 6
      let fmt2 := bits w 12 6
      let xi := bits w 6 6
      let axis := bit w 5
      let seg := bit w 4
      let excl := bit w 3
      let bs := bit w 2
      let ka := if o = .vmv ∧ bs then FieldKind.none else u.a
      let kb := if bs then (if fmtIsFloat fmt then FieldKind.v else .x) else u.b
      let kc := if u.scan ∧ !seg then FieldKind.none else u.c
      let unusedZero (k : FieldKind) (n : Nat) : Bool := k != .none || n == 0
      let ok := bits w 0 2 == 0 && unusedZero u.d d && unusedZero ka a && unusedZero kb b && unusedZero kc c
        && (u.fmt2 || fmt2 == 0) && (u.xi || xi == 0) && (u.axis || !axis)
        && (u.scan || (!seg && !excl)) && (u.bs || !bs)
      let inFile (k : FieldKind) (n : Nat) : Bool := k == .none || n ≤ k.top
      let evenT := !((o = .vtrsum || o = .vtrmax || o = .vtrmin) && fmt == 1 && a % 2 == 1)
      regIf ok (inFile u.d d && inFile ka a && inFile kb b && inFile kc c && evenT)
        (.vr o d a b c fmt fmt2 xi axis seg excl bs)
    | none, some o =>
      let ds := bits w 44 4
      let xs := bits w 38 6
      let v := bits w 32 6
      let x := bits w 26 6
      let dse := bits w 22 4
      let xi := bits w 16 6
      let vfmt := bits w 10 6
      let gs := o = .vgather || o = .vscatter
      let ok := bits w 0 10 == 0
        && (if gs then xs == 0 && xi == 0 && vfmt == 0 && dse == 0 else x == 0 && (o = .vbridge || dse == 0))
      regIf ok (xs % 2 == 0 && v ≤ 31 && x ≤ 31) (.vx o ds xs v x dse xi vfmt)
    | none, none => .error cIllegalOp

/-- The operation of slot `k` (Table 3-2). -/
def decodeSlot (k w : Nat) : Except Nat Slot :=
  let opc := bits w 52 10
  let pred := bits w 48 4
  let body := w % 2 ^ 48
  let mk (o : SlotOp) : Slot := ⟨k, pred, o⟩
  match k with
  | 0 | 1 => (decodeScalar opc body).map (fun o => mk (.scalar o))
  | 2 | 3 => (decodeLoadStore opc body).map (fun o => mk (.loadStore o))
  | 4 | 5 => (decodeVector opc body).map (fun o => mk (.vector o))
  | 6 => (decodeMatrix opc body).map (fun o => mk (.matrix o))
  | _ => (decodeControl opc body).map (fun o => mk (.control o))

/-! ### The registers a slot names -/

/-- The register files that take part in hazards and interlocks (R72, R73). Fn and Vn are one register (R58). -/
inductive RegFile where
  | x | v | m | t | ds
  deriving DecidableEq, Repr

/-- A register of a file. -/
structure Reg where
  file : RegFile
  n : Nat
  deriving DecidableEq, Repr

/-- An X register. -/
def rX (n : Nat) : Reg := ⟨.x, n⟩
/-- A V register, or the F register it overlays. -/
def rV (n : Nat) : Reg := ⟨.v, n⟩
/-- An M register. -/
def rM (n : Nat) : Reg := ⟨.m, n⟩
/-- A T register. -/
def rT (n : Nat) : Reg := ⟨.t, n⟩
/-- A DS register. -/
def rDS (n : Nat) : Reg := ⟨.ds, n⟩

/-- Sources and destinations of a scalar operation. -/
def ScalarOp.regs : ScalarOp → List Reg × List Reg
  | .nop => ([], [])
  | .alu _ d a b => ([rX a, rX b], [rX d])
  | .aluImm _ d a _ => ([rX a], [rX d])
  | .selz d a b c => ([rX a, rX b, rX c], [rX d])
  | .divide _ _ d a b => ([rX a, rX b], [rX d])
  | .li d _ => ([], [rX d])
  | .lih d a _ => ([rX a], [rX d])
  | .farith k _ d a b c =>
    ([rV a, rV b] ++ (if k = .fma ∨ k = .fnma then [rV c] else []), [rV d])
  | .fdiv _ d a b => ([rV a, rV b], [rV d])
  | .fsqrt _ d a => ([rV a], [rV d])
  | .fminmax _ _ d a b => ([rV a, rV b], [rV d])
  | .fcmp _ d a b => ([rV a, rV b], [rX d])
  | .fcvt _ d a => ([rV a], [rV d])
  | .fcvtDX _ d a => ([rX a], [rV d])
  | .fcvtXD _ d a => ([rV a], [rX d])
  | .fmvXF d a => ([rV a], [rX d])
  | .fmvFX d a => ([rX a], [rV d])
  | .fneg d a => ([rV a], [rV d])
  | .fabs d a => ([rV a], [rV d])
  | .mfs d _ => ([], [rX d])
  | .mts a _ => ([rX a], [])
  | .pset d a => ([rX a], [rM d])
  | .pget d a => ([rM a], [rX d])

/-- Sources and destinations of a load or store. -/
def LoadStoreOp.regs : LoadStoreOp → List Reg × List Reg
  | .nop => ([], [])
  | .load _ _ d a _ => ([rX a], [rX d])
  | .store _ d a _ => ([rX a, rX d], [])
  | .fload _ d a _ => ([rX a], [rV d])
  | .fstore _ d a _ => ([rX a, rV d], [])
  | .dsld d a _ => ([rX a], [rDS d])
  | .dsst d a _ => ([rX a, rDS d], [])
  | .dma _ _ ds t s e _ _ => ([rDS ds, rX t, rX s, rX (s + 1), rX e], [])
  | .dmaWait _ => ([], [])
  | .dmaTest d _ => ([], [rX d])

/-- Sources and destinations of a control operation. -/
def ControlOp.regs : ControlOp → List Reg × List Reg
  | .brz _ a _ => ([rX a], [])
  | .call d _ => ([], [rX d])
  | .jr a => ([rX a], [])
  | .loop a _ => ([rX a], [])
  | .fenceP d a => ([rX a], [rX d])
  | .barWait d _ => ([], [rX d])
  | .waitcad a => ([rX a], [])
  | .launchAt a _ => ([rX a], [])
  | .prepSlv a _ => ([rX a], [])
  | .waitev d _ => ([], [rX d])
  | .post d a _ => ([rX a], [rX d])
  | .stepOpen d a => ([rX a], [rX d])
  | .stepCommit d a => ([rX a], [rX d])
  | _ => ([], [])

/-- Sources and destinations of a matrix operation. -/
def MatrixOp.regs : MatrixOp → List Reg × List Reg
  | .nop => ([], [])
  | .mma _ dsa dsb xs _ _ _ => ([rDS dsa, rDS dsb, rX xs, rX (xs + 1)], [])
  | .drainT d xi fmt _ => ([rX xi], if fmt = 1 then [rT d, rT (d + 1)] else [rT d])
  | .drainS ds xs xi _ => ([rDS ds, rX xs, rX xi], [])
  | .accld r _ => ([rX r], [])
  | .accst r _ => ([rX r], [])
  | .accinv r _ => ([rX r], [])

/-- The registers a field of form VR names. -/
def FieldKind.reg (k : FieldKind) (n : Nat) : List Reg :=
  match k with
  | .none => []
  | .x => [rX n]
  | .v => [rV n]
  | .m => [rM n]
  | .t => [rT n]

/-- Sources and destinations of a vector operation. -/
def VectorOp.regs : VectorOp → List Reg × List Reg
  | .nop => ([], [])
  | .vr o d a b c fmt _ xi _ seg _ bs =>
    let u := o.uses
    let ka := if o = .vmv ∧ bs then FieldKind.none else u.a
    let kb := if bs then (if fmtIsFloat fmt then FieldKind.v else .x) else u.b
    let kc := if u.scan ∧ !seg then FieldKind.none else u.c
    let highT := if u.a = .t ∧ fmt = 1 then [rT (a + 1)] else []
    (ka.reg a ++ kb.reg b ++ kc.reg c ++ highT ++ (if u.xi then [rX xi] else []), u.d.reg d)
  | .vx o ds xs v x dse xi _ =>
    match o with
    | .vgather => ([rDS ds, rV x], [rV v])
    | .vscatter => ([rDS ds, rV x, rV v], [])
    | .vcvtLd => ([rDS ds, rX xs, rX (xs + 1), rX xi], [rV v])
    | .vcvtSt => ([rDS ds, rX xs, rX (xs + 1), rX xi, rV v], [])
    | .vbridge => ([rDS ds, rDS dse, rX xs, rX (xs + 1), rX xi, rV v], [])

/-- Sources and destinations of a slot, its predicate register among the sources (R56). -/
def Slot.regs (s : Slot) : List Reg × List Reg :=
  let (src, dst) := match s.op with
    | .scalar o => o.regs
    | .loadStore o => o.regs
    | .vector o => o.regs
    | .matrix o => o.regs
    | .control o => o.regs
  (rM s.pred :: src, dst)

/-- Registers that discard what is written to them are never pending: X0 and M0 (R56, R58). -/
def Reg.discards (r : Reg) : Bool := (r.file == .x || r.file == .m) && r.n == 0

/-- The slot holds VGATHER or VSCATTER (R158). -/
def Slot.isGather (s : Slot) : Bool :=
  match s.op with
  | .vector (.vx .vgather ..) | .vector (.vx .vscatter ..) => true
  | _ => false

/-- A bundle: its VALID, SER and reserved header bits (Table 3-1). -/
structure Header where
  valid : Nat
  ser : Bool
  reserved : Nat
  deriving DecidableEq, Repr

/-- The header of a bundle. -/
def bundleHeader (b : Nat) : Header := ⟨bits b 504 8, bit b 503, bits b 496 7⟩

/-- An exception as a bundle raises it: cause, slot (8 for the header) and EXC.ADDR (R83). -/
structure Exc where
  cause : Nat
  slot : Nat
  addr : Nat
  deriving DecidableEq, Repr

/-- R158: a bundle that holds VGATHER or VSCATTER holds no LA, LB or MX operation, no operation in the other vector
slot, and no operation that reads the gather's destination. -/
def gatherConflict (slots : List Slot) (s : Slot) : Bool :=
  s.isGather && slots.any (fun o => o.k != s.k &&
    ((decide (2 ≤ o.k) && decide (o.k ≤ 6)) || o.regs.1.any (fun r => s.regs.2.contains r)))

/-- Decode a bundle: its slots, or the first exception of the decode phase (R54, R55, R58, R83, R158). Of two slots that
name one destination the higher raises ILLEGAL_REG (DESIGN CHOICE, log entry 100). -/
def decodeBundle (b : Nat) : Except Exc (List Slot × Bool) :=
  let h := bundleHeader b
  if h.reserved ≠ 0 then .error ⟨cIllegalOp, 8, 0⟩
  else
    let ks := (List.range 8).filter (fun k => bit h.valid k)
    let tries := ks.map (fun k => (k, decodeSlot k (bits b (62 * k) 62)))
    let slots := tries.filterMap (fun (_, r) => match r with
      | .ok s => some s
      | .error _ => none)
    let dup (s : Slot) : Bool := slots.any (fun o => decide (o.k < s.k) &&
      s.regs.2.any (fun r => !r.discards && o.regs.2.contains r))
    let bad := tries.findSome? (fun (k, r) => match r with
      | .error c => some (⟨c, k, 0⟩ : Exc)
      | .ok s => if dup s then some ⟨cIllegalReg, k, 0⟩
        else if gatherConflict slots s then some ⟨cIllegalOp, k, 0⟩ else none)
    match bad with
    | some e => .error e
    | none => .ok (slots, h.ser)

end Sys2Proof.Machine
end

