-- ==== Sys2Proof/Machine/TileState.lean ====
section
/-! DEFINITION. Machine/TileState.lean: the state of one physical tile: the Denuc core, its tile store and DMA, its
matrix array with the accumulator memory, and its long-vector engine (R52 to R88, R118 to R180). -/

namespace Sys2Proof.Machine

/-- TIL.RUNSTAT.STATE without STALLED, which `Tile.stallWhy` gives (Table 3-14). -/
inductive RunState where
  | idle | running | handler | halted | excHalt
  deriving DecidableEq, Repr

/-- What a fixed-latency write changes when it lands (R71). -/
inductive Target where
  | x (n : Nat)
  | f (n : Nat)
  | m (n : Nat)
  | ds (n : Nat)
  | spr (n : Nat)
  deriving DecidableEq, Repr

/-- A fixed-latency write that has not landed: its landing schedule cc, what it changes, its value, the FCSR flags that
OR in with it (R61), and whether the divide and square-root unit produced it (R72). -/
structure Write where
  due : Nat
  target : Target
  value : Nat
  flags : Nat
  fromDiv : Bool
  deriving DecidableEq, Repr

/-- An active loop (R76): its body and the passes still to run, this one included. -/
structure Loop where
  first : Nat
  last : Nat
  left : Nat
  deriving DecidableEq, Repr

/-- A DMA as captured at issue or preparation (R68). `phase` is 0 until its region side starts, then 1 while its line
requests are outstanding; `left` counts them. `status` is the worst status of a piece so far, `marks` what a read has
written of each tile-store word, and `mirror` the packets that wait to be queued on a mirroring channel (R340). -/
structure Dma where
  kind : DmaKind
  desc : Nat
  start : List Nat
  ext : List Nat
  ts : Nat
  tag : Nat
  seq : Nat
  phase : Nat
  left : Nat
  status : Nat
  poison : Bool
  marks : SMap (Nat × Bool)
  mirror : List (Nat × Packet)
  deriving DecidableEq, Repr

/-- The operations of the MX queue. -/
inductive MxKind where
  | mma | drainT | drainS | accld | accst | accinv
  deriving DecidableEq, Repr

/-- A row of an operand window as an MMA reads it: the values in K order, and whether each is poisoned (R121, R132). -/
structure OperandRow where
  vals : List Val
  poison : List Bool
  deriving DecidableEq, Repr

/-- An operation of the matrix queue with everything captured at issue (R120, R123, R125). -/
structure MxItem where
  kind : MxKind
  acc : Nat
  pred : Nat
  predPoison : Bool
  nmode : Nat
  step : Nat
  ibase : Nat
  fmt : Nat
  descA : Nat
  descB : Nat
  rowA : Nat
  rowB : Nat
  k0 : Nat
  len : Nat
  zero : Bool
  dest : Nat
  row : Nat
  mode : Nat
  a : List OperandRow
  b : List OperandRow
  deriving DecidableEq, Repr

/-- An operation of the vector queue with everything captured at issue (R157), T elements among it. `cut` bounds the elements
written by an operation that is discarded on the way (R178). -/
structure VItem where
  op : VectorOp
  pred : Nat
  predPoison : Bool
  vl : Nat
  nmode : Nat
  step : Nat
  va : Nat
  vaP : Nat
  vb : Nat
  vbP : Nat
  vc : Nat
  vcP : Nat
  ma : Nat
  maP : Bool
  mb : Nat
  mbP : Bool
  mc : Nat
  mcP : Bool
  xa : Nat
  xb : Nat
  xi : Nat
  start : List Nat
  desc : Nat
  descE : Nat
  vres : Nat
  faultAt : Option Nat
  tv : SMap Nat
  tp : SMap Bool
  cut : Option Nat
  deriving DecidableEq, Repr

/-- A solver launch block as captured by PREP.SLV: its 64 bytes (R201). -/
abbrev SlvBlock := List Nat

/-- What a launch entry holds (R78). -/
inductive Payload where
  | dma (d : Dma)
  | mma (o : MxItem)
  | slv (b : SlvBlock)
  deriving DecidableEq, Repr

/-- A launch entry: empty, prepared, armed for a mark, or waiting for the ramp governor since `mark`, the number of marks
given when its own was reached (R78, R233). -/
inductive Entry where
  | empty
  | prepared (p : Payload)
  | armed (p : Payload) (mark : Nat)
  | fired (p : Payload) (mark : Nat)
  deriving DecidableEq, Repr

/-- An accumulator cell: value, compensation, and flags [0] NAN, [1] PINF, [2] NINF, [3] POISON (R130). -/
structure Cell where
  v : Nat
  c : Nat
  flags : Nat
  deriving DecidableEq, Repr

/-- A cleared cell. -/
def Cell.zero : Cell := ⟨0, 0, 0⟩

/-- An arrival of a tile at a barrier (R225): the accesses it waits for, whether it is sent, and its release status once
released. -/
structure Arrival where
  seq : Nat
  sent : Bool
  released : Option Nat
  deriving DecidableEq, Repr

/-- Where STEP.COMMIT stands (R293): not issued, waiting for the fence, sent to STP, released with a status. -/
inductive CommitWait where
  | none
  | waiting (step : Nat)
  | sent (step : Nat)
  | released (status : Nat)
  deriving DecidableEq, Repr

/-- The scalar core of a tile. `eretWait` says that the next bundle is the one that ERET returns to (R84). -/
structure Core where
  run : RunState
  stallWhy : Nat
  stallSeq : Nat
  stallMark : Nat
  stallStatus : Option Nat
  pc : Nat
  cc : Nat
  prog : SMap Nat
  x : SMap Word
  ds : SMap Nat
  nmode : Nat
  fcsr : Nat
  vl : Nat
  vstat : Nat
  vres : Nat
  overrun : Bool
  emptyArm : Bool
  lastDelay : Nat
  excCause : Nat
  excPc : Nat
  excSlot : Nat
  excAddr : Nat
  evec : Nat
  tev : Nat
  ltile : Nat
  ltileValid : Bool
  inHandler : Bool
  eretWait : Bool
  infoCause : Nat
  infoSlot : Nat
  infoPc : Nat
  infoAddr : Nat
  pend : List Write
  div : List (Nat × Nat)
  loops : List Loop
  entries : SMap Entry
  deriving DecidableEq, Repr

/-- The tile store, the DMA engine and what the tile has outstanding elsewhere. -/
structure Store where
  ts : SMap Nat
  tsPoison : SMap Bool
  tagState : SMap Nat
  tagStatus : SMap Nat
  dmas : SMap Dma
  seq : Nat
  creditUsed : SMap Nat
  creditOwed : SMap Nat
  arrivals : SMap Arrival
  openStep : Option Nat
  commit : CommitWait
  launchNmode : Nat
  launchCq : Nat
  wasRunning : Bool
  deriving DecidableEq, Repr

/-- The matrix engine. Accumulator modes are 0 EMPTY, 1 mode S, 2 mode D. Ledger cells are keyed by
`(mode * 256 + row) * 4096 + cell`, row tags by `mode * 256 + row`. -/
structure Matrix where
  queue : List MxItem
  array : Option MxItem
  tail : List MxItem
  port : Option MxItem
  pingMode : Nat
  pongMode : Nat
  ping : SMap Cell
  pong : SMap Cell
  rowValid : SMap Bool
  rows : SMap Cell
  ledgerRole : Bool
  accmem : Bool
  busyCc : Nat
  waitEntry : List MxItem
  dbgPending : Bool
  deriving DecidableEq, Repr

/-- The long-vector engine: V, M and T registers with their poison (R150, R153, R137). T elements are keyed by
`4096 * t + 64 * i + j`. -/
structure Vector where
  v : SMap Nat
  vPoison : SMap Nat
  m : SMap Nat
  mPoison : SMap Bool
  t : SMap Nat
  tPoison : SMap Bool
  queue : List VItem
  run : Option VItem
  hold : Bool
  busyCc : Nat
  deriving DecidableEq, Repr

/-- One physical tile. -/
structure Tile where
  core : Core
  store : Store
  mx : Matrix
  vx : Vector
  deriving DecidableEq, Repr

/-- The core after power-on: IDLE, every register at zero (R59, Table 3-14). -/
def Core.reset : Core where
  run := .idle
  stallWhy := 0
  stallSeq := 0
  stallMark := 0
  stallStatus := none
  pc := 0
  cc := 0
  prog := []
  x := []
  ds := []
  nmode := 0
  fcsr := 0
  vl := 0
  vstat := 0
  vres := 0
  overrun := false
  emptyArm := false
  lastDelay := 0
  excCause := 0
  excPc := 0
  excSlot := 0
  excAddr := 0
  evec := 0
  tev := 0
  ltile := 0
  ltileValid := false
  inHandler := false
  eretWait := false
  infoCause := 0
  infoSlot := 0
  infoPc := 0
  infoAddr := 0
  pend := []
  div := []
  loops := []
  entries := []

/-- The store and DMA engine after power-on. -/
def Store.reset : Store where
  ts := []
  tsPoison := []
  tagState := []
  tagStatus := []
  dmas := []
  seq := 0
  creditUsed := []
  creditOwed := []
  arrivals := []
  openStep := none
  commit := .none
  launchNmode := 0
  launchCq := 0
  wasRunning := false

/-- The matrix engine after power-on: both accumulators EMPTY, every ledger row invalid (R144, R147). -/
def Matrix.reset : Matrix where
  queue := []
  array := none
  tail := []
  port := none
  pingMode := 0
  pongMode := 0
  ping := []
  pong := []
  rowValid := []
  rows := []
  ledgerRole := false
  accmem := false
  busyCc := 0
  waitEntry := []
  dbgPending := false

/-- The vector engine after power-on. -/
def Vector.reset : Vector where
  v := []
  vPoison := []
  m := []
  mPoison := []
  t := []
  tPoison := []
  queue := []
  run := none
  hold := false
  busyCc := 0

/-- A tile after power-on. -/
def Tile.reset : Tile := ⟨Core.reset, Store.reset, Matrix.reset, Vector.reset⟩

end Sys2Proof.Machine
end

