-- ==== Sys2Proof/Machine/DevState.lean ====
section
/-! DEFINITION. Machine/DevState.lean: the state of the hub: register pages, event recorder, stacks and regions, Deckle,
the host interface, and the rest of the module around its tiles. Each structure names the rules it holds state for. -/

namespace Sys2Proof.Machine

/-- PG_STAT.STATE (Table 2-3). -/
inductive UnitState where
  | off | active | draining | disabled
  deriving DecidableEq, Repr

/-- The common area of one register page (Table 2-3) and what a unit's defect maps and start-up test left (R44,
Table 15-3). `capBits` are the PG_ERR bits whose clearing releases the capture, `capRank` its rank (R42). -/
structure UnitPage where
  state : UnitState
  forced : Bool
  reason : Nat
  enable : Bool
  disReq : Bool
  forceReq : Bool
  err : Nat
  mask : Nat
  ceCnt : Nat
  deCnt : Nat
  uccCnt : Nat
  capCode : Nat
  capSub : Nat
  capP0 : Nat
  capP1 : Nat
  capP2 : Nat
  capBits : Nat
  capRank : Nat
  seq : Nat
  seqHi : Nat
  fuseBad : Bool
  fieldBad : Bool
  unlicensed : Bool
  testPassed : Bool
  deriving DecidableEq, Repr

/-- A page before power-on (the reset column of Table 2-3). -/
def UnitPage.reset : UnitPage where
  state := .off
  forced := false
  reason := 0
  enable := false
  disReq := false
  forceReq := false
  err := 0
  mask := 0
  ceCnt := 0
  deCnt := 0
  uccCnt := 0
  capCode := 0
  capSub := 0
  capP0 := 0
  capP1 := 0
  capP2 := 0
  capBits := 0
  capRank := 0
  seq := 0
  seqHi := 0
  fuseBad := false
  fieldBad := false
  unlicensed := false
  testPassed := false

/-! ### The event recorder (chapter 16) -/

/-- A record raised and not yet admitted. -/
structure RawRec where
  code : Nat
  cls : Nat
  inst : Nat
  p0 : Nat
  p1 : Nat
  p2 : Nat
  pgerr : Bool
  deriving DecidableEq, Repr

/-- An event record (Table 16-4). -/
structure Rec where
  code : Nat
  sev : Nat
  cls : Nat
  inst : Nat
  seq : Nat
  pwrcyc : Nat
  opsec : Nat
  suppr : Nat
  p0 : Nat
  p1 : Nat
  p2 : Nat
  deriving DecidableEq, Repr

/-- A ream slot of the NV log (Table 16-6); filler records are not listed. `good` says that its CRC holds. -/
structure Ream where
  firstSeq : Nat
  nrec : Nat
  lastSeq : Nat
  pwrcyc : Nat
  lostpf : Nat
  flags : Nat
  recs : List Rec
  good : Bool
  deriving DecidableEq, Repr

/-- EVR (R430 to R442) and the coalescing of error signals (R427). `next` is the oldest unflushed sequence number;
`tokBase` the tokens of every code that `tokens` does not list. -/
structure Evr where
  raised : List RawRec
  seq : Nat
  seqHi : Nat
  next : Nat
  flushed : Nat
  flushedHi : Nat
  ring : SMap Rec
  tokens : SMap Nat
  tokBase : Nat
  suppressed : SMap Nat
  lostSince : Nat
  lostUcc : Nat
  nv : SMap Ream
  wrptr : Nat
  badBlocks : List Nat
  erases : SMap Nat
  closed : Bool
  pfLost : Nat
  errOpen : Bool
  errPending : Bool
  deriving DecidableEq, Repr

/-- EVR before the first power-on: nothing numbered, an erased log. -/
def Evr.reset : Evr where
  raised := []
  seq := 0
  seqHi := 0
  next := 1
  flushed := 0
  flushedHi := 0
  ring := []
  tokens := []
  tokBase := 8
  suppressed := []
  lostSince := 0
  lostUcc := 0
  nv := []
  wrptr := 0
  badBlocks := []
  erases := []
  closed := false
  pfLost := 0
  errOpen := false
  errPending := false

/-- A sensor of Table 16-8: reading, periods since it was sampled, in warning (R441), and consecutive samples at or
above its trip limit (R472). -/
structure Sensor where
  value : Nat
  age : Nat
  warning : Bool
  overs : Nat
  deriving DecidableEq, Repr

/-! ### Stacks and regions (chapter 9) -/

/-- What a line request does. -/
inductive ReqKind where
  | rd | wr | add32 | add64
  deriving DecidableEq, Repr

/-- What a read takes from its line: `len` bits from bit `pos`, which go to bit `tpos` of the tile store (8 × the byte
address). Bits from 512 up are padding and read as zero (R93). -/
structure ReadPart where
  pos : Nat
  len : Nat
  tpos : Nat
  deriving DecidableEq, Repr

/-- A request of a DMA to one line of a stack (R244): the tile, tag and access number it belongs to, the physical handle of
its region, the device address of each of its bytes and of their second location while a region migrates (R283), its data
and bit mask (R249, R478), and the tile-store side of a read. -/
structure Req where
  tile : Nat
  tag : Nat
  seq : Nat
  kind : ReqKind
  region : Nat
  addrs : List Nat
  mirrors : List Nat
  val : Nat
  mask : Nat
  poison : Bool
  reads : List ReadPart
  deriving DecidableEq, Repr

/-- A stored line some of whose cells differ from the codeword last written (R245, R246): the row that holds it, the
symbols that differ and by what, whether a correction is put down to retention, and the 64 data bytes of that codeword. -/
structure LineCells where
  row : Nat
  errs : List (Nat × Nat)
  retention : Bool
  data : List Nat
  deriving DecidableEq, Repr

/-- A stack's queues, its disturbed lines by line offset, and its health counters (R246, R254 to R259). Rows are the die's own
numbers, `bank * 2^24 + row`: `acts` counts their activations, `hammered` those whose activations wait for a mitigation, and
`bins` holds the bins other than B3, which were `binAge` days old when GLB.OPSEC read `binSince`. `passed` says that the
current patrol pass has read every line. -/
structure Stack where
  reqs : List Req
  demand : List Nat
  patrol : Nat
  hourCe : Nat
  hourRows : List Nat
  corrections : List (Nat × Nat)
  repairDue : List Nat
  sparesUsed : SMap Nat
  adds : Nat
  lost : Bool
  cells : SMap LineCells
  acts : SMap Nat
  hammered : List Nat
  bins : SMap Nat
  binAge : Nat
  binSince : Nat
  passed : Bool
  deriving DecidableEq, Repr

/-- A stack with nothing queued. -/
def Stack.reset : Stack where
  reqs := []
  demand := []
  patrol := 0
  hourCe := 0
  hourRows := []
  corrections := []
  repairDue := []
  sparesUsed := []
  adds := 0
  lost := false
  cells := []
  acts := []
  hammered := []
  bins := []
  binAge := 0
  binSince := 0
  passed := false

/-- STATE of a region-table entry (Table 9-3). -/
inductive RegionState where
  | free | active | migrating | failed
  deriving DecidableEq, Repr

/-- A region-table entry (Table 9-3). -/
structure Region where
  state : RegionState
  stripe : Bool
  stks : Nat
  base : Nat
  size : Nat
  gen : Nat
  deriving DecidableEq, Repr

/-- A FREE entry. -/
def Region.none : Region := ⟨.free, false, 0, 0, 0, 0⟩

/-! ### Deckle (chapter 10) -/

/-- A tile entry of the manifest (Table 10-3). -/
structure ManTile where
  stage : Nat
  ledger : Bool
  prog : Nat
  nbundle : Nat
  progoff : Nat
  deriving DecidableEq, Repr

/-- A region entry of the manifest (Table 10-4). -/
structure ManRegion where
  handle : Nat
  cls : Nat
  stage : Nat
  place : List Nat
  size : Nat
  solv : Nat
  deriving DecidableEq, Repr

/-- A binding of the manifest (R272). -/
structure ManBind where
  tile : Nat
  bit : Nat
  kind : Nat
  src : Nat
  deriving DecidableEq, Repr

/-- A checked manifest (R267 to R272). -/
structure Manifest where
  nstage : Nat
  reserve : Nat
  tiles : List ManTile
  regions : List ManRegion
  solv : List Nat
  binds : List ManBind
  deriving DecidableEq, Repr

/-- The placement that Deckle holds (R273 to R276): the Sheet order, grades, spare positions and ledger slot of each
Sheet, the physical tile of each logical tile, engine and slot of each solver instance, the last program load of each
tile (region, offset, bundles) and the last image load of each instance (region, offset). -/
structure Placement where
  man : Manifest
  order : List Nat
  spares : SMap (List Nat)
  roles : List Nat
  tmap : SMap Nat
  smap : SMap (Nat × Nat)
  loads : SMap (Nat × Nat × Nat)
  images : SMap (Nat × Nat)
  deriving DecidableEq, Repr

/-- An event that waits for Deckle (Table 10-7). -/
inductive DkEvent where
  | tile (phys : Nat)
  | engine (e : Nat)
  | stack (s : Nat)
  | redraw (layout : Nat) (fence : Bool)
  deriving DecidableEq, Repr

/-- A tile remap under way (R279): the failed physical tile and what it carried. -/
structure Remap where
  phys : Nat
  logical : Nat
  deriving DecidableEq, Repr

/-- A stack migration under way (R282): the failing stack, the handles still to do, the region being copied (0 for none)
with its target location and the units copied, the region that stayed last (0 for none), and the location that the last
switch left. -/
structure Migration where
  stack : Nat
  todo : List Nat
  handle : Nat
  target : Region
  done : Nat
  short : Nat
  old : Region
  deriving DecidableEq, Repr

/-- Deckle. `health` is the health map (0 USABLE, 1 DERATED, 2 OUT, 3 FAILED) and `grades` the Sheet grades (R264,
R265). `solverRemap` lists the instances of a failed engine still to move. -/
structure Deckle where
  placement : Option Placement
  layout : Nat
  regions : SMap Region
  health : SMap Nat
  grades : SMap Nat
  events : List DkEvent
  remap : Option Remap
  solverRemap : List Nat
  migration : Option Migration
  remapFailed : Bool
  deriving DecidableEq, Repr

/-- Deckle with nothing placed. -/
def Deckle.reset : Deckle where
  placement := none
  layout := 0
  regions := []
  health := []
  grades := []
  events := []
  remap := none
  solverRemap := []
  migration := none
  remapFailed := false

/-! ### The host interface (chapter 14) -/

/-- A command fetched from a submission ring (Table 14-3). -/
structure HostCmd where
  sq : Nat
  op : Nat
  fence : Bool
  quiet : Bool
  cid : Nat
  bytes : List Nat
  error : Option (Nat × Nat)
  deriving DecidableEq, Repr

/-- A submission ring: its indexes, commands fetched and not started, and commands started and not completed (R386,
R387). -/
structure Sq where
  head : Nat
  tail : Nat
  fetched : List HostCmd
  started : List HostCmd
  deriving DecidableEq, Repr

/-- An SQ after EN is set. -/
def Sq.reset : Sq := ⟨0, 0, [], []⟩

/-- A completion entry before its phase bit (Table 14-5). -/
structure CqEntry where
  cid : Nat
  sqid : Nat
  kind : Nat
  status : Nat
  p0 : Nat
  p1 : Nat
  p2 : Nat
  deriving DecidableEq, Repr

/-- A completion ring: its indexes and phase, the entries that wait to be written, the entries written since the last
signal, and whether a head doorbell has left entries unconsumed (R386, R391, R395). -/
structure Cq where
  head : Nat
  tail : Nat
  phase : Nat
  waiting : List CqEntry
  unsignalled : Nat
  resignal : Bool
  deriving DecidableEq, Repr

/-- A CQ after EN is set: the phase starts at 1 (R386). -/
def Cq.reset : Cq := ⟨0, 0, 1, [], 0, false⟩

/-- What the endpoint or the SMBus target answered last: a register or configuration value, bytes of the window with the
EP bit, an SMBus block, no acknowledgement, Completer Abort, or Request Retry Status. -/
inductive Reply where
  | none
  | value (v : Nat)
  | window (bytes : List Nat) (ep : Bool)
  | block (bytes : List Nat)
  | noAck
  | abort
  | retry
  deriving DecidableEq, Repr

/-- The PCI Express function (R380 to R385, R395, R400): pins and link, configuration registers by offset, BAR 4 size,
doorbell values read back, MSI-X table words and pending bits, urgent writes performed, completions written into host
memory, the MSI-X vectors signalled so far, and the last answer. -/
structure Pcie where
  perst : Bool
  config : SMap Nat
  barLog2 : Nat
  doorbells : SMap Nat
  msixTable : SMap Nat
  pba : Nat
  urgCount : Nat
  hostMem : SMap Nat
  msixSent : List Nat
  reply : Reply
  deriving DecidableEq, Repr

/-- The function after reset: BAR 4 covers 2 TiB (Table 14-1). -/
def Pcie.reset : Pcie where
  perst := true
  config := []
  barLog2 := 41
  doorbells := []
  msixTable := []
  pba := 0
  urgCount := 0
  hostMem := []
  msixSent := []
  reply := .none

/-- HBX: its rings, the stopped bits of the urgent page, and the CQ of each started tile (R389). -/
structure Hbx where
  sq : SMap Sq
  cq : SMap Cq
  sqStop : Nat
  deriving DecidableEq, Repr

/-- HBX with every ring empty. -/
def Hbx.reset : Hbx := ⟨[], [], 0⟩

/-! ### Felt links (chapter 1) -/

/-- A Felt link (R23, R24): its state as FLT.LINKSTAT codes it (0 DOWN, 1 UP, 2 REROUTED), whether it is declared failed
with its reroute still to come, and how often the flit in transit was rejected at the lower- and the higher-numbered end. -/
structure FeltLink where
  state : Nat
  failed : Bool
  triesLow : Nat
  triesHigh : Nat
  deriving DecidableEq, Repr

/-- A link before it trains. -/
def FeltLink.reset : FeltLink := ⟨0, false, 0, 0⟩

/-- A link that has trained. -/
def FeltLink.up : FeltLink := ⟨1, false, 0, 0⟩

/-! ### Barriers and Cadence (chapter 8) -/

/-- A barrier (R224) with who has arrived in the current generation (`tiles`, and `host` for the host), an outstanding host
arrival (R228), and the complete generations that a phase fence holds, oldest first, as their tiles and the host (R320). -/
structure Barrier where
  count : Nat
  arrived : Nat
  gen : Nat
  broken : Bool
  hostpend : Bool
  tiles : List Nat
  host : Bool
  held : List (List Nat × Bool)
  deriving DecidableEq, Repr

/-- An unconfigured barrier. -/
def Barrier.reset : Barrier := ⟨0, 0, 0, false, false, [], false, []⟩

/-- SYN: the barriers, tile arrivals sent and not yet received, and host arrivals accepted and not yet counted. -/
structure Syn where
  bars : SMap Barrier
  inflight : List (Nat × Nat)
  host : List Nat
  deriving DecidableEq, Repr

/-- SYN with nothing configured. -/
def Syn.reset : Syn := ⟨[], [], []⟩

/-- The Cadence generator: the count, the count of the last mark that reached the units (R231), the latched high word, the
period in force (R230, R234), and the number of marks given so far, whatever the count was set to. -/
structure Cad where
  count : Nat
  mark : Nat
  hi : Nat
  period : Nat
  ticks : Nat
  deriving DecidableEq, Repr

/-- Stopped, with the reset period. -/
def Cad.reset : Cad := ⟨0, 0, 0, 2000, 0⟩

/-! ### Power (chapter 18) -/

/-- The units that the ramp governor accounts for (R467). -/
inductive Load where
  | array (tile : Nat)
  | dma (tile : Nat)
  | slv (engine : Nat)
  deriving DecidableEq, Repr

/-- The ramp governor and the input (R463 to R474). Setpoints are in mV; the admission credit is in microwatts and `used`
the weight admitted on the present mark; `held` lists the weight of each loaded unit; `direct` the directly issued work
that waits for admission, with the mark it counts from. -/
structure Pwr where
  on : Bool
  failing : Bool
  gated : Bool
  setpoints : List Nat
  capInForce : Nat
  vmaxInForce : Nat
  capPending : Bool
  credit : Nat
  used : Nat
  held : List (Load × Nat)
  direct : List (Nat × Load)
  holding : Bool
  floorWindows : Nat
  lastMeanHigh : Bool
  dutyHold : Bool
  vin : Nat
  thermtrip : Bool
  deriving DecidableEq, Repr

/-- The module without input power. -/
def Pwr.reset : Pwr where
  on := false
  failing := false
  gated := true
  setpoints := [650, 650, 650, 650]
  capInForce := 0xAF0
  vmaxInForce := 0x2EE
  capPending := false
  credit := 0
  used := 0
  held := []
  direct := []
  holding := false
  floorWindows := 0
  lastMeanHigh := false
  dutyHold := false
  vin := 0
  thermtrip := false

/-! ### Training steps (chapter 11) -/

/-- STP.STAT.STATE (Table 11-4). -/
inductive StepState where
  | idle | opened | committing | spoiled
  deriving DecidableEq, Repr

/-- CQSTAT.STATE (R311). -/
inductive CouchState where
  | off | active | failed
  deriving DecidableEq, Repr

/-- A couch queue: its counts, the tag of each slot, its state and error, and the slots of a REMOTE_OUT queue whose copy
is not yet acknowledged, with their tags and the number of packets still to be acknowledged (R314 to R318). -/
structure Couch where
  pushed : Nat
  popped : Nat
  tags : SMap Nat
  state : CouchState
  err : Nat
  copies : List (Nat × Nat)
  deriving DecidableEq, Repr

/-- A couch queue that was never enabled. -/
def Couch.reset : Couch := ⟨0, 0, [], .off, 0, []⟩

/-- A figure of one bucket for the gradient-noise statistics (R308): collective, bucket, M, A and B. -/
structure NoiseTerm where
  colid : Nat
  bucket : Nat
  m : Nat
  a : Nat
  b : Nat
  deriving DecidableEq, Repr

/-- A late contribution on its way to the broke ledger (R372). -/
structure Late where
  colid : Nat
  rank : Nat
  chunk : Nat
  step : Nat
  format : Nat
  data : List Nat
  crc : Nat
  deriving DecidableEq, Repr

/-- STP (R291 to R321). `opens` are STEP.OPEN values sent by tiles and not yet received (physical tile, value); `arrived`
the logical tiles whose STEP.COMMIT has arrived; `waiting` the physical tiles to release; `lateIn` the late contributions
written to the working ledger in the open step. -/
structure Stp where
  state : StepState
  cause : Nat
  causeParam : Nat
  redrawFail : Bool
  lateCause : Bool
  opens : List (Nat × Nat)
  arrived : List Nat
  waiting : List Nat
  copyPending : Bool
  voteCast : Bool
  openMark : Nat
  nphase : Nat
  terms : List NoiseTerm
  nexcl : Nat
  nfold : Nat
  ndrop : Nat
  lateIn : Nat
  ncoll : Nat
  phaseLayout : Option Nat
  late : List Late
  couch : SMap Couch
  deriving DecidableEq, Repr

/-- STP after power-on: IDLE. -/
def Stp.reset : Stp where
  state := .idle
  cause := 0
  causeParam := 0
  redrawFail := false
  lateCause := false
  opens := []
  arrived := []
  waiting := []
  copyPending := false
  voteCast := false
  openMark := 0
  nphase := 0
  terms := []
  nexcl := 0
  nfold := 0
  ndrop := 0
  lateIn := 0
  ncoll := 0
  phaseLayout := none
  late := []
  couch := []

/-! ### Brezin (chapter 12) -/

/-- BZP.STAT.LSTATE (Table 12-1). -/
inductive PortState where
  | off | training | up | retraining | retryWait
  deriving DecidableEq, Repr

/-- A frame that waits for egress: its lane, its packet, and for a transit frame the arrival port whose buffer it
still holds (R331, R332). -/
structure Egress where
  vl : Nat
  packet : Packet
  from_ : Option Nat
  deriving DecidableEq, Repr

/-- A DATA frame in the replay buffer with how often it was resent (R329). -/
structure Replay where
  seq : Nat
  vl : Nat
  packet : Packet
  resent : Nat
  deriving DecidableEq, Repr

/-- A Brezin port (R326 to R332). `txSeq` numbers the next DATA frame and `rxSeq` is the last accepted one. `owed` are
credits to return and `nak` a NAK to send in the next header; `resend` counts the replay-buffer frames to send again;
`lane` and `left` are the place in the arbitration round; `localNext` holds, per lane, whether a local frame goes before
a transit one next. `wire` is the last frame sent. -/
structure Port where
  state : PortState
  width : Nat
  lanes : Nat
  peerId : Nat
  peerPort : Nat
  peerValid : Bool
  txSeq : Nat
  rxSeq : Nat
  nakSent : Bool
  nak : Bool
  ackOwed : Bool
  replay : List Replay
  resend : Nat
  credit : List Nat
  owed : List Nat
  queue : List Egress
  lane : Nat
  left : Nat
  localNext : List Bool
  retryMs : Nat
  fecUnc : Nat
  wire : List Nat
  deriving DecidableEq, Repr

/-- A port in OFF. -/
def Port.reset : Port where
  state := .off
  width := 0
  lanes := 0
  peerId := 0
  peerPort := 0
  peerValid := false
  txSeq := 0
  rxSeq := 4095
  nakSent := false
  nak := false
  ackOwed := false
  replay := []
  resend := 0
  credit := [0, 0, 0, 0]
  owed := [0, 0, 0, 0]
  queue := []
  lane := 1
  left := 0
  localNext := [false, false, false, false]
  retryMs := 0
  fecUnc := 0
  wire := []

/-- CHSTAT.STATE (Table 12-10). -/
inductive ChanState where
  | closed | opening | opened | closing | failed
  deriving DecidableEq, Repr

/-- Who submitted a packet to a channel: a tile's mirrored write with the tile's access number, the collective engine
for an instance (its descriptor), or STP for a couch queue. -/
inductive Owner where
  | tile (t : Nat) (seq : Nat)
  | col (desc : Nat)
  | couch (q : Nat)
  | engine
  deriving DecidableEq, Repr

/-- A channel context of one engine (R337 to R343). `cfg` and `peer` hold CHCFG and CHPEER as written; the next
four are captured when an enable is accepted. `txSeq` numbers the next packet queued and `rxSeq` is the next one
expected. `queue` holds packets not yet sent, `unacked` those sent, of which the last `again` are to be resent;
`refused` lists the tiles refused TARGET_RESETTING since their last FENCE.P, and `ahead` the SEQs refused to the peer before
their turn (R339). -/
structure Channel where
  cfg : Nat
  peer : Nat
  state : ChanState
  cause : Nat
  vl : Nat
  peerChan : Nat
  lreg : Nat
  peerId : Nat
  txSeq : Nat
  rxSeq : Nat
  queue : List (Packet × Owner)
  unacked : List (Packet × Owner)
  again : Nat
  stopped : Bool
  resetting : Bool
  flushTo : Option Nat
  flushed : Bool
  timeouts : Nat
  ackOwed : Nat
  refused : List Nat
  ahead : List Nat
  deriving DecidableEq, Repr

/-- A CLOSED channel that was never written: CHCFG.VL reads 2 and CHPEER 0xF_FFFF. -/
def Channel.reset : Channel where
  cfg := 4
  peer := 0xFFFFF
  state := .closed
  cause := 0
  vl := 2
  peerChan := 0
  lreg := 0
  peerId := 0xFFFFF
  txSeq := 0
  rxSeq := 0
  queue := []
  unacked := []
  again := 0
  stopped := false
  resetting := false
  flushTo := none
  flushed := false
  timeouts := 0
  ackOwed := 0
  refused := []
  ahead := []

/-- Brezin: ports, channel contexts by `engine * 4096 + channel`, the packets delivered to each engine in arrival order,
the last channel served by `(engine * 19 + port) * 4 + lane`, port 18 standing for this device (R343), and the slices that SLICECNT has not yet shown. -/
structure Brezin where
  ports : SMap Port
  chans : SMap Channel
  inbox : SMap (List Packet)
  lastServed : SMap Nat
  slices : SMap Nat
  deriving DecidableEq, Repr

/-- Brezin with nothing trained. -/
def Brezin.reset : Brezin := ⟨[], [], [], [], []⟩

/-! ### Collectives (chapter 13) -/

/-- A transfer that a peer has begun (Table 13-6): the sending rank, the channel key and transfer number, KIND, TREE,
CHUNK, BYTES, and bytes 28 to 35 of the COL_BEGIN; the bytes so far, and what COL_END carried: M, NFOLD and the A and B
pairs. For a move, its number among those of its sender, and whether it is granted. -/
structure Xfer where
  rank : Nat
  chan : Nat
  xfer : Nat
  kind : Nat
  tree : Nat
  chunk : Nat
  bytes : Nat
  dst : Nat
  data : List Nat
  m : Nat
  nfold : Nat
  a : Nat × Nat
  b : Nat × Nat
  move : Nat
  granted : Bool
  deriving DecidableEq, Repr

/-- The record of an abort (R368). -/
structure AbortRec where
  code : Nat
  rank : Nat
  chunk : Nat
  origin : Nat
  deriving DecidableEq, Repr

/-- A member of the captured member table: device, and channel under the captured bank (R349). -/
structure Member where
  devid : Nat
  chan : Nat
  deriving DecidableEq, Repr

/-- A ledger entry that this member has folded (R373), with the bytes it sends. -/
structure Fold where
  rank : Nat
  chunk : Nat
  step : Nat
  data : List Nat
  deriving DecidableEq, Repr

/-- A chunk of an outgoing move (R374): destination rank, transfer number, source offset, bytes, and the data once it is
staged. A chunk for this rank itself has its destination offset in `dst`. -/
structure MoveOut where
  rank : Nat
  xfer : Nat
  src : Nat
  dst : Nat
  len : Nat
  move : Nat
  staged : Option (List Nat)
  deriving DecidableEq, Repr

/-- What a chunk's result carried: M, NFOLD and the A and B pairs (R363). -/
structure ChunkStat where
  m : Nat
  nfold : Nat
  a : Nat × Nat
  b : Nat × Nat
  deriving DecidableEq, Repr

/-- An active collective instance (R355). `ready` counts the READYs of each bucket; `inc` are transfers being received,
`got` those received, checked and kept; `sent` lists the blocks and chunks whose own data has gone out, `done` those
written to DST; `stats` what each chunk's result carried; `excl` the excluded (bucket, rank) pairs known here, `exclSent`
whether the own ones were announced, `maps` the bitmap pieces held, `mapsSent` whether rank 0 has sent them; `written`
the destination ranges of moves with sender and move number. -/
structure Inst where
  desc : Nat
  raw : List Nat
  group : Nat
  n : Nat
  rank : Nat
  gtag : Nat
  members : List Member
  step : Option Nat
  start : Nat
  ready : SMap Nat
  inc : List Xfer
  got : List Xfer
  sent : List (Nat × Nat)
  done : List (Nat × Nat)
  stats : SMap ChunkStat
  excl : List (Nat × Nat)
  softDone : Bool
  maps : List (Nat × Nat)
  mapsSent : Bool
  votes : List Nat
  voted : Bool
  abort : Option AbortRec
  abortSeen : Bool
  foldsTaken : Bool
  folds : List Fold
  moves : List MoveOut
  movesBegun : Bool
  inMoves : SMap Nat
  written : List (Nat × Nat × Nat × Nat)
  belled : List Nat
  deriving DecidableEq, Repr

/-- A completed instance: what it answers a late packet (R375), and the READYs still missing of the buckets that were
excluded here (R372). -/
structure Finished where
  gtag : Nat
  colid : Nat
  step : Nat
  rank : Nat
  desc : Nat
  abort : Option AbortRec
  raw : List Nat
  late : List (Nat × Nat)
  deriving DecidableEq, Repr

/-- What a completed instance hands to STP: its step, whether it was STP's commit vote, whether it committed, and the
figures of R308 and R310. -/
structure ColEvent where
  desc : Nat
  step : Option Nat
  vote : Bool
  committed : Bool
  colid : Nat
  terms : List NoiseTerm
  nexcl : Nat
  nfold : Nat
  deriving DecidableEq, Repr

/-- COL: the active instances, what completed ones left, the outcomes STP has still to take, and the next transfer
number. -/
structure Col where
  insts : List Inst
  finished : List Finished
  events : List ColEvent
  nextXfer : Nat
  deriving DecidableEq, Repr

/-- COL with nothing active. -/
def Col.reset : Col := ⟨[], [], [], 0⟩

/-! ### Solver engines (chapter 7) -/

/-- A body of a structure (Table 7-3): its parent, none for the fixed base, first coordinate and degrees of freedom. -/
structure Body where
  parent : Option Nat
  jstart : Nat
  dof : Nat
  deriving DecidableEq, Repr

/-- A resident structure (R185): its sizes, hash and sections. `smat` holds binary64 codes, six per column. -/
structure Struct where
  hash : Nat
  size : Nat
  n : Nat
  nh : Nat
  nb : Nat
  nnza : Nat
  perm : List Nat
  aptr : List Nat
  aidx : List Nat
  bodies : List Body
  smat : List Nat
  deriving DecidableEq, Repr

/-- A structure slot: EMPTY, LOADING (over the structure it held, if any) or RESIDENT (Table 7-13). -/
inductive SlotState where
  | empty
  | loading (old : Option Struct)
  | resident (s : Struct)
  deriving DecidableEq, Repr

/-- A delta packet in the queue (Table 7-6), with the slot it is for. `index` none is a seal. -/
structure Delta where
  slot : Nat
  index : Option Nat
  inst : Nat
  tag : Nat
  value : Nat
  poison : Bool
  deriving DecidableEq, Repr

/-- A launch (Table 7-9): the block's bytes, the engine slot once an engine has taken it, the tile whose entry fired with its
open step, and the mark on which it fired (R202). -/
structure Launch where
  block : List Nat
  slot : Nat
  tile : Nat
  step : Option Nat
  mark : Nat
  deriving DecidableEq, Repr

/-- What an instance publishes: the status and flags of Table 7-11, the misses, its solution and gradient, whether they
carry poison, and the factor to keep (R199): r, L and x. -/
structure InstResult where
  status : Nat
  flags : Nat
  misses : Nat
  x : List Nat
  grad : List Nat
  poison : Bool
  kept : List Nat
  deriving DecidableEq, Repr

/-- The seal of a slot's next cycle: its tag, the packets taken with that tag as (instance, index) in order, the count
its seal gives, and the instances marked BAD_DELTA (R191, R192). -/
structure SealState where
  tag : Nat
  taken : List (Nat × Nat)
  total : Option Nat
  bad : List Nat
  deriving DecidableEq, Repr

/-- A running cycle (R202 to R204): the launch, its cycle number, the registers captured (R203), the instances marked
BAD_DELTA, and the instances done. -/
structure Cycle where
  launch : Launch
  n : Nat
  delta : Nat
  tiny : Nat
  misslim : Nat
  bad : List Nat
  results : List InstResult
  zpiv : Nat
  spiv : Nat
  opiv : Nat
  deriving DecidableEq, Repr

/-- A solver engine. `queue` holds launches with the number of their next cycle. -/
structure Solver where
  slots : SMap SlotState
  halt : List Nat
  deltas : List Delta
  seals : SMap SealState
  queue : List (Launch × Nat)
  run : Option Cycle
  loading : Option HostCmd
  busyCc : Nat
  deriving DecidableEq, Repr

/-- An engine with every slot EMPTY. -/
def Solver.reset : Solver := ⟨[], [], [], [], [], none, none, 0⟩

/-! ### Security and licences (chapter 17) -/

/-- A firmware slot of the NV store (R452): the image bytes. -/
abbrev Firmware := List Nat

/-- The retention bins of a stack as the NV store keeps them (R257): the serial of the logic die, the day of the test, and the
rows below B3 with their bins. -/
structure StoredBins where
  serial : Nat
  day : Nat
  rows : SMap Nat
  deriving DecidableEq, Repr

/-- The public keys in the boot ROM, 97-byte points (R449, R452, R458): Clowen's debug key, its licence key and its two
release keys. -/
structure RomKeys where
  debug : List Nat
  licence : List Nat
  release0 : List Nat
  release1 : List Nat
  deriving DecidableEq, Repr

/-- The boot ROM, the NV store, the fuses and what the last boot left (R446 to R462). -/
structure Sec where
  rom : RomKeys
  fused : Nat
  pendingLcs : Option Nat
  retcnt : Nat
  fieldDebug : Bool
  owner : Option (List Nat)
  certificate : List Nat
  keyErased : Bool
  svnCounter : Nat
  svnRunning : Nat
  revoked : Nat
  fw0 : Firmware
  fw1 : Firmware
  booted : Nat
  licence : List Nat
  licEffect : List Nat
  licEval : Nat
  licPending : Bool
  fusedBad : List Nat
  fieldMap : SMap (Nat × Nat)
  stored : SMap Nat
  bins : SMap StoredBins
  deriving DecidableEq, Repr

/-- A device in MANUFACTURE whose NV store holds firmware and certificate and nothing else. -/
def Sec.reset : Sec where
  rom := ⟨Config.debugKey, Config.licenceKey, Config.releaseKey 0, Config.releaseKey 1⟩
  fused := 0
  pendingLcs := none
  retcnt := 0
  fieldDebug := false
  owner := none
  certificate := Config.certificate
  keyErased := false
  svnCounter := 0
  svnRunning := 0
  revoked := 0
  fw0 := Config.firmware 0
  fw1 := Config.firmware 1
  booted := 0
  licence := []
  licEffect := []
  licEval := 0
  licPending := false
  fusedBad := []
  fieldMap := []
  stored := []
  bins := []

/-! ### The device -/

/-- GLB.DEVSTATE (Table 2-7). -/
inductive DevPhase where
  | boot | memtest | linktrain | computeUp | ready | degraded | computeReset | failed
  deriving DecidableEq, Repr

/-- A POST to COL or STP that its target has not performed: the tile, its target, value, access number and open step
(R80, R354). -/
structure Post where
  tile : Nat
  target : Nat
  value : Nat
  seq : Nat
  step : Option Nat
  deriving DecidableEq, Repr

/-- A delta packet that a DMA has sent and the engine has not taken (R190): the tile, its access number and the packet. -/
structure DeltaSent where
  tile : Nat
  tag : Nat
  seq : Nat
  engine : Nat
  packet : Delta
  deriving DecidableEq, Repr

/-- Everything but stack memory and the command queue. `hours` counts the operating hours whose end the stacks have seen
(R259). `wout` is the outbox of the command being performed: the bytes it
has written to stack memory; `launches` are solver launches that the governor has admitted and no engine has taken.
`free` counts the free values taken. -/
structure Dev where
  phase : DevPhase
  variant : Nat
  bootEvent : Nat
  regs : SMap Nat
  units : SMap UnitPage
  evr : Evr
  sensors : SMap Sensor
  links : SMap FeltLink
  tiles : SMap Tile
  posts : List Post
  stks : SMap Stack
  linePoison : SMap Nat
  deckle : Deckle
  solvers : SMap Solver
  launches : List Launch
  deltasSent : List DeltaSent
  syn : Syn
  cad : Cad
  stp : Stp
  brezin : Brezin
  col : Col
  hbx : Hbx
  pci : Pcie
  sec : Sec
  pwr : Pwr
  hours : Nat
  wout : SMap Byte
  free : Nat
  deriving DecidableEq, Repr

/-- The module before its first power-on. -/
def Dev.reset : Dev where
  phase := .boot
  variant := 0
  bootEvent := 0
  regs := []
  units := []
  evr := .reset
  sensors := []
  links := []
  tiles := []
  posts := []
  stks := []
  linePoison := []
  deckle := .reset
  solvers := []
  launches := []
  deltasSent := []
  syn := .reset
  cad := .reset
  stp := .reset
  brezin := .reset
  col := .reset
  hbx := .reset
  pci := .reset
  sec := .reset
  pwr := .reset
  hours := 0
  wout := []
  free := 0

end Sys2Proof.Machine
end

