-- ==== Sys2Proof/Machine/State.lean ====
section
/-! DEFINITION. Machine/State.lean: the state of the part, the reasons it stops, and the part right after reset. -/

namespace Sys2Proof.Machine

/-- Everything the spec gives the part (Machine/DevState.lean, Machine/TileState.lean), the bytes of the stacks by device
address in canonical form (Machine/Ops.lean), and the commands that wait, first in, first out. -/
structure State where
  dev : Dev
  mem : List Host.Cell
  pending : List Instr
  deriving DecidableEq, Repr

/-- Why a command stops. -/
inductive Fault where
  /-- Raised by a command that names a unit, page or register address that the part does not have (R35, R36, Table 2-1 and
  the counts of each chapter; log entry 99). Safe: nothing of the part can be commanded there. -/
  | noSuchUnit
  deriving DecidableEq, Repr

/-- Why a command has no meaning. -/
inductive Refusal where
  /-- Raised by no command: every command of the table has its meaning. Safe. -/
  | notModelled (mnemonic : String)
  deriving DecidableEq, Repr

/-- The part before its first power-on: fuses blank, NV store as it left the factory, nothing powered. -/
def State.reset : State where
  dev := .reset
  mem := []
  pending := []

end Sys2Proof.Machine
end

