-- ==== Sys2Proof/Machine/Desc.lean ====
section
/-! DEFINITION. Machine/Desc.lean: tensor descriptors, windows and their packed forms, and the tile store they address
(R64 to R68, R93 to R98, R478). -/

namespace Sys2Proof.Machine

/-- The size of a tile store (Table 1-1). -/
def tsSize : Nat := 0x1000000

/-- The fields of a tensor descriptor (Table 3-8). Shapes and strides above RANK are those of a dimension of one
element (R67). -/
structure Desc where
  region : Nat
  format : Nat
  rank : Nat
  sizing : Nat
  offset : Nat
  shape : List Nat
  stride : List Nat
  deriving DecidableEq, Repr

/-- Read a 512-bit descriptor. -/
def Desc.ofBits (d : Nat) : Desc :=
  let rank := bits d 24 2
  let dims := List.range (rank + 1)
  { region := bits d 0 16
    format := bits d 16 8
    rank := rank
    sizing := bits d 32 32
    offset := bits d 64 48
    shape := dims.map (fun k => bits d (128 + 32 * k) 32)
    stride := dims.map (fun k => if k = 0 then 0 else bits d (256 + 64 * (k - 1)) 64) }

/-- The element format; INT8 for an unknown code, which every check refuses first. -/
def Desc.fmt (d : Desc) : Format := (Format.ofCode d.format).getD .int8

/-- The sizing fields. -/
def Desc.siz (d : Desc) : Sizing := Sizing.ofWord d.sizing

/-- SHAPEk, 1 above RANK. -/
def Desc.dim (d : Desc) (k : Nat) : Nat := d.shape.getD k 1

/-- The reserved fields of a descriptor are zero (Table 3-8). -/
def descReservedOk (d : Nat) : Bool := bits d 26 6 == 0 && bits d 112 16 == 0 && bits d 448 64 == 0

/-- The byte offset of the dimension-0 run at the given coordinates. -/
def Desc.runOffset (d : Desc) (idx : List Nat) : Nat :=
  d.offset + ((List.range (d.rank + 1)).foldl (fun a k => a + idx.getD k 0 * d.stride.getD k 0) 0)

/-- The end of the tensor (R67). -/
def Desc.endOffset (d : Desc) : Nat :=
  d.runOffset (d.shape.map (fun n => n - 1)) + d.fmt.runBytes (d.dim 0)

/-- The start of the scale plane (Table 4-3). -/
def Desc.scaleStart (d : Desc) : Nat := d.offset + d.siz.spoff * 65536

/-- The size of the scale plane (R97). -/
def Desc.scaleSize (d : Desc) : Nat := d.fmt.scaleBytes * (d.siz.grid d.shape).foldl (· * ·) 1

/-- The DSLD checks of R67 and R96 for a region of `size` bytes (`none`: the handle is not in the region table). -/
def descOk (raw : Nat) (size : Option Nat) : Bool :=
  let d := Desc.ofBits raw
  match Format.ofCode d.format, size with
  | some f, some sz =>
    descReservedOk raw && d.shape.all (fun n => n != 0)
      && decide (d.endOffset < 2 ^ 64) && decide (d.endOffset ≤ sz)
      && (!f.blockScaled ||
        (!sizingBad d.sizing d.rank
          && (decide (d.endOffset ≤ d.scaleStart) || decide (d.scaleStart + d.scaleSize ≤ d.offset))
          && decide (d.scaleStart + d.scaleSize < 2 ^ 64) && decide (d.scaleStart + d.scaleSize ≤ sz)))
  | _, _ => false

/-- R98: a window of a block-scaled tensor starts and ends on whole blocks, or reaches SHAPEk; sub-byte elements start
at a multiple of 8. -/
def Desc.blockAligned (d : Desc) (start ext : List Nat) : Bool :=
  !d.fmt.blockScaled ||
    ((List.range (d.rank + 1)).all (fun k =>
        let c := d.siz.extent k
        let s := start.getD k 0
        let e := ext.getD k 1
        s % c == 0 && (e % c == 0 || s + e == d.dim k))
      && (!d.fmt.subByte || start.getD 0 0 % 8 == 0))

/-- start_k + extent_k ≤ SHAPEk for every k ≤ RANK (R68). -/
def Desc.inBounds (d : Desc) (start ext : List Nat) : Bool :=
  (List.range (d.rank + 1)).all (fun k => decide (start.getD k 0 + ext.getD k 1 ≤ d.dim k))

/-- The dimension-0 runs of a window, in window order: the coordinates of dimensions 1 to 3, dimension 1 fastest. -/
def windowRuns (rank : Nat) (ext : List Nat) : List (List Nat) :=
  let e (k : Nat) : Nat := if k ≤ rank then ext.getD k 1 else 1
  (List.range (e 3)).flatMap (fun c => (List.range (e 2)).flatMap (fun b =>
    (List.range (e 1)).map (fun a => [0, a, b, c])))

/-- Bytes of the packed elements of a window (R68, R93). -/
def Desc.packedBytes (d : Desc) (ext : List Nat) : Nat :=
  d.fmt.runBytes (ext.getD 0 1) * (windowRuns d.rank ext).length

/-- The window-local grid of blocks of a window (R98). -/
def Desc.windowGrid (d : Desc) (ext : List Nat) : List Nat := d.siz.grid (ext.take (d.rank + 1))

/-- Bytes of the packed scales of a window (R98). -/
def Desc.packedScaleBytes (d : Desc) (ext : List Nat) : Nat :=
  if d.fmt.blockScaled then d.fmt.scaleBytes * (d.windowGrid ext).foldl (· * ·) 1 else 0

/-- Where the packed scales of a window start: the next 64-byte boundary after its elements (R98). -/
def Desc.packedScaleStart (d : Desc) (ts : Nat) (ext : List Nat) : Nat :=
  ceilDiv (ts + d.packedBytes ext) 64 * 64

/-- The tile-store end of a window (R68, R98). -/
def Desc.packedEnd (d : Desc) (ts : Nat) (ext : List Nat) : Nat :=
  if d.fmt.blockScaled then d.packedScaleStart ts ext + d.packedScaleBytes ext else ts + d.packedBytes ext

/-- A piece of a window: `nbits` consecutive bits from bit `rbit` of the region's byte `off`, packed in the tile store from byte
`ts`. `rpad` bits of padding follow in the region and `tpad` in the tile store: a writer writes them as zero (R93, R478). -/
structure Piece where
  off : Nat
  rbit : Nat
  ts : Nat
  nbits : Nat
  rpad : Nat
  tpad : Nat
  deriving DecidableEq, Repr

/-- The bytes of the region that a piece touches. -/
def Piece.len (x : Piece) : Nat := (x.rbit + x.nbits + x.rpad + 7) / 8

/-- The first bit of a piece in the region. -/
def Piece.pos (x : Piece) : Nat := 8 * x.off + x.rbit

/-- The elements of one dimension-0 run of `n` elements from element `s`: INT4 windows may start and end at any element
(R478), the other formats start on whole groups and may end inside one. -/
def Desc.runPiece (d : Desc) (base ts s n : Nat) : Piece :=
  let w := d.fmt.width
  ⟨base + w * s / 8, w * s % 8, ts, w * n, (if s + n = d.dim 0 then 8 * d.fmt.runBytes (s + n) - w * (s + n) else 0),
    8 * d.fmt.runBytes n - w * n⟩

/-- Every piece of a window in window order, its scales last (R68, R69, R98). -/
def Desc.pieces (d : Desc) (ts : Nat) (start ext : List Nat) : List Piece :=
  let run := d.fmt.runBytes (ext.getD 0 1)
  let rs := windowRuns d.rank ext
  let elems := rs.zipIdx.map (fun (idx, r) =>
    let base := d.runOffset ((List.range 4).map (fun k => if k = 0 then 0 else start.getD k 0 + idx.getD k 0))
    d.runPiece base (ts + r * run) (start.getD 0 0) (ext.getD 0 1))
  let scales :=
    if d.fmt.blockScaled then
      let grid := d.windowGrid ext
      let full := d.siz.grid d.shape
      let sb := d.fmt.scaleBytes
      let b0 (k : Nat) : Nat := start.getD k 0 / d.siz.extent k
      (windowRuns d.rank grid).zipIdx.map (fun (idx, r) =>
        let at' := denseIndex full ((List.range (d.rank + 1)).map (fun k => b0 k + idx.getD k 0))
        ⟨d.scaleStart + at' * sb, 0, d.packedScaleStart ts ext + r * grid.getD 0 1 * sb, 8 * (grid.getD 0 1 * sb), 0, 0⟩)
    else []
  elems ++ scales

/-! ### The tile store -/

/-- A byte of the tile store. -/
def Tile.byte (t : Tile) (a : Nat) : Nat := SMap.get 0 a t.store.ts

/-- `n` little-endian bytes of the tile store. -/
def Tile.readLE (t : Tile) (a n : Nat) : Nat := ofLE ((List.range n).map (fun i => t.byte (a + i)))

/-- Does any 64-bit word of the `n` bytes at `a` carry poison? -/
def Tile.poisoned (t : Tile) (a n : Nat) : Bool :=
  n != 0 && ((List.range ((a + n - 1) / 8 - a / 8 + 1)).any (fun i => SMap.get false (a / 8 + i) t.store.tsPoison))

/-- Mark or clear the poison of a 64-bit word of the tile store. -/
def Tile.setPoison (t : Tile) (word : Nat) (p : Bool) : Tile :=
  { t with store := { t.store with tsPoison := SMap.put false word p t.store.tsPoison } }

/-- Write bytes to the tile store. A whole 64-bit word written without poison loses its poison; every word touched with
poison gains it; a partial write leaves a word's poison as it was (DEDUCED, log entry 14). -/
def Tile.writeBytes (t : Tile) (a : Nat) (bs : List Nat) (poison : Bool) : Tile :=
  let ts := (bs.zipIdx).foldl (fun m (b, i) => SMap.put 0 (a + i) (b % 256) m) t.store.ts
  let words := if bs.isEmpty then [] else
    (List.range ((a + bs.length - 1) / 8 - a / 8 + 1)).map (fun i => a / 8 + i)
  let whole (w : Nat) : Bool := decide (a ≤ 8 * w) && decide (8 * w + 8 ≤ a + bs.length)
  let p := words.foldl (fun m w =>
    if poison then SMap.put false w true m else if whole w then SMap.put false w false m else m) t.store.tsPoison
  { t with store := { t.store with ts := ts, tsPoison := p } }

/-- The tile-store byte span of element `i` of a run: first byte from the run's start, and length. -/
def Format.elementSpan (f : Format) (i : Nat) : Nat × Nat :=
  match f.width with
  | 4 => (i / 2, 1)
  | 6 =>
    let b := 6 * (i % 4)
    (3 * (i / 4) + b / 8, (b + 5) / 8 - b / 8 + 1)
  | w => (i * (w / 8), w / 8)

/-- The code of the element at the given coordinates of a tile-store descriptor. -/
def Tile.elementCode (t : Tile) (d : Desc) (idx : List Nat) : Nat :=
  let base := d.runOffset (0 :: idx.tail)
  d.fmt.element (fun o => t.byte (base + o)) (idx.getD 0 0)

/-- The byte address of the scale of an element of a tile-store descriptor (R97). -/
def Desc.scaleAddr (d : Desc) (idx : List Nat) : Nat :=
  d.scaleStart + d.siz.scaleIndex d.shape (idx.take (d.rank + 1)) * d.fmt.scaleBytes

/-- The exact value of an element with its block's scale (R121), and whether the element or its scale is poisoned
(R117). -/
def Tile.elementVal (t : Tile) (d : Desc) (idx : List Nat) : Val × Bool :=
  let code := t.elementCode d idx
  let base := d.runOffset (0 :: idx.tail)
  let (o, n) := d.fmt.elementSpan (idx.getD 0 0)
  let p := t.poisoned (base + o) n
  if d.fmt.blockScaled then
    let sa := d.scaleAddr idx
    let sb := d.fmt.scaleBytes
    (d.fmt.decodeScaled (t.readLE sa sb) code, p || t.poisoned sa sb)
  else (d.fmt.decode code, p)

/-! ### What an operation writes into the tile store -/

/-- One write: `len` bits from bit `pos` of the store (8 × the byte address), and whether they are poisoned. -/
structure TsWrite where
  pos : Nat
  len : Nat
  val : Nat
  poison : Bool
  deriving DecidableEq, Repr

/-- Bytes at a byte address. -/
def TsWrite.bytes (a n val : Nat) (poison : Bool) : TsWrite := ⟨8 * a, 8 * n, val, poison⟩

/-- The data of one write; the other bits of a shared byte keep their values (R152). -/
def TsWrite.put (x : TsWrite) (ts : SMap Nat) : SMap Nat :=
  let a := x.pos / 8
  let n := (x.pos % 8 + x.len + 7) / 8
  let old := ofLE ((List.range n).map (fun i => SMap.get 0 (a + i) ts))
  (toLE n (putBits old (x.pos % 8) x.len x.val)).zipIdx.foldl (fun m (b, i) => SMap.put 0 (a + i) b m) ts

/-- The 64-bit words of one write, each with the mask of its bits that are written. -/
def TsWrite.words (x : TsWrite) : List (Nat × Nat) :=
  if x.len = 0 then []
  else (List.range ((x.pos + x.len - 1) / 64 - x.pos / 64 + 1)).map (fun i =>
    let w := x.pos / 64 + i
    let lo := max x.pos (64 * w)
    let hi := min (x.pos + x.len) (64 * w + 64)
    (w, 2 ^ (hi - 64 * w) - 2 ^ (lo - 64 * w)))

/-- What the writes of one operation make of the words they touch: by word, the bits last written without poison, and
whether any were written with it. -/
def wordMarks (marks : SMap (Nat × Bool)) (ws : List TsWrite) : SMap (Nat × Bool) :=
  ws.foldl (fun m x => x.words.foldl (fun m (w, k) =>
    let (clean, p) := SMap.get (0, false) w m
    SMap.insert w (if x.poison then (clean - (clean &&& k), true) else (clean ||| k, p)) m) m) marks

/-- Writes of an operation whose earlier ones left these marks, in order. A word that they cover wholly without poison loses
its poison, one written with poison gains it, and any other keeps what it had (R70; DEDUCED, log entry 14). -/
def Tile.writeMarked (t : Tile) (marks : SMap (Nat × Bool)) (ws : List TsWrite) : Tile :=
  { t with store := { t.store with
    ts := ws.foldl (fun m x => x.put m) t.store.ts
    tsPoison := (wordMarks marks ws).foldl (fun m e =>
      if e.2.1 = 2 ^ 64 - 1 then SMap.put false e.1 false m
      else if e.2.2 then SMap.put false e.1 true m else m) t.store.tsPoison } }

/-- All writes of one operation, in order. -/
def Tile.writeAll (t : Tile) (ws : List TsWrite) : Tile := t.writeMarked [] ws

/-- The bit at which element `i` of a run starts (R93). -/
def Format.elementBit (f : Format) (i : Nat) : Nat := if f.width = 6 then 24 * (i / 4) + 6 * (i % 4) else f.width * i

/-- The writes of one element at its coordinates: its code and, in the last group of its run, the padding (R93). -/
def Desc.elementWrites (d : Desc) (idx : List Nat) (code : Nat) (poison : Bool) : List TsWrite :=
  let base := 8 * d.runOffset (0 :: idx.tail)
  let i := idx.headD 0
  let n := d.dim 0
  let top := 8 * d.fmt.runBytes n
  let here : TsWrite := ⟨base + d.fmt.elementBit i, d.fmt.width, code, poison⟩
  let group := if d.fmt.width = 6 then 4 else if d.fmt.width = 4 then 2 else 1
  let used := d.fmt.elementBit (n - 1) + d.fmt.width
  if i / group = (n - 1) / group ∧ used < top then [here, ⟨base + used, top - used, 0, poison⟩] else [here]

/-- The write of a block's scale. -/
def Desc.scaleWrite (d : Desc) (idx : List Nat) (scale : Nat) (poison : Bool) : TsWrite :=
  .bytes (d.scaleAddr idx) d.fmt.scaleBytes scale poison

end Sys2Proof.Machine
end

