-- ==== Sys2Proof/Machine/Ops.lean ====
section
/-! DEFINITION. Machine/Ops.lean: the named operations over the hub's state that every chapter's meanings share: register
fields, unit pages, error capture and event records, interrupts, completions, doorbell bits, and stack memory. -/

namespace Sys2Proof.Machine

/-! ### Register fields (R9) -/

/-- The value of a field of instance `i`. -/
def Dev.fget (d : Dev) (f : Field) (i : Nat) : Nat := SMap.get f.reset (f.key i) d.regs

/-- The field reads 1. -/
def Dev.fbit (d : Dev) (f : Field) (i : Nat) : Bool := d.fget f i == 1

/-- Set a field of instance `i`. -/
def Dev.fset (d : Dev) (f : Field) (i v : Nat) : Dev :=
  { d with regs := SMap.put f.reset (f.key i) (v % 2 ^ f.width) d.regs }

/-- Count `n` in a saturating field. -/
def Dev.fcount (d : Dev) (f : Field) (i n : Nat) : Dev := d.fset f i (satAdd (2 ^ f.width - 1) (d.fget f i) n)

/-- Count one in a field that wraps. -/
def Dev.fwrap (d : Dev) (f : Field) (i : Nat) : Dev := d.fset f i (d.fget f i + 1)

/-! ### Page classes (Table 2-1) -/

def pGLB : Nat := 0x00
def pSEC : Nat := 0x01
def pLIC : Nat := 0x02
def pEVR : Nat := 0x03
def pPWR : Nat := 0x04
def pTHM : Nat := 0x05
def pCAD : Nat := 0x06
def pDKL : Nat := 0x07
def pHBX : Nat := 0x08
def pPCI : Nat := 0x09
def pCOL : Nat := 0x0A
def pSTP : Nat := 0x0B
def pCAL : Nat := 0x0C
def pDOC : Nat := 0x0D
def pSYN : Nat := 0x0E
def pTIL : Nat := 0x10
def pSLV : Nat := 0x11
def pSTK : Nat := 0x12
def pFLT : Nat := 0x13
def pBZP : Nat := 0x14
def pBZE : Nat := 0x15

/-- Instances of a class (Table 2-1); 0 for a class that is not implemented (R35). -/
def instances (cls : Nat) : Nat :=
  match cls with
  | 0x10 => 68
  | 0x11 => 8
  | 0x12 => 32
  | 0x13 => 5
  | 0x14 => 18
  | 0x15 => 6
  | c => if c ≤ 0x0E then 1 else 0

/-- DRAIN_BOUND in units of 10 µs, 0 for a class that is not drainable (Table 2-5). -/
def drainBound (cls : Nat) : Nat :=
  match cls with
  | 0x10 => 10
  | 0x11 => 200
  | 0x12 => 5
  | 0x14 => 20
  | 0x15 => 50
  | 0x0A => 1000
  | 0x0D => 1
  | 0x0C => 10
  | _ => 0

/-- The common area of a page. -/
def Dev.unit (d : Dev) (cls inst : Nat) : UnitPage := SMap.get .reset (cls * 256 + inst) d.units

/-- Set the common area of a page. -/
def Dev.setUnit (d : Dev) (cls inst : Nat) (u : UnitPage) : Dev :=
  { d with units := SMap.put .reset (cls * 256 + inst) u d.units }

/-- Change the common area of a page. -/
def Dev.onUnit (d : Dev) (cls inst : Nat) (f : UnitPage → UnitPage) : Dev := d.setUnit cls inst (f (d.unit cls inst))

/-- The unit is ACTIVE. -/
def Dev.active (d : Dev) (cls inst : Nat) : Bool := (d.unit cls inst).state == .active

/-- The unit is DRAINING or DISABLED (R45). -/
def Dev.down (d : Dev) (cls inst : Nat) : Bool :=
  (d.unit cls inst).state == .draining || (d.unit cls inst).state == .disabled

/-- PG_STAT.FAULT: an uncleared UCC or UCF (Table 2-3). -/
def UnitPage.fault (u : UnitPage) : Bool := bit u.err 2 || bit u.err 3

/-! ### Event records (R427, R430) -/

/-- The class of an event code (R431). -/
def codeClass (code : Nat) : Nat := code / 4096

/-- SEV[2:0] of a code (R431). -/
def severity (code : Nat) : Nat :=
  if code = 0x0013 then 3 else if code = 0x5008 then 6 else if code = 0x8002 then 5
  else match codeClass code with
    | 0 => 1
    | 1 => 2
    | 2 => 3
    | 3 => 4
    | 4 => 6
    | 5 => 2
    | 6 => 3
    | 7 => 1
    | _ => 3

/-- A record reaches EVR; EVENT_RECORD admits it (R217, R430). After a power-fail signal admission is closed (R438). -/
def Dev.raise (d : Dev) (r : RawRec) : Dev :=
  if d.evr.closed then d else { d with evr := { d.evr with raised := d.evr.raised ++ [r] } }

/-- Raise a record of a page. -/
def Dev.record (d : Dev) (code cls inst p0 p1 p2 : Nat) : Dev := d.raise ⟨code, cls, inst, p0, p1, p2, false⟩

/-! ### MSI-X (R395) -/

/-- A word of the MSI-X table; every entry is masked after reset (PRESUMED, log entry 20). -/
def Dev.msixWord (d : Dev) (w : Nat) : Nat := SMap.get (if w % 4 = 3 then 1 else 0) w d.pci.msixTable

/-- Signal a vector, or hold it pending while its entry is masked. -/
def Dev.signal (d : Dev) (v : Nat) : Dev :=
  if bit (d.msixWord (4 * v + 3)) 0 then { d with pci := { d.pci with pba := d.pci.pba ||| 2 ^ v } }
  else { d with pci := { d.pci with msixSent := d.pci.msixSent ++ [v] } }

/-- A transition of an unmasked PG_ERR bit (R427): signalled, unless an interval is open; then at its end. -/
def Dev.errorSignal (d : Dev) (ucf : Bool) : Dev :=
  let v := d.fget hbxErrvecVector 0
  if ucf || d.fget evrErrcoalUs 0 == 0 then d.signal v
  else if d.evr.errOpen then { d with evr := { d.evr with errPending := true } }
  else { d.signal v with evr := { d.evr with errOpen := true } }

/-- Add to a busy counter that counts units of 1,024 cc. -/
def Dev.busy (d : Dev) (f : Field) (p before after : Nat) : Dev := d.fcount f p (after / 1024 - before / 1024)

/-! ### PG_ERR (R42) -/

def bCE : Nat := 1
def bDE : Nat := 2
def bUCC : Nat := 4
def bUCF : Nat := 8
def bPARITY : Nat := 16
def bTIMEOUT : Nat := 32

/-- The rank of a captured class (R42). -/
def captureRank (code : Nat) : Nat :=
  match codeClass code with
  | 4 => 4
  | 3 => 3
  | 2 => 2
  | 1 => 1
  | _ => 0

/-- The page after an event that sets the PG_ERR bits `bs` with a record of `code` (R42): counts, bits, capture. -/
def UnitPage.setErr (u : UnitPage) (bs code sub p0 p1 p2 : Nat) : UnitPage :=
  let u := { u with
    err := u.err ||| bs
    ceCnt := satAdd 0xFFFF u.ceCnt (b2n (bit bs 0))
    deCnt := satAdd 0xFF u.deCnt (b2n (bit bs 1))
    uccCnt := satAdd 0xFF u.uccCnt (b2n (bit bs 2)) }
  if u.capBits = 0 ∨ u.capRank < captureRank code then
    { u with
      capBits := bs
      capRank := captureRank code
      capCode := code % 2 ^ 16
      capSub := sub % 2 ^ 16
      capP0 := p0 % 2 ^ 32
      capP1 := p1 % 2 ^ 32
      capP2 := p2 % 2 ^ 32 }
  else u

/-- An error of a page: PG_ERR, the capture, its event record unless every bit is masked, and the error signal (R42,
R427). `always` writes the record even when masked (DRAIN_END, R428). -/
def Dev.pgErrSub (d : Dev) (cls inst bs code sub p0 p1 p2 : Nat) (always : Bool) : Dev :=
  let u := d.unit cls inst
  let open_ := (List.range 6).filter (fun i => bit bs i && !bit u.mask i)
  let rising := open_.any (fun i => !bit u.err i)
  let d := d.setUnit cls inst (u.setErr bs code sub p0 p1 p2)
  let d :=
    if !open_.isEmpty then d.raise ⟨code, cls, inst, p0, p1, p2, true⟩
    else if always then d.raise ⟨code, cls, inst, p0, p1, p2, false⟩ else d
  if rising then d.errorSignal (bit bs 3) else d

/-- An error with no sub-unit. -/
def Dev.pgErr (d : Dev) (cls inst bs code p0 p1 p2 : Nat) : Dev := d.pgErrSub cls inst bs code 0 p0 p1 p2 false

/-! ### GLB -/

/-- The code of a DEVSTATE value (Table 2-7). -/
def DevPhase.code : DevPhase → Nat
  | .boot => 0
  | .memtest => 1
  | .linktrain => 2
  | .computeUp => 3
  | .ready => 4
  | .degraded => 5
  | .computeReset => 6
  | .failed => 7

/-- GLB.DEVSTATE changes, with its record (Table 16-5). -/
def Dev.setPhase (d : Dev) (p : DevPhase) : Dev :=
  if d.phase = p then d
  else ({ d with phase := p }).record 0x5002 pGLB 0 p.code d.phase.code 0

/-- READY or READY_DEGRADED. -/
def Dev.isReady (d : Dev) : Bool := d.phase == .ready || d.phase == .degraded

/-- The first bad access since GLB.BADACC.VALID was last cleared, with its record (R40, R228). `bar` is the SOURCE. -/
def Dev.badAccess (d : Dev) (off source barrier : Nat) (resv partial_ write : Bool) : Dev :=
  if d.fbit glbBadaccValid 0 then d
  else
    let acc := 1 + 2 * b2n resv + 4 * b2n partial_ + 8 * b2n write + 16 * source + 64 * barrier
    let d := d.fset glbBadaddrOffset 0 off
    let d := d.fset glbBadaccValid 0 1
    let d := d.fset glbBadaccResvPage 0 (b2n resv)
    let d := d.fset glbBadaccPartial 0 (b2n partial_)
    let d := d.fset glbBadaccWrite 0 (b2n write)
    let d := d.fset glbBadaccSource 0 source
    let d := d.fset glbBadaccBarrier 0 barrier
    d.record 0x0001 pGLB 0 off acc 0

/-- The effective life-cycle state (R446): FIELD_DEBUG overlays DEPLOYED. -/
def Dev.lcs (d : Dev) : Nat := if d.sec.fieldDebug && d.sec.fused == 2 then 3 else d.sec.fused

/-- The debug registers and RWL fields of a TIL page are open (R41, R446). -/
def Dev.debugOpen (d : Dev) : Bool := d.lcs == 0 || d.lcs == 3 || d.lcs == 4

/-- The Sheets work: they are neither gated nor held (R465, R470). -/
def Dev.sheetsRun (d : Dev) : Bool := !d.pwr.gated && !d.pwr.dutyHold

/-! ### The host's accesses (R400, R401, R414) -/

/-- The PCI Express link is up and the endpoint out of reset. -/
def Dev.linkUp (d : Dev) : Bool := d.pwr.on && !d.pci.perst && d.fget pciLinkstatRate 0 != 0

/-- Accesses to the BARs are answered: from event 5 of Table 15-1, and in FAILED. -/
def Dev.answers (d : Dev) : Bool := d.linkUp && (decide (5 ≤ d.bootEvent) || d.phase == .failed)

/-- What an access of the host does while accesses are answered. -/
def Dev.host (d : Dev) (f : Dev → Dev) : Dev := if d.answers then f d else d

/-! ### Tiles -/

/-- A tile by its physical number. -/
def Dev.tile (d : Dev) (p : Nat) : Tile := SMap.get .reset p d.tiles

/-- Set a tile. -/
def Dev.setTile (d : Dev) (p : Nat) (t : Tile) : Dev := { d with tiles := SMap.put .reset p t d.tiles }

/-- Change a tile. -/
def Dev.onTile (d : Dev) (p : Nat) (f : Tile → Tile) : Dev := d.setTile p (f (d.tile p))

/-- The physical tile of a logical tile. -/
def Dev.physOf (d : Dev) (l : Nat) : Option Nat := d.deckle.placement.bind (fun pl => SMap.find l pl.tmap)

/-- The logical tile a physical tile carries (TIL.LOGICAL). -/
def Dev.logicalOf (d : Dev) (p : Nat) : Option Nat :=
  let t := d.tile p
  if t.core.ltileValid then some t.core.ltile else none

/-- Set TEV bits of a tile (R79). -/
def Tile.orTev (t : Tile) (m : Nat) : Tile := { t with core := { t.core with tev := t.core.tev ||| m } }

/-- The event of a source sets every TEV bit bound to it (R272): kind 0 host doorbell, 1 bucket-ready, 2 couch queue,
3 solver publication. -/
def Dev.doorbell (d : Dev) (kind src : Nat) : Dev :=
  match d.deckle.placement with
  | none => d
  | some pl =>
    pl.man.binds.foldl (fun d b =>
      if b.kind = kind ∧ b.src = src then
        match SMap.find b.tile pl.tmap with
        | some p => d.onTile p (fun t => t.orTev (2 ^ b.bit))
        | none => d
      else d) d

/-! ### Completions (R388 to R391) -/

/-- A CQ by its number. -/
def Dev.cq (d : Dev) (q : Nat) : Cq := SMap.get .reset q d.hbx.cq

/-- Set a CQ. -/
def Dev.setCq (d : Dev) (q : Nat) (c : Cq) : Dev := { d with hbx := { d.hbx with cq := SMap.put .reset q c d.hbx.cq } }

/-- An SQ by its number. -/
def Dev.sq (d : Dev) (q : Nat) : Sq := SMap.get .reset q d.hbx.sq

/-- Set an SQ. -/
def Dev.setSq (d : Dev) (q : Nat) (c : Sq) : Dev := { d with hbx := { d.hbx with sq := SMap.put .reset q c d.hbx.sq } }

/-- Entries of a CQ. -/
def Dev.cqSize (d : Dev) (q : Nat) : Nat := 2 ^ d.fget hbxCqcfgLog2size q

/-- The G7 may write another entry: at most one fewer than the ring holds are unconsumed, so that head and tail tell an
empty ring from a full one (DEDUCED, log entry 21). -/
def Dev.cqRoom (d : Dev) (q : Nat) : Bool :=
  let c := d.cq q
  let n := d.cqSize q
  decide ((c.tail + n - c.head % n) % n < n - 1)

/-- Discarded completions (R391): counted, and written as a record. -/
def Dev.dropCompletions (d : Dev) (n : Nat) : Dev :=
  if n = 0 then d else (d.fcount hbxUcdropCount 0 n).record 0x0004 pHBX 0 n 0 0

/-- An entry for a CQ waits to be written by COMPLETION_WRITE; a disabled CQ discards it. -/
def Dev.postCq (d : Dev) (q : Nat) (e : CqEntry) : Dev :=
  if d.fbit hbxCqcfgEn q then
    let c := d.cq q
    d.setCq q { c with waiting := c.waiting ++ [e] }
  else d.dropCompletions 1

/-- An unsolicited entry (kinds 2 to 5) goes to HBX.UCQ; behind a full CQ at most 1,024 wait (R391). -/
def Dev.postUnsolicited (d : Dev) (kind status p0 p1 p2 : Nat) : Dev :=
  let q := d.fget hbxUcqCq 0
  let held := ((d.cq q).waiting.filter (fun e => decide (2 ≤ e.kind))).length
  if !d.fbit hbxUcqEn 0 || (!d.cqRoom q && decide (1024 ≤ held)) then d.dropCompletions 1
  else d.postCq q ⟨0xFFFF, 0xFF, kind, status, p0, p1, p2⟩

/-- A command completes (R388): QUIET keeps an OK silent, and a status other than OK counts in HBX.BADCMD. -/
def Dev.complete (d : Dev) (c : HostCmd) (status p0 p1 : Nat) : Dev :=
  let s := d.sq c.sq
  let d := d.setSq c.sq { s with started := s.started.erase c }
  let d := if status = 0 then d else d.fcount hbxBadcmdCount 0 1
  if c.quiet && status == 0 then d
  else d.postCq (d.fget hbxSqcfgCq c.sq) ⟨c.cid, c.sq, 0, status, p0, p1, 0⟩

/-- A tile completion (Table 14-5) goes to the CQ of its TILE_START, or to HBX.UCQ where no TILE_START ever named the
tile (DESIGN CHOICE, log entry 22). -/
def Dev.tileCompletion (d : Dev) (p status p1 p2 : Nat) : Dev :=
  let t := d.tile p
  if t.store.launchCq = 0 then d.postUnsolicited 1 status t.core.ltile p1 p2
  else d.postCq (t.store.launchCq - 1) ⟨0xFFFF, 0xFF, 1, status, t.core.ltile, p1, p2⟩

/-! ### Stack memory (R238 to R250) -/

/-- Bytes of stack memory by device address, 2^36 × stack + offset (R384); an unlisted byte reads 0 (DESIGN CHOICE, log
entry 2). -/
abbrev Mem := List Host.Cell

/-- The canonical form: addresses strictly rising, no byte equal to what an unlisted one reads as. -/
def Memory.wf (m : Mem) : Bool := SMap.wf 0 m

/-- The byte at a device address. -/
def Memory.read (m : Mem) (a : Nat) : Byte := SMap.get 0 a m

/-- Write a byte; writing 0 unlists the address. -/
def Memory.write (m : Mem) (a : Nat) (b : Byte) : Mem := SMap.put 0 a b m

/-- Write a list of bytes at their addresses, first to last. -/
def Memory.writeAll (m : Mem) (l : List Host.Cell) : Mem := l.foldl (fun m p => Memory.write m p.1 p.2) m

/-- Bytes of a stack (R238). -/
def stackBytes : Nat := 0x1000000000

/-- A byte as the command being performed sees it: its own earlier writes first. -/
def Dev.byteAt (d : Dev) (m : Mem) (a : Nat) : Nat := ((SMap.find a d.wout).getD (Memory.read m a)).toNat

/-- `n` bytes from a device address. -/
def Dev.bytesAt (d : Dev) (m : Mem) (a n : Nat) : List Nat := (List.range n).map (fun i => d.byteAt m (a + i))

/-- Put bytes into the outbox. -/
def Dev.pokeBytes (d : Dev) (a : Nat) (bs : List Nat) : Dev :=
  { d with wout := bs.zipIdx.foldl (fun w (b, i) => SMap.insert (a + i) (BitVec.ofNat 8 b) w) d.wout }

/-- The poison bit of a line, by device address / 64: the majority of its three stored copies (R248). -/
def Dev.lineBad (d : Dev) (line : Nat) : Bool := decide (2 ≤ (setBits 3 (SMap.get 0 line d.linePoison)).length)

/-- Set the poison bit of a line, all three copies. -/
def Dev.setLine (d : Dev) (line : Nat) (p : Bool) : Dev :=
  { d with linePoison := SMap.put 0 line (if p then 7 else 0) d.linePoison }

/-- The stack of a device address. -/
def stackOf (a : Nat) : Nat := a / stackBytes

/-- The line offset >> 6 that records carry (Table 16-5). -/
def lineOf (a : Nat) : Nat := a % stackBytes / 64

/-- PG_ERR.DE of a stack with its POISON record (R249). -/
def Dev.stackPoison (d : Dev) (a how : Nat) : Dev := d.pgErr pSTK (stackOf a) bDE 0x2001 (lineOf a) how 0

/-- The spans of `n` bytes from `a` cut at line ends: start and length. The fuel is the number of lines they can touch. -/
def lineSpans : Nat → Nat → Nat → List (Nat × Nat)
  | 0, _, _ => []
  | k + 1, a, n =>
    if n = 0 then []
    else
      let l := min n (64 - a % 64)
      (a, l) :: lineSpans k (a + l) (n - l)

/-! ### Regions (R241 to R244, R288) -/

/-- A BANKED region of the placement has this base handle. -/
def Dev.banked (d : Dev) (h : Nat) : Bool :=
  d.deckle.placement.any (fun pl => pl.man.regions.any (fun r => r.cls == 1 && r.handle == h))

/-- The class of a handle's region in the manifest (Table 10-4), either bank. -/
def Dev.regionClass (d : Dev) (h : Nat) : Option Nat :=
  d.deckle.placement.bind (fun pl => (pl.man.regions.find? (fun r => r.handle == h % 0x800)).map (fun r => r.cls))

/-- The physical entry a name resolves to (R288): H names the committed bank, H | 0x0800 the working one. -/
def Dev.resolve (d : Dev) (h : Nat) : Nat :=
  if h < 0x1000 ∧ d.banked (h % 0x800) then
    (if d.fbit stpBankSel 0 then h ^^^ 0x800 else h)
  else h

/-- A region-table entry by its physical handle. -/
def Dev.entry (d : Dev) (h : Nat) : Region := SMap.get Region.none h d.deckle.regions

/-- Write a region-table entry. -/
def Dev.setEntry (d : Dev) (h : Nat) (r : Region) : Dev :=
  { d with deckle := { d.deckle with regions := SMap.put Region.none h r d.deckle.regions } }

/-- The logical solver instance whose delta port a handle is (R270). -/
def Dev.deltaPort (d : Dev) (h : Nat) : Option Nat :=
  d.deckle.placement.bind (fun pl =>
    (pl.man.regions.find? (fun r => r.cls == 5 && r.handle == h)).map (fun r => r.solv))

/-- SIZE of the region a name resolves to, for the checks of R67: none where it is not in the region table. A delta
port counts as 2 MiB (R270). -/
def Dev.regionSize (d : Dev) (h : Nat) : Option Nat :=
  if h = 0 ∨ 0x1000 ≤ h then none
  else if (d.deltaPort h).isSome then some 0x200000
  else
    let r := d.entry (d.resolve h)
    if r.state = .free then none else some r.size

/-- The stack location of a region offset, as a device address (R242). -/
def Region.locate (r : Region) (o : Nat) : Nat :=
  let ss := setBits 32 r.stks
  if r.stripe then
    let n := ss.length
    let k := o / 4096
    ss.getD (k % n) 0 * stackBytes + r.base + k / n * 4096 + o % 4096
  else ss.headD 0 * stackBytes + r.base + o

/-- The second location of a write to a unit already migrated (R283). -/
def Dev.mirrorOf (d : Dev) (h o : Nat) : Option Nat :=
  match d.deckle.migration with
  | some g => if g.handle = h ∧ o / 4096 < g.done then some (g.target.locate o) else none
  | none => none

/-- What the check of R244 answers. -/
inductive RegionCheck where
  | descInvalid | regionFailed | ok
  deriving DecidableEq, Repr

/-- The check of R244 for an access whose highest touched offset is below `top`, on a physical entry. -/
def Dev.checkEntry (d : Dev) (h top : Nat) : RegionCheck :=
  let r := d.entry h
  if h = 0 ∨ 0x1000 ≤ h then .descInvalid
  else match r.state with
    | .free => .descInvalid
    | .failed => .regionFailed
    | _ => if r.size < top then .descInvalid else .ok

/-- The stack answers: neither FAILED nor DRAINING nor DISABLED (R260, R261). -/
def Dev.stackUp (d : Dev) (s : Nat) : Bool := d.active pSTK s && d.fget stkStatHealth s != 3

/-- The spans of an access cut at 4 KiB units (R242): region offset and length. -/
def unitSpans : Nat → Nat → Nat → List (Nat × Nat)
  | 0, _, _ => []
  | k + 1, o, n =>
    if n = 0 then []
    else
      let l := min n (4096 - o % 4096)
      (o, l) :: unitSpans k (o + l) (n - l)

/-- A record ring of the driver needs a PLAIN region of at least this size (R310, R440). -/
def Dev.plainRegion (d : Dev) (h size : Nat) : Bool :=
  h != 0 && d.regionClass h == some 3 && decide (size ≤ (d.entry h).size) && d.checkEntry h size == .ok

/-! ### Free values -/

/-- The next free value and the state that has taken it. -/
def Dev.fresh (d : Dev) : Nat × Dev := (Config.freeNat d.free, { d with free := d.free + 1 })

end Sys2Proof.Machine
end

