-- ==== Sys2Proof/Machine/Health.lean ====
section
/-! DEFINITION. Machine/Health.lean: Felt links, the health map, the READY decision, barriers and step-wide releases
(R24, R25, R224 to R227, R264, R412). -/

namespace Sys2Proof.Machine

/-! ### Felt links (R24 to R26) -/

/-- The node pairs of Table 10-1, in order. -/
def linkPairs : List (Nat × Nat) :=
  [(0, 1), (0, 2), (0, 3), (0, 4), (1, 2), (1, 3), (1, 4), (2, 3), (2, 4), (3, 4)]

/-- The place of a link in Table 10-1; 10 for a pair that is no link. -/
def linkIndex (a b : Nat) : Nat := linkPairs.findIdx (fun p => p == (min a b, max a b))

/-- The link between two nodes. -/
def Dev.feltLink (d : Dev) (a b : Nat) : FeltLink := SMap.get .reset (linkIndex a b) d.links

/-- Set the link between two nodes. -/
def Dev.setFelt (d : Dev) (a b : Nat) (x : FeltLink) : Dev := { d with links := SMap.put .reset (linkIndex a b) x d.links }

/-- The state of a link as FLT.LINKSTAT codes it: 0 DOWN, 1 UP, 2 REROUTED. -/
def Dev.link (d : Dev) (a b : Nat) : Nat := (d.feltLink a b).state

/-- The nodes other than `k`. -/
def peers (k : Nat) : List Nat := (List.range 5).filter (fun n => n != k)

/-- Sheet k is reachable: a Felt link of its own works, and its crossbar holds no UCC (R25, Table 16-1). -/
def Dev.sheetReachable (d : Dev) (k : Nat) : Bool :=
  (peers k).any (fun n => d.link k n == 1)
    && !((d.unit pFLT k).state == .disabled && (d.unit pFLT k).reason == 7)

/-! ### The health map (R264, Table 10-1) -/

/-- FAILED, OUT or USABLE for a tile or an engine of Sheet k. -/
def Dev.computeHealth (d : Dev) (u : UnitPage) (k : Nat) : Nat :=
  if u.fuseBad || u.fieldBad || u.fault || (u.state == .disabled && u.reason == 7)
      || !d.sheetReachable k || (!u.testPassed && !u.unlicensed) then 3
  else if u.state == .draining || u.unlicensed
      || (u.state == .disabled && (u.reason == 1 || u.reason == 5 || u.reason == 6)) then 2
  else 0

/-- The state that an entry's conditions give now: 0 USABLE, 1 DERATED, 2 OUT, 3 FAILED. -/
def Dev.healthNow (d : Dev) (i : Nat) : Nat :=
  if i < 68 then d.computeHealth (d.unit pTIL i) (i / 17)
  else if 0x080 ≤ i ∧ i < 0x088 then d.computeHealth (d.unit pSLV (i - 0x080)) ((i - 0x080) / 2)
  else if 0x100 ≤ i ∧ i < 0x120 then
    let s := i - 0x100
    let u := d.unit pSTK s
    let h := d.fget stkStatHealth s
    if h = 3 then 3
    else if h = 2 || u.state == .draining || u.state == .disabled then 2
    else h
  else if 0x180 ≤ i ∧ i < 0x18A then
    match (SMap.get .reset (i - 0x180) d.links).state with
    | 1 => 0
    | 2 => 1
    | _ => 3
  else if 0x200 ≤ i ∧ i < 0x212 then
    let p := SMap.get .reset (i - 0x200) d.brezin.ports
    if p.state == .up then (if p.width = 3 then 0 else 1) else 2
  else if 0x280 ≤ i ∧ i < 0x284 then (if d.sheetReachable (i - 0x280) then 0 else 3)
  else 0

/-- The entry that the map holds. -/
def Dev.health (d : Dev) (i : Nat) : Nat := SMap.get 0 i d.deckle.health

/-- Every index that Table 10-1 lists. -/
def healthIndexes : List Nat :=
  List.range 68 ++ (List.range 8).map (· + 0x080) ++ (List.range 32).map (· + 0x100)
    ++ (List.range 10).map (· + 0x180) ++ (List.range 18).map (· + 0x200) ++ (List.range 4).map (· + 0x280)

/-- The map is built at event 8 of Table 15-1 and follows the units from then on. -/
def Dev.mapLive (d : Dev) : Bool :=
  match d.phase with
  | .boot | .memtest | .linktrain => false
  | _ => true

/-- Bring one entry up to date: a change raises DKL.HMGEN and writes a HEALTH record (R264). -/
def Dev.rehealth (d : Dev) (i : Nat) : Dev :=
  let new := d.healthNow i
  let old := d.health i
  if new = old ∨ !d.mapLive then d
  else
    ({ d with deckle := { d.deckle with health := SMap.put 0 i new d.deckle.health } }.fwrap dklHmgenGen 0).record
      0x5001 pDKL 0 i new old

/-- Bring a list of entries up to date, in ascending order (R286). -/
def Dev.rehealthAll (d : Dev) (l : List Nat) : Dev := l.foldl Dev.rehealth d

/-! ### READY, READY_DEGRADED, FAILED (R412, R413) -/

/-- USABLE tiles of Sheet k. -/
def Dev.usableTiles (d : Dev) (k : Nat) : List Nat := (List.range 17).filter (fun p => d.health (17 * k + p) == 0)

/-- A condition of READY_DEGRADED holds (R412). -/
def Dev.degradedNow (d : Dev) : Bool :=
  (List.range 4).any (fun k => decide ((d.usableTiles k).length < 16) || !d.sheetReachable k
      || (d.health (17 * k + 15) != 0 && d.health (17 * k + 16) != 0))
    || (d.variant == 1 && (List.range 8).any (fun e => d.health (0x080 + e) == 3))
    || (List.range 32).any (fun s => decide (2 ≤ d.fget stkStatHealth s))
    || d.variant == 0 || d.deckle.remapFailed
    || [pCOL, pEVR, pDOC, pCAL, pTHM].any (fun c => !(d.unit c 0).testPassed)

/-- The state that R412 gives at event 9 and at the end of a compute reset. -/
def Dev.decideReady (d : Dev) : DevPhase :=
  if d.phase = .failed || !(List.range 4).any d.sheetReachable then .failed
  else if d.degradedNow then .degraded else .ready

/-- READY becomes READY_DEGRADED when a condition arises (R413). -/
def Dev.checkDegraded (d : Dev) : Dev := if d.phase = .ready ∧ d.degradedNow then d.setPhase .degraded else d

/-- A unit changed: its map entry, and the device's own state. -/
def Dev.refresh (d : Dev) (i : Nat) : Dev := (d.rehealth i).checkDegraded

/-! ### Barriers (R224 to R228) -/

/-- A barrier by its number. -/
def Dev.bar (d : Dev) (b : Nat) : Barrier := SMap.get .reset b d.syn.bars

/-- Set a barrier. -/
def Dev.setBar (d : Dev) (b : Nat) (x : Barrier) : Dev := { d with syn := { d.syn with bars := SMap.put .reset b x d.syn.bars } }

/-- A tile's arrival at `b` is released with a status: 0 OK, 1 BROKEN, 2 UNCONFIGURED (R226). -/
def Tile.releaseArrival (t : Tile) (b status : Nat) : Tile :=
  match SMap.find b t.store.arrivals with
  | some a => { t with store := { t.store with arrivals := SMap.insert b { a with released := some status } t.store.arrivals } }
  | none => t

/-- Tiles are released from a barrier with a status, and the host's arrival with them if it was counted. -/
def Dev.releaseArrivals (d : Dev) (b status : Nat) (tiles : List Nat) (host : Bool) : Dev :=
  let d := tiles.foldl (fun d p => d.onTile p (fun t => t.releaseArrival b status)) d
  if host then d.setBar b { d.bar b with hostpend := false } else d

/-- A generation completes: ARRIVED starts again, GEN rises, and its arrivals are released OK (R224). -/
def Dev.releaseBar (d : Dev) (b : Nat) : Dev :=
  let x := d.bar b
  (d.setBar b { x with arrived := 0, tiles := [], host := false, gen := (x.gen + 1) % 2 ^ 16 }).releaseArrivals b 0 x.tiles x.host

/-- The barrier is the phase fence (R320). -/
def Dev.isFence (d : Dev) (b : Nat) : Bool := d.fbit stpPhasebarEn 0 && d.fget stpPhasebarBarrier 0 == b

/-- A re-draw for a phase fence. -/
def DkEvent.isFence : DkEvent → Bool
  | .redraw _ fence => fence
  | _ => false

/-- Tiles with an arrival outstanding at a barrier, sent or not. -/
def Dev.waitingAt (d : Dev) (b : Nat) : List Nat :=
  (d.tiles.filter (fun t => (SMap.find b t.2.store.arrivals).any (fun a => a.released.isNone))).map (fun t => t.1)

/-- A barrier breaks (R227): every outstanding arrival is released BROKEN, those of a generation that a phase fence holds and
those that have not reached SYN among them, and the recorder logs ARRIVED and the cause, 0 timeout, 1 BARCFG, 2 reset. A
phase fence's generation ends with its pending layout (R320), and a generation that waited for a re-draw needs it no longer
(DESIGN CHOICE, log entry 112). -/
def Dev.breakBar (d : Dev) (b cause : Nat) : Dev :=
  let x := d.bar b
  let d := d.releaseArrivals b 1 (d.waitingAt b) false
  let d := { d with syn := { d.syn with
    host := d.syn.host.filter (fun h => h != b), inflight := d.syn.inflight.filter (fun e => e.2 != b) } }
  let d := if d.isFence b then { d with stp := { d.stp with phaseLayout := none } } else d
  let d := if x.held.isEmpty then d
    else { d with deckle := { d.deckle with events := d.deckle.events.filter (fun e => !e.isFence) } }
  (d.setBar b { d.bar b with
    arrived := 0, tiles := [], host := false, held := [], hostpend := false, broken := true }).record 0x5004 pSYN 0 b
    x.arrived cause

/-- Every barrier whose COUNT is nonzero breaks (R279, R298). Table 16-5 gives its record no cause for these breaks: a
free value (log entry 23). -/
def Dev.breakAll (d : Dev) : Dev :=
  (d.syn.bars.map (fun e => e.1)).foldl (fun d b =>
    if (d.bar b).count = 0 then d
    else
      let (v, d) := d.fresh
      d.breakBar b (v % 2 ^ 32)) d

end Sys2Proof.Machine
end

