-- ==== Sys2Proof/Machine/LineCode.lean ====
section
/-! DEFINITION. Machine/LineCode.lean: the Reed-Solomon code of a stored line and what its decoder makes of an error
pattern (R245, R246). Symbols 0 to 63 are the data bytes and 64 to 71 the check bytes. -/

namespace Sys2Proof.Machine

/-! ### The field and the code -/

/-- Multiply in GF(2^8) with the polynomial x^8 + x^4 + x^3 + x^2 + 1. -/
def gfMul (a b : Nat) : Nat :=
  ((List.range 8).foldl (fun (acc, x) i =>
    (if bit b i then acc ^^^ x else acc, if 128 ≤ x then (2 * x) % 256 ^^^ 0x1D else 2 * x)) (0, a % 256)).1

/-- α^n, α = 2. -/
def gfPow : Nat → Nat
  | 0 => 1
  | n + 1 => gfMul 2 (gfPow n)

/-- The inverse of a nonzero element: its power 254. -/
def gfInv (a : Nat) : Nat := (List.range 254).foldl (fun x _ => gfMul x a) 1

/-- The generator (x − α^0) … (x − α^7) below its leading 1, highest power first. -/
def rsGenerator : List Nat :=
  ((List.range 8).foldl (fun g i =>
    (List.range (g.length + 1)).map (fun k =>
      (if k < g.length then g.getD k 0 else 0) ^^^ (if k = 0 then 0 else gfMul (gfPow i) (g.getD (k - 1) 0)))) [1]).drop 1

/-- One step of the division: the remainder register, highest power first, takes in a data byte. -/
def rsStep (g reg : List Nat) (b : Nat) : List Nat :=
  let f := reg.headD 0 ^^^ b
  (List.range 8).map (fun k => reg.getD (k + 1) 0 ^^^ gfMul f (g.getD k 0))

/-- The check bytes of 64 data bytes, check byte 0 first. -/
def rsCheck (data : List Nat) : List Nat := data.foldl (rsStep rsGenerator) (List.replicate 8 0)

/-! ### Decoding -/

/-- The syndromes of an error pattern, that is, of any word that differs from a codeword by it: symbol s stands at the
power 71 − s. -/
def rsSyndromes (es : List (Nat × Nat)) : List Nat :=
  (List.range 8).map (fun j => es.foldl (fun a e => a ^^^ gfMul e.2 (gfPow (j * (71 - e.1) % 255))) 0)

/-- A polynomial, lowest power first, at a point. -/
def gfEval (p : List Nat) (x : Nat) : Nat := p.foldr (fun c a => c ^^^ gfMul a x) 0

/-- `p` plus `k` times `q` times x^m. -/
def gfAddShifted (p q : List Nat) (k m : Nat) : List Nat :=
  (List.range (max p.length (q.length + m))).map (fun i =>
    p.getD i 0 ^^^ (if i < m then 0 else gfMul k (q.getD (i - m) 0)))

/-- The search for the shortest recurrence of the syndromes (Berlekamp and Massey): the locator, the last one before its
length grew, that length, the steps since and the discrepancy met then. -/
structure Locator where
  cur : List Nat
  old : List Nat
  len : Nat
  gap : Nat
  last : Nat
  deriving DecidableEq, Repr

/-- Take syndrome `n` in. -/
def Locator.step (s : List Nat) (x : Locator) (n : Nat) : Locator :=
  let d := (List.range (x.len + 1)).foldl (fun a i => a ^^^ gfMul (x.cur.getD i 0) (s.getD (n - i) 0)) 0
  if d = 0 then { x with gap := x.gap + 1 }
  else
    let next := gfAddShifted x.cur x.old (gfMul d (gfInv x.last)) x.gap
    if 2 * x.len ≤ n then ⟨next, x.cur, n + 1 - x.len, 1, d⟩ else { x with cur := next, gap := x.gap + 1 }

/-- The error pattern of at most `tcorr` symbols with these syndromes, if there is one; the minimum distance of 9 leaves
at most one for a radius up to 4. -/
def rsNearest (tcorr : Nat) (s : List Nat) : Option (List (Nat × Nat)) :=
  let x := (List.range 8).foldl (Locator.step s) ⟨[1], [1], 0, 1, 1⟩
  let spots := (List.range 72).filter (fun i => gfEval x.cur (gfPow ((255 - (71 - i)) % 255)) == 0)
  if tcorr < x.len ∨ spots.length ≠ x.len then none
  else
    -- the evaluator, and the formal derivative of the locator
    let omega := (List.range 8).map (fun k =>
      (List.range (k + 1)).foldl (fun a i => a ^^^ gfMul (s.getD i 0) (x.cur.getD (k - i) 0)) 0)
    let slope := (List.range (x.cur.length - 1)).map (fun k => if k % 2 = 0 then x.cur.getD (k + 1) 0 else 0)
    let es := spots.map (fun i =>
      let inv := gfPow ((255 - (71 - i)) % 255)
      (i, gfMul (gfPow (71 - i)) (gfMul (gfEval omega inv) (gfInv (gfEval slope inv)))))
    if rsSyndromes es = s then some es else none

/-- What the decoder makes of a line: no error seen, a correction of `symbols` symbols, or an uncorrectable error.
`change` is what a miscorrection leaves different from the line as written. -/
inductive Decoded where
  | clean
  | corrected (symbols : Nat) (change : List (Nat × Nat))
  | detected
  deriving DecidableEq, Repr

/-- The error pattern by symbol: every symbol once, with what its byte differs by. -/
def errorSymbols (errs : List (Nat × Nat)) : List (Nat × Nat) :=
  (List.range 72).filterMap (fun s =>
    let x := (errs.filter (fun e => e.1 == s)).foldl (fun a e => a ^^^ e.2 % 256) 0
    if x = 0 then none else some (s, x))

/-- Table 9-4. Beyond what it settles, the code says whether another codeword lies within the radius: then the decoder
takes that one. -/
def decodeLine (tcorr : Nat) (errs : List (Nat × Nat)) : Decoded :=
  let es := errorSymbols errs
  let e := es.length
  if e = 0 then .clean
  else if e ≤ tcorr then .corrected e []
  else if e ≤ 8 - tcorr then .detected
  else match rsNearest tcorr (rsSyndromes es) with
    | none => .detected
    | some found => .corrected found.length (errorSymbols (es ++ found))

/-- Change data bytes by the symbols of a pattern. -/
def changeLine (data : List Nat) (change : List (Nat × Nat)) : List Nat :=
  data.zipIdx.map (fun (b, i) => match change.find? (fun e => e.1 == i) with
    | some e => b ^^^ e.2
    | none => b)

end Sys2Proof.Machine
end

