-- ==== Sys2Proof/Machine/Die.lean ====
section
/-! DEFINITION. Machine/Die.lean: what the logic die of a stack does at every read and write of a line: decoding, poison, the
counts of corrected and uncorrectable reads, and the regions that hub units read and write (R242 to R250, R254, R257 to
R259). -/

namespace Sys2Proof.Machine

/-- A stack by its number. -/
def Dev.stack (d : Dev) (s : Nat) : Stack := SMap.get .reset s d.stks

/-- Set a stack. -/
def Dev.setStack (d : Dev) (s : Nat) (x : Stack) : Dev := { d with stks := SMap.put .reset s x d.stks }

/-- Change a stack. -/
def Dev.onStack (d : Dev) (s : Nat) (f : Stack → Stack) : Dev := d.setStack s (f (d.stack s))

/-- An event waits for Deckle (R286): once, and only while something is placed. -/
def Dev.dkEvent (d : Dev) (e : DkEvent) : Dev :=
  if d.deckle.placement.isSome && !d.deckle.events.contains e then
    { d with deckle := { d.deckle with events := d.deckle.events ++ [e] } }
  else d

/-- The health of a stack worsens to `h`: its record, the map, and for FAILING the event for Deckle. -/
def Dev.worsen (d : Dev) (s h : Nat) : Dev :=
  let old := d.fget stkStatHealth s
  if h ≤ old then d
  else
    let d := d.fset stkStatHealth s h
    let before := d.health (0x100 + s)
    let d := d.rehealth (0x100 + s)
    let d := if d.health (0x100 + s) = before then d.record 0x5001 pSTK s (0x100 + s) h old else d
    let d := if h = 2 then d.dkEvent (.stack s) else d
    d.checkDegraded

/-! ### Rows (R254, R255, R257) -/

/-- A row is charged with an activation (R254). -/
def Dev.activateRow (d : Dev) (s row : Nat) : Dev :=
  d.onStack s (fun x => { x with acts := SMap.modify 0 row (· + 1) x.acts })

/-- A row becomes due for repair (R255). -/
def Stack.due (x : Stack) (row : Nat) : Stack :=
  if x.repairDue.contains row then x else { x with repairDue := x.repairDue ++ [row] }

/-- A row moves one bin down, to at most B0, in the stack and in the NV store (R257). -/
def Dev.lowerBin (d : Dev) (s row : Nat) : Dev :=
  let b := SMap.get 3 row (d.stack s).bins
  if b = 0 then d
  else
    let d := d.onStack s (fun x => { x with bins := SMap.put 3 row (b - 1) x.bins })
    let d := if b = 1 then d.fcount stkRefbinB0rows s 1 else d
    match SMap.find s d.sec.bins with
    | some x => { d with sec := { d.sec with bins := SMap.insert s { x with rows := SMap.put 3 row (b - 1) x.rows } d.sec.bins } }
    | none => d

/-! ### Decoding (R246, R247, R249) -/

/-- Seconds of operation in a day. -/
def daySeconds : Nat := 86400

/-- A demand scrub of a line is requested (R258). -/
def Dev.requestScrub (d : Dev) (s line : Nat) : Dev :=
  let x := d.stack s
  if d.fbit docCtlDemandEn 0 && x.demand.contains line then d
  else if !d.fbit docCtlDemandEn 0 || decide (256 ≤ x.demand.length) then d.fcount docDropcntCount 0 1
  else d.setStack s { x with demand := x.demand ++ [line] }

/-- A corrected read of the line at `a` in a row (R247). -/
def Dev.correctedRead (d : Dev) (a symbols row : Nat) (retention scrub : Bool) : Dev :=
  let s := stackOf a
  let now := d.fget glbOpsecSeconds 0
  let d := ((d.fcount stkCecntCount s 1).pgErr pSTK s bCE 0x1002 (lineOf a) symbols 0).activateRow s row
  let d := if retention then d.lowerBin s row else d
  let d := d.onStack s (fun x =>
    let x := { x with hourCe := x.hourCe + 1
                      corrections := (x.corrections.filter (fun c => decide (now < c.2 + daySeconds))) ++ [(row, now)] }
    if d.fget stkRepairThresh s ≤ (x.corrections.filter (fun c => c.1 == row)).length then x.due row else x)
  let d := if scrub then d.requestScrub s (lineOf a) else d
  if 1000000 < (d.stack s).hourCe then d.worsen s 1 else d

/-- A detected uncorrectable read of the line at `a` in a row: poison, PG_ERR.DE, STK.UECNT and the captured address
(R249). -/
def Dev.uncorrectableRead (d : Dev) (a row : Nat) : Dev :=
  let s := stackOf a
  let d := ((d.setLine (a / 64) true).stackPoison a 0).fcount stkUecntCount s 1
  let d :=
    if d.fbit stkUeaddrHiValid s then d
    else
      let o := lineOf a * 64
      ((d.fset stkUeaddrLoOffLo s (bits o 6 26)).fset stkUeaddrHiOffHi s (bits o 32 4)).fset stkUeaddrHiValid s 1
  let d := d.onStack s (fun x =>
    (if x.hourRows.contains row then x else { x with hourRows := x.hourRows ++ [row] }).due row)
  if 8 ≤ (d.stack s).hourRows.length then d.worsen s 2 else d

/-- The cells of the line at `a` that differ from its codeword, if any do. -/
def Dev.cellsAt (d : Dev) (a : Nat) : Option LineCells := SMap.find (lineOf a) (d.stack (stackOf a)).cells

/-- The line at `a` is written anew: its cells hold a codeword again. -/
def Dev.cellsGone (d : Dev) (a : Nat) : Dev :=
  if (d.cellsAt a).isSome then d.onStack (stackOf a) (fun x => { x with cells := SMap.remove (lineOf a) x.cells }) else d

/-- Cells of the line at `a` (a multiple of 64) change, those of its poison bit among them. -/
def Dev.disturb (d : Dev) (m : Mem) (a : Nat) (ecc : Ecc) : Dev :=
  if ecc.errs.isEmpty then d
  else
    let old := (d.cellsAt a).getD ⟨ecc.row, [], false, d.bytesAt m a 64⟩
    let errs := errorSymbols (old.errs ++ ecc.errs)
    let copies := (List.range 3).foldl (fun n i => if ecc.errs.any (fun e => e.1 == 72 + i) then n ^^^ 2 ^ i else n)
      (SMap.get 0 (a / 64) d.linePoison)
    let d := { d with linePoison := SMap.put 0 (a / 64) copies d.linePoison }
    if errs = [] then d.cellsGone a
    else d.onStack (stackOf a) (fun x => { x with
      cells := SMap.insert (lineOf a) ⟨ecc.row, errs, ecc.retention, old.data⟩ x.cells })

/-- What the decoder makes of a disturbed line of a stack, under STK.ECCCTL.TCORR. -/
def Dev.decodeCells (d : Dev) (s : Nat) (x : LineCells) : Decoded := decodeLine (d.fget stkEccctlTcorr s) x.errs

/-- The data of a disturbed line as the decoder returns it; of an uncorrectable line the bytes it was found with (DEDUCED,
log entry 26). -/
def LineCells.seen (x : LineCells) (r : Decoded) : List Nat :=
  match r with
  | .clean => x.data
  | .corrected _ change => changeLine x.data change
  | .detected => changeLine x.data x.errs

/-- The bytes that a read of the line at `a` returns. -/
def Dev.seenLine (d : Dev) (m : Mem) (a : Nat) : List Nat :=
  match d.cellsAt a with
  | none => d.bytesAt m (a / 64 * 64) 64
  | some x => x.seen (d.decodeCells (stackOf a) x)

/-- What a read of the line at `a` does beside returning it: 0 nothing, 1 it corrects (R247; `scrub` says whether it
requests a scrub), 2 it is uncorrectable (R249). A word that decodes as another codeword shows no error. -/
def Dev.noteRead (d : Dev) (a : Nat) (scrub : Bool) : Dev × Nat :=
  match d.cellsAt a with
  | none => (d, 0)
  | some x => match d.decodeCells (stackOf a) x with
    | .clean => (d, 0)
    | .corrected n _ => if n = 0 then (d, 0) else (d.correctedRead a n x.row x.retention scrub, 1)
    | .detected => (d.uncorrectableRead a x.row, 2)

/-- The die reads the line at `a` (a multiple of 64), whose cells have changed by `ecc`: the state, the line's data as
decoded, and 0 clean, 1 corrected, 2 detected. -/
def Dev.dieRead (d : Dev) (m : Mem) (a : Nat) (ecc : Ecc) (scrub : Bool) : Dev × List Nat × Nat :=
  let d := (d.activateRow (stackOf a) ecc.row).disturb m a ecc
  let (d', k) := d.noteRead a scrub
  (d', d.seenLine m a, k)

/-- A line is decoded and written back as decoded: in a read-modify-write, where no scrub is requested (R249), and when its
row is copied (R255). The second part is what the read found. -/
def Dev.dieModify (d : Dev) (a : Nat) (scrub : Bool) : Dev × Nat :=
  match d.cellsAt a with
  | none => (d, 0)
  | some x =>
    let (d', k) := d.noteRead a scrub
    ((d'.pokeBytes (a / 64 * 64) (x.seen (d.decodeCells (stackOf a) x))).cellsGone a, k)

/-! ### Writes (R249, R250) -/

/-- The poison of a line after a write at `a`: a whole line without poison clears it, data with poison sets it, and a
partial write of a line that it finds poisoned leaves it so; `found` is what the write's own read met. -/
def Dev.markWrite (d : Dev) (a : Nat) (whole poison : Bool) (found : Nat) : Dev :=
  if poison then (d.setLine (a / 64) true).stackPoison a 1
  else if whole then d.setLine (a / 64) false
  else if found ≠ 2 ∧ d.lineBad (a / 64) then d.stackPoison a 2
  else d

/-- The read that a write of part of the line at `a` begins with; a write of the whole line needs none. -/
def Dev.openLine (d : Dev) (a : Nat) (whole : Bool) : Dev × Nat := if whole then (d.cellsGone a, 0) else d.dieModify a false

/-- Write bytes that lie in one line. -/
def Dev.writeLine (d : Dev) (a : Nat) (bs : List Nat) (poison : Bool) : Dev :=
  let whole := a % 64 == 0 && bs.length == 64
  let (d, k) := d.openLine a whole
  (d.markWrite a whole poison k).pokeBytes a bs

/-- Write bytes at a device address, line by line. -/
def Dev.writeBytes (d : Dev) (a : Nat) (bs : List Nat) (poison : Bool) : Dev :=
  (lineSpans (bs.length / 64 + 2) a bs.length).foldl (fun d (s, l) =>
    d.writeLine s ((bs.drop (s - a)).take l) poison) d

/-! ### Reads of bytes -/

/-- The bytes that reads of the lines of `n` bytes at `a` return. -/
def Dev.seenBytes (d : Dev) (m : Mem) (a n : Nat) : List Nat :=
  if (d.stack (stackOf a)).cells = [] then d.bytesAt m a n
  else (lineSpans (n / 64 + 2) a n).flatMap (fun (s, l) => ((d.seenLine m s).drop (s % 64)).take l)

/-- A read of the line at `a` returns it marked poisoned. -/
def Dev.readsBad (d : Dev) (a : Nat) : Bool :=
  d.lineBad (a / 64) || (d.cellsAt a).any (fun x => d.decodeCells (stackOf a) x == .detected)

/-- Is any line of the bytes poisoned? -/
def Dev.bytesBad (d : Dev) (a n : Nat) : Bool := (lineSpans (n / 64 + 2) a n).any (fun s => d.readsBad s.1)

/-- What reading `n` bytes at `a` does: every disturbed line among them is decoded once. -/
def Dev.noteBytes (d : Dev) (a n : Nat) : Dev :=
  ((d.stack (stackOf a)).cells.map (fun e => stackOf a * stackBytes + 64 * e.1)).foldl (fun (d : Dev) l =>
    if l < a + n ∧ a < l + 64 then (d.noteRead l true).1 else d) d

/-! ### Regions (R242 to R244, R283) -/

/-- The check of R244 passes for `n` bytes of a physical entry, and every stack they lie in answers. -/
def Dev.reaches (d : Dev) (h o n : Nat) : Bool :=
  d.checkEntry h (o + n) == .ok
    && (unitSpans (n / 4096 + 2) o n).all (fun s => d.stackUp (stackOf ((d.entry h).locate s.1)))

/-- A hub unit reads `n` bytes of a region by name: the bytes and whether any line is poisoned; none where the check of
R244 or a stack refuses. -/
def Dev.readRegion (d : Dev) (m : Mem) (name o n : Nat) : Option (List Nat × Bool) :=
  let h := d.resolve name
  let r := d.entry h
  let spans := unitSpans (n / 4096 + 2) o n
  if d.reaches h o n then
    some (spans.flatMap (fun s => d.seenBytes m (r.locate s.1) s.2), spans.any (fun s => d.bytesBad (r.locate s.1) s.2))
  else none

/-- What such a read does at the dies (R246, R247, R249). -/
def Dev.noteRegion (d : Dev) (name o n : Nat) : Dev :=
  let h := d.resolve name
  let r := d.entry h
  if d.reaches h o n then
    (unitSpans (n / 4096 + 2) o n).foldl (fun (d : Dev) s => d.noteBytes (r.locate s.1) s.2) d
  else d

/-- Bytes at one place of a region, with the second location while it migrates (R283). -/
def Dev.writeUnit (d : Dev) (h o : Nat) (bs : List Nat) (poison : Bool) : Dev :=
  let d' := d.writeBytes ((d.entry h).locate o) bs poison
  match d.mirrorOf h o with
  | some a => d'.writeBytes a bs poison
  | none => d'

/-- A hub unit writes bytes into a region by physical entry; nothing where a check refuses. -/
def Dev.writeEntry (d : Dev) (h o : Nat) (bs : List Nat) (poison : Bool) : Option Dev :=
  if d.reaches h o bs.length then
    some ((unitSpans (bs.length / 4096 + 2) o bs.length).foldl (fun d s =>
      d.writeUnit h s.1 ((bs.drop (s.1 - o)).take s.2) poison) d)
  else none

/-- A hub unit writes bytes into a region by name. -/
def Dev.writeRegion (d : Dev) (name o : Nat) (bs : List Nat) (poison : Bool) : Option Dev :=
  d.writeEntry (d.resolve name) o bs poison

end Sys2Proof.Machine
end

