-- ==== Sys2Proof/Machine/Recorder.lean ====
section
/-! DEFINITION. Machine/Recorder.lean: the event recorder, telemetry and calibration (chapter 16), and the error signals
of R427. -/

namespace Sys2Proof.Machine

/-! ### CRC-64 (R364) -/

/-- Shift one bit into a CRC-64/ECMA-182 remainder. -/
def crc64Bit (c : Nat) (b : Bool) : Nat :=
  let t := c * 2 % 2 ^ 64
  if (bit c 63) != b then t ^^^ 0x42F0E1EBA9EA3693 else t

/-- One byte, most significant bit first. -/
def crc64Byte (c b : Nat) : Nat := (List.range 8).foldl (fun c i => crc64Bit c (bit b (7 - i))) c

/-- The chunk check over bytes in ascending address order. -/
def crc64 (bs : List Nat) : Nat := bs.foldl crc64Byte 0

/-! ### Admission (R430 to R433) -/

/-- Ring slots. -/
def ringSize : Nat := 4096

/-- Unflushed records. -/
def Evr.unflushed (e : Evr) : Nat := e.seq + 1 - e.next

/-- The unflushed records, oldest first. -/
def Evr.pendingRecs (e : Evr) : List Rec :=
  (List.range e.unflushed).filterMap (fun i => SMap.find ((e.next + i) % ringSize) e.ring)

/-- Tokens a code's bucket holds. -/
def Dev.tokens (d : Dev) (code : Nat) : Nat := min (d.fget evrRlcfgCap 0) (SMap.get d.evr.tokBase code d.evr.tokens)

/-- UCF, SECURITY and LOG records are always admitted (R433). -/
def exempt (code : Nat) : Bool := codeClass code == 4 || codeClass code == 6 || codeClass code == 8

/-! ### The NV log (R434, R435) -/

/-- Ream slots and erase blocks. -/
def nvSlots : Nat := 16384
def nvBlocks : Nat := 256

/-- The first slot from `s` whose block is not retired. The fuel is the number of blocks. -/
def nextSlot (bad : List Nat) : Nat → Nat → Option Nat
  | 0, _ => none
  | k + 1, s => if bad.contains (s / 64) then nextSlot bad k ((s / 64 + 1) * 64 % nvSlots) else some s

/-- A block retires (R435): with more than 32 retired the log is no longer usable. -/
def Dev.retireBlock (d : Dev) (b : Nat) : Dev :=
  let d := { d with evr := { d.evr with badBlocks := d.evr.badBlocks ++ [b] } }
  if 32 < d.evr.badBlocks.length then d.fset evrStatNvok 0 0 else d

/-- Erase a block, or retire it when the erase fails. -/
def Dev.eraseBlock (d : Dev) (failing : List Nat) (b : Nat) : Dev :=
  if d.evr.badBlocks.contains b then d
  else if failing.contains b then d.retireBlock b
  else
    { d with evr := { d.evr with
        nv := d.evr.nv.filter (fun e => e.1 / 64 != b)
        erases := SMap.put 0 b (satAdd 0xFFFF (SMap.get 0 b d.evr.erases) 1) d.evr.erases } }

/-- The block at or after `b` that is not retired is erased; one whose erase fails retires, and the next is tried. The fuel
is the number of blocks. -/
def Dev.eraseAhead (d : Dev) (failing : List Nat) : Nat → Nat → Dev
  | 0, _ => d
  | k + 1, b =>
    let d := d.eraseBlock failing b
    if d.evr.badBlocks.contains b then d.eraseAhead failing k ((b + 1) % nvBlocks) else d

/-- Write one ream at the write pointer, skipping retired blocks and retiring those that fail now; the whole block ahead
of the write pointer is kept erased. -/
def Dev.writeReam (d : Dev) (failing : List Nat) (r : Ream) : Dev :=
  let cur := d.evr.wrptr / 64
  let d := if failing.contains cur && !d.evr.badBlocks.contains cur then d.retireBlock cur else d
  match nextSlot d.evr.badBlocks (nvBlocks + 1) d.evr.wrptr with
  | none => d
  | some s =>
    let next := (nextSlot d.evr.badBlocks (nvBlocks + 1) ((s + 1) % nvSlots)).getD s
    let d := { d with evr := { d.evr with nv := SMap.insert s r d.evr.nv, wrptr := next } }
    if next / 64 = cur then d else d.eraseAhead failing nvBlocks ((next / 64 + 1) % nvBlocks)

/-- Write the unflushed records as reams of at most 128 (R434). The fuel bounds the reams. -/
def Dev.flushReams (d : Dev) (failing : List Nat) (flags lostpf : Nat) : Nat → Dev
  | 0 => d
  | k + 1 =>
    let rs := d.evr.pendingRecs.take 128
    if rs.isEmpty then d
    else
      let last := d.evr.next + rs.length - 1
      let r : Ream :=
        { firstSeq := d.evr.next, nrec := rs.length, lastSeq := d.evr.seq, pwrcyc := d.fget glbPwrcycCount 0
          lostpf := lostpf, flags := flags, recs := rs, good := true }
      let d := d.writeReam failing r
      let d := { d with evr := { d.evr with next := last + 1, flushed := last } }
      (d.fset evrStatRingfull 0 0).flushReams failing flags lostpf k

/-- Flush every unflushed record, while the NV log is usable. FLAGS: 1 full, 2 timed, 4 fault, 8 host. -/
def Dev.flushAll (d : Dev) (failing : List Nat) (flags : Nat) : Dev :=
  if d.fbit evrStatNvok 0 then d.flushReams failing flags 0 33 else d

/-- Put an admitted record into the ring with its number (R430), and flush by its class or a full ream (R434). -/
def Dev.number (d : Dev) (failing : List Nat) (r : RawRec) (forced powerFail : Bool) : Dev :=
  let e := d.evr
  let seq := e.seq + 1
  let rec_ : Rec :=
    { code := r.code
      sev := severity r.code + 8 * b2n forced + 16 * b2n powerFail + 32 * b2n r.pgerr
      cls := r.cls, inst := r.inst, seq := seq % 2 ^ 48
      pwrcyc := d.fget glbPwrcycCount 0, opsec := d.fget glbOpsecSeconds 0
      suppr := min 0xFFFF (SMap.get 0 r.code e.suppressed)
      p0 := r.p0 % 2 ^ 32, p1 := r.p1 % 2 ^ 32, p2 := r.p2 % 2 ^ 32 }
  let d := { d with evr := { e with
    seq := seq
    ring := SMap.insert (seq % ringSize) rec_ e.ring
    suppressed := SMap.put 0 r.code 0 e.suppressed } }
  let d := d.onUnit r.cls r.inst (fun u => { u with seq := seq })
  let d := if d.evr.unflushed = ringSize then d.fset evrStatRingfull 0 1 else d
  if codeClass r.code = 3 ∨ codeClass r.code = 4 then d.flushAll failing 4
  else if 128 ≤ d.evr.unflushed then d.flushAll failing 1
  else d

/-- A record is lost (R425, R436). -/
def Dev.loseRecord (d : Dev) (n : Nat) : Dev :=
  let d := d.fcount evrLostCount 0 n
  { d with evr := { d.evr with lostSince := d.evr.lostSince + n } }

/-- Admit, suppress or lose one record (R433, R436). -/
def Dev.admitRec (d : Dev) (failing : List Nat) (r : RawRec) : Dev :=
  if ringSize ≤ d.evr.unflushed ∨ (d.unit pEVR 0).state = .disabled then d.loseRecord 1
  else if exempt r.code then d.number failing r true false
  else
    let t := d.tokens r.code
    if t = 0 then
      { d with evr := { d.evr with
          suppressed := SMap.put 0 r.code (SMap.get 0 r.code d.evr.suppressed + 1) d.evr.suppressed } }.fcount
        evrSupprCount 0 1
    else
      let d := { d with evr := { d.evr with tokens := SMap.insert r.code (t - 1) d.evr.tokens } }
      d.number failing r false false

/-- EVENT_RECORD: the oldest raised record reaches admission (R217). -/
def Dev.eventRecord (d : Dev) (failing : List Nat) : Dev :=
  match d.evr.raised with
  | [] => d
  | r :: rest => { d with evr := { d.evr with raised := rest } }.admitRec failing r

/-- TOKEN_REFILL: GLB.OPSEC advances by EVR.RLCFG.REFILLSEC and every bucket gains one token, up to CAP (R433). -/
def Dev.tokenRefill (d : Dev) : Dev :=
  let cap := d.fget evrRlcfgCap 0
  let d := d.fset glbOpsecSeconds 0 (d.fget glbOpsecSeconds 0 + d.fget evrRlcfgRefillsec 0)
  { d with evr := { d.evr with
      tokens := d.evr.tokens.map (fun e => (e.1, min cap (e.2 + 1)))
      tokBase := min cap (d.evr.tokBase + 1) } }

/-- TIMED_FLUSH: the oldest unflushed record has waited FLUSHSEC seconds (R434). -/
def Dev.timedFlush (d : Dev) (failing : List Nat) : Dev :=
  let age := d.fget evrCtlFlushsec 0
  match d.evr.pendingRecs with
  | [] => d
  | r :: _ =>
    if age ≠ 0 ∧ r.opsec + age ≤ d.fget glbOpsecSeconds 0 then d.flushAll failing 2 else d

/-- RECORDS_LOST: a slot is free again and records were lost: to a UCC of EVR (R425), or to a full ring (R436). -/
def Dev.recordsLost (d : Dev) (failing : List Nat) : Dev :=
  if ringSize ≤ d.evr.unflushed ∨ d.evr.closed ∨ (d.unit pEVR 0).state = .disabled then d
  else if d.evr.lostUcc ≠ 0 then
    let n := d.evr.lostUcc
    let d := { d with evr := { d.evr with lostUcc := 0 } }
    d.number failing ⟨0x8001, pEVR, 0, n, 2, 0, false⟩ true false
  else if d.evr.lostSince = 0 then d
  else
    let n := d.evr.lostSince
    let d := { d with evr := { d.evr with lostSince := 0 } }
    d.number failing ⟨0x8001, pEVR, 0, n, 0, 0, false⟩ true false

/-! ### Power fail (R437, R438) -/

/-- Write a ream that names its records. -/
def Dev.powerFailReam (d : Dev) (rs : List Rec) (lostpf : Nat) : Dev :=
  match rs with
  | [] => d
  | r :: _ =>
    let last := (rs.getLast?.map (fun x => x.seq)).getD 0
    let d := d.writeReam []
      { firstSeq := r.seq, nrec := rs.length, lastSeq := d.evr.seq, pwrcyc := d.fget glbPwrcycCount 0
        lostpf := lostpf, flags := 16, recs := rs, good := true }
    { d with evr := { d.evr with flushed := last, next := last + 1 } }

/-- Table 16-7: admission closes after one POWER_FAIL record, and the newest 256 unflushed records go out as two reams of
equal halves, the older first (the split is a DESIGN CHOICE, log entry 24). Without a charged hold-up store nothing is
written and the gap is reported at the next power-on. -/
def Dev.powerFailFlush (d : Dev) (mv : Nat) : Dev :=
  let d := { d with evr := { d.evr with raised := [] } }
  let d := if ringSize ≤ d.evr.unflushed then d.loseRecord 1
    else
      let e := d.evr
      let seq := e.seq + 1
      let r : Rec :=
        { code := 0x8002, sev := severity 0x8002 + 8 + 16, cls := pEVR, inst := 0, seq := seq % 2 ^ 48
          pwrcyc := d.fget glbPwrcycCount 0, opsec := d.fget glbOpsecSeconds 0, suppr := 0, p0 := mv, p1 := 0, p2 := 0 }
      { d with evr := { e with seq := seq, ring := SMap.insert (seq % ringSize) r e.ring } }.onUnit pEVR 0
        (fun u => { u with seq := seq })
  let all := d.evr.pendingRecs
  let d := { d with evr := { d.evr with closed := true } }
  if d.fbit evrStatHoldupOk 0 && d.fbit evrStatNvok 0 then
    let lost := all.length - 256
    let keep := all.drop lost
    let h := keep.length / 2
    (d.powerFailReam (keep.take h) 0).powerFailReam (keep.drop h) lost
  else { d with evr := { d.evr with pfLost := all.length } }

/-! ### Reading the recorder (Table 16-10) -/

/-- The 32 bytes of a record (Table 16-4). -/
def Rec.bytes (r : Rec) : List Nat :=
  toLE 2 r.code ++ [r.sev, r.cls] ++ toLE 2 r.inst ++ toLE 6 r.seq ++ toLE 2 r.pwrcyc ++ toLE 4 r.opsec
    ++ toLE 2 r.suppr ++ toLE 4 r.p0 ++ toLE 4 r.p1 ++ toLE 4 r.p2

/-- The 4,160 bytes of an NV slot: the ream padded with filler records, then its metadata with the CRC-64 (Table 16-6). -/
def Ream.bytes (r : Ream) : List Nat :=
  let body := r.recs.flatMap Rec.bytes
  let body := body ++ List.replicate (4096 - body.length) 0xFF
  let meta_ := toLE 6 r.firstSeq ++ toLE 2 r.nrec ++ toLE 6 r.lastSeq ++ toLE 2 r.pwrcyc ++ toLE 4 r.lostpf
    ++ [r.flags] ++ List.replicate 35 0
  let c := crc64 (body ++ meta_)
  body ++ meta_ ++ toLE 8 (if r.good then c else c ^^^ 1)

/-- An erased NV slot reads as all ones (DESIGN CHOICE, log entry 25). -/
def nvSlotBytes (d : Dev) (s : Nat) : List Nat :=
  match SMap.find s d.evr.nv with
  | some r => r.bytes
  | none => List.replicate 4160 0xFF

/-- DUMPGO: copy COUNT slots from FIRST into DUMPREG at DUMPOFF (R442). DUMPSTAT: 0 OK, 1 REGION_FAILED, 2 RANGE. Slot
numbers wrap at the end of the log. -/
def Dev.dump (d : Dev) : Dev :=
  let count := d.fget evrDumpselCount 0
  let first := d.fget evrDumpselFirst 0
  if count = 0 ∨ nvSlots < count then d.fset evrStatDumpstat 0 2
  else
    let off := d.fget evrDumpoffLoOff 0 * 64 + d.fget evrDumpoffHiOff 0 * 2 ^ 32
    match d.writeRegion (d.fget evrDumpregHandle 0) off
        ((List.range count).flatMap (fun i => nvSlotBytes d ((first + i) % nvSlots))) false with
    | some d' => d'.fset evrStatDumpstat 0 0
    | none => d.fset evrStatDumpstat 0 1

/-- The largest erase count (EVR.NVWEAR). -/
def Evr.maxErase (e : Evr) : Nat := e.erases.foldl (fun a x => max a x.2) 0

/-- EVR.ERRSUM (R427): the classes with an unmasked PG_ERR bit. -/
def Dev.errsum (d : Dev) : Nat :=
  ofBits (d.units.filterMap (fun e => if e.2.err &&& (63 - e.2.mask % 64) = 0 then none else some (e.1 / 256)))

/-- ERROR_SIGNAL: an interval of EVR.ERRCOAL ends; transitions inside it are signalled once (R427). -/
def Dev.errorInterval (d : Dev) : Dev :=
  if d.evr.errPending then
    { d.signal (d.fget hbxErrvecVector 0) with evr := { d.evr with errPending := false } }
  else { d with evr := { d.evr with errOpen := false } }

/-! ### Sensors (R439 to R441) -/

/-- The index names a sensor (Table 16-8). -/
def isSensor (i : Nat) : Bool :=
  decide (i < 0x14) || (decide (0x20 ≤ i) && decide (i < 0x40)) || i == 0x40 || i == 0x41
    || (decide (0x48 ≤ i) && decide (i ≤ 0x54)) || (decide (0x58 ≤ i) && decide (i ≤ 0x5C))

/-- A sensor that has not been sampled: STALE, and reading 0 (DESIGN CHOICE, log entry 4). -/
def Sensor.unread : Sensor := ⟨0, 11, false, 0⟩

/-- A sensor by its index. -/
def Dev.sensor (d : Dev) (i : Nat) : Sensor := SMap.get .unread i d.sensors

/-- Set a sensor. -/
def Dev.setSensor (d : Dev) (i : Nat) (s : Sensor) : Dev := { d with sensors := SMap.put .unread i s d.sensors }

/-- A temperature in whole °C, rounded down, as 8 bits (readings are in 1/16 °C, signed). -/
def Sensor.degrees (s : Sensor) : Nat := s.value / 16 % 256

/-- The warning group of a sensor: 0 junction, 1 DRAM, 2 coolant outlet (R441). -/
def warnGroup (i : Nat) : Option Nat :=
  if i < 0x14 then some 0 else if 0x20 ≤ i ∧ i < 0x40 then some 1 else if i = 0x41 then some 2 else none

/-- The warning threshold of a group, in 1/16 °C. -/
def Dev.warnLimit (d : Dev) (g : Nat) : Int :=
  signed 16 (match g with
    | 0 => d.fget thmWarnJunction 0
    | 1 => d.fget thmWarnDram 0
    | _ => d.fget thmWarncCoolant 0)

/-- A THM.STAT bit: some sensor of the group is in warning. -/
def Dev.warning (d : Dev) (g : Nat) : Bool := d.sensors.any (fun e => warnGroup e.1 == some g && e.2.warning)

/-- The trip limit of a sensor, in 1/16 °C: 105 °C for a junction, 100 °C for DRAM (R472). -/
def tripLimit (i : Nat) : Option Int := if i < 0x14 then some 1680 else if 0x20 ≤ i ∧ i < 0x40 then some 1600 else none

/-- One sample of one sensor: reading, warning with its record, and the count of samples at or above the trip limit. -/
def Dev.sample (d : Dev) (i v : Nat) : Dev :=
  let s := d.sensor i
  let x := signed 24 v
  let overs := match tripLimit i with
    | some l => if l ≤ x then s.overs + 1 else 0
    | none => 0
  let s' := { s with value := v % 2 ^ 24, age := 0, overs := overs }
  match warnGroup i with
  | none => d.setSensor i s'
  | some g =>
    let l := d.warnLimit g
    if s.warning then d.setSensor i { s' with warning := decide (l - 32 < x) }
    else if l ≤ x then (d.setSensor i { s' with warning := true }).record 0x0013 pTHM 0 i (v % 2 ^ 24) 0
    else d.setSensor i s'

/-- The sensors that have tripped by firmware: two consecutive samples at or above the limit (R472). -/
def Dev.tripped (d : Dev) : Option Nat := (d.sensors.find? (fun e => decide (2 ≤ e.2.overs))).map (fun e => e.1)

/-- All samples of one period: sensors that `vs` does not name keep their reading and age. -/
def Dev.sampleAll (d : Dev) (vs : List (Nat × Nat)) : Dev :=
  let d := { d with sensors := d.sensors.map (fun e => (e.1, { e.2 with age := e.2.age + 1 })) }
  vs.foldl (fun d p => if isSensor p.1 then d.sample p.1 p.2 else d) d

/-- THM.DATA for an index (Table 16-12). -/
def Dev.sensorWord (d : Dev) (i : Nat) : Nat :=
  if isSensor i then
    let s := d.sensor i
    s.value + b2n (decide (10 < s.age)) * 2 ^ 30 + 2 ^ 31
  else 0

/-- THM_SNAPSHOT: one telemetry slot into the snapshot ring (R440). -/
def Dev.snapshot (d : Dev) : Dev :=
  let h := d.fget thmSnapregHandle 0
  let n := d.fget thmSnapregNsnap 0
  if d.fget thmSnapperMs 0 = 0 ∨ n = 0 ∨ h = 0 then d
  else
    let head := d.fget thmSnapheadCount 0
    let body := toLE 6 d.cad.mark ++ [0, 0] ++ toLE 4 (d.fget glbOpsecSeconds 0) ++ toLE 2 (d.fget glbPwrcycCount 0)
      ++ List.replicate 50 0 ++ (List.range 128).flatMap (fun i => toLE 4 (d.sensorWord i)) ++ List.replicate 448 0
    let missing := d.record 0x0005 pTHM 0 h 0 0
    if d.plainRegion h (1024 * n) then
      match d.writeRegion h (head % n * 1024) body false with
      | some d' => d'.fwrap thmSnapheadCount 0
      | none => missing
    else missing

/-! ### Calibration (R235, R444, R445) -/

/-- CC_MEASURE: the Calender's measurement of every cc (R444), while CAL is ACTIVE. -/
def Dev.ccMeasure (d : Dev) (ps : List Nat) : Dev :=
  if d.active pCAL 0 then
    let d := d.fset calCc0Ps 0 (ps.getD 0 0)
    let d := d.fset calCc1Ps 0 (ps.getD 1 0)
    let d := d.fset calCc2Ps 0 (ps.getD 2 0)
    let d := d.fset calCc3Ps 0 (ps.getD 3 0)
    d.fset calCchbPs 0 (ps.getD 4 0)
  else d

/-- CAL_SWEEP: one sweep of the cadence wave (`kind` 1, with the largest skew in 0.1 ns) or of the sensors (`kind` 2).
`failed` says that a quantity lay outside its trim range. -/
def Dev.calSweep (d : Dev) (kind skew sensor : Nat) (failed : Bool) : Dev :=
  let enabled := if kind = 1 then d.fbit calCtlCadence 0 else d.fbit calCtlSensor 0
  if !d.active pCAL 0 || !enabled then d
  else
    let d := d.fcount calSweepcntCount 0 1
    let d := if kind = 1 then (d.fset cadSkewMaxskew 0 (min skew 0xFF)).fwrap cadSkewCalcnt 0 else d
    let d := if kind = 1 ∧ 60 < skew then
        (d.fset cadStatSkewerr 0 1).pgErr pCAD 0 bCE 0x1005 skew 0 0
      else d
    if failed then
      let d := (d.fcount calFailcntCount 0 1).fset calStatFailed 0 1
      if kind = 1 then (if 60 < skew then d else d.record 0x1005 pCAD 0 skew 0 0)
      else d.record 0x0013 pTHM 0 sensor 0xFFFFFFFF 0
    else d

end Sys2Proof.Machine
end

