-- ==== Sys2Proof/Machine/Memory.lean ====
section
/-! DEFINITION. Machine/Memory.lean: the requests that a stack performs, atomic adds, wear, repair, refresh, scrubbing and
stack failure (chapter 9). -/

namespace Sys2Proof.Machine

/-! ### Uncorrectable contained errors (R42, R260, R423) -/

/-- PG_ERR.UCC of a page with its UNIT_UCC record, whose P0 to P2 are what PG_ERRCAP then holds (Table 16-5). -/
def Dev.uccErr (d : Dev) (cls inst bs sub p0 p1 p2 : Nat) : Dev :=
  let u := d.unit cls inst
  let open_ := (List.range 6).filter (fun i => bit bs i && !bit u.mask i)
  let rising := open_.any (fun i => !bit u.err i)
  let u' := u.setErr bs 0x3001 sub p0 p1 p2
  let d := d.setUnit cls inst u'
  let d := if open_.isEmpty then d
    else d.raise ⟨0x3001, cls, inst, u'.capCode + u'.capSub * 2 ^ 16, u'.capP0, u'.capP1, true⟩
  if rising then d.errorSignal false else d

/-! ### Requests (R244, R216) -/

/-- The worse of two piece statuses: REGION_FAILED, then UNIT_DISABLED (R244). -/
def worse (a b : Nat) : Nat := if a = 2 ∨ b = 2 then 2 else if a = 3 ∨ b = 3 then 3 else 0

/-- A line request of a DMA has ended with a status, meeting poison or not. -/
def Dev.finishReq (d : Dev) (r : Req) (status : Nat) (poison : Bool) : Dev :=
  d.onTile r.tile (fun t =>
    match SMap.find r.tag t.store.dmas with
    | some q =>
      if q.seq ≠ r.seq then t
      else
        let q := { q with left := q.left - 1, status := worse q.status status, poison := q.poison || poison }
        { t with store := { t.store with dmas := SMap.insert r.tag q t.store.dmas } }
    | none => t)

/-- Bytes at listed addresses. -/
def Dev.gatherBytes (d : Dev) (m : Mem) (as : List Nat) : List Nat := as.map (d.byteAt m)

/-- Put bytes at listed addresses. -/
def Dev.scatterBytes (d : Dev) (as bs : List Nat) : Dev := (as.zip bs).foldl (fun d (x, b) => d.pokeBytes x [b]) d

/-- The lines of listed addresses, first to last. -/
def linesOf (as : List Nat) : List Nat := (as.map (fun a => a / 64 * 64)).eraseDups

/-- Any listed byte lies in a poisoned line. -/
def Dev.anyBad (d : Dev) (as : List Nat) : Bool := (linesOf as).any (fun a => d.lineBad (a / 64))

/-- The bytes a write leaves: those of `old` with the bits of `mask` from `val`. -/
def mergeBytes (old : List Nat) (val mask : Nat) : List Nat :=
  old.zipIdx.map (fun (b, i) =>
    let k := bits mask (8 * i) 8
    (b &&& (255 - k)) ||| (bits val (8 * i) 8 &&& k))

/-- The request writes all 64 bytes of its line. -/
def Req.whole (r : Req) : Bool := r.addrs.length == 64 && r.mask == 2 ^ 512 - 1

/-- Perform a write request at the given addresses, which lie in one line (R249, R250). -/
def Dev.performWrite (d : Dev) (m : Mem) (r : Req) (as : List Nat) : Dev :=
  match as with
  | [] => d
  | a :: _ =>
    let (d, k) := d.openLine a r.whole
    let d := d.markWrite a r.whole r.poison k
    d.scatterBytes as (mergeBytes (d.gatherBytes m as) r.val r.mask)

/-- The element format of an add. -/
def ReqKind.format (k : ReqKind) : Format := if k = .add64 then .binary64 else .binary32

/-- The arithmetic of an add (R251): one addition rounded to nearest even, a NaN result canonical, −0 stored as +0. -/
def addElement (f : Format) (a b : Nat) : Nat :=
  let (v, _) := scalarArith .add f 0 a b 0
  if isNanCode f v then f.canonNan else if v = 2 ^ (f.width - 1) then 0 else v

/-- Perform an add request at the given addresses: true where it met poison and changed no value (R253). -/
def Dev.performAdd (d : Dev) (m : Mem) (r : Req) (as : List Nat) : Dev × Bool :=
  let ls := linesOf as
  let (d, found) := ls.foldl (fun (d, k) a =>
    let (d, j) := d.dieModify a false
    (d, max k j)) (d, 0)
  if r.poison then (ls.foldl (fun d a => (d.setLine (a / 64) true).stackPoison a 1) d, true)
  else if found = 2 then (d, true)
  else if d.anyBad as then (d.stackPoison (as.headD 0) 2, true)
  else (d.scatterBytes as (toLE as.length (addElement r.kind.format (ofLE (d.gatherBytes m as)) r.val)), false)

/-- Perform the tile-store side of a read request whose line reads as `bs`, with poison where the line carried it (R70,
R250); the marks of its DMA say what of each word has been written before. -/
def Dev.performRead (d : Dev) (r : Req) (bs : List Nat) (poison : Bool) : Dev :=
  let ws := r.reads.map (fun x => (⟨x.tpos, x.len, bits (ofLE bs) x.pos x.len, poison⟩ : TsWrite))
  d.onTile r.tile (fun t =>
    match SMap.find r.tag t.store.dmas with
    | some q =>
      let t := t.writeMarked q.marks ws
      { t with store := { t.store with dmas := SMap.insert r.tag { q with marks := wordMarks q.marks ws } t.store.dmas } }
    | none => t.writeAll ws)

/-! ### Stack health (R259, R260) -/

/-- Regions that a stack holds part of become FAILED. -/
def Dev.failRegions (d : Dev) (s : Nat) : Dev :=
  { d with deckle := { d.deckle with
      regions := d.deckle.regions.map (fun e => if bit e.2.stks s then (e.1, { e.2 with state := .failed }) else e) } }

/-- Requests end with a status; whether a write or add of them landed is a free value (R260; log entry 9). -/
def Dev.endRequests (d : Dev) (m : Mem) (rs : List Req) (status : Nat) : Dev :=
  rs.foldl (fun d r =>
    let (v, d) := d.fresh
    let d :=
      if v % 2 = 0 then d
      else match r.kind with
        | .rd => d
        | .wr => d.performWrite m r r.addrs
        | .add32 | .add64 => (d.performAdd m r r.addrs).1
    d.finishReq r status false) d

/-- The requests that `p` picks, by their stack, leave the queues: what is left, and they. -/
def Dev.dropRequests (d : Dev) (p : Nat → Req → Bool) : Dev × List Req :=
  let ks := (d.stks.map (fun e => e.1)).eraseDups
  (ks.foldl (fun d k => d.onStack k (fun x => { x with reqs := x.reqs.filter (fun r => !p k r) })) d,
    ks.flatMap (fun k => (d.stack k).reqs.filter (p k)))

/-- Every access that the stack had accepted completes with REGION_FAILED, and so does every pending access to a region
that was being copied off it (R260, R283). -/
def Dev.failRequests (d : Dev) (m : Mem) (s : Nat) (moving : List Nat) : Dev :=
  let (d, rs) := (d.onStack s (fun x => { x with demand := [] })).dropRequests (fun k r => k == s || moving.contains r.region)
  d.endRequests m rs 2

/-- A stack enters FAILED: a UCC of the stack (R260), with the PG_ERR bits that it sets and what its record's parameters
say. -/
def Dev.failStack (d : Dev) (m : Mem) (s bits sub p0 p1 p2 : Nat) : Dev :=
  if d.fget stkStatHealth s = 3 then d
  else
    let n := (d.stack s).reqs.length
    let u := d.unit pSTK s
    let d := d.uccErr pSTK s bits sub p0 p1 p2
    let d :=
      if u.state = .active ∨ u.state = .draining then
        (d.onUnit pSTK s (fun u => { u with state := .disabled, forced := n != 0, reason := 7, forceReq := false })).record
          0x0014 pSTK s 7 n 0
      else d
    let moving := (d.deckle.regions.filter (fun e => e.2.state == .migrating && bit e.2.stks s)).map (fun e => e.1)
    ((d.failRegions s).failRequests m s moving).worsen s 3

/-! ### Taking a request (R215, R216) -/

/-- Two requests touch one line, at either of their locations. -/
def Req.meets (a b : Req) : Bool :=
  let ls := linesOf (b.addrs ++ b.mirrors)
  (linesOf (a.addrs ++ a.mirrors)).any ls.contains

/-- Request `i` of a stack's queue with the queue without it: none while an earlier request of the same tile, here or at
another stack, touches one of its lines (R215). -/
def takeReq (others rs : List Req) (i : Nat) : Option (Req × List Req) :=
  match rs[i]? with
  | none => none
  | some r =>
    if (rs.take i).any (fun q => q.tile == r.tile && q.meets r)
        || others.any (fun q => q.tile == r.tile && decide (q.seq < r.seq) && q.meets r) then none
    else some (r, rs.take i ++ rs.drop (i + 1))

/-- The requests of the other stacks. -/
def Dev.otherReqs (d : Dev) (s : Nat) : List Req := (d.stks.filter (fun e => e.1 != s)).flatMap (fun e => e.2.reqs)

/-- Request `i` of a stack as its die takes it: not while a mitigation holds back the row (R254). The cells of its first line
have changed by `ecc`. -/
def Dev.begin (d : Dev) (m : Mem) (s i : Nat) (ecc : Ecc) (p : ReqKind → Bool) : Option (Req × Dev) :=
  if (d.stack s).hammered.contains ecc.row then none
  else (takeReq (d.otherReqs s) (d.stack s).reqs i).bind (fun (r, rest) =>
    if p r.kind then
      some (r, ((d.onStack s (fun x => { x with reqs := rest })).activateRow s ecc.row).disturb m
        (r.addrs.headD 0 / 64 * 64) ecc)
    else none)

/-- STACK_READ: the die reads one line of a DMA.RD and the data returns to the tile store. -/
def Dev.stackRead (d : Dev) (m : Mem) (s i : Nat) (ecc : Ecc) : Dev :=
  match d.begin m s i ecc (fun k => k == .rd) with
  | some (r, d) =>
    let a := r.addrs.headD 0
    let d' := (d.noteRead a true).1
    let bad := d'.anyBad r.addrs
    (d'.performRead r (d.seenLine m a) bad).finishReq r 0 bad
  | none => d

/-- STACK_WRITE: the die writes one line of a DMA.WR, whole, or by read-modify-write; at both locations where a
migration has copied the unit (R283). -/
def Dev.stackWrite (d : Dev) (m : Mem) (s i : Nat) (ecc : Ecc) : Dev :=
  match d.begin m s i ecc (fun k => k == .wr) with
  | some (r, d) => ((d.performWrite m r r.addrs).performWrite m r r.mirrors).finishReq r 0 r.poison
  | none => d

/-- Element adds that STK.ADDCNT has not yet shown, and the register in units of 1,024. -/
def Dev.countAdd (d : Dev) (s : Nat) : Dev :=
  let n := (d.stack s).adds + 1
  if n = 1024 then (d.onStack s (fun x => { x with adds := 0 })).fcount stkAddcntCount s 1
  else d.onStack s (fun x => { x with adds := n })

/-- ATOMIC_ADD: the die adds one element indivisibly (R251, R253). -/
def Dev.atomicAdd (d : Dev) (m : Mem) (s i : Nat) (ecc : Ecc) : Dev :=
  match d.begin m s i ecc (fun k => k != .rd && k != .wr) with
  | some (r, d) =>
    let (d, p) := (d.countAdd s).performAdd m r r.addrs
    let (d, q) := d.performAdd m r r.mirrors
    d.finishReq r 0 (p || q)
  | none => d

/-! ### Wear, repair and refresh (R254 to R257) -/

/-- A row is a row of one of the 1,024 banks of a stack (R238, R479). -/
def rowOk (row : Nat) : Bool := decide (row < 1024 * 2 ^ 24)

/-- ROW_WEAR_MITIGATION: the die has counted `more` activations of a row beyond those that commands name. At STK.WEAR.THRESH
it refreshes the neighbours and the count starts again; where the share of R254 does not allow that yet (`wait`), further
activations of the row wait (DESIGN CHOICE, log entry 110). -/
def Dev.wearMitigation (d : Dev) (s row more : Nat) (wait : Bool) : Dev :=
  if d.fget stkStatHealth s = 3 then d
  else
    let n := SMap.get 0 row (d.stack s).acts + more
    let full := decide (d.fget stkWearThresh s ≤ n)
    let d := d.onStack s (fun x => { x with
      acts := SMap.put 0 row (if full && !wait then 0 else n) x.acts
      hammered := if full && wait then (if x.hammered.contains row then x.hammered else x.hammered ++ [row])
        else if full then x.hammered.filter (fun r => r != row) else x.hammered })
    let d := if full && !wait then d.fcount stkWearcntCount s 1 else d
    d.fset stkStatThrottle s (b2n (!(d.stack s).hammered.isEmpty))

/-- The row's disturbed lines as they are copied through ECC: each is decoded and written anew, its poison with it. -/
def Dev.copyRow (d : Dev) (s row : Nat) : Dev :=
  (((d.stack s).cells.filter (fun e => e.2.row == row)).map (fun e => s * stackBytes + 64 * e.1)).foldl
    (fun (d : Dev) a => (d.dieModify a true).1) d

/-- A row takes a spare of its bank, copied through ECC, or SPARE_LOW sets (R255, R256). The record gives bank and row as
the die numbers them (R479). -/
def Dev.spareRow (d : Dev) (s r : Nat) : Dev :=
  let bank := r / 2 ^ 24
  let used := SMap.get 0 bank (d.stack s).sparesUsed
  if 16 ≤ used then (d.fset stkStatSpareLow s 1).worsen s 1
  else
    let d := (d.copyRow s r).onStack s (fun x => { x with
      sparesUsed := SMap.insert bank (used + 1) x.sparesUsed, acts := SMap.remove r x.acts })
    let d := d.fset stkSpareFree s (d.fget stkSpareFree s - 1)
    (d.fcount stkSpareRepaired s 1).record 0x0010 pSTK s bank (r % 2 ^ 24) (16 - used - 1)

/-- ROW_REPAIR: the oldest row that qualifies is repaired. -/
def Dev.rowRepair (d : Dev) (s : Nat) : Dev :=
  match (d.stack s).repairDue with
  | [] => d
  | r :: _ =>
    if d.fget stkStatHealth s = 3 then d
    else (d.spareRow s r).onStack s (fun x => { x with
      repairDue := x.repairDue.filter (fun q => q != r), corrections := x.corrections.filter (fun c => c.1 != r) })

/-- REFRESH: a row is refreshed at its bin's interval (R257), and its activations count anew (R254). Refresh keeps what the
cells hold: by then those of its line `line` have changed by `ecc` (DESIGN CHOICE, log entry 110). It goes on in every state but
FAILED (R261). -/
def Dev.rowRefresh (d : Dev) (m : Mem) (s line : Nat) (ecc : Ecc) : Dev :=
  if d.fget stkStatHealth s = 3 then d
  else (d.onStack s (fun x => { x with acts := SMap.remove ecc.row x.acts })).disturb m (s * stackBytes + 64 * line) ecc

/-! ### The Doctor (R258) -/

/-- The Doctor may scrub the stack: DOC and the stack are ACTIVE (R261). -/
def Dev.mayScrub (d : Dev) (s : Nat) : Bool := d.active pDOC 0 && d.stackUp s

/-- A region that is FAILED covers the line. -/
def Dev.lineFailed (d : Dev) (a : Nat) : Bool :=
  d.deckle.regions.any (fun e =>
    let r := e.2
    let n := (setBits 32 r.stks).length
    let used := ceilDiv (r.size / 4096) (max n 1) * 4096
    r.state == .failed && bit r.stks (stackOf a)
      && decide (r.base ≤ a % stackBytes) && decide (a % stackBytes < r.base + (if r.stripe then used else r.size)))

/-- A scrub of the line at `a`: read, and write back what corrected; poisoned lines and lines of FAILED regions are not
written back. -/
def Dev.scrub (d : Dev) (m : Mem) (a : Nat) (ecc : Ecc) : Dev × Nat :=
  let (d, data, k) := d.dieRead m a ecc true
  (if k = 1 ∧ !d.lineBad (a / 64) ∧ !d.lineFailed a then (d.pokeBytes a data).cellsGone a else d, k)

/-- Lines of a stack. -/
def stackLines : Nat := stackBytes / 64

/-- Every stack that patrol may read has been read once in the current pass. -/
def Dev.passOver (d : Dev) : Bool := (List.range 32).all (fun s => !d.mayScrub s || (d.stack s).passed)

/-- How much of the current pass is done, in thousandths (R263). -/
def Dev.passDone (d : Dev) : Nat :=
  let ss := (List.range 32).filter d.mayScrub
  let lines := ss.foldl (fun n s => n + (if (d.stack s).passed then stackLines else (d.stack s).patrol)) 0
  lines * 1000 / (max 1 ss.length * stackLines)

/-- The pass ends. -/
def Dev.endPass (d : Dev) : Dev := (d.fwrap docProgressPasses 0).fset docStatPatrolActive 0 0

/-- A pass begins: no stack has been read. -/
def Dev.startPass (d : Dev) : Dev :=
  ({ d with stks := d.stks.foldl (fun l (e : Nat × Stack) => SMap.put .reset e.1 { e.2 with passed := false } l) [] }).fset docStatPatrolActive 0 1

/-- PATROL_SCRUB: patrol reads the next line of a stack, in ascending offset and wrapping; a stack that it has read to the
end waits for the next pass, which begins once every stack has (R258). -/
def Dev.patrolScrub (d : Dev) (m : Mem) (s : Nat) (ecc : Ecc) : Dev :=
  if !d.fbit docCtlPatrolEn 0 || !d.mayScrub s || (d.stack s).hammered.contains ecc.row then d
  else
    let d := if d.fbit docStatPatrolActive 0 && d.passOver then d.endPass else d
    let d := if d.fbit docStatPatrolActive 0 then d else d.startPass
    if (d.stack s).passed then d
    else
      let line := (d.stack s).patrol
      let (d, k) := d.scrub m (s * stackBytes + line * 64) ecc
      let d := if k = 1 then d.fcount docPatrolceCount 0 1 else if k = 2 then d.fcount docPatrolueCount 0 1 else d
      let next := (line + 1) % stackLines
      let d := d.onStack s (fun x => { x with patrol := next, passed := next == 0 })
      let d := d.fset docProgressPermille 0 d.passDone
      if d.passOver then d.endPass else d

/-- DEMAND_SCRUB: the oldest queued line of a stack is scrubbed (R258). -/
def Dev.demandScrub (d : Dev) (m : Mem) (s : Nat) (ecc : Ecc) : Dev :=
  match (d.stack s).demand with
  | [] => d
  | line :: rest =>
    if !d.mayScrub s || (d.stack s).hammered.contains ecc.row then d
    else
      let d := d.onStack s (fun x => { x with demand := rest })
      let (d, _) := d.scrub m (s * stackBytes + line * 64) ecc
      d.fcount docDemandcntCount 0 1

/-- DOC_BEHIND: patrol is `hours` hours behind its schedule (R258): past 1 it runs ahead of calibration, past 4 it is
logged. -/
def Dev.docBehind (d : Dev) (hours : Nat) : Dev :=
  let d := d.fset docStatBoosted 0 (b2n (decide (1 < hours)))
  if 4 < hours ∧ d.fbit docStatBehind 0 = false then (d.fset docStatBehind 0 1).record 0x0011 pDOC 0 hours 0 0 else d

/-- OPERATING_HOUR_END: a multiple of 3,600 of GLB.OPSEC has passed; the hourly counters start again (R259). -/
def Dev.operatingHourEnd (d : Dev) : Dev :=
  let h := d.fget glbOpsecSeconds 0 / 3600
  if h ≤ d.hours then d
  else
    let d := (List.range 32).foldl (fun d s =>
      let x := d.stack s
      let d := if 1000000 < x.hourCe then d.worsen s 1 else d
      let d := if 8 ≤ x.hourRows.length then d.worsen s 2 else d
      if x.hourCe = 0 ∧ x.hourRows = [] then d else d.onStack s (fun x => { x with hourCe := 0, hourRows := [] })) d
    { d with hours := h }

/-- STACK_NO_ANSWER: a stack that has not answered for 50 µs enters FAILED (R259, R260). What PG_ERRCAP's sub-unit and
parameters hold for it the spec does not say: free values (log entry 11). -/
def Dev.stackNoAnswer (d : Dev) (m : Mem) (s : Nat) : Dev :=
  let (sub, d) := d.fresh
  let (p0, d) := d.fresh
  let (p1, d) := d.fresh
  let (p2, d) := d.fresh
  d.failStack m s bUCC sub p0 p1 p2

/-- DRAM_DIE_LOST: a die or through-silicon lane of a stack is lost (R259). -/
def Dev.dieLost (d : Dev) (s : Nat) : Dev := (d.onStack s (fun x => { x with lost := true })).worsen s 2

end Sys2Proof.Machine
end

