-- ==== Sys2Proof/Machine/Links.lean ====
section
/-! DEFINITION. Machine/Links.lean: Brezin ports, their frames, credits and replay, and the router (R323 to R336, R344,
R346). -/

namespace Sys2Proof.Machine

/-! ### Frames on the wire (Tables 12-2 and 12-3) -/

/-- One bit of the IEEE 802.3 frame check sequence, least significant bit first. -/
def crc32Bit (c : Nat) : Nat := if c % 2 = 1 then c / 2 ^^^ 0xEDB88320 else c / 2

/-- One byte of it. -/
def crc32Byte (c b : Nat) : Nat := (List.range 8).foldl (fun c _ => crc32Bit c) (c ^^^ b % 256)

/-- The CRC-32 of a frame (R328). -/
def crc32 (bs : List Nat) : Nat := bs.foldl crc32Byte 0xFFFFFFFF ^^^ 0xFFFFFFFF

/-- A payload padded with zeros to a multiple of 8 bytes. -/
def padded (bs : List Nat) : List Nat := bs ++ List.replicate ((8 - bs.length % 8) % 8) 0

/-- The bytes of a packet: the header of Table 12-3 and the padded payload. -/
def packetBytes (p : Packet) : List Nat :=
  toLE 3 p.dst ++ toLE 3 p.src ++ [p.op % 256, p.flags % 256] ++ toLE 2 p.dchan ++ toLE 2 p.schan ++ toLE 2 p.seq
    ++ toLE 2 p.len ++ toLE 8 p.arg ++ padded p.payload

/-- A packet read from the bytes between a link header and a trailer. -/
def packetOf (bs : List Nat) : Packet :=
  let f (o n : Nat) : Nat := ofLE ((bs.drop o).take n)
  { dst := f 0 3, src := f 3 3, op := f 6 1, flags := f 7 1, dchan := f 8 2, schan := f 10 2, seq := f 12 2, len := f 14 2
    arg := f 16 8, payload := (bs.drop 24).take (f 14 2) }

/-- A link header (Table 12-2). -/
def linkHeader (kind vl seq ack : Nat) (nak : Bool) (credit : List Nat) : Nat :=
  kind + vl * 4 + seq * 16 + ack * 2 ^ 16 + b2n nak * 2 ^ 28
    + (List.range 4).foldl (fun a i => a + credit.getD i 0 % 256 * 2 ^ (32 + 8 * i)) 0

/-- A frame around its body: header, body, and the trailer with the CRC. -/
def frameBytes (header : Nat) (body : List Nat) : List Nat :=
  let h := toLE 8 header
  h ++ body ++ toLE 8 (crc32 (h ++ body))

/-- The CRC of a received frame holds. -/
def frameGood (bs : List Nat) : Bool :=
  decide (16 ≤ bs.length)
    && crc32 (bs.take (bs.length - 8)) == ofLE ((bs.drop (bs.length - 8)).take 4)

/-- The service operations that chapters 11 and 13 define; 0x1B to 0x1F are reserved (R375). -/
def isService (op : Nat) : Bool := decide (0x10 ≤ op) && decide (op ≤ 0x1A)

/-- WRITE, ADD and the service operations, which travel in a channel's order. -/
def inOrder (op : Nat) : Bool := op == 1 || op == 2 || isService op

/-- Bytes of a payload read 0. -/
def zeroBytes (bs : List Nat) (o n : Nat) : Bool := ((bs.drop o).take n).all (fun b => b == 0)

/-- The reserved bits and bytes of a service packet read 0 (R375, Table 13-6). -/
def serviceOk (p : Packet) : Bool :=
  match p.op with
  | 0x10 => decide (p.arg < 2 ^ 16) && zeroBytes p.payload 36 4
  | 0x11 => decide (p.arg < 2 ^ 48)
  | 0x12 => decide (p.arg < 2 ^ 16) && zeroBytes p.payload 48 16
  | 0x13 | 0x16 => p.arg == 0 && zeroBytes p.payload 14 2
  | 0x14 | 0x15 => p.arg == 0 && zeroBytes p.payload 14 2 && zeroBytes p.payload 18 2
  | 0x17 => decide (p.arg < 2 ^ 16) && zeroBytes p.payload 14 2
  | 0x18 => bits p.arg 6 10 == 0
  | 0x19 | 0x1A => bits p.arg 6 10 == 0 && p.len == 0
  | _ => false

/-- The packet obeys Table 12-3 (R336). -/
def packetOk (vl : Nat) (p : Packet) : Bool :=
  p.dst / 2 ^ 20 == 0 && p.src / 2 ^ 20 == 0 && p.flags / 128 == 0 && p.dchan / 4096 == 0 && p.schan / 4096 == 0
    && decide (p.len ≤ 256) && p.payload.length == p.len && (vl != 0 || decide (p.len ≤ 64))
    && (match p.op with
      | 1 => decide (p.arg < 2 ^ 48)
      | 2 => decide (p.arg < 2 ^ 56)
      | 3 => decide (p.arg < 2 ^ 16)
      | 4 => decide (p.arg < 2 ^ 24)
      | 5 => decide (p.arg < 4)
      | 6 | 7 | 8 | 9 => p.arg == 0
      | _ => serviceOk p)

/-! ### Ports -/

/-- A port by its number. -/
def Dev.port (d : Dev) (p : Nat) : Port := SMap.get .reset p d.brezin.ports

/-- Set a port. -/
def Dev.setPort (d : Dev) (p : Nat) (x : Port) : Dev :=
  { d with brezin := { d.brezin with ports := SMap.put .reset p x d.brezin.ports } }

/-- Change a port. -/
def Dev.onPort (d : Dev) (p : Nat) (f : Port → Port) : Dev := d.setPort p (f (d.port p))

/-- LSTATE or width changed (R327): the map entry, and a HEALTH record in every case. -/
def Dev.portChanged (d : Dev) (p : Nat) (old : Nat) : Dev :=
  let i := 0x200 + p
  let held := d.health i
  let d := d.rehealth i
  if d.health i = held then d.record 0x5001 pBZP p i (d.healthNow i) old else d

/-- Change a port's LSTATE or width. -/
def Dev.movePort (d : Dev) (p : Nat) (f : Port → Port) : Dev :=
  let old := d.healthNow (0x200 + p)
  let a := d.port p
  let b := f a
  let d := d.setPort p b
  if a.state = b.state ∧ a.width = b.width then d else d.portChanged p old

/-- Frames received on a port and not yet forwarded are discarded (R330). -/
def Dev.dropTransit (d : Dev) (p : Nat) : Dev :=
  { d with brezin := { d.brezin with
      ports := d.brezin.ports.map (fun e => (e.1, { e.2 with queue := e.2.queue.filter (fun g => g.from_ != some p) })) } }

/-- A port with its link state lost: replay buffer discarded, peer unknown (R330). -/
def Port.lost (x : Port) (s : PortState) : Port :=
  { x with state := s, width := 0, lanes := 0, peerValid := false, replay := [], resend := 0, nak := false, nakSent := false
           ackOwed := false, credit := [0, 0, 0, 0], owed := [0, 0, 0, 0], fecUnc := 0 }

/-- The frames queued on a port are discarded, and the buffers of those that came over other ports are free (Table 12-5). -/
def Dev.dropQueued (d : Dev) (p : Nat) : Dev :=
  let gone := (d.port p).queue
  gone.foldl (fun (d : Dev) g => match g.from_ with
    | some a => d.onPort a (fun x => { x with owed := x.owed.modify g.vl (· + 1) })
    | none => d) (d.onPort p (fun x => { x with queue := [] }))

/-- The current retry interval after one more failure (R327). -/
def Dev.nextRetry (d : Dev) (p : Nat) : Nat :=
  let first := d.fget bzpRetryInterval p
  let r := (d.port p).retryMs
  if r = 0 then first else min (2 * r) (max first (d.fget bzpRetryMaxms p))

/-- A training failed: RETRY_WAIT, the next interval, the buffers discarded (Table 12-1). -/
def Dev.trainFailed (d : Dev) (p : Nat) : Dev :=
  let r := d.nextRetry p
  let d := d.fcount bzpTraincntFail p 1
  (d.movePort p (fun x => { x.lost .retryWait with retryMs := r })).dropTransit p

/-- The port goes OFF (Table 12-1). -/
def Dev.portOff (d : Dev) (p : Nat) : Dev :=
  if (d.port p).state = .off then d
  else (d.movePort p (fun x => { x.lost .off with retryMs := 0 })).dropTransit p

/-- The widest lane set that training may choose from the lanes that pass at both ends (R326): its width code and its
lanes. Of two sets of one width the lower is taken. -/
def laneSet (maxWidth pass : Nat) : Option (Nat × Nat) :=
  if maxWidth = 2 ∧ pass % 16 = 15 then some (3, 15)
  else if 1 ≤ maxWidth ∧ pass % 4 = 3 then some (2, 3)
  else if 1 ≤ maxWidth ∧ bits pass 2 2 = 3 then some (2, 12)
  else ((List.range 4).find? (fun i => bit pass i)).map (fun i => (1, 2 ^ i))

/-- Receive buffers of each lane, the full credit (R331). -/
def fullCredit : List Nat := [64, 256, 256, 64]

/-- PORT_TRAINING: training ends with the lanes that pass at both ends (none when the time limit ended it), the peer's
identity and, for a retrain, the SEQ that the peer last accepted (R326, R330). A fresh training starts SEQ at 0
(DEDUCED, log entry 28). -/
def Dev.portTraining (d : Dev) (p pass peerId peerPort peerSeq : Nat) : Dev :=
  let x := d.port p
  match x.state with
  | .training | .retraining =>
    match laneSet (d.fget bzpCtlMaxwidth p) pass with
    | none => d.trainFailed p
    | some (w, lanes) =>
      let d := d.fcount bzpTraincntOk p 1
      d.movePort p (fun x =>
        let x := { x with width := w, lanes := lanes, peerId := peerId % 2 ^ 20, peerPort := peerPort % 32
                          peerValid := true, retryMs := 0, credit := fullCredit, owed := [0, 0, 0, 0], fecUnc := 0
                          nak := false, nakSent := false }
        if x.state = .retraining then
          let keep := (x.replay.dropWhile (fun r => r.seq != peerSeq)).drop 1
          let keep := if x.replay.any (fun r => r.seq == peerSeq) then keep else x.replay
          { x with state := .up, replay := keep, resend := keep.length }
        else { x with state := .up, txSeq := 0, rxSeq := 4095, replay := [], resend := 0 })
  | _ => d

/-- UP to RETRAINING (Table 12-1). -/
def Dev.startRetrain (d : Dev) (p : Nat) : Dev :=
  if (d.port p).state = .up then d.movePort p (fun x => { x with state := .retraining, width := 0, lanes := 0 }) else d

/-- RETRY_WAIT to TRAINING. -/
def Dev.startTraining (d : Dev) (p : Nat) : Dev :=
  if (d.port p).state = .retryWait then d.movePort p (fun x => { x with state := .training }) else d

/-- BZP.CTL.RETRAIN. -/
def Dev.retrain (d : Dev) (p : Nat) : Dev := if (d.port p).state = .up then d.startRetrain p else d.startTraining p

/-- An OFF port trains while it is ACTIVE with TRAIN_EN (Table 12-1). -/
def Dev.portOn (d : Dev) (p : Nat) : Dev :=
  if (d.port p).state = .off ∧ d.active pBZP p ∧ d.fbit bzpCtlTrainEn p then
    d.movePort p (fun x => { x with state := .training })
  else d

/-- BZP.CTL.TRAIN_EN. -/
def Dev.trainEn (d : Dev) (p : Nat) (v : Bool) : Dev :=
  let d := d.fset bzpCtlTrainEn p (b2n v)
  if v then d.portOn p else d.portOff p

/-- FEC_UNCORRECTABLE: one codeword; `newWindow` says that it opens a new 1 ms window (Table 12-1). -/
def Dev.fecUncorrectable (d : Dev) (p : Nat) (newWindow : Bool) : Dev :=
  let d := d.fcount bzpFecuncCount p 1
  if (d.port p).state = .up then
    let n := if newWindow then 1 else (d.port p).fecUnc + 1
    let d := d.onPort p (fun x => { x with fecUnc := n })
    if 16 ≤ n then d.startRetrain p else d
  else d

/-- LLTMO_EXPIRY: no ACKSEQ has advanced for BZP.LLTMO: resend from the oldest (R329). -/
def Dev.llTimeout (d : Dev) (p : Nat) : Dev :=
  if (d.port p).state = .up then d.onPort p (fun x => { x with resend := x.replay.length }) else d

/-! ### The router (R333, R334) -/

/-- This device's ID. -/
def Dev.devId (d : Dev) : Nat := d.fget bzeDevidId 0

/-- The device has an ID. -/
def Dev.hasId (d : Dev) : Bool := d.devId != 0xFFFFF

/-- Where the router sends a packet. -/
inductive Route where
  | here
  | port (p : Nat)
  | nowhere
  deriving DecidableEq, Repr

/-- The instance number under which a routing-table entry is stored: LEVEL × 1,024 + INDEX. -/
def routeEntry (level index : Nat) : Nat := level * 1024 + index

/-- `route(pkt)` of R334. -/
def Dev.route (d : Dev) (dst src dchan : Nat) : Route :=
  let id := d.devId
  let dst := dst % 2 ^ 20
  if dst = id then .here
  else
    let e := if dst / 1024 = id / 1024 then routeEntry 1 (dst % 1024) else routeEntry 0 (dst / 1024)
    if !d.fbit bzeRtentValid e then .nowhere
    else
      let u := (setBits 18 (d.fget bzeRtentPorts e)).filter (fun p => (d.port p).state == .up && d.active pBZP p)
      if u.isEmpty then .nowhere else .port (u.getD ((src % 1024 ^^^ dchan % 4096) % u.length) 0)

/-- Channels are keyed by engine and number. -/
def chanKey (e c : Nat) : Nat := e * 4096 + c

/-- A channel context. -/
def Dev.chan (d : Dev) (e c : Nat) : Channel := SMap.get .reset (chanKey e c) d.brezin.chans

/-- Set a channel context. -/
def Dev.setChan (d : Dev) (e c : Nat) (x : Channel) : Dev :=
  { d with brezin := { d.brezin with chans := SMap.put .reset (chanKey e c) x d.brezin.chans } }

/-- Change a channel context. -/
def Dev.onChan (d : Dev) (e c : Nat) (f : Channel → Channel) : Dev := d.setChan e c (f (d.chan e c))

/-- The engine on which channel `c` is not CLOSED (R337). -/
def Dev.holder (d : Dev) (c : Nat) : Option Nat := (List.range 6).find? (fun e => (d.chan e c).state != .closed)

/-- A packet for this device is handed to the engine that holds its channel, else to the engine it reached; a malformed
one is discarded (R336). -/
def Dev.deliver (d : Dev) (engine vl : Nat) (p : Packet) : Dev :=
  if packetOk vl p then
    let e := (d.holder p.dchan).getD engine
    { d with brezin := { d.brezin with inbox := SMap.insert e ((SMap.get [] e d.brezin.inbox) ++ [p]) d.brezin.inbox } }
  else d.fcount bzeBadpktCount engine 1

/-- The packet as it leaves this device (R334). -/
def withTtl (p : Packet) (ttl : Nat) : Packet := { p with flags := p.flags / 64 * 64 + ttl % 64 }

/-- A packet generated on this device goes to the router (R334). A drop's record has no arrival port to name: a free
value (log entry 11). -/
def Dev.emit (d : Dev) (engine vl : Nat) (p : Packet) : Dev :=
  let p := withTtl p (d.fget bzeTtlInit 0)
  match d.route p.dst p.src p.dchan with
  | .here => d.deliver engine vl p
  | .port q => d.onPort q (fun x => { x with queue := x.queue ++ [⟨vl, p, none⟩] })
  | .nowhere =>
    let (v, d) := d.fresh
    (d.fcount bzeNorouteCount 0 1).record 0x0012 pBZE engine (p.dst % 2 ^ 20) 1 v

/-- A frame's buffer on a port is free: its credit returns (R331). -/
def Port.freeBuffer (x : Port) (vl : Nat) : Port := { x with owed := x.owed.modify vl (· + 1) }

/-- A transit packet that arrived on port `a`: forwarded with TTL − 1, or dropped (R334). -/
def Dev.transit (d : Dev) (a vl : Nat) (p : Packet) : Dev :=
  let ttl := p.flags % 64
  if ttl = 0 then
    ((d.fcount bzpTtldropTtl a 1).record 0x0012 pBZP a (p.dst % 2 ^ 20) 0 a).onPort a (fun x => x.freeBuffer vl)
  else match d.route p.dst p.src p.dchan with
    | .port q => d.onPort q (fun x => { x with queue := x.queue ++ [⟨vl, withTtl p (ttl - 1), some a⟩] })
    | _ =>
      ((d.fcount bzpTtldropNoroute a 1).record 0x0012 pBZP a (p.dst % 2 ^ 20) 1 a).onPort a (fun x => x.freeBuffer vl)

/-! ### Receiving frames (R328, R329, R331) -/

/-- What a header returns: acknowledgement, credits, and a request to replay. -/
def Port.header (x : Port) (h : Nat) : Port :=
  let ack := bits h 16 12
  let keep := if x.replay.any (fun r => r.seq == ack) then (x.replay.dropWhile (fun r => r.seq != ack)).drop 1 else x.replay
  let credit := (List.range 4).map (fun i => min (fullCredit.getD i 0) (x.credit.getD i 0 + bits h (32 + 8 * i) 8))
  { x with replay := keep
           resend := if bit h 28 then keep.length else min x.resend keep.length
           credit := credit }

/-- The receiver discards a frame and asks for replay, once per gap. -/
def Port.refuseFrame (x : Port) : Port := if x.nakSent then x else { x with nak := true, nakSent := true }

/-- Codewords of an UP port that FEC corrected. -/
def Dev.countFec (d : Dev) (a fec : Nat) : Dev := if (d.port a).state = .up then d.fcount bzpFeccorrCount a fec else d

/-- DATA_FRAME: a frame arrives on an UP port. Out of order or with a bad CRC it is discarded whole (DEDUCED, log entry
29). `fec` of its codewords were corrected (R346). -/
def Dev.dataFrame (d : Dev) (a : Nat) (bs : List Nat) (fec : Nat) : Dev :=
  let d := d.countFec a fec
  let x := d.port a
  if x.state ≠ .up then d
  else if !frameGood bs then d.setPort a x.refuseFrame
  else
    let h := ofLE (bs.take 8)
    if bits h 0 2 ≠ 1 then d
    else if bits h 4 12 ≠ (x.rxSeq + 1) % 4096 then d.setPort a x.refuseFrame
    else
      let vl := bits h 2 2
      let d := d.setPort a { x.header h with rxSeq := bits h 4 12, nakSent := false, nak := false, ackOwed := true }
      let p := packetOf ((bs.drop 8).take (bs.length - 16))
      if p.dst % 2 ^ 20 = d.devId ∧ d.hasId then (d.deliver (a / 3) vl p).onPort a (fun x => x.freeBuffer vl)
      else d.transit a vl p

/-- LCF: a link control frame with a good CRC. -/
def Dev.lcf (d : Dev) (a : Nat) (bs : List Nat) (fec : Nat) : Dev :=
  let d := d.countFec a fec
  let x := d.port a
  if x.state = .up ∧ bs.length = 16 ∧ frameGood bs ∧ bits (ofLE (bs.take 8)) 0 2 = 0 then
    d.setPort a (x.header (ofLE (bs.take 8)))
  else d

/-! ### Egress (R332) -/

/-- A lane has a frame ready and a credit for it. -/
def Port.ready (x : Port) (vl : Nat) : Bool := x.queue.any (fun g => g.vl == vl) && decide (1 ≤ x.credit.getD vl 0)

/-- The frame that goes next within a lane: transit and local frames alternate whenever both wait. -/
def Port.nextIn (x : Port) (vl : Nat) : Option Egress :=
  let own := x.queue.find? (fun g => g.vl == vl && g.from_.isNone)
  let tra := x.queue.find? (fun g => g.vl == vl && g.from_.isSome)
  if x.localNext.getD vl false then own.or tra else tra.or own

/-- The weight of a lane in a round; 0 acts as 1. -/
def Dev.laneWeight (d : Dev) (p vl : Nat) : Nat :=
  max 1 (match vl with
    | 1 => d.fget bzpArbColWt p
    | 2 => d.fget bzpArbDatWt p
    | _ => d.fget bzpArbBkgWt p)

/-- The lane after `vl` in a round. -/
def nextLane (vl : Nat) : Nat := if vl = 3 then 1 else vl + 1

/-- The lane that the rounds serve now, with what is left of its turn. The fuel is one round. -/
def Dev.roundLane (d : Dev) (p : Nat) (x : Port) : Nat → Nat → Nat → Option (Nat × Nat)
  | 0, _, _ => none
  | k + 1, vl, left =>
    if 0 < left ∧ x.ready vl then some (vl, left)
    else d.roundLane p x k (nextLane vl) (d.laneWeight p (nextLane vl))

/-- The lane that sends next: CTL, then the rounds unless the reservation holds them. -/
def Dev.egressLane (d : Dev) (p : Nat) (reserved : Bool) : Option (Nat × Nat) :=
  let x := d.port p
  if x.ready 0 then some (0, 0)
  else if reserved then none
  else d.roundLane p x 4 x.lane (if x.left = 0 ∧ x.lane = 1 then d.laneWeight p 1 else x.left)

/-- Credits that one header can return. -/
def Port.returned (x : Port) : List Nat := x.owed.map (fun n => min n 255)

/-- Send a frame: credits, NAK and ACKSEQ go with its header. -/
def Port.send (x : Port) (kind vl seq : Nat) (body : List Nat) : Port :=
  { x with wire := frameBytes (linkHeader kind vl seq x.rxSeq x.nak x.returned) body
           owed := x.owed.map (fun n => n - min n 255), nak := false, ackOwed := false }

/-- Resend the oldest frame still to be resent (R329). -/
def Dev.resendFrame (d : Dev) (p : Nat) : Dev :=
  let x := d.port p
  let i := x.replay.length - x.resend
  match x.replay[i]? with
  | none => d
  | some r =>
    let r' := { r with resent := r.resent + 1 }
    let x' := { x with replay := x.replay.set i r', resend := x.resend - 1 }
    let d := d.setPort p (x'.send 1 r.vl r.seq (packetBytes r.packet))
    let d := (d.fcount bzpReplaycntCount p 1).pgErr pBZP p bCE 0x1006 1 0 0
    if r'.resent = 8 then d.startRetrain p else d

/-- FRAME_TRANSMIT: an UP port sends its next frame. `reserved` says that the 2 % reservation leaves only CTL. With
nothing to send it returns acknowledgements and credits in an LCF. -/
def Dev.frameTransmit (d : Dev) (p : Nat) (reserved : Bool) : Dev :=
  let x := d.port p
  if x.state ≠ .up then d
  else if 0 < x.resend then d.resendFrame p
  else
    let lcf := d.setPort p (x.send 0 0 0 [])
    if 1024 ≤ x.replay.length then lcf
    else match d.egressLane p reserved with
      | none => lcf
      | some (vl, left) =>
        match x.nextIn vl with
        | none => lcf
        | some g =>
          let x : Port := if vl = 0 then x else
            { x with lane := (if left ≤ 1 then nextLane vl else vl)
                     left := (if left ≤ 1 then d.laneWeight p (nextLane vl) else left - 1) }
          let x : Port := { x with
            queue := x.queue.erase g
            localNext := x.localNext.set vl g.from_.isSome
            credit := x.credit.modify vl (· - 1)
            replay := x.replay ++ [Replay.mk x.txSeq vl g.packet 0]
            txSeq := (x.txSeq + 1) % 4096 }
          let d := d.setPort p (x.send 1 vl ((x.txSeq + 4095) % 4096) (packetBytes g.packet))
          match g.from_ with
          | some a => d.onPort a (fun y => y.freeBuffer vl)
          | none => d

end Sys2Proof.Machine
end

