-- ==== Sys2Proof/Machine/Channels.lean ====
section
/-! DEFINITION. Machine/Channels.lean: channels end to end: opening and closing, order and acknowledgement, refusal,
STOP and RESUME, flushes, slices, and the packets that write memory (R337 to R345). -/

namespace Sys2Proof.Machine

/-! ### Control packets -/

/-- Send a control packet on CTL (R336). -/
def Dev.control (d : Dev) (e dst op dchan schan arg : Nat) : Dev :=
  d.emit e 0
    { dst := dst, src := d.devId, op := op, flags := 0, dchan := dchan, schan := schan, seq := 0, len := 0, arg := arg
      payload := [] }

/-- Send a control packet to the peer of a channel. -/
def Dev.toPeer (d : Dev) (e c op arg : Nat) : Dev :=
  let x := d.chan e c
  d.control e x.peerId op x.peerChan c arg

/-- Acknowledge everything accepted so far (R338). -/
def Dev.sendAck (d : Dev) (e c : Nat) : Dev :=
  (d.toPeer e c 3 (((d.chan e c).rxSeq + 65535) % 65536)).onChan e c (fun x => { x with ackOwed := 0 })

/-- Answer a packet REFUSE with a status of Table 12-4 (R339). -/
def Dev.refuse (d : Dev) (e : Nat) (p : Packet) (status : Nat) : Dev :=
  (d.control e p.src 4 p.schan p.dchan (p.seq + status * 2 ^ 16)).fcount bzeRefusecntSent e 1

/-- A channel becomes FAILED. -/
def Dev.failChan (d : Dev) (e c cause : Nat) : Dev :=
  d.onChan e c (fun x =>
    { x with state := .failed, cause := cause, queue := [], unacked := [], again := 0, flushTo := none, timeouts := 0
             ackOwed := 0 })

/-- A channel becomes CLOSED: only what its registers hold remains. -/
def Channel.closed (x : Channel) (cause : Nat) : Channel := { Channel.reset with cfg := x.cfg, peer := x.peer, cause := cause }

/-! ### Opening and closing (R337) -/

/-- Channels of an engine that are not CLOSED (BZE.STAT.INUSE). -/
def Dev.inUse (d : Dev) (e : Nat) : Nat :=
  (d.brezin.chans.filter (fun k => decide (k.1 / 4096 = e) && k.2.state != .closed)).length

/-- LREG may be mirrored: no region, or a KEPT, BANKED, PLAIN or SCRATCH one (R340). -/
def Dev.mirrorable (d : Dev) (h : Nat) : Bool :=
  h == 0 || (match d.regionClass h with
    | some c => c == 0 || c == 1 || c == 3 || c == 4
    | none => false)

/-- An enable of channel `c` on engine `e`: accepted, or refused with its cause and EN left 0. -/
def Dev.enableChan (d : Dev) (e c : Nat) : Dev :=
  let x := d.chan e c
  let vl := bits x.cfg 1 2
  let lreg := bits x.cfg 16 12
  let refusal : Option Nat :=
    if (List.range 6).any (fun k => k != e && (d.chan k c).state != .closed) then some 6
    else if 1024 ≤ d.inUse e then some 7
    else if !d.hasId then some 8
    else if !d.mirrorable lreg then some 9
    else none
  match refusal with
  | some cause => d.setChan e c { x with cfg := x.cfg / 2 * 2, cause := cause }
  | none =>
    d.setChan e c { Channel.reset with
      cfg := x.cfg, peer := x.peer, state := .opening, vl := vl, peerChan := bits x.cfg 4 12, lreg := lreg, peerId := x.peer }

/-- CHCFG written on engine `e` for the channel that CHSEL names: the fields are stored, and EN opens, closes or clears
(R337). An OPENING channel that is disabled closes like an OPEN one (DESIGN CHOICE, log entry 30). -/
def Dev.chcfg (d : Dev) (e v : Nat) : Dev :=
  let c := d.fget bzeChselChannel e
  let vl := if bits v 1 2 = 0 then 2 else bits v 1 2
  let d := d.onChan e c (fun x => { x with cfg := b2n (bit v 0) + vl * 2 + bits v 4 12 * 16 + bits v 16 12 * 2 ^ 16 })
  let x := d.chan e c
  if bit v 0 then
    if x.state = .closed ∧ d.active pBZE e then d.enableChan e c else d
  else match x.state with
    | .failed => d.setChan e c (x.closed 0)
    | .opened | .opening => d.setChan e c { x with state := .closing }
    | _ => d

/-- CHPEER written: ignored unless the channel is CLOSED on every engine. -/
def Dev.chpeer (d : Dev) (e v : Nat) : Dev :=
  let c := d.fget bzeChselChannel e
  if (d.holder c).isNone then d.onChan e c (fun x => { x with peer := v % 2 ^ 20 }) else d

/-- CH_OPEN_RETRY: an OPENING channel sends CH_OPEN. -/
def Dev.openRetry (d : Dev) (e c : Nat) : Dev :=
  let x := d.chan e c
  if x.state = .opening then d.toPeer e c 5 x.vl else d

/-- OPENTMO_EXPIRY. -/
def Dev.openTimeout (d : Dev) (e c : Nat) : Dev :=
  if (d.chan e c).state = .opening then d.failChan e c 1 else d

/-- CLOSING_EXPIRY: every packet is acknowledged, or 20 ms have passed (`late`): CH_CLOSE, and CLOSED. -/
def Dev.closingExpiry (d : Dev) (e c : Nat) (late : Bool) : Dev :=
  let x := d.chan e c
  if x.state = .closing ∧ (late ∨ (x.unacked.isEmpty ∧ x.queue.isEmpty)) then
    let d := d.toPeer e c 7 0
    d.setChan e c ((d.chan e c).closed 0)
  else d

/-! ### The inbox of an engine -/

/-- Take the oldest packet of an engine if it has operation `op`. -/
def Dev.withHead (d : Dev) (e op : Nat) (f : Dev → Packet → Dev) : Dev :=
  match SMap.get [] e d.brezin.inbox with
  | p :: rest =>
    if p.op = op then
      f { d with brezin := { d.brezin with inbox := SMap.put [] e rest d.brezin.inbox } } p
    else d
  | [] => d

/-- The context is that of the packet's own channel pair. -/
def Channel.pairs (x : Channel) (p : Packet) : Bool := x.peerId == p.src % 2 ^ 20 && x.peerChan == p.schan % 4096

/-- The device refuses every packet: it is FAILED, or the engine is DRAINING or DISABLED (R339, R426). -/
def Dev.engineDown (d : Dev) (e : Nat) : Bool := d.phase == .failed || !d.active pBZE e

/-- The expected SEQ passes SEQs that were refused ahead of their turn. The fuel is their number. -/
def Channel.skipRefused (x : Channel) : Nat → Channel
  | 0 => x
  | k + 1 =>
    if x.ahead.contains x.rxSeq then
      ({ x with rxSeq := (x.rxSeq + 1) % 65536, ahead := x.ahead.filter (fun s => s != x.rxSeq) } : Channel).skipRefused k
    else x

/-- The expected SEQ has been dealt with. -/
def Channel.pass (x : Channel) : Channel :=
  ({ x with rxSeq := (x.rxSeq + 1) % 65536 } : Channel).skipRefused x.ahead.length

/-- A context has refused a SEQ, which its sender will not send again (R339): the expected SEQ passes it, at once or when it
comes to it (DEDUCED, log entry 119). -/
def Channel.passRefused (x : Channel) (s : Nat) : Channel :=
  if s = x.rxSeq then x.pass
  else if (x.rxSeq + 65536 - s) % 65536 ≤ 32768 ∨ x.ahead.contains s then x
  else { x with ahead := x.ahead ++ [s] }

/-- Refuse a packet whatever its SEQ: TARGET_RESETTING and UNIT_DISABLED. -/
def Dev.refuseAny (d : Dev) (e : Nat) (p : Packet) (status : Nat) : Dev :=
  let d := d.refuse e p status
  let x := d.chan e p.dchan
  if x.state = .opened ∧ x.pairs p then d.setChan e p.dchan (x.passRefused p.seq) else d

/-- The packet that arrives next in its channel's order, or the state that has dealt with it (R338, R339, R345). -/
def Dev.sequence (d : Dev) (e : Nat) (p : Packet) : Except Dev Nat :=
  let c := p.dchan
  let x := d.chan e c
  if d.engineDown e then .error (d.refuseAny e p 3)
  else if d.phase = .computeReset then .error (d.refuseAny e p 1)
  else if x.state ≠ .opened ∨ !x.pairs p then .error (d.refuse e p 5)
  else if p.seq = x.rxSeq then .ok c
  else
    let d := d.fcount bzeDupcntCount e 1
    -- behind the expected SEQ: a duplicate, acknowledged again; ahead of it: discarded
    .error (if (x.rxSeq + 65536 - p.seq) % 65536 ≤ 32768 then d.sendAck e c else d)

/-- The packet was performed: the next SEQ, and the acknowledgement after 16 (R338). -/
def Dev.accepted (d : Dev) (e c : Nat) : Dev :=
  let d := d.onChan e c (fun x => { x.pass with ackOwed := x.ackOwed + 1 })
  if 16 ≤ (d.chan e c).ackOwed then d.sendAck e c else d

/-- The packet is refused: the SEQ advances all the same (R339). -/
def Dev.notPerformed (d : Dev) (e c : Nat) (p : Packet) (status : Nat) : Dev :=
  (d.refuse e p status).onChan e c Channel.pass

/-- Receive a packet in order: `f` performs it, or answers a status of Table 12-4. -/
def Dev.receive (d : Dev) (e : Nat) (p : Packet) (f : Dev → Nat → Except Nat Dev) : Dev :=
  match d.sequence e p with
  | .error d' => d'
  | .ok c =>
    match f d c with
    | .ok d' => d'.accepted e c
    | .error st => d.notPerformed e c p st

/-- ACK_TIMER: the oldest unacknowledged packet has waited 1 µs. -/
def Dev.ackTimer (d : Dev) (e c : Nat) : Dev := if 0 < (d.chan e c).ackOwed then d.sendAck e c else d

/-! ### WRITE and ADD (R340) -/

/-- Perform a WRITE in the channel's region. -/
def Dev.performWritePacket (d : Dev) (e : Nat) (p : Packet) (c : Nat) : Except Nat Dev :=
  match d.writeRegion (d.chan e c).lreg p.arg p.payload (bit p.flags 6) with
  | some d' => .ok d'
  | none => .error 2

/-- Add the elements of a packet into a physical entry, first to last (R251, R253). -/
def Dev.addElements (d : Dev) (m : Mem) (h o : Nat) (f : Format) (poison : Bool) : List (List Nat) → Dev
  | [] => d
  | x :: xs =>
    let n := f.width / 8
    let k := if f = .binary64 then ReqKind.add64 else ReqKind.add32
    let spot (a : Nat) : List Nat := (List.range n).map (fun i => a + i)
    let a := (d.entry h).locate o
    let r : Req :=
      { tile := 0, tag := 0, seq := 0, kind := k, region := h, addrs := spot a, mirrors := [], val := ofLE x, mask := 0
        poison := poison, reads := [] }
    let d := (d.countAdd (stackOf a)).performAdd m r (spot a) |>.1
    let d := match d.mirrorOf h o with
      | some b => (d.performAdd m r (spot b)).1
      | none => d
    d.addElements m h (o + n) f poison xs

/-- Split bytes into groups of `n`. The fuel is their number. -/
def chunks (n : Nat) : Nat → List Nat → List (List Nat)
  | 0, _ => []
  | k + 1, bs => if bs.isEmpty then [] else bs.take n :: chunks n k (bs.drop n)

/-- Perform an ADD in the channel's region: FORMAT binary32 or binary64, offset and length whole elements. -/
def Dev.performAddPacket (d : Dev) (m : Mem) (e : Nat) (p : Packet) (c : Nat) : Except Nat Dev :=
  let fmt := bits p.arg 48 8
  let o := p.arg % 2 ^ 48
  let f : Option Format := (Format.ofCode fmt).filter (fun f => f == .binary32 || f == .binary64)
  let name := (d.chan e c).lreg
  match f with
  | none => .error 2
  | some f =>
    let n := f.width / 8
    let h := d.resolve name
    if o % n ≠ 0 ∨ p.payload.length % n ≠ 0 then .error 2
    else match d.readRegion m name o p.payload.length with
      | none => .error 2
      | some _ => .ok (d.addElements m h o f (bit p.flags 6) (chunks n p.payload.length p.payload))

/-- WRITE: the oldest packet of engine `e` is a WRITE. -/
def Dev.writePacket (d : Dev) (e : Nat) : Dev :=
  d.withHead e 1 (fun d p => d.receive e p (fun d c => d.performWritePacket e p c))

/-- ADD_PACKET. -/
def Dev.addPacket (d : Dev) (m : Mem) (e : Nat) : Dev :=
  d.withHead e 2 (fun d p => d.receive e p (fun d c => d.performAddPacket m e p c))

/-! ### Acknowledgement, refusal, opening, closing, STOP and RESUME as they arrive -/

/-- A flush ends when its last packet is no longer held (R341). -/
def Channel.settleFlush (x : Channel) : Channel :=
  match x.flushTo with
  | some s =>
    if (x.unacked ++ x.queue).any (fun q => q.1.seq == s) then x else { x with flushTo := none, flushed := true }
  | none => x

/-- SEQ `a` lies at or before SEQ `s`, mod 2^16. -/
def seqUpTo (a s : Nat) : Bool := decide ((s + 65536 - a % 65536) % 65536 < 32768)

/-- Drop everything up to and including SEQ `s` (R338). -/
def releaseTo (l : List (Packet × Owner)) (s : Nat) : List (Packet × Owner) := l.filter (fun q => !seqUpTo q.1.seq s)

/-- ACK_PACKET. -/
def Dev.ackPacket (d : Dev) (e : Nat) : Dev :=
  d.withHead e 3 (fun d p =>
    let x := d.chan e p.dchan
    if x.state = .closed ∨ x.state = .failed ∨ !x.pairs p then d
    else
      let keep := releaseTo x.unacked (p.arg % 65536)
      let progress := decide (keep.length < x.unacked.length)
      let x := { x with unacked := keep, again := min x.again keep.length, resetting := false
                        timeouts := if progress then 0 else x.timeouts }
      d.setChan e p.dchan x.settleFlush)

/-- REFUSE: what the sender does with a refusal, with the packet it releases (R339). -/
def Dev.refused (d : Dev) (e : Nat) (p : Packet) : Dev × Option (Packet × Owner) :=
  let c := p.dchan
  let x := d.chan e c
  let s := p.arg % 65536
  let st := bits p.arg 16 8
  if x.state = .closed ∨ x.state = .failed ∨ !x.pairs p then (d, none)
  else
    let d := d.fcount bzeRefusecntRcvd e 1
    let hit := x.unacked.find? (fun q => q.1.seq == s)
    if st = 1 then
      let i := x.unacked.findIdx (fun q => q.1.seq == s)
      let x := { x with
        resetting := true
        unacked := x.unacked.filter (fun q => q.1.seq != s)
        again := if hit.isSome && decide (x.unacked.length - x.again ≤ i) then x.again - 1 else x.again
        timeouts := 0
        flushTo := match x.flushTo with
          | some f => if hit.isSome && seqUpTo s f then none else some f
          | none => none
        refused := match hit with
          | some (_, .tile t _) => if x.refused.contains t then x.refused else x.refused ++ [t]
          | _ => x.refused }
      (d.setChan e c x, hit)
    else (d.failChan e c (if st = 5 then 4 else 2), hit)

/-- CH_OPEN arrives: answered, refused on a mismatch, ignored where no context exists (DEDUCED, log entry 31). The SEQ
counters of an accepted enable stand at 0, and packets submitted since then are queued from 0 on. -/
def Dev.chOpen (d : Dev) (e : Nat) : Dev :=
  d.withHead e 5 (fun d p =>
    if d.engineDown e then d.refuse e p 3
    else
      let x := d.chan e p.dchan
      if x.state = .closed then d
      else if (x.state = .opening ∨ x.state = .opened) ∧ x.pairs p ∧ x.vl = p.arg % 4 then
        let d := if x.state = .opening then d.setChan e p.dchan { x with state := .opened } else d
        d.toPeer e p.dchan 6 0
      else d.refuse e p 4)

/-- CH_OPENACK arrives. -/
def Dev.chOpenAck (d : Dev) (e : Nat) : Dev :=
  d.withHead e 6 (fun d p =>
    let x := d.chan e p.dchan
    if x.state = .opening ∧ x.pairs p then d.setChan e p.dchan { x with state := .opened } else d)

/-- CH_CLOSE arrives. -/
def Dev.chClose (d : Dev) (e : Nat) : Dev :=
  d.withHead e 7 (fun d p =>
    let x := d.chan e p.dchan
    if x.state = .closed ∨ x.state = .failed ∨ !x.pairs p then d else d.failChan e p.dchan 4)

/-- STOP or RESUME on the channels that a packet names (R342). -/
def Dev.stopNamed (d : Dev) (src dchan : Nat) (v : Bool) : Dev :=
  { d with brezin := { d.brezin with
      chans := d.brezin.chans.map (fun k =>
        if k.2.state != .closed && (if dchan = 0xFFF then k.2.peerId == src else k.1 % 4096 == dchan) then
          (k.1, { k.2 with stopped := v }) else k) } }

/-- STOP_PACKET. -/
def Dev.stopPacket (d : Dev) (e : Nat) : Dev := d.withHead e 8 (fun d p => d.stopNamed (p.src % 2 ^ 20) p.dchan true)

/-- RESUME_PACKET. -/
def Dev.resumePacket (d : Dev) (e : Nat) : Dev := d.withHead e 9 (fun d p => d.stopNamed (p.src % 2 ^ 20) p.dchan false)

/-! ### Sending (R338, R341, R343) -/

/-- Submit a packet to a channel that is OPEN, or OPENING and will send it later: it takes the next SEQ. False where the
channel or its engine takes none. -/
def Dev.submit (d : Dev) (e c op arg : Nat) (payload : List Nat) (poison : Bool) (o : Owner) : Dev × Bool :=
  let x := d.chan e c
  if (x.state ≠ .opened ∧ x.state ≠ .opening) ∨ !d.active pBZE e then (d, false)
  else
    let p : Packet :=
      { dst := x.peerId, src := d.devId, op := op, flags := b2n poison * 64, dchan := x.peerChan, schan := c, seq := x.txSeq
        len := payload.length, arg := arg, payload := payload }
    (d.setChan e c { x with queue := x.queue ++ [(p, o)], txSeq := (x.txSeq + 1) % 65536 }, true)

/-- Drop the queued packets that `p` holds of; those that stay take the SEQs that follow the sent ones. -/
def Channel.dropQueued (x : Channel) (p : Owner → Bool) : Channel :=
  let first := (x.txSeq + 65536 - x.queue.length % 65536) % 65536
  let keep := x.queue.filter (fun q => !p q.2)
  let flush := match x.flushTo with
    | some s =>
      if x.queue.any (fun q => q.1.seq == s) then
        let before := (x.queue.takeWhile (fun q => q.1.seq != s)).length + 1
        some ((first + ((x.queue.take before).filter (fun q => !p q.2)).length + 65535) % 65536)
      else some s
    | none => none
  { x with queue := keep.zipIdx.map (fun (q, i) => ({ q.1 with seq := (first + i) % 65536 }, q.2))
           txSeq := (first + keep.length) % 65536, flushTo := flush }

/-- Bytes of packet buffer that an engine's channels hold: headers and payloads (R340; what counts is a DESIGN CHOICE,
log entry 69). -/
def Dev.bufferUse (d : Dev) (e : Nat) : Nat :=
  d.brezin.chans.foldl (fun n k =>
    if k.1 / 4096 = e then
      (k.2.queue ++ k.2.unacked).foldl (fun n q => n + 24 + q.1.payload.length) n
    else n) 0

/-- An engine's packet buffer. -/
def engineBuffer : Nat := 4 * 2 ^ 20

/-- CHFLUSH.GO for the selected channel: the last queued SEQ is recorded (R341). -/
def Dev.chflush (d : Dev) (e : Nat) : Dev :=
  let c := d.fget bzeChselChannel e
  let x := d.chan e c
  if x.state = .opened ∨ x.state = .closing then
    d.setChan e c ({ x with flushed := false, flushTo := some ((x.txSeq + 65535) % 65536) } : Channel).settleFlush
  else d.setChan e c { x with flushed := false }

/-- CHRTO_EXPIRY: resend everything unacknowledged; at the fourth timeout without progress the channel fails. -/
def Dev.chanTimeout (d : Dev) (e c : Nat) : Dev :=
  let x := d.chan e c
  if (x.state = .opened ∨ x.state = .closing) ∧ !x.unacked.isEmpty then
    if 3 ≤ x.timeouts then d.failChan e c 3
    else
      (d.setChan e c { x with timeouts := x.timeouts + 1, again := x.unacked.length }).fcount bzeRetxcntCount e
        x.unacked.length
  else d

/-- A channel has a packet ready and may send it. -/
def Channel.ready (x : Channel) : Bool :=
  (x.state == .opened || x.state == .closing) && !x.stopped
    && (decide (0 < x.again) || (!x.queue.isEmpty && decide (x.unacked.length < 256)))

/-- Where a SLICE's `place` operand stands: a port, or 18 for what the router delivers here or drops. -/
def Route.place : Route → Nat
  | .port p => p
  | _ => 18

/-- The first of the channels in ascending order after `last`, wrapping (R343). -/
def nextServed (cs : List Nat) (last : Option Nat) : Option Nat :=
  match last with
  | none => cs.head?
  | some l => (cs.find? (fun c => decide (l < c))).or cs.head?

/-- SLICECNT counts a slice, in units of 1,024. -/
def Dev.countSlice (d : Dev) (e : Nat) : Dev :=
  let n := SMap.get 0 e d.brezin.slices + 1
  let d := { d with brezin := { d.brezin with slices := SMap.put 0 e (n % 1024) d.brezin.slices } }
  if n = 1024 then d.fcount bzeSlicecntCount e 1 else d

/-- SLICE: engine `e` starts a slice on lane `vl` of egress port `place`: one packet of the next ready channel. -/
def Dev.slice (d : Dev) (e vl place : Nat) : Dev :=
  let key := (e * 19 + place) * 4 + vl
  let cs := (d.brezin.chans.filter (fun k =>
    decide (k.1 / 4096 = e) && k.2.vl == vl && k.2.ready
      && (d.route k.2.peerId d.devId k.2.peerChan).place == place)).map (fun k => k.1 % 4096)
  match nextServed cs (SMap.find key d.brezin.lastServed) with
  | none => d
  | some c =>
    let x := d.chan e c
    let d := (d.countSlice e)
    let d := { d with brezin := { d.brezin with lastServed := SMap.insert key c d.brezin.lastServed } }
    if 0 < x.again then
      match x.unacked[x.unacked.length - x.again]? with
      | some (p, _) => (d.setChan e c { x with again := x.again - 1 }).emit e vl p
      | none => d
    else match x.queue with
      | (p, o) :: rest => (d.setChan e c { x with queue := rest, unacked := x.unacked ++ [(p, o)] }).emit e vl p
      | [] => d

/-! ### FENCE.P (R222, R341) -/

/-- The status with which a FENCE.P of tile `t` ends now, none while it waits: `xa` is X a, `seq` bounds the accesses that
count as earlier, `waiting` says that it has stalled before, `fenceD` that the FENCE.D condition holds. -/
def Dev.fencePStatus (d : Dev) (t xa seq : Nat) (waiting fenceD : Bool) : Option Nat :=
  if 4096 ≤ xa then some 1
  else match d.holder xa with
    | none => some (if waiting then 3 else 1)
    | some e =>
      let x := d.chan e xa
      let mine (q : Packet × Owner) : Bool := match q.2 with
        | .tile t' s => t' == t && decide (s < seq)
        | _ => false
      match x.state with
      | .failed => some 3
      | .opened | .closing =>
        if x.state = .closing ∧ !waiting then some 1
        else if !fenceD || (x.queue ++ x.unacked).any mine then none
        else if x.refused.contains t then some 2
        else some 0
      | _ => some 1

/-- A FENCE.P that has answered TARGET_RESETTING has reported it. -/
def Dev.clearRefused (d : Dev) (t c : Nat) : Dev :=
  match d.holder c with
  | some e => d.onChan e c (fun x => { x with refused := x.refused.filter (fun u => u != t) })
  | none => d

/-! ### Compute reset (R345) -/

/-- Packets queued and not sent are discarded and counted. -/
def Dev.dropUnsent (d : Dev) : Dev :=
  let d := (List.range 6).foldl (fun d e =>
    let n := d.brezin.chans.foldl (fun n k => if k.1 / 4096 = e then n + k.2.queue.length else n) 0
    if n = 0 then d else d.fcount bzeResetdropCount e n) d
  { d with brezin := { d.brezin with
      chans := d.brezin.chans.map (fun k =>
        (k.1, { k.2 with queue := [], txSeq := (k.2.txSeq + 65536 - k.2.queue.length % 65536) % 65536
                         flushTo := match k.2.flushTo with
                           | some s => if k.2.queue.any (fun q => q.1.seq == s) then none else some s
                           | none => none })) } }

end Sys2Proof.Machine
end

