-- ==== Sys2Proof/Machine/Matrix.lean ====
section
/-! DEFINITION. Machine/Matrix.lean: the matrix engine of a tile: operand windows, groups and the accumulator pair,
drains, ledger rows, the queue and its checks (R118 to R149). -/

namespace Sys2Proof.Machine

/-! ### Registers the matrix and vector slots share -/

/-- X register `n`; X0 reads 0 (Table 3-4). -/
def Tile.xr (t : Tile) (n : Nat) : Nat := if n = 0 then 0 else (SMap.get 0 n t.core.x).toNat

/-- DS register `n`. -/
def Tile.dsr (t : Tile) (n : Nat) : Nat := SMap.get 0 n t.core.ds

/-- 2,048 one bits: M0 (R56). -/
def allOnes2048 : Nat := 2 ^ 2048 - 1

/-- M register `n`; M0 reads all ones (R56). -/
def Tile.mr (t : Tile) (n : Nat) : Nat := if n = 0 then allOnes2048 else SMap.get 0 n t.vx.m

/-- The poison bit of M register `n` (R153). -/
def Tile.mPoisoned (t : Tile) (n : Nat) : Bool := n != 0 && SMap.get false n t.vx.mPoison

/-- The step open on the tile, 0 if none is (R104). -/
def Tile.stepNumber (t : Tile) : Nat := t.store.openStep.getD 0

/-! ### Modes -/

/-- The width class of a matrix operand: 64, 32, 16, 8 or 4 (6- and 4-bit formats). -/
def Format.mxClass (f : Format) : Nat := if f.width = 6 then 4 else f.width

/-- The products per cell cycle and the accumulator mode (1 S, 2 D) of a pair of formats (Table 5-1). -/
def mxMode (fa fb : Format) : Option (Nat × Nat) :=
  if !fa.matrixOperand || !fb.matrixOperand then none
  else
    match max fa.mxClass fb.mxClass, min fa.mxClass fb.mxClass with
    | 64, 64 => some (1, 2)
    | 32, 32 => some (4, 1)
    | 16, _ => some (16, 1)
    | 8, _ => some (32, 1)
    | 4, _ => some (64, 1)
    | _, _ => none

/-- The accumulator format of a mode. -/
def accFormat (mode : Nat) : Format := if mode = 2 then .binary64 else .binary32

/-! ### One group and the accumulator pair (R128 to R132) -/

/-- Flag bits of a cell. -/
def fNAN : Nat := 1
/-- Positive infinity. -/
def fPINF : Nat := 2
/-- Negative infinity. -/
def fNINF : Nat := 4
/-- Poison. -/
def fPOISON : Nat := 8

/-- Round to nearest even in an accumulator format; a tie with `sigma` set goes to the larger magnitude. None: the
magnitude passes the largest finite value. −0 becomes +0 (R130, R131). -/
def roundAcc (f : Format) (sigma : Bool) (v : Val) : Option Nat :=
  match v with
  | .fin neg m e =>
    if m = 0 then some 0
    else
      let s := f.shape
      let ue := max ((m.log2 : Int) + e - (s.mant : Int)) s.minUnit
      let sh := (ue - e).toNat
      let tie := decide (e < ue) && decide (2 * (m % 2 ^ sh) = 2 ^ sh)
      let n := if tie && sigma then m / 2 ^ sh + 1 else (roundMag .rne neg 0 m e ue).1
      let c := (ue - s.minUnit).toNat * 2 ^ s.mant + n
      if s.maxCode < c then none
      else if c = 0 then some 0 else some (f.withSign neg c)
  | _ => none

/-- The exact window sum of a group and its sticky bit (R129); `modeD` keeps the exact product. -/
def groupSum (modeD : Bool) (ps : List Val) : Val × Bool :=
  let fin := ps.filter Val.isNonzero
  match fin with
  | [] => (.zero, false)
  | p :: rest =>
    if modeD then (p, false)
    else
      let top := rest.foldl (fun a q => max a q.lead) p.lead
      let w := top - 72
      let cut (v : Val) : Int × Bool := match v with
        | .fin neg m e =>
          if w ≤ e then (signMag neg (m * 2 ^ (e - w).toNat), false)
          else
            let sh := (w - e).toNat
            (signMag neg (m / 2 ^ sh), m % 2 ^ sh != 0)
        | _ => (0, false)
      let sum := fin.foldl (fun a v => a + (cut v).1) 0
      (ofSigned false sum w, fin.any (fun v => (cut v).2))

/-- The flags a product sets (R131). -/
def productFlags (p : Val) : Nat :=
  match p with
  | .nan => fNAN
  | .inf n => if n then fNINF else fPINF
  | .fin .. => 0

/-- Does a cell hold NAN, PINF or NINF? -/
def Cell.special (c : Cell) : Bool := c.flags % 8 != 0

/-- Add one group to a cell (R130, R131, R132). `poison`: a poisoned operand word or scale feeds the group. -/
def Cell.addGroup (mode : Nat) (c : Cell) (ps : List Val) (poison : Bool) : Cell :=
  let f := accFormat mode
  let flags0 := if poison then c.flags ||| fPOISON else c.flags
  let flags := ps.foldl (fun a p => a ||| productFlags p) flags0
  -- once a special flag is set before this group, its finite part is ignored
  if c.special then { c with flags := flags }
  else
    let (t, sigma) := groupSum (mode == 2) ps
    let x := Val.add false (f.decode c.v) t
    match roundAcc f sigma x with
    | none => { c with flags := flags ||| (if x.sign then fNINF else fPINF) }
    | some s =>
      let r := Val.add false x (f.decode s).neg
      let cr := Val.add false (f.decode c.c) r
      match roundAcc f false cr with
      | none => { c with flags := flags ||| (if cr.sign then fNINF else fPINF) }
      | some k => ⟨s, k, flags⟩

/-- Cut a list into groups of `p`; the fuel is the list's length. -/
def groupsOf {α : Type} (p : Nat) : Nat → List α → List (List α)
  | 0, _ => []
  | k + 1, l => match l with
    | [] => []
    | _ => l.take p :: groupsOf p k (l.drop p)

/-- One cell after a whole MMA: the groups of its row of A and its row of B in ascending K (R128, R133). -/
def Cell.mma (p mode : Nat) (predPoison : Bool) (c : Cell) (a b : OperandRow) : Cell :=
  let terms := (a.vals.zip b.vals).zip (a.poison.zip b.poison)
  let groups := groupsOf p terms.length terms
  let c := if predPoison then { c with flags := c.flags ||| fPOISON } else c
  groups.foldl (fun c g =>
    c.addGroup mode (g.map (fun x => Val.mul x.1.1 x.1.2)) (g.any (fun x => x.2.1 || x.2.2))) c

/-! ### Drains (R136 to R139) -/

/-- The exact value a drain rounds (Table 5-7). -/
def Cell.value (mode : Nat) (c : Cell) : Val :=
  let f := accFormat mode
  let nan := bit c.flags 0
  let pinf := bit c.flags 1
  let ninf := bit c.flags 2
  if nan || (pinf && ninf) then .nan
  else if pinf then .inf false
  else if ninf then .inf true
  else Val.add false (f.decode c.v) (f.decode c.c)

/-- The POISON flag. -/
def Cell.poisoned (c : Cell) : Bool := bit c.flags 3

/-- Cell (i, j) is enabled by the predicate (R124). -/
def cellEnabled (pred i j : Nat) : Bool := bit pred i && bit pred (64 + j)

/-- The formats DRAIN.T accepts (R138). -/
def drainTFormat : Nat → Option Format
  | 0x01 => some .binary64
  | 0x02 => some .binary32
  | 0x03 => some .binary16
  | 0x04 => some .bfloat16
  | _ => none

/-- The formats DRAIN.S accepts: any floating format of Table 4-1, or INT8S (R139). -/
def drainSFormat (code : Nat) : Option Format :=
  (Format.ofCode code).filter (fun f => f.isFloat || f == .int8s)

/-- The mode of an accumulator. -/
def Matrix.accMode (x : Matrix) (acc : Nat) : Nat := if acc = 0 then x.pingMode else x.pongMode

/-- The cells of an accumulator. -/
def Matrix.accCells (x : Matrix) (acc : Nat) : SMap Cell := if acc = 0 then x.ping else x.pong

/-- Replace an accumulator. -/
def Matrix.setAcc (x : Matrix) (acc mode : Nat) (cells : SMap Cell) : Matrix :=
  if acc = 0 then { x with pingMode := mode, ping := cells } else { x with pongMode := mode, pong := cells }

/-- Counts of what an operation wrote: canonical NaNs, and overflowed or saturated elements (R109). -/
structure SpecialCount where
  nans : Nat
  ovfs : Nat
  deriving DecidableEq, Repr

/-- No specials. -/
def SpecialCount.zero : SpecialCount := ⟨0, 0⟩

/-- Count one element. -/
def SpecialCount.count (s : SpecialCount) (k : OutKind) : SpecialCount :=
  match k with
  | .plain => s
  | .nan => { s with nans := s.nans + 1 }
  | .ovf => { s with ovfs := s.ovfs + 1 }

/-- Every cell coordinate in ascending rows. -/
def cellIndexes (rows cols : Nat) : List (Nat × Nat) :=
  (List.range rows).flatMap (fun i => (List.range cols).map (fun j => (i, j)))

/-- DRAIN.T (R138): round every enabled cell of rows below `limit` into T register `dest`. -/
def Tile.drainT (t : Tile) (o : MxItem) (limit : Nat) : Tile × SpecialCount × Bool :=
  let f := (drainTFormat o.fmt).getD .binary32
  let nm := NMode.ofWord o.nmode
  let mode := t.mx.accMode o.acc
  let cells := t.mx.accCells o.acc
  (cellIndexes 64 64).foldl (fun (st : Tile × SpecialCount × Bool) (ij : Nat × Nat) =>
    let (i, j) := ij
    let (t, sc, de) := st
    if !cellEnabled o.pred i j || decide (limit ≤ i) then st
    else
      let cell := SMap.get Cell.zero (64 * i + j) cells
      let pos := 64 * i + j
      let (code, kind) := f.round nm (nm.stoch o.step o.ibase pos) (cell.value mode)
      let code := f.plusZero code
      let p := cell.poisoned || o.predPoison
      let put (tt : SMap Nat) (reg v : Nat) : SMap Nat := SMap.put 0 (4096 * reg + pos) v tt
      let tt := put t.vx.t o.dest (code % 2 ^ 32)
      let tt := if f = .binary64 then put tt (o.dest + 1) (code / 2 ^ 32) else tt
      let tp := SMap.put false (4096 * o.dest + pos) p t.vx.tPoison
      let tp := if f = .binary64 then SMap.put false (4096 * (o.dest + 1) + pos) p tp else tp
      ({ t with vx := { t.vx with t := tt, tPoison := tp } }, sc.count kind, de || p)) (t, .zero, false)

/-- The cells of a DRAIN.S window grouped into the blocks of its descriptor; a format without block scales has blocks
of one (R139). Each block lists (i, j) with its position. -/
def drainBlocks (d : Desc) (i0 j0 rows cols : Nat) : List (List (Nat × Nat)) :=
  if !d.fmt.blockScaled then (cellIndexes rows cols).map (fun x => [x])
  else
    let c0 := d.siz.extent 0
    let c1 := d.siz.extent 1
    (cellIndexes (ceilDiv rows c1) (ceilDiv cols c0)).map (fun (bi, bj) =>
      (cellIndexes c1 c0).filterMap (fun (i, j) =>
        let i := bi * c1 + i
        let j := bj * c0 + j
        if i < rows ∧ j < cols ∧ i0 + i < d.dim 1 ∧ j0 + j < d.dim 0 then some (i, j) else none))

/-- The extents of a DRAIN.S window (R139). -/
def drainExtents (d : Desc) (i0 j0 : Nat) : Nat × Nat := (min 64 (d.dim 1 - i0), min 64 (d.dim 0 - j0))

/-- What one block of a DRAIN.S writes: nothing where it is disabled. -/
structure BlockWrite where
  writes : List TsWrite
  kinds : List OutKind
  poison : Bool
  deriving DecidableEq, Repr

/-- DRAIN.S (R139): round the blocks whose first row lies below `limit` into the tile-store window. -/
def Tile.drainS (t : Tile) (o : MxItem) (limit : Nat) : Tile × SpecialCount × Bool :=
  let d := Desc.ofBits o.descA
  let f := d.fmt
  let nm := NMode.ofWord o.nmode
  let mode := t.mx.accMode o.acc
  let cells := t.mx.accCells o.acc
  let (rows, cols) := drainExtents d o.rowB o.rowA
  let place (x : Nat × Nat) : List Nat := [o.rowA + x.2, o.rowB + x.1]
  let block (blk : List (Nat × Nat)) : BlockWrite :=
    let cs := blk.map (fun (i, j) => SMap.get Cell.zero (64 * i + j) cells)
    let vs := cs.map (fun c => c.value mode)
    let rs := blk.map (fun (i, j) => nm.stoch o.step o.ibase (64 * i + j))
    let bad := cs.any Cell.poisoned || o.predPoison
    let (scale, outs) := f.encodeRun nm vs rs
    let elems := (blk.zip (outs.zip cs)).flatMap (fun (x, (code, _), c) =>
      d.elementWrites (place x) (f.plusZero code) (c.poisoned || o.predPoison))
    ⟨elems ++ (if f.blockScaled then (blk.head?.map (fun x => d.scaleWrite (place x) scale bad)).toList else []),
      outs.map (·.2), bad⟩
  let on (blk : List (Nat × Nat)) : Bool :=
    blk.any (fun (i, j) => cellEnabled o.pred i j) && decide ((blk.head?.map (·.1)).getD 0 < limit)
  let bs := ((drainBlocks d o.rowB o.rowA rows cols).filter on).map block
  (t.writeAll (bs.flatMap BlockWrite.writes), (bs.flatMap BlockWrite.kinds).foldl SpecialCount.count .zero,
    bs.any BlockWrite.poison)

/-! ### Operand windows -/

/-- The rows of an operand window as the array reads them (R120, R121, R132). -/
def Tile.operandRows (t : Tile) (raw row0 k0 len : Nat) : List OperandRow :=
  let d := Desc.ofBits raw
  (List.range (min 64 (d.dim 1 - row0))).map (fun i =>
    let es := (List.range len).map (fun k => t.elementVal d [k0 + k, row0 + i])
    ⟨es.map (·.1), es.map (·.2)⟩)

/-- An MMA captures its operand bytes while it occupies the array (R122): here, when it enters it. -/
def Tile.captureMma (t : Tile) (o : MxItem) : MxItem :=
  { o with a := t.operandRows o.descA o.rowA o.k0 o.len, b := t.operandRows o.descB o.rowB o.k0 o.len }

/-- The mode and products per cycle of a captured MMA. -/
def MxItem.modeOf (o : MxItem) : Nat × Nat :=
  (mxMode (Desc.ofBits o.descA).fmt (Desc.ofBits o.descB).fmt).getD (1, 2)

/-- MMA (R120, R124, R130): every enabled cell adds its groups; Z first clears every cell. It consumes poison where an
enabled cell reads a poisoned row or the predicate is poisoned (R132, R177). -/
def Tile.mmaDone (t : Tile) (o : MxItem) : Tile × Bool :=
  let (p, mode) := o.modeOf
  let cells0 := if o.zero then [] else t.mx.accCells o.acc
  let (cells, de) := (cellIndexes o.a.length o.b.length).foldl (fun (st : SMap Cell × Bool) (ij : Nat × Nat) =>
    let (i, j) := ij
    if cellEnabled o.pred i j then
      let c0 := SMap.get Cell.zero (64 * i + j) st.1
      let ra := o.a.getD i ⟨[], []⟩
      let rb := o.b.getD j ⟨[], []⟩
      (SMap.put Cell.zero (64 * i + j) (c0.mma p mode o.predPoison ra rb) st.1,
        st.2 || o.predPoison || ra.poison.any id || rb.poison.any id)
    else st) (cells0, false)
  ({ t with mx := t.mx.setAcc o.acc mode cells }, de)

/-- The array cc an MMA occupies (Table 5-5); `slow` is the G7-T's mode D. -/
def MxItem.arrayCc (o : MxItem) (slow : Bool) : Nat :=
  let (p, mode) := o.modeOf
  max 1 (ceilDiv o.len p) * (if slow && mode == 2 then 4 else 1)

/-! ### Ledger rows (R141, R142) -/

/-- The key of a row's tag: mode 1 S, 2 D. -/
def rowKey (mode row : Nat) : Nat := mode * 256 + row

/-- The rows of the other mode that a row overlaps (R141). -/
def overlapKeys (mode row : Nat) : List Nat :=
  if mode = 2 then [rowKey 1 (2 * row), rowKey 1 (2 * row + 1)] else [rowKey 2 (row / 2)]

/-- The mode in which a row is valid, if it is. D row n and S row n are different memory unless n is 0, so both can be
valid at once; ACCLD names no mode, and the spec does not say which it takes then (DESIGN CHOICE: free, log entry 15). -/
def rowModeOf (valid : SMap Bool) (row : Nat) : Option Nat :=
  match decide (row < 128) && SMap.get false (rowKey 2 row) valid, SMap.get false (rowKey 1 row) valid with
  | true, true => some (if Config.ledgerTie row then 2 else 1)
  | true, false => some 2
  | false, true => some 1
  | false, false => none

/-- ACCST tags (R141, R142). -/
def tagStore (valid : SMap Bool) (mode row : Nat) : SMap Bool :=
  SMap.put false (rowKey mode row) true ((overlapKeys mode row).foldl (fun v k => SMap.put false k false v) valid)

/-- ACCINV tags: the row and every overlapping row of the other mode (R141). -/
def tagInvalidate (valid : SMap Bool) (mode row : Nat) : SMap Bool :=
  SMap.put false (rowKey mode row) false ((overlapKeys mode row).foldl (fun v k => SMap.put false k false v) valid)

/-- Copy 4,096 cells between two stores of cells. -/
def copyCells (src : SMap Cell) (srcBase : Nat) (dst : SMap Cell) (dstBase : Nat) : SMap Cell :=
  (List.range 4096).foldl (fun m i =>
    SMap.put Cell.zero (dstBase + i) (SMap.get Cell.zero (srcBase + i) src) m) dst

/-- ACCLD (R142): the row stays valid. `bad` lists cells whose memory word held a double-bit error (R144). -/
def Tile.accld (t : Tile) (o : MxItem) (bad : List Nat) : Tile :=
  let mode := (rowModeOf t.mx.rowValid o.row).getD 1
  let cells := copyCells t.mx.rows (rowKey mode o.row * 4096) [] 0
  let cells := bad.foldl (fun m i =>
    let c := SMap.get Cell.zero i m
    SMap.put Cell.zero i { c with flags := c.flags ||| fPOISON } m) cells
  { t with mx := t.mx.setAcc o.acc mode cells }

/-- ACCST (R142). -/
def Tile.accst (t : Tile) (o : MxItem) : Tile :=
  let mode := t.mx.accMode o.acc
  let rows := copyCells (t.mx.accCells o.acc) 0 t.mx.rows (rowKey mode o.row * 4096)
  { t with mx := { t.mx with rows := rows, rowValid := tagStore t.mx.rowValid mode o.row } }

/-- ACCINV (R142). -/
def Tile.accinv (t : Tile) (o : MxItem) : Tile :=
  { t with mx := { t.mx with rowValid := tagInvalidate t.mx.rowValid o.mode o.row } }

/-! ### Checks at issue (R120, R123, R125) -/

/-- The accumulator and row state that the checks see (R125). -/
structure AccView where
  ping : Nat
  pong : Nat
  rows : SMap Bool
  deriving DecidableEq, Repr

/-- The mode of an accumulator in a view. -/
def AccView.mode (v : AccView) (acc : Nat) : Nat := if acc = 0 then v.ping else v.pong

/-- Set the mode of an accumulator in a view. -/
def AccView.setMode (v : AccView) (acc m : Nat) : AccView :=
  if acc = 0 then { v with ping := m } else { v with pong := m }

/-- The view after one more operation. -/
def AccView.after (v : AccView) (o : MxItem) : AccView :=
  match o.kind with
  | .mma => if o.zero then v.setMode o.acc o.modeOf.2 else v
  | .drainT | .drainS => v
  | .accld => v.setMode o.acc ((rowModeOf v.rows o.row).getD 1)
  | .accst => { v with rows := tagStore v.rows (v.mode o.acc) o.row }
  | .accinv => { v with rows := tagInvalidate v.rows o.mode o.row }

/-- The state after every earlier MX operation of the tile, as if all had completed (R125). -/
def Matrix.planned (x : Matrix) : AccView :=
  (x.tail ++ x.array.toList ++ x.port.toList ++ x.queue ++ x.waitEntry).foldl AccView.after
    ⟨x.pingMode, x.pongMode, x.rowValid⟩

/-- An item with nothing captured. -/
def MxItem.blank (kind : MxKind) (acc : Nat) : MxItem where
  kind := kind
  acc := acc
  pred := 0
  predPoison := false
  nmode := 0
  step := 0
  ibase := 0
  fmt := 0
  descA := 0
  descB := 0
  rowA := 0
  rowB := 0
  k0 := 0
  len := 0
  zero := false
  dest := 0
  row := 0
  mode := 0
  a := []
  b := []

/-- A matrix exception, slot 6. -/
def mxExc (cause addr : Nat) : Exc := ⟨cause, 6, addr⟩

/-- EXC.ADDR of MX_ACCMODE: the accumulator in [0], the row in [15:8] (Table 5-4). -/
def accModeAddr (acc row : Nat) : Nat := acc + row * 256

/-- The check of one MMA operand (R120): REGION, RANK, row start and K range, and R98. -/
def mmaOperandCheck (raw ds row0 k0 len : Nat) : Option Exc :=
  let d := Desc.ofBits raw
  let rows := min 64 (d.dim 1 - row0)
  if d.region ≠ 0xFFFF ∨ d.rank ≠ 1 then some (mxExc cMxOperand ds)
  else if d.dim 1 ≤ row0 then some (mxExc cBounds ds)
  else if d.dim 0 < k0 + len ∨ 2 ^ 32 ≤ k0 + len then some (mxExc cBounds ds)
  else if !d.blockAligned [k0, row0] [len, rows] then some (mxExc cBounds ds)
  else none

/-- Check and capture an MX operation at issue or preparation (R119, R120, R123 to R125, R138, R139, R143). A disabled
cell is skipped at execution; the predicate register itself is captured with its poison (R177). -/
def Tile.mxCheck (t : Tile) (pred : Nat) (o : MatrixOp) : Except Exc MxItem :=
  let v := t.mx.planned
  let base (k : MxKind) (acc : Nat) : MxItem :=
    { MxItem.blank k acc with
      pred := t.mr pred, predPoison := t.mPoisoned pred, nmode := t.core.nmode, step := t.stepNumber }
  let ledger (k : MxKind) (r acc mode : Nat) : Except Exc MxItem :=
    let row := t.xr r
    let m := match k with
      | .accst => v.mode acc
      | .accld => (rowModeOf v.rows row).getD 1
      | _ => mode
    if pred ≠ 0 then .error (mxExc cMxMask 0)
    else if !t.mx.ledgerRole then .error (mxExc cMxNoLedger 0)
    else if 256 ≤ row then .error (mxExc cMxAccRow row)
    else if m = 2 ∧ 128 ≤ row ∧ k ≠ .accld then .error (mxExc cMxAccRow row)
    else if k = .accst ∧ m = 0 then .error (mxExc cMxAccMode (accModeAddr acc row))
    else if k = .accld ∧ rowModeOf v.rows row = none then .error (mxExc cMxAccMode (accModeAddr acc row))
    else .ok { base k acc with row := row, mode := m }
  match o with
  | .nop => .error (mxExc cIllegalOp 0)
  | .mma _ dsa dsb xs acc z _ =>
    let s0 := t.xr xs
    let s1 := t.xr (xs + 1)
    let rowA := bits s0 0 32
    let rowB := bits s0 32 32
    let k0 := bits s1 0 32
    let len := bits s1 32 32
    let da := t.dsr dsa
    let db := t.dsr dsb
    match mmaOperandCheck da dsa rowA k0 len, mmaOperandCheck db dsb rowB k0 len with
    | some e, _ => .error e
    | none, some e => .error e
    | none, none =>
      match mxMode (Desc.ofBits da).fmt (Desc.ofBits db).fmt with
      | none => .error (mxExc cMxFormat (if (Desc.ofBits da).fmt.matrixOperand then dsb else dsa))
      | some (_, mode) =>
        if !z ∧ v.mode acc ≠ mode then .error (mxExc cMxAccMode acc)
        else .ok { base .mma acc with
          descA := da, descB := db, rowA := rowA, rowB := rowB, k0 := k0, len := len, zero := z, mode := mode }
  | .drainT d xi fmt acc =>
    match drainTFormat fmt with
    | none => .error (mxExc cMxFormat fmt)
    | some _ =>
      if v.mode acc = 0 then .error (mxExc cMxAccMode acc)
      else .ok { base .drainT acc with dest := d, ibase := t.xr xi, fmt := fmt }
  | .drainS ds xs xi acc =>
    let raw := t.dsr ds
    let d := Desc.ofBits raw
    let s0 := t.xr xs
    let j0 := bits s0 0 32
    let i0 := bits s0 32 32
    if d.region ≠ 0xFFFF ∨ d.rank ≠ 1 then .error (mxExc cMxOperand ds)
    else if (drainSFormat d.format).isNone then .error (mxExc cMxFormat ds)
    else if d.dim 0 ≤ j0 ∨ d.dim 1 ≤ i0 then .error (mxExc cBounds ds)
    else
      let (rows, cols) := drainExtents d i0 j0
      if !d.blockAligned [j0, i0] [cols, rows] then .error (mxExc cBounds ds)
      else if v.mode acc = 0 then .error (mxExc cMxAccMode acc)
      else if d.fmt.blockScaled && (drainBlocks d i0 j0 rows cols).any (fun b =>
          b.any (fun (i, j) => cellEnabled (t.mr pred) i j) && !b.all (fun (i, j) => cellEnabled (t.mr pred) i j)) then
        .error (mxExc cMxMask 0)
      else .ok { base .drainS acc with descA := raw, rowA := j0, rowB := i0, ibase := t.xr xi, fmt := d.format }
  | .accld r acc => ledger .accld r acc 0
  | .accst r acc => ledger .accst r acc 0
  | .accinv r mode => ledger .accinv r 0 (mode + 1)

/-! ### The queue (R126) -/

/-- Operations in the MX queue at most. -/
def mxQueueDepth : Nat := 4

/-- Put an item in the queue. -/
def Tile.mxEnqueue (t : Tile) (o : MxItem) : Tile := { t with mx := { t.mx with queue := t.mx.queue ++ [o] } }

/-- Does an item use the array? The others use the transfer port. -/
def MxItem.usesArray (o : MxItem) : Bool := o.kind == .mma

/-- The accumulators an item touches; ACCINV touches none. -/
def MxItem.touches (o : MxItem) (acc : Nat) : Bool := o.kind != .accinv && o.acc == acc

/-- The first queued item that uses the array (or the port), with the items before it. -/
def firstFor (useArray : Bool) : List MxItem → List MxItem → Option (List MxItem × MxItem × List MxItem)
  | _, [] => none
  | pre, o :: rest =>
    if o.usesArray = useArray then some (pre.reverse, o, rest) else firstFor useArray (o :: pre) rest

/-- May this item start, given the items queued before it? Every earlier operation on its accumulator has completed,
or it is an MMA that follows another MMA there (R126). -/
def Matrix.mayStart (x : Matrix) (pre : List MxItem) (o : MxItem) : Bool :=
  let same (q : MxItem) : Bool := q.touches o.acc && o.kind != .accinv
  !(pre.any same)
    && !(x.port.any (fun q => same q || !o.usesArray))
    && (o.usesArray || !((x.tail ++ x.array.toList).any same))

/-- Start the next MMA (or the next transfer) of the queue, if it may start (R126). An MMA that enters the array pushes
the one before it into the completion pipeline. A refilled queue takes MMAs of fired entries first (R127). -/
def Tile.mxStart (t : Tile) (useArray : Bool) : Tile :=
  match firstFor useArray [] t.mx.queue with
  | none => t
  | some (pre, o, rest) =>
    if !t.mx.mayStart pre o then t
    else
      let q := pre ++ rest
      let (fromWait, wait) := match t.mx.waitEntry with
        | [] => ([], [])
        | w :: ws => ([w], ws)
      let x := { t.mx with queue := q ++ fromWait, waitEntry := wait }
      if useArray then
        { t with mx := { x with tail := x.tail ++ x.array.toList, array := some (t.captureMma o) } }
      else { t with mx := { x with port := some o } }

/-- The MMA that completes next: the oldest in the completion pipeline, else the one in the array. -/
def Matrix.nextMma (x : Matrix) : Option (MxItem × Matrix) :=
  match x.tail with
  | o :: rest => some (o, { x with tail := rest })
  | [] => x.array.map (fun o => (o, { x with array := none }))

/-- Does a pending DRAIN.T write this T register (R126)? -/
def Matrix.pendingT (x : Matrix) (n : Nat) : Bool :=
  (x.queue ++ x.port.toList).any (fun o => o.kind == .drainT && (o.dest == n || (o.fmt == 1 && o.dest + 1 == n)))

/-- Nothing queued, in the array or on the port. -/
def Matrix.idle (x : Matrix) : Bool :=
  x.queue.isEmpty && x.array.isNone && x.tail.isEmpty && x.port.isNone && x.waitEntry.isEmpty

/-- A fired MMA.PREP enters the queue, or waits until an entry frees (R127). -/
def Tile.mxFire (t : Tile) (o : MxItem) : Tile :=
  if t.mx.queue.length < mxQueueDepth ∧ t.mx.waitEntry = [] then t.mxEnqueue o
  else { t with mx := { t.mx with waitEntry := t.mx.waitEntry ++ [o] } }

/-- Both accumulators EMPTY (R147, R148). -/
def Matrix.emptied (x : Matrix) : Matrix :=
  { x with pingMode := 0, pongMode := 0, ping := [], pong := [] }

/-- Discard on drain expiry or FORCE_STOP (R140, R147): the queue empties, a drain in progress keeps the rows below
`done` and counts what it wrote, an interrupted ACCST leaves its row and what it overlaps invalid, both accumulators become
EMPTY. An MMA in the array has occupied it for at most `done` cc, one past the array for all of its own. -/
def Tile.mxDiscard (t : Tile) (done : Nat) (slow : Bool) : Tile × SpecialCount × Bool :=
  let cc := (t.mx.tail.map (fun o => o.arrayCc slow)).sum + (t.mx.array.elim 0 (fun o => min done (o.arrayCc slow)))
  let (t, n, de) := match t.mx.port with
    | some o =>
      match o.kind with
      | .drainT => t.drainT o done
      | .drainS => t.drainS o done
      | .accst => ({ t with mx := { t.mx with rowValid := tagInvalidate t.mx.rowValid o.mode o.row } }, .zero, false)
      | _ => (t, .zero, false)
    | none => (t, .zero, false)
  ({ t with mx := { t.mx.emptied with
    queue := [], array := none, tail := [], port := none, waitEntry := [], busyCc := t.mx.busyCc + cc } }, n, de)

end Sys2Proof.Machine
end

