-- ==== Sys2Proof/Machine/Vector.lean ====
section
/-! DEFINITION. Machine/Vector.lean: the long-vector engine: elements, checks at issue, elementwise operations, masks,
conversions, reductions, scans, gathers and scatters, the bridge, and poison (R150 to R179). -/

namespace Sys2Proof.Machine

/-- V register `n` (8,192 bits). -/
def Tile.vr (t : Tile) (n : Nat) : Nat := SMap.get 0 n t.vx.v

/-- The poison bits of V register `n`, one per 64-bit word (R153). -/
def Tile.vPoisonOf (t : Tile) (n : Nat) : Nat := SMap.get 0 n t.vx.vPoison

/-- Element `e` of width `w` (R150). -/
def vElem (w v e : Nat) : Nat := bits v (w * e) w

/-- The element lies in a poisoned word. -/
def vElemPoison (w p e : Nat) : Bool := bit p (w * e / 64)

/-- One written element: its number, code and poison. -/
structure VWrite where
  e : Nat
  code : Nat
  poison : Bool
  deriving DecidableEq, Repr

/-- Write elements of width `w` into V register `d`. A word with a poisoned written element is poisoned; a word all of
whose elements are written without poison loses its poison (R153, R177; log entry 14). -/
def Tile.writeV (t : Tile) (d w : Nat) (ws : List VWrite) : Tile :=
  let v := ws.foldl (fun v x => putBits v (w * x.e) w x.code) (t.vr d)
  let per := 64 / w
  let words := (ws.map (fun x => w * x.e / 64)).eraseDups
  let p := words.foldl (fun p k =>
    let here := ws.filter (fun x => w * x.e / 64 == k)
    if here.any (fun x => x.poison) then p ||| 2 ^ k
    else if here.length = per then putBits p k 1 0 else p) (t.vPoisonOf d)
  { t with vx := { t.vx with v := SMap.put 0 d v t.vx.v, vPoison := SMap.put 0 d p t.vx.vPoison } }

/-- Write M register `d`; M0 discards it (R56). -/
def Tile.writeM (t : Tile) (d v : Nat) (poison : Bool) : Tile :=
  if d = 0 then t
  else { t with vx := { t.vx with m := SMap.put 0 d (v % 2 ^ 2048) t.vx.m, mPoison := SMap.put false d poison t.vx.mPoison } }

/-- Write bits [63:0] of V register `d`, its F overlay (R58, R166). -/
def Tile.writeF (t : Tile) (d code : Nat) (poison : Bool) : Tile := t.writeV d 64 [⟨0, code, poison⟩]

/-! ### Formats an operation accepts (R156) -/

/-- Class F. -/
def clsF (c : Nat) : Option Format := (Format.ofCode c).filter (fun f => 1 ≤ c && c ≤ 4 && f.isFloat)
/-- Class I. -/
def clsI (c : Nat) : Option Format := (Format.ofCode c).filter Format.isInt
/-- Class F or I. -/
def clsFI (c : Nat) : Option Format := (clsF c).orElse (fun _ => clsI c)
/-- Class W: any format of Table 6-1. -/
def clsW (c : Nat) : Option Format := (Format.ofCode c).filter (fun f => f.width != 6 && f != .int8s)

/-- The FMT and FMT2 an operation of form VR accepts, or the offending code (R156, R170). -/
def vrFormats (o : VrOp) (fmt fmt2 : Nat) : Except Nat (Format × Format) :=
  let need (f : Option Format) (c : Nat) : Except Nat Format := match f with
    | some x => .ok x
    | none => .error c
  let one (f : Option Format) : Except Nat (Format × Format) := (need f fmt).map (fun x => (x, x))
  let sum (f : Option Format) : Except Nat (Format × Format) := do
    let a ← need f fmt
    if a.isInt then if fmt2 = 0 then .ok (a, a) else .error fmt2
    else do
      let b ← need (clsF fmt2) fmt2
      .ok (a, b)
  match o with
  | .vadd | .vsub | .vmul | .vfma | .vfnma | .vmax | .vmin | .vabs | .vneg
  | .vcmpeq | .vcmpne | .vcmplt | .vcmple | .vrmax | .vrmin | .vrargmax | .vrargmin => one (clsFI fmt)
  | .vdiv | .vsqrt => one (clsF fmt)
  | .vand | .vor | .vxor | .vsll | .vsrl | .vsra | .viota | .vrand | .vror => one (clsI fmt)
  | .vmv | .vsel | .vld | .vst => one (clsW fmt)
  | .mand | .mor | .mxor | .mandn | .vpop | .vtget | .vtput => if fmt = 0 then .ok (.int32, .int32) else .error fmt
  | .vcvt => do
    let a ← need (clsFI fmt) fmt
    let b ← need (clsFI fmt2) fmt2
    .ok (a, b)
  | .vrsum | .vrprod | .vscanAdd | .vscanMax | .vscanMin => sum (clsFI fmt)
  | .vtrsum | .vtrmax | .vtrmin => do
    let a ← need (clsF fmt) fmt
    let b ← need (clsF fmt2) fmt2
    .ok (a, b)

/-- The elements an operation works on (R151). -/
def vCount (vl wmax : Nat) : Nat := min vl (8192 / wmax)

/-- wmax of an operation of form VR. The scalar result of a reduction is no vector element (DEDUCED, log entry 16), and a T
register no V operand. -/
def vrWmax (o : VrOp) (f f2 : Format) : Nat :=
  match o with
  | .vcvt | .vscanAdd | .vscanMax | .vscanMin => max f.width f2.width
  | .vtrsum | .vtrmax | .vtrmin => f2.width
  | _ => f.width

/-! ### Capture and checks at issue (R157) -/

/-- A vector exception. -/
def vExc (k cause addr : Nat) : Exc := ⟨cause, k, addr⟩

/-- The operation reads a T register. -/
def VrOp.readsT : VrOp → Bool
  | .vtrsum | .vtrmax | .vtrmin | .vtget => true
  | _ => false

/-- Everything an operation uses, as it stands before its bundle (R58, R157). -/
def Tile.vCapture (t : Tile) (pred : Nat) (op : VectorOp) : VItem :=
  let blank : VItem :=
    { op := op, pred := t.mr pred, predPoison := t.mPoisoned pred, vl := t.core.vl, nmode := t.core.nmode
      step := t.stepNumber, va := 0, vaP := 0, vb := 0, vbP := 0, vc := 0, vcP := 0, ma := 0, maP := false
      mb := 0, mbP := false, mc := 0, mcP := false, xa := 0, xb := 0, xi := 0, start := [], desc := 0, descE := 0
      vres := t.core.vres, faultAt := none, tv := [], tp := [], cut := none }
  match op with
  | .nop => blank
  | .vr o _ a b c fmt _ xi _ _ _ bs =>
    let bcast := if fmtIsFloat fmt then t.vr b % 2 ^ 64 else t.xr b
    { blank with
      va := t.vr a, vaP := t.vPoisonOf a
      vb := if bs then bcast else t.vr b
      vbP := if bs then (if fmtIsFloat fmt then t.vPoisonOf b % 2 else 0) else t.vPoisonOf b
      vc := t.vr c, vcP := t.vPoisonOf c
      ma := t.mr a, maP := t.mPoisoned a, mb := t.mr b, mbP := t.mPoisoned b, mc := t.mr c, mcP := t.mPoisoned c
      xa := t.xr a, xb := t.xr b, xi := t.xr xi
      tv := if o.readsT then t.vx.t.filter (fun e => e.1 / 4096 == a || e.1 / 4096 == a + 1) else []
      tp := if o.readsT then t.vx.tPoison.filter (fun e => e.1 / 4096 == a || e.1 / 4096 == a + 1) else [] }
  | .vx _ ds xs v x dse xi _ =>
    let s0 := t.xr xs
    let s1 := t.xr (xs + 1)
    { blank with
      va := t.vr v, vaP := t.vPoisonOf v, vb := t.vr x, vbP := t.vPoisonOf x, xi := t.xr xi
      start := [bits s0 0 32, bits s0 32 32, bits s1 0 32, bits s1 32 32]
      desc := t.dsr ds, descE := t.dsr dse }

/-- The coordinates of linear element `l` (R173), none out of bounds. -/
def coordsOf : List Nat → Nat → Option (List Nat)
  | [], l => if l = 0 then some [] else none
  | n :: rest, l => if n = 0 then none else (coordsOf rest (l / n)).map (fun c => l % n :: c)

/-- The tile-store byte address of element `l` of a gather descriptor (R173). -/
def gatherAddr (d : Desc) (l : Nat) : Option Nat :=
  (coordsOf d.shape l).map (fun idx => d.runOffset (0 :: idx.tail) + idx.headD 0 * (d.fmt.width / 8))

/-- The first enabled element from VRES whose index is out of bounds (R174). -/
def gatherFault (it : VItem) (d : Desc) : Option Nat :=
  let n := vCount it.vl (max d.fmt.width 32)
  ((List.range n).filter (fun e => decide (it.vres ≤ e) && bit it.pred e)).find? (fun e =>
    (gatherAddr d (vElem 32 it.vb e)).isNone)

/-- OFFSET or a stride is not a multiple of the element size (Table 6-5). -/
def descMisfit (d : Desc) : Bool :=
  let b := d.fmt.width / 8
  decide (1 < b) && (d.offset % b != 0 || d.stride.any (fun s => s % b != 0))

/-- The byte span of a run of a tile-store descriptor. -/
def runSpan (d : Desc) (start : List Nat) (n : Nat) : Nat × Nat :=
  let base := d.runOffset (0 :: start.tail)
  let (a, _) := d.fmt.elementSpan (start.headD 0)
  let (b, k) := d.fmt.elementSpan (start.headD 0 + n - 1)
  (base + a, if n = 0 then base + a else base + b + k)

/-- The blocks of a run in dimension 0: lists of element numbers below `n` (R165). -/
def runBlocks (d : Desc) (n : Nat) : List (List Nat) :=
  let c := if d.fmt.blockScaled then d.siz.extent 0 else 1
  (List.range (ceilDiv n c)).map (fun b => (List.range c).filterMap (fun i =>
    if b * c + i < n then some (b * c + i) else none))

/-- A run lies inside its descriptor and starts and ends on whole blocks in dimension 0 (R165). -/
def runInBounds (d : Desc) (start : List Nat) (n : Nat) : Bool :=
  decide (start.getD 0 0 + n ≤ d.dim 0)
    && (List.range d.rank).all (fun k => decide (start.getD (k + 1) 0 < d.dim (k + 1)))
    && (!d.fmt.blockScaled ||
      (let c := d.siz.extent 0
       let s := start.getD 0 0
       s % c == 0 && (n % c == 0 || s + n == d.dim 0) && (!d.fmt.subByte || s % 8 == 0)))

/-- Every check of a vector operation at issue (R157, R164, R165, R173): the item, or its exception. A gather or
scatter that will fault part-way carries the element in `faultAt`. -/
def Tile.vCheck (t : Tile) (k pred : Nat) (op : VectorOp) : Except Exc VItem :=
  let it := t.vCapture pred op
  match op with
  | .nop => .ok it
  | .vr o _ _ _ _ fmt fmt2 _ _ _ _ _ =>
    match vrFormats o fmt fmt2 with
    | .error c => .error (vExc k cVFormat c)
    | .ok (f, _) =>
      match o with
      | .vld | .vst =>
        let n := vCount it.vl f.width
        let len := ceilDiv (n * f.width) 8
        if it.xa % 64 ≠ 0 then .error (vExc k cMisaligned it.xa)
        else if tsSize < it.xa + len then .error (vExc k cTsRange it.xa)
        else .ok it
      | _ => .ok it
  | .vx o ds _ _ _ dse _ vfmt =>
    let d := Desc.ofBits it.desc
    if d.region ≠ 0xFFFF then .error (vExc k cVOperand ds)
    else
      match o with
      | .vgather | .vscatter =>
        if d.fmt.blockScaled ∨ d.fmt.width < 8 then .error (vExc k cVFormat d.format)
        else if descMisfit d then .error (vExc k cVOperand ds)
        else .ok { it with faultAt := gatherFault it d }
      | _ =>
        let vf := if o = .vbridge then (clsF vfmt).filter (fun f => f == .binary64) else clsFI vfmt
        match vf with
        | none => .error (vExc k cVFormat vfmt)
        | some f =>
          let n := vCount it.vl f.width
          let e := Desc.ofBits it.descE
          let accepts := match o with
            | .vcvtLd => true
            | .vcvtSt => d.fmt != .e8m0
            | _ => d.fmt.isFloat
          let (a0, a1) := runSpan d it.start n
          let (b0, b1) := runSpan e it.start n
          if !accepts then .error (vExc k cVFormat d.format)
          else if descMisfit d then .error (vExc k cVOperand ds)
          else if o = .vbridge ∧ (e.region ≠ 0xFFFF ∨ e.format ≠ 0x02 ∨ descMisfit e) then
            .error (vExc k cVOperand dse)
          else if o ≠ .vcvtLd ∧ d.fmt.blockScaled ∧ d.siz.dir ≠ 0 then .error (vExc k cVSizing ds)
          else if !runInBounds d it.start n then .error (vExc k cBounds ds)
          else if o = .vbridge ∧ !runInBounds e it.start n then .error (vExc k cBounds dse)
          else if o = .vbridge ∧ n ≠ 0 ∧ a0 < b1 ∧ b0 < a1 then .error (vExc k cVOperand dse)
          else if (runBlocks d n).any (fun b =>
              b.any (fun i => bit it.pred i) && !b.all (fun i => bit it.pred i)) then
            .error (vExc k cVMask ds)
          else .ok it

/-! ### Results -/

/-- What an operation did: the tile, whether a reduction was empty, whether it wrote poison, the bridge count, and the
special counts (R154, R177). -/
structure VResult where
  tile : Tile
  empty : Bool
  poison : Bool
  brz : Nat
  count : SpecialCount
  deriving DecidableEq, Repr

/-- An operation that recorded nothing. -/
def VResult.plain (t : Tile) : VResult := ⟨t, false, false, 0, .zero⟩

/-- The operation reads its predicate: all but NOP and the mask operations (R162). -/
def VItem.readsPred (it : VItem) : Bool :=
  match it.op with
  | .nop | .vr .mand .. | .vr .mor .. | .vr .mxor .. | .vr .mandn .. => false
  | _ => true

/-- The enabled elements below `n`. -/
def VItem.enabled (it : VItem) (n : Nat) : List Nat := (List.range n).filter (fun e => bit it.pred e)

/-- Element `e` of the output is written: all of them, or those of the passes done before a discard (R178). -/
def VItem.writes (it : VItem) (e : Nat) : Bool := it.cut.all (fun k => decide (e < k))

/-- Write an elementwise result: `g` gives an element's code, kind and poison (R152, R177). -/
def elementwise (t : Tile) (it : VItem) (d w n : Nat) (g : Nat → Nat × OutKind × Bool) : VResult :=
  let outs := ((it.enabled n).filter it.writes).map (fun e =>
    let (c, k, p) := g e
    ((⟨e, c % 2 ^ w, p || it.predPoison⟩ : VWrite), k))
  { tile := t.writeV d w (outs.map (·.1)), empty := false
    poison := outs.any (fun x => x.1.poison), brz := 0
    count := outs.foldl (fun s x => s.count x.2) .zero }

/-- Integer operations of Table 6-4 on `w`-bit codes, wrapping (R161). -/
def vIntOp (o : VrOp) (w a b c : Nat) : Nat :=
  let sa := signed w a
  let sb := signed w b
  let sh := b % w
  match o with
  | .vadd => unsigned w (sa + sb)
  | .vsub => unsigned w (sa - sb)
  | .vmul => unsigned w (sa * sb)
  | .vfma => unsigned w (sa * sb + signed w c)
  | .vfnma => unsigned w (-(sa * sb) + signed w c)
  | .vmax => unsigned w (max sa sb)
  | .vmin => unsigned w (min sa sb)
  | .vabs => unsigned w (if sa < 0 then -sa else sa)
  | .vneg => unsigned w (-sa)
  | .vand => a &&& b
  | .vor => a ||| b
  | .vxor => a ^^^ b
  | .vsll => a * 2 ^ sh % 2 ^ w
  | .vsrl => a / 2 ^ sh
  | .vsra => unsigned w (sa / ((2 ^ sh : Nat) : Int))
  | _ => a

/-- Floating operations that round once (R161). -/
def vFloatVal (o : VrOp) (a b c : Val) : Val :=
  match o with
  | .vadd => Val.add false a b
  | .vsub => Val.add false a b.neg
  | .vmul => Val.mul a b
  | .vfma => Val.add false (Val.mul a b) c
  | .vfnma => Val.add false (Val.mul a b).neg c
  | .vsqrt => Val.sqrt a
  | _ => a

/-- A quotient: a zero divisor gives the IEEE 754 result whatever NMODE.OVF says (R161). An infinity over zero counts as the
infinite input it is, a number over zero as no overflow (DEDUCED, log entry 62). -/
def vDivide (f : Format) (nm : NMode) (r : Nat) (va vb : Val) : Nat × OutKind :=
  let q := Val.div va vb
  if vb.isZero && q.isInf then (f.withSign q.sign f.shape.infCode, if va.isInf then .ovf else .plain)
  else f.roundFloat nm r q

/-- One element of a floating elementwise operation. Maxima, minima and sign operations give an operand's own bits,
with a canonical NaN for a NaN (R106, R108, R161). -/
def vFloatOp (o : VrOp) (f : Format) (nm : NMode) (r a b c : Nat) : Nat × OutKind :=
  let va := f.decode a
  let vb := f.decode b
  let nan : Nat × OutKind := (f.canonNan, .nan)
  let sel (isMax : Bool) : Nat × OutKind :=
    if va.isNan && vb.isNan then nan
    else if va.isNan then (if nm.numberMM then (b, .plain) else nan)
    else if vb.isNan then (if nm.numberMM then (a, .plain) else nan)
    else if isMax then (if Val.ltZero va vb then b else a, .plain)
    else (if Val.ltZero vb va then b else a, .plain)
  match o with
  | .vmax => sel true
  | .vmin => sel false
  | .vabs => if va.isNan then nan else (a % f.shape.signBit, .plain)
  | .vneg => if va.isNan then nan else (a ^^^ f.shape.signBit, .plain)
  | .vdiv => vDivide f nm r va vb
  | _ => f.roundFloat nm r (vFloatVal o va vb (f.decode c))

/-- A comparison (R108, R162). -/
def vCompare (o : VrOp) (f : Format) (a b : Nat) : Bool :=
  if f.isInt then
    let x := signed f.width a
    let y := signed f.width b
    match o with
    | .vcmpeq => x == y
    | .vcmpne => x != y
    | .vcmplt => decide (x < y)
    | _ => decide (x ≤ y)
  else
    let x := f.decode a
    let y := f.decode b
    match o with
    | .vcmpeq => Val.eqv x y
    | .vcmpne => !Val.eqv x y
    | .vcmplt => Val.lt x y
    | _ => Val.le x y

/-! ### The fixed tree (R167) -/

/-- A node of the summing tree: the pair as codes, and the flags. -/
structure Node where
  v : Nat
  c : Nat
  flags : Nat
  deriving DecidableEq, Repr

/-- A leaf: the exact value widened into the accumulator format; a special only sets its flag. −0 enters as +0. -/
def Node.leaf (acc : Format) (x : Val) : Node :=
  match x with
  | .fin .. => ⟨acc.plusZero (rneCode acc x), 0, 0⟩
  | v => ⟨0, 0, productFlags v⟩

/-- Combine two nodes; an overflow keeps the left child's pair and sets a flag (R167). -/
def Node.combine (acc : Format) (p q : Node) : Node :=
  let flags := p.flags ||| q.flags
  if flags ≠ 0 then ⟨p.v, p.c, flags⟩
  else
    let x := Val.add false (acc.decode p.v) (acc.decode q.v)
    match roundAcc acc false x with
    | none => ⟨p.v, p.c, if x.sign then fNINF else fPINF⟩
    | some s =>
      let r := Val.add false x (acc.decode s).neg
      let cr := Val.add false (Val.add false (acc.decode p.c) (acc.decode q.c)) r
      match roundAcc acc false cr with
      | none => ⟨p.v, p.c, if cr.sign then fNINF else fPINF⟩
      | some k => ⟨s, k, 0⟩

/-- One level of the tree: neighbours combine, an absent one passes the other up. -/
def treeLevel {α : Type} (f : α → α → α) : List (Option α) → List (Option α)
  | a :: b :: rest =>
    (match a, b with
      | none, q => q
      | p, none => p
      | some p, some q => some (f p q)) :: treeLevel f rest
  | l => l

/-- Levels until one node is left; the fuel is enough for any vector. -/
def treeFold {α : Type} (f : α → α → α) : Nat → List (Option α) → Option α
  | 0, l => (l.head?).getD none
  | k + 1, l => match l with
    | [] => none
    | [x] => x
    | _ => treeFold f k (treeLevel f l)

/-- The tree over positions 0 to P − 1, P the next power of two. -/
def treeOf {α : Type} (f : α → α → α) (xs : List (Option α)) : Option α :=
  let n := xs.length
  let p := if n ≤ 1 then 1 else 2 ^ ((n - 1).log2 + 1)
  treeFold f 20 (xs ++ List.replicate (p - n) none)

/-- The accumulator format of a floating sum (R167). -/
def sumFormat (f f2 : Format) : Format := if f = .binary64 ∨ f2 = .binary64 then .binary64 else .binary32

/-- The value a root node rounds (R167 by Table 5-7). -/
def Node.value (acc : Format) (n : Node) : Val :=
  if bit n.flags 0 || (bit n.flags 1 && bit n.flags 2) then .nan
  else if bit n.flags 1 then .inf false
  else if bit n.flags 2 then .inf true
  else Val.add false (acc.decode n.v) (acc.decode n.c)

/-- The value of a floating sum, none when empty. -/
def sumVal (f f2 : Format) (xs : List (Option Val)) : Option Val :=
  let acc := sumFormat f f2
  (treeOf (Node.combine acc) (xs.map (fun o => o.map (Node.leaf acc)))).map (Node.value acc)

/-- The value of a floating product over the same tree, in binary64 to nearest even (R167). -/
def prodVal (xs : List (Option Val)) : Option Val :=
  (treeOf (fun p q => rneVal .binary64 (Val.mul p q)) (xs.map (fun o => o.map (rneVal .binary64))))

/-- The maximum or minimum of floating values under NANMM (Table 4-6). -/
def maxVal (numberMM isMax : Bool) (xs : List (Option Val)) : Option Val :=
  (xs.filterMap id).foldl (fun a v => match a with
    | none => some v
    | some u => some (tensorMinMax numberMM isMax u v)) none

/-- The kinds of prefix and reduction over values. -/
inductive FoldKind where
  | sum | prod | max | min
  deriving DecidableEq, Repr

/-- A floating reduction of optional inputs. -/
def foldFloat (k : FoldKind) (f f2 : Format) (nm : NMode) (xs : List (Option Val)) : Option Val :=
  match k with
  | .sum => sumVal f f2 xs
  | .prod => prodVal xs
  | .max => maxVal nm.numberMM true xs
  | .min => maxVal nm.numberMM false xs

/-- An integer reduction of optional inputs. -/
def foldInt (k : FoldKind) (xs : List (Option Int)) : Option Int :=
  (xs.filterMap id).foldl (fun a v => match a with
    | none => some v
    | some u => some (match k with
      | .sum => u + v
      | .prod => u * v
      | .max => max u v
      | .min => min u v)) none

/-- The floating identity of Table 6-7 as a code. -/
def floatIdentity (k : FoldKind) (f : Format) : Nat :=
  match k with
  | .sum => 0
  | .prod => rneCode f .one
  | .max => f.withSign true f.shape.infCode
  | .min => f.shape.infCode

/-- The integer identity of Table 6-7. -/
def intIdentity (k : FoldKind) (w : Nat) : Int :=
  match k with
  | .sum => 0
  | .prod => 1
  | .max => -((2 ^ (w - 1) : Nat) : Int)
  | .min => ((2 ^ (w - 1) : Nat) : Int) - 1

/-- The fold an operation makes. -/
def VrOp.fold : VrOp → FoldKind
  | .vrprod => .prod
  | .vrmax | .vtrmax | .vscanMax => .max
  | .vrmin | .vtrmin | .vscanMin => .min
  | _ => .sum

/-- Round a floating fold's value into its result format. A maximum or minimum in its own format keeps an infinity. -/
def roundFold (k : FoldKind) (f f2 : Format) (nm : NMode) (r : Nat) (v : Val) : Nat × OutKind :=
  match k, v with
  | .max, .inf n | .min, .inf n =>
    if f = f2 then (f2.withSign n f2.shape.infCode, .plain) else f2.roundFloat nm r v
  | _, _ => f2.roundFloat nm r v

/-- The index VRARGMAX or VRARGMIN writes (R108). -/
def argIndex (f : Format) (nm : NMode) (isMax : Bool) (va : Nat) (es : List Nat) : Nat :=
  let key (e : Nat) : Val := f.decode (vElem f.width va e)
  let nans := es.filter (fun e => (key e).isNan)
  let nums := es.filter (fun e => !(key e).isNan)
  match nans.head?, nums with
  | some e, [] => if nm.numberMM then Config.argOfNans va % 2 ^ 64 else e
  | some e, n :: rest => if nm.numberMM then pick key n rest else e
  | none, n :: rest => pick key n rest
  | none, [] => 2 ^ 64 - 1
where
  /-- The lowest index of an extreme number; −0 orders below +0 (Table 4-6). -/
  pick (key : Nat → Val) (n : Nat) (rest : List Nat) : Nat :=
    rest.foldl (fun b e =>
      if isMax then (if Val.ltZero (key b) (key e) then e else b) else (if Val.ltZero (key e) (key b) then e else b)) n

/-- A whole-vector reduction (R166 to R169). -/
def vReduce (t : Tile) (it : VItem) (o : VrOp) (d : Nat) (f f2 : Format) : VResult :=
  let nm := NMode.ofWord it.nmode
  let n := vCount it.vl f.width
  let es := it.enabled n
  let w := f.width
  let poison := it.predPoison || es.any (fun e => vElemPoison w it.vaP e)
  let res (c : Nat) (k : OutKind) (empty : Bool) : VResult :=
    ⟨t.writeF d c poison, empty, poison, 0, SpecialCount.zero.count k⟩
  let kind := o.fold
  let opt (e : Nat) : Bool := bit it.pred e
  match o with
  | .vrand => res (es.foldl (fun a e => a &&& vElem w it.va e) (2 ^ w - 1)) .plain es.isEmpty
  | .vror => res (es.foldl (fun a e => a ||| vElem w it.va e) 0) .plain es.isEmpty
  | .vrargmax | .vrargmin => res (argIndex f nm (o == .vrargmax) it.va es) .plain es.isEmpty
  | _ =>
    if f.isInt then
      let v := foldInt kind ((List.range n).map (fun e => if opt e then some (signed w (vElem w it.va e)) else none))
      res (unsigned 64 (v.getD (intIdentity kind w))) .plain es.isEmpty
    else
      let fr := if o = .vrmax ∨ o = .vrmin then f else f2
      match foldFloat kind f fr nm ((List.range n).map (fun e => if opt e then some (f.decode (vElem w it.va e)) else none)) with
      | none => res (floatIdentity kind fr) .plain true
      | some v =>
        let (c, k) := roundFold kind f fr nm (nm.stoch it.step it.xi 0) v
        res c k false

/-- The start of the segment that holds element `e` (R172). -/
def segStart (seg : Bool) (mask e : Nat) : Nat :=
  if seg then ((List.range (e + 1)).reverse.find? (fun i => bit mask i)).getD 0 else 0

/-- A scan (R171, R172). An exclusive output is the inclusive one before it, rounded with that one's index. -/
def vScan (t : Tile) (it : VItem) (o : VrOp) (d : Nat) (f f2 : Format) (seg excl : Bool) : VResult :=
  let nm := NMode.ofWord it.nmode
  let w := f.width
  let fr := if f.isInt then f else f2
  let n := vCount it.vl (max w fr.width)
  let kind := o.fold
  elementwise t it d fr.width n (fun e =>
    let s := segStart seg it.mc e
    let top := if excl then e else e + 1
    let ps := (List.range (top - s)).map (fun j => s + j)
    let on := ps.filter (fun i => bit it.pred i)
    let poison := (seg && it.mcP) || on.any (fun i => vElemPoison w it.vaP i)
    if f.isInt then
      let v := foldInt kind (ps.map (fun i => if bit it.pred i then some (signed w (vElem w it.va i)) else none))
      (unsigned w (v.getD (intIdentity kind w)), .plain, poison)
    else
      match foldFloat kind f fr nm (ps.map (fun i => if bit it.pred i then some (f.decode (vElem w it.va i)) else none)) with
      | none => (floatIdentity kind fr, .plain, poison)
      | some v =>
        let (c, k) := roundFold kind f fr nm (nm.stoch it.step it.xi (if excl then e - 1 else e)) v
        (c, k, poison))

/-- The key of a T element. -/
def tKey (r i j : Nat) : Nat := 4096 * r + 64 * i + j

/-- The code of element (i, j) of a T register in a layout (R138, R170). -/
def tCode (tv : SMap Nat) (f : Format) (r i j : Nat) : Nat :=
  let lo := SMap.get 0 (tKey r i j) tv
  if f = .binary64 then lo + SMap.get 0 (tKey (r + 1) i j) tv * 2 ^ 32 else lo % 2 ^ f.width

/-- The poison bit of element (i, j) (R137). -/
def tPoisonOf (tp : SMap Bool) (f : Format) (r i j : Nat) : Bool :=
  SMap.get false (tKey r i j) tp || (f == .binary64 && SMap.get false (tKey (r + 1) i j) tp)

/-- A T-axis reduction (R170). -/
def vTAxis (t : Tile) (it : VItem) (o : VrOp) (d a : Nat) (f f2 : Format) (axis : Bool) : VResult :=
  let nm := NMode.ofWord it.nmode
  elementwise t it d f2.width 64 (fun e =>
    let at' (k : Nat) : Nat × Nat := if axis then (e, k) else (k, e)
    let xs := (List.range 64).map (fun k => some (f.decode (tCode it.tv f a (at' k).1 (at' k).2)))
    let poison := (List.range 64).any (fun k => tPoisonOf it.tp f a (at' k).1 (at' k).2)
    let (c, k) := roundFold o.fold f f2 nm (nm.stoch it.step it.xi e)
      ((foldFloat o.fold f f2 nm xs).getD .zero)
    (c, k, poison))

/-- The place of element `k` of line `l` (R170): (l, k) for AXIS = 0, (k, l) for AXIS = 1. -/
def tLine (axis : Bool) (l k : Nat) : Nat × Nat := if axis then (k, l) else (l, k)

/-- VTPUT: line `l` of a T register from 32-bit elements (R170). -/
def vTPut (t : Tile) (it : VItem) (d : Nat) (axis : Bool) : VResult :=
  let l := it.xb % 64
  let ks := (it.enabled 64).filter it.writes
  let p (k : Nat) : Bool := vElemPoison 32 it.vaP k || it.predPoison
  let (tt, tp) := ks.foldl (fun (st : SMap Nat × SMap Bool) k =>
    let (i, j) := tLine axis l k
    (SMap.put 0 (tKey d i j) (vElem 32 it.va k) st.1, SMap.put false (tKey d i j) (p k) st.2)) (t.vx.t, t.vx.tPoison)
  ⟨{ t with vx := { t.vx with t := tt, tPoison := tp } }, false, ks.any p, 0, .zero⟩

/-- An operation of form VR. -/
def vrExec (t : Tile) (it : VItem) (o : VrOp) (d a fmt fmt2 : Nat) (axis seg excl bs : Bool) : VResult :=
  match vrFormats o fmt fmt2 with
  | .error _ => .plain t
  | .ok (f, f2) =>
    let nm := NMode.ofWord it.nmode
    let w := f.width
    let n := vCount it.vl (vrWmax o f f2)
    let ea (e : Nat) : Nat := vElem w it.va e
    let eb (e : Nat) : Nat := if bs then it.vb % 2 ^ w else vElem w it.vb e
    let ec (e : Nat) : Nat := vElem w it.vc e
    let pa (e : Nat) : Bool := vElemPoison w it.vaP e
    let pb (e : Nat) : Bool := if bs then bit it.vbP 0 else vElemPoison w it.vbP e
    let pc (e : Nat) : Bool := vElemPoison w it.vcP e
    match o with
    | .vadd | .vsub | .vmul | .vdiv | .vmax | .vmin | .vand | .vor | .vxor | .vsll | .vsrl | .vsra =>
      elementwise t it d w n (fun e =>
        if f.isInt then (vIntOp o w (ea e) (eb e) 0, .plain, pa e || pb e)
        else
          let (c, k) := vFloatOp o f nm (nm.stoch it.step it.xi e) (ea e) (eb e) 0
          (c, k, pa e || pb e))
    | .vfma | .vfnma =>
      elementwise t it d w n (fun e =>
        if f.isInt then (vIntOp o w (ea e) (eb e) (ec e), .plain, pa e || pb e || pc e)
        else
          let (c, k) := vFloatOp o f nm (nm.stoch it.step it.xi e) (ea e) (eb e) (ec e)
          (c, k, pa e || pb e || pc e))
    | .vsqrt | .vabs | .vneg =>
      elementwise t it d w n (fun e =>
        if f.isInt then (vIntOp o w (ea e) 0 0, .plain, pa e)
        else
          let (c, k) := vFloatOp o f nm (nm.stoch it.step it.xi e) (ea e) 0 0
          (c, k, pa e))
    | .vmv => elementwise t it d w n (fun e => if bs then (eb e, .plain, pb e) else (ea e, .plain, pa e))
    | .vsel =>
      elementwise t it d w n (fun e =>
        if bit it.mc e then (ea e, .plain, pa e || it.mcP) else (eb e, .plain, pb e || it.mcP))
    | .viota => elementwise t it d w n (fun e => ((it.xa + e) % 2 ^ w, .plain, false))
    | .vcmpeq | .vcmpne | .vcmplt | .vcmple =>
      let es := (it.enabled n).filter it.writes
      let poison := it.predPoison || es.any (fun e => pa e || pb e)
      let m := ofBits (es.filter (fun e => vCompare o f (ea e) (eb e)))
      -- the passes that a discard leaves out keep their bits, and the poison bit its poison
      let (m, p) := match it.cut with
        | some k => if k < n then (m + t.mr d / 2 ^ k * 2 ^ k, poison || t.mPoisoned d) else (m, poison)
        | none => (m, poison)
      ⟨t.writeM d m p, false, poison, 0, .zero⟩
    | .mand | .mor | .mxor | .mandn =>
      let v := match o with
        | .mand => it.ma &&& it.mb
        | .mor => it.ma ||| it.mb
        | .mxor => it.ma ^^^ it.mb
        | _ => it.ma &&& (allOnes2048 - it.mb)
      let poison := it.maP || it.mbP
      ⟨t.writeM d v poison, false, poison, 0, .zero⟩
    | .vpop =>
      let k := ((List.range (min it.vl 2048)).filter (fun e => bit it.ma e)).length
      let poison := it.maP || it.predPoison
      ⟨t.writeF d k poison, false, poison, 0, .zero⟩
    | .vcvt =>
      elementwise t it d f2.width n (fun e =>
        let (c, k) := f2.round nm (nm.stoch it.step it.xi e) (f.decode (ea e))
        (c, k, pa e))
    | .vld =>
      elementwise t it d w n (fun e =>
        let (o', k) := f.elementSpan e
        (f.element (fun i => t.byte (it.xa + i)) e, .plain, t.poisoned (it.xa + o') k))
    | .vst =>
      let ws := ((it.enabled n).filter it.writes).map (fun e =>
        let c := if fmt ≤ 4 then f.plusZero (vElem w it.vb e) else vElem w it.vb e
        (⟨8 * it.xa + w * e, w, c, vElemPoison w it.vbP e || it.predPoison⟩ : TsWrite))
      ⟨t.writeAll ws, false, ws.any TsWrite.poison, 0, .zero⟩
    | .vrsum | .vrprod | .vrmax | .vrmin | .vrand | .vror | .vrargmax | .vrargmin => vReduce t it o d f f2
    | .vtrsum | .vtrmax | .vtrmin => vTAxis t it o d a f f2 axis
    | .vtget =>
      elementwise t it d 32 64 (fun k =>
        let (i, j) := tLine axis (it.xb % 64) k
        (tCode it.tv .binary32 a i j, .plain, tPoisonOf it.tp .binary32 a i j))
    | .vtput => vTPut t it d axis
    | .vscanAdd | .vscanMax | .vscanMin => vScan t it o d f f2 seg excl

/-- VGATHER and VSCATTER over elements VRES to the first fault (R174, R175). -/
def vGather (t : Tile) (it : VItem) (scatter : Bool) (v : Nat) : VResult :=
  let d := Desc.ofBits it.desc
  let w := d.fmt.width
  let b := w / 8
  let n := vCount it.vl (max w 32)
  let stop := it.faultAt.getD n
  let es := (List.range stop).filter (fun e => decide (it.vres ≤ e) && bit it.pred e)
  let addr (e : Nat) : Nat := (gatherAddr d (vElem 32 it.vb e)).getD 0
  let ip (e : Nat) : Bool := vElemPoison 32 it.vbP e || it.predPoison
  if scatter then
    let ws := es.map (fun e =>
      TsWrite.bytes (addr e) b (d.fmt.plusZero (vElem w it.va e)) (vElemPoison w it.vaP e || ip e))
    ⟨t.writeAll ws, false, ws.any TsWrite.poison, 0, .zero⟩
  else
    let ws := es.map (fun e => (⟨e, t.readLE (addr e) b, t.poisoned (addr e) b || ip e⟩ : VWrite))
    ⟨t.writeV v w ws, false, ws.any (fun x => x.poison), 0, .zero⟩

/-- The coordinates of element `e` of a run (R165). -/
def runIndex (start : List Nat) (e : Nat) : List Nat := (start.headD 0 + e) :: start.tail

/-- VCVT.LD (R165): its writes too normalise −0. -/
def vConvertLoad (t : Tile) (it : VItem) (v : Nat) (f : Format) : VResult :=
  let d := Desc.ofBits it.desc
  let nm := NMode.ofWord it.nmode
  elementwise t it v f.width (vCount it.vl f.width) (fun e =>
    let (x, p) := t.elementVal d (runIndex it.start e)
    let (c, k) := f.round nm (nm.stoch it.step it.xi e) x
    (f.plusZero c, k, p))

/-- What a conversion does with one block of a run. -/
structure RunBlock where
  writes : List TsWrite
  kinds : List OutKind
  poison : Bool
  brz : Nat
  deriving DecidableEq, Repr

/-- The writes of one block, with its scale. Of a block that a discard cuts, the elements of the passes done are written, and
the scale with the first of them; codes and scale come from the whole block (DESIGN CHOICE, log entry 9). -/
def VItem.runBlock (it : VItem) (d : Desc) (blk : List Nat) (scale : Nat) (outs : List (Nat × OutKind)) (ps : List Bool) :
    RunBlock :=
  let on := (blk.zip (outs.zip ps)).filter (fun x => it.writes x.1)
  let elems := on.flatMap (fun x => d.elementWrites (runIndex it.start x.1) (d.fmt.plusZero x.2.1.1) x.2.2)
  let scales := if d.fmt.blockScaled then
      (on.head?.map (fun x => d.scaleWrite (runIndex it.start x.1) scale (ps.any id))).toList else []
  ⟨elems ++ scales, on.map (fun x => x.2.1.2), on.any (fun x => x.2.2), 0⟩

/-- The result of a run's blocks: their writes land together. -/
def runResult (t : Tile) (bs : List RunBlock) : VResult :=
  { tile := t.writeAll (bs.flatMap RunBlock.writes), empty := false, poison := bs.any RunBlock.poison
    brz := (bs.map RunBlock.brz).sum, count := (bs.flatMap RunBlock.kinds).foldl SpecialCount.count .zero }

/-- The enabled blocks of a run of `n` elements; the checks at issue leave none that is enabled in part (R165). -/
def VItem.onBlocks (it : VItem) (d : Desc) (n : Nat) : List (List Nat) :=
  ((runBlocks d n).map (fun b => b.filter (fun e => bit it.pred e))).filter (fun b => !b.isEmpty)

/-- VCVT.ST (R165). -/
def vConvertStore (t : Tile) (it : VItem) (f : Format) : VResult :=
  let d := Desc.ofBits it.desc
  let nm := NMode.ofWord it.nmode
  runResult t ((it.onBlocks d (vCount it.vl f.width)).map (fun on =>
    let (scale, outs) := d.fmt.encodeRun nm (on.map (fun e => f.decode (vElem f.width it.va e)))
      (on.map (fun e => nm.stoch it.step it.xi e))
    it.runBlock d on scale outs (on.map (fun e => vElemPoison f.width it.vaP e || it.predPoison))))

/-- The residual of a bridge element (R111, R112): its binary32 code and whether it was forced to +0. -/
def bridgeResidual (x e0 s y : Val) (k : OutKind) (scaleNan : Bool) : Nat × Bool :=
  let r := rneVal .binary64 (Val.add false s y.neg)
  let c := rneCode .binary32 r
  let forced := x.isNan || x.isInf || e0.isNan || e0.isInf || k == .ovf || scaleNan
    || decide (Format.binary32.shape.maxCode < c % Format.binary32.shape.signBit)
  if forced then (0, true) else (Format.binary32.plusZero c, false)

/-- VBRIDGE (R111, R112, R165). BRZ counts the elements in a case of R112 in every bridge mode (log entry 58). -/
def vBridge (t : Tile) (it : VItem) : VResult :=
  let d := Desc.ofBits it.desc
  let de := Desc.ofBits it.descE
  let nm := NMode.ofWord it.nmode
  let useE := nm.bridge == 1 || nm.bridge == 3
  let writeE := nm.bridge == 1 || nm.bridge == 2
  runResult t ((it.onBlocks d (vCount it.vl 64)).map (fun on =>
    let xs := on.map (fun e => Format.binary64.decode (vElem 64 it.va e))
    let olds := on.map (fun e => if useE then t.elementVal de (runIndex it.start e) else (Val.zero, false))
    let ss := (xs.zip olds).map (fun (x, o) => rneVal .binary64 (Val.add false x o.1))
    let ps := (on.zip olds).map (fun (e, o) => vElemPoison 64 it.vaP e || it.predPoison || o.2)
    let (scale, outs) := d.fmt.encodeRun nm ss (on.map (fun e => nm.stoch it.step it.xi e))
    let scaleNan := d.fmt.blockScaled && scale == d.fmt.nanScale
    let val (c : Nat) : Val := if d.fmt.blockScaled then d.fmt.decodeScaled scale c else d.fmt.decode c
    let res := (List.range on.length).map (fun i =>
      let (c, k) := outs.getD i (0, .plain)
      bridgeResidual (xs.getD i .zero) (olds.getD i (.zero, false)).1 (ss.getD i .zero) (val c) k scaleNan)
    let es := (on.zip (res.zip ps)).filter (fun x => it.writes x.1)
    let b := it.runBlock d on scale outs ps
    let errors := if writeE then es.flatMap (fun x => de.elementWrites (runIndex it.start x.1) x.2.1.1 x.2.2) else []
    { b with writes := b.writes ++ errors, brz := (es.filter (fun x => x.2.1.2)).length }))

/-- A completed vector operation. -/
def vExec (t : Tile) (it : VItem) : VResult :=
  match it.op with
  | .nop => .plain t
  | .vr o d a _ _ fmt fmt2 _ axis seg excl bs => vrExec t it o d a fmt fmt2 axis seg excl bs
  | .vx o _ _ v _ _ _ vfmt =>
    let f := (clsFI vfmt).getD .binary64
    match o with
    | .vgather => vGather t it false v
    | .vscatter => vGather t it true v
    | .vcvtLd => vConvertLoad t it v f
    | .vcvtSt => vConvertStore t it f
    | .vbridge => vBridge t it

/-! ### The queue (R159, R160, R175) -/

/-- Operations in the vector queue at most. -/
def vQueueDepth : Nat := 8

/-- wmax of an operation, and its elements n (R151); n of the T operations is fixed, and a mask operation takes one pass. -/
def VItem.extent (it : VItem) : Nat × Nat :=
  match it.op with
  | .nop => (64, 0)
  | .vr o _ _ _ _ fmt fmt2 _ _ _ _ _ =>
    match vrFormats o fmt fmt2 with
    | .error _ => (64, 0)
    | .ok (f, f2) =>
      let w := vrWmax o f f2
      match o with
      | .vtrsum | .vtrmax | .vtrmin | .vtget | .vtput => (w, 64)
      | .mand | .mor | .mxor | .mandn | .vpop => (1, 2048)
      | _ => (w, vCount it.vl w)
  | .vx o _ _ _ _ _ _ vfmt =>
    let w := match o with
      | .vgather | .vscatter => max (Desc.ofBits it.desc).fmt.width 32
      | _ => ((clsFI vfmt).getD .binary64).width
    (w, vCount it.vl w)

/-- The passes of an operation, at least the one cc that an empty one takes (R151). -/
def VItem.passes (it : VItem) : Nat := max 1 (ceilDiv (it.extent.2 * it.extent.1) 2048)

/-- Does the item gather or scatter? It then holds back the next bundle (R160). -/
def VItem.isGather (it : VItem) : Bool :=
  match it.op with
  | .vx .vgather .. | .vx .vscatter .. => true
  | _ => false

/-- The elements a gather or scatter works on: from VRES to its fault or its end. -/
def VItem.gathered (it : VItem) : Nat := it.faultAt.getD it.extent.2 - it.vres

/-- The datapath cc of an operation (Table 6-6). -/
def VItem.datapathCc (it : VItem) : Nat :=
  let p := it.passes
  match it.op with
  | .nop => 1
  | .vr o _ _ _ _ fmt _ _ _ _ _ _ =>
    if it.extent.2 = 0 then 1
    else match o with
      | .vdiv | .vsqrt => p * (if fmt = 1 then 8 else 4)
      | .vscanAdd | .vscanMax | .vscanMin => 2 * p
      | .vtrsum | .vtrmax | .vtrmin => if fmt = 1 then 128 else 64
      | _ => p
  | .vx o _ _ _ _ _ _ _ =>
    match o with
    | .vgather | .vscatter => max 1 (ceilDiv it.gathered 16)
    | .vcvtLd => p
    | .vcvtSt | .vbridge =>
      let d := Desc.ofBits it.desc
      p + (if d.fmt.blockScaled then (it.onBlocks d it.extent.2).length else 0)

/-- The V, M and T registers a queued operation writes (R160). -/
def VItem.dests (it : VItem) : List Reg := it.op.regs.2

/-- A pending vector result holds this register. -/
def Vector.pending (x : Vector) (r : Reg) : Bool :=
  (x.queue ++ x.run.toList).any (fun it => it.dests.contains r)

/-- Nothing queued and nothing in the datapath. -/
def Vector.idle (x : Vector) : Bool := x.queue.isEmpty && x.run.isNone

/-- Put a captured operation in the queue. -/
def Tile.vEnqueue (t : Tile) (it : VItem) : Tile :=
  { t with vx := { t.vx with queue := t.vx.queue ++ [it], hold := t.vx.hold || it.isGather } }

/-- The next queued operation takes the datapath. -/
def Tile.vStart (t : Tile) : Tile :=
  match t.vx.run, t.vx.queue with
  | none, it :: rest => { t with vx := { t.vx with queue := rest, run := some it } }
  | _, _ => t

/-- The item writes one scalar, at its end. -/
def VItem.scalarResult (it : VItem) : Bool :=
  match it.op with
  | .vr o _ _ _ _ _ _ _ _ _ _ _ =>
    o == .vrsum || o == .vrprod || o == .vrmax || o == .vrmin || o == .vrand || o == .vror
      || o == .vrargmax || o == .vrargmin || o == .vpop
  | _ => false

/-- A running operation that is discarded after `done` passes, or elements of a gather or scatter (R178): what it wrote, and
the datapath cc it had occupied. A scalar result is written at the end only. -/
def Tile.vPartial (t : Tile) (it : VItem) (done : Nat) : VResult × Nat :=
  let units := if it.isGather then it.gathered else it.passes
  let cc := if units = 0 then 0 else it.datapathCc * min done units / units
  let cut : VItem :=
    if it.isGather then { it with faultAt := some (min (it.faultAt.getD 2048) (it.vres + done)) }
    else { it with cut := some (done * 2048 / it.extent.1) }
  (if done = 0 || it.scalarResult then .plain t else vExec t cut, cc)

/-- Discard on drain expiry or FORCE_STOP (R178): the queue empties; the running operation keeps the passes (or gather
elements) already written, which count as written. -/
def Tile.vDiscard (t : Tile) (done : Nat) : VResult :=
  let (r, cc) := t.vx.run.elim (.plain t, 0) (fun it => t.vPartial it done)
  { r with tile := { r.tile with vx := { r.tile.vx with
    queue := [], run := none, hold := false, busyCc := r.tile.vx.busyCc + cc } } }

end Sys2Proof.Machine
end

