-- ==== Sys2Proof/Machine/Collective.lean ====
section
/-! DEFINITION. Machine/Collective.lean: the collective engine (chapter 13): descriptors, trees, partials, transfers, votes,
aborts, exclusion, folding, permutes and completion. What an instance does by itself once its inputs are there is
`colAdvance`, which every event of the engine runs. -/

namespace Sys2Proof.Machine

/-! ### The broke ledger as the engine reads it (R303, R305) -/

/-- Bytes of a ledger slot. -/
def Dev.slotBytes (d : Dev) : Nat := d.fget stpBrokeregSlot4k 0 * 4096

/-- The ledger's base handle. -/
def Dev.ledgerHandle (d : Dev) : Nat := d.fget stpBrokeregHandle 0

/-- The ledger's handle names a BANKED region (R303). -/
def Dev.ledgerValid (d : Dev) : Bool := decide (d.ledgerHandle < 0x800) && d.banked d.ledgerHandle

/-- The ledger is enabled, and its region is valid. -/
def Dev.ledgerOn (d : Dev) : Bool := d.fbit stpBrokeregEn 0 && d.ledgerValid

/-- Whole slots that the ledger region holds (STP.LEDGER.CAP, before it saturates). -/
def Dev.ledgerCap (d : Dev) : Nat :=
  if d.ledgerValid && decide (0 < d.slotBytes) then ((d.entry (d.resolve d.ledgerHandle)).size - 4096) / d.slotBytes else 0

/-- The name of a ledger bank: H committed, H | 0x0800 working. -/
def Dev.ledgerName (d : Dev) (working : Bool) : Nat := if working then d.ledgerHandle + 0x800 else d.ledgerHandle

/-- The 64-byte header of a slot, none where it cannot be read. -/
def Dev.slotHeader (d : Dev) (m : Mem) (working : Bool) (s : Nat) : Option (List Nat) :=
  (d.readRegion m (d.ledgerName working) (4096 + s * d.slotBytes) 64).map (fun r => r.1)

/-- Live entries that a bank's header counts. -/
def Dev.ledgerLive (d : Dev) (m : Mem) (working : Bool) : Nat :=
  match d.readRegion m (d.ledgerName working) 0 4 with
  | some (bs, _) => ofLE bs
  | none => 0

/-- What reading a bank's header and its slots' headers does at the dies. -/
def Dev.noteSlots (d : Dev) (working : Bool) : Dev :=
  (List.range d.ledgerCap).foldl (fun (d : Dev) s => d.noteRegion (d.ledgerName working) (4096 + s * d.slotBytes) 64)
    (d.noteRegion (d.ledgerName working) 0 4)

/-- Write a bank's live count. -/
def Dev.setLedgerLive (d : Dev) (working : Bool) (n : Nat) : Dev :=
  (d.writeRegion (d.ledgerName working) 0 (toLE 4 n) false).getD d

/-- The live slots of a bank. -/
def Dev.liveSlots (d : Dev) (m : Mem) (working : Bool) : List Nat :=
  (List.range d.ledgerCap).filter (fun s => (d.slotHeader m working s).any (fun h => h.headD 0 == 1))

/-- Free a slot of the working bank. -/
def Dev.freeSlot (d : Dev) (m : Mem) (s : Nat) : Dev :=
  let n := d.ledgerLive m true
  ((d.writeRegion (d.ledgerName true) (4096 + s * d.slotBytes) [0] false).getD d).setLedgerLive true (n - 1)

/-- Staleness of an entry of step `s` at step `k` (R305). -/
def staleness (k s : Nat) : Nat := (k + 2 ^ 32 - s % 2 ^ 32) % 2 ^ 32

/-! ### Fields of a descriptor (Table 13-3) -/

/-- A field of the captured descriptor. -/
def Inst.f (i : Inst) (o n : Nat) : Nat := ofLE ((i.raw.drop o).take n)

/-- OP. -/
def Inst.op (i : Inst) : Nat := i.f 0 1
/-- FLAGS: 0 EARLY, 1 BROKE, 2 STATS, 3 REPLAY. -/
def Inst.flag (i : Inst) (k : Nat) : Bool := bit (i.f 1 1) k
/-- COLID. -/
def Inst.colid (i : Inst) : Nat := i.f 8 4
/-- The operation reduces. -/
def Inst.reduces (i : Inst) : Bool := decide (i.op ≤ 1)
/-- FORMAT of a reduction. -/
def Inst.inFmt (i : Inst) : Format := (Format.ofCode (i.f 4 1)).getD .binary32
/-- OUTFMT. -/
def Inst.outFmt (i : Inst) : Format := (Format.ofCode (i.f 5 1)).getD .binary32
/-- Bytes of an input element; 1 for an operation that does not reduce (R357). -/
def Inst.e (i : Inst) : Nat := if i.reduces then i.inFmt.width / 8 else 1
/-- Bytes of an output element. -/
def Inst.eo (i : Inst) : Nat := if i.reduces then i.outFmt.width / 8 else 1
/-- CB. -/
def Inst.cb (i : Inst) : Nat := (if i.f 12 2 = 0 then 16 else i.f 12 2) * 4096
/-- LENGTH. -/
def Inst.length (i : Inst) : Nat := i.f 16 8
/-- Chunks of the vector, or of one block. -/
def Inst.nchunk (i : Inst) : Nat := ceilDiv i.length i.cb
/-- Chunks per bucket. -/
def Inst.bc (i : Inst) : Nat := if i.f 14 2 = 0 then max 1 i.nchunk else i.f 14 2
/-- Buckets; an operation without chunks has one. -/
def Inst.nbucket (i : Inst) : Nat := max 1 (ceilDiv i.nchunk i.bc)
/-- The bucket of a chunk. -/
def Inst.bucketOf (i : Inst) (j : Nat) : Nat := j / i.bc
/-- The chunks of a bucket. -/
def Inst.chunksOf (i : Inst) (b : Nat) : List Nat := (List.range i.nchunk).filter (fun j => i.bucketOf j == b)
/-- Bytes of chunk `j` of a vector or block. -/
def Inst.chunkLen (i : Inst) (j : Nat) : Nat := min i.cb (i.length - j * i.cb)
/-- NPOST. -/
def Inst.npost (i : Inst) : Nat := i.f 41 1
/-- STEP as packets carry it. -/
def Inst.stepWord (i : Inst) : Nat := i.step.getD 0xFFFFFFFF
/-- A region handle and its offset: 0 SRC, 1 DST, 2 AUX, 3 REC. -/
def Inst.handle (i : Inst) (k : Nat) : Nat := i.f (48 + 2 * k) 2
/-- Byte offset of the region `k`. -/
def Inst.off (i : Inst) (k : Nat) : Nat := i.f (56 + 8 * k) 8
/-- The accumulator format of R359. -/
def Inst.acc (i : Inst) : Format := if i.inFmt = .binary64 then .binary64 else .binary32
/-- The rounding controls of R360. -/
def Inst.nmode (i : Inst) : NMode :=
  { rm := (match i.f 3 1 % 4 with
      | 1 => .rtz
      | 2 => .rsr
      | _ => .rne)
    numberMM := bit (i.f 3 1) 3, ovfInf := bit (i.f 3 1) 2, bridge := 0, seed := i.f 28 4, stream := i.f 37 3 }
/-- The digest of bytes 0 to 39 (R353). -/
def Inst.digest (i : Inst) : Nat := crc64 (i.raw.take 40) % 2 ^ 32

/-! ### Trees and owners (R357, R358) -/

/-- TREES. -/
def Inst.trees (i : Inst) : Nat := max 1 (i.f 7 1)
/-- FANOUT. -/
def Inst.fanout (i : Inst) : Nat := max 2 (i.f 6 1)
/-- The tree of a chunk. -/
def Inst.treeOf (i : Inst) (j : Nat) : Nat := j % i.trees
/-- The root of tree `t`. -/
def Inst.rootOf (i : Inst) (t : Nat) : Nat := t * i.n / i.trees
/-- The place of a rank in tree `t`. -/
def Inst.q (i : Inst) (t r : Nat) : Nat := (r + i.n - i.rootOf t) % i.n
/-- The rank at a place of tree `t`. -/
def Inst.rankAt (i : Inst) (t q : Nat) : Nat := (q + i.rootOf t) % i.n
/-- The parent of a rank, none for the root. -/
def Inst.parent (i : Inst) (t r : Nat) : Option Nat :=
  if i.q t r = 0 then none else some (i.rankAt t ((i.q t r - 1) / i.fanout))
/-- The children of a rank in ascending logical rank. -/
def Inst.children (i : Inst) (t r : Nat) : List Nat :=
  sortNat ((((List.range i.fanout).map (fun k => i.q t r * i.fanout + 1 + k)).filter (fun q => decide (q < i.n))).map
    (i.rankAt t))
/-- The tree-0 neighbours of this rank. -/
def Inst.neighbours (i : Inst) : List Nat := (i.parent 0 i.rank).toList ++ i.children 0 i.rank
/-- The owner of a chunk. -/
def Inst.owner (i : Inst) (j : Nat) : Nat :=
  let b := i.bucketOf j
  let cb := (i.chunksOf b).length
  (j - b * i.bc) * i.n / max 1 cb
/-- The child of this rank on the path of tree `t` to rank `o`. The fuel is the depth of the tree. -/
def Inst.pathChild (i : Inst) (t : Nat) : Nat → Nat → Option Nat
  | 0, _ => none
  | k + 1, o =>
    match i.parent t o with
    | none => none
    | some p => if p = i.rank then some o else i.pathChild t k p

/-- The chunks that this member must write, as block and chunk. -/
def Inst.mustWrite (i : Inst) : List (Nat × Nat) :=
  let cs := List.range i.nchunk
  match i.op with
  | 0 => cs.map (fun j => (0, j))
  | 1 => (cs.filter (fun j => i.owner j == i.rank)).map (fun j => (0, j))
  | 2 | 4 => (List.range i.n).flatMap (fun r => cs.map (fun j => (r, j)))
  | 3 => cs.map (fun j => (0, j))
  | _ => []

/-! ### Instances in the engine -/

/-- The active instance of a descriptor. -/
def Dev.inst (d : Dev) (k : Nat) : Option Inst := d.col.insts.find? (fun i => i.desc == k)

/-- Replace the instance of its descriptor. -/
def Dev.setInst (d : Dev) (i : Inst) : Dev :=
  { d with col := { d.col with insts := d.col.insts.map (fun x => if x.desc = i.desc then i else x) } }

/-- Change the instance of a descriptor. -/
def Dev.onInst (d : Dev) (k : Nat) (f : Inst → Inst) : Dev :=
  { d with col := { d.col with insts := d.col.insts.map (fun x => if x.desc = k then f x else x) } }

/-- An instance runs: active and not aborted here. -/
def Dev.running (d : Dev) (k : Nat) : Bool := (d.inst k).any (fun i => i.abort.isNone)

/-- Bucket `b` is ready (R355). -/
def Inst.isReady (i : Inst) (b : Nat) : Bool := decide (i.npost ≤ SMap.get 0 b i.ready)
/-- Bucket `b` is excluded here. -/
def Inst.isExcl (i : Inst) (b : Nat) : Bool := i.excl.contains (b, i.rank)
/-- Bucket `b` is ready or excluded. -/
def Inst.settled (i : Inst) (b : Nat) : Bool := i.isReady b || i.isExcl b

/-! ### Sending (R364, R365, R375) -/

/-- The 16-byte header of a control payload. -/
def Inst.header (i : Inst) (rank kind tree : Nat) : List Nat :=
  toLE 4 i.gtag ++ toLE 4 i.colid ++ toLE 4 i.stepWord ++ toLE 2 rank ++ [kind, tree]

/-- The channel of a rank. -/
def Inst.chanTo (i : Inst) (r : Nat) : Nat := (i.members.getD r ⟨0, 0xFFF⟩).chan

/-- The channel of a rank may be used at a start: not 0xFFF, CLOSED or FAILED (R351). -/
def Dev.chanUsable (d : Dev) (c : Nat) : Bool :=
  c != 0xFFF && (match d.holder c with
    | some e => (d.chan e c).state != .failed
    | none => false)

/-- Send one service packet to a rank; false where its channel takes none. -/
def Dev.colSend (d : Dev) (i : Inst) (r op arg : Nat) (payload : List Nat) : Dev × Bool :=
  match d.holder (i.chanTo r) with
  | some e => d.submit e (i.chanTo r) op arg payload false (.col i.desc)
  | none => (d, false)

/-- Send a control packet whose channel may have failed: nothing then. -/
def Dev.colTell (d : Dev) (i : Inst) (r op : Nat) (payload : List Nat) : Dev := (d.colSend i r op 0 payload).1

/-- The last packet of a queue moves ahead of every unsent packet of an instance (R368); SEQs and a pending flush follow. -/
def Channel.hurry (x : Channel) (k : Nat) : Channel :=
  let n := x.queue.length
  let first := (x.txSeq + 65536 - n % 65536) % 65536
  let body := x.queue.take (n - 1)
  let at' := body.findIdx (fun q => q.2 == .col k)
  let new := body.take at' ++ x.queue.drop (n - 1) ++ body.drop at'
  let flush := x.flushTo.map (fun s =>
    if body.any (fun q => q.1.seq == s) && decide (at' ≤ body.findIdx (fun q => q.1.seq == s)) then (s + 1) % 65536 else s)
  { x with queue := new.zipIdx.map (fun (q, i) => ({ q.1 with seq := (first + i) % 65536 }, q.2)), flushTo := flush }

/-- Send a COL_ABORT: ahead of what the instance has queued there. -/
def Dev.colHurry (d : Dev) (i : Inst) (r : Nat) (payload : List Nat) : Dev :=
  match d.colSend i r 0x15 0 payload with
  | (d, true) =>
    match d.holder (i.chanTo r) with
    | some e => d.onChan e (i.chanTo r) (fun x => x.hurry i.desc)
    | none => d
  | (d, false) => d

/-- The pair of a node as it travels: v and c with the flags in v (R359). -/
def Node.codes (f : Format) (x : Node) : Nat × Nat :=
  if bit x.flags 0 || (bit x.flags 1 && bit x.flags 2) then (f.canonNan, 0)
  else if bit x.flags 1 then (f.shape.infCode, 0)
  else if bit x.flags 2 then (f.withSign true f.shape.infCode, 0)
  else (x.v, x.c)

/-- The node a pair stands for. -/
def nodeOf (f : Format) (v c : Nat) : Node :=
  match f.decode v with
  | .fin .. => ⟨v, c, 0⟩
  | x => ⟨0, 0, productFlags x⟩

/-- The data packets of a transfer: 256 bytes each. -/
def Dev.colData (d : Dev) (i : Inst) (r xfer : Nat) : Nat → List (List Nat) → Dev × Bool
  | _, [] => (d, true)
  | o, bs :: rest =>
    let (d, ok) := d.colSend i r 0x11 (xfer + o * 2 ^ 16) bs
    if ok then d.colData i r xfer (o + bs.length) rest else (d, false)

/-- Open a transfer: COL_BEGIN with the next transfer number. -/
def Dev.colOpen (d : Dev) (i : Inst) (r kind tree chunk bytes dst : Nat) : Dev × Nat × Bool :=
  let x := d.col.nextXfer
  let d := { d with col := { d.col with nextXfer := (x + 1) % 65536 } }
  let (d, ok) := d.colSend i r 0x10 x
    (i.header i.rank kind tree ++ toLE 4 chunk ++ toLE 4 bytes ++ toLE 4 i.digest ++ toLE 8 dst ++ toLE 4 0)
  (d, x, ok)

/-- The data and COL_END of a transfer. -/
def Dev.colClose (d : Dev) (i : Inst) (r xfer : Nat) (data : List Nat) (s : ChunkStat) : Dev × Bool :=
  let (d, ok) := d.colData i r xfer 0 (chunks 256 data.length data)
  if ok then
    d.colSend i r 0x12 xfer
      (toLE 8 (crc64 data) ++ toLE 4 s.m ++ toLE 4 s.nfold ++ toLE 8 s.a.1 ++ toLE 8 s.a.2 ++ toLE 8 s.b.1 ++ toLE 8 s.b.2
        ++ List.replicate 16 0)
  else (d, false)

/-- A whole transfer. -/
def Dev.colTransfer (d : Dev) (i : Inst) (r kind tree chunk dst : Nat) (data : List Nat) (s : ChunkStat) : Dev × Bool :=
  let (d, x, ok) := d.colOpen i r kind tree chunk data.length dst
  if ok then d.colClose i r x data s else (d, false)

/-! ### Completion (R367, R370, R376) -/

/-- The source number of a bucket's doorbell. -/
def Inst.bellOf (i : Inst) (b : Nat) : Nat := i.f 42 2 + b

/-- Present contributions of a bucket: every member but the excluded ones. -/
def Inst.bucketM (i : Inst) (b : Nat) : Nat := i.n - (i.excl.filter (fun p => p.1 == b)).length

/-- The statistics pair of a bucket: its chunks in ascending order, rounded once to binary64 (R363). -/
def Inst.bucketStat (i : Inst) (b : Nat) (pick : ChunkStat → Nat × Nat) : Nat :=
  let ns := (i.chunksOf b).filterMap (fun j => (SMap.find j i.stats).map (fun s =>
    nodeOf .binary64 (pick s).1 (pick s).2))
  match ns with
  | [] => 0
  | x :: rest => rneCode .binary64 (Node.value .binary64 (rest.foldl (Node.combine .binary64) x))

/-- Folded entries of a bucket that this member folded. -/
def Inst.bucketFolds (i : Inst) (b : Nat) : Nat := (i.folds.filter (fun f => i.bucketOf f.chunk == b)).length

/-- Pad to the next 64-byte boundary. -/
def pad64 (bs : List Nat) : List Nat := bs ++ List.replicate ((64 - bs.length % 64) % 64) 0

/-- The completion record (Table 13-7). -/
def Inst.record (i : Inst) (ab : Option AbortRec) (notAgreed : Bool) (now : Nat) : List Nat :=
  let na := 0xFFFFFFFF
  let head := toLE 4 i.colid ++ toLE 4 i.stepWord
    ++ [b2n ab.isSome, (ab.map (fun a => a.code)).getD 0]
    ++ toLE 2 (b2n notAgreed + 2 * b2n (i.flag 0) + 4 * b2n (i.flag 1) + 8 * b2n (i.flag 3))
    ++ toLE 4 ((ab.map (fun a => a.rank)).getD na) ++ toLE 4 ((ab.map (fun a => a.chunk)).getD na)
    ++ toLE 4 ((ab.map (fun a => a.origin)).getD na)
    ++ toLE 4 i.nbucket ++ toLE 4 i.folds.length ++ toLE 4 i.digest ++ toLE 6 i.start ++ toLE 6 now
    ++ List.replicate 16 0
  let known (b : Nat) : Bool := i.reduces && (ab.isNone || (i.chunksOf b).all (fun j => (SMap.find j i.stats).isSome))
  let buckets := (List.range i.nbucket).flatMap (fun b =>
    toLE 4 (if known b then i.bucketM b else 0) ++ toLE 4 (i.bucketFolds b)
      ++ toLE 8 (if i.flag 2 then i.bucketStat b (fun s => s.a) else 0)
      ++ toLE 8 (if i.flag 2 then i.bucketStat b (fun s => s.b) else 0) ++ List.replicate 8 0)
  let maps := if i.flag 1 then (List.range i.nbucket).flatMap (fun b =>
      pad64 ((List.range (ceilDiv i.n 8)).map (fun k =>
        ofBits ((List.range 8).filter (fun t => i.excl.contains (b, 8 * k + t))))))
    else []
  let folds := i.folds.flatMap (fun f =>
    toLE 2 f.rank ++ [0, 0] ++ toLE 4 f.chunk ++ toLE 4 f.step ++ toLE 4 (staleness (i.step.getD 0) f.step))
  pad64 (pad64 (head ++ buckets) ++ maps) ++ folds

/-- Drop every queued, unsent packet of an instance (R368). -/
def Dev.dropInst (d : Dev) (k : Nat) : Dev :=
  { d with brezin := { d.brezin with
      chans := d.brezin.chans.map (fun c => (c.1, c.2.dropQueued (fun o => o == .col k))) } }

/-- The instance completes (R367, R368, R370, R376): its record, doorbells, COLLECTIVE_DONE, and what it hands to STP.
STP's own commit vote has no descriptor: it writes no record and posts no completion (DESIGN CHOICE, log entry 32). -/
def Dev.colComplete (d : Dev) (k : Nat) (ab : Option AbortRec) (notAgreed : Bool) : Dev :=
  match d.inst k with
  | none => d
  | some i =>
    let vote := decide (1024 ≤ k)
    let missing := d.record 0x0005 pCOL 0 (i.handle 3) i.stepWord 0
    let d := if vote then d else
      match d.writeRegion (i.handle 3) (i.off 3) (i.record ab notAgreed d.cad.mark) false with
      | some d' => d'
      | none => missing
    let d := if ab.isNone ∧ !vote ∧ !i.flag 0 then
        (List.range i.nbucket).foldl (fun d b => d.doorbell 1 (i.bellOf b)) d
      else d
    let d := if vote then d
      else d.postUnsolicited 4 (b2n ab.isSome) i.colid ((ab.map (fun a => a.code)).getD 0) i.stepWord
    let d := match ab with
      | none => d.fcount colCommitcntCount 0 1
      | some a =>
        let d := (d.fcount colAbortcntCount 0 1).fset colLasterrCode 0 a.code
        let d := (d.fset colLasterrNotAgreed 0 (b2n notAgreed)).fset colLasterridColid 0 i.colid
        let d := (d.fset colLasterrrankRank 0 a.rank).fset colLasterrchunkChunk 0 a.chunk
        d.record 0x5005 pCOL 0 i.colid (a.code + a.origin * 256) a.rank
    let terms := if ab.isNone && i.flag 2 then
        (List.range i.nbucket).map (fun b =>
          NoiseTerm.mk i.colid b (i.bucketM b) (i.bucketStat b (fun s => s.a)) (i.bucketStat b (fun s => s.b)))
      else []
    let late := if ab.isNone then
        (i.excl.filter (fun p => p.2 == i.rank)).filterMap (fun p =>
          if i.isReady p.1 then none else some (p.1, i.npost - SMap.get 0 p.1 i.ready))
      else []
    let fin : Finished :=
      { gtag := i.gtag, colid := i.colid, step := i.stepWord, rank := i.rank, desc := k, abort := ab, raw := i.raw
        late := late }
    let ev : ColEvent :=
      { desc := k, step := i.step, vote := vote, committed := ab.isNone, colid := i.colid, terms := terms, nexcl := i.excl.length
        nfold := i.folds.length }
    { d with col := { d.col with
        insts := d.col.insts.filter (fun x => x.desc != k)
        finished := d.col.finished.filter (fun g =>
          g.gtag != i.gtag || g.colid != i.colid || g.step != i.stepWord) ++ [fin]
        events := d.col.events ++ [ev] } }

/-- COL_DECIDE or COL_ABORT: the record after the header. -/
def decisionBytes (ab : Option AbortRec) : List Nat :=
  match ab with
  | none => [0, 0, 0, 0] ++ toLE 4 0 ++ toLE 4 0 ++ toLE 4 0
  | some a => [1, a.code, 0, 0] ++ toLE 4 a.rank ++ toLE 4 a.chunk ++ toLE 4 a.origin

/-- Rank 0 decides, or a rank takes the decision: it goes down tree 0, and the instance completes (R367, R368). -/
def Dev.colDecide (d : Dev) (k : Nat) (ab : Option AbortRec) : Dev :=
  match d.inst k with
  | none => d
  | some i =>
    let d := if ab.isSome then d.dropInst k else d
    let d := (i.children 0 i.rank).foldl (fun d r => d.colTell i r 0x14 (i.header i.rank 0 0 ++ decisionBytes ab)) d
    d.colComplete k ab false

/-- A member aborts an instance (R368): its first record stands. -/
def Dev.colAbort (d : Dev) (k code rank chunk : Nat) : Dev :=
  match d.inst k with
  | none => d
  | some i =>
    if i.abort.isSome then d
    else
      let a : AbortRec := ⟨code, rank, chunk, i.rank⟩
      let d := (d.dropInst k).onInst k (fun i => { i with abort := some a })
      if i.n ≤ 1 ∨ i.rank = 0 then d.colDecide k (some a)
      else match i.parent 0 i.rank with
        | some r => d.colHurry i r (i.header i.rank 0 0 ++ decisionBytes (some a))
        | none => d

/-- Where ERRCHUNK or ERRRANK does not apply. -/
def noChunk : Nat := 0xFFFFFFFF

/-- Abort with the code that `ok = false` stands for: the channel to `r` took no packet (R351). -/
def Dev.colSent (x : Dev × Bool) (k r : Nat) : Dev := if x.2 then x.1 else x.1.colAbort k 0x04 r noChunk

/-! ### Reading and writing data -/

/-- Read bytes of SRC for this instance: poison and failure abort it (R366, Table 13-5). -/
def Dev.colRead (d : Dev) (m : Mem) (i : Inst) (o n chunk : Nat) : Dev × Option (List Nat) :=
  let d' := d.noteRegion (i.handle 0) (i.off 0 + o) n
  match d.readRegion m (i.handle 0) (i.off 0 + o) n with
  | none => (d'.colAbort i.desc 0x11 i.rank chunk, none)
  | some (bs, bad) => if bad then (d'.colAbort i.desc 0x02 i.rank chunk, none) else (d', some bs)

/-- Every move that comes to this member, its own among them, has been written (R374). -/
def Inst.movesWritten (i : Inst) : Bool :=
  i.movesBegun && i.moves.all (fun x => x.rank != i.rank) && i.got.all (fun x => x.kind != 4) && i.inc.isEmpty
    && decide (i.f 100 4 ≤ i.inMoves.foldl (fun n e => n + e.2) 0)

/-- Every chunk of a bucket that this member writes has been written: at once where it writes none. -/
def Inst.bucketWritten (i : Inst) (b : Nat) : Bool :=
  if i.op = 5 then i.movesWritten else (i.mustWrite.filter (fun w => i.bucketOf w.2 == b)).all (fun w => i.done.contains w)

/-- Early use: the doorbell of a bucket whose chunks this member writes are all written (R301, R370). -/
def Dev.earlyBell (d : Dev) (k : Nat) (b : Nat) : Dev :=
  match d.inst k with
  | some i =>
    if i.flag 0 && i.abort.isNone && !i.belled.contains b && i.bucketWritten b then
      (d.setInst { i with belled := i.belled ++ [b] }).doorbell 1 (i.bellOf b)
    else d
  | none => d

/-- Write a chunk of a block to DST, after its check (R365). -/
def Dev.colWrite (d : Dev) (k block j o : Nat) (data : List Nat) : Dev :=
  match d.inst k with
  | none => d
  | some i =>
    match d.writeRegion (i.handle 1) (i.off 1 + o) data false with
    | none => d.colAbort k 0x11 i.rank j
    | some d =>
      let d := d.onInst k (fun i => { i with done := i.done ++ [(block, j)] })
      d.earlyBell k (i.bucketOf j)

/-- Where chunk `j` of a vector goes in DST. -/
def Inst.dstOff (i : Inst) (j : Nat) : Nat := j * i.cb / i.e * i.eo

/-! ### Reduction (R359, R360, R363) -/

/-- The elements of a chunk's bytes in a format. -/
def elementsOf (f : Format) (bs : List Nat) : List Nat := (chunks (f.width / 8) bs.length bs).map ofLE

/-- A leaf of the reduction: a sum takes R167's; a maximum or minimum keeps the value itself. -/
def Inst.leaf (i : Inst) (c : Nat) : Node := Node.leaf i.acc (i.inFmt.decode c)

/-- Combine two present elements: R167 for SUM, Table 4-6 for MAX and MIN. -/
def Inst.combine (i : Inst) (p q : Node) : Node :=
  match i.f 2 1 % 4 with
  | 0 => Node.combine i.acc p q
  | r => Node.leaf i.acc (tensorMinMax i.nmode.numberMM (r == 1) (Node.value i.acc p) (Node.value i.acc q))

/-- Combine two chunks of nodes, either of which may be ABSENT (empty). -/
def Inst.combineAll (i : Inst) (p q : List Node) : List Node :=
  if p.isEmpty then q else if q.isEmpty then p else (p.zip q).map (fun (a, b) => i.combine a b)

/-- The nodes that a received contribution or partial stands for. -/
def Inst.nodesOf (i : Inst) (x : Xfer) : List Node :=
  if x.data.isEmpty then []
  else if x.kind = 1 then
    let es := elementsOf i.acc x.data
    let n := es.length / 2
    (List.range n).map (fun k => nodeOf i.acc (es.getD k 0) (es.getD (n + k) 0))
  else (elementsOf i.inFmt x.data).map i.leaf

/-- The bytes of a partial: the v plane, then the c plane. -/
def Inst.partialBytes (i : Inst) (ns : List Node) : List Nat :=
  let w := i.acc.width / 8
  let cs := ns.map (fun n => n.codes i.acc)
  cs.flatMap (fun p => toLE w p.1) ++ cs.flatMap (fun p => toLE w p.2)

/-- The sum of squares of values, as a pair (R363). -/
def squarePair (vs : List Val) : Node :=
  (treeOf (Node.combine .binary64) (vs.map (fun v =>
    some (Node.leaf .binary64 (rneVal .binary64 (Val.mul v v)))))).getD ⟨0, 0, 0⟩

/-- Combine two statistics pairs. -/
def addPair (p q : Nat × Nat) : Nat × Nat :=
  (Node.combine .binary64 (nodeOf .binary64 p.1 p.2) (nodeOf .binary64 q.1 q.2)).codes .binary64

/-- What this member's own data and its children give for a chunk: the partial, M, the folds below, and the A pair. -/
def Inst.partialOf (i : Inst) (own : Option (List Nat)) (kids : List Xfer) (ownFolds : Nat) : List Node × ChunkStat :=
  let leaf := (own.map (fun bs => (elementsOf i.inFmt bs).map i.leaf)).getD []
  let ns := kids.foldl (fun p x => i.combineAll p (i.nodesOf x)) leaf
  let a0 : Option (Nat × Nat) := if i.flag 2 then own.map (fun bs =>
    (squarePair ((elementsOf i.inFmt bs).map i.inFmt.decode)).codes .binary64) else none
  let a := kids.foldl (fun (p : Option (Nat × Nat)) x =>
    if i.flag 2 ∧ 0 < x.m then some (match p with
      | some q => addPair q x.a
      | none => x.a) else p) a0
  (ns, { m := kids.foldl (fun n x => n + x.m) (b2n own.isSome), nfold := kids.foldl (fun n x => n + x.nfold) ownFolds
         a := a.getD (0, 0), b := (0, 0) })

/-- The scaling factor of R360. -/
def Inst.factor (i : Inst) (m : Nat) : Val :=
  match bits (i.f 2 1) 2 2 with
  | 1 => rneVal .binary64 (Val.div .one (.ofInt m))
  | 2 => rneVal .binary64 (Val.div (.ofInt i.n) (.ofInt m))
  | _ => .one

/-- The result bytes of a chunk (R360 steps 3 to 6). `folds` stand in ascending RANK and then STEP. -/
def Inst.finish (i : Inst) (j len : Nat) (s : List Node) (folds : List (List Nat)) (m : Nat) : List Nat :=
  let n := len / i.e
  if m = 0 then List.replicate (n * i.eo) 0
  else
    let all := folds.foldl (fun p bs => i.combineAll p ((elementsOf i.inFmt bs).map i.leaf)) s
    let f := i.factor m
    let base := j * i.cb / i.e
    all.zipIdx.flatMap (fun (x, k) =>
      let v := match Node.value i.acc x with
        | .fin neg mm e => Val.mul (.fin neg mm e) f
        | w => w
      let r := i.nmode.stoch (i.step.getD 0) (i.f 32 5) (base + k)
      toLE i.eo (i.outFmt.plusZero (i.outFmt.roundFloat i.nmode r v).1))

/-- Received transfers of a chunk from a rank. -/
def Inst.gotFrom (i : Inst) (kind2 : Nat → Bool) (j r : Nat) : Option Xfer :=
  i.got.find? (fun x => kind2 x.kind && x.chunk == j && x.rank == r)

/-- The entry that a FOLD transfer carries: RANK in the low, STEP in the high half of bytes 28 to 35 of its COL_BEGIN
(PRESUMED, log entry 33). -/
def foldKey (x : Xfer) : Nat × Nat := (x.dst % 2 ^ 32, x.dst / 2 ^ 32)

/-- Order FOLD transfers by RANK, then STEP. -/
def sortFolds (xs : List Xfer) : List Xfer :=
  sortBy (fun a b =>
    decide ((foldKey a).1 < (foldKey b).1) || ((foldKey a).1 == (foldKey b).1 && decide ((foldKey a).2 ≤ (foldKey b).2))) xs

/-- Send a result chunk on: to every child of its tree, or along the path to the owner. -/
def Dev.sendResult (d : Dev) (k j : Nat) (data : List Nat) (s : ChunkStat) : Dev :=
  match d.inst k with
  | none => d
  | some i =>
    let t := i.treeOf j
    let rs := if i.op = 0 then i.children t i.rank else (i.pathChild t 64 (i.owner j)).toList
    rs.foldl (fun d r => if d.running k then Dev.colSent (d.colTransfer i r 2 t j 0 data s) k r else d) d

/-- Statistics of a REDUCESCATTER chunk go to every member along tree 0 as an empty result transfer (PRESUMED, log entry
33); `from_` is the neighbour it came from. -/
def Dev.sendStats (d : Dev) (k j : Nat) (s : ChunkStat) (from_ : Option Nat) : Dev :=
  match d.inst k with
  | none => d
  | some i =>
    if i.op = 1 && (i.flag 2 || i.flag 1) then
      (i.neighbours.filter (fun r => some r != from_)).foldl (fun d r =>
        if d.running k then Dev.colSent (d.colTransfer i r 2 0 j 1 [] s) k r else d) d
    else d

/-- Keep what a chunk's result carried. -/
def Inst.keepStat (i : Inst) (j : Nat) (s : ChunkStat) : Inst := { i with stats := SMap.insert j s i.stats }

/-- Chunk `j` of a reduction: form the partial once this member's bucket is settled and every child's partial is here;
send it up, or finish at the root. -/
def Dev.reduceChunk (d : Dev) (m : Mem) (k j : Nat) : Dev :=
  match d.inst k with
  | none => d
  | some i =>
    let t := i.treeOf j
    let kids := (i.children t i.rank).map (i.gotFrom (fun n => n ≤ 1) j)
    let foldsIn := i.got.filter (fun x => x.kind == 5 && x.chunk == j)
    let need := kids.foldl (fun n x => n + (x.map (fun y => y.nfold)).getD 0) 0
    let root := (i.parent t i.rank).isNone
    if i.abort.isSome || i.sent.contains (0, j) || !i.settled (i.bucketOf j) || kids.any (fun x => x.isNone)
        || (i.flag 1 && i.step.isSome && !i.foldsTaken) || (root && decide (foldsIn.length < need)) then d
    else
      let excl := i.isExcl (i.bucketOf j)
      let (d, own) := if excl then (d, none) else d.colRead m i (j * i.cb) (i.chunkLen j) j
      if own.isNone && !excl then d
      else
        let mine := i.folds.filter (fun f => f.chunk == j)
        let (ns, st) := i.partialOf own (kids.filterMap id) mine.length
        let d := d.onInst k (fun i => { i with sent := i.sent ++ [(0, j)], got := i.got.filter (fun x => x.chunk != j) })
        match i.parent t i.rank with
        | some p =>
          -- the folds of this member and of its subtree go up as they are
          let d := mine.foldl (fun d f =>
            if d.running k then Dev.colSent (d.colTransfer i p 5 t j (f.rank + f.step * 2 ^ 32) f.data ⟨0, 0, (0, 0), (0, 0)⟩)
              k p else d) d
          let (kind, data) := if (i.children t i.rank).isEmpty then (0, own.getD []) else
            (1, if ns.isEmpty then [] else i.partialBytes ns)
          if d.running k then Dev.colSent (d.colTransfer i p kind t j 0 data st) k p else d
        | none =>
          let ownX := mine.map (fun f => Xfer.mk i.rank 0 0 5 t j f.data.length (f.rank + f.step * 2 ^ 32) f.data 0 0 (0, 0)
            (0, 0) 0 true)
          let fs := (sortFolds (ownX ++ foldsIn)).map (fun x => x.data)
          let b := if i.flag 2 ∧ 0 < st.m then
              (squarePair (ns.map (fun x => rneVal .binary64 (Node.value i.acc x)))).codes .binary64
            else (0, 0)
          let s := { st with nfold := fs.length, b := b }
          let data := i.finish j (i.chunkLen j) ns fs (st.m + fs.length)
          let d := d.onInst k (fun i => i.keepStat j s)
          let d := if i.op = 0 ∨ i.owner j = i.rank then d.colWrite k 0 j (i.dstOff j) data else d
          ((d.sendResult k j data s).sendStats k j s none)

/-! ### Folding (R373) -/

/-- Take the live entries of this collective from the working ledger, once the step's copy of it is complete. -/
def Dev.takeFolds (d : Dev) (m : Mem) (k : Nat) : Dev :=
  match d.inst k with
  | none => d
  | some i =>
    if i.abort.isSome || i.foldsTaken || !i.flag 1 || i.step.isNone || d.stp.copyPending then d
    else
      let d := d.onInst k (fun i => { i with foldsTaken := true })
      if !d.ledgerOn then d
      else (d.liveSlots m true).foldl (fun d s =>
        match d.slotHeader m true s with
        | none => d
        | some h =>
          let f (o n : Nat) : Nat := ofLE ((h.drop o).take n)
          if f 4 4 ≠ i.colid then d
          else
            let j := f 8 4
            let len := f 16 4
            let ok := decide (j < i.nchunk) && f 1 1 == i.f 4 1 && len == i.chunkLen j
            match if ok then d.readRegion m (d.ledgerName true) (4096 + s * d.slotBytes + 64) len else none with
            | some (bs, _) =>
              let d := d.noteRegion (d.ledgerName true) (4096 + s * d.slotBytes + 64) len
              ((d.onInst k (fun i => { i with folds := i.folds ++ [⟨f 2 2, j, f 12 4, bs⟩] })).fcount colFoldcntFolded 0
                1).freeSlot m s
            | none => { (d.fcount colFoldcntDrop 0 1).freeSlot m s with stp := { d.stp with ndrop := d.stp.ndrop + 1 } }) (d.noteSlots true)

/-! ### Data that is not reduced (R362) -/

/-- Send this member's blocks of ALLGATHER, BROADCAST and ALLTOALL whose buckets are ready. -/
def Dev.sendBlocks (d : Dev) (m : Mem) (k j : Nat) : Dev :=
  match d.inst k with
  | none => d
  | some i =>
    if i.abort.isSome || i.sent.contains (0, j) || !i.settled (i.bucketOf j) || (i.op == 3 && i.rank != i.f 24 2) then d
    else
      let d := d.onInst k (fun i => { i with sent := i.sent ++ [(0, j)] })
      let len := i.chunkLen j
      if i.op = 4 then
        (List.range i.n).foldl (fun d r =>
          if d.running k then
            match d.colRead m i (r * i.length + j * i.cb) len j with
            | (d, none) => d
            | (d, some bs) =>
              if r = i.rank then d.colWrite k r j (r * i.length + j * i.cb) bs
              else Dev.colSent (d.colTransfer i r 3 0 j i.rank bs ⟨0, 0, (0, 0), (0, 0)⟩) k r
          else d) d
      else
        match d.colRead m i (j * i.cb) len j with
        | (d, none) => d
        | (d, some bs) =>
          let block := if i.op = 2 then i.rank else 0
          let d := d.colWrite k block j (block * i.length + j * i.cb) bs
          i.neighbours.foldl (fun d r =>
            if d.running k then Dev.colSent (d.colTransfer i r 3 0 j block bs ⟨0, 0, (0, 0), (0, 0)⟩) k r else d) d

/-! ### Permute (R374) -/

/-- Read the move list, chunk every move, and announce every chunk that goes to another rank. Offsets of moves count from
SRCOFF and DSTOFF (DEDUCED, log entry 34). -/
def Dev.beginMoves (d : Dev) (m : Mem) (k : Nat) : Dev :=
  match d.inst k with
  | none => d
  | some i =>
    if i.abort.isSome || i.movesBegun || !i.settled 0 then d
    else
      let d := (d.onInst k (fun i => { i with movesBegun := true })).noteRegion (i.handle 2) (i.off 2) (24 * i.f 96 4)
      match d.readRegion m (i.handle 2) (i.off 2) (24 * i.f 96 4) with
      | none => d.colAbort k 0x11 i.rank noChunk
      | some (list, bad) =>
        if bad then d.colAbort k 0x02 i.rank noChunk
        else
          (List.range (i.f 96 4)).foldl (fun d q =>
            let e := (list.drop (24 * q)).take 24
            let f (o n : Nat) : Nat := ofLE ((e.drop o).take n)
            let (src, dst, len, r) := (f 0 8, f 8 8, f 16 4, f 20 2)
            if !d.running k then d
            else if src % 64 ≠ 0 ∨ dst % 64 ≠ 0 ∨ len % 64 ≠ 0 ∨ len = 0 ∨ f 22 2 ≠ 0 ∨ i.n ≤ r then
              d.colAbort k 0x07 i.rank 80
            else
              (List.range (ceilDiv len i.cb)).foldl (fun d c =>
                if !d.running k then d
                else
                  let n := min i.cb (len - c * i.cb)
                  let (d, x, ok) := if r = i.rank then (d, 0, true) else
                    d.colOpen i r 4 0 c n (i.off 1 + dst + c * i.cb)
                  let d := d.onInst k (fun i => { i with moves := i.moves ++
                    [⟨r, x, i.off 0 + src + c * i.cb, i.off 1 + dst + c * i.cb, n, q, none⟩] })
                  Dev.colSent (d, ok) k r) d) d

/-- Outgoing reads of one region and range are still pending. -/
def Dev.readPending (d : Dev) (i : Inst) (o n : Nat) : Bool :=
  d.resolve (i.handle 0) == d.resolve (i.handle 1)
    && i.moves.any (fun x => x.staged.isNone && decide (x.src < o + n) && decide (o < x.src + x.len))

/-- Stage the oldest outgoing read: one chunk slot of scratch is kept for it. -/
def Dev.stageMove (d : Dev) (m : Mem) (k : Nat) : Dev :=
  match d.inst k with
  | none => d
  | some i =>
    if i.abort.isSome || i.moves.any (fun x => x.staged.isSome) then d
    else match i.moves with
      | [] => d
      | x :: rest =>
        let d := d.noteRegion (i.handle 0) x.src x.len
        match d.readRegion m (i.handle 0) x.src x.len with
        | none => d.colAbort k 0x11 i.rank noChunk
        | some (bs, bad) =>
          if bad then d.colAbort k 0x02 i.rank noChunk
          else if x.rank = i.rank then
            d.setInst { i with moves := rest, got := i.got ++ [⟨i.rank, 0, 0, 4, 0, 0, x.len, x.dst, bs, 0, 0, (0, 0), (0, 0),
              x.move, true⟩] }
          else d.setInst { i with moves := { x with staged := some bs } :: rest }

/-- Write the bytes of a received move that no higher (source rank, move index) has written. -/
def Dev.writeMove (d : Dev) (k : Nat) (x : Xfer) : Dev :=
  match d.inst k with
  | none => d
  | some i =>
    let beats (o : Nat) : Bool := i.written.any (fun w =>
      decide (w.1 ≤ o) && decide (o < w.1 + w.2.1)
        && (decide (x.rank < w.2.2.1) || (w.2.2.1 == x.rank && decide (x.move < w.2.2.2))))
    let r := x.data.zipIdx.foldl (fun (acc : Option Dev) (b, n) =>
      if beats (x.dst + n) then acc else acc.bind (fun d => d.writeRegion (i.handle 1) (x.dst + n) [b] false)) (some d)
    match r with
    | none => d.colAbort k 0x11 i.rank x.chunk
    | some d => d.onInst k (fun i => { i with
        got := i.got.erase x, written := i.written ++ [(x.dst, x.data.length, x.rank, x.move)] })

/-- Grant what may be granted, and write what need not wait any longer. -/
def Dev.grantMoves (d : Dev) (k : Nat) : Dev :=
  match d.inst k with
  | none => d
  | some i =>
    if i.abort.isSome then d
    else
      let d := i.got.foldl (fun d x =>
        if x.kind = 4 ∧ d.running k ∧ !((d.inst k).any (fun i => d.readPending i x.dst x.data.length)) then d.writeMove k x
        else d) d
      let slots := i.f 120 8 / i.cb - 1
      i.inc.foldl (fun d x =>
        match d.inst k with
        | none => d
        | some i =>
          let held := (i.got.filter (fun y => y.kind == 4)).length
            + (i.inc.filter (fun y => y.granted && d.readPending i y.dst y.bytes)).length
          if x.kind = 4 ∧ !x.granted ∧ i.abort.isNone ∧ (!d.readPending i x.dst x.bytes ∨ held < slots) then
            let d := d.onInst k (fun i => { i with inc := i.inc.map (fun y => if y = x then { y with granted := true } else y) })
            Dev.colSent (d.colSend i x.rank 0x17 x.xfer (i.header i.rank 0 0)) k x.rank
          else d) d

/-! ### Exclusion (R371) -/

/-- Bytes of a bucket's bitmap, and its pieces of at most 192 bytes: bucket and first bit. -/
def Inst.pieces (i : Inst) : List (Nat × Nat) :=
  (List.range i.nbucket).flatMap (fun b =>
    (List.range (ceilDiv (ceilDiv i.n 8) 192)).map (fun p => (b, p * 1536)))

/-- The bytes of a piece. -/
def Inst.pieceBytes (i : Inst) (b first : Nat) : List Nat :=
  (List.range (min 192 (ceilDiv i.n 8 - first / 8))).map (fun k =>
    ofBits ((List.range 8).filter (fun t => i.excl.contains (b, first + 8 * k + t))))

/-- Send one piece of a bitmap to every tree-0 child. -/
def Dev.sendPiece (d : Dev) (k b first : Nat) (bytes : List Nat) : Dev :=
  match d.inst k with
  | none => d
  | some i => (i.children 0 i.rank).foldl (fun d r =>
      d.colTell i r 0x16 (i.header i.rank 0 0 ++ toLE 4 b ++ toLE 4 first ++ bytes)) d

/-- Rank 0 holds every exclusion once the present contributions it knows of and the exclusions make up the group. -/
def Inst.mapsKnown (i : Inst) : Bool :=
  (List.range i.nbucket).all (fun b => (i.chunksOf b).all (fun j =>
    (SMap.find j i.stats).any (fun s => s.m == i.bucketM b)))

/-- Rank 0 sends the complete bitmaps down tree 0. -/
def Dev.sendMaps (d : Dev) (k : Nat) : Dev :=
  match d.inst k with
  | none => d
  | some i =>
    if i.flag 1 && i.rank == 0 && i.abort.isNone && !i.mapsSent && i.mapsKnown then
      let d := d.onInst k (fun i => { i with mapsSent := true, maps := i.pieces })
      i.pieces.foldl (fun d p => d.sendPiece k p.1 p.2 (i.pieceBytes p.1 p.2)) d
    else d

/-! ### Voting (R367) -/

/-- No packet of this instance waits for an acknowledgement. -/
def Dev.instAcked (d : Dev) (k : Nat) : Bool :=
  d.brezin.chans.all (fun c => (c.2.queue ++ c.2.unacked).all (fun q => q.2 != .col k))

/-- Every channel of the captured bank has every packet acknowledged. -/
def Dev.bankAcked (d : Dev) (i : Inst) : Bool :=
  i.members.zipIdx.all (fun (x, r) => r == i.rank || x.chan == 0xFFF || (match d.holder x.chan with
    | some e => (d.chan e x.chan).queue.isEmpty && (d.chan e x.chan).unacked.isEmpty
    | none => true))

/-- This member's own conditions for a vote. -/
def Dev.mayVote (d : Dev) (i : Inst) : Bool :=
  i.abort.isNone && (List.range i.nbucket).all i.settled && i.mustWrite.all (fun w => i.done.contains w)
    && (!i.reduces || (List.range i.nchunk).all (fun j => i.sent.contains (0, j)))
    && (!(i.reduces && i.flag 2) || (List.range i.nchunk).all (fun j => (SMap.find j i.stats).isSome))
    && (!i.flag 1 || i.pieces.all (fun p => i.maps.contains p))
    && (i.op != 5 || (i.movesWritten && i.moves.isEmpty && d.instAcked i.desc))
    && (decide (i.op < 6) || d.bankAcked i)

/-- Vote once this member and every tree-0 child has; rank 0 decides COMMIT. -/
def Dev.voteNow (d : Dev) (k : Nat) : Dev :=
  match d.inst k with
  | none => d
  | some i =>
    if i.voted || !d.mayVote i || !(i.children 0 i.rank).all (fun r => i.votes.contains r) then d
    else
      let d := d.setInst { i with voted := true }
      match i.parent 0 i.rank with
      | none => d.colDecide k none
      | some p => Dev.colSent (d.colSend i p 0x13 0 (i.header i.rank 0 0)) k p

/-! ### Advance -/

/-- One pass over everything an instance may do now. -/
def Dev.colPass (d : Dev) (m : Mem) (k : Nat) : Dev :=
  match d.inst k with
  | none => d
  | some i =>
    let cs := List.range i.nchunk
    let d := match i.op with
      | 0 | 1 => cs.foldl (fun (d : Dev) j => d.reduceChunk m k j) (d.takeFolds m k)
      | 2 | 3 | 4 => cs.foldl (fun (d : Dev) j => d.sendBlocks m k j) d
      | 5 => (((d.beginMoves m k).stageMove m k).grantMoves k)
      | _ => d
    let d := (List.range i.nbucket).foldl (fun (d : Dev) b => d.earlyBell k b) d
    (d.sendMaps k).voteNow k

/-- Passes until nothing is left to stage. The fuel bounds the moves of a member. -/
def Dev.colPasses (d : Dev) (m : Mem) (k : Nat) : Nat → Dev
  | 0 => d
  | n + 1 =>
    let d' := d.colPass m k
    if (d'.inst k).any (fun i => i.abort.isNone && i.op == 5) ∧ d'.col ≠ d.col then d'.colPasses m k n else d'

/-- Everything an instance may do now. -/
def Dev.colAdvance (d : Dev) (m : Mem) (k : Nat) : Dev :=
  match d.inst k with
  | none => d
  | some i => d.colPasses m k (2 * i.moves.length + 2 * i.f 96 4 + 4)

/-- Every instance that runs. -/
def Dev.colAdvanceAll (d : Dev) (m : Mem) : Dev :=
  (d.col.insts.map (fun i => i.desc)).foldl (fun d k => d.colAdvance m k) d

/-! ### Starting (R349 to R356) -/

/-- Where a group's member table starts in its region. -/
def Dev.groupOff (d : Dev) (g : Nat) : Nat := d.fget colGrpoffLoOffLo g * 4096 + d.fget colGrpoffHiOffHi g * 2 ^ 32

/-- The member table under a bank; the own entry is ignored. -/
def Dev.readMembers (d : Dev) (m : Mem) (g n bank : Nat) : Option (List Member) :=
  (d.readRegion m (d.fget colGrpregHandle g) (d.groupOff g) (16 * n)).map (fun r =>
    (List.range n).map (fun k =>
      let e := (r.1.drop (16 * k)).take 16
      ⟨ofLE (e.take 4) % 2 ^ 20, ofLE ((e.drop (4 + 2 * bank)).take 2) % 4096⟩))

/-- A region named is FREE or too small. -/
def Dev.regionBad (d : Dev) (name need : Nat) : Bool := d.checkEntry (d.resolve name) need != .ok

/-- The byte offsets of the faulty fields of a captured descriptor (R356). -/
def Dev.descFaults (d : Dev) (i : Inst) (vote : Bool) : List Nat :=
  let okFmt (c : Nat) : Bool := match Format.ofCode c with
    | some .binary64 | some .binary32 | some .binary16 | some .bfloat16 => true
    | _ => false
  let at_ (o : Nat) (bad : Bool) : List Nat := if bad then [o] else []
  let redop := i.f 2 1
  let moving := decide (2 ≤ i.op)
  let out := i.length / i.e * i.eo
  at_ 0 (decide (7 < i.op) || (i.op == 7 && !vote))
    ++ at_ 1 (decide (16 ≤ i.f 1 1) || (i.flag 0 && (i.step.isNone || decide (6 ≤ i.op)))
      || ((i.flag 1 || i.flag 2) && (moving || redop % 4 != 0)))
    ++ at_ 2 (redop % 4 == 3 || bits redop 2 2 == 3 || decide (16 ≤ redop) || (moving && redop != 0))
    ++ at_ 3 (i.f 3 1 % 4 == 3 || decide (16 ≤ i.f 3 1))
    ++ at_ 4 (if moving then i.f 4 1 != 0 else !okFmt (i.f 4 1))
    ++ at_ 5 (if moving then i.f 5 1 != 0 else !okFmt (i.f 5 1))
    ++ at_ 6 (decide (i.f 6 1 < 2) || decide (16 < i.f 6 1))
    ++ at_ 7 (i.f 7 1 == 0 || decide (8 < i.f 7 1) || decide (i.n < i.f 7 1))
    ++ at_ 12 (decide (256 < i.f 12 2))
    ++ at_ 14 (decide (65536 < i.nbucket))
    ++ at_ 16 ((decide (5 ≤ i.op) && i.length != 0) || i.length % i.e != 0)
    ++ at_ 24 (decide (i.n ≤ i.f 24 2))
    ++ at_ 26 (i.f 26 2 != 0)
    ++ at_ 40 (!d.fbit colGrpcfgValid i.group || decide (i.n ≤ i.rank))
    ++ at_ 41 (i.npost == 0 || decide (64 < i.npost))
    ++ at_ 46 (i.f 46 2 != 0)
    ++ at_ 48 (match i.op with
      | 0 | 1 | 2 => d.regionBad (i.handle 0) (i.off 0 + i.length)
      | 3 => i.rank == i.f 24 2 && d.regionBad (i.handle 0) (i.off 0 + i.length)
      | 4 => d.regionBad (i.handle 0) (i.off 0 + i.n * i.length)
      | 5 => d.regionBad (i.handle 0) 0
      | _ => false)
    ++ at_ 50 (match i.op with
      | 0 | 1 => d.regionBad (i.handle 1) (i.off 1 + out)
      | 2 | 4 => d.regionBad (i.handle 1) (i.off 1 + i.n * i.length)
      | 3 => d.regionBad (i.handle 1) (i.off 1 + i.length)
      | 5 => d.regionBad (i.handle 1) 0
      | _ => false)
    ++ at_ 52 (i.op == 5 && d.regionBad (i.handle 2) (i.off 2 + 24 * i.f 96 4))
    ++ at_ 104 (i.op == 5 && d.regionBad (i.f 104 2) (i.f 112 8 + i.f 120 8))
    ++ at_ 106 (i.f 106 6 != 0)
    ++ at_ 120 (i.op == 5 && decide (i.f 120 8 < 2 * i.cb))

/-- The ranks that an instance sends to (R351). -/
def Dev.sendsTo (d : Dev) (m : Mem) (i : Inst) : List Nat :=
  let others (l : List Nat) : List Nat := (l.eraseDups).filter (fun r => r != i.rank)
  let t0 := i.neighbours
  others (match i.op with
    | 0 | 1 => t0 ++ (List.range i.trees).flatMap (fun t => (i.parent t i.rank).toList ++ i.children t i.rank)
    | 4 => List.range i.n
    | 5 =>
      match d.readRegion m (i.handle 2) (i.off 2) (24 * i.f 96 4) with
      | some (bs, _) => t0 ++ (List.range (i.f 96 4)).map (fun q => ofLE ((bs.drop (24 * q + 20)).take 2))
      | none => t0
    | _ => t0)

/-- Exclusions that a REPLAY takes from an earlier record: the buckets whose bit for this rank is set (R371). The
bitmaps follow the buckets of the record at RPLOFF. -/
def Dev.replayExcl (d : Dev) (m : Mem) (i : Inst) : Dev × List (Nat × Nat) :=
  if i.flag 1 && i.flag 3 then
    let base := i.f 88 8 + ceilDiv (64 + 32 * i.nbucket) 64 * 64
    let w := ceilDiv (ceilDiv i.n 8) 64 * 64
    (List.range i.nbucket).foldl (fun (st : Dev × List (Nat × Nat)) b =>
      let o := base + b * w + i.rank / 8
      let on := (st.1.readRegion m (i.handle 3) o 1).any (fun r => bit (r.1.headD 0) (i.rank % 8))
      (st.1.noteRegion (i.handle 3) o 1, if on then st.2 ++ [(b, i.rank)] else st.2)) (d, [])
  else (d, [])

/-- Announce an own exclusion to the tree-0 parent (R371); rank 0 keeps it. -/
def Dev.tellExcl (d : Dev) (k b : Nat) : Dev :=
  match d.inst k with
  | none => d
  | some i =>
    let d := d.fcount colExclcntExcl 0 1
    match i.parent 0 i.rank with
    | some p => d.colTell i p 0x16 (i.header i.rank 0 0 ++ toLE 4 b)
    | none => d

/-- An instance becomes active; one of the open step counts in its record (R310). -/
def Dev.addInst (d : Dev) (i : Inst) : Dev :=
  let mine := i.step.isSome && i.step == some (d.fget stpStepCur 0)
    && (d.stp.state == .opened || d.stp.state == .committing)
  let d := { d with col := { d.col with insts := d.col.insts ++ [i] } }
  if mine then { d with stp := { d.stp with ncoll := d.stp.ncoll + 1 } } else d

/-- Start an instance from a captured descriptor (R355). -/
def Dev.colStart (d : Dev) (m : Mem) (k : Nat) (raw : List Nat) (step : Option Nat) : Dev :=
  let g := ofLE ((raw.drop 40).take 1)
  let n := d.fget colGrpcfgNm1 g + 1
  let bank := d.fget colGrpbankNextbank g
  let full := decide (16 ≤ d.col.insts.length)
  let members := d.readMembers m g n bank
  let d := d.noteRegion (d.fget colGrpregHandle g) (d.groupOff g) (16 * n)
  let i : Inst :=
    { desc := k, raw := raw, group := g, n := n, rank := d.fget colGrprankRank g, gtag := d.fget colGrptagGtag g
      members := members.getD [], step := step, start := d.cad.mark, ready := [], inc := [], got := [], sent := []
      done := [], stats := [], excl := [], softDone := false, maps := [], mapsSent := false, votes := [], voted := false
      abort := none, abortSeen := false, foldsTaken := false, folds := [], moves := [], movesBegun := false, inMoves := []
      written := [], belled := [] }
  let d := (d.addInst i).fset colGrpbankLastbank g bank
  let faults := d.descFaults i (decide (1024 ≤ k))
  -- without a usable group there is no tree to abort through: the instance ends with its own record
  if !d.fbit colGrpcfgValid g || decide (n ≤ i.rank) || members.isNone then
    let a : AbortRec := ⟨if members.isNone ∧ faults.isEmpty then 0x06 else 0x07, i.rank,
      (faults.min?).getD noChunk, i.rank⟩
    d.colComplete k (some a) true
  else if full then d.colAbort k 0x0D i.rank noChunk
  else match faults.min? with
    | some o => d.colAbort k 0x07 i.rank o
    | none =>
      let peers := d.sendsTo m i
      let d := if i.op = 5 then d.noteRegion (i.handle 2) (i.off 2) (24 * i.f 96 4) else d
      match peers.find? (fun r => !d.chanUsable (i.chanTo r)) with
      | some r => d.colAbort k 0x06 r noChunk
      | none =>
        let (d, ex) := d.replayExcl m i
        let d := d.onInst k (fun i => { i with excl := ex, softDone := i.flag 3 })
        ex.foldl (fun d p => d.tellExcl k p.1) d

/-! ### POST values (R354, R355) -/

/-- A value is malformed: an unassigned CMD, or a nonzero reserved field. -/
def colPostBad (v : Nat) : Bool :=
  let cmd := bits v 60 4
  (cmd != 1 && cmd != 2) || bits v 16 34 != 0 || (cmd == 2 && v % 2 ^ 16 != 0)

/-- Where descriptor `k` of the table stands. -/
def Dev.descOff (d : Dev) (k : Nat) : Nat :=
  d.fget colDescoffLoOffLo 0 * 128 + d.fget colDescoffHiOffHi 0 * 2 ^ 32 + 128 * k

/-- Descriptor `k` of the table. -/
def Dev.descriptor (d : Dev) (m : Mem) (k : Nat) : Option (List Nat) :=
  (d.readRegion m (d.fget colDescregHandle 0) (d.descOff k) 128).bind (fun r => if r.2 then none else some r.1)

/-- A chunk of an excluded bucket whose READYs have completed goes to STP (R372). -/
def Dev.lateChunk (d : Dev) (m : Mem) (i : Inst) (j : Nat) : Dev :=
  match d.readRegion m (i.handle 0) (i.off 0 + j * i.cb) (i.chunkLen j) with
  | some (bs, _) =>
    let d := d.noteRegion (i.handle 0) (i.off 0 + j * i.cb) (i.chunkLen j)
    ({ d with stp := { d.stp with late := d.stp.late ++
        [Late.mk i.colid i.rank j i.stepWord (i.f 4 1) bs (crc64 bs)] } }).fcount colExclcntLate 0 1
  | none => d

/-- A READY for an active instance. -/
def Dev.colReady (d : Dev) (m : Mem) (k b : Nat) (step : Option Nat) : Dev :=
  match d.inst k with
  | none => d
  | some i =>
    if i.abort.isSome then d
    else if step ≠ i.step then d.colAbort k 0x09 i.rank noChunk
    else
      let was := i.isReady b
      let d := d.onInst k (fun i => { i with ready := SMap.insert b (SMap.get 0 b i.ready + 1) i.ready })
      let d := match d.inst k with
        | some i => if i.isExcl b && i.isReady b && !was then (i.chunksOf b).foldl (fun (d : Dev) j => d.lateChunk m i j) d else d
        | none => d
      d.colAdvance m k

/-- A READY that completes an excluded bucket of an instance that has committed (R372, Table 13-8): none where no such
bucket is left. -/
def Dev.lateReady (d : Dev) (m : Mem) (k b : Nat) (step : Option Nat) : Option Dev :=
  match d.col.finished.find? (fun g =>
    g.desc == k && g.step == step.getD 0xFFFFFFFF && g.late.any (fun p => p.1 == b)) with
  | none => none
  | some g =>
    let left := ((g.late.find? (fun p => p.1 == b)).map (fun p => p.2)).getD 0
    let g' := { g with late := if left ≤ 1 then g.late.filter (fun p => p.1 != b)
                else g.late.map (fun p => if p.1 = b then (b, left - 1) else p) }
    let d := { d with col := { d.col with finished := d.col.finished.map (fun x => if x = g then g' else x) } }
    if 1 < left then some d
    else
      let i : Inst :=
        { desc := k, raw := g.raw, group := 0, n := 1, rank := g.rank, gtag := g.gtag, members := [], step := step, start := 0
          ready := [], inc := [], got := [], sent := [], done := [], stats := [], excl := [], softDone := true, maps := []
          mapsSent := false, votes := [], voted := false, abort := none, abortSeen := false, foldsTaken := true, folds := []
          moves := [], movesBegun := false, inMoves := [], written := [], belled := [] }
      some ((i.chunksOf b).foldl (fun (d : Dev) j => d.lateChunk m i j) d)

/-- A READY value with the step it carries. A descriptor that cannot be read starts nothing, and counts as malformed
(DESIGN CHOICE, log entry 35). -/
def Dev.colPostReady (d : Dev) (m : Mem) (v : Nat) (step : Option Nat) : Dev :=
  let k := bits v 50 10
  let b := v % 2 ^ 16
  if (d.inst k).isSome then d.colReady m k b step
  else match d.lateReady m k b step with
    | some d' => d'
    | none =>
      let raw := d.descriptor m k
      let d := d.noteRegion (d.fget colDescregHandle 0) (d.descOff k) 128
      match raw with
      | some raw => (d.colStart m k raw step).colReady m k b step
      | none => d.fcount colBadpostCount 0 1

/-- A value of Table 13-4, from a POST or a COL_LAUNCH. -/
def Dev.colPost (d : Dev) (m : Mem) (v : Nat) (step : Option Nat) : Dev :=
  if colPostBad v then d.fcount colBadpostCount 0 1
  else if bits v 60 4 = 1 then d.colPostReady m v step
  else match d.inst (bits v 50 10) with
    | some i => d.colAbort i.desc 0x0C i.rank noChunk
    | none => d

/-! ### Packets as they arrive (R350, R365, R375) -/

/-- What a header names. -/
inductive ColMatch where
  | active (k : Nat)
  | finished (g : Finished)
  | mismatch (k : Nat)
  | none_
  deriving DecidableEq, Repr

/-- Match a header by GTAG, COLID, step and the sender's rank; `direct` asks that the channel lead to that rank. -/
def Dev.colFind (d : Dev) (e c : Nat) (h : List Nat) (direct : Bool) : ColMatch :=
  let f (o n : Nat) : Nat := ofLE ((h.drop o).take n)
  let peer := (d.chan e c).peerId
  match d.col.insts.find? (fun i => i.gtag == f 0 4 && i.colid == f 4 4) with
  | some i =>
    if direct && (i.members.getD (f 12 2) ⟨0xFFFFFFFF, 0⟩).devid != peer then .none_
    else if i.stepWord = f 8 4 then .active i.desc
    else match d.col.finished.find? (fun g => g.gtag == f 0 4 && g.colid == f 4 4 && g.step == f 8 4) with
      | some g => .finished g
      | none => .mismatch i.desc
  | none =>
    match d.col.finished.find? (fun g => g.gtag == f 0 4 && g.colid == f 4 4 && g.step == f 8 4) with
    | some g => .finished g
    | none => .none_

/-- The answer of a completed instance: its decision, back to where the packet came from. -/
def Dev.colAnswer (d : Dev) (e c op : Nat) (g : Finished) (ab : Option AbortRec) : Dev :=
  (d.submit e c op 0 (toLE 4 g.gtag ++ toLE 4 g.colid ++ toLE 4 g.step ++ toLE 2 g.rank ++ [0, 0] ++ decisionBytes ab) false
    .engine).1

/-- COL is down: later collective packets are answered with COL_ABORT (R377). -/
def Dev.colDownAnswer (d : Dev) (e c : Nat) (h : List Nat) : Dev :=
  let f (o n : Nat) : Nat := ofLE ((h.drop o).take n)
  d.colAnswer e c 0x15 ⟨f 0 4, f 4 4, f 8 4, 0, 0, none, [], []⟩ (some ⟨0x0E, 0, noChunk, 0⟩)

/-- Handle a control packet: `f` runs on the active instance it matches. -/
def Dev.colControl (d : Dev) (e c : Nat) (p : Packet) (begin_ direct quiet : Bool) (f : Dev → Nat → Dev) : Dev :=
  let h := p.payload
  if !d.active pCOL 0 then d.colDownAnswer e c h
  else if h.length < 16 || (!begin_ && (h.getD 14 0 != 0 || h.getD 15 0 != 0)) then d.fcount bzeBadpktCount e 1
  else match d.colFind e c h direct with
    | .active k => f d k
    | .finished g => if quiet then d else d.colAnswer e c 0x14 g g.abort
    | .mismatch k => d.colAbort k 0x09 (ofLE ((h.drop 12).take 2)) noChunk
    | .none_ => if quiet then d else d.fcount colBadpktCount 0 1

/-- The sender's rank in a header. -/
def senderRank (p : Packet) : Nat := ofLE ((p.payload.drop 12).take 2)

/-- A COL_BEGIN opens a transfer (R353, R374). -/
def Dev.colBegin (d : Dev) (e c : Nat) (p : Packet) : Dev :=
  d.colControl e c p true true false (fun d k =>
    let f (o n : Nat) : Nat := ofLE ((p.payload.drop o).take n)
    match d.inst k with
    | none => d
    | some i =>
      if i.abort.isSome then d
      else if f 24 4 ≠ i.digest then d.colAbort k 0x08 (senderRank p) noChunk
      else
        let r := senderRank p
        let kind := f 14 1
        let fresh_ := kind == 4 && f 16 4 == 0
        let cnt := SMap.get 0 r i.inMoves + b2n fresh_
        let x : Xfer :=
          { rank := r, chan := chanKey e c, xfer := p.arg % 65536, kind := kind, tree := f 15 1, chunk := f 16 4
            bytes := f 20 4, dst := f 28 8, data := [], m := 0, nfold := 0, a := (0, 0), b := (0, 0), move := cnt
            granted := false }
        let d := d.setInst { i with inc := i.inc ++ [x], inMoves := if fresh_ then SMap.insert r cnt i.inMoves else i.inMoves }
        if fresh_ && decide (i.f 100 4 < i.inMoves.foldl (fun n e => n + e.2) 0 + 1) then d.colAbort k 0x12 r noChunk
        else d)

/-- The instance and open transfer that a transfer number on a channel names. -/
def Dev.openXfer (d : Dev) (key x : Nat) : Option (Inst × Xfer) :=
  d.col.insts.findSome? (fun i => (i.inc.find? (fun t => t.chan == key && t.xfer == x)).map (fun t => (i, t)))

/-- A COL_DATA packet. -/
def Dev.colDataIn (d : Dev) (e c : Nat) (p : Packet) : Dev :=
  match d.openXfer (chanKey e c) (p.arg % 65536) with
  | none => d.fcount colBadpktCount 0 1
  | some (i, x) =>
    if i.abort.isSome then d
    else if bit p.flags 6 then d.colAbort i.desc 0x02 x.rank x.chunk
    else
      let o := bits p.arg 16 32
      let data := x.data.take o ++ List.replicate (o - x.data.length) 0 ++ p.payload
      d.setInst { i with inc := i.inc.map (fun y => if y = x then { y with data := data } else y) }

/-- A checked transfer takes its effect. -/
def Dev.colConsume (d : Dev) (k : Nat) (x : Xfer) : Dev :=
  match d.inst k with
  | none => d
  | some i =>
    let s : ChunkStat := ⟨x.m, x.nfold, x.a, x.b⟩
    match x.kind with
    | 0 | 1 => d.setInst { i with got := i.got ++ [x] }
    | 5 =>
      match i.parent (i.treeOf x.chunk) i.rank with
      | some p => Dev.colSent (d.colTransfer i p 5 x.tree x.chunk x.dst x.data s) k p
      | none => d.setInst { i with got := i.got ++ [x] }
    | 2 =>
      let d := d.setInst (i.keepStat x.chunk s)
      if x.dst = 1 then d.sendStats k x.chunk s (some x.rank)
      else
        let d := if i.op = 0 ∨ i.owner x.chunk = i.rank then d.colWrite k 0 x.chunk (i.dstOff x.chunk) x.data else d
        d.sendResult k x.chunk x.data s
    | 3 =>
      let block := if i.op = 4 then x.rank else x.dst
      let d := d.colWrite k block x.chunk ((if i.op = 3 then 0 else block) * i.length + x.chunk * i.cb) x.data
      if i.op = 4 then d
      else (i.neighbours.filter (fun r => r != x.rank)).foldl (fun d r =>
        if d.running k then Dev.colSent (d.colTransfer i r 3 0 x.chunk x.dst x.data s) k r else d) d
    | _ => d.setInst { i with got := i.got ++ [x] }

/-- A COL_END closes a transfer and its CRC is checked before anything else (R365, R366). -/
def Dev.colEndIn (d : Dev) (m : Mem) (e c : Nat) (p : Packet) : Dev :=
  match d.openXfer (chanKey e c) (p.arg % 65536) with
  | none => d.fcount colBadpktCount 0 1
  | some (i, x) =>
    let f (o n : Nat) : Nat := ofLE ((p.payload.drop o).take n)
    let k := i.desc
    let d := d.setInst { i with inc := i.inc.filter (fun y => y != x) }
    if i.abort.isSome then d
    else if bit p.flags 6 then d.colAbort k 0x02 x.rank x.chunk
    else if crc64 x.data ≠ f 0 8 ∨ x.data.length ≠ x.bytes then
      (d.fcount colCrcerrCount 0 1).colAbort k 0x01 x.rank x.chunk
    else
      let x := { x with m := f 8 4, nfold := f 12 4, a := (f 16 8, f 24 8), b := (f 32 8, f 40 8) }
      (d.colConsume k x).colAdvance m k

/-- A COL_VOTE from a tree-0 child. -/
def Dev.colVoteIn (d : Dev) (m : Mem) (e c : Nat) (p : Packet) : Dev :=
  d.colControl e c p false true false (fun d k =>
    (d.onInst k (fun i => { i with votes := if i.votes.contains (senderRank p) then i.votes else
      i.votes ++ [senderRank p] })).colAdvance m k)

/-- The abort record that a packet carries. -/
def abortOf (p : Packet) : AbortRec :=
  let f (o n : Nat) : Nat := ofLE ((p.payload.drop o).take n)
  ⟨f 17 1, f 20 4, f 24 4, f 28 4⟩

/-- A COL_DECIDE: forwarded, and the instance completes by it. -/
def Dev.colDecideIn (d : Dev) (e c : Nat) (p : Packet) : Dev :=
  d.colControl e c p false false true (fun d k =>
    d.colDecide k (if p.payload.getD 16 0 = 0 then none else some (abortOf p)))

/-- A COL_ABORT: the first one seen goes up; rank 0 adopts it. -/
def Dev.colAbortIn (d : Dev) (e c : Nat) (p : Packet) : Dev :=
  d.colControl e c p false false true (fun d k =>
    match d.inst k with
    | none => d
    | some i =>
      if i.abortSeen then d
      else
        let d := d.setInst { i with abortSeen := true }
        match i.parent 0 i.rank with
        | some r => d.colHurry i r (i.header i.rank 0 0 ++ (p.payload.drop 16).take 16)
        | none => d.colDecide k (some (abortOf p)))

/-- A COL_EXCL: from the parent a piece of a bitmap, else an exclusion on its way up. Its header keeps the rank that
excluded the bucket (DEDUCED, log entry 36). -/
def Dev.colExclIn (d : Dev) (m : Mem) (e c : Nat) (p : Packet) : Dev :=
  d.colControl e c p false false false (fun d k =>
    let f (o n : Nat) : Nat := ofLE ((p.payload.drop o).take n)
    match d.inst k with
    | none => d
    | some i =>
      let peer := (d.chan e c).peerId
      let up := (i.parent 0 i.rank).any (fun r => (i.members.getD r ⟨0xFFFFFFFF, 0⟩).devid == peer)
      let b := f 16 4
      let d := if up then
          let first := f 20 4
          let bytes := p.payload.drop 24
          let on := (List.range (8 * bytes.length)).filter (fun t => bit (bytes.getD (t / 8) 0) (t % 8))
          let fresh_ := (on.map (fun t => (b, first + t))).filter (fun q => !i.excl.contains q)
          (d.setInst { i with excl := i.excl ++ fresh_, maps := i.maps ++ [(b, first)] }).sendPiece k b first bytes
        else
          let q := (b, senderRank p)
          let d := d.setInst { i with excl := if i.excl.contains q then i.excl else i.excl ++ [q] }
          match i.parent 0 i.rank with
          | some r => d.colTell i r 0x16 p.payload
          | none => d
      d.colAdvance m k)

/-- A COL_GRANT: the chunk it names goes out. -/
def Dev.colGrantIn (d : Dev) (m : Mem) (e c : Nat) (p : Packet) : Dev :=
  d.colControl e c p false true false (fun d k =>
    match d.inst k with
    | none => d
    | some i =>
      match i.moves.find? (fun x => x.xfer == p.arg % 65536 && x.rank == senderRank p && x.rank != i.rank) with
      | none => d
      | some x =>
        if i.abort.isSome then d
        else
          let data := match x.staged with
            | some bs => some (bs, false)
            | none => d.readRegion m (i.handle 0) x.src x.len
          let d := if x.staged.isSome then d else d.noteRegion (i.handle 0) x.src x.len
          match data with
          | none => d.colAbort k 0x11 i.rank noChunk
          | some (bs, bad) =>
            if bad then d.colAbort k 0x02 i.rank noChunk
            else
              let d := d.setInst { i with moves := i.moves.filter (fun y => y != x) }
              (Dev.colSent (d.colClose i x.rank x.xfer bs ⟨0, 0, (0, 0), (0, 0)⟩) k x.rank).colAdvance m k)

/-! ### Deadlines, failures of channels, disabling -/

/-- The cadence count has reached a mark (R78). -/
def Dev.markReached (d : Dev) (n : Nat) : Bool := decide ((d.cad.mark + 2 ^ 48 - n % 2 ^ 48) % 2 ^ 48 < 2 ^ 47)

/-- SOFT_DEADLINE: each bucket whose own READYs are incomplete is excluded (R371). -/
def Dev.softDeadline (d : Dev) (m : Mem) (k : Nat) : Dev :=
  match d.inst k with
  | none => d
  | some i =>
    if !i.flag 1 || i.softDone || i.abort.isSome || !d.markReached (i.start + i.f 44 2) then d
    else
      let bs := (List.range i.nbucket).filter (fun b => !i.isReady b)
      let d := d.setInst { i with softDone := true, excl := i.excl ++ bs.map (fun b => (b, i.rank)) }
      (bs.foldl (fun d b => d.tellExcl k b) d).colAdvance m k

/-- The lowest rank from which a member still awaits a transfer or a vote, or its own (R369). -/
def Inst.awaited (i : Inst) : Nat :=
  let own := if (List.range i.nbucket).all i.settled then [] else [i.rank]
  let parts := if i.reduces then
      (List.range i.nchunk).flatMap (fun j =>
        let t := i.treeOf j
        if i.sent.contains (0, j) then
          (if i.done.contains (0, j) || (i.op == 1 && i.owner j != i.rank) then [] else (i.parent t i.rank).toList)
        else (i.children t i.rank).filter (fun r => (i.gotFrom (fun n => n ≤ 1) j r).isNone))
    else (i.mustWrite.filter (fun w => !i.done.contains w)).map (fun w => if i.op = 3 then i.f 24 2 else w.1)
  let votes := (i.children 0 i.rank).filter (fun r => !i.votes.contains r)
  ((own ++ parts ++ votes ++ i.inc.map (fun x => x.rank)).min?).getD ((i.parent 0 i.rank).getD i.rank)

/-- COL_TMO_EXPIRY: an instance that has not completed aborts with TIMEOUT; one that had aborted completes NOT_AGREED
with its own record (R368, R369). -/
def Dev.colTimeout (d : Dev) (k : Nat) : Dev :=
  match d.inst k with
  | none => d
  | some i =>
    match i.abort with
    | some a => (d.dropInst k).colComplete k (some a) true
    | none => d.colAbort k 0x03 i.awaited noChunk

/-- Abort every active instance that `p` picks, with itself as ERRRANK. -/
def Dev.colAbortWhere (d : Dev) (p : Inst → Bool) (code : Nat) : Dev :=
  (d.col.insts.filter p).foldl (fun d i => d.colAbort i.desc code i.rank noChunk) d

/-- HOSTABORT and URG.COLABORT: every active instance of a COLID (R378). -/
def Dev.colHostAbort (d : Dev) (colid : Nat) : Dev := d.colAbortWhere (fun i => i.colid == colid && i.desc < 1024) 0x0B

/-- A channel has failed: every instance that sends over it aborts (R351). -/
def Dev.colChannelFailed (d : Dev) (m : Mem) (c : Nat) : Dev :=
  d.col.insts.foldl (fun d i =>
    match (d.sendsTo m i).find? (fun r => i.chanTo r == c) with
    | some r => d.colAbort i.desc 0x04 r noChunk
    | none => d) d

/-- A packet of an instance was refused TARGET_RESETTING (Table 13-5). -/
def Dev.colRefused (d : Dev) (k c : Nat) : Dev :=
  match d.inst k with
  | none => d
  | some i => d.colAbort k 0x05 (i.members.findIdx (fun x => x.chan == c)) noChunk

end Sys2Proof.Machine
end

