-- ==== Sys2Proof/Machine/Steps.lean ====
section
/-! DEFINITION. Machine/Steps.lean: training steps: opening, committing, spoiling and acknowledging, the broke ledger, step
records, couch queues and phase fences (chapter 11). -/

namespace Sys2Proof.Machine

/-! ### Participants (R291) -/

/-- Logical tile `l` is a participant. -/
def Dev.isParticipant (d : Dev) (l : Nat) : Bool :=
  bit (d.fget stpPartLoPart 0 + d.fget stpPartHiPart 0 * 2 ^ 32) l && decide (l < 64)

/-- The participating logical tiles. -/
def Dev.participants (d : Dev) : List Nat := (List.range 64).filter d.isParticipant

/-- A physical tile carries a participant. -/
def Dev.tileParticipates (d : Dev) (p : Nat) : Bool := (d.logicalOf p).any d.isParticipant

/-- The open step, or the last one decided (STP.STEP). -/
def Dev.curStep (d : Dev) : Nat := d.fget stpStepCur 0

/-- Step `n` is OPEN device-wide. -/
def Dev.stepOpenFor (d : Dev) (n : Nat) : Bool := d.stp.state == .opened && d.curStep == n

/-- The step that is OPEN or COMMITTING. -/
def Dev.liveStep (d : Dev) : Option Nat :=
  if d.stp.state = .opened ∨ d.stp.state = .committing then some d.curStep else none

/-! ### Gradient-noise statistics (R308) -/

/-- One operation in binary64 under RNE. -/
def f64 (k : FArith) (a b : Nat) : Nat := (scalarArith k .binary64 0 a b 0).1

/-- G and V of a bucket with M ≥ 2. -/
def NoiseTerm.gv (t : NoiseTerm) : Nat × Nat :=
  let mm := rneCode .binary64 (.ofInt ((t.m * (t.m - 1) : Nat) : Int))
  let g := (scalarDiv .binary64 0 (f64 .sub t.b t.a) mm).1
  let v := (scalarDiv .binary64 0 (f64 .sub (f64 .mul (rneCode .binary64 (.ofInt (t.m : Int))) t.a) t.b) mm).1
  (g, v)

/-- The terms in ascending collective id and then bucket. -/
def noiseOrder (ts : List NoiseTerm) : List NoiseTerm :=
  sortBy (fun a b => decide (a.colid < b.colid) || (a.colid == b.colid && decide (a.bucket ≤ b.bucket))) ts

/-- SUMG and SUMV. -/
def noiseSums (ts : List NoiseTerm) : Nat × Nat :=
  ((noiseOrder ts).filter (fun t => decide (2 ≤ t.m))).foldl (fun s t =>
    (f64 .add s.1 t.gv.1, f64 .add s.2 t.gv.2)) (0, 0)

/-! ### Step records (R310) -/

/-- The 128 bytes of Table 11-9. -/
def Dev.stepRecord (d : Dev) (spoiled : Bool) : List Nat :=
  let s := d.stp
  let (g, v) := noiseSums s.terms
  let full := (s.terms.filter (fun t => decide (2 ≤ t.m))).length
  toLE 4 d.curStep ++ [b2n spoiled, if spoiled then s.cause else 0] ++ toLE 2 s.nphase
    ++ toLE 6 s.openMark ++ [0, 0] ++ toLE 6 d.cad.mark ++ [0, 0] ++ toLE 8 g ++ toLE 8 v
    ++ toLE 2 full ++ toLE 2 (s.terms.length - full) ++ toLE 4 s.nexcl ++ toLE 4 s.nfold ++ toLE 4 s.ndrop
    ++ toLE 4 s.ncoll ++ toLE 4 (if spoiled then s.causeParam else 0) ++ List.replicate 64 0

/-- Write the record of a decided step into the ring; a region that is missing or too small receives nothing. -/
def Dev.writeStepRecord (d : Dev) (spoiled : Bool) : Dev :=
  let h := d.fget stpRecregHandle 0
  let n := d.fget stpRecregNrec 0
  let rec_ := d.stepRecord spoiled
  let d := { d with stp := { d.stp with ndrop := 0, lateIn := 0 } }
  if h = 0 ∨ n = 0 then d
  else
    let missing := d.record 0x0005 pSTP 0 h d.curStep 0
    if d.plainRegion h (128 * n) then
      match d.writeRegion h (128 * (d.fget stpRecheadCount 0 % n)) rec_ false with
      | some d' => d'.fwrap stpRecheadCount 0
      | none => missing
    else missing

/-! ### Releasing STEP.COMMIT (R293, R298) -/

/-- Release a tile that waits in STEP.COMMIT with a status of Table 11-2. -/
def Tile.releaseCommit (t : Tile) (status : Nat) : Tile :=
  match t.store.commit with
  | .sent _ => { t with store := { t.store with commit := .released status } }
  | _ => t

/-- Release every tile that waits. -/
def Dev.releaseCommits (d : Dev) (status : Nat) : Dev :=
  let d := d.stp.waiting.foldl (fun d p => d.onTile p (fun t => t.releaseCommit status)) d
  { d with stp := { d.stp with waiting := [] } }

/-! ### The commit vote (R295) -/

/-- The instance number of STP's vote for a step: beyond the descriptors. -/
def voteDesc (n : Nat) : Nat := 1024 + n

/-- The descriptor of STP's vote: OP 7 on the commit group. What Table 13-3 leaves to it is free (log entry 10). -/
def Dev.voteRaw (d : Dev) (n : Nat) : List Nat :=
  let z := fun k => List.replicate k 0
  [7, 0, 0, 0, 0, 0, 2 + Config.voteFanout 0 % 15, 1] ++ toLE 4 (Config.voteColid n) ++ z 28
    ++ [d.fget stpCmtgrpGroup 0, 1] ++ z 86

/-- Cast the vote: the instance starts with its one bucket ready. -/
def Dev.castVote (d : Dev) (m : Mem) : Dev :=
  let n := d.curStep
  let d := { d with stp := { d.stp with voteCast := true } }
  (d.colStart m (voteDesc n) (d.voteRaw n) none).colReady m (voteDesc n) 0 none

/-- Cast a bad vote: the instance aborts with STEP_SPOILED. A COL that is not ACTIVE takes none (R45). -/
def Dev.castBadVote (d : Dev) (m : Mem) : Dev :=
  let n := d.curStep
  let d := { d with stp := { d.stp with voteCast := true } }
  if !d.active pCOL 0 then d
  else
  let d := d.colStart m (voteDesc n) (d.voteRaw n) none
  d.colAbort (voteDesc n) 0x0A ((d.inst (voteDesc n)).elim 0 (fun i => i.rank)) noChunk

/-! ### Spoiling (R298) -/

/-- The spoil actions: the state, the collectives, the barriers, the waiting tiles, the vote, the record and the
completion. A step that had opened in a commit group casts a bad vote unless it has voted (DEDUCED, log entry 37). -/
def Dev.spoilNow (d : Dev) (m : Mem) (cause param : Nat) : Dev :=
  let n := d.curStep
  let vote := d.stp.state == .opened && d.fbit stpCmtgrpEn 0 && !d.stp.voteCast
  let d := { d with stp := { d.stp with
    state := .spoiled, cause := cause, causeParam := param, ndrop := d.stp.ndrop + d.stp.lateIn, lateIn := 0
    copyPending := false } }
  let d := d.fcount stpSpoilcntCount 0 1
  let d := d.colAbortWhere (fun i => i.step == some n) 0x0A
  let d := d.breakAll
  let d := d.releaseCommits 1
  let d := if vote then d.castBadVote m else d
  let d := d.writeStepRecord true
  (d.record 0x5006 pSTP 0 n cause param).postUnsolicited 3 1 n cause param

/-- A cause of Table 11-5 reaches STP: it spoils an OPEN step; a step that is COMMITTING stands, and LATECAUSE sets
(R321). -/
def Dev.spoilCause (d : Dev) (m : Mem) (cause param : Nat) : Dev :=
  match d.stp.state with
  | .opened => d.spoilNow m cause param
  | .committing =>
    ({ d with stp := { d.stp with lateCause := true } }).record 0x0015 pSTP 0 d.curStep cause 0
  | _ => d

/-- SPOIL and URG_SPOIL: the host's cause counts only while a step is OPEN (R321). -/
def Dev.hostSpoil (d : Dev) (m : Mem) : Dev := if d.stp.state = .opened then d.spoilNow m 0x01 0 else d

/-! ### Committing (R294 to R296) -/

/-- Free the working ledger's entries that would be too old at step `k` (R306). -/
def Dev.dropAged (d : Dev) (m : Mem) (k : Nat) : Dev :=
  if !d.ledgerOn then d
  else
    (d.liveSlots m true).foldl (fun (d : Dev) s =>
      match d.slotHeader m true s with
      | some h =>
        if d.fget colBrokeMaxage 0 < staleness k (ofLE ((h.drop 12).take 4)) then
          let d := (d.freeSlot m s).fcount stpLedgerdropAged 0 1
          { d with stp := { d.stp with ndrop := d.stp.ndrop + 1 } }
        else d
      | none => d) (d.noteSlots true)

/-- Table 11-3: the step commits. -/
def Dev.commitNow (d : Dev) (m : Mem) : Dev :=
  let n := d.curStep
  let next := (n + 1) % 2 ^ 32
  let d := d.dropAged m next
  let d := d.fset stpBankSel 0 (1 - d.fget stpBankSel 0)
  let d := (d.fset stpLastcmtStep 0 n).fset stpNextStep 0 next
  let d := { d with stp := { d.stp with state := .idle } }
  let d := d.writeStepRecord false
  let d := d.releaseCommits 0
  d.postUnsolicited 3 0 n 0 0

/-- A launch entry that has fired holds a solver launch. -/
def Entry.firedSlv : Entry → Bool
  | .fired (.slv _) _ => true
  | _ => false

/-- A solver cycle of step `n` has not published (R294). -/
def Dev.cyclePending (d : Dev) (n : Nat) : Bool :=
  d.solvers.any (fun e => e.2.queue.any (fun q => q.1.step == some n) || e.2.run.any (fun c => c.launch.step == some n))
    || d.launches.any (fun l => l.step == some n)
    || d.tiles.any (fun e => e.2.store.openStep == some n && e.2.core.entries.any (fun x => x.2.firedSlv))

/-- A re-draw waits or runs (R285). -/
def Dev.redrawing (d : Dev) : Bool :=
  d.syn.bars.any (fun b => !b.2.held.isEmpty) || d.deckle.events.any (fun e => match e with
    | .redraw .. => true
    | _ => false)

/-- The conditions of R294. -/
def Dev.mayCommit (d : Dev) : Bool :=
  let n := d.curStep
  d.stp.state == .opened
    && d.participants.all (fun l => d.stp.arrived.contains l)
    && d.col.insts.all (fun i => i.step != some n)
    && !d.cyclePending n
    && d.stp.couch.all (fun q => q.2.state == .off || q.2.pushed == q.2.popped)
    && !d.redrawing && !d.stp.copyPending

/-- COMMITTING: every condition of R294 holds; without a commit group the step commits at once. A COL that is not ACTIVE
takes no vote (R45), and the step spoils with PEER_VOTE (DEDUCED, log entry 120). -/
def Dev.committing (d : Dev) (m : Mem) : Dev :=
  if !d.mayCommit then d
  else
    let d := { d with stp := { d.stp with state := .committing } }
    if !d.fbit stpCmtgrpEn 0 then d.commitNow m
    else if d.active pCOL 0 then d.castVote m else d.spoilNow m 0x04 0

/-- What the collective engine's completed instances mean for the step (R294, R295, R298, R310). -/
def Dev.colSettle (d : Dev) (m : Mem) : Dev :=
  let evs := d.col.events
  let d := { d with col := { d.col with events := [] } }
  evs.foldl (fun (d : Dev) e =>
    if e.vote then
      if d.stp.state = .committing ∧ e.desc = voteDesc d.curStep then
        if e.committed then d.commitNow m else d.spoilNow m 0x04 0
      else d
    else if e.step = some d.curStep ∧ (d.stp.state = .opened ∨ d.stp.state = .committing) then
      if e.committed then
        { d with stp := { d.stp with
            terms := d.stp.terms ++ e.terms, nexcl := d.stp.nexcl + e.nexcl, nfold := d.stp.nfold + e.nfold } }
      else d.spoilCause m 0x03 e.colid
    else d) d

/-- Settle what the collectives have handed over, and again what that settling has aborted. -/
def Dev.settled (d : Dev) (m : Mem) : Dev := (d.colSettle m).colSettle m

/-! ### Arrivals at STP (R292, R293) -/

/-- Step `n` opens device-wide; the ledger's copy starts (R307). A collective whose launch came ahead of STP's own opening
belongs to it too (R294). -/
def Dev.openDevice (d : Dev) (n : Nat) : Dev :=
  let on := d.ledgerOn
  let d := d.fset stpStepCur 0 n
  { d with stp := { d.stp with
      state := .opened, openMark := d.cad.mark, nphase := 0, terms := [], nexcl := 0, nfold := 0, lateIn := 0
      ncoll := (d.col.insts.filter (fun i => i.step == some n)).length
      arrived := [], waiting := [], voteCast := false, copyPending := on } }

/-- A STEP.OPEN from IDLE with a number other than NEXT: that step spoils (Table 11-4). -/
def Dev.openMismatch (d : Dev) (m : Mem) (n : Nat) : Dev :=
  let d := d.fset stpStepCur 0 n
  let d := { d with stp := { d.stp with
    openMark := d.cad.mark, nphase := 0, terms := [], nexcl := 0, nfold := 0, ncoll := 0, lateIn := 0, arrived := []
    waiting := [] } }
  d.spoilNow m 0x07 n

/-- STEP_OPEN_ARRIVAL: STP receives the oldest STEP.OPEN value of a tile. -/
def Dev.stepOpenArrival (d : Dev) (m : Mem) (p : Nat) : Dev :=
  match d.stp.opens.find? (fun o => o.1 == p) with
  | none => d
  | some o =>
    let d := { d with stp := { d.stp with opens := d.stp.opens.erase o } }
    match d.stp.state with
    | .idle => if o.2 = d.fget stpNextStep 0 then d.openDevice o.2 else d.openMismatch m o.2
    | .opened => if o.2 = d.curStep then d else d.spoilNow m 0x07 o.2
    | _ => d

/-- Every access of a tile numbered below `seq` has met the FENCE.D condition (Table 8-3). -/
def Dev.fenceDone (d : Dev) (p seq : Nat) : Bool :=
  (d.tile p).store.dmas.all (fun e => decide (seq ≤ e.2.seq))
    && d.posts.all (fun q => q.tile != p || decide (seq ≤ q.seq))
    && d.deltasSent.all (fun q => q.tile != p || decide (seq ≤ q.seq))

/-- STEP_COMMIT_ARRIVAL: a participant's STEP.COMMIT, whose earlier accesses are done, reaches STP. -/
def Dev.stepCommitArrival (d : Dev) (m : Mem) (p : Nat) : Dev :=
  let t := d.tile p
  match t.store.commit with
  | .waiting a =>
    if !d.fenceDone p t.core.stallSeq then d
    else
      let own := t.store.openStep.getD 0
      let answer (d : Dev) (st : Nat) : Dev := d.onTile p (fun t => { t with store := { t.store with commit := .released st } })
      if own ≠ a then (d.spoilCause m 0x07 a).onTile p (fun t => { t with store := { t.store with commit := .released 1 } })
      else if d.stp.state = .committing ∧ d.curStep = own then
        { d with stp := { d.stp with waiting := d.stp.waiting ++ [p] } }.onTile p (fun t =>
          { t with store := { t.store with commit := .sent a } })
      else if d.stp.state = .opened then
        if d.curStep = own then
          let l := (d.logicalOf p).getD 0
          { d with stp := { d.stp with
              waiting := d.stp.waiting ++ [p]
              arrived := if d.stp.arrived.contains l then d.stp.arrived else d.stp.arrived ++ [l] } }.onTile p (fun t =>
            { t with store := { t.store with commit := .sent a } })
        else answer (d.spoilNow m 0x07 own) 1
      else answer d 1
  | _ => d

/-- CMTTMO_EXPIRY: the conditions of R294 did not hold within STP.CMTTMO of the first STEP.COMMIT. -/
def Dev.commitTimeout (d : Dev) (m : Mem) : Dev :=
  if d.stp.state = .opened ∧ d.fget stpCmttmoMs 0 ≠ 0 ∧ d.stp.arrived ≠ [] ∧ !d.mayCommit then
    d.spoilNow m 0x06 (d.participants.filter (fun l => !d.stp.arrived.contains l)).length
  else d

/-! ### Couch queues (R311 to R318) -/

/-- A couch queue. -/
def Dev.couch (d : Dev) (q : Nat) : Couch := SMap.get .reset q d.stp.couch

/-- Set a couch queue. -/
def Dev.setCouch (d : Dev) (q : Nat) (x : Couch) : Dev := { d with stp := { d.stp with couch := SMap.put .reset q x d.stp.couch } }

/-- Slots of a queue. -/
def Dev.cqSlots (d : Dev) (q : Nat) : Nat := d.fget stpCqcfgNslotM1 q + 1

/-- Bytes of a slot. -/
def Dev.cqSlotBytes (d : Dev) (q : Nat) : Nat := d.fget stpCqcfgSlot4k q * 4096

/-- The ring header: the counts and the step, and where `tag` names a slot its tag. -/
def Dev.cqHeader (d : Dev) (q : Nat) (tag : Option Nat) : Dev :=
  let x := d.couch q
  let h := d.fget stpCqregRegion q
  let d := (d.writeRegion h 0 (toLE 8 x.pushed ++ toLE 8 x.popped ++ toLE 4 d.curStep) false).getD d
  match tag with
  | some s => (d.writeRegion h (64 + 2 * s) (toLE 2 (SMap.get 0 s x.tags)) false).getD d
  | none => d

/-- A queue error (R318): ERR, the count, FAILED for a remote error, and the spoiled step. -/
def Dev.cqError (d : Dev) (m : Mem) (q err : Nat) (fails : Bool) : Dev :=
  let x := d.couch q
  let d := d.setCouch q { x with
    err := err, state := if fails then .failed else x.state, copies := if fails then [] else x.copies }
  (d.fcount stpCqerrcntCount 0 1).spoilCause m 0x05 q

/-- CQCFG written for the selected queue while STP is IDLE (R311). Setting EN is a write of 1 over a 0 (DEDUCED, log
entry 56). -/
def Dev.cqConfigure (d : Dev) (v : Nat) : Dev :=
  let q := d.fget stpCqselQueue 0
  let was := d.fbit stpCqcfgEn q
  if d.stp.state ≠ .idle then d
  else
    let d := ((d.fset stpCqcfgKind q (bits v 1 2)).fset stpCqcfgNslotM1 q (bits v 8 8)).fset stpCqcfgSlot4k q (bits v 16 12)
    if !bit v 0 then
      (d.fset stpCqcfgEn q 0).setCouch q { d.couch q with state := .off, copies := [] }
    else if was then d
    else
      let kind := d.fget stpCqcfgKind q
      let chan := d.fget stpCqregChannel q
      let remote := kind == 1 || kind == 2
      let chanOpen := (d.holder chan).any (fun e => (d.chan e chan).state == .opened)
      if kind = 3 ∨ d.fget stpCqcfgSlot4k q = 0
          ∨ !d.plainRegion (d.fget stpCqregRegion q) (4096 + d.cqSlots q * d.cqSlotBytes q) ∨ (remote ∧ !chanOpen) then
        (d.fset stpCqcfgEn q 0).setCouch q { d.couch q with err := 6, state := .off, copies := [] }
      else
        let d := (d.fset stpCqcfgEn q 1).setCouch q { Couch.reset with state := .active }
        let head := toLE 16 0 ++ toLE 4 d.curStep
        (d.writeRegion (d.fget stpCqregRegion q) 0 (head ++ List.replicate (4096 - 20) 0) false).getD d

/-- Take the oldest post of a tile to a target whose value `p` accepts: the target has performed it, and its credit is
owed. Posts of one tile to one target arrive in issue order (R80). -/
def Dev.takePost (d : Dev) (tile target : Nat) (p : Nat → Bool) : Option (Post × Dev) :=
  match d.posts.find? (fun q => q.tile == tile && q.target == target) with
  | some q =>
    if p q.value then
      some (q, { d with posts := d.posts.erase q }.onTile tile (fun t =>
        let owed := SMap.modify 0 target (· + 1) t.store.creditOwed
        { t with store := { t.store with creditOwed := owed } }))
    else none
  | none => none

/-- CMD of a POST value. -/
def postCmd (v : Nat) : Nat := bits v 60 4

/-- A POST value to STP is malformed (R313). -/
def Dev.stpPostBad (d : Dev) (v : Nat) : Bool :=
  let cmd := postCmd v
  (cmd != 1 && cmd != 2 && cmd != 3)
    || bits v 58 2 != 0 || bits v 48 4 != 0 || bits v 2 30 != 0
    || (cmd == 3 && (bits v 52 6 != 0 || bits v 32 16 != 0 || !d.fbit stpPhasebarEn 0))
    || (cmd != 3 && bits v 0 2 != 0)

/-- A well-formed POST value with this CMD. -/
def Dev.stpPostIs (d : Dev) (cmd v : Nat) : Bool := !d.stpPostBad v && postCmd v == cmd

/-- While a step is OPEN a malformed value also spoils it; the queue number does not apply. -/
def Dev.spoilCauseIfOpen (d : Dev) (m : Mem) : Dev :=
  if d.stp.state = .opened then d.spoilNow m 0x05 0xFFFFFFFF else d

/-- BADPOST: the oldest post of a tile to STP is malformed. -/
def Dev.badPost (d : Dev) (m : Mem) (tile : Nat) : Dev :=
  match d.takePost tile 2 d.stpPostBad with
  | some (_, d) => (d.fcount stpBadpostCount 0 1).spoilCauseIfOpen m
  | none => d

/-- A command on the wrong queue (R316). -/
def Dev.cqMisdirected (d : Dev) (m : Mem) (q : Nat) : Dev := (d.fcount stpBadpostCount 0 1).spoilCause m 0x05 q

/-- A slot's packets of at most 256 bytes over the queue's channel; false where the channel takes one no longer. -/
def Dev.cqSend (d : Dev) (q c : Nat) : Nat → List (List Nat) → Bool → Dev × Bool
  | _, [], _ => (d, true)
  | o, bs :: rest, bad =>
    match d.holder c with
    | none => (d, false)
    | some e =>
      let (d, ok) := d.submit e c 0x18 (d.fget stpCqpeerPeerq q + o * 2 ^ 16) bs bad (.couch q)
      if ok then d.cqSend q c (o + bs.length) rest bad else (d, false)

/-- A notice of a queue over its channel (R317). -/
def Dev.cqNotice (d : Dev) (m : Mem) (q op tag : Nat) : Dev :=
  let c := d.fget stpCqregChannel q
  let arg := d.fget stpCqpeerPeerq q + tag * 2 ^ 16 + d.curStep * 2 ^ 32
  match d.holder c with
  | none => d.cqError m q 4 true
  | some e =>
    let (d, ok) := d.submit e c op arg [] false (.couch q)
    if ok then d else d.cqError m q 4 true

/-- The push itself: tag, count, header; the free slot was checked (R314). -/
def Dev.cqPushed (d : Dev) (q tag : Nat) : Dev :=
  let x := d.couch q
  let s := x.pushed % d.cqSlots q
  (d.setCouch q { x with pushed := x.pushed + 1, tags := SMap.put 0 s tag x.tags }).cqHeader q (some s)

/-- CQ_PUSH of a tile (R314, R316, R317). -/
def Dev.cqPush (d : Dev) (m : Mem) (tile : Nat) : Dev :=
  match d.takePost tile 2 (d.stpPostIs 1) with
  | none => d
  | some (p, d) =>
    let q := bits p.value 52 6
    let tag := bits p.value 32 16
    let x := d.couch q
    let kind := d.fget stpCqcfgKind q
    if d.stp.state ≠ .opened then d
    else if kind = 2 ∨ x.state ≠ .active then d.cqMisdirected m q
    else if d.cqSlots q ≤ x.pushed - x.popped then d.cqError m q 1 false
    else
      let s := x.pushed % d.cqSlots q
      let d := d.cqPushed q tag
      if kind = 0 then d.doorbell 2 q
      else
        let n := d.cqSlotBytes q
        match d.readRegion m (d.fget stpCqregRegion q) (4096 + s * n) n with
        | none => d
        | some (bs, bad) =>
          let d := d.noteRegion (d.fget stpCqregRegion q) (4096 + s * n) n
          let (d, ok) := d.cqSend q (d.fget stpCqregChannel q) (4096 + s * n) (chunks 256 bs.length bs) bad
          if ok then d.setCouch q { d.couch q with copies := (d.couch q).copies ++ [(s, tag)] } else d.cqError m q 4 true

/-- CQ_POP of a tile (R315 to R317). -/
def Dev.cqPop (d : Dev) (m : Mem) (tile : Nat) : Dev :=
  match d.takePost tile 2 (d.stpPostIs 2) with
  | none => d
  | some (p, d) =>
    let q := bits p.value 52 6
    let tag := bits p.value 32 16
    let x := d.couch q
    let kind := d.fget stpCqcfgKind q
    if d.stp.state ≠ .opened then d
    else if kind = 1 ∨ x.state ≠ .active then d.cqMisdirected m q
    else if x.pushed ≤ x.popped then d.cqError m q 3 false
    else if SMap.get 0 (x.popped % d.cqSlots q) x.tags ≠ tag then d.cqError m q 2 false
    else
      let d := (d.setCouch q { x with popped := x.popped + 1 }).cqHeader q none
      if kind = 0 then d.doorbell 2 (64 + q) else d.cqNotice m q 0x1A tag

/-- CQ_SLOT_ACKNOWLEDGED: the oldest slot copy of a queue has every packet acknowledged; the push notice goes out. -/
def Dev.cqSlotAcked (d : Dev) (m : Mem) (q : Nat) : Dev :=
  let x := d.couch q
  match x.copies with
  | [] => d
  | (s, tag) :: rest =>
    let c := d.fget stpCqregChannel q
    let n := d.cqSlotBytes q
    let mine (p : Packet × Owner) : Bool :=
      p.2 == .couch q && p.1.op == 0x18 && decide (4096 + s * n ≤ bits p.1.arg 16 48)
        && decide (bits p.1.arg 16 48 < 4096 + (s + 1) * n)
    let waiting := (d.holder c).any (fun e => ((d.chan e c).queue ++ (d.chan e c).unacked).any mine)
    if waiting then d else (d.setCouch q { x with copies := rest }).cqNotice m q 0x19 tag

/-- Queue `q` takes packets of this kind from channel `c`. -/
def Dev.cqTakes (d : Dev) (q c kind : Nat) : Bool :=
  (d.couch q).state == .active && d.fget stpCqcfgKind q == kind && d.fget stpCqregChannel q == c

/-- CQ_DATA: the bytes of a slot copy. A mismatched configuration is refused BAD_CONFIG (R318): another kind or channel, an
offset outside the ring, or a sender whose NSLOT and SLOT4K are not the `same` (R317; how the peer learns them is not stated:
DESIGN CHOICE, log entry 118). -/
def Dev.cqDataIn (d : Dev) (e : Nat) (same : Bool) : Dev :=
  d.withHead e 0x18 (fun d p => d.receive e p (fun d c =>
    let q := p.arg % 64
    let o := bits p.arg 16 48
    if !d.cqTakes q c 2 || !same || decide (o < 4096) || decide (4096 + d.cqSlots q * d.cqSlotBytes q < o + p.payload.length) then
      .error 4
    else match d.writeRegion (d.fget stpCqregRegion q) o p.payload (bit p.flags 6) with
      | some d' => .ok d'
      | none => .error 2))

/-- A notice is for the receiver's open step. -/
def Dev.noticeNow (d : Dev) (p : Packet) : Bool := d.stepOpenFor (bits p.arg 32 32)

/-- CQ_PUSHN: a push notice applied as a push. -/
def Dev.cqPushNotice (d : Dev) (m : Mem) (e : Nat) : Dev :=
  d.withHead e 0x19 (fun d p => d.receive e p (fun d c =>
    let q := p.arg % 64
    if !d.cqTakes q c 2 then .error 4
    else if !d.noticeNow p then .ok (d.fcount stpCqerrcntCount 0 1)
    else if d.cqSlots q ≤ (d.couch q).pushed - (d.couch q).popped then .ok (d.cqError m q 1 false)
    else .ok ((d.cqPushed q (bits p.arg 16 16)).doorbell 2 q)))

/-- CQ_POPN: a pop notice. -/
def Dev.cqPopNotice (d : Dev) (m : Mem) (e : Nat) : Dev :=
  d.withHead e 0x1A (fun d p => d.receive e p (fun d c =>
    let q := p.arg % 64
    let x := d.couch q
    if !d.cqTakes q c 1 then .error 4
    else if !d.noticeNow p then .ok (d.fcount stpCqerrcntCount 0 1)
    else if x.pushed ≤ x.popped then .ok (d.cqError m q 3 false)
    else .ok (((d.setCouch q { x with popped := x.popped + 1 }).cqHeader q none).doorbell 2 (64 + q))))

/-- A channel has failed: every ACTIVE remote queue on it fails (R318). -/
def Dev.couchChannelFailed (d : Dev) (m : Mem) (c : Nat) : Dev :=
  (List.range 64).foldl (fun (d : Dev) q =>
    if (d.couch q).state = .active ∧ d.fget stpCqcfgKind q ≠ 0 ∧ d.fget stpCqregChannel q = c then d.cqError m q 4 true
    else d) d

/-! ### Failures of channels -/

/-- The channels that are FAILED. -/
def Dev.failedChans (d : Dev) : List Nat := (d.brezin.chans.filter (fun k => k.2.state == .failed)).map (fun k => k.1)

/-- What the channels that `d'` has newly failed mean for collectives and couch queues (R318, R351). -/
def Dev.afterFailures (d : Dev) (m : Mem) (d' : Dev) : Dev :=
  let new := d'.failedChans.filter (fun k => !d.failedChans.contains k)
  (new.foldl (fun (d : Dev) k => (d.couchChannelFailed m (k % 4096)).colChannelFailed m (k % 4096)) d').settled m

/-- A packet was refused: what its sender above the channel makes of it. -/
def Dev.refusedUpper (d : Dev) (m : Mem) (status : Nat) (p : Packet × Owner) : Dev :=
  match p.2 with
  | .col k => if status = 1 then d.colRefused k p.1.schan else d
  | .couch q => if status = 1 then d.cqError m q 5 true else if status = 4 then d.cqError m q 6 true else d
  | _ => d

/-! ### Acknowledging a spoil (R299) -/

/-- A participant holds back no ACK: unmapped, IDLE, HALTED or EXC_HALT. -/
def Dev.quietParticipant (d : Dev) (l : Nat) : Bool :=
  match d.physOf l with
  | none => true
  | some p => match (d.tile p).core.run with
    | .running | .handler => false
    | _ => true

/-- DKL.STAT reads REMAPPING: a remap of a tile or of an engine's instances is due or under way. -/
def Dev.remapping (d : Dev) : Bool :=
  d.deckle.remap.isSome || !d.deckle.solverRemap.isEmpty || d.deckle.events.any (fun e => match e with
    | .tile _ | .engine _ => true
    | _ => false)

/-- ACK. -/
def Dev.ackSpoil (d : Dev) : Dev :=
  if d.stp.state ≠ .spoiled || !d.participants.all d.quietParticipant || d.remapping then d
  else
    let d := (d.stp.couch.map (fun e => e.1)).foldl (fun (d : Dev) q =>
      let x := d.couch q
      if x.state = .active then (d.setCouch q { x with pushed := 0, popped := 0, err := 0, copies := [] }).cqHeader q none
      else d) d
    { d with stp := { d.stp with state := .idle } }

/-! ### The broke ledger (R303 to R307) -/

/-- LEDGER_COPY: the committed ledger's header and live slots into the working ledger. -/
def Dev.ledgerCopy (d : Dev) (m : Mem) : Dev :=
  if d.stp.state ≠ .opened ∨ !d.stp.copyPending then d
  else
    let sb := d.slotBytes
    match d.readRegion m (d.ledgerName false) 0 4096 with
    | none => d
    | some (head, _) =>
      let live := d.liveSlots m false
      let d := (d.noteSlots false).noteRegion (d.ledgerName false) 0 4096
      -- a slot that is free in the committed bank is free in the working one
      let d' := (List.range d.ledgerCap).foldl (fun (o : Option Dev) s => o.bind (fun d =>
        if live.contains s then
          (d.readRegion m (d.ledgerName false) (4096 + s * sb) sb).bind (fun r =>
            (d.noteRegion (d.ledgerName false) (4096 + s * sb) sb).writeRegion (d.ledgerName true) (4096 + s * sb) r.1 r.2)
        else d.writeRegion (d.ledgerName true) (4096 + s * sb) [0] false)) (d.writeRegion (d.ledgerName true) 0 head false)
      match d' with
      | none => d
      | some d => ({ d with stp := { d.stp with copyPending := false } }.colAdvanceAll m).settled m

/-- The step at which a contribution of step `s` could next be folded: the live one unless it is its own, else NEXT
(DEDUCED, log entry 39). -/
def Dev.nextFold (d : Dev) (s : Nat) : Nat :=
  match d.liveStep with
  | some k => if k = s then (k + 1) % 2 ^ 32 else k
  | none => d.fget stpNextStep 0

/-- A late contribution is dropped. -/
def Dev.dropLate (d : Dev) : Dev := d.fcount stpLedgerdropFull 0 1

/-- LATE_CONTRIBUTION: the oldest late contribution on its way reaches the ledger; `good` says that its chunk arrived as
its CRC-64 has it. -/
def Dev.lateContribution (d : Dev) (m : Mem) (good : Bool) : Dev :=
  match d.stp.late with
  | [] => d
  | l :: rest =>
    let working := d.liveStep.isSome
    if working && d.stp.copyPending then d
    else
    let d := { d with stp := { d.stp with late := rest } }
    if !good || !d.ledgerOn || decide (d.slotBytes < 64 + l.data.length)
        || decide (d.fget colBrokeMaxage 0 < staleness (d.nextFold l.step) l.step) then d.dropLate
    else
      let live := d.liveSlots m working
      let d := d.noteSlots working
      match (List.range d.ledgerCap).find? (fun s => !live.contains s) with
      | none => d.dropLate
      | some s =>
        let entry := [1, l.format] ++ toLE 2 l.rank ++ toLE 4 l.colid ++ toLE 4 l.chunk ++ toLE 4 l.step
          ++ toLE 4 l.data.length ++ toLE 8 l.crc ++ List.replicate 36 0 ++ l.data
        let n := d.ledgerLive m working
        match d.writeRegion (d.ledgerName working) (4096 + s * d.slotBytes) entry false with
        | none => d.dropLate
        | some d =>
          let d := d.setLedgerLive working (n + 1)
          if working then { d with stp := { d.stp with lateIn := d.stp.lateIn + 1 } } else d

/-! ### Phase fences (R320) -/

/-- PHASE of a tile: a layout for the current generation of the phase fence. -/
def Dev.phasePost (d : Dev) (m : Mem) (tile : Nat) : Dev :=
  match d.takePost tile 2 (d.stpPostIs 3) with
  | none => d
  | some (p, d) =>
    let l := p.value % 4
    match d.stp.phaseLayout with
    | none => { d with stp := { d.stp with phaseLayout := some l } }
    | some k => if k = l then d else d.spoilCause m 0x05 0xFFFFFFFF

/-- A generation of the phase fence completes: counted, and true where the release waits for a re-draw, its own or that of
the generation before it. -/
def Dev.fenceComplete (d : Dev) (b : Nat) : Dev × Bool :=
  let p := d.stp.phaseLayout
  let d := { d with stp := { d.stp with nphase := d.stp.nphase + 1, phaseLayout := none } }
  let behind := !(d.bar b).held.isEmpty
  match p with
  | some l => if l = d.deckle.layout ∧ !behind then (d, false) else (d.dkEvent (.redraw l true), true)
  | none => (d, behind)

/-- The held phase fences release with status OK: each barrier its oldest generation, and the others with it unless a
further re-draw for a fence waits (R320). -/
def Dev.releaseFence (d : Dev) : Dev :=
  let more := d.deckle.events.any DkEvent.isFence
  (d.syn.bars.map (fun e => e.1)).foldl (fun (d : Dev) b =>
    let x := d.bar b
    let go := if more then x.held.take 1 else x.held
    let d := d.setBar b { x with held := x.held.drop go.length, gen := (x.gen + go.length) % 2 ^ 16 }
    go.foldl (fun (d : Dev) g => d.releaseArrivals b 0 g.1 g.2) d) d

/-! ### The placement goes (Table 11-4) -/

/-- RELEASE: IDLE without a flip, and every couch queue disabled. Tiles that wait in STEP.COMMIT were stopped before. -/
def Dev.stepsReleased (d : Dev) : Dev :=
  let d := (d.stp.couch.map (fun e => e.1)).foldl (fun (d : Dev) q =>
    (d.setCouch q { d.couch q with state := .off, copies := [] }).fset stpCqcfgEn q 0) d
  { d with stp := { d.stp with
      state := .idle, opens := [], arrived := [], waiting := [], copyPending := false, phaseLayout := none } }

end Sys2Proof.Machine
end

