-- ==== Sys2Proof/Machine/Rings.lean ====
section
/-! DEFINITION. Machine/Rings.lean: the host's side: command and completion rings, doorbells, the window onto device memory,
the urgent page and MSI-X (chapter 14). The commands themselves are the units'. -/

namespace Sys2Proof.Machine

/-! ### Configuration (R386, R396) -/

/-- SQCFG written for the selected ring: EN set anew empties the ring; LOG2SIZE holds while EN = 1. -/
def Dev.sqConfigure (d : Dev) (v : Nat) : Dev :=
  let q := d.fget hbxRingselRing 0
  let was := d.fbit hbxSqcfgEn q
  let d := d.fset hbxSqcfgCq q (bits v 8 6)
  let d := if was then d else d.fset hbxSqcfgLog2size q (hbxSqcfgLog2size.stored (bits v 1 4))
  let d := d.fset hbxSqcfgEn q (b2n (bit v 0))
  if bit v 0 && !was then d.setSq q { d.sq q with head := 0, tail := 0 } else d

/-- CQCFG written for the selected ring: EN set anew empties it with phase 1; EN cleared discards what waits (R391). -/
def Dev.cqRingConfigure (d : Dev) (v : Nat) : Dev :=
  let q := d.fget hbxRingselRing 0
  let was := d.fbit hbxCqcfgEn q
  let d := (d.fset hbxCqcfgVector q (bits v 8 8)).fset hbxCqcfgCoalcnt q (bits v 16 8)
  let d := if was then d else d.fset hbxCqcfgLog2size q (hbxCqcfgLog2size.stored (bits v 1 4))
  let d := d.fset hbxCqcfgEn q (b2n (bit v 0))
  if bit v 0 && !was then d.setCq q .reset
  else if !bit v 0 then
    let n := (d.cq q).waiting.length
    (d.setCq q { d.cq q with waiting := [] }).dropCompletions n
  else d

/-! ### Doorbells (R387, R393) -/

/-- Entries of an SQ. -/
def Dev.sqSize (d : Dev) (q : Nat) : Nat := 2 ^ d.fget hbxSqcfgLog2size q

/-- A doorbell reads back the last value written. -/
def Dev.keepDoorbell (d : Dev) (off v : Nat) : Dev :=
  { d with pci := { d.pci with doorbells := SMap.put 0 off v d.pci.doorbells } }

/-- A bad doorbell. -/
def Dev.badDoorbell (d : Dev) : Dev := d.fcount hbxBadcmdCount 0 1

/-- SQ_TAIL_DOORBELL. -/
def Dev.sqTail (d : Dev) (q v : Nat) : Dev :=
  let d := d.keepDoorbell (8 * q) v
  let t := v % 2 ^ 16
  if !d.fbit hbxSqcfgEn q || decide (d.sqSize q ≤ t) then d.badDoorbell else d.setSq q { d.sq q with tail := t }

/-- CQ_HEAD_DOORBELL: never past the entries written; entries left unconsumed are signalled again (R395). -/
def Dev.cqHead (d : Dev) (q v : Nat) : Dev :=
  let d := d.keepDoorbell (0x1000 + 8 * q) v
  let h := v % 2 ^ 16
  let x := d.cq q
  let n := d.cqSize q
  if n ≤ h ∨ (x.tail + n - x.head % n) % n < (h + n - x.head % n) % n then d.badDoorbell
  else d.setCq q { x with head := h, resignal := h != x.tail }

/-- HOST_EVENT_DOORBELL (R393). -/
def Dev.hostEvent (d : Dev) (t v : Nat) : Dev := (d.keepDoorbell (0x2000 + 4 * t) v).doorbell 0 t

/-! ### Commands (R387 to R392) -/

/-- A field of a command. -/
def HostCmd.f (c : HostCmd) (o n : Nat) : Nat := ofLE ((c.bytes.drop o).take n)

/-- Bytes `lo` to `hi` of a command that must be 0: the first that is not. -/
def HostCmd.zero (c : HostCmd) (lo hi : Nat) : List Nat :=
  (List.range (hi + 1 - lo)).filterMap (fun k => if c.bytes.getD (lo + k) 0 = 0 then none else some (lo + k))

/-- Offset `o` when the field there is out of range. -/
def badAt (o : Nat) (bad : Bool) : List Nat := if bad then [o] else []

/-- The byte offsets of a command's faulty fields (Tables 14-3 and 14-4). -/
def HostCmd.faults (c : HostCmd) : List Nat :=
  badAt 1 (decide (4 ≤ c.f 1 1)) ++ c.zero 4 7 ++ (match c.op with
    | 0 => c.zero 8 63
    | 1 => badAt 8 (decide (64 ≤ c.f 8 1)) ++ c.zero 9 9 ++ badAt 10 (c.f 10 2 == 0 || decide (0x1000 ≤ c.f 10 2))
        ++ badAt 12 (c.f 12 2 == 0 || decide (16384 < c.f 12 2)) ++ c.zero 14 15 ++ badAt 16 (c.f 16 8 % 64 != 0)
        ++ c.zero 24 63
    | 2 => badAt 16 (decide (16384 ≤ c.f 16 2)) ++ c.zero 18 23 ++ c.zero 32 63
    | 3 => c.zero 16 63
    | 4 => c.zero 20 63
    | 5 => c.zero 8 63
    | 6 => badAt 8 (decide (32 ≤ c.f 8 1)) ++ c.zero 9 9 ++ badAt 10 (c.f 10 2 == 0 || decide (0x1000 ≤ c.f 10 2))
        ++ c.zero 12 15 ++ c.zero 24 63
    | _ => c.zero 16 63)

/-- The command may start: no earlier FENCE of its SQ is outstanding, its own FENCE has nothing before it, and its SQ
does not wait for room in its CQ. -/
def Dev.mayStart (d : Dev) (q : Nat) (c : HostCmd) : Bool :=
  let s := d.sq q
  let blocked := (d.cq (d.fget hbxSqcfgCq q)).waiting.any (fun e => e.kind == 0 && e.sqid == q)
  s.started.all (fun o => !o.fence) && (!c.fence || s.started.isEmpty)
    && (!blocked || d.cqRoom (d.fget hbxSqcfgCq q))

/-- What refuses a command before its unit sees it: status and P0. -/
def Dev.cmdRefusal (d : Dev) (c : HostCmd) : Option (Nat × Nat) :=
  match c.error with
  | some e => some e
  | none =>
    if 7 < c.op then some (1, 0)
    else match c.faults.min? with
      | some o => some (2, o)
      | none => if d.isReady then none else some (7, 0)

/-- Complete the commands at the front of an SQ that nothing will perform. The fuel is their number. -/
def Dev.settleSq (d : Dev) (q : Nat) : Nat → Dev
  | 0 => d
  | n + 1 =>
    match (d.sq q).fetched with
    | [] => d
    | c :: rest =>
      match if d.mayStart q c then d.cmdRefusal c else none with
      | some (st, p0) => ((d.setSq q { d.sq q with fetched := rest }).complete c st p0 0).settleSq q n
      | none => d

/-- Start the oldest fetched command of an SQ if it has opcode `op`. -/
def Dev.startCmd (d : Dev) (q op : Nat) (f : Dev → HostCmd → Dev) : Dev :=
  let d := d.settleSq q ((d.sq q).fetched.length + 1)
  match (d.sq q).fetched with
  | c :: rest =>
    if c.op = op ∧ d.mayStart q c ∧ (d.cmdRefusal c).isNone then
      f (d.setSq q { d.sq q with fetched := rest, started := (d.sq q).started ++ [c] }) c
    else d
  | [] => d

/-- COMMAND_FETCH: the next command of an SQ, with its 64 bytes; `bad` where the completion carried EP or a status of UR
or CA (R382, R387, R392). -/
def Dev.commandFetch (d : Dev) (q : Nat) (bytes : List Nat) (bad : Bool) : Dev :=
  let s := d.sq q
  let may := match d.phase with
    | .ready | .degraded | .computeReset => true
    | _ => false
  if !may || !d.fbit hbxSqcfgEn q || bit d.hbx.sqStop q || s.head == s.tail then d
  else
    let f (o n : Nat) : Nat := ofLE ((bytes.drop o).take n)
    let c : HostCmd :=
      { sq := q, op := f 0 1, fence := bit (f 1 1) 0, quiet := bit (f 1 1) 1, cid := f 2 2
        bytes := (bytes ++ List.replicate (64 - bytes.length) 0).take 64, error := if bad then some (8, 0) else none }
    let d := d.setSq q { s with head := (s.head + 1) % d.sqSize q, fetched := s.fetched ++ [c] }
    d.settleSq q ((d.sq q).fetched.length + 1)

/-- NOP_COMMAND. -/
def Dev.nopCommand (d : Dev) (q : Nat) : Dev := d.startCmd q 0 (fun d c => d.complete c 0 0 0)

/-! ### Writing completions (R390, R395) -/

/-- The 32 bytes of an entry with its phase. -/
def CqEntry.bytes (e : CqEntry) (phase : Nat) : List Nat :=
  toLE 2 e.cid ++ [e.sqid % 256, e.kind] ++ toLE 2 e.status ++ [phase % 2, 0] ++ toLE 8 e.p0 ++ toLE 8 e.p1 ++ toLE 8 e.p2

/-- Host address of a CQ. -/
def Dev.cqBase (d : Dev) (q : Nat) : Nat := d.fget hbxCqbaseLoBase q * 4096 + d.fget hbxCqbaseHiBase q * 2 ^ 32

/-- COMPLETION_WRITE: the oldest waiting entry of a CQ goes into its ring. -/
def Dev.completionWrite (d : Dev) (q : Nat) : Dev :=
  let x := d.cq q
  match x.waiting with
  | [] => d
  | e :: rest =>
    if !d.fbit hbxCqcfgEn q || !d.cqRoom q then d
    else
      let a := d.cqBase q + 32 * x.tail
      let n := d.cqSize q
      let tail := (x.tail + 1) % n
      let host := (e.bytes x.phase).zipIdx.foldl (fun m (b, i) => SMap.insert (a + i) b m) d.pci.hostMem
      let d := { d with pci := { d.pci with hostMem := host } }
      let k := x.unsignalled + 1
      let now := decide (max 1 (d.fget hbxCqcfgCoalcnt q) ≤ k)
      let d := d.setCq q { x with
        tail := tail, phase := if tail = 0 then 1 - x.phase else x.phase, waiting := rest
        unsignalled := if now then 0 else k }
      if now then d.signal (d.fget hbxCqcfgVector q) else d

/-- MSIX_SIGNAL: HBX.CQCOAL.US have passed for a CQ with entries not yet signalled, or left unconsumed (R395). -/
def Dev.msixSignal (d : Dev) (q : Nat) : Dev :=
  let x := d.cq q
  if d.fbit hbxCqcfgEn q && (decide (0 < x.unsignalled) || x.resignal) then
    (d.setCq q { x with unsignalled := 0, resignal := false }).signal (d.fget hbxCqcfgVector q)
  else d

/-! ### The window (R384, R385) -/

/-- Bytes of BAR 4. -/
def Dev.barBytes (d : Dev) : Nat := 2 ^ d.pci.barLog2

/-- The device address of a BAR 4 offset. -/
def Dev.winAddr (d : Dev) (o : Nat) : Nat := d.fget pciWinbaseGib 0 * 2 ^ 30 + o

/-- PCI.WINBASE written: rounded down to a multiple of the BAR. -/
def Dev.setWinbase (d : Dev) (v : Nat) : Dev :=
  let n := 2 ^ (d.pci.barLog2 - 30)
  d.fset pciWinbaseGib 0 (v % 2 ^ 11 / n * n)

/-- WINERR: the bit, the capture if none is held, and the record (R385). -/
def Dev.winError (d : Dev) (f : Field) (a : Nat) : Dev :=
  let d := d.fset f 0 1
  let d := if d.fbit pciWinerrValid 0 then d
    else ((d.fset pciWinerraddrLoAddr 0 (a % 2 ^ 32)).fset pciWinerraddrHiAddr 0 (bits a 32 10)).fset pciWinerrValid 0 1
  let err := d.fget pciWinerrFailed 0 + 2 * d.fget pciWinerrOverflow 0 + 4 * d.fget pciWinerrPoison 0
    + 8 * d.fget pciWinerrDisabled 0 + 2 ^ 31 * d.fget pciWinerrValid 0
  d.record 0x0003 pPCI 0 (a % 2 ^ 32) (bits a 32 10) err

/-- A read answered with EP: AER logs it. Which AER status bit its record names the spec leaves to the Base
Specification: a free value (log entry 40). -/
def Dev.epRead (d : Dev) (f : Field) (a : Nat) (bs : List Nat) : Dev :=
  let (v, d) := d.fresh
  let d := (d.winError f a).record 0x0002 pPCI 0 v 0 0
  { d with pci := { d.pci with reply := .window bs true } }

/-- A TLP of the window: inside BAR 4 and inside one aligned 4 KiB (Base Specification). -/
def Dev.winOk (d : Dev) (o n : Nat) : Bool :=
  d.answers && decide (0 < n) && decide (o % 4096 + n ≤ 4096) && decide (o + n ≤ d.barBytes)
    && decide (d.winAddr (o + n - 1) < 32 * stackBytes)

/-- BAR4_READ: before event 7 of Table 15-1 the answer is Completer Abort (R401). `ecc` is what the die meets in the first line. -/
def Dev.bar4Read (d : Dev) (m : Mem) (o n : Nat) (ecc : Ecc) : Dev :=
  if !d.winOk o n then d
  else if d.bootEvent < 7 then { d with pci := { d.pci with reply := .abort } }
  else
    let a := d.winAddr o
    let s := stackOf a
    if d.fget stkStatHealth s = 3 then d.epRead pciWinerrPoison a (List.replicate n 0xFF)
    else if !d.active pSTK s then (d.epRead pciWinerrPoison a (List.replicate n 0xFF)).fset pciWinerrDisabled 0 1
    else
      let l := a / 64 * 64
      let d := (d.activateRow s ecc.row).disturb m l ecc
      let bs := d.seenBytes m a n
      let bad := d.bytesBad a n
      let d := d.noteBytes a n
      if bad then d.epRead pciWinerrPoison a bs else { d with pci := { d.pci with reply := .window bs false } }

/-- BAR4_WRITE: a write before event 7 of Table 15-1 is discarded (R401); else a write that entered the buffer in
time, which lands at once (DESIGN CHOICE, log entry 71); `ecc` is what a read-modify-write of the first line meets. -/
def Dev.bar4Write (d : Dev) (m : Mem) (o : Nat) (bs : List Nat) (ecc : Ecc) : Dev :=
  if !d.winOk o bs.length then d
  else
    let a := d.winAddr o
    let s := stackOf a
    if d.bootEvent < 7 ∨ d.fget stkStatHealth s = 3 then d.winError pciWinerrFailed a
    else if !d.active pSTK s then d.winError pciWinerrDisabled a
    else
      ((d.activateRow s ecc.row).disturb m (a / 64 * 64) ecc).writeBytes a bs false

/-- WIN_WRITE_DISCARD: a write that could not enter the buffer within 2 µs. -/
def Dev.winDiscard (d : Dev) (o n : Nat) : Dev :=
  if d.winOk o n then d.winError pciWinerrOverflow (d.winAddr o) else d

/-! ### The urgent page (R394) -/

/-- An urgent write was performed. -/
def Dev.urgent (d : Dev) : Dev := { d with pci := { d.pci with urgCount := (d.pci.urgCount + 1) % 2 ^ 32 } }

/-- STOPPED of the channels that a STOPCHAN or RESUMECHAN value names. -/
def Dev.urgStop (d : Dev) (v : Nat) (stopped : Bool) : Dev :=
  { d with brezin := { d.brezin with
      chans := d.brezin.chans.map (fun k =>
        if k.2.state != .closed && (bit v 12 || k.1 % 4096 == v % 4096) then (k.1, { k.2 with stopped := stopped }) else k) } }

/-- STOPCHAN. -/
def Dev.urgStopChan (d : Dev) (v : Nat) : Dev := (d.urgent).urgStop v true

/-- RESUMECHAN. -/
def Dev.urgResumeChan (d : Dev) (v : Nat) : Dev := (d.urgent).urgStop v false

/-- STOP or RESUME to every channel of a device to this one, on CTL; what its SCHAN holds is a free value (log entry 42). -/
def Dev.urgPeer (d : Dev) (v op : Nat) : Dev :=
  let (s, d) := d.fresh
  let e := ((List.range 6).find? (fun e => d.active pBZE e)).getD 0
  d.control e (v % 2 ^ 20) op 0xFFF (s % 4096) 0

/-- STOPPEER. -/
def Dev.urgStopPeer (d : Dev) (v : Nat) : Dev := (d.urgent).urgPeer v 8

/-- RESUMEPEER. -/
def Dev.urgResumePeer (d : Dev) (v : Nat) : Dev := (d.urgent).urgPeer v 9

/-- SQSTOP: bit i of the low or high word. -/
def Dev.urgSqStop (d : Dev) (high : Bool) (v : Nat) : Dev :=
  { d.urgent with hbx := { d.hbx with sqStop := d.hbx.sqStop ||| (v % 2 ^ 32 * (if high then 2 ^ 32 else 1)) } }

/-- SQGO. -/
def Dev.urgSqGo (d : Dev) (high : Bool) (v : Nat) : Dev :=
  let w := v % 2 ^ 32 * (if high then 2 ^ 32 else 1)
  { d.urgent with hbx := { d.hbx with sqStop := d.hbx.sqStop - (d.hbx.sqStop &&& w) } }

/-- COLABORT. -/
def Dev.urgColAbort (d : Dev) (m : Mem) (v : Nat) : Dev := ((d.urgent).colHostAbort (v % 2 ^ 32)).settled m

/-- URG_SPOIL. -/
def Dev.urgSpoil (d : Dev) (m : Mem) (v : Nat) : Dev := if bit v 0 then (d.urgent).hostSpoil m else d.urgent

end Sys2Proof.Machine
end

