-- ==== Sys2Proof/Machine/Delivery.lean ====
section
/-! DEFINITION. Machine/Delivery.lean: how packets and POST values reach the collective engine, and what a refusal does
above the channel (chapters 12 and 13). -/

namespace Sys2Proof.Machine

/-- REFUSE: the channel's part, then its owner's (R318, R339). -/
def Dev.refusePacket (d : Dev) (m : Mem) (e : Nat) : Dev :=
  d.withHead e 4 (fun d p =>
    match d.refused e p with
    | (d, some hit) => d.refusedUpper m (bits p.arg 16 8) hit
    | (d, none) => d)

/-- The oldest packet of an engine is the service packet `op`: received in its channel's order and handled by `f`, which
gets the channel. -/
def Dev.colPacket (d : Dev) (m : Mem) (e op : Nat) (f : Dev → Nat → Packet → Dev) : Dev :=
  d.afterFailures m (d.withHead e op (fun d p => d.receive e p (fun d c => .ok (f d c p))))

/-- A POST value that COL takes from a tile; a COL that is not ACTIVE discards it (R377). -/
def Dev.colTakes (d : Dev) (m : Mem) (tile : Nat) (p : Nat → Bool) : Dev :=
  match d.takePost tile 1 p with
  | none => d
  | some (q, d) => if d.active pCOL 0 then (d.colPost m q.value q.step).settled m else d

/-- READY: the oldest POST of a tile to COL is a READY, or malformed. -/
def Dev.readyPost (d : Dev) (m : Mem) (tile : Nat) : Dev := d.colTakes m tile (fun v => colPostBad v || bits v 60 4 == 1)

/-- ABORT: the oldest POST of a tile to COL is an ABORT. -/
def Dev.abortPost (d : Dev) (m : Mem) (tile : Nat) : Dev := d.colTakes m tile (fun v => !colPostBad v && bits v 60 4 == 2)

/-- COL_LAUNCH: COL takes the value with no step. A malformed one is counted there, and the command names the operand
(DEDUCED, log entry 57). -/
def Dev.colLaunch (d : Dev) (m : Mem) (q : Nat) : Dev :=
  d.startCmd q 7 (fun d c =>
    let v := c.f 8 8
    if !d.active pCOL 0 then d.complete c 5 0 0
    else
      let d := (d.colPost m v none).settled m
      if colPostBad v then d.complete c 2 8 0 else d.complete c 0 0 0)

end Sys2Proof.Machine
end

