-- ==== Sys2Proof/Machine/Sha.lean ====
section
/-! DEFINITION. Machine/Sha.lean: SHA-384 (FIPS 180-4), which the structure hash (R186) and every signature check of
chapter 17 use. -/

namespace Sys2Proof.Machine

/-- A 64-bit word rotated right. -/
def rotr64 (x n : Nat) : Nat := x / 2 ^ n ||| x % 2 ^ n * 2 ^ (64 - n)

/-- The largest `e`-th root of at most `n` that extends `r` by `k` more bits. -/
def rootBits (e n : Nat) : Nat → Nat → Nat
  | 0, r => r
  | k + 1, r => rootBits e n k (if (r + 2 ^ k) ^ e ≤ n then r + 2 ^ k else r)

/-- The first 64 bits of the fraction of the `e`-th root of a number below 2^9. -/
def rootFraction (e p : Nat) : Nat := rootBits e (p * 2 ^ (64 * e)) 69 0 % 2 ^ 64

/-- The first eighty primes: the numbers from 2 to 409 that no other prime below 20 divides. -/
def shaPrimes : List Nat :=
  ((List.range 408).map (· + 2)).filter (fun n => [2, 3, 5, 7, 11, 13, 17, 19].all (fun q => n == q || n % q != 0))

/-- The round constants of SHA-384: from the cube roots of the first eighty primes. -/
def shaK : List Nat := shaPrimes.map (rootFraction 3)

/-- The initial hash value of SHA-384: from the square roots of the ninth to sixteenth primes. -/
def shaInit : List Nat := ((shaPrimes.drop 8).take 8).map (rootFraction 2)

/-- The exclusive or of a word's rotations. -/
def rotations (x : Nat) (ns : List Nat) : Nat := (ns.map (rotr64 x)).foldl (· ^^^ ·) 0

/-- The next word of the message schedule; `w` holds the last 16, newest first. -/
def shaNext (w : List Nat) : Nat :=
  let small (x shift : Nat) (ns : List Nat) : Nat := rotations x ns ^^^ x / 2 ^ shift
  (small (w.getD 1 0) 6 [19, 61] + w.getD 6 0 + small (w.getD 14 0) 7 [1, 8] + w.getD 15 0) % 2 ^ 64

/-- One round on the eight working variables: all but the first and the fifth move one place on. -/
def shaRound (s : List Nat) (k w : Nat) : List Nat :=
  let v (i : Nat) : Nat := s.getD i 0
  let choose := v 6 ^^^ (v 4 &&& (v 5 ^^^ v 6))
  let majority := (v 0 &&& (v 1 ||| v 2)) ||| (v 1 &&& v 2)
  let t := v 7 + rotations (v 4) [14, 18, 41] + choose + k + w
  ((t + rotations (v 0) [28, 34, 39] + majority) % 2 ^ 64) :: s.take 3 ++ ((v 3 + t) % 2 ^ 64) :: (s.drop 4).take 3

/-- Compress one block of 16 words. -/
def shaBlock (h : List Nat) (block : List Nat) : List Nat :=
  let r := shaK.foldl (fun (st : List Nat × List Nat × List Nat) k =>
    match st.2.2 with
    | w :: rest => (shaRound st.1 k w, (w :: st.2.1).take 16, rest)
    | [] =>
      let w := shaNext st.2.1
      (shaRound st.1 k w, (w :: st.2.1).take 16, [])) (h, [], block)
  (h.zip r.1).map (fun (a, b) => (a + b) % 2 ^ 64)

/-- A big-endian number. -/
def ofBE (l : List Nat) : Nat := l.foldl (fun n b => 256 * n + b % 256) 0

/-- The `k` big-endian bytes of a number. -/
def toBE (k n : Nat) : List Nat := (toLE k n).reverse

/-- The padded message as 64-bit words. The fuel is the number of words. -/
def shaWords : Nat → List Nat → List Nat
  | 0, _ => []
  | k + 1, bs => ofBE (bs.take 8) :: shaWords k (bs.drop 8)

/-- Run the blocks. -/
def shaBlocks : Nat → List Nat → List Nat → List Nat
  | 0, _, h => h
  | k + 1, ws, h => shaBlocks k (ws.drop 16) (shaBlock h (ws.take 16))

/-- The 48-byte SHA-384 digest of a message. -/
def sha384 (msg : List Nat) : List Nat :=
  let n := msg.length
  let zeros := (239 - n % 128) % 128
  let padded := msg ++ [0x80] ++ List.replicate zeros 0 ++ toBE 16 (8 * n)
  let words := shaWords (padded.length / 8) padded
  ((shaBlocks (words.length / 16) words shaInit).take 6).flatMap (toBE 8)

end Sys2Proof.Machine
end

