-- ==== Sys2Proof/Machine/Ecdsa.lean ====
section
/-! DEFINITION. Machine/Ecdsa.lean: verification of ECDSA signatures over brainpoolP384r1 with SHA-384 (chapter 17). -/

namespace Sys2Proof.Machine

/-- The field prime of brainpoolP384r1 (RFC 5639). -/
def bpP : Nat := 0x8CB91E82A3386D280F5D6F7E50E641DF152F7109ED5456B412B1DA197FB71123ACD3A729901D1A71874700133107EC53
/-- Coefficient A of the curve. -/
def bpA : Nat := 0x7BC382C63D8C150C3C72080ACE05AFA0C2BEA28E4FB22787139165EFBA91F90F8AA5814A503AD4EB04A8C7DD22CE2826
/-- Coefficient B of the curve. -/
def bpB : Nat := 0x04A8C7DD22CE28268B39B55416F0447C2FB77DE107DCD2A62E880EA53EEB62D57CB4390295DBC9943AB78696FA504C11
/-- The order of the base point. -/
def bpN : Nat := 0x8CB91E82A3386D280F5D6F7E50E641DF152F7109ED5456B31F166E6CAC0425A7CF3AB6AF6B7FC3103B883202E9046565

/-- A point in Jacobian coordinates; `z = 0` is the point at infinity. -/
structure Point where
  x : Nat
  y : Nat
  z : Nat
  deriving DecidableEq, Repr

/-- The base point. -/
def bpG : Point where
  x := 0x1D1C64F068CF45FFA2A63A81B7C13F6B8847A3E77EF14FE3DB7FCAFE0CBD10E8E826E03436D646AAEF87B2E247D4AF1E
  y := 0x8ABE1D7520F9C2A45CB1EB8E95CFD55262B70B29FEEC5864E19C054FF99129280E4646217791811142820341263C5315
  z := 1

/-- The point at infinity. -/
def Point.zero : Point := ⟨1, 1, 0⟩

/-- Subtraction modulo p. -/
def subP (a b : Nat) : Nat := (a + bpP - b % bpP) % bpP

/-- Twice a point. -/
def Point.double (a : Point) : Point :=
  if a.z = 0 ∨ a.y = 0 then .zero
  else
    let yy := a.y * a.y % bpP
    let s := 4 * a.x * yy % bpP
    let zz := a.z * a.z % bpP
    let m := (3 * a.x * a.x + bpA * (zz * zz % bpP)) % bpP
    let x := subP (m * m) (2 * s)
    ⟨x, subP (m * subP s x) (8 * yy * yy), 2 * a.y * a.z % bpP⟩

/-- The sum of two points. -/
def Point.add (a b : Point) : Point :=
  if a.z = 0 then b
  else if b.z = 0 then a
  else
    let za := a.z * a.z % bpP
    let zb := b.z * b.z % bpP
    let u := a.x * zb % bpP
    let v := b.x * za % bpP
    let s := a.y * zb % bpP * b.z % bpP
    let t := b.y * za % bpP * a.z % bpP
    if u = v then (if s = t then a.double else .zero)
    else
      let h := subP v u
      let r := subP t s
      let hh := h * h % bpP
      let hhh := hh * h % bpP
      let w := u * hh % bpP
      let x := subP (subP (r * r) hhh) (2 * w)
      ⟨x, subP (r * subP w x) (s * hhh), a.z * b.z % bpP * h % bpP⟩

/-- `k` times a point, most significant bit first over `n` bits. -/
def Point.times (a : Point) (n k : Nat) : Point :=
  (List.range n).foldl (fun t i => let t := t.double; if bit k (n - 1 - i) then t.add a else t) .zero

/-- `a ^ e` modulo `m`, over 384 bits of `e`. -/
def powMod (a e m : Nat) : Nat :=
  (List.range 384).foldl (fun t i => let t := t * t % m; if bit e (383 - i) then t * a % m else t) 1

/-- The affine x coordinate. -/
def Point.affineX (a : Point) : Nat := a.x * powMod (a.z * a.z % bpP) (bpP - 2) bpP % bpP

/-- A 97-byte public key as a point of the curve. -/
def pointOf (key : List Nat) : Option Point :=
  let x := ofBE ((key.drop 1).take 48)
  let y := ofBE ((key.drop 49).take 48)
  if key.length = 97 ∧ key.headD 0 = 4 ∧ x < bpP ∧ y < bpP ∧ y * y % bpP = (x * x % bpP * x + bpA * x + bpB) % bpP then
    some ⟨x, y, 1⟩
  else none

/-- A signature of 96 bytes, r then s, over the SHA-384 digest of a message. -/
def verifySig (key msg sig : List Nat) : Bool :=
  match pointOf key with
  | none => false
  | some q =>
    let r := ofBE (sig.take 48)
    let s := ofBE ((sig.drop 48).take 48)
    if r = 0 ∨ s = 0 ∨ bpN ≤ r ∨ bpN ≤ s ∨ sig.length < 96 then false
    else
      let w := powMod s (bpN - 2) bpN
      let e := ofBE (sha384 msg)
      let p := (bpG.times 384 (e * w % bpN)).add (q.times 384 (r * w % bpN))
      p.z != 0 && p.affineX % bpN == r

end Sys2Proof.Machine
end

