-- ==== Sys2Proof/Machine/CoreExec.lean ====
section
/-! DEFINITION. Machine/CoreExec.lean: what one bundle does to its own tile: special registers, landing of writes, the
checks of the issue phase, stalls, and the effect of every scalar, load/store and control operation (R52 to R88). What
lies outside the tile reaches it through `IssueEnv`, and leaves it as an `Eff`. -/

namespace Sys2Proof.Machine

/-- What a bundle sees of the rest of the device. -/
structure IssueEnv where
  /-- the cadence count (R231) -/
  cadc : Nat
  /-- region sizes by handle, for the DSLD checks (R67): none where the handle is not in the region table -/
  sizes : Nat → Option Nat
  /-- PG_LOCK.DEBUG_OPEN of the tile's page (R81) -/
  debugOpen : Bool
  /-- POST targets that are DRAINING or DISABLED (R80) -/
  downTargets : List Nat
  /-- sequence numbers of the tile's posts and delta packets that their target has not performed (Table 8-3) -/
  waitingPosts : List Nat
  /-- the status with which a FENCE.P of this bundle would end now, none while it waits (R222) -/
  fenceP : Option Nat
  /-- the tile is a participant of the step (R293) -/
  participant : Bool
  /-- the ramp governor lets directly issued work load the array, and the DMA engine (R468) -/
  arrayFree : Bool
  dmaFree : Bool

/-- An effect of a slot, applied once every slot of the bundle has passed its checks (R82). -/
inductive Eff where
  | write (target : Target) (value latency flags : Nat) (fromDiv : Bool)
  | divide (d value : Nat)
  | store (addr : Nat) (bytes : List Nat)
  | jump (target : Nat)
  | loop (first last count : Nat)
  | tevClear (mask : Nat)
  | mx (o : MxItem)
  | mxPrep (le : Nat) (o : MxItem)
  | vec (it : VItem)
  | dma (d : Dma)
  | dmaPrep (le : Nat) (d : Dma)
  | slvPrep (le : Nat) (b : SlvBlock)
  | arrive (b seq : Nat)
  | barDone (b : Nat)
  | launch (mask mark : Nat)
  | post (target value : Nat)
  | stepOpen (n : Nat)
  | commitDone (closes : Bool)
  | eret
  | brkpt
  | halt
  deriving DecidableEq, Repr

/-! ### Special registers -/

/-- The state of a launch entry. -/
def Tile.entry (t : Tile) (i : Nat) : Entry := SMap.get .empty i t.core.entries

/-- Set a launch entry. -/
def Tile.setEntry (t : Tile) (i : Nat) (e : Entry) : Tile :=
  { t with core := { t.core with entries := SMap.put .empty i e t.core.entries } }

/-- The entry is armed: its mark is still to come, or the governor has moved it to a later one (R78). -/
def Entry.isArmed : Entry → Bool
  | .armed .. | .fired .. => true
  | _ => false

/-- LSTAT (R78). An entry that the governor defers fires on the mark to which it is moved, and is armed until then. -/
def Tile.lstat (t : Tile) : Nat :=
  let armed := ofBits ((List.range 4).filter (fun i => (t.entry i).isArmed))
  let prep := ofBits ((List.range 4).filter (fun i => match t.entry i with
    | .prepared .. => true
    | _ => false))
  b2n t.core.overrun + 2 * b2n t.core.emptyArm + 16 * armed + 256 * prep + 2 ^ 16 * t.core.lastDelay

/-- DMASTAT (R69). -/
def Tile.dmastat (t : Tile) : Nat :=
  (List.range 32).foldl (fun a i => a + SMap.get 0 i t.store.tagState * 4 ^ i) 0

/-- The value an MFS reads (Table 3-5). -/
def Tile.spr (t : Tile) (cadc n : Nat) : Nat :=
  let c := t.core
  match n with
  | 0x000 => c.nmode
  | 0x001 => c.fcsr
  | 0x010 => c.vl
  | 0x011 => c.vstat
  | 0x012 => c.vres
  | 0x020 => cadc
  | 0x021 => t.lstat
  | 0x030 => c.excCause
  | 0x031 => c.excPc
  | 0x032 => c.excSlot
  | 0x033 => c.excAddr
  | 0x034 => c.evec
  | 0x040 => c.tev
  | 0x041 => t.dmastat
  | 0x050 => c.ltile
  | _ => 0

/-- What an MTS changes when it lands (R60): unused high bits are ignored. -/
def Core.setSpr (c : Core) (n v : Nat) : Core :=
  match n with
  | 0x000 => { c with nmode := nmodeStored v }
  | 0x001 => { c with fcsr := fcsrStored v }
  | 0x010 => { c with vl := min (v % 2 ^ 16) 2048 }
  | 0x011 => { c with vstat := v % 16 + bits v 16 16 * 2 ^ 16 }
  | 0x012 => { c with vres := v % 2 ^ 11 }
  | 0x021 => { c with overrun := bit v 0, emptyArm := bit v 1 }
  | 0x030 => { c with excCause := v % 2 ^ 8 }
  | 0x031 => { c with excPc := v % 2 ^ 14 }
  | 0x032 => { c with excSlot := v % 2 ^ 4 }
  | 0x034 => { c with evec := v % 2 ^ 14 + b2n (bit v 63) * 2 ^ 63 }
  | 0x040 => { c with tev := v % 2 ^ 64 }
  | _ => c

/-! ### Landing (R71) -/

/-- One write lands. FCSR flags OR in after an MTS that lands with them (R61). -/
def Tile.land (t : Tile) (w : Write) : Tile :=
  let t := match w.target with
    | .x n => if n = 0 then t else { t with core := { t.core with x := SMap.put 0 n (BitVec.ofNat 64 w.value) t.core.x } }
    | .f n => t.writeF n w.value false
    | .m n => t.writeM n w.value false
    | .ds n => { t with core := { t.core with ds := SMap.put 0 n w.value t.core.ds } }
    | .spr n => { t with core := t.core.setSpr n w.value }
  { t with core := { t.core with fcsr := t.core.fcsr ||| w.flags } }

/-- Special-register writes land before the flags of the same cc (R61). -/
def Write.isSpr (w : Write) : Bool :=
  match w.target with
  | .spr _ => true
  | _ => false

/-- Land every write due at schedule cc `c` or before, earliest first. Of two MTS of one bundle to one register the higher
slot's value remains (DESIGN CHOICE, log entry 100). -/
def Tile.landUpTo (t : Tile) (c : Nat) : Tile :=
  let due := t.core.pend.filter (fun w => decide (w.due ≤ c))
  let rest := t.core.pend.filter (fun w => decide (c < w.due))
  let times := (sortNat (due.map (fun w => w.due))).eraseDups
  let t := times.foldl (fun (t : Tile) u =>
    let here := due.filter (fun w => w.due == u)
    (here.filter (fun w => w.isSpr) ++ here.filter (fun w => !w.isSpr)).foldl Tile.land t) t
  { t with core := { t.core with pend := rest } }

/-- Land everything: every write of earlier bundles (R82). -/
def Tile.landAll (t : Tile) : Tile :=
  t.landUpTo (t.core.pend.foldl (fun a w => max a w.due) t.core.cc)

/-! ### Enabling, poison, hazards -/

/-- The slot takes effect: bit 0 of its predicate (R56). VA, VB and MX apply it per element. -/
def Tile.slotOn (t : Tile) (s : Slot) : Bool :=
  match s.op with
  | .vector _ | .matrix _ => true
  | _ => bit (t.mr s.pred) 0

/-- The scalar slots, which read F and M registers as scalars (R177). -/
def Slot.isScalarSlot (s : Slot) : Bool :=
  match s.op with
  | .vector _ | .matrix _ => false
  | _ => true

/-- EXC.ADDR of a poisoned register: bit 63, bit 8 for an M register, its number (R177). -/
def poisonRegAddr (isM : Bool) (n : Nat) : Nat := 2 ^ 63 + (if isM then 256 else 0) + n

/-- POISON from the registers a scalar slot reads (R56, R177). -/
def Tile.poisonExc (t : Tile) (s : Slot) : Option Exc :=
  if !s.isScalarSlot then none
  else if t.mPoisoned s.pred then some ⟨cPoison, s.k, poisonRegAddr true s.pred⟩
  else if !t.slotOn s then none
  else
    s.regs.1.findSome? (fun r => match r.file with
      | .v => if bit (t.vPoisonOf r.n) 0 then some ⟨cPoison, s.k, poisonRegAddr false r.n⟩ else none
      | .m => if t.mPoisoned r.n then some ⟨cPoison, s.k, poisonRegAddr true r.n⟩ else none
      | _ => none)

/-- The register a pending write holds, if it is one that hazards see. -/
def Target.reg : Target → Option Reg
  | .x n => some (rX n)
  | .f n => some (rV n)
  | .m n => some (rM n)
  | .ds n => some (rDS n)
  | .spr _ => none

/-- HAZARD (R72). -/
def Tile.hazardExc (t : Tile) (s : Slot) : Option Exc :=
  (s.regs.1 ++ s.regs.2).findSome? (fun r =>
    if !r.discards && t.core.pend.any (fun w => decide (t.core.cc < w.due) && w.target.reg == some r) then
      some ⟨cHazard, s.k, r.n⟩ else none)

/-- The slot holds FDIV or FSQRT. -/
def Slot.usesDivUnit (s : Slot) : Bool :=
  match s.op with
  | .scalar (.fdiv ..) | .scalar (.fsqrt ..) => true
  | _ => false

/-- The DMA tag a slot names, with its launch entry for a PREP form. -/
def Slot.dmaTag (s : Slot) : Option Nat :=
  match s.op with
  | .loadStore (.dma _ _ _ _ _ _ tag _) => some tag
  | _ => none

/-- The launch entry a slot prepares. -/
def Slot.prepEntry (s : Slot) : Option Nat :=
  match s.op with
  | .loadStore (.dma _ true _ _ _ _ _ le) => some le
  | .matrix (.mma true _ _ _ _ _ le) => some le
  | .control (.prepSlv _ le) => some le
  | _ => none

/-- The tag a launch entry holds. -/
def Entry.tag : Entry → Option Nat
  | .prepared (.dma d) | .armed (.dma d) _ | .fired (.dma d) _ => some d.tag
  | _ => none

/-- A tag is in flight or held by a launch entry (R69). -/
def Tile.tagBusy (t : Tile) (tag : Nat) : Bool :=
  SMap.get 0 tag t.store.tagState == 1 || (List.range 4).any (fun i => (t.entry i).tag == some tag)

/-- A launch entry holds work. -/
def Entry.full : Entry → Bool
  | .empty => false
  | _ => true

/-- BUSY and LOOP_DEPTH of the issue phase (R69, R72, R76, R78, R225). `earlier` are the bundle's lower slots. -/
def Tile.busyExc (t : Tile) (earlier : List Slot) (s : Slot) : Option Exc :=
  if !t.slotOn s then none
  else
    let busy : Option Exc := some ⟨cBusy, s.k, 0⟩
    let on := earlier.filter (fun o => t.slotOn o)
    if s.usesDivUnit && (on.any (fun o => o.usesDivUnit)
        || t.core.pend.any (fun w => w.fromDiv && decide (t.core.cc < w.due))) then busy
    else if s.dmaTag.any (fun g => t.tagBusy g || on.any (fun o => o.dmaTag == some g)) then busy
    else if s.prepEntry.any (fun e => (t.entry e).full || on.any (fun o => o.prepEntry == some e)) then busy
    else match s.op with
      | .control (.launchAt _ mask) =>
        if (setBits 4 mask).any (fun i => (t.entry i).isArmed) then busy else none
      | .control (.barArrive b) =>
        if (SMap.find b t.store.arrivals).any (fun a => a.released.isNone) then busy else none
      | .control (.loop ..) => if 4 ≤ t.core.loops.length then some ⟨cLoopDepth, s.k, 0⟩ else none
      | _ => none

/-! ### Stalls (R57, R73) -/

/-- Every write, interlocked operation, vector and matrix operation of earlier bundles is done (R57). -/
def Tile.serDone (t : Tile) : Bool :=
  t.core.pend.all (fun w => decide (w.due ≤ t.core.cc)) && t.core.div.isEmpty && t.vx.idle && t.mx.idle

/-- The STALL_WHY of a register's interlock, 0 for none (R73, R126, R160). X0 and M0 are never pending (R56, R58). -/
def Tile.interlock (t : Tile) (r : Reg) : Nat :=
  if r.discards then 0
  else if r.file == .x && t.core.div.any (fun d => d.1 == r.n) then 2
  else if t.vx.pending r then 10
  else if r.file == .t && t.mx.pendingT r.n then 10
  else 0

/-- The condition of FENCE.S or FENCE.D (Table 8-3): every earlier DMA has ended, and for the device every earlier POST and
delta packet has been performed. That a write has passed the Sheet's crossbar, so that the Sheet's later accesses observe
it, shows here once it is performed at its stack (DESIGN CHOICE, log entry 111). -/
def Tile.accessesDone (t : Tile) (env : IssueEnv) (scope : FenceScope) (seq : Nat) : Bool :=
  t.store.dmas.all (fun (_, d) => decide (seq ≤ d.seq))
    && (scope != .device || env.waitingPosts.all (fun q => decide (seq ≤ q)))

/-- Every earlier DMA has finished its tile-store side: a read has returned, a write has been read (Table 8-3). -/
def Tile.tileSideDone (t : Tile) (seq : Nat) : Bool :=
  t.store.dmas.all (fun (_, d) => decide (seq ≤ d.seq) || (d.kind != .rd && decide (1 ≤ d.phase)))

/-- The cadence count has reached mark `n` (R78). -/
def reached (cadc n : Nat) : Bool := decide ((cadc + 2 ^ 48 - n % 2 ^ 48) % 2 ^ 48 < 2 ^ 47)

/-- The slot is a valid vector operation, other than NOP. -/
def Slot.isVec (s : Slot) : Bool :=
  match s.op with
  | .vector .nop => false
  | .vector _ => true
  | _ => false

/-- The stall an enabled operation needs, 0 for none (R73, R126, R154, R159). `seq` bounds the accesses a fence
counts as earlier. -/
def Tile.opStall (t : Tile) (env : IssueEnv) (slots : List Slot) (seq : Nat) (s : Slot) : Nat :=
  match s.op with
  | .scalar (.divide ..) => if t.core.div.isEmpty then 0 else 2
  | .loadStore (.dmaWait m) => if (setBits 32 m).any (fun g => SMap.get 0 g t.store.tagState == 1) then 1 else 0
  | .loadStore (.dma _ p ..) => if p || env.dmaFree then 0 else 10
  | .control (.fence .tile) => if t.serDone && t.tileSideDone seq then 0 else 3
  | .control (.fence sc) => if t.accessesDone env sc seq then 0 else 3
  | .control .halt => if t.accessesDone env .device seq then 0 else 3
  | .control (.fenceP ..) => if env.fenceP.isSome then 0 else 3
  | .control (.barWait _ b) => if (SMap.find b t.store.arrivals).any (fun a => a.released.isNone) then 4 else 0
  | .control (.waitcad a) => if reached env.cadc (t.xr a % 2 ^ 48) then 0 else 5
  | .control (.waitev _ imm) => if t.core.tev &&& imm = 0 then 6 else 0
  | .control (.post _ _ g) =>
    if env.downTargets.contains g || decide (SMap.get 0 g t.store.creditUsed < 8) then 0 else 7
  | .control (.stepCommit ..) =>
    match t.store.commit with
    | .released _ => 0
    | _ => if t.store.openStep.isNone || !env.participant then 0 else 8
  | .vector .nop => 0
  | .vector _ =>
    let need := (slots.filter (fun o => o.isVec && decide (o.k ≤ s.k))).length
    if t.vx.queue.length + need ≤ vQueueDepth then 0 else 10
  | .matrix .nop => 0
  | .matrix (.mma false ..) =>
    if t.mx.queue.length < mxQueueDepth && env.arrayFree then 0 else 10
  | .matrix (.mma true ..) => 0
  | .matrix _ => if t.mx.queue.length < mxQueueDepth then 0 else 10
  | _ => 0

/-- An MFS or MTS names VSTAT or VRES, which vector operations write when they complete (R154). -/
def Slot.namesVstat (s : Slot) : Bool :=
  match s.op with
  | .scalar (.mfs _ n) | .scalar (.mts _ n) => n == 0x011 || n == 0x012
  | _ => false

/-- The STALL_WHY of a bundle, 0 when it may issue (R73). Interlocks hold for a slot that its predicate disables too
(R56). -/
def Tile.bundleStall (t : Tile) (env : IssueEnv) (slots : List Slot) (seq : Nat) : Nat :=
  if t.vx.hold then 10
  else
    let regs := slots.flatMap (fun s => s.regs.1 ++ s.regs.2)
    match (regs.map t.interlock).find? (fun w => w != 0) with
    | some w => w
    | none =>
      if !t.vx.idle && slots.any Slot.namesVstat then 10
      else
        ((slots.filter (fun s => t.slotOn s)).map (t.opStall env slots seq)).find? (fun w => w != 0) |>.getD 0

/-! ### Execution -/

/-- An F register's 64 bits. -/
def Tile.fr (t : Tile) (n : Nat) : Nat := t.vr n % 2 ^ 64

/-- An integer operation on 64-bit words (Table 3-6, R62). -/
def aluWord (o : AluOp) (a b : Word) : Word :=
  match o with
  | .add => a + b
  | .sub => a - b
  | .and => a &&& b
  | .or => a ||| b
  | .xor => a ^^^ b
  | .sll => a <<< (b.toNat % 64)
  | .srl => a >>> (b.toNat % 64)
  | .sra => a.sshiftRight (b.toNat % 64)
  | .mul => a * b
  | .mulhu => BitVec.ofNat 64 (a.toNat * b.toNat / 2 ^ 64)
  | .mulhs => BitVec.ofInt 64 (a.toInt * b.toInt / 2 ^ 64)
  | .seq => if a = b then 1 else 0
  | .slts => if a.toInt < b.toInt then 1 else 0
  | .sltu => if a.toNat < b.toNat then 1 else 0

/-- DIVU, DIVS, REMU, REMS with their special cases (R62). Signed quotients truncate toward zero. -/
def divWord (isSigned isRem : Bool) (a b : Word) : Word :=
  if b = 0 then (if isRem then a else BitVec.allOnes 64)
  else if isSigned then
    BitVec.ofInt 64 (if isRem then a.toInt.tmod b.toInt else a.toInt.tdiv b.toInt)
  else (if isRem then BitVec.ofNat 64 (a.toNat % b.toNat) else BitVec.ofNat 64 (a.toNat / b.toNat))

/-- The latency of an integer operation (Table 3-10). -/
def aluLatency : AluOp → Nat
  | .mul | .mulhu | .mulhs => 3
  | _ => 1

/-- A write to an X register. -/
def wX (d v lat : Nat) : Eff := .write (.x d) v lat 0 false

/-- Write an F register with flags. -/
def wF (d : Nat) (r : Nat × Nat) (lat : Nat) (unit : Bool) : Eff := .write (.f d) r.1 lat r.2 unit

/-- A scalar operation (Table 3-6). -/
def Tile.execScalar (t : Tile) (env : IssueEnv) (o : ScalarOp) : List Eff :=
  let w (n : Nat) : Word := BitVec.ofNat 64 (t.xr n)
  let fcsr := t.core.fcsr
  let src (single : Bool) (n : Nat) : Nat := if single then t.fr n % 2 ^ 32 else t.fr n
  match o with
  | .nop => []
  | .alu o d a b => [wX d (aluWord o (w a) (w b)).toNat (aluLatency o)]
  | .aluImm o d a imm => [wX d (aluWord o (w a) (BitVec.ofNat 64 imm)).toNat (aluLatency o)]
  | .selz d a b c => [wX d (if t.xr c = 0 then t.xr a else t.xr b) 1]
  | .divide s r d a b => [.divide d (divWord s r (w a) (w b)).toNat]
  | .li d imm => [wX d imm 1]
  | .lih d a imm => [wX d (imm * 2 ^ 32 + t.xr a % 2 ^ 32) 1]
  | .farith k single d a b c =>
    [wF d (scalarArith k (scalarFormat single) fcsr (src single a) (src single b) (src single c)) 4 false]
  | .fdiv single d a b =>
    [wF d (scalarDiv (scalarFormat single) fcsr (src single a) (src single b)) (if single then 12 else 20) true]
  | .fsqrt single d a =>
    [wF d (scalarSqrt (scalarFormat single) fcsr (src single a)) (if single then 14 else 22) true]
  | .fminmax mx num d a b => [wF d (scalarMinMax mx num (t.fr a) (t.fr b)) 2 false]
  | .fcmp r d a b =>
    let (v, g) := scalarCompare r (t.fr a) (t.fr b)
    [.write (.x d) v 2 g false]
  | .fcvt toSingle d a => [wF d (scalarConvert toSingle fcsr (src (!toSingle) a)) 2 false]
  | .fcvtDX s d a => [wF d (scalarFromInt s fcsr (t.xr a)) 2 false]
  | .fcvtXD s d a =>
    let (v, g) := scalarToInt s fcsr (t.fr a)
    [.write (.x d) v 2 g false]
  | .fmvXF d a => [wX d (t.fr a) 2]
  | .fmvFX d a => [wF d (t.xr a, 0) 2 false]
  | .fneg d a => [wF d (t.fr a ^^^ 2 ^ 63, 0) 1 false]
  | .fabs d a => [wF d (t.fr a % 2 ^ 63, 0) 1 false]
  | .mfs d n => [wX d (t.spr env.cadc n) 1]
  | .mts a n => [.write (.spr n) (t.xr a) 1 0 false]
  | .pset d a => [.write (.m d) (if t.xr a = 0 then 0 else allOnes2048) 1 0 false]
  | .pget d a => [wX d (t.mr a % 2) 1]

/-- The address of a scalar access with its range and alignment checks (R64). -/
def Tile.accessAddr (t : Tile) (k a imm n : Nat) : Except Exc Nat :=
  let addr := (t.xr a + imm) % 2 ^ 64
  if tsSize ≤ addr then .error ⟨cTsRange, k, addr⟩
  else if addr % n ≠ 0 then .error ⟨cMisaligned, k, addr⟩
  else .ok addr

/-- The load address, refused where a word it reads is poisoned (R70). -/
def Tile.loadAddr (t : Tile) (k a imm n : Nat) : Except Exc Nat := do
  let addr ← t.accessAddr k a imm n
  if t.poisoned addr n then .error ⟨cPoison, k, addr⟩ else .ok addr

/-- Check and capture a DMA (R68, R98). Of several checks that fail the first is reported in R68's kinds: DESC_FAULT,
BOUNDS, MISALIGNED, TS_RANGE (DESIGN CHOICE, log entry 17). -/
def Tile.dmaCheck (t : Tile) (k : Nat) (kind : DmaKind) (ds ts s e tag : Nat) : Except Exc Dma :=
  let raw := t.dsr ds
  let d := Desc.ofBits raw
  let s0 := t.xr s
  let s1 := t.xr (s + 1)
  let xe := t.xr e
  let dims := List.range (d.rank + 1)
  let start := dims.map (fun i => (if i < 2 then bits s0 (32 * i) 32 else bits s1 (32 * (i - 2)) 32))
  let ext := dims.map (fun i => bits xe (16 * i) 16)
  let addr := t.xr ts
  if d.region = 0xFFFF ∨ (kind = .add ∧ d.format ≠ 0x01 ∧ d.format ≠ 0x02) ∨ ext.any (fun x => x == 0) then
    .error ⟨cDescFault, k, ds⟩
  else if !d.inBounds start ext || !d.blockAligned start ext then .error ⟨cBounds, k, ds⟩
  else if addr % 64 ≠ 0 then .error ⟨cMisaligned, k, addr⟩
  else if tsSize < d.packedEnd addr ext then .error ⟨cTsRange, k, addr⟩
  else .ok
    { kind := kind, desc := raw, start := start, ext := ext, ts := addr, tag := tag, seq := t.store.seq
      phase := 0, left := 0, status := 0, poison := false, marks := [], mirror := [] }

/-- A load, store or DMA operation (Table 3-7). -/
def Tile.execLoadStore (t : Tile) (env : IssueEnv) (k : Nat) (o : LoadStoreOp) : Except Exc (List Eff) :=
  match o with
  | .nop => .ok []
  | .load n s d a imm => do
    let addr ← t.loadAddr k a imm n
    let v := t.readLE addr n
    .ok [wX d (if s then unsigned 64 (signed (8 * n) v) else v) 4]
  | .store n d a imm => do
    let addr ← t.accessAddr k a imm n
    .ok [.store addr (toLE n (t.xr d))]
  | .fload n d a imm => do
    let addr ← t.loadAddr k a imm n
    .ok [wF d (t.readLE addr n, 0) 4 false]
  | .fstore n d a imm => do
    let addr ← t.accessAddr k a imm n
    .ok [.store addr (toLE n (t.fr d))]
  | .dsld d a imm => do
    let addr ← t.loadAddr k a imm 64
    let raw := t.readLE addr 64
    let region := bits raw 0 16
    if descOk raw (if region = 0xFFFF then some tsSize else env.sizes region) then
      .ok [.write (.ds d) raw 6 0 false]
    else .error ⟨cDescFault, k, d⟩
  | .dsst d a imm => do
    let addr ← t.accessAddr k a imm 64
    .ok [.store addr (toLE 64 (t.dsr d))]
  | .dma kind prep ds ts s e tag le => do
    let d ← t.dmaCheck k kind ds ts s e tag
    .ok [if prep then .dmaPrep le d else .dma d]
  | .dmaWait m =>
    match (setBits 32 m).find? (fun g => decide (2 ≤ SMap.get 0 g t.store.tagState)) with
    | some g => .error ⟨cDmaError, k, g + SMap.get 0 g t.store.tagStatus * 256⟩
    | none => .ok []
  | .dmaTest d m => .ok [wX d (ofBits ((setBits 32 m).filter (fun g => SMap.get 0 g t.store.tagState != 1))) 1]

/-- Loops that a taken branch to `target` leaves active (R76). The innermost loop stands first. -/
def loopsAfterBranch (ls : List Loop) (target : Nat) : List Loop :=
  (ls.reverse.takeWhile (fun l => decide (l.first ≤ target) && decide (target ≤ l.last))).reverse

/-- The next bundle after the end of a body: another pass, or on past the loop (R76). The fuel is the loop depth. -/
def loopNext : Nat → List Loop → Nat → List Loop × Nat
  | 0, ls, pc => (ls, pc + 1)
  | k + 1, ls, pc =>
    match ls with
    | l :: rest =>
      if l.last = pc then
        (if 1 < l.left then ({ l with left := l.left - 1 } :: rest, l.first) else loopNext k rest pc)
      else (ls, pc + 1)
    | [] => ([], pc + 1)

/-- A branch target, or PC_RANGE with the target in EXC.ADDR (R75). -/
def branchTo (k pc imm : Nat) : Except Exc Nat :=
  let x : Int := (pc : Int) + signed 16 imm
  if x < 0 ∨ 16383 < x then .error ⟨cPcRange, k, unsigned 64 x⟩ else .ok x.toNat

/-- A control operation (Table 3-11). A LOOP of count 0 that skips past bundle 16,383 raises PC_RANGE as a branch would
(DEDUCED, log entry 100). -/
def Tile.execControl (t : Tile) (env : IssueEnv) (k : Nat) (o : ControlOp) : Except Exc (List Eff) :=
  let pc := t.core.pc
  match o with
  | .nop => .ok []
  | .br imm => (branchTo k pc imm).map (fun p => [.jump p])
  | .brz z a imm =>
    if (t.xr a == 0) == z then (branchTo k pc imm).map (fun p => [.jump p]) else .ok []
  | .call d imm => (branchTo k pc imm).map (fun p => [wX d (pc + 1) 1, .jump p])
  | .jr a => if t.xr a < 2 ^ 14 then .ok [.jump (t.xr a)] else .error ⟨cPcRange, k, t.xr a⟩
  | .loop a imm =>
    -- a skipped body ends where it would have ended: an enclosing loop that ends there goes on
    if t.xr a = 0 ∧ pc < 16383 ∧ 16383 < (loopNext 4 t.core.loops (pc + imm)).2 then
      .error ⟨cPcRange, k, (loopNext 4 t.core.loops (pc + imm)).2⟩
    else .ok [.loop (pc + 1) (pc + imm) (t.xr a)]
  | .fence _ => .ok []
  | .fenceP d _ => .ok [wX d (env.fenceP.getD 0) 1]
  | .barArrive b => .ok [.arrive b t.store.seq]
  | .barWait d b => .ok [wX d (((SMap.find b t.store.arrivals).bind (fun a => a.released)).getD 0) 1, .barDone b]
  | .waitcad _ => .ok []
  | .launchAt a mask => .ok [.launch mask (t.xr a % 2 ^ 48)]
  | .prepSlv a le =>
    let addr := t.xr a
    if addr % 64 ≠ 0 then .error ⟨cMisaligned, k, addr⟩
    else if tsSize < addr + 64 then .error ⟨cTsRange, k, addr⟩
    else if t.poisoned addr 64 then .error ⟨cPoison, k, addr⟩
    else .ok [.slvPrep le (toLE 64 (t.readLE addr 64))]
  | .waitev d imm => .ok [wX d (t.core.tev &&& imm) 1, .tevClear (t.core.tev &&& imm)]
  | .post d a g =>
    if env.downTargets.contains g then .ok [wX d 1 1] else .ok [wX d 0 1, .post g (t.xr a)]
  | .stepOpen d a =>
    if t.store.openStep.isSome then .ok [wX d 1 1]
    else if 2 ^ 32 ≤ t.xr a then .ok [wX d 2 1]
    else .ok [wX d 0 1, .stepOpen (t.xr a)]
  | .stepCommit d _ =>
    match t.store.commit with
    | .released st => .ok [wX d st 1, .commitDone true]
    | _ =>
      if t.store.openStep.isNone then .ok [wX d 2 1, .commitDone false]
      else .ok [wX d 3 1, .commitDone true]
  | .trap imm => .error ⟨cTrap, k, imm⟩
  | .eret => .ok [.eret]
  | .brkpt => if env.debugOpen then .ok [.brkpt] else .error ⟨cPriv, k, 0⟩
  | .halt => .ok [.halt]

/-- ERET outside HANDLER raises ILLEGAL_OP (R84). -/
def Tile.eretExc (t : Tile) (s : Slot) : Option Exc :=
  match s.op with
  | .control .eret => if t.core.inHandler then none else some ⟨cIllegalOp, s.k, 0⟩
  | _ => none

/-- What a slot does, or the exception of its execute phase. -/
def Tile.execSlot (t : Tile) (env : IssueEnv) (s : Slot) : Except Exc (List Eff) :=
  if !t.slotOn s then .ok []
  else
    match s.op with
    | .scalar o => .ok (t.execScalar env o)
    | .loadStore o => t.execLoadStore env s.k o
    | .control o => t.execControl env s.k o
    | .vector .nop => .ok []
    | .vector o => (t.vCheck s.k s.pred o).map (fun it => [.vec it])
    | .matrix .nop => .ok []
    | .matrix o => (t.mxCheck s.pred o).map (fun it => match o with
      | .mma true _ _ _ _ _ le => [.mxPrep le it]
      | _ => [.mx it])

/-- A bundle transfers control, loops back or halts (R75): a taken branch does, even to a bundle that does not exist; a
LOOP goes on to the next bundle or past it. -/
def Tile.transfers (t : Tile) (effs : List Eff) (errs : List Exc) : Bool :=
  effs.any (fun e => match e with
    | .jump _ | .eret | .brkpt | .halt => true
    | _ => false)
  || errs.any (fun e => e.cause == cPcRange || e.cause == cTrap)
  || (!effs.any (fun e => match e with
      | .loop .. => true
      | _ => false) && decide ((loopNext 4 t.core.loops t.core.pc).2 ≤ 16383))

/-- The execute phase: every slot's effects, or the first exception, the header first (R83). A gather or scatter that
faults part-way is last: its other slots have no effect. -/
def Tile.executeBundle (t : Tile) (env : IssueEnv) (slots : List Slot) : Except Exc (List Eff) :=
  let res := slots.map (fun s => match t.poisonExc s with
    | some e => Except.error e
    | none => t.execSlot env s)
  let effs := res.flatMap (fun r => match r with
    | .ok l => l
    | .error _ => [])
  let errs := res.filterMap (fun r => match r with
    | .error e => some e
    | .ok _ => none)
  if t.core.pc = 16383 ∧ !t.transfers effs errs then
    .error ⟨cPcRange, 8, 16384⟩
  else
    match errs with
    | e :: _ => .error e
    | [] => .ok effs

/-- The first exception of the issue phase (R83). -/
def Tile.issueExc (t : Tile) (slots : List Slot) : Option Exc :=
  slots.findSome? (fun s => (t.hazardExc s).orElse (fun _ =>
    t.busyExc (slots.filter (fun o => decide (o.k < s.k))) s))

/-- The bundle has a two-cc gap after it: BR, BRZ, BRNZ, CALL, JR and ERET, taken or not (Table 3-10). -/
def Slot.branchGap (s : Slot) : Bool :=
  match s.op with
  | .control (.br _) | .control (.brz ..) | .control (.call ..) | .control (.jr _) | .control .eret => true
  | _ => false

/-- Apply an effect that stays inside the tile. Effects that leave it are the device's (`Dev` handles them). A DMA that is
only prepared leaves its tag's last state readable until it starts (DESIGN CHOICE, log entry 102). -/
def Tile.applyLocal (t : Tile) (e : Eff) : Tile :=
  match e with
  | .write g v lat fl u =>
    match g with
    | .x 0 => { t with core := { t.core with fcsr := t.core.fcsr, pend :=
        if fl = 0 then t.core.pend else t.core.pend ++ [⟨t.core.cc + lat, .x 0, 0, fl, u⟩] } }
    | _ => { t with core := { t.core with pend := t.core.pend ++ [⟨t.core.cc + lat, g, v, fl, u⟩] } }
  | .divide d v => { t with core := { t.core with div := t.core.div ++ [(d, v)] } }
  | .store a bs => t.writeBytes a bs false
  | .jump p => { t with core := { t.core with pc := p, loops := loopsAfterBranch t.core.loops p } }
  | .loop f l c =>
    if c = 0 then
      let (ls, pc) := loopNext 4 t.core.loops l
      { t with core := { t.core with pc := pc % 2 ^ 14, loops := ls } }
    else { t with core := { t.core with pc := f % 2 ^ 14, loops := ⟨f, l, c⟩ :: t.core.loops } }
  | .tevClear m => { t with core := { t.core with tev := t.core.tev &&& (2 ^ 64 - 1 - m) } }
  | .mx o => t.mxEnqueue o
  | .mxPrep le o => t.setEntry le (.prepared (.mma o))
  | .vec it => t.vEnqueue it
  | .dmaPrep le d => t.setEntry le (.prepared (.dma d))
  | .slvPrep le b => t.setEntry le (.prepared (.slv b))
  | .arrive b seq => { t with store := { t.store with arrivals := SMap.insert b ⟨seq, false, none⟩ t.store.arrivals } }
  | .barDone b => { t with store := { t.store with arrivals := SMap.remove b t.store.arrivals } }
  | .commitDone closes =>
    { t with store := { t.store with commit := .none, openStep := if closes then none else t.store.openStep } }
  | _ => t

end Sys2Proof.Machine
end

