-- ==== Sys2Proof/Machine/Deckle.lean ====
section
/-! DEFINITION. Machine/Deckle.lean: the placement manifest and its checks, placing, releasing, remapping tiles, migrating
stacks and re-drawing layouts (chapter 10). Solver instances of a failed engine move in Machine/Solver.lean. -/

namespace Sys2Proof.Machine

/-! ### Reports (Table 10-5) -/

/-- DKL.LASTSTAT. -/
def Dev.deckleStat (d : Dev) (code detail : Nat) : Dev := (d.fset dklLaststatCode 0 code).fset dklLaststatDetail 0 detail

/-- A report of codes 0x10 to 0x15: LASTSTAT and its record; `post` adds the completion. -/
def Dev.deckleReport (d : Dev) (code detail : Nat) (post : Bool) : Dev :=
  let d := (d.deckleStat code detail).record 0x5007 pDKL 0 code detail 0
  if post then d.postUnsolicited 2 code detail 0 0 else d

/-- A status whose DETAIL Table 10-5 does not state: a free value (log entry 42). -/
def Dev.freeDetail (d : Dev) : Nat × Dev :=
  let (v, d) := d.fresh
  (v % 2 ^ 24, d)

/-! ### The manifest (R267 to R272) -/

/-- The manifest as Deckle reads it: `len` bytes of device memory from `a`; a stack that does not answer reads as ones. -/
def Dev.manBytes (d : Dev) (m : Mem) (a len : Nat) : List Nat :=
  if d.stackUp (stackOf a) then d.seenBytes m a len else List.replicate len 0xFF

/-- A little-endian field of those bytes; beyond them nothing is read. -/
def manField (bs : List Nat) (o n : Nat) : Nat := ofLE ((bs.drop o).take n)

/-- A reserved range that is not zero, by its first byte. -/
def reservedAt (f : Nat → Nat → Nat) (lo hi : Nat) : List Nat := badAt lo (f lo (hi + 1 - lo) != 0)

/-- The header's fields by offset, with their ends (Table 10-2). -/
def headerEnds : List (Nat × Nat) :=
  [(0, 4), (4, 6), (6, 7), (7, 8), (8, 0xA), (0xA, 0xB), (0xB, 0xC), (0xC, 0xE), (0xE, 0x10), (0x10, 0x14), (0x14, 0x18),
    (0x18, 0x1C), (0x1C, 0x20), (0x20, 0x24), (0x24, 0x40)]

/-- The faulty fields of the header (Table 10-2). `len` is what PLACE gives: where it ends inside the header, SIZE is at
fault and no field beyond it is looked at (R267). -/
def headerFaults (f : Nat → Nat → Nat) (len : Nat) : List Nat :=
  let size := if len < 0x24 then 2 ^ 32 else f 0x20 4
  let tables := [(0x10, 16 * f 6 1), (0x14, 32 * f 8 2), (0x18, 4 * f 0xA 1), (0x1C, 8 * f 0xC 2)]
  let res := f 0xB 1
  let faults := badAt 0 (f 0 4 != 0x444B4C31) ++ badAt 4 (f 4 2 != 1) ++ badAt 6 (f 6 1 == 0 || decide (64 < f 6 1))
    ++ badAt 7 (f 7 1 == 0 || decide (16 < f 7 1)) ++ badAt 8 (decide (2047 < f 8 2)) ++ badAt 0xA (decide (32 < f 0xA 1))
    ++ badAt 0xB (decide (100 < res) && res != 0xFF) ++ badAt 0xC (decide (4096 < f 0xC 2)) ++ reservedAt f 0xE 0xF
    ++ tables.zipIdx.flatMap (fun (t, i) =>
      let o := f t.1 4
      let clash := (tables.take i).any (fun u =>
        decide (f u.1 4 < o + t.2) && decide (o < f u.1 4 + u.2) && t.2 != 0 && u.2 != 0)
      badAt t.1 (decide (o < 0x40) || o % 8 != 0 || decide (size < o + t.2) || clash))
    ++ badAt 0x20 (decide (len < size) || decide (0x100000 < size) || decide (size < 0x40)) ++ reservedAt f 0x24 0x3F
  faults.filter (fun o => o == 0x20 || headerEnds.any (fun e => e.1 == o && decide (e.2 ≤ len)))

/-- The tables' entries as the manifest has them. -/
def parseManifest (f : Nat → Nat → Nat) : Manifest :=
  let ot := f 0x10 4
  let or := f 0x14 4
  let os := f 0x18 4
  let ob := f 0x1C 4
  { nstage := f 7 1
    reserve := f 0xB 1
    tiles := (List.range (f 6 1)).map (fun t =>
      let a := ot + 16 * t
      ⟨f a 1, bit (f (a + 1) 1) 0, f (a + 2) 2, f (a + 4) 2, f (a + 8) 8⟩)
    regions := (List.range (f 8 2)).map (fun k =>
      let a := or + 32 * k
      ⟨f a 2, f (a + 2) 1, f (a + 3) 1, (List.range 4).map (fun l => f (a + 4 + l) 1), f (a + 8) 8, f (a + 16) 1⟩)
    solv := (List.range (f 0xA 1)).map (fun k => f (os + 4 * k) 1)
    binds := (List.range (f 0xC 2)).map (fun k =>
      let a := ob + 8 * k
      ⟨f a 1, f (a + 1) 1, f (a + 2) 1, f (a + 4) 2⟩) }

/-- The faulty fields of the tile table (R268). -/
def tileFaults (f : Nat → Nat → Nat) (man : Manifest) : List Nat :=
  badAt 7 ((List.range man.nstage).any (fun s => man.tiles.all (fun t => t.stage != s)))
    ++ man.tiles.zipIdx.flatMap (fun (t, k) =>
      let a := f 0x10 4 + 16 * k
      let region := man.regions.find? (fun r => r.handle == t.prog && r.cls == 2)
      badAt a (decide (man.nstage ≤ t.stage)) ++ badAt (a + 1) (decide (2 ≤ f (a + 1) 1)) ++ badAt (a + 2) region.isNone
        ++ badAt (a + 4) (t.nbundle == 0 || decide (16384 < t.nbundle)) ++ reservedAt f (a + 6) (a + 7)
        ++ badAt (a + 8) (t.progoff % 64 != 0 || region.any (fun r => decide (r.size < t.progoff + 64 * t.nbundle))))

/-- The faulty fields of the region table (R269, R270). -/
def regionFaults (f : Nat → Nat → Nat) (man : Manifest) : List Nat :=
  let ns := man.solv.length
  badAt 0xA ((List.range ns).any (fun i => man.regions.all (fun r => r.cls != 5 || r.solv != i)))
    ++ man.regions.zipIdx.flatMap (fun (r, k) =>
      let a := f 0x14 4 + 32 * k
      let before := man.regions.take k
      badAt a (r.handle == 0 || decide (0x7FF < r.handle) || before.any (fun q => q.handle == r.handle))
        ++ badAt (a + 2) (decide (5 < r.cls)) ++ badAt (a + 3) (decide (man.nstage ≤ r.stage) && r.stage != 0xFF)
        ++ r.place.zipIdx.flatMap (fun (p, l) =>
          badAt (a + 4 + l) (if l = 0 then decide (2 < p) else if r.cls = 4 then decide (2 < p) && p != 0xFF else p != 0xFF))
        ++ badAt (a + 8) (if r.cls = 5 then r.size != 0 else r.size == 0 || r.size % 4096 != 0)
        ++ badAt (a + 16) (if r.cls = 5 then decide (ns ≤ r.solv) || before.any (fun q => q.cls == 5 && q.solv == r.solv)
          else r.solv != 0)
        ++ reservedAt f (a + 17) (a + 31))

/-- The faulty fields of the solver and binding tables (R271, R272, R312). Sources: doorbells 0 to 511, any bucket number,
couch queues below 128, solver instances. -/
def otherFaults (f : Nat → Nat → Nat) (man : Manifest) : List Nat :=
  man.solv.zipIdx.flatMap (fun (s, k) =>
    let a := f 0x18 4 + 4 * k
    badAt a (decide (man.nstage ≤ s) && s != 0xFF) ++ reservedAt f (a + 1) (a + 3))
    ++ man.binds.zipIdx.flatMap (fun (b, k) =>
      let a := f 0x1C 4 + 8 * k
      badAt a (decide (man.tiles.length ≤ b.tile) || (man.binds.take k).any (fun q => q.tile == b.tile && q.bit == b.bit))
        ++ badAt (a + 1) (decide (64 ≤ b.bit)) ++ badAt (a + 2) (decide (3 < b.kind)) ++ reservedAt f (a + 3) (a + 3)
        ++ badAt (a + 4) (match b.kind with
          | 0 => decide (512 ≤ b.src)
          | 2 => decide (128 ≤ b.src)
          | 3 => decide (man.solv.length ≤ b.src)
          | _ => false)
        ++ reservedAt f (a + 6) (a + 7))

/-- The manifest, or the offset of its first faulty field. -/
def checkManifest (f : Nat → Nat → Nat) (len : Nat) : Except Nat Manifest :=
  match (headerFaults f len).min? with
  | some o => .error o
  | none =>
    let man := parseManifest f
    match (tileFaults f man ++ regionFaults f man ++ otherFaults f man).min? with
    | some o => .error o
    | none => .ok man

/-! ### Tiles onto Sheets (R273) -/

/-- The grade that the latest measurement gives a Sheet (R265). -/
def Dev.measuredGrade (d : Dev) (k : Nat) : Nat :=
  let cc := match k with
    | 0 => d.fget calCc0Ps 0
    | 1 => d.fget calCc1Ps 0
    | 2 => d.fget calCc2Ps 0
    | _ => d.fget calCc3Ps 0
  if cc ≤ 650 then 0 else if cc ≤ 750 then 1 else if cc ≤ 850 then 2 else 3

/-- A placement or re-draw starts: every usable Sheet takes its grade afresh (R265). -/
def Dev.takeGrades (d : Dev) : Dev :=
  { d with deckle := { d.deckle with grades :=
      ((List.range 4).filter d.sheetReachable).foldl (fun g k => SMap.put 0 k (d.measuredGrade k) g) d.deckle.grades } }

/-- The grade that a Sheet holds. -/
def Dev.sheetGrade (d : Dev) (k : Nat) : Nat := SMap.get 0 k d.deckle.grades

/-- Reachable Sheets by grade, then number. -/
def Dev.sheetOrder (d : Dev) : List Nat :=
  sortBy (fun a b => decide (d.sheetGrade a < d.sheetGrade b) || (d.sheetGrade a == d.sheetGrade b && decide (a ≤ b)))
    ((List.range 4).filter d.sheetReachable)

/-- USABLE positions of a reachable Sheet. -/
def Dev.placeable (d : Dev) (k : Nat) : List Nat := if d.sheetReachable k then d.usableTiles k else []

/-- active[k]. -/
def Dev.activeSlots (d : Dev) (k : Nat) : List Nat := (d.placeable k).take 16

/-- lslot[k]. -/
def Dev.ledgerSlot (d : Dev) (k : Nat) : Option Nat :=
  let u := d.placeable k
  if u.contains 15 then some 15 else if u.contains 16 then some 16 else none

/-- Free positions of a Sheet other than its ledger slot, and whether the ledger slot is free. -/
def Dev.freeSlots (d : Dev) (taken : SMap Nat) (k : Nat) : List Nat × Bool :=
  let used (p : Nat) : Bool := taken.any (fun e => e.2 == 17 * k + p)
  let ls := d.ledgerSlot k
  ((d.activeSlots k).filter (fun p => some p != ls && !used p), ls.any (fun p => !used p))

/-- fits(k, T, mode). -/
def Dev.fits (d : Dev) (man : Manifest) (taken : SMap Nat) (k : Nat) (T : List Nat) (loose : Bool) : Bool :=
  let led := T.filter (fun t => (man.tiles[t]?).any (fun e => e.ledger))
  let (free, slot) := d.freeSlots taken k
  decide (led.length ≤ 1) && (led.isEmpty || slot)
    && decide (T.length - led.length ≤ free.length + b2n (loose && led.isEmpty && slot))

/-- put(k, T). -/
def Dev.put (d : Dev) (man : Manifest) (k : Nat) (T : List Nat) (taken : SMap Nat) : SMap Nat :=
  T.foldl (fun taken t =>
    let (free, _) := d.freeSlots taken k
    let slot := d.ledgerSlot k
    let pos := if (man.tiles[t]?).any (fun e => e.ledger) then slot else free.head?.or slot
    match pos with
    | some p => SMap.insert t (17 * k + p) taken
    | none => taken) taken

/-- The first Sheet that takes T, strictly or else loosely. -/
def Dev.sheetFor (d : Dev) (man : Manifest) (order : List Nat) (taken : SMap Nat) (T : List Nat) : Option Nat :=
  (order.find? (fun k => d.fits man taken k T false)).or (order.find? (fun k => d.fits man taken k T true))

/-- Place one stage, or the status that fails. -/
def Dev.placeStage (d : Dev) (man : Manifest) (order : List Nat) (taken : SMap Nat) (s : Nat) : Except Nat (SMap Nat) :=
  let T := (List.range man.tiles.length).filter (fun t => (man.tiles[t]?).any (fun e => e.stage == s))
  match d.sheetFor man order taken T with
  | some k => .ok (d.put man k T taken)
  | none => T.foldl (fun acc t => acc.bind (fun taken =>
      match d.sheetFor man order taken [t] with
      | some k => .ok (d.put man k [t] taken)
      | none => .error (if (man.tiles[t]?).any (fun e => e.ledger) then 4 else 3))) (.ok taken)

/-- The logical tiles' physical tiles, or the status that fails. -/
def Dev.placeTiles (d : Dev) (man : Manifest) (order : List Nat) : Except Nat (SMap Nat) :=
  if order.foldl (fun n k => n + (d.activeSlots k).length) 0 < man.tiles.length then .error 3
  else if (order.filter (fun k => (d.ledgerSlot k).isSome)).length < (man.tiles.filter (fun t => t.ledger)).length then .error 4
  else (List.range man.nstage).foldl (fun acc s => acc.bind (fun taken => d.placeStage man order taken s)) (.ok [])

/-! ### Regions (R275, R277) -/

/-- R of R277 in bytes. -/
def reserveBytes (reserve : Nat) : Nat :=
  let r := if reserve = 0 then 20 else if reserve = 0xFF then 0 else reserve
  stackBytes * r / 1000 / 4096 * 4096

/-- Bytes of an entry in each of its stacks. -/
def Region.perStack (r : Region) : Nat :=
  if r.stripe then ceilDiv (r.size / 4096) (max 1 (setBits 32 r.stks).length) * 4096 else r.size

/-- Stacks that take part in a placement, without stack `but`. -/
def Dev.usableStacks (d : Dev) (but : Option Nat) : List Nat :=
  (List.range 32).filter (fun s => decide (d.health (0x100 + s) ≤ 1) && some s != but)

/-- The lowest base at which `per` bytes are free in every stack of the set and end at or below `line`: 0, or the end of
an occupied range. -/
def lowestBase (occ : List Region) (ss : List Nat) (per line : Nat) : Option Nat :=
  let near := occ.filter (fun r => ss.any (fun s => bit r.stks s))
  let bases := sortNat (0 :: near.map (fun r => r.base + r.perStack))
  bases.find? (fun b => decide (b + per ≤ line)
    && near.all (fun r => decide (b + per ≤ r.base) || decide (r.base + r.perStack ≤ b)))

/-- The Sheets that carry a stage, in Sheet order. -/
def stageSheets (man : Manifest) (tmap : SMap Nat) (order : List Nat) (stage : Nat) : List Nat :=
  order.filter (fun k => tmap.any (fun e => (man.tiles[e.1]?).any (fun t => t.stage == stage) && e.2 / 17 == k))

/-- A stripe over a set of stacks. -/
def stripeOver (occ : List Region) (ss : List Nat) (size line : Nat) : Option Region :=
  if ss.isEmpty then none
  else
    let per := ceilDiv (size / 4096) ss.length * 4096
    (lowestBase occ ss per line).map (fun b => ⟨.active, true, ofBits ss, b, size, 0⟩)

/-- A place for one region under a rule: 0 LOCAL, 1 ALL, 2 EXTENT. -/
def placeRegion (occ : List Region) (near all : List Nat) (rule size line : Nat) : Option Region :=
  match rule with
  | 2 =>
    (near ++ all.filter (fun s => !near.contains s)).findSome? (fun s =>
      (lowestBase occ [s] size line).map (fun b => ⟨.active, false, 2 ^ s, b, size, 0⟩))
  | 0 => (stripeOver occ near size line).or (stripeOver occ all size line)
  | _ => stripeOver occ all size line

/-- The rule of a region under a layout. -/
def ManRegion.rule (r : ManRegion) (layout : Nat) : Nat :=
  let p := r.place.getD layout 0xFF
  if p = 0xFF then r.place.getD 0 1 else p

/-- The usable stacks beside the Sheets that carry a region's stage. -/
def nearStacks (man : Manifest) (tmap : SMap Nat) (order : List Nat) (stage : Nat) (usable : List Nat) : List Nat :=
  (stageSheets man tmap order stage).flatMap (fun k => usable.filter (fun s => s / 8 == k))

/-- What occupies memory: the entries of a table, and the place that a migrated region has left while accesses issued under
its old entry are still pending (R282). -/
def Dev.occupied (d : Dev) (t : SMap Region) : List Region :=
  t.filterMap (fun e => if e.2.state = .free then none else some e.2)
    ++ (d.deckle.migration.toList.map (fun g => g.old)).filter (fun r => r.state != .free)

/-- Place one handle into the table. -/
def Dev.placeInto (d : Dev) (man : Manifest) (tmap : SMap Nat) (order : List Nat) (layout line : Nat) (r : ManRegion)
    (h : Nat) (t : SMap Region) : Option (SMap Region) :=
  let all := d.usableStacks none
  (placeRegion (d.occupied t) (nearStacks man tmap order r.stage all) all (r.rule layout) r.size line).map (fun e =>
    SMap.insert h e t)

/-- Regions in the order in which R275 places them. -/
def regionOrder (rs : List ManRegion) : List ManRegion :=
  sortBy (fun a b => decide (a.cls < b.cls) || (a.cls == b.cls && decide (a.handle ≤ b.handle)))
    (rs.filter (fun r => r.cls != 5))

/-- The region table of a placement. -/
def Dev.placeRegions (d : Dev) (man : Manifest) (tmap : SMap Nat) (order : List Nat) (layout line : Nat) :
    Option (SMap Region) :=
  (regionOrder man.regions).foldl (fun t r => t.bind (fun t =>
    (d.placeInto man tmap order layout line r r.handle t).bind (fun t =>
      if r.cls = 1 then d.placeInto man tmap order layout line r (r.handle + 0x800) t else some t))) (some [])

/-! ### Solver instances (R276) -/

/-- Instances on an engine. -/
def instancesOn (smap : SMap (Nat × Nat)) (e : Nat) : Nat := (smap.filter (fun x => x.2.1 == e)).length

/-- The engine and slot for an instance of a stage, without engine `but`. -/
def Dev.placeInstance (d : Dev) (man : Manifest) (tmap : SMap Nat) (order : List Nat) (smap : SMap (Nat × Nat))
    (stage : Nat) (but : Option Nat) : Option (Nat × Nat) :=
  let engines := (List.range 8).filter (fun e => d.health (0x080 + e) == 0 && some e != but)
  let near := (stageSheets man tmap order stage).flatMap (fun k => engines.filter (fun e => e / 2 == k))
  let pick (g : List Nat) : Option Nat :=
    let open_ := g.filter (fun e => decide (instancesOn smap e < 4))
    (open_.map (instancesOn smap)).min?.bind (fun n => open_.find? (fun e => instancesOn smap e == n))
  ((pick near).or (pick (engines.filter (fun e => !near.contains e)))).bind (fun e =>
    ((List.range 4).find? (fun s => smap.all (fun x => x.2 != (e, s)))).map (fun s => (e, s)))

/-- The solver mapping of a placement. -/
def Dev.placeSolvers (d : Dev) (man : Manifest) (tmap : SMap Nat) (order : List Nat) : Option (SMap (Nat × Nat)) :=
  man.solv.zipIdx.foldl (fun acc (stage, i) => acc.bind (fun smap =>
    (d.placeInstance man tmap order smap stage none).map (fun x => SMap.insert i x smap))) (some [])

/-! ### PLACE and RELEASE (R273, R274, R278) -/

/-- TIL.LOGICAL and LEDGER_ROLE of every tile follow the placement (R274). A tile that gains a role starts with every
row invalid (R144). -/
def Dev.writeLogical (d : Dev) : Dev :=
  (List.range 68).foldl (fun (d : Dev) p =>
    let l := d.deckle.placement.bind (fun pl => (pl.tmap.find? (fun e => e.2 == p)).map (fun e => e.1))
    let role := d.deckle.placement.any (fun pl => pl.roles.contains p)
    let t := d.tile p
    let gains := role && !t.mx.ledgerRole
    d.setTile p { t with
      core := { t.core with ltile := l.getD t.core.ltile, ltileValid := l.isSome }
      mx := { t.mx with
        ledgerRole := role, rowValid := if gains then [] else t.mx.rowValid, rows := if gains then [] else t.mx.rows } }) d

/-- Compute a placement. -/
def Dev.computePlacement (d : Dev) (man : Manifest) : Except Nat (Placement × SMap Region) :=
  let order := d.sheetOrder
  match d.placeTiles man order with
  | .error st => .error st
  | .ok tmap =>
    match d.placeRegions man tmap order 0 (stackBytes - reserveBytes man.reserve) with
    | none => .error 5
    | some table =>
      match d.placeSolvers man tmap order with
      | none => .error 6
      | some smap =>
        let spares := (List.range 4).map (fun k => (k, (d.placeable k).filter (fun p => !(d.activeSlots k).contains p)))
        .ok ({ man := man, order := order, spares := spares.filter (fun e => !e.2.isEmpty)
               roles := (List.range 4).filterMap (fun k => (d.ledgerSlot k).map (fun p => 17 * k + p))
               tmap := tmap, smap := smap, loads := [], images := [] }, table)

/-- Take up a placement. -/
def Dev.adopt (d : Dev) (pl : Placement) (table : SMap Region) : Dev :=
  let d := { d with deckle := { d.deckle with
    placement := some pl, layout := 0, regions := table, events := [], remapFailed := false } }
  let d := d.writeLogical
  let n := pl.man.tiles.length
  let d := (d.fset stpBankSel 0 0).fset stpPartLoPart 0 (2 ^ min n 32 - 1)
  let d := d.fset stpPartHiPart 0 (2 ^ (n - 32) - 1)
  let d := d.fset dklReserveUnits 0 (reserveBytes pl.man.reserve / 4096)
  d.fwrap dklPlgenGen 0

/-- PLACE of a manifest at a BAR 4 offset: the status and DETAIL. -/
def Dev.placeManifest (d : Dev) (m : Mem) (off len : Nat) : Dev × Nat × Nat :=
  if d.deckle.placement.isSome then
    let (x, d) := d.freeDetail
    (d.deckleStat 2 x, 2, x)
  else
    let a := d.winAddr off
    let bs := d.manBytes m a len
    let d := if d.stackUp (stackOf a) then d.noteBytes a len else d
    match checkManifest (manField bs) len with
    | .error o => (d.deckleStat 1 o, 1, o)
    | .ok man =>
      let d := d.takeGrades
      match d.computePlacement man with
      | .error st =>
        let (x, d) := d.freeDetail
        (d.deckleStat st x, st, x)
      | .ok (pl, table) =>
        let (x, d) := d.freeDetail
        ((d.adopt pl table).deckleStat 0 x, 0, x)

/-- PLACE: the command. -/
def Dev.placeCommand (d : Dev) (m : Mem) (q : Nat) : Dev :=
  d.startCmd q 4 (fun d c =>
    let (d, st, detail) := d.placeManifest m (c.f 8 8) (c.f 16 4)
    d.complete c (if st = 0 then 0 else 0x0A) st detail)

/-- Every placed tile is IDLE, HALTED or EXC_HALT. -/
def Dev.placedQuiet (d : Dev) : Bool :=
  d.deckle.placement.any (fun pl => pl.tmap.all (fun e => match (d.tile e.2).core.run with
    | .running | .handler => false
    | _ => true))

/-- A solver launch is queued or its cycle runs. -/
def Dev.launchQueued (d : Dev) : Bool := d.solvers.any (fun e => !e.2.queue.isEmpty || e.2.run.isSome)

/-- RELEASE: the command. -/
def Dev.releaseCommand (d : Dev) (q : Nat) : Dev :=
  d.startCmd q 5 (fun d c =>
    match d.deckle.placement with
    | none => d.complete c 3 0 0
    | some _ =>
      if !d.placedQuiet || d.launchQueued || d.deckle.migration.isSome then d.complete c 0x0A 2 0
      else
        let d := { d with deckle := { d.deckle with
          placement := none, layout := 0, regions := [], events := [], remap := none, solverRemap := [] } }
        let d := { d.writeLogical with tiles := d.writeLogical.tiles.foldl (fun l (e : Nat × Tile) =>
          SMap.put .reset e.1 { e.2 with core := { e.2.core with ltile := 0 } } l) [] }
        let d := d.stepsReleased.releaseFence
        (d.deckleStat 0 0).complete c 0 0 0)

/-! ### Remapping a tile (R279, R280) -/

/-- The oldest event that `p` picks. -/
def Dev.takeEvent (d : Dev) (p : DkEvent → Bool) : Option (DkEvent × Dev) :=
  match d.deckle.events.find? p with
  | some e => some (e, { d with deckle := { d.deckle with events := d.deckle.events.erase e } })
  | none => none

/-- An event of a tile. -/
def DkEvent.isTile : DkEvent → Bool
  | .tile _ => true
  | _ => false

/-- An event of an engine. -/
def DkEvent.isEngine : DkEvent → Bool
  | .engine _ => true
  | _ => false

/-- An event of a tile or an engine: priority 2 of Table 10-7. -/
def DkEvent.isRemap (e : DkEvent) : Bool := e.isTile || e.isEngine

/-- A remap runs. -/
def Dev.remapRuns (d : Dev) : Bool := d.deckle.remap.isSome || !d.deckle.solverRemap.isEmpty

/-- Deckle takes the oldest remap event, once no remap runs, if `p` picks it (R286). -/
def Dev.takeRemap (d : Dev) (p : DkEvent → Bool) : Option (DkEvent × Dev) :=
  if d.remapRuns || !(d.deckle.events.find? DkEvent.isRemap).any p then none else d.takeEvent p

/-- The tiles with a ledger role once `phys` has failed: the role of a tile that carries no LEDGER tile goes to its Sheet's
other ledger-capable slot if that is USABLE (R279). -/
def Dev.dropRole (d : Dev) (pl : Placement) (phys : Nat) : List Nat :=
  if !pl.roles.contains phys then pl.roles
  else
    let other := phys / 17 * 17 + (if phys % 17 = 15 then 16 else 15)
    let rest := pl.roles.filter (fun p => p != phys)
    if d.health other = 0 ∧ !rest.contains other then rest ++ [other] else rest

/-- TILE_REMAP: a placed tile has entered DISABLED: it loses its name, the step spoils and every barrier breaks. A tile
without a logical tile loses no more than its ledger role (R148). -/
def Dev.tileRemap (d : Dev) (m : Mem) : Dev :=
  match d.takeRemap DkEvent.isTile, d.deckle.placement with
  | some (.tile p, d), some pl =>
    match d.logicalOf p with
    | none => { d with deckle := { d.deckle with placement := some { pl with roles := d.dropRole pl p } } }.writeLogical
    | some l =>
      let d := d.onTile p (fun t => { t with core := { t.core with ltileValid := false } })
      let d := { d with deckle := { d.deckle with remap := some ⟨p, l⟩ } }
      let d := d.spoilCause m 0x02 l
      (d.breakAll).settled m
  | _, _ => d

/-- The spares that may take a logical tile, as physical tiles in the order of R279: own Sheet first. -/
def Dev.remapTargets (d : Dev) (pl : Placement) (phys : Nat) (ledger : Bool) : List Nat :=
  let k := phys / 17
  (k :: pl.order.filter (fun j => j != k)).flatMap (fun j =>
    (((SMap.get [] j pl.spares).filter (fun p => d.health (17 * j + p) == 0 && (!ledger || p == 15 || p == 16)))).map
      (fun p => 17 * j + p))

/-- Bundles of an image in a region. -/
def Dev.readImage (d : Dev) (m : Mem) (h o n : Nat) : Option (SMap Nat) :=
  (d.readRegion m h o (64 * n)).bind (fun r => if r.2 then none else
    some ((chunks 64 (64 * n) r.1).zipIdx.foldl (fun p (b, i) => SMap.put 0 i (ofLE b) p) []))

/-- A program store once an image of `n` bundles is loaded (R53). -/
def loadProg (n : Nat) (image old : SMap Nat) : SMap Nat := image ++ old.filter (fun e => decide (n ≤ e.1))

/-- The tiles with a ledger role once `target` carries the logical tile of `phys`: the role of a LEDGER tile goes with it, and
a Sheet that it moves to keeps its own holder too (R279, R280). -/
def Dev.moveRole (d : Dev) (pl : Placement) (phys target : Nat) (ledger : Bool) : List Nat :=
  if ledger then (pl.roles.filter (fun p => p != phys && p != target)) ++ [target] else d.dropRole pl phys

/-- REMAPPED: the failed tile's DMAs have ended; `bad` are spares that fail their program load. -/
def Dev.remapped (d : Dev) (m : Mem) (bad : List Nat) : Dev :=
  match d.deckle.remap, d.deckle.placement with
  | some r, some pl =>
    if !(d.tile r.phys).store.dmas.isEmpty then d
    else
      let ledger := (pl.man.tiles[r.logical]?).any (fun t => t.ledger)
      let image : Option (SMap Nat) := match SMap.find r.logical pl.loads with
        | some (h, o, n) => d.readImage m h o n
        | none => some []
      let d := match SMap.find r.logical pl.loads with
        | some (h, o, n) => d.noteRegion h o (64 * n)
        | none => d
      let targets := (d.remapTargets pl r.phys ledger).filter (fun p => !bad.contains p)
      match targets.head?, image with
      | some t, some prog =>
        let n := ((SMap.find r.logical pl.loads).map (fun x => x.2.2)).getD 0
        let pl' := { pl with
          tmap := SMap.insert r.logical t pl.tmap
          spares := SMap.insert (t / 17) ((SMap.get [] (t / 17) pl.spares).filter (fun p => p != t % 17)) pl.spares
          roles := d.moveRole pl r.phys t ledger }
        let d := { d with deckle := { d.deckle with placement := some pl', remap := none } }
        let d := d.writeLogical
        let d := d.onTile t (fun x => { x with core := { x.core with prog := loadProg n prog x.core.prog } })
        let d := (d.fcount dklRemapcntTiles 0 1).fwrap dklPlgenGen 0
        d.deckleReport 0x10 r.logical true
      | _, _ =>
        let pl' := { pl with tmap := SMap.remove r.logical pl.tmap, roles := d.dropRole pl r.phys }
        let d := { d with deckle := { d.deckle with placement := some pl', remap := none, remapFailed := true } }
        (d.writeLogical.deckleReport 0x11 r.logical true).checkDegraded
  | _, _ => d

/-! ### Migrating a stack (R282 to R284) -/

/-- Any line request that touches an entry's place. -/
def Dev.requestsIn (d : Dev) (r : Region) (writes : Bool) : Bool :=
  d.stks.any (fun e => e.2.reqs.any (fun q => (!writes || q.kind != .rd) && q.addrs.any (fun a =>
    bit r.stks (stackOf a) && decide (r.base ≤ a % stackBytes) && decide (a % stackBytes < r.base + r.perStack))))

/-- The class rule and stage of a physical handle. -/
def Dev.manRegion (d : Dev) (h : Nat) : Option ManRegion :=
  d.deckle.placement.bind (fun pl => pl.man.regions.find? (fun r =>
    r.handle == h || (r.cls == 1 && r.handle + 0x800 == h)))

/-- Find the next region of a migration that has a place, reporting those that stay (R284). -/
def Dev.nextMigration (d : Dev) (g : Migration) : List Nat → Dev
  | [] =>
    let d := { d with deckle := { d.deckle with migration := none } }
    if g.short = 0 then
      let (x, d) := d.freeDetail
      d.deckleReport 0x12 x true
    else d.deckleReport 0x13 g.short true
  | h :: rest =>
    let e := d.entry h
    if e.state ≠ .active || !bit e.stks g.stack then d.nextMigration g rest
    else
      let spot := match d.deckle.placement, d.manRegion h with
        | some pl, some r =>
          let all := d.usableStacks (some g.stack)
          placeRegion (d.occupied d.deckle.regions) (nearStacks pl.man pl.tmap pl.order r.stage all) all
            (r.rule d.deckle.layout) r.size stackBytes
        | _, _ => none
      match spot with
      | some t =>
        { d.setEntry h { e with state := .migrating } with
          deckle := { (d.setEntry h { e with state := .migrating }).deckle with
            migration := some { g with todo := rest, handle := h, target := { t with gen := (e.gen + 1) % 2 ^ 16 }, done := 0 } } }
      | none => (d.deckleReport 0x13 h false).nextMigration { g with short := h } rest

/-- An event of a stack. -/
def DkEvent.isStack : DkEvent → Bool
  | .stack _ => true
  | _ => false

/-- STACK_MIGRATION: a stack has entered FAILING and no remap runs or waits, or the region before has been switched and
nothing uses its old place (R282, R286). -/
def Dev.stackMigration (d : Dev) : Dev :=
  match d.deckle.migration with
  | some g =>
    if g.handle = 0 ∧ !d.requestsIn g.old false then d.nextMigration { g with old := .none } g.todo else d
  | none =>
    if d.remapRuns || d.deckle.events.any DkEvent.isRemap then d
    else match d.takeEvent DkEvent.isStack with
      | some (.stack s, d) =>
        let hs := (d.deckle.regions.filter (fun e => bit e.2.stks s)).map (fun e => e.1)
        d.nextMigration ⟨s, hs, 0, .none, 0, 0, .none⟩ hs
      | _ => d

/-- Pending writes and adds to a region lose their second location. -/
def Dev.dropMirrors (d : Dev) (h : Nat) : Dev :=
  { d with stks := d.stks.map (fun e => (e.1, { e.2 with
      reqs := e.2.reqs.map (fun r => if r.region = h then { r with mirrors := [] } else r) })) }

/-- One line of the unit being copied: read at the old place, written at the new one, poison with it. -/
def Dev.copyLine (d : Dev) (m : Mem) (src dst : Nat) (ecc : Option Ecc) : Dev :=
  let d := ecc.elim d (fun e => (d.activateRow (stackOf src) e.row).disturb m src e)
  let data := d.seenLine m src
  let d := (d.noteRead src true).1
  d.writeBytes dst data (d.lineBad (src / 64))

/-- MIGRATION_COPY: the next unit is copied, once no write or add to it is pending; `line` and `ecc` say which of its
lines meets an error. The last unit switches the entry. -/
def Dev.migrationCopy (d : Dev) (m : Mem) (line : Nat) (ecc : Ecc) : Dev :=
  match d.deckle.migration with
  | none => d
  | some g =>
    if g.handle = 0 then d
    else
      let e := d.entry g.handle
      if e.state ≠ .migrating then
        { d with deckle := { d.deckle with migration := some { g with handle := 0, done := 0, old := .none } } }
      else if (setBits 32 g.target.stks).any (fun s => d.fget stkStatHealth s == 3) then
        -- a stack of the target has failed: the region gets another (DESIGN CHOICE, log entry 113)
        ((d.dropMirrors g.handle).setEntry g.handle { e with state := .active }).nextMigration
          { g with handle := 0, done := 0, old := .none } (g.handle :: g.todo)
      else
        let src := e.locate (g.done * 4096)
        let dst := g.target.locate (g.done * 4096)
        let pending := d.stks.any (fun x => x.2.reqs.any (fun q =>
          q.kind != .rd && q.addrs.any (fun a => a / 4096 == src / 4096)))
        if pending then d
        else
          let d := (List.range 64).foldl (fun (d : Dev) k =>
            d.copyLine m (src + 64 * k) (dst + 64 * k) (if k = line then some ecc else none)) d
          if (g.done + 1) * 4096 < e.size then
            { d with deckle := { d.deckle with migration := some { g with done := g.done + 1 } } }
          else
            let d := d.setEntry g.handle g.target
            let d := { d with deckle := { d.deckle with migration := some { g with handle := 0, done := 0, old := e } } }
            (d.fcount dklMigcntCount 0 1).fwrap dklPlgenGen 0

/-! ### Re-drawing (R285) -/

/-- DKL_REDRAW: the host asks for a layout. -/
def Dev.requestRedraw (d : Dev) (v : Nat) : Dev :=
  let busy := d.remapping || d.deckle.migration.isSome || d.redrawing
  if bit v 31 && d.deckle.placement.isSome && !busy && d.placedQuiet then d.dkEvent (.redraw (v % 4) false) else d

/-- A DMA that names a SCRATCH region is in flight. -/
def Dev.scratchBusy (d : Dev) : Bool :=
  d.tiles.any (fun t => t.2.store.dmas.any (fun q => d.regionClass (q.2.desc % 2 ^ 16) == some 4))

/-- The region table after a re-draw to `layout`. -/
def Dev.redrawTable (d : Dev) (pl : Placement) (layout : Nat) : Option (SMap Region) :=
  let moved := (regionOrder pl.man.regions).filter (fun r => r.cls == 4 && r.rule layout != r.rule d.deckle.layout)
  let start := moved.foldl (fun t r => SMap.remove r.handle t) d.deckle.regions
  let order := d.sheetOrder
  moved.foldl (fun t r => t.bind (fun t =>
    (d.placeInto pl.man pl.tmap order layout (stackBytes - reserveBytes pl.man.reserve) r r.handle t).map (fun t =>
      SMap.modify Region.none r.handle (fun e => { e with gen := ((d.entry r.handle).gen + 1) % 2 ^ 16 }) t))) (some start)

/-- A re-draw event. -/
def DkEvent.isRedraw : DkEvent → Bool
  | .redraw .. => true
  | _ => false

/-- What a re-draw waits for (R285, R286): a remap that runs or waits, the region being migrated, a migration that waits to
begin, and DMAs that name a SCRATCH region. -/
def Dev.redrawWaits (d : Dev) : Bool :=
  d.remapRuns || d.deckle.events.any DkEvent.isRemap || d.scratchBusy
    || d.deckle.migration.elim (d.deckle.events.any DkEvent.isStack) (fun g => g.handle != 0)

/-- REDRAW: the oldest re-draw runs, with grades taken afresh. -/
def Dev.redraw (d : Dev) : Dev :=
  if d.redrawWaits then d
  else match d.deckle.placement, d.takeEvent DkEvent.isRedraw with
    | some pl, some (.redraw l fence, d) =>
      let d := d.takeGrades
      let (x, d) := d.freeDetail
      let d := match d.redrawTable pl l with
        | some t =>
          let d := { d with deckle := { d.deckle with regions := t, layout := l } }
          (d.fwrap dklPlgenGen 0).deckleReport 0x14 x true
        | none =>
          let d := if fence then { d with stp := { d.stp with redrawFail := true } } else d
          d.deckleReport 0x15 x true
      if fence then d.releaseFence else d
    | _, _ => d

end Sys2Proof.Machine
end

