-- ==== Sys2Proof/Machine/Solver.lean ====
section
/-! DEFINITION. Machine/Solver.lean: the solver engines (chapter 7): structure images and their checks, delta packets, the
spatial sweeps, factorisation and solves, cycles with their publications, and moving instances between engines. -/

namespace Sys2Proof.Machine

/-! ### Arithmetic (R184) -/

/-- Fused multiply-add in binary64. -/
def fma64 (a b c : Nat) : Nat := (scalarArith .fma .binary64 0 a b c).1

/-- `fma(-a, b, c)` in binary64. -/
def fnma64 (a b c : Nat) : Nat := (scalarArith .fnma .binary64 0 a b c).1

/-- Division in binary64. -/
def div64 (a b : Nat) : Nat := (scalarDiv .binary64 0 a b).1

/-- The other sign. -/
def neg64 (a : Nat) : Nat := a ^^^ 2 ^ 63

/-- The magnitude's code; magnitudes order as their codes do. -/
def abs64 (a : Nat) : Nat := a % 2 ^ 63

/-- Neither a NaN nor an infinity. -/
def finite64 (a : Nat) : Bool := bits a 52 11 != 2047

/-- The code of 1. -/
def one64 : Nat := 1023 * 2 ^ 52

/-- The code of `2^-k` for k from 1 to 1,022. -/
def pow2neg (k : Nat) : Nat := (1023 - k) * 2 ^ 52

/-- A sum of products in term order. -/
def dot64 : List (Nat × Nat) → Nat
  | [] => 0
  | (a, b) :: ts => ts.foldl (fun p t => fma64 t.1 t.2 p) (f64 .mul a b)

/-- A published value: a NaN is canonical, −0 is +0 (R106, R107). -/
def publish64 (a : Nat) : Nat := if isNanCode .binary64 a then Format.binary64.canonNan else Format.binary64.plusZero a

/-! ### Spatial primitives (Table 7-7) -/

/-- A component of a vector. -/
abbrev at64 (l : List Nat) (i : Nat) : Nat := l.getD i 0

/-- Componentwise sum. -/
def vadd (a b : List Nat) : List Nat := List.zipWith (f64 .add) a b

/-- Componentwise difference. -/
def vsub (a b : List Nat) : List Nat := List.zipWith (f64 .sub) a b

/-- cross3. -/
def cross3 (a b : List Nat) : List Nat :=
  (List.range 3).map (fun k =>
    let i := (k + 1) % 3
    let j := (k + 2) % 3
    dot64 [(at64 a i, at64 b j), (neg64 (at64 a j), at64 b i)])

/-- rot(E, u), and rotᵀ(E, u) where `tr` holds. -/
def rot3 (tr : Bool) (e u : List Nat) : List Nat :=
  (List.range 3).map (fun r => dot64 ((List.range 3).map (fun c => (at64 e (if tr then 3 * c + r else 3 * r + c), at64 u c))))

/-- X m, with X as its 12 values. -/
def xMotion (x m : List Nat) : List Nat :=
  let w := m.take 3
  rot3 false x w ++ rot3 false x (vsub (m.drop 3) (cross3 (x.drop 9) w))

/-- Xᵀ f. -/
def xForce (x f : List Nat) : List Nat :=
  let t := rot3 true x (f.drop 3)
  vadd (rot3 true x (f.take 3)) (cross3 (x.drop 9) t) ++ t

/-- I m, with I as its 21 lower-triangle values. -/
def inertia (i m : List Nat) : List Nat :=
  (List.range 6).map (fun r => dot64 ((List.range 6).map (fun c =>
    (at64 i (if c ≤ r then r * (r + 1) / 2 + c else c * (c + 1) / 2 + r), at64 m c))))

/-- m × m′. -/
def crossM (a b : List Nat) : List Nat :=
  let w := a.take 3
  let v := a.drop 3
  cross3 w (b.take 3) ++ vadd (cross3 w (b.drop 3)) (cross3 v (b.take 3))

/-- m ×* f. -/
def crossF (m f : List Nat) : List Nat :=
  let w := m.take 3
  vadd (cross3 w (f.take 3)) (cross3 (m.drop 3) (f.drop 3)) ++ cross3 w (f.drop 3)

/-- S q̇ for columns `cols`. -/
def sMotion (cols : List (List Nat)) (qd : List Nat) : List Nat :=
  (List.range 6).map (fun r => dot64 ((cols.zip qd).map (fun (c, q) => (at64 c r, q))))

/-- One row of Sᵀ f. -/
def sForce (col f : List Nat) : Nat := dot64 (col.zip f)

/-- Xᵀ I X. -/
def xInertia (x i : List Nat) : List Nat :=
  let cols := (List.range 6).map (fun k =>
    xForce x (inertia i (xMotion x ((List.range 6).map (fun r => if r = k then one64 else 0)))))
  (List.range 6).flatMap (fun r => (List.range (r + 1)).map (fun k => at64 (cols.getD k []) r))

/-! ### Sweeps (R194) -/

/-- A body's columns of S. -/
def Struct.cols (s : Struct) (b : Body) : List (List Nat) :=
  (List.range b.dof).map (fun t => (s.smat.drop (6 * (b.jstart + t))).take 6)

/-- Offsets of the sections of the value vector (Table 7-5): B, XF, IN, QD, FX, GRAV, G and the end. -/
def Struct.offB (s : Struct) : Nat := s.nnza
def Struct.offXF (s : Struct) : Nat := s.nnza + s.n
def Struct.offIN (s : Struct) : Nat := s.offXF + 12 * s.nb
def Struct.offQD (s : Struct) : Nat := s.offIN + 21 * s.nb
def Struct.offFX (s : Struct) : Nat := s.offQD + s.nh
def Struct.offGRAV (s : Struct) : Nat := s.offFX + 6 * s.nb
def Struct.offG (s : Struct) : Nat := s.offGRAV + 6
def Struct.nv (s : Struct) : Nat := s.offG + s.n

/-- `k` entries of the value vector. -/
def vals (v : List Nat) (o k : Nat) : List Nat := (v.drop o).take k

/-- Values of body i: its transform, inertia, joint velocities and external force. -/
def Struct.xf (s : Struct) (v : List Nat) (i : Nat) : List Nat := vals v (s.offXF + 12 * i) 12
def Struct.iner (s : Struct) (v : List Nat) (i : Nat) : List Nat := vals v (s.offIN + 21 * i) 21
def Struct.qd (s : Struct) (v : List Nat) (b : Body) : List Nat := vals v (s.offQD + b.jstart) b.dof
def Struct.fx (s : Struct) (v : List Nat) (i : Nat) : List Nat := vals v (s.offFX + 6 * i) 6

/-- The root-to-leaf half of rnea(): velocity, acceleration and force of each body. -/
def Struct.rneaOut (s : Struct) (v : List Nat) : List (List Nat × List Nat × List Nat) :=
  let g := (vals v s.offGRAV 6).map neg64
  s.bodies.zipIdx.foldl (fun acc (b, i) =>
    let up := match b.parent with
      | some p => acc.getD p ([], [], [])
      | none => (List.replicate 6 0, g, [])
    let x := s.xf v i
    let sq := sMotion (s.cols b) (s.qd v b)
    let vi := vadd (xMotion x up.1) sq
    let ai := vadd (xMotion x up.2.1) (crossM vi sq)
    let im := s.iner v i
    let fi := vsub (vadd (inertia im ai) (crossF vi (inertia im vi))) (s.fx v i)
    acc ++ [(vi, ai, fi)]) []

/-- rnea(): the bias c, by joint coordinate. -/
def Struct.bias (s : Struct) (v : List Nat) : List Nat :=
  let fs := (s.rneaOut v).map (fun x => x.2.2)
  let r := s.bodies.zipIdx.reverse.foldl (fun (st : List (List Nat) × List (List Nat)) (b, i) =>
    let fi := st.1.getD i []
    let fs := match b.parent with
      | some p => st.1.set p (vadd (st.1.getD p []) (xForce (s.xf v i) fi))
      | none => st.1
    (fs, (s.cols b).map (fun c => sForce c fi) :: st.2)) (fs, [])
  r.2.flatten

/-- The composite inertias of crba(). -/
def Struct.composite (s : Struct) (v : List Nat) : List (List Nat) :=
  s.bodies.zipIdx.reverse.foldl (fun (ic : List (List Nat)) (b, i) =>
    match b.parent with
    | some p => ic.set p (vadd (ic.getD p []) (xInertia (s.xf v i) (ic.getD i [])))
    | none => ic) ((List.range s.nb).map (s.iner v))

/-- The rows of H that one column of body i gives on the way up: entries (row, column, value) with the force carried. The
fuel is the number of bodies. -/
def Struct.climb (s : Struct) (v : List Nat) (row : Nat) : Nat → Nat → List Nat → List (Nat × Nat × Nat)
  | 0, _, _ => []
  | k + 1, j, F =>
    match (s.bodies[j]?).bind (fun b => b.parent) with
    | none => []
    | some p =>
      let F := xForce (s.xf v j) F
      let here := match s.bodies[p]? with
        | some b => (s.cols b).zipIdx.map (fun (c, t) => (row, b.jstart + t, sForce c F))
        | none => []
      here ++ s.climb v row k p F

/-- crba(): the entries of H as (row, column, value), row at least column. -/
def Struct.inertiaMatrix (s : Struct) (v : List Nat) : List (Nat × Nat × Nat) :=
  let ic := s.composite v
  s.bodies.zipIdx.flatMap (fun (b, i) =>
    (s.cols b).zipIdx.flatMap (fun (c, t) =>
      let F := inertia (ic.getD i []) c
      ((s.cols b).zipIdx.drop t).map (fun (c', t') => (b.jstart + t', b.jstart + t, sForce c' F))
        ++ s.climb v (b.jstart + t) s.nb i F))

/-! ### The matrix and its factors (R195, R196, R198) -/

/-- The columns of the pattern of Â: rows in AIDX order with the index of each entry. -/
def Struct.column (s : Struct) (j : Nat) : List (Nat × Nat) :=
  let a := s.aptr.getD j 0
  (vals s.aidx a (s.aptr.getD (j + 1) 0 - a)).zipIdx.map (fun (r, k) => (r, a + k))

/-- Symbolic factorisation: the strict-lower rows of each column, ascending. Column k updates column j where j is the
first strict-lower row of k. -/
def Struct.symbolic (s : Struct) : List (List Nat) :=
  (List.range s.n).foldl (fun (cols : List (List Nat)) j =>
    let own := ((s.column j).map (fun e => e.1)).filter (fun i => decide (j < i))
    let from_ := cols.flatMap (fun c => if c.head? = some j then c.drop 1 else [])
    cols ++ [(sortNat (own ++ from_)).eraseDups]) []

/-- A factorisation as it proceeds: D and r, the columns of L with their rows, the regularised pivots (zero, small,
overflow), and whether it met a pivot that is no number. -/
structure Factor where
  d : List Nat
  r : List Nat
  l : List (List (Nat × Nat))
  zero : Nat
  small : Nat
  overs : Nat
  failed : Bool
  deriving DecidableEq, Repr

/-- L(i, k), if it is in the pattern. -/
def Factor.entry (f : Factor) (i k : Nat) : Option Nat :=
  ((f.l.getD k []).find? (fun e => e.1 == i)).map (fun e => e.2)

/-- pivot() of Table 7-8: D, and the flags zero, small and overflow; none for a pivot that is no number. -/
def pivot (delta tiny w rho : Nat) : Option (Nat × Bool × Bool × Bool) :=
  if !finite64 w then none
  else
    let lim := f64 .mul tiny rho
    let zero := abs64 w == 0
    let small := !zero && decide (abs64 w < lim)
    let sign := w / 2 ^ 63 * 2 ^ 63
    let d := if zero then f64 .mul delta rho else if small then sign + lim else w
    if finite64 (div64 one64 (abs64 d)) then some (d, zero, small, false)
    else some (d / 2 ^ 63 * 2 ^ 63 + max lim (pow2neg 1022), zero, small, true)

/-- ρ of row j of the full symmetric Â. -/
def rowNorm (s : Struct) (a : List Nat) (j : Nat) : Nat :=
  let m := (List.range s.n).foldl (fun m k => (s.column k).foldl (fun m e =>
    if k = j ∨ e.1 = j then max m (abs64 (a.getD e.2 0)) else m) m) 0
  if m = 0 then one64 else m

/-- One column of factor(). -/
def factorColumn (s : Struct) (a : List Nat) (delta tiny : Nat) (pat : List (List Nat)) (f : Factor) (j : Nat) : Factor :=
  if f.failed then f
  else
    let col := s.column j
    let w0 := (j :: pat.getD j []).map (fun i => (i, ((col.find? (fun e => e.1 == i)).map (fun e => a.getD e.2 0)).getD 0))
    let w := (List.range j).foldl (fun (w : List (Nat × Nat)) k =>
      match f.entry j k with
      | none => w
      | some ljk =>
        let t := f64 .mul ljk (f.d.getD k 0)
        w.map (fun (i, x) => (i, match f.entry i k with
          | some lik => fnma64 lik t x
          | none => x))) w0
    match pivot delta tiny ((w.head?.map (fun e => e.2)).getD 0) (rowNorm s a j) with
    | none => { f with failed := true }
    | some (d, z, sm, ov) =>
      let r := div64 one64 d
      { f with
        d := f.d ++ [d]
        r := f.r ++ [r]
        l := f.l ++ [(w.drop 1).map (fun (i, x) => (i, f64 .mul x r))]
        zero := f.zero + b2n z
        small := f.small + b2n sm
        overs := f.overs + b2n ov }

/-- factor(). -/
def factor (s : Struct) (a : List Nat) (delta tiny : Nat) : Factor :=
  let pat := s.symbolic
  (List.range s.n).foldl (factorColumn s a delta tiny pat) ⟨[], [], [], 0, 0, 0, false⟩

/-- solve() for a right-hand side in original order: x in original order. -/
def solve (s : Struct) (r : List Nat) (l : List (List (Nat × Nat))) (b : List Nat) : List Nat :=
  let at_ (i k : Nat) : Option Nat := ((l.getD k []).find? (fun e => e.1 == i)).map (fun e => e.2)
  let z := (List.range s.n).foldl (fun (z : List Nat) j =>
    z ++ [(List.range j).foldl (fun acc k => match at_ j k with
      | some ljk => fnma64 ljk (z.getD k 0) acc
      | none => acc) (b.getD (s.perm.getD j 0) 0)]) []
  let y := (z.zip r).map (fun (a, b) => f64 .mul a b)
  let xh := (List.range s.n).reverse.foldl (fun (xh : List Nat) j =>
    -- xh holds entries j+1 and up
    ((l.getD j []).foldl (fun acc e => fnma64 e.2 (xh.getD (e.1 - j - 1) 0) acc) (y.getD j 0)) :: xh) []
  (List.range s.n).map (fun p => xh.getD (s.perm.findIdx (fun q => q == p)) 0)

/-- A DYN cycle's section A: the joint block is H, +0 where H has no entry. -/
def Struct.dynA (s : Struct) (v : List Nat) : List Nat :=
  let h := s.inertiaMatrix v
  (List.range s.n).flatMap (fun j => (s.column j).map (fun (i, e) =>
    let p := s.perm.getD i 0
    let q := s.perm.getD j 0
    if p < s.nh ∧ q < s.nh then
      ((h.find? (fun x => x.1 == max p q && x.2.1 == min p q)).map (fun x => x.2.2)).getD 0
    else v.getD e 0))

/-- Section b of a DYN cycle: (τ − c; γ). -/
def Struct.dynB (s : Struct) (v : List Nat) : List Nat :=
  let b := vals v s.offB s.n
  vsub (b.take s.nh) (s.bias v) ++ b.drop s.nh

/-- The gradient of ADJGRAD in AIDX order (R200). -/
def Struct.gradient (s : Struct) (y x : List Nat) : List Nat :=
  (List.range s.n).flatMap (fun j => (s.column j).map (fun (i, _) =>
    let a := s.perm.getD i 0
    let b := s.perm.getD j 0
    let p := max a b
    let q := min a b
    if p = q then neg64 (f64 .mul (at64 y p) (at64 x p))
    else fnma64 (at64 y q) (at64 x p) (neg64 (f64 .mul (at64 y p) (at64 x q)))))

/-! ### Structure images (R185 to R187) -/

/-- Bytes of the resident images that one engine may hold. -/
def storeBytes : Nat := 20 * 2 ^ 20

/-- The section starts and lengths of an image. -/
def imageSections (f : Nat → Nat → Nat) (dofs : Nat) : List (Nat × Nat) :=
  [(f 0x28 4, 4 * f 0x10 4), (f 0x2C 4, 4 * (f 0x10 4 + 1)), (f 0x30 4, 4 * f 0x1C 4), (f 0x34 4, 16 * f 0x18 4),
   (f 0x38 4, 48 * dofs)]

/-- Sections start on 64-byte boundaries and end within SIZE; those that hold bytes lie behind the header and do not
overlap. -/
def sectionsOk (size : Nat) (l : List (Nat × Nat)) : Bool :=
  l.all (fun x => x.1 % 64 == 0 && decide (x.1 + x.2 ≤ size) && (x.2 == 0 || decide (256 ≤ x.1)))
    && l.zipIdx.all (fun (x, i) => x.2 == 0 || (l.take i).all (fun y =>
      y.2 == 0 || decide (x.1 + x.2 ≤ y.1) || decide (y.1 + y.2 ≤ x.1)))

/-- The ancestors of body i, itself first. The fuel is the number of bodies. -/
def ancestors (bodies : List Body) : Nat → Nat → List Nat
  | 0, _ => []
  | k + 1, i =>
    i :: (match (bodies[i]?).bind (fun b => b.parent) with
      | some p => ancestors bodies k p
      | none => [])

/-- The image as a structure; the checks of `imageStatus` say whether it is one. -/
def parseImage (bytes : List Nat) (hash : Nat) : Struct :=
  let f (o n : Nat) : Nat := ofLE ((bytes.drop o).take n)
  let n := f 0x10 4
  let nnza := f 0x1C 4
  let nb := f 0x18 4
  let words (o k w : Nat) : List Nat := (List.range k).map (fun i => f (o + w * i) w)
  let bodies := (List.range nb).map (fun i =>
    let a := f 0x34 4 + 16 * i
    Body.mk (if f a 4 = 0xFFFFFFFF then none else some (f a 4)) (f (a + 4) 4) (f (a + 8) 1))
  let dofs := (bodies.map (fun b => b.dof)).foldl (· + ·) 0
  { hash := hash, size := f 0x24 4, n := n, nh := f 0x14 4, nb := nb, nnza := nnza
    perm := words (f 0x28 4) n 4, aptr := words (f 0x2C 4) (n + 1) 4, aidx := words (f 0x30 4) nnza 4
    bodies := bodies, smat := words (f 0x38 4) (6 * dofs) 8 }

/-- The structure hash of an image (R186). -/
def imageHash (bytes : List Nat) : Nat :=
  ofLE ((sha384 (bytes.take 8 ++ List.replicate 8 0 ++ bytes.drop 16)).take 8)

/-- The checks of R187 on a structure whose sections lie within the image. -/
def Struct.valid (s : Struct) (nnzl : Nat) : Bool :=
  let pos (p : Nat) : Nat := s.perm.findIdx (fun q => q == p)
  let inA (p q : Nat) : Bool := (s.column (min (pos p) (pos q))).any (fun e => e.1 == max (pos p) (pos q))
  let coords (b : Body) : List Nat := (List.range b.dof).map (· + b.jstart)
  let total := (s.bodies.map (fun b => b.dof)).foldl (· + ·) 0
  (List.range s.n).all (fun p => s.perm.contains p)
    && s.aptr.head? == some 0 && s.aptr.getLast? == some s.nnza
    && (List.range s.n).all (fun j =>
      let rows := (s.column j).map (fun e => e.1)
      decide (s.aptr.getD j 0 ≤ s.aptr.getD (j + 1) 0) && rows.head? == some j && rows.all (fun r => decide (r < s.n))
        && (rows.zip (rows.drop 1)).all (fun (a, b) => decide (a < b)))
    && s.bodies.zipIdx.all (fun (b, i) => b.parent.all (fun p => decide (p < i)))
    && s.bodies.zipIdx.all (fun (b, i) => b.jstart == ((s.bodies.take i).map (fun c => c.dof)).foldl (· + ·) 0)
    && total == s.nh && decide (s.nh ≤ s.n)
    && s.bodies.zipIdx.all (fun (b, i) => (ancestors s.bodies s.nb i).all (fun a =>
      (s.bodies[a]?).all (fun c => (coords b).all (fun p => (coords c).all (fun q => inA p q)))))
    && s.smat.all finite64
    && (s.symbolic.map List.length).foldl (· + ·) 0 == nnzl

/-- The status of Table 7-4 that the image itself gives, in the order of the table; `others` are the bytes of the
engine's other resident images. -/
def imageStatus (bytes : List Nat) (poison busy : Bool) (others : Nat) : Nat :=
  let f (o n : Nat) : Nat := ofLE ((bytes.drop o).take n)
  let hash := imageHash bytes
  let s := parseImage bytes hash
  let dofs := (s.bodies.map (fun b => b.dof)).foldl (· + ·) 0
  let layout := sectionsOk s.size (imageSections f dofs)
  -- the bodies can be read wherever their section lies within the image
  let inside := decide (f 0x34 4 + 16 * s.nb ≤ s.size)
  let bodyRes := inside && (List.range s.nb).any (fun i => f (f 0x34 4 + 16 * i + 9) 7 != 0)
  if f 0 4 ≠ 0x534C5631 ∨ f 4 2 ≠ 1 ∨ f 6 2 ≠ 0 ∨ ((bytes.drop 0x3C).take 0xC4).any (fun b => b != 0) ∨ bodyRes then 1
  else if hash ≠ f 8 8 then 2
  else if s.n = 0 ∨ 65536 < s.n ∨ 8192 < s.nb ∨ 2097152 < f 0x20 4
      ∨ (inside && s.bodies.any (fun b => b.dof == 0 || decide (6 < b.dof))) then 3
  else if !layout || !s.valid (f 0x20 4) then 4
  else if storeBytes < others + s.size then 5
  else if busy then 6
  else if poison then 7
  else 0

/-! ### Engines and loads (R187, R188) -/

/-- An engine by its number. -/
def Dev.solver (d : Dev) (e : Nat) : Solver := SMap.get .reset e d.solvers

/-- Set an engine. -/
def Dev.setSolver (d : Dev) (e : Nat) (x : Solver) : Dev := { d with solvers := SMap.put .reset e x d.solvers }

/-- A slot of an engine. -/
def Solver.slot (x : Solver) (s : Nat) : SlotState := SMap.get .empty s x.slots

/-- Set a slot. -/
def Solver.setSlot (x : Solver) (s : Nat) (v : SlotState) : Solver := { x with slots := SMap.put .empty s v x.slots }

/-- The structure a slot holds for launches. -/
def SlotState.struct : SlotState → Option Struct
  | .empty => none
  | .loading old => old
  | .resident s => some s

/-- Where a logical solver instance is mapped. -/
def Dev.engineOf (d : Dev) (i : Nat) : Option (Nat × Nat) := d.deckle.placement.bind (fun pl => SMap.find i pl.smap)

/-- A cycle of the slot is queued or running. -/
def Solver.slotBusy (x : Solver) (s : Nat) : Bool :=
  x.queue.any (fun q => q.1.slot == s) || x.run.any (fun c => c.launch.slot == s)

/-- Set LOADSTAT. -/
def Dev.loadStat (d : Dev) (e slot status : Nat) : Dev := (d.fset slvLoadstatStatus e status).fset slvLoadstatSlot e slot

/-- SLV_LOAD: the command begins its load, or ends at once (R187, R188, R210). -/
def Dev.slvLoad (d : Dev) (q : Nat) : Dev :=
  let busy : Bool := match (d.sq q).fetched with
    | c :: _ => (d.engineOf (c.f 8 1)).any (fun x => (d.solver x.1).loading.isSome)
    | [] => false
  if busy = true then d
  else d.startCmd q 6 (fun d c =>
    match d.engineOf (c.f 8 1) with
    | none => d.complete c 3 0 0
    | some (e, s) =>
      if !d.active pSLV e then (d.loadStat e s 8).complete c 5 8 0
      else
        let x := d.solver e
        d.setSolver e ({ x with loading := some c }.setSlot s (.loading (x.slot s).struct)))

/-- Load an image into a slot: the status, or none where the region is FAILED, FREE or too small. A failed load leaves an
earlier resident structure (DEDUCED, log entry 44). -/
def Dev.loadImage (d : Dev) (m : Mem) (e s h o : Nat) : Dev × Option Nat :=
  let x := d.solver e
  let old : SlotState := match (x.slot s).struct with
    | some t => .resident t
    | none => .empty
  let others := (x.slots.filter (fun y => y.1 != s)).foldl (fun n y => n + ((y.2.struct.map (fun t => t.size)).getD 0)) 0
  match d.readRegion m h o 256 with
  | none => (d.setSolver e (x.setSlot s old), none)
  | some (head, _) =>
    match d.readRegion m h o (max 256 (ofLE ((head.drop 0x24).take 4))) with
    | none => ((d.noteRegion h o 256).setSolver e (x.setSlot s old), none)
    | some (bytes, poison) =>
      let d := d.noteRegion h o (max 256 (ofLE ((head.drop 0x24).take 4)))
      let size := ofLE ((head.drop 0x24).take 4)
      let bytes := if size < 256 then bytes else bytes.take size
      let st := imageStatus bytes poison (x.slotBusy s) others
      let now : SlotState := if st = 0 then .resident (parseImage bytes (imageHash bytes)) else old
      ((d.setSolver e (x.setSlot s now)).loadStat e s st, some st)

/-- The slot that a load in progress fills. -/
def Solver.loadSlot (x : Solver) : Nat :=
  ((x.slots.find? (fun y => match y.2 with
    | .loading _ => true
    | _ => false)).map (fun y => y.1)).getD 0

/-- SLV_LOAD_COMPLETE: the load of an engine ends, between cycles; while a cycle of its own slot runs it ends SLOT_BUSY
(R187, R188). -/
def Dev.slvLoadComplete (d : Dev) (m : Mem) (e : Nat) : Dev :=
  let x := d.solver e
  match x.loading with
  | none => d
  | some c =>
    let s := x.loadSlot
    if x.run.any (fun r => r.launch.slot != s) then d
    else
      let d := d.setSolver e { x with loading := none }
      let (d, st) := d.loadImage m e s (c.f 10 2) (c.f 16 8)
      match st with
      | none => d.complete c 9 0 0
      | some 0 =>
        let d := match d.deckle.placement with
          | some pl => { d with deckle := { d.deckle with
              placement := some { pl with images := SMap.insert (c.f 8 1) (c.f 10 2, c.f 16 8) pl.images } } }
          | none => d
        d.complete c 0 0 0
      | some st => d.complete c 0x0A st 0

/-! ### The launch block (Table 7-9) -/

/-- A field of the block. -/
def Launch.f (l : Launch) (o n : Nat) : Nat := ofLE ((l.block.drop o).take n)

def Launch.si (l : Launch) : Nat := l.f 0 1 % 32
def Launch.op (l : Launch) : Nat := l.f 1 1
def Launch.flag (l : Launch) (i : Nat) : Bool := bit (l.f 2 1) i
def Launch.deadlineMarks (l : Launch) : Nat := l.f 4 2
def Launch.period (l : Launch) : Nat := l.f 6 2
def Launch.rpt (l : Launch) : Nat := l.f 8 2
def Launch.first (l : Launch) : Nat := l.f 10 2
def Launch.count (l : Launch) : Nat := l.f 12 2
def Launch.stateRegion (l : Launch) : Nat := l.f 24 2
def Launch.outRegion (l : Launch) : Nat := l.f 26 2
def Launch.factRegion (l : Launch) : Nat := l.f 28 2
def Launch.strict (l : Launch) : Bool := l.flag 1
def Launch.replay (l : Launch) : Bool := l.flag 3

/-- The tag of cycle n. -/
def Launch.tag (l : Launch) (n : Nat) : Nat := (l.f 14 2 + n) % 2 ^ 16

/-- The start and the deadline mark of cycle n (R202). -/
def Launch.startMark (l : Launch) (n : Nat) : Nat := (l.mark + n * l.period) % 2 ^ 48
def Launch.deadline (l : Launch) (n : Nat) : Nat := (l.startMark n + l.deadlineMarks) % 2 ^ 48

/-- An adjoint launch. -/
def Launch.adjoint (l : Launch) : Bool := l.op == 2 || l.op == 3

/-- Instances that a REPLAY launch computes, and all for any other. -/
def Launch.goal (l : Launch) : Nat := if l.replay then min (l.f 58 2) l.count else l.count

/-- `n` rounded up to a multiple of `k`. -/
def roundUp (k n : Nat) : Nat := ceilDiv n k * k

/-- ISTRIDE (R189). -/
def Struct.stride (s : Struct) : Nat := roundUp 64 (64 + 16 * s.n + 8 * s.nv)

/-- SOLOFF, the offset of the gradients and OSTRIDE of a launch (R207). -/
def Launch.solOff (l : Launch) : Nat := 64 + roundUp 64 (4 * l.count)
def Launch.gradOff (l : Launch) (n : Nat) : Nat := roundUp 64 (l.solOff + 8 * n * l.count)
def Launch.outStride (l : Launch) (s : Struct) : Nat :=
  roundUp 4096 (if l.op = 3 then l.gradOff s.n + 8 * s.nnza * l.count else l.solOff + 8 * s.n * l.count)

/-- Strict-lower factor nonzeros. -/
def Struct.nnzl (s : Struct) : Nat := (s.symbolic.map List.length).foldl (· + ·) 0

/-- Bytes of a factor per instance, and the stride of a factor-ring slot (R199). -/
def Struct.factBytes (s : Struct) : Nat := 8 * (2 * s.n + s.nnzl)
def Launch.factStride (l : Launch) (s : Struct) : Nat := roundUp 4096 (64 + roundUp 64 l.count + l.count * s.factBytes)

/-- A region holds at least `top` bytes. -/
def Dev.regionHolds (d : Dev) (h top : Nat) : Bool := decide (top ≤ (d.regionSize h).getD 0)

/-- Why the engine refuses the block: RSTAT 1, 2 or 5, none where the block is good (R201, R210). A region that is not
in the table holds nothing; an offset that is not 64-byte aligned fails as a reserved bit does (DEDUCED, log entry 46). -/
def Dev.launchRefusal (d : Dev) (l : Launch) : Option Nat :=
  if d.variant = 2 then some 5
  else
    let bad := decide (3 < l.op) || l.f 0 1 / 32 != 0 || l.f 2 1 / 32 != 0 || l.f 3 1 != 0 || l.f 60 4 != 0
      || l.deadlineMarks == 0 || (l.rpt != 0 && decide (l.period < l.deadlineMarks)) || l.count == 0
      || decide (4096 < l.first + l.count) || l.f 32 8 % 64 != 0 || l.f 40 8 % 64 != 0 || l.f 48 8 % 64 != 0
    match d.engineOf l.si with
    | none => some 1
    | some (e, slot) =>
      if !d.active pSLV e then some 5
      else if bad then some 1
      else
        match ((d.solver e).slot slot).struct with
        | none => some 2
        | some s =>
          if l.op = 1 ∧ s.nb = 0 then some 1
          else if l.f 16 8 ≠ s.hash then some 2
          else
            let state := d.regionHolds l.stateRegion (l.f 32 8 + (l.first + l.count) * s.stride)
            let out := d.regionHolds l.outRegion (l.f 40 8 + (l.rpt + 1) * l.outStride s)
            let fact := !(l.adjoint || l.flag 4)
              || d.regionHolds l.factRegion (l.f 48 8 + (l.f 56 2 + 1) * l.factStride s)
            if state && out && fact then none else some 1

/-! ### Publications (R207) -/

/-- The figures of a cycle record that its instances and its run give. -/
structure CycleSum where
  nfresh : Nat
  nstale : Nat
  nhalt : Nat
  nerr : Nat
  zpiv : Nat
  spiv : Nat
  opiv : Nat
  flags : Nat
  deriving DecidableEq, Repr

/-- No instance. -/
def CycleSum.none : CycleSum := ⟨0, 0, 0, 0, 0, 0, 0, 0⟩

/-- The cycle record (Table 7-10). -/
def Dev.cycleRecord (d : Dev) (l : Launch) (n hash rstat : Nat) (c : CycleSum) : List Nat :=
  toLE 8 hash ++ toLE 2 (l.tag n) ++ [l.op % 256, rstat % 256] ++ toLE 2 l.first ++ toLE 2 l.count
    ++ toLE 6 (l.startMark n) ++ [0, 0] ++ toLE 6 (l.deadline n) ++ [0, 0]
    ++ toLE 2 c.nfresh ++ toLE 2 c.nstale ++ toLE 2 c.nhalt ++ toLE 2 c.nerr
    ++ toLE 4 c.zpiv ++ toLE 4 c.spiv ++ toLE 4 c.opiv ++ toLE 4 c.flags ++ toLE 6 d.cad.mark ++ [0, 0]

/-- The engine whose page reports a launch: SLV0 where the instance is not mapped (DEDUCED, log entry 43). -/
def Dev.reportEngine (d : Dev) (l : Launch) : Nat := ((d.engineOf l.si).map (fun x => x.1)).getD 0

/-- LASTREC, and the record at +0 with its TEV bits, or an event record where OUT takes nothing. -/
def Dev.publishRecord (d : Dev) (l : Launch) (n stride hash rstat : Nat) (c : CycleSum) : Dev :=
  let e := d.reportEngine l
  let d := (d.fset slvLastrecTag e (l.tag n)).fset slvLastrecRstat e rstat
  let d := d.fset slvLastrecSi e l.si
  match d.writeRegion l.outRegion (l.f 40 8 + n * stride) (d.cycleRecord l n hash rstat c) false with
  | some d => d.doorbell 3 l.si
  | none => d.record 0x0005 pSLV e l.outRegion (l.tag n) 0

/-- A launch that the engine does not take publishes its record alone. -/
def Dev.refuseLaunch (d : Dev) (l : Launch) (rstat : Nat) : Dev :=
  let hash := ((d.engineOf l.si).bind (fun x => ((d.solver x.1).slot x.2).struct)).map (fun s => s.hash)
  d.publishRecord l 0 0 (hash.getD 0) rstat .none

/-- The oldest admitted launch that is not held for an instance being moved (R281). -/
def Dev.nextLaunch (d : Dev) : Option Launch := d.launches.find? (fun l => !d.deckle.solverRemap.contains l.si)

/-- SOLVER_LAUNCH. -/
def Dev.solverLaunch (d : Dev) : Dev :=
  match d.nextLaunch with
  | none => d
  | some l =>
    let d := { d with launches := d.launches.erase l }
    match d.launchRefusal l with
    | some r => d.refuseLaunch l r
    | none =>
      match d.engineOf l.si with
      | none => d
      | some (e, s) =>
        let x := d.solver e
        if 4 ≤ x.queue.length then d.refuseLaunch l 3
        else d.setSolver e { x with queue := x.queue ++ [({ l with slot := s }, 0)] }

/-! ### Instance state (R189, R205, R206) -/

/-- The history of an instance: its header and x1, x0. -/
structure Hist where
  hash : Nat
  k1 : Nat
  k0 : Nat
  nhist : Nat
  halted : Bool
  misses : Nat
  x1 : List Nat
  x0 : List Nat
  deriving DecidableEq, Repr

/-- Where the state of instance i of a launch starts. -/
def Launch.stateOff (l : Launch) (s : Struct) (i : Nat) : Nat := l.f 32 8 + (l.first + i) * s.stride

/-- Bytes of the state region; a region that refuses gives free bytes (log entry 47). -/
def Dev.stateBytes (d : Dev) (m : Mem) (l : Launch) (o n : Nat) : Dev × List Nat × Bool :=
  match d.readRegion m l.stateRegion o n with
  | some (bs, p) => (d, bs, p)
  | none =>
    let (v, d) := d.fresh
    (d, toLE n v, false)

/-- Words of 8 bytes. -/
def words64 (bs : List Nat) : List Nat := (chunks 8 (bs.length / 8) bs).map ofLE

/-- The history of an instance, and whether its header is poisoned. -/
def Dev.readHist (d : Dev) (m : Mem) (l : Launch) (s : Struct) (i : Nat) : Dev × Hist × Bool :=
  let (d, bs, p) := d.stateBytes m l (l.stateOff s i) (64 + 16 * s.n)
  let d := d.noteRegion l.stateRegion (l.stateOff s i) (64 + 16 * s.n)
  let f (o n : Nat) : Nat := ofLE ((bs.drop o).take n)
  let xs := words64 (bs.drop 64)
  (d, ⟨f 0 8, f 8 2, f 10 2, f 12 1, f 13 1 != 0, f 14 1, xs.take s.n, xs.drop s.n⟩, p)

/-- HALTED of an instance, as an adjoint cycle finds it, and whether its header is poisoned (R206). -/
def Dev.readHalted (d : Dev) (m : Mem) (l : Launch) (s : Struct) (i : Nat) : Dev × Bool × Bool :=
  let (d, bs, p) := d.stateBytes m l (l.stateOff s i) 64
  let d := d.noteRegion l.stateRegion (l.stateOff s i) 64
  (d, bs.getD 13 0 != 0, p)

/-- Write a history back. -/
def Dev.writeHist (d : Dev) (l : Launch) (s : Struct) (i : Nat) (h : Hist) : Dev :=
  let head := toLE 8 h.hash ++ toLE 2 h.k1 ++ toLE 2 h.k0 ++ [h.nhist, b2n h.halted, h.misses] ++ List.replicate 49 0
  let bs := head ++ (h.x1 ++ h.x0).flatMap (toLE 8)
  (d.writeRegion l.stateRegion (l.stateOff s i) bs false).getD d

/-- WARM, CLRHALT and the history check at the start of an instance's first cycle of a launch (R203, R206); the flag says
that a warm start was rejected. -/
def Launch.startHist (l : Launch) (s : Struct) (n : Nat) (h : Hist) : Hist × Bool :=
  if n ≠ 0 ∨ l.adjoint then (h, false)
  else
    let cold : Hist := ⟨s.hash, 0, 0, 0, false, 0, List.replicate s.n 0, List.replicate s.n 0⟩
    let warm := l.flag 0
    let h' := if warm && h.hash == s.hash then h else cold
    (if l.flag 2 then { h' with halted := false, misses := 0 } else h', warm && h.hash != s.hash)

/-- A STALE instance's values (R205). -/
def Hist.shifted (h : Hist) (k : Nat) : List Nat :=
  if h.nhist = 0 then h.x1.map (fun _ => 0)
  else if h.nhist = 1 then h.x1
  else
    let dt (a b : Nat) : Nat := rneCode .binary64 (.ofInt (((a + 2 ^ 16 - b) % 2 ^ 16 : Nat) : Int))
    let f := div64 (dt k h.k1) (dt h.k1 h.k0)
    List.zipWith (fun a b => fma64 f (f64 .sub a b) a) h.x1 h.x0

/-- A fresh solution enters the history. -/
def Hist.push (h : Hist) (k : Nat) (x : List Nat) : Hist :=
  { h with x0 := h.x1, k0 := h.k1, x1 := x, k1 := k, nhist := min 2 (h.nhist + 1), misses := 0 }

/-! ### Computing an instance (R194 to R200, R212) -/

/-- What an instance that ends with an error status publishes. -/
def errorResult (s : Struct) (op status : Nat) (poison : Bool) : InstResult :=
  ⟨status, 0, 0, List.replicate s.n Format.binary64.canonNan,
    if op = 3 then List.replicate s.nnza Format.binary64.canonNan else [], poison, []⟩

/-- The index ranges of the value vector that a cycle reads: start and length. -/
def Struct.reads (s : Struct) (op : Nat) : List (Nat × Nat) :=
  match op with
  | 0 => [(0, s.nnza + s.n)]
  | 1 =>
    let outside := (List.range s.n).flatMap (fun j => (s.column j).filterMap (fun (i, e) =>
      if s.perm.getD i 0 < s.nh ∧ s.perm.getD j 0 < s.nh then none else some (e, 1)))
    outside ++ [(s.offB, s.offG - s.offB)]
  | _ => [(s.offG, s.n)]

/-- What reading the kept factor of instance i does at the dies. -/
def Dev.noteFactor (d : Dev) (l : Launch) (s : Struct) (i : Nat) : Dev :=
  let base := l.f 48 8 + l.f 56 2 * l.factStride s
  (d.noteRegion l.factRegion base (64 + roundUp 64 l.count)).noteRegion l.factRegion
    (base + 64 + roundUp 64 l.count + i * s.factBytes) s.factBytes

/-- The kept factor of instance i: r, L by column and x; none where R200 gives none. -/
def Dev.keptFactor (d : Dev) (m : Mem) (l : Launch) (s : Struct) (i : Nat) :
    Option (List Nat × List (List (Nat × Nat)) × List Nat) :=
  let base := l.f 48 8 + l.f 56 2 * l.factStride s
  match d.readRegion m l.factRegion base (64 + roundUp 64 l.count) with
  | none => none
  | some (bs, _) =>
    let f (o n : Nat) : Nat := ofLE ((bs.drop o).take n)
    if f 18 1 = 0 ∨ f 0 8 ≠ s.hash ∨ f 8 2 ≠ l.f 30 2 ∨ f 14 2 ≠ l.first ∨ f 16 2 ≠ l.count ∨ f (64 + i) 1 = 0 then none
    else
      match d.readRegion m l.factRegion (base + 64 + roundUp 64 l.count + i * s.factBytes) s.factBytes with
      | none => none
      | some (data, _) =>
        let ws := words64 data
        let cols := s.symbolic.foldl (fun (acc : List (List (Nat × Nat)) × List Nat) c =>
          (acc.1 ++ [c.zip acc.2], acc.2.drop c.length)) ([], ws.drop s.n)
        some (ws.take s.n, cols.1, cols.2)

/-- Compute one instance; `i` counts from the launch's first. -/
def Dev.compute (d : Dev) (m : Mem) (e : Nat) (c : Cycle) (s : Struct) (i : Nat) : Dev × InstResult × Nat × Nat × Nat :=
  let l := c.launch
  let op := l.op
  let (d, halted, hp) :=
    if l.adjoint then d.readHalted m l s i
    else
      let (d, h, p) := d.readHist m l s i
      (d, (l.startHist s c.n h).1.halted, p)
  let base := l.stateOff s i + 64 + 16 * s.n
  let (d, bs, _) := d.stateBytes m l base (8 * s.nv)
  let v := words64 bs
  let rd := s.reads op
  let poison := hp || rd.any (fun r => match d.readRegion m l.stateRegion (base + 8 * r.1) (8 * r.2) with
    | some (_, p) => p
    | none => false)
  let lines := (rd.flatMap (fun r => (lineSpans (r.2 / 8 + 2) (base + 8 * r.1) (8 * r.2)).map (fun x => x.1 / 64))).eraseDups
  let d := lines.foldl (fun (d : Dev) k => d.noteRegion l.stateRegion (64 * k) 64) d
  let fin := rd.all (fun r => (vals v r.1 r.2).all finite64)
  let err (st : Nat) : InstResult := errorResult s op st false
  if halted then (d, err 2, 0, 0, 0)
  else if c.bad.contains (l.first + i) then (d, err 4, 0, 0, 0)
  else if poison then
    (d.pgErr pSLV e bDE 0x2001 ((l.stateOff s i) / 64) 3 l.si, errorResult s op 5 true, 0, 0, 0)
  else if l.adjoint then
    let kept := d.keptFactor m l s i
    let d := d.noteFactor l s i
    match kept with
    | none => (d, err 6, 0, 0, 0)
    | some (r, lc, x) =>
      let y := solve s r lc (vals v s.offG s.n)
      if !fin || !y.all finite64 then (d, err 3, 0, 0, 0)
      else (d, ⟨0, 0, 0, y, if op = 3 then s.gradient y x else [], false, []⟩, 0, 0, 0)
  else
    let a := if op = 1 then s.dynA v else vals v 0 s.nnza
    let b := if op = 1 then s.dynB v else vals v s.offB s.n
    let f := factor s a (pow2neg c.delta) (pow2neg c.tiny)
    let x := if f.failed then [] else solve s f.r f.l b
    let flags := b2n (f.zero != 0) + 2 * b2n (f.small != 0) + 4 * b2n (f.overs != 0)
    -- the computed H persists in section A
    let d := if op = 1 && fin then (d.writeRegion l.stateRegion base (a.flatMap (toLE 8)) false).getD d else d
    let ok := fin && a.all finite64 && b.all finite64 && !f.failed && x.all finite64 && f.r.all finite64
    let res : InstResult :=
      if ok then ⟨0, flags, 0, x, [], false, if l.flag 4 then f.r ++ f.l.flatMap (fun col => col.map (fun e => e.2)) ++ x else []⟩
      else { err 3 with flags := flags }
    (d, res, f.zero, f.small, f.overs)

/-! ### Publishing a cycle (R204 to R207) -/

/-- What the instances that were not computed become. -/
inductive Rest where
  | stale
  | status (st : Nat)
  deriving DecidableEq, Repr

/-- One instance's publication: its history changes and its result with status, flags and misses. WARM, CLRHALT and the
history check have acted only where the cycle `began` (R203). -/
def Dev.settleInstance (d : Dev) (m : Mem) (e : Nat) (l : Launch) (n misslim : Nat) (s : Struct) (i : Nat)
    (r : Option InstResult) (rest : Rest) (began : Bool) : Dev × InstResult × Bool :=
  let k := l.tag n
  let (d, h0, hp) := d.readHist m l s i
  let (h, rejected) := if began then l.startHist s n h0 else (h0, false)
  let rej := 8 * b2n rejected
  let keep (d : Dev) (h' : Hist) : Dev := if l.adjoint ∨ h' = h0 then d else d.writeHist l s i h'
  match r with
  | some r =>
    if r.status = 0 ∨ r.status = 9 then
      let h' := if l.adjoint then h else h.push k r.x
      (keep d h', { r with flags := r.flags + rej, misses := if l.adjoint then h.misses else 0 }, rejected)
    else (keep d h, { r with flags := r.flags + rej, misses := h.misses }, rejected)
  | none =>
    match rest with
    | .status st =>
      (keep d h, { errorResult s l.op st false with flags := rej, misses := h.misses }, rejected)
    | .stale =>
      if hp then
        ((keep d h).pgErr pSLV e bDE 0x2001 (l.stateOff s i / 64) 3 l.si,
          { errorResult s l.op 5 true with flags := rej, misses := h.misses }, rejected)
      else if h.halted then
        (keep d h, { errorResult s l.op 2 false with flags := rej, misses := h.misses }, rejected)
      else
        let misses := if l.adjoint then h.misses else min 255 (h.misses + 1)
        if !l.adjoint && decide (misslim < h.misses + 1) then
          (keep d { h with misses := misses, halted := true },
            { errorResult s l.op 2 false with flags := rej, misses := misses }, rejected)
        else
          -- the gradient of an unfinished ADJGRAD instance is not stated: free values (log entry 48)
          let (g, d) := if l.op = 3 then d.fresh else (0, d)
          let grad := if l.op = 3 then words64 (toLE (8 * s.nnza) g) else []
          (keep d { h with misses := misses },
            ⟨1, rej + 16 * b2n (h.nhist == 0), misses, h.shifted k, grad, false, []⟩, rejected)

/-- The status word (Table 7-11). -/
def InstResult.word (r : InstResult) : Nat := r.status % 256 + r.flags % 32 * 2 ^ 8 + r.misses % 256 * 2 ^ 16

/-- Write a list of binary64 values of one instance. -/
def Dev.publishValues (d : Dev) (l : Launch) (o : Nat) (xs : List Nat) (poison : Bool) : Dev :=
  if xs.isEmpty then d
  else (d.writeRegion l.outRegion o ((xs.map publish64).flatMap (toLE 8)) poison).getD d

/-- The factor-ring slot of a cycle (R199): header, validity, factors, and VALID last. -/
def Dev.keepFactors (d : Dev) (l : Launch) (n : Nat) (s : Struct) (rs : List InstResult) : Option Dev :=
  let base := l.f 48 8 + l.f 56 2 * l.factStride s
  let head (v : Nat) : List Nat :=
    toLE 8 s.hash ++ toLE 2 (l.tag n) ++ toLE 4 s.n ++ toLE 2 l.first ++ toLE 2 l.count ++ [v] ++ List.replicate 45 0
  let valid := rs.map (fun r => b2n (!r.kept.isEmpty))
  let pad := List.replicate (roundUp 64 l.count - l.count) 0
  match d.writeRegion l.factRegion base (head 0 ++ valid ++ pad) false with
  | none => none
  | some d =>
    let d := rs.zipIdx.foldl (fun (d : Dev) (r, i) =>
      if r.kept.isEmpty then d
      else (d.writeRegion l.factRegion (base + 64 + roundUp 64 l.count + i * s.factBytes) (r.kept.flatMap (toLE 8)) false).getD d) d
    d.writeRegion l.factRegion base (head 1) false

/-- Every instance of a cycle, settled in order. -/
def Dev.settleAll (d : Dev) (m : Mem) (e : Nat) (l : Launch) (n misslim : Nat) (s : Struct) (done : List InstResult)
    (rest : Rest) (began : Bool) : Dev × List InstResult × Bool :=
  (List.range l.count).foldl (fun (acc : Dev × List InstResult × Bool) i =>
    let (d, r, rej) := acc.1.settleInstance m e l n misslim s i done[i]? rest began
    (d, acc.2.1 ++ [r], acc.2.2 || rej)) (d, [], false)

/-- The seal states of an engine once a cycle of a slot has ended: that of its own tag goes. -/
def Solver.dropSeal (x : Solver) (slot tag : Nat) : SMap SealState :=
  if (SMap.find slot x.seals).any (fun z => z.tag == tag) then SMap.remove slot x.seals else x.seals

/-- Publish cycle n of a launch: `done` are the completed instances, `rest` what the others become, and `began` says that
it ran, or came to its deadline in SOFT mode. -/
def Dev.publishCycle (d : Dev) (m : Mem) (e : Nat) (l : Launch) (n misslim : Nat) (s : Struct) (done : List InstResult)
    (rest : Rest) (began : Bool) (rstat : Nat) (sealLate : Bool) (piv : Nat × Nat × Nat) : Dev :=
  let (d, rs, rejected) := d.settleAll m e l n misslim s done rest began
  let count (p : Nat → Bool) : Nat := (rs.filter (fun r => p r.status)).length
  let (d, kept) := if l.flag 4 && !l.adjoint then
      match d.keepFactors l n s rs with
      | some d => (d, true)
      | none => (d, false)
    else (d, false)
  let stride := l.outStride s
  let o := l.f 40 8 + n * stride
  let statuses := rs.flatMap (fun r => toLE 4 r.word)
  let status := statuses ++ List.replicate (l.solOff - 64 - statuses.length) 0
  let d := (d.writeRegion l.outRegion (o + 64) status false).getD d
  let d := rs.zipIdx.foldl (fun (d : Dev) (r, i) =>
    let d := d.publishValues l (o + l.solOff + 8 * s.n * i) r.x r.poison
    d.publishValues l (o + l.gradOff s.n + 8 * s.nnza * i) r.grad r.poison) d
  let nfresh := count (fun x => x == 0 || x == 9)
  let nstale := count (fun x => x == 1)
  let nhalt := count (fun x => x == 2)
  let sum : CycleSum := {
    nfresh := nfresh, nstale := nstale, nhalt := nhalt, nerr := rs.length - nfresh - nstale - nhalt
    zpiv := piv.1, spiv := piv.2.1, opiv := piv.2.2
    flags := b2n rejected + 2 * b2n sealLate + 4 * b2n l.replay + 8 * b2n kept }
  let d := d.fcount slvCyccntCount e 1
  let d := d.fcount slvMisscntCount e (nstale + nhalt)
  let d := (d.fcount slvPivcntZero e piv.1).fcount slvPivcntSmall e piv.2.1
  let d := (d.fcount slvPivcnt2Overflow e piv.2.2).fcount slvPivcnt2Nonfinite e (count (fun x => x == 3))
  let x := d.solver e
  let halted := decide (0 < nhalt)
  let d := d.setSolver e { x with
    halt := if halted then (if x.halt.contains l.slot then x.halt else l.slot :: x.halt) else x.halt.filter (fun h => h != l.slot)
    seals := x.dropSeal l.slot (l.tag n) }
  d.publishRecord l n stride s.hash rstat sum

/-- The structure of a launch that the engine has queued. -/
def Dev.launchStruct (d : Dev) (e : Nat) (l : Launch) : Option Struct := ((d.solver e).slot l.slot).struct

/-- `cc` more core-clock cycles with a cycle running (R213). -/
def Dev.countRun (d : Dev) (e cc : Nat) : Dev :=
  let n := (d.solver e).busyCc + cc
  (d.setSolver e { d.solver e with busyCc := n }).busy slvBusyCount e (n - cc) n

/-- The running cycle publishes what it has. -/
def Dev.endRun (d : Dev) (m : Mem) (e : Nat) (rest : Rest) (rstat : Nat) : Dev :=
  match (d.solver e).run with
  | none => d
  | some c =>
    match d.launchStruct e c.launch with
    | none => d.setSolver e { d.solver e with run := none }
    | some s =>
      (d.setSolver e { d.solver e with run := none }).publishCycle m e c.launch c.n c.misslim s c.results rest true rstat false
        (c.zpiv, c.spiv, c.opiv)

/-- The running cycle is cut short; how long it ran since its last lane group is free (log entry 114). -/
def Dev.cutRun (d : Dev) (m : Mem) (e : Nat) (rest : Rest) (rstat : Nat) : Dev :=
  if (d.solver e).run.isNone then d
  else
    let (cc, d) := d.fresh
    (d.countRun e cc).endRun m e rest rstat

/-! ### Delta packets (R190 to R192) -/

/-- DELTA_PACKET: the oldest packet on its way to engine `e` enters the queue, unless the queue is full. -/
def Dev.deltaPacket (d : Dev) (e : Nat) : Dev :=
  match d.deltasSent.find? (fun p => p.engine == e) with
  | none => d
  | some p =>
    let x := d.solver e
    if 131072 ≤ x.deltas.length then d
    else
      let d := d.setSolver e { x with deltas := x.deltas ++ [p.packet] }
      let d := { d with deltasSent := d.deltasSent.erase p }
      d.onTile p.tile (fun t => match SMap.find p.tag t.store.dmas with
        | some q => { t with store := { t.store with dmas := SMap.insert p.tag { q with left := q.left - 1 } t.store.dmas } }
        | none => t)

/-- The next cycle of a slot to start, where no earlier one runs. -/
def Solver.nextOf (x : Solver) (slot : Nat) : Option (Launch × Nat) :=
  if x.run.any (fun c => c.launch.slot == slot) then none else x.queue.find? (fun q => q.1.slot == slot)

/-- The packet may be applied: the next cycle of its slot has its tag. -/
def Solver.applies (x : Solver) (p : Delta) : Bool := (x.nextOf p.slot).any (fun q => q.1.tag q.2 == p.tag)

/-- The seal state of a slot for tag k. -/
def Solver.sealState (x : Solver) (slot k : Nat) : SealState :=
  match SMap.find slot x.seals with
  | some s => if s.tag = k then s else ⟨k, [], none, []⟩
  | none => ⟨k, [], none, []⟩

/-- The seal is complete: it has come, and the counted packets have all been taken. -/
def SealState.full (z : SealState) : Bool := z.total.any (fun t => decide (t ≤ z.taken.length))

/-- A packet leaves the queue and its seal state changes. -/
def Dev.putSeal (d : Dev) (e : Nat) (p : Delta) (z : SealState) : Dev :=
  d.setSolver e { d.solver e with deltas := (d.solver e).deltas.erase p, seals := SMap.insert p.slot z (d.solver e).seals }

/-- A seal with its count: packets already taken beyond it are surplus, and count as rejected unless they did already. -/
def Dev.takeSeal (d : Dev) (e : Nat) (p : Delta) (z : SealState) (inRegion : Nat → Bool) (nv : Nat) : Dev :=
  if z.total.isSome then (d.putSeal e p z).fcount slvDeltaerrDiscarded e 1
  else
    let total := p.value % 2 ^ 32
    let surplus := (z.taken.drop total).filter (fun t => inRegion t.1)
    (d.putSeal e p { z with total := some total, bad := z.bad ++ surplus.map (fun t => t.1) }).fcount slvDeltaerrBadpkt e
      (surplus.filter (fun t => decide (t.2 < nv))).length

/-- A packet of the next cycle of its slot is taken (R191, R192). A surplus packet is written as any other is, so that what
the entry holds does not hang on the order of arrival (DEDUCED, log entry 116). -/
def Dev.takeDelta (d : Dev) (e : Nat) (l : Launch) (s : Struct) (p : Delta) : Dev :=
  let z := (d.solver e).sealState p.slot p.tag
  let inRegion (i : Nat) : Bool := decide (i < 4096) && d.regionHolds l.stateRegion (l.f 32 8 + (i + 1) * s.stride)
  match p.index with
  | none => d.takeSeal e p z inRegion s.nv
  | some idx =>
    let good := inRegion p.inst && decide (idx < s.nv)
    let twice := z.taken.contains (p.inst, idx)
    let v := if twice then Format.binary64.canonNan else p.value
    let o := l.f 32 8 + p.inst * s.stride + 64 + 16 * s.n + 8 * idx
    let d := if good then (d.writeRegion l.stateRegion o (toLE 8 v) p.poison).getD d else d
    let d := if z.full || !good then d.fcount slvDeltaerrBadpkt e 1 else d
    d.putSeal e p { z with
      taken := z.taken ++ [(p.inst, idx)]
      bad := if inRegion p.inst && (z.full || !good || twice) then p.inst :: z.bad else z.bad }

/-- A single-bit error in the structure store is corrected and counted (R212). No event code names it (Table 16-5), so it
raises no record and no capture (DESIGN CHOICE, log entry 114). -/
def Dev.storeCe (d : Dev) (e ces : Nat) : Dev :=
  if ces = 0 then d
  else
    let u := d.unit pSLV e
    let d' := d.setUnit pSLV e { u with err := u.err ||| bCE, ceCnt := satAdd 0xFFFF u.ceCnt ces }
    if bit u.mask 0 || bit u.err 0 then d' else d'.errorSignal false

/-- DELTA_APPLY: the oldest packet that may be applied is, with `ces` single-bit errors met in the queue. -/
def Dev.deltaApply (d : Dev) (e ces : Nat) : Dev :=
  let x := d.solver e
  match x.deltas.find? x.applies with
  | none => d
  | some p =>
    match x.nextOf p.slot, (x.slot p.slot).struct with
    | some (l, _), some s => (d.storeCe e ces).takeDelta e l s p
    | _, _ => d

/-- The seal of a cycle is complete. -/
def Solver.sealed (x : Solver) (slot tag : Nat) : Bool := (x.sealState slot tag).full

/-! ### Cycles (R202 to R204) -/

/-- The queue once a cycle of its entry `i` has started or ended: the entry's next cycle, or nothing. -/
def Solver.advance (x : Solver) (i : Nat) : Solver :=
  match x.queue[i]? with
  | some (l, n) => { x with queue := if n < l.rpt then x.queue.set i (l, n + 1) else x.queue.eraseIdx i }
  | none => x

/-- CYCLE_START: the head of the queue starts, on or after its start mark, once its seal is complete, before its deadline
unless it replays. Queued packets of its own tag are surplus; those of earlier tags are discarded, whatever their slot
(R191: every queued packet). -/
def Dev.cycleStart (d : Dev) (e : Nat) : Dev :=
  let x := d.solver e
  match x.queue with
  | [] => d
  | (l, n) :: _ =>
    let k := l.tag n
    let now := d.cad.mark
    let late := reached now (l.deadline n)
    let ready := d.sheetsRun && d.active pSLV e && x.run.isNone && x.loading.isNone && reached now (l.startMark n) && x.sealed l.slot k
      && (!late || (l.replay && l.goal != 0))
    if !ready then d
    else
      let d := match (x.slot l.slot).struct with
        | some s => (x.deltas.filter (fun (p : Delta) => p.slot == l.slot && p.tag == k)).foldl (fun (d : Dev) p => d.takeDelta e l s p) d
        | none => d
      let x := d.solver e
      let old (p : Delta) : Bool :=
        let t := (k + 2 ^ 16 - p.tag % 2 ^ 16) % 2 ^ 16
        decide (1 ≤ t) && decide (t ≤ 32767)
      let gone := (x.deltas.filter old).length
      let c : Cycle := ⟨l, n, d.fget slvRegDelta e, d.fget slvRegTiny e, d.fget slvCycMisslim e,
        (x.sealState l.slot k).bad, [], 0, 0, 0⟩
      let x := { x.advance 0 with run := some c, deltas := x.deltas.filter (fun p => !old p), seals := SMap.remove l.slot x.seals }
      (d.setSolver e x).fcount slvDeltaerrDiscarded e gone

/-- Has a mark been passed: is the count beyond it? -/
def beyond (now mark : Nat) : Bool := reached now ((mark + 1) % 2 ^ 48)

/-- LANE_GROUP_COMPLETE: the next group of 16 instances of the running cycle completes (R182, R204); the last one
publishes the cycle. The group took `cc` core-clock cycles and met `ces` single-bit errors of the structure store. -/
def Dev.laneGroup (d : Dev) (m : Mem) (e cc ces : Nat) : Dev :=
  match (d.solver e).run with
  | none => d
  | some c =>
    let l := c.launch
    let late := beyond d.cad.mark (l.deadline c.n)
    match d.launchStruct e l with
    | none => d
    | some s =>
      if !d.sheetsRun || (late && !l.strict && !l.replay) then d
      else
        let d := (d.countRun e cc).storeCe e ces
        let from_ := c.results.length
        let upto := min l.goal (16 * (from_ / 16 + 1))
        let (d, c) := ((List.range (upto - from_)).map (· + from_)).foldl (fun (acc : Dev × Cycle) i =>
          let (d, r, z, sm, ov) := acc.1.compute m e c s i
          let r := if r.status = 0 ∧ late ∧ l.strict ∧ !l.replay then { r with status := 9 } else r
          (d, { acc.2 with
            results := acc.2.results ++ [r], zpiv := acc.2.zpiv + z, spiv := acc.2.spiv + sm, opiv := acc.2.opiv + ov }))
          (d, c)
        let d := d.setSolver e { d.solver e with run := some c }
        if c.results.length < l.goal then d else d.endRun m e .stale 0

/-- DEADLINE_MARK: the running cycle's deadline, or that of the first queued cycle that has passed its own (R202, R204). -/
def Dev.deadlineMark (d : Dev) (m : Mem) (e : Nat) : Dev :=
  let x := d.solver e
  let now := d.cad.mark
  let runDue := x.run.any (fun c => reached now (c.launch.deadline c.n) && !c.launch.strict && !c.launch.replay)
  if runDue then d.cutRun m e .stale 0
  else
    let due (q : Launch × Nat) : Bool := reached now (q.1.deadline q.2) && !(q.1.replay && q.1.goal != 0)
    match x.queue.findIdx? due with
    | none => d
    | some i =>
      match x.queue[i]? with
      | none => d
      | some (l, n) =>
        let misslim := d.fget slvCycMisslim e
        let tagLate := !x.sealed l.slot (l.tag n)
        let d' := d.setSolver e (x.advance i)
        match d.launchStruct e l with
        | none => d'
        | some s =>
          if l.strict && !l.replay then d'.publishCycle m e l n misslim s [] (.status 8) false 4 true (0, 0, 0)
          else d'.publishCycle m e l n misslim s [] .stale true 0 (tagLate || !l.replay) (0, 0, 0)

/-! ### Disable and faults (R210, R212) -/

/-- Every remaining cycle of the queued launches publishes ABORTED_BY_DISABLE. -/
def Dev.abortQueued (d : Dev) (m : Mem) (e : Nat) : Dev :=
  let q := (d.solver e).queue
  let d := d.setSolver e { d.solver e with queue := [] }
  q.foldl (fun (d : Dev) (l, n) =>
    match d.launchStruct e l with
    | none => d
    | some s => ((List.range (l.rpt + 1 - n)).map (· + n)).foldl (fun (d : Dev) k =>
        d.publishCycle m e l k (d.fget slvCycMisslim e) s [] (.status 7) false 6 false (0, 0, 0)) d) d

/-- A load in progress on an engine that leaves ACTIVE ends with UNIT_DISABLED (DEDUCED, log entry 44). -/
def Dev.abortLoad (d : Dev) (e : Nat) : Dev :=
  let x := d.solver e
  match x.loading with
  | none => d
  | some c =>
    let slot := x.loadSlot
    let old : SlotState := match (x.slot slot).struct with
      | some t => .resident t
      | none => .empty
    ((d.setSolver e ({ x with loading := none }.setSlot slot old)).loadStat e slot 8).complete c 5 8 0

/-- DISABLE_REQ reaches an engine: queued cycles are discarded (R210). -/
def Dev.solverDrain (d : Dev) (m : Mem) (e : Nat) : Dev := (d.abortLoad e).abortQueued m e

/-- The bound or FORCE_STOP ends the running cycle (R210). -/
def Dev.solverStop (d : Dev) (m : Mem) (e : Nat) : Dev := (d.solverDrain m e).cutRun m e (.status 7) 6

/-- A UCC of an engine: the running cycle ends, queued ones are aborted, and the slots become EMPTY (R212). -/
def Dev.solverFault (d : Dev) (m : Mem) (e : Nat) : Dev :=
  let d := (d.cutRun m e (.status 10) 7).solverDrain m e
  d.setSolver e { d.solver e with slots := [], seals := [], deltas := [], halt := [] }

/-! ### Moving instances (R281) -/

/-- The instances of an engine, ascending. -/
def Placement.onEngine (pl : Placement) (e : Nat) : List Nat := (pl.smap.filter (fun x => x.2.1 == e)).map (fun x => x.1)

/-- Move one instance: a slot elsewhere, its image reloaded, and the report. A reload that fails is REMAP_FAILED, as one whose
image cannot be read is (R281; DEDUCED, log entry 115). -/
def Dev.moveInstance (d : Dev) (m : Mem) (pl : Placement) (i : Nat) : Dev :=
  let from_ := (SMap.find i pl.smap).map (fun x => x.1)
  let others := { pl with smap := SMap.remove i pl.smap }
  let give (d : Dev) (p : Placement) : Dev := { d with deckle := { d.deckle with placement := some p } }
  let fail (d : Dev) : Dev :=
    (({ give d others with deckle := { (give d others).deckle with remapFailed := true } }).deckleReport 0x11 (0x100 + i) true).checkDegraded
  match d.placeInstance pl.man pl.tmap pl.order others.smap (pl.man.solv.getD i 0xFF) from_ with
  | none => fail d
  | some (e, s) =>
    let moved := { pl with smap := SMap.insert i (e, s) pl.smap }
    let (d', ok) := match SMap.find i pl.images with
      | none => (d, true)
      | some (h, o) =>
        let (d, st) := d.loadImage m e s h o
        (d, st == some 0)
    if ok then ((give d' moved).fcount dklRemapcntSolvers 0 1 |>.fwrap dklPlgenGen 0).deckleReport 0x10 (0x100 + i) true
    else fail d

/-- SOLVER_REMAP: the next instance of a disabled engine moves. -/
def Dev.solverRemap (d : Dev) (m : Mem) : Dev :=
  match d.deckle.placement with
  | none => d
  | some pl =>
    match d.deckle.solverRemap with
    | i :: rest => { d with deckle := { d.deckle with solverRemap := rest } }.moveInstance m pl i
    | [] =>
      if d.deckle.remap.isSome then d
      else match d.takeRemap DkEvent.isEngine with
        | some (.engine e, d) =>
          match pl.onEngine e with
          | i :: rest => { d with deckle := { d.deckle with solverRemap := rest } }.moveInstance m pl i
          | [] => d
        | _ => d

end Sys2Proof.Machine
end

