-- ==== Sys2Proof/Machine/Governor.lean ====
section
/-! DEFINITION. Machine/Governor.lean: the Cadence generator's marks (chapter 8), firing of launch entries, and the ramp
governor with the power cap (chapter 18). -/

namespace Sys2Proof.Machine

/-! ### Loads and admission (R467 to R469) -/

/-- The weight of a unit's work from PWR.WEIGHT. -/
def Dev.loadWeight (d : Dev) : Load → Nat
  | .array _ => d.fget pwrWeightArray 0
  | .dma _ => d.fget pwrWeightDma 0
  | .slv _ => d.fget pwrWeightSlv 0

/-- The unit is loaded. -/
def Dev.loaded (d : Dev) (l : Load) : Bool := d.pwr.held.any (fun h => h.1 == l)

/-- The unit becomes loaded with a weight. -/
def Dev.hold (d : Dev) (l : Load) (w : Nat) : Dev := { d with pwr := { d.pwr with held := d.pwr.held ++ [(l, w)] } }

/-- Set the ballast. -/
def Dev.setBallast (d : Dev) (w : Nat) : Dev := (d.fset pwrBallastWatts 0 w).fset pwrStatBallast 0 (b2n (w != 0))

/-- Work for a unit may start without admission: it is loaded, or ballast gives its weight back. -/
def Dev.startsFree (d : Dev) (l : Load) : Bool := d.loaded l || decide (d.loadWeight l ≤ d.fget pwrBallastWatts 0)

/-- Start such work. -/
def Dev.startFree (d : Dev) (l : Load) : Dev :=
  if d.loaded l then d
  else
    let w := d.loadWeight l
    (d.setBallast (d.fget pwrBallastWatts 0 - w)).hold l w

/-- The governor admits at all (R465, R470). -/
def Dev.admits (d : Dev) : Bool :=
  !d.pwr.holding && !d.pwr.failing && !d.pwr.gated && !(d.fbit pwrStatFloor 0 && d.pwr.lastMeanHigh)

/-- A candidate is admitted now: UPW of the mark and the credit cover it. -/
def Dev.covers (d : Dev) (l : Load) : Bool :=
  let w := d.loadWeight l
  d.admits && (decide (d.pwr.used + w ≤ d.fget pwrStepUpw 0) || d.pwr.used == 0) && decide (w * 1000000 ≤ d.pwr.credit)

/-- Admit it. -/
def Dev.admitLoad (d : Dev) (l : Load) : Dev :=
  let w := d.loadWeight l
  { d with pwr := { d.pwr with used := d.pwr.used + w, credit := d.pwr.credit - w * 1000000 } }.hold l w

/-- A candidate for admission: the mark on which it fired, as the number of marks given by then, its tile, its entry (none for directly issued work), and the
unit it loads (none where it loads nothing). -/
structure Candidate where
  mark : Nat
  tile : Nat
  entry : Option Nat
  load : Option Load
  deriving DecidableEq, Repr

/-- The unit that a payload of tile `p` loads. A launch for an instance without an engine loads nothing. -/
def Dev.payloadLoad (d : Dev) (p : Nat) : Payload → Option Load
  | .dma _ => some (.dma p)
  | .mma _ => some (.array p)
  | .slv b => (d.engineOf (b.headD 0 % 32)).map (fun x => .slv x.1)

/-- The waiting candidates of a tile's entries. -/
def Dev.firedOf (d : Dev) (p : Nat) (t : Tile) : List Candidate :=
  (List.range 4).filterMap (fun i => match t.entry i with
    | .fired x mark => some ⟨mark, p, some i, d.payloadLoad p x⟩
    | _ => none)

/-- Marks given since a candidate fired. -/
def Dev.marksSince (d : Dev) (tick : Nat) : Nat := d.cad.ticks - tick

/-- Every candidate in the governor's order: the longest waiting mark first, then tile, then entry; directly issued work
of a tile comes before its entries. -/
def Dev.candidates (d : Dev) : List Candidate :=
  let direct := d.pwr.direct.map (fun x => (⟨x.1, match x.2 with
      | .array t => t
      | .dma t => t
      | .slv e => e, none, some x.2⟩ : Candidate))
  let all := direct ++ d.tiles.flatMap (fun e => d.firedOf e.1 e.2)
  let before (a b : Candidate) : Bool :=
    let x := d.marksSince a.mark
    let y := d.marksSince b.mark
    let k (e : Option Nat) : Nat := (e.map (· + 1)).getD 0
    decide (y < x) || (x == y && (decide (a.tile < b.tile) || (a.tile == b.tile && decide (k a.entry ≤ k b.entry))))
  -- insertion keeps the order of equal candidates
  all.foldl (fun (l : List Candidate) c => l.takeWhile (fun x => before x c) ++ [c] ++ l.dropWhile (fun x => before x c)) []

/-- A DMA starts: its tag is in flight and it counts among the accesses issued so far (R69, R221). -/
def Tile.startDma (t : Tile) (q : Dma) : Tile :=
  { t with store := { t.store with
      dmas := SMap.insert q.tag { q with seq := t.store.seq } t.store.dmas
      tagState := SMap.put 0 q.tag 1 t.store.tagState
      seq := t.store.seq + 1 } }

/-- An entry's work starts, `late` marks after it fired. -/
def Dev.startEntry (d : Dev) (p i late : Nat) : Dev :=
  let t := d.tile p
  match t.entry i with
  | .fired x _ =>
    let t := t.setEntry i .empty
    let t := { t with core := { t.core with lastDelay := min 0xFFFF late } }
    match x with
    | .dma q => d.setTile p (t.startDma q)
    | .mma o => d.setTile p (t.mxFire o)
    | .slv b =>
      let l : Launch := ⟨b, 0, p, t.store.openStep, d.cad.mark⟩
      { d.setTile p t with launches := d.launches ++ [l] }
  | _ => d

/-- A candidate's work starts. -/
def Dev.startCandidate (d : Dev) (c : Candidate) : Dev :=
  let late := d.marksSince c.mark
  match c.entry with
  | some i => d.startEntry c.tile i late
  | none => { d with pwr := { d.pwr with direct := d.pwr.direct.filter (fun x => some x.2 != c.load) } }

/-- The governor goes through the candidates in order (R468): work for a loaded unit, or that ballast covers, starts
without admission; the others are admitted until one is not. No entry starts ahead of a lower-numbered entry of its tile
that fired on the same mark (R233). -/
def Dev.admitWaiting (d : Dev) : Dev :=
  (d.candidates.foldl (fun (st : Dev × Bool × List (Nat × Nat)) c =>
    let (d, stopped, waiting) := st
    if c.entry.isSome && waiting.contains (c.tile, c.mark) then st
    else
      match c.load with
      | none => (d.startCandidate c, stopped, waiting)
      | some l =>
        if d.startsFree l then ((d.startFree l).startCandidate c, stopped, waiting)
        else if !stopped && d.covers l then ((d.admitLoad l).startCandidate c, stopped, waiting)
        else (d, true, (c.tile, c.mark) :: waiting)) (d, false, [])).1

/-- LAUNCH_ENTRY_FIRE: every armed entry whose mark the units have reached fires, and passes to the governor (R78,
R233). -/
def Dev.launchEntryFire (d : Dev) : Dev :=
  let fire (t : Tile) : Tile := (List.range 4).foldl (fun (t : Tile) i => match t.entry i with
    | .armed x mark => if reached d.cad.mark mark then t.setEntry i (.fired x d.cad.ticks) else t
    | _ => t) t
  let d := (d.tiles.map (fun e => e.1)).foldl (fun (d : Dev) p => d.onTile p fire) d
  d.admitWaiting

/-- Directly issued work of a unit asks the governor (R468): it counts as fired on the last mark. -/
def Dev.askDirect (d : Dev) (l : Load) : Dev :=
  if d.startsFree l then d.startFree l
  else
    let d := if d.pwr.direct.any (fun x => x.2 == l) then d
      else { d with pwr := { d.pwr with direct := d.pwr.direct ++ [(d.cad.ticks, l)] } }
    d.admitWaiting

/-- The unit has no work (R467). -/
def Dev.loadIdle (d : Dev) : Load → Bool
  | .array p =>
    let x := (d.tile p).mx
    x.array.isNone && x.tail.isEmpty && (x.queue ++ x.waitEntry).all (fun o => !o.usesArray)
  | .dma p => (d.tile p).store.dmas.isEmpty
  | .slv e =>
    let x := d.solver e
    x.run.isNone && x.queue.isEmpty && x.loading.isNone

/-- A unit's weight passes to ballast (R469). -/
def Dev.release (d : Dev) (l : Load) : Dev :=
  match d.pwr.held.find? (fun h => h.1 == l) with
  | none => d
  | some (_, w) =>
    { d.setBallast (d.fget pwrBallastWatts 0 + w) with
      pwr := { (d.setBallast (d.fget pwrBallastWatts 0 + w)).pwr with held := d.pwr.held.filter (fun h => h.1 != l) } }

/-- The load of a number: arrays of tiles, then DMA engines, then solver engines. -/
def loadOf (kind n : Nat) : Load :=
  match kind with
  | 0 => .array n
  | 1 => .dma n
  | _ => .slv n

/-- UNIT_IDLE: a unit has been without work for 64 cc. A directly issued bundle's candidate for it holds it loaded. -/
def Dev.unitIdle (d : Dev) (kind n : Nat) : Dev :=
  let l := loadOf kind n
  if d.loadIdle l then d.release l else d

/-! ### Marks (R230 to R235) -/

/-- Credit grown in `ns` nanoseconds at an input of `mv`, and the credit's cap, in microwatts. -/
def creditGrowth (mv ns : Nat) : Nat := 25 * mv * ns
def creditCap (mv : Nat) : Nat := 25 * mv * 1000

/-- Ballast decay in `ns` nanoseconds (R469), once per mark or interval (DESIGN CHOICE, log entry 68). -/
def Dev.decay (d : Dev) (ns : Nat) : Nat := min (d.fget pwrStepDnw 0) (8 * 30 * d.pwr.vin * ns / 10000000)

/-- An admission interval of `ns` nanoseconds: credit, ballast and a new budget. -/
def Dev.interval (d : Dev) (ns : Nat) : Dev :=
  let vin := (d.sensor 0x51).value
  let credit := d.pwr.credit + creditGrowth d.pwr.vin ns
  let d := { d with pwr := { d.pwr with vin := vin, used := 0, credit := min (creditCap vin) credit } }
  (d.setBallast (d.fget pwrBallastWatts 0 - d.decay ns)).admitWaiting

/-- Candidates that a mark has just deferred for the first time (PWR.DEFERCNT). -/
def Dev.newlyDeferred (d : Dev) : Nat := (d.candidates.filter (fun c => d.marksSince c.mark == 1)).length

/-- CADENCE_MARK: the count rises, a pending period takes effect, waiting candidates count as deferred, and the governor
admits. -/
def Dev.cadenceMark (d : Dev) : Dev :=
  if !d.fbit cadCtlRun 0 || !d.pwr.on then d
  else
    let n := (d.cad.count + 1) % 2 ^ 48
    let elapsed := d.cad.period
    let d := { d with cad := { d.cad with count := n, mark := n, period := d.fget cadPeriodNs 0, ticks := d.cad.ticks + 1 } }
    ((d.fset cadStatPerpend 0 0).fcount pwrDefercntCount 0 d.newlyDeferred).interval elapsed

/-- ADMISSION_INTERVAL: 2 µs have passed without marks (R468). -/
def Dev.admissionInterval (d : Dev) : Dev := if d.fbit cadCtlRun 0 then d else d.interval 2000

/-- CAD.CTL written (R234): RUN first, then LOAD where RUN is 0. -/
def Dev.cadCtl (d : Dev) (v : Nat) : Dev :=
  let run := bit v 0
  let d := (d.fset cadCtlRun 0 (b2n run)).fset cadStatRunning 0 (b2n run)
  if bit v 1 && !run then
    { d with cad := { d.cad with count := d.fget cadCountsetLoSetLo 0 + d.fget cadCountsetHiSetHi 0 * 2 ^ 32 } }
  else d

/-- CAD.PERIOD written: in force from the next mark while the generator runs, else at once. -/
def Dev.cadPeriod (d : Dev) (v : Nat) : Dev :=
  let d := d.fset cadPeriodNs 0 (cadPeriodNs.stored v)
  if d.fbit cadCtlRun 0 then d.fset cadStatPerpend 0 1
  else { d with cad := { d.cad with period := d.fget cadPeriodNs 0 } }

/-! ### The power cap (R463, R470) -/

/-- PWR.CAP or PWR.VSET written: in force from the next window. -/
def Dev.capWrite (d : Dev) (f : Field) (v : Nat) : Dev :=
  let d := d.fset f 0 (f.stored v)
  { d with pwr := { d.pwr with capPending := true } }

/-- Every setpoint is at the floor. -/
def Pwr.atFloor (p : Pwr) : Bool := p.setpoints.all (fun v => v == 650)

/-- A window's new cap and VMAX take effect and start a settling interval. -/
def Dev.takeCap (d : Dev) : Dev :=
  if !d.pwr.capPending then d
  else
    let vmax := d.fget pwrVsetVmaxMv 0
    ({ d with pwr := { d.pwr with
        capPending := false, capInForce := d.fget pwrCapWatts 0, vmaxInForce := vmax
        setpoints := d.pwr.setpoints.map (fun v => min v vmax) } }).fset pwrStatSettling 0 1

/-- Lower every setpoint. -/
def Pwr.lower (p : Pwr) (mv : Nat) : Pwr := { p with setpoints := p.setpoints.map (fun v => max 650 (v - mv)) }

/-- CAP_WINDOW: 1 ms has passed with a mean of `mean` tenths of a watt. -/
def Dev.capWindow (d : Dev) (mean : Nat) : Dev :=
  if !d.pwr.on || d.pwr.failing then d
  else
    let d := d.takeCap
    let cap := d.pwr.capInForce
    let floored := d.pwr.atFloor
    let duty := d.fget pwrGateDuty 0
    let high := decide (cap * 10 < mean)
    let d :=
      if cap * 21 < mean * 2 then
        let d := { d with pwr := { d.pwr.lower 25 with holding := true } }
        let d := (d.fset pwrStatCapped 0 1).fset pwrStatSettling 0 1
        if floored then d.fset pwrGateDuty 0 (min 15 (duty + 1)) else d
      else if high then { d with pwr := d.pwr.lower 5 }.fset pwrStatCapped 0 1
      else
        let d := { d with pwr := { d.pwr with holding := false } }.fset pwrStatSettling 0 0
        if mean * 10 < cap * 97 then
          let d := if duty ≠ 0 then d.fset pwrGateDuty 0 (duty - 1)
            else { d with pwr := { d.pwr with setpoints := d.pwr.setpoints.map (fun v => min d.pwr.vmaxInForce (v + 5)) } }
          let d := d.fset pwrStatFloor 0 0
          if d.fget pwrGateDuty 0 = 0 ∧ d.pwr.setpoints.all (fun v => v == d.pwr.vmaxInForce) then d.fset pwrStatCapped 0 0 else d
        else d
    let windows : Nat := if high && floored then d.pwr.floorWindows + 1 else 0
    let d := { d with pwr := { d.pwr with floorWindows := windows, lastMeanHigh := high } }
    let d := if 10 ≤ windows then d.fset pwrStatFloor 0 1 else d
    if d.fbit pwrStatCapped 0 then d.fcount pwrCaptimeMs 0 1 else d

/-- DUTY_HOLD: a hold of PWR.GATE.DUTY µs in the current 16 µs begins or ends (R470). -/
def Dev.dutyHold (d : Dev) (begins : Bool) : Dev :=
  { d with pwr := { d.pwr with dutyHold := begins && decide (0 < d.fget pwrGateDuty 0) } }

end Sys2Proof.Machine
end

