-- ==== Sys2Proof/Machine/Units.lean ====
section
/-! DEFINITION. Machine/Units.lean: unit states, the drain, faults of units and of the device, and Felt links (chapters 1,
2 and 16). -/

namespace Sys2Proof.Machine

/-! ### Stopping a tile (R86, R88, R140, R147, R178) -/

/-- A stalled bundle is abandoned: the operation leaves no effect (R74). -/
def Tile.abandon (t : Tile) : Tile :=
  { t with
    core := { t.core with stallWhy := 0, stallSeq := 0, stallMark := 0, stallStatus := none, eretWait := false }
    store := { t.store with commit := .none } }

/-- Work issued directly and still waiting for the governor goes with its bundle. -/
def Dev.dropDirect (d : Dev) (p : Nat) : Dev :=
  { d with pwr := { d.pwr with direct := d.pwr.direct.filter (fun x => x.2 != .array p && x.2 != .dma p) } }

/-- A participant that stops with its step open spoils it (cause TILE_HALT, Table 11-5). -/
def Dev.tileHalted (d : Dev) (m : Mem) (p : Nat) : Dev :=
  if d.tileParticipates p && ((d.tile p).store.openStep.isSome) then
    (d.spoilCause m 0x08 ((d.logicalOf p).getD 0)).settled m
  else d

/-- A DMA of a tile ends without completing: its tag shows `state` and `status`, and reads still at a stack are dropped. A
write or add that a stack has accepted is performed (DEDUCED, log entry 49): it belongs to no tag from now on. -/
def Dev.endDma (d : Dev) (p tag state status : Nat) : Dev :=
  let orphan (e : Nat × Stack) : Nat × Stack :=
    let rs := e.2.reqs.filter (fun r => !(r.tile == p && r.tag == tag && r.kind == .rd))
    (e.1, { e.2 with reqs := rs.map (fun r => if r.tile = p ∧ r.tag = tag then { r with tag := 255 } else r) })
  let d := { d with stks := d.stks.map orphan }
  let d := { d with deltasSent := d.deltasSent.filter (fun q => !(q.tile == p && q.tag == tag)) }
  d.onTile p (fun t => { t with store := { t.store with
    dmas := SMap.remove tag t.store.dmas
    tagState := SMap.put 0 tag state t.store.tagState
    tagStatus := SMap.put 0 tag status t.store.tagStatus } })

/-- A launch entry is discarded; a DMA entry shows ABORTED_BY_DISABLE (R86). -/
def Tile.discardEntry (t : Tile) (i : Nat) : Tile :=
  let t' := t.setEntry i .empty
  match (t.entry i).tag with
  | some g => { t' with store := { t'.store with
      tagState := SMap.put 0 g 3 t'.store.tagState
      tagStatus := SMap.put 0 g 4 t'.store.tagStatus } }
  | none => t'

/-- The tile stops: HALTED, its stalled bundle abandoned. -/
def Tile.halted (t : Tile) : Tile := { t.abandon with core := { t.abandon.core with run := .halted, inHandler := false } }

/-- In HALTED and EXC_HALT, prepared entries that are not armed are cleared (R85). -/
def Tile.clearPrepared (t : Tile) : Tile :=
  (List.range 4).foldl (fun (t : Tile) i => match t.entry i with
    | .prepared _ => t.setEntry i .empty
    | _ => t) t

/-- The tile issues bundles. -/
def RunState.issuing : RunState → Bool
  | .running | .handler => true
  | _ => false

/-- Entry of a tile to DRAINING (R86): issue stops, and entries that have not started are discarded. -/
def Dev.tileDrain (d : Dev) (m : Mem) (p : Nat) : Dev :=
  let t := d.tile p
  let was := t.core.run.issuing
  let t := t.landAll
  let t := if was then t.halted else t
  let t := (List.range 4).foldl Tile.discardEntry t
  let t := { t with store := { t.store with wasRunning := was } }
  let d := (d.setTile p t).dropDirect p
  if was then d.tileHalted m p else d

/-- Items of work that a tile holds (Table 2-5). -/
def Tile.inFlight (t : Tile) : Nat :=
  t.store.dmas.length + t.core.div.length + ((List.range 4).filter (fun i => (t.entry i).full)).length
    + t.mx.queue.length + t.mx.array.toList.length + t.mx.tail.length + t.mx.port.toList.length + t.mx.waitEntry.length
    + t.vx.queue.length + t.vx.run.toList.length

/-- Poison consumed or created by a tile at an address (R70, R132, R177). -/
def Dev.tileDe (d : Dev) (p addr : Nat) : Dev := d.pgErr pTIL p bDE 0x2001 addr 3 ((d.tile p).core.ltile)

/-- Poison met by a queue: the spec names no address for the record, so it is free (log entry 11). -/
def Dev.queueDe (d : Dev) (p : Nat) (de : Bool) : Dev :=
  if de then
    let (v, d) := d.fresh
    d.tileDe p (v % 2 ^ 32)
  else d

/-- What a drain wrote counts in TIL.MXSPEC, and its poison sets PG_ERR.DE (R137). -/
def Dev.countMx (d : Dev) (p : Nat) (n : SpecialCount) (de : Bool) : Dev :=
  ((d.fcount tilMxspecNancnt p n.nans).fcount tilMxspecOvfcnt p n.ovfs).queueDe p de

/-- What a vector operation wrote counts in TIL.VXSPEC, and its poison sets PG_ERR.DE (R177, R180). -/
def Dev.countVx (d : Dev) (p : Nat) (n : SpecialCount) (de : Bool) : Dev :=
  ((d.fcount tilVxspecNancnt p n.nans).fcount tilVxspecOvfcnt p n.ovfs).queueDe p de

/-- The rest of a tile's work is discarded (R140, R147, R178). How far an operation in progress had come is free (log entry 9). A ledger
holder that loses a valid row spoils the step (LEDGER_LOST). -/
def Dev.tileDiscard (d : Dev) (m : Mem) (p : Nat) : Dev :=
  let rows := Config.discardProgress d.free
  let done := Config.discardProgress (d.free + 1)
  let d := { d with free := d.free + 2 }
  let t := d.tile p
  let valid := t.mx.rowValid
  let (u, n, de) := t.mxDiscard rows (d.variant == 2)
  let r := u.vDiscard done
  let t' := { r.tile with core := { r.tile.core with div := [] } }
  let d := ((d.setTile p t').busy tilMxbusyCount p t.mx.busyCc t'.mx.busyCc).busy tilVxbusyCount p t.vx.busyCc t'.vx.busyCc
  let d := (d.countMx p n de).countVx p r.count r.poison
  let t := t'
  let d := (t.store.dmas.map (fun e => e.1)).foldl (fun (d : Dev) g => d.endDma p g 3 4) d
  if t.mx.ledgerRole && valid.any (fun e => !SMap.get false e.1 t.mx.rowValid) then
    (d.spoilCause m 0x0A ((d.logicalOf p).getD 0)).settled m
  else d

/-- Entry of a tile to DISABLED: its completion, if it was running (R86), and arrivals not yet sent are discarded. -/
def Dev.tileDisabled (d : Dev) (p : Nat) : Dev :=
  let t := d.tile p
  let d := d.onTile p (fun t => { t with store := { t.store with
    wasRunning := false, arrivals := t.store.arrivals.filter (fun a => a.2.sent || a.2.released.isSome) } })
  let d := if t.store.wasRunning then d.tileCompletion p 2 0 t.core.pc else d
  if t.core.ltileValid || t.mx.ledgerRole then d.dkEvent (.tile p) else d

/-! ### Work in flight, class by class (Table 2-5) -/

/-- Channels of an engine. -/
def Dev.engineChans (d : Dev) (e : Nat) (p : Channel → Bool) : List Nat :=
  (d.brezin.chans.filter (fun k => decide (k.1 / 4096 = e) && p k.2)).map (fun k => k.1 % 4096)

/-- Items that a unit holds. Work of COL, DOC and CAL is whole within one command. -/
def Dev.inFlight (d : Dev) (cls inst : Nat) : Nat :=
  match cls with
  | 0x10 => (d.tile inst).inFlight
  | 0x11 =>
    let x := d.solver inst
    x.queue.length + x.run.toList.length + x.loading.toList.length
  | 0x12 => (d.stack inst).reqs.length
  | 0x14 => (d.port inst).queue.length + (d.port inst).replay.length
  | 0x15 => (d.engineChans inst (fun _ => true)).foldl (fun n c =>
      n + (d.chan inst c).queue.length + (d.chan inst c).unacked.length) 0
  | _ => 0

/-- What a class does when a unit stops its intake. -/
def Dev.stopIntake (d : Dev) (m : Mem) (cls inst : Nat) : Dev :=
  match cls with
  | 0x10 => d.tileDrain m inst
  | 0x11 => d.solverDrain m inst
  | _ => d

/-- Discard what a unit still holds (bound, FORCE_STOP or UCC). -/
def Dev.discardWork (d : Dev) (m : Mem) (cls inst : Nat) (ucc : Bool) : Dev :=
  match cls with
  | 0x10 => d.tileDiscard m inst
  | 0x11 => if ucc then d.solverFault m inst else d.solverStop m inst
  | 0x12 =>
    let (d, rs) := d.dropRequests (fun k _ => k == inst)
    d.endRequests m rs 3
  | 0x14 => d.dropQueued inst
  | _ => d

/-- The channels of an engine that drained to the end close with CH_CLOSE (Table 12-5). -/
def Dev.closeChans (d : Dev) (e : Nat) : Dev :=
  (d.engineChans e (fun x => x.state == .opened || x.state == .closing)).foldl (fun (d : Dev) c => d.toPeer e c 7 0) d

/-- What a class does at DISABLED: `reason` is DIS_REASON. -/
def Dev.enterDisabled (d : Dev) (m : Mem) (cls inst reason : Nat) : Dev :=
  match cls with
  | 0x10 => d.tileDisabled inst
  | 0x11 =>
    let used := d.deckle.placement.any (fun pl => pl.smap.any (fun x => x.2.1 == inst))
    if used then d.dkEvent (.engine inst) else d
  | 0x14 => d.portOff inst
  | 0x15 =>
    let d' := if reason = 1 then d.closeChans inst else d
    let d' := (d.engineChans inst (fun x => x.state != .closed && x.state != .failed)).foldl (fun (d : Dev) c =>
      d.failChan inst c 5) d'
    d.afterFailures m d'
  | 0x0A => (d.colAbortWhere (fun _ => true) (if reason = 7 then 0x0F else 0x0E)).settled m
  | _ => d

/-- The health-map entries that a unit's state bears on (Table 10-1). -/
def Dev.healthOf (cls inst : Nat) : List Nat :=
  match cls with
  | 0x10 => [inst]
  | 0x11 => [0x080 + inst]
  | 0x12 => [0x100 + inst]
  | 0x13 => if inst < 4 then (List.range 17).map (fun p => 17 * inst + p) ++ [0x080 + 2 * inst, 0x081 + 2 * inst, 0x280 + inst] else []
  | _ => []

/-- Bring the map and the device state up to date with a unit. -/
def Dev.refreshUnit (d : Dev) (cls inst : Nat) : Dev := (d.rehealthAll (Dev.healthOf cls inst)).checkDegraded

/-- DRAIN_END (R428). On drain expiry it is the record of PG_ERR.TIMEOUT too. -/
def Dev.drainEnd (d : Dev) (cls inst reason n : Nat) : Dev :=
  if reason = 5 then d.pgErrSub cls inst bTIMEOUT 0x0014 0 5 n 0 true
  else if reason = 6 ∨ reason = 7 then d.record 0x0014 cls inst reason n 0
  else d

/-- A unit enters DISABLED with `n` items discarded. -/
def Dev.disableUnit (d : Dev) (m : Mem) (cls inst reason n : Nat) : Dev :=
  let d := d.onUnit cls inst (fun u => { u with state := .disabled, reason := reason, forced := n != 0, forceReq := false })
  let d := d.drainEnd cls inst reason n
  (d.enterDisabled m cls inst reason).refreshUnit cls inst

/-! ### Transitions (Table 2-4) -/

/-- The class has a drain (R47). -/
def drainable (cls : Nat) : Bool := drainBound cls != 0

/-- PG_CAP[3:1] are 0. -/
def UnitPage.allowed (u : UnitPage) : Bool := !u.fuseBad && !u.fieldBad && !u.unlicensed

/-- A unit becomes ACTIVE. -/
def Dev.activate (d : Dev) (cls inst : Nat) : Dev :=
  let d := d.onUnit cls inst (fun u => { u with state := .active, forced := false, reason := 0 })
  let d := if cls = pBZP then d.portOn inst else d
  d.refreshUnit cls inst

/-- An ACTIVE unit enters DRAINING, and DISABLED at once where nothing is in flight (R43). -/
def Dev.drainUnit (d : Dev) (m : Mem) (cls inst : Nat) : Dev :=
  let d := d.onUnit cls inst (fun u => { u with state := .draining })
  let d := d.stopIntake m cls inst
  if d.inFlight cls inst = 0 then d.disableUnit m cls inst 1 0 else d.refreshUnit cls inst

/-- FORCE_STOP of an ACTIVE or DRAINING unit. -/
def Dev.forceUnit (d : Dev) (m : Mem) (cls inst : Nat) : Dev :=
  let n := d.inFlight cls inst
  let d := if d.active cls inst then (d.onUnit cls inst (fun u => { u with state := .draining })).stopIntake m cls inst else d
  (d.discardWork m cls inst false).disableUnit m cls inst 6 n

/-- A write of PG_CTRL is ignored: during bring-up on TIL, SLV, STK, BZP and BZE pages, whose units firmware alone enables
(R401), and during a compute reset on TIL and SLV pages (R419). -/
def Dev.ctrlIgnored (d : Dev) (cls : Nat) : Bool :=
  match d.phase with
  | .failed | .ready | .degraded => false
  | .computeReset => cls == pTIL || cls == pSLV
  | _ => cls == pTIL || cls == pSLV || cls == pSTK || cls == pBZP || cls == pBZE

/-- A write of PG_CTRL moves the unit now. It is stored and moves nothing in FAILED, where every unit reads OFF or
DISABLED (R414), and on the FLT nodes that a compute reset holds OFF (R419; DEDUCED, log entry 84). -/
def Dev.ctrlOpen (d : Dev) (cls inst : Nat) : Bool :=
  !d.ctrlIgnored cls && d.phase != .failed && !(d.phase == .computeReset && cls == pFLT && decide (inst < 4))

/-- PG_CTRL written (R43, R45): the bits are stored, and the row of Table 2-4 that matches is taken. -/
def Dev.pgCtrl (d : Dev) (m : Mem) (cls inst v : Nat) : Dev :=
  if d.ctrlIgnored cls then d
  else
    let en := bit v 0
    let dis := bit v 1
    let force := bit v 2
    let u := d.unit cls inst
    let can := drainable cls
    let d := d.onUnit cls inst (fun u => { u with
      enable := en
      disReq := if can then dis else u.disReq
      forceReq := if can && force && u.state != .disabled then true else u.forceReq })
    if cls = pGLB ∨ !d.ctrlOpen cls inst then d
    else
      match u.state with
      | .off => if en && !(can && dis) && u.allowed && u.testPassed then d.activate cls inst else d
      | .active =>
        if !can then d
        else if force then d.forceUnit m cls inst
        else if dis || !en then d.drainUnit m cls inst
        else d
      | .draining => if can && force then d.forceUnit m cls inst else d
      | .disabled =>
        if en && !(can && dis) && !(can && force) && !u.fault && u.allowed then d.activate cls inst else d

/-- DRAIN_COMPLETE: the last item of a DRAINING unit has completed. -/
def Dev.drainComplete (d : Dev) (m : Mem) (cls inst : Nat) : Dev :=
  if (d.unit cls inst).state = .draining ∧ d.inFlight cls inst = 0 then d.disableUnit m cls inst 1 0 else d

/-- DRAIN_BOUND_EXPIRY: the bound ends a drain that still holds work. -/
def Dev.drainExpiry (d : Dev) (m : Mem) (cls inst : Nat) : Dev :=
  if (d.unit cls inst).state ≠ .draining then d
  else
    let n := d.inFlight cls inst
    if n = 0 then d.disableUnit m cls inst 1 0 else (d.discardWork m cls inst false).disableUnit m cls inst 5 n

/-! ### Faults (R423 to R426) -/

/-- The recorder loses its unflushed records (R425). -/
def Dev.evrLose (d : Dev) : Dev :=
  let n := d.evr.unflushed
  let d := d.fcount evrLostCount 0 n
  ({ d with evr := { d.evr with ring := [], next := d.evr.seq + 1, lostUcc := d.evr.lostUcc + n } }).fset evrStatRingfull 0 0

/-- A UCC of a unit, already recorded: it leaves ACTIVE (R148, R424). An engine's queue is discarded with its work. -/
def Dev.uccUnit (d : Dev) (m : Mem) (cls inst : Nat) : Dev :=
  match (d.unit cls inst).state with
  | .active | .draining =>
    let n := d.inFlight cls inst
    let d := if cls = pTIL ∧ d.active cls inst then d.tileDrain m inst else d
    let d := (d.discardWork m cls inst true).disableUnit m cls inst 7 n
    if cls = pEVR then d.evrLose else d
  | _ => d.refreshUnit cls inst

/-- The classes whose faults Table 16-1 contains to the unit; every other fault is a UCF. -/
def containable (cls inst : Nat) : Bool :=
  cls == pTIL || cls == pSLV || cls == pSTK || (cls == pFLT && decide (inst < 4)) || cls == pBZP || cls == pBZE
    || cls == pCOL || cls == pEVR || cls == pDOC || cls == pCAL || cls == pTHM

/-- UNIT_UCC: an uncorrectable error contained to a unit; `parity` says that byte parity found it, and the captured
parameters are what the unit reports (DESIGN CHOICE, log entry 81). -/
def Dev.unitUcc (d : Dev) (m : Mem) (cls inst : Nat) (parity : Bool) (sub p0 p1 p2 : Nat) : Dev :=
  if !containable cls inst ∨ (d.unit cls inst).state = .off then d
  else
    let bits := bUCC + (if parity then bPARITY else 0)
    if cls = pSTK then d.failStack m inst bits sub p0 p1 p2
    else (d.uccErr cls inst bits sub p0 p1 p2).uccUnit m cls inst

/-- PG_ERR.UCC of a unit with parameters that the spec does not state: each is a free value (log entry 11). -/
def Dev.uccFree (d : Dev) (cls inst : Nat) : Dev :=
  let (s, d) := d.fresh
  let (a, d) := d.fresh
  let (b, d) := d.fresh
  let (c, d) := d.fresh
  d.uccErr cls inst bUCC s a b c

/-- The pages that a compute reset turns OFF (Table 2-4), by class and instance as `units` numbers them. -/
def computePage (k : Nat) : Bool := k / 256 == pTIL || k / 256 == pSLV || (k / 256 == pFLT && decide (k % 256 < 4))

/-- The common area of those pages returns to the reset values of Table 2-3; PG_CAP and what the tests found stay. -/
def Dev.clearCommon (d : Dev) : Dev :=
  let clear (u : UnitPage) : UnitPage := { UnitPage.reset with
    fuseBad := u.fuseBad, fieldBad := u.fieldBad, unlicensed := u.unlicensed, testPassed := u.testPassed }
  { d with units := d.units.map (fun e => if computePage e.1 then (e.1, clear e.2) else e) }

/-- Every tile and engine stops as event 2 of Table 15-6 says: nothing they held is reported. -/
def Dev.stopSheets (d : Dev) : Dev :=
  let reqs := d.stks.map (fun e =>
    (e.1, { e.2 with reqs := (e.2.reqs.filter (fun r => r.kind != .rd)).map (fun r => { r with tag := 255 }) }))
  let off (u : UnitPage) : UnitPage := { u with state := .off, forced := false, reason := 0, forceReq := false }
  { d with
    stks := reqs
    units := d.units.map (fun e => if computePage e.1 then (e.1, off e.2) else e)
    tiles := d.tiles.map (fun e => (e.1, { Tile.reset with
      core := { Core.reset with prog := e.2.core.prog, ltile := e.2.core.ltile, ltileValid := e.2.core.ltileValid }
      store := { Store.reset with
        ts := e.2.store.ts, tsPoison := e.2.store.tsPoison, launchNmode := e.2.store.launchNmode, launchCq := e.2.store.launchCq }
      mx := { Matrix.reset with ledgerRole := e.2.mx.ledgerRole, accmem := e.2.mx.accmem } }))
    solvers := []
    launches := []
    deltasSent := []
    posts := []
    stp := { d.stp with opens := [] }
    syn := { d.syn with inflight := [] }
    pwr := { d.pwr with direct := [] } }

/-- The Sheets are gated: the weight of every loaded unit passes to ballast (R416, R469). -/
def Dev.gate (d : Dev) : Dev :=
  let w := d.pwr.held.foldl (fun n h => n + h.2) 0
  let d := d.setBallast (d.fget pwrBallastWatts 0 + w)
  { d with pwr := { d.pwr with held := [], gated := true } }

/-- Solver loads that stop with the Sheets: their commands complete with a status. -/
def Dev.dropLoads (d : Dev) (status : Nat) : Dev :=
  (d.solvers.filterMap (fun e => e.2.loading)).foldl (fun (d : Dev) c => d.complete c status 0 0) d

/-- The device enters FAILED (R413, R426): every Sheet is gated, and loads that ran complete DEVICE_NOT_READY. -/
def Dev.failDevice (d : Dev) : Dev :=
  if d.phase = .failed then d else (((d.dropLoads 7).stopSheets).gate).setPhase .failed

/-- DEVICE_UCF: an error fatal to the device, found by a block that Table 16-1 does not contain; `cause` and `p` are what
the block reports (DESIGN CHOICE, log entry 81). -/
def Dev.deviceUcf (d : Dev) (cls inst cause p : Nat) : Dev :=
  if containable cls inst || !d.pwr.on then d
  else (d.pgErr cls inst bUCF 0x4001 cls cause p).failDevice

/-! ### Felt links (R23 to R25) -/

/-- Rejections of the flit in transit towards `node`. -/
def FeltLink.tries (x : FeltLink) (node peer : Nat) : Nat := if node < peer then x.triesLow else x.triesHigh

/-- Set the rejections of the flit in transit towards `node`. -/
def FeltLink.withTries (x : FeltLink) (node peer n : Nat) : FeltLink :=
  if node < peer then { x with triesLow := n } else { x with triesHigh := n }

/-- A retry on the link is in progress (FLT.LINKSTAT.RETRYING). -/
def FeltLink.retrying (x : FeltLink) : Bool := x.triesLow != 0 || x.triesHigh != 0

/-- The link carries flits: it is UP and not declared failed. -/
def FeltLink.carries (x : FeltLink) : Bool := x.state == 1 && !x.failed

/-- FLT.LINKFAIL of a node marks its peer. -/
def Dev.markFail (d : Dev) (node peer : Nat) : Dev :=
  d.fset fltLinkfailFailed node (d.fget fltLinkfailFailed node ||| 2 ^ peer)

/-- Every byte of a flit stands with a bit that makes its ones even in number (R23). -/
def flitGood (bytes : List Nat) (parity : List Bool) : Bool :=
  (bytes.zip parity).all (fun x => ((List.range 8).filter (bit x.1)).length % 2 == b2n x.2)

/-- FELT_FLIT_RECEIVE: node `node` takes a flit from `peer`, intact or not. A rejected flit counts as a retry of the
receiving node, and the fourth rejection of one flit declares the link failed; FELT_REROUTE follows. That rejection is
counted and recorded like the others, with attempt 4, though no try follows it (DESIGN CHOICE, log entry 104). -/
def Dev.flitReceive (d : Dev) (node peer : Nat) (bad : Bool) : Dev :=
  let x := d.feltLink node peer
  if node == peer || !x.carries then d
  else if !bad then d.setFelt node peer (x.withTries node peer 0)
  else
    let attempt := x.tries node peer + 1
    let d := (d.fcount fltRetrycntCount node 1).pgErr pFLT node (bPARITY + bCE) 0x1001 peer attempt 0
    if attempt < 4 then d.setFelt node peer (x.withTries node peer attempt)
    else ((d.markFail node peer).markFail peer node).setFelt node peer { FeltLink.up with failed := true }

/-- The route that takes over a failed link: true where one is left. -/
def Dev.rerouted (d : Dev) (a b : Nat) : Bool :=
  let up (x y : Nat) : Bool := (d.feltLink x y).carries
  if a < 4 ∧ b < 4 then up a 4 && up 4 b
  else
    let sheet := min a b
    (List.range 4).any (fun k => k != sheet && up sheet k && up k 4)

/-- The recorder logs what became of a link. Before Deckle's map is built nothing else records it (R24, R264). -/
def Dev.logLink (d : Dev) (a b old : Nat) : Dev :=
  let code (v : Nat) : Nat := if v = 1 then 0 else if v = 2 then 1 else 3
  if d.mapLive ∨ d.link a b = old then d else d.record 0x5001 pDKL 0 (0x180 + linkIndex a b) (code (d.link a b)) (code old)

/-- FELT_REROUTE: the traffic of a failed link takes its new route, or the link goes DOWN; a Sheet without a link is
unreachable. Links that were rerouted over this one lose their route. -/
def Dev.feltReroute (d : Dev) (a b : Nat) : Dev :=
  if 5 ≤ a ∨ 5 ≤ b ∨ a = b ∨ !(d.feltLink a b).failed then d
  else
    let settle (d : Dev) (p : Nat × Nat) (v : Nat) : Dev :=
      (d.setFelt p.1 p.2 { FeltLink.reset with state := v }).logLink p.1 p.2 (d.link p.1 p.2)
    let d := settle d (a, b) (if d.rerouted a b then 2 else 0)
    let d := (linkPairs.filter (fun p => d.link p.1 p.2 == 2 && !d.rerouted p.1 p.2)).foldl (fun (d : Dev) p => settle d p 0) d
    let sheets := (List.range 4).flatMap (fun k => Dev.healthOf pFLT k)
    (d.rehealthAll ((List.range 10).map (· + 0x180) ++ sheets)).checkDegraded

end Sys2Proof.Machine
end

