-- ==== Sys2Proof/Machine/Sync.lean ====
section
/-! DEFINITION. Machine/Sync.lean: what SYN does with barriers (chapter 8). -/

namespace Sys2Proof.Machine

/-- An arrival is counted; the one that brings ARRIVED to COUNT completes the generation (R224). A phase fence's release
waits for the re-draw that its PHASE POSTs asked for, and later arrivals count in the next generation (R320). -/
def Dev.countArrival (d : Dev) (b : Nat) (tile : Option Nat) : Dev :=
  let x := d.bar b
  let x := { x with arrived := x.arrived + 1, tiles := x.tiles ++ tile.toList, host := x.host || tile.isNone }
  if x.arrived < x.count then d.setBar b x
  else
    let (d, held) := if d.isFence b then d.fenceComplete b else (d, false)
    if held then d.setBar b { x with arrived := 0, tiles := [], host := false, held := x.held ++ [(x.tiles, x.host)] }
    else (d.setBar b x).releaseBar b

/-- BAR_ARRIVE_SEND: a tile sends its arrival once the FENCE.D condition holds for its earlier accesses (R225). -/
def Dev.barArriveSend (d : Dev) (p b : Nat) : Dev :=
  match SMap.find b (d.tile p).store.arrivals with
  | some a =>
    if a.sent || a.released.isSome || !d.fenceDone p a.seq then d
    else
      let d := d.onTile p (fun t => { t with store := { t.store with arrivals := SMap.insert b { a with sent := true } t.store.arrivals } })
      { d with syn := { d.syn with inflight := d.syn.inflight ++ [(p, b)] } }
  | none => d

/-- BAR_ARRIVAL: a tile's arrival reaches SYN. An unconfigured barrier releases it UNCONFIGURED, a broken one BROKEN. -/
def Dev.barArrival (d : Dev) (p b : Nat) : Dev :=
  if !d.syn.inflight.contains (p, b) then d
  else
    let d := { d with syn := { d.syn with inflight := d.syn.inflight.erase (p, b) } }
    let x := d.bar b
    if x.count = 0 then d.onTile p (fun t => t.releaseArrival b 2)
    else if x.broken then d.onTile p (fun t => t.releaseArrival b 1)
    else d.countArrival b (some p)

/-- ARRIVE: the host names a barrier; an arrival while HOSTPEND is set is ignored and recorded (R228). -/
def Dev.hostArrive (d : Dev) (v : Nat) : Dev :=
  let b := v % 256
  let x := d.bar b
  if x.hostpend then d.badAccess 0xE0004C 2 b false false true
  else
    let d := d.setBar b { x with hostpend := true }
    { d with syn := { d.syn with host := d.syn.host ++ [b] } }

/-- HOST_ARRIVAL_COUNT: every BAR 4 write before the host's arrival is visible, and SYN counts it. -/
def Dev.hostArrivalCount (d : Dev) (b : Nat) : Dev :=
  if !d.syn.host.contains b then d
  else
    let d := { d with syn := { d.syn with host := d.syn.host.erase b } }
    let x := d.bar b
    if x.count = 0 ∨ x.broken then d.setBar b { x with hostpend := false } else d.countArrival b none

/-- BARTMO_EXPIRY: the generation stayed incomplete too long after its first arrival (R227). -/
def Dev.barTimeout (d : Dev) (b : Nat) : Dev :=
  if d.fget synBartmoTmo 0 ≠ 0 ∧ (d.bar b).arrived ≠ 0 then d.breakBar b 0 else d

/-- SYN.BARCFG written for the selected barrier. -/
def Dev.barConfigure (d : Dev) (v : Nat) : Dev :=
  let b := d.fget synBarselBarrier 0
  let d := if (d.bar b).arrived ≠ 0 then d.breakBar b 1 else d
  d.setBar b { d.bar b with count := min 65 (v % 128) }

/-- SYN.BARRESET written: the selected barrier breaks, and BROKEN clears; COUNT and GEN stay. -/
def Dev.barReset (d : Dev) (v : Nat) : Dev :=
  if !bit v 0 then d
  else
    let b := d.fget synBarselBarrier 0
    let d := d.breakBar b 2
    d.setBar b { d.bar b with broken := false }

/-- A compute reset clears ARRIVED, BROKEN, GEN and HOSTPEND of every barrier and keeps COUNT (R227). -/
def Dev.barriersReset (d : Dev) : Dev :=
  { d with syn := { d.syn with
      bars := d.syn.bars.map (fun e => (e.1, { Barrier.reset with count := e.2.count })), inflight := [], host := [] } }

end Sys2Proof.Machine
end

