-- ==== Sys2Proof/Machine/TileDev.lean ====
section
/-! DEFINITION. Machine/TileDev.lean: a tile within the device: bundle issue and exceptions, DMA, launch entries, posts, the
matrix and vector queues, and the TIL page (chapters 3, 5, 6 and 14). -/

namespace Sys2Proof.Machine

/-! ### Corrected and uncorrectable errors of a tile's stores (R53, R64, R144) -/

/-- A single-bit error corrected: which store (0 program, 1 tile, 2 accumulator) and its word. -/
def Dev.tileCe (d : Dev) (p which word : Nat) : Dev := d.pgErr pTIL p bCE 0x1003 which word 0

/-- An uncorrectable error of a store: the tile leaves ACTIVE by the UCC row. -/
def Dev.tileUcc (d : Dev) (m : Mem) (p cause addr : Nat) : Dev :=
  (d.uccErr pTIL p bUCC 0 cause addr 0).uccUnit m pTIL p

/-- EXCINFO records every exception (R85). -/
def Tile.info (t : Tile) (cause slot addr : Nat) : Tile :=
  { t with core := { t.core with infoCause := cause, infoSlot := slot, infoPc := t.core.pc, infoAddr := addr } }

/-- What a reader of the tile store other than a scalar load meets: 0 nothing, 1 a corrected error, 2 a double-bit error,
which it takes as poison (R64). EXCINFO then names slot 0 and the core's PC (DESIGN CHOICE, log entry 101). -/
def Dev.storeError (d : Dev) (p ecc word : Nat) : Dev :=
  match ecc with
  | 1 => d.tileCe p 1 word
  | 2 => d.onTile p (fun t => (t.setPoison word true).info cTsEcc 0 (8 * word))
  | _ => d

/-- After such a reader has run, a double-bit error takes the tile out of ACTIVE. -/
def Dev.storeFault (d : Dev) (m : Mem) (p ecc word : Nat) : Dev := if ecc = 2 then d.tileUcc m p cTsEcc (8 * word) else d

/-! ### Exceptions (R82 to R85) -/

/-- The exception registers take an exception. -/
def Tile.setExc (t : Tile) (cause slot addr : Nat) : Tile :=
  { t with core := { t.core with excCause := cause, excSlot := slot, excPc := t.core.pc, excAddr := addr } }

/-- EXC_HALT: the completion TILE_EXCEPTION, and what halting means for the step. -/
def Dev.excHalt (d : Dev) (m : Mem) (p : Nat) : Dev :=
  let d := d.onTile p (fun t => { t.clearPrepared with core := { t.clearPrepared.core with run := .excHalt, inHandler := false } })
  let c := (d.tile p).core
  (d.tileCompletion p 1 c.excCause (c.excPc + c.excSlot * 2 ^ 16)).tileHalted m p

/-- A bundle of tile `p` raises an exception: earlier writes land, the bundle has no effect, and the tile enters its
handler, or EXC_HALT; PS_ECC and TS_ECC are UCCs of the tile. -/
def Dev.exception (d : Dev) (m : Mem) (p : Nat) (e : Exc) : Dev :=
  let t := (d.tile p).landAll.abandon
  let d := (d.setTile p t).dropDirect p
  if e.cause = cPsEcc ∨ e.cause = cTsEcc then
    (d.setTile p (t.info e.cause e.slot e.addr)).tileUcc m p e.cause e.addr
  else if t.core.inHandler then
    (d.setTile p ((t.setExc cNested e.slot e.cause).info cNested e.slot e.cause)).excHalt m p
  else
    let t := (t.setExc e.cause e.slot e.addr).info e.cause e.slot e.addr
    if bit t.core.evec 63 then
      d.setTile p { t with core := { t.core with run := .handler, inHandler := true, pc := t.core.evec % 2 ^ 14 } }
    else (d.setTile p t).excHalt m p

/-! ### Issue (R52, R54, R73) -/

/-- The page class of a POST target (R80). -/
def postClass : Nat → Nat
  | 0 => pHBX
  | 1 => pCOL
  | 2 => pSTP
  | _ => pEVR

/-- The channel operand of a bundle's FENCE.P. -/
def fencePOf (t : Tile) (slots : List Slot) : Option Nat :=
  slots.findSome? (fun s => match s.op with
    | .control (.fenceP _ a) => if t.slotOn s then some (t.xr a) else none
    | _ => none)

/-- Sequence number that bounds the accesses a stalling operation counts as earlier. -/
def Tile.fenceSeq (t : Tile) : Nat := if t.core.stallWhy = 0 then t.store.seq else t.core.stallSeq

/-- What tile `p`'s next bundle sees of the device. -/
def Dev.issueEnv (d : Dev) (p : Nat) (t : Tile) (slots : List Slot) : IssueEnv :=
  let seq := t.fenceSeq
  { cadc := d.cad.mark
    sizes := d.regionSize
    debugOpen := d.debugOpen
    downTargets := (List.range 4).filter (fun g => d.down (postClass g) 0)
    waitingPosts := (d.posts.filter (fun q => q.tile == p)).map (fun q => q.seq)
      ++ (d.deltasSent.filter (fun q => q.tile == p)).map (fun q => q.seq)
    fenceP := t.core.stallStatus.orElse (fun _ => (fencePOf t slots).bind (fun xa =>
      d.fencePStatus p xa seq (t.core.stallWhy != 0) (d.fenceDone p seq)))
    participant := d.tileParticipates p
    arrayFree := true
    dmaFree := true }

/-- The units that a bundle's directly issued work loads (R468). -/
def Tile.directLoads (t : Tile) (p : Nat) (slots : List Slot) : List Load :=
  (slots.filterMap (fun s =>
    if !t.slotOn s then none
    else match s.op with
      | .loadStore (.dma _ false ..) => some (Load.dma p)
      | .matrix (.mma false ..) => some (Load.array p)
      | _ => none)).eraseDups

/-- An enabled ERET: it waits as if SER = 1, and so does the bundle it returns to, for the writes of ERET's own bundle
(R84). -/
def Tile.returns (t : Tile) (slots : List Slot) : Bool :=
  slots.any (fun s => t.slotOn s && (match s.op with
    | .control .eret => true
    | _ => false))

/-- The bundle does not issue before everything earlier is done (R57, R84). -/
def Tile.waitsSer (t : Tile) (slots : List Slot) (ser : Bool) : Bool := ser || t.core.eretWait || t.returns slots

/-- The bundle waits as under SER: a SER bundle, ERET, or FENCE.T (R57, R84, Table 8-3; DEDUCED, log entry 50). -/
def Tile.serial (t : Tile) (slots : List Slot) (ser : Bool) : Bool :=
  t.waitsSer slots ser || slots.any (fun s => t.slotOn s && (match s.op with
    | .control (.fence .tile) => true
    | _ => false))

/-- The words of the tile store that an enabled scalar load, store or DSLD of a slot touches, and whether it loads. -/
def Tile.touches (t : Tile) (s : Slot) : List Nat × Bool :=
  let span (a imm n : Nat) : List Nat :=
    let x := (t.xr a + imm) % 2 ^ 64
    (List.range ((x + n - 1) / 8 - x / 8 + 1)).map (fun i => x / 8 + i)
  if !t.slotOn s then ([], false)
  else match s.op with
    | .loadStore (.load n _ _ a imm) => (span a imm n, true)
    | .loadStore (.store n _ a imm) => (span a imm n, false)
    | .loadStore (.fload n _ a imm) => (span a imm n, true)
    | .loadStore (.fstore n _ a imm) => (span a imm n, false)
    | .loadStore (.dsld _ a imm) => (span a imm 64, true)
    | .loadStore (.dsst _ a imm) => (span a imm 64, false)
    | _ => ([], false)

/-- A gather or scatter of the bundle that faults part-way: its item and its BOUNDS (R174). -/
def Tile.gatherFaultOf (t : Tile) (env : IssueEnv) (slots : List Slot) : Option (VItem × Exc) :=
  slots.findSome? (fun s => match s.op with
    | .vector (.vx _ ds ..) =>
      match t.execSlot env s with
      | .ok [.vec it] => if it.faultAt.isSome then some (it, ⟨cBounds, s.k, ds⟩) else none
      | _ => none
    | _ => none)

/-- The first exception of the execute phase, the header first, with the faulting gather's item. A double-bit error in a
tile-store word that a load reads raises TS_ECC in its slot with the word's address (`tsWord`; DESIGN CHOICE, log entry
101). -/
def Tile.executeAll (t : Tile) (env : IssueEnv) (slots : List Slot) (tsWord : Option Nat) :
    Except (Exc × Option VItem) (List Eff) :=
  let ts : Option Exc := tsWord.bind (fun w => slots.findSome? (fun s =>
    let (ws, load) := t.touches s
    if load && ws.contains w then some ⟨cTsEcc, s.k, 8 * w⟩ else none))
  let base := t.executeBundle env slots
  let earlier (a b : Exc) : Bool := a.slot == 8 || (b.slot != 8 && decide (a.slot ≤ b.slot))
  let first : Option Exc := match base with
    | .error e => match ts with
      | some x => if earlier e x && !(e.cause == cPoison && e.slot == x.slot) then some e else some x
      | none => some e
    | .ok _ => ts
  match first, t.gatherFaultOf env slots with
  | some e, some (it, g) => if earlier e g then .error (e, none) else .error (g, some it)
  | some e, none => .error (e, none)
  | none, some (it, g) => .error (g, some it)
  | none, none => base.mapError (fun e => (e, none))

/-- The bundle stalls: why, and what its operation counts as earlier. STEP.COMMIT starts to wait for its fence. -/
def Tile.stall (t : Tile) (why : Nat) (slots : List Slot) : Tile :=
  let seq := t.fenceSeq
  let t := { t with core := { t.core with stallWhy := why, stallSeq := seq } }
  if why = 8 ∧ t.store.commit = .none then
    let a := (slots.findSome? (fun s => match s.op with
      | .control (.stepCommit _ a) => some (t.xr a)
      | _ => none)).getD 0
    { t with store := { t.store with commit := .waiting a } }
  else t

/-! ### Effects outside the tile -/

/-- LAUNCH.AT: arm the entries of a mask for a mark; where the mark is reached they fire at once (R78). -/
def Dev.armEntries (d : Dev) (p mask mark : Nat) : Dev :=
  let late := reached d.cad.mark mark
  let t := (setBits 4 mask).foldl (fun (t : Tile) i => match t.entry i with
    | .prepared x => t.setEntry i (if late then .fired x d.cad.ticks else .armed x mark)
    | _ => { t with core := { t.core with emptyArm := true } }) (d.tile p)
  if late && mask != 0 then
    ((d.setTile p { t with core := { t.core with overrun := true } }).fcount tilOverruncntCount p 1).admitWaiting
  else d.setTile p t

/-- POST: HBX and EVR accept the value at once, COL and STP when they perform it (R80). -/
def Dev.post (d : Dev) (p target v : Nat) : Dev :=
  let t := d.tile p
  let take (d : Dev) (n : Nat) : Dev := d.onTile p (fun t => { t with store := { t.store with
    seq := t.store.seq + 1
    creditUsed := SMap.modify 0 target (· + 1) t.store.creditUsed
    creditOwed := SMap.modify 0 target (· + n) t.store.creditOwed } })
  match target with
  | 0 => (take d 1).postUnsolicited 5 0 t.core.ltile v 0
  | 3 => (take d 1).record (0x7F00 + bits v 56 8) pTIL p (v % 2 ^ 32) (bits v 32 24) t.core.ltile
  | _ => { take d 0 with posts := d.posts ++ [⟨p, target, v, t.store.seq, t.store.openStep⟩] }

/-- STEP.OPEN accepted: the tile's open step, sent to STP by a participant (R291). -/
def Dev.sendOpen (d : Dev) (p n : Nat) : Dev :=
  let d := d.onTile p (fun t => { t with store := { t.store with openStep := some n } })
  if d.tileParticipates p then { d with stp := { d.stp with opens := d.stp.opens ++ [(p, n)] } } else d

/-- An effect of a slot as it leaves the tile. HALT and BRKPT follow once the bundle is complete. -/
def Dev.applyEff (d : Dev) (p : Nat) (e : Eff) : Dev :=
  match e with
  | .dma q => d.onTile p (fun t => t.startDma q)
  | .launch mask mark => d.armEntries p mask mark
  | .post target v => d.post p target v
  | .stepOpen n => d.sendOpen p n
  | .eret => d.onTile p (fun t => { t with core := { t.core with
      run := .running, inHandler := false, pc := t.core.excPc, eretWait := true } })
  | .brkpt | .halt => d
  | _ => d.onTile p (fun t => t.applyLocal e)

/-- The effect sets the PC itself. -/
def Eff.setsPc : Eff → Bool
  | .jump _ | .loop .. | .eret => true
  | _ => false

/-- Every effect of a bundle, then the next PC, the schedule, and HALT or BRKPT (R75, R76, R80, R81). -/
def Dev.completeBundle (d : Dev) (m : Mem) (p : Nat) (slots : List Slot) (effs : List Eff) : Dev :=
  let d := d.onTile p (fun t => { t with core := { t.core with
      stallWhy := 0, stallSeq := 0, stallStatus := none, eretWait := false } })
  let d := effs.foldl (fun (d : Dev) e => d.applyEff p e) d
  let d := d.onTile p (fun t =>
    let c := t.core
    let c := if effs.any Eff.setsPc then c
      else
        let (ls, pc) := loopNext 4 c.loops c.pc
        { c with loops := ls, pc := pc % 2 ^ 14 }
    let gap := if slots.any (fun s => s.branchGap) then 2 else 0
    { t with core := { c with cc := c.cc + 1 + gap } })
  if effs.contains .halt then
    let d := d.onTile p (fun t => t.landAll.halted.clearPrepared)
    (d.tileCompletion p 0 0 (d.tile p).core.pc).tileHalted m p
  else if effs.contains .brkpt then (d.onTile p (fun t => t.landAll.halted.clearPrepared)).tileHalted m p
  else d

/-- A FENCE.P that reports TARGET_RESETTING has reported it (R341). -/
def Dev.reportedFence (d : Dev) (p : Nat) (t : Tile) (env : IssueEnv) (slots : List Slot) : Dev :=
  match fencePOf t slots, env.fenceP with
  | some c, some 2 => d.clearRefused p c
  | _, _ => d

/-- One bundle of a tile: decode, issue, stalls, execution. `ecc` says what the program store or the tile store shows
(0 nothing, 1 and 2 a corrected and a double-bit error in program word `word` of the bundle, 3 and 4 the same in
tile-store word `word`); `fresh` that the bundle has not stalled before. PS_ECC counts the word within its bundle, a
corrected error over the store (DESIGN CHOICE, log entry 101). -/
def Dev.issue (d : Dev) (m : Mem) (p ecc word : Nat) (fresh : Bool) : Dev :=
  let t0 := d.tile p
  if !t0.core.run.issuing || !d.sheetsRun || fresh != (t0.core.stallWhy == 0) then d
  else
    let t := t0.landUpTo t0.core.cc
    let d := d.setTile p t
    if ecc = 2 then d.exception m p ⟨cPsEcc, 8, word⟩
    else
      let d := if ecc = 1 then d.tileCe p 0 (8 * t.core.pc + word) else d
      match decodeBundle (SMap.get 0 t.core.pc t.core.prog) with
      | .error e => d.exception m p e
      | .ok (slots, ser) =>
        let env := d.issueEnv p t slots
        let wait := if !t.waitsSer slots ser || t.serDone then 0 else if t.vx.hold then 10 else 9
        let illegal := slots.findSome? t.eretExc
        if illegal.isSome then d.exception m p (illegal.getD ⟨cIllegalOp, 7, 0⟩)
        else if wait ≠ 0 then d.setTile p (t.stall wait slots)
        else
          match t.issueExc slots with
          | some e => d.exception m p e
          | none =>
            let why := t.bundleStall env slots t.fenceSeq
            if why ≠ 0 then d.setTile p (t.stall why slots)
            else
              let d := if ecc = 3 ∧ slots.any (fun s => (t.touches s).1.contains word) then d.tileCe p 1 word else d
              match t.executeAll env slots (if ecc = 4 then some word else none) with
              | .error (e, it) =>
                let d := match it with
                  | some it => d.setTile p (t.vEnqueue it)
                  | none => d
                let d := if e.cause = cPoison then d.tileDe p e.addr else d
                d.exception m p e
              | .ok effs =>
                let loads := t.directLoads p slots
                let d := loads.foldl Dev.askDirect d
                if loads.all d.loaded then (d.reportedFence p t env slots).completeBundle m p slots effs
                else d.onTile p (fun t => t.stall 10 slots)

/-- BUNDLE_ISSUE: the next bundle of a tile issues, or stalls, or raises an exception. -/
def Dev.bundleIssue (d : Dev) (m : Mem) (p ecc word : Nat) : Dev := d.issue m p ecc word true

/-- STALLED_BUNDLE_ISSUE: a stalled bundle issues if its condition now holds. -/
def Dev.stalledIssue (d : Dev) (m : Mem) (p ecc word : Nat) : Dev := d.issue m p ecc word false

/-! ### Landing, divides, watchdog -/

/-- The tile's bundle is held back as under SER, so that the schedule runs on (R71). -/
def Tile.heldSerial (t : Tile) : Bool :=
  t.core.stallWhy != 0 && (match decodeBundle (SMap.get 0 t.core.pc t.core.prog) with
    | .ok (slots, ser) => t.serial slots ser
    | .error _ => false)

/-- The schedule as far as it runs now: to the next landing of the writes `p` picks where a serial bundle is held. -/
def Tile.schedule (t : Tile) (p : Write → Bool) : Tile :=
  if t.heldSerial then
    match ((t.core.pend.filter p).map (fun w => w.due)).min? with
    | some u => { t with core := { t.core with cc := max t.core.cc u } }
    | none => t
  else t

/-- WRITE_LANDS: the writes whose schedule cc has come land. -/
def Dev.writeLands (d : Dev) (p : Nat) : Dev :=
  d.onTile p (fun t =>
    let t := t.schedule (fun _ => true)
    t.landUpTo t.core.cc)

/-- DIVIDE_COMPLETE: the integer divider writes its result, or the shared FDIV and FSQRT unit's result lands (`fp`). -/
def Dev.divideComplete (d : Dev) (p : Nat) (fp : Bool) : Dev :=
  d.onTile p (fun t =>
    if fp then
      let t := t.schedule (fun w => w.fromDiv)
      if t.core.pend.any (fun w => w.fromDiv && decide (w.due ≤ t.core.cc)) then t.landUpTo t.core.cc else t
    else match t.core.div with
      | [] => t
      | (n, v) :: rest => { t with core := { t.core with div := rest } }.land ⟨t.core.cc, .x n, v, 0, true⟩)

/-- The slot that a stalled bundle waits in, 8 for the bundle as a whole. -/
def Tile.stalledSlot (t : Tile) (env : IssueEnv) (slots : List Slot) : Nat :=
  ((slots.find? (fun s => t.slotOn s && t.opStall env slots t.fenceSeq s != 0)).map (fun s => s.k)).getD 8

/-- WATCHDOG: the bundle has stalled longer than TIL.WDOG.MS (R74). -/
def Dev.watchdog (d : Dev) (m : Mem) (p : Nat) : Dev :=
  let t := d.tile p
  if t.core.stallWhy = 0 ∨ d.fget tilWdogMs p = 0 ∨ !t.core.run.issuing then d
  else match decodeBundle (SMap.get 0 t.core.pc t.core.prog) with
    | .ok (slots, _) => d.exception m p ⟨cWatchdog, t.stalledSlot (d.issueEnv p t slots) slots, 0⟩
    | .error _ => d

/-- FENCE_P_TIMEOUT: a FENCE.P has waited 20 ms; it ends with TIMEOUT when its bundle issues (R222). -/
def Dev.fenceTimeout (d : Dev) (p : Nat) : Dev :=
  d.onTile p (fun t =>
    if t.core.stallWhy = 3 then
      match decodeBundle (SMap.get 0 t.core.pc t.core.prog) with
      | .ok (slots, _) => if (fencePOf t slots).isSome then { t with core := { t.core with stallStatus := some 4 } } else t
      | .error _ => t
    else t)

/-- POST_CREDIT_RETURN: the oldest credit that a target owes the tile comes back (R80). -/
def Dev.creditReturn (d : Dev) (p target : Nat) : Dev :=
  d.onTile p (fun t =>
    if SMap.get 0 target t.store.creditOwed = 0 then t
    else { t with store := { t.store with
      creditOwed := SMap.modify 0 target (· - 1) t.store.creditOwed
      creditUsed := SMap.modify 0 target (· - 1) t.store.creditUsed } })

/-! ### DMA (R68, R69, R190, R242, R244, R340) -/

/-- A DMA's region side has nothing more to wait for. -/
def Dma.settled (q : Dma) (status : Nat) : Dma := { q with phase := 1, left := 0, status := status }

/-- Store a DMA of a tile. -/
def Dev.setDma (d : Dev) (p : Nat) (q : Dma) : Dev :=
  d.onTile p (fun t => { t with store := { t.store with dmas := SMap.insert q.tag q t.store.dmas } })

/-- Bytes of the tile store. -/
def Tile.bytes (t : Tile) (a n : Nat) : List Nat := (List.range n).map (fun i => t.byte (a + i))

/-- A run of bits cut at line ends: the line, the bit it starts at there, its length and how far into the run it starts. -/
def cutLines (p n : Nat) : List (Nat × Nat × Nat × Nat) :=
  if n = 0 then []
  else (List.range ((p + n - 1) / 512 - p / 512 + 1)).map (fun i =>
    let k := p / 512 + i
    let lo := max p (512 * k)
    (k, lo - 512 * k, min (p + n) (512 * k + 512) - lo, lo - p))

/-- A part of a window that lies in one line of its region: the line, the bit it starts at, its length, the bit of the tile
store it corresponds to, and whether it is padding. -/
structure LinePart where
  line : Nat
  pos : Nat
  len : Nat
  tpos : Nat
  pad : Bool
  deriving DecidableEq, Repr

/-- The parts of a piece. -/
def Piece.parts (x : Piece) : List LinePart :=
  (cutLines x.pos x.nbits).map (fun (k, p, n, o) => ⟨k, p, n, 8 * x.ts + o, false⟩)
    ++ (cutLines (x.pos + x.nbits) x.rpad).map (fun (k, p, n, _) => ⟨k, p, n, 0, true⟩)

/-- What a piece of a read takes from its lines: its bits, and in the tile store the padding after them. -/
def Piece.takes (x : Piece) : List (Nat × ReadPart) :=
  (cutLines x.pos x.nbits).map (fun (k, p, n, o) => (k, ⟨p, n, 8 * x.ts + o⟩))
    ++ (if x.tpad = 0 then [] else [((x.pos + x.nbits - 1) / 512, ⟨512, x.tpad, 8 * x.ts + x.nbits⟩)])

/-- A request of a DMA on bytes of its region from offset `o`. -/
def Dev.blankReq (d : Dev) (p : Nat) (q : Dma) (h o n : Nat) (k : ReqKind) : Req :=
  { tile := p, tag := q.tag, seq := q.seq, kind := k, region := h
    addrs := (List.range n).map (fun i => (d.entry h).locate (o + i))
    mirrors := if k = .rd then [] else (List.range n).filterMap (fun i => d.mirrorOf h (o + i))
    val := 0, mask := 0, poison := false, reads := [] }

/-- Bits of the tile store. -/
def Tile.readBits (t : Tile) (p n : Nat) : Nat := bits (t.readLE (p / 8) ((p % 8 + n + 7) / 8)) (p % 8) n

/-- A write request with the parts of its line, in window order: an element reached twice keeps the later value (R69). -/
def Req.withParts (r : Req) (t : Tile) (ps : List LinePart) : Req :=
  ps.foldl (fun r x => { r with
    val := putBits r.val x.pos x.len (if x.pad then 0 else t.readBits x.tpos x.len)
    mask := r.mask ||| (2 ^ x.len - 1) * 2 ^ x.pos
    poison := r.poison || (!x.pad && t.poisoned (x.tpos / 8) ((x.tpos % 8 + x.len + 7) / 8)) }) r

/-- The requests of a DMA to its stacks: of a read or a write one for each line of the window, so that each aligned 64-bit
word moves as a whole (R216), and of an add one for each element, in window order. -/
def Dev.requests (d : Dev) (p : Nat) (t : Tile) (q : Dma) (h w : Nat) (xs : List Piece) : List Req :=
  match q.kind with
  | .rd =>
    let ps := xs.flatMap Piece.takes
    ((ps.map (fun x => x.1)).eraseDups).map (fun k =>
      { d.blankReq p q h (64 * k) 64 .rd with reads := (ps.filter (fun x => x.1 == k)).map (fun x => x.2) })
  | .wr =>
    let ps := xs.flatMap Piece.parts
    ((ps.map (fun x => x.line)).eraseDups).map (fun k =>
      (d.blankReq p q h (64 * k) 64 .wr).withParts t (ps.filter (fun x => x.line == k)))
  | .add =>
    let n := w / 8
    xs.flatMap (fun x => (List.range (x.nbits / w)).map (fun i =>
      { d.blankReq p q h (x.off + i * n) n (if w = 64 then .add64 else .add32) with
        val := t.readLE (x.ts + i * n) n, poison := t.poisoned (x.ts + i * n) n }))

/-- Queue a request at its stack; one that the stack does not take ends at once (R260, R261). Whether a Sheet is reachable
does not enter (DESIGN CHOICE, log entry 105). -/
def Dev.sendRequest (d : Dev) (r : Req) : Dev :=
  let s := stackOf (r.addrs.headD 0)
  if d.fget stkStatHealth s = 3 then d.finishReq r 2 false
  else if !d.active pSTK s then d.finishReq r 3 false
  else d.onStack s (fun x => { x with reqs := x.reqs ++ [r] })

/-- The spans of a run cut at 256-byte boundaries of the region offset. The fuel is their number. -/
def packetSpans : Nat → Nat → Nat → List (Nat × Nat)
  | 0, _, _ => []
  | k + 1, o, n =>
    if n = 0 then []
    else
      let l := min n (256 - o % 256)
      (o, l) :: packetSpans k (o + l) (n - l)

/-- The bytes a piece leaves in the region: beside its own bits, those that the region holds now (DESIGN CHOICE, log entry
51). -/
def Dev.pieceBytes (d : Dev) (m : Mem) (t : Tile) (h : Nat) (x : Piece) : List Nat :=
  if x.nbits = 8 * x.len then t.bytes x.ts x.len
  else
    let old := (List.range x.len).flatMap (fun i => d.seenBytes m ((d.entry h).locate (x.off + i)) 1)
    let v := putBits (putBits (ofLE old) x.rbit x.nbits (t.readBits (8 * x.ts) x.nbits)) (x.rbit + x.nbits) x.rpad 0
    toLE x.len v

/-- The packets of a piece for a mirroring channel: WRITE with the offset, ADD with the offset and FORMAT (R340). -/
def Dev.mirrorPackets (d : Dev) (m : Mem) (t : Tile) (q : Dma) (h fmt : Nat) (x : Piece) : List Packet :=
  let bs := d.pieceBytes m t h x
  (packetSpans (x.len / 256 + 2) x.off x.len).map (fun (o, n) =>
    let arg := if q.kind = .add then o + fmt * 2 ^ 48 else o
    { dst := 0, src := 0, op := (if q.kind = .add then 2 else 1), flags := b2n (t.poisoned (x.ts + (o - x.off)) n) * 64
      dchan := 0, schan := 0, seq := 0, len := n, arg := arg, payload := (bs.drop (o - x.off)).take n })

/-- The channels that mirror a region, by their keys. -/
def Dev.mirrorsOf (d : Dev) (h : Nat) : List Nat :=
  (d.brezin.chans.filter (fun k => k.2.state == .opened && k.2.lreg != 0 && d.resolve k.2.lreg == h)).map (fun k => k.1)

/-- A DMA to a delta port: its window leaves as 16-byte packets (R190, R270). -/
def Dev.deltaAccess (d : Dev) (p : Nat) (t : Tile) (q : Dma) (si top : Nat) : Dev :=
  let desc := Desc.ofBits q.desc
  let n := desc.packedEnd q.ts q.ext - q.ts
  match d.engineOf si with
  | none => d.setDma p (q.settled 6)
  | some (e, slot) =>
    if q.kind ≠ .wr ∨ n % 16 ≠ 0 ∨ 0x200000 < top then d.setDma p (q.settled 6)
    else if d.down pSLV e then d.setDma p (q.settled 3)
    else
      let packets := (List.range (n / 16)).map (fun i =>
        let f (o k : Nat) : Nat := t.readLE (q.ts + 16 * i + o) k
        let idx := f 0 4
        let x : Delta := ⟨slot, if idx = 0xFFFFFFFF then none else some idx, f 4 2, f 6 2, f 8 8, t.poisoned (q.ts + 16 * i) 16⟩
        (⟨p, q.tag, q.seq, e, x⟩ : DeltaSent))
      { d.setDma p { q with phase := 1, left := packets.length } with deltasSent := d.deltasSent ++ packets }

/-- REGION_ACCESS: the oldest DMA of a tile leaves it: its entry is checked once, the end of the scale plane with it (R96,
R244), and its pieces go to their stacks. `ecc`
and `word` say what a write's reads of the tile store meet. The bytes it stores are read here (DESIGN CHOICE, log entry
72). -/
def Dev.regionAccess (d : Dev) (m : Mem) (p ecc word : Nat) : Dev :=
  let waiting := ((d.tile p).store.dmas.filter (fun e => e.2.phase == 0)).map (fun e => e.2)
  match waiting.find? (fun q => waiting.all (fun o => decide (q.seq ≤ o.seq))) with
  | none => d
  | some q =>
    let reads := q.kind != .rd
    let d := if reads then d.storeError p ecc word else d
    let t := d.tile p
    let desc := Desc.ofBits q.desc
    let w := desc.fmt.width
    let pieces := desc.pieces q.ts q.start q.ext
    let top := pieces.foldl (fun n x => max n (x.off + x.len)) (if desc.fmt.blockScaled then desc.scaleStart + desc.scaleSize else 0)
    let d := match d.deltaPort desc.region with
      | some si => d.deltaAccess p t q si top
      | none =>
        let h := d.resolve desc.region
        match d.checkEntry h top with
        | .descInvalid => d.setDma p (q.settled 6)
        | .regionFailed => d.setDma p (q.settled 2)
        | .ok =>
          let rs := d.requests p t q h w pieces
          let copies : List (Nat × Packet) :=
            if reads then (d.mirrorsOf h).flatMap (fun k =>
              pieces.flatMap (fun x => (d.mirrorPackets m t q h desc.format x).map (fun y => (k, y))))
            else []
          let d := d.setDma p { q with phase := 1, left := rs.length, mirror := copies }
          rs.foldl (fun (d : Dev) r => d.sendRequest r) d
    if reads then d.storeFault m p ecc word else d

/-- MIRRORED_WRITE: the next packet of a mirrored DMA is queued on its channel once its engine has room. -/
def Dev.mirroredWrite (d : Dev) (p tag : Nat) : Dev :=
  match SMap.find tag (d.tile p).store.dmas with
  | none => d
  | some q =>
    match q.mirror with
    | [] => d
    | (k, x) :: rest =>
      let e := k / 4096
      let c := k % 4096
      if !d.active pBZE e then d.setDma p { q with mirror := rest, status := worse q.status 3 }
      else if (d.chan e c).state ≠ .opened then d.setDma p { q with mirror := rest }
      else if engineBuffer < d.bufferUse e + 24 + x.payload.length then d
      else (d.setDma p { q with mirror := rest }).submit e c x.op x.arg x.payload (bit x.flags 6) (.tile p q.seq) |>.1

/-- DMA_COMPLETE: a DMA with nothing outstanding ends, and its tag takes its status (Table 3-9). -/
def Dev.dmaComplete (d : Dev) (p tag : Nat) : Dev :=
  match SMap.find tag (d.tile p).store.dmas with
  | none => d
  | some q =>
    if q.phase = 0 ∨ q.left ≠ 0 ∨ !q.mirror.isEmpty then d
    else
      let st := if q.status = 0 then b2n q.poison else q.status
      d.onTile p (fun t => { t with store := { t.store with
        dmas := SMap.remove tag t.store.dmas
        tagState := SMap.put 0 tag (if st ≤ 1 then 0 else 2) t.store.tagState
        tagStatus := SMap.put 0 tag st t.store.tagStatus } })

/-- DMA_TIMEOUT: a DMA is not complete 10 ms after issue. -/
def Dev.dmaTimeout (d : Dev) (p tag : Nat) : Dev :=
  if (SMap.find tag (d.tile p).store.dmas).isSome then d.endDma p tag 2 5 else d

/-! ### Matrix and vector queues -/

/-- MX_OP_START: the next MMA enters the array, or the next transfer the port (R126). -/
def Dev.mxOpStart (d : Dev) (m : Mem) (p : Nat) (array : Bool) (ecc word : Nat) : Dev :=
  if !d.sheetsRun || !(d.active pTIL p || (d.unit pTIL p).state == .draining) then d
  else
    let t := d.tile p
    let d' := (if array then d.storeError p ecc word else d).onTile p (fun t => t.mxStart array)
    if (d'.tile p).mx.queue = t.mx.queue ∧ (d'.tile p).mx.waitEntry = t.mx.waitEntry then d
    else if array then d'.storeFault m p ecc word else d'

/-- An MMA ends. -/
def Dev.mmaComplete (d : Dev) (p : Nat) : Dev :=
  let t := d.tile p
  match t.mx.nextMma with
  | none => d
  | some (o, x) =>
    let (t', de) := ({ t with mx := x } : Tile).mmaDone o
    let n := t'.mx.busyCc + o.arrayCc (d.variant == 2)
    let d := d.setTile p { t' with mx := { t'.mx with busyCc := n } }
    (d.busy tilMxbusyCount p t'.mx.busyCc n).queueDe p de

/-- A transfer ends; `ones` are the words of accumulator memory that ACCLD read with a single-bit error, and `bad` the cells
whose word held a double-bit error (R144). P1 of a TIL_CE record is the word as the operand numbers it (DESIGN CHOICE, log
entry 109). -/
def Dev.transferComplete (d : Dev) (p : Nat) (ones bad : List Nat) : Dev :=
  let t := d.tile p
  match t.mx.port with
  | none => d
  | some o =>
    let t := { t with mx := { t.mx with port := none } }
    let drained (r : Tile × SpecialCount × Bool) : Dev := (d.setTile p r.1).countMx p r.2.1 r.2.2
    match o.kind with
    | .drainT => drained (t.drainT o 64)
    | .drainS => drained (t.drainS o 64)
    | .accld => ((ones.foldl (fun (d : Dev) w => d.tileCe p 2 w) d).setTile p (t.accld o bad)).queueDe p (!bad.isEmpty)
    | .accst => d.setTile p (t.accst o)
    | .accinv => d.setTile p (t.accinv o)
    | .mma => d.setTile p t

/-- MX_OP_COMPLETE. -/
def Dev.mxOpComplete (d : Dev) (p : Nat) (array : Bool) (ones bad : List Nat) : Dev :=
  if !d.sheetsRun then d else if array then d.mmaComplete p else d.transferComplete p ones bad

/-- VECTOR_OP_START: the next vector operation takes the datapath. -/
def Dev.vectorStart (d : Dev) (m : Mem) (p ecc word : Nat) : Dev :=
  let t := d.tile p
  if t.vx.run.isSome || t.vx.queue.isEmpty || d.pwr.gated then d
  else ((d.storeError p ecc word).onTile p Tile.vStart).storeFault m p ecc word

/-- VSTAT after an operation; `seen` says that it read or wrote poison (R154). -/
def vstatOr (old : Nat) (r : VResult) (seen : Bool) : Nat :=
  let low := (old % 16) ||| (b2n r.empty + 2 * b2n (r.count.nans != 0) + 4 * b2n (r.count.ovfs != 0) + 8 * b2n seen)
  low + satAdd 0xFFFF (bits old 16 16) r.brz * 2 ^ 16

/-- VECTOR_OP_COMPLETE: the operation lands its result. A gather or scatter leaves VRES at its fault, or at 0. -/
def Dev.vectorComplete (d : Dev) (p : Nat) : Dev :=
  let t := d.tile p
  match t.vx.run with
  | none => d
  | some it =>
    let r := vExec { t with vx := { t.vx with run := none } } it
    let n := r.tile.vx.busyCc + it.datapathCc
    let t' := r.tile
    let t' := { t' with
      vx := { t'.vx with busyCc := n, hold := t'.vx.hold && !it.isGather }
      core := { t'.core with
        vstat := vstatOr t'.core.vstat r (r.poison || (it.readsPred && it.predPoison))
        vres := if it.isGather then it.faultAt.getD 0 else t'.core.vres } }
    let d := (d.setTile p t').busy tilVxbusyCount p r.tile.vx.busyCc n
    d.countVx p r.count r.poison

/-! ### Debug reads (R145, R149) -/

/-- TIL.ACCDBG_CTL written. -/
def Dev.accdbg (d : Dev) (p v : Nat) : Dev :=
  if !d.debugOpen then d
  else
    let d := [tilAccdbgCtlRow, tilAccdbgCtlCell, tilAccdbgCtlPart, tilAccdbgCtlSrc, tilAccdbgCtlMode].foldl
      (fun (d : Dev) f => d.fset f p (bits v f.lo f.width)) d
    if bit v 31 then
      (d.fset tilAccdbgStatDone p 0).onTile p (fun t => { t with mx := { t.mx with dbgPending := true } })
    else d

/-- The cell that a debug read names, with its mode: none where the row is invalid or of the other mode, the accumulator
EMPTY, or SRC reserved. -/
def Dev.debugCell (d : Dev) (p : Nat) : Option (Nat × Cell) :=
  let x := (d.tile p).mx
  let cell := d.fget tilAccdbgCtlCell p
  match d.fget tilAccdbgCtlSrc p with
  | 0 =>
    let mode := d.fget tilAccdbgCtlMode p + 1
    let row := d.fget tilAccdbgCtlRow p
    if x.accmem && SMap.get false (rowKey mode row) x.rowValid then
      some (mode, SMap.get Cell.zero (rowKey mode row * 4096 + cell) x.rows)
    else none
  | 1 => if x.pingMode = 0 then none else some (x.pingMode, SMap.get Cell.zero cell x.ping)
  | 2 => if x.pongMode = 0 then none else some (x.pongMode, SMap.get Cell.zero cell x.pong)
  | _ => none

/-- ACCDBG_READ_DONE. -/
def Dev.accdbgDone (d : Dev) (p : Nat) : Dev :=
  if !(d.tile p).mx.dbgPending then d
  else
    let c := d.debugCell p
    let d := d.onTile p (fun t => { t with mx := { t.mx with dbgPending := false } })
    let v := (c.map (fun x => if d.fget tilAccdbgCtlPart p = 0 then x.2.v else x.2.c)).getD 0
    let flags := (c.map (fun x => x.2.flags)).getD 0
    let d := (d.fset tilAccdbgDataLoDataLo p (v % 2 ^ 32)).fset tilAccdbgDataHiDataHi p (v / 2 ^ 32)
    let d := ((d.fset tilAccdbgStatNan p (flags % 2)).fset tilAccdbgStatPinf p (bits flags 1 1)).fset tilAccdbgStatNinf p (bits flags 2 1)
    ((d.fset tilAccdbgStatPoison p (bits flags 3 1)).fset tilAccdbgStatInvalid p (b2n c.isNone)).fset tilAccdbgStatDone p 1

/-! ### Starting and stopping (R59, R81, R88, R389) -/

/-- START (R59): every architectural and special register is cleared but NMODE, LTILE and M0; tags in flight stay so. -/
def Tile.start (t : Tile) (entry : Nat) : Tile :=
  let c := t.core
  { t with
    core := { Core.reset with
      run := .running, pc := entry, cc := c.cc, prog := c.prog, nmode := nmodeStored t.store.launchNmode
      ltile := c.ltile, ltileValid := c.ltileValid
      infoCause := c.infoCause, infoSlot := c.infoSlot, infoPc := c.infoPc, infoAddr := c.infoAddr }
    store := { t.store with
      tagState := t.store.tagState.filter (fun e => e.2 == 1 && (SMap.find e.1 t.store.dmas).isSome)
      tagStatus := [], openStep := none, commit := .none }
    vx := { t.vx with v := [], vPoison := [], m := [], mPoison := [], t := [], tPoison := [] } }

/-- The tile may be started: ACTIVE, and IDLE, HALTED or EXC_HALT. -/
def Dev.startable (d : Dev) (p : Nat) : Bool := d.active pTIL p && !(d.tile p).core.run.issuing

/-- START. -/
def Dev.startTile (d : Dev) (p : Nat) : Dev :=
  if d.startable p then d.onTile p (fun t => t.start (d.fget tilRunctlEntry p)) else d

/-- STOP: HALTED at the bundle boundary, without a completion. -/
def Dev.stopTile (d : Dev) (m : Mem) (p : Nat) : Dev :=
  if (d.tile p).core.run.issuing then
    ((d.onTile p (fun t => t.landAll.halted.clearPrepared)).dropDirect p).tileHalted m p
  else d

/-- RESUME, in the debug-open states (R81). -/
def Dev.resumeTile (d : Dev) (p : Nat) : Dev :=
  if d.debugOpen && (d.tile p).core.run == .halted && d.active pTIL p then
    d.onTile p (fun t => { t with core := { t.core with run := .running } })
  else d

/-- TIL.RUNCTL written: ENTRY is stored, and one of START, STOP and RESUME acts where it alone is set. -/
def Dev.runctl (d : Dev) (m : Mem) (p v : Nat) : Dev :=
  let d := d.fset tilRunctlEntry p (bits v 16 14)
  match v % 8 with
  | 1 => d.startTile p
  | 2 => d.stopTile m p
  | 4 => d.resumeTile p
  | _ => d

/-! ### Tile commands (Table 14-4) -/

/-- The logical tiles of a mask. -/
def maskTiles (v : Nat) : List Nat := setBits 64 v

/-- The physical tile that carries a logical one now. -/
def Dev.carrier (d : Dev) (l : Nat) : Option Nat := (d.physOf l).filter (fun p => d.logicalOf p == some l)

/-- PROG_LOAD: the image goes into a stopped tile's program store, and Deckle records the load (R53, R274). -/
def Dev.progLoad (d : Dev) (m : Mem) (q : Nat) : Dev :=
  d.startCmd q 1 (fun d c =>
    let l := c.f 8 1
    match d.carrier l with
    | none => d.complete c 3 0 0
    | some p =>
      if d.down pTIL p then d.complete c 5 0 0
      else if (d.tile p).core.run.issuing then d.complete c 4 0 0
      else
        let n := c.f 12 2
        let image := d.readImage m (c.f 10 2) (c.f 16 8) n
        let d := d.noteRegion (c.f 10 2) (c.f 16 8) (64 * n)
        match image with
        | none => d.complete c 9 0 0
        | some image =>
          let d := d.onTile p (fun t => { t with core := { t.core with prog := loadProg n image t.core.prog } })
          let d := match d.deckle.placement with
            | some pl =>
              let pl := { pl with loads := SMap.insert l (c.f 10 2, c.f 16 8, n) pl.loads }
              { d with deckle := { d.deckle with placement := some pl } }
            | none => d
          d.complete c 0 0 0)

/-- TILE_START (R389). -/
def Dev.tileStart (d : Dev) (q : Nat) : Dev :=
  d.startCmd q 2 (fun d c =>
    let ps := (maskTiles (c.f 8 8)).map d.carrier
    if ps.any (fun p => !p.any d.startable) then d.complete c 4 0 0
    else
      let d := (ps.filterMap id).foldl (fun (d : Dev) p =>
        let cq := d.fget hbxSqcfgCq q + 1
        let d := (d.fset tilRunctlEntry p (c.f 16 2)).onTile p (fun t =>
          { t with store := { t.store with launchNmode := c.f 24 8, launchCq := cq } })
        d.startTile p) d
      d.complete c 0 0 0)

/-- TILE_STOP. -/
def Dev.tileStop (d : Dev) (m : Mem) (q : Nat) : Dev :=
  d.startCmd q 3 (fun d c =>
    let ps := (maskTiles (c.f 8 8)).map d.carrier
    if ps.any (fun p => p.isNone) then d.complete c 3 0 0
    else if (ps.filterMap id).any (fun p => d.down pTIL p) then d.complete c 5 0 0
    else ((ps.filterMap id).foldl (fun (d : Dev) p => d.stopTile m p) d).complete c 0 0 0)

end Sys2Proof.Machine
end

