-- ==== Sys2Proof/Machine/RegView.lean ====
section
/-! DEFINITION. Machine/RegView.lean: what the host reads: the common area of every page, and the words of each block's
registers (chapters 1, 2, 3, 5 to 18). -/

namespace Sys2Proof.Machine

/-! ### Words from fields (R9, R39) -/

/-- Is the register one of a ring of HBX, acting on RINGSEL (R397)? -/
def isRingReg (cls off : Nat) : Bool :=
  cls == pHBX && ((decide (0x44 ≤ off) && decide (off ≤ 0x4C)) || (decide (0x54 ≤ off) && decide (off ≤ 0x60)))

/-- The number under which the fields of a register are stored: its page instance, or what its selector names. -/
def Dev.fieldInst (d : Dev) (cls inst off : Nat) : Nat :=
  if cls = pSTP ∧ (off = 0x88 ∨ off = 0x8C ∨ off = 0x90) then d.fget stpCqselQueue 0
  else if cls = pBZE ∧ off = 0x108 then routeEntry (d.fget bzeRtselLevel 0) (d.fget bzeRtselIndex 0)
  else if cls = pCOL ∧ 0x48 ≤ off ∧ off ≤ 0x60 then d.fget colGrpselGroup 0
  else if isRingReg cls off then d.fget hbxRingselRing 0
  else inst

/-- The stored fields of a register. -/
def fieldsAt (cls off : Nat) : List Field := (fieldsOf cls).filter (fun f => f.off == off)

/-- The word of a register's stored fields; a WO field reads 0. -/
def Dev.plainWord (d : Dev) (cls inst off : Nat) : Nat :=
  let i := d.fieldInst cls inst off
  (fieldsAt cls off).foldl (fun n f => if f.acc = .wo then n else n + d.fget f i * 2 ^ f.lo) 0

/-! ### The common area (Table 2-3) -/

/-- PG_CAP.PRESENT. -/
def UnitPage.present (u : UnitPage) : Bool := !u.fuseBad

/-- PG_STAT.STATE as read: in FAILED a unit that is not DISABLED reads OFF (R414). -/
def Dev.stateView (d : Dev) (u : UnitPage) : Nat :=
  match u.state with
  | .off => 0
  | .active => if d.phase = .failed then 0 else 1
  | .draining => if d.phase = .failed then 0 else 2
  | .disabled => 3

/-- A common register of a page. -/
def Dev.commonWord (d : Dev) (cls inst off : Nat) : Nat :=
  let u := d.unit cls inst
  match off with
  | 0x00 => 0x100 + inst * 2 ^ 16 + cls * 2 ^ 24
  | 0x04 => b2n u.present + 2 * b2n u.fuseBad + 4 * b2n u.fieldBad + 8 * b2n u.unlicensed + 16 * b2n (drainable cls)
      + 32 * b2n (cls == pTIL && decide (15 ≤ inst % 17)) + drainBound cls * 2 ^ 16
  | 0x08 => b2n u.enable + 2 * b2n u.disReq + 4 * b2n u.forceReq
  | 0x0C => d.stateView u + 16 * b2n u.fault + 32 * b2n u.forced + u.reason * 2 ^ 8
  | 0x10 => u.err
  | 0x14 => u.mask
  | 0x18 => u.ceCnt + u.deCnt * 2 ^ 16 + u.uccCnt * 2 ^ 24
  | 0x1C => u.capCode + u.capSub * 2 ^ 16
  | 0x20 => u.capP0
  | 0x24 => u.capP1
  | 0x28 => u.capP2
  | 0x2C => d.lcs + (if cls = pTIL ∧ d.debugOpen then 2 ^ 8 + 2 ^ 9 else 0)
  | 0x30 => u.seq % 2 ^ 32
  | 0x34 => u.seqHi
  | _ => 0

/-! ### Tiles and engines -/

/-- TIL.RUNSTAT.STATE and STALL_WHY (Table 3-14). A bundle held by the duty hold or by gated Sheets reads STALLED with
STALL_WHY 10 (R470). -/
def Dev.runstat (d : Dev) (p : Nat) : Nat :=
  let c := (d.tile p).core
  let why := if c.run.issuing && c.stallWhy == 0 && !d.sheetsRun then 10 else c.stallWhy
  let state := match c.run with
    | .idle => 0
    | .running => if why = 0 then 1 else 2
    | .handler => if why = 0 then 3 else 2
    | .halted => 4
    | .excHalt => 5
  state + (if c.run.issuing then why else 0) * 2 ^ 8

/-- The block registers of a TIL page that follow from the tile. -/
def Dev.tilView (d : Dev) (p off : Nat) : Option Nat :=
  let t := d.tile p
  match off with
  | 0x44 => some (d.runstat p)
  | 0x48 => some t.core.pc
  | 0x4C => some (t.core.infoCause + t.core.infoSlot * 2 ^ 8 + t.core.infoPc * 2 ^ 12)
  | 0x50 => some (t.core.infoAddr % 2 ^ 32)
  | 0x54 => some (t.core.infoAddr / 2 ^ 32 % 2 ^ 32)
  | 0x60 => some (t.core.ltile + 2 ^ 7 * b2n t.core.ltileValid)
  | 0x80 => some (t.mx.pingMode + 4 * t.mx.pongMode + 16 * min 4 (t.mx.queue.length + t.mx.waitEntry.length)
      + 2 ^ 7 * b2n t.mx.array.isSome + 2 ^ 8 * b2n t.mx.ledgerRole + 2 ^ 9 * b2n t.mx.accmem)
  | 0xA0 => some (min 8 t.vx.queue.length + 16 * b2n t.vx.run.isSome + 32 * b2n t.vx.hold)
  | 0x90 | 0x94 | 0x98 => if d.debugOpen then none else some 0
  | _ => none

/-- The block registers of an SLV page that follow from the engine. -/
def Dev.slvView (d : Dev) (e off : Nat) : Option Nat :=
  let x := d.solver e
  let state (s : Nat) : Nat := match x.slot s with
    | .empty => 0
    | .loading _ => 1
    | .resident _ => 2
  let hash (s : Nat) : Nat := match x.slot s with
    | .resident r => r.hash
    | _ => 0
  match off with
  | 0x44 => some (min 4 x.queue.length + 8 * b2n x.run.isSome + 16 * (x.run.elim 0 (fun c => c.launch.slot))
      + 64 * b2n x.loading.isSome)
  | 0x50 => some ((List.range 4).foldl (fun n s => n + (state s + 4 * b2n (x.halt.contains s)) * 16 ^ s) 0)
  | _ =>
    if 0x54 ≤ off ∧ off ≤ 0x70 then
      let k := (off - 0x54) / 4
      some (hash (k / 2) / 2 ^ (32 * (k % 2)) % 2 ^ 32)
    else none

/-! ### Deckle (Table 10-9) -/

/-- DKL.STAT. -/
def Dev.dklStat (d : Dev) : Nat :=
  let k := d.deckle
  let redraw := k.events.any (fun e => match e with
    | .redraw .. => true
    | _ => false)
  let state := if d.remapping then 3 else if k.migration.isSome then 4 else if redraw then 5
    else if k.placement.isSome then 2 else 0
  state + 8 * b2n (!k.events.isEmpty) + 16 * k.layout + 2 ^ 8 * (k.placement.elim 0 (fun p => p.man.tiles.length))

/-- DKL.SPARE. -/
def Dev.dklSpare (d : Dev) : Nat :=
  let bitsOf (p : Nat → Bool) : Nat := ofBits ((List.range 4).filter p)
  let spare (k : Nat) : Bool := match d.deckle.placement with
    | some pl => (SMap.get [] k pl.spares).any (fun p => d.health (17 * k + p) == 0)
    | none => decide ((d.activeSlots k).length < (d.placeable k).length)
  let on16 (k : Nat) : Bool := match d.deckle.placement with
    | some pl => pl.roles.contains (17 * k + 16)
    | none => d.ledgerSlot k == some 16
  let noSlot (k : Nat) : Bool := (d.ledgerSlot k).isNone
  if d.mapLive then bitsOf spare + 16 * bitsOf on16 + 256 * bitsOf noSlot else 0

/-- The 32 bytes of a region-table entry (Table 9-3). -/
def Region.bytes (r : Region) : List Nat :=
  let st := match r.state with
    | .free => 0
    | .active => 1
    | .migrating => 2
    | .failed => 3
  [st, b2n r.stripe, 0, 0] ++ toLE 4 r.stks ++ toLE 8 r.base ++ toLE 8 r.size ++ toLE 2 r.gen ++ List.replicate 6 0

/-- The block registers of the DKL page that follow from its state. -/
def Dev.dklView (d : Dev) (off : Nat) : Option Nat :=
  match off with
  | 0x40 => some d.dklStat
  | 0x54 => some d.dklSpare
  | 0x5C => some ((d.physOf (d.fget dklTselTile 0)).elim 0 (fun p => p + 2 ^ 7))
  | 0x64 => some ((d.deckle.placement.bind (fun pl => SMap.find (d.fget dklSselSi 0) pl.smap)).elim 0 (fun x =>
      x.1 + 8 * x.2 + 32))
  | 0x90 =>
    let i := d.fget dklHselIndex 0
    some (d.health i + (if 0x280 ≤ i ∧ i < 0x284 then 4 * SMap.get 0 (i - 0x280) d.deckle.grades else 0))
  | 0x98 => some (d.deckle.migration.elim 0 (fun g =>
      g.handle + 2 ^ 12 * (g.done * 1000 / max 1 ((d.entry g.handle).size / 4096))))
  | _ =>
    if 0x6C ≤ off ∧ off ≤ 0x88 then
      some (ofLE (((d.entry (d.fget dklRselHandle 0)).bytes.drop (off - 0x6C)).take 4))
    else none

/-! ### Steps, barriers, links, collectives -/

/-- STP.STAT.STATE. -/
def StepState.code : StepState → Nat
  | .idle => 0
  | .opened => 1
  | .committing => 2
  | .spoiled => 3

/-- The block registers of the STP page that follow from its state. -/
def Dev.stpView (d : Dev) (m : Mem) (off : Nat) : Option Nat :=
  match off with
  | 0x44 => some (d.stp.state.code + d.stp.cause * 2 ^ 8 + 2 ^ 16 * b2n d.stp.redrawFail + 2 ^ 17 * b2n d.stp.lateCause)
  | 0x78 => some (d.ledgerLive m false % 2 ^ 16 + min 0xFFFF d.ledgerCap * 2 ^ 16)
  | 0x94 =>
    let x := d.couch (d.fget stpCqselQueue 0)
    let state := match x.state with
      | .off => 0
      | .active => 1
      | .failed => 2
    some ((x.pushed - x.popped) % 2 ^ 9 + state * 2 ^ 12 + x.err * 2 ^ 16)
  | _ => none

/-- The block registers of the SYN page that follow from the barriers. -/
def Dev.synView (d : Dev) (off : Nat) : Option Nat :=
  let x := d.bar (d.fget synBarselBarrier 0)
  match off with
  | 0x44 => some x.count
  | 0x48 => some (x.arrived % 2 ^ 7 + 2 ^ 7 * b2n x.broken + x.gen % 2 ^ 16 * 2 ^ 8 + 2 ^ 24 * b2n x.hostpend)
  | _ =>
    if 0x60 ≤ off ∧ off ≤ 0x7C then
      some (ofBits ((List.range 32).filter (fun k => (d.bar (8 * (off - 0x60) + k)).broken)))
    else none

/-- The block registers of the CAD page that follow from the count. -/
def Dev.cadView (d : Dev) (off : Nat) : Option Nat :=
  match off with
  | 0x48 => some (d.cad.count % 2 ^ 32)
  | 0x4C => some d.cad.hi
  | _ => none

/-- FLT.LINKSTAT and FLT.BKGUSE of a node. What background flits took of the last window is a free value within its limit
of 1 % (R31; log entry 103). -/
def Dev.fltView (d : Dev) (k off : Nat) : Option Nat :=
  match off with
  | 0x40 => some ((peers k).foldl (fun n j => n + (d.link k j + 4 * b2n (d.feltLink k j).retrying) * 16 ^ j) 0)
  | 0x4C => some (Config.bkgShare (pFLT * 256 + k) d.free % 101)
  | _ => none

/-- STK.TEMP and STK.BKGUSE of a stack: its DRAM sensor in whole °C (DEDUCED, log entry 90), and the share of background
accesses, a free value within its limit of 2 % (R31; log entry 103). -/
def Dev.stkView (d : Dev) (s off : Nat) : Option Nat :=
  match off with
  | 0x60 =>
    let x := d.stack s
    let age := x.binAge + (d.fget glbOpsecSeconds 0 - x.binSince) / daySeconds
    some (d.fget stkRefbinB0rows s + min 0xFF age * 2 ^ 16)
  | 0x70 => some ((d.sensor (0x20 + s)).degrees)
  | 0x74 => some (Config.bkgShare (pSTK * 256 + s) d.free % 201)
  | _ => none

/-- The block registers of a BZP page that follow from the port. -/
def Dev.bzpView (d : Dev) (p off : Nat) : Option Nat :=
  let x := d.port p
  match off with
  | 0x44 =>
    let state := match x.state with
      | .off => 0
      | .training => 1
      | .up => 2
      | .retraining => 3
      | .retryWait => 4
    some (state + x.width * 16 + 64 * b2n (x.state == .up && decide (x.width < 3)) + x.lanes * 2 ^ 8)
  | 0x48 => some (x.peerId % 2 ^ 20 + x.peerPort % 32 * 2 ^ 20 + 2 ^ 31 * b2n x.peerValid)
  | 0x68 => some (x.credit.getD 0 0 % 2 ^ 7 + x.credit.getD 1 0 % 2 ^ 9 * 2 ^ 7 + x.credit.getD 2 0 % 2 ^ 9 * 2 ^ 16
      + x.credit.getD 3 0 % 2 ^ 7 * 2 ^ 25)
  | _ => none

/-- CHSTAT.STATE. -/
def ChanState.code : ChanState → Nat
  | .closed => 0
  | .opening => 1
  | .opened => 2
  | .closing => 3
  | .failed => 4

/-- CHSTAT of a channel on an engine: one that another engine holds reads CLOSED with CAUSE IN_USE (R347). -/
def Dev.chstat (d : Dev) (e c : Nat) : Nat :=
  let x := d.chan e c
  if (d.holder c).any (fun k => k != e) then 6 * 2 ^ 8
  else x.state.code + 8 * b2n x.resetting + 16 * b2n x.stopped + 32 * b2n x.flushed + x.cause * 2 ^ 8
    + x.unacked.length % 2 ^ 9 * 2 ^ 16

/-- The block registers of a BZE page that follow from its channels; offsets 0x100 to 0x110 exist on instance 0 only. -/
def Dev.bzeView (d : Dev) (e off : Nat) : Option Nat :=
  let c := d.fget bzeChselChannel e
  match off with
  | 0x40 => some (d.inUse e)
  | 0x48 => some (d.chan e c).cfg
  | 0x4C => some (d.chan e c).peer
  | 0x50 => some (d.chstat e c)
  | _ => if e ≠ 0 ∧ 0x100 ≤ off then some 0 else none

/-! ### Host interface, recorder, security, power -/

/-- The block registers of the HBX page that follow from the rings. -/
def Dev.hbxView (d : Dev) (off : Nat) : Option Nat :=
  let q := d.fget hbxRingselRing 0
  match off with
  | 0x50 => some ((d.sq q).head + (d.sq q).tail * 2 ^ 16)
  | 0x64 =>
    let x := d.cq q
    some (x.tail + x.phase % 2 * 2 ^ 16 + 2 ^ 17 * b2n (!x.waiting.isEmpty && !d.cqRoom q))
  | 0x70 => some (d.hbx.sqStop % 2 ^ 32)
  | 0x74 => some (d.hbx.sqStop / 2 ^ 32 % 2 ^ 32)
  | _ => none

/-- The block registers of the EVR page that follow from the recorder. -/
def Dev.evrView (d : Dev) (off : Nat) : Option Nat :=
  match off with
  | 0x48 => some (d.evr.seq % 2 ^ 32)
  | 0x4C => some d.evr.seqHi
  | 0x50 => some (d.evr.flushed % 2 ^ 32)
  | 0x54 => some d.evr.flushedHi
  | 0x88 => some (d.evr.wrptr % 2 ^ 14 + d.evr.badBlocks.length % 2 ^ 16 * 2 ^ 16)
  | 0x8C => some (min 0xFFFF d.evr.maxErase)
  | 0xA0 => some d.errsum
  | _ =>
    if 0x68 ≤ off ∧ off ≤ 0x84 then
      match SMap.find (d.fget evrRselSlot 0) d.evr.ring with
      | some r => some (ofLE ((r.bytes.drop (off - 0x68)).take 4))
      | none => some 0
    else none

/-- THM.STAT. -/
def Dev.thmStat (d : Dev) : Nat := b2n (d.warning 0) + 2 * b2n (d.warning 1) + 4 * b2n (d.warning 2)

/-- The block registers of the THM page that follow from the sensors. -/
def Dev.thmView (d : Dev) (off : Nat) : Option Nat :=
  if off = 0x44 then some (d.sensorWord (d.fget thmSelSensor 0))
  else if off = 0x54 then some d.thmStat
  else none

/-- The block registers of the SEC page that follow from fuses and NV store. Commands are whole, so BUSY reads 0. -/
def Dev.secView (d : Dev) (off : Nat) : Option Nat :=
  match off with
  | 0x40 => some (d.sec.fused + 8 * b2n d.sec.owner.isSome + 32 * b2n d.sec.pendingLcs.isSome
      + 2 ^ 8 * d.sec.pendingLcs.getD 0 + 2 ^ 12 * min 3 d.sec.retcnt)
  | 0x5C => some (d.sec.svnCounter + d.sec.svnRunning * 2 ^ 8)
  | _ => none

/-- LICID of a licence blob (Table 17-6). -/
def licenceId (b : List Nat) : Nat := ofLE ((b.drop 16).take 4)

/-- The block registers of the LIC page that follow from the licence in effect. -/
def Dev.licView (d : Dev) (off : Nat) : Option Nat :=
  match off with
  | 0x40 => some (d.variant + 4 * b2n d.sec.licPending + d.sec.licEval * 2 ^ 8)
  | 0x58 => some (if d.sec.licEffect.isEmpty then 0 else licenceId d.sec.licEffect)
  | _ => none

/-- PWR.VCMD: setpoints in 5 mV units above 600 mV. -/
def Dev.pwrView (d : Dev) (off : Nat) : Option Nat :=
  match off with
  | 0x4C => some (d.pwr.setpoints.zipIdx.foldl (fun n x => n + (x.1 - 600) / 5 * 256 ^ x.2) 0)
  | _ => none

/-- GLB.DEVSTATE and GLB.VARIANT. -/
def Dev.glbView (d : Dev) (off : Nat) : Option Nat :=
  match off with
  | 0x50 => some d.phase.code
  | 0x54 => some d.variant
  | _ => none

/-! ### Reading a page -/

/-- A block register that follows from structured state. -/
def Dev.viewWord (d : Dev) (m : Mem) (cls inst off : Nat) : Option Nat :=
  match cls with
  | 0x00 => d.glbView off
  | 0x01 => d.secView off
  | 0x02 => d.licView off
  | 0x03 => d.evrView off
  | 0x04 => d.pwrView off
  | 0x05 => d.thmView off
  | 0x06 => d.cadView off
  | 0x07 => d.dklView off
  | 0x08 => d.hbxView off
  | 0x09 => if off = 0x58 then some 0 else none
  | 0x0A => if off = 0x40 then some (min 16 d.col.insts.length) else none
  | 0x0B => d.stpView m off
  | 0x0E => d.synView off
  | 0x10 => d.tilView inst off
  | 0x11 => d.slvView inst off
  | 0x12 => d.stkView inst off
  | 0x13 => d.fltView inst off
  | 0x14 => d.bzpView inst off
  | 0x15 => d.bzeView inst off
  | _ => none

/-- The block registers of the page answer with their content (R38, R414, R419): not those of a unit that is absent, and
in FAILED those of GLB, SEC, LIC, EVR, PWR, THM and PCI only. -/
def Dev.blockOpen (d : Dev) (cls inst : Nat) : Bool :=
  (d.unit cls inst).present && (d.phase != .failed || decide (cls ≤ pTHM) || cls == pPCI)

/-- A TIL or SLV page during a compute reset: its block registers read their reset values (R419). -/
def Dev.pageReset (d : Dev) (cls : Nat) : Bool := d.phase == .computeReset && (cls == pTIL || cls == pSLV)

/-- The word of a register of an implemented page. -/
def Dev.regWord (d : Dev) (m : Mem) (cls inst off : Nat) : Nat :=
  if off < 0x40 then d.commonWord cls inst off
  else if !d.blockOpen cls inst then 0
  else match d.viewWord m cls inst off with
    | some v => if d.pageReset cls then 0 else v
    | none => d.plainWord cls inst off

/-- The page exists (R35). -/
def pageExists (cls inst : Nat) : Bool := decide (inst < instances cls)

end Sys2Proof.Machine
end

