-- ==== Sys2Proof/Machine/Security.lean ====
section
/-! DEFINITION. Machine/Security.lean: tokens, the life cycle, firmware images, attestation and licences (chapter 17). -/

namespace Sys2Proof.Machine

/-- A little-endian field of a byte list. -/
def fieldOf (b : List Nat) (o n : Nat) : Nat := ofLE ((b.drop o).take n)

/-- Bytes `lo` to `hi` are 0. -/
def zeroIn (b : List Nat) (lo hi : Nat) : Bool := ((b.drop lo).take (hi + 1 - lo)).all (fun x => x == 0)

/-- GLB.SERIAL. -/
def Dev.serial (d : Dev) : Nat := d.fget glbSerialLoSerial 0 + d.fget glbSerialHiSerial 0 * 2 ^ 32

/-! ### Status (Table 17-7) -/

def sOK : Nat := 0
def sBAD_FORMAT : Nat := 1
def sBAD_SIGNATURE : Nat := 2
def sSERIAL_MISMATCH : Nat := 3
def sSTALE_TOKEN : Nat := 4
def sNOT_PERMITTED : Nat := 5
def sREGION_FAILED : Nat := 6
def sROLLBACK : Nat := 7
def sKEY_REVOKED : Nat := 8

/-- SEC.RESULT. -/
def Dev.secResult (d : Dev) (status detail : Nat) : Dev :=
  (d.fset secResultStatus 0 status).fset secResultDetail 0 detail

/-- A refusal whose status chapter 17 does not name: one of the refusals of Table 17-7, a free value (log entry 52). -/
def Dev.secRefuse (d : Dev) : Dev :=
  let (v, d) := d.fresh
  d.secResult (1 + v % 8) 0

/-- The argument's offset. -/
def Dev.secOff (d : Dev) : Nat := d.fget secArgoffLoOff 0 * 64 + d.fget secArgoffHiOff 0 * 2 ^ 32

/-- Read `n` bytes at the argument location. -/
def Dev.secRead (d : Dev) (m : Mem) (n : Nat) : Option (List Nat) :=
  (d.readRegion m (d.fget secArgregHandle 0) d.secOff n).map (fun r => r.1)

/-- What that read does at the dies. -/
def Dev.secNoted (d : Dev) (n : Nat) : Dev := d.noteRegion (d.fget secArgregHandle 0) d.secOff n

/-- Write bytes at the argument location plus `o`. -/
def Dev.secWrite (d : Dev) (o : Nat) (bs : List Nat) : Option Dev :=
  d.writeRegion (d.fget secArgregHandle 0) (d.secOff + o) bs false

/-! ### Tokens (R449) -/

/-- What a token check finds: accepted, a status, or a refusal without a stated status. -/
inductive TokenCheck where
  | accepted
  | status (s : Nat)
  | unnamed
  deriving DecidableEq, Repr

/-- The signers that Table 17-2 accepts for a KIND: 0 the debug key, 1 the owner key. -/
def signerAllowed (kind signer : Nat) : Bool := signer == 0 || (signer == 1 && (kind == 1 || kind == 3))

/-- Check a token in the order of R449; without an owner key every SIGNER 1 token fails with BAD_SIGNATURE (R451). `state` says that the current state is the From state of a row that the token's
KIND matches and that is asked for. -/
def Dev.checkToken (d : Dev) (b : List Nat) (state : Nat → Bool) : TokenCheck :=
  let kind := fieldOf b 4 1
  let signer := fieldOf b 5 1
  let key := if signer = 0 then some d.sec.rom.debug else d.sec.owner
  if fieldOf b 0 4 ≠ 0x544B4E31 ∨ kind = 0 ∨ 4 < kind ∨ !zeroIn b 6 7 ∨ !zeroIn b 18 63 then .status sBAD_FORMAT
  else if signer = 1 ∧ d.sec.owner.isNone then .status sBAD_SIGNATURE
  else if fieldOf b 8 8 ≠ d.serial then .status sSERIAL_MISMATCH
  else if !signerAllowed kind signer then .unnamed
  else if !key.any (fun k => verifySig k (b.take 64) (b.drop 64)) then .status sBAD_SIGNATURE
  else if kind = 1 ∧ fieldOf b 16 2 ≠ d.fget glbPwrcycCount 0 then .status sSTALE_TOKEN
  else if kind ≠ 1 ∧ fieldOf b 16 2 ≠ 0xFFFF then .unnamed
  else if !state kind then .status sNOT_PERMITTED
  else .accepted

/-- Take the token at the argument location and act on it. -/
def Dev.withToken (d : Dev) (m : Mem) (state : Nat → Bool) (f : Dev → Dev) : Dev :=
  match d.secRead m 160 with
  | none => d.secResult sREGION_FAILED 0
  | some b =>
    let d := d.secNoted 160
    match d.checkToken b state with
    | .accepted => (f d).secResult sOK 0
    | .status s => d.secResult s 0
    | .unnamed => d.secRefuse

/-! ### The life cycle (R446 to R448) -/

/-- Fuses of a transition are blown. -/
def Dev.blow (d : Dev) (target : Nat) : Dev :=
  let d := d.record 0x6001 pSEC 0 target d.sec.fused 0
  { d with sec := { d.sec with
      pendingLcs := some target, retcnt := if d.sec.fused = 4 ∧ target = 1 then d.sec.retcnt + 1 else d.sec.retcnt } }

/-- The token KIND that a fused transition of Table 17-2 needs; none where there is no such row, 0 where it needs none. -/
def Dev.transitionKind (d : Dev) (target : Nat) : Option Nat :=
  match d.sec.fused, target with
  | 0, 1 => if d.sec.certificate.isEmpty then none else some 4
  | 1, 2 => some 0
  | 2, 4 => some 2
  | 4, 1 => if d.sec.retcnt < 3 then some 4 else none
  | 2, 5 => some 3
  | 4, 5 => some 3
  | _, _ => none

/-- LC_TRANSITION to the state in SEC.CMD.TARGET. -/
def Dev.lcTransition (d : Dev) (m : Mem) : Dev :=
  let target := d.fget secCmdTarget 0
  if d.sec.pendingLcs.isSome then d.secResult sNOT_PERMITTED 0
  else match d.transitionKind target with
    | none => d.secResult sNOT_PERMITTED 0
    | some 0 => (d.blow target).secResult sOK 0
    | some k => d.withToken m (fun kind => kind == k) (fun d => d.blow target)

/-- FIELD_DEBUG (R450). -/
def Dev.fieldDebugToken (d : Dev) (m : Mem) : Dev :=
  d.withToken m (fun kind => kind == 1 && d.sec.fused == 2) (fun d =>
    { d with sec := { d.sec with fieldDebug := true } }.record 0x6004 pSEC 0 (d.fget glbPwrcycCount 0) 0 0)

/-- OWNER_KEY (R451). -/
def Dev.ownerKey (d : Dev) (m : Mem) : Dev :=
  if d.sec.fused ≠ 1 ∨ d.sec.owner.isSome then d.secResult sNOT_PERMITTED 0
  else match d.secRead m 97 with
    | none => d.secResult sREGION_FAILED 0
    | some b =>
      let d := d.secNoted 97
      if b.headD 0 = 4 then { d with sec := { d.sec with owner := some b } }.secResult sOK 0
      else d.secResult sBAD_FORMAT 0

/-- CLEAR_FIELDMAP (R448). -/
def Dev.clearFieldmap (d : Dev) : Dev :=
  if d.sec.fused = 4 then { d with sec := { d.sec with fieldMap := [] } }.secResult sOK 0
  else d.secResult sNOT_PERMITTED 0

/-! ### Firmware (R452 to R455) -/

/-- The reason why an image fails verification (R453). -/
def Sec.imageFault (s : Sec) (b : List Nat) : Option Nat :=
  let keyid := fieldOf b 6 1
  let svn := fieldOf b 7 1
  let size := fieldOf b 8 4
  if b.length < 256 ∨ fieldOf b 0 4 ≠ 0x434C5746 ∨ fieldOf b 4 2 ≠ 1 ∨ 1 < keyid ∨ svn = 0 ∨ 64 < svn
      ∨ 0x800000 - 256 < size ∨ b.length < 256 + size ∨ !zeroIn b 64 127 ∨ !zeroIn b 224 255 then some 1
  else if bit s.revoked keyid then some 2
  else if !verifySig (if keyid = 0 then s.rom.release0 else s.rom.release1) (b.take 128) (b.drop 128) then some 3
  else if svn < s.svnCounter then some 4
  else if sha384 ((b.drop 256).take size) ≠ (b.drop 16).take 48 then some 5
  else none

/-- FW_STAGE (R454): the image goes into the slot that did not boot. The status of a digest mismatch is not named. -/
def Dev.fwStage (d : Dev) (m : Mem) : Dev :=
  match d.secRead m (d.fget secArglenBytes 0) with
  | none => d.secResult sREGION_FAILED 0
  | some b =>
    let d := d.secNoted (d.fget secArglenBytes 0)
    match d.sec.imageFault b with
    | some 1 => d.secResult sBAD_FORMAT 1
    | some 2 => d.secResult sKEY_REVOKED 2
    | some 3 => d.secResult sBAD_SIGNATURE 3
    | some 4 => d.secResult sROLLBACK 4
    | some r => d.secRefuse.fset secResultDetail 0 r
    | none =>
      let d := if d.sec.booted = 0 then ({ d with sec := { d.sec with fw1 := b } }).fset secFwstatSlot1Ok 0 1
        else ({ d with sec := { d.sec with fw0 := b } }).fset secFwstatSlot0Ok 0 1
      d.secResult sOK 0

/-- SVN_COMMIT (R455). -/
def Dev.svnCommit (d : Dev) : Dev :=
  let v := d.fget secCmdSvnval 0
  if d.sec.svnCounter < v ∧ v ≤ d.sec.svnRunning then
    { d with sec := { d.sec with svnCounter := v } }.secResult sOK 0
  else d.secResult sROLLBACK 0

/-! ### Attestation (R456, R457) -/

/-- The image that runs. -/
def Sec.running (s : Sec) : List Nat := if s.booted = 0 then s.fw0 else s.fw1

/-- `n` free bytes: measurements of parts that no layout delimits, and signatures (log entry 53). -/
def Dev.freshBytes (d : Dev) (n : Nat) : List Nat × Dev :=
  let (v, d) := d.fresh
  (toLE n v, d)

/-- The report of Table 17-5 over a nonce. -/
def Dev.report (d : Dev) (nonce : List Nat) : List Nat × Dev :=
  let (m1, d) := d.freshBytes 48
  let (m2, d) := d.freshBytes 48
  let (m4, d) := d.freshBytes 48
  let (sig, d) := d.freshBytes 96
  let lic := if d.sec.licence.isEmpty then List.replicate 48 0 else sha384 d.sec.licence
  (toLE 4 0x57544D31 ++ toLE 2 1 ++ [d.lcs, d.variant] ++ toLE 8 d.serial ++ toLE 2 (d.fget glbPwrcycCount 0) ++ [0, 0]
    ++ toLE 4 (d.fget glbOpsecSeconds 0) ++ [d.sec.svnCounter, d.sec.svnRunning] ++ List.replicate 6 0 ++ nonce
    ++ sha384 d.sec.running ++ m1 ++ m2 ++ lic ++ m4 ++ List.replicate 64 0 ++ sig, d)

/-- ATTEST. -/
def Dev.attest (d : Dev) (m : Mem) : Dev :=
  if d.sec.fused = 5 then d.secResult sNOT_PERMITTED 0
  else match d.secRead m 48 with
    | none => d.secResult sREGION_FAILED 0
    | some nonce =>
      let d := d.secNoted 48
      let (bs, d) := d.report nonce
      match d.secWrite 64 bs with
      | some d => d.secResult sOK 0
      | none => d.secResult sREGION_FAILED 0

/-- CERT_EXPORT: DETAIL is the certificate's length. -/
def Dev.certExport (d : Dev) : Dev :=
  match d.secWrite 0 d.sec.certificate with
  | some d => d.secResult sOK d.sec.certificate.length
  | none => d.secResult sREGION_FAILED 0

/-! ### SEC.CMD (R459) -/

/-- The fields of SEC.CMD are stored. -/
def Dev.secStore (d : Dev) (v : Nat) : Dev :=
  ((d.fset secCmdOp 0 (bits v 0 4)).fset secCmdTarget 0 (bits v 4 3)).fset secCmdSvnval 0 (bits v 8 7)

/-- SEC.CMD written: with GO, the operation of OP runs to its end. -/
def Dev.secCmd (d : Dev) (m : Mem) (v : Nat) : Dev :=
  let d := d.secStore v
  if !bit v 31 then d
  else match bits v 0 4 with
    | 1 => d.lcTransition m
    | 2 => d.fieldDebugToken m
    | 3 => d.ownerKey m
    | 4 => d.attest m
    | 5 => d.certExport
    | 6 => d.fwStage m
    | 7 => d.svnCommit
    | 8 => d.clearFieldmap
    | _ => d.secResult sBAD_FORMAT 0

/-! ### Licences (R410, R411, R458) -/

/-- The format of a licence blob (Table 17-6). -/
def licenceFormat (b : List Nat) : Bool :=
  b.length == 160 && fieldOf b 0 4 == 0x4C494331 && fieldOf b 4 2 == 1 && (fieldOf b 6 1 == 1 || fieldOf b 6 1 == 2)
    && fieldOf b 7 1 == 0 && zeroIn b 20 63

/-- The signature of a licence blob under the licence key. -/
def licenceSigned (key b : List Nat) : Bool := verifySig key (b.take 64) (b.drop 64)

/-- LIC.RESULT. -/
def Dev.licResult (d : Dev) (status : Nat) : Dev := d.fset licResultStatus 0 status

/-- INSTALL: a blob that passes is stored in place of the one before. -/
def Dev.licInstall (d : Dev) (m : Mem) : Dev :=
  let off := d.fget licSrcoffLoOff 0 * 64 + d.fget licSrcoffHiOff 0 * 2 ^ 32
  if d.sec.fused = 5 then d.licResult sNOT_PERMITTED
  else match (d.readRegion m (d.fget licSrcregHandle 0) off 160).map (fun r => r.1) with
    | none => d.licResult sREGION_FAILED
    | some b =>
      let d := d.noteRegion (d.fget licSrcregHandle 0) off 160
      if !licenceFormat b then d.licResult sBAD_FORMAT
      else if !licenceSigned d.sec.rom.licence b then d.licResult sBAD_SIGNATURE
      else if fieldOf b 8 8 ≠ d.serial then d.licResult sSERIAL_MISMATCH
      else { d with sec := { d.sec with licence := b, licPending := true } }.licResult sOK

/-- REMOVE: the stored blob is deleted. -/
def Dev.licRemove (d : Dev) : Dev :=
  if d.sec.fused = 5 then d.licResult sNOT_PERMITTED
  else { d with sec := { d.sec with licence := [], licPending := true } }.licResult sOK

/-- LIC.CTL written: INSTALL first, which leaves REMOVE ignored as BUSY. -/
def Dev.licCtl (d : Dev) (m : Mem) (v : Nat) : Dev :=
  if bit v 0 then d.licInstall m else if bit v 1 then d.licRemove else d

/-- LIC.STAT.EVAL of the stored licence. -/
def Dev.licEvaluation (d : Dev) : Nat :=
  let b := d.sec.licence
  if b.isEmpty then 1
  else if !licenceFormat b || !licenceSigned d.sec.rom.licence b then 2
  else if fieldOf b 8 8 ≠ d.serial then 3
  else 0

/-- The licence checker reads the stored licence (R410): the variant takes effect, and a licence that is absent or fails
writes a record. -/
def Dev.evaluateLicence (d : Dev) : Dev :=
  let e := d.licEvaluation
  let d := { d with
    variant := if e = 0 then fieldOf d.sec.licence 6 1 else 0
    sec := { d.sec with licEval := e, licPending := false, licEffect := if e = 0 then d.sec.licence else [] } }
  if e = 0 then d else d.record 0x6003 pLIC 0 (e - 1) 0 0

/-- A unit is not licensed (R411). -/
def Dev.unlicensed (d : Dev) (cls : Nat) : Bool := d.variant == 0 || (d.variant == 2 && cls == pSLV)

end Sys2Proof.Machine
end

