-- ==== Sys2Proof/Machine/Power.lean ====
section
/-! DEFINITION. Machine/Power.lean: power fail, the thermal trip, the sideband and the sensors' samples (chapters 16 and
18). -/

namespace Sys2Proof.Machine

/-- How each stack left its last operation: one that this power cycle has not tested keeps what was noted before. -/
def Dev.leftHealth (d : Dev) : SMap Nat :=
  (List.range 32).foldl (fun r s =>
    if d.fget stkStatTest s = 0 then r else SMap.put 0 s (d.fget stkStatHealth s) r) d.sec.stored

/-- The bins that the NV store keeps: of a power loss during event 6, only those of the groups that completed (R404). -/
def Dev.keptBins (d : Dev) : SMap StoredBins :=
  if d.bootEvent = 6 then d.sec.bins.filter (fun e => d.fget stkStatTest e.1 != 0) else d.sec.bins

/-- What a loss of power leaves: fuses, NV store, identity and lifetime counts, the host's own memory, and the pins. Rows
moved to spares stay there (DESIGN CHOICE, log entry 117). -/
def Dev.dark (d : Dev) : Dev :=
  let kept : List Field := [glbRevisionBuild, glbRevisionStepping, glbSerialLoSerial, glbSerialHiSerial, glbPwrcycCount,
    glbOpsecSeconds, secFwctlPref, secFwstatSlot0Ok, secFwstatSlot1Ok, evrStatNvok]
  let keys := kept.map (fun f => f.key 0) ++ (List.range 32).map (fun s => stkSpareFree.key s)
  { Dev.reset with
    regs := d.regs.filter (fun e => keys.contains e.1)
    evr := { Evr.reset with
      nv := d.evr.nv, wrptr := d.evr.wrptr, badBlocks := d.evr.badBlocks, erases := d.evr.erases
      flushed := d.evr.flushed, pfLost := d.evr.pfLost }
    stks := d.stks.map (fun e => (e.1, { Stack.reset with sparesUsed := e.2.sparesUsed }))
    pci := { Pcie.reset with perst := d.pci.perst, hostMem := d.pci.hostMem, msixSent := d.pci.msixSent }
    sec := { d.sec with
      fieldDebug := false, licEffect := [], licEval := 0
      stored := d.leftHealth, bins := d.keptBins }
    pwr := { Pwr.reset with thermtrip := d.pwr.thermtrip }
    hours := d.hours
    wout := d.wout
    free := d.free }

/-- The power-fail signal (R438, R465): nothing more is admitted, every Sheet is gated, ballast stops with them, and EVR
runs the events of Table 16-7. -/
def Dev.powerFail (d : Dev) (mv : Nat) : Dev :=
  if !d.pwr.on || d.pwr.failing then d
  else
    let d := { d with pwr := { d.pwr with failing := true } }
    ((d.stopSheets.gate).setBallast 0).powerFailFlush mv

/-- POWER_FAIL at an input of `mv`: cause 0 the input stayed below PWR.PF.MV, 1 PWREN went low, 2 PWRFAIL# is asserted.
With PWREN low the input switch is open, and the module loses its power after the flush. -/
def Dev.inputFail (d : Dev) (cause mv : Nat) : Dev :=
  match cause with
  | 0 => if mv < d.fget pwrPfMv 0 then d.powerFail mv else d
  | 1 => if d.pwr.on then (d.powerFail mv).dark else d
  | _ => if d.pwr.on then (d.fset pwrStatPwrfailIn 0 1).powerFail mv else d

/-- INPUT_OVERVOLTAGE: above 60.0 V the input switch opens too. -/
def Dev.overvoltage (d : Dev) (mv : Nat) : Dev := if d.pwr.on ∧ 60000 < mv then (d.powerFail mv).dark else d

/-- A thermal trip (R472): a UCF. Its DEVICE_UCF record names a cause and PARAM0 that the manual does not state: free
values (log entry 11). -/
def Dev.thermalTrip (d : Dev) (sensor v : Nat) : Dev :=
  if !d.pwr.on || d.fbit pwrStatTripped 0 then d
  else
    let d := d.record 0x5008 pTHM 0 sensor (v % 2 ^ 24) 0
    let d := { d with pwr := { d.pwr with thermtrip := true } }.fset pwrStatTripped 0 1
    let (cause, d) := d.fresh
    let (p, d) := d.fresh
    (d.pgErr pTHM 0 bUCF 0x4001 pTHM cause p).failDevice

/-- THM_SAMPLE: one period's samples, with the firmware trip on the second sample at or above a limit. -/
def Dev.thmSample (d : Dev) (vs : List (Nat × Nat)) : Dev :=
  if !d.pwr.on || !d.active pTHM 0 then d
  else
    let d := d.sampleAll vs
    match d.tripped with
    | some i => d.thermalTrip i (d.sensor i).value
    | none => d

/-- HARDWARE_TRIP: the comparator of a junction sensor sees 110 °C. -/
def Dev.hardwareTrip (d : Dev) (sensor v : Nat) : Dev :=
  if sensor < 0x14 ∧ 1760 ≤ signed 24 v then d.thermalTrip sensor v else d

/-- ALERT# is asserted (Table 18-4). -/
def Dev.alert (d : Dev) : Bool := d.pwr.on && (d.phase == .failed || d.thmStat != 0)

/-- SMBUS_BLOCK_READ (R474). -/
def Dev.smbusRead (d : Dev) (code : Nat) : Dev :=
  if !d.pwr.on then d
  else
    let r : Reply :=
      if code < 0x80 then .block (toLE 4 (d.sensorWord code))
      else if code = 0x80 then .block (toLE 4 d.phase.code ++ toLE 4 (d.plainWord pPWR 0 0x40))
      else .noAck
    { d with pci := { d.pci with reply := r } }

end Sys2Proof.Machine
end

