-- ==== Sys2Proof/Machine/BringUp.lean ====
section
/-! DEFINITION. Machine/BringUp.lean: power-on, known-answer tests and defect maps, compute reset, and the resets of the
PCI Express function (chapters 14 and 15). `Dev.bootEvent` is the last event of Table 15-1 reached; during a compute reset
it is 10 plus the last event of Table 15-6. -/

namespace Sys2Proof.Machine

/-! ### Units and their tests (R44, R406 to R408) -/

/-- The page of a health-map index of a tile or an engine. -/
def unitOfIndex (i : Nat) : Nat × Nat := if i < 0x080 then (pTIL, i) else (pSLV, i - 0x080)

/-- The health-map indexes of tiles and engines. -/
def computeIndexes : List Nat := List.range 68 ++ (List.range 8).map (· + 0x080)

/-- A unit that Table 15-3 keeps out. -/
def Dev.keepOff (d : Dev) (cls inst reason : Nat) (fuse field licence : Bool) : Dev :=
  d.onUnit cls inst (fun u => { u with
    state := .disabled, reason := reason, forced := false, enable := false, testPassed := false
    fuseBad := fuse, fieldBad := field, unlicensed := licence })

/-- Settle one tile or engine by Table 15-3, once its known-answer test has run or been left out. -/
def Dev.settleUnit (d : Dev) (i : Nat) : Dev :=
  let (cls, inst) := unitOfIndex i
  let d := if cls = pTIL then d.onTile inst (fun t => { t with mx := { t.mx with accmem := false } }) else d
  if d.sec.fusedBad.contains i then d.keepOff cls inst 2 true false false
  else if (SMap.find i d.sec.fieldMap).isSome then d.keepOff cls inst 3 false true false
  else if d.unlicensed cls then d.keepOff cls inst 4 false false true
  else
    let d := d.onUnit cls inst (fun u => { u with testPassed := true, fuseBad := false, fieldBad := false, unlicensed := false })
    if cls = pTIL then d.onTile inst (fun t => { t with mx := { t.mx with accmem := decide (15 ≤ inst % 17) } }) else d

/-- The known-answer test of one tile or engine: one that fails once counts a CE, and one that fails twice enters the
field map (R407, R409) as a start-up test failed (R44). -/
def Dev.runKat (d : Dev) (fails : List KatFail) (i : Nat) : Dev :=
  let (cls, inst) := unitOfIndex i
  match fails.find? (fun f => f.index == i) with
  | none => d
  | some f =>
    if f.again then
      let cyc := d.fget glbPwrcycCount 0
      let sec := d.fget glbOpsecSeconds 0
      let d := { d with sec := { d.sec with fieldMap := SMap.insert i (cyc, sec) d.sec.fieldMap } }
      (d.record 0x5003 cls inst i cyc sec).uccFree cls inst
    else d.pgErr cls inst bCE 0x1004 i f.step 0

/-- The units that take their test: good in both maps and licensed (Table 15-3). The licence that counts is the one whose
evaluation follows (DEDUCED, log entry 106). -/
def Dev.katUnits (d : Dev) : List Nat :=
  let e := d.evaluateLicence
  computeIndexes.filter (fun i =>
    !d.sec.fusedBad.contains i && (SMap.find i d.sec.fieldMap).isNone && !e.unlicensed (unitOfIndex i).1)

/-- The known-answer tests leave every tile store and program store reading zero (R406). -/
def Dev.zeroStores (d : Dev) : Dev :=
  { d with tiles := d.tiles.map (fun e => (e.1, { e.2 with
      core := { e.2.core with prog := [] }
      store := { e.2.store with ts := [], tsPoison := [] } })) }

/-- Tests, licence and reconciliation of every tile and engine, in the order of events 8 and 5 to 7. -/
def Dev.reconcile (d : Dev) (fails : List KatFail) : Dev :=
  let d := d.zeroStores
  let d := d.katUnits.foldl (fun (d : Dev) i => d.runKat fails i) d
  computeIndexes.foldl (fun (d : Dev) i => d.settleUnit i) d.evaluateLicence

/-- Firmware enables a unit that passed its start-up test. -/
def Dev.enableUnit (d : Dev) (cls inst : Nat) : Dev :=
  if (d.unit cls inst).testPassed ∧ (d.unit cls inst).state = .off then
    (d.onUnit cls inst (fun u => { u with enable := true, disReq := false })).activate cls inst
  else d

/-- A unit fails its start-up test (R44): it stays OFF, and in a class whose faults are UCFs the device fails. What it
captures beside the code is a free value (log entry 11). -/
def Dev.failStart (d : Dev) (cls inst : Nat) : Dev :=
  let d := d.uccFree cls inst
  if containable cls inst then d else d.failDevice

/-! ### Power-on (Table 15-1) -/

/-- Event 1: a new power cycle. EVR continues from the highest LASTSEQ of the log, and records lost at the power fail are
reported (R436, R438). -/
def Dev.powerUp (d : Dev) (mv slot : Nat) : Dev :=
  if mv < 40000 ∨ (d.pwr.on ∧ !d.pwr.failing) then d
  else
    let d := d.dark
    let reams := (d.evr.nv.map (fun e => e.2)).filter (fun r => r.good)
    let last := reams.foldl (fun n r => max n r.lastSeq) 0
    let lostpf := (reams.find? (fun r => bit r.flags 4 && r.lostpf != 0 && r.pwrcyc == d.fget glbPwrcycCount 0)).map
      (fun r => r.lostpf)
    let uncharged := d.evr.pfLost != 0
    let d := { d with
      bootEvent := 1
      pwr := { d.pwr with on := true, thermtrip := false }
      evr := { d.evr with seq := last, next := last + 1, pfLost := 0 } }
    let d := ((d.fwrap glbPwrcycCount 0).fset pwrStatInrushDone 0 1).fset pwrSlotId 0 slot
    match lostpf with
    | some n => d.record 0x8001 pEVR 0 n 1 0
    | none =>
      if uncharged then
        let (n, d) := d.fresh
        d.record 0x8001 pEVR 0 (n % 2 ^ 32) 1 0
      else d

/-- Event 2: the fuses are read; a pending transition takes effect (R447), with what its first boot erases (R448). -/
def Dev.readFuses (d : Dev) : Dev :=
  let d := { d with bootEvent := 2 }
  match d.sec.pendingLcs with
  | none => d
  | some target =>
    let old := d.sec.fused
    let d := { d with sec := { d.sec with fused := target, pendingLcs := none } }
    let d := if target = 4 then { d with sec := { d.sec with owner := none, licence := [] } } else d
    let d := if target = 5 then { d with sec := { d.sec with keyErased := true } } else d
    d.record 0x6001 pSEC 0 target old 0

/-- Verify one slot; a failure is recorded with its reason. -/
def Dev.trySlot (d : Dev) (slot : Nat) : Bool × Dev :=
  let f := if slot = 0 then secFwstatSlot0Ok else secFwstatSlot1Ok
  match d.sec.imageFault (if slot = 0 then d.sec.fw0 else d.sec.fw1) with
  | none => (true, d.fset f 0 1)
  | some r => (false, (d.fset f 0 0).record 0x6002 pSEC 0 slot r 0)

/-- The image in a slot boots. -/
def Dev.bootSlot (d : Dev) (slot : Nat) (fallback : Bool) : Dev :=
  let b := if slot = 0 then d.sec.fw0 else d.sec.fw1
  let d := { d with sec := { d.sec with booted := slot, svnRunning := fieldOf b 7 1 } }
  let d := (d.fset secFwstatBootslot 0 slot).fset secFwstatFallback 0 (b2n fallback)
  d.fset glbRevisionBuild 0 (fieldOf b 12 4)

/-- Event 3: the preferred slot, then the other one; `booted` 2 says that neither verified. -/
def Dev.bootFirmware (d : Dev) : Dev :=
  let first := d.fget secFwctlPref 0
  let d := { d with bootEvent := 3 }
  let (ok, d) := d.trySlot first
  if ok then d.bootSlot first false
  else
    let (ok, d) := d.trySlot (1 - first)
    if ok then d.bootSlot (1 - first) true else { d with sec := { d.sec with booted := 2 } }

/-- Headbox pages other than the stacks, ports and engines, with their instances. -/
def headboxPages : List (Nat × Nat) := (List.range 15).map (fun c => (c, 0)) ++ (List.range 5).map (fun k => (pFLT, k))

/-- Event 4: the Felt links train and the blocks of the Headbox test themselves. Blocks other than stacks, ports and
slice engines become ACTIVE here. A Sheet's node passes where one of its links has trained (DESIGN CHOICE, log entry 107);
the Headbox node has the Headbox test alone. With no firmware the sequence stops (R402). -/
def Dev.headboxUp (d : Dev) (links : List Nat) (failed : List (Nat × Nat)) : Dev :=
  let d := { d with bootEvent := 4, links :=
    (List.range 10).foldl (fun l i => SMap.put .reset i (if links.contains i then .up else .reset) l) [] }
  let d := d.fset evrStatHoldupOk 0 1
  let d := d.fset evrStatNvok 0 (b2n (decide (d.evr.badBlocks.length ≤ 32)))
  if d.sec.booted = 2 then d.failDevice
  else
    let linked (k : Nat) : Bool := (peers k).any (fun n => d.link k n == 1)
    let pages := headboxPages ++ (List.range 18).map (fun p => (pBZP, p)) ++ (List.range 6).map (fun e => (pBZE, e))
    let bad (x : Nat × Nat) : Bool := failed.contains x || (x.1 == pFLT && decide (x.2 < 4) && !linked x.2)
    let d := pages.foldl (fun (d : Dev) x =>
      if bad x then d.failStart x.1 x.2 else d.onUnit x.1 x.2 (fun u => { u with testPassed := true })) d
    if d.phase = .failed then d else headboxPages.foldl (fun (d : Dev) x => d.enableUnit x.1 x.2) d

/-- Event 5: the GLB page is live; in DECOMMISSIONED the sequence stops here. -/
def Dev.pagesLive (d : Dev) : Dev :=
  let d := { d with bootEvent := 5 }
  if d.sec.fused = 5 then d.failDevice else d

/-- Groups of stacks that event 6 has tested. -/
def Dev.testedGroups (d : Dev) : Nat := ((List.range 4).filter (fun g => d.fget stkStatTest (8 * g) != 0)).length

/-- Days of age at which stored bins stop serving (R257). -/
def binDays : Nat := 90

/-- The stored bins by which a stack takes the fast test; none where it takes the full one (R402, R403). -/
def Dev.fastBins (d : Dev) (t : StackTest) : Option StoredBins :=
  (SMap.find t.stack d.sec.bins).filter (fun x => x.serial == t.serial && decide (t.day - x.day ≤ binDays)
    && decide (SMap.get 0 t.stack d.sec.stored ≤ 1) && d.sec.fused != 0 && d.sec.fused != 4)

/-- A stack's rows have these bins, found `age` days ago (R257). -/
def Dev.setBins (d : Dev) (s age : Nat) (bins : SMap Nat) : Dev :=
  let now := d.fget glbOpsecSeconds 0
  (d.onStack s (fun x => { x with bins := bins, binAge := age, binSince := now })).fset stkRefbinB0rows s
    (min 0xFFFF (bins.filter (fun e => e.2 == 0)).length)

/-- Test one stack: what it finds becomes its health, and a stack that is not FAILED becomes ACTIVE. The bins of a full test
go to the NV store (R404). -/
def Dev.testStack (d : Dev) (stored : Option StoredBins) (t : StackTest) : Dev :=
  let s := t.stack
  let d := (d.fset stkStatTest s (if stored.isSome then 2 else 1)).fset stkStatTrained s (b2n t.trained)
  if !t.trained || !t.good then (d.worsen s 3).uccFree pSTK s
  else
    let d := match stored with
      | some x => d.setBins s (t.day - x.day) x.rows
      | none =>
        let bins := t.rows.foldl (fun (l : SMap Nat) (e : Nat × Nat) => SMap.put 3 e.1 e.2 l) []
        let d := (t.repairs.foldl (fun (d : Dev) r => d.spareRow s r) d).setBins s 0 bins
        { d with sec := { d.sec with bins := SMap.insert s ⟨t.serial, t.day, bins⟩ d.sec.bins } }
    (d.onUnit pSTK s (fun u => { u with testPassed := true })).enableUnit pSTK s

/-- Event 6 for the next group: stacks that the list does not name are found good. -/
def Dev.testGroup (d : Dev) (tests : List StackTest) : Dev :=
  let g := d.testedGroups
  let of (s : Nat) : StackTest := (tests.find? (fun t => t.stack == s)).getD ⟨s, 0, 0, true, true, [], []⟩
  let group := (List.range 8).map (fun k => of (8 * g + k))
  let plan := group.map (fun t => (d.fastBins t, t))
  let d := if g = 0 then ({ d with bootEvent := 6 }).setPhase .memtest else d
  plan.foldl (fun (d : Dev) x => d.testStack x.1 x.2) d

/-- Event 7: every port that passed its self-test trains. -/
def Dev.trainPorts (d : Dev) : Dev :=
  let d := ({ d with bootEvent := 7 }).setPhase .linktrain
  (List.range 18).foldl (fun (d : Dev) p => d.enableUnit pBZP p) d

/-- Event 8: ports still training wait for a retry (R405); the tests run, the licence is evaluated, the defect maps are
reconciled and the health map is built. -/
def Dev.computeUp (d : Dev) (fails : List KatFail) : Dev :=
  let d := (List.range 18).foldl (fun (d : Dev) p => if (d.port p).state = .training then d.trainFailed p else d) d
  let d := ({ d with bootEvent := 8 }).setPhase .computeUp
  let d := d.reconcile fails
  { d with deckle := { d.deckle with
      health := healthIndexes.foldl (fun h i => SMap.put 0 i (d.healthNow i) h) [] } }

/-- The Sheets run again at 0.65 V, with the admission credit at its cap (R468, R470). -/
def Dev.ungate (d : Dev) : Dev :=
  let vin := (d.sensor 0x51).value
  { d with pwr := { d.pwr with
      gated := false, setpoints := [650, 650, 650, 650], credit := creditCap vin, vin := vin, used := 0 } }

/-- Event 9: marks start, passing units become ACTIVE, and the device reports its state. -/
def Dev.goReady (d : Dev) : Dev :=
  let d := ((d.fset cadCtlRun 0 1).fset cadStatRunning 0 1).ungate
  let d := { d with bootEvent := 9 }
  let units := computeIndexes.map unitOfIndex ++ (List.range 6).map (fun e => (pBZE, e))
  let d := units.foldl (fun (d : Dev) x => d.enableUnit x.1 x.2) d
  d.setPhase d.decideReady

/-- Event 1 begins a power cycle here: what the stacks held is lost. -/
def Dev.newPower (d : Dev) (e : PowerEvent) : Bool :=
  match e with
  | .regulated mv _ => decide (40000 ≤ mv) && (!d.pwr.on || d.pwr.failing)
  | _ => false

/-- POWER_ON: one event of Table 15-1, in its place in the order. A UCF ends the sequence (R422). -/
def Dev.powerOn (d : Dev) (e : PowerEvent) : Dev :=
  let at_ (n : Nat) (p : DevPhase) : Bool := d.pwr.on && !d.pwr.failing && d.bootEvent == n && d.phase == p
  match e with
  | .regulated mv slot => d.powerUp mv slot
  | .fuses => if at_ 1 .boot then d.readFuses else d
  | .firmware => if at_ 2 .boot then d.bootFirmware else d
  | .headbox links failed => if at_ 3 .boot then d.headboxUp links failed else d
  | .pageLive => if at_ 4 .boot then d.pagesLive else d
  | .memTest tests =>
    if at_ 5 .boot || (at_ 6 .memtest && decide (d.testedGroups < 4)) then d.testGroup tests else d
  | .ports => if at_ 6 .memtest && d.testedGroups == 4 then d.trainPorts else d
  | .computeUp fails => if at_ 7 .linktrain then d.computeUp fails else d
  | .ready => if at_ 8 .computeUp then d.goReady else d

/-! ### Resets of the function (R383) -/

/-- Every ring is disabled and its configuration cleared; completions that wait are discarded. -/
def Dev.clearRings (d : Dev) : Dev :=
  let n := d.hbx.cq.foldl (fun n e => n + e.2.waiting.length) 0
  let d := d.dropCompletions n
  let ring (k : Nat) : Bool := k / 2 ^ 17 % 64 == pHBX && isRingReg pHBX (k / 32 % 4096)
  { d with regs := d.regs.filter (fun e => !ring e.1), hbx := { Hbx.reset with sqStop := d.hbx.sqStop } }

/-- The function's registers return to their reset values. -/
def Dev.clearFunction (d : Dev) : Dev :=
  { d with pci := { d.pci with config := [], barLog2 := 41, msixTable := [], pba := 0 } }

/-! ### Compute reset (Table 15-6) -/

/-- The registers that return to their reset values: the block registers of TIL and SLV pages (R418), and GLB.BADADDR and
GLB.BADACC (Table 2-7). The others keep theirs (DEDUCED, log entry 108). -/
def Dev.clearComputeRegs (d : Dev) : Dev :=
  let bad (k : Nat) : Bool := [glbBadaddrOffset, glbBadaccValid, glbBadaccResvPage, glbBadaccPartial, glbBadaccWrite,
    glbBadaccSource, glbBadaccBarrier].any (fun f => f.key 0 == k)
  { d with regs := d.regs.filter (fun e => e.1 / 2 ^ 17 % 64 != pTIL && e.1 / 2 ^ 17 % 64 != pSLV && !bad e.1) }

/-- Completions of commands that wait behind a full CQ will read DEVICE_RESETTING (Table 14-8). -/
def Dev.resetWaiting (d : Dev) : Dev :=
  (List.range 64).foldl (fun (d : Dev) q =>
    if d.cqRoom q then d
    else
      let c := d.cq q
      d.setCq q { c with waiting := c.waiting.map (fun e => if e.kind = 0 then { e with status := 6 } else e) }) d

/-- Events 1 to 3, accepted in READY and READY_DEGRADED only (R48, R416). -/
def Dev.resetEvents (d : Dev) (m : Mem) : Dev :=
  if !d.isReady || d.pwr.failing then d
  else
    let d := d.setPhase .computeReset
    let d := (((d.resetWaiting).dropLoads 6).stopSheets).gate
    let d := { d with bootEvent := 13 }
    let d := ((d.clearCommon).clearComputeRegs).dropUnsent
    -- a vote already cast decides the step (R321)
    let voted (i : Inst) : Bool := d.stp.state == .committing && i.desc == voteDesc d.curStep
    let d := (d.spoilCause m 0x09 0).colAbortWhere (fun i => !voted i) 0x10
    let d := (d.settled m).barriersReset
    d.rehealthAll (healthIndexes.filter (fun i => decide (i < 0x100)))

/-- A write of GLB.RESETCTL.COMPUTE_RESET: in FAILED it performs the function reset alone (R414). -/
def Dev.resetStart (d : Dev) (m : Mem) : Dev :=
  if d.phase = .failed then (d.clearFunction).clearRings else d.resetEvents m

/-- The recorded program of a mapped tile is loaded again; an image in a FAILED region leaves a zero store (R420). -/
def Dev.reloadPrograms (d : Dev) (m : Mem) : Dev :=
  match d.deckle.placement with
  | none => d
  | some pl =>
    pl.loads.foldl (fun (d : Dev) e =>
      let (h, o, n) := e.2
      let image := d.readImage m h o n
      let d := if (SMap.find e.1 pl.tmap).isSome then d.noteRegion h o (64 * n) else d
      match SMap.find e.1 pl.tmap, image with
      | some p, some image => d.onTile p (fun t => { t with core := { t.core with prog := loadProg n image [] } })
      | _, _ => d) d

/-- Deckle starts a remap for every mapped tile and every engine in use that did not come back (R286). -/
def Dev.remapMissing (d : Dev) : Dev :=
  match d.deckle.placement with
  | none => d
  | some pl =>
    let tiles := (List.range 68).filter (fun p => pl.tmap.any (fun e => e.2 == p) && !d.active pTIL p)
    let engines := (List.range 8).filter (fun e => pl.smap.any (fun x => x.2.1 == e) && !d.active pSLV e)
    let d := tiles.foldl (fun (d : Dev) p => d.dkEvent (.tile p)) d
    engines.foldl (fun (d : Dev) e => d.dkEvent (.engine e)) d

/-- Events 4 to 7, once every access that Felt had accepted is performed. The rails go to 0.65 V at event 5, and the health
map follows the units as they are settled (R264). -/
def Dev.resetTest (d : Dev) (m : Mem) (fails : List KatFail) : Dev :=
  if d.phase ≠ .computeReset ∨ d.bootEvent ≠ 13 ∨ d.stks.any (fun e => !e.2.reqs.isEmpty) then d
  else
    let d := { d with bootEvent := 17, pwr := { d.pwr with setpoints := [650, 650, 650, 650] } }
    let d := (d.reconcile fails).rehealthAll computeIndexes
    let d := (computeIndexes.map unitOfIndex).foldl (fun (d : Dev) x => d.enableUnit x.1 x.2) d
    ((d.writeLogical).reloadPrograms m).remapMissing

/-- Event 8. -/
def Dev.resetFinish (d : Dev) : Dev :=
  if d.phase ≠ .computeReset ∨ d.bootEvent ≠ 17 then d
  else
    let d := (({ d with bootEvent := 9 }).ungate)
    let d := (List.range 4).foldl (fun (d : Dev) k => d.enableUnit pFLT k) d
    let d := d.rehealthAll healthIndexes
    d.setPhase d.decideReady

/-- COMPUTE_RESET: the write of GLB.RESETCTL starts it. -/
def Dev.computeReset (d : Dev) (m : Mem) (e : ResetEvent) : Dev :=
  match e with
  | .start => d.host (fun d => d.resetStart m)
  | .test fails => d.resetTest m fails
  | .finish => d.resetFinish

/-! ### Resets of the PCI Express function, configuration and link (R383, R400, R422) -/

/-- FLR: `kind` 0 a Function Level Reset, 1 a Hot Reset, 2 the link goes down. -/
def Dev.functionReset (d : Dev) (m : Mem) (kind : Nat) : Dev :=
  if !d.linkUp then d
  else
    let d := if kind = 0 then d.fcount pciResetcntFlr 0 1 else d.fcount pciResetcntHot 0 1
    let d := if kind = 2 then (d.fset pciLinkstatRate 0 0).fset pciLinkstatWidth 0 0 else d
    ((d.clearFunction).clearRings).resetEvents m

/-- PERST: the fundamental reset is released; the link trains anew. -/
def Dev.perstRelease (d : Dev) : Dev :=
  let d := (d.clearFunction).fset pciLinkstatRate 0 0
  { d with pci := { d.pci with perst := false } }

/-- PCIE_LINK_UP at a rate (1 to 6) and width: in FLIT mode always at 64.0 GT/s (R380). -/
def Dev.pcieLinkUp (d : Dev) (rate width : Nat) (flit : Bool) : Dev :=
  if !d.pwr.on || d.pci.perst || rate == 0 || decide (6 < rate) || !([1, 2, 4, 8, 16].contains width) then d
  else
    let d := (d.fset pciLinkstatRate 0 rate).fset pciLinkstatWidth 0 width
    (d.fset pciLinkstatFlit 0 (b2n (flit || rate == 6))).fset pciLinkstatDerated 0 (b2n (decide (rate < 6) || decide (width < 16)))

/-- CONFIG_REQUEST: Request Retry Status before event 5, then the configuration register at `off`. Kind 0 reads, 1 writes
`v`, 2 sets the Resizable BAR of BAR 4 to 1 GiB × 2^v. Of the registers only the identity is in the manual: any other
reads what was last written to it, or a free value (log entry 54). -/
def Dev.configRequest (d : Dev) (kind off v : Nat) : Dev :=
  let say (d : Dev) (r : Reply) : Dev := { d with pci := { d.pci with reply := r } }
  if !d.linkUp || d.bootEvent == 0 then d
  else if !d.answers then say d .retry
  else
    let o := off / 4 * 4
    match kind with
    | 0 =>
      if o = 0 then say d (.value 0x47371E8C)
      else
        let (x, d) := d.fresh
        if o = 8 then say d (.value (0x12000000 + x % 256))
        else say d (.value ((SMap.find o d.pci.config).getD (x % 2 ^ 32)))
    | 1 => say { d with pci := { d.pci with config := SMap.insert o (v % 2 ^ 32) d.pci.config } } .none
    | _ => say { d with pci := { d.pci with barLog2 := if v ≤ 11 then 30 + v else d.pci.barLog2 } } .none

end Sys2Proof.Machine
end

