-- ==== Sys2Proof/Machine/RegWrite.lean ====
section
/-! DEFINITION. Machine/RegWrite.lean: what the host writes into registers, and its reads of the registers that a read
changes (chapters 1, 2, 3, 5 to 18). -/

namespace Sys2Proof.Machine

/-! ### The common area (R39, R42) -/

/-- PG_ERR written: a 1 clears its bit, and clearing every captured bit releases the capture (R42). -/
def UnitPage.clearErr (u : UnitPage) (v : Nat) : UnitPage :=
  let err := u.err - (u.err &&& v)
  if err &&& u.capBits = 0 then { u with err := err, capBits := 0, capRank := 0 } else { u with err := err }

/-- A common register written. -/
def Dev.commonWrite (d : Dev) (m : Mem) (cls inst off v : Nat) : Dev :=
  match off with
  | 0x08 => d.pgCtrl m cls inst v
  | 0x10 => (d.onUnit cls inst (fun u => u.clearErr v)).refreshUnit cls inst
  | 0x14 => d.onUnit cls inst (fun u => { u with mask := v &&& 0x37 })
  | _ => d

/-! ### Plain fields (R9, R39, R41) -/

/-- One field of a register written with the word `v`. -/
def Dev.fieldWrite (d : Dev) (f : Field) (i v : Nat) : Dev :=
  let w := bits v f.lo f.width
  match f.acc with
  | .rw => d.fset f i (f.stored w)
  | .w1c => d.fset f i (d.fget f i - (d.fget f i &&& w))
  | .w1s => d.fset f i (d.fget f i ||| w)
  | .rwl => if d.debugOpen then d.fset f i (f.stored w) else d
  | .ro | .wo | .rc => d

/-- Every field of a register stores or acts as its access code says. -/
def Dev.plainWrite (d : Dev) (cls inst off v : Nat) : Dev :=
  (fieldsAt cls off).foldl (fun (d : Dev) f => d.fieldWrite f (d.fieldInst cls inst off) v) d

/-! ### Registers that act, page by page -/

/-- STP.BROKEREG written: BAD says that HANDLE is no BANKED base handle (R303; judged at the write, DEDUCED, log entry
55). -/
def Dev.brokeReg (d : Dev) (v : Nat) : Dev :=
  let d := d.plainWrite pSTP 0 0x74 v
  let h := d.fget stpBrokeregHandle 0
  d.fset stpBrokeregBad 0 (b2n (!(decide (h < 0x800) && d.banked h)))

/-- A block register of the STP page. NEXT, PART and the couch registers take writes only in IDLE (R311, Table 11-13). -/
def Dev.stpWrite (d : Dev) (m : Mem) (off v : Nat) : Dev :=
  match off with
  | 0x40 =>
    let d := if bit v 0 then d.hostSpoil m else d
    if bit v 1 then d.ackSpoil else d
  | 0x44 => { d with stp := { d.stp with
      redrawFail := d.stp.redrawFail && !bit v 16, lateCause := d.stp.lateCause && !bit v 17 } }
  | 0x4C | 0x58 | 0x5C | 0x84 | 0x8C | 0x90 => if d.stp.state = .idle then d.plainWrite pSTP 0 off v else d
  | 0x74 => d.brokeReg v
  | 0x88 => d.cqConfigure v
  | _ => d.plainWrite pSTP 0 off v

/-- The selected group has an active collective (R349). -/
def Dev.groupActive (d : Dev) : Bool := d.col.insts.any (fun i => i.group == d.fget colGrpselGroup 0)

/-- A block register of the COL page. -/
def Dev.colRegWrite (d : Dev) (m : Mem) (off v : Nat) : Dev :=
  if off = 0x78 then (d.colHostAbort v).settled m
  else if 0x48 ≤ off ∧ off ≤ 0x5C ∧ d.groupActive then d
  else d.plainWrite pCOL 0 off v

/-- A block register of the HBX page; BASE and LOG2SIZE hold while a ring is enabled (R386). -/
def Dev.hbxWrite (d : Dev) (off v : Nat) : Dev :=
  let q := d.fget hbxRingselRing 0
  match off with
  | 0x4C => d.sqConfigure v
  | 0x5C => d.cqRingConfigure v
  | 0x44 | 0x48 => if d.fbit hbxSqcfgEn q then d else d.plainWrite pHBX 0 off v
  | 0x54 | 0x58 => if d.fbit hbxCqcfgEn q then d else d.plainWrite pHBX 0 off v
  | _ => d.plainWrite pHBX 0 off v

/-- EVR.CTL written. A FLUSH and a dump are whole within the write; `failing` lists NV blocks that fail to program. -/
def Dev.evrCtl (d : Dev) (failing : List Nat) (v : Nat) : Dev :=
  let d := d.plainWrite pEVR 0 0x40 v
  let d := if bit v 0 then d.flushAll failing 8 else d
  if bit v 1 then d.dump else d

/-- BZP.CTL written (Table 12-1). -/
def Dev.bzpCtl (d : Dev) (p v : Nat) : Dev :=
  let d := d.fset bzpCtlMaxwidth p (bzpCtlMaxwidth.stored (bits v 2 2))
  let d := d.trainEn p (bit v 0)
  if bit v 1 then d.retrain p else d

/-- A block register of a BZE page; the router's registers exist on instance 0 only. -/
def Dev.bzeWrite (d : Dev) (m : Mem) (e off v : Nat) : Dev :=
  match off with
  | 0x48 => d.afterFailures m (d.chcfg e v)
  | 0x4C => d.chpeer e v
  | 0x54 => if bit v 0 then d.chflush e else d
  | 0x100 =>
    -- BZE.DEVID is ignored while any channel of the device is not CLOSED (R333)
    if e ≠ 0 || d.brezin.chans.any (fun k => k.2.state != .closed) then d else d.plainWrite pBZE e off v
  | _ => if e ≠ 0 ∧ 0x100 ≤ off then d else d.plainWrite pBZE e off v

/-- A block register written, with whatever its chapter gives the write. -/
def Dev.blockWrite (d : Dev) (m : Mem) (cls inst off v : Nat) : Dev :=
  match cls, off with
  | 0x00, 0x58 => if bit v 0 then d.resetStart m else d
  | 0x01, 0x44 => d.secCmd m v
  | 0x02, 0x44 => d.licCtl m v
  | 0x03, 0x40 => d.evrCtl [] v
  | 0x04, 0x44 => d.capWrite pwrCapWatts v
  | 0x04, 0x48 => d.capWrite pwrVsetVmaxMv v
  | 0x06, 0x40 => d.cadCtl v
  | 0x06, 0x44 => d.cadPeriod v
  | 0x07, 0x9C => d.requestRedraw v
  | 0x08, _ => d.hbxWrite off v
  | 0x09, 0x44 => d.setWinbase v
  | 0x0A, _ => d.colRegWrite m off v
  | 0x0B, _ => d.stpWrite m off v
  | 0x0E, 0x44 => d.barConfigure v
  | 0x0E, 0x4C => d.hostArrive v
  | 0x0E, 0x54 => d.barReset v
  | 0x10, 0x40 => d.runctl m inst v
  | 0x10, 0x8C => d.accdbg inst v
  | 0x14, 0x40 => d.bzpCtl inst v
  | 0x15, _ => d.bzeWrite m inst off v
  | _, _ => d.plainWrite cls inst off v

/-- A register of an implemented page written whole: writes to TIL and SLV pages are ignored during a compute reset
(R419), and block registers of an absent or dead unit at all times (R38, R414). -/
def Dev.pageWrite (d : Dev) (m : Mem) (cls inst off v : Nat) : Dev :=
  if d.pageReset cls then d
  else if off < 0x40 then d.commonWrite m cls inst off v
  else if d.blockOpen cls inst then d.blockWrite m cls inst off v
  else d

/-! ### BAR 0 and BAR 2 (R34, R36, R40, Table 14-2, Table 14-7) -/

/-- Bytes of BAR 0 and BAR 2. -/
def barSize (bar : Nat) : Nat := if bar = 0 then 0x4000000 else if bar = 2 then 0x100000 else 0

/-- Class, instance and register offset of a BAR 0 offset. -/
def pageOf (off : Nat) : Nat × Nat × Nat := (off / 2 ^ 20, off / 2 ^ 12 % 2 ^ 8, off % 2 ^ 12)

/-- The offset is one of BAR 2 that Table 14-2 gives contents. -/
def bar2Defined (off : Nat) : Bool :=
  decide (off < 0x200) || (decide (0x1000 ≤ off) && decide (off < 0x1200)) || (decide (0x2000 ≤ off) && decide (off < 0x2800))
    || (decide (0x40000 ≤ off) && decide (off < 0x41000)) || (decide (0x41000 ≤ off) && decide (off < 0x41020))
    || (decide (0xFF000 ≤ off) && decide (off ≤ 0xFF024)) || off == 0xFF030

/-- The offset lies on an implemented page, or in the defined part of BAR 2. -/
def addressed (bar off : Nat) : Bool :=
  if bar = 0 then
    let (cls, inst, _) := pageOf off
    pageExists cls inst
  else bar2Defined off

/-- A word of the MSI-X table written; a vector that is unmasked while pending is signalled (Base Specification). -/
def Dev.msixWrite (d : Dev) (w v : Nat) : Dev :=
  let keep := if w % 4 = 3 then v % 2 else v
  let d := { d with pci := { d.pci with msixTable := SMap.put (if w % 4 = 3 then 1 else 0) w keep d.pci.msixTable } }
  if w % 4 = 3 ∧ !bit v 0 ∧ bit d.pci.pba (w / 4) then
    { d with pci := { d.pci with pba := d.pci.pba - 2 ^ (w / 4) } }.signal (w / 4)
  else d

/-- The urgent page written (Table 14-7). -/
def Dev.urgentWrite (d : Dev) (m : Mem) (o v : Nat) : Dev :=
  match o with
  | 0x00 => d.urgStopChan v
  | 0x04 => d.urgResumeChan v
  | 0x08 => d.urgStopPeer v
  | 0x0C => d.urgResumePeer v
  | 0x10 => d.urgSqStop false v
  | 0x14 => d.urgSqStop true v
  | 0x18 => d.urgSqGo false v
  | 0x1C => d.urgSqGo true v
  | 0x20 => d.urgColAbort m v
  | 0x24 => d.urgSpoil m v
  | _ => d

/-- A defined offset of BAR 2 written. -/
def Dev.bar2Write (d : Dev) (m : Mem) (off v : Nat) : Dev :=
  if off < 0x200 then (if off % 8 = 0 then d.sqTail (off / 8) v else d.keepDoorbell off v)
  else if off < 0x1200 then
    (if off % 8 = 0 then d.cqHead ((off - 0x1000) / 8) v else d.keepDoorbell off v)
  else if off < 0x2800 then d.hostEvent ((off - 0x2000) / 4) v
  else if off < 0x41000 then d.msixWrite ((off - 0x40000) / 4) v
  else if off < 0x41020 then d
  else d.urgentWrite m (off - 0xFF000) v

/-- A 32-bit write of the host with every byte enabled. -/
def Dev.hostWrite (d : Dev) (m : Mem) (bar off v : Nat) : Dev :=
  if !addressed bar off then d.badAccess off (bar / 2) 0 true false true
  else if bar = 0 then
    let (cls, inst, o) := pageOf off
    d.pageWrite m cls inst o v
  else d.bar2Write m off v

/-- A 32-bit write with the byte enables `be`; a partial write is discarded and recorded (R36). -/
def Dev.wordWrite (d : Dev) (m : Mem) (bar off be v : Nat) : Dev :=
  if be ≠ 15 then d.badAccess off (bar / 2) 0 (!addressed bar off) true true
  else d.hostWrite m bar off (v % 2 ^ 32)

/-- REG_WRITE: `be` are the byte enables. One above 15 enables bytes of the upper half of an aligned 64-bit access, which is
two 32-bit accesses, the lower offset first (R36). -/
def Dev.regWrite (d : Dev) (m : Mem) (bar off be v : Nat) : Dev :=
  if be < 16 then d.wordWrite m bar off be v
  else (d.wordWrite m bar off (be % 16) v).wordWrite m bar (off + 4) (be / 16) (v / 2 ^ 32)

/-- A register's place: a multiple of 4 inside BAR 0 or BAR 2. -/
def regAt (bar off : Nat) : Bool := off % 4 == 0 && decide (off < barSize bar)

/-- Byte enables of a register access: four, or eight of an aligned 64-bit access. -/
def enablesOk (off be : Nat) : Bool := decide (be < 16) || (decide (be < 256) && off % 8 == 0)

/-! ### Reads (R9, R36, R40, R41) -/

/-- The answer of a register read. -/
def Dev.answer (d : Dev) (v : Nat) : Dev := { d with pci := { d.pci with reply := .value v } }

/-- The word of a defined offset of BAR 2: what it was last written, the MSI-X table and PBA, and URG.COUNT. -/
def Dev.bar2Word (d : Dev) (off : Nat) : Nat :=
  if off < 0x2800 then SMap.get 0 off d.pci.doorbells
  else if off < 0x41000 then d.msixWord ((off - 0x40000) / 4)
  else if off < 0x41020 then bits d.pci.pba (8 * (off - 0x41000)) 32
  else if off = 0xFF030 then d.pci.urgCount
  else 0

/-- The enabled bytes of a word. -/
def enabledBytes (be v : Nat) : Nat :=
  ofLE ((toLE 4 v).zipIdx.map (fun (b, i) => if bit be i then b else 0))

/-- PG_ERRCNT is read: its counts clear. -/
def Dev.clearCounts (d : Dev) (cls inst : Nat) : Dev :=
  d.onUnit cls inst (fun u => { u with ceCnt := 0, deCnt := 0, uccCnt := 0 })

/-- The RC fields of a register clear, whatever bytes are read (R36). -/
def Dev.clearRead (d : Dev) (cls inst off : Nat) : Dev :=
  if off = 0x18 then d.clearCounts cls inst
  else if off < 0x40 then d
  else if d.blockOpen cls inst && !d.pageReset cls then
    (fieldsAt cls off).foldl (fun (d : Dev) f => if f.acc = .rc then d.fset f (d.fieldInst cls inst off) 0 else d) d
  else d

/-- The register latches a high word when it is read: PG_SEQ, CAD.COUNT_LO, EVR.SEQ_LO and EVR.FLUSHED_LO. -/
def latches (cls o : Nat) : Bool :=
  o == 0x30 || (cls == pCAD && o == 0x48) || (cls == pEVR && (o == 0x48 || o == 0x50))

/-- The latch of a read. -/
def Dev.latch (d : Dev) (cls inst o : Nat) : Dev :=
  if o = 0x30 then d.onUnit cls inst (fun u => { u with seqHi := u.seq / 2 ^ 32 % 2 ^ 16 })
  else if cls = pCAD ∧ o = 0x48 then { d with cad := { d.cad with hi := d.cad.count / 2 ^ 32 % 2 ^ 16 } }
  else if cls = pEVR ∧ o = 0x48 then { d with evr := { d.evr with seqHi := d.evr.seq / 2 ^ 32 % 2 ^ 16 } }
  else if cls = pEVR ∧ o = 0x50 then { d with evr := { d.evr with flushedHi := d.evr.flushed / 2 ^ 32 % 2 ^ 16 } }
  else d

/-- A 32-bit read: the enabled bytes of any register, whose RC fields clear and whose latch it takes. -/
def Dev.wordRead (d : Dev) (m : Mem) (bar off be : Nat) : Nat × Dev :=
  if !addressed bar off then (0, d.badAccess off (bar / 2) 0 true false false)
  else if bar = 0 then
    let (cls, inst, o) := pageOf off
    (enabledBytes be (d.regWord m cls inst o), (d.clearRead cls inst o).latch cls inst o)
  else (enabledBytes be (d.bar2Word off), d)

/-- RC_READ: a register read, or two where `be` is that of an aligned 64-bit access, the lower offset first (R36). -/
def Dev.rcRead (d : Dev) (m : Mem) (bar off be : Nat) : Dev :=
  let (lo, d) := d.wordRead m bar off (be % 16)
  if be < 16 then d.answer lo
  else
    let (hi, d) := d.wordRead m bar (off + 4) (be / 16)
    d.answer (lo + 2 ^ 32 * hi)

/-- PG_SEQ_READ: a register that latches returns its low word and latches the high one. -/
def Dev.latchingRead (d : Dev) (m : Mem) (off : Nat) : Dev :=
  let (cls, inst, o) := pageOf off
  if !pageExists cls inst ∨ !latches cls o then d
  else (d.latch cls inst o).answer (d.regWord m cls inst o)

/-- RESERVED_PAGE_ACCESS: a read of a reserved page or offset returns 0, a write is ignored, and either is captured. -/
def Dev.reservedAccess (d : Dev) (bar off : Nat) (write : Bool) : Dev :=
  if addressed bar off then d
  else
    let d := d.badAccess off (bar / 2) 0 true false write
    if write then d else d.answer 0

end Sys2Proof.Machine
end

