-- ==== Sys2Proof/Machine/Targets.lean ====
section
/-! DEFINITION. Machine/Targets.lean: the units that a command may name (Table 2-1 and the counts of chapters 1, 8, 12
and 14). -/

namespace Sys2Proof.Machine

/-- A physical tile. -/
def tileOk (p : Nat) : Bool := decide (p < 68)

/-- A solver engine. -/
def slvOk (e : Nat) : Bool := decide (e < 8)

/-- A stack. -/
def stkOk (s : Nat) : Bool := decide (s < 32)

/-- A Brezin port. -/
def portOk (p : Nat) : Bool := decide (p < 18)

/-- A slice engine. -/
def bzeOk (e : Nat) : Bool := decide (e < 6)

/-- A channel number. -/
def chanOk (c : Nat) : Bool := decide (c < 4096)

/-- A barrier. -/
def barOk (b : Nat) : Bool := decide (b < 256)

/-- A ring, or a couch queue: there are 64 of each. -/
def ringOk (q : Nat) : Bool := decide (q < 64)

/-- A host event doorbell. -/
def bellOk (t : Nat) : Bool := decide (t < 512)

/-- Two nodes that a Felt link joins. -/
def linkOk (a b : Nat) : Bool := decide (a < 5) && decide (b < 5) && a != b

end Sys2Proof.Machine
end

