-- ==== Sys2Proof/Machine/Run.lean ====
section
/-! DEFINITION. Machine/Run.lean: how a meaning over the device acts on the state: the bytes it wrote go from the outbox to
the stacks. -/

namespace Sys2Proof.Machine

/-- The state after a meaning: its bytes reach the stacks at its end (DESIGN CHOICE, log entry 73). -/
def State.after (s : State) (f : Mem → Dev → Dev) : State :=
  let d := f s.mem s.dev
  { s with dev := { d with wout := [] }, mem := Memory.writeAll s.mem d.wout }

/-- Perform a meaning. Where its conditions do not hold it changes nothing (DESIGN CHOICE, log entry 65). -/
def run (f : Mem → Dev → Dev) (s : State) : Host.Outcome State Fault Refusal := .next (s.after f)

/-- Perform a meaning on a unit that the part has; of another unit the command stops (DESIGN CHOICE, log entry 99). -/
def runIf (ok : Bool) (f : Mem → Dev → Dev) (s : State) : Host.Outcome State Fault Refusal :=
  if ok then run f s else .fault .noSuchUnit

end Sys2Proof.Machine
end

