-- ==== Sys2Proof/Machine/CmdBringUp.lean ====
section
/-! DEFINITION. Machine/CmdBringUp.lean: what each command does. Bring-up (chapter 15). -/

namespace Sys2Proof.Machine

/-- POWER_ON (R399): one event of Table 15-1. With the loss of its power the memory lost what it held. -/
def execPowerOn (e : PowerEvent) (s : State) : Host.Outcome State Fault Refusal :=
  let t := s.after (fun _ d => d.powerOn e)
  .next { t with mem := if s.dev.newPower e then [] else t.mem }

/-- COMPUTE_RESET (R417): the write of GLB.RESETCTL, or a later part of Table 15-6. -/
def execComputeReset (e : ResetEvent) (s : State) : Host.Outcome State Fault Refusal :=
  run (fun m d => d.computeReset m e) s

end Sys2Proof.Machine
end

