-- ==== Sys2Proof/Machine/CmdChannels.lean ====
section
/-! DEFINITION. Machine/CmdChannels.lean: what each command does. Channels (chapter 12). -/

namespace Sys2Proof.Machine

/-- CHCFG_EN (R337). -/
def execChcfgEn (e v : Nat) (s : State) : Host.Outcome State Fault Refusal :=
  runIf (bzeOk e) (fun m d => d.host (fun d => d.pageWrite m pBZE e 0x48 v)) s

/-- CH_OPEN_RETRY (R337). -/
def execChOpenRetry (e c : Nat) (s : State) : Host.Outcome State Fault Refusal :=
  runIf (bzeOk e && chanOk c) (fun _ d => d.openRetry e c) s

/-- OPENTMO_EXPIRY (R337). -/
def execOpentmoExpiry (e c : Nat) (s : State) : Host.Outcome State Fault Refusal :=
  runIf (bzeOk e && chanOk c) (fun m d => d.afterFailures m (d.openTimeout e c)) s

/-- CLOSING_EXPIRY (R337): `late` says that 20 ms have passed. -/
def execClosingExpiry (e c : Nat) (late : Bool) (s : State) : Host.Outcome State Fault Refusal :=
  runIf (bzeOk e && chanOk c) (fun m d => d.afterFailures m (d.closingExpiry e c late)) s

/-- CH_OPEN (R337). -/
def execChOpen (e : Nat) (s : State) : Host.Outcome State Fault Refusal :=
  runIf (bzeOk e) (fun m d => d.afterFailures m (d.chOpen e)) s

/-- CH_OPENACK (R337). -/
def execChOpenack (e : Nat) (s : State) : Host.Outcome State Fault Refusal :=
  runIf (bzeOk e) (fun m d => d.afterFailures m (d.chOpenAck e)) s

/-- CH_CLOSE (R337). -/
def execChClose (e : Nat) (s : State) : Host.Outcome State Fault Refusal :=
  runIf (bzeOk e) (fun m d => d.afterFailures m (d.chClose e)) s

/-- WRITE (R338, R340). -/
def execWrite (e : Nat) (s : State) : Host.Outcome State Fault Refusal :=
  runIf (bzeOk e) (fun m d => d.afterFailures m (d.writePacket e)) s

/-- ADD_PACKET (R340). -/
def execAddPacket (e : Nat) (s : State) : Host.Outcome State Fault Refusal :=
  runIf (bzeOk e) (fun m d => d.afterFailures m (d.addPacket m e)) s

/-- ACK_PACKET (R338). -/
def execAckPacket (e : Nat) (s : State) : Host.Outcome State Fault Refusal :=
  runIf (bzeOk e) (fun m d => d.afterFailures m ((d.ackPacket e).colAdvanceAll m)) s

/-- REFUSE (R339). -/
def execRefuse (e : Nat) (s : State) : Host.Outcome State Fault Refusal :=
  runIf (bzeOk e) (fun m d => d.afterFailures m ((d.refusePacket m e).colAdvanceAll m)) s

/-- STOP_PACKET (R342). -/
def execStopPacket (e : Nat) (s : State) : Host.Outcome State Fault Refusal :=
  runIf (bzeOk e) (fun _ d => d.stopPacket e) s

/-- RESUME_PACKET (R342). -/
def execResumePacket (e : Nat) (s : State) : Host.Outcome State Fault Refusal :=
  runIf (bzeOk e) (fun _ d => d.resumePacket e) s

/-- ACK_TIMER (R338). -/
def execAckTimer (e c : Nat) (s : State) : Host.Outcome State Fault Refusal :=
  runIf (bzeOk e && chanOk c) (fun _ d => d.ackTimer e c) s

/-- CHRTO_EXPIRY (R338). -/
def execChrtoExpiry (e c : Nat) (s : State) : Host.Outcome State Fault Refusal :=
  runIf (bzeOk e && chanOk c) (fun m d => d.afterFailures m (d.chanTimeout e c)) s

/-- MIRRORED_WRITE (R340). -/
def execMirroredWrite (p tag : Nat) (s : State) : Host.Outcome State Fault Refusal :=
  runIf (tileOk p) (fun _ d => d.mirroredWrite p tag) s

/-- CHFLUSH (R341). -/
def execChflush (e v : Nat) (s : State) : Host.Outcome State Fault Refusal :=
  runIf (bzeOk e) (fun m d => d.host (fun d => if bit v 0 then d.pageWrite m pBZE e 0x54 v else d)) s

/-- SLICE (R343): a slice of engine `e` on lane `vl` towards the egress place `egress`. -/
def execSlice (e vl egress : Nat) (s : State) : Host.Outcome State Fault Refusal :=
  runIf (bzeOk e) (fun _ d => d.slice e vl egress) s

end Sys2Proof.Machine
end

