-- ==== Sys2Proof/Machine/CmdCollective.lean ====
section
/-! DEFINITION. Machine/CmdCollective.lean: what each command does. Collectives (chapter 13). -/

namespace Sys2Proof.Machine

/-- READY (R354, R355): the oldest POST of a tile to COL, READY or malformed. -/
def execReady (tile : Nat) (s : State) : Host.Outcome State Fault Refusal :=
  runIf (tileOk tile) (fun m d => d.readyPost m tile) s

/-- ABORT (R354). -/
def execAbort (tile : Nat) (s : State) : Host.Outcome State Fault Refusal :=
  runIf (tileOk tile) (fun m d => d.abortPost m tile) s

/-- COL_LAUNCH (R354). -/
def execColLaunch (q : Nat) (s : State) : Host.Outcome State Fault Refusal :=
  runIf (ringOk q) (fun m d => d.colLaunch m q) s

/-- COL_BEGIN (R353). -/
def execColBegin (e : Nat) (s : State) : Host.Outcome State Fault Refusal :=
  runIf (bzeOk e) (fun m d => d.colPacket m e 0x10 (fun d c p => d.colBegin e c p)) s

/-- COL_DATA (R365). -/
def execColData (e : Nat) (s : State) : Host.Outcome State Fault Refusal :=
  runIf (bzeOk e) (fun m d => d.colPacket m e 0x11 (fun d c p => d.colDataIn e c p)) s

/-- COL_END (R365, R366). -/
def execColEnd (e : Nat) (s : State) : Host.Outcome State Fault Refusal :=
  runIf (bzeOk e) (fun m d => d.colPacket m e 0x12 (fun d c p => d.colEndIn m e c p)) s

/-- COL_VOTE (R367). -/
def execColVote (e : Nat) (s : State) : Host.Outcome State Fault Refusal :=
  runIf (bzeOk e) (fun m d => d.colPacket m e 0x13 (fun d c p => d.colVoteIn m e c p)) s

/-- COL_DECIDE (R367). -/
def execColDecide (e : Nat) (s : State) : Host.Outcome State Fault Refusal :=
  runIf (bzeOk e) (fun m d => d.colPacket m e 0x14 (fun d c p => d.colDecideIn e c p)) s

/-- COL_ABORT (R368). -/
def execColAbort (e : Nat) (s : State) : Host.Outcome State Fault Refusal :=
  runIf (bzeOk e) (fun m d => d.colPacket m e 0x15 (fun d c p => d.colAbortIn e c p)) s

/-- COL_EXCL (R371). -/
def execColExcl (e : Nat) (s : State) : Host.Outcome State Fault Refusal :=
  runIf (bzeOk e) (fun m d => d.colPacket m e 0x16 (fun d c p => d.colExclIn m e c p)) s

/-- COL_GRANT (R374). -/
def execColGrant (e : Nat) (s : State) : Host.Outcome State Fault Refusal :=
  runIf (bzeOk e) (fun m d => d.colPacket m e 0x17 (fun d c p => d.colGrantIn m e c p)) s

/-- SOFT_DEADLINE (R371): of the active instance of descriptor `k`. -/
def execSoftDeadline (k : Nat) (s : State) : Host.Outcome State Fault Refusal :=
  run (fun m d => (d.softDeadline m k).settled m) s

/-- COL_TMO_EXPIRY (R369). -/
def execColTmoExpiry (k : Nat) (s : State) : Host.Outcome State Fault Refusal :=
  run (fun m d => (d.colTimeout k).settled m) s

/-- HOSTABORT (R378). -/
def execHostabort (v : Nat) (s : State) : Host.Outcome State Fault Refusal :=
  run (fun m d => d.host (fun d => d.pageWrite m pCOL 0 0x78 v)) s

end Sys2Proof.Machine
end

