-- ==== Sys2Proof/Machine/CmdDeckle.lean ====
section
/-! DEFINITION. Machine/CmdDeckle.lean: what each command does. Deckle (chapter 10). -/

namespace Sys2Proof.Machine

/-- PLACE (R273). -/
def execPlace (q : Nat) (s : State) : Host.Outcome State Fault Refusal :=
  runIf (ringOk q) (fun m d => d.placeCommand m q) s

/-- RELEASE (R278). -/
def execRelease (q : Nat) (s : State) : Host.Outcome State Fault Refusal :=
  runIf (ringOk q) (fun _ d => d.releaseCommand q) s

/-- TILE_REMAP (R279). -/
def execTileRemap (s : State) : Host.Outcome State Fault Refusal :=
  run (fun m d => (d.tileRemap m).settled m) s

/-- REMAPPED (R279, R280): `bad` lists the program words that do not load. -/
def execRemapped (bad : List Nat) (s : State) : Host.Outcome State Fault Refusal :=
  run (fun m d => d.remapped m bad) s

/-- SOLVER_REMAP (R281). -/
def execSolverRemap (s : State) : Host.Outcome State Fault Refusal :=
  run (fun m d => d.solverRemap m) s

/-- STACK_MIGRATION (R282, R284). -/
def execStackMigration (s : State) : Host.Outcome State Fault Refusal :=
  run (fun _ d => d.stackMigration) s

/-- MIGRATION_COPY (R283): `ecc` is what the die meets at one line of the unit. -/
def execMigrationCopy (line : Nat) (ecc : Ecc) (s : State) : Host.Outcome State Fault Refusal :=
  runIf (rowOk ecc.row) (fun m d => d.migrationCopy m line ecc) s

/-- DKL_REDRAW (R285). -/
def execDklRedraw (v : Nat) (s : State) : Host.Outcome State Fault Refusal :=
  run (fun m d => d.host (fun d => d.pageWrite m pDKL 0 0x9C v)) s

/-- REDRAW (R285). -/
def execRedraw (s : State) : Host.Outcome State Fault Refusal :=
  run (fun _ d => d.redraw) s

end Sys2Proof.Machine
end

