-- ==== Sys2Proof/Machine/CmdHost.lean ====
section
/-! DEFINITION. Machine/CmdHost.lean: what each command does. The host interface (chapter 14). -/

namespace Sys2Proof.Machine

/-- FLR (R383): 0 a Function Level Reset, 1 a Hot Reset, 2 the link goes down. -/
def execFlr (kind : Nat) (s : State) : Host.Outcome State Fault Refusal :=
  run (fun m d => d.functionReset m kind) s

/-- PERST (R400). -/
def execPerst (s : State) : Host.Outcome State Fault Refusal :=
  run (fun _ d => d.perstRelease) s

/-- CONFIG_REQUEST (R400): 0 reads, 1 writes, 2 sets the size of BAR 4. -/
def execConfigRequest (kind off v : Nat) (s : State) : Host.Outcome State Fault Refusal :=
  run (fun _ d => d.configRequest kind off v) s

/-- BAR4_READ (R384, R385). -/
def execBar4Read (o n : Nat) (ecc : Ecc) (s : State) : Host.Outcome State Fault Refusal :=
  runIf (rowOk ecc.row) (fun m d => d.host (fun d => d.bar4Read m o n ecc)) s

/-- BAR4_WRITE (R384, R385). -/
def execBar4Write (o : Nat) (bs : List Nat) (ecc : Ecc) (s : State) : Host.Outcome State Fault Refusal :=
  runIf (rowOk ecc.row) (fun m d => d.host (fun d => d.bar4Write m o bs ecc)) s

/-- WIN_WRITE_DISCARD (R385). -/
def execWinWriteDiscard (o n : Nat) (s : State) : Host.Outcome State Fault Refusal :=
  run (fun _ d => d.host (fun d => d.winDiscard o n)) s

/-- SQ_TAIL_DOORBELL (R387). -/
def execSqTailDoorbell (q v : Nat) (s : State) : Host.Outcome State Fault Refusal :=
  runIf (ringOk q) (fun _ d => d.host (fun d => d.sqTail q v)) s

/-- CQ_HEAD_DOORBELL (R387, R395). -/
def execCqHeadDoorbell (q v : Nat) (s : State) : Host.Outcome State Fault Refusal :=
  runIf (ringOk q) (fun _ d => d.host (fun d => d.cqHead q v)) s

/-- HOST_EVENT_DOORBELL (R393). -/
def execHostEventDoorbell (t v : Nat) (s : State) : Host.Outcome State Fault Refusal :=
  runIf (bellOk t) (fun _ d => d.host (fun d => d.hostEvent t v)) s

/-- COMMAND_FETCH (R387): the 64 bytes that the read of the ring returns; `bad` says that it failed (R382). -/
def execCommandFetch (q : Nat) (bytes : List Nat) (bad : Bool) (s : State) : Host.Outcome State Fault Refusal :=
  runIf (ringOk q) (fun _ d => d.commandFetch q bytes bad) s

/-- NOP_COMMAND (R388). -/
def execNopCommand (q : Nat) (s : State) : Host.Outcome State Fault Refusal :=
  runIf (ringOk q) (fun _ d => d.nopCommand q) s

/-- PROG_LOAD (R388). -/
def execProgLoad (q : Nat) (s : State) : Host.Outcome State Fault Refusal :=
  runIf (ringOk q) (fun m d => d.progLoad m q) s

/-- TILE_START (R389). -/
def execTileStart (q : Nat) (s : State) : Host.Outcome State Fault Refusal :=
  runIf (ringOk q) (fun _ d => d.tileStart q) s

/-- TILE_STOP (R388). -/
def execTileStop (q : Nat) (s : State) : Host.Outcome State Fault Refusal :=
  runIf (ringOk q) (fun m d => d.tileStop m q) s

/-- COMPLETION_WRITE (R390, R391). -/
def execCompletionWrite (q : Nat) (s : State) : Host.Outcome State Fault Refusal :=
  runIf (ringOk q) (fun _ d => d.completionWrite q) s

/-- MSIX_SIGNAL (R395). -/
def execMsixSignal (q : Nat) (s : State) : Host.Outcome State Fault Refusal :=
  runIf (ringOk q) (fun _ d => d.msixSignal q) s

/-- RING_ENABLE (R386): a write of HBX.CQCFG or HBX.SQCFG. -/
def execRingEnable (completion : Bool) (v : Nat) (s : State) : Host.Outcome State Fault Refusal :=
  run (fun m d => d.host (fun d => d.pageWrite m pHBX 0 (if completion then 0x5C else 0x4C) v)) s

/-- STOPCHAN (R394). -/
def execStopchan (v : Nat) (s : State) : Host.Outcome State Fault Refusal :=
  run (fun _ d => d.host (fun d => d.urgStopChan v)) s

/-- RESUMECHAN (R394). -/
def execResumechan (v : Nat) (s : State) : Host.Outcome State Fault Refusal :=
  run (fun _ d => d.host (fun d => d.urgResumeChan v)) s

/-- STOPPEER (R394). -/
def execStoppeer (v : Nat) (s : State) : Host.Outcome State Fault Refusal :=
  run (fun _ d => d.host (fun d => d.urgStopPeer v)) s

/-- RESUMEPEER (R394). -/
def execResumepeer (v : Nat) (s : State) : Host.Outcome State Fault Refusal :=
  run (fun _ d => d.host (fun d => d.urgResumePeer v)) s

/-- SQSTOP (R394). -/
def execSqstop (high : Bool) (v : Nat) (s : State) : Host.Outcome State Fault Refusal :=
  run (fun _ d => d.host (fun d => d.urgSqStop high v)) s

/-- SQGO (R394). -/
def execSqgo (high : Bool) (v : Nat) (s : State) : Host.Outcome State Fault Refusal :=
  run (fun _ d => d.host (fun d => d.urgSqGo high v)) s

/-- COLABORT (R394). -/
def execColabort (v : Nat) (s : State) : Host.Outcome State Fault Refusal :=
  run (fun m d => d.host (fun d => d.urgColAbort m v)) s

/-- URG_SPOIL (R394). -/
def execUrgSpoil (v : Nat) (s : State) : Host.Outcome State Fault Refusal :=
  run (fun m d => d.host (fun d => (d.urgSpoil m v).settled m)) s

/-- PCIE_LINK_UP (R380). -/
def execPcieLinkUp (rate width : Nat) (flit : Bool) (s : State) : Host.Outcome State Fault Refusal :=
  run (fun _ d => d.pcieLinkUp rate width flit) s

end Sys2Proof.Machine
end

