-- ==== Sys2Proof/Machine/CmdLinks.lean ====
section
/-! DEFINITION. Machine/CmdLinks.lean: what each command does. Brezin links (chapter 12). -/

namespace Sys2Proof.Machine

/-- PORT_TRAINING (R326, R330): `pass` are the lanes that pass; the rest is what the peer announces. -/
def execPortTraining (p pass peerId peerPort peerSeq : Nat) (s : State) : Host.Outcome State Fault Refusal :=
  runIf (portOk p) (fun _ d => d.portTraining p pass peerId peerPort peerSeq) s

/-- RETRY_INTERVAL_EXPIRY (R327). -/
def execRetryIntervalExpiry (p : Nat) (s : State) : Host.Outcome State Fault Refusal :=
  runIf (portOk p) (fun _ d => d.startTraining p) s

/-- RETRAIN (R326): a write of BZP.CTL with RETRAIN. -/
def execRetrain (p v : Nat) (s : State) : Host.Outcome State Fault Refusal :=
  runIf (portOk p) (fun m d => d.host (fun d => if bit v 1 then d.pageWrite m pBZP p 0x40 v else d)) s

/-- TRAIN_EN (R326): a write of BZP.CTL without RETRAIN. -/
def execTrainEn (p v : Nat) (s : State) : Host.Outcome State Fault Refusal :=
  runIf (portOk p) (fun m d => d.host (fun d => if !bit v 1 then d.pageWrite m pBZP p 0x40 v else d)) s

/-- DATA_FRAME (R328, R329, R331): the bytes of a received frame, and how many of its codewords FEC corrected. -/
def execDataFrame (p : Nat) (f : WireFrame) (s : State) : Host.Outcome State Fault Refusal :=
  runIf (portOk p) (fun _ d => d.dataFrame p f.bytes f.fec) s

/-- LCF (R328): as DATA_FRAME. -/
def execLcf (p : Nat) (f : WireFrame) (s : State) : Host.Outcome State Fault Refusal :=
  runIf (portOk p) (fun _ d => d.lcf p f.bytes f.fec) s

/-- FEC_UNCORRECTABLE (R326): `newWindow` says that the codeword opens a new 1 ms window. -/
def execFecUncorrectable (p : Nat) (newWindow : Bool) (s : State) : Host.Outcome State Fault Refusal :=
  runIf (portOk p) (fun _ d => d.fecUncorrectable p newWindow) s

/-- LANE_ALIGNMENT_LOST (R326). -/
def execLaneAlignmentLost (p : Nat) (s : State) : Host.Outcome State Fault Refusal :=
  runIf (portOk p) (fun _ d => d.startRetrain p) s

/-- LLTMO_EXPIRY (R329). -/
def execLltmoExpiry (p : Nat) (s : State) : Host.Outcome State Fault Refusal :=
  runIf (portOk p) (fun _ d => d.llTimeout p) s

/-- FRAME_TRANSMIT (R332): `reserved` says that the frame falls to the reservation. -/
def execFrameTransmit (p : Nat) (reserved : Bool) (s : State) : Host.Outcome State Fault Refusal :=
  runIf (portOk p) (fun _ d => d.frameTransmit p reserved) s

end Sys2Proof.Machine
end

