-- ==== Sys2Proof/Machine/CmdMemory.lean ====
section
/-! DEFINITION. Machine/CmdMemory.lean: what each command does. Onastan memory (chapter 9). -/

namespace Sys2Proof.Machine

/-- STACK_READ (R246): the read at place `n` of the stack's requests. -/
def execStackRead (k n : Nat) (ecc : Ecc) (s : State) : Host.Outcome State Fault Refusal :=
  runIf (stkOk k && rowOk ecc.row) (fun m d => d.stackRead m k n ecc) s

/-- STACK_WRITE (R250). -/
def execStackWrite (k n : Nat) (ecc : Ecc) (s : State) : Host.Outcome State Fault Refusal :=
  runIf (stkOk k && rowOk ecc.row) (fun m d => d.stackWrite m k n ecc) s

/-- ATOMIC_ADD (R251). -/
def execAtomicAdd (k n : Nat) (ecc : Ecc) (s : State) : Host.Outcome State Fault Refusal :=
  runIf (stkOk k && rowOk ecc.row) (fun m d => d.atomicAdd m k n ecc) s

/-- ROW_WEAR_MITIGATION (R254): what the die has counted beyond the activations that commands name, and whether the
share of R254 does not allow a mitigation yet. -/
def execRowWearMitigation (k : Nat) (x : Activations) (s : State) : Host.Outcome State Fault Refusal :=
  runIf (stkOk k && rowOk x.row) (fun _ d => d.wearMitigation k x.row x.more x.wait) s

/-- ROW_REPAIR (R255, R256). -/
def execRowRepair (k : Nat) (s : State) : Host.Outcome State Fault Refusal :=
  runIf (stkOk k) (fun _ d => d.rowRepair k) s

/-- REFRESH (R257): the row `x.ecc.row` is refreshed; `x.ecc` is what the cells of one of its lines have come to by
then. -/
def execRefresh (k : Nat) (x : RefreshedLine) (s : State) : Host.Outcome State Fault Refusal :=
  runIf (stkOk k && rowOk x.ecc.row && decide (x.line < stackLines)) (fun m d => d.rowRefresh m k x.line x.ecc) s

/-- PATROL_SCRUB (R258). -/
def execPatrolScrub (k : Nat) (ecc : Ecc) (s : State) : Host.Outcome State Fault Refusal :=
  runIf (stkOk k && rowOk ecc.row) (fun m d => d.patrolScrub m k ecc) s

/-- DEMAND_SCRUB (R258). -/
def execDemandScrub (k : Nat) (ecc : Ecc) (s : State) : Host.Outcome State Fault Refusal :=
  runIf (stkOk k && rowOk ecc.row) (fun m d => d.demandScrub m k ecc) s

/-- DOC_BEHIND (R258). -/
def execDocBehind (hours : Nat) (s : State) : Host.Outcome State Fault Refusal :=
  run (fun _ d => d.docBehind hours) s

/-- OPERATING_HOUR_END (R259). -/
def execOperatingHourEnd (s : State) : Host.Outcome State Fault Refusal :=
  run (fun _ d => d.operatingHourEnd) s

/-- STACK_NO_ANSWER (R259, R260). -/
def execStackNoAnswer (k : Nat) (s : State) : Host.Outcome State Fault Refusal :=
  runIf (stkOk k) (fun m d => d.stackNoAnswer m k) s

/-- DRAM_DIE_LOST (R259). -/
def execDramDieLost (k : Nat) (s : State) : Host.Outcome State Fault Refusal :=
  runIf (stkOk k) (fun _ d => d.dieLost k) s

end Sys2Proof.Machine
end

