-- ==== Sys2Proof/Machine/CmdPower.lean ====
section
/-! DEFINITION. Machine/CmdPower.lean: what each command does. Power and temperature (chapters 16 and 18). -/

namespace Sys2Proof.Machine

/-- POWER_FAIL (R465): 0 the input stayed below PWR.PF.MV, 1 PWREN low, 2 PWRFAIL#. -/
def execPowerFail (cause mv : Nat) (s : State) : Host.Outcome State Fault Refusal :=
  run (fun _ d => d.inputFail cause mv) s

/-- INPUT_OVERVOLTAGE (R465). -/
def execInputOvervoltage (mv : Nat) (s : State) : Host.Outcome State Fault Refusal :=
  run (fun _ d => d.overvoltage mv) s

/-- THM_SAMPLE (R439, R441, R472): (sensor, reading) pairs. -/
def execThmSample (vs : List (Nat × Nat)) (s : State) : Host.Outcome State Fault Refusal :=
  run (fun _ d => d.thmSample vs) s

/-- HARDWARE_TRIP (R472). -/
def execHardwareTrip (sensor v : Nat) (s : State) : Host.Outcome State Fault Refusal :=
  run (fun _ d => d.hardwareTrip sensor v) s

/-- THM_SNAPSHOT (R440). -/
def execThmSnapshot (s : State) : Host.Outcome State Fault Refusal :=
  run (fun _ d => d.snapshot) s

/-- ERROR_SIGNAL (R427): the coalescing interval ends. -/
def execErrorSignal (s : State) : Host.Outcome State Fault Refusal :=
  run (fun _ d => d.errorInterval) s

/-- ADMISSION_INTERVAL (R468). -/
def execAdmissionInterval (s : State) : Host.Outcome State Fault Refusal :=
  run (fun _ d => d.admissionInterval) s

/-- UNIT_IDLE (R469). -/
def execUnitIdle (kind n : Nat) (s : State) : Host.Outcome State Fault Refusal :=
  run (fun _ d => d.unitIdle kind n) s

/-- CAP_WINDOW (R470): the mean power of the last window in tenths of a watt. -/
def execCapWindow (mean : Nat) (s : State) : Host.Outcome State Fault Refusal :=
  run (fun _ d => d.capWindow mean) s

/-- DUTY_HOLD (R470). -/
def execDutyHold (begins : Bool) (s : State) : Host.Outcome State Fault Refusal :=
  run (fun _ d => d.dutyHold begins) s

/-- CAP_WRITE (R463): a write of PWR.CAP or PWR.VSET. -/
def execCapWrite (vset : Bool) (v : Nat) (s : State) : Host.Outcome State Fault Refusal :=
  run (fun m d => d.host (fun d => d.pageWrite m pPWR 0 (if vset then 0x48 else 0x44) v)) s

/-- SMBUS_BLOCK_READ (R474). -/
def execSmbusBlockRead (code : Nat) (s : State) : Host.Outcome State Fault Refusal :=
  run (fun _ d => d.smbusRead code) s

end Sys2Proof.Machine
end

