-- ==== Sys2Proof/Machine/CmdRecorder.lean ====
section
/-! DEFINITION. Machine/CmdRecorder.lean: what each command does. The event recorder (chapter 16). -/

namespace Sys2Proof.Machine

/-- EVENT_RECORD (R430): `failing` lists the NV blocks that fail to program. -/
def execEventRecord (failing : List Nat) (s : State) : Host.Outcome State Fault Refusal :=
  run (fun _ d => d.eventRecord failing) s

/-- TOKEN_REFILL (R433). -/
def execTokenRefill (s : State) : Host.Outcome State Fault Refusal :=
  run (fun _ d => d.tokenRefill) s

/-- TIMED_FLUSH (R434). -/
def execTimedFlush (failing : List Nat) (s : State) : Host.Outcome State Fault Refusal :=
  run (fun _ d => d.timedFlush failing) s

/-- FLUSH (R434): a write of EVR.CTL with FLUSH. -/
def execFlush (v : Nat) (failing : List Nat) (s : State) : Host.Outcome State Fault Refusal :=
  run (fun _ d => d.host (fun d => if bit v 0 && d.blockOpen pEVR 0 then d.evrCtl failing v else d)) s

/-- RECORDS_LOST (R436). -/
def execRecordsLost (failing : List Nat) (s : State) : Host.Outcome State Fault Refusal :=
  run (fun _ d => d.recordsLost failing) s

/-- DUMPGO (R442): a write of EVR.CTL with DUMPGO alone. -/
def execDumpgo (v : Nat) (s : State) : Host.Outcome State Fault Refusal :=
  run (fun m d => d.host (fun d => if v % 4 = 2 then d.pageWrite m pEVR 0 0x40 v else d)) s

end Sys2Proof.Machine
end

