-- ==== Sys2Proof/Machine/CmdRegs.lean ====
section
/-! DEFINITION. Machine/CmdRegs.lean: what each command does. Registers (chapter 2). -/

namespace Sys2Proof.Machine

/-- REG_WRITE (R9, R36): `be` are the byte enables, four or the eight of an aligned 64-bit access. -/
def execRegWrite (bar off be v : Nat) (s : State) : Host.Outcome State Fault Refusal :=
  runIf (regAt bar off) (fun m d => d.host (fun d => d.regWrite m bar off be v)) s

/-- RC_READ (R9, R36): a register read, of 32 or 64 bits; its RC fields clear. -/
def execRcRead (bar off be : Nat) (s : State) : Host.Outcome State Fault Refusal :=
  runIf (regAt bar off) (fun m d => d.host (fun d => d.rcRead m bar off be)) s

/-- PG_SEQ_READ (R41): the read of a low word that latches the high one. -/
def execPgSeqRead (off : Nat) (s : State) : Host.Outcome State Fault Refusal :=
  runIf (regAt 0 off) (fun m d => d.host (fun d => d.latchingRead m off)) s

/-- RESERVED_PAGE_ACCESS (R40). -/
def execReservedAccess (bar off : Nat) (write : Bool) (s : State) : Host.Outcome State Fault Refusal :=
  runIf (regAt bar off) (fun _ d => d.host (fun d => d.reservedAccess bar off write)) s

end Sys2Proof.Machine
end

