-- ==== Sys2Proof/Machine/CmdSecurity.lean ====
section
/-! DEFINITION. Machine/CmdSecurity.lean: what each command does. Life cycle and licences (chapter 17). -/

namespace Sys2Proof.Machine

/-- LC_TRANSITION (R447): a write of SEC.CMD with GO. -/
def execLcTransition (v : Nat) (s : State) : Host.Outcome State Fault Refusal :=
  run (fun m d => d.host (fun d => if bit v 31 && v % 16 == 1 then d.pageWrite m pSEC 0 0x44 v else d)) s

/-- FIELD_DEBUG (R450): a write of SEC.CMD with GO. -/
def execFieldDebug (v : Nat) (s : State) : Host.Outcome State Fault Refusal :=
  run (fun m d => d.host (fun d => if bit v 31 && v % 16 == 2 then d.pageWrite m pSEC 0 0x44 v else d)) s

/-- OWNER_KEY (R451): a write of SEC.CMD with GO. -/
def execOwnerKey (v : Nat) (s : State) : Host.Outcome State Fault Refusal :=
  run (fun m d => d.host (fun d => if bit v 31 && v % 16 == 3 then d.pageWrite m pSEC 0 0x44 v else d)) s

/-- ATTEST (R457): a write of SEC.CMD with GO. -/
def execAttest (v : Nat) (s : State) : Host.Outcome State Fault Refusal :=
  run (fun m d => d.host (fun d => if bit v 31 && v % 16 == 4 then d.pageWrite m pSEC 0 0x44 v else d)) s

/-- CERT_EXPORT (R456): a write of SEC.CMD with GO. -/
def execCertExport (v : Nat) (s : State) : Host.Outcome State Fault Refusal :=
  run (fun m d => d.host (fun d => if bit v 31 && v % 16 == 5 then d.pageWrite m pSEC 0 0x44 v else d)) s

/-- FW_STAGE (R454): a write of SEC.CMD with GO. -/
def execFwStage (v : Nat) (s : State) : Host.Outcome State Fault Refusal :=
  run (fun m d => d.host (fun d => if bit v 31 && v % 16 == 6 then d.pageWrite m pSEC 0 0x44 v else d)) s

/-- SVN_COMMIT (R455): a write of SEC.CMD with GO. -/
def execSvnCommit (v : Nat) (s : State) : Host.Outcome State Fault Refusal :=
  run (fun m d => d.host (fun d => if bit v 31 && v % 16 == 7 then d.pageWrite m pSEC 0 0x44 v else d)) s

/-- CLEAR_FIELDMAP (R448): a write of SEC.CMD with GO. -/
def execClearFieldmap (v : Nat) (s : State) : Host.Outcome State Fault Refusal :=
  run (fun m d => d.host (fun d => if bit v 31 && v % 16 == 8 then d.pageWrite m pSEC 0 0x44 v else d)) s

/-- INSTALL (R458): a write of LIC.CTL with INSTALL. -/
def execInstall (v : Nat) (s : State) : Host.Outcome State Fault Refusal :=
  run (fun m d => d.host (fun d => if bit v 0 then d.pageWrite m pLIC 0 0x44 v else d)) s

/-- REMOVE (R458): a write of LIC.CTL with REMOVE alone. -/
def execRemove (v : Nat) (s : State) : Host.Outcome State Fault Refusal :=
  run (fun m d => d.host (fun d => if v % 4 = 2 then d.pageWrite m pLIC 0 0x44 v else d)) s

end Sys2Proof.Machine
end

