-- ==== Sys2Proof/Machine/CmdSolver.lean ====
section
/-! DEFINITION. Machine/CmdSolver.lean: what each command does. Solver engines (chapter 7). -/

namespace Sys2Proof.Machine

/-- SLV_LOAD (R187): the command at the front of SQ `q` starts. -/
def execSlvLoad (q : Nat) (s : State) : Host.Outcome State Fault Refusal :=
  runIf (ringOk q) (fun _ d => d.slvLoad q) s

/-- SLV_LOAD_COMPLETE (R187). -/
def execSlvLoadComplete (e : Nat) (s : State) : Host.Outcome State Fault Refusal :=
  runIf (slvOk e) (fun m d => d.slvLoadComplete m e) s

/-- DELTA_PACKET (R190). -/
def execDeltaPacket (e : Nat) (s : State) : Host.Outcome State Fault Refusal :=
  runIf (slvOk e) (fun _ d => d.deltaPacket e) s

/-- DELTA_APPLY (R191, R212): the engine, and the single-bit errors that it meets. -/
def execDeltaApply (a : DeltaRead) (s : State) : Host.Outcome State Fault Refusal :=
  runIf (slvOk a.engine) (fun _ d => d.deltaApply a.engine a.ces) s

/-- SOLVER_LAUNCH (R201): the oldest admitted launch reaches its engine. -/
def execSolverLaunch (s : State) : Host.Outcome State Fault Refusal :=
  run (fun _ d => d.solverLaunch) s

/-- CYCLE_START (R191, R202). -/
def execCycleStart (e : Nat) (s : State) : Host.Outcome State Fault Refusal :=
  runIf (slvOk e) (fun _ d => d.cycleStart e) s

/-- LANE_GROUP_COMPLETE (R204, R212, R213): the engine, the core-clock cycles that the group took and the single-bit
errors that it met. -/
def execLaneGroupComplete (a : GroupDone) (s : State) : Host.Outcome State Fault Refusal :=
  runIf (slvOk a.engine) (fun m d => d.laneGroup m a.engine a.cc a.ces) s

/-- DEADLINE_MARK (R204, R205). -/
def execDeadlineMark (e : Nat) (s : State) : Host.Outcome State Fault Refusal :=
  runIf (slvOk e) (fun m d => d.deadlineMark m e) s

end Sys2Proof.Machine
end

