-- ==== Sys2Proof/Machine/CmdSteps.lean ====
section
/-! DEFINITION. Machine/CmdSteps.lean: what each command does. Training steps and couch queues (chapter 11). -/

namespace Sys2Proof.Machine

/-- STEP_OPEN_ARRIVAL (R292). -/
def execStepOpenArrival (p : Nat) (s : State) : Host.Outcome State Fault Refusal :=
  runIf (tileOk p) (fun m d => (d.stepOpenArrival m p).settled m) s

/-- STEP_COMMIT_ARRIVAL (R293). -/
def execStepCommitArrival (p : Nat) (s : State) : Host.Outcome State Fault Refusal :=
  runIf (tileOk p) (fun m d => (d.stepCommitArrival m p).settled m) s

/-- COMMITTING (R294 to R296). -/
def execCommitting (s : State) : Host.Outcome State Fault Refusal :=
  run (fun m d => (d.committing m).settled m) s

/-- CMTTMO_EXPIRY (R294). -/
def execCmttmoExpiry (s : State) : Host.Outcome State Fault Refusal :=
  run (fun m d => (d.commitTimeout m).settled m) s

/-- SPOIL (R298): a write of STP.CTL with SPOIL. -/
def execSpoil (v : Nat) (s : State) : Host.Outcome State Fault Refusal :=
  run (fun m d => d.host (fun d => if bit v 0 then (d.pageWrite m pSTP 0 0x40 v).settled m else d)) s

/-- ACK (R299): a write of STP.CTL with ACK alone. -/
def execAck (v : Nat) (s : State) : Host.Outcome State Fault Refusal :=
  run (fun m d => d.host (fun d => if v % 4 = 2 then d.pageWrite m pSTP 0 0x40 v else d)) s

/-- LEDGER_COPY (R307). -/
def execLedgerCopy (s : State) : Host.Outcome State Fault Refusal :=
  run (fun m d => d.ledgerCopy m) s

/-- LATE_CONTRIBUTION (R304): `good` says that the contribution reached STP with its CRC intact. -/
def execLateContribution (good : Bool) (s : State) : Host.Outcome State Fault Refusal :=
  run (fun m d => d.lateContribution m good) s

/-- CQ_PUSH (R314, R316, R317). -/
def execCqPush (tile : Nat) (s : State) : Host.Outcome State Fault Refusal :=
  runIf (tileOk tile) (fun m d => (d.cqPush m tile).settled m) s

/-- CQ_POP (R315, R316, R317). -/
def execCqPop (tile : Nat) (s : State) : Host.Outcome State Fault Refusal :=
  runIf (tileOk tile) (fun m d => (d.cqPop m tile).settled m) s

/-- PHASE (R320). -/
def execPhase (tile : Nat) (s : State) : Host.Outcome State Fault Refusal :=
  runIf (tileOk tile) (fun m d => (d.phasePost m tile).settled m) s

/-- BADPOST (R313). -/
def execBadPost (tile : Nat) (s : State) : Host.Outcome State Fault Refusal :=
  runIf (tileOk tile) (fun m d => (d.badPost m tile).settled m) s

/-- CQ_ENABLE (R311): a write of STP.CQCFG with EN. -/
def execCqEnable (v : Nat) (s : State) : Host.Outcome State Fault Refusal :=
  run (fun m d => d.host (fun d => if bit v 0 then d.pageWrite m pSTP 0 0x88 v else d)) s

/-- CQ_DATA (R317, R318): the engine, and whether the sender has this queue's NSLOT and SLOT4K. -/
def execCqData (a : CqArrival) (s : State) : Host.Outcome State Fault Refusal :=
  runIf (bzeOk a.engine) (fun m d => d.afterFailures m (d.cqDataIn a.engine a.same)) s

/-- CQ_PUSHN (R317). -/
def execCqPushn (e : Nat) (s : State) : Host.Outcome State Fault Refusal :=
  runIf (bzeOk e) (fun m d => d.afterFailures m (d.cqPushNotice m e)) s

/-- CQ_POPN (R317). -/
def execCqPopn (e : Nat) (s : State) : Host.Outcome State Fault Refusal :=
  runIf (bzeOk e) (fun m d => d.afterFailures m (d.cqPopNotice m e)) s

/-- CQ_SLOT_ACKNOWLEDGED (R317). -/
def execCqSlotAcknowledged (q : Nat) (s : State) : Host.Outcome State Fault Refusal :=
  runIf (ringOk q) (fun m d => (d.cqSlotAcked m q).settled m) s

end Sys2Proof.Machine
end

