-- ==== Sys2Proof/Machine/CmdSync.lean ====
section
/-! DEFINITION. Machine/CmdSync.lean: what each command does. Barriers, Cadence and calibration (chapters 8 and 16). -/

namespace Sys2Proof.Machine

/-- BAR_ARRIVAL (R224, R226). -/
def execBarArrival (p b : Nat) (s : State) : Host.Outcome State Fault Refusal :=
  runIf (tileOk p && barOk b) (fun _ d => d.barArrival p b) s

/-- BARTMO_EXPIRY (R227). -/
def execBartmoExpiry (b : Nat) (s : State) : Host.Outcome State Fault Refusal :=
  runIf (barOk b) (fun _ d => d.barTimeout b) s

/-- BARCFG_WRITE (R227). -/
def execBarcfgWrite (v : Nat) (s : State) : Host.Outcome State Fault Refusal :=
  run (fun m d => d.host (fun d => d.pageWrite m pSYN 0 0x44 v)) s

/-- BARRESET (R227). -/
def execBarReset (v : Nat) (s : State) : Host.Outcome State Fault Refusal :=
  run (fun m d => d.host (fun d => if bit v 0 then d.pageWrite m pSYN 0 0x54 v else d)) s

/-- ARRIVE (R228). -/
def execArrive (v : Nat) (s : State) : Host.Outcome State Fault Refusal :=
  run (fun m d => d.host (fun d => d.pageWrite m pSYN 0 0x4C v)) s

/-- HOST_ARRIVAL_COUNT (R228). -/
def execHostArrivalCount (b : Nat) (s : State) : Host.Outcome State Fault Refusal :=
  runIf (barOk b) (fun _ d => d.hostArrivalCount b) s

/-- CADENCE_MARK (R230). -/
def execCadenceMark (s : State) : Host.Outcome State Fault Refusal :=
  run (fun _ d => d.cadenceMark) s

/-- RUN (R234): a write of CAD.CTL without LOAD. -/
def execRun (v : Nat) (s : State) : Host.Outcome State Fault Refusal :=
  run (fun m d => d.host (fun d => if !bit v 1 then d.pageWrite m pCAD 0 0x40 v else d)) s

/-- LOAD (R234): a write of CAD.CTL with LOAD. -/
def execLoad (v : Nat) (s : State) : Host.Outcome State Fault Refusal :=
  run (fun m d => d.host (fun d => if bit v 1 then d.pageWrite m pCAD 0 0x40 v else d)) s

/-- PERIOD_WRITE (R234). -/
def execPeriodWrite (v : Nat) (s : State) : Host.Outcome State Fault Refusal :=
  run (fun m d => d.host (fun d => d.pageWrite m pCAD 0 0x44 v)) s

/-- CAL_SWEEP (R444, R235): `kind`, the skew or the sensor, and whether it failed are what the sweep finds. -/
def execCalSweep (kind skew sensor : Nat) (failed : Bool) (s : State) : Host.Outcome State Fault Refusal :=
  run (fun _ d => d.calSweep kind skew sensor failed) s

/-- CC_MEASURE (R444): the five measured clocks in ps. -/
def execCcMeasure (ps : List Nat) (s : State) : Host.Outcome State Fault Refusal :=
  run (fun _ d => d.ccMeasure ps) s

end Sys2Proof.Machine
end

