-- ==== Sys2Proof/Machine/CmdTiles.lean ====
section
/-! DEFINITION. Machine/CmdTiles.lean: what each command does. Tiles (chapters 3, 5 and 6). -/

namespace Sys2Proof.Machine

/-- BUNDLE_ISSUE (R52): `ecc` is what a code meets at word `word`: 0 nothing, 1 a corrected and 2 an uncorrectable
error of the program store, 3 and 4 the same of the tile store. -/
def execBundleIssue (p ecc word : Nat) (s : State) : Host.Outcome State Fault Refusal :=
  runIf (tileOk p) (fun m d => d.bundleIssue m p ecc word) s

/-- STALLED_BUNDLE_ISSUE (R73). -/
def execStalledBundleIssue (p ecc word : Nat) (s : State) : Host.Outcome State Fault Refusal :=
  runIf (tileOk p) (fun m d => d.stalledIssue m p ecc word) s

/-- WRITE_LANDS (R71). -/
def execWriteLands (p : Nat) (s : State) : Host.Outcome State Fault Refusal :=
  runIf (tileOk p) (fun _ d => d.writeLands p) s

/-- DIVIDE_COMPLETE (R73): `fp` names the shared FDIV/FSQRT unit. -/
def execDivideComplete (p : Nat) (fp : Bool) (s : State) : Host.Outcome State Fault Refusal :=
  runIf (tileOk p) (fun _ d => d.divideComplete p fp) s

/-- WATCHDOG (R74). -/
def execWatchdog (p : Nat) (s : State) : Host.Outcome State Fault Refusal :=
  runIf (tileOk p) (fun m d => d.watchdog m p) s

/-- DMA_COMPLETE (R69). -/
def execDmaComplete (p tag : Nat) (s : State) : Host.Outcome State Fault Refusal :=
  runIf (tileOk p) (fun _ d => d.dmaComplete p tag) s

/-- DMA_TIMEOUT (R69). -/
def execDmaTimeout (p tag : Nat) (s : State) : Host.Outcome State Fault Refusal :=
  runIf (tileOk p) (fun _ d => d.dmaTimeout p tag) s

/-- REGION_ACCESS (R242, R244): the next access of a tile leaves it. -/
def execRegionAccess (p ecc word : Nat) (s : State) : Host.Outcome State Fault Refusal :=
  runIf (tileOk p) (fun m d => d.regionAccess m p ecc word) s

/-- BAR_ARRIVE_SEND (R225). -/
def execBarArriveSend (p b : Nat) (s : State) : Host.Outcome State Fault Refusal :=
  runIf (tileOk p && barOk b) (fun _ d => d.barArriveSend p b) s

/-- POST_CREDIT_RETURN (R80). -/
def execPostCreditReturn (p target : Nat) (s : State) : Host.Outcome State Fault Refusal :=
  runIf (tileOk p) (fun _ d => d.creditReturn p target) s

/-- LAUNCH_ENTRY_FIRE (R232). -/
def execLaunchEntryFire (s : State) : Host.Outcome State Fault Refusal :=
  run (fun _ d => d.launchEntryFire) s

/-- START (R59, R88): a write of TIL.RUNCTL with START. -/
def execStart (p v : Nat) (s : State) : Host.Outcome State Fault Refusal :=
  runIf (tileOk p) (fun m d => d.host (fun d => if v % 8 = 1 then d.pageWrite m pTIL p 0x40 v else d)) s

/-- STOP (R88): a write of TIL.RUNCTL with STOP. -/
def execStop (p v : Nat) (s : State) : Host.Outcome State Fault Refusal :=
  runIf (tileOk p) (fun m d => d.host (fun d => if v % 8 = 2 then d.pageWrite m pTIL p 0x40 v else d)) s

/-- RESUME (R81): a write of TIL.RUNCTL with RESUME. -/
def execResume (p v : Nat) (s : State) : Host.Outcome State Fault Refusal :=
  runIf (tileOk p) (fun m d => d.host (fun d => if v % 8 = 4 then d.pageWrite m pTIL p 0x40 v else d)) s

/-- MX_OP_START (R126): on the array or on the transfer port. -/
def execMxOpStart (p : Nat) (array : Bool) (ecc word : Nat) (s : State) : Host.Outcome State Fault Refusal :=
  runIf (tileOk p) (fun m d => d.mxOpStart m p array ecc word) s

/-- MX_OP_COMPLETE (R126, R144): `ones` and `bad` list the words of accumulator memory in which the code finds a
single-bit and an uncorrectable error. -/
def execMxOpComplete (p : Nat) (array : Bool) (errs : CellErrors) (s : State) : Host.Outcome State Fault Refusal :=
  runIf (tileOk p) (fun _ d => d.mxOpComplete p array errs.ones errs.bad) s

/-- ACCDBG_GO (R145): a write of TIL.ACCDBG_CTL with GO. -/
def execAccdbgGo (p v : Nat) (s : State) : Host.Outcome State Fault Refusal :=
  runIf (tileOk p) (fun m d => d.host (fun d => if bit v 31 then d.pageWrite m pTIL p 0x8C v else d)) s

/-- ACCDBG_READ_DONE (R145). -/
def execAccdbgReadDone (p : Nat) (s : State) : Host.Outcome State Fault Refusal :=
  runIf (tileOk p) (fun _ d => d.accdbgDone p) s

/-- VECTOR_OP_START (R159). -/
def execVectorOpStart (p ecc word : Nat) (s : State) : Host.Outcome State Fault Refusal :=
  runIf (tileOk p) (fun m d => d.vectorStart m p ecc word) s

/-- VECTOR_OP_COMPLETE (R159). -/
def execVectorOpComplete (p : Nat) (s : State) : Host.Outcome State Fault Refusal :=
  runIf (tileOk p) (fun _ d => d.vectorComplete p) s

/-- FENCE_P_TIMEOUT (R222). -/
def execFencePTimeout (p : Nat) (s : State) : Host.Outcome State Fault Refusal :=
  runIf (tileOk p) (fun _ d => d.fenceTimeout p) s

end Sys2Proof.Machine
end

