-- ==== Sys2Proof/Machine/CmdUnits.lean ====
section
/-! DEFINITION. Machine/CmdUnits.lean: what each command does. Units, faults and Felt (chapters 1, 2 and 16). -/

namespace Sys2Proof.Machine

/-- ENABLE (R43): a write of PG_CTRL with ENABLE alone. -/
def execEnable (cls inst v : Nat) (s : State) : Host.Outcome State Fault Refusal :=
  runIf (pageExists cls inst) (fun m d => d.host (fun d => if v % 8 = 1 then d.pageWrite m cls inst 0x08 v else d)) s

/-- DISABLE_REQ (R43, R45): a write of PG_CTRL that sets DISABLE_REQ or clears ENABLE. -/
def execDisableReq (cls inst v : Nat) (s : State) : Host.Outcome State Fault Refusal :=
  runIf (pageExists cls inst) (fun m d => 
    d.host (fun d => if !bit v 2 && (bit v 1 || !bit v 0) then d.pageWrite m cls inst 0x08 v else d)) s

/-- FORCE_STOP (R43): a write of PG_CTRL with FORCE_STOP. -/
def execForceStop (cls inst v : Nat) (s : State) : Host.Outcome State Fault Refusal :=
  runIf (pageExists cls inst) (fun m d => d.host (fun d => if bit v 2 then d.pageWrite m cls inst 0x08 v else d)) s

/-- DRAIN_COMPLETE (R43). -/
def execDrainComplete (cls inst : Nat) (s : State) : Host.Outcome State Fault Refusal :=
  runIf (pageExists cls inst) (fun m d => d.drainComplete m cls inst) s

/-- DRAIN_BOUND_EXPIRY (R428). -/
def execDrainBoundExpiry (cls inst : Nat) (s : State) : Host.Outcome State Fault Refusal :=
  runIf (pageExists cls inst) (fun m d => d.drainExpiry m cls inst) s

/-- UNIT_UCC (R423, R424): `sub` and the parameters are what the unit reports. -/
def execUnitUcc (cls inst : Nat) (parity : Bool) (sub p0 p1 p2 : Nat) (s : State) : Host.Outcome State Fault Refusal :=
  runIf (pageExists cls inst) (fun m d => d.unitUcc m cls inst parity sub p0 p1 p2) s

/-- DEVICE_UCF (R426). -/
def execDeviceUcf (cls inst cause p : Nat) (s : State) : Host.Outcome State Fault Refusal :=
  runIf (pageExists cls inst) (fun _ d => d.deviceUcf cls inst cause p) s

/-- FELT_FLIT_RECEIVE (R23, R24): the receiver of `node` takes a flit from `peer`, its 72 bytes and the parity bit of
each. -/
def execFeltFlitReceive (node peer : Nat) (bytes : List Nat) (parity : List Bool) (s : State) : Host.Outcome State Fault Refusal :=
  runIf (linkOk node peer) (fun _ d => d.flitReceive node peer (!flitGood bytes parity)) s

/-- FELT_REROUTE (R24, R25). -/
def execFeltReroute (a b : Nat) (s : State) : Host.Outcome State Fault Refusal :=
  runIf (linkOk a b) (fun _ d => d.feltReroute a b) s

end Sys2Proof.Machine
end

