-- ==== Sys2Proof/Machine/Dispatch.lean ====
section
/-! DEFINITION. Machine/Dispatch.lean: the meaning of each command. -/

namespace Sys2Proof.Machine

/-- The effect of a command on everything but the queue. -/
def exec (i : Instr) (s : State) : Host.Outcome State Fault Refusal :=
  match i with
  | .regWrite bar off be v => Sys2Proof.Machine.execRegWrite bar off be v s
  | .rcRead bar off be => Sys2Proof.Machine.execRcRead bar off be s
  | .pgSeqRead off => Sys2Proof.Machine.execPgSeqRead off s
  | .reservedAccess bar off write => Sys2Proof.Machine.execReservedAccess bar off write s
  | .enable cls inst v => Sys2Proof.Machine.execEnable cls inst v s
  | .disableReq cls inst v => Sys2Proof.Machine.execDisableReq cls inst v s
  | .forceStop cls inst v => Sys2Proof.Machine.execForceStop cls inst v s
  | .drainComplete cls inst => Sys2Proof.Machine.execDrainComplete cls inst s
  | .drainBoundExpiry cls inst => Sys2Proof.Machine.execDrainBoundExpiry cls inst s
  | .unitUcc cls inst parity sub p0 p1 p2 => Sys2Proof.Machine.execUnitUcc cls inst parity sub p0 p1 p2 s
  | .deviceUcf cls inst cause p => Sys2Proof.Machine.execDeviceUcf cls inst cause p s
  | .feltFlitReceive node peer bytes parity => Sys2Proof.Machine.execFeltFlitReceive node peer bytes parity s
  | .feltReroute a b => Sys2Proof.Machine.execFeltReroute a b s
  | .bundleIssue p ecc word => Sys2Proof.Machine.execBundleIssue p ecc word s
  | .stalledBundleIssue p ecc word => Sys2Proof.Machine.execStalledBundleIssue p ecc word s
  | .writeLands p => Sys2Proof.Machine.execWriteLands p s
  | .divideComplete p fp => Sys2Proof.Machine.execDivideComplete p fp s
  | .watchdog p => Sys2Proof.Machine.execWatchdog p s
  | .dmaComplete p tag => Sys2Proof.Machine.execDmaComplete p tag s
  | .dmaTimeout p tag => Sys2Proof.Machine.execDmaTimeout p tag s
  | .regionAccess p ecc word => Sys2Proof.Machine.execRegionAccess p ecc word s
  | .barArriveSend p b => Sys2Proof.Machine.execBarArriveSend p b s
  | .postCreditReturn p target => Sys2Proof.Machine.execPostCreditReturn p target s
  | .launchEntryFire => Sys2Proof.Machine.execLaunchEntryFire s
  | .start p v => Sys2Proof.Machine.execStart p v s
  | .stop p v => Sys2Proof.Machine.execStop p v s
  | .resume p v => Sys2Proof.Machine.execResume p v s
  | .mxOpStart p array ecc word => Sys2Proof.Machine.execMxOpStart p array ecc word s
  | .mxOpComplete p array errs => Sys2Proof.Machine.execMxOpComplete p array errs s
  | .accdbgGo p v => Sys2Proof.Machine.execAccdbgGo p v s
  | .accdbgReadDone p => Sys2Proof.Machine.execAccdbgReadDone p s
  | .vectorOpStart p ecc word => Sys2Proof.Machine.execVectorOpStart p ecc word s
  | .vectorOpComplete p => Sys2Proof.Machine.execVectorOpComplete p s
  | .slvLoad q => Sys2Proof.Machine.execSlvLoad q s
  | .slvLoadComplete e => Sys2Proof.Machine.execSlvLoadComplete e s
  | .deltaPacket e => Sys2Proof.Machine.execDeltaPacket e s
  | .deltaApply a => Sys2Proof.Machine.execDeltaApply a s
  | .solverLaunch => Sys2Proof.Machine.execSolverLaunch s
  | .cycleStart e => Sys2Proof.Machine.execCycleStart e s
  | .laneGroupComplete a => Sys2Proof.Machine.execLaneGroupComplete a s
  | .deadlineMark e => Sys2Proof.Machine.execDeadlineMark e s
  | .barArrival p b => Sys2Proof.Machine.execBarArrival p b s
  | .bartmoExpiry b => Sys2Proof.Machine.execBartmoExpiry b s
  | .barcfgWrite v => Sys2Proof.Machine.execBarcfgWrite v s
  | .barReset v => Sys2Proof.Machine.execBarReset v s
  | .arrive v => Sys2Proof.Machine.execArrive v s
  | .hostArrivalCount b => Sys2Proof.Machine.execHostArrivalCount b s
  | .cadenceMark => Sys2Proof.Machine.execCadenceMark s
  | .run v => Sys2Proof.Machine.execRun v s
  | .load v => Sys2Proof.Machine.execLoad v s
  | .periodWrite v => Sys2Proof.Machine.execPeriodWrite v s
  | .calSweep kind skew sensor failed => Sys2Proof.Machine.execCalSweep kind skew sensor failed s
  | .ccMeasure ps => Sys2Proof.Machine.execCcMeasure ps s
  | .stackRead k n ecc => Sys2Proof.Machine.execStackRead k n ecc s
  | .stackWrite k n ecc => Sys2Proof.Machine.execStackWrite k n ecc s
  | .atomicAdd k n ecc => Sys2Proof.Machine.execAtomicAdd k n ecc s
  | .rowWearMitigation k x => Sys2Proof.Machine.execRowWearMitigation k x s
  | .rowRepair k => Sys2Proof.Machine.execRowRepair k s
  | .refresh k x => Sys2Proof.Machine.execRefresh k x s
  | .patrolScrub k ecc => Sys2Proof.Machine.execPatrolScrub k ecc s
  | .demandScrub k ecc => Sys2Proof.Machine.execDemandScrub k ecc s
  | .docBehind hours => Sys2Proof.Machine.execDocBehind hours s
  | .operatingHourEnd => Sys2Proof.Machine.execOperatingHourEnd s
  | .stackNoAnswer k => Sys2Proof.Machine.execStackNoAnswer k s
  | .place q => Sys2Proof.Machine.execPlace q s
  | .release q => Sys2Proof.Machine.execRelease q s
  | .tileRemap => Sys2Proof.Machine.execTileRemap s
  | .remapped bad => Sys2Proof.Machine.execRemapped bad s
  | .solverRemap => Sys2Proof.Machine.execSolverRemap s
  | .stackMigration => Sys2Proof.Machine.execStackMigration s
  | .migrationCopy line ecc => Sys2Proof.Machine.execMigrationCopy line ecc s
  | .dklRedraw v => Sys2Proof.Machine.execDklRedraw v s
  | .redraw => Sys2Proof.Machine.execRedraw s
  | .stepOpenArrival p => Sys2Proof.Machine.execStepOpenArrival p s
  | .stepCommitArrival p => Sys2Proof.Machine.execStepCommitArrival p s
  | .committing => Sys2Proof.Machine.execCommitting s
  | .cmttmoExpiry => Sys2Proof.Machine.execCmttmoExpiry s
  | .spoil v => Sys2Proof.Machine.execSpoil v s
  | .ack v => Sys2Proof.Machine.execAck v s
  | .ledgerCopy => Sys2Proof.Machine.execLedgerCopy s
  | .lateContribution good => Sys2Proof.Machine.execLateContribution good s
  | .cqPush tile => Sys2Proof.Machine.execCqPush tile s
  | .cqPop tile => Sys2Proof.Machine.execCqPop tile s
  | .phase tile => Sys2Proof.Machine.execPhase tile s
  | .badPost tile => Sys2Proof.Machine.execBadPost tile s
  | .cqEnable v => Sys2Proof.Machine.execCqEnable v s
  | .cqData a => Sys2Proof.Machine.execCqData a s
  | .cqPushn e => Sys2Proof.Machine.execCqPushn e s
  | .cqPopn e => Sys2Proof.Machine.execCqPopn e s
  | .cqSlotAcknowledged q => Sys2Proof.Machine.execCqSlotAcknowledged q s
  | .portTraining p pass peerId peerPort peerSeq => Sys2Proof.Machine.execPortTraining p pass peerId peerPort peerSeq s
  | .retryIntervalExpiry p => Sys2Proof.Machine.execRetryIntervalExpiry p s
  | .retrain p v => Sys2Proof.Machine.execRetrain p v s
  | .trainEn p v => Sys2Proof.Machine.execTrainEn p v s
  | .dataFrame p f => Sys2Proof.Machine.execDataFrame p f s
  | .lcf p f => Sys2Proof.Machine.execLcf p f s
  | .fecUncorrectable p newWindow => Sys2Proof.Machine.execFecUncorrectable p newWindow s
  | .laneAlignmentLost p => Sys2Proof.Machine.execLaneAlignmentLost p s
  | .lltmoExpiry p => Sys2Proof.Machine.execLltmoExpiry p s
  | .frameTransmit p reserved => Sys2Proof.Machine.execFrameTransmit p reserved s
  | .chcfgEn e v => Sys2Proof.Machine.execChcfgEn e v s
  | .chOpenRetry e c => Sys2Proof.Machine.execChOpenRetry e c s
  | .opentmoExpiry e c => Sys2Proof.Machine.execOpentmoExpiry e c s
  | .closingExpiry e c late => Sys2Proof.Machine.execClosingExpiry e c late s
  | .chOpen e => Sys2Proof.Machine.execChOpen e s
  | .chOpenack e => Sys2Proof.Machine.execChOpenack e s
  | .chClose e => Sys2Proof.Machine.execChClose e s
  | .write e => Sys2Proof.Machine.execWrite e s
  | .addPacket e => Sys2Proof.Machine.execAddPacket e s
  | .ackPacket e => Sys2Proof.Machine.execAckPacket e s
  | .refuse e => Sys2Proof.Machine.execRefuse e s
  | .stopPacket e => Sys2Proof.Machine.execStopPacket e s
  | .resumePacket e => Sys2Proof.Machine.execResumePacket e s
  | .ackTimer e c => Sys2Proof.Machine.execAckTimer e c s
  | .chrtoExpiry e c => Sys2Proof.Machine.execChrtoExpiry e c s
  | .mirroredWrite p tag => Sys2Proof.Machine.execMirroredWrite p tag s
  | .chflush e v => Sys2Proof.Machine.execChflush e v s
  | .slice e vl egress => Sys2Proof.Machine.execSlice e vl egress s
  | .ready tile => Sys2Proof.Machine.execReady tile s
  | .abort tile => Sys2Proof.Machine.execAbort tile s
  | .colLaunch q => Sys2Proof.Machine.execColLaunch q s
  | .colBegin e => Sys2Proof.Machine.execColBegin e s
  | .colData e => Sys2Proof.Machine.execColData e s
  | .colEnd e => Sys2Proof.Machine.execColEnd e s
  | .colVote e => Sys2Proof.Machine.execColVote e s
  | .colDecide e => Sys2Proof.Machine.execColDecide e s
  | .colAbort e => Sys2Proof.Machine.execColAbort e s
  | .colExcl e => Sys2Proof.Machine.execColExcl e s
  | .colGrant e => Sys2Proof.Machine.execColGrant e s
  | .softDeadline k => Sys2Proof.Machine.execSoftDeadline k s
  | .colTmoExpiry k => Sys2Proof.Machine.execColTmoExpiry k s
  | .hostabort v => Sys2Proof.Machine.execHostabort v s
  | .flr kind => Sys2Proof.Machine.execFlr kind s
  | .perst => Sys2Proof.Machine.execPerst s
  | .configRequest kind off v => Sys2Proof.Machine.execConfigRequest kind off v s
  | .bar4Read o n ecc => Sys2Proof.Machine.execBar4Read o n ecc s
  | .bar4Write o bs ecc => Sys2Proof.Machine.execBar4Write o bs ecc s
  | .winWriteDiscard o n => Sys2Proof.Machine.execWinWriteDiscard o n s
  | .sqTailDoorbell q v => Sys2Proof.Machine.execSqTailDoorbell q v s
  | .cqHeadDoorbell q v => Sys2Proof.Machine.execCqHeadDoorbell q v s
  | .hostEventDoorbell t v => Sys2Proof.Machine.execHostEventDoorbell t v s
  | .commandFetch q bytes bad => Sys2Proof.Machine.execCommandFetch q bytes bad s
  | .nopCommand q => Sys2Proof.Machine.execNopCommand q s
  | .progLoad q => Sys2Proof.Machine.execProgLoad q s
  | .tileStart q => Sys2Proof.Machine.execTileStart q s
  | .tileStop q => Sys2Proof.Machine.execTileStop q s
  | .completionWrite q => Sys2Proof.Machine.execCompletionWrite q s
  | .msixSignal q => Sys2Proof.Machine.execMsixSignal q s
  | .ringEnable completion v => Sys2Proof.Machine.execRingEnable completion v s
  | .stopchan v => Sys2Proof.Machine.execStopchan v s
  | .resumechan v => Sys2Proof.Machine.execResumechan v s
  | .stoppeer v => Sys2Proof.Machine.execStoppeer v s
  | .resumepeer v => Sys2Proof.Machine.execResumepeer v s
  | .sqstop high v => Sys2Proof.Machine.execSqstop high v s
  | .sqgo high v => Sys2Proof.Machine.execSqgo high v s
  | .colabort v => Sys2Proof.Machine.execColabort v s
  | .urgSpoil v => Sys2Proof.Machine.execUrgSpoil v s
  | .powerOn e => Sys2Proof.Machine.execPowerOn e s
  | .computeReset e => Sys2Proof.Machine.execComputeReset e s
  | .eventRecord failing => Sys2Proof.Machine.execEventRecord failing s
  | .tokenRefill => Sys2Proof.Machine.execTokenRefill s
  | .timedFlush failing => Sys2Proof.Machine.execTimedFlush failing s
  | .flush v failing => Sys2Proof.Machine.execFlush v failing s
  | .recordsLost failing => Sys2Proof.Machine.execRecordsLost failing s
  | .dumpgo v => Sys2Proof.Machine.execDumpgo v s
  | .powerFail cause mv => Sys2Proof.Machine.execPowerFail cause mv s
  | .inputOvervoltage mv => Sys2Proof.Machine.execInputOvervoltage mv s
  | .thmSample vs => Sys2Proof.Machine.execThmSample vs s
  | .hardwareTrip sensor v => Sys2Proof.Machine.execHardwareTrip sensor v s
  | .thmSnapshot => Sys2Proof.Machine.execThmSnapshot s
  | .errorSignal => Sys2Proof.Machine.execErrorSignal s
  | .lcTransition v => Sys2Proof.Machine.execLcTransition v s
  | .fieldDebug v => Sys2Proof.Machine.execFieldDebug v s
  | .ownerKey v => Sys2Proof.Machine.execOwnerKey v s
  | .attest v => Sys2Proof.Machine.execAttest v s
  | .certExport v => Sys2Proof.Machine.execCertExport v s
  | .fwStage v => Sys2Proof.Machine.execFwStage v s
  | .svnCommit v => Sys2Proof.Machine.execSvnCommit v s
  | .clearFieldmap v => Sys2Proof.Machine.execClearFieldmap v s
  | .install v => Sys2Proof.Machine.execInstall v s
  | .remove v => Sys2Proof.Machine.execRemove v s
  | .admissionInterval => Sys2Proof.Machine.execAdmissionInterval s
  | .unitIdle kind n => Sys2Proof.Machine.execUnitIdle kind n s
  | .capWindow mean => Sys2Proof.Machine.execCapWindow mean s
  | .dutyHold begins => Sys2Proof.Machine.execDutyHold begins s
  | .capWrite vset v => Sys2Proof.Machine.execCapWrite vset v s
  | .smbusBlockRead code => Sys2Proof.Machine.execSmbusBlockRead code s
  | .dramDieLost k => Sys2Proof.Machine.execDramDieLost k s
  | .fencePTimeout p => Sys2Proof.Machine.execFencePTimeout p s
  | .pcieLinkUp rate width flit => Sys2Proof.Machine.execPcieLinkUp rate width flit s

end Sys2Proof.Machine
end

