-- ==== Sys2Proof/WellFormed.lean ====
section
/-! DEFINITION. WellFormed.lean: the operands that a command can carry: units and registers that the part has, words of
32 bits, bytes, and what a test or a sensor can report. -/

namespace Sys2Proof

open Sys2Proof.Machine

/-- A 32-bit word. -/
def word32 (v : Nat) : Bool := decide (v < 2 ^ 32)

/-- Bytes. -/
def bytesOk (l : List Nat) : Bool := l.all (fun b => decide (b < 256))

/-- What a code meets: nothing, a corrected error, an uncorrectable one. -/
def eccOk (e : Nat) : Bool := decide (e < 3)

/-- An error pattern of a line: symbols and copies of the poison bit, each once and each differing by a nonzero byte. -/
def Ecc.ok (e : Ecc) : Bool :=
  e.errs.all (fun x => decide (x.1 < 75) && decide (0 < x.2) && decide (x.2 < 256))
    && (e.errs.map (fun x => x.1)).eraseDups == e.errs.map (fun x => x.1)

/-- Units of the known-answer test, each once. -/
def katOk (l : List KatFail) : Bool := l.all (fun f => computeIndexes.contains f.index)

/-- An event of Table 15-1 with findings it can have. -/
def PowerEvent.ok (e : PowerEvent) : Bool :=
  match e with
  | .regulated mv slot => word32 mv && decide (slot < 64)
  | .headbox links failed => links.all (fun i => decide (i < 10)) && failed.all (fun x => pageExists x.1 x.2)
  | .memTest tests => tests.all (fun t => stkOk t.stack && t.repairs.all rowOk && t.rows.all (fun r => rowOk r.1 && decide (r.2 < 3)))
  | .computeUp fails => katOk fails
  | .fuses | .firmware | .pageLive | .ports | .ready => true

/-- A part of Table 15-6 with findings it can have. -/
def ResetEvent.ok (e : ResetEvent) : Bool :=
  match e with
  | .test fails => katOk fails
  | .start | .finish => true

/-- The command is one that the part can be given. -/
def Instr.wf (i : Instr) : Bool :=
  match i with
  | .regWrite bar off be v => regAt bar off && enablesOk off be && (word32 v || (decide (16 ≤ be) && decide (v < 2 ^ 64)))
  | .rcRead bar off be => regAt bar off && enablesOk off be
  | .pgSeqRead off => regAt 0 off
  | .reservedAccess bar off _ => regAt bar off
  | .enable cls inst v => pageExists cls inst && word32 v
  | .disableReq cls inst v => pageExists cls inst && word32 v
  | .forceStop cls inst v => pageExists cls inst && word32 v
  | .drainComplete cls inst => pageExists cls inst
  | .drainBoundExpiry cls inst => pageExists cls inst
  | .unitUcc cls inst _ sub p0 p1 p2 => pageExists cls inst && decide (sub < 2 ^ 16) && word32 p0 && word32 p1 && word32 p2
  | .deviceUcf cls inst cause p => pageExists cls inst && word32 cause && word32 p
  | .feltFlitReceive node peer bytes parity => linkOk node peer && bytesOk bytes && bytes.length == 72 && parity.length == 72
  | .feltReroute a b => linkOk a b
  | .bundleIssue p ecc _ => tileOk p && decide (ecc < 5)
  | .stalledBundleIssue p ecc _ => tileOk p && decide (ecc < 5)
  | .writeLands p => tileOk p
  | .divideComplete p _ => tileOk p
  | .watchdog p => tileOk p
  | .dmaComplete p tag => tileOk p && decide (tag < 32)
  | .dmaTimeout p tag => tileOk p && decide (tag < 32)
  | .regionAccess p ecc _ => tileOk p && eccOk ecc
  | .barArriveSend p b => tileOk p && barOk b
  | .postCreditReturn p target => tileOk p && decide (target < 4)
  | .launchEntryFire => true
  | .start p v => tileOk p && word32 v
  | .stop p v => tileOk p && word32 v
  | .resume p v => tileOk p && word32 v
  | .mxOpStart p _ ecc _ => tileOk p && eccOk ecc
  | .mxOpComplete p _ _ => tileOk p
  | .accdbgGo p v => tileOk p && word32 v
  | .accdbgReadDone p => tileOk p
  | .vectorOpStart p ecc _ => tileOk p && eccOk ecc
  | .vectorOpComplete p => tileOk p
  | .slvLoad q => ringOk q
  | .slvLoadComplete e => slvOk e
  | .deltaPacket e => slvOk e
  | .deltaApply a => slvOk a.engine
  | .solverLaunch => true
  | .cycleStart e => slvOk e
  | .laneGroupComplete a => slvOk a.engine
  | .deadlineMark e => slvOk e
  | .barArrival p b => tileOk p && barOk b
  | .bartmoExpiry b => barOk b
  | .barcfgWrite v => word32 v
  | .barReset v => word32 v
  | .arrive v => word32 v
  | .hostArrivalCount b => barOk b
  | .cadenceMark => true
  | .run v => word32 v
  | .load v => word32 v
  | .periodWrite v => word32 v
  | .calSweep kind _ _ _ => decide (1 ≤ kind) && decide (kind ≤ 2)
  | .ccMeasure ps => ps.length == 5
  | .stackRead k _ ecc => stkOk k && rowOk ecc.row && ecc.ok
  | .stackWrite k _ ecc => stkOk k && rowOk ecc.row && ecc.ok
  | .atomicAdd k _ ecc => stkOk k && rowOk ecc.row && ecc.ok
  | .rowWearMitigation k x => stkOk k && rowOk x.row
  | .rowRepair k => stkOk k
  | .refresh k x => stkOk k && rowOk x.ecc.row && decide (x.line < stackLines) && x.ecc.ok
  | .patrolScrub k ecc => stkOk k && rowOk ecc.row && ecc.ok
  | .demandScrub k ecc => stkOk k && rowOk ecc.row && ecc.ok
  | .docBehind _ => true
  | .operatingHourEnd => true
  | .stackNoAnswer k => stkOk k
  | .place q => ringOk q
  | .release q => ringOk q
  | .tileRemap => true
  | .remapped _ => true
  | .solverRemap => true
  | .stackMigration => true
  | .migrationCopy _ ecc => rowOk ecc.row && ecc.ok
  | .dklRedraw v => word32 v
  | .redraw => true
  | .stepOpenArrival p => tileOk p
  | .stepCommitArrival p => tileOk p
  | .committing => true
  | .cmttmoExpiry => true
  | .spoil v => word32 v
  | .ack v => word32 v
  | .ledgerCopy => true
  | .lateContribution _ => true
  | .cqPush tile => tileOk tile
  | .cqPop tile => tileOk tile
  | .phase tile => tileOk tile
  | .badPost tile => tileOk tile
  | .cqEnable v => word32 v
  | .cqData a => bzeOk a.engine
  | .cqPushn e => bzeOk e
  | .cqPopn e => bzeOk e
  | .cqSlotAcknowledged q => ringOk q
  | .portTraining p pass _ _ _ => portOk p && decide (pass < 16)
  | .retryIntervalExpiry p => portOk p
  | .retrain p v => portOk p && word32 v
  | .trainEn p v => portOk p && word32 v
  | .dataFrame p f => portOk p && bytesOk f.bytes
  | .lcf p f => portOk p && bytesOk f.bytes
  | .fecUncorrectable p _ => portOk p
  | .laneAlignmentLost p => portOk p
  | .lltmoExpiry p => portOk p
  | .frameTransmit p _ => portOk p
  | .chcfgEn e v => bzeOk e && word32 v
  | .chOpenRetry e c => bzeOk e && chanOk c
  | .opentmoExpiry e c => bzeOk e && chanOk c
  | .closingExpiry e c _ => bzeOk e && chanOk c
  | .chOpen e => bzeOk e
  | .chOpenack e => bzeOk e
  | .chClose e => bzeOk e
  | .write e => bzeOk e
  | .addPacket e => bzeOk e
  | .ackPacket e => bzeOk e
  | .refuse e => bzeOk e
  | .stopPacket e => bzeOk e
  | .resumePacket e => bzeOk e
  | .ackTimer e c => bzeOk e && chanOk c
  | .chrtoExpiry e c => bzeOk e && chanOk c
  | .mirroredWrite p tag => tileOk p && decide (tag < 32)
  | .chflush e v => bzeOk e && word32 v
  | .slice e vl egress => bzeOk e && decide (vl < 4) && decide (egress < 19)
  | .ready tile => tileOk tile
  | .abort tile => tileOk tile
  | .colLaunch q => ringOk q
  | .colBegin e => bzeOk e
  | .colData e => bzeOk e
  | .colEnd e => bzeOk e
  | .colVote e => bzeOk e
  | .colDecide e => bzeOk e
  | .colAbort e => bzeOk e
  | .colExcl e => bzeOk e
  | .colGrant e => bzeOk e
  | .softDeadline k => decide (k < 1025)
  | .colTmoExpiry k => decide (k < 1025)
  | .hostabort v => word32 v
  | .flr kind => decide (kind < 3)
  | .perst => true
  | .configRequest kind off v => decide (kind < 3) && decide (off < 4096) && word32 v
  | .bar4Read _ n ecc => rowOk ecc.row && ecc.ok && decide (0 < n)
  | .bar4Write _ bs ecc => rowOk ecc.row && bytesOk bs && ecc.ok && decide (0 < bs.length)
  | .winWriteDiscard _ n => decide (0 < n)
  | .sqTailDoorbell q v => ringOk q && word32 v
  | .cqHeadDoorbell q v => ringOk q && word32 v
  | .hostEventDoorbell t v => bellOk t && word32 v
  | .commandFetch q bytes _ => ringOk q && bytesOk bytes && bytes.length == 64
  | .nopCommand q => ringOk q
  | .progLoad q => ringOk q
  | .tileStart q => ringOk q
  | .tileStop q => ringOk q
  | .completionWrite q => ringOk q
  | .msixSignal q => ringOk q
  | .ringEnable _ v => word32 v
  | .stopchan v => word32 v
  | .resumechan v => word32 v
  | .stoppeer v => word32 v
  | .resumepeer v => word32 v
  | .sqstop _ v => word32 v
  | .sqgo _ v => word32 v
  | .colabort v => word32 v
  | .urgSpoil v => word32 v
  | .powerOn e => e.ok
  | .computeReset e => e.ok
  | .eventRecord _ => true
  | .tokenRefill => true
  | .timedFlush _ => true
  | .flush v _ => word32 v
  | .recordsLost _ => true
  | .dumpgo v => word32 v
  | .powerFail cause _ => decide (cause < 3)
  | .inputOvervoltage _ => true
  | .thmSample _ => true
  | .hardwareTrip sensor _ => decide (sensor < 0x14)
  | .thmSnapshot => true
  | .errorSignal => true
  | .lcTransition v => word32 v
  | .fieldDebug v => word32 v
  | .ownerKey v => word32 v
  | .attest v => word32 v
  | .certExport v => word32 v
  | .fwStage v => word32 v
  | .svnCommit v => word32 v
  | .clearFieldmap v => word32 v
  | .install v => word32 v
  | .remove v => word32 v
  | .admissionInterval => true
  | .unitIdle kind _ => decide (kind < 3)
  | .capWindow _ => true
  | .dutyHold _ => true
  | .capWrite _ v => word32 v
  | .smbusBlockRead code => decide (code < 256)
  | .dramDieLost k => stkOk k
  | .fencePTimeout p => tileOk p
  | .pcieLinkUp rate width _ => decide (1 ≤ rate) && decide (rate ≤ 6) && [1, 2, 4, 8, 16].contains width

/-- The command is well formed. -/
abbrev Instr.WellFormed (i : Instr) : Prop := i.wf = true

end Sys2Proof
end

