-- ==== Sys2Proof/Safety.lean ====
section
/-! DEFINITION. Safety.lean: what claims mean by a sound state, a safe step, a command that completes, and the parts of
the device that a command leaves alone. -/

namespace Sys2Proof.Machine

/-- The stacks' bytes are in canonical form, and nothing waits in the outbox. -/
def State.MemOk (s : State) : Prop := Memory.wf s.mem = true ∧ s.dev.wout = []

/-- A command waits whose operands the part can take. -/
def State.QueueOk (s : State) : Prop := ∀ c ∈ s.pending, c.WellFormed

/-- The step answers a next state. -/
def Safe (s : State) : Prop := ∃ t, step s = .next t

/-- The command answers a next state, of which `P` holds. -/
def Answers (c : Instr) (s : State) (P : State → Prop) : Prop := ∃ t, exec c s = .next t ∧ P t

/-- The parts of the device: the fields of `Dev`. -/
inductive Part where
  | phase | variant | bootEvent | regs | units | evr | sensors | links | tiles | posts
  | stks | linePoison | deckle | solvers | launches | deltasSent | syn | cad | stp | brezin
  | col | hbx | pci | sec | pwr | hours | wout | free
  deriving DecidableEq, Repr

/-- Two devices agree in one part. -/
def Part.same (d e : Dev) : Part → Prop
  | .phase => e.phase = d.phase
  | .variant => e.variant = d.variant
  | .bootEvent => e.bootEvent = d.bootEvent
  | .regs => e.regs = d.regs
  | .units => e.units = d.units
  | .evr => e.evr = d.evr
  | .sensors => e.sensors = d.sensors
  | .links => e.links = d.links
  | .tiles => e.tiles = d.tiles
  | .posts => e.posts = d.posts
  | .stks => e.stks = d.stks
  | .linePoison => e.linePoison = d.linePoison
  | .deckle => e.deckle = d.deckle
  | .solvers => e.solvers = d.solvers
  | .launches => e.launches = d.launches
  | .deltasSent => e.deltasSent = d.deltasSent
  | .syn => e.syn = d.syn
  | .cad => e.cad = d.cad
  | .stp => e.stp = d.stp
  | .brezin => e.brezin = d.brezin
  | .col => e.col = d.col
  | .hbx => e.hbx = d.hbx
  | .pci => e.pci = d.pci
  | .sec => e.sec = d.sec
  | .pwr => e.pwr = d.pwr
  | .hours => e.hours = d.hours
  | .wout => e.wout = d.wout
  | .free => e.free = d.free

/-- From `d` to `e` no part changes but those listed. -/
def Dev.OnlyChanges (d e : Dev) (l : List Part) : Prop := ∀ p, p ∉ l → Part.same d e p

/-- The frame of a command that stores nothing in the stacks: where it answers a next state, no part of the device
changes but those listed, no byte of the stacks changes, and the queue is as it was. -/
def Frame (c : Instr) (s : State) (l : List Part) : Prop :=
  ∀ t, exec c s = .next t → s.dev.OnlyChanges t.dev l ∧ t.mem = s.mem ∧ t.pending = s.pending

/-- The frame of a command that may store: `out` is the outbox of what the command does to the device, and every byte that
the outbox does not list keeps its value. -/
def FrameStoring (c : Instr) (s : State) (out : SMap Byte) (l : List Part) : Prop :=
  ∀ t, exec c s = .next t → s.dev.OnlyChanges t.dev l ∧ t.pending = s.pending
    ∧ ∀ a, SMap.find a out = none → Memory.read t.mem a = Memory.read s.mem a

/-- Only tile `p` changes: no other tile, no other part of the device, no byte of the stacks and not the queue. -/
def State.OnlyTile (s t : State) (p : Nat) : Prop :=
  (∀ q, q ≠ p → t.dev.tile q = s.dev.tile q) ∧ s.dev.OnlyChanges t.dev [.tiles] ∧ t.mem = s.mem ∧ t.pending = s.pending

/-- The device changes in the listed parts alone; no byte of the stacks and not the queue. -/
def State.OnlyParts (s t : State) (l : List Part) : Prop :=
  s.dev.OnlyChanges t.dev l ∧ t.mem = s.mem ∧ t.pending = s.pending

/-- The command `c` of opcode `op` is at the front of submission ring `q`, before `rest`, and may start. -/
def Dev.Front (d : Dev) (q op : Nat) (c : HostCmd) (rest : List HostCmd) : Prop :=
  (d.sq q).fetched = c :: rest ∧ c.sq = q ∧ c.op = op ∧ d.mayStart q c = true ∧ d.cmdRefusal c = none

/-- From `d` to `e` the command `c` of ring `q` has left the commands that have started: the completion has its status,
P0 and P1 and waits for its CQ, unless the command is QUIET and the status OK; a status other than OK counts in
HBX.BADCMD. -/
def Dev.Posts (d e : Dev) (q : Nat) (c : HostCmd) (status p0 p1 : Nat) : Prop :=
  let k := d.fget hbxSqcfgCq q
  e.fget hbxBadcmdCount 0 = (if status = 0 then d.fget hbxBadcmdCount 0 else satAdd (2 ^ 32 - 1) (d.fget hbxBadcmdCount 0) 1)
  ∧ (c.quiet = true → status = 0 → e.hbx.cq = d.hbx.cq)
  ∧ (c.quiet = false ∨ status ≠ 0 → d.fget hbxCqcfgEn k = 1 →
      (e.cq k).waiting = (d.cq k).waiting ++ [⟨c.cid, q, 0, status, p0, p1, 0⟩] ∧ ∀ j, j ≠ k → e.cq j = d.cq j)

/-- The command at the front of ring `q` has started and completed at once. -/
def Dev.Completes (d e : Dev) (q : Nat) (c : HostCmd) (rest : List HostCmd) (status p0 p1 : Nat) : Prop :=
  (e.sq q).fetched = rest ∧ (e.sq q).started.Perm (d.sq q).started ∧ (e.sq q).head = (d.sq q).head
  ∧ (e.sq q).tail = (d.sq q).tail ∧ (∀ r, r ≠ q → e.sq r = d.sq r) ∧ d.Posts e q c status p0 p1

end Sys2Proof.Machine

/-- The command is an access of the host to BAR 0, BAR 2 or BAR 4. -/
def Sys2Proof.Instr.byHost (c : Sys2Proof.Instr) : Bool :=
  match c with
  | .lcTransition .. | .fieldDebug .. | .ownerKey .. | .attest .. | .certExport .. | .fwStage .. | .svnCommit ..
  | .clearFieldmap .. | .install .. | .remove .. | .retrain .. | .trainEn .. | .chcfgEn .. | .chflush ..
  | .barcfgWrite .. | .barReset .. | .arrive .. | .run .. | .load .. | .periodWrite ..
  | .enable .. | .disableReq .. | .forceStop .. | .start .. | .stop .. | .resume .. | .accdbgGo .. | .regWrite ..
  | .rcRead .. | .pgSeqRead .. | .reservedAccess .. | .capWrite .. | .bar4Read .. | .bar4Write ..
  | .winWriteDiscard .. | .sqTailDoorbell .. | .cqHeadDoorbell .. | .hostEventDoorbell .. | .ringEnable ..
  | .stopchan .. | .resumechan .. | .stoppeer .. | .resumepeer .. | .sqstop .. | .sqgo .. | .colabort ..
  | .urgSpoil .. | .spoil .. | .ack .. | .cqEnable .. | .flush .. | .dumpgo .. | .hostabort .. | .dklRedraw .. => true
  | _ => false

/-- The parts of the device that a command may change. -/
def Sys2Proof.Instr.touches (c : Sys2Proof.Instr) : List Sys2Proof.Machine.Part :=
  match c with
  | .regWrite .. | .enable .. | .disableReq .. | .forceStop .. | .start .. | .stop .. | .resume ..
  | .accdbgGo .. | .barcfgWrite .. | .barReset .. | .arrive .. | .run .. | .load .. | .periodWrite ..
  | .dklRedraw .. | .spoil .. | .ack .. | .cqEnable .. | .retrain .. | .trainEn .. | .chcfgEn .. | .chflush ..
  | .hostabort .. | .ringEnable .. | .dumpgo .. | .lcTransition .. | .fieldDebug .. | .ownerKey .. | .attest ..
  | .certExport .. | .fwStage .. | .svnCommit .. | .clearFieldmap .. | .install .. | .remove .. | .capWrite .. =>
    [.phase, .bootEvent, .regs, .units, .evr, .tiles, .posts, .stks, .linePoison, .deckle, .solvers, .launches,
     .deltasSent, .syn, .cad, .stp, .brezin, .col, .hbx, .pci, .sec, .pwr, .wout, .free]
  | .rcRead .. =>
    [.regs, .units, .evr, .cad, .pci]
  | .pgSeqRead .. =>
    [.units, .evr, .cad, .pci]
  | .reservedAccess .. =>
    [.regs, .evr, .pci]
  | .drainComplete .. | .tileRemap .. | .stepOpenArrival .. | .stepCommitArrival .. | .committing ..
  | .cmttmoExpiry .. | .ledgerCopy .. | .cqData .. | .cqPushn .. | .cqPopn .. | .cqSlotAcknowledged ..
  | .opentmoExpiry .. | .closingExpiry .. | .chOpen .. | .chOpenack .. | .chClose .. | .write ..
  | .addPacket .. | .ackPacket .. | .refuse .. | .chrtoExpiry .. | .colLaunch .. | .colBegin .. | .colData ..
  | .colEnd .. | .colVote .. | .colDecide .. | .colAbort .. | .colExcl .. | .colGrant .. | .softDeadline ..
  | .colTmoExpiry .. | .colabort .. | .urgSpoil .. =>
    [.phase, .regs, .units, .evr, .tiles, .stks, .linePoison, .deckle, .syn, .stp, .brezin, .col, .hbx, .pci, .sec,
     .wout, .free]
  | .drainBoundExpiry .. =>
    [.phase, .regs, .units, .evr, .tiles, .stks, .linePoison, .deckle, .solvers, .deltasSent, .syn, .stp, .brezin,
     .col, .hbx, .pci, .sec, .wout, .free]
  | .unitUcc .. | .watchdog .. | .regionAccess .. | .mxOpStart .. | .vectorOpStart .. =>
    [.phase, .regs, .units, .evr, .tiles, .stks, .linePoison, .deckle, .solvers, .deltasSent, .syn, .stp, .brezin,
     .col, .hbx, .pci, .sec, .pwr, .wout, .free]
  | .deviceUcf .. =>
    [.phase, .regs, .units, .evr, .tiles, .posts, .stks, .solvers, .launches, .deltasSent, .syn, .stp, .hbx, .pci,
     .pwr]
  | .feltFlitReceive .. =>
    [.regs, .units, .evr, .links, .pci]
  | .feltReroute .. =>
    [.phase, .regs, .evr, .links, .deckle]
  | .bundleIssue .. | .stalledBundleIssue .. =>
    [.phase, .regs, .units, .evr, .tiles, .posts, .stks, .linePoison, .deckle, .solvers, .launches, .deltasSent,
     .syn, .stp, .brezin, .col, .hbx, .pci, .sec, .pwr, .wout, .free]
  | .writeLands .. | .divideComplete .. | .dmaComplete .. | .postCreditReturn .. | .fencePTimeout .. =>
    [.tiles]
  | .dmaTimeout .. =>
    [.tiles, .stks, .deltasSent]
  | .barArriveSend .. =>
    [.tiles, .syn]
  | .launchEntryFire .. | .admissionInterval .. =>
    [.regs, .tiles, .launches, .pwr]
  | .mxOpComplete .. | .vectorOpComplete .. =>
    [.regs, .units, .evr, .tiles, .pci, .free]
  | .accdbgReadDone .. =>
    [.regs, .tiles]
  | .slvLoad .. =>
    [.regs, .evr, .solvers, .hbx]
  | .slvLoadComplete .. | .solverRemap .. =>
    [.phase, .regs, .units, .evr, .stks, .linePoison, .deckle, .solvers, .hbx, .pci, .sec]
  | .deltaPacket .. =>
    [.tiles, .solvers, .deltasSent]
  | .deltaApply .. | .cycleStart .. =>
    [.phase, .regs, .units, .evr, .stks, .linePoison, .deckle, .solvers, .pci, .sec, .wout]
  | .solverLaunch .. =>
    [.phase, .regs, .units, .evr, .tiles, .stks, .linePoison, .deckle, .solvers, .launches, .pci, .sec, .wout]
  | .laneGroupComplete .. | .deadlineMark .. =>
    [.phase, .regs, .units, .evr, .tiles, .stks, .linePoison, .deckle, .solvers, .pci, .sec, .wout, .free]
  | .barArrival .. | .hostArrivalCount .. =>
    [.tiles, .deckle, .syn, .stp]
  | .bartmoExpiry .. =>
    [.evr, .tiles, .deckle, .syn, .stp]
  | .cadenceMark .. =>
    [.regs, .tiles, .launches, .cad, .pwr]
  | .calSweep .. =>
    [.regs, .units, .evr, .pci]
  | .ccMeasure .. | .pcieLinkUp .. =>
    [.regs]
  | .stackRead .. =>
    [.phase, .regs, .units, .evr, .tiles, .stks, .linePoison, .deckle, .pci, .sec]
  | .stackWrite .. | .atomicAdd .. =>
    [.phase, .regs, .units, .evr, .tiles, .stks, .linePoison, .deckle, .pci, .sec, .wout]
  | .rowWearMitigation .. =>
    [.regs, .stks]
  | .rowRepair .. | .patrolScrub .. | .demandScrub .. | .bar4Write .. | .flush .. | .thmSnapshot .. =>
    [.phase, .regs, .units, .evr, .stks, .linePoison, .deckle, .pci, .sec, .wout]
  | .refresh .. =>
    [.stks, .linePoison]
  | .docBehind .. | .winWriteDiscard .. | .tokenRefill .. | .timedFlush .. =>
    [.regs, .evr]
  | .operatingHourEnd .. =>
    [.phase, .regs, .evr, .stks, .deckle, .hours]
  | .stackNoAnswer .. =>
    [.phase, .regs, .units, .evr, .tiles, .stks, .linePoison, .deckle, .pci, .sec, .wout, .free]
  | .place .. =>
    [.phase, .regs, .units, .evr, .tiles, .stks, .linePoison, .deckle, .hbx, .pci, .sec, .free]
  | .release .. =>
    [.regs, .evr, .tiles, .deckle, .syn, .stp, .hbx]
  | .remapped .. | .progLoad .. =>
    [.phase, .regs, .units, .evr, .tiles, .stks, .linePoison, .deckle, .hbx, .pci, .sec]
  | .stackMigration .. =>
    [.regs, .evr, .deckle, .hbx, .free]
  | .migrationCopy .. =>
    [.phase, .regs, .units, .evr, .stks, .linePoison, .deckle, .hbx, .pci, .sec, .wout, .free]
  | .redraw .. =>
    [.regs, .evr, .tiles, .deckle, .syn, .stp, .hbx, .free]
  | .lateContribution .. =>
    [.phase, .regs, .units, .evr, .stks, .linePoison, .deckle, .stp, .pci, .sec, .wout]
  | .cqPush .. | .cqPop .. | .phase .. | .badPost .. | .ready .. | .abort .. =>
    [.phase, .regs, .units, .evr, .tiles, .posts, .stks, .linePoison, .deckle, .syn, .stp, .brezin, .col, .hbx, .pci,
     .sec, .wout, .free]
  | .portTraining .. | .retryIntervalExpiry .. | .fecUncorrectable .. | .laneAlignmentLost .. =>
    [.regs, .evr, .deckle, .brezin]
  | .dataFrame .. =>
    [.regs, .evr, .brezin]
  | .lcf .. =>
    [.regs, .brezin]
  | .lltmoExpiry .. | .stopPacket .. | .resumePacket .. =>
    [.brezin]
  | .frameTransmit .. =>
    [.regs, .units, .evr, .deckle, .brezin, .pci]
  | .chOpenRetry .. | .ackTimer .. | .slice .. =>
    [.regs, .evr, .brezin, .free]
  | .mirroredWrite .. =>
    [.tiles, .brezin]
  | .flr .. =>
    [.phase, .bootEvent, .regs, .units, .evr, .tiles, .posts, .stks, .linePoison, .deckle, .solvers, .launches,
     .deltasSent, .syn, .stp, .brezin, .col, .hbx, .pci, .sec, .pwr, .wout, .free]
  | .perst .. =>
    [.regs, .pci]
  | .configRequest .. =>
    [.pci, .free]
  | .bar4Read .. =>
    [.phase, .regs, .units, .evr, .stks, .linePoison, .deckle, .pci, .sec, .free]
  | .sqTailDoorbell .. | .cqHeadDoorbell .. =>
    [.regs, .hbx, .pci]
  | .hostEventDoorbell .. =>
    [.tiles, .pci]
  | .commandFetch .. | .nopCommand .. =>
    [.regs, .evr, .hbx]
  | .tileStart .. =>
    [.regs, .evr, .tiles, .hbx]
  | .tileStop .. =>
    [.phase, .regs, .units, .evr, .tiles, .stks, .linePoison, .deckle, .syn, .stp, .brezin, .col, .hbx, .pci, .sec,
     .pwr, .wout, .free]
  | .completionWrite .. | .msixSignal .. | .sqstop .. | .sqgo .. =>
    [.hbx, .pci]
  | .stopchan .. | .resumechan .. =>
    [.brezin, .pci]
  | .stoppeer .. | .resumepeer .. =>
    [.regs, .evr, .brezin, .pci, .free]
  | .powerOn .. | .powerFail .. | .inputOvervoltage .. =>
    [.phase, .variant, .bootEvent, .regs, .units, .evr, .sensors, .links, .tiles, .posts, .stks, .linePoison,
     .deckle, .solvers, .launches, .deltasSent, .syn, .cad, .stp, .brezin, .col, .hbx, .pci, .sec, .pwr, .hours,
     .wout, .free]
  | .computeReset .. =>
    [.phase, .variant, .bootEvent, .regs, .units, .evr, .tiles, .posts, .stks, .linePoison, .deckle, .solvers,
     .launches, .deltasSent, .syn, .stp, .brezin, .col, .hbx, .pci, .sec, .pwr, .wout, .free]
  | .eventRecord .. | .recordsLost .. =>
    [.regs, .units, .evr]
  | .thmSample .. =>
    [.phase, .regs, .units, .evr, .sensors, .tiles, .posts, .stks, .solvers, .launches, .deltasSent, .syn, .stp,
     .hbx, .pci, .pwr, .free]
  | .hardwareTrip .. =>
    [.phase, .regs, .units, .evr, .tiles, .posts, .stks, .solvers, .launches, .deltasSent, .syn, .stp, .hbx, .pci,
     .pwr, .free]
  | .errorSignal .. =>
    [.evr, .pci]
  | .unitIdle .. | .capWindow .. =>
    [.regs, .pwr]
  | .dutyHold .. =>
    [.pwr]
  | .smbusBlockRead .. =>
    [.pci]
  | .dramDieLost .. =>
    [.phase, .regs, .evr, .stks, .deckle]
end

