-- ==== Sys2Proof/Certificates/Slice0/Obligations.lean ====
section
/-! DEFINITION. Certificates/Slice0/Obligations.lean: the statements for the provers. -/

open Sys2Proof Sys2Proof.Machine

/-! ### The machine as a whole -/

/-- A step with a command at the front of the queue is that command's meaning on the state with the rest of the queue.
With no command waiting the block idles: the model's own choice, log entry 1. -/
def Obligations.StepRunsFront : Prop :=
  (∀ (c : Instr) (rest : List Instr) (s : State), step { s with pending := c :: rest } = exec c { s with pending := rest })
  ∧ ∀ s : State, s.pending = [] → step s = .next s

/-- Before the first power-on every register field holds the value that its table gives for reset, every page the
reset column of Table 2-3 (its STATE is OFF and PG_CTRL.ENABLE is 0), the Cadence period is 2,000, every port is OFF,
every channel CLOSED, every region-table entry FREE, every tile IDLE, STP IDLE, and no command waits. A field whose
table gives no reset value holds the model's own, log entry 4. -/
def Obligations.ResetValues : Prop :=
  (∀ (f : Field) (i : Nat), State.reset.dev.fget f i = f.reset)
  ∧ (∀ cls inst, State.reset.dev.unit cls inst = UnitPage.reset)
  ∧ UnitPage.reset.state = .off ∧ UnitPage.reset.enable = false ∧ UnitPage.reset.err = 0
  ∧ State.reset.dev.cad.period = 2000
  ∧ (∀ p, (State.reset.dev.port p).state = .off)
  ∧ (∀ e c, (State.reset.dev.chan e c).state = .closed)
  ∧ (∀ h, (State.reset.dev.entry h).state = .free)
  ∧ (∀ p, (State.reset.dev.tile p).core.run = .idle)
  ∧ State.reset.dev.stp.state = .idle
  ∧ State.reset.pending = []

/-- The state before the first power-on lists no byte (an unlisted one reads 0, the model's own choice, log entry 2)
and holds an empty outbox, and its queue holds no command that the part cannot be given. -/
def Obligations.ResetIsSound : Prop := State.reset.MemOk ∧ State.reset.QueueOk

/-- Every step keeps the canonical form of the stacks' bytes (the model's own form of the memory, log entry 2) and the
empty outbox, whatever the command; and the queue only loses its front, so it goes on holding commands that the part
can be given. -/
def Obligations.StepKeepsSound : Prop :=
  ∀ s t : State, s.MemOk → s.QueueOk → step s = .next t → t.MemOk ∧ t.QueueOk ∧ t.pending = s.pending.tail

/-- Every command that the part can be given answers a next state, and no command is refused. A command that names a
unit the part does not have stops with `noSuchUnit` (the model's own stop, log entry 99): a page outside Table 2-1,
tile 68, engine 8, stack 32, port 18, slice engine 6, channel 4096, barrier 256, ring 64 and all above them. -/
def Obligations.WellFormedRuns : Prop :=
  (∀ (c : Instr) (s : State), c.WellFormed → ∃ t, exec c s = .next t)
  ∧ (∀ (c : Instr) (s : State) (r : Refusal), exec c s ≠ .refused r)
  ∧ (∀ s cls inst v, pageExists cls inst = false →
      exec (.enable cls inst v) s = .fault .noSuchUnit ∧ exec (.disableReq cls inst v) s = .fault .noSuchUnit
      ∧ exec (.forceStop cls inst v) s = .fault .noSuchUnit ∧ exec (.drainComplete cls inst) s = .fault .noSuchUnit)
  ∧ (∀ s p e w, 68 ≤ p → exec (.bundleIssue p e w) s = .fault .noSuchUnit ∧ exec (.regionAccess p e w) s = .fault .noSuchUnit)
  ∧ (∀ s e, 8 ≤ e → exec (.cycleStart e) s = .fault .noSuchUnit)
  ∧ (∀ s k n ecc, 32 ≤ k → exec (.stackRead k n ecc) s = .fault .noSuchUnit)
  ∧ (∀ s p bs fec, 18 ≤ p → exec (.dataFrame p ⟨bs, fec⟩) s = .fault .noSuchUnit)
  ∧ (∀ s e, 6 ≤ e → exec (.write e) s = .fault .noSuchUnit)
  ∧ (∀ s e c, 4096 ≤ c → exec (.ackTimer e c) s = .fault .noSuchUnit)
  ∧ (∀ s b, 256 ≤ b → exec (.bartmoExpiry b) s = .fault .noSuchUnit)
  ∧ ∀ s q, 64 ≤ q → exec (.nopCommand q) s = .fault .noSuchUnit

/-- The implemented pages are those of Table 2-1, and every other combination of class and instance in BAR 0 is a
reserved page: a read of PG_ID answers the class, the instance and layout 1 on an implemented page, and any register
of a reserved page reads 0. -/
def Obligations.ImplementedPages : Prop :=
  ∀ (s : State) (cls inst o : Nat), cls < 64 → inst < 256 → o < 2 ^ 12 → o % 4 = 0 → s.dev.wout = [] → s.dev.answers = true →
    Answers (.rcRead 0 (cls * 2 ^ 20 + inst * 2 ^ 12 + o) 15) s fun t =>
      (if (cls ≤ 0x0E ∧ inst = 0) ∨ (cls = 0x10 ∧ inst ≤ 67) ∨ (cls = 0x11 ∧ inst ≤ 7) ∨ (cls = 0x12 ∧ inst ≤ 31)
          ∨ (cls = 0x13 ∧ inst ≤ 4) ∨ (cls = 0x14 ∧ inst ≤ 17) ∨ (cls = 0x15 ∧ inst ≤ 5) then
        pageExists cls inst = true ∧ (o = 0 → t.dev.pci.reply = .value (cls * 2 ^ 24 + inst * 2 ^ 16 + 0x100))
      else pageExists cls inst = false ∧ t.dev.pci.reply = .value 0)
      ∧ s.dev.OnlyChanges t.dev [.regs, .units, .cad, .evr, .pci] ∧ t.mem = s.mem ∧ t.pending = s.pending

/-- An access of the host changes nothing while the endpoint answers none: the link is down, or the device has not
reached event 5 of Table 15-1 and is not FAILED. -/
def Obligations.UnansweredAccess : Prop :=
  ∀ (c : Instr) (s : State), c.byHost = true → c.WellFormed → s.dev.wout = [] → s.dev.answers = false →
    exec c s = .next s

/-! ### Registers (chapter 2) -/

/-- A whole-word REG_WRITE of a register whose fields only store (the THM, CAL, DOC, SLV, STK and FLT pages have no
other block registers): an RW field stores the value within the limits of its table, a W1C field loses the bits
written 1, a W1S field gains them, and an RO, WO or RC field keeps its value; nothing outside the register changes. An
aligned 64-bit write of two such registers is two 32-bit writes, the lower offset first. -/
def Obligations.PlainRegisterWrite : Prop :=
  (∀ (s : State) (cls inst o v : Nat), cls ∈ [0x05, 0x0C, 0x0D, 0x11, 0x12, 0x13] → inst < instances cls →
    0x40 ≤ o → o < 2 ^ 12 → o % 8 = 0 → v < 2 ^ 64 → s.dev.wout = [] → s.dev.answers = true →
    ∃ t u, exec (.regWrite 0 (cls * 2 ^ 20 + inst * 2 ^ 12 + o) 15 (v % 2 ^ 32)) s = .next t
      ∧ exec (.regWrite 0 (cls * 2 ^ 20 + inst * 2 ^ 12 + (o + 4)) 15 (v / 2 ^ 32)) t = .next u
      ∧ exec (.regWrite 0 (cls * 2 ^ 20 + inst * 2 ^ 12 + o) 255 v) s = .next u)
  ∧ ∀ (s : State) (cls inst v : Nat) (f : Field), cls ∈ [0x05, 0x0C, 0x0D, 0x11, 0x12, 0x13] → inst < instances cls →
    f ∈ fieldsOf cls → v < 2 ^ 32 → s.dev.wout = [] → s.dev.answers = true → s.dev.blockOpen cls inst = true →
    s.dev.pageReset cls = false →
    Answers (.regWrite 0 (cls * 2 ^ 20 + inst * 2 ^ 12 + f.off) 15 v) s fun t =>
      (t.dev.fget f inst = match f.acc with
        | .rw => f.stored (bits v f.lo f.width) % 2 ^ f.width
        | .w1c => (s.dev.fget f inst - (s.dev.fget f inst &&& bits v f.lo f.width)) % 2 ^ f.width
        | .w1s => (s.dev.fget f inst ||| bits v f.lo f.width) % 2 ^ f.width
        | .rwl | .ro | .wo | .rc => s.dev.fget f inst)
      ∧ (∀ (g : Field) (j : Nat), (∀ h ∈ fieldsOf cls, h.off = f.off → g.key j ≠ h.key inst) →
          t.dev.fget g j = s.dev.fget g j)
      ∧ s.dev.OnlyChanges t.dev [.regs] ∧ t.mem = s.mem ∧ t.pending = s.pending

/-- A write with partial byte enables is discarded; of a reserved page or place, a read answers 0 and a write is
ignored. The first such access since GLB.BADACC.VALID was last cleared is captured in GLB.BADADDR and GLB.BADACC and
raises a BAD_ACCESS record that carries BADADDR and BADACC, and later ones are not. -/
def Obligations.BadAccesses : Prop :=
  (∀ (s : State) (bar off be v : Nat), regAt bar off = true → be < 15 → s.dev.wout = [] → s.dev.answers = true →
    (s.dev.fget glbBadaccValid 0 = 1 → exec (.regWrite bar off be v) s = .next s)
    ∧ (s.dev.fget glbBadaccValid 0 ≠ 1 → Answers (.regWrite bar off be v) s fun t =>
        t.dev.fget glbBadaddrOffset 0 = off ∧ t.dev.fget glbBadaccValid 0 = 1 ∧ t.dev.fget glbBadaccPartial 0 = 1
        ∧ t.dev.fget glbBadaccWrite 0 = 1 ∧ t.dev.fget glbBadaccSource 0 = bar / 2
        ∧ t.dev.fget glbBadaccResvPage 0 = (if addressed bar off then 0 else 1)
        ∧ (s.dev.evr.closed = false → t.dev.evr.raised = s.dev.evr.raised
            ++ [⟨0x0001, 0, 0, off, 1 + (if addressed bar off then 0 else 2) + 4 + 8 + 16 * (bar / 2), 0, false⟩])
        ∧ s.dev.OnlyChanges t.dev [.regs, .evr] ∧ t.mem = s.mem ∧ t.pending = s.pending))
  ∧ ∀ (s : State) (bar off : Nat) (w : Bool), regAt bar off = true → addressed bar off = false → s.dev.wout = [] →
    s.dev.answers = true →
    Answers (.reservedAccess bar off w) s fun t =>
      (w = false → t.dev.pci.reply = .value 0) ∧ (w = true → t.dev.pci = s.dev.pci)
      ∧ t.dev.fget glbBadaccValid 0 = 1
      ∧ (s.dev.fget glbBadaccValid 0 = 1 → t.dev.regs = s.dev.regs ∧ t.dev.evr = s.dev.evr)
      ∧ (s.dev.fget glbBadaccValid 0 ≠ 1 →
          t.dev.fget glbBadaddrOffset 0 = off ∧ t.dev.fget glbBadaccResvPage 0 = 1
          ∧ t.dev.fget glbBadaccPartial 0 = 0 ∧ t.dev.fget glbBadaccWrite 0 = b2n w
          ∧ t.dev.fget glbBadaccSource 0 = bar / 2
          ∧ (s.dev.evr.closed = false → t.dev.evr.raised = s.dev.evr.raised
              ++ [⟨0x0001, 0, 0, off, 1 + 2 + 8 * b2n w + 16 * (bar / 2), 0, false⟩]))
      ∧ s.dev.OnlyChanges t.dev [.regs, .evr, .pci] ∧ t.mem = s.mem ∧ t.pending = s.pending

/-- A read of a register, whatever bytes it enables, answers those bytes of its word and clears every RC field of the
whole register; other fields keep their values. An aligned 64-bit read is two 32-bit reads, the lower offset first, and
answers both words. A read of PG_ERRCNT clears its three counts. PG_SEQ_READ latches the
high word of what it reads: PG_SEQ into PG_SEQH, the Cadence count, and the sequence numbers of the recorder; and it
answers the low word of PG_SEQ. -/
def Obligations.RegisterReads : Prop :=
  (∀ (s : State) (bar off be : Nat), regAt bar off = true → off % 8 = 0 → 16 ≤ be → be < 256 → s.dev.wout = [] →
    s.dev.answers = true →
    ∃ t u lo hi, exec (.rcRead bar off (be % 16)) s = .next t ∧ t.dev.pci.reply = .value lo
      ∧ exec (.rcRead bar (off + 4) (be / 16)) t = .next u ∧ u.dev.pci.reply = .value hi
      ∧ exec (.rcRead bar off be) s
        = .next { u with dev := { u.dev with pci := { u.dev.pci with reply := .value (lo + 2 ^ 32 * hi) } } })
  ∧ (∀ (s : State) (cls inst o be : Nat), inst < instances cls → o < 2 ^ 12 → o % 4 = 0 → be < 16 → s.dev.wout = [] →
    s.dev.answers = true →
    (0x40 ≤ o → s.dev.blockOpen cls inst = true → s.dev.pageReset cls = false →
      Answers (.rcRead 0 (cls * 2 ^ 20 + inst * 2 ^ 12 + o) be) s fun t =>
        t.dev.pci.reply = .value (enabledBytes be (s.dev.regWord s.mem cls inst o))
        ∧ (∀ f ∈ fieldsAt cls o, f.acc = .rc → t.dev.fget f (s.dev.fieldInst cls inst o) = 0)
        ∧ (∀ (g : Field) (j : Nat),
            (∀ f ∈ fieldsAt cls o, f.acc = .rc → g.key j ≠ f.key (s.dev.fieldInst cls inst o)) →
              t.dev.fget g j = s.dev.fget g j)
        ∧ s.dev.OnlyChanges t.dev [.regs, .cad, .evr, .pci] ∧ t.mem = s.mem ∧ t.pending = s.pending)
    ∧ (o = 0x18 → Answers (.rcRead 0 (cls * 2 ^ 20 + inst * 2 ^ 12 + o) be) s fun t =>
        t.dev.pci.reply = .value (enabledBytes be (s.dev.regWord s.mem cls inst o))
        ∧ t.dev.unit cls inst = { s.dev.unit cls inst with ceCnt := 0, deCnt := 0, uccCnt := 0 }
        ∧ s.dev.OnlyChanges t.dev [.units, .pci] ∧ t.mem = s.mem ∧ t.pending = s.pending))
  ∧ ∀ (s : State), s.dev.wout = [] → s.dev.answers = true →
    (∀ cls inst, inst < instances cls → Answers (.pgSeqRead (cls * 2 ^ 20 + inst * 2 ^ 12 + 0x30)) s fun t =>
      t.dev.pci.reply = .value ((s.dev.unit cls inst).seq % 2 ^ 32)
      ∧ t.dev.unit cls inst = { s.dev.unit cls inst with seqHi := (s.dev.unit cls inst).seq / 2 ^ 32 % 2 ^ 16 }
      ∧ s.dev.OnlyChanges t.dev [.units, .pci] ∧ t.mem = s.mem ∧ t.pending = s.pending)
    ∧ (Answers (.pgSeqRead 0x600048) s fun t =>
      t.dev.cad = { s.dev.cad with hi := s.dev.cad.count / 2 ^ 32 % 2 ^ 16 } ∧ s.dev.OnlyChanges t.dev [.cad, .pci])
    ∧ (Answers (.pgSeqRead 0x300048) s fun t =>
      t.dev.evr = { s.dev.evr with seqHi := s.dev.evr.seq / 2 ^ 32 % 2 ^ 16 } ∧ s.dev.OnlyChanges t.dev [.evr, .pci])
    ∧ (Answers (.pgSeqRead 0x300050) s fun t =>
      t.dev.evr = { s.dev.evr with flushedHi := s.dev.evr.flushed / 2 ^ 32 % 2 ^ 16 }
      ∧ s.dev.OnlyChanges t.dev [.evr, .pci])

/-! ### Units, faults and Felt (chapters 1, 2 and 16) -/

/-- ENABLE: an OFF unit with every disable bit of PG_CAP clear and its start-up test passed becomes ACTIVE, and so
does a DISABLED one that holds no fault; the write stores its bits, FORCED and DIS_REASON clear, and no other page
changes. -/
def Obligations.EnableActivates : Prop :=
  ∀ (s : State) (cls inst v : Nat), inst < instances cls → cls ≠ 0x00 → v % 8 = 1 → s.dev.wout = [] →
    s.dev.answers = true → s.dev.ctrlOpen cls inst = true → s.dev.pageReset cls = false →
    (s.dev.unit cls inst).allowed = true →
    ((s.dev.unit cls inst).state = .off ∧ (s.dev.unit cls inst).testPassed = true
      ∨ (s.dev.unit cls inst).state = .disabled ∧ (s.dev.unit cls inst).fault = false) →
    Answers (.enable cls inst v) s fun t =>
      (t.dev.unit cls inst).state = .active ∧ (t.dev.unit cls inst).enable = true ∧ (t.dev.unit cls inst).forced = false
      ∧ (t.dev.unit cls inst).reason = 0 ∧ (t.dev.unit cls inst).err = (s.dev.unit cls inst).err
      ∧ (∀ c i, i < 256 → inst < 256 → (c, i) ≠ (cls, inst) → t.dev.unit c i = s.dev.unit c i)
      ∧ s.dev.OnlyChanges t.dev [.phase, .regs, .units, .evr, .deckle, .brezin] ∧ t.mem = s.mem

/-- DISABLE_REQ, FORCE_STOP, DRAIN_COMPLETE and DRAIN_BOUND_EXPIRY move a stack or a port as Table 2-4 says: with work
in flight a disable request leaves the unit DRAINING, and with none DISABLED with DIS_REASON 1; FORCE_STOP ends
DISABLED with DIS_REASON 6, the last item DISABLED with 1, and the bound DISABLED with 5 and PG_ERR.TIMEOUT. FORCED
says whether work was discarded. Of the model's own: what counts as work is read in log entry 80. -/
def Obligations.DrainAndForce : Prop :=
  ∀ (s : State) (cls inst : Nat), cls = 0x12 ∨ cls = 0x14 → inst < instances cls → s.dev.wout = [] →
    (∀ v, v < 2 ^ 32 → s.dev.answers = true → s.dev.ctrlOpen cls inst = true → (s.dev.unit cls inst).state = .active →
      (bit v 2 = false → (bit v 1 = true ∨ bit v 0 = false) →
        Answers (.disableReq cls inst v) s fun t =>
          if s.dev.inFlight cls inst = 0 then
            (t.dev.unit cls inst).state = .disabled ∧ (t.dev.unit cls inst).reason = 1 ∧ (t.dev.unit cls inst).forced = false
          else (t.dev.unit cls inst).state = .draining)
      ∧ (bit v 2 = true → Answers (.forceStop cls inst v) s fun t =>
          (t.dev.unit cls inst).state = .disabled ∧ (t.dev.unit cls inst).reason = 6
          ∧ (t.dev.unit cls inst).forceReq = false
          ∧ (t.dev.unit cls inst).forced = decide (s.dev.inFlight cls inst ≠ 0)))
    ∧ ((s.dev.unit cls inst).state = .draining →
      (s.dev.inFlight cls inst = 0 → Answers (.drainComplete cls inst) s fun t =>
        (t.dev.unit cls inst).state = .disabled ∧ (t.dev.unit cls inst).reason = 1
        ∧ (t.dev.unit cls inst).forced = false ∧ (t.dev.unit cls inst).err = (s.dev.unit cls inst).err)
      ∧ (s.dev.inFlight cls inst ≠ 0 → Answers (.drainBoundExpiry cls inst) s fun t =>
        (t.dev.unit cls inst).state = .disabled ∧ (t.dev.unit cls inst).reason = 5
        ∧ (t.dev.unit cls inst).forced = true ∧ bit (t.dev.unit cls inst).err 5 = true))

/-- UNIT_UCC of an ACTIVE or DRAINING unit of the classes whose work concerns no other unit (a Sheet's Felt node, a port,
EVR, DOC, CAL and THM) completes with the unit contained: it is DISABLED with DIS_REASON 7, and PG_ERR.UCC and so
PG_STAT.FAULT are set, with PARITY where byte parity found the error; no other page changes, and a port is OFF. DEVICE_UCF
in a block that cannot contain its error completes with PG_ERR.UCF set there, the device FAILED, its Sheets gated and
their work gone. Of the model's own: what the block reports is an operand, log entry 81. -/
def Obligations.FaultContainment : Prop :=
  (∀ (s : State) (cls inst sub p0 p1 p2 : Nat) (parity : Bool), cls ∈ [pFLT, pBZP, pEVR, pDOC, pCAL, pTHM] →
    inst < instances cls → containable cls inst = true → s.dev.wout = [] →
    (s.dev.unit cls inst).state = .active ∨ (s.dev.unit cls inst).state = .draining →
    Answers (.unitUcc cls inst parity sub p0 p1 p2) s fun t =>
      (t.dev.unit cls inst).state = .disabled ∧ (t.dev.unit cls inst).reason = 7
      ∧ bit (t.dev.unit cls inst).err 2 = true ∧ (t.dev.unit cls inst).fault = true
      ∧ (parity = true → bit (t.dev.unit cls inst).err 4 = true)
      ∧ (cls = pBZP → (t.dev.port inst).state = .off)
      ∧ (∀ c i, i < 256 → (c, i) ≠ (cls, inst) → t.dev.unit c i = s.dev.unit c i)
      ∧ t.dev.tiles = s.dev.tiles ∧ t.mem = s.mem)
  ∧ ∀ (s : State) (cls inst cause p : Nat), inst < instances cls → containable cls inst = false → s.dev.wout = [] →
    s.dev.pwr.on = true → s.dev.phase ≠ .failed →
    Answers (.deviceUcf cls inst cause p) s fun t =>
      t.dev.phase = .failed ∧ t.dev.pwr.gated = true ∧ bit (t.dev.unit cls inst).err 3 = true
      ∧ (t.dev.unit cls inst).fault = true ∧ t.dev.launches = [] ∧ t.dev.posts = [] ∧ t.mem = s.mem

/-- FELT_FLIT_RECEIVE over a link that carries flits: a flit whose bytes all have even parity ends the retries of its
direction. A flit with a byte that has not is rejected: it counts in FLT.RETRYCNT of its receiver, which does not
overflow, sets PARITY and CE in its PG_ERR and writes a FLT_RETRY record that names the sender and the attempt
(PG_ERRMASK permitting, R42); the sender's page counts nothing. The fourth rejection, the last, declares the link
failed and marks it in FLT.LINKFAIL at both ends; one before it leaves the retry showing. FELT_REROUTE of a failed link
then leaves it REROUTED where another route is up, and DOWN where none is. Of the model's own: the fourth rejection
counts as a retry with attempt 4, log entry 104. -/
def Obligations.FeltRetryAndReroute : Prop :=
  (∀ (s : State) (node peer : Nat) (bytes : List Nat) (parity : List Bool), linkOk node peer = true → s.dev.wout = [] →
    (s.dev.feltLink node peer).carries = true →
    let x := s.dev.feltLink node peer
    let attempt := x.tries node peer + 1
    (flitGood bytes parity = true → Answers (.feltFlitReceive node peer bytes parity) s fun t =>
      t.dev.feltLink node peer = x.withTries node peer 0 ∧ s.OnlyParts t [.links])
    ∧ (flitGood bytes parity = false → Answers (.feltFlitReceive node peer bytes parity) s fun t =>
      t.dev.fget fltRetrycntCount node = min (2 ^ 32 - 1) (s.dev.fget fltRetrycntCount node + 1)
      ∧ bit (t.dev.unit pFLT node).err 4 = true ∧ bit (t.dev.unit pFLT node).err 0 = true
      ∧ (s.dev.evr.closed = false → bit (s.dev.unit pFLT node).mask 0 = false ∨ bit (s.dev.unit pFLT node).mask 4 = false →
          t.dev.evr.raised = s.dev.evr.raised ++ [⟨0x1001, pFLT, node, peer, attempt, 0, true⟩])
      ∧ t.dev.unit pFLT peer = s.dev.unit pFLT peer
      ∧ t.dev.fget fltRetrycntCount peer = s.dev.fget fltRetrycntCount peer
      ∧ (4 ≤ attempt → (t.dev.feltLink node peer).failed = true
          ∧ bit (t.dev.fget fltLinkfailFailed node) peer = true ∧ bit (t.dev.fget fltLinkfailFailed peer) node = true)
      ∧ (attempt < 4 → t.dev.feltLink node peer = x.withTries node peer attempt
          ∧ t.dev.fget fltLinkfailFailed node = s.dev.fget fltLinkfailFailed node
          ∧ t.dev.fget fltLinkfailFailed peer = s.dev.fget fltLinkfailFailed peer)
      ∧ s.OnlyParts t [.regs, .units, .evr, .pci, .links]))
  ∧ ∀ (s : State) (a b : Nat), linkOk a b = true → s.dev.wout = [] → (s.dev.feltLink a b).failed = true →
    Answers (.feltReroute a b) s fun t =>
      t.dev.link a b = (if s.dev.rerouted a b then 2 else 0) ∧ (t.dev.feltLink a b).failed = false
      ∧ s.OnlyParts t [.phase, .regs, .evr, .links, .deckle]

/-! ### Tiles (chapters 3, 5 and 6) -/

/-- A bundle of a running tile whose pending writes have all landed and which is in no loop. An empty bundle only
advances the PC and the schedule by one. A register-form integer operation advances them alike and leaves its result
to land after its latency, where its destination is not X0; X0 takes nothing. -/
def Obligations.BundleIssues : Prop :=
  ∀ (s : State) (p : Nat) (T : Tile), p < 68 → s.dev.wout = [] → s.dev.tile p = T → s.dev.sheetsRun = true →
    T.core.run.issuing = true → T.core.stallWhy = 0 → T.core.pend = [] → T.core.div = [] → T.core.loops = [] →
    T.core.pc < 16383 → T.vx.hold = false → T.vx.queue = [] → T.vx.run = none →
    (decodeBundle (SMap.get 0 T.core.pc T.core.prog) = .ok ([], false) →
      Answers (.bundleIssue p 0 0) s fun t =>
        t.dev.tile p = { T with core := { T.core with
          pc := T.core.pc + 1, cc := T.core.cc + 1, stallSeq := 0, stallStatus := none } }
        ∧ s.OnlyTile t p)
    ∧ ∀ (k : Nat) (o : AluOp) (d a b : Nat), k ≤ 1 →
      decodeBundle (SMap.get 0 T.core.pc T.core.prog) = .ok ([⟨k, 0, .scalar (.alu o d a b)⟩], false) →
      Answers (.bundleIssue p 0 0) s fun t =>
        t.dev.tile p = { T with core := { T.core with
          pc := T.core.pc + 1, cc := T.core.cc + 1, stallSeq := 0, stallStatus := none
          pend := if d = 0 then [] else
            [⟨T.core.cc + aluLatency o, .x d,
              (aluWord o (BitVec.ofNat 64 (T.xr a)) (BitVec.ofNat 64 (T.xr b))).toNat, 0, false⟩] } }
        ∧ s.OnlyTile t p

/-- WRITE_LANDS: a pending write whose cc has come lands, and one whose cc has not stays pending; a write of X n makes
it read the value, and X0 goes on reading 0. DIVIDE_COMPLETE lands the quotient of the divider. -/
def Obligations.WritesLand : Prop :=
  ∀ (s : State) (p : Nat) (T : Tile) (n v due : Nat), p < 68 → s.dev.wout = [] → s.dev.tile p = T →
    (T.core.stallWhy = 0 → T.core.pend = [⟨due, .x n, v, 0, false⟩] →
      (due ≤ T.core.cc → Answers (.writeLands p) s fun t =>
        (t.dev.tile p).core.pend = []
        ∧ (t.dev.tile p).xr n = (if n = 0 then 0 else v % 2 ^ 64)
        ∧ (∀ r, r ≠ n → (t.dev.tile p).xr r = T.xr r)
        ∧ (t.dev.tile p).store = T.store ∧ (t.dev.tile p).mx = T.mx ∧ (t.dev.tile p).vx = T.vx ∧ s.OnlyTile t p)
      ∧ (T.core.cc < due → Answers (.writeLands p) s fun t => t.dev.tile p = T ∧ s.OnlyTile t p))
    ∧ ∀ rest, T.core.div = (n, v) :: rest → Answers (.divideComplete p false) s fun t =>
        (t.dev.tile p).core.div = rest
        ∧ (t.dev.tile p).xr n = (if n = 0 then 0 else v % 2 ^ 64)
        ∧ (∀ r, r ≠ n → (t.dev.tile p).xr r = T.xr r)
        ∧ (t.dev.tile p).core.pend = T.core.pend ∧ (t.dev.tile p).store = T.store ∧ s.OnlyTile t p

/-- A bundle with a reserved header bit raises ILLEGAL_OP, slot 8. The tile's pending writes land, the exception
registers and EXCINFO take the cause and the PC, and the tile enters its handler at the address in EVEC where bit 63
of EVEC is set; where it is clear the tile is EXC_HALT. While the tile is in the handler the cause is NESTED, with the new
one as its address, and the tile is EXC_HALT. WATCHDOG, while a bundle stalls and TIL.WDOG is not 0, completes with the
exception WATCHDOG taken in the same way. Of the model's own: the slot of a WATCHDOG is read in log entry 85. -/
def Obligations.TileTakesException : Prop :=
  ∀ (s : State) (p : Nat) (T : Tile), p < 68 → s.dev.wout = [] → s.dev.tile p = T → T.core.run.issuing = true →
    T.core.pend = [] → s.dev.pwr.direct = [] →
    (s.dev.sheetsRun = true → T.core.stallWhy = 0 → (bundleHeader (SMap.get 0 T.core.pc T.core.prog)).reserved ≠ 0 →
      (T.core.inHandler = false → bit T.core.evec 63 = true → Answers (.bundleIssue p 0 0) s fun t =>
        t.dev.tile p = { T with
          core := { T.core with
            stallSeq := 0, stallMark := 0, stallStatus := none, eretWait := false
            run := .handler, inHandler := true, pc := T.core.evec % 2 ^ 14
            excCause := cIllegalOp, excSlot := 8, excPc := T.core.pc, excAddr := 0
            infoCause := cIllegalOp, infoSlot := 8, infoPc := T.core.pc, infoAddr := 0 }
          store := { T.store with commit := .none } }
        ∧ s.OnlyTile t p)
      ∧ (T.core.inHandler = false → bit T.core.evec 63 = false → T.store.openStep = none →
        Answers (.bundleIssue p 0 0) s fun t =>
          (t.dev.tile p).core.run = .excHalt ∧ (t.dev.tile p).core.pc = T.core.pc
          ∧ (t.dev.tile p).core.excCause = cIllegalOp ∧ (t.dev.tile p).core.excSlot = 8
          ∧ (t.dev.tile p).core.excPc = T.core.pc ∧ (t.dev.tile p).core.infoCause = cIllegalOp
          ∧ ∀ q, q ≠ p → t.dev.tile q = s.dev.tile q)
      ∧ (T.core.inHandler = true → T.store.openStep = none → Answers (.bundleIssue p 0 0) s fun t =>
          (t.dev.tile p).core.run = .excHalt ∧ (t.dev.tile p).core.pc = T.core.pc
          ∧ (t.dev.tile p).core.excCause = cNested ∧ (t.dev.tile p).core.excAddr = cIllegalOp
          ∧ (t.dev.tile p).core.excPc = T.core.pc ∧ (t.dev.tile p).core.infoCause = cNested
          ∧ ∀ q, q ≠ p → t.dev.tile q = s.dev.tile q))
    ∧ (T.core.stallWhy ≠ 0 → s.dev.fget tilWdogMs p ≠ 0 → T.core.inHandler = false → bit T.core.evec 63 = true →
      (∃ sl ser, decodeBundle (SMap.get 0 T.core.pc T.core.prog) = .ok (sl, ser)) →
      Answers (.watchdog p) s fun t =>
        (t.dev.tile p).core.run = .handler ∧ (t.dev.tile p).core.inHandler = true
        ∧ (t.dev.tile p).core.pc = T.core.evec % 2 ^ 14 ∧ (t.dev.tile p).core.excCause = cWatchdog
        ∧ (t.dev.tile p).core.excPc = T.core.pc ∧ (t.dev.tile p).core.excAddr = 0
        ∧ (t.dev.tile p).core.infoCause = cWatchdog ∧ (t.dev.tile p).core.infoPc = T.core.pc
        ∧ (t.dev.tile p).core.stallWhy = 0 ∧ (t.dev.tile p).core.x = T.core.x
        ∧ (t.dev.tile p).vx = T.vx ∧ (t.dev.tile p).mx = T.mx ∧ s.OnlyTile t p)

/-- WAITEV: while no TEV bit of its mask is set the bundle stalls with STALL_WHY 6 and the PC stays. Once one is, the
stalled bundle issues: the PC advances, the stall ends, the bits of the mask that were set go to the destination and
clear. -/
def Obligations.StalledBundleIssues : Prop :=
  ∀ (s : State) (p : Nat) (T : Tile) (k d imm : Nat), p < 68 → s.dev.wout = [] → s.dev.tile p = T →
    s.dev.sheetsRun = true → T.core.run.issuing = true → T.core.pend = [] → T.core.div = [] → T.core.loops = [] →
    T.core.pc < 16383 → T.vx.hold = false → T.vx.queue = [] → T.vx.run = none → T.vx.mPoison = [] → d ≠ 0 →
    decodeBundle (SMap.get 0 T.core.pc T.core.prog) = .ok ([⟨k, 0, .control (.waitev d imm)⟩], false) →
    (T.core.stallWhy = 0 → T.core.tev &&& imm = 0 → Answers (.bundleIssue p 0 0) s fun t =>
      (t.dev.tile p).core.stallWhy = 6 ∧ (t.dev.tile p).core.pc = T.core.pc ∧ (t.dev.tile p).core.pend = []
      ∧ (t.dev.tile p).core.tev = T.core.tev ∧ s.OnlyTile t p)
    ∧ (T.core.stallWhy = 6 → T.core.tev &&& imm ≠ 0 → Answers (.stalledBundleIssue p 0 0) s fun t =>
      (t.dev.tile p).core.stallWhy = 0 ∧ (t.dev.tile p).core.pc = T.core.pc + 1
      ∧ (t.dev.tile p).core.pend = [⟨T.core.cc + 1, .x d, T.core.tev &&& imm, 0, false⟩]
      ∧ (t.dev.tile p).core.tev = T.core.tev &&& (2 ^ 64 - 1 - (T.core.tev &&& imm)) ∧ s.OnlyTile t p)

/-- A DMA with nothing outstanding completes: its tag is idle again after OK (with poison: status 1) and shows the
error otherwise, and TAG_STATUS holds its status. A DMA 10 ms old ends as an error with TIMEOUT. A FENCE.P that has
waited 20 ms will end with TIMEOUT. A credit that a target owes comes back. -/
def Obligations.DmaEnds : Prop :=
  ∀ (s : State) (p : Nat) (T : Tile), p < 68 → s.dev.wout = [] → s.dev.tile p = T →
    (∀ (tag : Nat) (q : Dma), SMap.find tag T.store.dmas = some q →
      (q.phase ≠ 0 → q.left = 0 → q.mirror = [] → Answers (.dmaComplete p tag) s fun t =>
        SMap.find tag (t.dev.tile p).store.dmas = none
        ∧ SMap.get 0 tag (t.dev.tile p).store.tagStatus = (if q.status = 0 then b2n q.poison else q.status)
        ∧ SMap.get 0 tag (t.dev.tile p).store.tagState = (if q.status ≤ 1 then 0 else 2)
        ∧ (∀ g, g ≠ tag → SMap.get 0 g (t.dev.tile p).store.tagState = SMap.get 0 g T.store.tagState)
        ∧ (t.dev.tile p).core = T.core ∧ s.OnlyTile t p)
      ∧ (q.phase = 0 ∨ q.left ≠ 0 → Answers (.dmaComplete p tag) s fun t => t.dev = s.dev)
      ∧ Answers (.dmaTimeout p tag) s fun t =>
        SMap.find tag (t.dev.tile p).store.dmas = none
        ∧ SMap.get 0 tag (t.dev.tile p).store.tagStatus = 5 ∧ SMap.get 0 tag (t.dev.tile p).store.tagState = 2
        ∧ (∀ x ∈ t.dev.deltasSent, ¬ (x.tile = p ∧ x.tag = tag)) ∧ (t.dev.tile p).core = T.core
        ∧ s.OnlyParts t [.tiles, .stks, .deltasSent])
    ∧ (∀ k c a, T.core.stallWhy = 3 →
      decodeBundle (SMap.get 0 T.core.pc T.core.prog) = .ok ([⟨k, 0, .control (.fenceP c a)⟩], false) →
      Answers (.fencePTimeout p) s fun t =>
        t.dev.tile p = { T with core := { T.core with stallStatus := some 4 } } ∧ s.OnlyTile t p)
    ∧ ∀ g, SMap.get 0 g T.store.creditOwed ≠ 0 → Answers (.postCreditReturn p g) s fun t =>
        SMap.get 0 g (t.dev.tile p).store.creditOwed = SMap.get 0 g T.store.creditOwed - 1
        ∧ SMap.get 0 g (t.dev.tile p).store.creditUsed = SMap.get 0 g T.store.creditUsed - 1
        ∧ (∀ h, h ≠ g → SMap.get 0 h (t.dev.tile p).store.creditUsed = SMap.get 0 h T.store.creditUsed)
        ∧ (t.dev.tile p).core = T.core ∧ s.OnlyTile t p

/-- REGION_ACCESS of a tile's only waiting DMA, a read, or a write or add of a region that nothing mirrors: where the check
of its region passes and the stacks of its requests are up, each request joins the end of its stack's queue and the DMA
waits for them all; where the region is FREE the DMA has nothing to wait for and its status is 6, and where it is FAILED
2. -/
def Obligations.RegionAccess : Prop :=
  ∀ (s : State) (p : Nat) (T : Tile) (q : Dma), p < 68 → s.dev.wout = [] → s.dev.tile p = T →
    T.store.dmas = [(q.tag, q)] → q.phase = 0 → s.dev.deltaPort (Desc.ofBits q.desc).region = none →
    let desc := Desc.ofBits q.desc
    let pieces := desc.pieces q.ts q.start q.ext
    let top := pieces.foldl (fun n x => max n (x.off + x.len)) (if desc.fmt.blockScaled then desc.scaleStart + desc.scaleSize else 0)
    let h := s.dev.resolve desc.region
    let rs := s.dev.requests p T q h desc.fmt.width pieces
    let at_ (k : Nat) (r : Req) : Bool := stackOf (r.addrs.headD 0) == k
    (q.kind = .rd ∨ s.dev.mirrorsOf h = [] → s.dev.checkEntry h top = .ok →
      (∀ r ∈ rs, s.dev.fget stkStatHealth (stackOf (r.addrs.headD 0)) ≠ 3 ∧ s.dev.active pSTK (stackOf (r.addrs.headD 0)) = true) →
      Answers (.regionAccess p 0 0) s fun t =>
        (∀ k, (t.dev.stack k).reqs = (s.dev.stack k).reqs ++ rs.filter (at_ k))
        ∧ t.dev.tile p
          = { T with store := { T.store with dmas := [(q.tag, { q with phase := 1, left := rs.length, mirror := [] })] } }
        ∧ (∀ g, g ≠ p → t.dev.tile g = s.dev.tile g) ∧ s.OnlyParts t [.tiles, .stks])
    ∧ (s.dev.checkEntry h top = .descInvalid → Answers (.regionAccess p 0 0) s fun t =>
        t.dev.tile p = { T with store := { T.store with dmas := [(q.tag, { q with phase := 1, left := 0, status := 6 })] } }
        ∧ s.OnlyTile t p)
    ∧ (s.dev.checkEntry h top = .regionFailed → Answers (.regionAccess p 0 0) s fun t =>
        t.dev.tile p = { T with store := { T.store with dmas := [(q.tag, { q with phase := 1, left := 0, status := 2 })] } }
        ∧ s.OnlyTile t p)

/-- START of an ACTIVE tile that is not running: it runs from TIL.RUNCTL.ENTRY with X, DS and the exception registers
cleared; NMODE is what the tile's last TILE_START gave, LTILE and the program stay. STOP halts a running tile without
a step open at its bundle boundary, its writes landed. RESUME in a debug-open state lets a HALTED tile run on. Of the
model's own: what START keeps is read in log entry 85. -/
def Obligations.StartStopResume : Prop :=
  ∀ (s : State) (p v : Nat) (T : Tile), p < 68 → s.dev.wout = [] → s.dev.tile p = T → s.dev.answers = true →
    v < 2 ^ 32 → s.dev.pageReset pTIL = false → s.dev.blockOpen pTIL p = true →
    (v % 8 = 1 → s.dev.active pTIL p = true → T.core.run.issuing = false → Answers (.start p v) s fun t =>
      (t.dev.tile p).core.run = .running ∧ (t.dev.tile p).core.pc = bits v 16 14 ∧ (t.dev.tile p).core.x = []
      ∧ (t.dev.tile p).core.ds = [] ∧ (t.dev.tile p).core.excCause = 0 ∧ (t.dev.tile p).core.evec = 0
      ∧ (t.dev.tile p).core.nmode = nmodeStored T.store.launchNmode ∧ (t.dev.tile p).core.ltile = T.core.ltile
      ∧ (t.dev.tile p).core.prog = T.core.prog ∧ (t.dev.tile p).mx = T.mx ∧ (t.dev.tile p).store.ts = T.store.ts
      ∧ t.dev.fget tilRunctlEntry p = bits v 16 14
      ∧ (∀ q, q ≠ p → t.dev.tile q = s.dev.tile q) ∧ s.OnlyParts t [.regs, .tiles])
    ∧ (v % 8 = 2 → T.core.run.issuing = true → T.store.openStep = none → Answers (.stop p v) s fun t =>
      (t.dev.tile p).core.run = .halted ∧ (t.dev.tile p).core.inHandler = false ∧ (t.dev.tile p).core.pend = []
      ∧ (t.dev.tile p).core.pc = T.core.pc ∧ (t.dev.tile p).core.stallWhy = 0
      ∧ (∀ q, q ≠ p → t.dev.tile q = s.dev.tile q) ∧ t.dev.hbx = s.dev.hbx
      ∧ s.OnlyParts t [.regs, .tiles, .pwr])
    ∧ (v % 8 = 4 → s.dev.debugOpen = true → T.core.run = .halted → s.dev.active pTIL p = true →
      Answers (.resume p v) s fun t =>
        t.dev.tile p = { T with core := { T.core with run := .running } }
        ∧ (∀ q, q ≠ p → t.dev.tile q = s.dev.tile q) ∧ s.OnlyParts t [.regs, .tiles])

/-- MX_OP_START: with the array empty, an MMA at the front of the queue enters it with its operand rows captured; a
transfer at the front goes to the free port once nothing of its accumulator is at work. MX_OP_COMPLETE of an ACCST
makes its ledger row valid in the mode of its accumulator; of an ACCINV, invalid; and of an MMA leaves the array empty
with the accumulator in the MMA's mode. ACCDBG_GO in a debug-open state stores what to read and clears DONE;
ACCDBG_READ_DONE then answers: INVALID where there is no such cell, else its value or its compensation with its flags,
and sets DONE. Of the model's own: when an MMA takes its operands is read in log entry 38. -/
def Obligations.MatrixOps : Prop :=
  (∀ (s : State) (p : Nat) (T : Tile) (o : MxItem) (rest : List MxItem), p < 68 → s.dev.wout = [] → s.dev.tile p = T →
    s.dev.sheetsRun = true → T.mx.tail = [] → T.mx.waitEntry = [] →
    (T.mx.queue = o :: rest → T.mx.array = none → T.mx.port = none → s.dev.active pTIL p = true →
      Answers (.mxOpStart p o.usesArray 0 0) s fun t =>
        t.dev.tile p = { T with mx := { T.mx with
          queue := rest
          array := if o.usesArray then some (T.captureMma o) else none
          port := if o.usesArray then none else some o } }
        ∧ s.OnlyTile t p)
    ∧ (T.mx.port = some o → o.kind = .accst → o.row < 256 → o.acc < 2 → Answers (.mxOpComplete p false ⟨[], []⟩) s fun t =>
        (t.dev.tile p).mx.port = none
        ∧ SMap.get false (rowKey (T.mx.accMode o.acc) o.row) (t.dev.tile p).mx.rowValid = true
        ∧ (t.dev.tile p).mx.ping = T.mx.ping ∧ (t.dev.tile p).mx.pong = T.mx.pong ∧ (t.dev.tile p).core = T.core
        ∧ s.OnlyTile t p)
    ∧ (T.mx.port = some o → o.kind = .accinv → Answers (.mxOpComplete p false ⟨[], []⟩) s fun t =>
        (t.dev.tile p).mx.port = none
        ∧ SMap.get false (rowKey o.mode o.row) (t.dev.tile p).mx.rowValid = false
        ∧ (t.dev.tile p).mx.rows = T.mx.rows ∧ (t.dev.tile p).core = T.core ∧ s.OnlyTile t p)
    ∧ (T.mx.array = some o → o.acc < 2 → Answers (.mxOpComplete p true ⟨[], []⟩) s fun t =>
        (t.dev.tile p).mx.array = none ∧ (t.dev.tile p).mx.accMode o.acc = o.modeOf.2
        ∧ (t.dev.tile p).mx.rows = T.mx.rows ∧ (t.dev.tile p).core = T.core ∧ (t.dev.tile p).vx = T.vx
        ∧ (∀ q, q ≠ p → t.dev.tile q = s.dev.tile q) ∧ s.OnlyParts t [.regs, .units, .evr, .tiles, .pci, .free]))
  ∧ (∀ (s : State) (p v : Nat) (T : Tile), p < 68 → s.dev.wout = [] → s.dev.tile p = T → s.dev.answers = true →
    v < 2 ^ 32 → bit v 31 = true → s.dev.pageReset pTIL = false → s.dev.blockOpen pTIL p = true →
    s.dev.debugOpen = true →
    Answers (.accdbgGo p v) s fun t =>
      t.dev.fget tilAccdbgCtlRow p = bits v 0 8 ∧ t.dev.fget tilAccdbgCtlCell p = bits v 8 12
      ∧ t.dev.fget tilAccdbgCtlPart p = bits v 20 1 ∧ t.dev.fget tilAccdbgCtlSrc p = bits v 21 2
      ∧ t.dev.fget tilAccdbgStatDone p = 0
      ∧ t.dev.tile p = { T with mx := { T.mx with dbgPending := true } } ∧ s.OnlyParts t [.regs, .tiles])
  ∧ ∀ (s : State) (p : Nat) (T : Tile), p < 68 → s.dev.wout = [] → s.dev.tile p = T → T.mx.dbgPending = true →
    Answers (.accdbgReadDone p) s fun t =>
      t.dev.fget tilAccdbgStatDone p = 1
      ∧ t.dev.fget tilAccdbgStatInvalid p = (if s.dev.debugCell p = none then 1 else 0)
      ∧ (∀ m c, s.dev.debugCell p = some (m, c) →
          t.dev.fget tilAccdbgDataLoDataLo p
            = (if s.dev.fget tilAccdbgCtlPart p = 0 then c.v else c.c) % 2 ^ 32
          ∧ t.dev.fget tilAccdbgStatNan p = c.flags % 2)
      ∧ t.dev.tile p = { T with mx := { T.mx with dbgPending := false } } ∧ s.OnlyParts t [.regs, .tiles]

/-- VECTOR_OP_START moves the front of the vector queue to the free datapath; VECTOR_OP_COMPLETE leaves the datapath
free, applies the operation, ends the hold of a gather, and sets VRES to where a gather faulted, or 0. -/
def Obligations.VectorOps : Prop :=
  ∀ (s : State) (p : Nat) (T : Tile) (it : VItem) (rest : List VItem), p < 68 → s.dev.wout = [] → s.dev.tile p = T →
    (T.vx.run = none → T.vx.queue = it :: rest → s.dev.pwr.gated = false → Answers (.vectorOpStart p 0 0) s fun t =>
      t.dev.tile p = { T with vx := { T.vx with queue := rest, run := some it } } ∧ s.OnlyTile t p)
    ∧ (T.vx.run = some it → Answers (.vectorOpComplete p) s fun t =>
      let r := vExec { T with vx := { T.vx with run := none } } it
      (t.dev.tile p).vx = { r.tile.vx with
        busyCc := r.tile.vx.busyCc + it.datapathCc, hold := r.tile.vx.hold && !it.isGather }
      ∧ (t.dev.tile p).core.vres = (if it.isGather then it.faultAt.getD 0 else r.tile.core.vres)
      ∧ (∀ q, q ≠ p → t.dev.tile q = s.dev.tile q)
      ∧ s.OnlyParts t [.regs, .units, .evr, .tiles, .pci, .free])

/-- A launch entry armed for a mark that the units have reached fires, and a DMA of a tile whose DMA engine is loaded
starts without admission: the entry is empty, its tag is in flight, and LASTDELAY is 0. Of the model's own: the order of admission is the
choice of log entry 68. -/
def Obligations.LaunchEntryFires : Prop :=
  ∀ (s : State) (p mark : Nat) (T : Tile) (q : Dma) (i : Nat), s.dev.wout = [] → s.dev.tiles = [(p, T)] → i < 4 →
    s.dev.pwr.direct = [] → T.core.entries = [(i, .armed (.dma q) mark)] → reached s.dev.cad.mark mark = true →
    s.dev.loaded (.dma p) = true → T ≠ Tile.reset →
    Answers .launchEntryFire s fun t =>
      (t.dev.tile p).entry i = .empty
      ∧ SMap.find q.tag (t.dev.tile p).store.dmas = some { q with seq := T.store.seq }
      ∧ SMap.get 0 q.tag (t.dev.tile p).store.tagState = 1
      ∧ (t.dev.tile p).core.lastDelay = 0
      ∧ (t.dev.tile p).core.pc = T.core.pc ∧ s.OnlyParts t [.regs, .tiles]

/-! ### Barriers, Cadence and calibration (chapters 8 and 16) -/

/-- BAR_ARRIVE_SEND: once the accesses before a tile's arrival are done it goes to SYN, and until then nothing
changes. BAR_ARRIVAL, HOST_ARRIVAL_COUNT: the arrival is counted, and the one that brings ARRIVED to COUNT releases
every tile of the generation with status OK, clears ARRIVED, advances GEN, and clears HOSTPEND where the host's arrival
was one of them; a tile is released
UNCONFIGURED by a barrier with COUNT 0 and BROKEN by a broken one. ARRIVE sets HOSTPEND; while it is set another
ARRIVE counts nothing. (Barriers that are not the phase fence.) -/
def Obligations.BarrierGenerations : Prop :=
  ∀ (s : State) (p b v : Nat), p < 68 → b < 256 → v % 256 = b → s.dev.wout = [] → s.dev.isFence b = false →
    let x := s.dev.bar b
    let freed (t : State) (q st : Nat) : Prop := ∀ a, SMap.find b (s.dev.tile q).store.arrivals = some a →
      SMap.find b (t.dev.tile q).store.arrivals = some { a with released := some st }
    let counted (t : State) (who : List Nat) (host : Bool) : Prop :=
      if x.arrived + 1 < x.count then
        t.dev.bar b = { x with arrived := x.arrived + 1, tiles := x.tiles ++ who, host := x.host || host }
        ∧ t.dev.tiles = s.dev.tiles
      else
        t.dev.bar b = { x with
          arrived := 0, tiles := [], host := false, hostpend := x.hostpend && !(x.host || host)
          gen := (x.gen + 1) % 2 ^ 16 }
        ∧ (∀ q ∈ x.tiles ++ who, freed t q 0) ∧ ∀ q, q ∉ x.tiles ++ who → t.dev.tile q = s.dev.tile q
    (∀ a, SMap.find b (s.dev.tile p).store.arrivals = some a → a.sent = false → a.released = none →
      (s.dev.fenceDone p a.seq = true → Answers (.barArriveSend p b) s fun t =>
        SMap.find b (t.dev.tile p).store.arrivals = some { a with sent := true }
        ∧ t.dev.syn.inflight = s.dev.syn.inflight ++ [(p, b)] ∧ t.dev.syn.bars = s.dev.syn.bars
        ∧ (t.dev.tile p).core = (s.dev.tile p).core ∧ (∀ q, q ≠ p → t.dev.tile q = s.dev.tile q)
        ∧ s.OnlyParts t [.tiles, .syn])
      ∧ (s.dev.fenceDone p a.seq = false → exec (.barArriveSend p b) s = .next s))
    ∧ ((p, b) ∈ s.dev.syn.inflight → Answers (.barArrival p b) s fun t =>
        t.dev.syn.inflight = s.dev.syn.inflight.erase (p, b) ∧ (∀ c, c ≠ b → t.dev.bar c = s.dev.bar c)
        ∧ (x.count = 0 → freed t p 2 ∧ t.dev.syn.bars = s.dev.syn.bars)
        ∧ (x.count ≠ 0 → x.broken = true → freed t p 1 ∧ t.dev.syn.bars = s.dev.syn.bars)
        ∧ (x.count ≠ 0 → x.broken = false → counted t [p] false)
        ∧ s.OnlyParts t [.tiles, .syn])
    ∧ (b ∈ s.dev.syn.host → Answers (.hostArrivalCount b) s fun t =>
        t.dev.syn.host = s.dev.syn.host.erase b ∧ (∀ c, c ≠ b → t.dev.bar c = s.dev.bar c)
        ∧ (x.count = 0 ∨ x.broken = true → t.dev.bar b = { x with hostpend := false } ∧ t.dev.tiles = s.dev.tiles)
        ∧ (x.count ≠ 0 → x.broken = false → counted t [] true)
        ∧ s.OnlyParts t [.tiles, .syn])
    ∧ (s.dev.answers = true → s.dev.blockOpen pSYN 0 = true →
      (x.hostpend = false → Answers (.arrive v) s fun t =>
        t.dev.bar b = { x with hostpend := true } ∧ (∀ c, c ≠ b → t.dev.bar c = s.dev.bar c)
        ∧ t.dev.syn.host = s.dev.syn.host ++ [b] ∧ s.OnlyParts t [.syn])
      ∧ (x.hostpend = true → Answers (.arrive v) s fun t =>
        t.dev.fget glbBadaccValid 0 = 1 ∧ s.OnlyParts t [.regs, .evr]))

/-- BARTMO_EXPIRY: a generation that has begun breaks: every arrival outstanding at the barrier, sent or not, is released
with status 1, ARRIVED and HOSTPEND clear, BROKEN sets and a BARRIER_BROKEN record with the arrivals goes to EVR; with
SYN.BARTMO at 0, or nothing arrived, nothing happens. BARCFG_WRITE sets COUNT of the selected barrier, at most 65, and breaks a generation that
has begun. BARRESET releases the tiles with status 1 and clears BROKEN, and keeps COUNT and GEN. -/
def Obligations.BarriersBreak : Prop :=
  ∀ (s : State) (b v : Nat), b < 256 → s.dev.wout = [] →
    let x := s.dev.bar b
    let broke (t : State) (cause : Nat) : Prop :=
      (∀ q ∈ s.dev.waitingAt b, ∀ a, SMap.find b (s.dev.tile q).store.arrivals = some a →
        SMap.find b (t.dev.tile q).store.arrivals = some { a with released := some 1 })
      ∧ (∀ q, q ∉ s.dev.waitingAt b → t.dev.tile q = s.dev.tile q) ∧ (∀ c, c ≠ b → t.dev.bar c = s.dev.bar c)
      ∧ t.dev.syn.inflight = s.dev.syn.inflight.filter (fun e => e.2 != b)
      ∧ t.dev.syn.host = s.dev.syn.host.filter (fun h => h != b)
      ∧ (s.dev.evr.closed = false →
          t.dev.evr.raised = s.dev.evr.raised ++ [⟨0x5004, pSYN, 0, b, x.arrived, cause, false⟩])
      ∧ s.OnlyParts t [.tiles, .syn, .stp, .evr, .deckle]
    ((s.dev.fget synBartmoTmo 0 = 0 ∨ x.arrived = 0 → exec (.bartmoExpiry b) s = .next s)
      ∧ (s.dev.fget synBartmoTmo 0 ≠ 0 → x.arrived ≠ 0 → Answers (.bartmoExpiry b) s fun t =>
        t.dev.bar b = { x with arrived := 0, tiles := [], host := false, held := [], hostpend := false, broken := true } ∧ broke t 0))
    ∧ (s.dev.fget synBarselBarrier 0 = b → s.dev.answers = true → s.dev.blockOpen pSYN 0 = true →
      (x.arrived = 0 → Answers (.barcfgWrite v) s fun t =>
        t.dev.bar b = { x with count := min 65 (v % 128) } ∧ (∀ c, c ≠ b → t.dev.bar c = s.dev.bar c)
        ∧ s.OnlyParts t [.syn])
      ∧ (x.arrived ≠ 0 → Answers (.barcfgWrite v) s fun t =>
        t.dev.bar b = { x with count := min 65 (v % 128), arrived := 0, tiles := [], host := false, held := [], hostpend := false, broken := true }
        ∧ broke t 1)
      ∧ (v % 2 = 1 → Answers (.barReset v) s fun t =>
        t.dev.bar b = { x with arrived := 0, tiles := [], host := false, held := [], hostpend := false, broken := false } ∧ broke t 2))

/-- RUN starts and stops the generator. LOAD sets the count to CAD.COUNTSET while it is stopped. A PERIOD_WRITE stores
the period within 50 to 1,000,000 ns; it is in force at once while the generator is stopped, and from the next mark,
with PERPEND showing, while it runs. A CADENCE_MARK of the running generator advances the 48-bit count, which the
units take as the mark, and puts the written period in force; a stopped generator gives none. -/
def Obligations.CadenceGenerator : Prop :=
  ∀ (s : State) (v : Nat), v < 2 ^ 32 → s.dev.wout = [] →
    (s.dev.answers = true → s.dev.blockOpen pCAD 0 = true →
      (bit v 1 = false → Answers (.run v) s fun t =>
        t.dev.fget cadCtlRun 0 = v % 2 ∧ t.dev.fget cadStatRunning 0 = v % 2
        ∧ t.dev.fget cadPeriodNs 0 = s.dev.fget cadPeriodNs 0 ∧ s.OnlyParts t [.regs])
      ∧ (bit v 1 = true → Answers (.load v) s fun t =>
        t.dev.fget cadCtlRun 0 = v % 2 ∧ t.dev.fget cadStatRunning 0 = v % 2
        ∧ t.dev.cad = { s.dev.cad with count := (if v % 2 = 0 then
            s.dev.fget cadCountsetLoSetLo 0 + s.dev.fget cadCountsetHiSetHi 0 * 2 ^ 32 else s.dev.cad.count) }
        ∧ s.OnlyParts t [.regs, .cad])
      ∧ Answers (.periodWrite v) s fun t =>
        t.dev.fget cadPeriodNs 0 = max 50 (min 1000000 (v % 2 ^ 20))
        ∧ (s.dev.fget cadCtlRun 0 = 1 → t.dev.fget cadStatPerpend 0 = 1 ∧ t.dev.cad = s.dev.cad)
        ∧ (s.dev.fget cadCtlRun 0 ≠ 1 → t.dev.fget cadStatPerpend 0 = s.dev.fget cadStatPerpend 0
          ∧ t.dev.cad = { s.dev.cad with period := t.dev.fget cadPeriodNs 0 })
        ∧ s.OnlyParts t [.regs, .cad])
    ∧ (s.dev.fget cadCtlRun 0 = 1 → s.dev.pwr.on = true → Answers .cadenceMark s fun t =>
        t.dev.cad.count = (s.dev.cad.count + 1) % 2 ^ 48 ∧ t.dev.cad.mark = (s.dev.cad.count + 1) % 2 ^ 48
        ∧ t.dev.cad.period = s.dev.fget cadPeriodNs 0 ∧ t.dev.fget cadStatPerpend 0 = 0
        ∧ s.OnlyParts t [.regs, .cad, .tiles, .launches, .pwr])
    ∧ (s.dev.fget cadCtlRun 0 ≠ 1 ∨ s.dev.pwr.on = false → exec .cadenceMark s = .next s)

/-- CAL_SWEEP while CAL is ACTIVE and the sweep enabled counts the sweep; a Cadence sweep writes the worst skew, at
most 255, and counts in CALCNT, and a skew above 60 sets SKEWERR; a failed sweep counts and sets FAILED. CC_MEASURE
writes the five clock periods. Neither does anything while CAL is not ACTIVE. -/
def Obligations.CalibrationSweeps : Prop :=
  ∀ (s : State) (kind skew sensor c0 c1 c2 c3 c4 : Nat) (failed : Bool), s.dev.wout = [] →
    Instr.WellFormed (.calSweep kind skew sensor failed) → Instr.WellFormed (.ccMeasure [c0, c1, c2, c3, c4]) →
    (s.dev.active pCAL 0 = true →
      ((if kind = 1 then s.dev.fget calCtlCadence 0 else s.dev.fget calCtlSensor 0) = 1 →
        Answers (.calSweep kind skew sensor failed) s fun t =>
          t.dev.fget calSweepcntCount 0 = satAdd (2 ^ 32 - 1) (s.dev.fget calSweepcntCount 0) 1
          ∧ (kind = 1 → t.dev.fget cadSkewMaxskew 0 = min skew 255
            ∧ t.dev.fget cadSkewCalcnt 0 = (s.dev.fget cadSkewCalcnt 0 + 1) % 2 ^ 16
            ∧ t.dev.fget cadStatSkewerr 0 = (if 60 < skew then 1 else s.dev.fget cadStatSkewerr 0))
          ∧ t.dev.fget calFailcntCount 0 = (if failed then satAdd (2 ^ 32 - 1) (s.dev.fget calFailcntCount 0) 1
            else s.dev.fget calFailcntCount 0)
          ∧ t.dev.fget calStatFailed 0 = (if failed then 1 else s.dev.fget calStatFailed 0)
          ∧ s.OnlyParts t [.regs, .units, .evr, .pci])
      ∧ Answers (.ccMeasure [c0, c1, c2, c3, c4]) s fun t =>
          t.dev.fget calCc0Ps 0 = c0 % 2 ^ 16 ∧ t.dev.fget calCc1Ps 0 = c1 % 2 ^ 16 ∧ t.dev.fget calCc2Ps 0 = c2 % 2 ^ 16
          ∧ t.dev.fget calCc3Ps 0 = c3 % 2 ^ 16 ∧ t.dev.fget calCchbPs 0 = c4 % 2 ^ 16 ∧ s.OnlyParts t [.regs])
    ∧ (s.dev.active pCAL 0 = false → exec (.calSweep kind skew sensor failed) s = .next s
      ∧ exec (.ccMeasure [c0, c1, c2, c3, c4]) s = .next s)

/-! ### Solver engines (chapter 7) -/

/-- SLV_LOAD of an instance mapped on an ACTIVE engine begins the load of its slot, which goes on serving the
structure it held; while the engine loads another it waits; on an engine that is not ACTIVE it ends with
UNIT_DISABLED, P0 8, and LOADSTAT shows it; for an instance that is mapped nowhere it ends with status 3.
SLV_LOAD_COMPLETE waits while a cycle of another slot runs. Else it checks the image: where it passes, the slot holds
its structure, the command completes OK and Deckle keeps where the image was; where not, the slot holds what it held
and the command completes 0x0A with the status of the check; where the region refuses, it completes 9. Of the model's
own: what a failed load leaves is read in log entry 44. -/
def Obligations.SolverLoads : Prop :=
  ∀ (s : State) (q e sl : Nat) (c : HostCmd) (rest : List HostCmd), q < 64 → e < 8 → s.dev.wout = [] →
    let x := s.dev.solver e
    (s.dev.Front q 6 c rest →
      (s.dev.engineOf (c.f 8 1) = none → Answers (.slvLoad q) s fun t =>
        s.dev.Completes t.dev q c rest 3 0 0 ∧ s.OnlyParts t [.regs, .evr, .hbx])
      ∧ (s.dev.engineOf (c.f 8 1) = some (e, sl) → x.loading ≠ none → exec (.slvLoad q) s = .next s)
      ∧ (s.dev.engineOf (c.f 8 1) = some (e, sl) → x.loading = none →
        (s.dev.active pSLV e = true → Answers (.slvLoad q) s fun t =>
          t.dev.solver e = { x with loading := some c, slots := SMap.put .empty sl (.loading (x.slot sl).struct) x.slots }
          ∧ (∀ g, g ≠ e → t.dev.solver g = s.dev.solver g)
          ∧ t.dev.sq q = { s.dev.sq q with fetched := rest, started := (s.dev.sq q).started ++ [c] }
          ∧ s.OnlyParts t [.solvers, .hbx])
        ∧ (s.dev.active pSLV e = false → Answers (.slvLoad q) s fun t =>
          t.dev.fget slvLoadstatStatus e = 8 ∧ t.dev.fget slvLoadstatSlot e = sl % 4
          ∧ s.dev.Completes t.dev q c rest 5 8 0 ∧ s.OnlyParts t [.regs, .evr, .hbx])))
    ∧ (x.loading = none ∨ x.run.any (fun r => r.launch.slot != x.loadSlot) = true → exec (.slvLoadComplete e) s = .next s)
    ∧ ∀ (old : Option Struct), c.sq = q → x.loading = some c → x.run.any (fun r => r.launch.slot != x.loadSlot) = false →
        x.loadSlot = sl → x.slot sl = .loading old →
        let held : SlotState := match old with
          | some y => .resident y
          | none => .empty
        let kept (t : State) : Prop := (∀ k, k ≠ sl → (t.dev.solver e).slot k = x.slot k)
          ∧ (∀ g, g ≠ e → t.dev.solver g = s.dev.solver g) ∧ (t.dev.solver e).loading = none
          ∧ (t.dev.solver e).run = x.run ∧ (t.dev.solver e).queue = x.queue
          ∧ s.OnlyParts t [.phase, .regs, .units, .evr, .stks, .linePoison, .deckle, .solvers, .hbx, .pci, .sec]
        (s.dev.readRegion s.mem (c.f 10 2) (c.f 16 8) 256 = none → Answers (.slvLoadComplete e) s fun t =>
          (t.dev.solver e).slot sl = held ∧ s.dev.Posts t.dev q c 9 0 0 ∧ kept t)
        ∧ ∀ (head : List Nat) (pz : Bool), s.dev.readRegion s.mem (c.f 10 2) (c.f 16 8) 256 = some (head, pz) →
          let size := ofLE ((head.drop 0x24).take 4)
          (s.dev.readRegion s.mem (c.f 10 2) (c.f 16 8) (max 256 size) = none → Answers (.slvLoadComplete e) s fun t =>
            (t.dev.solver e).slot sl = held ∧ s.dev.Posts t.dev q c 9 0 0 ∧ kept t)
          ∧ ∀ (bytes : List Nat) (poison : Bool),
            s.dev.readRegion s.mem (c.f 10 2) (c.f 16 8) (max 256 size) = some (bytes, poison) →
            let image := if size < 256 then bytes else bytes.take size
            let others := (x.slots.filter (fun y => y.1 != sl)).foldl (fun n y => n + ((y.2.struct.map (fun z => z.size)).getD 0)) 0
            let st := imageStatus image poison (x.slotBusy sl) others
            Answers (.slvLoadComplete e) s fun t =>
              (t.dev.solver e).slot sl = (if st = 0 then .resident (parseImage image (imageHash image)) else held)
              ∧ t.dev.fget slvLoadstatStatus e = st % 2 ^ slvLoadstatStatus.width
              ∧ t.dev.fget slvLoadstatSlot e = sl % 4
              ∧ (∀ pl, s.dev.deckle.placement = some pl → t.dev.deckle.placement = some (if st = 0 then
                  { pl with images := SMap.insert (c.f 8 1) (c.f 10 2, c.f 16 8) pl.images } else pl))
              ∧ s.dev.Posts t.dev q c (if st = 0 then 0 else 0x0A) st 0 ∧ kept t

/-- DELTA_PACKET moves the oldest packet on its way to an engine into its queue and counts it off its DMA; it waits
while the queue holds 131,072. DELTA_APPLY takes the oldest packet of the next cycle of its slot, with the single-bit
errors it met counted and PG_ERR.CE set: a value goes to its place in the value vector of its instance, NaN where that
place was written for this tag before; a value beyond the vector or beyond the state region stores nothing; either is
taken for the seal, and one that is rejected, or that the seal did not count, counts in DELTAERR.BADPKT. The first
seal sets the number of packets; a second is discarded and counted. With no packet that may be applied nothing
changes. -/
def Obligations.DeltaPackets : Prop :=
  ∀ (s : State) (e n ces : Nat) (x : Delta) (l : Launch) (z : Struct), e < 8 → s.dev.wout = [] →
    let y := s.dev.solver e
    (∀ p : DeltaSent, s.dev.deltasSent.find? (fun p => p.engine == e) = some p →
      (y.deltas.length < 131072 → Answers (.deltaPacket e) s fun t =>
        t.dev.deltasSent = s.dev.deltasSent.erase p
        ∧ t.dev.solver e = { y with deltas := y.deltas ++ [p.packet] }
        ∧ (∀ g, g ≠ e → t.dev.solver g = s.dev.solver g)
        ∧ (∀ q, SMap.find p.tag (s.dev.tile p.tile).store.dmas = some q →
            SMap.find p.tag (t.dev.tile p.tile).store.dmas = some { q with left := q.left - 1 })
        ∧ (∀ r, r ≠ p.tile → t.dev.tile r = s.dev.tile r) ∧ s.OnlyParts t [.tiles, .solvers, .deltasSent]))
    ∧ (131072 ≤ y.deltas.length ∨ s.dev.deltasSent.find? (fun p => p.engine == e) = none →
        exec (.deltaPacket e) s = .next s)
    ∧ (y.deltas.find? y.applies = none → exec (.deltaApply ⟨e, ces⟩) s = .next s)
    ∧ (y.deltas.find? y.applies = some x → y.nextOf x.slot = some (l, n) → (y.slot x.slot).struct = some z →
      let w := y.sealState x.slot x.tag
      let inRegion (i : Nat) : Bool := decide (i < 4096) && s.dev.regionHolds l.stateRegion (l.f 32 8 + (i + 1) * z.stride)
      let took (t : State) (w' : SealState) (bad discarded : Nat) : Prop :=
        t.dev.solver e = { y with deltas := y.deltas.erase x, seals := SMap.insert x.slot w' y.seals }
        ∧ (∀ g, g ≠ e → t.dev.solver g = s.dev.solver g)
        ∧ t.dev.fget slvDeltaerrBadpkt e = satAdd (2 ^ slvDeltaerrBadpkt.width - 1) (s.dev.fget slvDeltaerrBadpkt e) bad
        ∧ t.dev.fget slvDeltaerrDiscarded e
          = satAdd (2 ^ slvDeltaerrDiscarded.width - 1) (s.dev.fget slvDeltaerrDiscarded e) discarded
        ∧ (ces = 0 → t.dev.unit pSLV e = s.dev.unit pSLV e)
        ∧ (ces ≠ 0 → bit (t.dev.unit pSLV e).err 0 = true
          ∧ (t.dev.unit pSLV e).ceCnt = satAdd 0xFFFF (s.dev.unit pSLV e).ceCnt ces)
        ∧ t.pending = s.pending
        ∧ s.dev.OnlyChanges t.dev [.phase, .regs, .units, .evr, .stks, .linePoison, .deckle, .solvers, .pci, .sec]
      (x.index = none →
        (w.total ≠ none → Answers (.deltaApply ⟨e, ces⟩) s fun t => took t w 0 1 ∧ t.mem = s.mem)
        ∧ (w.total = none → Answers (.deltaApply ⟨e, ces⟩) s fun t =>
          let surplus := (w.taken.drop (x.value % 2 ^ 32)).filter (fun p => inRegion p.1)
          took t { w with total := some (x.value % 2 ^ 32), bad := w.bad ++ surplus.map (fun p => p.1) }
            (surplus.filter (fun p => decide (p.2 < z.nv))).length 0
          ∧ t.mem = s.mem))
      ∧ ∀ i, x.index = some i →
        let good := inRegion x.inst && decide (i < z.nv)
        let twice := w.taken.contains (x.inst, i)
        let beyond := w.total.any (fun m => decide (m ≤ w.taken.length))
        let takes (t : State) : Prop := took t { w with
          taken := w.taken ++ [(x.inst, i)]
          bad := if inRegion x.inst && (beyond || !good || twice) then x.inst :: w.bad else w.bad } (b2n (beyond || !good)) 0
        (good = true → ∀ d', s.dev.writeRegion l.stateRegion (l.f 32 8 + x.inst * z.stride + 64 + 16 * z.n + 8 * i)
            (toLE 8 (if twice then Format.binary64.canonNan else x.value)) x.poison = some d' →
          Answers (.deltaApply ⟨e, ces⟩) s fun t => takes t
            ∧ (∀ a, SMap.find a d'.wout = none → Memory.read t.mem a = Memory.read s.mem a)
            ∧ ∀ a b, SMap.find a d'.wout = some b → Memory.read t.mem a = b)
        ∧ (good = false → Answers (.deltaApply ⟨e, ces⟩) s fun t => takes t ∧ t.mem = s.mem))

/-- SOLVER_LAUNCH of a good block joins the queue of its engine, at most four deep. A block that the engine refuses,
or that finds the queue full, leaves the launches and shows its RSTAT in LASTREC. CYCLE_START of a sealed cycle whose
start mark has come, before its deadline unless it replays, runs it with the registers as they are, takes the queued
packets of its tag as surplus and discards those of earlier tags; else it waits. LANE_GROUP_COMPLETE computes the next
16 instances, gives the late ones of a STRICT cycle their status, and the last group ends the cycle and counts it.
DEADLINE_MARK ends a running cycle that is neither STRICT nor a replay, and a queued one that has not started, and
does nothing before a deadline. Of the model's own: the order of launches is read in log entry 59. -/
def Obligations.SolverCycles : Prop :=
  ∀ (s : State) (e sl n cc ces : Nat) (l : Launch) (c : Cycle) (z : Struct), e < 8 → s.dev.wout = [] →
    let x := s.dev.solver e
    let now := s.dev.cad.mark
    (s.dev.nextLaunch = none → exec .solverLaunch s = .next s)
    ∧ (s.dev.nextLaunch = some l →
      (∀ r, s.dev.launchRefusal l = some r ∨ (r = 3 ∧ s.dev.launchRefusal l = none ∧ s.dev.engineOf l.si = some (e, sl)
          ∧ 4 ≤ x.queue.length) →
        Answers .solverLaunch s fun t =>
          t.dev.launches = s.dev.launches.erase l ∧ t.dev.solvers = s.dev.solvers
          ∧ t.dev.fget slvLastrecRstat (s.dev.reportEngine l) = r % 2 ^ slvLastrecRstat.width
          ∧ t.dev.fget slvLastrecTag (s.dev.reportEngine l) = l.tag 0)
      ∧ (s.dev.launchRefusal l = none → s.dev.engineOf l.si = some (e, sl) → x.queue.length < 4 →
        Answers .solverLaunch s fun t =>
          t.dev.launches = s.dev.launches.erase l
          ∧ t.dev.solver e = { x with queue := x.queue ++ [({ l with slot := sl }, 0)] }
          ∧ (∀ g, g ≠ e → t.dev.solver g = s.dev.solver g) ∧ s.OnlyParts t [.launches, .solvers]))
    ∧ (∀ rest, x.queue = (l, n) :: rest → (x.slot l.slot).struct = some z →
      let starts := s.dev.sheetsRun = true ∧ s.dev.active pSLV e = true ∧ x.run = none ∧ x.loading = none
        ∧ reached now (l.startMark n) = true ∧ x.sealed l.slot (l.tag n) = true
        ∧ (reached now (l.deadline n) = false ∨ l.replay = true ∧ l.goal ≠ 0)
      let own (p : Delta) : Bool := p.slot == l.slot && p.tag == l.tag n
      let older (p : Delta) : Bool :=
        let t := (l.tag n + 2 ^ 16 - p.tag % 2 ^ 16) % 2 ^ 16
        decide (1 ≤ t) && decide (t ≤ 32767)
      (starts → Answers (.cycleStart e) s fun t =>
        (∃ bad, (t.dev.solver e).run = some ⟨l, n, s.dev.fget slvRegDelta e, s.dev.fget slvRegTiny e,
            s.dev.fget slvCycMisslim e, bad, [], 0, 0, 0⟩
          ∧ (x.deltas.any own = false → bad = (x.sealState l.slot (l.tag n)).bad))
        ∧ (t.dev.solver e).queue = (if n < l.rpt then (l, n + 1) :: rest else rest)
        ∧ (t.dev.solver e).deltas = x.deltas.filter (fun p => !own p && !older p)
        ∧ (t.dev.solver e).seals = SMap.remove l.slot x.seals
        ∧ t.dev.fget slvDeltaerrDiscarded e = satAdd (2 ^ slvDeltaerrDiscarded.width - 1) (s.dev.fget slvDeltaerrDiscarded e)
            (x.deltas.filter (fun p => own p && p.index.isNone || older p)).length
        ∧ (∀ g, g ≠ e → t.dev.solver g = s.dev.solver g)
        ∧ (x.deltas.any own = false → s.OnlyParts t [.regs, .solvers]))
      ∧ (¬starts → exec (.cycleStart e) s = .next s))
    ∧ (x.queue = [] → exec (.cycleStart e) s = .next s)
    ∧ (x.run = some c → (x.slot c.launch.slot).struct = some z →
      let late := beyond now (c.launch.deadline c.n)
      let strict := c.launch.strict && !c.launch.replay
      (s.dev.sheetsRun = true → late = false ∨ c.launch.strict = true ∨ c.launch.replay = true →
        c.results.length < c.launch.goal →
        let upto := min c.launch.goal (16 * (c.results.length / 16 + 1))
        let first := (((s.dev.countRun e cc).storeCe e ces).compute s.mem e c z c.results.length).2.1
        Answers (.laneGroupComplete ⟨e, cc, ces⟩) s fun t =>
          (upto < c.launch.goal → ∃ c', (t.dev.solver e).run = some c' ∧ c'.results.length = upto
            ∧ c'.launch = c.launch ∧ c'.n = c.n ∧ c'.results.take c.results.length = c.results
            ∧ c'.results[c.results.length]? = some (if first.status = 0 ∧ late = true ∧ strict = true then
                { first with status := 9 } else first)
            ∧ (late = true → strict = true → ∀ r ∈ c'.results.drop c.results.length, r.status ≠ 0))
          ∧ (upto = c.launch.goal → (t.dev.solver e).run = none
            ∧ t.dev.fget slvCyccntCount e = satAdd (2 ^ 32 - 1) (s.dev.fget slvCyccntCount e) 1)
          ∧ (t.dev.solver e).busyCc = x.busyCc + cc
          ∧ (ces ≠ 0 → (t.dev.unit pSLV e).ceCnt = satAdd 0xFFFF (s.dev.unit pSLV e).ceCnt ces)
          ∧ (t.dev.solver e).queue = x.queue ∧ (∀ g, g ≠ e → t.dev.solver g = s.dev.solver g))
      ∧ (s.dev.sheetsRun = false ∨ late = true ∧ c.launch.strict = false ∧ c.launch.replay = false →
        exec (.laneGroupComplete ⟨e, cc, ces⟩) s = .next s)
      ∧ (reached now (c.launch.deadline c.n) = true → c.launch.strict = false → c.launch.replay = false →
        Answers (.deadlineMark e) s fun t =>
          (t.dev.solver e).run = none ∧ (t.dev.solver e).queue = x.queue
          ∧ t.dev.fget slvCyccntCount e = satAdd (2 ^ 32 - 1) (s.dev.fget slvCyccntCount e) 1
          ∧ (∀ g, g ≠ e → t.dev.solver g = s.dev.solver g)))
    ∧ (x.run = none → exec (.laneGroupComplete ⟨e, cc, ces⟩) s = .next s)
    ∧ (x.run = none → ∀ rest, x.queue = (l, n) :: rest → (x.slot l.slot).struct = some z →
      reached now (l.deadline n) = true → l.replay = false → Answers (.deadlineMark e) s fun t =>
        (t.dev.solver e).run = none ∧ (t.dev.solver e).queue = (if n < l.rpt then (l, n + 1) :: rest else rest)
        ∧ t.dev.fget slvCyccntCount e = satAdd (2 ^ 32 - 1) (s.dev.fget slvCyccntCount e) 1
        ∧ (∀ g, g ≠ e → t.dev.solver g = s.dev.solver g))
    ∧ (x.run.all (fun r => !reached now (r.launch.deadline r.n)) = true →
      x.queue.all (fun q => !reached now (q.1.deadline q.2)) = true → exec (.deadlineMark e) s = .next s)

/-! ### Stack memory (chapter 9) -/

/-- A request of a stack's queue that no earlier request of its tile holds back, over one line whose cells are as they
were written, at its place and, while a region migrates, at its second place. STACK_READ takes bits of the line into
the tile store, with the line's poison, and stores nothing. STACK_WRITE puts the bytes under its mask at their
addresses and leaves every other byte; data with poison poisons the line, a whole line without clears it. ATOMIC_ADD
rounds one addition to nearest even, stores −0 as +0, counts, and leaves every other byte; with poison in its data or
its line it changes no byte. Each counts off the DMA it belongs to, and charges its row with an activation. A request
that must wait changes nothing. -/
def Obligations.LineAccesses : Prop :=
  ∀ (s : State) (k n : Nat) (ecc : Ecc), k < 32 → rowOk ecc.row = true → ecc.errs = [] → s.dev.wout = [] →
    ((s.dev.stack k).hammered.contains ecc.row = true ∨ takeReq (s.dev.otherReqs k) (s.dev.stack k).reqs n = none →
      exec (.stackRead k n ecc) s = .next s ∧ exec (.stackWrite k n ecc) s = .next s ∧ exec (.atomicAdd k n ecc) s = .next s)
    ∧ ∀ (r : Req) (rest : List Req) (q : Dma) (a b : Nat),
      (s.dev.stack k).hammered.contains ecc.row = false →
      takeReq (s.dev.otherReqs k) (s.dev.stack k).reqs n = some (r, rest) →
      r.addrs ≠ [] → r.addrs.Nodup → r.mirrors.Nodup → (∀ x ∈ r.addrs, x / 64 = a / 64) →
      (∀ x ∈ r.mirrors, x / 64 = b / 64) → a / 64 ≠ b / 64 → s.dev.cellsAt a = none → s.dev.cellsAt b = none →
      SMap.find r.tag (s.dev.tile r.tile).store.dmas = some q → q.seq = r.seq →
      let old (l : List Nat) : List Nat := l.map (fun x => (Memory.read s.mem x).toNat)
      let line := (List.range 64).map (fun i => (Memory.read s.mem (a / 64 * 64 + i)).toNat)
      let bad := s.dev.lineBad (a / 64)
      let bad2 := !r.mirrors.isEmpty && s.dev.lineBad (b / 64)
      let ended (t : State) (marks : SMap (Nat × Bool)) (poison : Bool) : Prop :=
        SMap.find r.tag (t.dev.tile r.tile).store.dmas = some { q with
          left := q.left - 1, status := worse q.status 0, poison := q.poison || poison, marks := marks }
        ∧ (t.dev.tile r.tile).core = (s.dev.tile r.tile).core ∧ (∀ p, p ≠ r.tile → t.dev.tile p = s.dev.tile p)
        ∧ (∀ j, j ≠ k → t.dev.stack j = s.dev.stack j)
        ∧ (t.dev.stack k).reqs = rest
        ∧ SMap.get 0 ecc.row (t.dev.stack k).acts = SMap.get 0 ecc.row (s.dev.stack k).acts + 1
        ∧ (∀ l, l ≠ a / 64 → l ≠ b / 64 ∨ r.mirrors = [] → t.dev.lineBad l = s.dev.lineBad l)
        ∧ t.pending = s.pending
      (r.kind = .rd → Answers (.stackRead k n ecc) s fun t =>
        let ws := r.reads.map (fun x => (⟨x.tpos, x.len, bits (ofLE line) x.pos x.len, bad⟩ : TsWrite))
        ended t (wordMarks q.marks ws) bad
        ∧ (t.dev.tile r.tile).store.ts = ((s.dev.tile r.tile).writeMarked q.marks ws).store.ts
        ∧ (t.dev.tile r.tile).store.tsPoison = ((s.dev.tile r.tile).writeMarked q.marks ws).store.tsPoison
        ∧ s.OnlyParts t [.tiles, .stks])
      ∧ (r.kind = .wr → Answers (.stackWrite k n ecc) s fun t =>
        ended t q.marks r.poison
        ∧ (∀ l ∈ [r.addrs, r.mirrors], ∀ i x, l[i]? = some x →
            Memory.read t.mem x = BitVec.ofNat 8 ((mergeBytes (old l) r.val r.mask).getD i 0))
        ∧ (∀ x, x ∉ r.addrs → x ∉ r.mirrors → Memory.read t.mem x = Memory.read s.mem x)
        ∧ t.dev.lineBad (a / 64) = (r.poison || !r.whole && bad)
        ∧ (r.mirrors ≠ [] → t.dev.lineBad (b / 64) = (r.poison || !r.whole && bad2))
        ∧ (r.poison = true → bit (t.dev.unit pSTK (stackOf a)).err 1 = true)
        ∧ s.dev.OnlyChanges t.dev [.regs, .units, .evr, .tiles, .stks, .linePoison, .pci])
      ∧ (r.kind = .add32 ∨ r.kind = .add64 → Answers (.atomicAdd k n ecc) s fun t =>
        ended t q.marks (r.poison || bad || bad2)
        ∧ (∀ e ∈ [(r.addrs, bad), (r.mirrors, bad2)], ∀ i x, e.1[i]? = some x → Memory.read t.mem x
            = if r.poison || e.2 then Memory.read s.mem x
              else BitVec.ofNat 8 ((toLE e.1.length (addElement r.kind.format (ofLE (old e.1)) r.val)).getD i 0))
        ∧ (∀ x, x ∉ r.addrs → x ∉ r.mirrors → Memory.read t.mem x = Memory.read s.mem x)
        ∧ t.dev.lineBad (a / 64) = (r.poison || bad)
        ∧ (t.dev.stack k).adds = (if (s.dev.stack k).adds = 1023 then 0 else (s.dev.stack k).adds + 1)
        ∧ t.dev.fget stkAddcntCount k = (if (s.dev.stack k).adds = 1023
            then satAdd (2 ^ stkAddcntCount.width - 1) (s.dev.fget stkAddcntCount k) 1 else s.dev.fget stkAddcntCount k)
        ∧ s.dev.OnlyChanges t.dev [.regs, .units, .evr, .tiles, .stks, .linePoison, .pci])

/-- Reads of a line whose cells have changed, whether by an access's own operand or before it. A detected error poisons
its line, sets PG_ERR.DE of the stack, counts in STK.UECNT, holds the address, makes its row due for repair, and its
DMA has the poison; a corrected one sets PG_ERR.CE, counts in STK.CECNT, charges its row, requests a scrub, returns
the corrected data and stores nothing. DEMAND_SCRUB of a line takes it off the queue, counts, and writes back what it
corrects. PATROL_SCRUB goes on to the next line, writes back what it corrects and counts it; a stack that it has read
to the end waits for the next pass. Neither runs while DOC or the stack is not ACTIVE. Of the model's own: the bytes a
detected error leaves are read in log entry 26, what a scrub asks for in 27, when cells change in 110. -/
def Obligations.LineErrorsAndScrubs : Prop :=
  ∀ (s : State) (k n m : Nat) (ecc : Ecc) (chg : List (Nat × Nat)) (r : Req) (rest : List Req) (q : Dma) (a : Nat),
    k < 32 → rowOk ecc.row = true → s.dev.wout = [] → (s.dev.stack k).hammered.contains ecc.row = false →
    stackOf a = k → a % 64 = 0 → (∀ e ∈ ecc.errs, e.1 < 72) →
    let x := s.dev.stack k
    let line := lineOf a
    let before := (s.dev.cellsAt a).getD ⟨ecc.row, [], false, (List.range 64).map (fun i => (Memory.read s.mem (a + i)).toNat)⟩
    let cells : LineCells :=
      if ecc.errs = [] then before else ⟨ecc.row, errorSymbols (before.errs ++ ecc.errs), ecc.retention, before.data⟩
    let found := decodeLine (s.dev.fget stkEccctlTcorr k) cells.errs
    let detected (t : State) : Prop :=
      t.dev.lineBad (a / 64) = true ∧ bit (t.dev.unit pSTK k).err 1 = true
      ∧ t.dev.fget stkUecntCount k = satAdd (2 ^ 32 - 1) (s.dev.fget stkUecntCount k) 1
      ∧ t.dev.fget stkUeaddrHiValid k = 1
      ∧ (s.dev.fget stkUeaddrHiValid k = 0 → t.dev.fget stkUeaddrLoOffLo k = bits (line * 64) 6 26
        ∧ t.dev.fget stkUeaddrHiOffHi k = bits (line * 64) 32 4)
      ∧ cells.row ∈ (t.dev.stack k).repairDue ∧ cells.row ∈ (t.dev.stack k).hourRows
    let corrected (t : State) (queue : List Nat) : Prop :=
      bit (t.dev.unit pSTK k).err 0 = true
      ∧ t.dev.fget stkCecntCount k = satAdd (2 ^ 32 - 1) (s.dev.fget stkCecntCount k) 1
      ∧ (cells.row = ecc.row → SMap.get 0 ecc.row (t.dev.stack k).acts = SMap.get 0 ecc.row x.acts + 2)
      ∧ (t.dev.stack k).demand = (if s.dev.fget docCtlDemandEn 0 = 1 ∧ line ∉ queue ∧ queue.length < 256
          then queue ++ [line] else queue)
    (takeReq (s.dev.otherReqs k) x.reqs n = some (r, rest) → r.kind = .rd → r.addrs.head? = some a →
      (∀ y ∈ r.addrs, y / 64 * 64 = a) → SMap.find r.tag (s.dev.tile r.tile).store.dmas = some q → q.seq = r.seq →
      let ended (t : State) (bad : Bool) (data : List Nat) : Prop :=
        let ws := r.reads.map (fun y => (⟨y.tpos, y.len, bits (ofLE data) y.pos y.len, bad⟩ : TsWrite))
        SMap.find r.tag (t.dev.tile r.tile).store.dmas = some { q with
          left := q.left - 1, status := worse q.status 0, poison := q.poison || bad, marks := wordMarks q.marks ws }
        ∧ (t.dev.tile r.tile).store.ts = ((s.dev.tile r.tile).writeMarked q.marks ws).store.ts
        ∧ t.mem = s.mem ∧ t.pending = s.pending
      (found = .detected → Answers (.stackRead k n ecc) s fun t => detected t ∧ ended t true (changeLine cells.data cells.errs))
      ∧ (found = .corrected m chg → m ≠ 0 → Answers (.stackRead k n ecc) s fun t =>
          corrected t x.demand ∧ ended t (s.dev.lineBad (a / 64)) (changeLine cells.data chg)))
    ∧ (s.dev.mayScrub k = true →
      let written (t : State) : Prop :=
        (∀ y, a ≤ y → y < a + 64 → Memory.read t.mem y = BitVec.ofNat 8 ((changeLine cells.data chg).getD (y - a) 0))
        ∧ (∀ y, y < a ∨ a + 64 ≤ y → Memory.read t.mem y = Memory.read s.mem y) ∧ t.dev.cellsAt a = none
      let open_ := s.dev.lineBad (a / 64) = false ∧ s.dev.lineFailed a = false ∧ cells.data.length = 64
      (∀ rest', x.demand = line :: rest' →
        (found = .corrected m chg → m ≠ 0 → open_ → Answers (.demandScrub k ecc) s fun t =>
          corrected t rest' ∧ written t
          ∧ t.dev.fget docDemandcntCount 0 = satAdd (2 ^ 32 - 1) (s.dev.fget docDemandcntCount 0) 1)
        ∧ (found = .detected → Answers (.demandScrub k ecc) s fun t =>
          detected t ∧ (t.dev.stack k).demand = rest' ∧ t.mem = s.mem
          ∧ t.dev.fget docDemandcntCount 0 = satAdd (2 ^ 32 - 1) (s.dev.fget docDemandcntCount 0) 1)
        ∧ (found = .clean → Answers (.demandScrub k ecc) s fun t =>
          (t.dev.stack k).demand = rest' ∧ t.mem = s.mem
          ∧ t.dev.fget docDemandcntCount 0 = satAdd (2 ^ 32 - 1) (s.dev.fget docDemandcntCount 0) 1))
      ∧ (x.demand = [] → exec (.demandScrub k ecc) s = .next s)
      ∧ (s.dev.fget docCtlPatrolEn 0 = 1 → s.dev.fget docStatPatrolActive 0 = 1 → s.dev.passOver = false →
        (x.passed = true → exec (.patrolScrub k ecc) s = .next s)
        ∧ (x.passed = false → x.patrol = line →
          let gone (t : State) : Prop := (t.dev.stack k).patrol = (line + 1) % stackLines
            ∧ (t.dev.stack k).passed = decide ((line + 1) % stackLines = 0)
            ∧ (∀ j, j ≠ k → t.dev.stack j = s.dev.stack j)
          (found = .clean → Answers (.patrolScrub k ecc) s fun t => gone t ∧ s.OnlyParts t [.regs, .stks, .linePoison])
          ∧ (found = .corrected m chg → m ≠ 0 → open_ → Answers (.patrolScrub k ecc) s fun t =>
            gone t ∧ corrected t x.demand ∧ written t
            ∧ t.dev.fget docPatrolceCount 0 = satAdd (2 ^ 32 - 1) (s.dev.fget docPatrolceCount 0) 1)
          ∧ (found = .detected → Answers (.patrolScrub k ecc) s fun t =>
            gone t ∧ detected t ∧ t.mem = s.mem
            ∧ t.dev.fget docPatrolueCount 0 = satAdd (2 ^ 32 - 1) (s.dev.fget docPatrolueCount 0) 1))))
    ∧ (s.dev.mayScrub k = false → exec (.demandScrub k ecc) s = .next s ∧ exec (.patrolScrub k ecc) s = .next s)

/-- The commands that keep a stack in health. ROW_WEAR_MITIGATION adds activations to a row, and at STK.WEAR.THRESH
counts a mitigation and starts the row again, or, where the share of R254 does not allow one yet, holds the row and
shows THROTTLE. ROW_REPAIR moves the oldest row that is due onto a spare of its bank, copied through ECC, with a
record, or shows SPARE_LOW where the bank has used its 16. REFRESH starts its row's activations again and stores
nothing. DOC_BEHIND shows how far patrol is behind. OPERATING_HOUR_END starts the hourly counters again, and eight
rows with detected errors make the stack FAILING. DRAM_DIE_LOST makes it FAILING. STACK_NO_ANSWER makes it FAILED: a
UCC, the unit disabled, its requests and those of a region migrating off it ended with REGION_FAILED, its regions
FAILED. Of the model's own: what the activations count is the choice of log entry 110. -/
def Obligations.StackHealth : Prop :=
  ∀ (s : State) (k row more line hours r : Nat) (rest : List Nat) (wait : Bool) (ecc : Ecc), k < 32 → s.dev.wout = [] →
    rowOk row = true →
    let x := s.dev.stack k
    let used := SMap.get 0 (r / 2 ^ 24) x.sparesUsed
    let acts := SMap.get 0 row x.acts + more
    let full := decide (s.dev.fget stkWearThresh k ≤ acts)
    (ecc.errs = [] → ecc.row = row → line < stackLines →
      (s.dev.fget stkStatHealth k ≠ 3 → Answers (.refresh k ⟨line, ecc⟩) s fun t =>
        t.dev.stack k = { x with acts := SMap.remove row x.acts } ∧ (∀ j, j ≠ k → t.dev.stack j = s.dev.stack j)
        ∧ s.OnlyParts t [.stks])
      ∧ (s.dev.fget stkStatHealth k = 3 → exec (.refresh k ⟨line, ecc⟩) s = .next s))
    ∧ (s.dev.fget stkStatHealth k ≠ 3 → Answers (.rowWearMitigation k ⟨row, more, wait⟩) s fun t =>
        let held := if full && wait then (if x.hammered.contains row then x.hammered else x.hammered ++ [row])
          else if full then x.hammered.filter (fun h => h != row) else x.hammered
        t.dev.stack k = { x with acts := SMap.put 0 row (if full && !wait then 0 else acts) x.acts, hammered := held }
        ∧ (∀ j, j ≠ k → t.dev.stack j = s.dev.stack j)
        ∧ t.dev.fget stkWearcntCount k = (if full && !wait then satAdd (2 ^ 32 - 1) (s.dev.fget stkWearcntCount k) 1
            else s.dev.fget stkWearcntCount k)
        ∧ t.dev.fget stkStatThrottle k = (if held = [] then 0 else 1) ∧ s.OnlyParts t [.regs, .stks])
    ∧ (s.dev.fget stkStatHealth k = 3 → exec (.rowWearMitigation k ⟨row, more, wait⟩) s = .next s)
    ∧ (x.repairDue = [] ∨ s.dev.fget stkStatHealth k = 3 → exec (.rowRepair k) s = .next s)
    ∧ (s.dev.fget stkStatHealth k ≠ 3 → x.repairDue = r :: rest →
        (used < 16 → Answers (.rowRepair k) s fun t =>
          (t.dev.stack k).repairDue = rest.filter (fun h => h != r)
          ∧ (t.dev.stack k).corrections.all (fun c => c.1 != r) = true
          ∧ (t.dev.stack k).sparesUsed = SMap.insert (r / 2 ^ 24) (used + 1) x.sparesUsed
          ∧ SMap.get 0 r (t.dev.stack k).acts = 0 ∧ (t.dev.stack k).cells.all (fun c => c.2.row != r) = true
          ∧ (t.dev.stack k).reqs = x.reqs
          ∧ (∀ j, j ≠ k → t.dev.stack j = s.dev.stack j)
          ∧ t.dev.fget stkSpareFree k = (s.dev.fget stkSpareFree k - 1) % 2 ^ 16
          ∧ t.dev.fget stkSpareRepaired k = satAdd 0xFFFF (s.dev.fget stkSpareRepaired k) 1
          ∧ (s.dev.evr.closed = false → t.dev.evr.raised.getLast?
              = some ⟨0x0010, pSTK, k, r / 2 ^ 24, r % 2 ^ 24, 15 - used, false⟩)
          ∧ (x.cells.all (fun c => c.2.row != r) = true → s.OnlyParts t [.regs, .evr, .stks]))
        ∧ (16 ≤ used → Answers (.rowRepair k) s fun t =>
          t.dev.fget stkStatSpareLow k = 1
          ∧ (s.dev.fget stkStatHealth k = 0 → t.dev.fget stkStatHealth k = 1)
          ∧ (t.dev.stack k).repairDue = rest.filter (fun h => h != r) ∧ (t.dev.stack k).sparesUsed = x.sparesUsed
          ∧ s.OnlyParts t [.phase, .regs, .evr, .stks, .deckle]))
    ∧ (Answers (.docBehind hours) s fun t =>
        t.dev.fget docStatBoosted 0 = (if 1 < hours then 1 else 0)
        ∧ (hours ≤ 4 → t.dev.fget docStatBehind 0 = s.dev.fget docStatBehind 0 ∧ t.dev.evr = s.dev.evr)
        ∧ (4 < hours → t.dev.fget docStatBehind 0 = 1
          ∧ (s.dev.fget docStatBehind 0 = 0 → s.dev.evr.closed = false →
              t.dev.evr.raised = s.dev.evr.raised ++ [⟨0x0011, pDOC, 0, hours, 0, 0, false⟩]))
        ∧ s.OnlyParts t [.regs, .evr])
    ∧ (s.dev.hours < s.dev.fget glbOpsecSeconds 0 / 3600 → Answers .operatingHourEnd s fun t =>
        t.dev.hours = s.dev.fget glbOpsecSeconds 0 / 3600
        ∧ t.dev.stack k = { x with hourCe := 0, hourRows := [] }
        ∧ (x.hourCe ≤ 1000000 → x.hourRows.length < 8 → t.dev.fget stkStatHealth k = s.dev.fget stkStatHealth k)
        ∧ (1000000 < x.hourCe → s.dev.fget stkStatHealth k = 0 → x.hourRows.length < 8 → t.dev.fget stkStatHealth k = 1)
        ∧ (8 ≤ x.hourRows.length → s.dev.fget stkStatHealth k < 2 → t.dev.fget stkStatHealth k = 2)
        ∧ s.OnlyParts t [.phase, .regs, .evr, .stks, .deckle, .hours])
    ∧ (s.dev.fget glbOpsecSeconds 0 / 3600 ≤ s.dev.hours → exec .operatingHourEnd s = .next s)
    ∧ (Answers (.dramDieLost k) s fun t =>
        t.dev.stack k = { x with lost := true } ∧ (∀ j, j ≠ k → t.dev.stack j = s.dev.stack j)
        ∧ t.dev.fget stkStatHealth k = max 2 (s.dev.fget stkStatHealth k)
        ∧ t.dev.deckle.regions = s.dev.deckle.regions ∧ s.OnlyParts t [.phase, .regs, .evr, .stks, .deckle])
    ∧ (s.dev.fget stkStatHealth k < 3 → Answers (.stackNoAnswer k) s fun t =>
        let moving := (s.dev.deckle.regions.filter (fun e => e.2.state == .migrating && bit e.2.stks k)).map (fun e => e.1)
        t.dev.fget stkStatHealth k = 3 ∧ (t.dev.stack k).reqs = [] ∧ (t.dev.stack k).demand = []
        ∧ bit (t.dev.unit pSTK k).err 2 = true
        ∧ (s.dev.active pSTK k = true → (t.dev.unit pSTK k).state = .disabled ∧ (t.dev.unit pSTK k).reason = 7)
        ∧ (∀ j, j ≠ k → (t.dev.stack j).reqs = (s.dev.stack j).reqs.filter (fun h => !moving.contains h.region))
        ∧ (∀ h q, x.reqs = [h] → moving = [] → SMap.find h.tag (s.dev.tile h.tile).store.dmas = some q → q.seq = h.seq →
            SMap.find h.tag (t.dev.tile h.tile).store.dmas = some { q with left := q.left - 1, status := 2 })
        ∧ t.dev.deckle.regions
          = s.dev.deckle.regions.map (fun e => if bit e.2.stks k then (e.1, { e.2 with state := .failed }) else e))
    ∧ (s.dev.fget stkStatHealth k = 3 → Answers (.stackNoAnswer k) s fun t => s.OnlyParts t [.free])

/-! ### Deckle (chapter 10) -/

/-- PLACE while something is placed ends BUSY; of a manifest with a faulty field it ends BAD_MANIFEST with the offset
of the first one; where the placement, with grades taken afresh, does not come out it ends with the status that fails;
each leaves what is placed as it was. Otherwise Deckle holds the placement and its region table under layout 0, PLGEN
counts, every tile has the name it carries, and the completion is OK.
RELEASE ends with NOT_PLACED, BUSY while a placed tile runs, a launch is queued or a stack migrates, or else OK with
every region gone, no tile mapped, TIL.LOGICAL 0 and the step engine IDLE. (The DETAIL of BUSY, of OK and of a failed
placement is not stated: log entry 42.) -/
def Obligations.PlaceAndRelease : Prop :=
  ∀ (s : State) (q : Nat) (c : HostCmd) (rest : List HostCmd), q < 64 → s.dev.wout = [] →
    (s.dev.Front q 4 c rest →
      let a := s.dev.winAddr (c.f 8 8)
      let len := c.f 16 4
      let man := checkManifest (manField (s.dev.manBytes s.mem a len)) len
      -- the dies note the errors that the read of the manifest meets
      let d := if s.dev.stackUp (stackOf a) then s.dev.noteBytes a len else s.dev
      let ends (st p1 : Nat) (t : State) : Prop :=
        t.dev.fget dklLaststatCode 0 = st % 256 ∧ t.dev.fget dklLaststatDetail 0 = p1 % 2 ^ 24
        ∧ s.dev.Completes t.dev q c rest (if st = 0 then 0 else 0x0A) st p1
      (s.dev.deckle.placement.isSome = true → Answers (.place q) s fun t =>
        (∃ x, ends 2 x t) ∧ s.OnlyParts t [.regs, .evr, .hbx, .free])
      ∧ (s.dev.deckle.placement = none →
        (∀ o, man = .error o → Answers (.place q) s fun t => ends 1 o t
          ∧ d.OnlyChanges t.dev [.regs, .evr, .hbx] ∧ t.mem = s.mem ∧ t.pending = s.pending)
        ∧ (∀ mf st, man = .ok mf → d.takeGrades.computePlacement mf = .error st → Answers (.place q) s fun t =>
            (∃ x, ends st x t) ∧ t.dev.deckle = d.takeGrades.deckle
            ∧ d.OnlyChanges t.dev [.regs, .evr, .deckle, .hbx, .free] ∧ t.mem = s.mem ∧ t.pending = s.pending)
        ∧ (∀ mf pl table, man = .ok mf → d.takeGrades.computePlacement mf = .ok (pl, table) → Answers (.place q) s fun t =>
            (∃ x, ends 0 x t) ∧ t.dev.deckle.placement = some pl ∧ t.dev.deckle.regions = table ∧ t.dev.deckle.layout = 0
            ∧ t.dev.deckle.health = d.deckle.health ∧ t.dev.fget stpBankSel 0 = 0
            ∧ t.dev.fget dklPlgenGen 0 = (s.dev.fget dklPlgenGen 0 + 1) % 2 ^ 32
            ∧ (∀ p, p < 68 → t.dev.logicalOf p = (pl.tmap.find? (fun e => e.2 == p)).map (fun e => e.1)
                ∧ (t.dev.tile p).mx.ledgerRole = pl.roles.contains p ∧ (t.dev.tile p).store = (s.dev.tile p).store)
            ∧ d.OnlyChanges t.dev [.regs, .evr, .tiles, .deckle, .hbx, .free] ∧ t.mem = s.mem ∧ t.pending = s.pending)))
    ∧ (s.dev.Front q 5 c rest →
      (s.dev.deckle.placement = none → Answers (.release q) s fun t =>
        s.dev.Completes t.dev q c rest 3 0 0 ∧ s.OnlyParts t [.regs, .evr, .hbx])
      ∧ (s.dev.deckle.placement.isSome = true →
        (s.dev.placedQuiet = false ∨ s.dev.launchQueued = true ∨ s.dev.deckle.migration.isSome = true →
          Answers (.release q) s fun t =>
            s.dev.Completes t.dev q c rest 0x0A 2 0 ∧ s.OnlyParts t [.regs, .evr, .hbx])
        ∧ (s.dev.placedQuiet = true → s.dev.launchQueued = false → s.dev.deckle.migration = none →
          Answers (.release q) s fun t =>
            s.dev.Completes t.dev q c rest 0 0 0 ∧ t.dev.deckle.placement = none ∧ t.dev.deckle.regions = []
            ∧ t.dev.stp.state = .idle ∧ (∀ p, p < 68 → t.dev.logicalOf p = none ∧ (t.dev.tile p).core.ltile = 0)
            ∧ s.OnlyParts t [.regs, .evr, .tiles, .deckle, .syn, .stp, .hbx])))

/-- TILE_REMAP of a placed tile that left takes its name, spoils an open step and breaks every configured barrier; of
one that carries no logical tile it moves no more than its ledger role. REMAPPED waits for the tile's DMAs; then it
gives the logical tile to the first suitable spare, with its program and, for a LEDGER tile, the role, and counts;
with no spare, or a program that cannot be read, it reports REMAP_FAILED and the logical tile stays unmapped.
SOLVER_REMAP gives an instance of a failed engine another engine and slot with its image loaded there, or reports
REMAP_FAILED. No region moves. Of the model's own: the order of spares is read in log entry 96, a reload that fails
in 115. -/
def Obligations.Remaps : Prop :=
  ∀ (s : State) (p l i : Nat) (pl : Placement) (bad : List Nat), p < 68 → s.dev.wout = [] →
    (∀ rest, s.dev.deckle.remap = none → s.dev.deckle.solverRemap = [] → s.dev.deckle.events = .tile p :: rest →
      s.dev.deckle.placement = some pl →
      (s.dev.logicalOf p = some l → Answers .tileRemap s fun t =>
        t.dev.deckle.remap = some ⟨p, l⟩ ∧ t.dev.deckle.events = rest ∧ t.dev.logicalOf p = none
        ∧ t.dev.deckle.regions = s.dev.deckle.regions
        ∧ (s.dev.stp.state = .opened → t.dev.stp.state = .spoiled ∧ t.dev.stp.cause = 2 ∧ t.dev.stp.causeParam = l)
        ∧ ∀ b, (s.dev.bar b).count ≠ 0 → (t.dev.bar b).broken = true ∧ (t.dev.bar b).count = (s.dev.bar b).count)
      ∧ (s.dev.logicalOf p = none → Answers .tileRemap s fun t =>
        t.dev.deckle = { s.dev.deckle with events := rest, placement := some { pl with roles := s.dev.dropRole pl p } }
        ∧ s.OnlyParts t [.tiles, .deckle]))
    ∧ (s.dev.deckle.remap = none ∨ (s.dev.deckle.remap = some ⟨p, l⟩ ∧ (s.dev.tile p).store.dmas ≠ []) →
        exec (.remapped bad) s = .next s)
    ∧ (s.dev.deckle.remap = some ⟨p, l⟩ → s.dev.deckle.placement = some pl → (s.dev.tile p).store.dmas = [] →
      let ledger := (pl.man.tiles[l]?).any (fun t => t.ledger)
      -- what PROG_LOAD had loaded, and the device once its image has been read
      let load := SMap.find l pl.loads
      let image : Option (SMap Nat) := match load with
        | some (h, o, n) => s.dev.readImage s.mem h o n
        | none => some []
      let d := match load with
        | some (h, o, n) => s.dev.noteRegion h o (64 * n)
        | none => s.dev
      let spares := (d.remapTargets pl p ledger).filter (fun x => !bad.contains x)
      (∀ g more prog, spares = g :: more → image = some prog → Answers (.remapped bad) s fun t =>
        t.dev.deckle.placement = some { pl with
          tmap := SMap.insert l g pl.tmap
          spares := SMap.insert (g / 17) ((SMap.get [] (g / 17) pl.spares).filter (fun x => x != g % 17)) pl.spares
          roles := if ledger then (pl.roles.filter (fun x => x != p && x != g)) ++ [g] else d.dropRole pl p }
        ∧ (t.dev.tile g).core.prog = loadProg ((load.map (fun x => x.2.2)).getD 0) prog (s.dev.tile g).core.prog
        ∧ (∀ r, r ≠ g → (t.dev.tile r).core.prog = (s.dev.tile r).core.prog)
        ∧ t.dev.deckle.remap = none ∧ t.dev.deckle.regions = s.dev.deckle.regions
        ∧ t.dev.fget dklRemapcntTiles 0 = satAdd 0xFFFF (s.dev.fget dklRemapcntTiles 0) 1
        ∧ t.dev.fget dklPlgenGen 0 = (s.dev.fget dklPlgenGen 0 + 1) % 2 ^ 32
        ∧ t.dev.fget dklLaststatCode 0 = 0x10 ∧ t.dev.fget dklLaststatDetail 0 = l % 2 ^ 24
        ∧ d.OnlyChanges t.dev [.regs, .evr, .tiles, .deckle, .hbx] ∧ t.mem = s.mem ∧ t.pending = s.pending)
      ∧ (spares = [] ∨ image = none → Answers (.remapped bad) s fun t =>
        t.dev.deckle.placement = some { pl with tmap := SMap.remove l pl.tmap, roles := d.dropRole pl p }
        ∧ t.dev.deckle.remap = none ∧ t.dev.deckle.remapFailed = true ∧ t.dev.deckle.regions = s.dev.deckle.regions
        ∧ t.dev.fget dklLaststatCode 0 = 0x11 ∧ t.dev.fget dklLaststatDetail 0 = l % 2 ^ 24
        ∧ (s.dev.phase = .ready → t.dev.phase = .degraded)
        ∧ d.OnlyChanges t.dev [.phase, .regs, .evr, .tiles, .deckle, .hbx] ∧ t.mem = s.mem ∧ t.pending = s.pending))
    ∧ (∀ more rest f from_ sl, s.dev.deckle.placement = some pl →
      (s.dev.deckle.solverRemap = i :: more ∧ s.dev.deckle.events = rest
        ∨ s.dev.deckle.remap = none ∧ s.dev.deckle.solverRemap = [] ∧ s.dev.deckle.events = .engine f :: rest
          ∧ pl.onEngine f = i :: more) →
      SMap.find i pl.smap = some (from_, sl) →
      let to_ := s.dev.placeInstance pl.man pl.tmap pl.order (SMap.remove i pl.smap) (pl.man.solv.getD i 0xFF) (some from_)
      let given (t : State) : Prop := t.dev.deckle.solverRemap = more ∧ t.dev.deckle.events = rest
        ∧ t.dev.deckle.regions = s.dev.deckle.regions ∧ t.dev.fget dklLaststatDetail 0 = (0x100 + i) % 2 ^ 24
        ∧ t.mem = s.mem ∧ t.pending = s.pending
      let fails (t : State) : Prop := given t
        ∧ t.dev.deckle.placement = some { pl with smap := SMap.remove i pl.smap }
        ∧ t.dev.deckle.remapFailed = true ∧ t.dev.fget dklLaststatCode 0 = 0x11 ∧ t.dev.solvers = s.dev.solvers
        ∧ s.dev.OnlyChanges t.dev [.phase, .regs, .evr, .deckle, .hbx]
      (∀ e k, to_ = some (e, k) →
        let moved (t : State) : Prop := given t
          ∧ t.dev.deckle.placement = some { pl with smap := SMap.insert i (e, k) pl.smap }
          ∧ t.dev.fget dklRemapcntSolvers 0 = satAdd 0xFFFF (s.dev.fget dklRemapcntSolvers 0) 1
          ∧ t.dev.fget dklLaststatCode 0 = 0x10
        (SMap.find i pl.images = none → Answers .solverRemap s fun t => moved t ∧ s.OnlyParts t [.regs, .evr, .deckle, .hbx])
        ∧ ∀ h o, SMap.find i pl.images = some (h, o) →
          let r := s.dev.loadImage s.mem e k h o
          (r.2 = some 0 → Answers .solverRemap s fun t => moved t ∧ t.dev.solvers = r.1.solvers)
          ∧ (r.2 ≠ some 0 → Answers .solverRemap s fails))
      ∧ (to_ = none → Answers .solverRemap s fails))

/-- STACK_MIGRATION starts on the regions of a FAILING stack, once no remap runs or waits: the first one with a place
elsewhere becomes MIGRATING; with none to move it reports. After a region it waits for the accesses to its old place,
and at the end reports. MIGRATION_COPY of a unit that nothing is writing copies its 4 KiB with the poison of each line
and leaves every other byte; the last unit switches the entry to its new place and counts; a region that has failed is
left. DKL_REDRAW asks for a layout while Deckle and the placed tiles are quiet, and REDRAW, once nothing it waits for
is left, puts the region table of that layout in force, or reports that it does not fit and keeps what there is; the
last re-draw that a phase fence asked for releases every generation held at a fence. Of the model's own: a failed target is the choice of log entry 113. -/
def Obligations.MigrationAndRedraw : Prop :=
  ∀ (s : State) (k h v n : Nat) (e tgt : Region) (pl : Placement) (mr : ManRegion) (g : Migration) (ecc : Ecc)
      (rest : List DkEvent) (more : List Nat), s.dev.wout = [] → rowOk ecc.row = true →
    (s.dev.deckle.migration = none →
      (s.dev.remapRuns = true ∨ s.dev.deckle.events.any DkEvent.isRemap = true → exec .stackMigration s = .next s)
      ∧ (s.dev.remapRuns = false → s.dev.deckle.events = .stack k :: rest → rest.any DkEvent.isRemap = false →
        let hs := (s.dev.deckle.regions.filter (fun e => bit e.2.stks k)).map (fun e => e.1)
        let all := s.dev.usableStacks (some k)
        (hs = h :: more → s.dev.entry h = e → e.state = .active → bit e.stks k = true → s.dev.deckle.placement = some pl →
          s.dev.manRegion h = some mr →
          placeRegion (s.dev.occupied s.dev.deckle.regions) (nearStacks pl.man pl.tmap pl.order mr.stage all) all
            (mr.rule s.dev.deckle.layout) mr.size stackBytes = some tgt →
          Answers .stackMigration s fun t =>
            t.dev.deckle.migration = some ⟨k, more, h, { tgt with gen := (e.gen + 1) % 2 ^ 16 }, 0, 0, .none⟩
            ∧ t.dev.deckle.events = rest
            ∧ t.dev.deckle.regions = SMap.put .none h { e with state := .migrating } s.dev.deckle.regions
            ∧ s.OnlyParts t [.deckle])
        ∧ (hs = [] → Answers .stackMigration s fun t =>
            t.dev.deckle.migration = none ∧ t.dev.deckle.events = rest ∧ t.dev.fget dklLaststatCode 0 = 0x12
            ∧ t.dev.deckle.regions = s.dev.deckle.regions ∧ s.OnlyParts t [.regs, .evr, .deckle, .hbx, .free])))
    ∧ (s.dev.deckle.migration = some g →
      (g.handle ≠ 0 ∨ s.dev.requestsIn g.old false = true → exec .stackMigration s = .next s)
      ∧ (g.handle = 0 → s.dev.requestsIn g.old false = false → g.todo = [] → Answers .stackMigration s fun t =>
        t.dev.deckle = { s.dev.deckle with migration := none }
        ∧ t.dev.fget dklLaststatCode 0 = (if g.short = 0 then 0x12 else 0x13)
        ∧ (g.short ≠ 0 → t.dev.fget dklLaststatDetail 0 = g.short % 2 ^ 24)
        ∧ s.OnlyParts t [.regs, .evr, .deckle, .hbx, .free]))
    ∧ (s.dev.deckle.migration = none ∨ s.dev.deckle.migration = some g ∧ g.handle = 0 →
        exec (.migrationCopy n ecc) s = .next s)
    ∧ (s.dev.deckle.migration = some g → g.handle ≠ 0 → s.dev.entry g.handle = e →
      let src := e.locate (g.done * 4096)
      let dst := g.target.locate (g.done * 4096)
      let pending := s.dev.stks.any (fun x => x.2.reqs.any (fun q =>
        q.kind != .rd && q.addrs.any (fun a => a / 4096 == src / 4096)))
      let failed := (setBits 32 g.target.stks).any (fun j => s.dev.fget stkStatHealth j == 3)
      (e.state ≠ .migrating → Answers (.migrationCopy n ecc) s fun t =>
        t.dev.deckle = { s.dev.deckle with migration := some { g with handle := 0, done := 0, old := .none } }
        ∧ s.OnlyParts t [.deckle])
      ∧ (e.state = .migrating → failed = true → Answers (.migrationCopy n ecc) s fun t =>
        (∀ j, ∀ r ∈ (t.dev.stack j).reqs, r.region = g.handle → r.mirrors = []) ∧ t.mem = s.mem)
      ∧ (e.state = .migrating → failed = false → pending = true → exec (.migrationCopy n ecc) s = .next s)
      ∧ (e.state = .migrating → failed = false → pending = false → ecc.errs = [] →
        src % 64 = 0 → dst % 64 = 0 → (src + 4096 ≤ dst ∨ dst + 4096 ≤ src) →
        (∀ i, i < 64 → s.dev.cellsAt (src + 64 * i) = none ∧ s.dev.cellsAt (dst + 64 * i) = none) →
        Answers (.migrationCopy n ecc) s fun t =>
          (∀ i, i < 4096 → Memory.read t.mem (dst + i) = Memory.read s.mem (src + i))
          ∧ (∀ a, a < dst ∨ dst + 4096 ≤ a → Memory.read t.mem a = Memory.read s.mem a)
          ∧ (∀ i, i < 64 → t.dev.lineBad (dst / 64 + i) = s.dev.lineBad (src / 64 + i))
          ∧ (∀ l, l < dst / 64 ∨ dst / 64 + 64 ≤ l → t.dev.lineBad l = s.dev.lineBad l)
          ∧ ((g.done + 1) * 4096 < e.size → t.dev.deckle = { s.dev.deckle with migration := some { g with done := g.done + 1 } })
          ∧ (e.size ≤ (g.done + 1) * 4096 → t.dev.entry g.handle = g.target
            ∧ t.dev.deckle.migration = some { g with handle := 0, done := 0, old := e }
            ∧ t.dev.fget dklMigcntCount 0 = satAdd (2 ^ 32 - 1) (s.dev.fget dklMigcntCount 0) 1
            ∧ t.dev.fget dklPlgenGen 0 = (s.dev.fget dklPlgenGen 0 + 1) % 2 ^ 32)
          ∧ s.dev.OnlyChanges t.dev [.regs, .units, .evr, .stks, .linePoison, .deckle, .pci]))
    ∧ (s.dev.answers = true → s.dev.blockOpen pDKL 0 = true →
      (bit v 31 = true → s.dev.deckle.placement.isSome = true → s.dev.deckle.migration = none → s.dev.remapping = false →
        s.dev.redrawing = false → s.dev.placedQuiet = true → Answers (.dklRedraw v) s fun t =>
          t.dev.deckle = { s.dev.deckle with events := s.dev.deckle.events ++ [.redraw (v % 4) false] }
          ∧ s.OnlyParts t [.deckle])
      ∧ (bit v 31 = false ∨ s.dev.deckle.placement = none ∨ s.dev.deckle.migration.isSome = true
          ∨ s.dev.remapping = true ∨ s.dev.redrawing = true ∨ s.dev.placedQuiet = false →
        exec (.dklRedraw v) s = .next s))
    ∧ (s.dev.redrawWaits = true → exec .redraw s = .next s)
    ∧ ∀ (lay : Nat) (fence : Bool), s.dev.redrawWaits = false → s.dev.deckle.placement = some pl →
      s.dev.deckle.events.find? DkEvent.isRedraw = some (.redraw lay fence) →
      let left := s.dev.deckle.events.erase (.redraw lay fence)
      let fenced (t : State) : Prop :=
        (fence = true → left.any DkEvent.isFence = false → ∀ b, (t.dev.bar b).held = [])
        ∧ (fence = false → t.dev.syn = s.dev.syn ∧ t.dev.tiles = s.dev.tiles)
      (∀ tbl, s.dev.takeGrades.redrawTable pl lay = some tbl → Answers .redraw s fun t =>
        t.dev.deckle.regions = tbl ∧ t.dev.deckle.layout = lay ∧ t.dev.deckle.events = left
        ∧ t.dev.fget dklLaststatCode 0 = 0x14 ∧ t.dev.fget dklPlgenGen 0 = (s.dev.fget dklPlgenGen 0 + 1) % 2 ^ 32
        ∧ t.dev.stp.redrawFail = s.dev.stp.redrawFail ∧ fenced t
        ∧ s.OnlyParts t [.regs, .evr, .tiles, .deckle, .syn, .stp, .hbx, .free])
      ∧ (s.dev.takeGrades.redrawTable pl lay = none → Answers .redraw s fun t =>
        t.dev.deckle.regions = s.dev.deckle.regions ∧ t.dev.deckle.layout = s.dev.deckle.layout
        ∧ t.dev.deckle.events = left ∧ t.dev.fget dklLaststatCode 0 = 0x15
        ∧ t.dev.fget dklPlgenGen 0 = s.dev.fget dklPlgenGen 0
        ∧ t.dev.stp.redrawFail = (fence || s.dev.stp.redrawFail) ∧ fenced t
        ∧ s.OnlyParts t [.regs, .evr, .tiles, .deckle, .syn, .stp, .hbx, .free])

/-! ### Training steps and couch queues (chapter 11) -/

/-- A STEP.OPEN of the next step's number opens it device-wide; of another number it spoils, and of the open step's
own it changes nothing more. A STEP.COMMIT whose earlier accesses are done counts its logical tile; before that it
waits. Once every condition holds COMMITTING commits a step without a commit group: the bank flips, NEXT advances and
the waiting tiles are released with status 0; with a commit group and a COL that is not ACTIVE the step spoils with
PEER_VOTE. CMTTMO_EXPIRY spoils an open step whose conditions do not all hold, SPOIL an open step, and ACK of a
spoiled one, once its tiles are quiet and nothing is being remapped, makes STP IDLE. Of the model's own: a COL that
takes no vote is read in log entry 120. -/
def Obligations.StepLifecycle : Prop :=
  ∀ (s : State) (p n l v : Nat) (rest : List (Nat × Nat)), p < 68 → s.dev.wout = [] → s.dev.col.events = [] →
    let spoiled (t : State) (cause param : Nat) : Prop :=
      t.dev.stp.state = .spoiled ∧ t.dev.stp.cause = cause ∧ t.dev.stp.causeParam = param
      ∧ t.dev.fget stpSpoilcntCount 0 = satAdd (2 ^ stpSpoilcntCount.width - 1) (s.dev.fget stpSpoilcntCount 0) 1
      ∧ (∀ b, (s.dev.bar b).count ≠ 0 → (t.dev.bar b).broken = true)
      ∧ t.dev.fget stpBankSel 0 = s.dev.fget stpBankSel 0
    (s.dev.stp.opens = (p, n) :: rest → n < 2 ^ 32 →
      (s.dev.stp.state = .idle → n = s.dev.fget stpNextStep 0 → Answers (.stepOpenArrival p) s fun t =>
        t.dev.stp.state = .opened ∧ t.dev.curStep = n ∧ t.dev.stp.opens = rest ∧ t.dev.stp.arrived = []
        ∧ t.dev.stp.openMark = s.dev.cad.mark ∧ t.dev.stp.copyPending = s.dev.ledgerOn
        ∧ t.dev.fget stpNextStep 0 = s.dev.fget stpNextStep 0 ∧ s.OnlyParts t [.regs, .stp])
      ∧ (s.dev.stp.state = .idle ∧ n ≠ s.dev.fget stpNextStep 0 ∨ s.dev.stp.state = .opened ∧ n ≠ s.dev.curStep →
        Answers (.stepOpenArrival p) s fun t => spoiled t 7 n ∧ t.dev.stp.opens = rest)
      ∧ (s.dev.stp.state = .opened → n = s.dev.curStep → Answers (.stepOpenArrival p) s fun t =>
        t.dev = { s.dev with stp := { s.dev.stp with opens := rest } } ∧ t.mem = s.mem ∧ t.pending = s.pending))
    ∧ ((s.dev.tile p).store.commit = .waiting n → s.dev.stp.state = .opened →
      (s.dev.fenceDone p (s.dev.tile p).core.stallSeq = false → exec (.stepCommitArrival p) s = .next s)
      ∧ (s.dev.fenceDone p (s.dev.tile p).core.stallSeq = true → (s.dev.tile p).store.openStep = some n →
          s.dev.curStep = n → s.dev.logicalOf p = some l → l ∉ s.dev.stp.arrived →
        Answers (.stepCommitArrival p) s fun t =>
          (t.dev.tile p).store.commit = .sent n ∧ t.dev.stp.waiting = s.dev.stp.waiting ++ [p]
          ∧ t.dev.stp.arrived = s.dev.stp.arrived ++ [l] ∧ t.dev.stp.state = .opened
          ∧ (∀ q, q ≠ p → t.dev.tile q = s.dev.tile q) ∧ s.OnlyParts t [.tiles, .stp]))
    ∧ (s.dev.mayCommit = false → exec .committing s = .next s)
    ∧ (s.dev.mayCommit = true → s.dev.fget stpCmtgrpEn 0 = 0 → s.dev.ledgerOn = false →
        s.dev.fget stpRecregHandle 0 = 0 → s.dev.stp.waiting = [p] → (s.dev.tile p).store.commit = .sent n →
        Answers .committing s fun t =>
          t.dev.stp.state = .idle ∧ t.dev.fget stpBankSel 0 = (1 - s.dev.fget stpBankSel 0) % 2
          ∧ t.dev.fget stpLastcmtStep 0 = s.dev.curStep % 2 ^ 32
          ∧ t.dev.fget stpNextStep 0 = (s.dev.curStep + 1) % 2 ^ 32
          ∧ (t.dev.tile p).store.commit = .released 0 ∧ t.dev.stp.waiting = []
          ∧ (∀ q, q ≠ p → t.dev.tile q = s.dev.tile q) ∧ s.OnlyParts t [.regs, .evr, .tiles, .stp, .hbx])
    ∧ (s.dev.mayCommit = true → s.dev.fget stpCmtgrpEn 0 = 1 → s.dev.active pCOL 0 = false →
        Answers .committing s fun t => spoiled t 4 0)
    ∧ (s.dev.stp.state = .opened ∧ s.dev.fget stpCmttmoMs 0 ≠ 0 ∧ s.dev.stp.arrived ≠ [] ∧ s.dev.mayCommit = false →
        Answers .cmttmoExpiry s fun t =>
          spoiled t 6 (s.dev.participants.filter (fun l => !s.dev.stp.arrived.contains l)).length)
    ∧ (s.dev.stp.state ≠ .opened ∨ s.dev.fget stpCmttmoMs 0 = 0 ∨ s.dev.stp.arrived = [] ∨ s.dev.mayCommit = true →
        exec .cmttmoExpiry s = .next s)
    ∧ (s.dev.answers = true → s.dev.blockOpen pSTP 0 = true →
      (v % 4 = 1 → s.dev.stp.state = .opened → Answers (.spoil v) s fun t => spoiled t 1 0)
      ∧ (v % 4 = 1 → s.dev.stp.state ≠ .opened → exec (.spoil v) s = .next s)
      ∧ (v % 4 = 2 → s.dev.stp.state = .spoiled → s.dev.participants.all s.dev.quietParticipant = true →
          s.dev.remapping = false → Answers (.ack v) s fun t =>
            t.dev.stp.state = .idle
            ∧ (∀ q, (s.dev.couch q).state = .active → (t.dev.couch q).pushed = 0 ∧ (t.dev.couch q).popped = 0)
            ∧ t.dev.tiles = s.dev.tiles ∧ t.dev.col = s.dev.col ∧ t.dev.syn = s.dev.syn)
      ∧ (v % 4 = 2 → s.dev.stp.state ≠ .spoiled → exec (.ack v) s = .next s))

/-- The posts of a tile to STP, each of which gives its credit back. CQ_PUSH onto a local queue with a free slot
counts and keeps the tag; onto a full one it is an error that spoils the step. CQ_POP of the slot with its tag counts;
of an empty queue it is an error. PHASE keeps a layout for the generation. A malformed value counts in BADPOST and
spoils an open step. CQ_ENABLE in IDLE makes a queue with a region for its ring ACTIVE and empty, and one without it
an error; out of IDLE it changes nothing. Of the model's own: when EN counts as set is read in log entry 56. -/
def Obligations.CouchQueues : Prop :=
  ∀ (s : State) (p v : Nat) (o : Post), p < 68 → s.dev.wout = [] → s.dev.col.events = [] →
    (s.dev.posts = [o] → o.tile = p → o.target = 2 → o.value = v →
      let q := bits v 52 6
      let tag := bits v 32 16
      let x := s.dev.couch q
      let taken (t : State) : Prop := t.dev.posts = []
        ∧ SMap.get 0 2 (t.dev.tile p).store.creditOwed = SMap.get 0 2 (s.dev.tile p).store.creditOwed + 1
      let failed (t : State) (err : Nat) : Prop := (t.dev.couch q).err = err ∧ (t.dev.couch q).pushed = x.pushed
        ∧ (t.dev.couch q).popped = x.popped ∧ t.dev.stp.state = .spoiled ∧ t.dev.stp.cause = 5 ∧ t.dev.stp.causeParam = q
        ∧ t.dev.fget stpCqerrcntCount 0 = satAdd (2 ^ stpCqerrcntCount.width - 1) (s.dev.fget stpCqerrcntCount 0) 1
      (s.dev.stp.state = .opened → s.dev.fget stpCqcfgKind q = 0 → x.state = .active →
        (s.dev.stpPostIs 1 v = true →
          (x.pushed - x.popped < s.dev.cqSlots q → Answers (.cqPush p) s fun t => taken t
            ∧ t.dev.couch q = { x with
                pushed := x.pushed + 1, tags := SMap.put 0 (x.pushed % s.dev.cqSlots q) tag x.tags }
            ∧ (∀ r, r ≠ q → t.dev.couch r = s.dev.couch r) ∧ t.dev.stp.state = .opened)
          ∧ (s.dev.cqSlots q ≤ x.pushed - x.popped → Answers (.cqPush p) s fun t => taken t ∧ failed t 1))
        ∧ (s.dev.stpPostIs 2 v = true →
          (x.popped < x.pushed → SMap.get 0 (x.popped % s.dev.cqSlots q) x.tags = tag → Answers (.cqPop p) s fun t => taken t
            ∧ t.dev.couch q = { x with popped := x.popped + 1 }
            ∧ (∀ r, r ≠ q → t.dev.couch r = s.dev.couch r) ∧ t.dev.stp.state = .opened)
          ∧ (x.pushed ≤ x.popped → Answers (.cqPop p) s fun t => taken t ∧ failed t 3)))
      ∧ (s.dev.stpPostIs 3 v = true → s.dev.stp.phaseLayout = none → Answers (.phase p) s fun t => taken t
          ∧ t.dev.stp = { s.dev.stp with phaseLayout := some (v % 4) } ∧ s.OnlyParts t [.tiles, .posts, .stp])
      ∧ (s.dev.stpPostBad v = true → Answers (.badPost p) s fun t => taken t
          ∧ t.dev.fget stpBadpostCount 0 = satAdd (2 ^ stpBadpostCount.width - 1) (s.dev.fget stpBadpostCount 0) 1
          ∧ (s.dev.stp.state = .opened → t.dev.stp.state = .spoiled ∧ t.dev.stp.cause = 5
              ∧ t.dev.stp.causeParam = 0xFFFFFFFF)
          ∧ (s.dev.stp.state ≠ .opened → s.OnlyParts t [.regs, .tiles, .posts])))
    ∧ (s.dev.answers = true → s.dev.blockOpen pSTP 0 = true → bit v 0 = true →
      let q := s.dev.fget stpCqselQueue 0
      let fits := s.dev.plainRegion (s.dev.fget stpCqregRegion q) (4096 + (bits v 8 8 + 1) * (bits v 16 12 * 4096))
      (s.dev.stp.state ≠ .idle → exec (.cqEnable v) s = .next s)
      ∧ (s.dev.stp.state = .idle → s.dev.fget stpCqcfgEn q ≠ 1 → bits v 1 2 = 0 →
        (bits v 16 12 ≠ 0 → fits = true → Answers (.cqEnable v) s fun t =>
          t.dev.fget stpCqcfgEn q = 1 ∧ t.dev.couch q = { Couch.reset with state := .active }
          ∧ (∀ r, r ≠ q → t.dev.couch r = s.dev.couch r) ∧ t.dev.stp.state = .idle)
        ∧ (bits v 16 12 = 0 ∨ fits = false → Answers (.cqEnable v) s fun t =>
          t.dev.fget stpCqcfgEn q = 0 ∧ t.dev.couch q = { s.dev.couch q with err := 6, state := .off, copies := [] }
          ∧ s.OnlyParts t [.regs, .stp])))

/-- LEDGER_COPY of an open step, once the ledgers' regions answer, ends the wait for the copy; otherwise it changes
nothing. LATE_CONTRIBUTION takes the oldest late contribution, after the copy: one that did not arrive whole, is too
old or finds no ledger or no free slot is counted as dropped and stores nothing; a good one goes to a free slot of the
working ledger and counts for the open step, or, with no step open, to the committed one. Of the model's own: the step
of a late contribution is read in log entry 39. -/
def Obligations.BrokeLedger : Prop :=
  ∀ (s : State) (x : Late) (rest : List Late) (slot : Nat), s.dev.wout = [] →
    (s.dev.stp.state ≠ .opened ∨ s.dev.stp.copyPending = false → exec .ledgerCopy s = .next s)
    ∧ (s.dev.stp.state = .opened → s.dev.stp.copyPending = true →
      (∀ b o n, o + n ≤ 4096 + s.dev.ledgerCap * s.dev.slotBytes → (s.dev.readRegion s.mem (s.dev.ledgerName b) o n).isSome = true) →
      1 ≤ s.dev.slotBytes → Answers .ledgerCopy s fun t => t.dev.stp.copyPending = false)
    ∧ (∀ good, s.dev.stp.late = [] ∨ s.dev.liveStep.isSome = true ∧ s.dev.stp.copyPending = true →
        exec (.lateContribution good) s = .next s)
    ∧ (s.dev.stp.late = x :: rest → s.dev.liveStep = none ∨ s.dev.stp.copyPending = false →
      let working := s.dev.liveStep.isSome
      let tooBig := s.dev.slotBytes < 64 + x.data.length
      let tooOld := s.dev.fget colBrokeMaxage 0 < staleness (s.dev.nextFold x.step) x.step
      let free := (List.range s.dev.ledgerCap).find? (fun i => !(s.dev.liveSlots s.mem working).contains i)
      let dropped (t : State) : Prop := t.dev.stp = { s.dev.stp with late := rest }
        ∧ t.dev.fget stpLedgerdropFull 0 = satAdd (2 ^ stpLedgerdropFull.width - 1) (s.dev.fget stpLedgerdropFull 0) 1
        ∧ t.mem = s.mem ∧ t.pending = s.pending
      (∀ good, good = false ∨ s.dev.ledgerOn = false ∨ tooBig ∨ tooOld → Answers (.lateContribution good) s fun t =>
        dropped t ∧ s.OnlyParts t [.regs, .stp])
      ∧ (s.dev.ledgerOn = true → ¬tooBig → ¬tooOld → free = none → Answers (.lateContribution true) s dropped)
      ∧ (s.dev.ledgerOn = true → ¬tooBig → ¬tooOld → free = some slot →
        (∀ o n, o + n ≤ 4096 + s.dev.ledgerCap * s.dev.slotBytes → (s.dev.readRegion s.mem (s.dev.ledgerName working) o n).isSome = true) →
        Answers (.lateContribution true) s fun t =>
          t.dev.stp = { s.dev.stp with late := rest, lateIn := s.dev.stp.lateIn + b2n working }
          ∧ t.dev.fget stpLedgerdropFull 0 = s.dev.fget stpLedgerdropFull 0 ∧ t.pending = s.pending))

/-- The traffic of a couch queue with its peer, over an OPEN channel and in its order. CQ_DATA writes its bytes into
the ring of a REMOTE_IN queue. CQ_PUSHN of the open step counts as a push and sets the arrival event's TEV bits; of
another step it counts in CQERRCNT and pushes nothing. CQ_POPN counts as a pop on the producing device. Each for a
queue of another configuration is refused and counted. CQ_SLOT_ACKNOWLEDGED queues the push notice of the oldest copied slot. -/
def Obligations.RemoteCouchQueues : Prop :=
  (∀ (s : State) (e c q : Nat) (pk : Packet) (more : List Packet), e < 6 → c < 4096 → s.dev.wout = [] →
    s.dev.col.events = [] → SMap.get [] e s.dev.brezin.inbox = pk :: more → pk.dchan = c → pk.arg % 64 = q →
    s.dev.engineDown e = false → s.dev.phase ≠ .computeReset →
    let x := s.dev.chan e c
    let y := s.dev.couch q
    let taken (t : State) : Prop :=
      t.dev.chan e c = { x.pass with ackOwed := x.ackOwed + 1 }
      ∧ SMap.get [] e t.dev.brezin.inbox = more ∧ t.pending = s.pending
    let refused (t : State) : Prop :=
      (t.dev.chan e c).rxSeq = x.pass.rxSeq ∧ (t.dev.chan e c).state = .opened
      ∧ t.dev.fget bzeRefusecntSent e = satAdd (2 ^ bzeRefusecntSent.width - 1) (s.dev.fget bzeRefusecntSent e) 1
      ∧ t.mem = s.mem
    let event (t : State) (n : Nat) : Prop := ∀ pl b p, s.dev.deckle.placement = some pl → b ∈ pl.man.binds →
      b.kind = 2 → b.src = n → SMap.find b.tile pl.tmap = some p → bit (t.dev.tile p).core.tev b.bit = true
    x.state = .opened → x.pairs pk = true → pk.seq = x.rxSeq → x.ackOwed < 15 →
    (∀ d' same, same = true → pk.op = 0x18 → s.dev.cqTakes q c 2 = true → 4096 ≤ bits pk.arg 16 48 →
      bits pk.arg 16 48 + pk.payload.length ≤ 4096 + s.dev.cqSlots q * s.dev.cqSlotBytes q →
      s.dev.writeRegion (s.dev.fget stpCqregRegion q) (bits pk.arg 16 48) pk.payload (bit pk.flags 6) = some d' →
      Answers (.cqData ⟨e, same⟩) s fun t => taken t ∧ t.dev.stp = s.dev.stp ∧ t.dev.tiles = s.dev.tiles
        ∧ (∀ a b, SMap.find a d'.wout = some b → Memory.read t.mem a = b)
        ∧ (∀ a, SMap.find a d'.wout = none → Memory.read t.mem a = Memory.read s.mem a))
    ∧ (∀ same, pk.op = 0x18 → s.dev.cqTakes q c 2 = false ∨ same = false → Answers (.cqData ⟨e, same⟩) s fun t =>
        refused t ∧ t.dev.stp = s.dev.stp)
    ∧ (pk.op = 0x19 → s.dev.cqTakes q c 2 = true →
      (s.dev.noticeNow pk = true → y.pushed - y.popped < s.dev.cqSlots q → Answers (.cqPushn e) s fun t => taken t
        ∧ t.dev.couch q = { y with
            pushed := y.pushed + 1, tags := SMap.put 0 (y.pushed % s.dev.cqSlots q) (bits pk.arg 16 16) y.tags }
        ∧ (∀ r, r ≠ q → t.dev.couch r = s.dev.couch r) ∧ event t q)
      ∧ (s.dev.noticeNow pk = false → Answers (.cqPushn e) s fun t => taken t ∧ t.dev.stp = s.dev.stp
        ∧ t.dev.fget stpCqerrcntCount 0 = satAdd (2 ^ stpCqerrcntCount.width - 1) (s.dev.fget stpCqerrcntCount 0) 1
        ∧ s.OnlyParts t [.regs, .brezin]))
    ∧ (pk.op = 0x19 → s.dev.cqTakes q c 2 = false → Answers (.cqPushn e) s fun t => refused t ∧ t.dev.stp = s.dev.stp)
    ∧ (pk.op = 0x1A → s.dev.cqTakes q c 1 = false → Answers (.cqPopn e) s fun t => refused t ∧ t.dev.stp = s.dev.stp)
    ∧ (pk.op = 0x1A → s.dev.cqTakes q c 1 = true → s.dev.noticeNow pk = true → y.popped < y.pushed →
        Answers (.cqPopn e) s fun t => taken t ∧ t.dev.couch q = { y with popped := y.popped + 1 }
          ∧ (∀ r, r ≠ q → t.dev.couch r = s.dev.couch r) ∧ event t (64 + q)))
  ∧ ∀ (s : State) (q g k tag : Nat) (rest : List (Nat × Nat)), q < 64 → s.dev.wout = [] → s.dev.col.events = [] →
    let y := s.dev.couch q
    let c := s.dev.fget stpCqregChannel q
    let z := s.dev.chan g c
    (y.copies = [] → exec (.cqSlotAcknowledged q) s = .next s)
    ∧ (y.copies = (k, tag) :: rest → s.dev.holder c = some g → z.state = .opened → s.dev.active pBZE g = true →
      (∀ p ∈ z.queue ++ z.unacked, p.2 ≠ .couch q) → Answers (.cqSlotAcknowledged q) s fun t =>
        t.dev.couch q = { y with copies := rest } ∧ (∀ r, r ≠ q → t.dev.couch r = s.dev.couch r)
        ∧ t.dev.chan g c = { z with
            txSeq := (z.txSeq + 1) % 65536
            queue := z.queue ++ [({
              dst := z.peerId, src := s.dev.devId, op := 0x19, flags := 0, dchan := z.peerChan, schan := c, seq := z.txSeq
              len := 0, arg := s.dev.fget stpCqpeerPeerq q + tag * 2 ^ 16 + s.dev.curStep * 2 ^ 32, payload := [] },
              .couch q)] }
        ∧ s.OnlyParts t [.stp, .brezin])

/-! ### Brezin ports and channels (chapter 12) -/

/-- The states of a port. A training that ends with lanes at both ends makes it UP with the widest set, full credit
and the peer's identity; one that ends with none makes it wait to retry, and after the interval it trains again.
TRAIN_EN and RETRAIN are the host's; lost lane alignment retrains an UP port, as does the 16th uncorrectable codeword
of one window; after LLTMO everything unacknowledged is sent again. Of the model's own: the SEQ after a training is
read in log entry 28. -/
def Obligations.PortStates : Prop :=
  ∀ (s : State) (p v pass peerId peerPort peerSeq : Nat) (w : Bool), p < 18 → s.dev.wout = [] →
    let x := s.dev.port p
    let kept (t : State) : Prop := (∀ q, q ≠ p → t.dev.port q = s.dev.port q) ∧ t.dev.brezin.chans = s.dev.brezin.chans
      ∧ s.OnlyParts t [.regs, .evr, .deckle, .brezin]
    (x.state = .training ∨ x.state = .retraining →
      (∀ wd lanes, laneSet (s.dev.fget bzpCtlMaxwidth p) pass = some (wd, lanes) →
        Answers (.portTraining p pass peerId peerPort peerSeq) s fun t =>
          (t.dev.port p).state = .up ∧ (t.dev.port p).width = wd ∧ (t.dev.port p).lanes = lanes
          ∧ (t.dev.port p).peerId = peerId % 2 ^ 20 ∧ (t.dev.port p).peerPort = peerPort % 32
          ∧ (t.dev.port p).peerValid = true ∧ (t.dev.port p).credit = fullCredit
          ∧ (x.state = .training → (t.dev.port p).txSeq = 0 ∧ (t.dev.port p).rxSeq = 4095 ∧ (t.dev.port p).replay = [])
          ∧ (x.state = .retraining → (t.dev.port p).txSeq = x.txSeq ∧ (t.dev.port p).rxSeq = x.rxSeq)
          ∧ (t.dev.port p).queue = x.queue ∧ kept t)
      ∧ (laneSet (s.dev.fget bzpCtlMaxwidth p) pass = none →
        Answers (.portTraining p pass peerId peerPort peerSeq) s fun t =>
          (t.dev.port p).state = .retryWait ∧ (t.dev.port p).width = 0 ∧ (t.dev.port p).retryMs = s.dev.nextRetry p
          ∧ (t.dev.port p).replay = []
          ∧ t.dev.fget bzpTraincntFail p
            = satAdd (2 ^ bzpTraincntFail.width - 1) (s.dev.fget bzpTraincntFail p) 1))
    ∧ (x.state = .retryWait → Answers (.retryIntervalExpiry p) s fun t =>
        t.dev.port p = { x with state := .training } ∧ kept t)
    ∧ (x.state ≠ .retryWait → exec (.retryIntervalExpiry p) s = .next s)
    ∧ (s.dev.answers = true → s.dev.blockOpen pBZP p = true →
      (bit v 1 = false → bit v 0 = true → x.state = .off → s.dev.active pBZP p = true → Answers (.trainEn p v) s fun t =>
        t.dev.port p = { x with state := .training } ∧ t.dev.fget bzpCtlTrainEn p = 1 ∧ kept t)
      ∧ (bit v 1 = false → bit v 0 = false → Answers (.trainEn p v) s fun t =>
        (t.dev.port p).state = .off ∧ t.dev.fget bzpCtlTrainEn p = 0)
      ∧ (bit v 1 = true → bit v 0 = true → x.state = .up → Answers (.retrain p v) s fun t =>
        t.dev.port p = { x with state := .retraining, width := 0, lanes := 0 } ∧ kept t)
      ∧ (bit v 1 = true → bit v 0 = true → x.state = .retryWait → Answers (.retrain p v) s fun t =>
        t.dev.port p = { x with state := .training } ∧ kept t))
    ∧ (x.state = .up →
      (Answers (.laneAlignmentLost p) s fun t =>
        t.dev.port p = { x with state := .retraining, width := 0, lanes := 0 } ∧ kept t)
      ∧ (Answers (.lltmoExpiry p) s fun t => t.dev.port p = { x with resend := x.replay.length } ∧ kept t)
      ∧ Answers (.fecUncorrectable p w) s fun t =>
        t.dev.fget bzpFecuncCount p = satAdd (2 ^ bzpFecuncCount.width - 1) (s.dev.fget bzpFecuncCount p) 1
        ∧ (t.dev.port p).fecUnc = (if w then 1 else x.fecUnc + 1)
        ∧ (t.dev.port p).state = (if w = false ∧ 15 ≤ x.fecUnc then .retraining else .up) ∧ kept t)
    ∧ (x.state ≠ .up → exec (.laneAlignmentLost p) s = .next s ∧ exec (.lltmoExpiry p) s = .next s)

/-- Frames. A DATA frame with a good CRC and the next SEQ is accepted and owed an acknowledgement; what it carries for
this device goes to its engine, or is counted where it breaks Table 12-3, and what it carries for another goes on with
one less to live, or is dropped and counted. One with a bad CRC or out of order is discarded and asks for a replay
once. An LCF takes in acknowledgement and credit. Both count the codewords that FEC corrected. FRAME_TRANSMIT of an UP
port resends first what it must, counting, and the eighth time retrains; with nothing to send it returns an LCF; with
a frame on a lane that has credit it sends that frame, keeps it for replay and takes one credit. A port that is not UP
takes and sends nothing. Of the model's own: a discarded frame is read in log entry 29. -/
def Obligations.PortFrames : Prop :=
  ∀ (s : State) (p fec : Nat) (bs : List Nat) (w : Bool) (g : Egress) (r : Replay), p < 18 → s.dev.wout = [] →
    let x := s.dev.port p
    let h := ofLE (bs.take 8)
    let vl := bits h 2 2
    let pk := packetOf ((bs.drop 8).take (bs.length - 16))
    let kept (t : State) : Prop := (∀ q, q ≠ p → t.dev.port q = s.dev.port q) ∧ t.dev.brezin.chans = s.dev.brezin.chans
    let counted (t : State) : Prop :=
      t.dev.fget bzpFeccorrCount p = satAdd (2 ^ bzpFeccorrCount.width - 1) (s.dev.fget bzpFeccorrCount p) fec
    let accepted : Port := { x.header h with rxSeq := bits h 4 12, nakSent := false, nak := false, ackOwed := true }
    let inOrder := frameGood bs = true ∧ bits h 0 2 = 1 ∧ bits h 4 12 = (x.rxSeq + 1) % 4096
    let own := pk.dst % 2 ^ 20 = s.dev.devId ∧ s.dev.hasId = true
    (x.state ≠ .up → exec (.dataFrame p ⟨bs, fec⟩) s = .next s ∧ exec (.lcf p ⟨bs, fec⟩) s = .next s
      ∧ exec (.frameTransmit p w) s = .next s)
    ∧ (x.state = .up →
      (frameGood bs = false ∨ bits h 0 2 = 1 ∧ bits h 4 12 ≠ (x.rxSeq + 1) % 4096 → Answers (.dataFrame p ⟨bs, fec⟩) s fun t =>
        t.dev.port p = (if x.nakSent then x else { x with nak := true, nakSent := true }) ∧ kept t ∧ counted t
        ∧ t.dev.brezin.inbox = s.dev.brezin.inbox ∧ s.OnlyParts t [.regs, .brezin])
      ∧ (inOrder → own → Answers (.dataFrame p ⟨bs, fec⟩) s fun t =>
        t.dev.port p = accepted.freeBuffer vl ∧ kept t ∧ counted t
        ∧ (let e := (s.dev.holder pk.dchan).getD (p / 3)
          (packetOk vl pk = true → SMap.get [] e t.dev.brezin.inbox = SMap.get [] e s.dev.brezin.inbox ++ [pk])
          ∧ (packetOk vl pk = false → t.dev.brezin.inbox = s.dev.brezin.inbox
            ∧ t.dev.fget bzeBadpktCount (p / 3)
              = satAdd (2 ^ bzeBadpktCount.width - 1) (s.dev.fget bzeBadpktCount (p / 3)) 1))
        ∧ s.OnlyParts t [.regs, .brezin])
      ∧ (inOrder → ¬own →
        (pk.flags % 64 = 0 → Answers (.dataFrame p ⟨bs, fec⟩) s fun t =>
          t.dev.port p = accepted.freeBuffer vl ∧ kept t ∧ counted t
          ∧ t.dev.fget bzpTtldropTtl p = satAdd (2 ^ bzpTtldropTtl.width - 1) (s.dev.fget bzpTtldropTtl p) 1
          ∧ s.OnlyParts t [.regs, .evr, .brezin])
        ∧ ∀ o, pk.flags % 64 ≠ 0 → s.dev.route pk.dst pk.src pk.dchan = o →
          (∀ q, o = .port q → Answers (.dataFrame p ⟨bs, fec⟩) s fun t => counted t
            ∧ (t.dev.port q).queue = (s.dev.port q).queue ++ [⟨vl, withTtl pk (pk.flags % 64 - 1), some p⟩]
            ∧ (t.dev.port p).rxSeq = (x.rxSeq + 1) % 4096 ∧ s.OnlyParts t [.regs, .brezin])
          ∧ (o = .nowhere → Answers (.dataFrame p ⟨bs, fec⟩) s fun t =>
            t.dev.port p = accepted.freeBuffer vl ∧ kept t ∧ counted t
            ∧ t.dev.fget bzpTtldropNoroute p = satAdd (2 ^ bzpTtldropNoroute.width - 1) (s.dev.fget bzpTtldropNoroute p) 1
            ∧ s.OnlyParts t [.regs, .evr, .brezin]))
      ∧ (frameGood bs = true → bs.length = 16 → bits h 0 2 = 0 → Answers (.lcf p ⟨bs, fec⟩) s fun t =>
        t.dev.port p = x.header h ∧ kept t ∧ counted t ∧ s.OnlyParts t [.regs, .brezin])
      ∧ (frameGood bs = false ∨ bs.length ≠ 16 → Answers (.lcf p ⟨bs, fec⟩) s fun t => counted t ∧ s.OnlyParts t [.regs])
      ∧ (0 < x.resend → x.replay[x.replay.length - x.resend]? = some r → Answers (.frameTransmit p w) s fun t =>
        (t.dev.port p).wire = frameBytes (linkHeader 1 r.vl r.seq x.rxSeq x.nak x.returned) (packetBytes r.packet)
        ∧ (t.dev.port p).resend = x.resend - 1
        ∧ (t.dev.port p).replay = x.replay.set (x.replay.length - x.resend) { r with resent := r.resent + 1 }
        ∧ (t.dev.port p).state = (if r.resent = 7 then .retraining else .up)
        ∧ t.dev.fget bzpReplaycntCount p = satAdd (2 ^ bzpReplaycntCount.width - 1) (s.dev.fget bzpReplaycntCount p) 1
        ∧ bit (t.dev.unit pBZP p).err 0 = true ∧ kept t)
      ∧ (x.resend = 0 → x.queue = [] ∨ 1024 ≤ x.replay.length → Answers (.frameTransmit p w) s fun t =>
        t.dev.port p = { x with
          wire := frameBytes (linkHeader 0 0 0 x.rxSeq x.nak x.returned) []
          nak := false, ackOwed := false, owed := x.owed.map (fun n => n - min n 255) }
        ∧ kept t ∧ s.OnlyParts t [.brezin])
      ∧ (x.resend = 0 → x.queue = [g] → g.vl = 0 → g.from_ = none → x.replay.length < 1024 → 1 ≤ x.credit.getD 0 0 →
        x.txSeq < 4096 → Answers (.frameTransmit p w) s fun t =>
          (t.dev.port p).wire
            = frameBytes (linkHeader 1 0 x.txSeq x.rxSeq x.nak x.returned) (packetBytes g.packet)
          ∧ (t.dev.port p).queue = [] ∧ (t.dev.port p).txSeq = (x.txSeq + 1) % 4096
          ∧ (t.dev.port p).replay = x.replay ++ [⟨x.txSeq, 0, g.packet, 0⟩]
          ∧ (t.dev.port p).credit = x.credit.modify 0 (· - 1) ∧ kept t ∧ s.OnlyParts t [.brezin]))

/-- The states of a channel. An enable of a CLOSED one opens it, or leaves EN 0 with the cause: the channel is in use on
another engine, the device has no ID, or the region may not be mirrored. OPENING sends CH_OPEN again and fails at
OPENTMO; CH_OPEN and CH_OPENACK of its own peer make it OPEN, and a CH_OPEN of another lane is refused; an OPEN one
that is disabled is CLOSING, and closes once nothing is unacknowledged; CH_CLOSE of its peer fails it. Of the model's own: a CH_OPEN that finds no context is
read in log entry 31. -/
def Obligations.ChannelStates : Prop :=
  ∀ (s : State) (e c v : Nat) (late : Bool) (pk : Packet) (more : List Packet), e < 6 → c < 4096 → s.dev.wout = [] →
    s.dev.col = Col.reset → s.dev.stp.couch = [] →
    let x := s.dev.chan e c
    let inbox := SMap.get [] e s.dev.brezin.inbox
    let others (t : State) : Prop := ∀ g k, (g, k) ≠ (e, c) → k < 4096 → t.dev.chan g k = s.dev.chan g k
    (s.dev.answers = true → s.dev.blockOpen pBZE e = true → s.dev.fget bzeChselChannel e = c →
      (bit v 0 = true → x.state = .closed → s.dev.active pBZE e = true →
        (∀ k, k < 6 → (s.dev.chan k c).state = .closed) → s.dev.inUse e < 1024 → s.dev.hasId = true →
        s.dev.mirrorable (bits v 16 12) = true → Answers (.chcfgEn e v) s fun t =>
          (t.dev.chan e c).state = .opening ∧ (t.dev.chan e c).peerId = x.peer ∧ (t.dev.chan e c).peerChan = bits v 4 12
          ∧ (t.dev.chan e c).lreg = bits v 16 12 ∧ (t.dev.chan e c).vl = (if bits v 1 2 = 0 then 2 else bits v 1 2)
          ∧ (t.dev.chan e c).txSeq = 0 ∧ (t.dev.chan e c).rxSeq = 0 ∧ others t)
      ∧ (let busy := (List.range 6).any (fun k => k != e && (s.dev.chan k c).state != .closed)
        ∀ cause, (busy = true ∧ cause = 6 ∨ busy = false ∧ s.dev.inUse e < 1024
            ∧ (s.dev.hasId = false ∧ cause = 8 ∨ s.dev.hasId = true ∧ s.dev.mirrorable (bits v 16 12) = false ∧ cause = 9)) →
          bit v 0 = true → x.state = .closed → s.dev.active pBZE e = true → Answers (.chcfgEn e v) s fun t =>
            (t.dev.chan e c).state = .closed ∧ (t.dev.chan e c).cause = cause ∧ bit (t.dev.chan e c).cfg 0 = false
            ∧ others t)
      ∧ (bit v 0 = false → x.state = .opened → Answers (.chcfgEn e v) s fun t =>
          (t.dev.chan e c).state = .closing ∧ (t.dev.chan e c).queue = x.queue ∧ others t))
    ∧ (x.state = .opening → Answers (.chOpenRetry e c) s fun t =>
        t.dev.chan e c = x ∧ others t ∧ s.OnlyParts t [.regs, .evr, .brezin, .free])
    ∧ (x.state = .opening → Answers (.opentmoExpiry e c) s fun t =>
        (t.dev.chan e c).state = .failed ∧ (t.dev.chan e c).cause = 1 ∧ others t)
    ∧ (x.state ≠ .opening → exec (.opentmoExpiry e c) s = .next s ∧ exec (.chOpenRetry e c) s = .next s)
    ∧ (x.state = .closing → late = true ∨ x.unacked = [] ∧ x.queue = [] → Answers (.closingExpiry e c late) s fun t =>
        t.dev.chan e c = x.closed 0 ∧ others t ∧ s.OnlyParts t [.regs, .evr, .brezin, .free])
    ∧ (inbox = pk :: more → pk.dchan = c → x.pairs pk = true →
      (pk.op = 5 → s.dev.engineDown e = false → x.state = .opening → x.vl = pk.arg % 4 → Answers (.chOpen e) s fun t =>
        t.dev.chan e c = { x with state := .opened } ∧ others t)
      ∧ (pk.op = 5 → s.dev.engineDown e = false → x.state = .opening → x.vl ≠ pk.arg % 4 → Answers (.chOpen e) s fun t =>
        t.dev.chan e c = x ∧ others t
        ∧ t.dev.fget bzeRefusecntSent e = satAdd (2 ^ bzeRefusecntSent.width - 1) (s.dev.fget bzeRefusecntSent e) 1)
      ∧ (pk.op = 5 → s.dev.engineDown e = true → Answers (.chOpen e) s fun t =>
        t.dev.chan e c = x ∧ others t
        ∧ t.dev.fget bzeRefusecntSent e = satAdd (2 ^ bzeRefusecntSent.width - 1) (s.dev.fget bzeRefusecntSent e) 1)
      ∧ (pk.op = 6 → x.state = .opening → Answers (.chOpenack e) s fun t =>
        t.dev.chan e c = { x with state := .opened } ∧ others t ∧ SMap.get [] e t.dev.brezin.inbox = more
        ∧ s.OnlyParts t [.brezin])
      ∧ (pk.op = 7 → x.state = .opened → Answers (.chClose e) s fun t =>
        (t.dev.chan e c).state = .failed ∧ (t.dev.chan e c).cause = 4 ∧ (t.dev.chan e c).queue = [] ∧ others t))

/-- Packets that arrive in a channel's order. A WRITE stores its bytes in the channel's region and nothing else, an
ADD adds to it, and either takes the next SEQ and those refused ahead of it; what the region refuses is answered
BAD_TARGET with the SEQ taken all the same; a packet from behind is counted as a duplicate and performs nothing. An
engine that is down, or a compute reset, refuses every packet, and the SEQ counts as taken. ACK_PACKET releases
everything up to what it acknowledges. REFUSE releases its packet for a reset, and for another reason fails the
channel. STOP and RESUME hold and free the channel they name, and with 0xFFF those of the peer that sends them.
ACK_TIMER sends what it owes. Of the model's own: the answers are read in log entries 75, 77 and 119. -/
def Obligations.ChannelPackets : Prop :=
  ∀ (s : State) (e c : Nat) (pk : Packet) (more : List Packet), e < 6 → c < 4096 → s.dev.wout = [] →
    s.dev.col = Col.reset → s.dev.stp.couch = [] →
    SMap.get [] e s.dev.brezin.inbox = pk :: more → pk.dchan = c →
    let x := s.dev.chan e c
    let others (t : State) : Prop := ∀ g k, (g, k) ≠ (e, c) → k < 4096 → t.dev.chan g k = s.dev.chan g k
    let answered (t : State) : Prop :=
      t.dev.fget bzeRefusecntSent e = satAdd (2 ^ bzeRefusecntSent.width - 1) (s.dev.fget bzeRefusecntSent e) 1
    let took (t : State) : Prop := t.dev.chan e c = { x.pass with ackOwed := x.ackOwed + 1 } ∧ others t
      ∧ SMap.get [] e t.dev.brezin.inbox = more ∧ t.dev.tiles = s.dev.tiles ∧ t.pending = s.pending
    (x.state = .opened → x.pairs pk = true → s.dev.engineDown e = false → s.dev.phase ≠ .computeReset →
      (pk.seq = x.rxSeq → pk.op = 1 → x.ackOwed < 15 →
        (∀ d', s.dev.writeRegion x.lreg pk.arg pk.payload (bit pk.flags 6) = some d' → Answers (.write e) s fun t =>
          took t
          ∧ (∀ a b, SMap.find a d'.wout = some b → Memory.read t.mem a = b)
          ∧ (∀ a, SMap.find a d'.wout = none → Memory.read t.mem a = Memory.read s.mem a))
        ∧ (s.dev.writeRegion x.lreg pk.arg pk.payload (bit pk.flags 6) = none → Answers (.write e) s fun t =>
          (t.dev.chan e c).rxSeq = x.pass.rxSeq ∧ (t.dev.chan e c).state = .opened ∧ others t ∧ answered t
          ∧ t.mem = s.mem))
      ∧ (pk.seq = x.rxSeq → pk.op = 2 → x.ackOwed < 15 → ∀ (f : Format) (n : Nat),
          (bits pk.arg 48 8, f, n) ∈ [(1, Format.binary64, 8), (2, Format.binary32, 4)] →
          (pk.arg % 2 ^ 48 % n = 0 → pk.payload.length % n = 0 →
            (s.dev.readRegion s.mem x.lreg (pk.arg % 2 ^ 48) pk.payload.length).isSome = true →
            Answers (.addPacket e) s fun t =>
              let h := s.dev.resolve x.lreg
              let a := (s.dev.entry h).locate (pk.arg % 2 ^ 48)
              let old := (List.range n).map (fun i => (Memory.read s.mem (a + i)).toNat)
              took t
              ∧ (pk.payload.length = n → a % 64 + n ≤ 64 → s.dev.mirrorOf h (pk.arg % 2 ^ 48) = none → s.dev.cellsAt a = none →
                (∀ i, i < n → Memory.read t.mem (a + i) = (if bit pk.flags 6 || s.dev.lineBad (a / 64)
                  then Memory.read s.mem (a + i)
                  else BitVec.ofNat 8 ((toLE n (addElement f (ofLE old) (ofLE pk.payload))).getD i 0)))
                ∧ ∀ b, b < a ∨ a + n ≤ b → Memory.read t.mem b = Memory.read s.mem b))
          ∧ (pk.arg % 2 ^ 48 % n ≠ 0 ∨ pk.payload.length % n ≠ 0 → Answers (.addPacket e) s fun t =>
            (t.dev.chan e c).rxSeq = x.pass.rxSeq ∧ (t.dev.chan e c).state = .opened ∧ others t ∧ answered t
            ∧ t.mem = s.mem))
      ∧ (pk.op = 1 → pk.seq ≠ x.rxSeq → Answers (.write e) s fun t =>
          t.dev.fget bzeDupcntCount e = satAdd (2 ^ bzeDupcntCount.width - 1) (s.dev.fget bzeDupcntCount e) 1
          ∧ (t.dev.chan e c).rxSeq = x.rxSeq ∧ others t ∧ t.mem = s.mem))
    ∧ (s.dev.engineDown e = true ∨ s.dev.phase = .computeReset →
      let down (t : State) : Prop := answered t ∧ others t ∧ t.mem = s.mem
        ∧ t.dev.chan e c = (if x.state = .opened ∧ x.pairs pk = true then x.passRefused pk.seq else x)
      (pk.op = 1 → Answers (.write e) s down) ∧ (pk.op = 2 → Answers (.addPacket e) s down))
    ∧ (x.state = .opened → x.pairs pk = true → pk.op = 3 → Answers (.ackPacket e) s fun t =>
        (t.dev.chan e c).unacked = x.unacked.filter (fun q => !seqUpTo q.1.seq (pk.arg % 65536))
        ∧ (t.dev.chan e c).state = .opened ∧ (t.dev.chan e c).queue = x.queue ∧ others t)
    ∧ (x.state = .opened → x.pairs pk = true → pk.op = 4 →
      let received (t : State) : Prop :=
        t.dev.fget bzeRefusecntRcvd e = satAdd (2 ^ bzeRefusecntRcvd.width - 1) (s.dev.fget bzeRefusecntRcvd e) 1
      (bits pk.arg 16 8 = 1 → Answers (.refuse e) s fun t => received t
        ∧ (t.dev.chan e c).unacked = x.unacked.filter (fun q => q.1.seq != pk.arg % 65536)
        ∧ (t.dev.chan e c).resetting = true ∧ (t.dev.chan e c).state = .opened)
      ∧ (bits pk.arg 16 8 ≠ 1 → Answers (.refuse e) s fun t => received t
        ∧ (t.dev.chan e c).state = .failed ∧ (t.dev.chan e c).cause = (if bits pk.arg 16 8 = 5 then 4 else 2)))
    ∧ (x.state ≠ .closed → c ≠ 0xFFF ∨ x.peerId = pk.src % 2 ^ 20 →
      (pk.op = 8 → Answers (.stopPacket e) s fun t =>
        t.dev.chan e c = { x with stopped := true } ∧ s.OnlyParts t [.brezin])
      ∧ (pk.op = 9 → Answers (.resumePacket e) s fun t =>
        t.dev.chan e c = { x with stopped := false } ∧ s.OnlyParts t [.brezin]))
    ∧ (0 < x.ackOwed → Answers (.ackTimer e c) s fun t =>
        (t.dev.chan e c).ackOwed = 0 ∧ (t.dev.chan e c).rxSeq = x.rxSeq ∧ others t
        ∧ s.OnlyParts t [.regs, .evr, .brezin, .free])
    ∧ (x.ackOwed = 0 → exec (.ackTimer e c) s = .next s)

/-- What a channel sends. MIRRORED_WRITE puts the next packet of a DMA on its OPEN channel with the channel's next
SEQ; it waits for room in the packet buffer, and a channel that is not OPEN, or an engine that is down, takes it off
the DMA. SLICE sends one packet of a ready channel of its lane, which then waits for its acknowledgement, or one again
that waits. CHRTO_EXPIRY sends everything unacknowledged again, and fails the channel at the fourth without progress.
CHFLUSH is done at once where nothing is held. Of the model's own: what the packet buffer counts is the choice of log
entry 69. -/
def Obligations.ChannelSends : Prop :=
  ∀ (s : State) (e c v p tag vl place : Nat) (q : Dma) (pk : Packet) (o : Owner) (more : List (Nat × Packet))
      (rest : List (Packet × Owner)), e < 6 → c < 4096 → p < 68 → s.dev.wout = [] → s.dev.col = Col.reset →
    s.dev.stp.couch = [] →
    let x := s.dev.chan e c
    let others (t : State) : Prop := ∀ g k, (g, k) ≠ (e, c) → k < 4096 → t.dev.chan g k = s.dev.chan g k
    -- the packet is on its way: on the port that the router names
    let routed (t : State) (y : Packet) : Prop := ∀ g, s.dev.route y.dst y.src y.dchan = .port g →
      (t.dev.port g).queue = (s.dev.port g).queue ++ [⟨vl, withTtl y (s.dev.fget bzeTtlInit 0), none⟩]
    (SMap.find tag (s.dev.tile p).store.dmas = none ∨ SMap.find tag (s.dev.tile p).store.dmas = some q ∧ q.mirror = [] →
        exec (.mirroredWrite p tag) s = .next s)
    ∧ (SMap.find tag (s.dev.tile p).store.dmas = some q → q.tag = tag → q.mirror = (chanKey e c, pk) :: more →
      let room := s.dev.bufferUse e + 24 + pk.payload.length ≤ engineBuffer
      let off (t : State) (st : Nat) : Prop :=
        SMap.find tag (t.dev.tile p).store.dmas = some { q with mirror := more, status := st } ∧ s.OnlyTile t p
      (s.dev.active pBZE e = false → Answers (.mirroredWrite p tag) s fun t => off t (worse q.status 3))
      ∧ (s.dev.active pBZE e = true → x.state ≠ .opened → Answers (.mirroredWrite p tag) s fun t => off t q.status)
      ∧ (s.dev.active pBZE e = true → x.state = .opened → ¬room → exec (.mirroredWrite p tag) s = .next s)
      ∧ (s.dev.active pBZE e = true → x.state = .opened → room → Answers (.mirroredWrite p tag) s fun t =>
        (∃ pk', (t.dev.chan e c).queue = x.queue ++ [(pk', .tile p q.seq)] ∧ pk'.seq = x.txSeq ∧ pk'.payload = pk.payload
          ∧ pk'.arg = pk.arg ∧ pk'.op = pk.op ∧ pk'.dst = x.peerId ∧ pk'.dchan = x.peerChan)
        ∧ (t.dev.chan e c).txSeq = (x.txSeq + 1) % 65536
        ∧ SMap.find tag (t.dev.tile p).store.dmas = some { q with mirror := more } ∧ others t
        ∧ (∀ g, g ≠ p → t.dev.tile g = s.dev.tile g) ∧ s.OnlyParts t [.tiles, .brezin]))
    ∧ (s.dev.brezin.chans = [(chanKey e c, x)] → x.state = .opened → x.stopped = false → x.vl = vl →
      (s.dev.route x.peerId s.dev.devId x.peerChan).place = place →
      (x.again = 0 → x.unacked.length < 256 → x.queue = (pk, o) :: rest → Answers (.slice e vl place) s fun t =>
        (t.dev.chan e c).queue = rest ∧ (t.dev.chan e c).unacked = x.unacked ++ [(pk, o)]
        ∧ (t.dev.chan e c).txSeq = x.txSeq ∧ others t ∧ routed t pk ∧ s.OnlyParts t [.regs, .evr, .brezin, .free])
      ∧ (0 < x.again → x.unacked[x.unacked.length - x.again]? = some (pk, o) → Answers (.slice e vl place) s fun t =>
        t.dev.chan e c = { x with again := x.again - 1 } ∧ others t ∧ routed t pk
        ∧ s.OnlyParts t [.regs, .evr, .brezin, .free]))
    ∧ (s.dev.brezin.chans = [] → exec (.slice e vl place) s = .next s)
    ∧ (x.state = .opened ∨ x.state = .closing → x.unacked ≠ [] →
      (x.timeouts < 3 → Answers (.chrtoExpiry e c) s fun t =>
        t.dev.chan e c = { x with timeouts := x.timeouts + 1, again := x.unacked.length } ∧ others t
        ∧ t.dev.fget bzeRetxcntCount e
          = satAdd (2 ^ bzeRetxcntCount.width - 1) (s.dev.fget bzeRetxcntCount e) x.unacked.length
        ∧ s.OnlyParts t [.regs, .brezin])
      ∧ (3 ≤ x.timeouts → Answers (.chrtoExpiry e c) s fun t =>
        (t.dev.chan e c).state = .failed ∧ (t.dev.chan e c).cause = 3 ∧ (t.dev.chan e c).unacked = []
        ∧ (t.dev.chan e c).queue = [] ∧ others t))
    ∧ (x.unacked = [] → exec (.chrtoExpiry e c) s = .next s)
    ∧ (s.dev.answers = true → s.dev.blockOpen pBZE e = true → s.dev.fget bzeChselChannel e = c → bit v 0 = true →
      (x.state = .opened ∨ x.state = .closing →
        (x.unacked = [] → x.queue = [] → Answers (.chflush e v) s fun t =>
          t.dev.chan e c = { x with flushed := true, flushTo := none } ∧ others t ∧ s.OnlyParts t [.brezin])
        ∧ (∀ l, (x.unacked ++ x.queue) = l ++ [(pk, o)] → pk.seq = (x.txSeq + 65535) % 65536 → Answers (.chflush e v) s fun t =>
          t.dev.chan e c = { x with flushed := false, flushTo := some pk.seq } ∧ others t ∧ s.OnlyParts t [.brezin]))
      ∧ (x.state ≠ .opened → x.state ≠ .closing → Answers (.chflush e v) s fun t =>
        t.dev.chan e c = { x with flushed := false } ∧ others t ∧ s.OnlyParts t [.brezin]))

/-! ### Collectives (chapter 13) -/

/-- Collective packets that arrive in their channel's order for the one active instance, which is not STP's vote.
COL_BEGIN with the instance's digest opens a transfer, and with another one aborts with DESC_MISMATCH. COL_DATA puts
its bytes at their offset. COL_END closes the transfer, and one whose CRC-64 does not hold counts in CRCERR and aborts
with CRC_MISMATCH. COL_VOTE counts its sender. COL_DECIDE commits. COL_ABORT goes up once, and rank 0 adopts it.
COL_EXCL from below adds its exclusion. COL_GRANT sends the move that it names. Of the model's own: corners are read
in log entries 36 and 78. -/
def Obligations.CollectivePackets : Prop :=
  ∀ (s : State) (e c : Nat) (pk : Packet) (more : List Packet) (i : Inst) (y : Xfer) (mv : MoveOut) (bs : List Nat),
    e < 6 → c < 4096 → s.dev.wout = [] → s.dev.stp.couch = [] → s.dev.active pCOL 0 = true →
    SMap.get [] e s.dev.brezin.inbox = pk :: more → pk.dchan = c → (s.dev.chan e c).state = .opened →
    (s.dev.chan e c).pairs pk = true → pk.seq = (s.dev.chan e c).rxSeq → (s.dev.chan e c).ackOwed < 15 →
    s.dev.engineDown e = false → s.dev.phase ≠ .computeReset → s.dev.col.insts = [i] → s.dev.col.events = [] →
    i.abort = none → i.step = none → i.desc < 1024 → bit pk.flags 6 = false →
    let f (o n : Nat) : Nat := ofLE ((pk.payload.drop o).take n)
    let control := 16 ≤ pk.payload.length ∧ pk.payload.getD 14 0 = 0 ∧ pk.payload.getD 15 0 = 0
    let each (t : State) (P : Inst → Prop) : Prop := ∀ j ∈ t.dev.col.insts, j.desc = i.desc → P j
    (pk.op = 0x10 → s.dev.colFind e c pk.payload true = .active i.desc → 16 ≤ pk.payload.length →
      (f 24 4 = i.digest → f 14 1 ≠ 4 → Answers (.colBegin e) s fun t =>
        ∃ z, t.dev.col.insts = [{ i with inc := i.inc ++ [z] }] ∧ z.rank = senderRank pk ∧ z.chan = chanKey e c
          ∧ z.xfer = pk.arg % 65536 ∧ z.kind = f 14 1 ∧ z.chunk = f 16 4 ∧ z.bytes = f 20 4 ∧ z.data = [])
      ∧ (f 24 4 ≠ i.digest → 1 < i.n → i.rank ≠ 0 → Answers (.colBegin e) s fun t =>
        t.dev.col.insts = [{ i with abort := some ⟨0x08, senderRank pk, noChunk, i.rank⟩ }]))
    ∧ (pk.op = 0x11 → s.dev.openXfer (chanKey e c) (pk.arg % 65536) = some (i, y) → Answers (.colData e) s fun t =>
        t.dev.col.insts = [{ i with inc := i.inc.map (fun z => if z = y then { y with
          data := y.data.take (bits pk.arg 16 32) ++ List.replicate (bits pk.arg 16 32 - y.data.length) 0 ++ pk.payload } else z) }])
    ∧ (pk.op = 0x11 → s.dev.openXfer (chanKey e c) (pk.arg % 65536) = none → Answers (.colData e) s fun t =>
        t.dev.col = s.dev.col
        ∧ t.dev.fget colBadpktCount 0 = satAdd (2 ^ 32 - 1) (s.dev.fget colBadpktCount 0) 1)
    ∧ (pk.op = 0x12 → s.dev.openXfer (chanKey e c) (pk.arg % 65536) = some (i, y) →
      (crc64 y.data ≠ f 0 8 → 1 < i.n → i.rank ≠ 0 → Answers (.colEnd e) s fun t =>
        t.dev.col.insts = [{ i with
          inc := i.inc.filter (fun z => z != y), abort := some ⟨0x01, y.rank, y.chunk, i.rank⟩ }]
        ∧ t.dev.fget colCrcerrCount 0 = satAdd (2 ^ 32 - 1) (s.dev.fget colCrcerrCount 0) 1)
      ∧ (crc64 y.data = f 0 8 → y.data.length = y.bytes → i.inc = [y] → Answers (.colEnd e) s fun t =>
        each t (fun j => j.inc = []) ∧ t.dev.fget colCrcerrCount 0 = s.dev.fget colCrcerrCount 0))
    ∧ (pk.op = 0x13 → control → s.dev.colFind e c pk.payload true = .active i.desc → Answers (.colVote e) s fun t =>
        each t (fun j => senderRank pk ∈ j.votes))
    ∧ (pk.op = 0x14 → control → s.dev.colFind e c pk.payload false = .active i.desc → pk.payload.getD 16 0 = 0 →
        Answers (.colDecide e) s fun t =>
          t.dev.col.insts = [] ∧ (∃ g ∈ t.dev.col.finished, g.desc = i.desc ∧ g.colid = i.colid ∧ g.abort = none)
          ∧ t.dev.fget colCommitcntCount 0 = satAdd (2 ^ 32 - 1) (s.dev.fget colCommitcntCount 0) 1)
    ∧ (pk.op = 0x15 → control → s.dev.colFind e c pk.payload false = .active i.desc → i.abortSeen = false →
      ((i.parent 0 i.rank).isSome = true → Answers (.colAbort e) s fun t =>
        t.dev.col.insts = [{ i with abortSeen := true }])
      ∧ (i.parent 0 i.rank = none → Answers (.colAbort e) s fun t =>
        t.dev.col.insts = [] ∧ (∃ g ∈ t.dev.col.finished, g.desc = i.desc ∧ g.abort = some (abortOf pk))
        ∧ t.dev.fget colAbortcntCount 0 = satAdd (2 ^ 32 - 1) (s.dev.fget colAbortcntCount 0) 1))
    ∧ (pk.op = 0x16 → control → s.dev.colFind e c pk.payload false = .active i.desc →
        (i.parent 0 i.rank).any (fun r => (i.members.getD r ⟨0xFFFFFFFF, 0⟩).devid == (s.dev.chan e c).peerId) = false →
        Answers (.colExcl e) s fun t => each t (fun j => (f 16 4, senderRank pk) ∈ j.excl))
    ∧ (pk.op = 0x17 → control → s.dev.colFind e c pk.payload true = .active i.desc → i.moves = [mv] → i.movesBegun = true →
        mv.xfer = pk.arg % 65536 → mv.rank = senderRank pk → mv.rank ≠ i.rank → mv.staged = some bs →
        Answers (.colGrant e) s fun t => each t (fun j => j.moves = []))

/-- What drives an instance from this device, which has only the one and no vote. READY counts its bucket, ABORT
aborts with DRIVER_ABORT, a malformed POST counts in BADPOST, and each gives its credit back. COL_LAUNCH takes the
same values from the host; while COL is down it ends UNIT_DISABLED, and a READY is discarded. SOFT_DEADLINE of a BROKE
instance excludes each bucket that is not ready. COL_TMO_EXPIRY aborts with TIMEOUT, and ends an instance that had
aborted NOT_AGREED. HOSTABORT and COLABORT abort every instance of a COLID with HOST_ABORT. Of the model's own: a
READY without a descriptor is the choice of log entry 35, a malformed value is read in 57. -/
def Obligations.CollectiveControl : Prop :=
  (∀ (s : State) (p v q : Nat) (o : Post) (i : Inst) (a : AbortRec) (c : HostCmd) (rest : List HostCmd), p < 68 → q < 64 →
    s.dev.wout = [] → s.dev.active pCOL 0 = true → s.dev.col.insts = [i] → s.dev.col.events = [] → i.step = none →
    i.desc < 1024 →
    let b := v % 2 ^ 16
    let each (t : State) (P : Inst → Prop) : Prop := ∀ j ∈ t.dev.col.insts, j.desc = i.desc → P j
    let aborts (t : State) (code rank : Nat) : Prop :=
      t.dev.col.insts = [{ i with abort := some ⟨code, rank, noChunk, i.rank⟩ }]
    let taken (t : State) : Prop := t.dev.posts = []
      ∧ SMap.get 0 1 (t.dev.tile p).store.creditOwed = SMap.get 0 1 (s.dev.tile p).store.creditOwed + 1
    (s.dev.posts = [o] → o.tile = p → o.target = 1 → o.value = v → o.step = none →
      (colPostBad v = true → Answers (.ready p) s fun t => taken t ∧ t.dev.col = s.dev.col
          ∧ t.dev.fget colBadpostCount 0 = satAdd 0xFFFF (s.dev.fget colBadpostCount 0) 1)
      ∧ (colPostBad v = false → bits v 50 10 = i.desc → i.abort = none →
        (bits v 60 4 = 1 → Answers (.ready p) s fun t => taken t
            ∧ each t (fun j => SMap.get 0 b j.ready = SMap.get 0 b i.ready + 1))
        ∧ (bits v 60 4 = 2 → 1 < i.n → i.rank ≠ 0 → Answers (.abort p) s fun t => taken t ∧ aborts t 0x0C i.rank)))
    ∧ (s.dev.Front q 7 c rest → c.f 8 8 = v →
      (colPostBad v = true → Answers (.colLaunch q) s fun t =>
        s.dev.Completes t.dev q c rest 2 8 0 ∧ t.dev.col = s.dev.col)
      ∧ (colPostBad v = false → bits v 60 4 = 1 → bits v 50 10 = i.desc → i.abort = none → Answers (.colLaunch q) s fun t =>
        (t.dev.sq q).fetched = rest ∧ t.dev.fget hbxBadcmdCount 0 = s.dev.fget hbxBadcmdCount 0
        ∧ each t (fun j => SMap.get 0 b j.ready = SMap.get 0 b i.ready + 1)))
    ∧ (i.flag 1 = true → i.softDone = false → i.abort = none → s.dev.markReached (i.start + i.f 44 2) = true →
        Answers (.softDeadline i.desc) s fun t =>
          each t (fun j => j.softDone = true ∧ ∀ k, k < i.nbucket → i.isReady k = false → (k, i.rank) ∈ j.excl))
    ∧ (i.softDone = true → exec (.softDeadline i.desc) s = .next s)
    ∧ (i.abort = none → 1 < i.n → i.rank ≠ 0 →
      (Answers (.colTmoExpiry i.desc) s fun t => aborts t 0x03 i.awaited)
      ∧ (s.dev.answers = true → s.dev.blockOpen pCOL 0 = true → v < 2 ^ 32 → i.colid = v →
        (Answers (.hostabort v) s fun t => aborts t 0x0B i.rank)
        ∧ Answers (.colabort v) s fun t =>
            aborts t 0x0B i.rank ∧ t.dev.pci.urgCount = (s.dev.pci.urgCount + 1) % 2 ^ 32))
    ∧ (s.dev.answers = true → v < 2 ^ 32 → i.colid ≠ v → exec (.hostabort v) s = .next s)
    ∧ (i.abort = some a → Answers (.colTmoExpiry i.desc) s fun t =>
        t.dev.col.insts = [] ∧ (∃ g ∈ t.dev.col.finished, g.desc = i.desc ∧ g.abort = some a)
        ∧ t.dev.fget colLasterrNotAgreed 0 = 1
        ∧ t.dev.fget colAbortcntCount 0 = satAdd (2 ^ 32 - 1) (s.dev.fget colAbortcntCount 0) 1))
  ∧ ∀ (s : State) (p q : Nat) (o : Post) (c : HostCmd) (rest : List HostCmd), p < 68 → q < 64 → s.dev.wout = [] →
    s.dev.active pCOL 0 = false →
    (s.dev.Front q 7 c rest → Answers (.colLaunch q) s fun t =>
      s.dev.Completes t.dev q c rest 5 0 0 ∧ s.OnlyParts t [.regs, .evr, .hbx])
    ∧ (s.dev.posts = [o] → o.tile = p → o.target = 1 →
      (colPostBad o.value || bits o.value 60 4 == 1) = true → Answers (.ready p) s fun t =>
        t.dev.posts = [] ∧ SMap.get 0 1 (t.dev.tile p).store.creditOwed = SMap.get 0 1 (s.dev.tile p).store.creditOwed + 1
        ∧ s.OnlyParts t [.tiles, .posts])

/-! ### The host interface (chapter 14) -/

/-- The window of BAR 4, from event 7 of the power-on sequence. BAR4_READ of an ACTIVE stack whose cells are as they were
written answers with its bytes, with EP where a line is poisoned, and charges the row; a line whose cells have changed is
answered corrected, or with EP and poisoned where the error is detected. Of a FAILED stack, or one that is not ACTIVE, it
answers with ones and EP, and WINERR holds it. BAR4_WRITE of one line's bytes or fewer stores them; into a FAILED stack or
one that is not ACTIVE it is discarded. WIN_WRITE_DISCARD sets WINERR.OVERFLOW. Of the model's own: that an access lands at
once is the choice of log entry 71. -/
def Obligations.HostWindow : Prop :=
  ∀ (s : State) (o : Nat) (bs : List Nat) (ecc : Ecc), s.dev.wout = [] → ecc.errs = [] → rowOk ecc.row = true →
    7 ≤ s.dev.bootEvent →
    let n := bs.length
    let a := s.dev.winAddr o
    let st := stackOf a
    let x := s.dev.stack st
    let failed := s.dev.fget stkStatHealth st = 3
    let captured (t : State) : Prop := t.dev.fget pciWinerrValid 0 = 1
      ∧ (s.dev.fget pciWinerrValid 0 ≠ 1 →
          t.dev.fget pciWinerraddrLoAddr 0 = a % 2 ^ 32 ∧ t.dev.fget pciWinerraddrHiAddr 0 = bits a 32 10)
    let charged (t : State) : Prop := t.dev.stack st = { x with acts := SMap.modify 0 ecc.row (· + 1) x.acts }
      ∧ ∀ k, k ≠ st → t.dev.stack k = s.dev.stack k
    s.dev.winOk o n = true →
    (¬failed → s.dev.active pSTK st = true → x.cells = [] →
      (s.dev.bytesBad a n = false → Answers (.bar4Read o n ecc) s fun t =>
        t.dev.pci = { s.dev.pci with reply := .window ((List.range n).map (fun i => (Memory.read s.mem (a + i)).toNat)) false }
        ∧ charged t ∧ s.OnlyParts t [.stks, .pci])
      ∧ (s.dev.bytesBad a n = true → Answers (.bar4Read o n ecc) s fun t =>
        t.dev.pci = { s.dev.pci with reply := .window ((List.range n).map (fun i => (Memory.read s.mem (a + i)).toNat)) true }
        ∧ t.dev.fget pciWinerrPoison 0 = 1 ∧ captured t ∧ charged t ∧ s.OnlyParts t [.regs, .evr, .stks, .pci, .free])
      ∧ (a / 64 = (a + n - 1) / 64 → Answers (.bar4Write o bs ecc) s fun t =>
        (∀ i, i < n → Memory.read t.mem (a + i) = BitVec.ofNat 8 (bs.getD i 0))
        ∧ (∀ b, b < a ∨ a + n ≤ b → Memory.read t.mem b = Memory.read s.mem b)
        ∧ charged t ∧ s.dev.OnlyChanges t.dev [.regs, .units, .evr, .stks, .linePoison, .pci] ∧ t.pending = s.pending))
    ∧ (¬failed → s.dev.active pSTK st = true → ∀ c, s.dev.cellsAt a = some c → a / 64 = (a + n - 1) / 64 →
      let shown (data : List Nat) : List Nat := (data.drop (a % 64)).take n
      let found := decodeLine (s.dev.fget stkEccctlTcorr st) c.errs
      (found = .detected → Answers (.bar4Read o n ecc) s fun t =>
        t.dev.pci.reply = .window (shown (changeLine c.data c.errs)) true ∧ t.dev.fget pciWinerrPoison 0 = 1
        ∧ t.dev.lineBad (a / 64) = true ∧ t.mem = s.mem
        ∧ t.dev.fget stkUecntCount st = satAdd (2 ^ 32 - 1) (s.dev.fget stkUecntCount st) 1)
      ∧ ∀ m change, found = .corrected m change → m ≠ 0 → s.dev.lineBad (a / 64) = false →
        Answers (.bar4Read o n ecc) s fun t =>
          t.dev.pci.reply = .window (shown (changeLine c.data change)) false ∧ t.mem = s.mem
          ∧ t.dev.fget stkCecntCount st = satAdd (2 ^ 32 - 1) (s.dev.fget stkCecntCount st) 1)
    ∧ (failed ∨ s.dev.active pSTK st = false →
      (Answers (.bar4Read o n ecc) s fun t =>
        t.dev.pci = { s.dev.pci with reply := .window (List.replicate n 0xFF) true } ∧ captured t
        ∧ s.OnlyParts t [.regs, .evr, .pci, .free])
      ∧ Answers (.bar4Write o bs ecc) s fun t => captured t
        ∧ (failed → t.dev.fget pciWinerrFailed 0 = 1) ∧ (¬failed → t.dev.fget pciWinerrDisabled 0 = 1)
        ∧ s.OnlyParts t [.regs, .evr])
    ∧ (Answers (.winWriteDiscard o n) s fun t =>
        t.dev.fget pciWinerrOverflow 0 = 1 ∧ captured t ∧ s.OnlyParts t [.regs, .evr])

/-- The doorbells and the rings. A tail doorbell of an enabled SQ moves its tail, and a head doorbell that passes no
entry not yet written moves the head; any other counts in BADCMD and moves nothing. A host event doorbell sets the TEV
bits bound to it. RING_ENABLE of a ring that was disabled empties it. COMMAND_FETCH takes the command at the head; one
whose fetch failed completes FETCH_ERROR. COMPLETION_WRITE writes the oldest waiting entry with the phase of its CQ,
and signals the vector where every entry is signalled. MSIX_SIGNAL signals a CQ with entries not yet signalled. Of the
model's own: a full CQ is read in log entry 21. -/
def Obligations.HostRings : Prop :=
  ∀ (s : State) (q v : Nat) (bytes : List Nat) (bad : Bool) (e : CqEntry) (rest : List CqEntry), s.dev.wout = [] →
    let x := s.dev.sq q
    let y := s.dev.cq q
    let n := s.dev.cqSize q
    let h := v % 2 ^ 16
    let badBell (t : State) : Prop :=
      t.dev.fget hbxBadcmdCount 0 = satAdd (2 ^ 32 - 1) (s.dev.fget hbxBadcmdCount 0) 1 ∧ t.dev.hbx = s.dev.hbx
      ∧ s.OnlyParts t [.regs, .pci]
    let signalled (t : State) (k : Nat) : Prop :=
      (bit (s.dev.msixWord (4 * k + 3)) 0 = false → t.dev.pci.msixSent = s.dev.pci.msixSent ++ [k]
        ∧ t.dev.pci.pba = s.dev.pci.pba)
      ∧ (bit (s.dev.msixWord (4 * k + 3)) 0 = true → t.dev.pci.pba = s.dev.pci.pba ||| 2 ^ k
        ∧ t.dev.pci.msixSent = s.dev.pci.msixSent)
    (q < 64 → s.dev.answers = true →
      (s.dev.fbit hbxSqcfgEn q = true → h < s.dev.sqSize q → Answers (.sqTailDoorbell q v) s fun t =>
        t.dev.sq q = { x with tail := h } ∧ (∀ r, r ≠ q → t.dev.sq r = s.dev.sq r)
        ∧ t.dev.pci = { s.dev.pci with doorbells := SMap.put 0 (8 * q) v s.dev.pci.doorbells } ∧ s.OnlyParts t [.hbx, .pci])
      ∧ (s.dev.fbit hbxSqcfgEn q = false ∨ s.dev.sqSize q ≤ h → Answers (.sqTailDoorbell q v) s badBell)
      ∧ (h < n → (h + n - y.head % n) % n ≤ (y.tail + n - y.head % n) % n → Answers (.cqHeadDoorbell q v) s fun t =>
        t.dev.cq q = { y with head := h, resignal := h != y.tail } ∧ (∀ r, r ≠ q → t.dev.cq r = s.dev.cq r)
        ∧ s.OnlyParts t [.hbx, .pci])
      ∧ (n ≤ h ∨ (y.tail + n - y.head % n) % n < (h + n - y.head % n) % n → Answers (.cqHeadDoorbell q v) s badBell))
    ∧ (∀ k pl, k < 512 → s.dev.answers = true → s.dev.deckle.placement = some pl → Answers (.hostEventDoorbell k v) s fun t =>
        (∀ b p, b ∈ pl.man.binds → b.kind = 0 → b.src = k → SMap.find b.tile pl.tmap = some p →
          bit (t.dev.tile p).core.tev b.bit = true)
        ∧ ((∀ b ∈ pl.man.binds, b.kind = 0 → b.src ≠ k) → t.dev.tiles = s.dev.tiles)
        ∧ s.OnlyParts t [.tiles, .pci])
    ∧ (q = s.dev.fget hbxRingselRing 0 → s.dev.answers = true → s.dev.blockOpen pHBX 0 = true → bit v 0 = true →
      (s.dev.fget hbxSqcfgEn q = 0 → Answers (.ringEnable false v) s fun t =>
        t.dev.sq q = { x with head := 0, tail := 0 } ∧ (∀ r, r ≠ q → t.dev.sq r = s.dev.sq r)
        ∧ t.dev.fget hbxSqcfgEn q = 1 ∧ t.dev.fget hbxSqcfgCq q = bits v 8 6
        ∧ t.dev.fget hbxSqcfgLog2size q = max 4 (bits v 1 4) ∧ s.OnlyParts t [.regs, .hbx])
      ∧ (s.dev.fget hbxCqcfgEn q = 0 → Answers (.ringEnable true v) s fun t =>
        t.dev.cq q = Cq.reset ∧ (∀ r, r ≠ q → t.dev.cq r = s.dev.cq r)
        ∧ t.dev.fget hbxCqcfgEn q = 1 ∧ t.dev.fget hbxCqcfgVector q = bits v 8 8 ∧ t.dev.fget hbxCqcfgCoalcnt q = bits v 16 8
        ∧ t.dev.fget hbxCqcfgLog2size q = max 4 (bits v 1 4) ∧ s.OnlyParts t [.regs, .hbx]))
    ∧ (q < 64 → s.dev.phase = .ready ∨ s.dev.phase = .degraded ∨ s.dev.phase = .computeReset →
      s.dev.fbit hbxSqcfgEn q = true → bit s.dev.hbx.sqStop q = false → x.head ≠ x.tail → x.fetched = [] →
      bytes.length = 64 →
      let f (o k : Nat) : Nat := ofLE ((bytes.drop o).take k)
      let c : HostCmd :=
        { sq := q, op := f 0 1, fence := bit (f 1 1) 0, quiet := bit (f 1 1) 1, cid := f 2 2, bytes := bytes
          error := if bad then some (8, 0) else none }
      (s.dev.cmdRefusal c = none ∨ s.dev.mayStart q c = false → Answers (.commandFetch q bytes bad) s fun t =>
        t.dev.sq q = { x with head := (x.head + 1) % s.dev.sqSize q, fetched := [c] }
        ∧ (∀ r, r ≠ q → t.dev.sq r = s.dev.sq r) ∧ s.OnlyParts t [.hbx])
      ∧ (bad = true → s.dev.mayStart q c = true → Answers (.commandFetch q bytes bad) s fun t =>
        (t.dev.sq q).head = (x.head + 1) % s.dev.sqSize q ∧ (t.dev.sq q).fetched = []
        ∧ s.dev.Posts t.dev q c 8 0 0 ∧ s.OnlyParts t [.regs, .evr, .hbx]))
    ∧ (q < 64 → s.dev.fbit hbxCqcfgEn q = true → y.waiting = e :: rest → s.dev.cqRoom q = true →
      s.dev.fget hbxCqcfgCoalcnt q ≤ 1 → Answers (.completionWrite q) s fun t =>
        let tail := (y.tail + 1) % n
        t.dev.cq q = { y with
          tail := tail, phase := if tail = 0 then 1 - y.phase else y.phase, waiting := rest, unsignalled := 0 }
        ∧ (∀ r, r ≠ q → t.dev.cq r = s.dev.cq r)
        ∧ (∀ i, i < 32 → SMap.find (s.dev.cqBase q + 32 * y.tail + i) t.dev.pci.hostMem = some ((e.bytes y.phase).getD i 0))
        ∧ (∀ a, a < s.dev.cqBase q + 32 * y.tail ∨ s.dev.cqBase q + 32 * y.tail + 32 ≤ a →
            SMap.find a t.dev.pci.hostMem = SMap.find a s.dev.pci.hostMem)
        ∧ signalled t (s.dev.fget hbxCqcfgVector q) ∧ s.OnlyParts t [.hbx, .pci])
    ∧ (q < 64 → s.dev.fbit hbxCqcfgEn q = true → 0 < y.unsignalled ∨ y.resignal = true → Answers (.msixSignal q) s fun t =>
        t.dev.cq q = { y with unsignalled := 0, resignal := false } ∧ signalled t (s.dev.fget hbxCqcfgVector q)
        ∧ s.OnlyParts t [.hbx, .pci])

/-- Commands that start at the front of their SQ. NOP completes OK. PROG_LOAD reads its image into the program store
of the tile that carries the logical tile, and Deckle keeps the load; it ends NOT_PLACED with no such tile, NOT_READY
while the tile issues, and REGION_FAILED where the region does not answer. TILE_START of one tile writes ENTRY and
NMODE and starts it, or ends NOT_READY; TILE_STOP halts it. Of the model's own: corners are read in log entry 85. -/
def Obligations.HostCommands : Prop :=
  ∀ (s : State) (q l p : Nat) (c : HostCmd) (rest : List HostCmd), q < 64 → s.dev.wout = [] →
    let T := s.dev.tile p
    let ends (t : State) (status : Nat) : Prop :=
      s.dev.Completes t.dev q c rest status 0 0 ∧ s.OnlyParts t [.regs, .evr, .hbx]
    let others (t : State) : Prop := ∀ r, r ≠ p → t.dev.tile r = s.dev.tile r
    (s.dev.Front q 0 c rest → Answers (.nopCommand q) s fun t => ends t 0)
    ∧ (s.dev.Front q 1 c rest → c.f 8 1 = l →
      (s.dev.carrier l = none → Answers (.progLoad q) s fun t => ends t 3)
      ∧ (s.dev.carrier l = some p →
        (s.dev.down pTIL p = true → Answers (.progLoad q) s fun t => ends t 5)
        ∧ (s.dev.down pTIL p = false → T.core.run.issuing = true → Answers (.progLoad q) s fun t => ends t 4)
        ∧ (s.dev.down pTIL p = false → T.core.run.issuing = false →
          (s.dev.readImage s.mem (c.f 10 2) (c.f 16 8) (c.f 12 2) = none → Answers (.progLoad q) s fun t => ends t 9)
          ∧ ∀ image pl, s.dev.readImage s.mem (c.f 10 2) (c.f 16 8) (c.f 12 2) = some image →
            s.dev.deckle.placement = some pl → Answers (.progLoad q) s fun t =>
              s.dev.Completes t.dev q c rest 0 0 0
              ∧ t.dev.tile p = { T with core := { T.core with prog := loadProg (c.f 12 2) image T.core.prog } } ∧ others t
              ∧ t.dev.deckle = { s.dev.deckle with
                  placement := some { pl with loads := SMap.insert l (c.f 10 2, c.f 16 8, c.f 12 2) pl.loads } }
              ∧ s.OnlyParts t [.regs, .evr, .tiles, .deckle, .hbx])))
    ∧ (s.dev.Front q 2 c rest → c.f 8 8 = 2 ^ l → l < 64 →
      (s.dev.carrier l = none → Answers (.tileStart q) s fun t => ends t 4)
      ∧ (s.dev.carrier l = some p → s.dev.startable p = false → Answers (.tileStart q) s fun t => ends t 4)
      ∧ (s.dev.carrier l = some p → s.dev.startable p = true → Answers (.tileStart q) s fun t =>
        s.dev.Completes t.dev q c rest 0 0 0 ∧ t.dev.fget tilRunctlEntry p = c.f 16 2
        ∧ t.dev.tile p = ({ T with store := { T.store with
            launchNmode := c.f 24 8, launchCq := s.dev.fget hbxSqcfgCq q + 1 } }).start (c.f 16 2)
        ∧ others t ∧ s.OnlyParts t [.regs, .evr, .tiles, .hbx]))
    ∧ (s.dev.Front q 3 c rest → c.f 8 8 = 2 ^ l → l < 64 →
      (s.dev.carrier l = none → Answers (.tileStop q) s fun t => ends t 3)
      ∧ (s.dev.carrier l = some p → s.dev.down pTIL p = true → Answers (.tileStop q) s fun t => ends t 5)
      ∧ (s.dev.carrier l = some p → s.dev.down pTIL p = false → s.dev.tileParticipates p = false →
        (T.core.run.issuing = false → Answers (.tileStop q) s fun t => ends t 0)
        ∧ (T.core.run.issuing = true → Answers (.tileStop q) s fun t =>
          s.dev.Completes t.dev q c rest 0 0 0 ∧ t.dev.tile p = T.landAll.halted.clearPrepared
          ∧ (t.dev.tile p).core.run = .halted ∧ others t ∧ s.OnlyParts t [.regs, .evr, .tiles, .pwr, .hbx])))

/-- The urgent page: each write counts in URG.COUNT. STOPCHAN and RESUMECHAN set and clear STOPPED of the named
channels that are not CLOSED. STOPPEER and RESUMEPEER queue STOP and RESUME with DCHAN 0xFFF for the named device on
CTL; the SCHAN of that packet is not stated (log entry 42). SQSTOP and SQGO set and clear the bits of the named SQs.
URG_SPOIL spoils an open step with cause HOST, and changes nothing else where bit 0 is clear. -/
def Obligations.UrgentPage : Prop :=
  ∀ (s : State) (v : Nat), s.dev.wout = [] → s.dev.col.events = [] → s.dev.answers = true →
    let counted (t : State) : Prop := t.dev.pci = { s.dev.pci with urgCount := (s.dev.pci.urgCount + 1) % 2 ^ 32 }
    let chans (t : State) (b : Bool) : Prop := ∀ e c, c < 4096 →
      t.dev.chan e c = (if (s.dev.chan e c).state ≠ .closed ∧ (bit v 12 = true ∨ c = v % 4096)
        then { s.dev.chan e c with stopped := b } else s.dev.chan e c)
    let queued (t : State) (p op : Nat) : Prop := ∃ k, k < 4096 ∧ (t.dev.port p).queue = (s.dev.port p).queue ++ [⟨0,
      withTtl { dst := v % 2 ^ 20, src := s.dev.devId, op := op, flags := 0, dchan := 0xFFF, schan := k, seq := 0, len := 0
                arg := 0, payload := [] } (s.dev.fget bzeTtlInit 0), none⟩]
    let sqBits (t : State) (high : Bool) (set : Bool) : Prop := ∀ i, bit t.dev.hbx.sqStop i =
      (if bit (v % 2 ^ 32 * (if high then 2 ^ 32 else 1)) i then set else bit s.dev.hbx.sqStop i)
    (Answers (.stopchan v) s fun t => counted t ∧ chans t true ∧ s.OnlyParts t [.brezin, .pci])
    ∧ (Answers (.resumechan v) s fun t => counted t ∧ chans t false ∧ s.OnlyParts t [.brezin, .pci])
    ∧ (∀ p, s.dev.route (v % 2 ^ 20) s.dev.devId 0xFFF = .port p →
      (Answers (.stoppeer v) s fun t => counted t ∧ queued t p 8 ∧ s.OnlyParts t [.brezin, .pci, .free])
      ∧ Answers (.resumepeer v) s fun t => counted t ∧ queued t p 9 ∧ s.OnlyParts t [.brezin, .pci, .free])
    ∧ (∀ high, (Answers (.sqstop high v) s fun t => counted t ∧ sqBits t high true ∧ s.OnlyParts t [.hbx, .pci])
      ∧ Answers (.sqgo high v) s fun t => counted t ∧ sqBits t high false ∧ s.OnlyParts t [.hbx, .pci])
    ∧ (bit v 0 = true → s.dev.stp.state = .opened → Answers (.urgSpoil v) s fun t =>
        t.dev.stp.state = .spoiled ∧ t.dev.stp.cause = 1 ∧ t.dev.pci.urgCount = (s.dev.pci.urgCount + 1) % 2 ^ 32)
    ∧ (bit v 0 = false ∨ s.dev.stp.state ≠ .opened → Answers (.urgSpoil v) s fun t => counted t ∧ s.OnlyParts t [.pci])

/-! ### Power-on, resets and power (chapters 14, 15, 16 and 18) -/

/-- POWER_ON performs one event of Table 15-1, each after the one before. Input power of 40 V begins a power cycle,
which empties the memory and counts. The fuses bring a pending life-cycle state into effect. The preferred firmware
boots where it verifies, else the other, else none. The Headbox's blocks become ACTIVE. The pages go live, but in
DECOMMISSIONED the device fails. A group of stacks is tested. The ports train. The tests clear the stores and leave a
fused-out tile DISABLED. At the last event marks run, the Sheets are ungated and units that passed become ACTIVE. Of
the model's own: when units become ACTIVE is read in log entry 88, what outlives the loss of power in 89, empty memory
is the choice of 2. -/
def Obligations.PowerOnSequence : Prop :=
  ∀ s : State, s.dev.wout = [] →
    let at_ (n : Nat) (ph : DevPhase) : Prop :=
      s.dev.pwr.on = true ∧ s.dev.pwr.failing = false ∧ s.dev.bootEvent = n ∧ s.dev.phase = ph
    let good (slot : Nat) : Prop := s.dev.sec.imageFault (if slot = 0 then s.dev.sec.fw0 else s.dev.sec.fw1) = none
    let pref := s.dev.fget secFwctlPref 0
    let rises (t : State) (cls inst : Nat) : Prop := (s.dev.unit cls inst).testPassed = true →
      (s.dev.unit cls inst).state = .off → (t.dev.unit cls inst).state = .active
    (∀ mv slot, (mv < 40000 → exec (.powerOn (.regulated mv slot)) s = .next s)
      ∧ (40000 ≤ mv → s.dev.pwr.on = false → Answers (.powerOn (.regulated mv slot)) s fun t =>
        t.dev.bootEvent = 1 ∧ t.dev.phase = .boot ∧ t.dev.pwr.on = true ∧ t.dev.pwr.gated = true ∧ t.mem = []
        ∧ t.dev.fget glbPwrcycCount 0 = (s.dev.fget glbPwrcycCount 0 + 1) % 2 ^ 16
        ∧ t.dev.tiles = [] ∧ t.dev.deckle = Deckle.reset ∧ t.dev.sec.fused = s.dev.sec.fused ∧ t.dev.evr.nv = s.dev.evr.nv
        ∧ t.pending = s.pending))
    ∧ (at_ 1 .boot →
      (s.dev.sec.pendingLcs = none → Answers (.powerOn .fuses) s fun t =>
        t.dev = { s.dev with bootEvent := 2 } ∧ t.mem = s.mem ∧ t.pending = s.pending)
      ∧ ∀ x, s.dev.sec.pendingLcs = some x → Answers (.powerOn .fuses) s fun t =>
        t.dev.bootEvent = 2 ∧ t.dev.sec.fused = x ∧ t.dev.sec.pendingLcs = none
        ∧ (x = 4 → t.dev.sec.owner = none ∧ t.dev.sec.licence = []) ∧ (x = 5 → t.dev.sec.keyErased = true)
        ∧ s.OnlyParts t [.bootEvent, .evr, .sec])
    ∧ (at_ 2 .boot → pref < 2 →
      (good pref → Answers (.powerOn .firmware) s fun t => t.dev.bootEvent = 3 ∧ t.dev.sec.booted = pref
        ∧ t.dev.fget secFwstatFallback 0 = 0 ∧ s.OnlyParts t [.bootEvent, .regs, .evr, .sec])
      ∧ (¬good pref → good (1 - pref) → Answers (.powerOn .firmware) s fun t =>
        t.dev.bootEvent = 3 ∧ t.dev.sec.booted = 1 - pref ∧ t.dev.fget secFwstatFallback 0 = 1
        ∧ s.OnlyParts t [.bootEvent, .regs, .evr, .sec])
      ∧ (¬good pref → ¬good (1 - pref) → Answers (.powerOn .firmware) s fun t =>
        t.dev.bootEvent = 3 ∧ t.dev.sec.booted = 2 ∧ s.OnlyParts t [.bootEvent, .regs, .evr, .sec]))
    ∧ (∀ links, at_ 3 .boot →
      (s.dev.sec.booted = 2 → Answers (.powerOn (.headbox links [])) s fun t => t.dev.bootEvent = 4 ∧ t.dev.phase = .failed)
      ∧ (s.dev.sec.booted ≠ 2 → (∀ k, k < 5 → ∃ n ∈ peers k, linkIndex k n ∈ links) →
        Answers (.powerOn (.headbox links [])) s fun t => t.dev.bootEvent = 4 ∧ t.dev.phase = .boot
          ∧ ∀ x ∈ headboxPages, (s.dev.unit x.1 x.2).state = .off → (t.dev.unit x.1 x.2).state = .active))
    ∧ (at_ 4 .boot →
      (s.dev.sec.fused ≠ 5 → Answers (.powerOn .pageLive) s fun t =>
        t.dev = { s.dev with bootEvent := 5 } ∧ t.mem = s.mem ∧ t.pending = s.pending)
      ∧ (s.dev.sec.fused = 5 → Answers (.powerOn .pageLive) s fun t => t.dev.bootEvent = 5 ∧ t.dev.phase = .failed))
    ∧ (at_ 5 .boot → s.dev.testedGroups = 0 → Answers (.powerOn (.memTest [])) s fun t =>
        t.dev.bootEvent = 6 ∧ t.dev.phase = .memtest
        ∧ ∀ k, k < 8 → t.dev.fget stkStatHealth k = 0 ∧ t.dev.fget stkStatTrained k = 1 ∧ t.dev.fget stkStatTest k ≠ 0)
    ∧ (at_ 6 .memtest → s.dev.testedGroups = 4 → Answers (.powerOn .ports) s fun t =>
        t.dev.bootEvent = 7 ∧ t.dev.phase = .linktrain ∧ ∀ p, p < 18 → rises t pBZP p)
    ∧ (∀ fails, at_ 7 .linktrain → Answers (.powerOn (.computeUp fails)) s fun t =>
        t.dev.bootEvent = 8 ∧ t.dev.phase = .computeUp
        ∧ (∀ p, (t.dev.tile p).core.prog = [] ∧ (t.dev.tile p).store.ts = [])
        ∧ ∀ p, p < 68 → p ∈ s.dev.sec.fusedBad →
            (t.dev.unit pTIL p).state = .disabled ∧ (t.dev.unit pTIL p).reason = 2)
    ∧ (at_ 8 .computeUp → Answers (.powerOn .ready) s fun t =>
        t.dev.bootEvent = 9 ∧ (t.dev.phase = .ready ∨ t.dev.phase = .degraded ∨ t.dev.phase = .failed)
        ∧ t.dev.fget cadCtlRun 0 = 1 ∧ t.dev.pwr.gated = false ∧ t.dev.pwr.setpoints = [650, 650, 650, 650]
        ∧ ∀ p, p < 68 → rises t pTIL p)

/-- The write of RESETCTL in READY or READY_DEGRADED begins a compute reset: the Sheets stop and are gated, an open
step spoils; its test follows once no access is left, clears every store, and its end ungates the Sheets and decides
the state. FLR with the link up clears the function and every ring, counts, and begins a compute reset. PERST brings
the function out of its fundamental reset. CONFIG_REQUEST answers Request Retry Status before event 5, then the
identity, writes, or the size of BAR 4. PCIE_LINK_UP reports its rate and width. Of the model's own: corners are read
in log entries 82, 92 and 93. -/
def Obligations.ResetsAndLink : Prop :=
  ∀ s : State, s.dev.wout = [] →
    let idle (t : State) : Prop := ∀ p, (t.dev.tile p).core.run = .idle
    let stopped (t : State) : Prop := t.dev.phase = .computeReset ∧ t.dev.bootEvent = 13 ∧ t.dev.pwr.gated = true ∧ idle t
      ∧ t.dev.solvers = [] ∧ t.dev.launches = [] ∧ t.dev.posts = []
      ∧ (s.dev.stp.state = .opened → t.dev.stp.state = .spoiled ∧ t.dev.stp.cause = 9)
    (s.dev.answers = true →
      (s.dev.isReady = true → s.dev.pwr.failing = false → Answers (.computeReset .start) s stopped)
      ∧ (s.dev.isReady = false → exec (.computeReset .start) s = .next s))
    ∧ (∀ fails, s.dev.phase = .computeReset → s.dev.bootEvent = 13 → (∀ e ∈ s.dev.stks, e.2.reqs = []) →
        Answers (.computeReset (.test fails)) s fun t => t.dev.bootEvent = 17 ∧ t.dev.phase = .computeReset
          ∧ (s.dev.deckle.placement = none → ∀ p, (t.dev.tile p).core.prog = [] ∧ (t.dev.tile p).store.ts = []))
    ∧ (∀ fails, s.dev.phase ≠ .computeReset → exec (.computeReset (.test fails)) s = .next s)
    ∧ (s.dev.phase = .computeReset → s.dev.bootEvent = 17 → Answers (.computeReset .finish) s fun t =>
        t.dev.bootEvent = 9 ∧ t.dev.pwr.gated = false
        ∧ (t.dev.phase = .ready ∨ t.dev.phase = .degraded ∨ t.dev.phase = .failed))
    ∧ (∀ kind, kind < 3 →
      (s.dev.linkUp = false → exec (.flr kind) s = .next s)
      ∧ (s.dev.linkUp = true → Answers (.flr kind) s fun t =>
        t.dev.pci.config = [] ∧ t.dev.pci.msixTable = [] ∧ t.dev.pci.barLog2 = 41
        ∧ (∀ q, t.dev.fget hbxSqcfgEn q = 0 ∧ t.dev.fget hbxCqcfgEn q = 0 ∧ (t.dev.sq q).fetched = [] ∧ (t.dev.sq q).head = 0)
        ∧ (kind = 0 → t.dev.fget pciResetcntFlr 0
            = satAdd (2 ^ pciResetcntFlr.width - 1) (s.dev.fget pciResetcntFlr 0) 1)
        ∧ (kind ≠ 0 → t.dev.fget pciResetcntHot 0
            = satAdd (2 ^ pciResetcntHot.width - 1) (s.dev.fget pciResetcntHot 0) 1)
        ∧ (kind = 2 → t.dev.linkUp = false)
        ∧ (s.dev.isReady = true → s.dev.pwr.failing = false → stopped t)))
    ∧ (Answers .perst s fun t => t.dev.pci = { s.dev.pci with
          perst := false, config := [], barLog2 := 41, msixTable := [], pba := 0 }
        ∧ t.dev.linkUp = false ∧ s.OnlyParts t [.regs, .pci])
    ∧ (∀ off v, s.dev.linkUp = true →
      (s.dev.answers = false → s.dev.bootEvent ≠ 0 → ∀ kind, kind < 3 → Answers (.configRequest kind off v) s fun t =>
        t.dev = { s.dev with pci := { s.dev.pci with reply := .retry } } ∧ t.mem = s.mem ∧ t.pending = s.pending)
      ∧ (s.dev.answers = true → s.dev.bootEvent ≠ 0 →
        (off < 4 → Answers (.configRequest 0 off v) s fun t =>
          t.dev = { s.dev with pci := { s.dev.pci with reply := .value 0x47371E8C } } ∧ t.mem = s.mem ∧ t.pending = s.pending)
        ∧ (8 ≤ off → off < 12 → Answers (.configRequest 0 off v) s fun t =>
          (∃ r, r < 256 ∧ t.dev.pci.reply = .value (0x12000000 + r)) ∧ s.OnlyParts t [.pci, .free])
        ∧ (Answers (.configRequest 1 off v) s fun t =>
          SMap.find (off / 4 * 4) t.dev.pci.config = some (v % 2 ^ 32) ∧ s.OnlyParts t [.pci])
        ∧ (v ≤ 11 → Answers (.configRequest 2 off v) s fun t =>
          t.dev.pci.barLog2 = 30 + v ∧ s.OnlyParts t [.pci])))
    ∧ (∀ rate width flit, 1 ≤ rate → rate ≤ 6 → width ∈ [1, 2, 4, 8, 16] → s.dev.pwr.on = true → s.dev.pci.perst = false →
        Answers (.pcieLinkUp rate width flit) s fun t =>
          t.dev.fget pciLinkstatRate 0 = rate ∧ t.dev.fget pciLinkstatWidth 0 = width
          ∧ (rate = 6 → t.dev.fget pciLinkstatFlit 0 = 1)
          ∧ t.dev.fget pciLinkstatDerated 0 = (if rate = 6 ∧ width = 16 then 0 else 1) ∧ t.dev.linkUp = true
          ∧ s.OnlyParts t [.regs])

/-- The input and the sensors. A power fail closes the recorder, stops the Sheets and gates them with no ballast;
PWREN low and an input above 60 V then take the power away, and fuses and NV store stay. THM_SAMPLE stores a reading;
the second at a limit trips, as HARDWARE_TRIP does at once, and a trip fails the device. THM_SNAPSHOT advances
SNAPHEAD where its region takes the entry. ERROR_SIGNAL ends a coalescing interval. SMBUS_BLOCK_READ answers with a
sensor, the state, or nothing. Of the model's own: a trip and a power fail are read in log entries 86 and 87, what
outlives them in 89. -/
def Obligations.PowerAndSensors : Prop :=
  ∀ s : State, s.dev.wout = [] →
    let dark (t : State) : Prop := t.dev.pwr.on = false ∧ t.dev.pwr.gated = true ∧ t.dev.phase = .boot ∧ t.dev.bootEvent = 0
      ∧ t.dev.tiles = [] ∧ t.dev.deckle = Deckle.reset ∧ t.dev.sec.fused = s.dev.sec.fused ∧ t.pending = s.pending
    let trip (t : State) : Prop := t.dev.fget pwrStatTripped 0 = 1 ∧ t.dev.pwr.thermtrip = true ∧ t.dev.phase = .failed
    let failing (t : State) : Prop := t.dev.pwr.failing = true ∧ t.dev.pwr.gated = true ∧ t.dev.evr.closed = true
      ∧ t.dev.fget pwrBallastWatts 0 = 0 ∧ ∀ p, (t.dev.tile p).core.run = .idle
    (∀ mv, (s.dev.fget pwrPfMv 0 ≤ mv → exec (.powerFail 0 mv) s = .next s)
      ∧ (s.dev.pwr.on = true → s.dev.pwr.failing = false →
        (mv < s.dev.fget pwrPfMv 0 → Answers (.powerFail 0 mv) s failing)
        ∧ (Answers (.powerFail 2 mv) s failing)
        ∧ (Answers (.powerFail 1 mv) s dark)
        ∧ (60000 < mv → Answers (.inputOvervoltage mv) s dark)
        ∧ (mv ≤ 60000 → exec (.inputOvervoltage mv) s = .next s)))
    ∧ (∀ i v, s.dev.pwr.on = true → s.dev.active pTHM 0 = true → isSensor i = true →
      (signed 24 v < 1600 → (∀ e ∈ s.dev.sensors, e.2.overs = 0) → Answers (.thmSample [(i, v)]) s fun t =>
        (t.dev.sensor i).value = v % 2 ^ 24 ∧ (t.dev.sensor i).age = 0
        ∧ (∀ j, j ≠ i → (t.dev.sensor j).value = (s.dev.sensor j).value) ∧ s.OnlyParts t [.evr, .sensors])
      ∧ (i < 0x14 → 1680 ≤ signed 24 v → (s.dev.sensor i).overs = 1 → s.dev.fbit pwrStatTripped 0 = false →
        Answers (.thmSample [(i, v)]) s trip))
    ∧ (∀ i v, s.dev.pwr.on = true → s.dev.fbit pwrStatTripped 0 = false → i < 0x14 →
      (1760 ≤ signed 24 v → Answers (.hardwareTrip i v) s trip)
      ∧ (signed 24 v < 1760 → exec (.hardwareTrip i v) s = .next s))
    ∧ (let h := s.dev.fget thmSnapregHandle 0
      let n := s.dev.fget thmSnapregNsnap 0
      (s.dev.fget thmSnapperMs 0 = 0 ∨ n = 0 ∨ h = 0 → exec .thmSnapshot s = .next s)
      ∧ (s.dev.fget thmSnapperMs 0 ≠ 0 → n ≠ 0 → h ≠ 0 →
        (s.dev.plainRegion h (1024 * n) = false → Answers .thmSnapshot s fun t =>
          s.OnlyParts t [.evr])
        ∧ (s.dev.plainRegion h (1024 * n) = true →
          (∀ o bs, o + bs.length ≤ 1024 * n → (s.dev.writeRegion h o bs false).isSome = true) → Answers .thmSnapshot s fun t =>
            t.dev.fget thmSnapheadCount 0 = (s.dev.fget thmSnapheadCount 0 + 1) % 2 ^ 32 ∧ t.pending = s.pending)))
    ∧ (s.dev.evr.errPending = true → Answers .errorSignal s fun t =>
        t.dev.evr = { s.dev.evr with errPending := false }
        ∧ (bit (s.dev.msixWord (4 * s.dev.fget hbxErrvecVector 0 + 3)) 0 = true →
            t.dev.pci = { s.dev.pci with pba := s.dev.pci.pba ||| 2 ^ s.dev.fget hbxErrvecVector 0 })
        ∧ (bit (s.dev.msixWord (4 * s.dev.fget hbxErrvecVector 0 + 3)) 0 = false →
            t.dev.pci = { s.dev.pci with msixSent := s.dev.pci.msixSent ++ [s.dev.fget hbxErrvecVector 0] })
        ∧ s.OnlyParts t [.evr, .pci])
    ∧ (s.dev.evr.errPending = false → Answers .errorSignal s fun t =>
        t.dev = { s.dev with evr := { s.dev.evr with errOpen := false } } ∧ t.mem = s.mem ∧ t.pending = s.pending)
    ∧ ∀ code, s.dev.pwr.on = true → Answers (.smbusBlockRead code) s fun t =>
        t.dev.pci = { s.dev.pci with reply := (
          if code < 0x80 then .block (toLE 4 (s.dev.sensorWord code))
          else if code = 0x80 then .block (toLE 4 s.dev.phase.code ++ toLE 4 (s.dev.plainWord pPWR 0 0x40)) else .noAck) }
        ∧ s.OnlyParts t [.pci]

/-- The governor. An admission interval without marks renews the budget and grows the credit by 2 µs of input, up to
its cap, while ballast decays. An idle unit's weight passes to ballast. CAP_WINDOW lowers every setpoint by 25 mV,
never below 650 mV, where the mean is more than 5 % above the cap, and holds admission; by 5 mV where it is above; and
gives back a duty step, else 5 mV up to VMAX, where it is below 97 %. DUTY_HOLD holds the Sheets only with a duty.
CAP_WRITE stores CAP or VMAX within its range, to take effect at the next window. Of the model's own: how it accounts
is the choice of log entry 68. -/
def Obligations.PowerGovernor : Prop :=
  ∀ s : State, s.dev.wout = [] →
    let ballast := s.dev.fget pwrBallastWatts 0
    let vin := (s.dev.sensor 0x51).value
    (s.dev.fget cadCtlRun 0 = 1 → exec .admissionInterval s = .next s)
    ∧ (s.dev.fget cadCtlRun 0 ≠ 1 → s.dev.pwr.direct = [] → s.dev.tiles = [] → Answers .admissionInterval s fun t =>
        t.dev.pwr = { s.dev.pwr with
          vin := vin, used := 0, credit := min (25 * vin * 1000) (s.dev.pwr.credit + 25 * s.dev.pwr.vin * 2000) }
        ∧ t.dev.fget pwrBallastWatts 0
            = (ballast - min (s.dev.fget pwrStepDnw 0) (8 * 30 * vin * 2000 / 10000000)) % 2 ^ 16
        ∧ s.OnlyParts t [.regs, .pwr])
    ∧ (∀ kind n w, kind < 3 →
      (s.dev.loadIdle (loadOf kind n) = false ∨ s.dev.loaded (loadOf kind n) = false → exec (.unitIdle kind n) s = .next s)
      ∧ (s.dev.loadIdle (loadOf kind n) = true → s.dev.pwr.held = [(loadOf kind n, w)] → Answers (.unitIdle kind n) s fun t =>
        t.dev.pwr = { s.dev.pwr with held := [] } ∧ t.dev.fget pwrBallastWatts 0 = (ballast + w) % 2 ^ 16
        ∧ s.OnlyParts t [.regs, .pwr]))
    ∧ (∀ mean, s.dev.pwr.on = true → s.dev.pwr.failing = false → s.dev.pwr.capPending = false →
      let cap := s.dev.pwr.capInForce
      let duty := s.dev.fget pwrGateDuty 0
      (cap * 21 < mean * 2 → Answers (.capWindow mean) s fun t =>
        t.dev.pwr.setpoints = s.dev.pwr.setpoints.map (fun v => max 650 (v - 25)) ∧ t.dev.pwr.holding = true
        ∧ t.dev.fget pwrStatCapped 0 = 1 ∧ t.dev.fget pwrStatSettling 0 = 1
        ∧ ((∀ v ∈ s.dev.pwr.setpoints, v = 650) → t.dev.fget pwrGateDuty 0 = min 15 (duty + 1))
        ∧ s.OnlyParts t [.regs, .pwr])
      ∧ (mean * 2 ≤ cap * 21 → cap * 10 < mean → Answers (.capWindow mean) s fun t =>
        t.dev.pwr.setpoints = s.dev.pwr.setpoints.map (fun v => max 650 (v - 5))
        ∧ t.dev.pwr.holding = s.dev.pwr.holding ∧ t.dev.fget pwrStatCapped 0 = 1
        ∧ t.dev.fget pwrGateDuty 0 = duty ∧ s.OnlyParts t [.regs, .pwr])
      ∧ (mean ≤ cap * 10 → cap * 97 ≤ mean * 10 → Answers (.capWindow mean) s fun t =>
        t.dev.pwr.setpoints = s.dev.pwr.setpoints ∧ t.dev.pwr.holding = false
        ∧ t.dev.fget pwrGateDuty 0 = duty ∧ s.OnlyParts t [.regs, .pwr])
      ∧ (mean * 10 < cap * 97 → duty < 16 → Answers (.capWindow mean) s fun t =>
        t.dev.pwr.holding = false ∧ t.dev.fget pwrGateDuty 0 = duty - 1
        ∧ t.dev.pwr.setpoints = (if duty = 0 then s.dev.pwr.setpoints.map (fun v => min s.dev.pwr.vmaxInForce (v + 5))
            else s.dev.pwr.setpoints)
        ∧ s.OnlyParts t [.regs, .pwr]))
    ∧ (∀ begins, Answers (.dutyHold begins) s fun t =>
        t.dev.pwr = { s.dev.pwr with dutyHold := begins && decide (0 < s.dev.fget pwrGateDuty 0) } ∧ s.OnlyParts t [.pwr])
    ∧ (∀ v, s.dev.answers = true → s.dev.blockOpen pPWR 0 = true →
      (v < 2 ^ 12 → Answers (.capWrite false v) s fun t => t.dev.fget pwrCapWatts 0 = max 1200 (min 2800 v)
        ∧ t.dev.pwr = { s.dev.pwr with capPending := true } ∧ s.OnlyParts t [.regs, .pwr])
      ∧ (v < 2 ^ 10 → Answers (.capWrite true v) s fun t => t.dev.fget pwrVsetVmaxMv 0 = max 650 (min 850 v)
        ∧ t.dev.pwr = { s.dev.pwr with capPending := true } ∧ s.OnlyParts t [.regs, .pwr]))

/-! ### The event recorder (chapter 16) -/

/-- EVENT_RECORD admits the oldest raised record: it takes the next sequence number, its slot of the ring, the power
cycle, the operating seconds and its code's suppressed count, and its page's PG_SEQ. A UCF, SECURITY or LOG record
needs no token and is FORCED; any other takes one, or is suppressed and counted; with every slot unflushed it is lost
and counted. A UCC or UCF record is flushed at once. TOKEN_REFILL gives each bucket a token, up to CAP. TIMED_FLUSH
and FLUSH write out what waits. RECORDS_LOST reports the records lost. DUMPGO copies NV slots into the dump region. Of
the model's own: the order of admission is read in log entry 63, an erased slot is the choice of 25. -/
def Obligations.EventRecorder : Prop :=
  ∀ (s : State) (r : RawRec) (rest : List RawRec) (failing : List Nat) (v : Nat), s.dev.wout = [] →
    let e := s.dev.evr
    let opsec := s.dev.fget glbOpsecSeconds 0
    let admitted (t : State) (x : RawRec) (forced : Bool) : Prop :=
      t.dev.evr.seq = e.seq + 1 ∧ (t.dev.unit x.cls x.inst).seq = e.seq + 1
      ∧ SMap.find ((e.seq + 1) % 4096) t.dev.evr.ring = some
        { code := x.code, sev := severity x.code + 8 * b2n forced + 32 * b2n x.pgerr, cls := x.cls, inst := x.inst
          seq := (e.seq + 1) % 2 ^ 48, pwrcyc := s.dev.fget glbPwrcycCount 0, opsec := opsec
          suppr := min 0xFFFF (SMap.get 0 x.code e.suppressed)
          p0 := x.p0 % 2 ^ 32, p1 := x.p1 % 2 ^ 32, p2 := x.p2 % 2 ^ 32 }
      ∧ SMap.get 0 x.code t.dev.evr.suppressed = 0
    let waits := e.unflushed + 1 < 128
    let usable := s.dev.fget evrStatNvok 0 = 1
    (e.raised = [] → exec (.eventRecord failing) s = .next s)
    ∧ (e.raised = r :: rest → (s.dev.unit pEVR 0).state ≠ .disabled →
      (waits → exempt r.code = true → codeClass r.code ≠ 4 → Answers (.eventRecord failing) s fun t =>
        admitted t r true ∧ t.dev.evr.raised = rest ∧ t.dev.evr.tokens = e.tokens ∧ s.OnlyParts t [.units, .evr])
      ∧ (waits → exempt r.code = false → codeClass r.code ≠ 3 → 0 < s.dev.tokens r.code →
        Answers (.eventRecord failing) s fun t => admitted t r false ∧ t.dev.evr.raised = rest
          ∧ t.dev.tokens r.code = s.dev.tokens r.code - 1 ∧ s.OnlyParts t [.units, .evr])
      ∧ (e.unflushed < 4096 → exempt r.code = false → s.dev.tokens r.code = 0 → Answers (.eventRecord failing) s fun t =>
        t.dev.evr = { e with
          raised := rest, suppressed := SMap.put 0 r.code (SMap.get 0 r.code e.suppressed + 1) e.suppressed }
        ∧ t.dev.fget evrSupprCount 0 = satAdd (2 ^ 32 - 1) (s.dev.fget evrSupprCount 0) 1 ∧ s.OnlyParts t [.regs, .evr])
      ∧ (e.next = e.seq + 1 → usable → codeClass r.code = 3 ∨ codeClass r.code = 4 →
        exempt r.code = true ∨ 0 < s.dev.tokens r.code → Answers (.eventRecord failing) s fun t =>
          admitted t r (exempt r.code) ∧ t.dev.evr.flushed = e.seq + 1 ∧ t.dev.evr.next = e.seq + 2)
      ∧ (4096 ≤ e.unflushed → Answers (.eventRecord failing) s fun t =>
        t.dev.evr = { e with raised := rest, lostSince := e.lostSince + 1 }
        ∧ t.dev.fget evrLostCount 0 = satAdd (2 ^ 32 - 1) (s.dev.fget evrLostCount 0) 1 ∧ s.OnlyParts t [.regs, .evr]))
    ∧ (Answers .tokenRefill s fun t =>
        t.dev.fget glbOpsecSeconds 0 = (opsec + s.dev.fget evrRlcfgRefillsec 0) % 2 ^ 32
        ∧ (∀ k, t.dev.tokens k = min (s.dev.fget evrRlcfgCap 0) (s.dev.tokens k + 1)) ∧ s.OnlyParts t [.regs, .evr])
    ∧ (∀ x : Rec, e.pendingRecs = [x] → e.next = e.seq →
      (s.dev.fget evrCtlFlushsec 0 = 0 ∨ opsec < x.opsec + s.dev.fget evrCtlFlushsec 0 →
        exec (.timedFlush failing) s = .next s)
      ∧ (s.dev.fget evrCtlFlushsec 0 ≠ 0 → x.opsec + s.dev.fget evrCtlFlushsec 0 ≤ opsec → usable →
        Answers (.timedFlush failing) s fun t => t.dev.evr.flushed = e.seq ∧ t.dev.evr.next = e.seq + 1
          ∧ t.dev.evr.seq = e.seq ∧ s.OnlyParts t [.regs, .evr])
      ∧ (s.dev.answers = true → s.dev.blockOpen pEVR 0 = true → v % 4 = 1 → usable → Answers (.flush v failing) s fun t =>
        t.dev.evr.flushed = e.seq ∧ t.dev.evr.next = e.seq + 1 ∧ t.dev.evr.seq = e.seq
        ∧ t.dev.fget evrCtlFlushsec 0 = bits v 8 8 ∧ s.OnlyParts t [.regs, .evr]))
    ∧ (e.pendingRecs = [] → exec (.timedFlush failing) s = .next s)
    ∧ (e.lostUcc = 0 → e.lostSince = 0 → exec (.recordsLost failing) s = .next s)
    ∧ (waits → e.closed = false → (s.dev.unit pEVR 0).state ≠ .disabled →
      (e.lostUcc = 0 → e.lostSince ≠ 0 → Answers (.recordsLost failing) s fun t =>
        admitted t ⟨0x8001, pEVR, 0, e.lostSince, 0, 0, false⟩ true ∧ t.dev.evr.lostSince = 0 ∧ s.OnlyParts t [.units, .evr])
      ∧ (e.lostUcc ≠ 0 → Answers (.recordsLost failing) s fun t =>
        admitted t ⟨0x8001, pEVR, 0, e.lostUcc, 2, 0, false⟩ true ∧ t.dev.evr.lostUcc = 0 ∧ s.OnlyParts t [.units, .evr]))
    ∧ (s.dev.answers = true → s.dev.blockOpen pEVR 0 = true → v % 4 = 2 →
      let count := s.dev.fget evrDumpselCount 0
      let first := s.dev.fget evrDumpselFirst 0
      let off := s.dev.fget evrDumpoffLoOff 0 * 64 + s.dev.fget evrDumpoffHiOff 0 * 2 ^ 32
      let out := s.dev.writeRegion (s.dev.fget evrDumpregHandle 0) off
        ((List.range count).flatMap (fun i => nvSlotBytes s.dev ((first + i) % 16384))) false
      (count = 0 ∨ 16384 < count → Answers (.dumpgo v) s fun t =>
        t.dev.fget evrStatDumpstat 0 = 2 ∧ s.OnlyParts t [.regs])
      ∧ (count ≠ 0 → count ≤ 16384 →
        (out = none → Answers (.dumpgo v) s fun t => t.dev.fget evrStatDumpstat 0 = 1 ∧ s.OnlyParts t [.regs])
        ∧ ∀ d', out = some d' → Answers (.dumpgo v) s fun t => t.dev.fget evrStatDumpstat 0 = 0
          ∧ (∀ a b, SMap.find a d'.wout = some b → Memory.read t.mem a = b)
          ∧ (∀ a, SMap.find a d'.wout = none → Memory.read t.mem a = Memory.read s.mem a) ∧ t.pending = s.pending))

/-! ### Security (chapter 17) -/

/-- The operations of SEC.CMD with GO, and LIC.CTL. Each leaves its status in the RESULT register of its page. A
life-cycle transition of Table 17-2 waits for the next power cycle, one that is not there is NOT_PERMITTED, and one
that needs a token takes it from the argument location. FIELD_DEBUG takes a token. OWNER_KEY stores a key once, in
PROVISIONED. ATTEST writes a report behind its nonce. CERT_EXPORT writes the certificate. FW_STAGE stores a verified
image in the slot that did not boot. SVN_COMMIT raises the counter, no higher than the running image's number.
CLEAR_FIELDMAP empties the field map in state 4. INSTALL stores a licence that passes every check, and REMOVE deletes
it. Of the model's own: corners are read in log entry 91, a status that chapter 17 does not name is free, 52. -/
def Obligations.SecurityCommands : Prop :=
  ∀ (s : State) (v : Nat), s.dev.wout = [] → s.dev.answers = true →
    let sec := s.dev.sec
    let arg (n : Nat) : Option (List Nat) := s.dev.secRead s.mem n
    let said (t : State) (status : Nat) : Prop := t.dev.fget secResultStatus 0 = status ∧ t.pending = s.pending
    let refused (t : State) (status : Nat) : Prop := said t status ∧ s.OnlyParts t [.regs]
    let stored (t : State) (d' : Dev) : Prop := (∀ a b, SMap.find a d'.wout = some b → Memory.read t.mem a = b)
      ∧ (∀ a, SMap.find a d'.wout = none → Memory.read t.mem a = Memory.read s.mem a)
    (s.dev.blockOpen pSEC 0 = true → bit v 31 = true →
      (v % 16 = 1 →
        let x := bits v 4 3
        let blown (t : State) : Prop := said t 0 ∧ t.dev.sec.pendingLcs = some x ∧ t.dev.sec.fused = sec.fused
          ∧ s.OnlyParts t [.regs, .evr, .sec]
        (sec.pendingLcs ≠ none ∨ s.dev.transitionKind x = none → Answers (.lcTransition v) s fun t => refused t 5)
        ∧ (sec.pendingLcs = none →
          (sec.fused = 1 → x = 2 → Answers (.lcTransition v) s blown)
          ∧ ∀ k, s.dev.transitionKind x = some k → k ≠ 0 →
            (arg 160 = none → Answers (.lcTransition v) s fun t => refused t 6)
            ∧ ∀ b, arg 160 = some b →
              (s.dev.checkToken b (fun j => j == k) = .accepted → Answers (.lcTransition v) s blown)
              ∧ ∀ st, st < 256 → s.dev.checkToken b (fun j => j == k) = .status st →
                  Answers (.lcTransition v) s fun t => refused t st))
      ∧ (v % 16 = 2 →
        (arg 160 = none → Answers (.fieldDebug v) s fun t => refused t 6)
        ∧ ∀ b, arg 160 = some b → s.dev.checkToken b (fun j => j == 1 && sec.fused == 2) = .accepted →
          Answers (.fieldDebug v) s fun t => said t 0 ∧ t.dev.sec = { sec with fieldDebug := true }
            ∧ s.OnlyParts t [.regs, .evr, .sec])
      ∧ (v % 16 = 3 →
        (sec.fused ≠ 1 ∨ sec.owner ≠ none → Answers (.ownerKey v) s fun t => refused t 5)
        ∧ (sec.fused = 1 → sec.owner = none → ∀ b, arg 97 = some b →
          (b.headD 0 = 4 → Answers (.ownerKey v) s fun t =>
            said t 0 ∧ t.dev.sec = { sec with owner := some b } ∧ s.OnlyParts t [.regs, .sec])
          ∧ (b.headD 0 ≠ 4 → Answers (.ownerKey v) s fun t => refused t 1)))
      ∧ (v % 16 = 4 →
        (sec.fused = 5 → Answers (.attest v) s fun t => refused t 5)
        ∧ (sec.fused ≠ 5 → ∀ b d', arg 48 = some b → s.dev.secWrite 64 (s.dev.report b).1 = some d' →
          Answers (.attest v) s fun t => said t 0 ∧ stored t d' ∧ t.dev.sec = sec))
      ∧ (v % 16 = 5 →
        (s.dev.secWrite 0 sec.certificate = none → Answers (.certExport v) s fun t => refused t 6)
        ∧ ∀ d', s.dev.secWrite 0 sec.certificate = some d' → Answers (.certExport v) s fun t => said t 0 ∧ stored t d'
          ∧ t.dev.fget secResultDetail 0 = sec.certificate.length % 2 ^ 24 ∧ t.dev.sec = sec)
      ∧ (v % 16 = 6 →
        (arg (s.dev.fget secArglenBytes 0) = none → Answers (.fwStage v) s fun t => refused t 6)
        ∧ ∀ b, arg (s.dev.fget secArglenBytes 0) = some b →
          (sec.imageFault b = none → Answers (.fwStage v) s fun t => said t 0
            ∧ t.dev.sec = (if sec.booted = 0 then { sec with fw1 := b } else { sec with fw0 := b })
            ∧ s.OnlyParts t [.regs, .sec])
          ∧ (sec.imageFault b = some 2 → Answers (.fwStage v) s fun t => refused t 8)
          ∧ (sec.imageFault b = some 3 → Answers (.fwStage v) s fun t => refused t 2)
          ∧ (sec.imageFault b = some 4 → Answers (.fwStage v) s fun t => refused t 7))
      ∧ (v % 16 = 7 →
        (sec.svnCounter < bits v 8 7 ∧ bits v 8 7 ≤ sec.svnRunning → Answers (.svnCommit v) s fun t =>
          said t 0 ∧ t.dev.sec = { sec with svnCounter := bits v 8 7 } ∧ s.OnlyParts t [.regs, .sec])
        ∧ (bits v 8 7 ≤ sec.svnCounter ∨ sec.svnRunning < bits v 8 7 → Answers (.svnCommit v) s fun t => refused t 7))
      ∧ (v % 16 = 8 →
        (sec.fused = 4 → Answers (.clearFieldmap v) s fun t =>
          said t 0 ∧ t.dev.sec = { sec with fieldMap := [] } ∧ s.OnlyParts t [.regs, .sec])
        ∧ (sec.fused ≠ 4 → Answers (.clearFieldmap v) s fun t => refused t 5)))
    ∧ (s.dev.blockOpen pLIC 0 = true →
      let off := s.dev.fget licSrcoffLoOff 0 * 64 + s.dev.fget licSrcoffHiOff 0 * 2 ^ 32
      let src := s.dev.readRegion s.mem (s.dev.fget licSrcregHandle 0) off 160
      let ends (t : State) (status : Nat) : Prop := t.dev.fget licResultStatus 0 = status ∧ s.OnlyParts t [.regs]
      (bit v 0 = true →
        (sec.fused = 5 → Answers (.install v) s fun t => ends t 5)
        ∧ (sec.fused ≠ 5 →
          (src = none → Answers (.install v) s fun t => ends t 6)
          ∧ ∀ b p, src = some (b, p) →
            (licenceFormat b = false → Answers (.install v) s fun t => ends t 1)
            ∧ (licenceFormat b = true → licenceSigned sec.rom.licence b = false → Answers (.install v) s fun t => ends t 2)
            ∧ (licenceFormat b = true → licenceSigned sec.rom.licence b = true →
              (fieldOf b 8 8 ≠ s.dev.serial → Answers (.install v) s fun t => ends t 3)
              ∧ (fieldOf b 8 8 = s.dev.serial → Answers (.install v) s fun t => t.dev.fget licResultStatus 0 = 0
                ∧ t.dev.sec = { sec with licence := b, licPending := true } ∧ s.OnlyParts t [.regs, .sec]))))
      ∧ (v % 4 = 2 →
        (sec.fused = 5 → Answers (.remove v) s fun t => ends t 5)
        ∧ (sec.fused ≠ 5 → Answers (.remove v) s fun t => t.dev.fget licResultStatus 0 = 0
          ∧ t.dev.sec = { sec with licence := [], licPending := true } ∧ s.OnlyParts t [.regs, .sec])))

/-- No command takes the fused life-cycle state anywhere but to the state that awaits the power cycle, and nothing
comes to await it but along an edge of Table 17-2. The firmware counter and the count of returns never fall, an erased
device key stays erased, fuses that mark units bad stay blown, and the boot ROM keeps its keys. -/
def Obligations.LifeCycleEdges : Prop :=
  ∀ (c : Instr) (s t : State), exec c s = .next t →
    let a := s.dev.sec
    let b := t.dev.sec
    (b.fused = a.fused ∨ a.pendingLcs = some b.fused ∧ b.pendingLcs = none)
    ∧ (b.pendingLcs = a.pendingLcs ∨ b.pendingLcs = none ∧ a.pendingLcs = some b.fused
      ∨ a.pendingLcs = none ∧ b.fused = a.fused
        ∧ ∃ x, b.pendingLcs = some x ∧ (a.fused, x) ∈ [(0, 1), (1, 2), (2, 4), (4, 1), (2, 5), (4, 5)])
    ∧ a.svnCounter ≤ b.svnCounter ∧ a.retcnt ≤ b.retcnt ∧ b.retcnt ≤ max 3 a.retcnt
    ∧ (a.keyErased = true → b.keyErased = true) ∧ b.fusedBad = a.fusedBad ∧ b.rom = a.rom

/-! ### The frame of every command -/

/-- Every command leaves unchanged each part of the device that it does not touch, no command touches the queue, and a
command that cannot store leaves every byte of the stacks as it was, but for the power cycle that empties them. -/
def Obligations.CommandFootprint : Prop :=
  ∀ (c : Instr) (s t : State), s.dev.wout = [] → exec c s = .next t →
    s.dev.OnlyChanges t.dev c.touches ∧ t.pending = s.pending
    ∧ (Part.wout ∉ c.touches → (∀ e, c = .powerOn e → s.dev.newPower e = false) → t.mem = s.mem)
end

