-- ==== Sys2Proof/Laws/Map.lean ====
section
/-! SUPPORT. Laws/Map.lean: the sparse lists behave as maps, with no condition on the list, and their canonical form is
kept by every update; the same of the stacks' bytes. -/

namespace Sys2Proof.Machine

theorem SMap.find_insert_same {α : Type} (k : Nat) (v : α) (m : SMap α) : SMap.find k (SMap.insert k v m) = some v := by
  induction m with
  | nil => simp [SMap.insert, SMap.find]
  | cons e m ih =>
    simp only [SMap.insert]
    split
    · simp [SMap.find]
    · split
      · simp [SMap.find]
      · rename_i h1 h2
        simp [SMap.find, Ne.symm h2, ih]

theorem SMap.find_insert_ne {α : Type} {k j : Nat} (h : j ≠ k) (v : α) (m : SMap α) :
    SMap.find j (SMap.insert k v m) = SMap.find j m := by
  induction m with
  | nil => simp [SMap.insert, SMap.find, Ne.symm h]
  | cons e m ih =>
    simp only [SMap.insert]
    split
    · simp [SMap.find, Ne.symm h]
    · split
      · rename_i h1 h2
        subst h2
        simp [SMap.find, Ne.symm h]
      · simp [SMap.find, ih]

theorem SMap.find_remove_same {α : Type} (k : Nat) (m : SMap α) : SMap.find k (SMap.remove k m) = none := by
  induction m with
  | nil => rfl
  | cons e m ih =>
    unfold SMap.remove at ih ⊢
    by_cases h : e.1 = k
    · simpa [List.filter_cons, h] using ih
    · simp [h, SMap.find, ih]

theorem SMap.find_remove_ne {α : Type} {k j : Nat} (h : j ≠ k) (m : SMap α) :
    SMap.find j (SMap.remove k m) = SMap.find j m := by
  induction m with
  | nil => rfl
  | cons e m ih =>
    unfold SMap.remove at ih ⊢
    by_cases he : e.1 = k
    · simp [he, SMap.find, ih, Ne.symm h]
    · simp [he, SMap.find, ih]

@[simp] theorem SMap.get_put_same {α : Type} [DecidableEq α] (d : α) (k : Nat) (v : α) (m : SMap α) :
    SMap.get d k (SMap.put d k v m) = v := by
  unfold SMap.get SMap.put
  split
  · rename_i h; simp [SMap.find_remove_same, h]
  · simp [SMap.find_insert_same]

theorem SMap.get_put_ne {α : Type} [DecidableEq α] (d d' : α) {k j : Nat} (h : j ≠ k) (v : α) (m : SMap α) :
    SMap.get d' j (SMap.put d k v m) = SMap.get d' j m := by
  unfold SMap.get SMap.put
  split
  · rw [SMap.find_remove_ne h]
  · rw [SMap.find_insert_ne h]

@[simp] theorem SMap.get_nil {α : Type} (d : α) (k : Nat) : SMap.get d k ([] : SMap α) = d := rfl

/-! ### The canonical form -/

theorem SMap.wfFrom_mono {α : Type} [DecidableEq α] {d : α} {a b : Nat} (h : a ≤ b) {m : SMap α}
    (hm : SMap.wfFrom d b m = true) : SMap.wfFrom d a m = true := by
  cases m with
  | nil => rfl
  | cons e m =>
    simp only [SMap.wfFrom, Bool.and_eq_true, decide_eq_true_eq] at hm ⊢
    exact ⟨⟨Nat.le_trans h hm.1.1, hm.1.2⟩, hm.2⟩

theorem SMap.wfFrom_remove {α : Type} [DecidableEq α] {d : α} (k : Nat) {m : SMap α} {lo : Nat}
    (hm : SMap.wfFrom d lo m = true) : SMap.wfFrom d lo (SMap.remove k m) = true := by
  induction m generalizing lo with
  | nil => rfl
  | cons e m ih =>
    have h := hm
    simp only [SMap.wfFrom, Bool.and_eq_true, decide_eq_true_eq] at h
    have ih' := ih h.2
    unfold SMap.remove at ih' ⊢
    by_cases he : e.1 = k
    · simpa [List.filter_cons, he] using SMap.wfFrom_mono (Nat.le_succ_of_le h.1.1) ih'
    · simp [he, SMap.wfFrom, h.1.1, ih']
      simpa using h.1.2

theorem SMap.wfFrom_insert {α : Type} [DecidableEq α] {d : α} {k : Nat} {v : α} (hv : v ≠ d) {m : SMap α} {lo : Nat}
    (hk : lo ≤ k) (hm : SMap.wfFrom d lo m = true) : SMap.wfFrom d lo (SMap.insert k v m) = true := by
  induction m generalizing lo with
  | nil => simp [SMap.insert, SMap.wfFrom, hk, hv]
  | cons e m ih =>
    have h := hm
    simp only [SMap.wfFrom, Bool.and_eq_true, decide_eq_true_eq] at h
    simp only [SMap.insert]
    split
    · rename_i hlt
      have : SMap.wfFrom d (k + 1) (e :: m) = true := by
        simp only [SMap.wfFrom, Bool.and_eq_true, decide_eq_true_eq]
        exact ⟨⟨hlt, h.1.2⟩, h.2⟩
      simp only [SMap.wfFrom, Bool.and_eq_true, decide_eq_true_eq] at this ⊢
      exact ⟨⟨hk, by simpa using hv⟩, this⟩
    · split
      · rename_i heq
        subst heq
        simp only [SMap.wfFrom, Bool.and_eq_true, decide_eq_true_eq]
        exact ⟨⟨hk, by simpa using hv⟩, h.2⟩
      · rename_i hlt hne
        simp only [SMap.wfFrom, Bool.and_eq_true, decide_eq_true_eq]
        exact ⟨h.1, ih (by omega) h.2⟩

theorem SMap.wf_put {α : Type} [DecidableEq α] {d : α} (k : Nat) (v : α) {m : SMap α} (hm : SMap.wf d m = true) :
    SMap.wf d (SMap.put d k v m) = true := by
  unfold SMap.put
  split
  · exact SMap.wfFrom_remove k hm
  · rename_i hv; exact SMap.wfFrom_insert hv (Nat.zero_le _) hm

/-! ### The stacks' bytes -/

theorem Memory.wf_write {m : Mem} (a : Nat) (b : Byte) (h : Memory.wf m = true) : Memory.wf (Memory.write m a b) = true :=
  SMap.wf_put a b h

theorem Memory.wf_writeAll {m : Mem} (l : List Host.Cell) (h : Memory.wf m = true) :
    Memory.wf (Memory.writeAll m l) = true := by
  unfold Memory.writeAll
  induction l generalizing m with
  | nil => exact h
  | cons e l ih => exact ih (Memory.wf_write e.1 e.2 h)

@[simp] theorem Memory.read_write_same (m : Mem) (a : Nat) (b : Byte) : Memory.read (Memory.write m a b) a = b :=
  SMap.get_put_same ..

theorem Memory.read_write_ne (m : Mem) {a c : Nat} (b : Byte) (h : c ≠ a) :
    Memory.read (Memory.write m a b) c = Memory.read m c := SMap.get_put_ne _ _ h ..

/-- A byte at an address that no write names keeps its value. -/
theorem Memory.read_writeAll_other (m : Mem) (l : List Host.Cell) {c : Nat} (h : ∀ e ∈ l, e.1 ≠ c) :
    Memory.read (Memory.writeAll m l) c = Memory.read m c := by
  unfold Memory.writeAll
  induction l generalizing m with
  | nil => rfl
  | cons e l ih =>
    rw [List.foldl_cons, ih _ fun x hx => h x (List.mem_cons_of_mem _ hx)]
    exact Memory.read_write_ne m e.2 (Ne.symm (h e (List.mem_cons_self ..)))

@[simp] theorem Memory.writeAll_nil (m : Mem) : Memory.writeAll m [] = m := rfl

end Sys2Proof.Machine
end

