-- ==== Sys2Proof/Laws/Mask.lean ====
section
/-! SUPPORT. Laws/Mask.lean: the most that a device operation can change: `mask` forgets the fields of a set. -/

namespace Sys2Proof.Machine

/-- The device with the fields whose bits are set in `F` forgotten; bit `i` stands for the `i`-th field of `Dev`. -/
def Dev.mask (F : Nat) (d : Dev) : Dev where
  phase := bif F.testBit 0 then .boot else d.phase
  variant := bif F.testBit 1 then 0 else d.variant
  bootEvent := bif F.testBit 2 then 0 else d.bootEvent
  regs := bif F.testBit 3 then [] else d.regs
  units := bif F.testBit 4 then [] else d.units
  evr := bif F.testBit 5 then .reset else d.evr
  sensors := bif F.testBit 6 then [] else d.sensors
  links := bif F.testBit 7 then [] else d.links
  tiles := bif F.testBit 8 then [] else d.tiles
  posts := bif F.testBit 9 then [] else d.posts
  stks := bif F.testBit 10 then [] else d.stks
  linePoison := bif F.testBit 11 then [] else d.linePoison
  deckle := bif F.testBit 12 then .reset else d.deckle
  solvers := bif F.testBit 13 then [] else d.solvers
  launches := bif F.testBit 14 then [] else d.launches
  deltasSent := bif F.testBit 15 then [] else d.deltasSent
  syn := bif F.testBit 16 then .reset else d.syn
  cad := bif F.testBit 17 then .reset else d.cad
  stp := bif F.testBit 18 then .reset else d.stp
  brezin := bif F.testBit 19 then .reset else d.brezin
  col := bif F.testBit 20 then .reset else d.col
  hbx := bif F.testBit 21 then .reset else d.hbx
  pci := bif F.testBit 22 then .reset else d.pci
  sec := bif F.testBit 23 then .reset else d.sec
  pwr := bif F.testBit 24 then .reset else d.pwr
  hours := bif F.testBit 25 then 0 else d.hours
  wout := bif F.testBit 26 then [] else d.wout
  free := bif F.testBit 27 then 0 else d.free

theorem testBit_of_sub {P F : Nat} (h : P &&& F = P) (i : Nat) (hp : P.testBit i = true) : F.testBit i = true := by
  have := congrArg (fun n => n.testBit i) h
  simpa [hp] using this

@[simp] theorem Dev.mask_stp_col {F : Nat} (h : 1310720 &&& F = 1310720) (d : Dev) (x18) (x20) :
    Dev.mask F { d with stp := x18, col := x20 } = Dev.mask F d := by
  simp [Dev.mask, testBit_of_sub h 18 (by decide), testBit_of_sub h 20 (by decide)]

@[simp] theorem Dev.mask_phase {F : Nat} (h : 1 &&& F = 1) (d : Dev) (x0) :
    Dev.mask F { d with phase := x0 } = Dev.mask F d := by
  simp [Dev.mask, testBit_of_sub h 0 (by decide)]

@[simp] theorem Dev.mask_bootEvent {F : Nat} (h : 4 &&& F = 4) (d : Dev) (x2) :
    Dev.mask F { d with bootEvent := x2 } = Dev.mask F d := by
  simp [Dev.mask, testBit_of_sub h 2 (by decide)]

@[simp] theorem Dev.mask_regs {F : Nat} (h : 8 &&& F = 8) (d : Dev) (x3) :
    Dev.mask F { d with regs := x3 } = Dev.mask F d := by
  simp [Dev.mask, testBit_of_sub h 3 (by decide)]

@[simp] theorem Dev.mask_units {F : Nat} (h : 16 &&& F = 16) (d : Dev) (x4) :
    Dev.mask F { d with units := x4 } = Dev.mask F d := by
  simp [Dev.mask, testBit_of_sub h 4 (by decide)]

@[simp] theorem Dev.mask_evr {F : Nat} (h : 32 &&& F = 32) (d : Dev) (x5) :
    Dev.mask F { d with evr := x5 } = Dev.mask F d := by
  simp [Dev.mask, testBit_of_sub h 5 (by decide)]

@[simp] theorem Dev.mask_sensors {F : Nat} (h : 64 &&& F = 64) (d : Dev) (x6) :
    Dev.mask F { d with sensors := x6 } = Dev.mask F d := by
  simp [Dev.mask, testBit_of_sub h 6 (by decide)]

@[simp] theorem Dev.mask_links {F : Nat} (h : 128 &&& F = 128) (d : Dev) (x7) :
    Dev.mask F { d with links := x7 } = Dev.mask F d := by
  simp [Dev.mask, testBit_of_sub h 7 (by decide)]

@[simp] theorem Dev.mask_bootEvent_links {F : Nat} (h : 132 &&& F = 132) (d : Dev) (x2) (x7) :
    Dev.mask F { d with bootEvent := x2, links := x7 } = Dev.mask F d := by
  simp [Dev.mask, testBit_of_sub h 2 (by decide), testBit_of_sub h 7 (by decide)]

@[simp] theorem Dev.mask_tiles {F : Nat} (h : 256 &&& F = 256) (d : Dev) (x8) :
    Dev.mask F { d with tiles := x8 } = Dev.mask F d := by
  simp [Dev.mask, testBit_of_sub h 8 (by decide)]

@[simp] theorem Dev.mask_posts {F : Nat} (h : 512 &&& F = 512) (d : Dev) (x9) :
    Dev.mask F { d with posts := x9 } = Dev.mask F d := by
  simp [Dev.mask, testBit_of_sub h 9 (by decide)]

@[simp] theorem Dev.mask_stks {F : Nat} (h : 1024 &&& F = 1024) (d : Dev) (x10) :
    Dev.mask F { d with stks := x10 } = Dev.mask F d := by
  simp [Dev.mask, testBit_of_sub h 10 (by decide)]

@[simp] theorem Dev.mask_linePoison {F : Nat} (h : 2048 &&& F = 2048) (d : Dev) (x11) :
    Dev.mask F { d with linePoison := x11 } = Dev.mask F d := by
  simp [Dev.mask, testBit_of_sub h 11 (by decide)]

@[simp] theorem Dev.mask_deckle {F : Nat} (h : 4096 &&& F = 4096) (d : Dev) (x12) :
    Dev.mask F { d with deckle := x12 } = Dev.mask F d := by
  simp [Dev.mask, testBit_of_sub h 12 (by decide)]

@[simp] theorem Dev.mask_solvers {F : Nat} (h : 8192 &&& F = 8192) (d : Dev) (x13) :
    Dev.mask F { d with solvers := x13 } = Dev.mask F d := by
  simp [Dev.mask, testBit_of_sub h 13 (by decide)]

@[simp] theorem Dev.mask_launches {F : Nat} (h : 16384 &&& F = 16384) (d : Dev) (x14) :
    Dev.mask F { d with launches := x14 } = Dev.mask F d := by
  simp [Dev.mask, testBit_of_sub h 14 (by decide)]

@[simp] theorem Dev.mask_deltasSent {F : Nat} (h : 32768 &&& F = 32768) (d : Dev) (x15) :
    Dev.mask F { d with deltasSent := x15 } = Dev.mask F d := by
  simp [Dev.mask, testBit_of_sub h 15 (by decide)]

@[simp] theorem Dev.mask_syn {F : Nat} (h : 65536 &&& F = 65536) (d : Dev) (x16) :
    Dev.mask F { d with syn := x16 } = Dev.mask F d := by
  simp [Dev.mask, testBit_of_sub h 16 (by decide)]

@[simp] theorem Dev.mask_cad {F : Nat} (h : 131072 &&& F = 131072) (d : Dev) (x17) :
    Dev.mask F { d with cad := x17 } = Dev.mask F d := by
  simp [Dev.mask, testBit_of_sub h 17 (by decide)]

@[simp] theorem Dev.mask_stp {F : Nat} (h : 262144 &&& F = 262144) (d : Dev) (x18) :
    Dev.mask F { d with stp := x18 } = Dev.mask F d := by
  simp [Dev.mask, testBit_of_sub h 18 (by decide)]

@[simp] theorem Dev.mask_brezin {F : Nat} (h : 524288 &&& F = 524288) (d : Dev) (x19) :
    Dev.mask F { d with brezin := x19 } = Dev.mask F d := by
  simp [Dev.mask, testBit_of_sub h 19 (by decide)]

@[simp] theorem Dev.mask_col {F : Nat} (h : 1048576 &&& F = 1048576) (d : Dev) (x20) :
    Dev.mask F { d with col := x20 } = Dev.mask F d := by
  simp [Dev.mask, testBit_of_sub h 20 (by decide)]

@[simp] theorem Dev.mask_hbx {F : Nat} (h : 2097152 &&& F = 2097152) (d : Dev) (x21) :
    Dev.mask F { d with hbx := x21 } = Dev.mask F d := by
  simp [Dev.mask, testBit_of_sub h 21 (by decide)]

@[simp] theorem Dev.mask_regs_hbx {F : Nat} (h : 2097160 &&& F = 2097160) (d : Dev) (x3) (x21) :
    Dev.mask F { d with regs := x3, hbx := x21 } = Dev.mask F d := by
  simp [Dev.mask, testBit_of_sub h 3 (by decide), testBit_of_sub h 21 (by decide)]

@[simp] theorem Dev.mask_pci {F : Nat} (h : 4194304 &&& F = 4194304) (d : Dev) (x22) :
    Dev.mask F { d with pci := x22 } = Dev.mask F d := by
  simp [Dev.mask, testBit_of_sub h 22 (by decide)]

@[simp] theorem Dev.mask_sec {F : Nat} (h : 8388608 &&& F = 8388608) (d : Dev) (x23) :
    Dev.mask F { d with sec := x23 } = Dev.mask F d := by
  simp [Dev.mask, testBit_of_sub h 23 (by decide)]

@[simp] theorem Dev.mask_variant_sec {F : Nat} (h : 8388610 &&& F = 8388610) (d : Dev) (x1) (x23) :
    Dev.mask F { d with variant := x1, sec := x23 } = Dev.mask F d := by
  simp [Dev.mask, testBit_of_sub h 1 (by decide), testBit_of_sub h 23 (by decide)]

@[simp] theorem Dev.mask_pwr {F : Nat} (h : 16777216 &&& F = 16777216) (d : Dev) (x24) :
    Dev.mask F { d with pwr := x24 } = Dev.mask F d := by
  simp [Dev.mask, testBit_of_sub h 24 (by decide)]

@[simp] theorem Dev.mask_bootEvent_pwr {F : Nat} (h : 16777220 &&& F = 16777220) (d : Dev) (x2) (x24) :
    Dev.mask F { d with bootEvent := x2, pwr := x24 } = Dev.mask F d := by
  simp [Dev.mask, testBit_of_sub h 2 (by decide), testBit_of_sub h 24 (by decide)]

@[simp] theorem Dev.mask_bootEvent_evr_pwr {F : Nat} (h : 16777252 &&& F = 16777252) (d : Dev) (x2) (x5) (x24) :
    Dev.mask F { d with bootEvent := x2, evr := x5, pwr := x24 } = Dev.mask F d := by
  simp [Dev.mask, testBit_of_sub h 2 (by decide), testBit_of_sub h 5 (by decide), testBit_of_sub h 24 (by decide)]

@[simp] theorem Dev.mask_units_tiles_posts_stks_solvers_launches_deltasSent_syn_stp_pwr {F : Nat} (h : 17164048 &&& F = 17164048) (d : Dev) (x4) (x8) (x9) (x10) (x13) (x14) (x15) (x16) (x18) (x24) :
    Dev.mask F { d with units := x4, tiles := x8, posts := x9, stks := x10, solvers := x13, launches := x14, deltasSent := x15, syn := x16, stp := x18, pwr := x24 } = Dev.mask F d := by
  simp [Dev.mask, testBit_of_sub h 4 (by decide), testBit_of_sub h 8 (by decide), testBit_of_sub h 9 (by decide), testBit_of_sub h 10 (by decide), testBit_of_sub h 13 (by decide), testBit_of_sub h 14 (by decide), testBit_of_sub h 15 (by decide), testBit_of_sub h 16 (by decide), testBit_of_sub h 18 (by decide), testBit_of_sub h 24 (by decide)]

@[simp] theorem Dev.mask_regs_evr_stks_pci_sec_pwr {F : Nat} (h : 29361192 &&& F = 29361192) (d : Dev) (x3) (x5) (x10) (x22) (x23) (x24) :
    Dev.mask F { d with regs := x3, evr := x5, stks := x10, pci := x22, sec := x23, pwr := x24 } = Dev.mask F d := by
  simp [Dev.mask, testBit_of_sub h 3 (by decide), testBit_of_sub h 5 (by decide), testBit_of_sub h 10 (by decide), testBit_of_sub h 22 (by decide), testBit_of_sub h 23 (by decide), testBit_of_sub h 24 (by decide)]

@[simp] theorem Dev.mask_hours {F : Nat} (h : 33554432 &&& F = 33554432) (d : Dev) (x25) :
    Dev.mask F { d with hours := x25 } = Dev.mask F d := by
  simp [Dev.mask, testBit_of_sub h 25 (by decide)]

@[simp] theorem Dev.mask_wout {F : Nat} (h : 67108864 &&& F = 67108864) (d : Dev) (x26) :
    Dev.mask F { d with wout := x26 } = Dev.mask F d := by
  simp [Dev.mask, testBit_of_sub h 26 (by decide)]

@[simp] theorem Dev.mask_free {F : Nat} (h : 134217728 &&& F = 134217728) (d : Dev) (x27) :
    Dev.mask F { d with free := x27 } = Dev.mask F d := by
  simp [Dev.mask, testBit_of_sub h 27 (by decide)]

@[simp] theorem Dev.mask_syn_stp {F : Nat} (h : 327680 &&& F = 327680) (d : Dev) (x16) (x18) :
    Dev.mask F { d with syn := x16, stp := x18 } = Dev.mask F d := by
  simp [Dev.mask, testBit_of_sub h 16 (by decide), testBit_of_sub h 18 (by decide)]

@[simp] theorem Dev.mask_deckle_free {F : Nat} (h : 134221824 &&& F = 134221824) (d : Dev) (x12) (x27) :
    Dev.mask F { d with deckle := x12, free := x27 } = Dev.mask F d := by
  simp [Dev.mask, testBit_of_sub h 12 (by decide), testBit_of_sub h 27 (by decide)]

@[simp] theorem Dev.mask_bootEvent_sec {F : Nat} (h : 8388612 &&& F = 8388612) (d : Dev) (x2) (x23) :
    Dev.mask F { d with bootEvent := x2, sec := x23 } = Dev.mask F d := by
  simp [Dev.mask, testBit_of_sub h 2 (by decide), testBit_of_sub h 23 (by decide)]

theorem Dev.mask_mask {P F : Nat} (h : P &&& F = P) (d : Dev) : (d.mask P).mask F = d.mask F := by
  have key : ∀ i, F.testBit i = false → P.testBit i = false := fun i hi => by
    cases hp : P.testBit i
    · rfl
    · rw [testBit_of_sub h i hp] at hi; cases hi
  simp only [Dev.mask, Dev.mk.injEq]
  refine ⟨?_, ?_, ?_, ?_, ?_, ?_, ?_, ?_, ?_, ?_, ?_, ?_, ?_, ?_, ?_, ?_, ?_, ?_, ?_, ?_, ?_, ?_, ?_, ?_, ?_, ?_, ?_, ?_⟩
  · cases hf : F.testBit 0 <;> simp [key 0, hf]
  · cases hf : F.testBit 1 <;> simp [key 1, hf]
  · cases hf : F.testBit 2 <;> simp [key 2, hf]
  · cases hf : F.testBit 3 <;> simp [key 3, hf]
  · cases hf : F.testBit 4 <;> simp [key 4, hf]
  · cases hf : F.testBit 5 <;> simp [key 5, hf]
  · cases hf : F.testBit 6 <;> simp [key 6, hf]
  · cases hf : F.testBit 7 <;> simp [key 7, hf]
  · cases hf : F.testBit 8 <;> simp [key 8, hf]
  · cases hf : F.testBit 9 <;> simp [key 9, hf]
  · cases hf : F.testBit 10 <;> simp [key 10, hf]
  · cases hf : F.testBit 11 <;> simp [key 11, hf]
  · cases hf : F.testBit 12 <;> simp [key 12, hf]
  · cases hf : F.testBit 13 <;> simp [key 13, hf]
  · cases hf : F.testBit 14 <;> simp [key 14, hf]
  · cases hf : F.testBit 15 <;> simp [key 15, hf]
  · cases hf : F.testBit 16 <;> simp [key 16, hf]
  · cases hf : F.testBit 17 <;> simp [key 17, hf]
  · cases hf : F.testBit 18 <;> simp [key 18, hf]
  · cases hf : F.testBit 19 <;> simp [key 19, hf]
  · cases hf : F.testBit 20 <;> simp [key 20, hf]
  · cases hf : F.testBit 21 <;> simp [key 21, hf]
  · cases hf : F.testBit 22 <;> simp [key 22, hf]
  · cases hf : F.testBit 23 <;> simp [key 23, hf]
  · cases hf : F.testBit 24 <;> simp [key 24, hf]
  · cases hf : F.testBit 25 <;> simp [key 25, hf]
  · cases hf : F.testBit 26 <;> simp [key 26, hf]
  · cases hf : F.testBit 27 <;> simp [key 27, hf]

theorem Dev.mask_sub {P F : Nat} (h : P &&& F = P) {d e : Dev} (he : d.mask P = e.mask P) : d.mask F = e.mask F := by
  rw [← Dev.mask_mask h d, he, Dev.mask_mask h]

theorem Dev.phase_of_mask {F : Nat} (h : F.testBit 0 = false) {d e : Dev} (he : d.mask F = e.mask F) : d.phase = e.phase := by
  simpa [Dev.mask, h] using congrArg Dev.phase he

theorem Dev.variant_of_mask {F : Nat} (h : F.testBit 1 = false) {d e : Dev} (he : d.mask F = e.mask F) : d.variant = e.variant := by
  simpa [Dev.mask, h] using congrArg Dev.variant he

theorem Dev.bootEvent_of_mask {F : Nat} (h : F.testBit 2 = false) {d e : Dev} (he : d.mask F = e.mask F) : d.bootEvent = e.bootEvent := by
  simpa [Dev.mask, h] using congrArg Dev.bootEvent he

theorem Dev.regs_of_mask {F : Nat} (h : F.testBit 3 = false) {d e : Dev} (he : d.mask F = e.mask F) : d.regs = e.regs := by
  simpa [Dev.mask, h] using congrArg Dev.regs he

theorem Dev.units_of_mask {F : Nat} (h : F.testBit 4 = false) {d e : Dev} (he : d.mask F = e.mask F) : d.units = e.units := by
  simpa [Dev.mask, h] using congrArg Dev.units he

theorem Dev.evr_of_mask {F : Nat} (h : F.testBit 5 = false) {d e : Dev} (he : d.mask F = e.mask F) : d.evr = e.evr := by
  simpa [Dev.mask, h] using congrArg Dev.evr he

theorem Dev.sensors_of_mask {F : Nat} (h : F.testBit 6 = false) {d e : Dev} (he : d.mask F = e.mask F) : d.sensors = e.sensors := by
  simpa [Dev.mask, h] using congrArg Dev.sensors he

theorem Dev.links_of_mask {F : Nat} (h : F.testBit 7 = false) {d e : Dev} (he : d.mask F = e.mask F) : d.links = e.links := by
  simpa [Dev.mask, h] using congrArg Dev.links he

theorem Dev.tiles_of_mask {F : Nat} (h : F.testBit 8 = false) {d e : Dev} (he : d.mask F = e.mask F) : d.tiles = e.tiles := by
  simpa [Dev.mask, h] using congrArg Dev.tiles he

theorem Dev.posts_of_mask {F : Nat} (h : F.testBit 9 = false) {d e : Dev} (he : d.mask F = e.mask F) : d.posts = e.posts := by
  simpa [Dev.mask, h] using congrArg Dev.posts he

theorem Dev.stks_of_mask {F : Nat} (h : F.testBit 10 = false) {d e : Dev} (he : d.mask F = e.mask F) : d.stks = e.stks := by
  simpa [Dev.mask, h] using congrArg Dev.stks he

theorem Dev.linePoison_of_mask {F : Nat} (h : F.testBit 11 = false) {d e : Dev} (he : d.mask F = e.mask F) : d.linePoison = e.linePoison := by
  simpa [Dev.mask, h] using congrArg Dev.linePoison he

theorem Dev.deckle_of_mask {F : Nat} (h : F.testBit 12 = false) {d e : Dev} (he : d.mask F = e.mask F) : d.deckle = e.deckle := by
  simpa [Dev.mask, h] using congrArg Dev.deckle he

theorem Dev.solvers_of_mask {F : Nat} (h : F.testBit 13 = false) {d e : Dev} (he : d.mask F = e.mask F) : d.solvers = e.solvers := by
  simpa [Dev.mask, h] using congrArg Dev.solvers he

theorem Dev.launches_of_mask {F : Nat} (h : F.testBit 14 = false) {d e : Dev} (he : d.mask F = e.mask F) : d.launches = e.launches := by
  simpa [Dev.mask, h] using congrArg Dev.launches he

theorem Dev.deltasSent_of_mask {F : Nat} (h : F.testBit 15 = false) {d e : Dev} (he : d.mask F = e.mask F) : d.deltasSent = e.deltasSent := by
  simpa [Dev.mask, h] using congrArg Dev.deltasSent he

theorem Dev.syn_of_mask {F : Nat} (h : F.testBit 16 = false) {d e : Dev} (he : d.mask F = e.mask F) : d.syn = e.syn := by
  simpa [Dev.mask, h] using congrArg Dev.syn he

theorem Dev.cad_of_mask {F : Nat} (h : F.testBit 17 = false) {d e : Dev} (he : d.mask F = e.mask F) : d.cad = e.cad := by
  simpa [Dev.mask, h] using congrArg Dev.cad he

theorem Dev.stp_of_mask {F : Nat} (h : F.testBit 18 = false) {d e : Dev} (he : d.mask F = e.mask F) : d.stp = e.stp := by
  simpa [Dev.mask, h] using congrArg Dev.stp he

theorem Dev.brezin_of_mask {F : Nat} (h : F.testBit 19 = false) {d e : Dev} (he : d.mask F = e.mask F) : d.brezin = e.brezin := by
  simpa [Dev.mask, h] using congrArg Dev.brezin he

theorem Dev.col_of_mask {F : Nat} (h : F.testBit 20 = false) {d e : Dev} (he : d.mask F = e.mask F) : d.col = e.col := by
  simpa [Dev.mask, h] using congrArg Dev.col he

theorem Dev.hbx_of_mask {F : Nat} (h : F.testBit 21 = false) {d e : Dev} (he : d.mask F = e.mask F) : d.hbx = e.hbx := by
  simpa [Dev.mask, h] using congrArg Dev.hbx he

theorem Dev.pci_of_mask {F : Nat} (h : F.testBit 22 = false) {d e : Dev} (he : d.mask F = e.mask F) : d.pci = e.pci := by
  simpa [Dev.mask, h] using congrArg Dev.pci he

theorem Dev.sec_of_mask {F : Nat} (h : F.testBit 23 = false) {d e : Dev} (he : d.mask F = e.mask F) : d.sec = e.sec := by
  simpa [Dev.mask, h] using congrArg Dev.sec he

theorem Dev.pwr_of_mask {F : Nat} (h : F.testBit 24 = false) {d e : Dev} (he : d.mask F = e.mask F) : d.pwr = e.pwr := by
  simpa [Dev.mask, h] using congrArg Dev.pwr he

theorem Dev.hours_of_mask {F : Nat} (h : F.testBit 25 = false) {d e : Dev} (he : d.mask F = e.mask F) : d.hours = e.hours := by
  simpa [Dev.mask, h] using congrArg Dev.hours he

theorem Dev.wout_of_mask {F : Nat} (h : F.testBit 26 = false) {d e : Dev} (he : d.mask F = e.mask F) : d.wout = e.wout := by
  simpa [Dev.mask, h] using congrArg Dev.wout he

theorem Dev.free_of_mask {F : Nat} (h : F.testBit 27 = false) {d e : Dev} (he : d.mask F = e.mask F) : d.free = e.free := by
  simpa [Dev.mask, h] using congrArg Dev.free he

@[simp] theorem Dev.mask_ite {F : Nat} (c : Prop) [Decidable c] (a b : Dev) :
    (if c then a else b).mask F = if c then a.mask F else b.mask F := apply_ite _ _ _ _

@[simp] theorem Dev.mask_fst_ite {α : Type} {F : Nat} (c : Prop) [Decidable c] (a b : Dev × α) :
    (if c then a else b).1.mask F = if c then a.1.mask F else b.1.mask F := by split <;> rfl

@[simp] theorem Dev.mask_snd_ite {α : Type} {F : Nat} (c : Prop) [Decidable c] (a b : α × Dev) :
    (if c then a else b).2.mask F = if c then a.2.mask F else b.2.mask F := by split <;> rfl

@[simp] theorem Dev.mask_foldl {α : Type} {F : Nat} (f : Dev → α → Dev) (h : ∀ d x, (f d x).mask F = d.mask F) (l : List α) (d : Dev) :
    (l.foldl f d).mask F = d.mask F := by
  induction l generalizing d with
  | nil => rfl
  | cons x l ih => rw [List.foldl_cons, ih, h]

theorem Dev.sub_trans {P G F : Nat} (h : P &&& G = P) (hF : G &&& F = G) : P &&& F = P := by
  rw [← h, Nat.and_assoc, hF]

theorem Dev.foldl_keep {α β : Type} (P : β → Prop) (f : β → α → β) (h : ∀ b x, P b → P (f b x)) (l : List α) (b : β) (hb : P b) :
    P (l.foldl f b) := by
  induction l generalizing b with
  | nil => exact hb
  | cons x l ih => exact ih _ (h _ _ hb)

theorem Dev.fst_of_eq {α : Type} {p : Dev × α} {d : Dev} {a : α} (h : p = (d, a)) : d = p.1 := by rw [h]

theorem Dev.snd_of_eq {α : Type} {p : α × Dev} {d : Dev} {a : α} (h : p = (a, d)) : d = p.2 := by rw [h]

end Sys2Proof.Machine
end

