-- ==== Sys2Proof/Laws/Frames.lean ====
section
/-! SUPPORT. Laws/Frames.lean: for each operation on the device, the most it can change (`Dev.mask`). -/

namespace Sys2Proof.Machine

@[simp] theorem Dev.fset_mask {F : Nat} (hF : 8 &&& F = 8) (d : Dev) (f : Field) (i : Nat) (v : Nat) :
    (Dev.fset d f i v).mask F = d.mask F := by
  refine Dev.mask_sub hF ?_
  unfold Dev.fset
  simp

@[simp] theorem Dev.fcount_mask {F : Nat} (hF : 8 &&& F = 8) (d : Dev) (f : Field) (i : Nat) (n : Nat) :
    (Dev.fcount d f i n).mask F = d.mask F := by
  refine Dev.mask_sub hF ?_
  unfold Dev.fcount
  simp

@[simp] theorem Dev.fwrap_mask {F : Nat} (hF : 8 &&& F = 8) (d : Dev) (f : Field) (i : Nat) :
    (Dev.fwrap d f i).mask F = d.mask F := by
  refine Dev.mask_sub hF ?_
  unfold Dev.fwrap
  simp

@[simp] theorem Dev.setUnit_mask {F : Nat} (hF : 16 &&& F = 16) (d : Dev) (cls : Nat) (inst : Nat) (u : UnitPage) :
    (Dev.setUnit d cls inst u).mask F = d.mask F := by
  refine Dev.mask_sub hF ?_
  unfold Dev.setUnit
  simp

@[simp] theorem Dev.onUnit_mask {F : Nat} (hF : 16 &&& F = 16) (d : Dev) (cls : Nat) (inst : Nat) (f : UnitPage → UnitPage) :
    (Dev.onUnit d cls inst f).mask F = d.mask F := by
  refine Dev.mask_sub hF ?_
  unfold Dev.onUnit
  simp

@[simp] theorem Dev.raise_mask {F : Nat} (hF : 32 &&& F = 32) (d : Dev) (r : RawRec) :
    (Dev.raise d r).mask F = d.mask F := by
  refine Dev.mask_sub hF ?_
  unfold Dev.raise
  simp

@[simp] theorem Dev.record_mask {F : Nat} (hF : 32 &&& F = 32) (d : Dev) (code : Nat) (cls : Nat) (inst : Nat) (p0 : Nat) (p1 : Nat) (p2 : Nat) :
    (Dev.record d code cls inst p0 p1 p2).mask F = d.mask F := by
  refine Dev.mask_sub hF ?_
  unfold Dev.record
  simp

@[simp] theorem Dev.signal_mask {F : Nat} (hF : 4194304 &&& F = 4194304) (d : Dev) (v : Nat) :
    (Dev.signal d v).mask F = d.mask F := by
  refine Dev.mask_sub hF ?_
  unfold Dev.signal
  simp

@[simp] theorem Dev.errorSignal_mask {F : Nat} (hF : 4194336 &&& F = 4194336) (d : Dev) (ucf : Bool) :
    (Dev.errorSignal d ucf).mask F = d.mask F := by
  refine Dev.mask_sub hF ?_
  unfold Dev.errorSignal
  simp

@[simp] theorem Dev.busy_mask {F : Nat} (hF : 8 &&& F = 8) (d : Dev) (f : Field) (p : Nat) (before : Nat) (after : Nat) :
    (Dev.busy d f p before after).mask F = d.mask F := by
  refine Dev.mask_sub hF ?_
  unfold Dev.busy
  simp

@[simp] theorem Dev.pgErrSub_mask {F : Nat} (hF : 4194352 &&& F = 4194352) (d : Dev) (cls : Nat) (inst : Nat) (bs : Nat) (code : Nat) (sub : Nat) (p0 : Nat) (p1 : Nat) (p2 : Nat) (always : Bool) :
    (Dev.pgErrSub d cls inst bs code sub p0 p1 p2 always).mask F = d.mask F := by
  refine Dev.mask_sub hF ?_
  unfold Dev.pgErrSub
  simp

@[simp] theorem Dev.pgErr_mask {F : Nat} (hF : 4194352 &&& F = 4194352) (d : Dev) (cls : Nat) (inst : Nat) (bs : Nat) (code : Nat) (p0 : Nat) (p1 : Nat) (p2 : Nat) :
    (Dev.pgErr d cls inst bs code p0 p1 p2).mask F = d.mask F := by
  refine Dev.mask_sub hF ?_
  unfold Dev.pgErr
  simp

@[simp] theorem Dev.setPhase_mask {F : Nat} (hF : 33 &&& F = 33) (d : Dev) (p : DevPhase) :
    (Dev.setPhase d p).mask F = d.mask F := by
  refine Dev.mask_sub hF ?_
  unfold Dev.setPhase
  simp

@[simp] theorem Dev.badAccess_mask {F : Nat} (hF : 40 &&& F = 40) (d : Dev) (off : Nat) (source : Nat) (barrier : Nat) (resv : Bool) (partial_ : Bool) (write : Bool) :
    (Dev.badAccess d off source barrier resv partial_ write).mask F = d.mask F := by
  refine Dev.mask_sub hF ?_
  unfold Dev.badAccess
  simp

@[simp] theorem Dev.host_mask {F : Nat} (d : Dev) (f : Dev → Dev) (hf : ∀ d, (f d).mask F = d.mask F) : (d.host f).mask F = d.mask F := by
  simp [Dev.host, hf]

@[simp] theorem Dev.setTile_mask {F : Nat} (hF : 256 &&& F = 256) (d : Dev) (p : Nat) (t : Tile) :
    (Dev.setTile d p t).mask F = d.mask F := by
  refine Dev.mask_sub hF ?_
  unfold Dev.setTile
  simp

@[simp] theorem Dev.onTile_mask {F : Nat} (hF : 256 &&& F = 256) (d : Dev) (p : Nat) (f : Tile → Tile) :
    (Dev.onTile d p f).mask F = d.mask F := by
  refine Dev.mask_sub hF ?_
  unfold Dev.onTile
  simp

@[simp] theorem Dev.doorbell_mask {F : Nat} (hF : 256 &&& F = 256) (d : Dev) (kind : Nat) (src : Nat) :
    (Dev.doorbell d kind src).mask F = d.mask F := by
  refine Dev.mask_sub hF ?_
  unfold Dev.doorbell
  try dsimp only
  repeat' first
    | (simp; done)
    | (split <;> first | (rename_i hp; cases Dev.fst_of_eq hp; clear hp) | (rename_i hp; cases Dev.snd_of_eq hp; clear hp) | skip)
    | (refine (Dev.mask_foldl _ ?_ _ _).trans ?_)
    | intro _ _
    | intro _
    | dsimp only

@[simp] theorem Dev.setCq_mask {F : Nat} (hF : 2097152 &&& F = 2097152) (d : Dev) (q : Nat) (c : Cq) :
    (Dev.setCq d q c).mask F = d.mask F := by
  refine Dev.mask_sub hF ?_
  unfold Dev.setCq
  simp

@[simp] theorem Dev.setSq_mask {F : Nat} (hF : 2097152 &&& F = 2097152) (d : Dev) (q : Nat) (c : Sq) :
    (Dev.setSq d q c).mask F = d.mask F := by
  refine Dev.mask_sub hF ?_
  unfold Dev.setSq
  simp

@[simp] theorem Dev.dropCompletions_mask {F : Nat} (hF : 40 &&& F = 40) (d : Dev) (n : Nat) :
    (Dev.dropCompletions d n).mask F = d.mask F := by
  refine Dev.mask_sub hF ?_
  unfold Dev.dropCompletions
  simp

@[simp] theorem Dev.postCq_mask {F : Nat} (hF : 2097192 &&& F = 2097192) (d : Dev) (q : Nat) (e : CqEntry) :
    (Dev.postCq d q e).mask F = d.mask F := by
  refine Dev.mask_sub hF ?_
  unfold Dev.postCq
  simp

@[simp] theorem Dev.postUnsolicited_mask {F : Nat} (hF : 2097192 &&& F = 2097192) (d : Dev) (kind : Nat) (status : Nat) (p0 : Nat) (p1 : Nat) (p2 : Nat) :
    (Dev.postUnsolicited d kind status p0 p1 p2).mask F = d.mask F := by
  refine Dev.mask_sub hF ?_
  unfold Dev.postUnsolicited
  simp

@[simp] theorem Dev.complete_mask {F : Nat} (hF : 2097192 &&& F = 2097192) (d : Dev) (c : HostCmd) (status : Nat) (p0 : Nat) (p1 : Nat) :
    (Dev.complete d c status p0 p1).mask F = d.mask F := by
  refine Dev.mask_sub hF ?_
  unfold Dev.complete
  simp

@[simp] theorem Dev.tileCompletion_mask {F : Nat} (hF : 2097192 &&& F = 2097192) (d : Dev) (p : Nat) (status : Nat) (p1 : Nat) (p2 : Nat) :
    (Dev.tileCompletion d p status p1 p2).mask F = d.mask F := by
  refine Dev.mask_sub hF ?_
  unfold Dev.tileCompletion
  simp

@[simp] theorem Dev.pokeBytes_mask {F : Nat} (hF : 67108864 &&& F = 67108864) (d : Dev) (a : Nat) (bs : List Nat) :
    (Dev.pokeBytes d a bs).mask F = d.mask F := by
  refine Dev.mask_sub hF ?_
  unfold Dev.pokeBytes
  simp

@[simp] theorem Dev.setLine_mask {F : Nat} (hF : 2048 &&& F = 2048) (d : Dev) (line : Nat) (p : Bool) :
    (Dev.setLine d line p).mask F = d.mask F := by
  refine Dev.mask_sub hF ?_
  unfold Dev.setLine
  simp

@[simp] theorem Dev.stackPoison_mask {F : Nat} (hF : 4194352 &&& F = 4194352) (d : Dev) (a : Nat) (how : Nat) :
    (Dev.stackPoison d a how).mask F = d.mask F := by
  refine Dev.mask_sub hF ?_
  unfold Dev.stackPoison
  simp

@[simp] theorem Dev.setEntry_mask {F : Nat} (hF : 4096 &&& F = 4096) (d : Dev) (h : Nat) (r : Region) :
    (Dev.setEntry d h r).mask F = d.mask F := by
  refine Dev.mask_sub hF ?_
  unfold Dev.setEntry
  simp

@[simp] theorem Dev.fresh_mask {F : Nat} (h : 134217728 &&& F = 134217728) (d : Dev) : d.fresh.2.mask F = d.mask F := by
  simp [Dev.fresh, Dev.mask_free h]

@[simp] theorem Dev.setFelt_mask {F : Nat} (hF : 128 &&& F = 128) (d : Dev) (a : Nat) (b : Nat) (x : FeltLink) :
    (Dev.setFelt d a b x).mask F = d.mask F := by
  refine Dev.mask_sub hF ?_
  unfold Dev.setFelt
  simp

@[simp] theorem Dev.rehealth_mask {F : Nat} (hF : 4136 &&& F = 4136) (d : Dev) (i : Nat) :
    (Dev.rehealth d i).mask F = d.mask F := by
  refine Dev.mask_sub hF ?_
  unfold Dev.rehealth
  simp

@[simp] theorem Dev.rehealthAll_mask {F : Nat} (hF : 4136 &&& F = 4136) (d : Dev) (l : List Nat) :
    (Dev.rehealthAll d l).mask F = d.mask F := by
  refine Dev.mask_sub hF ?_
  unfold Dev.rehealthAll
  simp

@[simp] theorem Dev.checkDegraded_mask {F : Nat} (hF : 33 &&& F = 33) (d : Dev) :
    (Dev.checkDegraded d).mask F = d.mask F := by
  refine Dev.mask_sub hF ?_
  unfold Dev.checkDegraded
  simp

@[simp] theorem Dev.refresh_mask {F : Nat} (hF : 4137 &&& F = 4137) (d : Dev) (i : Nat) :
    (Dev.refresh d i).mask F = d.mask F := by
  refine Dev.mask_sub hF ?_
  unfold Dev.refresh
  simp

@[simp] theorem Dev.setBar_mask {F : Nat} (hF : 65536 &&& F = 65536) (d : Dev) (b : Nat) (x : Barrier) :
    (Dev.setBar d b x).mask F = d.mask F := by
  refine Dev.mask_sub hF ?_
  unfold Dev.setBar
  simp

@[simp] theorem Dev.releaseArrivals_mask {F : Nat} (hF : 65792 &&& F = 65792) (d : Dev) (b : Nat) (status : Nat) (tiles : List Nat) (host : Bool) :
    (Dev.releaseArrivals d b status tiles host).mask F = d.mask F := by
  refine Dev.mask_sub hF ?_
  unfold Dev.releaseArrivals
  simp

@[simp] theorem Dev.releaseBar_mask {F : Nat} (hF : 65792 &&& F = 65792) (d : Dev) (b : Nat) :
    (Dev.releaseBar d b).mask F = d.mask F := by
  refine Dev.mask_sub hF ?_
  unfold Dev.releaseBar
  simp

@[simp] theorem Dev.breakBar_mask {F : Nat} (hF : 332064 &&& F = 332064) (d : Dev) (b cause : Nat) :
    (d.breakBar b cause).mask F = d.mask F := by
  refine Dev.mask_sub hF ?_
  unfold Dev.breakBar
  simp

@[simp] theorem Dev.breakAll_mask {F : Nat} (hF : 134549792 &&& F = 134549792) (d : Dev) :
    (Dev.breakAll d).mask F = d.mask F := by
  refine Dev.mask_sub hF ?_
  unfold Dev.breakAll
  simp

@[simp] theorem Dev.setStack_mask {F : Nat} (hF : 1024 &&& F = 1024) (d : Dev) (s : Nat) (x : Stack) :
    (Dev.setStack d s x).mask F = d.mask F := by
  refine Dev.mask_sub hF ?_
  unfold Dev.setStack
  simp

@[simp] theorem Dev.onStack_mask {F : Nat} (hF : 1024 &&& F = 1024) (d : Dev) (s : Nat) (f : Stack → Stack) :
    (Dev.onStack d s f).mask F = d.mask F := by
  refine Dev.mask_sub hF ?_
  unfold Dev.onStack
  simp

@[simp] theorem Dev.dkEvent_mask {F : Nat} (hF : 4096 &&& F = 4096) (d : Dev) (e : DkEvent) :
    (Dev.dkEvent d e).mask F = d.mask F := by
  refine Dev.mask_sub hF ?_
  unfold Dev.dkEvent
  simp

@[simp] theorem Dev.worsen_mask {F : Nat} (hF : 4137 &&& F = 4137) (d : Dev) (s : Nat) (h : Nat) :
    (Dev.worsen d s h).mask F = d.mask F := by
  refine Dev.mask_sub hF ?_
  unfold Dev.worsen
  simp

@[simp] theorem Dev.activateRow_mask {F : Nat} (hF : 1024 &&& F = 1024) (d : Dev) (s : Nat) (row : Nat) :
    (Dev.activateRow d s row).mask F = d.mask F := by
  refine Dev.mask_sub hF ?_
  unfold Dev.activateRow
  simp

@[simp] theorem Dev.lowerBin_mask {F : Nat} (hF : 8389640 &&& F = 8389640) (d : Dev) (s : Nat) (row : Nat) :
    (Dev.lowerBin d s row).mask F = d.mask F := by
  refine Dev.mask_sub hF ?_
  unfold Dev.lowerBin
  simp; (repeat' split) <;> simp

@[simp] theorem Dev.requestScrub_mask {F : Nat} (hF : 1032 &&& F = 1032) (d : Dev) (s : Nat) (line : Nat) :
    (Dev.requestScrub d s line).mask F = d.mask F := by
  refine Dev.mask_sub hF ?_
  unfold Dev.requestScrub
  simp

@[simp] theorem Dev.correctedRead_mask {F : Nat} (hF : 12588089 &&& F = 12588089) (d : Dev) (a : Nat) (symbols : Nat) (row : Nat) (retention : Bool) (scrub : Bool) :
    (Dev.correctedRead d a symbols row retention scrub).mask F = d.mask F := by
  refine Dev.mask_sub hF ?_
  unfold Dev.correctedRead
  simp

@[simp] theorem Dev.uncorrectableRead_mask {F : Nat} (hF : 4201529 &&& F = 4201529) (d : Dev) (a : Nat) (row : Nat) :
    (Dev.uncorrectableRead d a row).mask F = d.mask F := by
  refine Dev.mask_sub hF ?_
  unfold Dev.uncorrectableRead
  simp

@[simp] theorem Dev.cellsGone_mask {F : Nat} (hF : 1024 &&& F = 1024) (d : Dev) (a : Nat) :
    (Dev.cellsGone d a).mask F = d.mask F := by
  refine Dev.mask_sub hF ?_
  unfold Dev.cellsGone
  simp

@[simp] theorem Dev.disturb_mask {F : Nat} (hF : 3072 &&& F = 3072) (d : Dev) (m : Mem) (a : Nat) (ecc : Ecc) :
    (Dev.disturb d m a ecc).mask F = d.mask F := by
  refine Dev.mask_sub hF ?_
  unfold Dev.disturb
  simp

@[simp] theorem Dev.noteRead_mask {F : Nat} (hF : 12590137 &&& F = 12590137) (d : Dev) (a : Nat) (scrub : Bool) :
    (Dev.noteRead d a scrub).1.mask F = d.mask F := by
  refine Dev.mask_sub hF ?_
  unfold Dev.noteRead
  (repeat' split) <;> simp

@[simp] theorem Dev.dieRead_mask {F : Nat} (hF : 12590137 &&& F = 12590137) (d : Dev) (m : Mem) (a : Nat) (ecc : Ecc) (scrub : Bool) :
    (Dev.dieRead d m a ecc scrub).1.mask F = d.mask F := by
  refine Dev.mask_sub hF ?_
  unfold Dev.dieRead
  simp

@[simp] theorem Dev.dieModify_mask {F : Nat} (hF : 79699001 &&& F = 79699001) (d : Dev) (a : Nat) (scrub : Bool) :
    (Dev.dieModify d a scrub).1.mask F = d.mask F := by
  refine Dev.mask_sub hF ?_
  unfold Dev.dieModify
  simp; (repeat' split) <;> simp

@[simp] theorem Dev.markWrite_mask {F : Nat} (hF : 4196400 &&& F = 4196400) (d : Dev) (a : Nat) (whole : Bool) (poison : Bool) (found : Nat) :
    (Dev.markWrite d a whole poison found).mask F = d.mask F := by
  refine Dev.mask_sub hF ?_
  unfold Dev.markWrite
  simp

@[simp] theorem Dev.openLine_mask {F : Nat} (hF : 79699001 &&& F = 79699001) (d : Dev) (a : Nat) (whole : Bool) :
    (Dev.openLine d a whole).1.mask F = d.mask F := by
  refine Dev.mask_sub hF ?_
  unfold Dev.openLine
  simp

@[simp] theorem Dev.writeLine_mask {F : Nat} (hF : 79699001 &&& F = 79699001) (d : Dev) (a : Nat) (bs : List Nat) (poison : Bool) :
    (Dev.writeLine d a bs poison).mask F = d.mask F := by
  refine Dev.mask_sub hF ?_
  unfold Dev.writeLine
  simp

@[simp] theorem Dev.writeBytes_mask {F : Nat} (hF : 79699001 &&& F = 79699001) (d : Dev) (a : Nat) (bs : List Nat) (poison : Bool) :
    (Dev.writeBytes d a bs poison).mask F = d.mask F := by
  refine Dev.mask_sub hF ?_
  unfold Dev.writeBytes
  simp

@[simp] theorem Dev.noteBytes_mask {F : Nat} (hF : 12590137 &&& F = 12590137) (d : Dev) (a : Nat) (n : Nat) :
    (Dev.noteBytes d a n).mask F = d.mask F := by
  refine Dev.mask_sub hF ?_
  unfold Dev.noteBytes
  simp

@[simp] theorem Dev.noteRegion_mask {F : Nat} (hF : 12590137 &&& F = 12590137) (d : Dev) (name : Nat) (o : Nat) (n : Nat) :
    (Dev.noteRegion d name o n).mask F = d.mask F := by
  refine Dev.mask_sub hF ?_
  unfold Dev.noteRegion
  simp

@[simp] theorem Dev.writeUnit_mask {F : Nat} (hF : 79699001 &&& F = 79699001) (d : Dev) (h : Nat) (o : Nat) (bs : List Nat) (poison : Bool) :
    (Dev.writeUnit d h o bs poison).mask F = d.mask F := by
  refine Dev.mask_sub hF ?_
  unfold Dev.writeUnit
  (repeat' split) <;> simp

theorem Dev.writeEntry_mask {F : Nat} (h0 : 79699001 &&& F = 79699001) {d d' : Dev} {h o : Nat} {bs : List Nat} {poison : Bool}
    (hd : d.writeEntry h o bs poison = some d') : d'.mask F = d.mask F := by
  refine Dev.mask_sub h0 ?_
  simp only [Dev.writeEntry] at hd
  split at hd
  · cases hd; simp
  · cases hd

@[simp] theorem Dev.writeEntry_getD_mask {F : Nat} (h0 : 79699001 &&& F = 79699001) (d : Dev) (h o : Nat) (bs : List Nat) (poison : Bool) (e : Dev) (he : e.mask F = d.mask F) :
    ((d.writeEntry h o bs poison).getD e).mask F = d.mask F := by
  cases hd : d.writeEntry h o bs poison with
  | none => simpa using he
  | some d' => simpa using Dev.writeEntry_mask h0 hd

theorem Dev.writeRegion_mask {F : Nat} (h0 : 79699001 &&& F = 79699001) {d d' : Dev} {h o : Nat} {bs : List Nat} {poison : Bool}
    (hd : d.writeRegion h o bs poison = some d') : d'.mask F = d.mask F := by
  exact Dev.writeEntry_mask h0 hd

@[simp] theorem Dev.writeRegion_getD_mask {F : Nat} (h0 : 79699001 &&& F = 79699001) (d : Dev) (h o : Nat) (bs : List Nat) (poison : Bool) (e : Dev) (he : e.mask F = d.mask F) :
    ((d.writeRegion h o bs poison).getD e).mask F = d.mask F := by
  cases hd : d.writeRegion h o bs poison with
  | none => simpa using he
  | some d' => simpa using Dev.writeRegion_mask h0 hd

@[simp] theorem Dev.retireBlock_mask {F : Nat} (hF : 40 &&& F = 40) (d : Dev) (b : Nat) :
    (Dev.retireBlock d b).mask F = d.mask F := by
  refine Dev.mask_sub hF ?_
  unfold Dev.retireBlock
  simp

@[simp] theorem Dev.eraseBlock_mask {F : Nat} (hF : 40 &&& F = 40) (d : Dev) (failing : List Nat) (b : Nat) :
    (Dev.eraseBlock d failing b).mask F = d.mask F := by
  refine Dev.mask_sub hF ?_
  unfold Dev.eraseBlock
  simp

@[simp] theorem Dev.eraseAhead_mask {F : Nat} (hF : 40 &&& F = 40) (d : Dev) (failing : List Nat) (k b : Nat) :
    (d.eraseAhead failing k b).mask F = d.mask F := by
  induction k generalizing d b with
  | zero => rfl
  | succ k ih =>
    unfold Dev.eraseAhead
    dsimp only
    split
    · rw [ih]; refine Dev.mask_sub hF ?_; simp
    · refine Dev.mask_sub hF ?_; simp

@[simp] theorem Dev.writeReam_mask {F : Nat} (hF : 40 &&& F = 40) (d : Dev) (failing : List Nat) (r : Ream) :
    (Dev.writeReam d failing r).mask F = d.mask F := by
  refine Dev.mask_sub hF ?_
  unfold Dev.writeReam
  simp; (repeat' split) <;> simp

@[simp] theorem Dev.flushReams_mask {F : Nat} (hF : 40 &&& F = 40) (d : Dev) (failing : List Nat) (flags lostpf n : Nat) :
    (d.flushReams failing flags lostpf n).mask F = d.mask F := by
  induction n generalizing d with
  | zero => rfl
  | succ k ih =>
    unfold Dev.flushReams
    dsimp only
    split
    · rfl
    · rw [ih]
      refine Dev.mask_sub hF ?_
      simp

@[simp] theorem Dev.flushAll_mask {F : Nat} (hF : 40 &&& F = 40) (d : Dev) (failing : List Nat) (flags : Nat) :
    (Dev.flushAll d failing flags).mask F = d.mask F := by
  refine Dev.mask_sub hF ?_
  unfold Dev.flushAll
  simp

@[simp] theorem Dev.number_mask {F : Nat} (hF : 56 &&& F = 56) (d : Dev) (failing : List Nat) (r : RawRec) (forced : Bool) (powerFail : Bool) :
    (Dev.number d failing r forced powerFail).mask F = d.mask F := by
  refine Dev.mask_sub hF ?_
  unfold Dev.number
  simp

@[simp] theorem Dev.loseRecord_mask {F : Nat} (hF : 40 &&& F = 40) (d : Dev) (n : Nat) :
    (Dev.loseRecord d n).mask F = d.mask F := by
  refine Dev.mask_sub hF ?_
  unfold Dev.loseRecord
  simp

@[simp] theorem Dev.admitRec_mask {F : Nat} (hF : 56 &&& F = 56) (d : Dev) (failing : List Nat) (r : RawRec) :
    (Dev.admitRec d failing r).mask F = d.mask F := by
  refine Dev.mask_sub hF ?_
  unfold Dev.admitRec
  simp

@[simp] theorem Dev.eventRecord_mask {F : Nat} (hF : 56 &&& F = 56) (d : Dev) (failing : List Nat) :
    (Dev.eventRecord d failing).mask F = d.mask F := by
  refine Dev.mask_sub hF ?_
  unfold Dev.eventRecord
  (repeat' split) <;> simp

@[simp] theorem Dev.tokenRefill_mask {F : Nat} (hF : 40 &&& F = 40) (d : Dev) :
    (Dev.tokenRefill d).mask F = d.mask F := by
  refine Dev.mask_sub hF ?_
  unfold Dev.tokenRefill
  simp

@[simp] theorem Dev.timedFlush_mask {F : Nat} (hF : 40 &&& F = 40) (d : Dev) (failing : List Nat) :
    (Dev.timedFlush d failing).mask F = d.mask F := by
  refine Dev.mask_sub hF ?_
  unfold Dev.timedFlush
  (repeat' split) <;> simp

@[simp] theorem Dev.recordsLost_mask {F : Nat} (hF : 56 &&& F = 56) (d : Dev) (failing : List Nat) :
    (Dev.recordsLost d failing).mask F = d.mask F := by
  refine Dev.mask_sub hF ?_
  unfold Dev.recordsLost
  simp

@[simp] theorem Dev.powerFailReam_mask {F : Nat} (hF : 40 &&& F = 40) (d : Dev) (rs : List Rec) (lostpf : Nat) :
    (Dev.powerFailReam d rs lostpf).mask F = d.mask F := by
  refine Dev.mask_sub hF ?_
  unfold Dev.powerFailReam
  (repeat' split) <;> simp

@[simp] theorem Dev.powerFailFlush_mask {F : Nat} (hF : 56 &&& F = 56) (d : Dev) (mv : Nat) :
    (Dev.powerFailFlush d mv).mask F = d.mask F := by
  refine Dev.mask_sub hF ?_
  unfold Dev.powerFailFlush
  simp

@[simp] theorem Dev.dump_mask {F : Nat} (hF : 79699001 &&& F = 79699001) (d : Dev) :
    (Dev.dump d).mask F = d.mask F := by
  refine Dev.mask_sub hF ?_
  unfold Dev.dump
  try dsimp only
  repeat' first
    | (simp; done)
    | ((try simp); exact (Dev.writeRegion_mask (by decide) (by assumption)).trans (by first | rfl | simp))
    | (split <;> first | (rename_i hp; cases Dev.fst_of_eq hp; clear hp) | (rename_i hp; cases Dev.snd_of_eq hp; clear hp) | skip)
    | dsimp only

@[simp] theorem Dev.errorInterval_mask {F : Nat} (hF : 4194336 &&& F = 4194336) (d : Dev) :
    (Dev.errorInterval d).mask F = d.mask F := by
  refine Dev.mask_sub hF ?_
  unfold Dev.errorInterval
  simp

@[simp] theorem Dev.setSensor_mask {F : Nat} (hF : 64 &&& F = 64) (d : Dev) (i : Nat) (s : Sensor) :
    (Dev.setSensor d i s).mask F = d.mask F := by
  refine Dev.mask_sub hF ?_
  unfold Dev.setSensor
  simp

@[simp] theorem Dev.sample_mask {F : Nat} (hF : 96 &&& F = 96) (d : Dev) (i : Nat) (v : Nat) :
    (Dev.sample d i v).mask F = d.mask F := by
  refine Dev.mask_sub hF ?_
  unfold Dev.sample
  (repeat' split) <;> simp

@[simp] theorem Dev.sampleAll_mask {F : Nat} (hF : 96 &&& F = 96) (d : Dev) (vs : List (Nat × Nat)) :
    (Dev.sampleAll d vs).mask F = d.mask F := by
  refine Dev.mask_sub hF ?_
  unfold Dev.sampleAll
  simp

@[simp] theorem Dev.snapshot_mask {F : Nat} (hF : 79699001 &&& F = 79699001) (d : Dev)  :
    (d.snapshot).mask F = d.mask F := by
  refine Dev.mask_sub hF ?_
  unfold Dev.snapshot
  dsimp only
  split
  · rfl
  · split
    · split
      · rename_i hd
        rw [Dev.fwrap_mask (by decide)]
        exact Dev.writeRegion_mask (by decide) hd
      · simp
    · simp

@[simp] theorem Dev.ccMeasure_mask {F : Nat} (hF : 8 &&& F = 8) (d : Dev) (ps : List Nat) :
    (Dev.ccMeasure d ps).mask F = d.mask F := by
  refine Dev.mask_sub hF ?_
  unfold Dev.ccMeasure
  simp

@[simp] theorem Dev.calSweep_mask {F : Nat} (hF : 4194360 &&& F = 4194360) (d : Dev) (kind : Nat) (skew : Nat) (sensor : Nat) (failed : Bool) :
    (Dev.calSweep d kind skew sensor failed).mask F = d.mask F := by
  refine Dev.mask_sub hF ?_
  unfold Dev.calSweep
  simp

@[simp] theorem Dev.uccErr_mask {F : Nat} (hF : 4194352 &&& F = 4194352) (d : Dev) (cls : Nat) (inst : Nat) (bs : Nat) (sub : Nat) (p0 : Nat) (p1 : Nat) (p2 : Nat) :
    (Dev.uccErr d cls inst bs sub p0 p1 p2).mask F = d.mask F := by
  refine Dev.mask_sub hF ?_
  unfold Dev.uccErr
  simp

@[simp] theorem Dev.finishReq_mask {F : Nat} (hF : 256 &&& F = 256) (d : Dev) (r : Req) (status : Nat) (poison : Bool) :
    (Dev.finishReq d r status poison).mask F = d.mask F := by
  refine Dev.mask_sub hF ?_
  unfold Dev.finishReq
  simp

@[simp] theorem Dev.scatterBytes_mask {F : Nat} (hF : 67108864 &&& F = 67108864) (d : Dev) (as : List Nat) (bs : List Nat) :
    (Dev.scatterBytes d as bs).mask F = d.mask F := by
  refine Dev.mask_sub hF ?_
  unfold Dev.scatterBytes
  simp

@[simp] theorem Dev.performWrite_mask {F : Nat} (hF : 79699001 &&& F = 79699001) (d : Dev) (m : Mem) (r : Req) (as : List Nat) :
    (Dev.performWrite d m r as).mask F = d.mask F := by
  refine Dev.mask_sub hF ?_
  unfold Dev.performWrite
  simp; (repeat' split) <;> simp

@[simp] theorem Dev.performAdd_mask {F : Nat} (hF : 79699001 &&& F = 79699001) (d : Dev) (m : Mem) (r : Req) (as : List Nat) :
    (d.performAdd m r as).1.mask F = d.mask F := by
  refine Dev.mask_sub hF ?_
  have key : ∀ (l : List Nat) (g : Dev × Nat → Nat → Dev × Nat), (∀ b i, (g b i).1.mask 79699001 = b.1.mask 79699001) →
      (l.foldl g (d, 0)).1.mask 79699001 = d.mask 79699001 := fun l g hg =>
    Dev.foldl_keep (fun (x : Dev × Nat) => x.1.mask 79699001 = d.mask 79699001) _ (fun x i hx => (hg x i).trans hx) _ _ rfl
  have h := key (linesOf as) (fun (d, k) a =>
    let (d, j) := d.dieModify a false
    (d, max k j)) (fun b i => by simp)
  unfold Dev.performAdd
  dsimp only at h ⊢
  repeat' split
  all_goals simp [h]

@[simp] theorem Dev.performRead_mask {F : Nat} (hF : 256 &&& F = 256) (d : Dev) (r : Req) (bs : List Nat) (poison : Bool) :
    (Dev.performRead d r bs poison).mask F = d.mask F := by
  refine Dev.mask_sub hF ?_
  unfold Dev.performRead
  simp

@[simp] theorem Dev.failRegions_mask {F : Nat} (hF : 4096 &&& F = 4096) (d : Dev) (s : Nat) :
    (Dev.failRegions d s).mask F = d.mask F := by
  refine Dev.mask_sub hF ?_
  unfold Dev.failRegions
  simp

@[simp] theorem Dev.endRequests_mask {F : Nat} (hF : 213916985 &&& F = 213916985) (d : Dev) (m : Mem) (rs : List Req) (status : Nat) :
    (Dev.endRequests d m rs status).mask F = d.mask F := by
  refine Dev.mask_sub hF ?_
  unfold Dev.endRequests
  try dsimp only
  repeat' first
    | (simp [Dev.fresh]; done)
    | (split <;> first | (rename_i hp; cases Dev.fst_of_eq hp; clear hp) | (rename_i hp; cases Dev.snd_of_eq hp; clear hp) | skip)
    | (refine (Dev.mask_foldl _ ?_ _ _).trans ?_)
    | intro _ _
    | intro _
    | dsimp only

@[simp] theorem Dev.dropRequests_mask {F : Nat} (hF : 1024 &&& F = 1024) (d : Dev) (p : Nat → Req → Bool) :
    (Dev.dropRequests d p).1.mask F = d.mask F := by
  refine Dev.mask_sub hF ?_
  unfold Dev.dropRequests
  simp

@[simp] theorem Dev.failRequests_mask {F : Nat} (hF : 213916985 &&& F = 213916985) (d : Dev) (m : Mem) (s : Nat) (moving : List Nat) :
    (Dev.failRequests d m s moving).mask F = d.mask F := by
  refine Dev.mask_sub hF ?_
  unfold Dev.failRequests
  simp

@[simp] theorem Dev.failStack_mask {F : Nat} (hF : 213916985 &&& F = 213916985) (d : Dev) (m : Mem) (s : Nat) (bits : Nat) (sub : Nat) (p0 : Nat) (p1 : Nat) (p2 : Nat) :
    (Dev.failStack d m s bits sub p0 p1 p2).mask F = d.mask F := by
  refine Dev.mask_sub hF ?_
  unfold Dev.failStack
  simp

theorem Dev.begin_mask {F : Nat} (h0 : 3072 &&& F = 3072) {d d' : Dev} {m : Mem} {s i : Nat} {ecc : Ecc} {p : ReqKind → Bool} {r : Req}
    (hd : d.begin m s i ecc p = some (r, d')) : d'.mask F = d.mask F := by
  refine Dev.mask_sub h0 ?_
  simp only [Dev.begin] at hd
  split at hd
  · cases hd
  · obtain ⟨x, _, hx⟩ := Option.bind_eq_some_iff.1 hd
    obtain ⟨q, rest⟩ := x
    dsimp only at hx
    split at hx
    · cases hx; simp
    · cases hx

@[simp] theorem Dev.stackRead_mask {F : Nat} (hF : 12590393 &&& F = 12590393) (d : Dev) (m : Mem) (s : Nat) (i : Nat) (ecc : Ecc) :
    (Dev.stackRead d m s i ecc).mask F = d.mask F := by
  refine Dev.mask_sub hF ?_
  unfold Dev.stackRead
  try dsimp only
  repeat' first
    | (simp; done)
    | ((try simp); exact (Dev.begin_mask (by decide) (by assumption)).trans (by first | rfl | simp))
    | (split <;> first | (rename_i hp; cases Dev.fst_of_eq hp; clear hp) | (rename_i hp; cases Dev.snd_of_eq hp; clear hp) | skip)
    | dsimp only

@[simp] theorem Dev.stackWrite_mask {F : Nat} (hF : 79699257 &&& F = 79699257) (d : Dev) (m : Mem) (s : Nat) (i : Nat) (ecc : Ecc) :
    (Dev.stackWrite d m s i ecc).mask F = d.mask F := by
  refine Dev.mask_sub hF ?_
  unfold Dev.stackWrite
  try dsimp only
  repeat' first
    | (simp; done)
    | ((try simp); exact (Dev.begin_mask (by decide) (by assumption)).trans (by first | rfl | simp))
    | (split <;> first | (rename_i hp; cases Dev.fst_of_eq hp; clear hp) | (rename_i hp; cases Dev.snd_of_eq hp; clear hp) | skip)
    | dsimp only

@[simp] theorem Dev.countAdd_mask {F : Nat} (hF : 1032 &&& F = 1032) (d : Dev) (s : Nat) :
    (Dev.countAdd d s).mask F = d.mask F := by
  refine Dev.mask_sub hF ?_
  unfold Dev.countAdd
  simp

@[simp] theorem Dev.atomicAdd_mask {F : Nat} (hF : 79699257 &&& F = 79699257) (d : Dev) (m : Mem) (s : Nat) (i : Nat) (ecc : Ecc) :
    (Dev.atomicAdd d m s i ecc).mask F = d.mask F := by
  refine Dev.mask_sub hF ?_
  unfold Dev.atomicAdd
  try dsimp only
  repeat' first
    | (simp; done)
    | ((try simp); exact (Dev.begin_mask (by decide) (by assumption)).trans (by first | rfl | simp))
    | (split <;> first | (rename_i hp; cases Dev.fst_of_eq hp; clear hp) | (rename_i hp; cases Dev.snd_of_eq hp; clear hp) | skip)
    | dsimp only

@[simp] theorem Dev.wearMitigation_mask {F : Nat} (hF : 1032 &&& F = 1032) (d : Dev) (s : Nat) (row : Nat) (more : Nat) (wait : Bool) :
    (Dev.wearMitigation d s row more wait).mask F = d.mask F := by
  refine Dev.mask_sub hF ?_
  unfold Dev.wearMitigation
  simp

@[simp] theorem Dev.copyRow_mask {F : Nat} (hF : 79699001 &&& F = 79699001) (d : Dev) (s : Nat) (row : Nat) :
    (Dev.copyRow d s row).mask F = d.mask F := by
  refine Dev.mask_sub hF ?_
  unfold Dev.copyRow
  simp

@[simp] theorem Dev.spareRow_mask {F : Nat} (hF : 79699001 &&& F = 79699001) (d : Dev) (s : Nat) (r : Nat) :
    (Dev.spareRow d s r).mask F = d.mask F := by
  refine Dev.mask_sub hF ?_
  unfold Dev.spareRow
  simp

@[simp] theorem Dev.rowRepair_mask {F : Nat} (hF : 79699001 &&& F = 79699001) (d : Dev) (s : Nat) :
    (Dev.rowRepair d s).mask F = d.mask F := by
  refine Dev.mask_sub hF ?_
  unfold Dev.rowRepair
  (repeat' split) <;> simp

@[simp] theorem Dev.rowRefresh_mask {F : Nat} (hF : 3072 &&& F = 3072) (d : Dev) (m : Mem) (s : Nat) (line : Nat) (ecc : Ecc) :
    (Dev.rowRefresh d m s line ecc).mask F = d.mask F := by
  refine Dev.mask_sub hF ?_
  unfold Dev.rowRefresh
  simp

@[simp] theorem Dev.scrub_mask {F : Nat} (hF : 79699001 &&& F = 79699001) (d : Dev) (m : Mem) (a : Nat) (ecc : Ecc) :
    (Dev.scrub d m a ecc).1.mask F = d.mask F := by
  refine Dev.mask_sub hF ?_
  unfold Dev.scrub
  simp

@[simp] theorem Dev.endPass_mask {F : Nat} (hF : 8 &&& F = 8) (d : Dev) :
    (Dev.endPass d).mask F = d.mask F := by
  refine Dev.mask_sub hF ?_
  unfold Dev.endPass
  simp

@[simp] theorem Dev.startPass_mask {F : Nat} (hF : 1032 &&& F = 1032) (d : Dev) :
    (Dev.startPass d).mask F = d.mask F := by
  refine Dev.mask_sub hF ?_
  unfold Dev.startPass
  simp

@[simp] theorem Dev.patrolScrub_mask {F : Nat} (hF : 79699001 &&& F = 79699001) (d : Dev) (m : Mem) (s : Nat) (ecc : Ecc) :
    (Dev.patrolScrub d m s ecc).mask F = d.mask F := by
  refine Dev.mask_sub hF ?_
  unfold Dev.patrolScrub
  simp

@[simp] theorem Dev.demandScrub_mask {F : Nat} (hF : 79699001 &&& F = 79699001) (d : Dev) (m : Mem) (s : Nat) (ecc : Ecc) :
    (Dev.demandScrub d m s ecc).mask F = d.mask F := by
  refine Dev.mask_sub hF ?_
  unfold Dev.demandScrub
  (repeat' split) <;> simp

@[simp] theorem Dev.docBehind_mask {F : Nat} (hF : 40 &&& F = 40) (d : Dev) (hours : Nat) :
    (Dev.docBehind d hours).mask F = d.mask F := by
  refine Dev.mask_sub hF ?_
  unfold Dev.docBehind
  simp

@[simp] theorem Dev.operatingHourEnd_mask {F : Nat} (hF : 33559593 &&& F = 33559593) (d : Dev) :
    (Dev.operatingHourEnd d).mask F = d.mask F := by
  refine Dev.mask_sub hF ?_
  unfold Dev.operatingHourEnd
  simp

@[simp] theorem Dev.stackNoAnswer_mask {F : Nat} (hF : 213916985 &&& F = 213916985) (d : Dev) (m : Mem) (s : Nat) :
    (Dev.stackNoAnswer d m s).mask F = d.mask F := by
  refine Dev.mask_sub hF ?_
  unfold Dev.stackNoAnswer
  simp

@[simp] theorem Dev.dieLost_mask {F : Nat} (hF : 5161 &&& F = 5161) (d : Dev) (s : Nat) :
    (Dev.dieLost d s).mask F = d.mask F := by
  refine Dev.mask_sub hF ?_
  unfold Dev.dieLost
  simp

@[simp] theorem Dev.setPort_mask {F : Nat} (hF : 524288 &&& F = 524288) (d : Dev) (p : Nat) (x : Port) :
    (Dev.setPort d p x).mask F = d.mask F := by
  refine Dev.mask_sub hF ?_
  unfold Dev.setPort
  simp

@[simp] theorem Dev.onPort_mask {F : Nat} (hF : 524288 &&& F = 524288) (d : Dev) (p : Nat) (f : Port → Port) :
    (Dev.onPort d p f).mask F = d.mask F := by
  refine Dev.mask_sub hF ?_
  unfold Dev.onPort
  simp

@[simp] theorem Dev.portChanged_mask {F : Nat} (hF : 4136 &&& F = 4136) (d : Dev) (p : Nat) (old : Nat) :
    (Dev.portChanged d p old).mask F = d.mask F := by
  refine Dev.mask_sub hF ?_
  unfold Dev.portChanged
  simp

@[simp] theorem Dev.movePort_mask {F : Nat} (hF : 528424 &&& F = 528424) (d : Dev) (p : Nat) (f : Port → Port) :
    (Dev.movePort d p f).mask F = d.mask F := by
  refine Dev.mask_sub hF ?_
  unfold Dev.movePort
  simp

@[simp] theorem Dev.dropTransit_mask {F : Nat} (hF : 524288 &&& F = 524288) (d : Dev) (p : Nat) :
    (Dev.dropTransit d p).mask F = d.mask F := by
  refine Dev.mask_sub hF ?_
  unfold Dev.dropTransit
  simp

@[simp] theorem Dev.dropQueued_mask {F : Nat} (hF : 524288 &&& F = 524288) (d : Dev) (p : Nat) :
    (Dev.dropQueued d p).mask F = d.mask F := by
  refine Dev.mask_sub hF ?_
  unfold Dev.dropQueued
  try dsimp only
  repeat' first
    | (simp; done)
    | (split <;> first | (rename_i hp; cases Dev.fst_of_eq hp; clear hp) | (rename_i hp; cases Dev.snd_of_eq hp; clear hp) | skip)
    | (refine (Dev.mask_foldl _ ?_ _ _).trans ?_)
    | intro _ _
    | intro _
    | dsimp only

@[simp] theorem Dev.trainFailed_mask {F : Nat} (hF : 528424 &&& F = 528424) (d : Dev) (p : Nat) :
    (Dev.trainFailed d p).mask F = d.mask F := by
  refine Dev.mask_sub hF ?_
  unfold Dev.trainFailed
  simp

@[simp] theorem Dev.portOff_mask {F : Nat} (hF : 528424 &&& F = 528424) (d : Dev) (p : Nat) :
    (Dev.portOff d p).mask F = d.mask F := by
  refine Dev.mask_sub hF ?_
  unfold Dev.portOff
  simp

@[simp] theorem Dev.portTraining_mask {F : Nat} (hF : 528424 &&& F = 528424) (d : Dev) (p : Nat) (pass : Nat) (peerId : Nat) (peerPort : Nat) (peerSeq : Nat) :
    (Dev.portTraining d p pass peerId peerPort peerSeq).mask F = d.mask F := by
  refine Dev.mask_sub hF ?_
  unfold Dev.portTraining
  simp; (repeat' split) <;> simp

@[simp] theorem Dev.startRetrain_mask {F : Nat} (hF : 528424 &&& F = 528424) (d : Dev) (p : Nat) :
    (Dev.startRetrain d p).mask F = d.mask F := by
  refine Dev.mask_sub hF ?_
  unfold Dev.startRetrain
  simp

@[simp] theorem Dev.startTraining_mask {F : Nat} (hF : 528424 &&& F = 528424) (d : Dev) (p : Nat) :
    (Dev.startTraining d p).mask F = d.mask F := by
  refine Dev.mask_sub hF ?_
  unfold Dev.startTraining
  simp

@[simp] theorem Dev.retrain_mask {F : Nat} (hF : 528424 &&& F = 528424) (d : Dev) (p : Nat) :
    (Dev.retrain d p).mask F = d.mask F := by
  refine Dev.mask_sub hF ?_
  unfold Dev.retrain
  simp

@[simp] theorem Dev.portOn_mask {F : Nat} (hF : 528424 &&& F = 528424) (d : Dev) (p : Nat) :
    (Dev.portOn d p).mask F = d.mask F := by
  refine Dev.mask_sub hF ?_
  unfold Dev.portOn
  simp

@[simp] theorem Dev.trainEn_mask {F : Nat} (hF : 528424 &&& F = 528424) (d : Dev) (p : Nat) (v : Bool) :
    (Dev.trainEn d p v).mask F = d.mask F := by
  refine Dev.mask_sub hF ?_
  unfold Dev.trainEn
  simp

@[simp] theorem Dev.fecUncorrectable_mask {F : Nat} (hF : 528424 &&& F = 528424) (d : Dev) (p : Nat) (newWindow : Bool) :
    (Dev.fecUncorrectable d p newWindow).mask F = d.mask F := by
  refine Dev.mask_sub hF ?_
  unfold Dev.fecUncorrectable
  simp

@[simp] theorem Dev.llTimeout_mask {F : Nat} (hF : 524288 &&& F = 524288) (d : Dev) (p : Nat) :
    (Dev.llTimeout d p).mask F = d.mask F := by
  refine Dev.mask_sub hF ?_
  unfold Dev.llTimeout
  simp

@[simp] theorem Dev.setChan_mask {F : Nat} (hF : 524288 &&& F = 524288) (d : Dev) (e : Nat) (c : Nat) (x : Channel) :
    (Dev.setChan d e c x).mask F = d.mask F := by
  refine Dev.mask_sub hF ?_
  unfold Dev.setChan
  simp

@[simp] theorem Dev.onChan_mask {F : Nat} (hF : 524288 &&& F = 524288) (d : Dev) (e : Nat) (c : Nat) (f : Channel → Channel) :
    (Dev.onChan d e c f).mask F = d.mask F := by
  refine Dev.mask_sub hF ?_
  unfold Dev.onChan
  simp

@[simp] theorem Dev.deliver_mask {F : Nat} (hF : 524296 &&& F = 524296) (d : Dev) (engine : Nat) (vl : Nat) (p : Packet) :
    (Dev.deliver d engine vl p).mask F = d.mask F := by
  refine Dev.mask_sub hF ?_
  unfold Dev.deliver
  simp

@[simp] theorem Dev.emit_mask {F : Nat} (hF : 134742056 &&& F = 134742056) (d : Dev) (engine : Nat) (vl : Nat) (p : Packet) :
    (Dev.emit d engine vl p).mask F = d.mask F := by
  refine Dev.mask_sub hF ?_
  unfold Dev.emit
  simp; (repeat' split) <;> simp

@[simp] theorem Dev.transit_mask {F : Nat} (hF : 524328 &&& F = 524328) (d : Dev) (a : Nat) (vl : Nat) (p : Packet) :
    (Dev.transit d a vl p).mask F = d.mask F := by
  refine Dev.mask_sub hF ?_
  unfold Dev.transit
  (repeat' split) <;> simp

@[simp] theorem Dev.countFec_mask {F : Nat} (hF : 8 &&& F = 8) (d : Dev) (a : Nat) (fec : Nat) :
    (Dev.countFec d a fec).mask F = d.mask F := by
  refine Dev.mask_sub hF ?_
  unfold Dev.countFec
  simp

@[simp] theorem Dev.dataFrame_mask {F : Nat} (hF : 524328 &&& F = 524328) (d : Dev) (a : Nat) (bs : List Nat) (fec : Nat) :
    (Dev.dataFrame d a bs fec).mask F = d.mask F := by
  refine Dev.mask_sub hF ?_
  unfold Dev.dataFrame
  simp

@[simp] theorem Dev.lcf_mask {F : Nat} (hF : 524296 &&& F = 524296) (d : Dev) (a : Nat) (bs : List Nat) (fec : Nat) :
    (Dev.lcf d a bs fec).mask F = d.mask F := by
  refine Dev.mask_sub hF ?_
  unfold Dev.lcf
  simp

@[simp] theorem Dev.resendFrame_mask {F : Nat} (hF : 4722744 &&& F = 4722744) (d : Dev) (p : Nat) :
    (Dev.resendFrame d p).mask F = d.mask F := by
  refine Dev.mask_sub hF ?_
  unfold Dev.resendFrame
  simp; (repeat' split) <;> simp

@[simp] theorem Dev.frameTransmit_mask {F : Nat} (hF : 4722744 &&& F = 4722744) (d : Dev) (p : Nat) (reserved : Bool) :
    (Dev.frameTransmit d p reserved).mask F = d.mask F := by
  refine Dev.mask_sub hF ?_
  unfold Dev.frameTransmit
  simp; (repeat' split) <;> simp

@[simp] theorem Dev.control_mask {F : Nat} (hF : 134742056 &&& F = 134742056) (d : Dev) (e : Nat) (dst : Nat) (op : Nat) (dchan : Nat) (schan : Nat) (arg : Nat) :
    (Dev.control d e dst op dchan schan arg).mask F = d.mask F := by
  refine Dev.mask_sub hF ?_
  unfold Dev.control
  simp

@[simp] theorem Dev.toPeer_mask {F : Nat} (hF : 134742056 &&& F = 134742056) (d : Dev) (e : Nat) (c : Nat) (op : Nat) (arg : Nat) :
    (Dev.toPeer d e c op arg).mask F = d.mask F := by
  refine Dev.mask_sub hF ?_
  unfold Dev.toPeer
  simp

@[simp] theorem Dev.sendAck_mask {F : Nat} (hF : 134742056 &&& F = 134742056) (d : Dev) (e : Nat) (c : Nat) :
    (Dev.sendAck d e c).mask F = d.mask F := by
  refine Dev.mask_sub hF ?_
  unfold Dev.sendAck
  simp

@[simp] theorem Dev.refuse_mask {F : Nat} (hF : 134742056 &&& F = 134742056) (d : Dev) (e : Nat) (p : Packet) (status : Nat) :
    (Dev.refuse d e p status).mask F = d.mask F := by
  refine Dev.mask_sub hF ?_
  unfold Dev.refuse
  simp

@[simp] theorem Dev.failChan_mask {F : Nat} (hF : 524288 &&& F = 524288) (d : Dev) (e : Nat) (c : Nat) (cause : Nat) :
    (Dev.failChan d e c cause).mask F = d.mask F := by
  refine Dev.mask_sub hF ?_
  unfold Dev.failChan
  simp

@[simp] theorem Dev.enableChan_mask {F : Nat} (hF : 524288 &&& F = 524288) (d : Dev) (e : Nat) (c : Nat) :
    (Dev.enableChan d e c).mask F = d.mask F := by
  refine Dev.mask_sub hF ?_
  unfold Dev.enableChan
  simp; (repeat' split) <;> simp

@[simp] theorem Dev.chcfg_mask {F : Nat} (hF : 524288 &&& F = 524288) (d : Dev) (e : Nat) (v : Nat) :
    (Dev.chcfg d e v).mask F = d.mask F := by
  refine Dev.mask_sub hF ?_
  unfold Dev.chcfg
  simp; (repeat' split) <;> simp

@[simp] theorem Dev.chpeer_mask {F : Nat} (hF : 524288 &&& F = 524288) (d : Dev) (e : Nat) (v : Nat) :
    (Dev.chpeer d e v).mask F = d.mask F := by
  refine Dev.mask_sub hF ?_
  unfold Dev.chpeer
  simp

@[simp] theorem Dev.openRetry_mask {F : Nat} (hF : 134742056 &&& F = 134742056) (d : Dev) (e : Nat) (c : Nat) :
    (Dev.openRetry d e c).mask F = d.mask F := by
  refine Dev.mask_sub hF ?_
  unfold Dev.openRetry
  simp

@[simp] theorem Dev.openTimeout_mask {F : Nat} (hF : 524288 &&& F = 524288) (d : Dev) (e : Nat) (c : Nat) :
    (Dev.openTimeout d e c).mask F = d.mask F := by
  refine Dev.mask_sub hF ?_
  unfold Dev.openTimeout
  simp

@[simp] theorem Dev.closingExpiry_mask {F : Nat} (hF : 134742056 &&& F = 134742056) (d : Dev) (e : Nat) (c : Nat) (late : Bool) :
    (Dev.closingExpiry d e c late).mask F = d.mask F := by
  refine Dev.mask_sub hF ?_
  unfold Dev.closingExpiry
  simp

@[simp] theorem Dev.withHead_mask {F : Nat} (h : 524288 &&& F = 524288) (d : Dev) (e op : Nat) (f : Dev → Packet → Dev) (hf : ∀ d p, (f d p).mask F = d.mask F) :
    (d.withHead e op f).mask F = d.mask F := by
  unfold Dev.withHead
  split
  · split
    · rw [hf, Dev.mask_brezin h]
    · rfl
  · rfl

@[simp] theorem Dev.refuseAny_mask {F : Nat} (hF : 134742056 &&& F = 134742056) (d : Dev) (e : Nat) (p : Packet) (status : Nat) :
    (Dev.refuseAny d e p status).mask F = d.mask F := by
  refine Dev.mask_sub hF ?_
  unfold Dev.refuseAny
  simp

theorem Dev.sequence_mask {F : Nat} (h0 : 134742056 &&& F = 134742056) {d d' : Dev} {e : Nat} {p : Packet}
    (hd : d.sequence e p = .error d') : d'.mask F = d.mask F := by
  refine Dev.mask_sub h0 ?_
  simp only [Dev.sequence] at hd
  split at hd
  · cases hd; simp
  · split at hd
    · cases hd; simp
    · split at hd
      · cases hd; simp
      · split at hd
        · cases hd
        · cases hd; split <;> simp

@[simp] theorem Dev.accepted_mask {F : Nat} (hF : 134742056 &&& F = 134742056) (d : Dev) (e : Nat) (c : Nat) :
    (Dev.accepted d e c).mask F = d.mask F := by
  refine Dev.mask_sub hF ?_
  unfold Dev.accepted
  simp

@[simp] theorem Dev.notPerformed_mask {F : Nat} (hF : 134742056 &&& F = 134742056) (d : Dev) (e : Nat) (c : Nat) (p : Packet) (status : Nat) :
    (Dev.notPerformed d e c p status).mask F = d.mask F := by
  refine Dev.mask_sub hF ?_
  unfold Dev.notPerformed
  simp

theorem Dev.receive_mask {F : Nat} (hF : 134742056 &&& F = 134742056) (d : Dev) (e : Nat) (p : Packet) (f : Dev → Nat → Except Nat Dev)
    (hf : ∀ c d', f d c = .ok d' → d'.mask F = d.mask F) : (d.receive e p f).mask F = d.mask F := by
  unfold Dev.receive
  split
  · exact Dev.sequence_mask (Dev.sub_trans (by decide) hF) ‹_›
  · split
    · rw [Dev.accepted_mask (Dev.sub_trans (by decide) hF)]; exact hf _ _ ‹_›
    · exact Dev.notPerformed_mask (Dev.sub_trans (by decide) hF) ..

@[simp] theorem Dev.ackTimer_mask {F : Nat} (hF : 134742056 &&& F = 134742056) (d : Dev) (e : Nat) (c : Nat) :
    (Dev.ackTimer d e c).mask F = d.mask F := by
  refine Dev.mask_sub hF ?_
  unfold Dev.ackTimer
  simp

theorem Dev.performWritePacket_mask {F : Nat} (h0 : 79699001 &&& F = 79699001) {d d' : Dev} {e : Nat} {p : Packet} {c : Nat}
    (hd : d.performWritePacket e p c = .ok d') : d'.mask F = d.mask F := by
  refine Dev.mask_sub h0 ?_
  simp only [Dev.performWritePacket] at hd
  split at hd
  · cases hd; exact Dev.writeRegion_mask (by decide) ‹_›
  · cases hd

@[simp] theorem Dev.addElements_mask {F : Nat} (hF : 79699001 &&& F = 79699001) (d : Dev) (m : Mem) (h o : Nat) (f : Format) (poison : Bool) (xs : List (List Nat)) :
    (d.addElements m h o f poison xs).mask F = d.mask F := by
  induction xs generalizing d o with
  | nil => rfl
  | cons x xs ih =>
    unfold Dev.addElements
    dsimp only
    rw [ih]
    refine Dev.mask_sub hF ?_
    split <;> simp

theorem Dev.performAddPacket_mask {F : Nat} (h0 : 79699001 &&& F = 79699001) {d d' : Dev} {m : Mem} {e : Nat} {p : Packet} {c : Nat}
    (hd : d.performAddPacket m e p c = .ok d') : d'.mask F = d.mask F := by
  refine Dev.mask_sub h0 ?_
  simp only [Dev.performAddPacket] at hd
  split at hd
  · cases hd
  · split at hd
    · cases hd
    · split at hd
      · cases hd
      · cases hd; simp

@[simp] theorem Dev.writePacket_mask {F : Nat} (hF : 214441017 &&& F = 214441017) (d : Dev) (e : Nat) :
    (d.writePacket e).mask F = d.mask F := by
  refine Dev.mask_sub hF ?_
  unfold Dev.writePacket
  refine Dev.withHead_mask (by decide) _ _ _ _ ?_
  intro d p
  refine Dev.receive_mask (by decide) _ _ _ _ ?_
  intro c d' h
  exact Dev.performWritePacket_mask (by decide) h

@[simp] theorem Dev.addPacket_mask {F : Nat} (hF : 214441017 &&& F = 214441017) (d : Dev) (m : Mem) (e : Nat) :
    (d.addPacket m e).mask F = d.mask F := by
  refine Dev.mask_sub hF ?_
  unfold Dev.addPacket
  refine Dev.withHead_mask (by decide) _ _ _ _ ?_
  intro d p
  refine Dev.receive_mask (by decide) _ _ _ _ ?_
  intro c d' h
  exact Dev.performAddPacket_mask (by decide) h

@[simp] theorem Dev.ackPacket_mask {F : Nat} (hF : 524288 &&& F = 524288) (d : Dev) (e : Nat) :
    (Dev.ackPacket d e).mask F = d.mask F := by
  refine Dev.mask_sub hF ?_
  unfold Dev.ackPacket
  simp

@[simp] theorem Dev.refused_mask {F : Nat} (hF : 524296 &&& F = 524296) (d : Dev) (e : Nat) (p : Packet) :
    (Dev.refused d e p).1.mask F = d.mask F := by
  refine Dev.mask_sub hF ?_
  unfold Dev.refused
  simp

@[simp] theorem Dev.chOpen_mask {F : Nat} (hF : 134742056 &&& F = 134742056) (d : Dev) (e : Nat) :
    (Dev.chOpen d e).mask F = d.mask F := by
  refine Dev.mask_sub hF ?_
  unfold Dev.chOpen
  simp

@[simp] theorem Dev.chOpenAck_mask {F : Nat} (hF : 524288 &&& F = 524288) (d : Dev) (e : Nat) :
    (Dev.chOpenAck d e).mask F = d.mask F := by
  refine Dev.mask_sub hF ?_
  unfold Dev.chOpenAck
  simp

@[simp] theorem Dev.chClose_mask {F : Nat} (hF : 524288 &&& F = 524288) (d : Dev) (e : Nat) :
    (Dev.chClose d e).mask F = d.mask F := by
  refine Dev.mask_sub hF ?_
  unfold Dev.chClose
  simp

@[simp] theorem Dev.stopNamed_mask {F : Nat} (hF : 524288 &&& F = 524288) (d : Dev) (src : Nat) (dchan : Nat) (v : Bool) :
    (Dev.stopNamed d src dchan v).mask F = d.mask F := by
  refine Dev.mask_sub hF ?_
  unfold Dev.stopNamed
  simp

@[simp] theorem Dev.stopPacket_mask {F : Nat} (hF : 524288 &&& F = 524288) (d : Dev) (e : Nat) :
    (Dev.stopPacket d e).mask F = d.mask F := by
  refine Dev.mask_sub hF ?_
  unfold Dev.stopPacket
  simp

@[simp] theorem Dev.resumePacket_mask {F : Nat} (hF : 524288 &&& F = 524288) (d : Dev) (e : Nat) :
    (Dev.resumePacket d e).mask F = d.mask F := by
  refine Dev.mask_sub hF ?_
  unfold Dev.resumePacket
  simp

@[simp] theorem Dev.submit_mask {F : Nat} (hF : 524288 &&& F = 524288) (d : Dev) (e : Nat) (c : Nat) (op : Nat) (arg : Nat) (payload : List Nat) (poison : Bool) (o : Owner) :
    (Dev.submit d e c op arg payload poison o).1.mask F = d.mask F := by
  refine Dev.mask_sub hF ?_
  unfold Dev.submit
  simp

@[simp] theorem Dev.chflush_mask {F : Nat} (hF : 524288 &&& F = 524288) (d : Dev) (e : Nat) :
    (Dev.chflush d e).mask F = d.mask F := by
  refine Dev.mask_sub hF ?_
  unfold Dev.chflush
  simp

@[simp] theorem Dev.chanTimeout_mask {F : Nat} (hF : 524296 &&& F = 524296) (d : Dev) (e : Nat) (c : Nat) :
    (Dev.chanTimeout d e c).mask F = d.mask F := by
  refine Dev.mask_sub hF ?_
  unfold Dev.chanTimeout
  simp

@[simp] theorem Dev.countSlice_mask {F : Nat} (hF : 524296 &&& F = 524296) (d : Dev) (e : Nat) :
    (Dev.countSlice d e).mask F = d.mask F := by
  refine Dev.mask_sub hF ?_
  unfold Dev.countSlice
  simp

@[simp] theorem Dev.slice_mask {F : Nat} (hF : 134742056 &&& F = 134742056) (d : Dev) (e : Nat) (vl : Nat) (place : Nat) :
    (Dev.slice d e vl place).mask F = d.mask F := by
  refine Dev.mask_sub hF ?_
  unfold Dev.slice
  simp; (repeat' split) <;> simp

@[simp] theorem Dev.clearRefused_mask {F : Nat} (hF : 524288 &&& F = 524288) (d : Dev) (t : Nat) (c : Nat) :
    (Dev.clearRefused d t c).mask F = d.mask F := by
  refine Dev.mask_sub hF ?_
  unfold Dev.clearRefused
  (repeat' split) <;> simp

@[simp] theorem Dev.dropUnsent_mask {F : Nat} (hF : 524296 &&& F = 524296) (d : Dev) :
    (Dev.dropUnsent d).mask F = d.mask F := by
  refine Dev.mask_sub hF ?_
  unfold Dev.dropUnsent
  simp

@[simp] theorem Dev.noteSlots_mask {F : Nat} (hF : 12590137 &&& F = 12590137) (d : Dev) (working : Bool) :
    (Dev.noteSlots d working).mask F = d.mask F := by
  refine Dev.mask_sub hF ?_
  unfold Dev.noteSlots
  simp

@[simp] theorem Dev.setLedgerLive_mask {F : Nat} (hF : 79699001 &&& F = 79699001) (d : Dev) (working : Bool) (n : Nat) :
    (Dev.setLedgerLive d working n).mask F = d.mask F := by
  refine Dev.mask_sub hF ?_
  unfold Dev.setLedgerLive
  simp

@[simp] theorem Dev.freeSlot_mask {F : Nat} (hF : 79699001 &&& F = 79699001) (d : Dev) (m : Mem) (s : Nat) :
    (Dev.freeSlot d m s).mask F = d.mask F := by
  refine Dev.mask_sub hF ?_
  unfold Dev.freeSlot
  simp

@[simp] theorem Dev.setInst_mask {F : Nat} (hF : 1048576 &&& F = 1048576) (d : Dev) (i : Inst) :
    (Dev.setInst d i).mask F = d.mask F := by
  refine Dev.mask_sub hF ?_
  unfold Dev.setInst
  simp

@[simp] theorem Dev.onInst_mask {F : Nat} (hF : 1048576 &&& F = 1048576) (d : Dev) (k : Nat) (f : Inst → Inst) :
    (Dev.onInst d k f).mask F = d.mask F := by
  refine Dev.mask_sub hF ?_
  unfold Dev.onInst
  simp

@[simp] theorem Dev.colSend_mask {F : Nat} (hF : 524288 &&& F = 524288) (d : Dev) (i : Inst) (r : Nat) (op : Nat) (arg : Nat) (payload : List Nat) :
    (Dev.colSend d i r op arg payload).1.mask F = d.mask F := by
  refine Dev.mask_sub hF ?_
  unfold Dev.colSend
  (repeat' split) <;> simp

@[simp] theorem Dev.colTell_mask {F : Nat} (hF : 524288 &&& F = 524288) (d : Dev) (i : Inst) (r : Nat) (op : Nat) (payload : List Nat) :
    (Dev.colTell d i r op payload).mask F = d.mask F := by
  refine Dev.mask_sub hF ?_
  unfold Dev.colTell
  simp

@[simp] theorem Dev.colHurry_mask {F : Nat} (hF : 524288 &&& F = 524288) (d : Dev) (i : Inst) (r : Nat) (payload : List Nat) :
    (Dev.colHurry d i r payload).mask F = d.mask F := by
  refine Dev.mask_sub hF ?_
  unfold Dev.colHurry
  try dsimp only
  repeat' first
    | (simp; done)
    | (split <;> first | (rename_i hp; cases Dev.fst_of_eq hp; clear hp) | (rename_i hp; cases Dev.snd_of_eq hp; clear hp) | skip)
    | dsimp only

@[simp] theorem Dev.colData_mask {F : Nat} (hF : 524288 &&& F = 524288) (d : Dev) (i : Inst) (r xfer o : Nat) (l : List (List Nat)) :
    (d.colData i r xfer o l).1.mask F = d.mask F := by
  induction l generalizing d o with
  | nil => rfl
  | cons bs rest ih =>
    unfold Dev.colData
    dsimp only
    split
    · rw [ih]; exact Dev.colSend_mask (Dev.sub_trans (by decide) hF) ..
    · exact Dev.colSend_mask (Dev.sub_trans (by decide) hF) ..

@[simp] theorem Dev.colOpen_mask {F : Nat} (hF : 1572864 &&& F = 1572864) (d : Dev) (i : Inst) (r : Nat) (kind : Nat) (tree : Nat) (chunk : Nat) (bytes : Nat) (dst : Nat) :
    (Dev.colOpen d i r kind tree chunk bytes dst).1.mask F = d.mask F := by
  refine Dev.mask_sub hF ?_
  unfold Dev.colOpen
  simp

@[simp] theorem Dev.colClose_mask {F : Nat} (hF : 524288 &&& F = 524288) (d : Dev) (i : Inst) (r : Nat) (xfer : Nat) (data : List Nat) (s : ChunkStat) :
    (Dev.colClose d i r xfer data s).1.mask F = d.mask F := by
  refine Dev.mask_sub hF ?_
  unfold Dev.colClose
  simp

@[simp] theorem Dev.colTransfer_mask {F : Nat} (hF : 1572864 &&& F = 1572864) (d : Dev) (i : Inst) (r : Nat) (kind : Nat) (tree : Nat) (chunk : Nat) (dst : Nat) (data : List Nat) (s : ChunkStat) :
    (Dev.colTransfer d i r kind tree chunk dst data s).1.mask F = d.mask F := by
  refine Dev.mask_sub hF ?_
  unfold Dev.colTransfer
  simp

@[simp] theorem Dev.dropInst_mask {F : Nat} (hF : 524288 &&& F = 524288) (d : Dev) (k : Nat) :
    (Dev.dropInst d k).mask F = d.mask F := by
  refine Dev.mask_sub hF ?_
  unfold Dev.dropInst
  simp

@[simp] theorem Dev.colComplete_mask {F : Nat} (hF : 82844985 &&& F = 82844985) (d : Dev) (k : Nat) (ab : Option AbortRec) (notAgreed : Bool) :
    (Dev.colComplete d k ab notAgreed).mask F = d.mask F := by
  refine Dev.mask_sub hF ?_
  unfold Dev.colComplete
  try dsimp only
  repeat' first
    | (simp; done)
    | ((try simp); exact (Dev.writeRegion_mask (by decide) (by assumption)).trans (by first | rfl | simp))
    | (split <;> first | (rename_i hp; cases Dev.fst_of_eq hp; clear hp) | (rename_i hp; cases Dev.snd_of_eq hp; clear hp) | skip)
    | (refine (Dev.mask_foldl _ ?_ _ _).trans ?_)
    | intro _ _
    | intro _
    | dsimp only

@[simp] theorem Dev.colDecide_mask {F : Nat} (hF : 83369273 &&& F = 83369273) (d : Dev) (k : Nat) (ab : Option AbortRec) :
    (Dev.colDecide d k ab).mask F = d.mask F := by
  refine Dev.mask_sub hF ?_
  unfold Dev.colDecide
  (repeat' split) <;> simp

@[simp] theorem Dev.colAbort_mask {F : Nat} (hF : 83369273 &&& F = 83369273) (d : Dev) (k : Nat) (code : Nat) (rank : Nat) (chunk : Nat) :
    (Dev.colAbort d k code rank chunk).mask F = d.mask F := by
  refine Dev.mask_sub hF ?_
  unfold Dev.colAbort
  (repeat' split) <;> simp

@[simp] theorem Dev.colSent_mask {F : Nat} (h : 83369273 &&& F = 83369273) (x : Dev × Bool) (k r : Nat) : (Dev.colSent x k r).mask F = x.1.mask F := by
  refine Dev.mask_sub h ?_
  simp [Dev.colSent]

@[simp] theorem Dev.colRead_mask {F : Nat} (hF : 83369273 &&& F = 83369273) (d : Dev) (m : Mem) (i : Inst) (o : Nat) (n : Nat) (chunk : Nat) :
    (Dev.colRead d m i o n chunk).1.mask F = d.mask F := by
  refine Dev.mask_sub hF ?_
  unfold Dev.colRead
  (repeat' split) <;> simp

@[simp] theorem Dev.earlyBell_mask {F : Nat} (hF : 1048832 &&& F = 1048832) (d : Dev) (k : Nat) (b : Nat) :
    (Dev.earlyBell d k b).mask F = d.mask F := by
  refine Dev.mask_sub hF ?_
  unfold Dev.earlyBell
  (repeat' split) <;> simp

@[simp] theorem Dev.colWrite_mask {F : Nat} (hF : 83369273 &&& F = 83369273) (d : Dev) (k : Nat) (block : Nat) (j : Nat) (o : Nat) (data : List Nat) :
    (Dev.colWrite d k block j o data).mask F = d.mask F := by
  refine Dev.mask_sub hF ?_
  unfold Dev.colWrite
  try dsimp only
  repeat' first
    | (simp; done)
    | ((try simp); exact (Dev.writeRegion_mask (by decide) (by assumption)).trans (by first | rfl | simp))
    | (split <;> first | (rename_i hp; cases Dev.fst_of_eq hp; clear hp) | (rename_i hp; cases Dev.snd_of_eq hp; clear hp) | skip)
    | dsimp only

@[simp] theorem Dev.sendResult_mask {F : Nat} (hF : 83369273 &&& F = 83369273) (d : Dev) (k : Nat) (j : Nat) (data : List Nat) (s : ChunkStat) :
    (Dev.sendResult d k j data s).mask F = d.mask F := by
  refine Dev.mask_sub hF ?_
  unfold Dev.sendResult
  try dsimp only
  repeat' first
    | (simp; done)
    | (split <;> first | (rename_i hp; cases Dev.fst_of_eq hp; clear hp) | (rename_i hp; cases Dev.snd_of_eq hp; clear hp) | skip)
    | (refine (Dev.mask_foldl _ ?_ _ _).trans ?_)
    | intro _ _
    | intro _
    | dsimp only

@[simp] theorem Dev.sendStats_mask {F : Nat} (hF : 83369273 &&& F = 83369273) (d : Dev) (k : Nat) (j : Nat) (s : ChunkStat) (from_ : Option Nat) :
    (Dev.sendStats d k j s from_).mask F = d.mask F := by
  refine Dev.mask_sub hF ?_
  unfold Dev.sendStats
  (repeat' split) <;> simp

@[simp] theorem Dev.reduceChunk_mask {F : Nat} (hF : 83369273 &&& F = 83369273) (d : Dev) (m : Mem) (k j : Nat) :
    (d.reduceChunk m k j).mask F = d.mask F := by
  refine Dev.mask_sub hF ?_
  unfold Dev.reduceChunk
  split
  · rfl
  · rename_i i _
    dsimp only
    split
    · rfl
    · generalize hx : (if i.isExcl (i.bucketOf j) = true then (d, none) else d.colRead m i (j * i.cb) (i.chunkLen j) j) = x
      have h : x.1.mask 83369273 = d.mask 83369273 := by rw [← hx]; split <;> simp
      obtain ⟨d1, own⟩ := x
      dsimp only at h ⊢
      rw [← h]
      split
      · rfl
      · split
        · split
          all_goals simp
        · simp

@[simp] theorem Dev.takeFolds_mask {F : Nat} (hF : 81009721 &&& F = 81009721) (d : Dev) (m : Mem) (k : Nat) :
    (d.takeFolds m k).mask F = d.mask F := by
  refine Dev.mask_sub hF ?_
  unfold Dev.takeFolds
  split
  · rfl
  · dsimp only
    split
    · rfl
    · split
      · simp
      · refine (Dev.mask_foldl _ ?_ _ _).trans (by simp)
        intro d x
        split
        · rfl
        · split
          · rfl
          · split <;> simp

@[simp] theorem Dev.sendBlocks_mask {F : Nat} (hF : 83369273 &&& F = 83369273) (d : Dev) (m : Mem) (k j : Nat) :
    (d.sendBlocks m k j).mask F = d.mask F := by
  refine Dev.mask_sub hF ?_
  unfold Dev.sendBlocks
  split
  · rfl
  · dsimp only
    split
    · rfl
    · split
      · refine (Dev.mask_foldl _ ?_ _ _).trans (by simp)
        intro d x
        split
        · split
          · rename_i hp; cases Dev.fst_of_eq hp; simp
          · rename_i hp; cases Dev.fst_of_eq hp; split <;> simp
        · rfl
      · split
        · rename_i hp; cases Dev.fst_of_eq hp; simp
        · rename_i hp; cases Dev.fst_of_eq hp; simp

@[simp] theorem Dev.beginMoves_mask {F : Nat} (hF : 83369273 &&& F = 83369273) (d : Dev) (m : Mem) (k : Nat) :
    (Dev.beginMoves d m k).mask F = d.mask F := by
  refine Dev.mask_sub hF ?_
  unfold Dev.beginMoves
  try dsimp only
  repeat' first
    | (simp; done)
    | ((try simp); exact (Dev.begin_mask (by decide) (by assumption)).trans (by first | rfl | simp))
    | (split <;> first | (rename_i hp; cases Dev.fst_of_eq hp; clear hp) | (rename_i hp; cases Dev.snd_of_eq hp; clear hp) | skip)
    | (refine (Dev.mask_foldl _ ?_ _ _).trans ?_)
    | intro _ _
    | intro _
    | dsimp only

@[simp] theorem Dev.stageMove_mask {F : Nat} (hF : 83369273 &&& F = 83369273) (d : Dev) (m : Mem) (k : Nat) :
    (Dev.stageMove d m k).mask F = d.mask F := by
  refine Dev.mask_sub hF ?_
  unfold Dev.stageMove
  simp; (repeat' split) <;> simp

@[simp] theorem Dev.writeMove_mask {F : Nat} (hF : 83369273 &&& F = 83369273) (d : Dev) (k : Nat) (x : Xfer) :
    (d.writeMove k x).mask F = d.mask F := by
  refine Dev.mask_sub hF ?_
  unfold Dev.writeMove
  split
  · rfl
  · rename_i i _
    dsimp only
    split
    · simp
    · rename_i d' hd
      rw [Dev.onInst_mask (by decide)]
      refine Dev.foldl_keep (fun (b : Option Dev) => ∀ d', b = some d' → d'.mask 83369273 = d.mask 83369273) _ ?_ _ _ ?_ _ hd
      · intro b x hb d' h
        split at h
        · exact hb _ h
        · cases b with
          | none => cases h
          | some d1 => exact (Dev.writeRegion_mask (by decide) h).trans (hb d1 rfl)
      · intro d' h; cases h; rfl

@[simp] theorem Dev.grantMoves_mask {F : Nat} (hF : 83369273 &&& F = 83369273) (d : Dev) (k : Nat) :
    (Dev.grantMoves d k).mask F = d.mask F := by
  refine Dev.mask_sub hF ?_
  unfold Dev.grantMoves
  try dsimp only
  repeat' first
    | (simp; done)
    | (split <;> first | (rename_i hp; cases Dev.fst_of_eq hp; clear hp) | (rename_i hp; cases Dev.snd_of_eq hp; clear hp) | skip)
    | (refine (Dev.mask_foldl _ ?_ _ _).trans ?_)
    | intro _ _
    | intro _
    | dsimp only

@[simp] theorem Dev.sendPiece_mask {F : Nat} (hF : 524288 &&& F = 524288) (d : Dev) (k : Nat) (b : Nat) (first : Nat) (bytes : List Nat) :
    (Dev.sendPiece d k b first bytes).mask F = d.mask F := by
  refine Dev.mask_sub hF ?_
  unfold Dev.sendPiece
  (repeat' split) <;> simp

@[simp] theorem Dev.sendMaps_mask {F : Nat} (hF : 1572864 &&& F = 1572864) (d : Dev) (k : Nat) :
    (Dev.sendMaps d k).mask F = d.mask F := by
  refine Dev.mask_sub hF ?_
  unfold Dev.sendMaps
  (repeat' split) <;> simp

@[simp] theorem Dev.voteNow_mask {F : Nat} (hF : 83369273 &&& F = 83369273) (d : Dev) (k : Nat) :
    (Dev.voteNow d k).mask F = d.mask F := by
  refine Dev.mask_sub hF ?_
  unfold Dev.voteNow
  (repeat' split) <;> simp

@[simp] theorem Dev.colPass_mask {F : Nat} (hF : 83631417 &&& F = 83631417) (d : Dev) (m : Mem) (k : Nat) :
    (Dev.colPass d m k).mask F = d.mask F := by
  refine Dev.mask_sub hF ?_
  unfold Dev.colPass
  (repeat' split) <;> simp

@[simp] theorem Dev.colPasses_mask {F : Nat} (hF : 83631417 &&& F = 83631417) (d : Dev) (m : Mem) (k n : Nat) :
    (d.colPasses m k n).mask F = d.mask F := by
  induction n generalizing d with
  | zero => rfl
  | succ n ih =>
    unfold Dev.colPasses
    dsimp only
    split
    · rw [ih]; exact Dev.colPass_mask (Dev.sub_trans (by decide) hF) ..
    · exact Dev.colPass_mask (Dev.sub_trans (by decide) hF) ..

@[simp] theorem Dev.colAdvance_mask {F : Nat} (hF : 83631417 &&& F = 83631417) (d : Dev) (m : Mem) (k : Nat) :
    (Dev.colAdvance d m k).mask F = d.mask F := by
  refine Dev.mask_sub hF ?_
  unfold Dev.colAdvance
  (repeat' split) <;> simp

@[simp] theorem Dev.colAdvanceAll_mask {F : Nat} (hF : 83631417 &&& F = 83631417) (d : Dev) (m : Mem) :
    (Dev.colAdvanceAll d m).mask F = d.mask F := by
  refine Dev.mask_sub hF ?_
  unfold Dev.colAdvanceAll
  simp

@[simp] theorem Dev.replayExcl_mask {F : Nat} (hF : 12590137 &&& F = 12590137) (d : Dev) (m : Mem) (i : Inst) :
    (d.replayExcl m i).1.mask F = d.mask F := by
  refine Dev.mask_sub hF ?_
  unfold Dev.replayExcl
  split
  · refine Dev.foldl_keep (fun (b : Dev × List (Nat × Nat)) => b.1.mask 12590137 = d.mask 12590137) _ ?_ _ _ rfl
    intro b x hb
    dsimp only
    rw [← hb]
    simp
  · rfl

@[simp] theorem Dev.tellExcl_mask {F : Nat} (hF : 524296 &&& F = 524296) (d : Dev) (k : Nat) (b : Nat) :
    (Dev.tellExcl d k b).mask F = d.mask F := by
  refine Dev.mask_sub hF ?_
  unfold Dev.tellExcl
  (repeat' split) <;> simp

@[simp] theorem Dev.addInst_mask {F : Nat} (hF : 1310720 &&& F = 1310720) (d : Dev) (i : Inst) :
    (Dev.addInst d i).mask F = d.mask F := by
  refine Dev.mask_sub hF ?_
  unfold Dev.addInst
  simp

@[simp] theorem Dev.colStart_mask {F : Nat} (hF : 83631417 &&& F = 83631417) (d : Dev) (m : Mem) (k : Nat) (raw : List Nat) (step : Option Nat) :
    (d.colStart m k raw step).mask F = d.mask F := by
  refine Dev.mask_sub hF ?_
  unfold Dev.colStart
  dsimp only
  split
  · simp
  · split
    · simp
    · split
      · simp
      · split
        · simp
        · simp

@[simp] theorem Dev.lateChunk_mask {F : Nat} (hF : 12852281 &&& F = 12852281) (d : Dev) (m : Mem) (i : Inst) (j : Nat) :
    (Dev.lateChunk d m i j).mask F = d.mask F := by
  refine Dev.mask_sub hF ?_
  unfold Dev.lateChunk
  (repeat' split) <;> simp

@[simp] theorem Dev.colReady_mask {F : Nat} (hF : 83631417 &&& F = 83631417) (d : Dev) (m : Mem) (k : Nat) (b : Nat) (step : Option Nat) :
    (Dev.colReady d m k b step).mask F = d.mask F := by
  refine Dev.mask_sub hF ?_
  unfold Dev.colReady
  simp; (repeat' split) <;> simp

theorem Dev.lateReady_mask {F : Nat} (h0 : 13900857 &&& F = 13900857) {d d' : Dev} {m : Mem} {k b : Nat} {step : Option Nat}
    (hd : d.lateReady m k b step = some d') : d'.mask F = d.mask F := by
  refine Dev.mask_sub h0 ?_
  simp only [Dev.lateReady] at hd
  split at hd
  · cases hd
  · split at hd
    · cases hd; simp
    · cases hd; simp

@[simp] theorem Dev.colPostReady_mask {F : Nat} (hF : 83631417 &&& F = 83631417) (d : Dev) (m : Mem) (v : Nat) (step : Option Nat) :
    (d.colPostReady m v step).mask F = d.mask F := by
  refine Dev.mask_sub hF ?_
  unfold Dev.colPostReady
  dsimp only
  split
  · simp
  · split
    · exact Dev.lateReady_mask (by decide) ‹_›
    · split <;> simp

@[simp] theorem Dev.colPost_mask {F : Nat} (hF : 83631417 &&& F = 83631417) (d : Dev) (m : Mem) (v : Nat) (step : Option Nat) :
    (Dev.colPost d m v step).mask F = d.mask F := by
  refine Dev.mask_sub hF ?_
  unfold Dev.colPost
  (repeat' split) <;> simp

@[simp] theorem Dev.colAnswer_mask {F : Nat} (hF : 524288 &&& F = 524288) (d : Dev) (e : Nat) (c : Nat) (op : Nat) (g : Finished) (ab : Option AbortRec) :
    (Dev.colAnswer d e c op g ab).mask F = d.mask F := by
  refine Dev.mask_sub hF ?_
  unfold Dev.colAnswer
  simp

@[simp] theorem Dev.colDownAnswer_mask {F : Nat} (hF : 524288 &&& F = 524288) (d : Dev) (e : Nat) (c : Nat) (h : List Nat) :
    (Dev.colDownAnswer d e c h).mask F = d.mask F := by
  refine Dev.mask_sub hF ?_
  unfold Dev.colDownAnswer
  simp

theorem Dev.colControl_mask {F : Nat} (hF : 83369273 &&& F = 83369273) (d : Dev) (e c : Nat) (p : Packet) (b1 direct quiet : Bool)
    (f : Dev → Nat → Dev) (hf : ∀ d k, (f d k).mask F = d.mask F) : (d.colControl e c p b1 direct quiet f).mask F = d.mask F := by
  have h {e : Dev} (he : e.mask 83369273 = d.mask 83369273) : e.mask F = d.mask F := Dev.mask_sub hF he
  unfold Dev.colControl
  dsimp only
  split
  · exact h (by simp)
  · split
    · exact h (by simp)
    · split
      · exact hf ..
      · split
        · rfl
        · exact h (by simp)
      · exact h (by simp)
      · split
        · rfl
        · exact h (by simp)

@[simp] theorem Dev.colBegin_mask {F : Nat} (hF : 83369273 &&& F = 83369273) (d : Dev) (e : Nat) (c : Nat) (p : Packet) :
    (Dev.colBegin d e c p).mask F = d.mask F := by
  refine Dev.mask_sub hF ?_
  unfold Dev.colBegin
  try dsimp only
  repeat' first
    | (simp [Dev.fresh]; done)
    | (split <;> first | (rename_i hp; cases Dev.fst_of_eq hp; clear hp) | (rename_i hp; cases Dev.snd_of_eq hp; clear hp) | skip)
    | (refine (Dev.mask_foldl _ ?_ _ _).trans ?_)
    | (refine Dev.colControl_mask (by decide) _ _ _ _ _ _ _ _ ?_)
    | intro _ _
    | intro _
    | dsimp only

@[simp] theorem Dev.colDataIn_mask {F : Nat} (hF : 83369273 &&& F = 83369273) (d : Dev) (e : Nat) (c : Nat) (p : Packet) :
    (Dev.colDataIn d e c p).mask F = d.mask F := by
  refine Dev.mask_sub hF ?_
  unfold Dev.colDataIn
  (repeat' split) <;> simp

@[simp] theorem Dev.colConsume_mask {F : Nat} (hF : 83369273 &&& F = 83369273) (d : Dev) (k : Nat) (x : Xfer) :
    (Dev.colConsume d k x).mask F = d.mask F := by
  refine Dev.mask_sub hF ?_
  unfold Dev.colConsume
  (repeat' split) <;> simp

@[simp] theorem Dev.colEndIn_mask {F : Nat} (hF : 83631417 &&& F = 83631417) (d : Dev) (m : Mem) (e : Nat) (c : Nat) (p : Packet) :
    (Dev.colEndIn d m e c p).mask F = d.mask F := by
  refine Dev.mask_sub hF ?_
  unfold Dev.colEndIn
  (repeat' split) <;> simp

@[simp] theorem Dev.colVoteIn_mask {F : Nat} (hF : 83631417 &&& F = 83631417) (d : Dev) (m : Mem) (e : Nat) (c : Nat) (p : Packet) :
    (Dev.colVoteIn d m e c p).mask F = d.mask F := by
  refine Dev.mask_sub hF ?_
  unfold Dev.colVoteIn
  try dsimp only
  repeat' first
    | (simp; done)
    | (split <;> first | (rename_i hp; cases Dev.fst_of_eq hp; clear hp) | (rename_i hp; cases Dev.snd_of_eq hp; clear hp) | skip)
    | (refine Dev.colControl_mask (by decide) _ _ _ _ _ _ _ _ ?_)
    | intro _ _
    | intro _
    | dsimp only

@[simp] theorem Dev.colDecideIn_mask {F : Nat} (hF : 83369273 &&& F = 83369273) (d : Dev) (e : Nat) (c : Nat) (p : Packet) :
    (Dev.colDecideIn d e c p).mask F = d.mask F := by
  refine Dev.mask_sub hF ?_
  unfold Dev.colDecideIn
  try dsimp only
  repeat' first
    | (simp; done)
    | (split <;> first | (rename_i hp; cases Dev.fst_of_eq hp; clear hp) | (rename_i hp; cases Dev.snd_of_eq hp; clear hp) | skip)
    | (refine Dev.colControl_mask (by decide) _ _ _ _ _ _ _ _ ?_)
    | intro _ _
    | intro _
    | dsimp only

@[simp] theorem Dev.colAbortIn_mask {F : Nat} (hF : 83369273 &&& F = 83369273) (d : Dev) (e : Nat) (c : Nat) (p : Packet) :
    (Dev.colAbortIn d e c p).mask F = d.mask F := by
  refine Dev.mask_sub hF ?_
  unfold Dev.colAbortIn
  try dsimp only
  repeat' first
    | (simp; done)
    | (split <;> first | (rename_i hp; cases Dev.fst_of_eq hp; clear hp) | (rename_i hp; cases Dev.snd_of_eq hp; clear hp) | skip)
    | (refine Dev.colControl_mask (by decide) _ _ _ _ _ _ _ _ ?_)
    | intro _ _
    | intro _
    | dsimp only

@[simp] theorem Dev.colExclIn_mask {F : Nat} (hF : 83631417 &&& F = 83631417) (d : Dev) (m : Mem) (e : Nat) (c : Nat) (p : Packet) :
    (Dev.colExclIn d m e c p).mask F = d.mask F := by
  refine Dev.mask_sub hF ?_
  unfold Dev.colExclIn
  try dsimp only
  repeat' first
    | (simp [Dev.fresh]; done)
    | (split <;> first | (rename_i hp; cases Dev.fst_of_eq hp; clear hp) | (rename_i hp; cases Dev.snd_of_eq hp; clear hp) | skip)
    | (refine Dev.colControl_mask (by decide) _ _ _ _ _ _ _ _ ?_)
    | intro _ _
    | intro _
    | dsimp only

@[simp] theorem Dev.colGrantIn_mask {F : Nat} (hF : 83631417 &&& F = 83631417) (d : Dev) (m : Mem) (e : Nat) (c : Nat) (p : Packet) :
    (Dev.colGrantIn d m e c p).mask F = d.mask F := by
  refine Dev.mask_sub hF ?_
  unfold Dev.colGrantIn
  try dsimp only
  repeat' first
    | (simp; done)
    | (split <;> first | (rename_i hp; cases Dev.fst_of_eq hp; clear hp) | (rename_i hp; cases Dev.snd_of_eq hp; clear hp) | skip)
    | (refine Dev.colControl_mask (by decide) _ _ _ _ _ _ _ _ ?_)
    | intro _ _
    | intro _
    | dsimp only

@[simp] theorem Dev.softDeadline_mask {F : Nat} (hF : 83631417 &&& F = 83631417) (d : Dev) (m : Mem) (k : Nat) :
    (Dev.softDeadline d m k).mask F = d.mask F := by
  refine Dev.mask_sub hF ?_
  unfold Dev.softDeadline
  (repeat' split) <;> simp

@[simp] theorem Dev.colTimeout_mask {F : Nat} (hF : 83369273 &&& F = 83369273) (d : Dev) (k : Nat) :
    (Dev.colTimeout d k).mask F = d.mask F := by
  refine Dev.mask_sub hF ?_
  unfold Dev.colTimeout
  (repeat' split) <;> simp

@[simp] theorem Dev.colAbortWhere_mask {F : Nat} (hF : 83369273 &&& F = 83369273) (d : Dev) (p : Inst → Bool) (code : Nat) :
    (Dev.colAbortWhere d p code).mask F = d.mask F := by
  refine Dev.mask_sub hF ?_
  unfold Dev.colAbortWhere
  simp

@[simp] theorem Dev.colHostAbort_mask {F : Nat} (hF : 83369273 &&& F = 83369273) (d : Dev) (colid : Nat) :
    (Dev.colHostAbort d colid).mask F = d.mask F := by
  refine Dev.mask_sub hF ?_
  unfold Dev.colHostAbort
  simp

@[simp] theorem Dev.colChannelFailed_mask {F : Nat} (hF : 83369273 &&& F = 83369273) (d : Dev) (m : Mem) (c : Nat) :
    (Dev.colChannelFailed d m c).mask F = d.mask F := by
  refine Dev.mask_sub hF ?_
  unfold Dev.colChannelFailed
  try dsimp only
  repeat' first
    | (simp; done)
    | (split <;> first | (rename_i hp; cases Dev.fst_of_eq hp; clear hp) | (rename_i hp; cases Dev.snd_of_eq hp; clear hp) | skip)
    | (refine (Dev.mask_foldl _ ?_ _ _).trans ?_)
    | intro _ _
    | intro _
    | dsimp only

@[simp] theorem Dev.colRefused_mask {F : Nat} (hF : 83369273 &&& F = 83369273) (d : Dev) (k : Nat) (c : Nat) :
    (Dev.colRefused d k c).mask F = d.mask F := by
  refine Dev.mask_sub hF ?_
  unfold Dev.colRefused
  (repeat' split) <;> simp

@[simp] theorem Dev.writeStepRecord_mask {F : Nat} (hF : 79961145 &&& F = 79961145) (d : Dev) (spoiled : Bool) :
    (Dev.writeStepRecord d spoiled).mask F = d.mask F := by
  refine Dev.mask_sub hF ?_
  unfold Dev.writeStepRecord
  try dsimp only
  repeat' first
    | (simp; done)
    | ((try simp); exact (Dev.writeRegion_mask (by decide) (by assumption)).trans (by first | rfl | simp))
    | (split <;> first | (rename_i hp; cases Dev.fst_of_eq hp; clear hp) | (rename_i hp; cases Dev.snd_of_eq hp; clear hp) | skip)
    | dsimp only

@[simp] theorem Dev.releaseCommits_mask {F : Nat} (hF : 262400 &&& F = 262400) (d : Dev) (status : Nat) :
    (Dev.releaseCommits d status).mask F = d.mask F := by
  refine Dev.mask_sub hF ?_
  unfold Dev.releaseCommits
  simp

@[simp] theorem Dev.castVote_mask {F : Nat} (hF : 83631417 &&& F = 83631417) (d : Dev) (m : Mem) :
    (Dev.castVote d m).mask F = d.mask F := by
  refine Dev.mask_sub hF ?_
  unfold Dev.castVote
  (repeat' split) <;> simp

@[simp] theorem Dev.castBadVote_mask {F : Nat} (hF : 83631417 &&& F = 83631417) (d : Dev) (m : Mem) :
    (Dev.castBadVote d m).mask F = d.mask F := by
  refine Dev.mask_sub hF ?_
  unfold Dev.castBadVote
  (repeat' split) <;> simp

@[simp] theorem Dev.spoilNow_mask {F : Nat} (hF : 217914681 &&& F = 217914681) (d : Dev) (m : Mem) (cause : Nat) (param : Nat) :
    (Dev.spoilNow d m cause param).mask F = d.mask F := by
  refine Dev.mask_sub hF ?_
  unfold Dev.spoilNow
  simp

@[simp] theorem Dev.spoilCause_mask {F : Nat} (hF : 217914681 &&& F = 217914681) (d : Dev) (m : Mem) (cause : Nat) (param : Nat) :
    (Dev.spoilCause d m cause param).mask F = d.mask F := by
  refine Dev.mask_sub hF ?_
  unfold Dev.spoilCause
  (repeat' split) <;> simp

@[simp] theorem Dev.hostSpoil_mask {F : Nat} (hF : 217914681 &&& F = 217914681) (d : Dev) (m : Mem) :
    (Dev.hostSpoil d m).mask F = d.mask F := by
  refine Dev.mask_sub hF ?_
  unfold Dev.hostSpoil
  simp

@[simp] theorem Dev.dropAged_mask {F : Nat} (hF : 79961145 &&& F = 79961145) (d : Dev) (m : Mem) (k : Nat) :
    (d.dropAged m k).mask F = d.mask F := by
  refine Dev.mask_sub hF ?_
  unfold Dev.dropAged
  split
  · rfl
  · refine (Dev.mask_foldl _ ?_ _ _).trans (by simp)
    intro d x
    split
    · split
      · simp
      · rfl
    · rfl

@[simp] theorem Dev.commitNow_mask {F : Nat} (hF : 82058553 &&& F = 82058553) (d : Dev) (m : Mem) :
    (Dev.commitNow d m).mask F = d.mask F := by
  refine Dev.mask_sub hF ?_
  unfold Dev.commitNow
  simp

@[simp] theorem Dev.committing_mask {F : Nat} (hF : 217914681 &&& F = 217914681) (d : Dev) (m : Mem) :
    (Dev.committing d m).mask F = d.mask F := by
  refine Dev.mask_sub hF ?_
  unfold Dev.committing
  simp

@[simp] theorem Dev.colSettle_mask {F : Nat} (hF : 217914681 &&& F = 217914681) (d : Dev) (m : Mem) :
    (Dev.colSettle d m).mask F = d.mask F := by
  refine Dev.mask_sub hF ?_
  unfold Dev.colSettle
  simp

@[simp] theorem Dev.settled_mask {F : Nat} (hF : 217914681 &&& F = 217914681) (d : Dev) (m : Mem) :
    (Dev.settled d m).mask F = d.mask F := by
  refine Dev.mask_sub hF ?_
  unfold Dev.settled
  simp

@[simp] theorem Dev.openDevice_mask {F : Nat} (hF : 262152 &&& F = 262152) (d : Dev) (n : Nat) :
    (Dev.openDevice d n).mask F = d.mask F := by
  refine Dev.mask_sub hF ?_
  unfold Dev.openDevice
  simp

@[simp] theorem Dev.openMismatch_mask {F : Nat} (hF : 217914681 &&& F = 217914681) (d : Dev) (m : Mem) (n : Nat) :
    (Dev.openMismatch d m n).mask F = d.mask F := by
  refine Dev.mask_sub hF ?_
  unfold Dev.openMismatch
  simp

@[simp] theorem Dev.stepOpenArrival_mask {F : Nat} (hF : 217914681 &&& F = 217914681) (d : Dev) (m : Mem) (p : Nat) :
    (Dev.stepOpenArrival d m p).mask F = d.mask F := by
  refine Dev.mask_sub hF ?_
  unfold Dev.stepOpenArrival
  simp; (repeat' split) <;> simp

@[simp] theorem Dev.stepCommitArrival_mask {F : Nat} (hF : 217914681 &&& F = 217914681) (d : Dev) (m : Mem) (p : Nat) :
    (Dev.stepCommitArrival d m p).mask F = d.mask F := by
  refine Dev.mask_sub hF ?_
  unfold Dev.stepCommitArrival
  simp; (repeat' split) <;> simp

@[simp] theorem Dev.commitTimeout_mask {F : Nat} (hF : 217914681 &&& F = 217914681) (d : Dev) (m : Mem) :
    (Dev.commitTimeout d m).mask F = d.mask F := by
  refine Dev.mask_sub hF ?_
  unfold Dev.commitTimeout
  simp

@[simp] theorem Dev.setCouch_mask {F : Nat} (hF : 262144 &&& F = 262144) (d : Dev) (q : Nat) (x : Couch) :
    (Dev.setCouch d q x).mask F = d.mask F := by
  refine Dev.mask_sub hF ?_
  unfold Dev.setCouch
  simp

@[simp] theorem Dev.cqHeader_mask {F : Nat} (hF : 79699001 &&& F = 79699001) (d : Dev) (q : Nat) (tag : Option Nat) :
    (Dev.cqHeader d q tag).mask F = d.mask F := by
  refine Dev.mask_sub hF ?_
  unfold Dev.cqHeader
  (repeat' split) <;> simp

@[simp] theorem Dev.cqError_mask {F : Nat} (hF : 217914681 &&& F = 217914681) (d : Dev) (m : Mem) (q : Nat) (err : Nat) (fails : Bool) :
    (Dev.cqError d m q err fails).mask F = d.mask F := by
  refine Dev.mask_sub hF ?_
  unfold Dev.cqError
  simp

@[simp] theorem Dev.cqConfigure_mask {F : Nat} (hF : 79961145 &&& F = 79961145) (d : Dev) (v : Nat) :
    (d.cqConfigure v).mask F = d.mask F := by
  refine Dev.mask_sub hF ?_
  unfold Dev.cqConfigure
  dsimp only
  split
  · rfl
  · split
    · rw [Dev.setCouch_mask (by decide)]; simp
    · split
      · simp
      · split
        · rw [Dev.setCouch_mask (by decide)]; simp
        · rw [Dev.writeRegion_getD_mask (by decide) _ _ _ _ _ _ rfl, Dev.setCouch_mask (by decide)]; simp

theorem Dev.takePost_mask {F : Nat} (h0 : 768 &&& F = 768) {d d' : Dev} {t k : Nat} {p : Nat → Bool} {q : Post}
    (hd : d.takePost t k p = some (q, d')) : d'.mask F = d.mask F := by
  refine Dev.mask_sub h0 ?_
  simp only [Dev.takePost] at hd
  split at hd
  · split at hd
    · cases hd; simp
    · cases hd
  · cases hd

@[simp] theorem Dev.spoilCauseIfOpen_mask {F : Nat} (hF : 217914681 &&& F = 217914681) (d : Dev) (m : Mem) :
    (Dev.spoilCauseIfOpen d m).mask F = d.mask F := by
  refine Dev.mask_sub hF ?_
  unfold Dev.spoilCauseIfOpen
  simp

@[simp] theorem Dev.badPost_mask {F : Nat} (hF : 217915193 &&& F = 217915193) (d : Dev) (m : Mem) (tile : Nat) :
    (Dev.badPost d m tile).mask F = d.mask F := by
  refine Dev.mask_sub hF ?_
  unfold Dev.badPost
  try dsimp only
  repeat' first
    | (simp; done)
    | ((try simp); exact (Dev.takePost_mask (by decide) (by assumption)).trans (by first | rfl | simp))
    | (split <;> first | (rename_i hp; cases Dev.fst_of_eq hp; clear hp) | (rename_i hp; cases Dev.snd_of_eq hp; clear hp) | skip)
    | dsimp only

@[simp] theorem Dev.cqMisdirected_mask {F : Nat} (hF : 217914681 &&& F = 217914681) (d : Dev) (m : Mem) (q : Nat) :
    (Dev.cqMisdirected d m q).mask F = d.mask F := by
  refine Dev.mask_sub hF ?_
  unfold Dev.cqMisdirected
  simp

@[simp] theorem Dev.cqSend_mask {F : Nat} (hF : 524288 &&& F = 524288) (d : Dev) (q c o : Nat) (l : List (List Nat)) (bad : Bool) :
    (d.cqSend q c o l bad).1.mask F = d.mask F := by
  induction l generalizing d o with
  | nil => rfl
  | cons bs rest ih =>
    unfold Dev.cqSend
    split
    · rfl
    · dsimp only
      split
      · rw [ih]; exact Dev.submit_mask (Dev.sub_trans (by decide) hF) ..
      · exact Dev.submit_mask (Dev.sub_trans (by decide) hF) ..

@[simp] theorem Dev.cqNotice_mask {F : Nat} (hF : 217914681 &&& F = 217914681) (d : Dev) (m : Mem) (q : Nat) (op : Nat) (tag : Nat) :
    (Dev.cqNotice d m q op tag).mask F = d.mask F := by
  refine Dev.mask_sub hF ?_
  unfold Dev.cqNotice
  simp; (repeat' split) <;> simp

@[simp] theorem Dev.cqPushed_mask {F : Nat} (hF : 79961145 &&& F = 79961145) (d : Dev) (q : Nat) (tag : Nat) :
    (Dev.cqPushed d q tag).mask F = d.mask F := by
  refine Dev.mask_sub hF ?_
  unfold Dev.cqPushed
  simp

@[simp] theorem Dev.cqPush_mask {F : Nat} (hF : 217915193 &&& F = 217915193) (d : Dev) (m : Mem) (tile : Nat) :
    (d.cqPush m tile).mask F = d.mask F := by
  refine Dev.mask_sub hF ?_
  unfold Dev.cqPush
  split
  · rfl
  · rename_i hd
    have h0 := Dev.takePost_mask (F := 217915193) (by decide) hd
    dsimp only
    split
    · exact h0
    · split
      · simpa using h0
      · split
        · simpa using h0
        · split
          · simpa using h0
          · split
            · simpa using h0
            · split <;> simpa using h0

@[simp] theorem Dev.cqPop_mask {F : Nat} (hF : 217915193 &&& F = 217915193) (d : Dev) (m : Mem) (tile : Nat) :
    (Dev.cqPop d m tile).mask F = d.mask F := by
  refine Dev.mask_sub hF ?_
  unfold Dev.cqPop
  try dsimp only
  repeat' first
    | (simp; done)
    | ((try simp); exact (Dev.takePost_mask (by decide) (by assumption)).trans (by first | rfl | simp))
    | (split <;> first | (rename_i hp; cases Dev.fst_of_eq hp; clear hp) | (rename_i hp; cases Dev.snd_of_eq hp; clear hp) | skip)
    | dsimp only

@[simp] theorem Dev.cqSlotAcked_mask {F : Nat} (hF : 217914681 &&& F = 217914681) (d : Dev) (m : Mem) (q : Nat) :
    (Dev.cqSlotAcked d m q).mask F = d.mask F := by
  refine Dev.mask_sub hF ?_
  unfold Dev.cqSlotAcked
  simp; (repeat' split) <;> simp

@[simp] theorem Dev.cqDataIn_mask {F : Nat} (hF : 214441017 &&& F = 214441017) (d : Dev) (e : Nat) (same : Bool) :
    (d.cqDataIn e same).mask F = d.mask F := by
  refine Dev.mask_sub hF ?_
  unfold Dev.cqDataIn
  refine Dev.withHead_mask (by decide) _ _ _ _ ?_
  intro d p
  refine Dev.receive_mask (by decide) _ _ _ _ ?_
  intro c d' h
  dsimp only at h
  repeat' split at h
  all_goals first
    | (cases h; done)
    | (cases h; exact Dev.writeRegion_mask (by decide) ‹_›)

@[simp] theorem Dev.cqPushNotice_mask {F : Nat} (hF : 217914681 &&& F = 217914681) (d : Dev) (m : Mem) (e : Nat) :
    (d.cqPushNotice m e).mask F = d.mask F := by
  refine Dev.mask_sub hF ?_
  unfold Dev.cqPushNotice
  refine Dev.withHead_mask (by decide) _ _ _ _ ?_
  intro d p
  refine Dev.receive_mask (by decide) _ _ _ _ ?_
  intro c d' h
  dsimp only at h
  repeat' split at h
  all_goals first
    | (cases h; done)
    | (cases h; simp; done)
    | (cases h; exact Dev.writeRegion_mask (by decide) ‹_›)

@[simp] theorem Dev.cqPopNotice_mask {F : Nat} (hF : 217914681 &&& F = 217914681) (d : Dev) (m : Mem) (e : Nat) :
    (d.cqPopNotice m e).mask F = d.mask F := by
  refine Dev.mask_sub hF ?_
  unfold Dev.cqPopNotice
  refine Dev.withHead_mask (by decide) _ _ _ _ ?_
  intro d p
  refine Dev.receive_mask (by decide) _ _ _ _ ?_
  intro c d' h
  dsimp only at h
  repeat' split at h
  all_goals first
    | (cases h; done)
    | (cases h; simp; done)
    | (cases h; exact Dev.writeRegion_mask (by decide) ‹_›)

@[simp] theorem Dev.couchChannelFailed_mask {F : Nat} (hF : 217914681 &&& F = 217914681) (d : Dev) (m : Mem) (c : Nat) :
    (Dev.couchChannelFailed d m c).mask F = d.mask F := by
  refine Dev.mask_sub hF ?_
  unfold Dev.couchChannelFailed
  simp

@[simp] theorem Dev.afterFailures_mask {F : Nat} (hF : 217914681 &&& F = 217914681) (d : Dev) (m : Mem) (d' : Dev) :
    (d.afterFailures m d').mask F = d'.mask F := by
  refine Dev.mask_sub hF ?_
  simp [Dev.afterFailures]

@[simp] theorem Dev.refusedUpper_mask {F : Nat} (hF : 217914681 &&& F = 217914681) (d : Dev) (m : Mem) (status : Nat) (p : Packet × Owner) :
    (Dev.refusedUpper d m status p).mask F = d.mask F := by
  refine Dev.mask_sub hF ?_
  unfold Dev.refusedUpper
  (repeat' split) <;> simp

@[simp] theorem Dev.ackSpoil_mask {F : Nat} (hF : 79961145 &&& F = 79961145) (d : Dev) :
    (Dev.ackSpoil d).mask F = d.mask F := by
  refine Dev.mask_sub hF ?_
  unfold Dev.ackSpoil
  simp

@[simp] theorem Dev.ledgerCopy_mask {F : Nat} (hF : 217914681 &&& F = 217914681) (d : Dev) (m : Mem) :
    (d.ledgerCopy m).mask F = d.mask F := by
  refine Dev.mask_sub hF ?_
  unfold Dev.ledgerCopy
  split
  · rfl
  · dsimp only
    split
    · rfl
    · split
      · simp
      · rename_i d' hd
        rw [Dev.settled_mask (by decide), Dev.colAdvanceAll_mask (by decide), Dev.mask_stp (by decide)]
        refine Dev.foldl_keep (fun (b : Option Dev) => ∀ d', b = some d' → d'.mask 217914681 = d.mask 217914681) _ ?_ _ _ ?_ _ hd
        · intro b x hb d' h
          cases b with
          | none => cases h
          | some d1 =>
            refine Eq.trans ?_ (hb d1 rfl)
            dsimp only [Option.bind] at h
            split at h
            · split at h
              · cases h
              · exact (Dev.writeRegion_mask (by decide) h).trans (by simp)
            · exact Dev.writeRegion_mask (by decide) h
        · intro d' h; exact (Dev.writeRegion_mask (by decide) h).trans (by simp)

@[simp] theorem Dev.dropLate_mask {F : Nat} (hF : 8 &&& F = 8) (d : Dev) :
    (Dev.dropLate d).mask F = d.mask F := by
  refine Dev.mask_sub hF ?_
  unfold Dev.dropLate
  simp

@[simp] theorem Dev.lateContribution_mask {F : Nat} (hF : 79961145 &&& F = 79961145) (d : Dev) (m : Mem) (good : Bool) :
    (Dev.lateContribution d m good).mask F = d.mask F := by
  refine Dev.mask_sub hF ?_
  unfold Dev.lateContribution
  try dsimp only
  repeat' first
    | (simp; done)
    | ((try simp); exact (Dev.writeRegion_mask (by decide) (by assumption)).trans (by first | rfl | simp))
    | (split <;> first | (rename_i hp; cases Dev.fst_of_eq hp; clear hp) | (rename_i hp; cases Dev.snd_of_eq hp; clear hp) | skip)
    | dsimp only

@[simp] theorem Dev.phasePost_mask {F : Nat} (hF : 217915193 &&& F = 217915193) (d : Dev) (m : Mem) (tile : Nat) :
    (Dev.phasePost d m tile).mask F = d.mask F := by
  refine Dev.mask_sub hF ?_
  unfold Dev.phasePost
  try dsimp only
  repeat' first
    | (simp; done)
    | ((try simp); exact (Dev.takePost_mask (by decide) (by assumption)).trans (by first | rfl | simp))
    | (split <;> first | (rename_i hp; cases Dev.fst_of_eq hp; clear hp) | (rename_i hp; cases Dev.snd_of_eq hp; clear hp) | skip)
    | dsimp only

@[simp] theorem Dev.fenceComplete_mask {F : Nat} (hF : 266240 &&& F = 266240) (d : Dev) (b : Nat) :
    (Dev.fenceComplete d b).1.mask F = d.mask F := by
  refine Dev.mask_sub hF ?_
  unfold Dev.fenceComplete
  simp; (repeat' split) <;> simp

@[simp] theorem Dev.releaseFence_mask {F : Nat} (hF : 65792 &&& F = 65792) (d : Dev) :
    (Dev.releaseFence d).mask F = d.mask F := by
  refine Dev.mask_sub hF ?_
  unfold Dev.releaseFence
  try dsimp only
  repeat' first
    | (simp; done)
    | (split <;> first | (rename_i hp; cases Dev.fst_of_eq hp; clear hp) | (rename_i hp; cases Dev.snd_of_eq hp; clear hp) | skip)
    | (refine (Dev.mask_foldl _ ?_ _ _).trans ?_)
    | intro _ _
    | intro _
    | dsimp only

@[simp] theorem Dev.stepsReleased_mask {F : Nat} (hF : 262152 &&& F = 262152) (d : Dev) :
    (Dev.stepsReleased d).mask F = d.mask F := by
  refine Dev.mask_sub hF ?_
  unfold Dev.stepsReleased
  simp

@[simp] theorem Dev.sqConfigure_mask {F : Nat} (hF : 2097160 &&& F = 2097160) (d : Dev) (v : Nat) :
    (Dev.sqConfigure d v).mask F = d.mask F := by
  refine Dev.mask_sub hF ?_
  unfold Dev.sqConfigure
  simp

@[simp] theorem Dev.cqRingConfigure_mask {F : Nat} (hF : 2097192 &&& F = 2097192) (d : Dev) (v : Nat) :
    (Dev.cqRingConfigure d v).mask F = d.mask F := by
  refine Dev.mask_sub hF ?_
  unfold Dev.cqRingConfigure
  simp

@[simp] theorem Dev.keepDoorbell_mask {F : Nat} (hF : 4194304 &&& F = 4194304) (d : Dev) (off : Nat) (v : Nat) :
    (Dev.keepDoorbell d off v).mask F = d.mask F := by
  refine Dev.mask_sub hF ?_
  unfold Dev.keepDoorbell
  simp

@[simp] theorem Dev.badDoorbell_mask {F : Nat} (hF : 8 &&& F = 8) (d : Dev) :
    (Dev.badDoorbell d).mask F = d.mask F := by
  refine Dev.mask_sub hF ?_
  unfold Dev.badDoorbell
  simp

@[simp] theorem Dev.sqTail_mask {F : Nat} (hF : 6291464 &&& F = 6291464) (d : Dev) (q : Nat) (v : Nat) :
    (Dev.sqTail d q v).mask F = d.mask F := by
  refine Dev.mask_sub hF ?_
  unfold Dev.sqTail
  simp

@[simp] theorem Dev.cqHead_mask {F : Nat} (hF : 6291464 &&& F = 6291464) (d : Dev) (q : Nat) (v : Nat) :
    (Dev.cqHead d q v).mask F = d.mask F := by
  refine Dev.mask_sub hF ?_
  unfold Dev.cqHead
  simp

@[simp] theorem Dev.hostEvent_mask {F : Nat} (hF : 4194560 &&& F = 4194560) (d : Dev) (t : Nat) (v : Nat) :
    (Dev.hostEvent d t v).mask F = d.mask F := by
  refine Dev.mask_sub hF ?_
  unfold Dev.hostEvent
  simp

@[simp] theorem Dev.settleSq_mask {F : Nat} (hF : 2097192 &&& F = 2097192) (d : Dev) (q n : Nat) :
    (d.settleSq q n).mask F = d.mask F := by
  induction n generalizing d with
  | zero => rfl
  | succ n ih =>
    unfold Dev.settleSq
    split
    · rfl
    · split
      · rw [ih]; refine Dev.mask_sub hF ?_; simp
      · rfl

theorem Dev.startCmd_mask {F : Nat} (hF : 2097192 &&& F = 2097192) (d : Dev) (q op : Nat) (f : Dev → HostCmd → Dev)
    (hf : ∀ d c, (f d c).mask F = d.mask F) : (d.startCmd q op f).mask F = d.mask F := by
  unfold Dev.startCmd
  dsimp only
  split
  · split
    · rw [hf]; refine Dev.mask_sub hF ?_; simp
    · refine Dev.mask_sub hF ?_; simp
  · refine Dev.mask_sub hF ?_; simp

@[simp] theorem Dev.commandFetch_mask {F : Nat} (hF : 2097192 &&& F = 2097192) (d : Dev) (q : Nat) (bytes : List Nat) (bad : Bool) :
    (Dev.commandFetch d q bytes bad).mask F = d.mask F := by
  refine Dev.mask_sub hF ?_
  unfold Dev.commandFetch
  simp

@[simp] theorem Dev.nopCommand_mask {F : Nat} (hF : 2097192 &&& F = 2097192) (d : Dev) (q : Nat) :
    (d.nopCommand q).mask F = d.mask F := by
  refine Dev.mask_sub hF ?_
  unfold Dev.nopCommand
  refine Dev.startCmd_mask (by decide) _ _ _ _ ?_
  intro d c; simp

@[simp] theorem Dev.completionWrite_mask {F : Nat} (hF : 6291456 &&& F = 6291456) (d : Dev) (q : Nat) :
    (Dev.completionWrite d q).mask F = d.mask F := by
  refine Dev.mask_sub hF ?_
  unfold Dev.completionWrite
  simp; (repeat' split) <;> simp

@[simp] theorem Dev.msixSignal_mask {F : Nat} (hF : 6291456 &&& F = 6291456) (d : Dev) (q : Nat) :
    (Dev.msixSignal d q).mask F = d.mask F := by
  refine Dev.mask_sub hF ?_
  unfold Dev.msixSignal
  simp

@[simp] theorem Dev.setWinbase_mask {F : Nat} (hF : 8 &&& F = 8) (d : Dev) (v : Nat) :
    (Dev.setWinbase d v).mask F = d.mask F := by
  refine Dev.mask_sub hF ?_
  unfold Dev.setWinbase
  simp

@[simp] theorem Dev.winError_mask {F : Nat} (hF : 40 &&& F = 40) (d : Dev) (f : Field) (a : Nat) :
    (Dev.winError d f a).mask F = d.mask F := by
  refine Dev.mask_sub hF ?_
  unfold Dev.winError
  simp

@[simp] theorem Dev.epRead_mask {F : Nat} (hF : 138412072 &&& F = 138412072) (d : Dev) (f : Field) (a : Nat) (bs : List Nat) :
    (Dev.epRead d f a bs).mask F = d.mask F := by
  refine Dev.mask_sub hF ?_
  unfold Dev.epRead
  simp

@[simp] theorem Dev.bar4Read_mask {F : Nat} (hF : 146807865 &&& F = 146807865) (d : Dev) (m : Mem) (o : Nat) (n : Nat) (ecc : Ecc) :
    (Dev.bar4Read d m o n ecc).mask F = d.mask F := by
  refine Dev.mask_sub hF ?_
  unfold Dev.bar4Read
  simp

@[simp] theorem Dev.bar4Write_mask {F : Nat} (hF : 79699001 &&& F = 79699001) (d : Dev) (m : Mem) (o : Nat) (bs : List Nat) (ecc : Ecc) :
    (Dev.bar4Write d m o bs ecc).mask F = d.mask F := by
  refine Dev.mask_sub hF ?_
  unfold Dev.bar4Write
  simp

@[simp] theorem Dev.winDiscard_mask {F : Nat} (hF : 40 &&& F = 40) (d : Dev) (o : Nat) (n : Nat) :
    (Dev.winDiscard d o n).mask F = d.mask F := by
  refine Dev.mask_sub hF ?_
  unfold Dev.winDiscard
  simp

@[simp] theorem Dev.urgent_mask {F : Nat} (hF : 4194304 &&& F = 4194304) (d : Dev) :
    (Dev.urgent d).mask F = d.mask F := by
  refine Dev.mask_sub hF ?_
  unfold Dev.urgent
  simp

@[simp] theorem Dev.urgStop_mask {F : Nat} (hF : 524288 &&& F = 524288) (d : Dev) (v : Nat) (stopped : Bool) :
    (Dev.urgStop d v stopped).mask F = d.mask F := by
  refine Dev.mask_sub hF ?_
  unfold Dev.urgStop
  simp

@[simp] theorem Dev.urgStopChan_mask {F : Nat} (hF : 4718592 &&& F = 4718592) (d : Dev) (v : Nat) :
    (Dev.urgStopChan d v).mask F = d.mask F := by
  refine Dev.mask_sub hF ?_
  unfold Dev.urgStopChan
  simp

@[simp] theorem Dev.urgResumeChan_mask {F : Nat} (hF : 4718592 &&& F = 4718592) (d : Dev) (v : Nat) :
    (Dev.urgResumeChan d v).mask F = d.mask F := by
  refine Dev.mask_sub hF ?_
  unfold Dev.urgResumeChan
  simp

@[simp] theorem Dev.urgPeer_mask {F : Nat} (hF : 134742056 &&& F = 134742056) (d : Dev) (v : Nat) (op : Nat) :
    (Dev.urgPeer d v op).mask F = d.mask F := by
  refine Dev.mask_sub hF ?_
  unfold Dev.urgPeer
  simp

@[simp] theorem Dev.urgStopPeer_mask {F : Nat} (hF : 138936360 &&& F = 138936360) (d : Dev) (v : Nat) :
    (Dev.urgStopPeer d v).mask F = d.mask F := by
  refine Dev.mask_sub hF ?_
  unfold Dev.urgStopPeer
  simp

@[simp] theorem Dev.urgResumePeer_mask {F : Nat} (hF : 138936360 &&& F = 138936360) (d : Dev) (v : Nat) :
    (Dev.urgResumePeer d v).mask F = d.mask F := by
  refine Dev.mask_sub hF ?_
  unfold Dev.urgResumePeer
  simp

@[simp] theorem Dev.urgSqStop_mask {F : Nat} (hF : 6291456 &&& F = 6291456) (d : Dev) (high : Bool) (v : Nat) :
    (Dev.urgSqStop d high v).mask F = d.mask F := by
  refine Dev.mask_sub hF ?_
  unfold Dev.urgSqStop
  simp

@[simp] theorem Dev.urgSqGo_mask {F : Nat} (hF : 6291456 &&& F = 6291456) (d : Dev) (high : Bool) (v : Nat) :
    (Dev.urgSqGo d high v).mask F = d.mask F := by
  refine Dev.mask_sub hF ?_
  unfold Dev.urgSqGo
  simp

@[simp] theorem Dev.urgColAbort_mask {F : Nat} (hF : 217914681 &&& F = 217914681) (d : Dev) (m : Mem) (v : Nat) :
    (Dev.urgColAbort d m v).mask F = d.mask F := by
  refine Dev.mask_sub hF ?_
  unfold Dev.urgColAbort
  simp

@[simp] theorem Dev.urgSpoil_mask {F : Nat} (hF : 217914681 &&& F = 217914681) (d : Dev) (m : Mem) (v : Nat) :
    (Dev.urgSpoil d m v).mask F = d.mask F := by
  refine Dev.mask_sub hF ?_
  unfold Dev.urgSpoil
  simp

@[simp] theorem Dev.deckleStat_mask {F : Nat} (hF : 8 &&& F = 8) (d : Dev) (code : Nat) (detail : Nat) :
    (Dev.deckleStat d code detail).mask F = d.mask F := by
  refine Dev.mask_sub hF ?_
  unfold Dev.deckleStat
  simp

@[simp] theorem Dev.deckleReport_mask {F : Nat} (hF : 2097192 &&& F = 2097192) (d : Dev) (code : Nat) (detail : Nat) (post : Bool) :
    (Dev.deckleReport d code detail post).mask F = d.mask F := by
  refine Dev.mask_sub hF ?_
  unfold Dev.deckleReport
  simp

@[simp] theorem Dev.freeDetail_mask {F : Nat} (h : 134217728 &&& F = 134217728) (d : Dev) : d.freeDetail.2.mask F = d.mask F := by
  simp [Dev.freeDetail, h]

@[simp] theorem Dev.takeGrades_mask {F : Nat} (hF : 4096 &&& F = 4096) (d : Dev) :
    (Dev.takeGrades d).mask F = d.mask F := by
  refine Dev.mask_sub hF ?_
  unfold Dev.takeGrades
  simp

@[simp] theorem Dev.writeLogical_mask {F : Nat} (hF : 256 &&& F = 256) (d : Dev) :
    (Dev.writeLogical d).mask F = d.mask F := by
  refine Dev.mask_sub hF ?_
  unfold Dev.writeLogical
  simp

@[simp] theorem Dev.adopt_mask {F : Nat} (hF : 4360 &&& F = 4360) (d : Dev) (pl : Placement) (table : SMap Region) :
    (Dev.adopt d pl table).mask F = d.mask F := by
  refine Dev.mask_sub hF ?_
  unfold Dev.adopt
  simp

@[simp] theorem Dev.placeManifest_mask {F : Nat} (hF : 146808121 &&& F = 146808121) (d : Dev) (m : Mem) (off : Nat) (len : Nat) :
    (Dev.placeManifest d m off len).1.mask F = d.mask F := by
  refine Dev.mask_sub hF ?_
  unfold Dev.placeManifest
  simp; (repeat' split) <;> simp

@[simp] theorem Dev.placeCommand_mask {F : Nat} (hF : 148905273 &&& F = 148905273) (d : Dev) (m : Mem) (q : Nat) :
    (Dev.placeCommand d m q).mask F = d.mask F := by
  refine Dev.mask_sub hF ?_
  unfold Dev.placeCommand
  try dsimp only
  repeat' first
    | (simp; done)
    | (split <;> first | (rename_i hp; cases Dev.fst_of_eq hp; clear hp) | (rename_i hp; cases Dev.snd_of_eq hp; clear hp) | skip)
    | (refine Dev.startCmd_mask (by decide) _ _ _ _ ?_)
    | intro _ _
    | intro _
    | dsimp only

@[simp] theorem Dev.releaseCommand_mask {F : Nat} (hF : 2429224 &&& F = 2429224) (d : Dev) (q : Nat) :
    (Dev.releaseCommand d q).mask F = d.mask F := by
  refine Dev.mask_sub hF ?_
  unfold Dev.releaseCommand
  try dsimp only
  repeat' first
    | (simp; done)
    | (split <;> first | (rename_i hp; cases Dev.fst_of_eq hp; clear hp) | (rename_i hp; cases Dev.snd_of_eq hp; clear hp) | skip)
    | (refine (Dev.mask_foldl _ ?_ _ _).trans ?_)
    | (refine Dev.startCmd_mask (by decide) _ _ _ _ ?_)
    | intro _ _
    | intro _
    | dsimp only

theorem Dev.takeEvent_mask {F : Nat} (h0 : 4096 &&& F = 4096) {d d' : Dev} {p : DkEvent → Bool} {q : DkEvent}
    (hd : d.takeEvent p = some (q, d')) : d'.mask F = d.mask F := by
  refine Dev.mask_sub h0 ?_
  simp only [Dev.takeEvent] at hd
  split at hd
  · cases hd; simp
  · cases hd

theorem Dev.takeRemap_mask {F : Nat} (h0 : 4096 &&& F = 4096) {d d' : Dev} {p : DkEvent → Bool} {q : DkEvent}
    (hd : d.takeRemap p = some (q, d')) : d'.mask F = d.mask F := by
  refine Dev.mask_sub h0 ?_
  simp only [Dev.takeRemap] at hd
  split at hd
  · cases hd
  · exact Dev.takeEvent_mask (by decide) hd

@[simp] theorem Dev.tileRemap_mask {F : Nat} (hF : 217914681 &&& F = 217914681) (d : Dev) (m : Mem) :
    (Dev.tileRemap d m).mask F = d.mask F := by
  refine Dev.mask_sub hF ?_
  unfold Dev.tileRemap
  try dsimp only
  repeat' first
    | (simp; done)
    | ((try simp); exact (Dev.takeRemap_mask (by decide) (by assumption)).trans (by first | rfl | simp))
    | (split <;> first | (rename_i hp; cases Dev.fst_of_eq hp; clear hp) | (rename_i hp; cases Dev.snd_of_eq hp; clear hp) | skip)
    | dsimp only

@[simp] theorem Dev.remapped_mask {F : Nat} (hF : 14687545 &&& F = 14687545) (d : Dev) (m : Mem) (bad : List Nat) :
    (Dev.remapped d m bad).mask F = d.mask F := by
  refine Dev.mask_sub hF ?_
  unfold Dev.remapped
  simp; (repeat' split) <;> simp

@[simp] theorem Dev.nextMigration_mask {F : Nat} (hF : 136319016 &&& F = 136319016) (d : Dev) (g : Migration) (l : List Nat) :
    (d.nextMigration g l).mask F = d.mask F := by
  induction l generalizing d g with
  | nil =>
    refine Dev.mask_sub hF ?_
    unfold Dev.nextMigration
    dsimp only
    split <;> simp [Dev.freeDetail, Dev.fresh]
  | cons h rest ih =>
    unfold Dev.nextMigration
    dsimp only
    split
    · exact ih ..
    · split
      · refine Dev.mask_sub hF ?_; simp
      · rw [ih]; refine Dev.mask_sub hF ?_; simp

@[simp] theorem Dev.stackMigration_mask {F : Nat} (hF : 136319016 &&& F = 136319016) (d : Dev) :
    (Dev.stackMigration d).mask F = d.mask F := by
  refine Dev.mask_sub hF ?_
  unfold Dev.stackMigration
  try dsimp only
  repeat' first
    | (simp; done)
    | ((try simp); exact (Dev.takeEvent_mask (by decide) (by assumption)).trans (by first | rfl | simp))
    | (split <;> first | (rename_i hp; cases Dev.fst_of_eq hp; clear hp) | (rename_i hp; cases Dev.snd_of_eq hp; clear hp) | skip)
    | dsimp only

@[simp] theorem Dev.dropMirrors_mask {F : Nat} (hF : 1024 &&& F = 1024) (d : Dev) (h : Nat) :
    (Dev.dropMirrors d h).mask F = d.mask F := by
  refine Dev.mask_sub hF ?_
  unfold Dev.dropMirrors
  simp

@[simp] theorem Dev.copyLine_mask {F : Nat} (hF : 79699001 &&& F = 79699001) (d : Dev) (m : Mem) (src dst : Nat) (ecc : Option Ecc) :
    (d.copyLine m src dst ecc).mask F = d.mask F := by
  refine Dev.mask_sub hF ?_
  unfold Dev.copyLine
  cases ecc <;> simp

@[simp] theorem Dev.migrationCopy_mask {F : Nat} (hF : 216013881 &&& F = 216013881) (d : Dev) (m : Mem) (line : Nat) (ecc : Ecc) :
    (Dev.migrationCopy d m line ecc).mask F = d.mask F := by
  refine Dev.mask_sub hF ?_
  unfold Dev.migrationCopy
  (repeat' split) <;> simp

@[simp] theorem Dev.requestRedraw_mask {F : Nat} (hF : 4096 &&& F = 4096) (d : Dev) (v : Nat) :
    (Dev.requestRedraw d v).mask F = d.mask F := by
  refine Dev.mask_sub hF ?_
  unfold Dev.requestRedraw
  simp

@[simp] theorem Dev.redraw_mask {F : Nat} (hF : 136646952 &&& F = 136646952) (d : Dev) :
    (Dev.redraw d).mask F = d.mask F := by
  refine Dev.mask_sub hF ?_
  unfold Dev.redraw
  try dsimp only
  repeat' first
    | (simp [Dev.fresh]; done)
    | ((try simp); exact (Dev.takeEvent_mask (by decide) (by assumption)).trans (by first | rfl | simp))
    | (split <;> first | (rename_i hp; cases Dev.fst_of_eq hp; clear hp) | (rename_i hp; cases Dev.snd_of_eq hp; clear hp) | skip)
    | dsimp only

@[simp] theorem Dev.setSolver_mask {F : Nat} (hF : 8192 &&& F = 8192) (d : Dev) (e : Nat) (x : Solver) :
    (Dev.setSolver d e x).mask F = d.mask F := by
  refine Dev.mask_sub hF ?_
  unfold Dev.setSolver
  simp

@[simp] theorem Dev.loadStat_mask {F : Nat} (hF : 8 &&& F = 8) (d : Dev) (e : Nat) (slot : Nat) (status : Nat) :
    (Dev.loadStat d e slot status).mask F = d.mask F := by
  refine Dev.mask_sub hF ?_
  unfold Dev.loadStat
  simp

@[simp] theorem Dev.slvLoad_mask {F : Nat} (hF : 2105384 &&& F = 2105384) (d : Dev) (q : Nat) :
    (Dev.slvLoad d q).mask F = d.mask F := by
  refine Dev.mask_sub hF ?_
  unfold Dev.slvLoad
  try dsimp only
  repeat' first
    | (simp; done)
    | (split <;> first | (rename_i hp; cases Dev.fst_of_eq hp; clear hp) | (rename_i hp; cases Dev.snd_of_eq hp; clear hp) | skip)
    | (refine Dev.startCmd_mask (by decide) _ _ _ _ ?_)
    | intro _ _
    | intro _
    | dsimp only

@[simp] theorem Dev.loadImage_mask {F : Nat} (hF : 12598329 &&& F = 12598329) (d : Dev) (m : Mem) (e : Nat) (s : Nat) (h : Nat) (o : Nat) :
    (Dev.loadImage d m e s h o).1.mask F = d.mask F := by
  refine Dev.mask_sub hF ?_
  unfold Dev.loadImage
  (repeat' split) <;> simp

@[simp] theorem Dev.slvLoadComplete_mask {F : Nat} (hF : 14695481 &&& F = 14695481) (d : Dev) (m : Mem) (e : Nat) :
    (Dev.slvLoadComplete d m e).mask F = d.mask F := by
  refine Dev.mask_sub hF ?_
  unfold Dev.slvLoadComplete
  simp; (repeat' split) <;> simp

@[simp] theorem Dev.publishRecord_mask {F : Nat} (hF : 79699257 &&& F = 79699257) (d : Dev) (l : Launch) (n : Nat) (stride : Nat) (hash : Nat) (rstat : Nat) (c : CycleSum) :
    (Dev.publishRecord d l n stride hash rstat c).mask F = d.mask F := by
  refine Dev.mask_sub hF ?_
  unfold Dev.publishRecord
  try dsimp only
  repeat' first
    | (simp; done)
    | ((try simp); exact (Dev.writeRegion_mask (by decide) (by assumption)).trans (by first | rfl | simp))
    | (split <;> first | (rename_i hp; cases Dev.fst_of_eq hp; clear hp) | (rename_i hp; cases Dev.snd_of_eq hp; clear hp) | skip)
    | dsimp only

@[simp] theorem Dev.refuseLaunch_mask {F : Nat} (hF : 79699257 &&& F = 79699257) (d : Dev) (l : Launch) (rstat : Nat) :
    (Dev.refuseLaunch d l rstat).mask F = d.mask F := by
  refine Dev.mask_sub hF ?_
  unfold Dev.refuseLaunch
  simp

@[simp] theorem Dev.solverLaunch_mask {F : Nat} (hF : 79723833 &&& F = 79723833) (d : Dev) :
    (Dev.solverLaunch d).mask F = d.mask F := by
  refine Dev.mask_sub hF ?_
  unfold Dev.solverLaunch
  simp; (repeat' split) <;> simp

@[simp] theorem Dev.stateBytes_mask {F : Nat} (hF : 134217728 &&& F = 134217728) (d : Dev) (m : Mem) (l : Launch) (o : Nat) (n : Nat) :
    (Dev.stateBytes d m l o n).1.mask F = d.mask F := by
  refine Dev.mask_sub hF ?_
  unfold Dev.stateBytes
  simp; (repeat' split) <;> simp

@[simp] theorem Dev.readHist_mask {F : Nat} (hF : 146807865 &&& F = 146807865) (d : Dev) (m : Mem) (l : Launch) (s : Struct) (i : Nat) :
    (Dev.readHist d m l s i).1.mask F = d.mask F := by
  refine Dev.mask_sub hF ?_
  unfold Dev.readHist
  simp

@[simp] theorem Dev.readHalted_mask {F : Nat} (hF : 146807865 &&& F = 146807865) (d : Dev) (m : Mem) (l : Launch) (s : Struct) (i : Nat) :
    (Dev.readHalted d m l s i).1.mask F = d.mask F := by
  refine Dev.mask_sub hF ?_
  unfold Dev.readHalted
  simp

@[simp] theorem Dev.writeHist_mask {F : Nat} (hF : 79699001 &&& F = 79699001) (d : Dev) (l : Launch) (s : Struct) (i : Nat) (h : Hist) :
    (Dev.writeHist d l s i h).mask F = d.mask F := by
  refine Dev.mask_sub hF ?_
  unfold Dev.writeHist
  simp

@[simp] theorem Dev.noteFactor_mask {F : Nat} (hF : 12590137 &&& F = 12590137) (d : Dev) (l : Launch) (s : Struct) (i : Nat) :
    (Dev.noteFactor d l s i).mask F = d.mask F := by
  refine Dev.mask_sub hF ?_
  unfold Dev.noteFactor
  simp

@[simp] theorem Dev.compute_mask {F : Nat} (hF : 213916729 &&& F = 213916729) (d : Dev) (m : Mem) (e : Nat) (c : Cycle) (s : Struct) (i : Nat) :
    (Dev.compute d m e c s i).1.mask F = d.mask F := by
  refine Dev.mask_sub hF ?_
  unfold Dev.compute
  simp; (repeat' split) <;> simp

@[simp] theorem Dev.settleInstance_mask {F : Nat} (hF : 213916729 &&& F = 213916729) (d : Dev) (m : Mem) (e : Nat) (l : Launch) (n : Nat) (misslim : Nat) (s : Struct) (i : Nat) (r : Option InstResult) (rest : Rest) (began : Bool) :
    (Dev.settleInstance d m e l n misslim s i r rest began).1.mask F = d.mask F := by
  refine Dev.mask_sub hF ?_
  unfold Dev.settleInstance
  simp; (repeat' split) <;> simp

@[simp] theorem Dev.publishValues_mask {F : Nat} (hF : 79699001 &&& F = 79699001) (d : Dev) (l : Launch) (o : Nat) (xs : List Nat) (poison : Bool) :
    (Dev.publishValues d l o xs poison).mask F = d.mask F := by
  refine Dev.mask_sub hF ?_
  unfold Dev.publishValues
  simp

theorem Dev.keepFactors_mask {F : Nat} (h0 : 79699001 &&& F = 79699001) {d d' : Dev} {l : Launch} {n : Nat} {s : Struct} {rs : List InstResult}
    (hd : d.keepFactors l n s rs = some d') : d'.mask F = d.mask F := by
  refine Dev.mask_sub h0 ?_
  simp only [Dev.keepFactors] at hd
  split at hd
  · cases hd
  · rename_i d1 h1
    rw [Dev.writeRegion_mask (by decide) hd, Dev.mask_foldl, Dev.writeRegion_mask (by decide) h1]
    intro d x; split <;> simp

@[simp] theorem Dev.keepFactors_getD_mask {F : Nat} (h0 : 79699001 &&& F = 79699001) (d : Dev) (l : Launch) (n : Nat) (s : Struct) (rs : List InstResult) (e : Dev) (he : e.mask F = d.mask F) :
    ((d.keepFactors l n s rs).getD e).mask F = d.mask F := by
  cases hd : d.keepFactors l n s rs with
  | none => simpa using he
  | some d' => simpa using Dev.keepFactors_mask h0 hd

@[simp] theorem Dev.settleAll_mask {F : Nat} (hF : 213916729 &&& F = 213916729) (d : Dev) (m : Mem) (e : Nat) (l : Launch) (n misslim : Nat)
    (s : Struct) (done : List InstResult) (rest : Rest) (began : Bool) :
    (d.settleAll m e l n misslim s done rest began).1.mask F = d.mask F := by
  refine Dev.mask_sub hF ?_
  unfold Dev.settleAll
  refine Dev.foldl_keep (fun (b : Dev × List InstResult × Bool) => b.1.mask 213916729 = d.mask 213916729) _ ?_ _ _ rfl
  intro b x hb
  dsimp only
  rw [← hb]
  exact Dev.settleInstance_mask (by decide) ..

@[simp] theorem Dev.publishCycle_mask {F : Nat} (hF : 213925177 &&& F = 213925177) (d : Dev) (m : Mem) (e : Nat) (l : Launch) (n : Nat) (misslim : Nat) (s : Struct) (done : List InstResult) (rest : Rest) (began : Bool) (rstat : Nat) (sealLate : Bool) (piv : Nat × Nat × Nat) :
    (Dev.publishCycle d m e l n misslim s done rest began rstat sealLate piv).mask F = d.mask F := by
  refine Dev.mask_sub hF ?_
  unfold Dev.publishCycle
  try dsimp only
  repeat' first
    | (simp [Dev.fresh]; done)
    | ((try simp); exact (Dev.writeRegion_mask (by decide) (by assumption)).trans (by first | rfl | simp))
    | ((try simp); exact (Dev.keepFactors_mask (by decide) (by assumption)).trans (by first | rfl | simp))
    | (split <;> first | (rename_i hp; cases Dev.fst_of_eq hp; clear hp) | (rename_i hp; cases Dev.snd_of_eq hp; clear hp) | skip)
    | (refine (Dev.mask_foldl _ ?_ _ _).trans ?_)
    | intro _ _
    | intro _
    | dsimp only

@[simp] theorem Dev.countRun_mask {F : Nat} (hF : 8200 &&& F = 8200) (d : Dev) (e : Nat) (cc : Nat) :
    (Dev.countRun d e cc).mask F = d.mask F := by
  refine Dev.mask_sub hF ?_
  unfold Dev.countRun
  simp

@[simp] theorem Dev.endRun_mask {F : Nat} (hF : 213925177 &&& F = 213925177) (d : Dev) (m : Mem) (e : Nat) (rest : Rest) (rstat : Nat) :
    (Dev.endRun d m e rest rstat).mask F = d.mask F := by
  refine Dev.mask_sub hF ?_
  unfold Dev.endRun
  (repeat' split) <;> simp

@[simp] theorem Dev.cutRun_mask {F : Nat} (hF : 213925177 &&& F = 213925177) (d : Dev) (m : Mem) (e : Nat) (rest : Rest) (rstat : Nat) :
    (Dev.cutRun d m e rest rstat).mask F = d.mask F := by
  refine Dev.mask_sub hF ?_
  unfold Dev.cutRun
  simp

@[simp] theorem Dev.deltaPacket_mask {F : Nat} (hF : 41216 &&& F = 41216) (d : Dev) (e : Nat) :
    (Dev.deltaPacket d e).mask F = d.mask F := by
  refine Dev.mask_sub hF ?_
  unfold Dev.deltaPacket
  (repeat' split) <;> simp

@[simp] theorem Dev.putSeal_mask {F : Nat} (hF : 8192 &&& F = 8192) (d : Dev) (e : Nat) (p : Delta) (z : SealState) :
    (Dev.putSeal d e p z).mask F = d.mask F := by
  refine Dev.mask_sub hF ?_
  unfold Dev.putSeal
  simp

@[simp] theorem Dev.takeSeal_mask {F : Nat} (hF : 8200 &&& F = 8200) (d : Dev) (e : Nat) (p : Delta) (z : SealState) (inRegion : Nat → Bool) (nv : Nat) :
    (Dev.takeSeal d e p z inRegion nv).mask F = d.mask F := by
  refine Dev.mask_sub hF ?_
  unfold Dev.takeSeal
  simp

@[simp] theorem Dev.takeDelta_mask {F : Nat} (hF : 79707193 &&& F = 79707193) (d : Dev) (e : Nat) (l : Launch) (s : Struct) (p : Delta) :
    (Dev.takeDelta d e l s p).mask F = d.mask F := by
  refine Dev.mask_sub hF ?_
  unfold Dev.takeDelta
  (repeat' split) <;> simp

@[simp] theorem Dev.storeCe_mask {F : Nat} (hF : 4194352 &&& F = 4194352) (d : Dev) (e : Nat) (ces : Nat) :
    (Dev.storeCe d e ces).mask F = d.mask F := by
  refine Dev.mask_sub hF ?_
  unfold Dev.storeCe
  simp

@[simp] theorem Dev.deltaApply_mask {F : Nat} (hF : 79707193 &&& F = 79707193) (d : Dev) (e : Nat) (ces : Nat) :
    (Dev.deltaApply d e ces).mask F = d.mask F := by
  refine Dev.mask_sub hF ?_
  unfold Dev.deltaApply
  simp; (repeat' split) <;> simp

@[simp] theorem Dev.cycleStart_mask {F : Nat} (hF : 79707193 &&& F = 79707193) (d : Dev) (e : Nat) :
    (Dev.cycleStart d e).mask F = d.mask F := by
  refine Dev.mask_sub hF ?_
  unfold Dev.cycleStart
  simp; (repeat' split) <;> simp

@[simp] theorem Dev.laneGroup_mask {F : Nat} (hF : 213925177 &&& F = 213925177) (d : Dev) (m : Mem) (e cc ces : Nat) :
    (d.laneGroup m e cc ces).mask F = d.mask F := by
  refine Dev.mask_sub hF ?_
  unfold Dev.laneGroup
  split
  · rfl
  · dsimp only
    split
    · rfl
    · split
      · rfl
      · have key : ∀ (c : Cycle) (s : Struct) (b : Dev × Cycle) (l : List Nat) (g : Dev × Cycle → Nat → Dev × Cycle),
            (∀ b i, (g b i).1.mask 213925177 = b.1.mask 213925177) → (l.foldl g b).1.mask 213925177 = b.1.mask 213925177 := fun c s b l g hg =>
          Dev.foldl_keep (fun (x : Dev × Cycle) => x.1.mask 213925177 = b.1.mask 213925177) _ (fun x i hx => (hg x i).trans hx) _ _ rfl
        split
        · rw [Dev.setSolver_mask (by decide), key ‹_› ‹_› _ _ _ (fun b i => Dev.compute_mask (by decide) ..)]
          simp
        · rw [Dev.endRun_mask (by decide), Dev.setSolver_mask (by decide),
            key ‹_› ‹_› _ _ _ (fun b i => Dev.compute_mask (by decide) ..)]
          simp

@[simp] theorem Dev.deadlineMark_mask {F : Nat} (hF : 213925177 &&& F = 213925177) (d : Dev) (m : Mem) (e : Nat) :
    (Dev.deadlineMark d m e).mask F = d.mask F := by
  refine Dev.mask_sub hF ?_
  unfold Dev.deadlineMark
  simp; (repeat' split) <;> simp

@[simp] theorem Dev.abortQueued_mask {F : Nat} (hF : 213925177 &&& F = 213925177) (d : Dev) (m : Mem) (e : Nat) :
    (Dev.abortQueued d m e).mask F = d.mask F := by
  refine Dev.mask_sub hF ?_
  unfold Dev.abortQueued
  try dsimp only
  repeat' first
    | (simp; done)
    | (split <;> first | (rename_i hp; cases Dev.fst_of_eq hp; clear hp) | (rename_i hp; cases Dev.snd_of_eq hp; clear hp) | skip)
    | (refine (Dev.mask_foldl _ ?_ _ _).trans ?_)
    | intro _ _
    | intro _
    | dsimp only

@[simp] theorem Dev.abortLoad_mask {F : Nat} (hF : 2105384 &&& F = 2105384) (d : Dev) (e : Nat) :
    (Dev.abortLoad d e).mask F = d.mask F := by
  refine Dev.mask_sub hF ?_
  unfold Dev.abortLoad
  simp; (repeat' split) <;> simp

@[simp] theorem Dev.solverDrain_mask {F : Nat} (hF : 216022329 &&& F = 216022329) (d : Dev) (m : Mem) (e : Nat) :
    (Dev.solverDrain d m e).mask F = d.mask F := by
  refine Dev.mask_sub hF ?_
  unfold Dev.solverDrain
  simp

@[simp] theorem Dev.solverStop_mask {F : Nat} (hF : 216022329 &&& F = 216022329) (d : Dev) (m : Mem) (e : Nat) :
    (Dev.solverStop d m e).mask F = d.mask F := by
  refine Dev.mask_sub hF ?_
  unfold Dev.solverStop
  simp

@[simp] theorem Dev.solverFault_mask {F : Nat} (hF : 216022329 &&& F = 216022329) (d : Dev) (m : Mem) (e : Nat) :
    (Dev.solverFault d m e).mask F = d.mask F := by
  refine Dev.mask_sub hF ?_
  unfold Dev.solverFault
  simp

@[simp] theorem Dev.moveInstance_mask {F : Nat} (hF : 14695481 &&& F = 14695481) (d : Dev) (m : Mem) (pl : Placement) (i : Nat) :
    (Dev.moveInstance d m pl i).mask F = d.mask F := by
  refine Dev.mask_sub hF ?_
  unfold Dev.moveInstance
  simp; (repeat' split) <;> simp

@[simp] theorem Dev.solverRemap_mask {F : Nat} (hF : 14695481 &&& F = 14695481) (d : Dev) (m : Mem) :
    (Dev.solverRemap d m).mask F = d.mask F := by
  refine Dev.mask_sub hF ?_
  unfold Dev.solverRemap
  try dsimp only
  repeat' first
    | (simp; done)
    | ((try simp); exact (Dev.takeRemap_mask (by decide) (by assumption)).trans (by first | rfl | simp))
    | (split <;> first | (rename_i hp; cases Dev.fst_of_eq hp; clear hp) | (rename_i hp; cases Dev.snd_of_eq hp; clear hp) | skip)
    | dsimp only

@[simp] theorem Dev.hold_mask {F : Nat} (hF : 16777216 &&& F = 16777216) (d : Dev) (l : Load) (w : Nat) :
    (Dev.hold d l w).mask F = d.mask F := by
  refine Dev.mask_sub hF ?_
  unfold Dev.hold
  simp

@[simp] theorem Dev.setBallast_mask {F : Nat} (hF : 8 &&& F = 8) (d : Dev) (w : Nat) :
    (Dev.setBallast d w).mask F = d.mask F := by
  refine Dev.mask_sub hF ?_
  unfold Dev.setBallast
  simp

@[simp] theorem Dev.startFree_mask {F : Nat} (hF : 16777224 &&& F = 16777224) (d : Dev) (l : Load) :
    (Dev.startFree d l).mask F = d.mask F := by
  refine Dev.mask_sub hF ?_
  unfold Dev.startFree
  simp

@[simp] theorem Dev.admitLoad_mask {F : Nat} (hF : 16777216 &&& F = 16777216) (d : Dev) (l : Load) :
    (Dev.admitLoad d l).mask F = d.mask F := by
  refine Dev.mask_sub hF ?_
  unfold Dev.admitLoad
  simp

@[simp] theorem Dev.startEntry_mask {F : Nat} (hF : 16640 &&& F = 16640) (d : Dev) (p : Nat) (i : Nat) (late : Nat) :
    (Dev.startEntry d p i late).mask F = d.mask F := by
  refine Dev.mask_sub hF ?_
  unfold Dev.startEntry
  simp; (repeat' split) <;> simp

@[simp] theorem Dev.startCandidate_mask {F : Nat} (hF : 16793856 &&& F = 16793856) (d : Dev) (c : Candidate) :
    (Dev.startCandidate d c).mask F = d.mask F := by
  refine Dev.mask_sub hF ?_
  unfold Dev.startCandidate
  (repeat' split) <;> simp

@[simp] theorem Dev.admitWaiting_mask {F : Nat} (hF : 16793864 &&& F = 16793864) (d : Dev)  :
    (d.admitWaiting).mask F = d.mask F := by
  refine Dev.mask_sub hF ?_
  unfold Dev.admitWaiting
  refine Dev.foldl_keep (fun (b : Dev × Bool × List (Nat × Nat)) => b.1.mask 16793864 = d.mask 16793864) _ ?_ _ _ rfl
  intro b x hb
  dsimp only
  rw [← hb]
  repeat' split
  all_goals simp

@[simp] theorem Dev.launchEntryFire_mask {F : Nat} (hF : 16793864 &&& F = 16793864) (d : Dev) :
    (Dev.launchEntryFire d).mask F = d.mask F := by
  refine Dev.mask_sub hF ?_
  unfold Dev.launchEntryFire
  simp

@[simp] theorem Dev.askDirect_mask {F : Nat} (hF : 16793864 &&& F = 16793864) (d : Dev) (l : Load) :
    (Dev.askDirect d l).mask F = d.mask F := by
  refine Dev.mask_sub hF ?_
  unfold Dev.askDirect
  simp

@[simp] theorem Dev.release_mask {F : Nat} (hF : 16777224 &&& F = 16777224) (d : Dev) (l : Load) :
    (Dev.release d l).mask F = d.mask F := by
  refine Dev.mask_sub hF ?_
  unfold Dev.release
  (repeat' split) <;> simp

@[simp] theorem Dev.unitIdle_mask {F : Nat} (hF : 16777224 &&& F = 16777224) (d : Dev) (kind : Nat) (n : Nat) :
    (Dev.unitIdle d kind n).mask F = d.mask F := by
  refine Dev.mask_sub hF ?_
  unfold Dev.unitIdle
  simp

@[simp] theorem Dev.interval_mask {F : Nat} (hF : 16793864 &&& F = 16793864) (d : Dev) (ns : Nat) :
    (Dev.interval d ns).mask F = d.mask F := by
  refine Dev.mask_sub hF ?_
  unfold Dev.interval
  simp

@[simp] theorem Dev.cadenceMark_mask {F : Nat} (hF : 16924936 &&& F = 16924936) (d : Dev) :
    (Dev.cadenceMark d).mask F = d.mask F := by
  refine Dev.mask_sub hF ?_
  unfold Dev.cadenceMark
  simp

@[simp] theorem Dev.admissionInterval_mask {F : Nat} (hF : 16793864 &&& F = 16793864) (d : Dev) :
    (Dev.admissionInterval d).mask F = d.mask F := by
  refine Dev.mask_sub hF ?_
  unfold Dev.admissionInterval
  simp

@[simp] theorem Dev.cadCtl_mask {F : Nat} (hF : 131080 &&& F = 131080) (d : Dev) (v : Nat) :
    (Dev.cadCtl d v).mask F = d.mask F := by
  refine Dev.mask_sub hF ?_
  unfold Dev.cadCtl
  simp

@[simp] theorem Dev.cadPeriod_mask {F : Nat} (hF : 131080 &&& F = 131080) (d : Dev) (v : Nat) :
    (Dev.cadPeriod d v).mask F = d.mask F := by
  refine Dev.mask_sub hF ?_
  unfold Dev.cadPeriod
  simp

@[simp] theorem Dev.capWrite_mask {F : Nat} (hF : 16777224 &&& F = 16777224) (d : Dev) (f : Field) (v : Nat) :
    (Dev.capWrite d f v).mask F = d.mask F := by
  refine Dev.mask_sub hF ?_
  unfold Dev.capWrite
  simp

@[simp] theorem Dev.takeCap_mask {F : Nat} (hF : 16777224 &&& F = 16777224) (d : Dev) :
    (Dev.takeCap d).mask F = d.mask F := by
  refine Dev.mask_sub hF ?_
  unfold Dev.takeCap
  simp

@[simp] theorem Dev.capWindow_mask {F : Nat} (hF : 16777224 &&& F = 16777224) (d : Dev) (mean : Nat) :
    (Dev.capWindow d mean).mask F = d.mask F := by
  refine Dev.mask_sub hF ?_
  unfold Dev.capWindow
  simp

@[simp] theorem Dev.dutyHold_mask {F : Nat} (hF : 16777216 &&& F = 16777216) (d : Dev) (begins : Bool) :
    (Dev.dutyHold d begins).mask F = d.mask F := by
  refine Dev.mask_sub hF ?_
  unfold Dev.dutyHold
  simp

@[simp] theorem Dev.dropDirect_mask {F : Nat} (hF : 16777216 &&& F = 16777216) (d : Dev) (p : Nat) :
    (Dev.dropDirect d p).mask F = d.mask F := by
  refine Dev.mask_sub hF ?_
  unfold Dev.dropDirect
  simp

@[simp] theorem Dev.tileHalted_mask {F : Nat} (hF : 217914681 &&& F = 217914681) (d : Dev) (m : Mem) (p : Nat) :
    (Dev.tileHalted d m p).mask F = d.mask F := by
  refine Dev.mask_sub hF ?_
  unfold Dev.tileHalted
  simp

@[simp] theorem Dev.endDma_mask {F : Nat} (hF : 34048 &&& F = 34048) (d : Dev) (p tag state status : Nat) :
    (d.endDma p tag state status).mask F = d.mask F := by
  refine Dev.mask_sub hF ?_
  unfold Dev.endDma
  rw [Dev.onTile_mask (by decide)]
  exact (Dev.mask_deltasSent (by decide) { d with stks := _ } _).trans (Dev.mask_stks (by decide) d _)

@[simp] theorem Dev.tileDrain_mask {F : Nat} (hF : 234691897 &&& F = 234691897) (d : Dev) (m : Mem) (p : Nat) :
    (Dev.tileDrain d m p).mask F = d.mask F := by
  refine Dev.mask_sub hF ?_
  unfold Dev.tileDrain
  simp

@[simp] theorem Dev.tileDe_mask {F : Nat} (hF : 4194352 &&& F = 4194352) (d : Dev) (p : Nat) (addr : Nat) :
    (Dev.tileDe d p addr).mask F = d.mask F := by
  refine Dev.mask_sub hF ?_
  unfold Dev.tileDe
  simp

@[simp] theorem Dev.queueDe_mask {F : Nat} (hF : 138412080 &&& F = 138412080) (d : Dev) (p : Nat) (de : Bool) :
    (Dev.queueDe d p de).mask F = d.mask F := by
  refine Dev.mask_sub hF ?_
  unfold Dev.queueDe
  simp

@[simp] theorem Dev.countMx_mask {F : Nat} (hF : 138412088 &&& F = 138412088) (d : Dev) (p : Nat) (n : SpecialCount) (de : Bool) :
    (Dev.countMx d p n de).mask F = d.mask F := by
  refine Dev.mask_sub hF ?_
  unfold Dev.countMx
  simp

@[simp] theorem Dev.countVx_mask {F : Nat} (hF : 138412088 &&& F = 138412088) (d : Dev) (p : Nat) (n : SpecialCount) (de : Bool) :
    (Dev.countVx d p n de).mask F = d.mask F := by
  refine Dev.mask_sub hF ?_
  unfold Dev.countVx
  simp

@[simp] theorem Dev.tileDiscard_mask {F : Nat} (hF : 217947449 &&& F = 217947449) (d : Dev) (m : Mem) (p : Nat) :
    (Dev.tileDiscard d m p).mask F = d.mask F := by
  refine Dev.mask_sub hF ?_
  unfold Dev.tileDiscard
  simp

@[simp] theorem Dev.tileDisabled_mask {F : Nat} (hF : 2101544 &&& F = 2101544) (d : Dev) (p : Nat) :
    (Dev.tileDisabled d p).mask F = d.mask F := by
  refine Dev.mask_sub hF ?_
  unfold Dev.tileDisabled
  simp

@[simp] theorem Dev.stopIntake_mask {F : Nat} (hF : 234700089 &&& F = 234700089) (d : Dev) (m : Mem) (cls : Nat) (inst : Nat) :
    (Dev.stopIntake d m cls inst).mask F = d.mask F := by
  refine Dev.mask_sub hF ?_
  unfold Dev.stopIntake
  (repeat' split) <;> simp

@[simp] theorem Dev.discardWork_mask {F : Nat} (hF : 217955641 &&& F = 217955641) (d : Dev) (m : Mem) (cls : Nat) (inst : Nat) (ucc : Bool) :
    (Dev.discardWork d m cls inst ucc).mask F = d.mask F := by
  refine Dev.mask_sub hF ?_
  unfold Dev.discardWork
  simp; (repeat' split) <;> simp

@[simp] theorem Dev.closeChans_mask {F : Nat} (hF : 134742056 &&& F = 134742056) (d : Dev) (e : Nat) :
    (Dev.closeChans d e).mask F = d.mask F := by
  refine Dev.mask_sub hF ?_
  unfold Dev.closeChans
  simp

@[simp] theorem Dev.enterDisabled_mask {F : Nat} (hF : 217914681 &&& F = 217914681) (d : Dev) (m : Mem) (cls : Nat) (inst : Nat) (reason : Nat) :
    (Dev.enterDisabled d m cls inst reason).mask F = d.mask F := by
  refine Dev.mask_sub hF ?_
  unfold Dev.enterDisabled
  (repeat' split) <;> simp

@[simp] theorem Dev.refreshUnit_mask {F : Nat} (hF : 4137 &&& F = 4137) (d : Dev) (cls : Nat) (inst : Nat) :
    (Dev.refreshUnit d cls inst).mask F = d.mask F := by
  refine Dev.mask_sub hF ?_
  unfold Dev.refreshUnit
  simp

@[simp] theorem Dev.drainEnd_mask {F : Nat} (hF : 4194352 &&& F = 4194352) (d : Dev) (cls : Nat) (inst : Nat) (reason : Nat) (n : Nat) :
    (Dev.drainEnd d cls inst reason n).mask F = d.mask F := by
  refine Dev.mask_sub hF ?_
  unfold Dev.drainEnd
  simp

@[simp] theorem Dev.disableUnit_mask {F : Nat} (hF : 217914681 &&& F = 217914681) (d : Dev) (m : Mem) (cls : Nat) (inst : Nat) (reason : Nat) (n : Nat) :
    (Dev.disableUnit d m cls inst reason n).mask F = d.mask F := by
  refine Dev.mask_sub hF ?_
  unfold Dev.disableUnit
  simp

@[simp] theorem Dev.activate_mask {F : Nat} (hF : 528441 &&& F = 528441) (d : Dev) (cls : Nat) (inst : Nat) :
    (Dev.activate d cls inst).mask F = d.mask F := by
  refine Dev.mask_sub hF ?_
  unfold Dev.activate
  simp

@[simp] theorem Dev.drainUnit_mask {F : Nat} (hF : 234700089 &&& F = 234700089) (d : Dev) (m : Mem) (cls : Nat) (inst : Nat) :
    (Dev.drainUnit d m cls inst).mask F = d.mask F := by
  refine Dev.mask_sub hF ?_
  unfold Dev.drainUnit
  simp

@[simp] theorem Dev.forceUnit_mask {F : Nat} (hF : 234732857 &&& F = 234732857) (d : Dev) (m : Mem) (cls : Nat) (inst : Nat) :
    (Dev.forceUnit d m cls inst).mask F = d.mask F := by
  refine Dev.mask_sub hF ?_
  unfold Dev.forceUnit
  simp

@[simp] theorem Dev.pgCtrl_mask {F : Nat} (hF : 234732857 &&& F = 234732857) (d : Dev) (m : Mem) (cls : Nat) (inst : Nat) (v : Nat) :
    (Dev.pgCtrl d m cls inst v).mask F = d.mask F := by
  refine Dev.mask_sub hF ?_
  unfold Dev.pgCtrl
  simp; (repeat' split) <;> simp

@[simp] theorem Dev.drainComplete_mask {F : Nat} (hF : 217914681 &&& F = 217914681) (d : Dev) (m : Mem) (cls : Nat) (inst : Nat) :
    (Dev.drainComplete d m cls inst).mask F = d.mask F := by
  refine Dev.mask_sub hF ?_
  unfold Dev.drainComplete
  simp

@[simp] theorem Dev.drainExpiry_mask {F : Nat} (hF : 217955641 &&& F = 217955641) (d : Dev) (m : Mem) (cls : Nat) (inst : Nat) :
    (Dev.drainExpiry d m cls inst).mask F = d.mask F := by
  refine Dev.mask_sub hF ?_
  unfold Dev.drainExpiry
  simp

@[simp] theorem Dev.evrLose_mask {F : Nat} (hF : 40 &&& F = 40) (d : Dev) :
    (Dev.evrLose d).mask F = d.mask F := by
  refine Dev.mask_sub hF ?_
  unfold Dev.evrLose
  simp

@[simp] theorem Dev.uccUnit_mask {F : Nat} (hF : 234732857 &&& F = 234732857) (d : Dev) (m : Mem) (cls : Nat) (inst : Nat) :
    (Dev.uccUnit d m cls inst).mask F = d.mask F := by
  refine Dev.mask_sub hF ?_
  unfold Dev.uccUnit
  (repeat' split) <;> simp

@[simp] theorem Dev.unitUcc_mask {F : Nat} (hF : 234732857 &&& F = 234732857) (d : Dev) (m : Mem) (cls : Nat) (inst : Nat) (parity : Bool) (sub : Nat) (p0 : Nat) (p1 : Nat) (p2 : Nat) :
    (Dev.unitUcc d m cls inst parity sub p0 p1 p2).mask F = d.mask F := by
  refine Dev.mask_sub hF ?_
  unfold Dev.unitUcc
  simp

@[simp] theorem Dev.uccFree_mask {F : Nat} (hF : 138412080 &&& F = 138412080) (d : Dev) (cls : Nat) (inst : Nat) :
    (Dev.uccFree d cls inst).mask F = d.mask F := by
  refine Dev.mask_sub hF ?_
  unfold Dev.uccFree
  simp

@[simp] theorem Dev.clearCommon_mask {F : Nat} (hF : 16 &&& F = 16) (d : Dev) :
    (Dev.clearCommon d).mask F = d.mask F := by
  refine Dev.mask_sub hF ?_
  unfold Dev.clearCommon
  simp

@[simp] theorem Dev.stopSheets_mask {F : Nat} (hF : 17164048 &&& F = 17164048) (d : Dev) :
    (Dev.stopSheets d).mask F = d.mask F := by
  refine Dev.mask_sub hF ?_
  unfold Dev.stopSheets
  simp

@[simp] theorem Dev.gate_mask {F : Nat} (hF : 16777224 &&& F = 16777224) (d : Dev) :
    (Dev.gate d).mask F = d.mask F := by
  refine Dev.mask_sub hF ?_
  unfold Dev.gate
  simp

@[simp] theorem Dev.dropLoads_mask {F : Nat} (hF : 2097192 &&& F = 2097192) (d : Dev) (status : Nat) :
    (Dev.dropLoads d status).mask F = d.mask F := by
  refine Dev.mask_sub hF ?_
  unfold Dev.dropLoads
  simp

@[simp] theorem Dev.failDevice_mask {F : Nat} (hF : 19261241 &&& F = 19261241) (d : Dev) :
    (Dev.failDevice d).mask F = d.mask F := by
  refine Dev.mask_sub hF ?_
  unfold Dev.failDevice
  simp

@[simp] theorem Dev.deviceUcf_mask {F : Nat} (hF : 23455545 &&& F = 23455545) (d : Dev) (cls : Nat) (inst : Nat) (cause : Nat) (p : Nat) :
    (Dev.deviceUcf d cls inst cause p).mask F = d.mask F := by
  refine Dev.mask_sub hF ?_
  unfold Dev.deviceUcf
  simp

@[simp] theorem Dev.markFail_mask {F : Nat} (hF : 8 &&& F = 8) (d : Dev) (node : Nat) (peer : Nat) :
    (Dev.markFail d node peer).mask F = d.mask F := by
  refine Dev.mask_sub hF ?_
  unfold Dev.markFail
  simp

@[simp] theorem Dev.flitReceive_mask {F : Nat} (hF : 4194488 &&& F = 4194488) (d : Dev) (node : Nat) (peer : Nat) (bad : Bool) :
    (Dev.flitReceive d node peer bad).mask F = d.mask F := by
  refine Dev.mask_sub hF ?_
  unfold Dev.flitReceive
  simp

@[simp] theorem Dev.logLink_mask {F : Nat} (hF : 32 &&& F = 32) (d : Dev) (a : Nat) (b : Nat) (old : Nat) :
    (Dev.logLink d a b old).mask F = d.mask F := by
  refine Dev.mask_sub hF ?_
  unfold Dev.logLink
  simp

@[simp] theorem Dev.feltReroute_mask {F : Nat} (hF : 4265 &&& F = 4265) (d : Dev) (a : Nat) (b : Nat) :
    (Dev.feltReroute d a b).mask F = d.mask F := by
  refine Dev.mask_sub hF ?_
  unfold Dev.feltReroute
  simp

@[simp] theorem Dev.countArrival_mask {F : Nat} (hF : 332032 &&& F = 332032) (d : Dev) (b : Nat) (tile : Option Nat) :
    (Dev.countArrival d b tile).mask F = d.mask F := by
  refine Dev.mask_sub hF ?_
  unfold Dev.countArrival
  simp

@[simp] theorem Dev.barArriveSend_mask {F : Nat} (hF : 65792 &&& F = 65792) (d : Dev) (p : Nat) (b : Nat) :
    (Dev.barArriveSend d p b).mask F = d.mask F := by
  refine Dev.mask_sub hF ?_
  unfold Dev.barArriveSend
  (repeat' split) <;> simp

@[simp] theorem Dev.barArrival_mask {F : Nat} (hF : 332032 &&& F = 332032) (d : Dev) (p : Nat) (b : Nat) :
    (Dev.barArrival d p b).mask F = d.mask F := by
  refine Dev.mask_sub hF ?_
  unfold Dev.barArrival
  simp

@[simp] theorem Dev.hostArrive_mask {F : Nat} (hF : 65576 &&& F = 65576) (d : Dev) (v : Nat) :
    (Dev.hostArrive d v).mask F = d.mask F := by
  refine Dev.mask_sub hF ?_
  unfold Dev.hostArrive
  simp

@[simp] theorem Dev.hostArrivalCount_mask {F : Nat} (hF : 332032 &&& F = 332032) (d : Dev) (b : Nat) :
    (Dev.hostArrivalCount d b).mask F = d.mask F := by
  refine Dev.mask_sub hF ?_
  unfold Dev.hostArrivalCount
  simp

@[simp] theorem Dev.barTimeout_mask {F : Nat} (hF : 332064 &&& F = 332064) (d : Dev) (b : Nat) :
    (Dev.barTimeout d b).mask F = d.mask F := by
  refine Dev.mask_sub hF ?_
  unfold Dev.barTimeout
  simp

@[simp] theorem Dev.barConfigure_mask {F : Nat} (hF : 332064 &&& F = 332064) (d : Dev) (v : Nat) :
    (Dev.barConfigure d v).mask F = d.mask F := by
  refine Dev.mask_sub hF ?_
  unfold Dev.barConfigure
  simp

@[simp] theorem Dev.barReset_mask {F : Nat} (hF : 332064 &&& F = 332064) (d : Dev) (v : Nat) :
    (Dev.barReset d v).mask F = d.mask F := by
  refine Dev.mask_sub hF ?_
  unfold Dev.barReset
  simp

@[simp] theorem Dev.barriersReset_mask {F : Nat} (hF : 65536 &&& F = 65536) (d : Dev) :
    (Dev.barriersReset d).mask F = d.mask F := by
  refine Dev.mask_sub hF ?_
  unfold Dev.barriersReset
  simp

@[simp] theorem Dev.tileCe_mask {F : Nat} (hF : 4194352 &&& F = 4194352) (d : Dev) (p : Nat) (which : Nat) (word : Nat) :
    (Dev.tileCe d p which word).mask F = d.mask F := by
  refine Dev.mask_sub hF ?_
  unfold Dev.tileCe
  simp

@[simp] theorem Dev.tileUcc_mask {F : Nat} (hF : 234732857 &&& F = 234732857) (d : Dev) (m : Mem) (p : Nat) (cause : Nat) (addr : Nat) :
    (Dev.tileUcc d m p cause addr).mask F = d.mask F := by
  refine Dev.mask_sub hF ?_
  unfold Dev.tileUcc
  simp

@[simp] theorem Dev.storeError_mask {F : Nat} (hF : 4194608 &&& F = 4194608) (d : Dev) (p : Nat) (ecc : Nat) (word : Nat) :
    (Dev.storeError d p ecc word).mask F = d.mask F := by
  refine Dev.mask_sub hF ?_
  unfold Dev.storeError
  (repeat' split) <;> simp

@[simp] theorem Dev.storeFault_mask {F : Nat} (hF : 234732857 &&& F = 234732857) (d : Dev) (m : Mem) (p : Nat) (ecc : Nat) (word : Nat) :
    (Dev.storeFault d m p ecc word).mask F = d.mask F := by
  refine Dev.mask_sub hF ?_
  unfold Dev.storeFault
  simp

@[simp] theorem Dev.excHalt_mask {F : Nat} (hF : 217914681 &&& F = 217914681) (d : Dev) (m : Mem) (p : Nat) :
    (Dev.excHalt d m p).mask F = d.mask F := by
  refine Dev.mask_sub hF ?_
  unfold Dev.excHalt
  simp

@[simp] theorem Dev.exception_mask {F : Nat} (hF : 234732857 &&& F = 234732857) (d : Dev) (m : Mem) (p : Nat) (e : Exc) :
    (Dev.exception d m p e).mask F = d.mask F := by
  refine Dev.mask_sub hF ?_
  unfold Dev.exception
  simp

@[simp] theorem Dev.armEntries_mask {F : Nat} (hF : 16793864 &&& F = 16793864) (d : Dev) (p : Nat) (mask : Nat) (mark : Nat) :
    (Dev.armEntries d p mask mark).mask F = d.mask F := by
  refine Dev.mask_sub hF ?_
  unfold Dev.armEntries
  simp

@[simp] theorem Dev.post_mask {F : Nat} (hF : 2097960 &&& F = 2097960) (d : Dev) (p : Nat) (target : Nat) (v : Nat) :
    (Dev.post d p target v).mask F = d.mask F := by
  refine Dev.mask_sub hF ?_
  unfold Dev.post
  (repeat' split) <;> simp

@[simp] theorem Dev.sendOpen_mask {F : Nat} (hF : 262400 &&& F = 262400) (d : Dev) (p : Nat) (n : Nat) :
    (Dev.sendOpen d p n).mask F = d.mask F := by
  refine Dev.mask_sub hF ?_
  unfold Dev.sendOpen
  simp

@[simp] theorem Dev.applyEff_mask {F : Nat} (hF : 19153704 &&& F = 19153704) (d : Dev) (p : Nat) (e : Eff) :
    (Dev.applyEff d p e).mask F = d.mask F := by
  refine Dev.mask_sub hF ?_
  unfold Dev.applyEff
  (repeat' split) <;> simp

@[simp] theorem Dev.completeBundle_mask {F : Nat} (hF : 234708793 &&& F = 234708793) (d : Dev) (m : Mem) (p : Nat) (slots : List Slot) (effs : List Eff) :
    (Dev.completeBundle d m p slots effs).mask F = d.mask F := by
  refine Dev.mask_sub hF ?_
  unfold Dev.completeBundle
  simp

@[simp] theorem Dev.reportedFence_mask {F : Nat} (hF : 524288 &&& F = 524288) (d : Dev) (p : Nat) (t : Tile) (env : IssueEnv) (slots : List Slot) :
    (Dev.reportedFence d p t env slots).mask F = d.mask F := by
  refine Dev.mask_sub hF ?_
  unfold Dev.reportedFence
  (repeat' split) <;> simp

@[simp] theorem Dev.issue_mask {F : Nat} (hF : 234749753 &&& F = 234749753) (d : Dev) (m : Mem) (p : Nat) (ecc : Nat) (word : Nat) (fresh : Bool) :
    (Dev.issue d m p ecc word fresh).mask F = d.mask F := by
  refine Dev.mask_sub hF ?_
  unfold Dev.issue
  simp; (repeat' split) <;> simp

@[simp] theorem Dev.bundleIssue_mask {F : Nat} (hF : 234749753 &&& F = 234749753) (d : Dev) (m : Mem) (p : Nat) (ecc : Nat) (word : Nat) :
    (Dev.bundleIssue d m p ecc word).mask F = d.mask F := by
  refine Dev.mask_sub hF ?_
  unfold Dev.bundleIssue
  simp

@[simp] theorem Dev.stalledIssue_mask {F : Nat} (hF : 234749753 &&& F = 234749753) (d : Dev) (m : Mem) (p : Nat) (ecc : Nat) (word : Nat) :
    (Dev.stalledIssue d m p ecc word).mask F = d.mask F := by
  refine Dev.mask_sub hF ?_
  unfold Dev.stalledIssue
  simp

@[simp] theorem Dev.writeLands_mask {F : Nat} (hF : 256 &&& F = 256) (d : Dev) (p : Nat) :
    (Dev.writeLands d p).mask F = d.mask F := by
  refine Dev.mask_sub hF ?_
  unfold Dev.writeLands
  simp

@[simp] theorem Dev.divideComplete_mask {F : Nat} (hF : 256 &&& F = 256) (d : Dev) (p : Nat) (fp : Bool) :
    (Dev.divideComplete d p fp).mask F = d.mask F := by
  refine Dev.mask_sub hF ?_
  unfold Dev.divideComplete
  simp

@[simp] theorem Dev.watchdog_mask {F : Nat} (hF : 234732857 &&& F = 234732857) (d : Dev) (m : Mem) (p : Nat) :
    (Dev.watchdog d m p).mask F = d.mask F := by
  refine Dev.mask_sub hF ?_
  unfold Dev.watchdog
  simp; (repeat' split) <;> simp

@[simp] theorem Dev.fenceTimeout_mask {F : Nat} (hF : 256 &&& F = 256) (d : Dev) (p : Nat) :
    (Dev.fenceTimeout d p).mask F = d.mask F := by
  refine Dev.mask_sub hF ?_
  unfold Dev.fenceTimeout
  simp

@[simp] theorem Dev.creditReturn_mask {F : Nat} (hF : 256 &&& F = 256) (d : Dev) (p : Nat) (target : Nat) :
    (Dev.creditReturn d p target).mask F = d.mask F := by
  refine Dev.mask_sub hF ?_
  unfold Dev.creditReturn
  simp

@[simp] theorem Dev.setDma_mask {F : Nat} (hF : 256 &&& F = 256) (d : Dev) (p : Nat) (q : Dma) :
    (Dev.setDma d p q).mask F = d.mask F := by
  refine Dev.mask_sub hF ?_
  unfold Dev.setDma
  simp

@[simp] theorem Dev.sendRequest_mask {F : Nat} (hF : 1280 &&& F = 1280) (d : Dev) (r : Req) :
    (Dev.sendRequest d r).mask F = d.mask F := by
  refine Dev.mask_sub hF ?_
  unfold Dev.sendRequest
  simp

@[simp] theorem Dev.deltaAccess_mask {F : Nat} (hF : 33024 &&& F = 33024) (d : Dev) (p : Nat) (t : Tile) (q : Dma) (si : Nat) (top : Nat) :
    (Dev.deltaAccess d p t q si top).mask F = d.mask F := by
  refine Dev.mask_sub hF ?_
  unfold Dev.deltaAccess
  (repeat' split) <;> simp

@[simp] theorem Dev.regionAccess_mask {F : Nat} (hF : 234732857 &&& F = 234732857) (d : Dev) (m : Mem) (p : Nat) (ecc : Nat) (word : Nat) :
    (Dev.regionAccess d m p ecc word).mask F = d.mask F := by
  refine Dev.mask_sub hF ?_
  unfold Dev.regionAccess
  simp; (repeat' split) <;> simp

@[simp] theorem Dev.mirroredWrite_mask {F : Nat} (hF : 524544 &&& F = 524544) (d : Dev) (p : Nat) (tag : Nat) :
    (Dev.mirroredWrite d p tag).mask F = d.mask F := by
  refine Dev.mask_sub hF ?_
  unfold Dev.mirroredWrite
  (repeat' split) <;> simp

@[simp] theorem Dev.dmaComplete_mask {F : Nat} (hF : 256 &&& F = 256) (d : Dev) (p : Nat) (tag : Nat) :
    (Dev.dmaComplete d p tag).mask F = d.mask F := by
  refine Dev.mask_sub hF ?_
  unfold Dev.dmaComplete
  (repeat' split) <;> simp

@[simp] theorem Dev.dmaTimeout_mask {F : Nat} (hF : 34048 &&& F = 34048) (d : Dev) (p : Nat) (tag : Nat) :
    (Dev.dmaTimeout d p tag).mask F = d.mask F := by
  refine Dev.mask_sub hF ?_
  unfold Dev.dmaTimeout
  simp

@[simp] theorem Dev.mxOpStart_mask {F : Nat} (hF : 234732857 &&& F = 234732857) (d : Dev) (m : Mem) (p : Nat) (array : Bool) (ecc : Nat) (word : Nat) :
    (Dev.mxOpStart d m p array ecc word).mask F = d.mask F := by
  refine Dev.mask_sub hF ?_
  unfold Dev.mxOpStart
  simp

@[simp] theorem Dev.mmaComplete_mask {F : Nat} (hF : 138412344 &&& F = 138412344) (d : Dev) (p : Nat) :
    (Dev.mmaComplete d p).mask F = d.mask F := by
  refine Dev.mask_sub hF ?_
  unfold Dev.mmaComplete
  simp; (repeat' split) <;> simp

@[simp] theorem Dev.transferComplete_mask {F : Nat} (hF : 138412344 &&& F = 138412344) (d : Dev) (p : Nat) (ones : List Nat) (bad : List Nat) :
    (Dev.transferComplete d p ones bad).mask F = d.mask F := by
  refine Dev.mask_sub hF ?_
  unfold Dev.transferComplete
  simp; (repeat' split) <;> simp

@[simp] theorem Dev.mxOpComplete_mask {F : Nat} (hF : 138412344 &&& F = 138412344) (d : Dev) (p : Nat) (array : Bool) (ones : List Nat) (bad : List Nat) :
    (Dev.mxOpComplete d p array ones bad).mask F = d.mask F := by
  refine Dev.mask_sub hF ?_
  unfold Dev.mxOpComplete
  simp

@[simp] theorem Dev.vectorStart_mask {F : Nat} (hF : 234732857 &&& F = 234732857) (d : Dev) (m : Mem) (p : Nat) (ecc : Nat) (word : Nat) :
    (Dev.vectorStart d m p ecc word).mask F = d.mask F := by
  refine Dev.mask_sub hF ?_
  unfold Dev.vectorStart
  simp

@[simp] theorem Dev.vectorComplete_mask {F : Nat} (hF : 138412344 &&& F = 138412344) (d : Dev) (p : Nat) :
    (Dev.vectorComplete d p).mask F = d.mask F := by
  refine Dev.mask_sub hF ?_
  unfold Dev.vectorComplete
  simp; (repeat' split) <;> simp

@[simp] theorem Dev.accdbg_mask {F : Nat} (hF : 264 &&& F = 264) (d : Dev) (p : Nat) (v : Nat) :
    (Dev.accdbg d p v).mask F = d.mask F := by
  refine Dev.mask_sub hF ?_
  unfold Dev.accdbg
  simp

@[simp] theorem Dev.accdbgDone_mask {F : Nat} (hF : 264 &&& F = 264) (d : Dev) (p : Nat) :
    (Dev.accdbgDone d p).mask F = d.mask F := by
  refine Dev.mask_sub hF ?_
  unfold Dev.accdbgDone
  simp

@[simp] theorem Dev.startTile_mask {F : Nat} (hF : 256 &&& F = 256) (d : Dev) (p : Nat) :
    (Dev.startTile d p).mask F = d.mask F := by
  refine Dev.mask_sub hF ?_
  unfold Dev.startTile
  simp

@[simp] theorem Dev.stopTile_mask {F : Nat} (hF : 234691897 &&& F = 234691897) (d : Dev) (m : Mem) (p : Nat) :
    (Dev.stopTile d m p).mask F = d.mask F := by
  refine Dev.mask_sub hF ?_
  unfold Dev.stopTile
  simp

@[simp] theorem Dev.resumeTile_mask {F : Nat} (hF : 256 &&& F = 256) (d : Dev) (p : Nat) :
    (Dev.resumeTile d p).mask F = d.mask F := by
  refine Dev.mask_sub hF ?_
  unfold Dev.resumeTile
  simp

@[simp] theorem Dev.runctl_mask {F : Nat} (hF : 234691897 &&& F = 234691897) (d : Dev) (m : Mem) (p : Nat) (v : Nat) :
    (Dev.runctl d m p v).mask F = d.mask F := by
  refine Dev.mask_sub hF ?_
  unfold Dev.runctl
  (repeat' split) <;> simp

@[simp] theorem Dev.progLoad_mask {F : Nat} (hF : 14687545 &&& F = 14687545) (d : Dev) (m : Mem) (q : Nat) :
    (Dev.progLoad d m q).mask F = d.mask F := by
  refine Dev.mask_sub hF ?_
  unfold Dev.progLoad
  try dsimp only
  repeat' first
    | (simp; done)
    | (split <;> first | (rename_i hp; cases Dev.fst_of_eq hp; clear hp) | (rename_i hp; cases Dev.snd_of_eq hp; clear hp) | skip)
    | (refine Dev.startCmd_mask (by decide) _ _ _ _ ?_)
    | intro _ _
    | intro _
    | dsimp only

@[simp] theorem Dev.tileStart_mask {F : Nat} (hF : 2097448 &&& F = 2097448) (d : Dev) (q : Nat) :
    (Dev.tileStart d q).mask F = d.mask F := by
  refine Dev.mask_sub hF ?_
  unfold Dev.tileStart
  try dsimp only
  repeat' first
    | (simp; done)
    | (split <;> first | (rename_i hp; cases Dev.fst_of_eq hp; clear hp) | (rename_i hp; cases Dev.snd_of_eq hp; clear hp) | skip)
    | (refine (Dev.mask_foldl _ ?_ _ _).trans ?_)
    | (refine Dev.startCmd_mask (by decide) _ _ _ _ ?_)
    | intro _ _
    | intro _
    | dsimp only

@[simp] theorem Dev.tileStop_mask {F : Nat} (hF : 234691897 &&& F = 234691897) (d : Dev) (m : Mem) (q : Nat) :
    (Dev.tileStop d m q).mask F = d.mask F := by
  refine Dev.mask_sub hF ?_
  unfold Dev.tileStop
  try dsimp only
  repeat' first
    | (simp; done)
    | (split <;> first | (rename_i hp; cases Dev.fst_of_eq hp; clear hp) | (rename_i hp; cases Dev.snd_of_eq hp; clear hp) | skip)
    | (refine (Dev.mask_foldl _ ?_ _ _).trans ?_)
    | (refine Dev.startCmd_mask (by decide) _ _ _ _ ?_)
    | intro _ _
    | intro _
    | dsimp only

@[simp] theorem Dev.secResult_mask {F : Nat} (hF : 8 &&& F = 8) (d : Dev) (status : Nat) (detail : Nat) :
    (Dev.secResult d status detail).mask F = d.mask F := by
  refine Dev.mask_sub hF ?_
  unfold Dev.secResult
  simp

@[simp] theorem Dev.secRefuse_mask {F : Nat} (hF : 134217736 &&& F = 134217736) (d : Dev) :
    (Dev.secRefuse d).mask F = d.mask F := by
  refine Dev.mask_sub hF ?_
  unfold Dev.secRefuse
  simp

@[simp] theorem Dev.secNoted_mask {F : Nat} (hF : 12590137 &&& F = 12590137) (d : Dev) (n : Nat) :
    (Dev.secNoted d n).mask F = d.mask F := by
  refine Dev.mask_sub hF ?_
  unfold Dev.secNoted
  simp

theorem Dev.secWrite_mask {F : Nat} (h0 : 79699001 &&& F = 79699001) {d d' : Dev} {o : Nat} {bs : List Nat}
    (hd : d.secWrite o bs = some d') : d'.mask F = d.mask F := by
  exact Dev.writeRegion_mask h0 hd

@[simp] theorem Dev.secWrite_getD_mask {F : Nat} (h0 : 79699001 &&& F = 79699001) (d : Dev) (o : Nat) (bs : List Nat) (e : Dev) (he : e.mask F = d.mask F) :
    ((d.secWrite o bs).getD e).mask F = d.mask F := by
  cases hd : d.secWrite o bs with
  | none => simpa using he
  | some d' => simpa using Dev.secWrite_mask h0 hd

theorem Dev.withToken_mask {F : Nat} (hF : 146807865 &&& F = 146807865) (d : Dev) (m : Mem) (st : Nat → Bool) (f : Dev → Dev)
    (hf : ∀ d, (f d).mask F = d.mask F) : (d.withToken m st f).mask F = d.mask F := by
  have h {e e' : Dev} (he : e.mask 146807865 = e'.mask 146807865) : e.mask F = e'.mask F := Dev.mask_sub hF he
  unfold Dev.withToken
  split
  · exact h (by simp)
  · dsimp only
    split
    · rw [show ((f (d.secNoted 160)).secResult sOK 0).mask F = (f (d.secNoted 160)).mask F from h (by simp), hf]
      exact h (by simp)
    · exact h (by simp)
    · exact h (by simp)

@[simp] theorem Dev.blow_mask {F : Nat} (hF : 8388640 &&& F = 8388640) (d : Dev) (target : Nat) :
    (Dev.blow d target).mask F = d.mask F := by
  refine Dev.mask_sub hF ?_
  unfold Dev.blow
  simp

@[simp] theorem Dev.lcTransition_mask {F : Nat} (hF : 146807865 &&& F = 146807865) (d : Dev) (m : Mem) :
    (Dev.lcTransition d m).mask F = d.mask F := by
  refine Dev.mask_sub hF ?_
  unfold Dev.lcTransition
  try dsimp only
  repeat' first
    | (simp; done)
    | (split <;> first | (rename_i hp; cases Dev.fst_of_eq hp; clear hp) | (rename_i hp; cases Dev.snd_of_eq hp; clear hp) | skip)
    | (refine Dev.withToken_mask (by decide) _ _ _ _ ?_)
    | intro _ _
    | intro _
    | dsimp only

@[simp] theorem Dev.fieldDebugToken_mask {F : Nat} (hF : 146807865 &&& F = 146807865) (d : Dev) (m : Mem) :
    (Dev.fieldDebugToken d m).mask F = d.mask F := by
  refine Dev.mask_sub hF ?_
  unfold Dev.fieldDebugToken
  try dsimp only
  repeat' first
    | (simp; done)
    | (split <;> first | (rename_i hp; cases Dev.fst_of_eq hp; clear hp) | (rename_i hp; cases Dev.snd_of_eq hp; clear hp) | skip)
    | (refine Dev.withToken_mask (by decide) _ _ _ _ ?_)
    | intro _ _
    | intro _
    | dsimp only

@[simp] theorem Dev.ownerKey_mask {F : Nat} (hF : 12590137 &&& F = 12590137) (d : Dev) (m : Mem) :
    (Dev.ownerKey d m).mask F = d.mask F := by
  refine Dev.mask_sub hF ?_
  unfold Dev.ownerKey
  (repeat' split) <;> simp

@[simp] theorem Dev.clearFieldmap_mask {F : Nat} (hF : 8388616 &&& F = 8388616) (d : Dev) :
    (Dev.clearFieldmap d).mask F = d.mask F := by
  refine Dev.mask_sub hF ?_
  unfold Dev.clearFieldmap
  simp

@[simp] theorem Dev.fwStage_mask {F : Nat} (hF : 146807865 &&& F = 146807865) (d : Dev) (m : Mem) :
    (Dev.fwStage d m).mask F = d.mask F := by
  refine Dev.mask_sub hF ?_
  unfold Dev.fwStage
  simp; (repeat' split) <;> simp

@[simp] theorem Dev.svnCommit_mask {F : Nat} (hF : 8388616 &&& F = 8388616) (d : Dev) :
    (Dev.svnCommit d).mask F = d.mask F := by
  refine Dev.mask_sub hF ?_
  unfold Dev.svnCommit
  simp

@[simp] theorem Dev.freshBytes_mask {F : Nat} (h : 134217728 &&& F = 134217728) (d : Dev) (n : Nat) : (d.freshBytes n).2.mask F = d.mask F := by
  simp [Dev.freshBytes, h]

@[simp] theorem Dev.report_mask {F : Nat} (h : 134217728 &&& F = 134217728) (d : Dev) (n : List Nat) : (d.report n).2.mask F = d.mask F := by
  simp [Dev.report, h]

@[simp] theorem Dev.attest_mask {F : Nat} (hF : 213916729 &&& F = 213916729) (d : Dev) (m : Mem) :
    (Dev.attest d m).mask F = d.mask F := by
  refine Dev.mask_sub hF ?_
  unfold Dev.attest
  try dsimp only
  repeat' first
    | (simp; done)
    | ((try simp); exact (Dev.secWrite_mask (by decide) (by assumption)).trans (by first | rfl | simp))
    | (split <;> first | (rename_i hp; cases Dev.fst_of_eq hp; clear hp) | (rename_i hp; cases Dev.snd_of_eq hp; clear hp) | skip)
    | dsimp only

@[simp] theorem Dev.certExport_mask {F : Nat} (hF : 79699001 &&& F = 79699001) (d : Dev) :
    (Dev.certExport d).mask F = d.mask F := by
  refine Dev.mask_sub hF ?_
  unfold Dev.certExport
  try dsimp only
  repeat' first
    | (simp; done)
    | ((try simp); exact (Dev.secWrite_mask (by decide) (by assumption)).trans (by first | rfl | simp))
    | (split <;> first | (rename_i hp; cases Dev.fst_of_eq hp; clear hp) | (rename_i hp; cases Dev.snd_of_eq hp; clear hp) | skip)
    | dsimp only

@[simp] theorem Dev.secStore_mask {F : Nat} (hF : 8 &&& F = 8) (d : Dev) (v : Nat) :
    (Dev.secStore d v).mask F = d.mask F := by
  refine Dev.mask_sub hF ?_
  unfold Dev.secStore
  simp

@[simp] theorem Dev.secCmd_mask {F : Nat} (hF : 213916729 &&& F = 213916729) (d : Dev) (m : Mem) (v : Nat) :
    (Dev.secCmd d m v).mask F = d.mask F := by
  refine Dev.mask_sub hF ?_
  unfold Dev.secCmd
  (repeat' split) <;> simp

@[simp] theorem Dev.licResult_mask {F : Nat} (hF : 8 &&& F = 8) (d : Dev) (status : Nat) :
    (Dev.licResult d status).mask F = d.mask F := by
  refine Dev.mask_sub hF ?_
  unfold Dev.licResult
  simp

@[simp] theorem Dev.licInstall_mask {F : Nat} (hF : 12590137 &&& F = 12590137) (d : Dev) (m : Mem) :
    (Dev.licInstall d m).mask F = d.mask F := by
  refine Dev.mask_sub hF ?_
  unfold Dev.licInstall
  simp; (repeat' split) <;> simp

@[simp] theorem Dev.licRemove_mask {F : Nat} (hF : 8388616 &&& F = 8388616) (d : Dev) :
    (Dev.licRemove d).mask F = d.mask F := by
  refine Dev.mask_sub hF ?_
  unfold Dev.licRemove
  simp

@[simp] theorem Dev.licCtl_mask {F : Nat} (hF : 12590137 &&& F = 12590137) (d : Dev) (m : Mem) (v : Nat) :
    (Dev.licCtl d m v).mask F = d.mask F := by
  refine Dev.mask_sub hF ?_
  unfold Dev.licCtl
  simp

@[simp] theorem Dev.evaluateLicence_mask {F : Nat} (hF : 8388642 &&& F = 8388642) (d : Dev) :
    (Dev.evaluateLicence d).mask F = d.mask F := by
  refine Dev.mask_sub hF ?_
  unfold Dev.evaluateLicence
  simp

@[simp] theorem Dev.powerFail_mask {F : Nat} (hF : 17164088 &&& F = 17164088) (d : Dev) (mv : Nat) :
    (Dev.powerFail d mv).mask F = d.mask F := by
  refine Dev.mask_sub hF ?_
  unfold Dev.powerFail
  simp

@[simp] theorem Dev.thermalTrip_mask {F : Nat} (hF : 157673273 &&& F = 157673273) (d : Dev) (sensor : Nat) (v : Nat) :
    (Dev.thermalTrip d sensor v).mask F = d.mask F := by
  refine Dev.mask_sub hF ?_
  unfold Dev.thermalTrip
  simp

@[simp] theorem Dev.thmSample_mask {F : Nat} (hF : 157673337 &&& F = 157673337) (d : Dev) (vs : List (Nat × Nat)) :
    (Dev.thmSample d vs).mask F = d.mask F := by
  refine Dev.mask_sub hF ?_
  unfold Dev.thmSample
  simp; (repeat' split) <;> simp

@[simp] theorem Dev.hardwareTrip_mask {F : Nat} (hF : 157673273 &&& F = 157673273) (d : Dev) (sensor : Nat) (v : Nat) :
    (Dev.hardwareTrip d sensor v).mask F = d.mask F := by
  refine Dev.mask_sub hF ?_
  unfold Dev.hardwareTrip
  simp

@[simp] theorem Dev.smbusRead_mask {F : Nat} (hF : 4194304 &&& F = 4194304) (d : Dev) (code : Nat) :
    (Dev.smbusRead d code).mask F = d.mask F := by
  refine Dev.mask_sub hF ?_
  unfold Dev.smbusRead
  simp

@[simp] theorem Dev.keepOff_mask {F : Nat} (hF : 16 &&& F = 16) (d : Dev) (cls : Nat) (inst : Nat) (reason : Nat) (fuse : Bool) (field : Bool) (licence : Bool) :
    (Dev.keepOff d cls inst reason fuse field licence).mask F = d.mask F := by
  refine Dev.mask_sub hF ?_
  unfold Dev.keepOff
  simp

@[simp] theorem Dev.settleUnit_mask {F : Nat} (hF : 272 &&& F = 272) (d : Dev) (i : Nat) :
    (Dev.settleUnit d i).mask F = d.mask F := by
  refine Dev.mask_sub hF ?_
  unfold Dev.settleUnit
  simp

@[simp] theorem Dev.runKat_mask {F : Nat} (hF : 146800688 &&& F = 146800688) (d : Dev) (fails : List KatFail) (i : Nat) :
    (Dev.runKat d fails i).mask F = d.mask F := by
  refine Dev.mask_sub hF ?_
  unfold Dev.runKat
  (repeat' split) <;> simp

@[simp] theorem Dev.zeroStores_mask {F : Nat} (hF : 256 &&& F = 256) (d : Dev) :
    (Dev.zeroStores d).mask F = d.mask F := by
  refine Dev.mask_sub hF ?_
  unfold Dev.zeroStores
  simp

@[simp] theorem Dev.reconcile_mask {F : Nat} (hF : 146800946 &&& F = 146800946) (d : Dev) (fails : List KatFail) :
    (Dev.reconcile d fails).mask F = d.mask F := by
  refine Dev.mask_sub hF ?_
  unfold Dev.reconcile
  simp

@[simp] theorem Dev.enableUnit_mask {F : Nat} (hF : 528441 &&& F = 528441) (d : Dev) (cls : Nat) (inst : Nat) :
    (Dev.enableUnit d cls inst).mask F = d.mask F := by
  refine Dev.mask_sub hF ?_
  unfold Dev.enableUnit
  simp

@[simp] theorem Dev.failStart_mask {F : Nat} (hF : 157673273 &&& F = 157673273) (d : Dev) (cls : Nat) (inst : Nat) :
    (Dev.failStart d cls inst).mask F = d.mask F := by
  refine Dev.mask_sub hF ?_
  unfold Dev.failStart
  simp

@[simp] theorem Dev.readFuses_mask {F : Nat} (hF : 8388644 &&& F = 8388644) (d : Dev)  :
    (d.readFuses).mask F = d.mask F := by
  refine Dev.mask_sub hF ?_
  unfold Dev.readFuses
  dsimp only
  split
  · simp
  · simp

@[simp] theorem Dev.trySlot_mask {F : Nat} (hF : 40 &&& F = 40) (d : Dev) (slot : Nat) :
    (Dev.trySlot d slot).2.mask F = d.mask F := by
  refine Dev.mask_sub hF ?_
  unfold Dev.trySlot
  (repeat' split) <;> simp

@[simp] theorem Dev.bootSlot_mask {F : Nat} (hF : 8388616 &&& F = 8388616) (d : Dev) (slot : Nat) (fallback : Bool) :
    (Dev.bootSlot d slot fallback).mask F = d.mask F := by
  refine Dev.mask_sub hF ?_
  unfold Dev.bootSlot
  simp

@[simp] theorem Dev.bootFirmware_mask {F : Nat} (hF : 8388652 &&& F = 8388652) (d : Dev) :
    (Dev.bootFirmware d).mask F = d.mask F := by
  refine Dev.mask_sub hF ?_
  unfold Dev.bootFirmware
  simp

@[simp] theorem Dev.headboxUp_mask {F : Nat} (hF : 158201789 &&& F = 158201789) (d : Dev) (links : List Nat) (failed : List (Nat × Nat)) :
    (Dev.headboxUp d links failed).mask F = d.mask F := by
  refine Dev.mask_sub hF ?_
  unfold Dev.headboxUp
  simp

@[simp] theorem Dev.pagesLive_mask {F : Nat} (hF : 19261245 &&& F = 19261245) (d : Dev) :
    (Dev.pagesLive d).mask F = d.mask F := by
  refine Dev.mask_sub hF ?_
  unfold Dev.pagesLive
  simp

@[simp] theorem Dev.setBins_mask {F : Nat} (hF : 1032 &&& F = 1032) (d : Dev) (s : Nat) (age : Nat) (bins : SMap Nat) :
    (Dev.setBins d s age bins).mask F = d.mask F := by
  refine Dev.mask_sub hF ?_
  unfold Dev.setBins
  simp

@[simp] theorem Dev.testStack_mask {F : Nat} (hF : 214441017 &&& F = 214441017) (d : Dev) (stored : Option StoredBins) (t : StackTest) :
    (Dev.testStack d stored t).mask F = d.mask F := by
  refine Dev.mask_sub hF ?_
  unfold Dev.testStack
  (repeat' split) <;> simp

@[simp] theorem Dev.testGroup_mask {F : Nat} (hF : 214441021 &&& F = 214441021) (d : Dev) (tests : List StackTest) :
    (Dev.testGroup d tests).mask F = d.mask F := by
  refine Dev.mask_sub hF ?_
  unfold Dev.testGroup
  simp

@[simp] theorem Dev.trainPorts_mask {F : Nat} (hF : 528445 &&& F = 528445) (d : Dev) :
    (Dev.trainPorts d).mask F = d.mask F := by
  refine Dev.mask_sub hF ?_
  unfold Dev.trainPorts
  simp

@[simp] theorem Dev.computeUp_mask {F : Nat} (hF : 147329343 &&& F = 147329343) (d : Dev) (fails : List KatFail) :
    (Dev.computeUp d fails).mask F = d.mask F := by
  refine Dev.mask_sub hF ?_
  unfold Dev.computeUp
  simp

@[simp] theorem Dev.ungate_mask {F : Nat} (hF : 16777216 &&& F = 16777216) (d : Dev) :
    (Dev.ungate d).mask F = d.mask F := by
  refine Dev.mask_sub hF ?_
  unfold Dev.ungate
  simp

@[simp] theorem Dev.goReady_mask {F : Nat} (hF : 17305661 &&& F = 17305661) (d : Dev) :
    (Dev.goReady d).mask F = d.mask F := by
  refine Dev.mask_sub hF ?_
  unfold Dev.goReady
  simp

@[simp] theorem Dev.clearRings_mask {F : Nat} (hF : 2097192 &&& F = 2097192) (d : Dev) :
    (Dev.clearRings d).mask F = d.mask F := by
  refine Dev.mask_sub hF ?_
  unfold Dev.clearRings
  simp

@[simp] theorem Dev.clearFunction_mask {F : Nat} (hF : 4194304 &&& F = 4194304) (d : Dev) :
    (Dev.clearFunction d).mask F = d.mask F := by
  refine Dev.mask_sub hF ?_
  unfold Dev.clearFunction
  simp

@[simp] theorem Dev.clearComputeRegs_mask {F : Nat} (hF : 8 &&& F = 8) (d : Dev) :
    (Dev.clearComputeRegs d).mask F = d.mask F := by
  refine Dev.mask_sub hF ?_
  unfold Dev.clearComputeRegs
  simp

@[simp] theorem Dev.resetWaiting_mask {F : Nat} (hF : 2097152 &&& F = 2097152) (d : Dev) :
    (Dev.resetWaiting d).mask F = d.mask F := by
  refine Dev.mask_sub hF ?_
  unfold Dev.resetWaiting
  simp

@[simp] theorem Dev.resetEvents_mask {F : Nat} (hF : 234749757 &&& F = 234749757) (d : Dev) (m : Mem) :
    (Dev.resetEvents d m).mask F = d.mask F := by
  refine Dev.mask_sub hF ?_
  unfold Dev.resetEvents
  simp

@[simp] theorem Dev.resetStart_mask {F : Nat} (hF : 234749757 &&& F = 234749757) (d : Dev) (m : Mem) :
    (Dev.resetStart d m).mask F = d.mask F := by
  refine Dev.mask_sub hF ?_
  unfold Dev.resetStart
  simp

@[simp] theorem Dev.reloadPrograms_mask {F : Nat} (hF : 12590393 &&& F = 12590393) (d : Dev) (m : Mem) :
    (Dev.reloadPrograms d m).mask F = d.mask F := by
  refine Dev.mask_sub hF ?_
  unfold Dev.reloadPrograms
  try dsimp only
  repeat' first
    | (simp; done)
    | (split <;> first | (rename_i hp; cases Dev.fst_of_eq hp; clear hp) | (rename_i hp; cases Dev.snd_of_eq hp; clear hp) | skip)
    | (refine (Dev.mask_foldl _ ?_ _ _).trans ?_)
    | intro _ _
    | intro _
    | dsimp only

@[simp] theorem Dev.remapMissing_mask {F : Nat} (hF : 4096 &&& F = 4096) (d : Dev) :
    (Dev.remapMissing d).mask F = d.mask F := by
  refine Dev.mask_sub hF ?_
  unfold Dev.remapMissing
  (repeat' split) <;> simp

@[simp] theorem Dev.resetTest_mask {F : Nat} (hF : 164109631 &&& F = 164109631) (d : Dev) (m : Mem) (fails : List KatFail) :
    (Dev.resetTest d m fails).mask F = d.mask F := by
  refine Dev.mask_sub hF ?_
  unfold Dev.resetTest
  simp

@[simp] theorem Dev.resetFinish_mask {F : Nat} (hF : 17305661 &&& F = 17305661) (d : Dev) :
    (Dev.resetFinish d).mask F = d.mask F := by
  refine Dev.mask_sub hF ?_
  unfold Dev.resetFinish
  simp

@[simp] theorem Dev.computeReset_mask {F : Nat} (hF : 234749759 &&& F = 234749759) (d : Dev) (m : Mem) (e : ResetEvent) :
    (Dev.computeReset d m e).mask F = d.mask F := by
  refine Dev.mask_sub hF ?_
  unfold Dev.computeReset
  (repeat' split) <;> simp

@[simp] theorem Dev.functionReset_mask {F : Nat} (hF : 234749757 &&& F = 234749757) (d : Dev) (m : Mem) (kind : Nat) :
    (Dev.functionReset d m kind).mask F = d.mask F := by
  refine Dev.mask_sub hF ?_
  unfold Dev.functionReset
  simp

@[simp] theorem Dev.perstRelease_mask {F : Nat} (hF : 4194312 &&& F = 4194312) (d : Dev) :
    (Dev.perstRelease d).mask F = d.mask F := by
  refine Dev.mask_sub hF ?_
  unfold Dev.perstRelease
  simp

@[simp] theorem Dev.pcieLinkUp_mask {F : Nat} (hF : 8 &&& F = 8) (d : Dev) (rate : Nat) (width : Nat) (flit : Bool) :
    (Dev.pcieLinkUp d rate width flit).mask F = d.mask F := by
  refine Dev.mask_sub hF ?_
  unfold Dev.pcieLinkUp
  simp

@[simp] theorem Dev.configRequest_mask {F : Nat} (hF : 138412032 &&& F = 138412032) (d : Dev) (kind : Nat) (off : Nat) (v : Nat) :
    (Dev.configRequest d kind off v).mask F = d.mask F := by
  refine Dev.mask_sub hF ?_
  unfold Dev.configRequest
  simp; (repeat' split) <;> simp

@[simp] theorem Dev.commonWrite_mask {F : Nat} (hF : 234732857 &&& F = 234732857) (d : Dev) (m : Mem) (cls : Nat) (inst : Nat) (off : Nat) (v : Nat) :
    (Dev.commonWrite d m cls inst off v).mask F = d.mask F := by
  refine Dev.mask_sub hF ?_
  unfold Dev.commonWrite
  (repeat' split) <;> simp

@[simp] theorem Dev.fieldWrite_mask {F : Nat} (hF : 8 &&& F = 8) (d : Dev) (f : Field) (i : Nat) (v : Nat) :
    (Dev.fieldWrite d f i v).mask F = d.mask F := by
  refine Dev.mask_sub hF ?_
  unfold Dev.fieldWrite
  (repeat' split) <;> simp

@[simp] theorem Dev.plainWrite_mask {F : Nat} (hF : 8 &&& F = 8) (d : Dev) (cls : Nat) (inst : Nat) (off : Nat) (v : Nat) :
    (Dev.plainWrite d cls inst off v).mask F = d.mask F := by
  refine Dev.mask_sub hF ?_
  unfold Dev.plainWrite
  simp

@[simp] theorem Dev.brokeReg_mask {F : Nat} (hF : 8 &&& F = 8) (d : Dev) (v : Nat) :
    (Dev.brokeReg d v).mask F = d.mask F := by
  refine Dev.mask_sub hF ?_
  unfold Dev.brokeReg
  simp

@[simp] theorem Dev.stpWrite_mask {F : Nat} (hF : 217914681 &&& F = 217914681) (d : Dev) (m : Mem) (off : Nat) (v : Nat) :
    (Dev.stpWrite d m off v).mask F = d.mask F := by
  refine Dev.mask_sub hF ?_
  unfold Dev.stpWrite
  (repeat' split) <;> simp

@[simp] theorem Dev.colRegWrite_mask {F : Nat} (hF : 217914681 &&& F = 217914681) (d : Dev) (m : Mem) (off : Nat) (v : Nat) :
    (Dev.colRegWrite d m off v).mask F = d.mask F := by
  refine Dev.mask_sub hF ?_
  unfold Dev.colRegWrite
  simp

@[simp] theorem Dev.hbxWrite_mask {F : Nat} (hF : 2097192 &&& F = 2097192) (d : Dev) (off : Nat) (v : Nat) :
    (Dev.hbxWrite d off v).mask F = d.mask F := by
  refine Dev.mask_sub hF ?_
  unfold Dev.hbxWrite
  (repeat' split) <;> simp

@[simp] theorem Dev.evrCtl_mask {F : Nat} (hF : 79699001 &&& F = 79699001) (d : Dev) (failing : List Nat) (v : Nat) :
    (Dev.evrCtl d failing v).mask F = d.mask F := by
  refine Dev.mask_sub hF ?_
  unfold Dev.evrCtl
  simp

@[simp] theorem Dev.bzpCtl_mask {F : Nat} (hF : 528424 &&& F = 528424) (d : Dev) (p : Nat) (v : Nat) :
    (Dev.bzpCtl d p v).mask F = d.mask F := by
  refine Dev.mask_sub hF ?_
  unfold Dev.bzpCtl
  simp

@[simp] theorem Dev.bzeWrite_mask {F : Nat} (hF : 217914681 &&& F = 217914681) (d : Dev) (m : Mem) (e : Nat) (off : Nat) (v : Nat) :
    (Dev.bzeWrite d m e off v).mask F = d.mask F := by
  refine Dev.mask_sub hF ?_
  unfold Dev.bzeWrite
  (repeat' split) <;> simp

@[simp] theorem Dev.blockWrite_mask {F : Nat} (hF : 234880829 &&& F = 234880829) (d : Dev) (m : Mem) (cls : Nat) (inst : Nat) (off : Nat) (v : Nat) :
    (Dev.blockWrite d m cls inst off v).mask F = d.mask F := by
  refine Dev.mask_sub hF ?_
  unfold Dev.blockWrite
  (repeat' split) <;> simp

@[simp] theorem Dev.pageWrite_mask {F : Nat} (hF : 234880829 &&& F = 234880829) (d : Dev) (m : Mem) (cls : Nat) (inst : Nat) (off : Nat) (v : Nat) :
    (Dev.pageWrite d m cls inst off v).mask F = d.mask F := by
  refine Dev.mask_sub hF ?_
  unfold Dev.pageWrite
  simp

@[simp] theorem Dev.msixWrite_mask {F : Nat} (hF : 4194304 &&& F = 4194304) (d : Dev) (w : Nat) (v : Nat) :
    (Dev.msixWrite d w v).mask F = d.mask F := by
  refine Dev.mask_sub hF ?_
  unfold Dev.msixWrite
  simp

@[simp] theorem Dev.urgentWrite_mask {F : Nat} (hF : 217914681 &&& F = 217914681) (d : Dev) (m : Mem) (o : Nat) (v : Nat) :
    (Dev.urgentWrite d m o v).mask F = d.mask F := by
  refine Dev.mask_sub hF ?_
  unfold Dev.urgentWrite
  (repeat' split) <;> simp

@[simp] theorem Dev.bar2Write_mask {F : Nat} (hF : 217914681 &&& F = 217914681) (d : Dev) (m : Mem) (off : Nat) (v : Nat) :
    (Dev.bar2Write d m off v).mask F = d.mask F := by
  refine Dev.mask_sub hF ?_
  unfold Dev.bar2Write
  simp

@[simp] theorem Dev.hostWrite_mask {F : Nat} (hF : 234880829 &&& F = 234880829) (d : Dev) (m : Mem) (bar : Nat) (off : Nat) (v : Nat) :
    (Dev.hostWrite d m bar off v).mask F = d.mask F := by
  refine Dev.mask_sub hF ?_
  unfold Dev.hostWrite
  simp

@[simp] theorem Dev.wordWrite_mask {F : Nat} (hF : 234880829 &&& F = 234880829) (d : Dev) (m : Mem) (bar : Nat) (off : Nat) (be : Nat) (v : Nat) :
    (Dev.wordWrite d m bar off be v).mask F = d.mask F := by
  refine Dev.mask_sub hF ?_
  unfold Dev.wordWrite
  simp

@[simp] theorem Dev.regWrite_mask {F : Nat} (hF : 234880829 &&& F = 234880829) (d : Dev) (m : Mem) (bar : Nat) (off : Nat) (be : Nat) (v : Nat) :
    (Dev.regWrite d m bar off be v).mask F = d.mask F := by
  refine Dev.mask_sub hF ?_
  unfold Dev.regWrite
  simp

@[simp] theorem Dev.answer_mask {F : Nat} (hF : 4194304 &&& F = 4194304) (d : Dev) (v : Nat) :
    (Dev.answer d v).mask F = d.mask F := by
  refine Dev.mask_sub hF ?_
  unfold Dev.answer
  simp

@[simp] theorem Dev.clearCounts_mask {F : Nat} (hF : 16 &&& F = 16) (d : Dev) (cls : Nat) (inst : Nat) :
    (Dev.clearCounts d cls inst).mask F = d.mask F := by
  refine Dev.mask_sub hF ?_
  unfold Dev.clearCounts
  simp

@[simp] theorem Dev.clearRead_mask {F : Nat} (hF : 24 &&& F = 24) (d : Dev) (cls : Nat) (inst : Nat) (off : Nat) :
    (Dev.clearRead d cls inst off).mask F = d.mask F := by
  refine Dev.mask_sub hF ?_
  unfold Dev.clearRead
  simp

@[simp] theorem Dev.latch_mask {F : Nat} (hF : 131120 &&& F = 131120) (d : Dev) (cls : Nat) (inst : Nat) (o : Nat) :
    (Dev.latch d cls inst o).mask F = d.mask F := by
  refine Dev.mask_sub hF ?_
  unfold Dev.latch
  simp

@[simp] theorem Dev.wordRead_mask {F : Nat} (hF : 131128 &&& F = 131128) (d : Dev) (m : Mem) (bar : Nat) (off : Nat) (be : Nat) :
    (Dev.wordRead d m bar off be).2.mask F = d.mask F := by
  refine Dev.mask_sub hF ?_
  unfold Dev.wordRead
  simp

@[simp] theorem Dev.rcRead_mask {F : Nat} (hF : 4325432 &&& F = 4325432) (d : Dev) (m : Mem) (bar : Nat) (off : Nat) (be : Nat) :
    (Dev.rcRead d m bar off be).mask F = d.mask F := by
  refine Dev.mask_sub hF ?_
  unfold Dev.rcRead
  simp

@[simp] theorem Dev.latchingRead_mask {F : Nat} (hF : 4325424 &&& F = 4325424) (d : Dev) (m : Mem) (off : Nat) :
    (Dev.latchingRead d m off).mask F = d.mask F := by
  refine Dev.mask_sub hF ?_
  unfold Dev.latchingRead
  simp

@[simp] theorem Dev.reservedAccess_mask {F : Nat} (hF : 4194344 &&& F = 4194344) (d : Dev) (bar : Nat) (off : Nat) (write : Bool) :
    (Dev.reservedAccess d bar off write).mask F = d.mask F := by
  refine Dev.mask_sub hF ?_
  unfold Dev.reservedAccess
  simp

@[simp] theorem Dev.refusePacket_mask {F : Nat} (hF : 217914681 &&& F = 217914681) (d : Dev) (m : Mem) (e : Nat) :
    (d.refusePacket m e).mask F = d.mask F := by
  refine Dev.mask_sub hF ?_
  unfold Dev.refusePacket
  refine Dev.withHead_mask (by decide) _ _ _ _ ?_
  intro d p
  split
  · rename_i hp; cases Dev.fst_of_eq hp; simp
  · rename_i hp; cases Dev.fst_of_eq hp; simp

theorem Dev.colPacket_mask {F : Nat} (hF : 217914681 &&& F = 217914681) (d : Dev) (m : Mem) (e op : Nat) (f : Dev → Nat → Packet → Dev)
    (hf : ∀ d c p, (f d c p).mask F = d.mask F) : (d.colPacket m e op f).mask F = d.mask F := by
  unfold Dev.colPacket
  rw [Dev.afterFailures_mask (Dev.sub_trans (by decide) hF)]
  refine Dev.withHead_mask (Dev.sub_trans (by decide) hF) _ _ _ _ ?_
  intro d p
  refine Dev.receive_mask (Dev.sub_trans (by decide) hF) _ _ _ _ ?_
  intro c d' h
  cases h
  exact hf ..

@[simp] theorem Dev.colTakes_mask {F : Nat} (hF : 217915193 &&& F = 217915193) (d : Dev) (m : Mem) (tile : Nat) (p : Nat → Bool) :
    (Dev.colTakes d m tile p).mask F = d.mask F := by
  refine Dev.mask_sub hF ?_
  unfold Dev.colTakes
  try dsimp only
  repeat' first
    | (simp; done)
    | ((try simp); exact (Dev.takePost_mask (by decide) (by assumption)).trans (by first | rfl | simp))
    | (split <;> first | (rename_i hp; cases Dev.fst_of_eq hp; clear hp) | (rename_i hp; cases Dev.snd_of_eq hp; clear hp) | skip)
    | dsimp only

@[simp] theorem Dev.readyPost_mask {F : Nat} (hF : 217915193 &&& F = 217915193) (d : Dev) (m : Mem) (tile : Nat) :
    (Dev.readyPost d m tile).mask F = d.mask F := by
  refine Dev.mask_sub hF ?_
  unfold Dev.readyPost
  simp

@[simp] theorem Dev.abortPost_mask {F : Nat} (hF : 217915193 &&& F = 217915193) (d : Dev) (m : Mem) (tile : Nat) :
    (Dev.abortPost d m tile).mask F = d.mask F := by
  refine Dev.mask_sub hF ?_
  unfold Dev.abortPost
  simp

@[simp] theorem Dev.colLaunch_mask {F : Nat} (hF : 217914681 &&& F = 217914681) (d : Dev) (m : Mem) (q : Nat) :
    (Dev.colLaunch d m q).mask F = d.mask F := by
  refine Dev.mask_sub hF ?_
  unfold Dev.colLaunch
  try dsimp only
  repeat' first
    | (simp; done)
    | (split <;> first | (rename_i hp; cases Dev.fst_of_eq hp; clear hp) | (rename_i hp; cases Dev.snd_of_eq hp; clear hp) | skip)
    | (refine Dev.startCmd_mask (by decide) _ _ _ _ ?_)
    | intro _ _
    | intro _
    | dsimp only

end Sys2Proof.Machine
end

