-- ==== Sys2Proof/Laws/State.lean ====
section
/-! SUPPORT. Laws/State.lean: what each setter leaves in each field, so that no proof unfolds a record update. -/

namespace Sys2Proof.Machine

@[simp] theorem State.after_pending (s : State) (f : Mem → Dev → Dev) : (s.after f).pending = s.pending := rfl
@[simp] theorem State.after_mem (s : State) (f : Mem → Dev → Dev) :
    (s.after f).mem = Memory.writeAll s.mem (f s.mem s.dev).wout := rfl
@[simp] theorem State.after_wout (s : State) (f : Mem → Dev → Dev) : (s.after f).dev.wout = [] := rfl
@[simp] theorem State.after_phase (s : State) (f : Mem → Dev → Dev) : (s.after f).dev.phase = (f s.mem s.dev).phase := rfl
@[simp] theorem State.after_variant (s : State) (f : Mem → Dev → Dev) : (s.after f).dev.variant = (f s.mem s.dev).variant := rfl
@[simp] theorem State.after_bootEvent (s : State) (f : Mem → Dev → Dev) : (s.after f).dev.bootEvent = (f s.mem s.dev).bootEvent := rfl
@[simp] theorem State.after_regs (s : State) (f : Mem → Dev → Dev) : (s.after f).dev.regs = (f s.mem s.dev).regs := rfl
@[simp] theorem State.after_units (s : State) (f : Mem → Dev → Dev) : (s.after f).dev.units = (f s.mem s.dev).units := rfl
@[simp] theorem State.after_evr (s : State) (f : Mem → Dev → Dev) : (s.after f).dev.evr = (f s.mem s.dev).evr := rfl
@[simp] theorem State.after_sensors (s : State) (f : Mem → Dev → Dev) : (s.after f).dev.sensors = (f s.mem s.dev).sensors := rfl
@[simp] theorem State.after_links (s : State) (f : Mem → Dev → Dev) : (s.after f).dev.links = (f s.mem s.dev).links := rfl
@[simp] theorem State.after_tiles (s : State) (f : Mem → Dev → Dev) : (s.after f).dev.tiles = (f s.mem s.dev).tiles := rfl
@[simp] theorem State.after_posts (s : State) (f : Mem → Dev → Dev) : (s.after f).dev.posts = (f s.mem s.dev).posts := rfl
@[simp] theorem State.after_stks (s : State) (f : Mem → Dev → Dev) : (s.after f).dev.stks = (f s.mem s.dev).stks := rfl
@[simp] theorem State.after_linePoison (s : State) (f : Mem → Dev → Dev) : (s.after f).dev.linePoison = (f s.mem s.dev).linePoison := rfl
@[simp] theorem State.after_deckle (s : State) (f : Mem → Dev → Dev) : (s.after f).dev.deckle = (f s.mem s.dev).deckle := rfl
@[simp] theorem State.after_solvers (s : State) (f : Mem → Dev → Dev) : (s.after f).dev.solvers = (f s.mem s.dev).solvers := rfl
@[simp] theorem State.after_launches (s : State) (f : Mem → Dev → Dev) : (s.after f).dev.launches = (f s.mem s.dev).launches := rfl
@[simp] theorem State.after_deltasSent (s : State) (f : Mem → Dev → Dev) : (s.after f).dev.deltasSent = (f s.mem s.dev).deltasSent := rfl
@[simp] theorem State.after_syn (s : State) (f : Mem → Dev → Dev) : (s.after f).dev.syn = (f s.mem s.dev).syn := rfl
@[simp] theorem State.after_cad (s : State) (f : Mem → Dev → Dev) : (s.after f).dev.cad = (f s.mem s.dev).cad := rfl
@[simp] theorem State.after_stp (s : State) (f : Mem → Dev → Dev) : (s.after f).dev.stp = (f s.mem s.dev).stp := rfl
@[simp] theorem State.after_brezin (s : State) (f : Mem → Dev → Dev) : (s.after f).dev.brezin = (f s.mem s.dev).brezin := rfl
@[simp] theorem State.after_col (s : State) (f : Mem → Dev → Dev) : (s.after f).dev.col = (f s.mem s.dev).col := rfl
@[simp] theorem State.after_hbx (s : State) (f : Mem → Dev → Dev) : (s.after f).dev.hbx = (f s.mem s.dev).hbx := rfl
@[simp] theorem State.after_pci (s : State) (f : Mem → Dev → Dev) : (s.after f).dev.pci = (f s.mem s.dev).pci := rfl
@[simp] theorem State.after_sec (s : State) (f : Mem → Dev → Dev) : (s.after f).dev.sec = (f s.mem s.dev).sec := rfl
@[simp] theorem State.after_pwr (s : State) (f : Mem → Dev → Dev) : (s.after f).dev.pwr = (f s.mem s.dev).pwr := rfl
@[simp] theorem State.after_hours (s : State) (f : Mem → Dev → Dev) : (s.after f).dev.hours = (f s.mem s.dev).hours := rfl
@[simp] theorem State.after_free (s : State) (f : Mem → Dev → Dev) : (s.after f).dev.free = (f s.mem s.dev).free := rfl
@[simp] theorem run_eq (f : Mem → Dev → Dev) (s : State) : run f s = .next (s.after f) := rfl

@[simp] theorem Dev.fset_phase (d : Dev) (f : Field) (i v : Nat) : (d.fset f i v).phase = d.phase := rfl
@[simp] theorem Dev.fset_variant (d : Dev) (f : Field) (i v : Nat) : (d.fset f i v).variant = d.variant := rfl
@[simp] theorem Dev.fset_bootEvent (d : Dev) (f : Field) (i v : Nat) : (d.fset f i v).bootEvent = d.bootEvent := rfl
@[simp] theorem Dev.fset_units (d : Dev) (f : Field) (i v : Nat) : (d.fset f i v).units = d.units := rfl
@[simp] theorem Dev.fset_evr (d : Dev) (f : Field) (i v : Nat) : (d.fset f i v).evr = d.evr := rfl
@[simp] theorem Dev.fset_sensors (d : Dev) (f : Field) (i v : Nat) : (d.fset f i v).sensors = d.sensors := rfl
@[simp] theorem Dev.fset_links (d : Dev) (f : Field) (i v : Nat) : (d.fset f i v).links = d.links := rfl
@[simp] theorem Dev.fset_tiles (d : Dev) (f : Field) (i v : Nat) : (d.fset f i v).tiles = d.tiles := rfl
@[simp] theorem Dev.fset_posts (d : Dev) (f : Field) (i v : Nat) : (d.fset f i v).posts = d.posts := rfl
@[simp] theorem Dev.fset_stks (d : Dev) (f : Field) (i v : Nat) : (d.fset f i v).stks = d.stks := rfl
@[simp] theorem Dev.fset_linePoison (d : Dev) (f : Field) (i v : Nat) : (d.fset f i v).linePoison = d.linePoison := rfl
@[simp] theorem Dev.fset_deckle (d : Dev) (f : Field) (i v : Nat) : (d.fset f i v).deckle = d.deckle := rfl
@[simp] theorem Dev.fset_solvers (d : Dev) (f : Field) (i v : Nat) : (d.fset f i v).solvers = d.solvers := rfl
@[simp] theorem Dev.fset_launches (d : Dev) (f : Field) (i v : Nat) : (d.fset f i v).launches = d.launches := rfl
@[simp] theorem Dev.fset_deltasSent (d : Dev) (f : Field) (i v : Nat) : (d.fset f i v).deltasSent = d.deltasSent := rfl
@[simp] theorem Dev.fset_syn (d : Dev) (f : Field) (i v : Nat) : (d.fset f i v).syn = d.syn := rfl
@[simp] theorem Dev.fset_cad (d : Dev) (f : Field) (i v : Nat) : (d.fset f i v).cad = d.cad := rfl
@[simp] theorem Dev.fset_stp (d : Dev) (f : Field) (i v : Nat) : (d.fset f i v).stp = d.stp := rfl
@[simp] theorem Dev.fset_brezin (d : Dev) (f : Field) (i v : Nat) : (d.fset f i v).brezin = d.brezin := rfl
@[simp] theorem Dev.fset_col (d : Dev) (f : Field) (i v : Nat) : (d.fset f i v).col = d.col := rfl
@[simp] theorem Dev.fset_hbx (d : Dev) (f : Field) (i v : Nat) : (d.fset f i v).hbx = d.hbx := rfl
@[simp] theorem Dev.fset_pci (d : Dev) (f : Field) (i v : Nat) : (d.fset f i v).pci = d.pci := rfl
@[simp] theorem Dev.fset_sec (d : Dev) (f : Field) (i v : Nat) : (d.fset f i v).sec = d.sec := rfl
@[simp] theorem Dev.fset_pwr (d : Dev) (f : Field) (i v : Nat) : (d.fset f i v).pwr = d.pwr := rfl
@[simp] theorem Dev.fset_hours (d : Dev) (f : Field) (i v : Nat) : (d.fset f i v).hours = d.hours := rfl
@[simp] theorem Dev.fset_wout (d : Dev) (f : Field) (i v : Nat) : (d.fset f i v).wout = d.wout := rfl
@[simp] theorem Dev.fset_free (d : Dev) (f : Field) (i v : Nat) : (d.fset f i v).free = d.free := rfl

@[simp] theorem Dev.setUnit_phase (d : Dev) (cls inst : Nat) (u : UnitPage) : (d.setUnit cls inst u).phase = d.phase := rfl
@[simp] theorem Dev.setUnit_variant (d : Dev) (cls inst : Nat) (u : UnitPage) : (d.setUnit cls inst u).variant = d.variant := rfl
@[simp] theorem Dev.setUnit_bootEvent (d : Dev) (cls inst : Nat) (u : UnitPage) : (d.setUnit cls inst u).bootEvent = d.bootEvent := rfl
@[simp] theorem Dev.setUnit_regs (d : Dev) (cls inst : Nat) (u : UnitPage) : (d.setUnit cls inst u).regs = d.regs := rfl
@[simp] theorem Dev.setUnit_evr (d : Dev) (cls inst : Nat) (u : UnitPage) : (d.setUnit cls inst u).evr = d.evr := rfl
@[simp] theorem Dev.setUnit_sensors (d : Dev) (cls inst : Nat) (u : UnitPage) : (d.setUnit cls inst u).sensors = d.sensors := rfl
@[simp] theorem Dev.setUnit_links (d : Dev) (cls inst : Nat) (u : UnitPage) : (d.setUnit cls inst u).links = d.links := rfl
@[simp] theorem Dev.setUnit_tiles (d : Dev) (cls inst : Nat) (u : UnitPage) : (d.setUnit cls inst u).tiles = d.tiles := rfl
@[simp] theorem Dev.setUnit_posts (d : Dev) (cls inst : Nat) (u : UnitPage) : (d.setUnit cls inst u).posts = d.posts := rfl
@[simp] theorem Dev.setUnit_stks (d : Dev) (cls inst : Nat) (u : UnitPage) : (d.setUnit cls inst u).stks = d.stks := rfl
@[simp] theorem Dev.setUnit_linePoison (d : Dev) (cls inst : Nat) (u : UnitPage) : (d.setUnit cls inst u).linePoison = d.linePoison := rfl
@[simp] theorem Dev.setUnit_deckle (d : Dev) (cls inst : Nat) (u : UnitPage) : (d.setUnit cls inst u).deckle = d.deckle := rfl
@[simp] theorem Dev.setUnit_solvers (d : Dev) (cls inst : Nat) (u : UnitPage) : (d.setUnit cls inst u).solvers = d.solvers := rfl
@[simp] theorem Dev.setUnit_launches (d : Dev) (cls inst : Nat) (u : UnitPage) : (d.setUnit cls inst u).launches = d.launches := rfl
@[simp] theorem Dev.setUnit_deltasSent (d : Dev) (cls inst : Nat) (u : UnitPage) : (d.setUnit cls inst u).deltasSent = d.deltasSent := rfl
@[simp] theorem Dev.setUnit_syn (d : Dev) (cls inst : Nat) (u : UnitPage) : (d.setUnit cls inst u).syn = d.syn := rfl
@[simp] theorem Dev.setUnit_cad (d : Dev) (cls inst : Nat) (u : UnitPage) : (d.setUnit cls inst u).cad = d.cad := rfl
@[simp] theorem Dev.setUnit_stp (d : Dev) (cls inst : Nat) (u : UnitPage) : (d.setUnit cls inst u).stp = d.stp := rfl
@[simp] theorem Dev.setUnit_brezin (d : Dev) (cls inst : Nat) (u : UnitPage) : (d.setUnit cls inst u).brezin = d.brezin := rfl
@[simp] theorem Dev.setUnit_col (d : Dev) (cls inst : Nat) (u : UnitPage) : (d.setUnit cls inst u).col = d.col := rfl
@[simp] theorem Dev.setUnit_hbx (d : Dev) (cls inst : Nat) (u : UnitPage) : (d.setUnit cls inst u).hbx = d.hbx := rfl
@[simp] theorem Dev.setUnit_pci (d : Dev) (cls inst : Nat) (u : UnitPage) : (d.setUnit cls inst u).pci = d.pci := rfl
@[simp] theorem Dev.setUnit_sec (d : Dev) (cls inst : Nat) (u : UnitPage) : (d.setUnit cls inst u).sec = d.sec := rfl
@[simp] theorem Dev.setUnit_pwr (d : Dev) (cls inst : Nat) (u : UnitPage) : (d.setUnit cls inst u).pwr = d.pwr := rfl
@[simp] theorem Dev.setUnit_hours (d : Dev) (cls inst : Nat) (u : UnitPage) : (d.setUnit cls inst u).hours = d.hours := rfl
@[simp] theorem Dev.setUnit_wout (d : Dev) (cls inst : Nat) (u : UnitPage) : (d.setUnit cls inst u).wout = d.wout := rfl
@[simp] theorem Dev.setUnit_free (d : Dev) (cls inst : Nat) (u : UnitPage) : (d.setUnit cls inst u).free = d.free := rfl

@[simp] theorem Dev.setTile_phase (d : Dev) (p : Nat) (t : Tile) : (d.setTile p t).phase = d.phase := rfl
@[simp] theorem Dev.setTile_variant (d : Dev) (p : Nat) (t : Tile) : (d.setTile p t).variant = d.variant := rfl
@[simp] theorem Dev.setTile_bootEvent (d : Dev) (p : Nat) (t : Tile) : (d.setTile p t).bootEvent = d.bootEvent := rfl
@[simp] theorem Dev.setTile_regs (d : Dev) (p : Nat) (t : Tile) : (d.setTile p t).regs = d.regs := rfl
@[simp] theorem Dev.setTile_units (d : Dev) (p : Nat) (t : Tile) : (d.setTile p t).units = d.units := rfl
@[simp] theorem Dev.setTile_evr (d : Dev) (p : Nat) (t : Tile) : (d.setTile p t).evr = d.evr := rfl
@[simp] theorem Dev.setTile_sensors (d : Dev) (p : Nat) (t : Tile) : (d.setTile p t).sensors = d.sensors := rfl
@[simp] theorem Dev.setTile_links (d : Dev) (p : Nat) (t : Tile) : (d.setTile p t).links = d.links := rfl
@[simp] theorem Dev.setTile_posts (d : Dev) (p : Nat) (t : Tile) : (d.setTile p t).posts = d.posts := rfl
@[simp] theorem Dev.setTile_stks (d : Dev) (p : Nat) (t : Tile) : (d.setTile p t).stks = d.stks := rfl
@[simp] theorem Dev.setTile_linePoison (d : Dev) (p : Nat) (t : Tile) : (d.setTile p t).linePoison = d.linePoison := rfl
@[simp] theorem Dev.setTile_deckle (d : Dev) (p : Nat) (t : Tile) : (d.setTile p t).deckle = d.deckle := rfl
@[simp] theorem Dev.setTile_solvers (d : Dev) (p : Nat) (t : Tile) : (d.setTile p t).solvers = d.solvers := rfl
@[simp] theorem Dev.setTile_launches (d : Dev) (p : Nat) (t : Tile) : (d.setTile p t).launches = d.launches := rfl
@[simp] theorem Dev.setTile_deltasSent (d : Dev) (p : Nat) (t : Tile) : (d.setTile p t).deltasSent = d.deltasSent := rfl
@[simp] theorem Dev.setTile_syn (d : Dev) (p : Nat) (t : Tile) : (d.setTile p t).syn = d.syn := rfl
@[simp] theorem Dev.setTile_cad (d : Dev) (p : Nat) (t : Tile) : (d.setTile p t).cad = d.cad := rfl
@[simp] theorem Dev.setTile_stp (d : Dev) (p : Nat) (t : Tile) : (d.setTile p t).stp = d.stp := rfl
@[simp] theorem Dev.setTile_brezin (d : Dev) (p : Nat) (t : Tile) : (d.setTile p t).brezin = d.brezin := rfl
@[simp] theorem Dev.setTile_col (d : Dev) (p : Nat) (t : Tile) : (d.setTile p t).col = d.col := rfl
@[simp] theorem Dev.setTile_hbx (d : Dev) (p : Nat) (t : Tile) : (d.setTile p t).hbx = d.hbx := rfl
@[simp] theorem Dev.setTile_pci (d : Dev) (p : Nat) (t : Tile) : (d.setTile p t).pci = d.pci := rfl
@[simp] theorem Dev.setTile_sec (d : Dev) (p : Nat) (t : Tile) : (d.setTile p t).sec = d.sec := rfl
@[simp] theorem Dev.setTile_pwr (d : Dev) (p : Nat) (t : Tile) : (d.setTile p t).pwr = d.pwr := rfl
@[simp] theorem Dev.setTile_hours (d : Dev) (p : Nat) (t : Tile) : (d.setTile p t).hours = d.hours := rfl
@[simp] theorem Dev.setTile_wout (d : Dev) (p : Nat) (t : Tile) : (d.setTile p t).wout = d.wout := rfl
@[simp] theorem Dev.setTile_free (d : Dev) (p : Nat) (t : Tile) : (d.setTile p t).free = d.free := rfl

@[simp] theorem Dev.setStack_phase (d : Dev) (k : Nat) (x : Stack) : (d.setStack k x).phase = d.phase := rfl
@[simp] theorem Dev.setStack_variant (d : Dev) (k : Nat) (x : Stack) : (d.setStack k x).variant = d.variant := rfl
@[simp] theorem Dev.setStack_bootEvent (d : Dev) (k : Nat) (x : Stack) : (d.setStack k x).bootEvent = d.bootEvent := rfl
@[simp] theorem Dev.setStack_regs (d : Dev) (k : Nat) (x : Stack) : (d.setStack k x).regs = d.regs := rfl
@[simp] theorem Dev.setStack_units (d : Dev) (k : Nat) (x : Stack) : (d.setStack k x).units = d.units := rfl
@[simp] theorem Dev.setStack_evr (d : Dev) (k : Nat) (x : Stack) : (d.setStack k x).evr = d.evr := rfl
@[simp] theorem Dev.setStack_sensors (d : Dev) (k : Nat) (x : Stack) : (d.setStack k x).sensors = d.sensors := rfl
@[simp] theorem Dev.setStack_links (d : Dev) (k : Nat) (x : Stack) : (d.setStack k x).links = d.links := rfl
@[simp] theorem Dev.setStack_tiles (d : Dev) (k : Nat) (x : Stack) : (d.setStack k x).tiles = d.tiles := rfl
@[simp] theorem Dev.setStack_posts (d : Dev) (k : Nat) (x : Stack) : (d.setStack k x).posts = d.posts := rfl
@[simp] theorem Dev.setStack_linePoison (d : Dev) (k : Nat) (x : Stack) : (d.setStack k x).linePoison = d.linePoison := rfl
@[simp] theorem Dev.setStack_deckle (d : Dev) (k : Nat) (x : Stack) : (d.setStack k x).deckle = d.deckle := rfl
@[simp] theorem Dev.setStack_solvers (d : Dev) (k : Nat) (x : Stack) : (d.setStack k x).solvers = d.solvers := rfl
@[simp] theorem Dev.setStack_launches (d : Dev) (k : Nat) (x : Stack) : (d.setStack k x).launches = d.launches := rfl
@[simp] theorem Dev.setStack_deltasSent (d : Dev) (k : Nat) (x : Stack) : (d.setStack k x).deltasSent = d.deltasSent := rfl
@[simp] theorem Dev.setStack_syn (d : Dev) (k : Nat) (x : Stack) : (d.setStack k x).syn = d.syn := rfl
@[simp] theorem Dev.setStack_cad (d : Dev) (k : Nat) (x : Stack) : (d.setStack k x).cad = d.cad := rfl
@[simp] theorem Dev.setStack_stp (d : Dev) (k : Nat) (x : Stack) : (d.setStack k x).stp = d.stp := rfl
@[simp] theorem Dev.setStack_brezin (d : Dev) (k : Nat) (x : Stack) : (d.setStack k x).brezin = d.brezin := rfl
@[simp] theorem Dev.setStack_col (d : Dev) (k : Nat) (x : Stack) : (d.setStack k x).col = d.col := rfl
@[simp] theorem Dev.setStack_hbx (d : Dev) (k : Nat) (x : Stack) : (d.setStack k x).hbx = d.hbx := rfl
@[simp] theorem Dev.setStack_pci (d : Dev) (k : Nat) (x : Stack) : (d.setStack k x).pci = d.pci := rfl
@[simp] theorem Dev.setStack_sec (d : Dev) (k : Nat) (x : Stack) : (d.setStack k x).sec = d.sec := rfl
@[simp] theorem Dev.setStack_pwr (d : Dev) (k : Nat) (x : Stack) : (d.setStack k x).pwr = d.pwr := rfl
@[simp] theorem Dev.setStack_hours (d : Dev) (k : Nat) (x : Stack) : (d.setStack k x).hours = d.hours := rfl
@[simp] theorem Dev.setStack_wout (d : Dev) (k : Nat) (x : Stack) : (d.setStack k x).wout = d.wout := rfl
@[simp] theorem Dev.setStack_free (d : Dev) (k : Nat) (x : Stack) : (d.setStack k x).free = d.free := rfl

@[simp] theorem Dev.setSolver_phase (d : Dev) (e : Nat) (x : Solver) : (d.setSolver e x).phase = d.phase := rfl
@[simp] theorem Dev.setSolver_variant (d : Dev) (e : Nat) (x : Solver) : (d.setSolver e x).variant = d.variant := rfl
@[simp] theorem Dev.setSolver_bootEvent (d : Dev) (e : Nat) (x : Solver) : (d.setSolver e x).bootEvent = d.bootEvent := rfl
@[simp] theorem Dev.setSolver_regs (d : Dev) (e : Nat) (x : Solver) : (d.setSolver e x).regs = d.regs := rfl
@[simp] theorem Dev.setSolver_units (d : Dev) (e : Nat) (x : Solver) : (d.setSolver e x).units = d.units := rfl
@[simp] theorem Dev.setSolver_evr (d : Dev) (e : Nat) (x : Solver) : (d.setSolver e x).evr = d.evr := rfl
@[simp] theorem Dev.setSolver_sensors (d : Dev) (e : Nat) (x : Solver) : (d.setSolver e x).sensors = d.sensors := rfl
@[simp] theorem Dev.setSolver_links (d : Dev) (e : Nat) (x : Solver) : (d.setSolver e x).links = d.links := rfl
@[simp] theorem Dev.setSolver_tiles (d : Dev) (e : Nat) (x : Solver) : (d.setSolver e x).tiles = d.tiles := rfl
@[simp] theorem Dev.setSolver_posts (d : Dev) (e : Nat) (x : Solver) : (d.setSolver e x).posts = d.posts := rfl
@[simp] theorem Dev.setSolver_stks (d : Dev) (e : Nat) (x : Solver) : (d.setSolver e x).stks = d.stks := rfl
@[simp] theorem Dev.setSolver_linePoison (d : Dev) (e : Nat) (x : Solver) : (d.setSolver e x).linePoison = d.linePoison := rfl
@[simp] theorem Dev.setSolver_deckle (d : Dev) (e : Nat) (x : Solver) : (d.setSolver e x).deckle = d.deckle := rfl
@[simp] theorem Dev.setSolver_launches (d : Dev) (e : Nat) (x : Solver) : (d.setSolver e x).launches = d.launches := rfl
@[simp] theorem Dev.setSolver_deltasSent (d : Dev) (e : Nat) (x : Solver) : (d.setSolver e x).deltasSent = d.deltasSent := rfl
@[simp] theorem Dev.setSolver_syn (d : Dev) (e : Nat) (x : Solver) : (d.setSolver e x).syn = d.syn := rfl
@[simp] theorem Dev.setSolver_cad (d : Dev) (e : Nat) (x : Solver) : (d.setSolver e x).cad = d.cad := rfl
@[simp] theorem Dev.setSolver_stp (d : Dev) (e : Nat) (x : Solver) : (d.setSolver e x).stp = d.stp := rfl
@[simp] theorem Dev.setSolver_brezin (d : Dev) (e : Nat) (x : Solver) : (d.setSolver e x).brezin = d.brezin := rfl
@[simp] theorem Dev.setSolver_col (d : Dev) (e : Nat) (x : Solver) : (d.setSolver e x).col = d.col := rfl
@[simp] theorem Dev.setSolver_hbx (d : Dev) (e : Nat) (x : Solver) : (d.setSolver e x).hbx = d.hbx := rfl
@[simp] theorem Dev.setSolver_pci (d : Dev) (e : Nat) (x : Solver) : (d.setSolver e x).pci = d.pci := rfl
@[simp] theorem Dev.setSolver_sec (d : Dev) (e : Nat) (x : Solver) : (d.setSolver e x).sec = d.sec := rfl
@[simp] theorem Dev.setSolver_pwr (d : Dev) (e : Nat) (x : Solver) : (d.setSolver e x).pwr = d.pwr := rfl
@[simp] theorem Dev.setSolver_hours (d : Dev) (e : Nat) (x : Solver) : (d.setSolver e x).hours = d.hours := rfl
@[simp] theorem Dev.setSolver_wout (d : Dev) (e : Nat) (x : Solver) : (d.setSolver e x).wout = d.wout := rfl
@[simp] theorem Dev.setSolver_free (d : Dev) (e : Nat) (x : Solver) : (d.setSolver e x).free = d.free := rfl

@[simp] theorem Dev.setSensor_phase (d : Dev) (i : Nat) (x : Sensor) : (d.setSensor i x).phase = d.phase := rfl
@[simp] theorem Dev.setSensor_variant (d : Dev) (i : Nat) (x : Sensor) : (d.setSensor i x).variant = d.variant := rfl
@[simp] theorem Dev.setSensor_bootEvent (d : Dev) (i : Nat) (x : Sensor) : (d.setSensor i x).bootEvent = d.bootEvent := rfl
@[simp] theorem Dev.setSensor_regs (d : Dev) (i : Nat) (x : Sensor) : (d.setSensor i x).regs = d.regs := rfl
@[simp] theorem Dev.setSensor_units (d : Dev) (i : Nat) (x : Sensor) : (d.setSensor i x).units = d.units := rfl
@[simp] theorem Dev.setSensor_evr (d : Dev) (i : Nat) (x : Sensor) : (d.setSensor i x).evr = d.evr := rfl
@[simp] theorem Dev.setSensor_links (d : Dev) (i : Nat) (x : Sensor) : (d.setSensor i x).links = d.links := rfl
@[simp] theorem Dev.setSensor_tiles (d : Dev) (i : Nat) (x : Sensor) : (d.setSensor i x).tiles = d.tiles := rfl
@[simp] theorem Dev.setSensor_posts (d : Dev) (i : Nat) (x : Sensor) : (d.setSensor i x).posts = d.posts := rfl
@[simp] theorem Dev.setSensor_stks (d : Dev) (i : Nat) (x : Sensor) : (d.setSensor i x).stks = d.stks := rfl
@[simp] theorem Dev.setSensor_linePoison (d : Dev) (i : Nat) (x : Sensor) : (d.setSensor i x).linePoison = d.linePoison := rfl
@[simp] theorem Dev.setSensor_deckle (d : Dev) (i : Nat) (x : Sensor) : (d.setSensor i x).deckle = d.deckle := rfl
@[simp] theorem Dev.setSensor_solvers (d : Dev) (i : Nat) (x : Sensor) : (d.setSensor i x).solvers = d.solvers := rfl
@[simp] theorem Dev.setSensor_launches (d : Dev) (i : Nat) (x : Sensor) : (d.setSensor i x).launches = d.launches := rfl
@[simp] theorem Dev.setSensor_deltasSent (d : Dev) (i : Nat) (x : Sensor) : (d.setSensor i x).deltasSent = d.deltasSent := rfl
@[simp] theorem Dev.setSensor_syn (d : Dev) (i : Nat) (x : Sensor) : (d.setSensor i x).syn = d.syn := rfl
@[simp] theorem Dev.setSensor_cad (d : Dev) (i : Nat) (x : Sensor) : (d.setSensor i x).cad = d.cad := rfl
@[simp] theorem Dev.setSensor_stp (d : Dev) (i : Nat) (x : Sensor) : (d.setSensor i x).stp = d.stp := rfl
@[simp] theorem Dev.setSensor_brezin (d : Dev) (i : Nat) (x : Sensor) : (d.setSensor i x).brezin = d.brezin := rfl
@[simp] theorem Dev.setSensor_col (d : Dev) (i : Nat) (x : Sensor) : (d.setSensor i x).col = d.col := rfl
@[simp] theorem Dev.setSensor_hbx (d : Dev) (i : Nat) (x : Sensor) : (d.setSensor i x).hbx = d.hbx := rfl
@[simp] theorem Dev.setSensor_pci (d : Dev) (i : Nat) (x : Sensor) : (d.setSensor i x).pci = d.pci := rfl
@[simp] theorem Dev.setSensor_sec (d : Dev) (i : Nat) (x : Sensor) : (d.setSensor i x).sec = d.sec := rfl
@[simp] theorem Dev.setSensor_pwr (d : Dev) (i : Nat) (x : Sensor) : (d.setSensor i x).pwr = d.pwr := rfl
@[simp] theorem Dev.setSensor_hours (d : Dev) (i : Nat) (x : Sensor) : (d.setSensor i x).hours = d.hours := rfl
@[simp] theorem Dev.setSensor_wout (d : Dev) (i : Nat) (x : Sensor) : (d.setSensor i x).wout = d.wout := rfl
@[simp] theorem Dev.setSensor_free (d : Dev) (i : Nat) (x : Sensor) : (d.setSensor i x).free = d.free := rfl

@[simp] theorem Dev.setLine_phase (d : Dev) (n : Nat) (p : Bool) : (d.setLine n p).phase = d.phase := rfl
@[simp] theorem Dev.setLine_variant (d : Dev) (n : Nat) (p : Bool) : (d.setLine n p).variant = d.variant := rfl
@[simp] theorem Dev.setLine_bootEvent (d : Dev) (n : Nat) (p : Bool) : (d.setLine n p).bootEvent = d.bootEvent := rfl
@[simp] theorem Dev.setLine_regs (d : Dev) (n : Nat) (p : Bool) : (d.setLine n p).regs = d.regs := rfl
@[simp] theorem Dev.setLine_units (d : Dev) (n : Nat) (p : Bool) : (d.setLine n p).units = d.units := rfl
@[simp] theorem Dev.setLine_evr (d : Dev) (n : Nat) (p : Bool) : (d.setLine n p).evr = d.evr := rfl
@[simp] theorem Dev.setLine_sensors (d : Dev) (n : Nat) (p : Bool) : (d.setLine n p).sensors = d.sensors := rfl
@[simp] theorem Dev.setLine_links (d : Dev) (n : Nat) (p : Bool) : (d.setLine n p).links = d.links := rfl
@[simp] theorem Dev.setLine_tiles (d : Dev) (n : Nat) (p : Bool) : (d.setLine n p).tiles = d.tiles := rfl
@[simp] theorem Dev.setLine_posts (d : Dev) (n : Nat) (p : Bool) : (d.setLine n p).posts = d.posts := rfl
@[simp] theorem Dev.setLine_stks (d : Dev) (n : Nat) (p : Bool) : (d.setLine n p).stks = d.stks := rfl
@[simp] theorem Dev.setLine_deckle (d : Dev) (n : Nat) (p : Bool) : (d.setLine n p).deckle = d.deckle := rfl
@[simp] theorem Dev.setLine_solvers (d : Dev) (n : Nat) (p : Bool) : (d.setLine n p).solvers = d.solvers := rfl
@[simp] theorem Dev.setLine_launches (d : Dev) (n : Nat) (p : Bool) : (d.setLine n p).launches = d.launches := rfl
@[simp] theorem Dev.setLine_deltasSent (d : Dev) (n : Nat) (p : Bool) : (d.setLine n p).deltasSent = d.deltasSent := rfl
@[simp] theorem Dev.setLine_syn (d : Dev) (n : Nat) (p : Bool) : (d.setLine n p).syn = d.syn := rfl
@[simp] theorem Dev.setLine_cad (d : Dev) (n : Nat) (p : Bool) : (d.setLine n p).cad = d.cad := rfl
@[simp] theorem Dev.setLine_stp (d : Dev) (n : Nat) (p : Bool) : (d.setLine n p).stp = d.stp := rfl
@[simp] theorem Dev.setLine_brezin (d : Dev) (n : Nat) (p : Bool) : (d.setLine n p).brezin = d.brezin := rfl
@[simp] theorem Dev.setLine_col (d : Dev) (n : Nat) (p : Bool) : (d.setLine n p).col = d.col := rfl
@[simp] theorem Dev.setLine_hbx (d : Dev) (n : Nat) (p : Bool) : (d.setLine n p).hbx = d.hbx := rfl
@[simp] theorem Dev.setLine_pci (d : Dev) (n : Nat) (p : Bool) : (d.setLine n p).pci = d.pci := rfl
@[simp] theorem Dev.setLine_sec (d : Dev) (n : Nat) (p : Bool) : (d.setLine n p).sec = d.sec := rfl
@[simp] theorem Dev.setLine_pwr (d : Dev) (n : Nat) (p : Bool) : (d.setLine n p).pwr = d.pwr := rfl
@[simp] theorem Dev.setLine_hours (d : Dev) (n : Nat) (p : Bool) : (d.setLine n p).hours = d.hours := rfl
@[simp] theorem Dev.setLine_wout (d : Dev) (n : Nat) (p : Bool) : (d.setLine n p).wout = d.wout := rfl
@[simp] theorem Dev.setLine_free (d : Dev) (n : Nat) (p : Bool) : (d.setLine n p).free = d.free := rfl

@[simp] theorem Dev.pokeBytes_phase (d : Dev) (a : Nat) (bs : List Nat) : (d.pokeBytes a bs).phase = d.phase := rfl
@[simp] theorem Dev.pokeBytes_variant (d : Dev) (a : Nat) (bs : List Nat) : (d.pokeBytes a bs).variant = d.variant := rfl
@[simp] theorem Dev.pokeBytes_bootEvent (d : Dev) (a : Nat) (bs : List Nat) : (d.pokeBytes a bs).bootEvent = d.bootEvent := rfl
@[simp] theorem Dev.pokeBytes_regs (d : Dev) (a : Nat) (bs : List Nat) : (d.pokeBytes a bs).regs = d.regs := rfl
@[simp] theorem Dev.pokeBytes_units (d : Dev) (a : Nat) (bs : List Nat) : (d.pokeBytes a bs).units = d.units := rfl
@[simp] theorem Dev.pokeBytes_evr (d : Dev) (a : Nat) (bs : List Nat) : (d.pokeBytes a bs).evr = d.evr := rfl
@[simp] theorem Dev.pokeBytes_sensors (d : Dev) (a : Nat) (bs : List Nat) : (d.pokeBytes a bs).sensors = d.sensors := rfl
@[simp] theorem Dev.pokeBytes_links (d : Dev) (a : Nat) (bs : List Nat) : (d.pokeBytes a bs).links = d.links := rfl
@[simp] theorem Dev.pokeBytes_tiles (d : Dev) (a : Nat) (bs : List Nat) : (d.pokeBytes a bs).tiles = d.tiles := rfl
@[simp] theorem Dev.pokeBytes_posts (d : Dev) (a : Nat) (bs : List Nat) : (d.pokeBytes a bs).posts = d.posts := rfl
@[simp] theorem Dev.pokeBytes_stks (d : Dev) (a : Nat) (bs : List Nat) : (d.pokeBytes a bs).stks = d.stks := rfl
@[simp] theorem Dev.pokeBytes_linePoison (d : Dev) (a : Nat) (bs : List Nat) : (d.pokeBytes a bs).linePoison = d.linePoison := rfl
@[simp] theorem Dev.pokeBytes_deckle (d : Dev) (a : Nat) (bs : List Nat) : (d.pokeBytes a bs).deckle = d.deckle := rfl
@[simp] theorem Dev.pokeBytes_solvers (d : Dev) (a : Nat) (bs : List Nat) : (d.pokeBytes a bs).solvers = d.solvers := rfl
@[simp] theorem Dev.pokeBytes_launches (d : Dev) (a : Nat) (bs : List Nat) : (d.pokeBytes a bs).launches = d.launches := rfl
@[simp] theorem Dev.pokeBytes_deltasSent (d : Dev) (a : Nat) (bs : List Nat) : (d.pokeBytes a bs).deltasSent = d.deltasSent := rfl
@[simp] theorem Dev.pokeBytes_syn (d : Dev) (a : Nat) (bs : List Nat) : (d.pokeBytes a bs).syn = d.syn := rfl
@[simp] theorem Dev.pokeBytes_cad (d : Dev) (a : Nat) (bs : List Nat) : (d.pokeBytes a bs).cad = d.cad := rfl
@[simp] theorem Dev.pokeBytes_stp (d : Dev) (a : Nat) (bs : List Nat) : (d.pokeBytes a bs).stp = d.stp := rfl
@[simp] theorem Dev.pokeBytes_brezin (d : Dev) (a : Nat) (bs : List Nat) : (d.pokeBytes a bs).brezin = d.brezin := rfl
@[simp] theorem Dev.pokeBytes_col (d : Dev) (a : Nat) (bs : List Nat) : (d.pokeBytes a bs).col = d.col := rfl
@[simp] theorem Dev.pokeBytes_hbx (d : Dev) (a : Nat) (bs : List Nat) : (d.pokeBytes a bs).hbx = d.hbx := rfl
@[simp] theorem Dev.pokeBytes_pci (d : Dev) (a : Nat) (bs : List Nat) : (d.pokeBytes a bs).pci = d.pci := rfl
@[simp] theorem Dev.pokeBytes_sec (d : Dev) (a : Nat) (bs : List Nat) : (d.pokeBytes a bs).sec = d.sec := rfl
@[simp] theorem Dev.pokeBytes_pwr (d : Dev) (a : Nat) (bs : List Nat) : (d.pokeBytes a bs).pwr = d.pwr := rfl
@[simp] theorem Dev.pokeBytes_hours (d : Dev) (a : Nat) (bs : List Nat) : (d.pokeBytes a bs).hours = d.hours := rfl
@[simp] theorem Dev.pokeBytes_free (d : Dev) (a : Nat) (bs : List Nat) : (d.pokeBytes a bs).free = d.free := rfl

@[simp] theorem Dev.setEntry_phase (d : Dev) (h : Nat) (r : Region) : (d.setEntry h r).phase = d.phase := rfl
@[simp] theorem Dev.setEntry_variant (d : Dev) (h : Nat) (r : Region) : (d.setEntry h r).variant = d.variant := rfl
@[simp] theorem Dev.setEntry_bootEvent (d : Dev) (h : Nat) (r : Region) : (d.setEntry h r).bootEvent = d.bootEvent := rfl
@[simp] theorem Dev.setEntry_regs (d : Dev) (h : Nat) (r : Region) : (d.setEntry h r).regs = d.regs := rfl
@[simp] theorem Dev.setEntry_units (d : Dev) (h : Nat) (r : Region) : (d.setEntry h r).units = d.units := rfl
@[simp] theorem Dev.setEntry_evr (d : Dev) (h : Nat) (r : Region) : (d.setEntry h r).evr = d.evr := rfl
@[simp] theorem Dev.setEntry_sensors (d : Dev) (h : Nat) (r : Region) : (d.setEntry h r).sensors = d.sensors := rfl
@[simp] theorem Dev.setEntry_links (d : Dev) (h : Nat) (r : Region) : (d.setEntry h r).links = d.links := rfl
@[simp] theorem Dev.setEntry_tiles (d : Dev) (h : Nat) (r : Region) : (d.setEntry h r).tiles = d.tiles := rfl
@[simp] theorem Dev.setEntry_posts (d : Dev) (h : Nat) (r : Region) : (d.setEntry h r).posts = d.posts := rfl
@[simp] theorem Dev.setEntry_stks (d : Dev) (h : Nat) (r : Region) : (d.setEntry h r).stks = d.stks := rfl
@[simp] theorem Dev.setEntry_linePoison (d : Dev) (h : Nat) (r : Region) : (d.setEntry h r).linePoison = d.linePoison := rfl
@[simp] theorem Dev.setEntry_solvers (d : Dev) (h : Nat) (r : Region) : (d.setEntry h r).solvers = d.solvers := rfl
@[simp] theorem Dev.setEntry_launches (d : Dev) (h : Nat) (r : Region) : (d.setEntry h r).launches = d.launches := rfl
@[simp] theorem Dev.setEntry_deltasSent (d : Dev) (h : Nat) (r : Region) : (d.setEntry h r).deltasSent = d.deltasSent := rfl
@[simp] theorem Dev.setEntry_syn (d : Dev) (h : Nat) (r : Region) : (d.setEntry h r).syn = d.syn := rfl
@[simp] theorem Dev.setEntry_cad (d : Dev) (h : Nat) (r : Region) : (d.setEntry h r).cad = d.cad := rfl
@[simp] theorem Dev.setEntry_stp (d : Dev) (h : Nat) (r : Region) : (d.setEntry h r).stp = d.stp := rfl
@[simp] theorem Dev.setEntry_brezin (d : Dev) (h : Nat) (r : Region) : (d.setEntry h r).brezin = d.brezin := rfl
@[simp] theorem Dev.setEntry_col (d : Dev) (h : Nat) (r : Region) : (d.setEntry h r).col = d.col := rfl
@[simp] theorem Dev.setEntry_hbx (d : Dev) (h : Nat) (r : Region) : (d.setEntry h r).hbx = d.hbx := rfl
@[simp] theorem Dev.setEntry_pci (d : Dev) (h : Nat) (r : Region) : (d.setEntry h r).pci = d.pci := rfl
@[simp] theorem Dev.setEntry_sec (d : Dev) (h : Nat) (r : Region) : (d.setEntry h r).sec = d.sec := rfl
@[simp] theorem Dev.setEntry_pwr (d : Dev) (h : Nat) (r : Region) : (d.setEntry h r).pwr = d.pwr := rfl
@[simp] theorem Dev.setEntry_hours (d : Dev) (h : Nat) (r : Region) : (d.setEntry h r).hours = d.hours := rfl
@[simp] theorem Dev.setEntry_wout (d : Dev) (h : Nat) (r : Region) : (d.setEntry h r).wout = d.wout := rfl
@[simp] theorem Dev.setEntry_free (d : Dev) (h : Nat) (r : Region) : (d.setEntry h r).free = d.free := rfl
@[simp] theorem Dev.setEntry_deckle_placement (d : Dev) (h : Nat) (r : Region) : (d.setEntry h r).deckle.placement = d.deckle.placement := rfl
@[simp] theorem Dev.setEntry_deckle_layout (d : Dev) (h : Nat) (r : Region) : (d.setEntry h r).deckle.layout = d.deckle.layout := rfl
@[simp] theorem Dev.setEntry_deckle_health (d : Dev) (h : Nat) (r : Region) : (d.setEntry h r).deckle.health = d.deckle.health := rfl
@[simp] theorem Dev.setEntry_deckle_grades (d : Dev) (h : Nat) (r : Region) : (d.setEntry h r).deckle.grades = d.deckle.grades := rfl
@[simp] theorem Dev.setEntry_deckle_events (d : Dev) (h : Nat) (r : Region) : (d.setEntry h r).deckle.events = d.deckle.events := rfl
@[simp] theorem Dev.setEntry_deckle_remap (d : Dev) (h : Nat) (r : Region) : (d.setEntry h r).deckle.remap = d.deckle.remap := rfl
@[simp] theorem Dev.setEntry_deckle_solverRemap (d : Dev) (h : Nat) (r : Region) : (d.setEntry h r).deckle.solverRemap = d.deckle.solverRemap := rfl
@[simp] theorem Dev.setEntry_deckle_migration (d : Dev) (h : Nat) (r : Region) : (d.setEntry h r).deckle.migration = d.deckle.migration := rfl
@[simp] theorem Dev.setEntry_deckle_remapFailed (d : Dev) (h : Nat) (r : Region) : (d.setEntry h r).deckle.remapFailed = d.deckle.remapFailed := rfl

@[simp] theorem Dev.setCq_phase (d : Dev) (q : Nat) (c : Cq) : (d.setCq q c).phase = d.phase := rfl
@[simp] theorem Dev.setCq_variant (d : Dev) (q : Nat) (c : Cq) : (d.setCq q c).variant = d.variant := rfl
@[simp] theorem Dev.setCq_bootEvent (d : Dev) (q : Nat) (c : Cq) : (d.setCq q c).bootEvent = d.bootEvent := rfl
@[simp] theorem Dev.setCq_regs (d : Dev) (q : Nat) (c : Cq) : (d.setCq q c).regs = d.regs := rfl
@[simp] theorem Dev.setCq_units (d : Dev) (q : Nat) (c : Cq) : (d.setCq q c).units = d.units := rfl
@[simp] theorem Dev.setCq_evr (d : Dev) (q : Nat) (c : Cq) : (d.setCq q c).evr = d.evr := rfl
@[simp] theorem Dev.setCq_sensors (d : Dev) (q : Nat) (c : Cq) : (d.setCq q c).sensors = d.sensors := rfl
@[simp] theorem Dev.setCq_links (d : Dev) (q : Nat) (c : Cq) : (d.setCq q c).links = d.links := rfl
@[simp] theorem Dev.setCq_tiles (d : Dev) (q : Nat) (c : Cq) : (d.setCq q c).tiles = d.tiles := rfl
@[simp] theorem Dev.setCq_posts (d : Dev) (q : Nat) (c : Cq) : (d.setCq q c).posts = d.posts := rfl
@[simp] theorem Dev.setCq_stks (d : Dev) (q : Nat) (c : Cq) : (d.setCq q c).stks = d.stks := rfl
@[simp] theorem Dev.setCq_linePoison (d : Dev) (q : Nat) (c : Cq) : (d.setCq q c).linePoison = d.linePoison := rfl
@[simp] theorem Dev.setCq_deckle (d : Dev) (q : Nat) (c : Cq) : (d.setCq q c).deckle = d.deckle := rfl
@[simp] theorem Dev.setCq_solvers (d : Dev) (q : Nat) (c : Cq) : (d.setCq q c).solvers = d.solvers := rfl
@[simp] theorem Dev.setCq_launches (d : Dev) (q : Nat) (c : Cq) : (d.setCq q c).launches = d.launches := rfl
@[simp] theorem Dev.setCq_deltasSent (d : Dev) (q : Nat) (c : Cq) : (d.setCq q c).deltasSent = d.deltasSent := rfl
@[simp] theorem Dev.setCq_syn (d : Dev) (q : Nat) (c : Cq) : (d.setCq q c).syn = d.syn := rfl
@[simp] theorem Dev.setCq_cad (d : Dev) (q : Nat) (c : Cq) : (d.setCq q c).cad = d.cad := rfl
@[simp] theorem Dev.setCq_stp (d : Dev) (q : Nat) (c : Cq) : (d.setCq q c).stp = d.stp := rfl
@[simp] theorem Dev.setCq_brezin (d : Dev) (q : Nat) (c : Cq) : (d.setCq q c).brezin = d.brezin := rfl
@[simp] theorem Dev.setCq_col (d : Dev) (q : Nat) (c : Cq) : (d.setCq q c).col = d.col := rfl
@[simp] theorem Dev.setCq_pci (d : Dev) (q : Nat) (c : Cq) : (d.setCq q c).pci = d.pci := rfl
@[simp] theorem Dev.setCq_sec (d : Dev) (q : Nat) (c : Cq) : (d.setCq q c).sec = d.sec := rfl
@[simp] theorem Dev.setCq_pwr (d : Dev) (q : Nat) (c : Cq) : (d.setCq q c).pwr = d.pwr := rfl
@[simp] theorem Dev.setCq_hours (d : Dev) (q : Nat) (c : Cq) : (d.setCq q c).hours = d.hours := rfl
@[simp] theorem Dev.setCq_wout (d : Dev) (q : Nat) (c : Cq) : (d.setCq q c).wout = d.wout := rfl
@[simp] theorem Dev.setCq_free (d : Dev) (q : Nat) (c : Cq) : (d.setCq q c).free = d.free := rfl
@[simp] theorem Dev.setCq_hbx_sq (d : Dev) (q : Nat) (c : Cq) : (d.setCq q c).hbx.sq = d.hbx.sq := rfl
@[simp] theorem Dev.setCq_hbx_sqStop (d : Dev) (q : Nat) (c : Cq) : (d.setCq q c).hbx.sqStop = d.hbx.sqStop := rfl

@[simp] theorem Dev.setSq_phase (d : Dev) (q : Nat) (c : Sq) : (d.setSq q c).phase = d.phase := rfl
@[simp] theorem Dev.setSq_variant (d : Dev) (q : Nat) (c : Sq) : (d.setSq q c).variant = d.variant := rfl
@[simp] theorem Dev.setSq_bootEvent (d : Dev) (q : Nat) (c : Sq) : (d.setSq q c).bootEvent = d.bootEvent := rfl
@[simp] theorem Dev.setSq_regs (d : Dev) (q : Nat) (c : Sq) : (d.setSq q c).regs = d.regs := rfl
@[simp] theorem Dev.setSq_units (d : Dev) (q : Nat) (c : Sq) : (d.setSq q c).units = d.units := rfl
@[simp] theorem Dev.setSq_evr (d : Dev) (q : Nat) (c : Sq) : (d.setSq q c).evr = d.evr := rfl
@[simp] theorem Dev.setSq_sensors (d : Dev) (q : Nat) (c : Sq) : (d.setSq q c).sensors = d.sensors := rfl
@[simp] theorem Dev.setSq_links (d : Dev) (q : Nat) (c : Sq) : (d.setSq q c).links = d.links := rfl
@[simp] theorem Dev.setSq_tiles (d : Dev) (q : Nat) (c : Sq) : (d.setSq q c).tiles = d.tiles := rfl
@[simp] theorem Dev.setSq_posts (d : Dev) (q : Nat) (c : Sq) : (d.setSq q c).posts = d.posts := rfl
@[simp] theorem Dev.setSq_stks (d : Dev) (q : Nat) (c : Sq) : (d.setSq q c).stks = d.stks := rfl
@[simp] theorem Dev.setSq_linePoison (d : Dev) (q : Nat) (c : Sq) : (d.setSq q c).linePoison = d.linePoison := rfl
@[simp] theorem Dev.setSq_deckle (d : Dev) (q : Nat) (c : Sq) : (d.setSq q c).deckle = d.deckle := rfl
@[simp] theorem Dev.setSq_solvers (d : Dev) (q : Nat) (c : Sq) : (d.setSq q c).solvers = d.solvers := rfl
@[simp] theorem Dev.setSq_launches (d : Dev) (q : Nat) (c : Sq) : (d.setSq q c).launches = d.launches := rfl
@[simp] theorem Dev.setSq_deltasSent (d : Dev) (q : Nat) (c : Sq) : (d.setSq q c).deltasSent = d.deltasSent := rfl
@[simp] theorem Dev.setSq_syn (d : Dev) (q : Nat) (c : Sq) : (d.setSq q c).syn = d.syn := rfl
@[simp] theorem Dev.setSq_cad (d : Dev) (q : Nat) (c : Sq) : (d.setSq q c).cad = d.cad := rfl
@[simp] theorem Dev.setSq_stp (d : Dev) (q : Nat) (c : Sq) : (d.setSq q c).stp = d.stp := rfl
@[simp] theorem Dev.setSq_brezin (d : Dev) (q : Nat) (c : Sq) : (d.setSq q c).brezin = d.brezin := rfl
@[simp] theorem Dev.setSq_col (d : Dev) (q : Nat) (c : Sq) : (d.setSq q c).col = d.col := rfl
@[simp] theorem Dev.setSq_pci (d : Dev) (q : Nat) (c : Sq) : (d.setSq q c).pci = d.pci := rfl
@[simp] theorem Dev.setSq_sec (d : Dev) (q : Nat) (c : Sq) : (d.setSq q c).sec = d.sec := rfl
@[simp] theorem Dev.setSq_pwr (d : Dev) (q : Nat) (c : Sq) : (d.setSq q c).pwr = d.pwr := rfl
@[simp] theorem Dev.setSq_hours (d : Dev) (q : Nat) (c : Sq) : (d.setSq q c).hours = d.hours := rfl
@[simp] theorem Dev.setSq_wout (d : Dev) (q : Nat) (c : Sq) : (d.setSq q c).wout = d.wout := rfl
@[simp] theorem Dev.setSq_free (d : Dev) (q : Nat) (c : Sq) : (d.setSq q c).free = d.free := rfl
@[simp] theorem Dev.setSq_hbx_cq (d : Dev) (q : Nat) (c : Sq) : (d.setSq q c).hbx.cq = d.hbx.cq := rfl
@[simp] theorem Dev.setSq_hbx_sqStop (d : Dev) (q : Nat) (c : Sq) : (d.setSq q c).hbx.sqStop = d.hbx.sqStop := rfl

@[simp] theorem Dev.setBar_phase (d : Dev) (b : Nat) (x : Barrier) : (d.setBar b x).phase = d.phase := rfl
@[simp] theorem Dev.setBar_variant (d : Dev) (b : Nat) (x : Barrier) : (d.setBar b x).variant = d.variant := rfl
@[simp] theorem Dev.setBar_bootEvent (d : Dev) (b : Nat) (x : Barrier) : (d.setBar b x).bootEvent = d.bootEvent := rfl
@[simp] theorem Dev.setBar_regs (d : Dev) (b : Nat) (x : Barrier) : (d.setBar b x).regs = d.regs := rfl
@[simp] theorem Dev.setBar_units (d : Dev) (b : Nat) (x : Barrier) : (d.setBar b x).units = d.units := rfl
@[simp] theorem Dev.setBar_evr (d : Dev) (b : Nat) (x : Barrier) : (d.setBar b x).evr = d.evr := rfl
@[simp] theorem Dev.setBar_sensors (d : Dev) (b : Nat) (x : Barrier) : (d.setBar b x).sensors = d.sensors := rfl
@[simp] theorem Dev.setBar_links (d : Dev) (b : Nat) (x : Barrier) : (d.setBar b x).links = d.links := rfl
@[simp] theorem Dev.setBar_tiles (d : Dev) (b : Nat) (x : Barrier) : (d.setBar b x).tiles = d.tiles := rfl
@[simp] theorem Dev.setBar_posts (d : Dev) (b : Nat) (x : Barrier) : (d.setBar b x).posts = d.posts := rfl
@[simp] theorem Dev.setBar_stks (d : Dev) (b : Nat) (x : Barrier) : (d.setBar b x).stks = d.stks := rfl
@[simp] theorem Dev.setBar_linePoison (d : Dev) (b : Nat) (x : Barrier) : (d.setBar b x).linePoison = d.linePoison := rfl
@[simp] theorem Dev.setBar_deckle (d : Dev) (b : Nat) (x : Barrier) : (d.setBar b x).deckle = d.deckle := rfl
@[simp] theorem Dev.setBar_solvers (d : Dev) (b : Nat) (x : Barrier) : (d.setBar b x).solvers = d.solvers := rfl
@[simp] theorem Dev.setBar_launches (d : Dev) (b : Nat) (x : Barrier) : (d.setBar b x).launches = d.launches := rfl
@[simp] theorem Dev.setBar_deltasSent (d : Dev) (b : Nat) (x : Barrier) : (d.setBar b x).deltasSent = d.deltasSent := rfl
@[simp] theorem Dev.setBar_cad (d : Dev) (b : Nat) (x : Barrier) : (d.setBar b x).cad = d.cad := rfl
@[simp] theorem Dev.setBar_stp (d : Dev) (b : Nat) (x : Barrier) : (d.setBar b x).stp = d.stp := rfl
@[simp] theorem Dev.setBar_brezin (d : Dev) (b : Nat) (x : Barrier) : (d.setBar b x).brezin = d.brezin := rfl
@[simp] theorem Dev.setBar_col (d : Dev) (b : Nat) (x : Barrier) : (d.setBar b x).col = d.col := rfl
@[simp] theorem Dev.setBar_hbx (d : Dev) (b : Nat) (x : Barrier) : (d.setBar b x).hbx = d.hbx := rfl
@[simp] theorem Dev.setBar_pci (d : Dev) (b : Nat) (x : Barrier) : (d.setBar b x).pci = d.pci := rfl
@[simp] theorem Dev.setBar_sec (d : Dev) (b : Nat) (x : Barrier) : (d.setBar b x).sec = d.sec := rfl
@[simp] theorem Dev.setBar_pwr (d : Dev) (b : Nat) (x : Barrier) : (d.setBar b x).pwr = d.pwr := rfl
@[simp] theorem Dev.setBar_hours (d : Dev) (b : Nat) (x : Barrier) : (d.setBar b x).hours = d.hours := rfl
@[simp] theorem Dev.setBar_wout (d : Dev) (b : Nat) (x : Barrier) : (d.setBar b x).wout = d.wout := rfl
@[simp] theorem Dev.setBar_free (d : Dev) (b : Nat) (x : Barrier) : (d.setBar b x).free = d.free := rfl
@[simp] theorem Dev.setBar_syn_inflight (d : Dev) (b : Nat) (x : Barrier) : (d.setBar b x).syn.inflight = d.syn.inflight := rfl
@[simp] theorem Dev.setBar_syn_host (d : Dev) (b : Nat) (x : Barrier) : (d.setBar b x).syn.host = d.syn.host := rfl

@[simp] theorem Dev.setCouch_phase (d : Dev) (q : Nat) (x : Couch) : (d.setCouch q x).phase = d.phase := rfl
@[simp] theorem Dev.setCouch_variant (d : Dev) (q : Nat) (x : Couch) : (d.setCouch q x).variant = d.variant := rfl
@[simp] theorem Dev.setCouch_bootEvent (d : Dev) (q : Nat) (x : Couch) : (d.setCouch q x).bootEvent = d.bootEvent := rfl
@[simp] theorem Dev.setCouch_regs (d : Dev) (q : Nat) (x : Couch) : (d.setCouch q x).regs = d.regs := rfl
@[simp] theorem Dev.setCouch_units (d : Dev) (q : Nat) (x : Couch) : (d.setCouch q x).units = d.units := rfl
@[simp] theorem Dev.setCouch_evr (d : Dev) (q : Nat) (x : Couch) : (d.setCouch q x).evr = d.evr := rfl
@[simp] theorem Dev.setCouch_sensors (d : Dev) (q : Nat) (x : Couch) : (d.setCouch q x).sensors = d.sensors := rfl
@[simp] theorem Dev.setCouch_links (d : Dev) (q : Nat) (x : Couch) : (d.setCouch q x).links = d.links := rfl
@[simp] theorem Dev.setCouch_tiles (d : Dev) (q : Nat) (x : Couch) : (d.setCouch q x).tiles = d.tiles := rfl
@[simp] theorem Dev.setCouch_posts (d : Dev) (q : Nat) (x : Couch) : (d.setCouch q x).posts = d.posts := rfl
@[simp] theorem Dev.setCouch_stks (d : Dev) (q : Nat) (x : Couch) : (d.setCouch q x).stks = d.stks := rfl
@[simp] theorem Dev.setCouch_linePoison (d : Dev) (q : Nat) (x : Couch) : (d.setCouch q x).linePoison = d.linePoison := rfl
@[simp] theorem Dev.setCouch_deckle (d : Dev) (q : Nat) (x : Couch) : (d.setCouch q x).deckle = d.deckle := rfl
@[simp] theorem Dev.setCouch_solvers (d : Dev) (q : Nat) (x : Couch) : (d.setCouch q x).solvers = d.solvers := rfl
@[simp] theorem Dev.setCouch_launches (d : Dev) (q : Nat) (x : Couch) : (d.setCouch q x).launches = d.launches := rfl
@[simp] theorem Dev.setCouch_deltasSent (d : Dev) (q : Nat) (x : Couch) : (d.setCouch q x).deltasSent = d.deltasSent := rfl
@[simp] theorem Dev.setCouch_syn (d : Dev) (q : Nat) (x : Couch) : (d.setCouch q x).syn = d.syn := rfl
@[simp] theorem Dev.setCouch_cad (d : Dev) (q : Nat) (x : Couch) : (d.setCouch q x).cad = d.cad := rfl
@[simp] theorem Dev.setCouch_brezin (d : Dev) (q : Nat) (x : Couch) : (d.setCouch q x).brezin = d.brezin := rfl
@[simp] theorem Dev.setCouch_col (d : Dev) (q : Nat) (x : Couch) : (d.setCouch q x).col = d.col := rfl
@[simp] theorem Dev.setCouch_hbx (d : Dev) (q : Nat) (x : Couch) : (d.setCouch q x).hbx = d.hbx := rfl
@[simp] theorem Dev.setCouch_pci (d : Dev) (q : Nat) (x : Couch) : (d.setCouch q x).pci = d.pci := rfl
@[simp] theorem Dev.setCouch_sec (d : Dev) (q : Nat) (x : Couch) : (d.setCouch q x).sec = d.sec := rfl
@[simp] theorem Dev.setCouch_pwr (d : Dev) (q : Nat) (x : Couch) : (d.setCouch q x).pwr = d.pwr := rfl
@[simp] theorem Dev.setCouch_hours (d : Dev) (q : Nat) (x : Couch) : (d.setCouch q x).hours = d.hours := rfl
@[simp] theorem Dev.setCouch_wout (d : Dev) (q : Nat) (x : Couch) : (d.setCouch q x).wout = d.wout := rfl
@[simp] theorem Dev.setCouch_free (d : Dev) (q : Nat) (x : Couch) : (d.setCouch q x).free = d.free := rfl
@[simp] theorem Dev.setCouch_stp_state (d : Dev) (q : Nat) (x : Couch) : (d.setCouch q x).stp.state = d.stp.state := rfl
@[simp] theorem Dev.setCouch_stp_cause (d : Dev) (q : Nat) (x : Couch) : (d.setCouch q x).stp.cause = d.stp.cause := rfl
@[simp] theorem Dev.setCouch_stp_causeParam (d : Dev) (q : Nat) (x : Couch) : (d.setCouch q x).stp.causeParam = d.stp.causeParam := rfl
@[simp] theorem Dev.setCouch_stp_opens (d : Dev) (q : Nat) (x : Couch) : (d.setCouch q x).stp.opens = d.stp.opens := rfl
@[simp] theorem Dev.setCouch_stp_arrived (d : Dev) (q : Nat) (x : Couch) : (d.setCouch q x).stp.arrived = d.stp.arrived := rfl
@[simp] theorem Dev.setCouch_stp_waiting (d : Dev) (q : Nat) (x : Couch) : (d.setCouch q x).stp.waiting = d.stp.waiting := rfl
@[simp] theorem Dev.setCouch_stp_copyPending (d : Dev) (q : Nat) (x : Couch) : (d.setCouch q x).stp.copyPending = d.stp.copyPending := rfl
@[simp] theorem Dev.setCouch_stp_voteCast (d : Dev) (q : Nat) (x : Couch) : (d.setCouch q x).stp.voteCast = d.stp.voteCast := rfl
@[simp] theorem Dev.setCouch_stp_openMark (d : Dev) (q : Nat) (x : Couch) : (d.setCouch q x).stp.openMark = d.stp.openMark := rfl
@[simp] theorem Dev.setCouch_stp_nphase (d : Dev) (q : Nat) (x : Couch) : (d.setCouch q x).stp.nphase = d.stp.nphase := rfl
@[simp] theorem Dev.setCouch_stp_terms (d : Dev) (q : Nat) (x : Couch) : (d.setCouch q x).stp.terms = d.stp.terms := rfl
@[simp] theorem Dev.setCouch_stp_nexcl (d : Dev) (q : Nat) (x : Couch) : (d.setCouch q x).stp.nexcl = d.stp.nexcl := rfl
@[simp] theorem Dev.setCouch_stp_nfold (d : Dev) (q : Nat) (x : Couch) : (d.setCouch q x).stp.nfold = d.stp.nfold := rfl
@[simp] theorem Dev.setCouch_stp_ndrop (d : Dev) (q : Nat) (x : Couch) : (d.setCouch q x).stp.ndrop = d.stp.ndrop := rfl
@[simp] theorem Dev.setCouch_stp_lateIn (d : Dev) (q : Nat) (x : Couch) : (d.setCouch q x).stp.lateIn = d.stp.lateIn := rfl
@[simp] theorem Dev.setCouch_stp_ncoll (d : Dev) (q : Nat) (x : Couch) : (d.setCouch q x).stp.ncoll = d.stp.ncoll := rfl
@[simp] theorem Dev.setCouch_stp_phaseLayout (d : Dev) (q : Nat) (x : Couch) : (d.setCouch q x).stp.phaseLayout = d.stp.phaseLayout := rfl
@[simp] theorem Dev.setCouch_stp_late (d : Dev) (q : Nat) (x : Couch) : (d.setCouch q x).stp.late = d.stp.late := rfl
@[simp] theorem Dev.setCouch_stp_redrawFail (d : Dev) (q : Nat) (x : Couch) : (d.setCouch q x).stp.redrawFail = d.stp.redrawFail := rfl
@[simp] theorem Dev.setCouch_stp_lateCause (d : Dev) (q : Nat) (x : Couch) : (d.setCouch q x).stp.lateCause = d.stp.lateCause := rfl

@[simp] theorem Dev.setPort_phase (d : Dev) (p : Nat) (x : Port) : (d.setPort p x).phase = d.phase := rfl
@[simp] theorem Dev.setPort_variant (d : Dev) (p : Nat) (x : Port) : (d.setPort p x).variant = d.variant := rfl
@[simp] theorem Dev.setPort_bootEvent (d : Dev) (p : Nat) (x : Port) : (d.setPort p x).bootEvent = d.bootEvent := rfl
@[simp] theorem Dev.setPort_regs (d : Dev) (p : Nat) (x : Port) : (d.setPort p x).regs = d.regs := rfl
@[simp] theorem Dev.setPort_units (d : Dev) (p : Nat) (x : Port) : (d.setPort p x).units = d.units := rfl
@[simp] theorem Dev.setPort_evr (d : Dev) (p : Nat) (x : Port) : (d.setPort p x).evr = d.evr := rfl
@[simp] theorem Dev.setPort_sensors (d : Dev) (p : Nat) (x : Port) : (d.setPort p x).sensors = d.sensors := rfl
@[simp] theorem Dev.setPort_links (d : Dev) (p : Nat) (x : Port) : (d.setPort p x).links = d.links := rfl
@[simp] theorem Dev.setPort_tiles (d : Dev) (p : Nat) (x : Port) : (d.setPort p x).tiles = d.tiles := rfl
@[simp] theorem Dev.setPort_posts (d : Dev) (p : Nat) (x : Port) : (d.setPort p x).posts = d.posts := rfl
@[simp] theorem Dev.setPort_stks (d : Dev) (p : Nat) (x : Port) : (d.setPort p x).stks = d.stks := rfl
@[simp] theorem Dev.setPort_linePoison (d : Dev) (p : Nat) (x : Port) : (d.setPort p x).linePoison = d.linePoison := rfl
@[simp] theorem Dev.setPort_deckle (d : Dev) (p : Nat) (x : Port) : (d.setPort p x).deckle = d.deckle := rfl
@[simp] theorem Dev.setPort_solvers (d : Dev) (p : Nat) (x : Port) : (d.setPort p x).solvers = d.solvers := rfl
@[simp] theorem Dev.setPort_launches (d : Dev) (p : Nat) (x : Port) : (d.setPort p x).launches = d.launches := rfl
@[simp] theorem Dev.setPort_deltasSent (d : Dev) (p : Nat) (x : Port) : (d.setPort p x).deltasSent = d.deltasSent := rfl
@[simp] theorem Dev.setPort_syn (d : Dev) (p : Nat) (x : Port) : (d.setPort p x).syn = d.syn := rfl
@[simp] theorem Dev.setPort_cad (d : Dev) (p : Nat) (x : Port) : (d.setPort p x).cad = d.cad := rfl
@[simp] theorem Dev.setPort_stp (d : Dev) (p : Nat) (x : Port) : (d.setPort p x).stp = d.stp := rfl
@[simp] theorem Dev.setPort_col (d : Dev) (p : Nat) (x : Port) : (d.setPort p x).col = d.col := rfl
@[simp] theorem Dev.setPort_hbx (d : Dev) (p : Nat) (x : Port) : (d.setPort p x).hbx = d.hbx := rfl
@[simp] theorem Dev.setPort_pci (d : Dev) (p : Nat) (x : Port) : (d.setPort p x).pci = d.pci := rfl
@[simp] theorem Dev.setPort_sec (d : Dev) (p : Nat) (x : Port) : (d.setPort p x).sec = d.sec := rfl
@[simp] theorem Dev.setPort_pwr (d : Dev) (p : Nat) (x : Port) : (d.setPort p x).pwr = d.pwr := rfl
@[simp] theorem Dev.setPort_hours (d : Dev) (p : Nat) (x : Port) : (d.setPort p x).hours = d.hours := rfl
@[simp] theorem Dev.setPort_wout (d : Dev) (p : Nat) (x : Port) : (d.setPort p x).wout = d.wout := rfl
@[simp] theorem Dev.setPort_free (d : Dev) (p : Nat) (x : Port) : (d.setPort p x).free = d.free := rfl
@[simp] theorem Dev.setPort_brezin_chans (d : Dev) (p : Nat) (x : Port) : (d.setPort p x).brezin.chans = d.brezin.chans := rfl
@[simp] theorem Dev.setPort_brezin_inbox (d : Dev) (p : Nat) (x : Port) : (d.setPort p x).brezin.inbox = d.brezin.inbox := rfl
@[simp] theorem Dev.setPort_brezin_lastServed (d : Dev) (p : Nat) (x : Port) : (d.setPort p x).brezin.lastServed = d.brezin.lastServed := rfl
@[simp] theorem Dev.setPort_brezin_slices (d : Dev) (p : Nat) (x : Port) : (d.setPort p x).brezin.slices = d.brezin.slices := rfl

@[simp] theorem Dev.setChan_phase (d : Dev) (e c : Nat) (x : Channel) : (d.setChan e c x).phase = d.phase := rfl
@[simp] theorem Dev.setChan_variant (d : Dev) (e c : Nat) (x : Channel) : (d.setChan e c x).variant = d.variant := rfl
@[simp] theorem Dev.setChan_bootEvent (d : Dev) (e c : Nat) (x : Channel) : (d.setChan e c x).bootEvent = d.bootEvent := rfl
@[simp] theorem Dev.setChan_regs (d : Dev) (e c : Nat) (x : Channel) : (d.setChan e c x).regs = d.regs := rfl
@[simp] theorem Dev.setChan_units (d : Dev) (e c : Nat) (x : Channel) : (d.setChan e c x).units = d.units := rfl
@[simp] theorem Dev.setChan_evr (d : Dev) (e c : Nat) (x : Channel) : (d.setChan e c x).evr = d.evr := rfl
@[simp] theorem Dev.setChan_sensors (d : Dev) (e c : Nat) (x : Channel) : (d.setChan e c x).sensors = d.sensors := rfl
@[simp] theorem Dev.setChan_links (d : Dev) (e c : Nat) (x : Channel) : (d.setChan e c x).links = d.links := rfl
@[simp] theorem Dev.setChan_tiles (d : Dev) (e c : Nat) (x : Channel) : (d.setChan e c x).tiles = d.tiles := rfl
@[simp] theorem Dev.setChan_posts (d : Dev) (e c : Nat) (x : Channel) : (d.setChan e c x).posts = d.posts := rfl
@[simp] theorem Dev.setChan_stks (d : Dev) (e c : Nat) (x : Channel) : (d.setChan e c x).stks = d.stks := rfl
@[simp] theorem Dev.setChan_linePoison (d : Dev) (e c : Nat) (x : Channel) : (d.setChan e c x).linePoison = d.linePoison := rfl
@[simp] theorem Dev.setChan_deckle (d : Dev) (e c : Nat) (x : Channel) : (d.setChan e c x).deckle = d.deckle := rfl
@[simp] theorem Dev.setChan_solvers (d : Dev) (e c : Nat) (x : Channel) : (d.setChan e c x).solvers = d.solvers := rfl
@[simp] theorem Dev.setChan_launches (d : Dev) (e c : Nat) (x : Channel) : (d.setChan e c x).launches = d.launches := rfl
@[simp] theorem Dev.setChan_deltasSent (d : Dev) (e c : Nat) (x : Channel) : (d.setChan e c x).deltasSent = d.deltasSent := rfl
@[simp] theorem Dev.setChan_syn (d : Dev) (e c : Nat) (x : Channel) : (d.setChan e c x).syn = d.syn := rfl
@[simp] theorem Dev.setChan_cad (d : Dev) (e c : Nat) (x : Channel) : (d.setChan e c x).cad = d.cad := rfl
@[simp] theorem Dev.setChan_stp (d : Dev) (e c : Nat) (x : Channel) : (d.setChan e c x).stp = d.stp := rfl
@[simp] theorem Dev.setChan_col (d : Dev) (e c : Nat) (x : Channel) : (d.setChan e c x).col = d.col := rfl
@[simp] theorem Dev.setChan_hbx (d : Dev) (e c : Nat) (x : Channel) : (d.setChan e c x).hbx = d.hbx := rfl
@[simp] theorem Dev.setChan_pci (d : Dev) (e c : Nat) (x : Channel) : (d.setChan e c x).pci = d.pci := rfl
@[simp] theorem Dev.setChan_sec (d : Dev) (e c : Nat) (x : Channel) : (d.setChan e c x).sec = d.sec := rfl
@[simp] theorem Dev.setChan_pwr (d : Dev) (e c : Nat) (x : Channel) : (d.setChan e c x).pwr = d.pwr := rfl
@[simp] theorem Dev.setChan_hours (d : Dev) (e c : Nat) (x : Channel) : (d.setChan e c x).hours = d.hours := rfl
@[simp] theorem Dev.setChan_wout (d : Dev) (e c : Nat) (x : Channel) : (d.setChan e c x).wout = d.wout := rfl
@[simp] theorem Dev.setChan_free (d : Dev) (e c : Nat) (x : Channel) : (d.setChan e c x).free = d.free := rfl
@[simp] theorem Dev.setChan_brezin_ports (d : Dev) (e c : Nat) (x : Channel) : (d.setChan e c x).brezin.ports = d.brezin.ports := rfl
@[simp] theorem Dev.setChan_brezin_inbox (d : Dev) (e c : Nat) (x : Channel) : (d.setChan e c x).brezin.inbox = d.brezin.inbox := rfl
@[simp] theorem Dev.setChan_brezin_lastServed (d : Dev) (e c : Nat) (x : Channel) : (d.setChan e c x).brezin.lastServed = d.brezin.lastServed := rfl
@[simp] theorem Dev.setChan_brezin_slices (d : Dev) (e c : Nat) (x : Channel) : (d.setChan e c x).brezin.slices = d.brezin.slices := rfl

end Sys2Proof.Machine
end

