-- ==== Sys2Proof/Laws/Access.lean ====
section
/-! SUPPORT. Laws/Access.lean: what a read of a numbered thing answers after a write of it or of another. -/

namespace Sys2Proof.Machine

@[simp] theorem Dev.fget_fset_same (d : Dev) (f : Field) (i v : Nat) : (d.fset f i v).fget f i = v % 2 ^ f.width :=
  SMap.get_put_same ..

theorem Dev.fget_fset_ne (d : Dev) {f g : Field} {i j : Nat} (v : Nat) (h : g.key j ≠ f.key i) :
    (d.fset f i v).fget g j = d.fget g j := SMap.get_put_ne _ _ h ..

/-- A field reads alike in devices with the same registers. -/
theorem Dev.fget_congr {d e : Dev} (h : d.regs = e.regs) (f : Field) (i : Nat) : d.fget f i = e.fget f i := by
  unfold Dev.fget; rw [h]

/-- A saturating field counts up to its greatest value. -/
theorem Dev.fget_fcount_same (d : Dev) (f : Field) (i n : Nat) :
    (d.fcount f i n).fget f i = min (2 ^ f.width - 1) (d.fget f i + n) := by
  unfold Dev.fcount satAdd
  rw [Dev.fget_fset_same]
  exact Nat.mod_eq_of_lt (Nat.lt_of_le_of_lt (Nat.min_le_left ..) (Nat.sub_lt (Nat.two_pow_pos _) Nat.one_pos))

theorem Dev.fget_fcount_ne (d : Dev) {f g : Field} {i j : Nat} (n : Nat) (h : g.key j ≠ f.key i) :
    (d.fcount f i n).fget g j = d.fget g j := Dev.fget_fset_ne d _ h

theorem Dev.fget_fwrap_same (d : Dev) (f : Field) (i : Nat) :
    (d.fwrap f i).fget f i = (d.fget f i + 1) % 2 ^ f.width := Dev.fget_fset_same ..

theorem Dev.fget_fwrap_ne (d : Dev) {f g : Field} {i j : Nat} (h : g.key j ≠ f.key i) :
    (d.fwrap f i).fget g j = d.fget g j := Dev.fget_fset_ne d _ h

@[simp] theorem Dev.unit_setUnit_same (d : Dev) (c i : Nat) (u : UnitPage) : (d.setUnit c i u).unit c i = u :=
  SMap.get_put_same ..

theorem Dev.unit_setUnit_ne (d : Dev) {c i c' i' : Nat} (u : UnitPage) (h : c' * 256 + i' ≠ c * 256 + i) :
    (d.setUnit c i u).unit c' i' = d.unit c' i' := SMap.get_put_ne _ _ h ..

@[simp] theorem Dev.tile_setTile_same (d : Dev) (p : Nat) (t : Tile) : (d.setTile p t).tile p = t :=
  SMap.get_put_same ..

theorem Dev.tile_setTile_ne (d : Dev) {p q : Nat} (t : Tile) (h : q ≠ p) : (d.setTile p t).tile q = d.tile q :=
  SMap.get_put_ne _ _ h ..

@[simp] theorem Dev.cq_setCq_same (d : Dev) (q : Nat) (c : Cq) : (d.setCq q c).cq q = c := SMap.get_put_same ..

theorem Dev.cq_setCq_ne (d : Dev) {q r : Nat} (c : Cq) (h : r ≠ q) : (d.setCq q c).cq r = d.cq r :=
  SMap.get_put_ne _ _ h ..

@[simp] theorem Dev.sq_setSq_same (d : Dev) (q : Nat) (c : Sq) : (d.setSq q c).sq q = c := SMap.get_put_same ..

theorem Dev.sq_setSq_ne (d : Dev) {q r : Nat} (c : Sq) (h : r ≠ q) : (d.setSq q c).sq r = d.sq r :=
  SMap.get_put_ne _ _ h ..

@[simp] theorem Dev.stack_setStack_same (d : Dev) (k : Nat) (x : Stack) : (d.setStack k x).stack k = x :=
  SMap.get_put_same ..

theorem Dev.stack_setStack_ne (d : Dev) {k j : Nat} (x : Stack) (h : j ≠ k) :
    (d.setStack k x).stack j = d.stack j := SMap.get_put_ne _ _ h ..

@[simp] theorem Dev.solver_setSolver_same (d : Dev) (e : Nat) (x : Solver) : (d.setSolver e x).solver e = x :=
  SMap.get_put_same ..

theorem Dev.solver_setSolver_ne (d : Dev) {e g : Nat} (x : Solver) (h : g ≠ e) :
    (d.setSolver e x).solver g = d.solver g := SMap.get_put_ne _ _ h ..

@[simp] theorem Dev.bar_setBar_same (d : Dev) (b : Nat) (x : Barrier) : (d.setBar b x).bar b = x :=
  SMap.get_put_same ..

theorem Dev.bar_setBar_ne (d : Dev) {b c : Nat} (x : Barrier) (h : c ≠ b) : (d.setBar b x).bar c = d.bar c :=
  SMap.get_put_ne _ _ h ..

@[simp] theorem Dev.couch_setCouch_same (d : Dev) (q : Nat) (x : Couch) : (d.setCouch q x).couch q = x :=
  SMap.get_put_same ..

@[simp] theorem Dev.port_setPort_same (d : Dev) (p : Nat) (x : Port) : (d.setPort p x).port p = x :=
  SMap.get_put_same ..

theorem Dev.port_setPort_ne (d : Dev) {p q : Nat} (x : Port) (h : q ≠ p) : (d.setPort p x).port q = d.port q :=
  SMap.get_put_ne _ _ h ..

@[simp] theorem Dev.chan_setChan_same (d : Dev) (e c : Nat) (x : Channel) : (d.setChan e c x).chan e c = x :=
  SMap.get_put_same ..

theorem Dev.chan_setChan_ne (d : Dev) {e c e' c' : Nat} (x : Channel) (h : e' * 4096 + c' ≠ e * 4096 + c) :
    (d.setChan e c x).chan e' c' = d.chan e' c' := SMap.get_put_ne _ _ h ..

@[simp] theorem Dev.entry_setEntry_same (d : Dev) (h : Nat) (r : Region) : (d.setEntry h r).entry h = r :=
  SMap.get_put_same ..

theorem Dev.entry_setEntry_ne (d : Dev) {h g : Nat} (r : Region) (hn : g ≠ h) :
    (d.setEntry h r).entry g = d.entry g := SMap.get_put_ne _ _ hn ..

@[simp] theorem Dev.lineBad_setLine_same (d : Dev) (n : Nat) (p : Bool) : (d.setLine n p).lineBad n = p := by
  have h : SMap.get 0 n (d.setLine n p).linePoison = if p then 7 else 0 := SMap.get_put_same ..
  simp only [Dev.lineBad, h]
  cases p <;> decide

theorem Dev.lineBad_setLine_ne (d : Dev) {n k : Nat} (p : Bool) (h : k ≠ n) :
    (d.setLine n p).lineBad k = d.lineBad k := by
  have h : SMap.get 0 k (d.setLine n p).linePoison = SMap.get 0 k d.linePoison := SMap.get_put_ne _ _ h ..
  simp only [Dev.lineBad, h]

/-- The spans of an access start within it. -/
theorem unitSpans_starts {k o n : Nat} {x : Nat × Nat} (h : x ∈ unitSpans k o n) : x.1 < o + n := by
  induction k generalizing o n with
  | zero => cases h
  | succ k ih =>
    simp only [unitSpans] at h
    split at h
    · cases h
    · rcases List.mem_cons.mp h with rfl | h
      · show o < o + n
        omega
      · have := ih h
        omega

/-- A read of a region is answered where its check passes and every stack that it may meet answers. -/
theorem Dev.readRegion_isSome {d : Dev} {m : Mem} {name o n : Nat} (hc : d.checkEntry (d.resolve name) (o + n) = .ok)
    (hs : ∀ a, a < o + n → d.stackUp (stackOf ((d.entry (d.resolve name)).locate a)) = true) :
    (d.readRegion m name o n).isSome = true := by
  have : ((unitSpans (n / 4096 + 2) o n).all (fun s => d.stackUp (stackOf ((d.entry (d.resolve name)).locate s.1)))) = true :=
    List.all_eq_true.mpr fun x hx => hs _ (unitSpans_starts hx)
  simp [Dev.readRegion, Dev.reaches, hc, this]

end Sys2Proof.Machine
end

