-- ==== Sys2Proof/Laws/Bits.lean ====
section
/-! SUPPORT. Laws/Bits.lean: the bit helpers in terms of the library's bit tests. -/

namespace Sys2Proof.Machine

theorem bit_eq_testBit (n i : Nat) : bit n i = n.testBit i := by
  rw [Nat.testBit_eq_decide_div_mod_eq]; unfold bit; by_cases h : n / 2 ^ i % 2 = 1 <;> simp [h]

@[simp] theorem bit_or (a b i : Nat) : bit (a ||| b) i = (bit a i || bit b i) := by simp [bit_eq_testBit]

@[simp] theorem bit_and (a b i : Nat) : bit (a &&& b) i = (bit a i && bit b i) := by simp [bit_eq_testBit]

@[simp] theorem bit_two_pow (i : Nat) : bit (2 ^ i) i = true := by simp [bit_eq_testBit]

/-- Bits above the width of a remainder are lost, the others stay. -/
theorem bit_mod (n w i : Nat) (h : i < w) : bit (n % 2 ^ w) i = bit n i := by simp [bit_eq_testBit, h]

theorem bits_lt (n lo w : Nat) : bits n lo w < 2 ^ w := Nat.mod_lt _ (Nat.two_pow_pos w)

end Sys2Proof.Machine
end

