-- ==== Sys2Proof/Laws/Run.lean ====
section
/-! SUPPORT. Laws/Run.lean: how a meaning over the device shows in the step of a command: completion, and the frame that a
mask gives. -/

namespace Sys2Proof.Machine

theorem Answers.of_runIf {ok f s P} {c : Instr} (he : exec c s = runIf ok f s) (h : ok = true) (hp : P (s.after f)) : Answers c s P :=
  ⟨_, by rw [he]; subst h; rfl, hp⟩
theorem Answers.of_run {f s P} {c : Instr} (he : exec c s = run f s) (hp : P (s.after f)) : Answers c s P := ⟨_, he, hp⟩
/-- An access of the host while accesses are answered. -/
theorem Dev.host_on {d : Dev} (h : d.answers = true) (f) : d.host f = f d := by simp [Dev.host, h]
/-- An access of the host while none is answered. -/
theorem Dev.host_off {d : Dev} (h : d.answers = false) (f) : d.host f = d := by simp [Dev.host, h]

theorem runIf_next {ok f s t} (h : runIf ok f s = .next t) : t = s.after f := by
  unfold runIf at h; split at h
  · unfold run at h; cases h; rfl
  · cases h

/-- A meaning that changes nothing. -/
theorem runIf_same {ok f s} (h : ok = true) (hw : s.dev.wout = []) (hf : f s.mem s.dev = s.dev) : runIf ok f s = .next s := by
  subst h
  show Host.Outcome.next _ = _
  congr 1
  unfold State.after
  simp only [hf, hw]
  cases s with | mk d m p => cases d; simp at hw; simp [hw]

/-- The parts that a mask keeps are unchanged. -/
theorem Dev.OnlyChanges.of_mask {d e : Dev} (F : Nat) (l : List Part) (h : e.mask F = d.mask F)
   (hl : ∀ p : Part, p ∉ l → F.testBit (p.ctorIdx) = false) : d.OnlyChanges e l := by
  intro p hp
  have := hl p hp
  cases p
  · exact Dev.phase_of_mask this h
  · exact Dev.variant_of_mask this h
  · exact Dev.bootEvent_of_mask this h
  · exact Dev.regs_of_mask this h
  · exact Dev.units_of_mask this h
  · exact Dev.evr_of_mask this h
  · exact Dev.sensors_of_mask this h
  · exact Dev.links_of_mask this h
  · exact Dev.tiles_of_mask this h
  · exact Dev.posts_of_mask this h
  · exact Dev.stks_of_mask this h
  · exact Dev.linePoison_of_mask this h
  · exact Dev.deckle_of_mask this h
  · exact Dev.solvers_of_mask this h
  · exact Dev.launches_of_mask this h
  · exact Dev.deltasSent_of_mask this h
  · exact Dev.syn_of_mask this h
  · exact Dev.cad_of_mask this h
  · exact Dev.stp_of_mask this h
  · exact Dev.brezin_of_mask this h
  · exact Dev.col_of_mask this h
  · exact Dev.hbx_of_mask this h
  · exact Dev.pci_of_mask this h
  · exact Dev.sec_of_mask this h
  · exact Dev.pwr_of_mask this h
  · exact Dev.hours_of_mask this h
  · exact Dev.wout_of_mask this h
  · exact Dev.free_of_mask this h

/-- The frame of a meaning that leaves the outbox alone. -/
theorem State.after_only {s : State} {f} (F : Nat) (l : List Part) (hw : s.dev.wout = []) (hF : F.testBit 26 = false)
   (h : (f s.mem s.dev).mask F = s.dev.mask F) (hl : ∀ p : Part, p ∉ l → F.testBit (p.ctorIdx) = false) :
   s.dev.OnlyChanges (s.after f).dev l ∧ (s.after f).mem = s.mem ∧ (s.after f).pending = s.pending := by
  have hw' : (f s.mem s.dev).wout = [] := (Dev.wout_of_mask hF h).trans hw
  have e : (s.after f).dev = f s.mem s.dev := by
    unfold State.after; simp only
    generalize f s.mem s.dev = d at *
    cases d; simp at hw'; simp [hw']
  refine ⟨?_, by simp [hw'], rfl⟩
  rw [e]; exact Dev.OnlyChanges.of_mask F l h hl

/-- A meaning after which the outbox is empty. -/
theorem State.after_dev {s : State} {f : Mem → Dev → Dev} (h : (f s.mem s.dev).wout = []) :
    (s.after f).dev = f s.mem s.dev := by
  unfold State.after; simp only
  generalize f s.mem s.dev = d at *
  cases d; simp at h; simp [h]

theorem State.after_mem_same {s : State} {f : Mem → Dev → Dev} (h : (f s.mem s.dev).wout = []) :
    (s.after f).mem = s.mem := by simp [h]

/-- A meaning that leaves the outbox empty changes the device alone. -/
theorem State.after_eq {s : State} {f : Mem → Dev → Dev} (h : (f s.mem s.dev).wout = []) :
    s.after f = { s with dev := f s.mem s.dev } := by
  have a := State.after_dev h
  have b := State.after_mem_same h
  have c := State.after_pending s f
  generalize s.after f = t at *
  cases t; simp_all

/-- Completion of a command that stores nothing. -/
theorem Answers.quiet {ok : Bool} {f : Mem → Dev → Dev} {s : State} {P : State → Prop} {c : Instr} {d' : Dev}
    (he : exec c s = runIf ok f s) (h : ok = true) (hf : f s.mem s.dev = d') (hw : d'.wout = [])
    (hp : P { s with dev := d' }) : Answers c s P := by
  subst hf
  refine Answers.of_runIf he h ?_
  rw [State.after_eq hw]; exact hp

theorem Answers.quiet' {f : Mem → Dev → Dev} {s : State} {P : State → Prop} {c : Instr} {d' : Dev}
    (he : exec c s = run f s) (hf : f s.mem s.dev = d') (hw : d'.wout = [])
    (hp : P { s with dev := d' }) : Answers c s P := Answers.quiet (ok := true) he rfl hf hw hp

/-- Completion of an access of the host that stores nothing. -/
theorem Answers.access {ok : Bool} {g : Mem → Dev → Dev} {s : State} {P : State → Prop} {c : Instr} {d' : Dev}
    (he : exec c s = runIf ok (fun m d => d.host (g m)) s) (h : ok = true) (ha : s.dev.answers = true)
    (hf : g s.mem s.dev = d') (hw : d'.wout = []) (hp : P { s with dev := d' }) : Answers c s P :=
  Answers.quiet he h ((Dev.host_on ha _).trans hf) hw hp

theorem Answers.access' {g : Mem → Dev → Dev} {s : State} {P : State → Prop} {c : Instr} {d' : Dev}
    (he : exec c s = run (fun m d => d.host (g m)) s) (ha : s.dev.answers = true)
    (hf : g s.mem s.dev = d') (hw : d'.wout = []) (hp : P { s with dev := d' }) : Answers c s P :=
  Answers.access (ok := true) he rfl ha hf hw hp

end Sys2Proof.Machine
end

