-- ==== Sys2Proof/Tests/Slice0.lean ====
section
/-! SUPPORT. Tests/Slice0.lean: ill-formed operands that the checks refuse, and for each statement with hypotheses states
that meet them, with what its command then does. Expected values are worked out by hand from the rules. -/

set_option Elab.async false

namespace Sys2Proof.Tests

open Sys2Proof.Machine

/-! ### Small states -/

/-- A powered device in READY with its PCI Express link up; every unit is OFF. -/
def dev0 : Dev :=
  { Dev.reset with
    phase := .ready, bootEvent := 9, variant := 1
    pwr := { Pwr.reset with on := true, gated := false, credit := 1000000000000, vin := 48000 }
    pci := { Pcie.reset with perst := false } }.fset pciLinkstatRate 0 6

/-- The pages listed are ACTIVE. -/
def on (l : List (Nat × Nat)) (d : Dev) : Dev :=
  l.foldl (fun d x => d.setUnit x.1 x.2 { UnitPage.reset with state := .active, enable := true, testPassed := true }) d

/-- A state of a device, with empty stacks and queue. -/
def st (d : Dev) : State := { State.reset with dev := d }

/-- The state after a command; the same state where it stops. -/
def R (c : Instr) (s : State) : State :=
  match exec c s with
  | .next t => t
  | _ => s

/-- The command answers the state itself. -/
def keeps (c : Instr) (s : State) : Bool :=
  match exec c s with
  | .next t => decide (t.dev.regs = s.dev.regs ∧ t.dev.tiles = s.dev.tiles ∧ t.dev.stp = s.dev.stp ∧ t.dev.evr = s.dev.evr
      ∧ t.dev.units = s.dev.units ∧ t.dev.pwr = s.dev.pwr ∧ t.dev.brezin = s.dev.brezin ∧ t.mem = s.mem)
  | _ => false

/-- A tile that runs a program of one bundle. -/
def tile1 (b : Nat) : Tile := { Tile.reset with core := { Core.reset with run := .running, prog := [(0, b)] } }

/-- A bundle with one slot. -/
def tileAt (p : Nat) (t : Tile) (d : Dev) : Dev := (on [(pTIL, p)] d).setTile p t

/-! ### Operands that the part cannot be given -/

theorem test_ill_formed_registers :
    [Instr.regWrite 0 2 15 0, .regWrite 1 0 15 0, .regWrite 0 4 16 0, .regWrite 0 0 256 0, .regWrite 0 0 15 (2 ^ 32),
      .rcRead 0 1 15, .rcRead 2 4 16, .rcRead 0 0 256,
      .pgSeqRead 3, .reservedAccess 0 0x4000000 true, .enable 0x0F 0 1, .disableReq 0x10 68 2, .forceStop 0x16 0 4,
      .drainComplete 0x11 8, .drainBoundExpiry 0x14 18, .unitUcc 0x14 0 false 65536 0 0 0, .deviceUcf 0x14 0 (2 ^ 32) 0,
      .feltReroute 2 2, .feltFlitReceive 0 5 (List.replicate 72 0) (List.replicate 72 false), .feltFlitReceive 0 1 [0] [false],
      .bundleIssue 0 5 0, .stalledBundleIssue 68 0 0].all (fun c => !c.wf) = true := by decide +kernel

theorem test_ill_formed_units :
    [Instr.bundleIssue 68 0 0, .dmaComplete 0 32, .regionAccess 0 3 0, .barArriveSend 0 256,
      .postCreditReturn 0 4, .start 0 (2 ^ 32), .cycleStart 8, .slvLoad 64, .calSweep 0 0 0 false, .calSweep 3 0 0 false,
      .ccMeasure [1, 2, 3, 4], .refresh 32 ⟨0, .clean⟩, .refresh 0 ⟨0, 2 ^ 34, [], false⟩, .refresh 0 ⟨2 ^ 30, .clean⟩,
      .rowWearMitigation 0 ⟨2 ^ 34, 0, false⟩, .stackRead 0 0 ⟨0, [(75, 1)], false⟩, .stackWrite 0 0 ⟨0, [(3, 0)], false⟩,
      .atomicAdd 0 0 ⟨0, [(3, 256)], false⟩, .patrolScrub 0 ⟨0, [(3, 1), (3, 2)], false⟩, .portTraining 18 0 0 0 0,
      .portTraining 0 16 0 0 0, .dataFrame 0 ⟨[256], 0⟩, .write 6, .ackTimer 0 4096, .slice 0 4 0, .slice 0 0 19,
      .softDeadline 1025].all (fun c => !c.wf) = true := by decide +kernel

theorem test_ill_formed_host :
    [Instr.flr 3, .configRequest 3 0 0, .configRequest 0 4096 0, .bar4Read 0 0 .clean, .bar4Write 0 [] .clean,
      .bar4Write 0 [256] .clean, .commandFetch 0 [0] false, .hostEventDoorbell 512 0, .powerOn (.regulated 0 64),
      .powerOn (.headbox [10] []), .powerOn (.headbox [] [(0x0F, 0)]), .powerOn (.memTest [⟨32, 0, 0, true, true, [], []⟩]),
      .powerOn (.memTest [⟨0, 0, 0, true, true, [2 ^ 34], []⟩]), .powerOn (.memTest [⟨0, 0, 0, true, true, [], [(0, 3)]⟩]),
      .powerOn (.computeUp [⟨0x44, 0, false⟩]), .computeReset (.test [⟨0x88, 0, false⟩]), .powerFail 3 0, .hardwareTrip 0x14 0,
      .unitIdle 3 0, .smbusBlockRead 256, .pcieLinkUp 0 16 true, .pcieLinkUp 7 16 true, .pcieLinkUp 6 3 true,
      .lcTransition (2 ^ 32)].all (fun c => !c.wf) = true := by decide +kernel

/-! ### The machine as a whole -/

theorem test_step_takes_the_front :
    step { st dev0 with pending := [.tokenRefill, .refresh 0 ⟨0, .clean⟩] }
      = exec .tokenRefill { st dev0 with pending := [.refresh 0 ⟨0, .clean⟩] } := rfl

theorem test_sound_state_steps :
    let s := { st dev0 with pending := [.tokenRefill] }
    Memory.wf s.mem = true ∧ s.dev.wout = [] ∧ s.pending.all Instr.wf = true
      ∧ (R .tokenRefill s).dev.fget glbOpsecSeconds 0 = 1 := by decide +kernel

theorem test_absent_units :
    pageExists 0x0F 0 = false ∧ exec (.enable 0x10 68 1) (st dev0) = .fault .noSuchUnit
      ∧ exec (.cycleStart 8) (st dev0) = .fault .noSuchUnit ∧ exec (.nopCommand 64) (st dev0) = .fault .noSuchUnit :=
  ⟨rfl, rfl, rfl, rfl⟩

theorem test_implemented_pages :
    let s := st dev0
    (s.dev.wout = [] ∧ s.dev.answers = true)
      ∧ (R (.rcRead 0 0x1043000 15) s).dev.pci.reply = .value 0x10430100
      ∧ (R (.rcRead 0 0x1505000 15) s).dev.pci.reply = .value 0x15050100
      ∧ (R (.rcRead 0 0x1044000 15) s).dev.pci.reply = .value 0
      ∧ (R (.rcRead 0 0x3FFFFFC 15) s).dev.pci.reply = .value 0 := by decide +kernel

theorem test_unanswered_access :
    (Instr.byHost (.periodWrite 3000) = true ∧ (Instr.periodWrite 3000).WellFormed ∧ State.reset.dev.answers = false)
      ∧ keeps (.periodWrite 3000) State.reset = true := by decide +kernel


/-! ### Registers and units -/

/-- A register write with every byte enabled. -/
def put (cls inst o v : Nat) : Instr := .regWrite 0 (cls * 2 ^ 20 + inst * 2 ^ 12 + o) 15 v

theorem test_plain_register_write :
    let s := st (on [(0x05, 0), (0x0D, 0)] (dev0.fset docStatBehind 0 1))
    (s.dev.answers = true ∧ s.dev.blockOpen 0x05 0 = true ∧ s.dev.pageReset 0x05 = false
      ∧ thmPeriodMs ∈ fieldsOf 0x05 ∧ docStatBehind ∈ fieldsOf 0x0D)
    ∧ (R (put 0x05 0 0x48 0) s).dev.fget thmPeriodMs 0 = 1
    ∧ (R (put 0x0D 0 0x48 1) s).dev.fget docStatBehind 0 = 0
    ∧ (R (put 0x13 4 0x44 0x0203) s).dev.fget fltArbDatWt 4 = 2 := by decide +kernel

theorem test_bad_accesses :
    let s := st dev0
    (regAt 2 0x300 = true ∧ addressed 2 0x300 = false ∧ s.dev.fget glbBadaccValid 0 ≠ 1)
    ∧ (R (.regWrite 0 0x600044 3 1) s).dev.fget glbBadaccPartial 0 = 1
    ∧ (R (.regWrite 0 0x600044 3 1) s).dev.evr.raised = [⟨1, 0, 0, 0x600044, 13, 0, false⟩]
    ∧ (R (.reservedAccess 2 0x300 true) s).dev.fget glbBadaddrOffset 0 = 0x300
    ∧ (R (.reservedAccess 2 0x300 false) s).dev.pci.reply = .value 0
    ∧ keeps (.regWrite 0 0x600044 3 1) (st (dev0.fset glbBadaccValid 0 1)) = true := by decide +kernel

theorem test_reads_clear_and_latch :
    let u : UnitPage := { UnitPage.reset with ceCnt := 7, deCnt := 2, seq := 2 ^ 33 + 5 }
    let s := st (((dev0.setUnit 0x12 3 u).fset stkCecntCount 3 9).fset stkUecntCount 3 4)
    (s.dev.answers = true ∧ s.dev.blockOpen 0x12 3 = true ∧ s.dev.pageReset 0x12 = false)
    ∧ (R (.rcRead 0 0x1203048 15) s).dev.pci.reply = .value 9
    ∧ (R (.rcRead 0 0x1203048 2) s).dev.fget stkCecntCount 3 = 0
    ∧ (R (.rcRead 0 0x1203048 2) s).dev.fget stkUecntCount 3 = 4
    ∧ (R (.rcRead 0 0x1203018 15) s).dev.pci.reply = .value 0x00020007
    ∧ ((R (.rcRead 0 0x1203018 15) s).dev.unit 0x12 3).ceCnt = 0
    ∧ (R (.pgSeqRead 0x1203030) s).dev.pci.reply = .value 5
    ∧ ((R (.pgSeqRead 0x1203030) s).dev.unit 0x12 3).seqHi = 2 := by decide +kernel

theorem test_paired_accesses :
    let s := st (((on [(0x12, 3), (0x0D, 0)] dev0).fset stkCecntCount 3 9).fset stkUecntCount 3 4)
    (regAt 0 0x1203048 = true ∧ s.dev.answers = true)
    ∧ (R (.rcRead 0 0x1203048 255) s).dev.pci.reply = .value (9 + 4 * 2 ^ 32)
    ∧ (R (.rcRead 0 0x1203048 0x10) s).dev.fget stkUecntCount 3 = 0
    ∧ (R (.regWrite 0 0x500048 255 (7 + 9 * 2 ^ 32)) s).dev.fget thmPeriodMs 0 = 7 := by decide +kernel

theorem test_latching_counts :
    let s := st { dev0 with cad := { Cad.reset with count := 2 ^ 40 }, evr := { Evr.reset with seq := 2 ^ 33, flushed := 2 ^ 34 } }
    (R (.pgSeqRead 0x600048) s).dev.cad.hi = 2 ^ 8 ∧ (R (.pgSeqRead 0x300048) s).dev.evr.seqHi = 2
      ∧ (R (.pgSeqRead 0x300050) s).dev.evr.flushedHi = 4 := by decide +kernel

theorem test_enable_activates :
    let s := st (dev0.setUnit pSTK 31 { UnitPage.reset with testPassed := true })
    let z := st (dev0.setUnit pTIL 67 { UnitPage.reset with state := .disabled, reason := 1, forced := true, testPassed := true })
    (s.dev.answers = true ∧ s.dev.ctrlOpen pSTK 31 = true ∧ s.dev.pageReset pSTK = false
      ∧ (s.dev.unit pSTK 31).allowed = true ∧ (s.dev.unit pSTK 31).state = .off
      ∧ (z.dev.unit pTIL 67).allowed = true ∧ (z.dev.unit pTIL 67).fault = false)
    ∧ ((R (.enable pSTK 31 1) s).dev.unit pSTK 31).state = .active
    ∧ ((R (.enable pTIL 67 1) z).dev.unit pTIL 67).state = .active
    ∧ ((R (.enable pTIL 67 1) z).dev.unit pTIL 67).forced = false := by decide +kernel

/-- A stack with one read queued. -/
def busyStack : Stack :=
  { Stack.reset with reqs := [⟨0, 0, 0, .rd, 0, [0], [], 0, 0, false, []⟩] }

/-- A packet with no payload. -/
def pkt (op dchan seq arg : Nat) : Packet :=
  { dst := 0, src := 5, op := op, flags := 0, dchan := dchan, schan := 7, seq := seq, len := 0, arg := arg, payload := [] }

/-- Port 17 with a frame to send. -/
def busyPort (d : Dev) : Dev := d.onPort 17 (fun x => { x with state := .up, width := 3, queue := [⟨0, pkt 1 0 0 0, none⟩] })

theorem test_drain_and_force :
    let s := st (on [(pSTK, 0), (pBZP, 17)] dev0)
    let b := st (busyPort (on [(pBZP, 17)] dev0))
    (s.dev.ctrlOpen pSTK 0 = true ∧ (s.dev.unit pSTK 0).state = .active ∧ s.dev.inFlight pSTK 0 = 0 ∧ b.dev.inFlight pBZP 17 = 1)
    ∧ ((R (.disableReq pSTK 0 2) s).dev.unit pSTK 0).reason = 1
    ∧ ((R (.disableReq pBZP 17 0) s).dev.unit pBZP 17).state = .disabled
    ∧ ((R (.disableReq pSTK 0 3) (st { s.dev with stks := [(0, busyStack)] })).dev.unit pSTK 0).state = .draining
    ∧ ((R (.forceStop pBZP 17 4) b).dev.unit pBZP 17).reason = 6 ∧ ((R (.forceStop pBZP 17 4) b).dev.unit pBZP 17).forced = true
    ∧ ((R (.forceStop pSTK 0 4) s).dev.unit pSTK 0).forced = false := by decide +kernel

theorem test_drain_ends :
    let b := R (.disableReq pBZP 17 3) (st (busyPort (on [(pBZP, 17)] dev0)))
    let e := st (b.dev.onPort 17 (fun x => { x with queue := [] }))
    ((b.dev.unit pBZP 17).state = .draining ∧ b.dev.inFlight pBZP 17 ≠ 0 ∧ e.dev.inFlight pBZP 17 = 0)
    ∧ ((R (.drainComplete pBZP 17) e).dev.unit pBZP 17).reason = 1
    ∧ ((R (.drainBoundExpiry pBZP 17) b).dev.unit pBZP 17).reason = 5
    ∧ bit ((R (.drainBoundExpiry pBZP 17) b).dev.unit pBZP 17).err 5 = true := by decide +kernel

theorem test_fault_containment :
    let s := st (on [(pBZP, 17)] dev0)
    ((s.dev.unit pBZP 17).state = .active ∧ containable pGLB 0 = false ∧ s.dev.pwr.on = true)
    ∧ ((R (.unitUcc pBZP 17 true 3 1 2 3) s).dev.unit pBZP 17).reason = 7
    ∧ bit ((R (.unitUcc pBZP 17 true 3 1 2 3) s).dev.unit pBZP 17).err 4 = true
    ∧ (R (.deviceUcf pGLB 0 1 2) s).dev.phase = .failed := by decide +kernel

theorem test_felt_retry_and_reroute :
    let flit (b : Nat) : List Nat := List.replicate 71 3 ++ [b]
    let even : List Bool := List.replicate 72 false
    let s := st { dev0 with links := [(0, .up), (3, ⟨1, false, 0, 2⟩), (6, .up)] }
    let f := st { dev0 with links := [(0, ⟨1, false, 1, 3⟩), (3, .up), (6, .up)] }
    let r := R (.feltFlitReceive 1 0 (flit 7) even) s
    let t := R (.feltFlitReceive 1 0 (flit 7) even) f
    (flitGood (flit 6) even = true ∧ flitGood (flit 7) even = false
      ∧ linkOk 0 1 = true ∧ linkIndex 0 1 = 0 ∧ (s.dev.feltLink 0 1).carries = true ∧ (s.dev.feltLink 1 0).tries 1 0 = 0
      ∧ (f.dev.feltLink 1 0).tries 1 0 = 3 ∧ s.dev.evr.closed = false ∧ bit (s.dev.unit pFLT 1).mask 0 = false)
    ∧ r.dev.evr.raised = [⟨0x1001, pFLT, 1, 0, 1, 0, true⟩] ∧ r.dev.feltLink 0 1 = ⟨1, false, 0, 1⟩
    ∧ (R (.feltFlitReceive 1 0 (flit 6) even) f).dev.feltLink 0 1 = ⟨1, false, 1, 0⟩
    ∧ r.dev.fget fltRetrycntCount 1 = 1 ∧ r.dev.fget fltRetrycntCount 0 = 0 ∧ r.dev.fget fltLinkfailFailed 1 = 0
    ∧ (t.dev.feltLink 0 1).failed = true ∧ t.dev.fget fltLinkfailFailed 0 = 2
    ∧ (R (.feltReroute 0 1) t).dev.link 0 1 = 2 ∧ ((R (.feltReroute 0 1) t).dev.feltLink 0 1).failed = false
    ∧ (R (.feltReroute 0 1) (st { t.dev with links := [(0, ⟨1, true, 0, 0⟩)] })).dev.link 0 1 = 0 := by decide +kernel


/-! ### Tiles -/

/-- A bundle with one slot: opcode and operands as R55 places them. -/
def slot (k opc body : Nat) : Nat := 2 ^ (504 + k) + (opc * 2 ^ 52 + body) * 2 ^ (62 * k)

/-- A bundle decodes to the slots listed, with no halt. -/
def decodes (b : Nat) (l : List Slot) : Bool :=
  match decodeBundle b with
  | .ok (x, h) => decide (x = l) && !h
  | .error _ => false

/-- `ADD X3, X1, X2` in SA, with X1 = 5 and X2 = 7. -/
def addTile : Tile :=
  { tile1 (slot 0 0x001 (3 * 2 ^ 42 + 1 * 2 ^ 36 + 2 * 2 ^ 30)) with
    core := { (tile1 (slot 0 0x001 (3 * 2 ^ 42 + 1 * 2 ^ 36 + 2 * 2 ^ 30))).core with x := [(1, 5), (2, 7)] } }

theorem test_bundle_issues :
    let s := st (tileAt 67 addTile dev0)
    let z := st (tileAt 0 (tile1 0) dev0)
    let t := (R (.bundleIssue 67 0 0) s).dev.tile 67
    (s.dev.sheetsRun = true ∧ addTile.core.run.issuing = true ∧ addTile.core.pc < 16383)
    ∧ decodes (SMap.get 0 0 addTile.core.prog) [⟨0, 0, .scalar (.alu .add 3 1 2)⟩] = true
    ∧ decodes (SMap.get 0 0 (tile1 0).core.prog) [] = true
    ∧ t.core.pend = [⟨aluLatency .add, .x 3, 12, 0, false⟩] ∧ t.core.pc = 1
    ∧ ((R (.bundleIssue 0 0 0) z).dev.tile 0).core.pc = 1 := by decide +kernel

theorem test_discarded_destination :
    let b := slot 1 0x001 (1 * 2 ^ 36 + 2 * 2 ^ 30)
    let s := st (tileAt 0 { addTile with core := { addTile.core with prog := [(0, b)] } } dev0)
    decodes b [⟨1, 0, .scalar (.alu .add 0 1 2)⟩] = true
    ∧ ((R (.bundleIssue 0 0 0) s).dev.tile 0).core.pend = [] := by decide +kernel

theorem test_write_lands :
    let T : Tile := { tile1 0 with core := { (tile1 0).core with cc := 4, pend := [⟨4, .x 63, 9, 0, false⟩], div := [(5, 3)] } }
    let L : Tile := { T with core := { T.core with cc := 3 } }
    let Z : Tile := { T with core := { T.core with pend := [⟨4, .x 0, 9, 0, false⟩] } }
    ((R (.writeLands 0) (st (tileAt 0 T dev0))).dev.tile 0).xr 63 = 9
    ∧ ((R (.writeLands 0) (st (tileAt 0 Z dev0))).dev.tile 0).xr 0 = 0
    ∧ ((R (.writeLands 0) (st (tileAt 0 L dev0))).dev.tile 0).core.pend = L.core.pend
    ∧ ((R (.divideComplete 0 false) (st (tileAt 0 T dev0))).dev.tile 0).xr 5 = 3 := by decide +kernel

theorem test_tile_takes_exception :
    let T : Tile := { tile1 (2 ^ 496) with core := { (tile1 (2 ^ 496)).core with evec := 2 ^ 63 + 100 } }
    let W : Tile := { T with core := { T.core with prog := [], stallWhy := 1 } }
    let t := (R (.bundleIssue 0 0 0) (st (tileAt 0 T dev0))).dev.tile 0
    let w := (R (.watchdog 0) (st ((tileAt 0 W dev0).fset tilWdogMs 0 10))).dev.tile 0
    (bit T.core.evec 63 = true ∧ (bundleHeader (2 ^ 496)).reserved ≠ 0 ∧ decodes 0 [] = true
      ∧ (dev0.fset tilWdogMs 0 10).fget tilWdogMs 0 ≠ 0)
    ∧ t.core.run = .handler ∧ t.core.pc = 100 ∧ t.core.excCause = cIllegalOp ∧ t.core.excSlot = 8
    ∧ w.core.run = .handler ∧ w.core.excCause = cWatchdog ∧ w.core.stallWhy = 0 := by decide +kernel

theorem test_stalled_bundle :
    let b := slot 7 0x028 (4 * 2 ^ 42 + 6)
    let S : Tile := { tile1 b with core := { (tile1 b).core with tev := 8 } }
    let I : Tile := { S with core := { S.core with tev := 12, stallWhy := 6 } }
    let i := (R (.stalledBundleIssue 0 0 0) (st (tileAt 0 I dev0))).dev.tile 0
    decodes b [⟨7, 0, .control (.waitev 4 6)⟩] = true
    ∧ ((R (.bundleIssue 0 0 0) (st (tileAt 0 S dev0))).dev.tile 0).core.stallWhy = 6
    ∧ i.core.tev = 8 ∧ i.core.pend = [⟨1, .x 4, 4, 0, false⟩] ∧ i.core.pc = 1 := by decide +kernel

/-- A read of eight binary64 elements of region 5 into the tile store, with tag 31. -/
def dma0 : Dma :=
  { kind := .rd, desc := 5 + 2 ^ 16 + 8 * 2 ^ 128, start := [0], ext := [8], ts := 0, tag := 31, seq := 0, phase := 0, left := 0
    status := 0, poison := false, mirror := [], marks := [] }

/-- A tile with one DMA. -/
def dmaTile (q : Dma) : Tile :=
  { Tile.reset with store := { Store.reset with dmas := [(q.tag, q)], tagState := [(q.tag, 1)] } }

theorem test_dma_ends :
    let D : Tile := dmaTile { dma0 with phase := 1, poison := true }
    let E : Tile := dmaTile { dma0 with phase := 1, status := 6 }
    let t := (R (.dmaComplete 0 31) (st (tileAt 0 D dev0))).dev.tile 0
    let e := (R (.dmaComplete 0 31) (st (tileAt 0 E dev0))).dev.tile 0
    let o := (R (.dmaTimeout 0 31) (st (tileAt 0 D dev0))).dev.tile 0
    SMap.find 31 D.store.dmas = some { dma0 with phase := 1, poison := true }
    ∧ SMap.get 0 31 t.store.tagStatus = 1 ∧ SMap.get 0 31 t.store.tagState = 0
    ∧ SMap.get 0 31 e.store.tagStatus = 6 ∧ SMap.get 0 31 e.store.tagState = 2
    ∧ SMap.get 0 31 o.store.tagStatus = 5 ∧ SMap.get 0 31 o.store.tagState = 2
    ∧ keeps (.dmaComplete 0 31) (st (tileAt 0 (dmaTile dma0) dev0)) = true := by decide +kernel

theorem test_fence_timeout_and_credit :
    let b := slot 7 0x013 (4 * 2 ^ 42 + 1 * 2 ^ 36)
    let F : Tile := { tile1 b with core := { (tile1 b).core with stallWhy := 3 } }
    let C : Tile := { Tile.reset with store := { Store.reset with creditOwed := [(3, 2)], creditUsed := [(3, 5)] } }
    decodes b [⟨7, 0, .control (.fenceP 4 1)⟩] = true
    ∧ ((R (.fencePTimeout 0) (st (tileAt 0 F dev0))).dev.tile 0).core.stallStatus = some 4
    ∧ SMap.get 0 3 ((R (.postCreditReturn 0 3) (st (tileAt 0 C dev0))).dev.tile 0).store.creditUsed = 4 := by decide +kernel

/-- The region table holds region 5 on stack 0 in a state. -/
def region5 (x : RegionState) (d : Dev) : Dev :=
  { d with deckle := { d.deckle with regions := [(5, ⟨x, false, 1, 0x1000, 0x10000, 1⟩)] } }

theorem test_region_access :
    let s := st (region5 .active (on [(pSTK, 0)] (tileAt 0 (dmaTile dma0) dev0)))
    let f := st (region5 .failed (tileAt 0 (dmaTile dma0) dev0))
    let n := st (tileAt 0 (dmaTile dma0) dev0)
    let status (t : State) : Option Nat := (SMap.find 31 (t.dev.tile 0).store.dmas).map (fun q => q.status)
    (s.dev.deltaPort 5 = none ∧ s.dev.checkEntry 5 64 = .ok ∧ f.dev.checkEntry 5 64 = .regionFailed
      ∧ n.dev.checkEntry 5 64 = .descInvalid ∧ s.dev.active pSTK 0 = true)
    ∧ (((R (.regionAccess 0 0 0) s).dev.stack 0).reqs.map (fun r => r.addrs)) = [(List.range 64).map (· + 0x1000)]
    ∧ status (R (.regionAccess 0 0 0) f) = some 2 ∧ status (R (.regionAccess 0 0 0) n) = some 6 := by decide +kernel

theorem test_start_stop_resume :
    let I : Tile := { Tile.reset with core := { Core.reset with x := [(1, 5)], prog := [(3, 0)] } }
    let H : Tile := { Tile.reset with core := { Core.reset with run := .halted } }
    let s := st (tileAt 67 I dev0)
    let r := st (tileAt 67 (tile1 0) dev0)
    let z := st (tileAt 67 H dev0)
    (s.dev.answers = true ∧ s.dev.pageReset pTIL = false ∧ s.dev.blockOpen pTIL 67 = true ∧ s.dev.active pTIL 67 = true
      ∧ z.dev.debugOpen = true)
    ∧ ((R (.start 67 (3 * 2 ^ 16 + 1)) s).dev.tile 67).core.run = .running
    ∧ ((R (.start 67 (3 * 2 ^ 16 + 1)) s).dev.tile 67).core.pc = 3
    ∧ ((R (.start 67 (3 * 2 ^ 16 + 1)) s).dev.tile 67).core.x = []
    ∧ ((R (.stop 67 2) r).dev.tile 67).core.run = .halted
    ∧ ((R (.resume 67 4) z).dev.tile 67).core.run = .running := by decide +kernel

/-- A matrix operation on ping. -/
def mx (k : MxKind) : MxItem :=
  { kind := k, acc := 0, pred := 0, predPoison := false, nmode := 0, step := 0, ibase := 0, fmt := 1, descA := 0, descB := 0
    rowA := 0, rowB := 0, k0 := 0, len := 0, zero := false, dest := 0, row := 255, mode := 1, a := [], b := [] }

/-- Tile 0 with a matrix engine. -/
def mxState (m : Matrix) : State := st (tileAt 0 { Tile.reset with mx := m } dev0)

theorem test_matrix_ops :
    let q := mxState { Matrix.reset with queue := [mx .mma], ledgerRole := true, accmem := true }
    let p := mxState { Matrix.reset with queue := [mx .accld] }
    let t := mxState { Matrix.reset with port := some (mx .accst), pingMode := 1, ledgerRole := true, accmem := true }
    let i := mxState { Matrix.reset with port := some (mx .accinv), rowValid := [(rowKey 1 255, true)] }
    (q.dev.sheetsRun = true ∧ q.dev.active pTIL 0 = true)
    ∧ ((R (.mxOpStart 0 true 0 0) q).dev.tile 0).mx.array.isSome = true
    ∧ ((R (.mxOpStart 0 false 0 0) p).dev.tile 0).mx.port = some (mx .accld)
    ∧ SMap.get false (rowKey 1 255) ((R (.mxOpComplete 0 false ⟨[], []⟩) t).dev.tile 0).mx.rowValid = true
    ∧ SMap.get false (rowKey 1 255) ((R (.mxOpComplete 0 false ⟨[], []⟩) i).dev.tile 0).mx.rowValid = false := by decide +kernel

theorem test_mma_completes :
    let a := mxState { Matrix.reset with array := some (mx .mma) }
    ((R (.mxOpComplete 0 true ⟨[], []⟩) a).dev.tile 0).mx.array = none
    ∧ ((R (.mxOpComplete 0 true ⟨[], []⟩) a).dev.tile 0).mx.pingMode = (mx .mma).modeOf.2 := by decide +kernel

theorem test_accumulator_debug :
    let g := mxState Matrix.reset
    let r := st ((mxState { Matrix.reset with dbgPending := true, pingMode := 2, ping := [(0, ⟨7, 3, 1⟩)] }).dev.fset
      tilAccdbgCtlSrc 0 1)
    let n := mxState { Matrix.reset with dbgPending := true }
    (g.dev.answers = true ∧ g.dev.pageReset pTIL = false ∧ g.dev.blockOpen pTIL 0 = true ∧ g.dev.debugOpen = true)
    ∧ (R (.accdbgGo 0 (2 ^ 31 + 5 * 2 ^ 8 + 4)) g).dev.fget tilAccdbgCtlCell 0 = 5
    ∧ ((R (.accdbgGo 0 (2 ^ 31)) g).dev.tile 0).mx.dbgPending = true
    ∧ r.dev.debugCell 0 = some (2, ⟨7, 3, 1⟩) ∧ (R (.accdbgReadDone 0) r).dev.fget tilAccdbgDataLoDataLo 0 = 7
    ∧ (R (.accdbgReadDone 0) r).dev.fget tilAccdbgStatNan 0 = 1
    ∧ n.dev.debugCell 0 = none ∧ (R (.accdbgReadDone 0) n).dev.fget tilAccdbgStatInvalid 0 = 1 := by decide +kernel

/-- A vector operation that does nothing. -/
def vop : VItem :=
  { op := .nop, pred := 0, predPoison := false, vl := 0, nmode := 0, step := 0, va := 0, vaP := 0, vb := 0, vbP := 0, vc := 0
    vcP := 0, ma := 0, maP := false, mb := 0, mbP := false, mc := 0, mcP := false, xa := 0, xb := 0, xi := 0, start := []
    desc := 0, descE := 0, vres := 0, faultAt := none, tv := [], tp := [], cut := none }

theorem test_vector_ops :
    let V (v : Vector) : State := st (tileAt 0 { Tile.reset with vx := v } dev0)
    let q := V { Vector.reset with queue := [vop] }
    let r := V { Vector.reset with run := some vop }
    q.dev.pwr.gated = false
    ∧ ((R (.vectorOpStart 0 0 0) q).dev.tile 0).vx.run = some vop
    ∧ ((R (.vectorOpComplete 0) r).dev.tile 0).vx.run = none := by decide +kernel

theorem test_launch_entry_fires :
    let T : Tile := { Tile.reset with core := { Core.reset with entries := [(3, .armed (.dma dma0) 5)] } }
    let s := st { dev0 with tiles := [(7, T)], cad := { Cad.reset with mark := 5 },
                            pwr := { dev0.pwr with held := [(.dma 7, 1)] } }
    let t := (R .launchEntryFire s).dev.tile 7
    (reached s.dev.cad.mark 5 = true ∧ s.dev.loaded (.dma 7) = true ∧ s.dev.pwr.direct = [] ∧ T ≠ Tile.reset)
    ∧ t.entry 3 = .empty ∧ SMap.get 0 31 t.store.tagState = 1 := by decide +kernel


/-! ### Barriers, Cadence and calibration -/

/-- A tile that has arrived at barrier 255, its arrival sent or not. -/
def arrived (sent : Bool) : Tile := { Tile.reset with store := { Store.reset with arrivals := [(255, ⟨0, sent, none⟩)] } }

/-- Barrier 255. -/
def bar (b : Barrier) (d : Dev) : Dev := { d with syn := { d.syn with bars := [(255, b)] } }

theorem test_barrier_generation :
    let s := st (tileAt 3 (arrived false) dev0)
    let one := st (bar ⟨1, 0, 0, false, false, [], false, []⟩ { tileAt 3 (arrived true) dev0 with syn := { Syn.reset with inflight := [(3, 255)] } })
    let two := st (bar ⟨2, 0, 0, false, false, [], false, []⟩ one.dev)
    let zero := st { one.dev with syn := { one.dev.syn with bars := [] } }
    let broken := st (bar ⟨1, 0, 0, true, false, [], false, []⟩ one.dev)
    let rel (t : State) : Option (Option Nat) := (SMap.find 255 (t.dev.tile 3).store.arrivals).map (fun a => a.released)
    (s.dev.isFence 255 = false ∧ s.dev.fenceDone 3 0 = true)
    ∧ (R (.barArriveSend 3 255) s).dev.syn.inflight = [(3, 255)]
    ∧ rel (R (.barArrival 3 255) one) = some (some 0) ∧ ((R (.barArrival 3 255) one).dev.bar 255).gen = 1
    ∧ rel (R (.barArrival 3 255) two) = some none ∧ ((R (.barArrival 3 255) two).dev.bar 255).arrived = 1
    ∧ rel (R (.barArrival 3 255) zero) = some (some 2) ∧ rel (R (.barArrival 3 255) broken) = some (some 1) := by decide +kernel

theorem test_host_arrival :
    let s := st (bar ⟨1, 0, 0xFFFF, false, true, [], false, []⟩ { on [(pSYN, 0)] dev0 with syn := { Syn.reset with host := [255] } })
    let a := st (bar ⟨1, 0, 0, false, false, [], false, []⟩ (on [(pSYN, 0)] dev0))
    (s.dev.answers = true ∧ s.dev.blockOpen pSYN 0 = true ∧ (s.dev.bar 255).hostpend = true)
    ∧ ((R (.hostArrivalCount 255) s).dev.bar 255) = ⟨1, 0, 0, false, false, [], false, []⟩
    ∧ ((R (.arrive 255) a).dev.bar 255).hostpend = true ∧ (R (.arrive 255) a).dev.syn.host = [255]
    ∧ (R (.arrive 255) s).dev.fget glbBadaccValid 0 = 1 := by decide +kernel

theorem test_barriers_break :
    let d := (bar ⟨4, 2, 9, false, false, [3], false, []⟩ (on [(pSYN, 0)] (tileAt 3 (arrived true) dev0))).fset synBarselBarrier 0 255
    let s := st (d.fset synBartmoTmo 0 5)
    let e := st (bar ⟨4, 0, 9, false, false, [], false, []⟩ d)
    let rel (t : State) : Option (Option Nat) := (SMap.find 255 (t.dev.tile 3).store.arrivals).map (fun a => a.released)
    (s.dev.fget synBartmoTmo 0 ≠ 0 ∧ (s.dev.bar 255).arrived ≠ 0 ∧ s.dev.fget synBarselBarrier 0 = 255)
    ∧ keeps (.bartmoExpiry 255) e = true
    ∧ (R (.bartmoExpiry 255) s).dev.bar 255 = ⟨4, 0, 9, true, false, [], false, []⟩ ∧ rel (R (.bartmoExpiry 255) s) = some (some 1)
    ∧ ((R (.barcfgWrite 0x7F) e).dev.bar 255).count = 65 ∧ ((R (.barcfgWrite 3) s).dev.bar 255).broken = true
    ∧ (R (.barReset 1) s).dev.bar 255 = ⟨4, 0, 9, false, false, [], false, []⟩ := by decide +kernel

theorem test_cadence :
    let d := on [(pCAD, 0)] dev0
    let s := st ((d.fset cadCountsetLoSetLo 0 9).fset cadCountsetHiSetHi 0 2)
    let r := st ((({ d with cad := { Cad.reset with count := 2 ^ 48 - 1 } }).fset cadCtlRun 0 1).fset cadPeriodNs 0 50)
    (s.dev.answers = true ∧ s.dev.blockOpen pCAD 0 = true ∧ r.dev.fget cadCtlRun 0 = 1)
    ∧ (R (.run 1) s).dev.fget cadStatRunning 0 = 1 ∧ (R (.load 2) s).dev.cad.count = 2 * 2 ^ 32 + 9
    ∧ (R (.periodWrite 49) s).dev.cad.period = 50 ∧ (R (.periodWrite 0xFFFFF) s).dev.cad.period = 1000000
    ∧ (R (.periodWrite 60) r).dev.cad.period = 2000 ∧ (R (.periodWrite 60) r).dev.fget cadStatPerpend 0 = 1
    ∧ (R .cadenceMark r).dev.cad = ⟨0, 0, 0, 50, 1⟩ ∧ keeps .cadenceMark s = true := by decide +kernel

theorem test_calibration :
    let s := st (on [(pCAL, 0)] dev0)
    ((Instr.calSweep 1 300 0 true).WellFormed ∧ (Instr.ccMeasure [1, 2, 3, 4, 5]).WellFormed ∧ s.dev.active pCAL 0 = true)
    ∧ (R (.calSweep 1 300 0 true) s).dev.fget cadSkewMaxskew 0 = 255
    ∧ (R (.calSweep 1 61 0 false) s).dev.fget cadStatSkewerr 0 = 1 ∧ (R (.calSweep 1 60 0 false) s).dev.fget cadStatSkewerr 0 = 0
    ∧ (R (.calSweep 2 0 0x14 true) s).dev.fget calFailcntCount 0 = 1
    ∧ (R (.ccMeasure [1, 2, 3, 4, 5]) s).dev.fget calCchbPs 0 = 5
    ∧ keeps (.calSweep 1 0 0 false) (st dev0) = true := by decide +kernel


/-! ### Solver engines -/

/-- A command of a submission ring. -/
def cmd (q op : Nat) (bytes : List Nat) : HostCmd :=
  { sq := q, op := op, fence := false, quiet := false, cid := 9, bytes := bytes, error := none }

/-- The command is at the front of its ring. -/
def front (c : HostCmd) (d : Dev) : Dev := { d with hbx := { d.hbx with sq := [(c.sq, ⟨0, 1, [c], []⟩)] } }

/-- The completion entries of CQ 0 that wait, as (command, status, P0). -/
def posted (s : State) : List (Nat × Nat × Nat) := (s.dev.cq 0).waiting.map (fun e => (e.cid, e.status, e.p0))

/-- HBX is ACTIVE with CQ 0 enabled. -/
def hbx (d : Dev) : Dev := (on [(pHBX, 0)] d).fset hbxCqcfgEn 0 1

/-- A placement with instance 3 in slot 1 of engine 7. -/
def placed : Placement :=
  { man := ⟨0, 0, [], [], [], []⟩, order := [], spares := [], roles := [], tmap := [], smap := [(3, (7, 1))], loads := []
    images := [] }

/-- Deckle holds the placement. -/
def place (p : Placement) (d : Dev) : Dev := { d with deckle := { d.deckle with placement := some p } }

/-- SLV_LOAD of instance 3 from the start of region 5. -/
def load3 : HostCmd := cmd 63 6 ([6, 0, 0, 0, 0, 0, 0, 0, 3, 0, 5, 0] ++ List.replicate 52 0)

theorem test_solver_load :
    let s := st (front load3 (place placed (on [(pSLV, 7)] (hbx dev0))))
    let off := st (front load3 (place placed (hbx dev0)))
    let bare := st (front load3 (hbx dev0))
    ((s.dev.sq 63).fetched = [load3] ∧ s.dev.mayStart 63 load3 = true ∧ s.dev.cmdRefusal load3 = none
      ∧ s.dev.engineOf (load3.f 8 1) = some (7, 1) ∧ bare.dev.engineOf (load3.f 8 1) = none ∧ off.dev.active pSLV 7 = false)
    ∧ ((R (.slvLoad 63) s).dev.solver 7).loading = some load3
    ∧ posted (R (.slvLoad 63) off) = [(9, 5, 8)] ∧ (R (.slvLoad 63) off).dev.fget slvLoadstatSlot 7 = 1
    ∧ posted (R (.slvLoad 63) bare) = [(9, 3, 0)] ∧ keeps (.slvLoad 63) (st (s.dev.setSolver 7 { Solver.reset with loading := some load3 })) = true := by
  decide +kernel

/-- One unknown, by hand: `A` has one entry. -/
def one : Struct :=
  { hash := 77, size := 448, n := 1, nh := 0, nb := 0, nnza := 1, perm := [0], aptr := [0, 1], aidx := [0], bodies := []
    smat := [] }

/-- Bytes of an image of that structure: magic, version, N 1, NNZA 1, SIZE 448, sections at 256, 320 and 384, one row 1 of
APTR. The hash field holds `h`. -/
def image (h : Nat) : List (Nat × Nat) :=
  [(0x00, 0x31), (0x01, 0x56), (0x02, 0x4C), (0x03, 0x53), (0x04, 1)] ++ (toLE 8 h).zipIdx.map (fun x => (8 + x.2, x.1))
    ++ [(0x10, 1), (0x1C, 1), (0x24, 0xC0), (0x25, 1), (0x29, 1), (0x2C, 0x40), (0x2D, 1), (0x30, 0x80), (0x31, 1), (0x34, 0xC0),
      (0x35, 1), (0x38, 0xC0), (0x39, 1), (0x144, 1)]

/-- The image in region 5, whose stack holds nothing else. -/
def imageMem (h : Nat) : Mem := ((image h).filter (fun x => x.2 != 0)).map (fun x => (0x1000 + x.1, BitVec.ofNat 8 x.2))

/-- Engine 7 loads slot 1. -/
def loading (d : Dev) : Dev := d.setSolver 7 { Solver.reset with slots := [(1, .loading none)], loading := some load3 }

theorem test_solver_load_completes :
    let d := loading (place placed (region5 .active (on [(pSLV, 7), (pSTK, 0)] (hbx dev0))))
    let h := 9211102418174609401
    let s : State := { st d with mem := imageMem h }
    let bad : State := { st d with mem := [(0x1025, 1)] }
    let gone := st (loading (place placed (hbx dev0)))
    (Memory.wf s.mem = true ∧ (s.dev.solver 7).run = none
      ∧ (s.dev.readRegion s.mem 5 0 256).any (fun x => ofLE ((x.1.drop 0x24).take 4) == 448) = true
      ∧ (s.dev.readRegion s.mem 5 0 448).isSome = true)
    ∧ ((R (.slvLoadComplete 7) s).dev.solver 7).slot 1 = .resident { one with hash := h }
    ∧ posted (R (.slvLoadComplete 7) bad) = [(9, 0x0A, 1)] ∧ ((R (.slvLoadComplete 7) bad).dev.solver 7).slot 1 = .empty
    ∧ posted (R (.slvLoadComplete 7) gone) = [(9, 9, 0)]
    ∧ ((R (.slvLoadComplete 7) (st (d.setSolver 7 { Solver.reset with slots := [(1, .loading (some one))], loading := some load3 }))).dev.solver 7).slot 1
      = .resident one
    ∧ keeps (.slvLoadComplete 7) (st dev0) = true := by decide +kernel

/-- A SOLVE launch of instance 3: deadline 4 marks, one instance, state and output in region 5, hash 77. -/
def launch : Launch :=
  { block := [3, 0, 0, 0, 4, 0, 0, 0, 0, 0, 0, 0, 1, 0, 0xFF, 0xFF] ++ toLE 8 77 ++ [5, 0, 5, 0, 0, 0, 0, 0] ++ List.replicate 8 0
      ++ toLE 8 0x1000 ++ List.replicate 16 0
    slot := 1, tile := 0, step := none, mark := 10 }

/-- A delta packet of that launch. -/
def delta (i : Option Nat) (v : Nat) : Delta := { slot := 1, index := i, inst := 0, tag := 0xFFFF, value := v, poison := false }

/-- Engine 7 with the structure and more. -/
def engine (x : Solver) : State :=
  st ((place placed (region5 .active (on [(pSLV, 7), (pSTK, 0)] { dev0 with cad := { Cad.reset with mark := 12 } }))).setSolver 7
    { x with slots := [(1, .resident one)] })

/-- Engine 7 with packets already taken, a seal or none, and one packet to apply. -/
def again (taken : List (Nat × Nat)) (total : Option Nat) (p : Delta) : State :=
  engine { Solver.reset with queue := [(launch, 0)], deltas := [p], seals := [(1, ⟨0xFFFF, taken, total, []⟩)] }

theorem test_delta_packets :
    let s := st { (engine .reset).dev with deltasSent := [⟨0, 1, 0, 7, delta (some 0) 5⟩] }
    let q (p : Delta) : State := engine { Solver.reset with queue := [(launch, 0)], deltas := [p] }
    let taken (t : State) : Option (List (Nat × Nat) × Option Nat) :=
      (SMap.find 1 (t.dev.solver 7).seals).map (fun z => (z.taken, z.total))
    ((engine { Solver.reset with queue := [(launch, 0)] }).dev.solver 7).nextOf 1 = some (launch, 0)
    ∧ launch.tag 0 = 0xFFFF ∧ one.nv = 9
    ∧ ((R (.deltaPacket 7) s).dev.solver 7).deltas = [delta (some 0) 5] ∧ (R (.deltaPacket 7) s).dev.deltasSent = []
    ∧ taken (R (.deltaApply ⟨7, 0⟩) (q (delta none 3))) = some ([], some 3)
    ∧ taken (R (.deltaApply ⟨7, 0⟩) (q (delta (some 8) 5))) = some ([(0, 8)], none)
    ∧ Memory.read (R (.deltaApply ⟨7, 0⟩) (q (delta (some 8) 5))).mem (0x1000 + 64 + 16 + 64) = 5
    ∧ (R (.deltaApply ⟨7, 0⟩) (q (delta (some 9) 5))).dev.fget slvDeltaerrBadpkt 7 = 1
    ∧ keeps (.deltaApply ⟨7, 0⟩) (q { delta none 0 with tag := 0 }) = true
    ∧ ((R (.deltaApply ⟨7, 3⟩) (q (delta (some 8) 5))).dev.unit pSLV 7).ceCnt = 3
    ∧ taken (R (.deltaApply ⟨7, 0⟩) (again [(0, 8)] none (delta (some 8) 5))) = some ([(0, 8), (0, 8)], none)
    ∧ Memory.read (R (.deltaApply ⟨7, 0⟩) (again [(0, 8)] none (delta (some 8) 5))).mem (0x1000 + 64 + 16 + 64 + 6) = 0xF8
    ∧ (R (.deltaApply ⟨7, 0⟩) (again [(0, 7)] (some 1) (delta (some 8) 5))).dev.fget slvDeltaerrBadpkt 7 = 1
    ∧ (R (.deltaApply ⟨7, 0⟩) (again [(0, 7)] none (delta none 0))).dev.fget slvDeltaerrBadpkt 7 = 1
    ∧ (R (.deltaApply ⟨7, 0⟩) (again [] (some 1) (delta none 0))).dev.fget slvDeltaerrDiscarded 7 = 1 := by decide +kernel

theorem test_solver_launch :
    let give (l : Launch) (x : Solver) : State := st { (engine x).dev with launches := [l] }
    let ok := give launch .reset
    let full := give launch { Solver.reset with queue := List.replicate 4 (launch, 0) }
    let bad := give { launch with block := launch.block.set 1 4 } .reset
    (ok.dev.nextLaunch = some launch ∧ ok.dev.launchRefusal launch = none ∧ ok.dev.engineOf launch.si = some (7, 1)
      ∧ bad.dev.launchRefusal { launch with block := launch.block.set 1 4 } = some 1)
    ∧ ((R .solverLaunch ok).dev.solver 7).queue = [(launch, 0)]
    ∧ (R .solverLaunch full).dev.fget slvLastrecRstat 7 = 3 ∧ ((R .solverLaunch full).dev.solver 7).queue.length = 4
    ∧ (R .solverLaunch bad).dev.fget slvLastrecRstat 7 = 1 ∧ (R .solverLaunch bad).dev.fget slvLastrecTag 7 = 0xFFFF := by
  decide +kernel

/-- A running cycle of the launch. -/
def cycle : Cycle := ⟨launch, 0, 30, 40, 2, [], [], 0, 0, 0⟩

theorem test_solver_cycle :
    let w := engine { Solver.reset with queue := [(launch, 0)], seals := [(1, ⟨0xFFFF, [], some 0, []⟩)] }
    let r := engine { Solver.reset with run := some cycle }
    let late := st { r.dev with cad := { Cad.reset with mark := 14 } }
    let missed := st { w.dev with cad := { Cad.reset with mark := 14 } }
    let open_ := engine { Solver.reset with queue := [(launch, 0)] }
    (w.dev.sheetsRun = true ∧ (w.dev.solver 7).sealed 1 0xFFFF = true ∧ reached 12 (launch.startMark 0) = true
      ∧ reached 12 (launch.deadline 0) = false ∧ reached 14 (launch.deadline 0) = true ∧ launch.goal = 1)
    ∧ ((R (.cycleStart 7) w).dev.solver 7).run = some { cycle with
        delta := w.dev.fget slvRegDelta 7, tiny := w.dev.fget slvRegTiny 7, misslim := w.dev.fget slvCycMisslim 7 }
    ∧ ((R (.cycleStart 7) w).dev.solver 7).queue = []
    ∧ ((R (.laneGroupComplete ⟨7, 1, 0⟩) r).dev.solver 7).run = none ∧ (R (.laneGroupComplete ⟨7, 1, 0⟩) r).dev.fget slvCyccntCount 7 = 1
    ∧ (late.dev.solver 7).run = some cycle ∧ beyond 14 (launch.deadline 0) = false ∧ launch.strict = false
    ∧ ((R (.deadlineMark 7) missed).dev.solver 7).queue = [] ∧ (R (.deadlineMark 7) missed).dev.fget slvMisscntCount 7 = 1
    ∧ keeps (.cycleStart 7) open_ = true ∧ keeps (.laneGroupComplete ⟨7, 1, 0⟩) open_ = true
    ∧ keeps (.deadlineMark 7) r = true ∧ keeps .solverLaunch r = true
    ∧ ((R (.laneGroupComplete ⟨7, 9, 2⟩) r).dev.solver 7).busyCc = 9 ∧ ((R (.laneGroupComplete ⟨7, 9, 2⟩) r).dev.unit pSLV 7).ceCnt = 2 := by
  decide +kernel

theorem test_late_groups_of_a_strict_cycle :
    let strict : Launch := { launch with block := launch.block.set 2 2 }
    let r (l : Launch) : State := st { (engine { Solver.reset with run := some { cycle with launch := l } }).dev with cad := { Cad.reset with mark := 15 } }
    (strict.strict = true ∧ strict.replay = false ∧ beyond 15 (strict.deadline 0) = true)
    ∧ ((R (.laneGroupComplete ⟨7, 1, 0⟩) (r strict)).dev.solver 7).run = none
    ∧ (R (.laneGroupComplete ⟨7, 1, 0⟩) (r strict)).dev.fget slvCyccntCount 7 = 1
    ∧ keeps (.laneGroupComplete ⟨7, 1, 0⟩) (r launch) = true := by decide +kernel

/-- `A` = 2 and `b` = 6 in the value vector at +80; 3 comes out at SOLOFF 128 of OUT. -/
theorem test_solver_solves :
    let s : State := { engine { Solver.reset with run := some cycle } with mem := [(0x1057, 0x40), (0x105E, 0x18), (0x105F, 0x40)] }
    (R (.laneGroupComplete ⟨7, 1, 0⟩) s).mem.filter (fun c => decide (0x2080 ≤ c.1)) = [(0x2086, 0x08), (0x2087, 0x40)] := by decide +kernel


/-! ### Stacks -/

/-- A request of DMA 31 of tile 0 on region 5 and stack 0; a read takes its bytes to tile-store address 0. -/
def req (k : ReqKind) (addrs : List Nat) (v m : Nat) : Req :=
  ⟨0, 31, 0, k, 5, addrs, [], v, m, false, [⟨addrs.headD 0 % 64 * 8, 8 * addrs.length, 0⟩]⟩

/-- Stack 0 holds one request; tile 0 has the DMA. -/
def reqState (r : Req) (mem : Mem) : State :=
  { st { on [(pSTK, 0)] (tileAt 0 (dmaTile { dma0 with phase := 1, left := 1 }) dev0) with
      stks := [(0, { Stack.reset with reqs := [r] })] } with
    mem := mem }

/-- The DMA of such a state. -/
def dmaOf (s : State) : Option Dma := SMap.find 31 (s.dev.tile 0).store.dmas

/-- Device addresses 0x1000 to 0x1007. -/
def word8 : List Nat := (List.range 8).map (· + 0x1000)

theorem test_line_accesses :
    let rd := reqState (req .rd word8 0 (2 ^ 64 - 1)) [(0x1001, 7)]
    let wr := reqState (req .wr word8 0x0807060504030201 0xFF0F) [(0x1000, 0xF0), (0x1001, 0xFF)]
    let add := reqState (req .add64 word8 0x4000000000000000 0) [(0x1006, 0xF0), (0x1007, 0x3F)]
    let a32 := reqState (req .add32 (word8.take 4) 0x3F800000 0) []
    (takeReq (rd.dev.otherReqs 0) (rd.dev.stack 0).reqs 0 = some (req .rd word8 0 (2 ^ 64 - 1), []) ∧ word8.Nodup
      ∧ rd.dev.lineBad 0x40 = false ∧ rd.dev.cellsAt 0x1000 = none ∧ (rd.dev.stack 0).hammered = []
      ∧ (dmaOf rd).map (fun q => q.seq) = some 0)
    ∧ ((R (.stackRead 0 0 .clean) rd).dev.tile 0).byte 1 = 7 ∧ (R (.stackRead 0 0 .clean) rd).mem = [(0x1001, 7)]
    ∧ (dmaOf (R (.stackRead 0 0 .clean) rd)).map (fun q => q.left) = some 0
    ∧ ((R (.stackRead 0 0 .clean) rd).dev.stack 0).acts = [(0, 1)]
    ∧ (R (.stackWrite 0 0 .clean) wr).mem = [(0x1000, 0xF1), (0x1001, 2)]
    ∧ (R (.atomicAdd 0 0 .clean) add).mem = [(0x1006, 0x08), (0x1007, 0x40)]
    ∧ (R (.atomicAdd 0 0 .clean) a32).mem = [(0x1002, 0x80), (0x1003, 0x3F)] := by decide +kernel

theorem test_line_accesses_with_poison :
    let there : List Nat := word8.map (· + 0x800)
    let wr := reqState { req .wr word8 9 0xFF with mirrors := there, poison := true } []
    let add := reqState { req .add64 word8 0x4000000000000000 0 with mirrors := there } []
    let bad := st { add.dev with linePoison := [(0x40, 7)] }
    let held := st { add.dev with stks := [(0, { Stack.reset with reqs := [req .rd word8 0 0], hammered := [0] })] }
    let w := R (.stackWrite 0 0 .clean) wr
    let b := R (.atomicAdd 0 0 .clean) bad
    (there.Nodup ∧ bad.dev.lineBad 0x40 = true ∧ bad.dev.lineBad 0x60 = false ∧ (held.dev.stack 0).hammered.contains 0 = true)
    ∧ w.mem = [(0x1000, 9), (0x1800, 9)] ∧ w.dev.lineBad 0x40 = true ∧ w.dev.lineBad 0x60 = true
    ∧ bit (w.dev.unit pSTK 0).err 1 = true ∧ (dmaOf w).map (fun q => q.poison) = some true
    ∧ (R (.atomicAdd 0 0 .clean) add).mem = [(0x1007, 0x40), (0x1807, 0x40)]
    ∧ b.mem = [(0x1807, 0x40)] ∧ b.dev.lineBad 0x40 = true ∧ (dmaOf b).map (fun q => q.poison) = some true
    ∧ ((R (.stackRead 0 0 .clean) held).dev.stack 0).reqs.length = 1 ∧ takeReq [] [] 0 = none := by decide +kernel

/-- The check bytes that the code gives a line make it a codeword: its syndromes are 0. -/
theorem test_line_code :
    let word (data : List Nat) : List (Nat × Nat) := (data ++ rsCheck data).zipIdx.map (fun x => (x.2, x.1))
    rsSyndromes (word ((List.range 64).map (fun i => 7 * i % 256))) = List.replicate 8 0
    ∧ rsSyndromes ((word (List.replicate 64 255)).set 3 (3, 254)) = rsSyndromes [(3, 1)] := by decide +kernel

theorem test_line_errors :
    let s := (reqState (req .rd word8 0 (2 ^ 64 - 1)) []).dev.fset stkEccctlTcorr 0 2
    let three : Ecc := ⟨0, [(0, 1), (1, 1), (2, 1)], false⟩
    let two : Ecc := ⟨0, [(0, 1), (71, 1)], false⟩
    let e := { s with stks := [(0, { (s.stack 0) with cells := [(0x40, ⟨0, [(0, 1), (71, 1)], false, List.replicate 64 0⟩)] })] }
    let t := R (.stackRead 0 0 three) (st s)
    let c := R (.stackRead 0 0 two) (st s)
    let u := R (.stackRead 0 0 .clean) (st e)
    (decodeLine 2 three.errs = .detected ∧ decodeLine 2 two.errs = .corrected 2 [] ∧ stackOf 0x1000 = 0 ∧ lineOf 0x1000 = 0x40
      ∧ errorSymbols ([] ++ two.errs) = two.errs ∧ e.cellsAt 0x1000 = some ⟨0, [(0, 1), (71, 1)], false, List.replicate 64 0⟩)
    ∧ t.dev.lineBad 0x40 = true ∧ bit (t.dev.unit pSTK 0).err 1 = true ∧ t.dev.fget stkUecntCount 0 = 1
    ∧ (t.dev.stack 0).repairDue = [0] ∧ (t.dev.stack 0).hourRows = [0] ∧ (dmaOf t).map (fun q => q.poison) = some true
    ∧ c.dev.fget stkCecntCount 0 = 1 ∧ bit (c.dev.unit pSTK 0).err 0 = true ∧ c.mem = []
    ∧ (c.dev.stack 0).acts = [(0, 2)] ∧ (dmaOf c).map (fun q => q.poison) = some false
    ∧ u.dev.fget stkCecntCount 0 = 1 := by decide +kernel

theorem test_scrubs :
    let d := ((on [(pDOC, 0), (pSTK, 31)] { dev0 with stks := [(31, { Stack.reset with demand := [5], patrol := 2 ^ 30 - 1 })] }).fset
      docCtlPatrolEn 0 1).fset docStatPatrolActive 0 1
    let s : State := { st ((d.fset stkEccctlTcorr 31 2).fset docCtlDemandEn 0 1) with mem := [(31 * stackBytes + 320, 9)] }
    let three : Ecc := ⟨0, [(0, 1), (1, 1), (2, 1)], false⟩
    let t := R (.demandScrub 31 ⟨0, [(0, 1)], false⟩) s
    let u := R (.demandScrub 31 three) s
    let p := R (.patrolScrub 31 .clean) s
    let off := st { s.dev with stks := [(31, { Stack.reset with passed := true })] }
    (s.dev.mayScrub 31 = true ∧ stackLines = 2 ^ 30 ∧ s.dev.fget docCtlPatrolEn 0 = 1 ∧ s.dev.passOver = false
      ∧ (off.dev.stack 31).passed = true ∧ (st dev0).dev.mayScrub 31 = false)
    ∧ (t.dev.stack 31).demand = [5] ∧ t.dev.fget docDemandcntCount 0 = 1 ∧ t.mem = s.mem ∧ t.dev.fget stkCecntCount 31 = 1
    ∧ (u.dev.stack 31).demand = [] ∧ u.dev.lineBad (31 * 2 ^ 30 + 5) = true ∧ u.dev.fget stkUecntCount 31 = 1
    ∧ (p.dev.stack 31).patrol = 0 ∧ (p.dev.stack 31).passed = true
    ∧ (R (.patrolScrub 31 three) s).dev.fget docPatrolueCount 0 = 1
    ∧ (R (.patrolScrub 31 ⟨0, [(0, 1)], false⟩) s).dev.fget docPatrolceCount 0 = 1
    ∧ keeps (.patrolScrub 31 .clean) (st dev0) = true := by decide +kernel

theorem test_stack_health :
    let rows (n : Nat) : Stack := { Stack.reset with hourRows := List.range n, repairDue := [3 * 2 ^ 24 + 7], sparesUsed := [(3, 15)], acts := [(7, 2)] }
    let s := st (((on [(pSTK, 31)] { dev0 with stks := [(31, rows 8)] }).fset glbOpsecSeconds 0 3600).fset stkWearThresh 31 5)
    let full := st { s.dev with stks := [(31, { rows 7 with sparesUsed := [(3, 16)] })] }
    let wear (more : Nat) (wait : Bool) : State := R (.rowWearMitigation 31 ⟨7, more, wait⟩) s
    (s.dev.fget stkStatHealth 31 = 0 ∧ s.dev.fget glbOpsecSeconds 0 / 3600 = 1)
    ∧ ((R (.refresh 31 ⟨9, 7, [], false⟩) s).dev.stack 31).acts = []
    ∧ ((wear 2 false).dev.stack 31).acts = [(7, 4)] ∧ (wear 2 true).dev.fget stkStatThrottle 31 = 0
    ∧ ((wear 3 false).dev.stack 31).acts = [] ∧ (wear 3 false).dev.fget stkWearcntCount 31 = 1
    ∧ ((wear 3 true).dev.stack 31).hammered = [7] ∧ (wear 3 true).dev.fget stkStatThrottle 31 = 1
    ∧ ((R (.rowRepair 31) s).dev.stack 31).sparesUsed = [(3, 16)] ∧ ((R (.rowRepair 31) s).dev.stack 31).repairDue = []
    ∧ (R (.rowRepair 31) full).dev.fget stkStatSpareLow 31 = 1
    ∧ (R (.docBehind 4) s).dev.fget docStatBehind 0 = 0 ∧ (R (.docBehind 5) s).dev.fget docStatBehind 0 = 1
    ∧ (R .operatingHourEnd s).dev.fget stkStatHealth 31 = 2 ∧ (R .operatingHourEnd full).dev.fget stkStatHealth 31 = 0
    ∧ keeps .operatingHourEnd (st { s.dev with hours := 1 }) = true := by decide +kernel

theorem test_stack_lost :
    let d := on [(pSTK, 31)] dev0
    let s := st { d with deckle := { d.deckle with regions := [(5, ⟨.active, true, 2 ^ 31 + 1, 0, 0x10000, 1⟩), (6, ⟨.active, false, 1, 0, 64, 1⟩)] } }
    let t := R (.stackNoAnswer 31) s
    (R (.dramDieLost 31) s).dev.fget stkStatHealth 31 = 2 ∧ ((R (.dramDieLost 31) s).dev.stack 31).lost = true
    ∧ t.dev.fget stkStatHealth 31 = 3 ∧ (t.dev.unit pSTK 31).state = .disabled ∧ (t.dev.unit pSTK 31).reason = 7
    ∧ t.dev.deckle.regions.map (fun e => e.2.state) = [.failed, .active]
    ∧ keeps (.rowRepair 31) s = true
    ∧ keeps (.refresh 31 ⟨0, .clean⟩) (st (d.fset stkStatHealth 31 3)) = true := by decide +kernel


/-! ### Deckle -/

/-- A manifest of one tile with its program in region 5, at device address 0: one stage, 0x70 bytes. -/
def manifestMem : Mem :=
  [(0x00, 0x31), (0x01, 0x4C), (0x02, 0x4B), (0x03, 0x44), (0x04, 1), (0x06, 1), (0x07, 1), (0x08, 1), (0x10, 0x40), (0x14, 0x50),
    (0x18, 0x70), (0x1C, 0x70), (0x20, 0x70), (0x42, 5), (0x44, 1), (0x50, 5), (0x52, 2), (0x55, 0xFF), (0x56, 0xFF),
    (0x57, 0xFF), (0x59, 0x10)]

/-- PLACE of that manifest. -/
def placeCmd : HostCmd := cmd 63 4 ([4] ++ List.replicate 15 0 ++ [0x70] ++ List.replicate 47 0)

/-- PLACE is at the front of ring 63. -/
def toPlace (mem : Mem) : State :=
  { st (front placeCmd (on [(pDKL, 0), (pSTK, 0)] (hbx { dev0 with links := (List.range 10).map (fun i => (i, .up)) }))) with mem := mem }

/-- The manifest checks out and places logical tile 0 at tile 0, with region 5 over stacks 0 to 7. -/
def places (s : State) : Bool :=
  match checkManifest (manField (s.dev.manBytes s.mem (s.dev.winAddr (placeCmd.f 8 8)) 0x70)) 0x70 with
  | .ok mf =>
    match s.dev.takeGrades.computePlacement mf with
    | .ok (pl, table) => decide (pl.tmap = [(0, 0)] ∧ table = [(5, ⟨.active, true, 0xFF, 0, 4096, 0⟩)])
    | .error _ => false
  | .error _ => false

/-- The placement fails with a status. -/
def failsWith (s : State) (n : Nat) : Bool :=
  match checkManifest (manField (s.dev.manBytes s.mem (s.dev.winAddr (placeCmd.f 8 8)) 0x70)) 0x70 with
  | .ok mf =>
    match s.dev.takeGrades.computePlacement mf with
    | .ok _ => false
    | .error st => decide (st = n)
  | .error _ => false

/-- Every tile is out. -/
def tilesOut : SMap Nat := (List.range 68).map (fun p => (p, 2))

theorem test_place :
    let s := toPlace manifestMem
    let out : State := { s with dev := { s.dev with deckle := { s.dev.deckle with health := tilesOut } } }
    let bad := toPlace (manifestMem.erase (0x42, 5))
    (placeCmd.f 16 4 = 0x70 ∧ s.dev.mayStart 63 placeCmd = true ∧ s.dev.cmdRefusal placeCmd = none ∧ s.dev.deckle.placement = none)
    ∧ places s = true ∧ failsWith out 3 = true
    ∧ posted (R (.place 63) bad) = [(9, 0x0A, 1)] ∧ (R (.place 63) bad).dev.fget dklLaststatDetail 0 = 0x42
    ∧ (R (.place 63) bad).dev.deckle.placement = none := by decide +kernel

theorem test_release :
    let c := cmd 63 5 (5 :: List.replicate 63 0)
    let d := region5 .active (place placed (front c (on [(pDKL, 0)] (hbx dev0))))
    let s := st d
    let busy := st (d.setSolver 7 { Solver.reset with queue := [(launch, 0)] })
    (s.dev.mayStart 63 c = true ∧ s.dev.cmdRefusal c = none ∧ s.dev.placedQuiet = true ∧ s.dev.launchQueued = false
      ∧ busy.dev.launchQueued = true)
    ∧ posted (R (.release 63) s) = [(9, 0, 0)] ∧ (R (.release 63) s).dev.deckle.placement = none
    ∧ (R (.release 63) s).dev.deckle.regions = []
    ∧ posted (R (.release 63) busy) = [(9, 0x0A, 2)]
    ∧ posted (R (.release 63) (st { d with deckle := .reset })) = [(9, 3, 0)] := by decide +kernel

/-- Logical tile 0 at physical tile 3, with no program loaded. -/
def oneTile : Placement :=
  { placed with man := ⟨1, 0, [⟨0, true, 5, 1, 0⟩], [⟨5, 2, 0, [0, 255, 255, 255], 4096, 0⟩], [0, 0, 0, 0], []⟩
                order := [0, 1, 2, 3], spares := [(0, [16])], roles := [3], tmap := [(0, 3)] }

/-- Tile 3 has its logical number. -/
def named (d : Dev) : Dev := d.setTile 3 { Tile.reset with core := { Core.reset with ltileValid := true } }

theorem test_tile_remap :
    let d := named (place oneTile (hbx dev0))
    let s := st { bar ⟨2, 1, 7, false, false, [], false, []⟩ d with deckle := { d.deckle with events := [.tile 3] }, stp := { Stp.reset with state := .opened } }
    let t := R .tileRemap s
    let u := R (.remapped []) t
    let none_ := R (.remapped [16]) t
    let role := R .tileRemap (st { d with deckle := { d.deckle with events := [.tile 4] } })
    let busy := st { t.dev with tiles := SMap.put .reset 3 (dmaTile dma0) t.dev.tiles }
    (s.dev.logicalOf 3 = some 0 ∧ (t.dev.tile 3).store.dmas = []
      ∧ t.dev.remapTargets oneTile 3 true = [16] ∧ s.dev.logicalOf 4 = none)
    ∧ t.dev.deckle.remap = some ⟨3, 0⟩ ∧ t.dev.logicalOf 3 = none ∧ t.dev.stp.state = .spoiled ∧ (t.dev.bar 255).broken = true
    ∧ u.dev.deckle.placement.any (fun p => p.tmap == [(0, 16)] && p.roles == [16]) = true ∧ u.dev.fget dklRemapcntTiles 0 = 1
    ∧ u.dev.fget dklLaststatCode 0 = 0x10 ∧ role.dev.deckle.events = [] ∧ (R (.remapped []) busy).dev.deckle = busy.dev.deckle
    ∧ none_.dev.deckle.remapFailed = true ∧ none_.dev.fget dklLaststatCode 0 = 0x11 ∧ none_.dev.phase = .degraded := by
  decide +kernel

/-- A placement whose instance 3 is still to move off a failed engine. -/
def place5 (p : Placement) : State :=
  let d := place p (hbx dev0)
  st { d with deckle := { d.deckle with solverRemap := [3] } }

theorem test_solver_remap :
    let d := place { oneTile with images := [] } (hbx dev0)
    let s := st { d with deckle := { d.deckle with solverRemap := [3] } }
    let out : SMap Nat := (List.range 8).map (fun e => (0x80 + e, 3))
    let bad := R .solverRemap (place5 { oneTile with smap := [(3, (7, 1))], images := [(3, (9, 0))] })
    let none_ := R .solverRemap (st { s.dev with deckle := { s.dev.deckle with health := out } })
    s.dev.placeInstance oneTile.man oneTile.tmap oneTile.order [] 0 (some 7) = some (0, 0)
    ∧ (R .solverRemap s).dev.deckle.placement.any (fun p => p.smap == [(3, (0, 0))]) = true
    ∧ (R .solverRemap s).dev.fget dklLaststatDetail 0 = 0x103
    ∧ none_.dev.deckle.placement.any (fun p => p.smap == []) = true ∧ none_.dev.deckle.remapFailed = true
    ∧ ((place5 placed).dev.loadImage [] 0 0 9 0).2 = none ∧ bad.dev.deckle.remapFailed = true
    ∧ bad.dev.deckle.placement.any (fun p => p.smap == []) = true := by decide +kernel

theorem test_stack_migration :
    let d := region5 .active (place oneTile (hbx dev0))
    let s := st { d with deckle := { d.deckle with events := [.stack 0] } }
    let g := (R .stackMigration s).dev.deckle.migration
    let capped (n : Nat) : State := R .stackMigration (st { d with deckle := { d.deckle with migration := some ⟨0, [], 0, .none, 0, n, .none⟩ } })
    (s.dev.remapRuns = false ∧ s.dev.requestsIn .none false = false)
    ∧ keeps .stackMigration (st { s.dev with deckle := { s.dev.deckle with events := [.stack 0, .tile 3] } }) = true
    ∧ (capped 5).dev.fget dklLaststatCode 0 = 0x13 ∧ (capped 5).dev.fget dklLaststatDetail 0 = 5
    ∧ keeps .stackMigration (R .stackMigration s) = true
    ∧ g.map (fun x => (x.handle, x.target.stks, x.target.gen)) = some (5, 0xFE, 2)
    ∧ ((R .stackMigration s).dev.entry 5).state = .migrating := by decide +kernel

theorem test_migration_copies :
    let e : Region := ⟨.migrating, false, 1, 0x1000, 0x2000, 1⟩
    let n : Region := ⟨.active, false, 2, 0x3000, 0x2000, 2⟩
    let d := on [(pSTK, 0), (pSTK, 1)] (hbx dev0)
    let g : Migration := ⟨0, [], 5, n, 1, 0, .none⟩
    let s (x : Region) : State := { st { d with deckle := { d.deckle with regions := [(5, x)], migration := some g } } with
                       mem := [(0x1001, 7), (0x2FFF, 8)] }
    let gone := R (.migrationCopy 0 .clean) (s { e with state := .failed })
    let lost := st ((s e).dev.fset stkStatHealth 1 3)
    ((s e).dev.entry 5 = e ∧ e.locate 4096 = 0x2000 ∧ n.locate 4096 = 2 ^ 36 + 0x4000 ∧ (s e).dev.stks = []
      ∧ (s e).dev.linePoison = [] ∧ lost.dev.fget stkStatHealth 1 = 3)
    ∧ gone.dev.deckle.migration = some { g with handle := 0, done := 0 }
    ∧ (R (.migrationCopy 0 .clean) lost).mem = lost.mem ∧ keeps (.migrationCopy 0 .clean) (st d) = true := by decide +kernel

theorem test_redraw :
    let d := on [(pDKL, 0)] (region5 .active (place oneTile (hbx dev0)))
    let s := st d
    let r (p : Placement) : State := st { d with deckle := { d.deckle with placement := some p, events := [.redraw 2 false] } }
    let w := st { d with deckle := { d.deckle with events := [.redraw 2 false], remap := some ⟨3, 0⟩ } }
    let big : Placement := { oneTile with man := { oneTile.man with regions := [⟨5, 4, 0, [0, 0, 2, 0], 2 ^ 37, 0⟩] } }
    (s.dev.answers = true ∧ s.dev.blockOpen pDKL 0 = true ∧ s.dev.placedQuiet = true ∧ (d.takeGrades.redrawTable big 2).isNone = true
      ∧ (d.takeGrades.redrawTable oneTile 2).isSome = true ∧ (r oneTile).dev.redrawWaits = false
      ∧ w.dev.redrawWaits = true)
    ∧ (R (.dklRedraw (2 ^ 31 + 2)) s).dev.deckle.events = [.redraw 2 false] ∧ keeps (.dklRedraw 2) s = true
    ∧ keeps (.dklRedraw (2 ^ 31)) (st dev0) = true ∧ keeps .redraw s = true := by decide +kernel


/-! ### Training steps and couch queues -/

/-- STP with step 5 open. -/
def step5 (x : Stp) (d : Dev) : Dev := { d.fset stpStepCur 0 5 with stp := { x with state := .opened } }

theorem test_step_opens :
    let s (k : Nat) : State := st ({ dev0 with stp := { Stp.reset with opens := [(67, k)] } }.fset stpNextStep 0 5)
    let o (k : Nat) : State := st (bar ⟨1, 0, 0, false, false, [], false, []⟩ (step5 { Stp.reset with opens := [(67, k)] } dev0))
    (R (.stepOpenArrival 67) (s 5)).dev.stp.state = .opened ∧ (R (.stepOpenArrival 67) (s 5)).dev.curStep = 5
    ∧ (R (.stepOpenArrival 67) (s 6)).dev.stp.cause = 7 ∧ (R (.stepOpenArrival 67) (s 6)).dev.stp.causeParam = 6
    ∧ (R (.stepOpenArrival 67) (o 6)).dev.stp.state = .spoiled ∧ ((R (.stepOpenArrival 67) (o 6)).dev.bar 255).broken = true
    ∧ (R (.stepOpenArrival 67) (o 5)).dev.stp.state = .opened ∧ (R (.stepOpenArrival 67) (o 5)).dev.stp.opens = [] := by
  decide +kernel

/-- Tile 3, logical 0, in STEP.COMMIT of step 5. -/
def committer (x : CommitWait) : Tile :=
  { Tile.reset with core := { Core.reset with ltileValid := true, stallSeq := 4 }
                    store := { Store.reset with openStep := some 5, commit := x } }

theorem test_step_commits :
    let s := st (step5 .reset (tileAt 3 (committer (.waiting 5)) dev0))
    let w := st { s.dev with posts := [⟨3, 2, 0, 2, none⟩] }
    let c := st ((step5 { Stp.reset with waiting := [3] } (tileAt 3 (committer (.sent 5)) dev0)).fset stpNextStep 0 5)
    (s.dev.fenceDone 3 4 = true ∧ w.dev.fenceDone 3 4 = false ∧ s.dev.logicalOf 3 = some 0 ∧ c.dev.mayCommit = true
      ∧ c.dev.ledgerOn = false ∧ c.dev.fget stpRecregHandle 0 = 0 ∧ c.dev.fget stpCmtgrpEn 0 = 0)
    ∧ (R (.stepCommitArrival 3) s).dev.stp.arrived = [0]
    ∧ ((R (.stepCommitArrival 3) s).dev.tile 3).store.commit = .sent 5 ∧ keeps (.stepCommitArrival 3) w = true
    ∧ (R .committing c).dev.stp.state = .idle ∧ (R .committing c).dev.fget stpBankSel 0 = 1
    ∧ (R .committing c).dev.fget stpNextStep 0 = 6 ∧ ((R .committing c).dev.tile 3).store.commit = .released 0
    ∧ keeps .committing (st dev0) = true := by decide +kernel

theorem test_step_spoils :
    let d := (on [(pSTP, 0)] (step5 { Stp.reset with arrived := [0] } dev0)).fset stpCmttmoMs 0 9
    let s := st (d.fset stpPartLoPart 0 7)
    let p := st { s.dev with stp := { s.dev.stp with state := .spoiled, couch := [(63, { Couch.reset with state := .active, pushed := 4 })] } }
    let idle := st (on [(pSTP, 0)] dev0)
    (s.dev.answers = true ∧ s.dev.blockOpen pSTP 0 = true ∧ s.dev.stp.arrived ≠ []
      ∧ p.dev.participants.all p.dev.quietParticipant = true ∧ p.dev.remapping = false)
    ∧ (R .cmttmoExpiry s).dev.stp.cause = 6 ∧ (R .cmttmoExpiry s).dev.stp.causeParam = 2 ∧ keeps .cmttmoExpiry idle = true
    ∧ (R (.spoil 1) s).dev.stp.cause = 1 ∧ keeps (.spoil 1) idle = true
    ∧ (R (.ack 2) p).dev.stp.state = .idle ∧ ((R (.ack 2) p).dev.couch 63).pushed = 0 ∧ keeps (.ack 2) idle = true := by
  decide +kernel

theorem test_step_without_its_vote :
    let d := step5 { Stp.reset with waiting := [3], arrived := [0] } (tileAt 3 (committer (.sent 5)) dev0)
    let g := st (d.fset stpCmtgrpEn 0 1)
    (g.dev.mayCommit = true ∧ g.dev.active pCOL 0 = false ∧ (d.fset stpCmttmoMs 0 9).mayCommit = true)
    ∧ (R .committing g).dev.stp.state = .spoiled ∧ (R .committing g).dev.stp.cause = 4
    ∧ keeps .cmttmoExpiry (st (d.fset stpCmttmoMs 0 9)) = true := by decide +kernel

/-- A POST value to STP. -/
def stpPost (c q tag : Nat) : Nat := c * 2 ^ 60 + q * 2 ^ 52 + tag * 2 ^ 32

/-- Tile 67 has posted a value while step 5 is open; couch queue 63 has one slot. -/
def couch63 (x : Couch) (v : Nat) : State :=
  st { step5 { Stp.reset with couch := [(63, { x with state := .active })] } dev0 with posts := [⟨67, 2, v, 0, some 5⟩] }

theorem test_couch_queue_posts :
    let push := couch63 .reset (stpPost 1 63 0xABCD)
    let full := couch63 { Couch.reset with pushed := 1 } (stpPost 1 63 9)
    let pop := couch63 { Couch.reset with pushed := 1, tags := [(0, 9)] } (stpPost 2 63 9)
    let phase := st (((couch63 .reset (stpPost 3 0 0 + 2)).dev).fset stpPhasebarEn 0 1)
    let bad := couch63 .reset (stpPost 0 0 0)
    (push.dev.stpPostIs 1 (stpPost 1 63 0xABCD) = true ∧ push.dev.cqSlots 63 = 1 ∧ pop.dev.stpPostIs 2 (stpPost 2 63 9) = true
      ∧ phase.dev.stpPostIs 3 (stpPost 3 0 0 + 2) = true ∧ bad.dev.stpPostBad 0 = true)
    ∧ ((R (.cqPush 67) push).dev.couch 63).pushed = 1 ∧ SMap.get 0 0 ((R (.cqPush 67) push).dev.couch 63).tags = 0xABCD
    ∧ SMap.get 0 2 ((R (.cqPush 67) push).dev.tile 67).store.creditOwed = 1 ∧ (R (.cqPush 67) push).dev.posts = []
    ∧ ((R (.cqPush 67) full).dev.couch 63).err = 1 ∧ (R (.cqPush 67) full).dev.stp.causeParam = 63
    ∧ ((R (.cqPop 67) pop).dev.couch 63).popped = 1
    ∧ ((R (.cqPop 67) (couch63 .reset (stpPost 2 63 9))).dev.couch 63).err = 3
    ∧ (R (.phase 67) phase).dev.stp.phaseLayout = some 2
    ∧ (R (.badPost 67) bad).dev.fget stpBadpostCount 0 = 1 ∧ (R (.badPost 67) bad).dev.stp.causeParam = 0xFFFFFFFF := by
  decide +kernel

/-- Region 5 as couch memory. -/
def couchPlace : Placement := { placed with man := { placed.man with regions := [⟨5, 3, 0, [0, 255, 255, 255], 0x10000, 0⟩] } }

theorem test_couch_enable :
    let d := on [(pSTP, 0), (pSTK, 0)] (region5 .active (place couchPlace ((dev0.fset stpCqselQueue 0 63).fset stpCqregRegion 63 5)))
    let s := st d
    (s.dev.answers = true ∧ s.dev.blockOpen pSTP 0 = true ∧ s.dev.fget stpCqcfgEn 63 = 0
      ∧ s.dev.plainRegion 5 (4096 + (2 + 1) * (5 * 4096)) = true ∧ s.dev.plainRegion 5 (4096 + 256 * 4096) = false)
    ∧ ((R (.cqEnable (1 + 255 * 2 ^ 8 + 2 ^ 16)) s).dev.couch 63).err = 6
    ∧ (R (.cqEnable (1 + 255 * 2 ^ 8 + 2 ^ 16)) s).dev.fget stpCqcfgEn 63 = 0
    ∧ keeps (.cqEnable 0x10001) (st (step5 .reset d)) = true := by decide +kernel

/-- Channel 4095 of engine 5, open with the peer of `pkt`. -/
def chan5 : Channel := { Channel.reset with state := .opened, peerId := 5, peerChan := 7 }

/-- Engine 5 has the channel and a packet delivered. -/
def withChan (x : Channel) (l : List Packet) (d : Dev) : Dev :=
  { d with brezin := { d.brezin with chans := [(5 * 4096 + 4095, x)], inbox := if l.isEmpty then [] else [(5, l)] } }

/-- Couch queue 63 is ACTIVE of a kind, over channel 4095, with step 5 open. -/
def remote (kind : Nat) (x : Couch) (p : List Packet) : State :=
  let d := (step5 { Stp.reset with couch := [(63, { x with state := .active })] } (on [(pBZE, 5), (pSTK, 0)] dev0)).fset stpCqcfgKind 63 kind
  st (withChan chan5 p (region5 .active (place couchPlace (((d.fset stpCqregChannel 63 4095).fset stpCqregRegion 63 5).fset stpCqcfgSlot4k 63 1))))

theorem test_remote_couch_queues :
    let data := { pkt 0x18 4095 0 (63 + 4096 * 2 ^ 16) with payload := [1, 2], len := 2 }
    let n (op step : Nat) : Packet := pkt op 4095 0 (63 + 9 * 2 ^ 16 + step * 2 ^ 32)
    let s := remote 2 .reset [data]
    let a := remote 1 { Couch.reset with pushed := 1, copies := [(0, 9)] } []
    (s.dev.engineDown 5 = false ∧ (s.dev.chan 5 4095).pairs data = true ∧ s.dev.cqTakes 63 4095 2 = true
      ∧ s.dev.noticeNow (n 0x19 5) = true ∧ s.dev.noticeNow (n 0x19 6) = false ∧ s.dev.cqTakes 63 4095 1 = false
      ∧ (s.dev.writeRegion 5 4096 [1, 2] false).isSome = true ∧ a.dev.holder 4095 = some 5)
    ∧ (R (.cqData ⟨5, true⟩) s).mem = [(0x2000, 1), (0x2001, 2)] ∧ ((R (.cqData ⟨5, true⟩) s).dev.chan 5 4095).rxSeq = 1
    ∧ ((R (.cqPushn 5) (remote 2 .reset [n 0x19 5])).dev.couch 63).pushed = 1
    ∧ (R (.cqPushn 5) (remote 2 .reset [n 0x19 6])).dev.fget stpCqerrcntCount 0 = 1
    ∧ (R (.cqPushn 5) (remote 1 .reset [n 0x19 5])).dev.fget bzeRefusecntSent 5 = 1
    ∧ ((R (.cqPopn 5) (remote 1 { Couch.reset with pushed := 1 } [n 0x1A 5])).dev.couch 63).popped = 1
    ∧ ((R (.cqSlotAcknowledged 63) a).dev.chan 5 4095).queue.map (fun x => (x.1.op, x.1.arg)) = [(0x19, 9 * 2 ^ 16 + 5 * 2 ^ 32)]
    ∧ keeps (.cqSlotAcknowledged 63) s = true := by decide +kernel

theorem test_remote_refusals :
    let data := { pkt 0x18 4095 0 (63 + 4096 * 2 ^ 16) with payload := [1, 2], len := 2 }
    let s := remote 2 .reset [data]
    let pop := remote 2 .reset [pkt 0x1A 4095 0 63]
    (s.dev.phase ≠ .computeReset ∧ pop.dev.cqTakes 63 4095 1 = false)
    ∧ (R (.cqData ⟨5, false⟩) s).mem = [] ∧ (R (.cqData ⟨5, false⟩) s).dev.fget bzeRefusecntSent 5 = 1
    ∧ ((R (.cqData ⟨5, false⟩) s).dev.chan 5 4095).rxSeq = 1
    ∧ (R (.cqPopn 5) pop).dev.fget bzeRefusecntSent 5 = 1 := by decide +kernel

/-- The broke ledger in region 7 with one slot of 4 KiB, its banks on stack 0. -/
def ledger (x : Stp) : State :=
  let pl := { placed with man := { placed.man with regions := [⟨7, 1, 0, [0, 255, 255, 255], 0x2000, 0⟩] } }
  let d := step5 x (place pl (on [(pSTK, 0)] dev0))
  let d := ((d.fset stpBrokeregEn 0 1).fset stpBrokeregHandle 0 7).fset stpBrokeregSlot4k 0 1
  st { d with deckle := { d.deckle with
    regions := [(7, ⟨.active, false, 1, 0, 0x2000, 1⟩), (0x807, ⟨.active, false, 1, 0x2000, 0x2000, 1⟩)] } }

/-- A late contribution of step 4. -/
def late : Late := ⟨1, 2, 3, 4, 0, [5, 6], 7⟩

theorem test_broke_ledger :
    let s := ledger { Stp.reset with late := [late] }
    (s.dev.ledgerOn = true ∧ s.dev.ledgerCap = 1 ∧ s.dev.slotBytes = 4096 ∧ s.dev.liveSlots s.mem true = []
      ∧ staleness (s.dev.nextFold 4) 4 = 1 ∧ s.dev.fget colBrokeMaxage 0 = 2)
    ∧ (R (.lateContribution false) s).dev.fget stpLedgerdropFull 0 = 1 ∧ (R (.lateContribution false) s).dev.stp.late = []
    ∧ keeps .ledgerCopy s = true
    ∧ (R (.lateContribution true) s).dev.stp.lateIn = 1 := by decide +kernel

theorem test_ledger_waits :
    let s := ledger { Stp.reset with late := [late], copyPending := true }
    (s.dev.liveStep.isSome = true ∧ s.dev.stp.copyPending = true)
    ∧ keeps (.lateContribution true) s = true ∧ (R (.lateContribution true) s).dev.stp.late = [late] := by decide +kernel

/-- Every access within a bank of that ledger is answered, whose copy is due. -/
theorem test_ledger_answers (b : Bool) (o n : Nat) (h : o + n ≤ 8192) :
    let s := ledger { Stp.reset with copyPending := true }
    (s.dev.readRegion s.mem (s.dev.ledgerName b) o n).isSome = true := by
  have e : ∀ b : Bool, (ledger { Stp.reset with copyPending := true }).dev.entry
      ((ledger { Stp.reset with copyPending := true }).dev.resolve ((ledger { Stp.reset with copyPending := true }).dev.ledgerName b))
      = ⟨.active, false, 1, if b then 0x2000 else 0, 0x2000, 1⟩ := by decide +kernel
  have r : ∀ b : Bool, ((ledger { Stp.reset with copyPending := true }).dev.resolve
      ((ledger { Stp.reset with copyPending := true }).dev.ledgerName b)) = if b then 0x807 else 7 := by decide +kernel
  have u : (ledger { Stp.reset with copyPending := true }).dev.stackUp 0 = true := by decide +kernel
  have z : setBits 32 1 = [0] := by decide +kernel
  refine Dev.readRegion_isSome ?_ fun a ha => ?_
  · have h2 := r b
    have h1 := e b
    rw [h2] at h1
    rw [h2]
    unfold Dev.checkEntry
    rw [h1]
    cases b <;> simp <;> omega
  · rw [e]
    have h3 : stackOf (Region.locate ⟨.active, false, 1, if b then 0x2000 else 0, 0x2000, 1⟩ a) = 0 := by
      cases b <;> simp [Region.locate, z, stackOf, stackBytes] <;> omega
    rw [h3]
    exact u


/-! ### Brezin -/

/-- The check value of the CRC that R328 names, over the characters 1 to 9. -/
theorem test_crc32 : crc32 [0x31, 0x32, 0x33, 0x34, 0x35, 0x36, 0x37, 0x38, 0x39] = 0xCBF43926 := by decide +kernel

/-- Port 17 in a state, ACTIVE. -/
def port17 (x : Port) : Dev := on [(pBZP, 17)] ((dev0.setPort 17 x).fset bzeDevidId 0 0)

theorem test_port_trains :
    let t := st (port17 { Port.reset with state := .training })
    let r := st (port17 { Port.reset with state := .retraining, txSeq := 9, rxSeq := 8 })
    let u := R (.portTraining 17 15 0xFFFFE 31 0) t
    let f := R (.portTraining 17 0 0 0 0) t
    (laneSet (t.dev.fget bzpCtlMaxwidth 17) 15 = some (3, 15) ∧ laneSet 2 0 = none ∧ laneSet 2 6 = some (1, 2))
    ∧ (u.dev.port 17).state = .up ∧ (u.dev.port 17).width = 3 ∧ (u.dev.port 17).peerId = 0xFFFFE
    ∧ (u.dev.port 17).credit = [64, 256, 256, 64]
    ∧ ((R (.portTraining 17 15 0 0 8) r).dev.port 17).txSeq = 9
    ∧ (f.dev.port 17).state = .retryWait ∧ f.dev.fget bzpTraincntFail 17 = 1
    ∧ ((R (.retryIntervalExpiry 17) f).dev.port 17).state = .training ∧ keeps (.retryIntervalExpiry 17) t = true := by
  decide +kernel

theorem test_port_host :
    let o := st (port17 .reset)
    let u := st (port17 { Port.reset with state := .up, width := 3, fecUnc := 15, replay := [⟨0, 1, pkt 1 0 0 0, 0⟩] })
    let w := st (port17 { Port.reset with state := .retryWait })
    (o.dev.answers = true ∧ o.dev.blockOpen pBZP 17 = true ∧ o.dev.active pBZP 17 = true)
    ∧ ((R (.trainEn 17 1) o).dev.port 17).state = .training ∧ ((R (.trainEn 17 0) u).dev.port 17).state = .off
    ∧ ((R (.retrain 17 3) u).dev.port 17).state = .retraining ∧ ((R (.retrain 17 3) w).dev.port 17).state = .training
    ∧ ((R (.laneAlignmentLost 17) u).dev.port 17).state = .retraining ∧ ((R (.lltmoExpiry 17) u).dev.port 17).resend = 1
    ∧ ((R (.fecUncorrectable 17 false) u).dev.port 17).state = .retraining
    ∧ ((R (.fecUncorrectable 17 true) u).dev.port 17).state = .up
    ∧ keeps (.laneAlignmentLost 17) o = true ∧ keeps (.lltmoExpiry 17) o = true := by decide +kernel

theorem test_frames :
    let u := st (port17 { Port.reset with state := .up, credit := fullCredit, replay := [⟨7, 1, pkt 1 0 0 0, 0⟩] })
    let good := frameBytes (linkHeader 1 2 0 7 false [0, 0, 0, 0]) (packetBytes (pkt 1 9 0 0))
    let ahead := frameBytes (linkHeader 1 2 1 7 false [0, 0, 0, 0]) (packetBytes (pkt 1 9 0 0))
    let ack := frameBytes (linkHeader 0 0 0 7 false [0, 0, 0, 0]) []
    let a := R (.dataFrame 17 ⟨good, 0⟩) u
    (frameGood good = true ∧ frameGood (good.set 3 1) = false ∧ packetOf ((good.drop 8).take 24) = pkt 1 9 0 0
      ∧ packetOk 2 (pkt 1 9 0 0) = true ∧ u.dev.devId = 0 ∧ u.dev.hasId = true ∧ ack.length = 16)
    ∧ (a.dev.port 17).rxSeq = 0 ∧ SMap.get [] 5 a.dev.brezin.inbox = [pkt 1 9 0 0] ∧ (a.dev.port 17).replay = []
    ∧ ((R (.dataFrame 17 ⟨ahead, 0⟩) u).dev.port 17).nak = true ∧ ((R (.dataFrame 17 ⟨(good.set 3 1), 0⟩) u).dev.port 17).nak = true
    ∧ ((R (.lcf 17 ⟨ack, 0⟩) u).dev.port 17).replay = [] ∧ keeps (.lcf 17 ⟨good, 0⟩) u = true := by decide +kernel

theorem test_frame_transmit :
    let g : Egress := ⟨0, pkt 3 0 0 0, none⟩
    let idle := st (port17 { Port.reset with state := .up, owed := [0, 300, 0, 0], nak := true })
    let one := st (port17 { Port.reset with state := .up, credit := [1, 0, 0, 0], queue := [g] })
    let t := R (.frameTransmit 17 true) one
    ((R (.frameTransmit 17 false) idle).dev.port 17).owed = [0, 45, 0, 0]
    ∧ ((R (.frameTransmit 17 false) idle).dev.port 17).wire.take 8 = toLE 8 (linkHeader 0 0 0 4095 true [0, 255, 0, 0])
    ∧ (t.dev.port 17).queue = [] ∧ (t.dev.port 17).txSeq = 1 ∧ (t.dev.port 17).credit = [0, 0, 0, 0]
    ∧ (t.dev.port 17).replay = [⟨0, 0, pkt 3 0 0 0, 0⟩] := by decide +kernel

/-- Port 17, up, is the way to device 5. -/
def way (x : Port) : Dev := ((port17 { x with state := .up }).fset bzeRtentValid 1029 1).fset bzeRtentPorts 1029 (2 ^ 17)

theorem test_transit :
    let f (ttl dst : Nat) : List Nat :=
      frameBytes (linkHeader 1 2 0 7 false [0, 0, 0, 0]) (packetBytes { pkt 1 9 0 0 with dst := dst, flags := ttl })
    let u := st (way { Port.reset with state := .up })
    (u.dev.route 5 5 9 = .port 17 ∧ u.dev.route 6 5 9 = .nowhere)
    ∧ ((R (.dataFrame 17 ⟨(f 4 5), 3⟩) u).dev.port 17).queue = [⟨2, { pkt 1 9 0 0 with dst := 5, flags := 3 }, some 17⟩]
    ∧ (R (.dataFrame 17 ⟨(f 4 5), 3⟩) u).dev.fget bzpFeccorrCount 17 = 3
    ∧ (R (.dataFrame 17 ⟨(f 0 5), 0⟩) u).dev.fget bzpTtldropTtl 17 = 1
    ∧ (R (.dataFrame 17 ⟨(f 4 6), 0⟩) u).dev.fget bzpTtldropNoroute 17 = 1 := by decide +kernel

theorem test_replays :
    let u (n : Nat) : State := st (port17 { Port.reset with state := .up, replay := [⟨7, 1, pkt 1 0 0 0, n⟩], resend := 1 })
    let t := R (.frameTransmit 17 true) (u 7)
    (t.dev.port 17).state = .retraining ∧ (t.dev.port 17).resend = 0 ∧ t.dev.fget bzpReplaycntCount 17 = 1
    ∧ ((R (.frameTransmit 17 true) (u 6)).dev.port 17).state = .up
    ∧ ((R (.frameTransmit 17 true) (u 8)).dev.port 17).state = .up
    ∧ keeps (.frameTransmit 17 true) (st (port17 .reset)) = true := by decide +kernel

/-- Engine 5 of device 1 is ACTIVE with channel 4095. -/
def bze (x : Channel) (l : List Packet) : Dev :=
  withChan x l (((on [(pBZE, 5)] dev0).fset bzeDevidId 0 1).fset bzeChselChannel 5 4095)

/-- Channel 4095 of engine 5. -/
def ch (s : State) : Channel := s.dev.chan 5 4095

theorem test_channel_enable :
    let c : Channel := { Channel.reset with peer := 5 }
    let s := st (bze c [])
    let v := 1 + 3 * 2 + 7 * 16
    (s.dev.answers = true ∧ s.dev.blockOpen pBZE 5 = true ∧ s.dev.fget bzeChselChannel 5 = 4095 ∧ s.dev.inUse 5 = 0
      ∧ s.dev.hasId = true ∧ s.dev.mirrorable (bits v 16 12) = true)
    ∧ (ch (R (.chcfgEn 5 v) s)).state = .opening ∧ (ch (R (.chcfgEn 5 v) s)).peerChan = 7 ∧ (ch (R (.chcfgEn 5 v) s)).vl = 3
    ∧ (ch (R (.chcfgEn 5 v) (st (s.dev.fset bzeDevidId 0 0xFFFFF)))).cause = 8
    ∧ (ch (R (.chcfgEn 5 0) (st (bze chan5 [])))).state = .closing := by decide +kernel

theorem test_channel_states :
    let o := st (bze { chan5 with state := .opening } [])
    let c := st (bze { chan5 with state := .closing } [])
    let p (op arg : Nat) (x : Channel) : State := st (bze x [pkt op 4095 0 arg])
    let down := st { bze { chan5 with state := .opening } [pkt 5 4095 0 2] with units := [] }
    (ch o).pairs (pkt 5 4095 0 2) = true ∧ (ch o).vl = 2 ∧ down.dev.engineDown 5 = true
    ∧ ch (R (.chOpenRetry 5 4095) o) = ch o
    ∧ (ch (R (.opentmoExpiry 5 4095) o)).state = .failed ∧ keeps (.opentmoExpiry 5 4095) c = true
    ∧ (ch (R (.closingExpiry 5 4095 false) c)).state = .closed
    ∧ (ch (R (.chOpen 5) (p 5 2 (ch o)))).state = .opened ∧ down.dev.fget bzeRefusecntSent 5 = 0
    ∧ ch (R (.chOpen 5) down) = ch o
    ∧ (ch (R (.chOpenack 5) (p 6 0 (ch o)))).state = .opened
    ∧ (ch (R (.chClose 5) (p 7 0 chan5))).cause = 4 := by decide +kernel

theorem test_channel_refusals :
    let v := 1 + 3 * 2 + 7 * 16
    let s := st (bze { Channel.reset with peer := 5 } [])
    let used := st (s.dev.setChan 4 4095 chan5)
    let o := { chan5 with state := .opening }
    let lane := st (bze o [pkt 5 4095 0 3])
    (used.dev.holder 4095 = some 4 ∧ s.dev.mirrorable 9 = false ∧ s.dev.inUse 5 < 1024)
    ∧ (ch (R (.chcfgEn 5 v) used)).cause = 6 ∧ bit (ch (R (.chcfgEn 5 v) used)).cfg 0 = false
    ∧ (ch (R (.chcfgEn 5 (v + 9 * 2 ^ 16)) s)).cause = 9 ∧ (ch (R (.chcfgEn 5 (v + 9 * 2 ^ 16)) s)).state = .closed
    ∧ (ch (R (.chOpen 5) lane)).state = .opening ∧ (R (.chOpen 5) lane).dev.fget bzeRefusecntSent 5 = 1 := by decide +kernel

theorem test_channel_packets :
    let x := { chan5 with lreg := 5 }
    let d (p : Packet) : Dev := region5 .active (on [(pSTK, 0)] (bze x [p]))
    let w := { pkt 1 4095 0 0xFFFE with payload := [1, 2], len := 2 }
    let a := { pkt 2 4095 0 (2 ^ 48 + 8) with payload := toLE 8 0x3FF0000000000000, len := 8 }
    let s := st (d w)
    (s.dev.engineDown 5 = false ∧ (s.dev.writeRegion 5 0xFFFE [1, 2] false).isSome = true
      ∧ (s.dev.writeRegion 5 0xFFFF [1, 2] false).isNone = true ∧ bits (2 ^ 48 + 8) 48 8 = 1
      ∧ ((st (d a)).dev.readRegion [] 5 8 8).isSome = true)
    ∧ (R (.write 5) s).mem = [(0x10FFE, 1), (0x10FFF, 2)] ∧ (ch (R (.write 5) s)).rxSeq = 1
    ∧ (R (.write 5) (st (d { w with arg := 0xFFFF }))).mem = [] ∧ (ch (R (.write 5) (st (d { w with arg := 0xFFFF })))).rxSeq = 1
    ∧ (R (.write 5) (st (d { w with seq := 65535 }))).dev.fget bzeDupcntCount 5 = 1
    ∧ (R (.addPacket 5) (st (d a))).mem = [(0x100E, 0xF0), (0x100F, 0x3F)] := by decide +kernel

theorem test_refused_packets :
    let w := { pkt 1 4095 0 0 with payload := [1, 2], len := 2 }
    let r := st { bze chan5 [w] with phase := .computeReset }
    let down := st { bze chan5 [w] with units := [] }
    let n := st { bze { chan5 with state := .closed } [w] with phase := .computeReset }
    down.dev.engineDown 5 = true
    ∧ (R (.write 5) r).dev.fget bzeRefusecntSent 5 = 1 ∧ (ch (R (.write 5) r)).rxSeq = 1 ∧ (R (.write 5) r).mem = []
    ∧ (ch (R (.write 5) down)).rxSeq = 1 ∧ (R (.write 5) n).dev.fget bzeRefusecntSent 5 = 1 := by decide +kernel

/-- A packet of tile 3 with a SEQ. -/
def own (seq : Nat) : Packet × Owner := ({ pkt 1 7 seq 0 with dst := 5, src := 1, schan := 4095 }, .tile 3 0)

theorem test_channel_control :
    let x := { chan5 with unacked := [own 65535, own 0], txSeq := 1 }
    let p (op arg : Nat) : State := st (bze x [pkt op 4095 0 arg])
    (ch (R (.ackPacket 5) (p 3 65535))).unacked = [own 0]
    ∧ (ch (R (.refuse 5) (p 4 (2 * 2 ^ 16)))).cause = 2 ∧ (ch (R (.refuse 5) (p 4 (5 * 2 ^ 16)))).cause = 4
    ∧ (R (.refuse 5) (p 4 (2 * 2 ^ 16))).dev.fget bzeRefusecntRcvd 5 = 1
    ∧ (ch (R (.stopPacket 5) (p 8 0))).stopped = true
    ∧ (ch (R (.resumePacket 5) (st (bze { x with stopped := true } [pkt 9 4095 0 0])))).stopped = false
    ∧ (ch (R (.ackTimer 5 4095) (st (bze { x with ackOwed := 3 } [])))).ackOwed = 0 ∧ keeps (.ackTimer 5 4095) (p 3 0) = true := by
  decide +kernel

theorem test_acknowledged_and_reset :
    let x := { chan5 with unacked := [own 65535, own 0], txSeq := 1 }
    let p (op arg : Nat) : State := st (bze x [pkt op 4095 0 arg])
    (ch (R (.ackPacket 5) (p 3 0))).unacked = []
    ∧ (ch (R (.refuse 5) (p 4 (2 ^ 16)))).unacked = [own 65535] ∧ (ch (R (.refuse 5) (p 4 (2 ^ 16)))).resetting = true := by
  decide +kernel

theorem test_mirrored_write :
    let w := { pkt 1 0 0 0x40 with payload := [9], len := 1 }
    let m := st ((bze { chan5 with txSeq := 65535 } []).setTile 67 (dmaTile { dma0 with mirror := [(5 * 4096 + 4095, w)] }))
    let t := R (.mirroredWrite 67 31) m
    (m.dev.active pBZE 5 = true ∧ chanKey 5 4095 = 5 * 4096 + 4095 ∧ m.dev.bufferUse 5 + 24 + 1 ≤ engineBuffer)
    ∧ (ch t).queue.map (fun x => (x.1.seq, x.1.arg, x.1.payload, x.1.dst, x.1.dchan)) = [(65535, 0x40, [9], 5, 7)]
    ∧ (ch t).txSeq = 0 ∧ (SMap.find 31 (t.dev.tile 67).store.dmas).map (fun q => q.mirror) = some [] := by decide +kernel

theorem test_mirror_waits :
    let w := { pkt 1 0 0 0x40 with payload := [9], len := 1 }
    let m (x : Channel) : State := st ((bze x []).setTile 67 (dmaTile { dma0 with mirror := [(5 * 4096 + 4095, w)] }))
    let down := st { (m chan5).dev with units := [] }
    let off (t : State) := (SMap.find 31 (t.dev.tile 67).store.dmas).map (fun q => (q.mirror, q.status))
    down.dev.active pBZE 5 = false
    ∧ off (R (.mirroredWrite 67 31) down) = some ([], 3) ∧ off (R (.mirroredWrite 67 31) (m { chan5 with state := .closing })) = some ([], 0)
    := by decide +kernel

theorem test_slices :
    let d (x : Channel) : State := st (withChan x [] ((on [(pBZE, 5)] (way .reset)).fset bzeDevidId 0 1))
    let q := d { chan5 with queue := [own 0], txSeq := 1 }
    let a := d { chan5 with unacked := [own 0], again := 1, txSeq := 1 }
    let sent := [(⟨2, { (own 0).1 with flags := 16 }, none⟩ : Egress)]
    (q.dev.route 5 1 7 = .port 17 ∧ q.dev.fget bzeTtlInit 0 = 16)
    ∧ ((R (.slice 5 2 17) q).dev.port 17).queue = sent ∧ ((R (.slice 5 2 17) a).dev.port 17).queue = sent
    ∧ (ch (R (.slice 5 2 17) a)).again = 0 := by decide +kernel

theorem test_channel_sends :
    let s := st (bze { chan5 with queue := [own 0], txSeq := 1 } [])
    let r (n : Nat) : State := st (bze { chan5 with unacked := [own 0], txSeq := 1, timeouts := n } [])
    ((s.dev.route 5 1 7).place = 18 ∧ s.dev.fget bzeChselChannel 5 = 4095)
    ∧ (ch (R (.slice 5 2 18) s)).unacked = [own 0] ∧ keeps (.slice 5 2 18) (st dev0) = true
    ∧ (ch (R (.chrtoExpiry 5 4095) (r 2))).again = 1 ∧ (R (.chrtoExpiry 5 4095) (r 2)).dev.fget bzeRetxcntCount 5 = 1
    ∧ (ch (R (.chrtoExpiry 5 4095) (r 3))).cause = 3
    ∧ (ch (R (.chflush 5 1) (st (bze chan5 [])))).flushed = true ∧ (ch (R (.chflush 5 1) s)).flushTo = some 0 := by decide +kernel


/-! ### Collectives -/

/-- A descriptor: OP and FLAGS, COLID 77, FANOUT 2, one tree, NPOST 2. -/
def rawDesc (op flags : Nat) : List Nat :=
  [op, flags, 0, 0, 0, 0, 2, 1, 77, 0, 0, 0] ++ List.replicate 29 0 ++ [2] ++ List.replicate 86 0

/-- An instance of descriptor 1023 in a group of three, whose rank 0 is behind channel 4095. -/
def inst (op flags rank : Nat) : Inst :=
  { desc := 1023, raw := rawDesc op flags, group := 0, n := 3, rank := rank, gtag := 9, members := [⟨5, 4095⟩, ⟨5, 4095⟩, ⟨8, 0xFFF⟩]
    step := none, start := 0, ready := [], inc := [], got := [], sent := [], done := [], stats := [], excl := []
    softDone := false, maps := [], mapsSent := false, votes := [], voted := false, abort := none, abortSeen := false
    foldsTaken := false, folds := [], moves := [], movesBegun := false, inMoves := [], written := [], belled := [] }

/-- COL is ACTIVE with one instance, and engine 5 has a packet for it. -/
def col (i : Inst) (l : List Packet) : State :=
  st (withChan chan5 l { on [(pBZE, 5), (pCOL, 0)] (hbx dev0) with col := { Col.reset with insts := [i] } })

/-- The header of a control packet: GTAG 9, COLID 77, no step, sender, KIND and TREE. -/
def head (rank kind : Nat) : List Nat := toLE 4 9 ++ toLE 4 77 ++ toLE 4 0xFFFFFFFF ++ toLE 2 rank ++ [kind, 0]

/-- A service packet. -/
def sp (op arg : Nat) (payload : List Nat) : Packet := { pkt op 4095 0 arg with payload := payload, len := payload.length }

/-- The instances left, as (abort code, ERRRANK). -/
def aborted (s : State) : List (Option (Nat × Nat)) := s.dev.col.insts.map (fun i => i.abort.map (fun a => (a.code, a.rank)))

/-- A transfer of chunk 2 that has begun. -/
def xfer : Xfer :=
  { rank := 0, chan := 5 * 4096 + 4095, xfer := 0xABCD, kind := 2, tree := 0, chunk := 2, bytes := 3, dst := 0, data := [1, 2]
    m := 0, nfold := 0, a := (0, 0), b := (0, 0), move := 0, granted := false }

theorem test_collective_transfers :
    let i := inst 6 0 1
    let begins (dig : Nat) : Packet := sp 0x10 0xABCD (head 0 2 ++ toLE 4 2 ++ toLE 4 3 ++ toLE 4 dig ++ toLE 12 0)
    let s := col i [begins i.digest]
    let data := col { i with inc := [xfer] } [sp 0x11 (0xABCD + 2 * 2 ^ 16) [3]]
    let ends (crc : Nat) : State := col { i with inc := [{ xfer with data := [1, 2, 3] }] } [sp 0x12 0xABCD (toLE 8 crc ++ List.replicate 56 0)]
    (s.dev.colFind 5 4095 (begins i.digest).payload true = .active 1023 ∧ s.dev.engineDown 5 = false
      ∧ data.dev.openXfer (chanKey 5 4095) 0xABCD = some ({ i with inc := [xfer] }, xfer))
    ∧ (R (.colBegin 5) s).dev.col.insts.map (fun j => j.inc) = [[{ xfer with data := [] }]]
    ∧ aborted (R (.colBegin 5) (col i [begins (i.digest + 1)])) = [some (8, 0)]
    ∧ (R (.colData 5) data).dev.col.insts.map (fun j => j.inc) = [[{ xfer with data := [1, 2, 3] }]]
    ∧ (R (.colData 5) (col i [sp 0x11 0xABCD [3]])).dev.fget colBadpktCount 0 = 1
    ∧ (R (.colEnd 5) (ends (crc64 [1, 2, 3]))).dev.col.insts.map (fun j => (j.inc, j.abort)) = [([], none)]
    ∧ aborted (R (.colEnd 5) (ends 0)) = [some (1, 0)] ∧ (R (.colEnd 5) (ends 0)).dev.fget colCrcerrCount 0 = 1 := by
  decide +kernel

/-- A chunk of a move announced to rank 0 with the bytes staged. -/
def move : MoveOut := ⟨0, 7, 0, 0, 2, 0, some [1, 2]⟩

theorem test_collective_control_packets :
    let vote := col (inst 6 0 1) [sp 0x13 0 (head 0 0)]
    let decide_ := col (inst 6 0 1) [sp 0x14 0 (head 0 0 ++ List.replicate 16 0)]
    let ab (r : Nat) : State := col (inst 6 0 r) [sp 0x15 0 (head 1 0 ++ [1, 3, 0, 0] ++ toLE 4 2 ++ toLE 4 4 ++ toLE 4 2)]
    let excl := col (inst 0 2 0) [sp 0x16 0 (head 1 0 ++ toLE 4 0)]
    let grant := col { inst 5 0 1 with moves := [move], movesBegun := true } [sp 0x17 7 (head 0 0)]
    (R (.colVote 5) vote).dev.col.insts.map (fun j => j.votes) = [[0]]
    ∧ (R (.colDecide 5) decide_).dev.fget colCommitcntCount 0 = 1
    ∧ (R (.colDecide 5) decide_).dev.col.finished.map (fun g => (g.desc, g.colid, g.abort)) = [(1023, 77, none)]
    ∧ (R (.colAbort 5) (ab 1)).dev.col.insts.map (fun j => j.abortSeen) = [true]
    ∧ (R (.colAbort 5) (ab 0)).dev.col.finished.map (fun g => g.abort) = [some ⟨3, 2, 4, 2⟩]
    ∧ (R (.colExcl 5) excl).dev.col.insts.map (fun j => j.excl) = [[(0, 1)]]
    ∧ (R (.colGrant 5) grant).dev.col.insts.map (fun j => j.moves) = [[]]
    ∧ (ch (R (.colGrant 5) grant)).queue.map (fun q => (q.1.op, q.1.payload.take 2)) = [(0x11, [1, 2]), (0x12, (toLE 8 (crc64 [1, 2])).take 2)] := by
  decide +kernel

/-- A value of Table 13-4 for descriptor 1023 and bucket 0. -/
def colValue (c : Nat) : Nat := c * 2 ^ 60 + 1023 * 2 ^ 50

theorem test_collective_posts :
    let s (i : Inst) (v : Nat) : State := st { (col i []).dev with posts := [⟨67, 1, v, 0, none⟩] }
    let down := st { (s (inst 6 0 1) (colValue 1)).dev with units := [] }
    let ready (t : State) : List Nat := t.dev.col.insts.map (fun j => SMap.get 0 0 j.ready)
    (colPostBad (colValue 1) = false ∧ colPostBad (colValue 3) = true ∧ colPostBad (colValue 2 + 1) = true
      ∧ down.dev.active pCOL 0 = false)
    ∧ ready (R (.ready 67) (s (inst 6 0 1) (colValue 1))) = [1]
    ∧ SMap.get 0 1 ((R (.ready 67) (s (inst 6 0 1) (colValue 1))).dev.tile 67).store.creditOwed = 1
    ∧ (R (.ready 67) (s (inst 6 0 1) (colValue 3))).dev.fget colBadpostCount 0 = 1
    ∧ aborted (R (.abort 67) (s (inst 6 0 1) (colValue 2))) = [some (0x0C, 1)]
    ∧ (R (.ready 67) down).dev.posts = [] ∧ ready (R (.ready 67) down) = [0] := by decide +kernel

theorem test_col_launch :
    let c (v : Nat) : HostCmd := cmd 63 7 ([7] ++ List.replicate 7 0 ++ toLE 8 v ++ List.replicate 48 0)
    let s (v : Nat) : State := st (front (c v) (col (inst 6 0 1) []).dev)
    let down := st { (s (colValue 1)).dev with units := [(pHBX * 2 ^ 8, (s 0).dev.unit pHBX 0)] }
    ((s (colValue 1)).dev.mayStart 63 (c (colValue 1)) = true ∧ (s (colValue 1)).dev.cmdRefusal (c (colValue 1)) = none
      ∧ (c (colValue 1)).f 8 8 = colValue 1 ∧ down.dev.active pCOL 0 = false)
    ∧ (R (.colLaunch 63) (s (colValue 1))).dev.col.insts.map (fun j => SMap.get 0 0 j.ready) = [1]
    ∧ posted (R (.colLaunch 63) (s (colValue 3))) = [(9, 2, 8)]
    ∧ (R (.colLaunch 63) down).dev.col.insts.map (fun j => j.ready) = [[]] := by decide +kernel

theorem test_collective_ends :
    let b := col { inst 0 2 1 with start := 0 } []
    let i := col (inst 6 0 1) []
    let a := col { inst 6 0 1 with abort := some ⟨3, 1, noChunk, 1⟩ } []
    let x := R (.softDeadline 1023) b
    (b.dev.markReached 0 = true ∧ i.dev.answers = true ∧ i.dev.blockOpen pCOL 0 = true)
    ∧ x.dev.col.insts.map (fun j => (j.softDone, j.excl)) = [(true, [(0, 1)])] ∧ keeps (.softDeadline 1023) x = true
    ∧ aborted (R (.colTmoExpiry 1023) i) = [some (3, (inst 6 0 1).awaited)]
    ∧ aborted (R (.hostabort 77) i) = [some (0x0B, 1)] ∧ aborted (R (.colabort 77) i) = [some (0x0B, 1)]
    ∧ (R (.colabort 77) i).dev.pci.urgCount = 1 ∧ aborted (R (.hostabort 78) i) = [none]
    ∧ (R (.colTmoExpiry 1023) a).dev.col.insts = [] ∧ (R (.colTmoExpiry 1023) a).dev.fget colLasterrNotAgreed 0 = 1 := by
  decide +kernel


/-! ### The host interface -/

/-- The device with stack 31 ACTIVE. -/
def win : Dev := on [(pSTK, 31)] dev0

/-- An offset in stack 31. -/
def o31 : Nat := 31 * 2 ^ 36 + 0x1000

theorem test_window :
    let s : State := { st win with mem := [(o31, 7)] }
    let bad := st (win.setLine (o31 / 64) true)
    let off := st dev0
    (s.dev.winOk o31 4 = true ∧ s.dev.winOk (2 ^ 41 - 1) 1 = true ∧ s.dev.winOk (2 ^ 41 - 1) 2 = false ∧ stackOf (s.dev.winAddr o31) = 31
      ∧ s.dev.bytesBad o31 4 = false ∧ bad.dev.bytesBad o31 4 = true ∧ 7 ≤ s.dev.bootEvent)
    ∧ (R (.bar4Read o31 2 .clean) s).dev.pci.reply = .window [7, 0] false
    ∧ (R (.bar4Read o31 2 .clean) bad).dev.pci.reply = .window [0, 0] true
    ∧ (R (.bar4Write (o31 + 1) [9] .clean) s).mem = [(o31, 7), (o31 + 1, 9)]
    ∧ (R (.bar4Read o31 2 .clean) off).dev.pci.reply = .window [255, 255] true
    ∧ (R (.bar4Write o31 [9] .clean) off).dev.fget pciWinerrDisabled 0 = 1 ∧ (R (.bar4Write o31 [9] .clean) off).mem = []
    ∧ (R (.winWriteDiscard o31 4) s).dev.fget pciWinerrOverflow 0 = 1
    ∧ (R (.winWriteDiscard o31 4) s).dev.fget pciWinerraddrHiAddr 0 = 31 * 16 := by decide +kernel

/-- Stack 31 with bytes of 9 in line `o31`, whose cells changed as given, a single-symbol code correcting. -/
def changed (errs : List (Nat × Nat)) : State :=
  st ((win.setStack 31 { Stack.reset with cells := [(lineOf o31, ⟨2, errs, false, List.replicate 64 9⟩)] }).fset stkEccctlTcorr 31 2)

theorem test_window_of_changed_cells :
    let c := changed [(0, 1), (40, 7)]
    let u := changed [(0, 1), (1, 1), (40, 7)]
    (decodeLine (c.dev.fget stkEccctlTcorr 31) [(0, 1), (40, 7)] = .corrected 2 []
      ∧ decodeLine (c.dev.fget stkEccctlTcorr 31) [(0, 1), (1, 1), (40, 7)] = .detected
      ∧ (c.dev.cellsAt o31).isSome = true ∧ c.dev.lineBad (o31 / 64) = false)
    ∧ (R (.bar4Read o31 2 .clean) c).dev.pci.reply = .window [9, 9] false ∧ (R (.bar4Read o31 2 .clean) c).dev.fget stkCecntCount 31 = 1
    ∧ (R (.bar4Read o31 2 .clean) u).dev.fget stkUecntCount 31 = 1 ∧ (R (.bar4Read o31 2 .clean) u).dev.lineBad (o31 / 64) = true := by
  decide +kernel

/-- Rings 63 of 16 entries are enabled. -/
def rings (x : Sq) (y : Cq) : Dev :=
  let d := { hbx dev0 with hbx := { Hbx.reset with sq := [(63, x)], cq := [(63, y)] } }
  (((((d.fset hbxSqcfgEn 63 1).fset hbxSqcfgLog2size 63 4).fset hbxCqcfgEn 63 1).fset hbxCqcfgLog2size 63 4).fset hbxSqcfgCq 63 63).fset
    hbxCqcfgVector 63 255

theorem test_doorbells :
    let s := st (rings .reset { Cq.reset with tail := 3 })
    let e := st (place { placed with man := { placed.man with binds := [⟨0, 63, 0, 511⟩] }, tmap := [(0, 67)] } dev0)
    (s.dev.sqSize 63 = 16 ∧ s.dev.cqSize 63 = 16 ∧ s.dev.fbit hbxSqcfgEn 63 = true ∧ s.dev.answers = true)
    ∧ ((R (.sqTailDoorbell 63 15) s).dev.sq 63).tail = 15 ∧ (R (.sqTailDoorbell 63 16) s).dev.fget hbxBadcmdCount 0 = 1
    ∧ ((R (.cqHeadDoorbell 63 2) s).dev.cq 63).head = 2 ∧ ((R (.cqHeadDoorbell 63 2) s).dev.cq 63).resignal = true
    ∧ (R (.cqHeadDoorbell 63 4) s).dev.fget hbxBadcmdCount 0 = 1 ∧ (R (.cqHeadDoorbell 63 16) s).dev.fget hbxBadcmdCount 0 = 1
    ∧ bit ((R (.hostEventDoorbell 511 0) e).dev.tile 67).core.tev 63 = true
    ∧ ((R (.hostEventDoorbell 510 0) e).dev.tile 67).core.tev = 0 := by decide +kernel

theorem test_ring_enable :
    let s := st ({ hbx dev0 with hbx := { Hbx.reset with sq := [(63, ⟨4, 5, [], []⟩)] } }.fset hbxRingselRing 0 63)
    let a := R (.ringEnable false (1 + 2 * 2 + 63 * 2 ^ 8)) s
    let b := R (.ringEnable true (1 + 5 * 2 + 255 * 2 ^ 8 + 3 * 2 ^ 16)) s
    (s.dev.fget hbxSqcfgEn 63 = 0 ∧ s.dev.blockOpen pHBX 0 = true)
    ∧ (a.dev.sq 63).head = 0 ∧ (a.dev.sq 63).tail = 0 ∧ a.dev.fget hbxSqcfgCq 63 = 63 ∧ a.dev.fget hbxSqcfgLog2size 63 = 4
    ∧ b.dev.fget hbxCqcfgVector 63 = 255 ∧ b.dev.fget hbxCqcfgCoalcnt 63 = 3 ∧ b.dev.fget hbxCqcfgLog2size 63 = 5 := by
  decide +kernel

/-- An entry that waits. -/
def entry : CqEntry := ⟨9, 63, 0, 0, 0, 0, 0⟩

theorem test_command_fetch :
    let s := st (rings ⟨15, 0, [], []⟩ .reset)
    let nop := List.replicate 2 0 ++ [0x34, 0x12] ++ List.replicate 60 0
    let a := R (.commandFetch 63 nop false) s
    let b := R (.commandFetch 63 nop true) s
    (s.dev.phase = .ready ∧ bit s.dev.hbx.sqStop 63 = false)
    ∧ (a.dev.sq 63).head = 0 ∧ (a.dev.sq 63).fetched.map (fun c => (c.op, c.cid)) = [(0, 0x1234)]
    ∧ (b.dev.sq 63).fetched = [] ∧ (b.dev.cq 63).waiting.map (fun e => (e.cid, e.status)) = [(0x1234, 8)] := by decide +kernel

theorem test_completion_write :
    let s := st (rings .reset { Cq.reset with head := 5, tail := 15, waiting := [entry] })
    let masked := st { s.dev with pci := { s.dev.pci with msixTable := [(4 * 255 + 3, 0)] } }
    let a := R (.completionWrite 63) s
    let w := R (.msixSignal 63) (st (rings .reset { Cq.reset with unsignalled := 2 }))
    (s.dev.cqRoom 63 = true ∧ s.dev.fget hbxCqcfgCoalcnt 63 ≤ 1)
    ∧ (a.dev.cq 63).tail = 0 ∧ (a.dev.cq 63).phase = 0 ∧ (a.dev.cq 63).waiting = []
    ∧ SMap.find (32 * 15 + 6) a.dev.pci.hostMem = some 1 ∧ SMap.find (32 * 15 + 2) a.dev.pci.hostMem = some 63
    ∧ (bit (s.dev.msixWord (4 * 255 + 3)) 0 = true → a.dev.pci.pba = 2 ^ 255)
    ∧ (bit (masked.dev.msixWord (4 * 255 + 3)) 0 = false → (R (.completionWrite 63) masked).dev.pci.msixSent = [255])
    ∧ (w.dev.cq 63).unsignalled = 0 := by decide +kernel

/-- Tile 67 carries logical tile 0. -/
def carry (x : Tile) (d : Dev) : Dev := d.setTile 67 { x with core := { x.core with ltileValid := true } }

/-- Tile 67 is DISABLED. -/
def downTile (d : Dev) : Dev := d.setUnit pTIL 67 { UnitPage.reset with state := .disabled }

theorem test_prog_load :
    let c := cmd 63 1 ([1, 0, 0, 0, 0, 0, 0, 0, 0, 0, 5, 0, 1, 0, 0, 0] ++ List.replicate 48 0)
    let d := carry .reset (place { placed with tmap := [(0, 67)] } (front c (hbx dev0)))
    let s : State := { st (region5 .active (on [(pTIL, 67), (pSTK, 0)] d)) with mem := [(0x1000, 0x11)] }
    let run := st (carry (tile1 0) s.dev)
    let t := R (.progLoad 63) s
    (s.dev.mayStart 63 c = true ∧ s.dev.cmdRefusal c = none ∧ s.dev.carrier 0 = some 67 ∧ s.dev.down pTIL 67 = false
      ∧ (s.dev.readImage s.mem 5 0 1).isSome = true)
    ∧ posted t = [(9, 0, 0)] ∧ SMap.get 0 0 (t.dev.tile 67).core.prog = 0x11
    ∧ t.dev.deckle.placement.any (fun p => p.loads == [(0, (5, 0, 1))]) = true
    ∧ posted (R (.progLoad 63) run) = [(9, 4, 0)] ∧ posted (R (.progLoad 63) (st (downTile d))) = [(9, 5, 0)]
    ∧ posted (R (.progLoad 63) (st (on [(pTIL, 67)] d))) = [(9, 9, 0)]
    ∧ posted (R (.progLoad 63) (st (front c (hbx dev0)))) = [(9, 3, 0)] := by decide +kernel

theorem test_tile_commands :
    let a := cmd 63 2 ([2, 0, 0, 0, 0, 0, 0, 0, 1] ++ List.replicate 7 0 ++ [3] ++ List.replicate 47 0)
    let z := cmd 63 3 ([3, 0, 0, 0, 0, 0, 0, 0, 1] ++ List.replicate 55 0)
    let n := cmd 63 0 (List.replicate 64 0)
    let d (c : HostCmd) : Dev := carry .reset (place { placed with tmap := [(0, 67)] } (front c (on [(pTIL, 67)] (hbx dev0))))
    let run := st (carry (tile1 0) (d z))
    (a.f 8 8 = 1 ∧ (d a).startable 67 = true ∧ (d z).tileParticipates 67 = false ∧ (d a).cmdRefusal a = none)
    ∧ posted (R (.nopCommand 63) (st (d n))) = [(9, 0, 0)]
    ∧ ((R (.tileStart 63) (st (d a))).dev.tile 67).core.run = .running ∧ ((R (.tileStart 63) (st (d a))).dev.tile 67).core.pc = 3
    ∧ posted (R (.tileStart 63) (st (front a (hbx dev0)))) = [(9, 4, 0)]
    ∧ ((R (.tileStop 63) run).dev.tile 67).core.run = .halted ∧ posted (R (.tileStop 63) (st (d z))) = [(9, 0, 0)]
    ∧ posted (R (.tileStop 63) (st (downTile (d z)))) = [(9, 5, 0)]
    ∧ posted (R (.tileStop 63) (st (front z (hbx dev0)))) = [(9, 3, 0)] := by decide +kernel

theorem test_urgent_page :
    let s := st (bze { chan5 with stopped := false } [])
    let u := st ((port17 { Port.reset with state := .up }).fset bzeDevidId 0 1)
    let r := st ((u.dev.fset bzeRtentValid 1029 1).fset bzeRtentPorts 1029 (2 ^ 17))
    let q (t : State) : List (Nat × Nat) := (t.dev.port 17).queue.map (fun g => (g.packet.op, g.packet.dchan))
    let o := st (step5 .reset dev0)
    (s.dev.answers = true ∧ r.dev.route 5 1 0xFFF = .port 17)
    ∧ (ch (R (.stopchan 4095) s)).stopped = true ∧ (ch (R (.stopchan 4094) s)).stopped = false
    ∧ (ch (R (.stopchan (2 ^ 12)) s)).stopped = true ∧ (R (.stopchan 4094) s).dev.pci.urgCount = 1
    ∧ (ch (R (.resumechan 4095) (R (.stopchan 4095) s))).stopped = false
    ∧ q (R (.stoppeer 5) r) = [(8, 0xFFF)] ∧ q (R (.resumepeer 5) r) = [(9, 0xFFF)]
    ∧ (R (.sqstop true (2 ^ 31)) s).dev.hbx.sqStop = 2 ^ 63
    ∧ (R (.sqgo true (2 ^ 31)) (R (.sqstop true (2 ^ 31)) s)).dev.hbx.sqStop = 0
    ∧ (R (.urgSpoil 1) o).dev.stp.cause = 1 ∧ (R (.urgSpoil 0) o).dev.stp.state = .opened := by decide +kernel


/-! ### Power-on, resets and power -/

/-- The device at event `n` of a sequence. -/
def seq (n : Nat) (ph : DevPhase) (d : Dev) : State := st { d with phase := ph, bootEvent := n }

theorem test_power_on :
    let off : State := { st (Dev.reset.fset glbPwrcycCount 0 65535) with mem := [(5, 1)] }
    let pend (x : Nat) := seq 1 .boot { dev0 with sec := { dev0.sec with fused := 2, pendingLcs := some x, owner := some [4], licence := [1] } }
    let f := seq 2 .boot { dev0 with sec := { dev0.sec with fw0 := [], fw1 := [] } }
    let a := R (.powerOn (.regulated 40000 63)) off
    (off.dev.pwr.on = false ∧ dev0.pwr.on = true ∧ dev0.pwr.failing = false ∧ f.dev.fget secFwctlPref 0 = 0
      ∧ f.dev.sec.imageFault f.dev.sec.fw0 = some 1 ∧ f.dev.sec.imageFault f.dev.sec.fw1 = some 1)
    ∧ a.dev.bootEvent = 1 ∧ a.mem = [] ∧ a.dev.fget glbPwrcycCount 0 = 0 ∧ a.dev.fget pwrSlotId 0 = 63
    ∧ keeps (.powerOn (.regulated 39999 63)) off = true
    ∧ (R (.powerOn .fuses) (pend 4)).dev.sec.owner = none ∧ (R (.powerOn .fuses) (pend 4)).dev.sec.fused = 4
    ∧ (R (.powerOn .fuses) (pend 5)).dev.sec.keyErased = true ∧ (R (.powerOn .fuses) (pend 5)).dev.sec.owner = some [4]
    ∧ (R (.powerOn .fuses) (seq 1 .boot dev0)).dev.bootEvent = 2
    ∧ (R (.powerOn .firmware) f).dev.sec.booted = 2 := by decide +kernel

/-- A device that passed its tests up to event `n`: pages of its Headbox and its ports may become ACTIVE. -/
def tested (l : List (Nat × Nat)) (d : Dev) : Dev :=
  l.foldl (fun d x => d.setUnit x.1 x.2 { UnitPage.reset with testPassed := true }) d

theorem test_bring_up :
    let h := seq 3 .boot { dev0 with sec := { dev0.sec with booted := 0 } }
    let n := seq 3 .boot { dev0 with sec := { dev0.sec with booted := 2 } }
    let links := [0, 1, 2, 3, 4, 5, 6, 7, 8, 9]
    let p := seq 6 .memtest (tested [(pBZP, 17)] ((((dev0.fset stkStatTest 0 1).fset stkStatTest 8 1).fset stkStatTest 16 1).fset stkStatTest 24 1))
    let m := R (.powerOn (.memTest [])) (seq 5 .boot dev0)
    let dead := seq 4 .boot { dev0 with sec := { dev0.sec with fused := 5 } }
    ((List.range 5).all (fun k => (peers k).any (fun n => links.contains (linkIndex k n))) = true
      ∧ dev0.testedGroups = 0 ∧ p.dev.testedGroups = 4 ∧ (h.dev.unit pFLT 4).state = .off)
    ∧ (R (.powerOn (.headbox links [])) h).dev.bootEvent = 4 ∧ ((R (.powerOn (.headbox links [])) h).dev.unit pFLT 4).state = .active
    ∧ (R (.powerOn (.headbox [9] [])) n).dev.phase = .failed
    ∧ (R (.powerOn .pageLive) (seq 4 .boot dev0)).dev.bootEvent = 5 ∧ (R (.powerOn .pageLive) dead).dev.phase = .failed
    ∧ m.dev.phase = .memtest ∧ m.dev.fget stkStatTrained 7 = 1 ∧ m.dev.fget stkStatTrained 8 = 0
    ∧ ((R (.powerOn .ports) p).dev.unit pBZP 17).state = .active ∧ ((R (.powerOn .ports) p).dev.unit pBZP 16).state = .off := by
  decide +kernel

theorem test_compute_up :
    let c := seq 7 .linktrain { tileAt 66 (tile1 1) dev0 with sec := { dev0.sec with fusedBad := [67] } }
    let a := R (.powerOn (.computeUp [])) c
    let r := seq 8 .computeUp (tested [(pTIL, 66)] dev0)
    let b := R (.powerOn .ready) r
    a.dev.bootEvent = 8 ∧ (a.dev.unit pTIL 67).state = .disabled ∧ (a.dev.unit pTIL 67).reason = 2
    ∧ (a.dev.tile 66).core.prog = []
    ∧ b.dev.bootEvent = 9 ∧ b.dev.fget cadCtlRun 0 = 1 ∧ (b.dev.unit pTIL 66).state = .active
    ∧ (b.dev.unit pTIL 65).state = .off := by decide +kernel

theorem test_compute_reset :
    let s := st (tileAt 66 (tile1 1) (step5 .reset dev0))
    let a := R (.computeReset .start) s
    let q := seq 13 .computeReset (tileAt 66 { tile1 1 with core := { Core.reset with prog := [(0, 1)] } } dev0)
    let b := R (.computeReset (.test [])) q
    let z := R (.computeReset .finish) (seq 17 .computeReset { dev0 with pwr := { dev0.pwr with gated := true } })
    (s.dev.answers = true ∧ s.dev.isReady = true ∧ s.dev.stp.state = .opened ∧ q.dev.deckle.placement = none
      ∧ (∀ e ∈ q.dev.stks, e.2.reqs = []))
    ∧ a.dev.phase = .computeReset ∧ a.dev.pwr.gated = true ∧ (a.dev.tile 66).core.run = .idle ∧ a.dev.stp.state = .spoiled
    ∧ a.dev.stp.cause = 9
    ∧ keeps (.computeReset .start) (seq 8 .computeUp dev0) = true ∧ keeps (.computeReset (.test [])) s = true
    ∧ b.dev.bootEvent = 17 ∧ (b.dev.tile 66).core.prog = []
    ∧ z.dev.bootEvent = 9 ∧ z.dev.pwr.gated = false := by decide +kernel

theorem test_function_resets :
    let d := (rings ⟨4, 5, [], []⟩ .reset).fset pciResetcntFlr 0 65535
    let s := st { d with pci := { d.pci with config := [(0, 1)], barLog2 := 30 } }
    let down := st (dev0.fset pciLinkstatRate 0 0)
    let held := st { d with pci := { d.pci with config := [(0, 1)], perst := true } }
    let a := R (.flr 0) s
    (s.dev.linkUp = true ∧ down.dev.linkUp = false)
    ∧ a.dev.pci.barLog2 = 41 ∧ a.dev.fget hbxSqcfgEn 63 = 0 ∧ (a.dev.sq 63).head = 0
    ∧ a.dev.fget pciResetcntFlr 0 = satAdd (2 ^ pciResetcntFlr.width - 1) 65535 1 ∧ a.dev.phase = .computeReset
    ∧ (R (.flr 2) s).dev.fget pciResetcntHot 0 = 1 ∧ (R (.flr 2) s).dev.linkUp = false ∧ keeps (.flr 1) down = true
    ∧ (R .perst held).dev.pci.perst = false ∧ (R .perst held).dev.pci.config = [] ∧ (R .perst held).dev.linkUp = false := by decide +kernel

theorem test_config_and_link :
    let s := st dev0
    let early := seq 4 .boot dev0
    (s.dev.linkUp = true ∧ s.dev.answers = true ∧ early.dev.answers = false ∧ early.dev.bootEvent ≠ 0)
    ∧ (R (.configRequest 0 0 0) s).dev.pci.reply = .value 0x47371E8C ∧ (R (.configRequest 2 0 0) early).dev.pci.reply = .retry
    ∧ (R (.configRequest 0 0 0) (R (.configRequest 1 4094 7) s)).dev.pci.reply = .value 0x47371E8C
    ∧ SMap.find 4092 (R (.configRequest 1 4094 7) s).dev.pci.config = some 7
    ∧ (R (.configRequest 2 0 11) s).dev.pci.barLog2 = 41 ∧ (R (.configRequest 2 0 0) s).dev.pci.barLog2 = 30
    ∧ (R (.pcieLinkUp 1 1 false) s).dev.fget pciLinkstatDerated 0 = 1 ∧ (R (.pcieLinkUp 6 16 false) s).dev.fget pciLinkstatDerated 0 = 0
    ∧ (R (.pcieLinkUp 6 16 false) s).dev.fget pciLinkstatFlit 0 = 1 ∧ (R (.pcieLinkUp 5 16 false) s).dev.fget pciLinkstatRate 0 = 5 := by
  decide +kernel

theorem test_power_fail :
    let s := st ((tileAt 66 (tile1 1) dev0).fset pwrBallastWatts 0 40)
    let pf := s.dev.fget pwrPfMv 0
    let a := R (.powerFail 0 (pf - 1)) s
    let b := R (.powerFail 1 48000) s
    (s.dev.pwr.on = true ∧ s.dev.pwr.failing = false ∧ 0 < pf)
    ∧ keeps (.powerFail 0 pf) s = true ∧ a.dev.pwr.failing = true ∧ a.dev.evr.closed = true ∧ a.dev.fget pwrBallastWatts 0 = 0
    ∧ (a.dev.tile 66).core.run = .idle ∧ (R (.powerFail 2 0) s).dev.pwr.gated = true
    ∧ b.dev.pwr.on = false ∧ b.dev.bootEvent = 0 ∧ b.dev.tiles = []
    ∧ (R (.inputOvervoltage 60001) s).dev.phase = .boot ∧ keeps (.inputOvervoltage 60000) s = true := by decide +kernel

theorem test_sensors :
    let s := st (on [(pTHM, 0)] dev0)
    let again := st { s.dev with sensors := [(0x13, { Sensor.unread with overs := 1 })] }
    let cold := 2 ^ 24 - 40 * 16
    (s.dev.active pTHM 0 = true ∧ isSensor 0x13 = true ∧ signed 24 cold < 1600 ∧ signed 24 1599 < 1600
      ∧ (∀ e ∈ s.dev.sensors, e.2.overs = 0) ∧ 1680 ≤ signed 24 1680 ∧ (again.dev.sensor 0x13).overs = 1
      ∧ s.dev.fbit pwrStatTripped 0 = false)
    ∧ ((R (.thmSample [(0x13, cold)]) s).dev.sensor 0x13).value = cold
    ∧ ((R (.thmSample [(0x13, 1599)]) s).dev.sensor 0x13).value = 1599
    ∧ (R (.thmSample [(0x13, 1680)]) again).dev.phase = .failed ∧ (R (.thmSample [(0x13, 1680)]) s).dev.phase = .ready
    ∧ (R (.hardwareTrip 0x13 1760) s).dev.pwr.thermtrip = true ∧ keeps (.hardwareTrip 0x13 1759) s = true := by decide +kernel

/-- Region 5 is PLAIN. -/
def plain5 : Placement := { placed with man := { placed.man with regions := [⟨5, 3, 0, [0], 0x10000, 0⟩] } }

theorem test_snapshot_and_signals :
    let d := (((region5 .active (place plain5 (on [(pTHM, 0), (pSTK, 0)] dev0))).fset thmSnapregHandle 0 5).fset thmSnapperMs 0 1).fset thmSnapregNsnap 0 1
    let s := st d
    let none := st (d.fset thmSnapregHandle 0 6)
    let e := st { dev0 with evr := { dev0.evr with errPending := true } }
    let open_ := st { e.dev with pci := { e.dev.pci with msixTable := [(3, 0)] } }
    (s.dev.plainRegion 5 1024 = true ∧ none.dev.plainRegion 6 1024 = false
      ∧ (s.dev.writeRegion 5 0 [1, 2] false).isSome = true ∧ (s.dev.writeRegion 5 1022 [1, 2] false).isSome = true)
    ∧ (R .thmSnapshot s).dev.fget thmSnapheadCount 0 = 1 ∧ (R .thmSnapshot none).dev.fget thmSnapheadCount 0 = 0
    ∧ keeps .thmSnapshot (st dev0) = true
    ∧ (bit (e.dev.msixWord 3) 0 = true → (R .errorSignal e).dev.pci.pba = 1)
    ∧ (bit (open_.dev.msixWord 3) 0 = false ∧ (R .errorSignal open_).dev.pci.msixSent = [0])
    ∧ (R .errorSignal (st dev0)).dev.evr.errPending = false
    ∧ (R (.smbusBlockRead 0x80) s).dev.pci.reply
        = .block (toLE 4 s.dev.phase.code ++ toLE 4 (s.dev.plainWord pPWR 0 0x40))
    ∧ (R (.smbusBlockRead 0x81) s).dev.pci.reply = .noAck := by decide +kernel

theorem test_governor :
    let g (used cap : Nat) : Pwr := { dev0.pwr with held := [(loadOf 0 3, used)], capInForce := cap, vmaxInForce := 800, setpoints := [700, 650, 652, 800] }
    let s := st ({ dev0 with pwr := g 9 2000, sensors := [(0x51, { Sensor.unread with value := 48000 })] }.fset pwrBallastWatts 0 100)
    let low := st { s.dev with pwr := { s.dev.pwr with setpoints := [650, 650, 650, 650], holding := true } }
    let duty := st (low.dev.fset pwrGateDuty 0 15)
    let sp (t : State) : List Nat := t.dev.pwr.setpoints
    s.dev.loadIdle (loadOf 0 3) = true ∧ s.dev.loaded (loadOf 0 3) = true
    ∧ (R (.unitIdle 0 3) s).dev.pwr.held = [] ∧ (R (.unitIdle 0 3) s).dev.fget pwrBallastWatts 0 = 109
    ∧ keeps (.unitIdle 0 4) s = true
    ∧ sp (R (.capWindow 21001) s) = [675, 650, 650, 775] ∧ sp (R (.capWindow 21000) s) = [695, 650, 650, 795]
    ∧ sp (R (.capWindow 20001) s) = [695, 650, 650, 795] ∧ sp (R (.capWindow 20000) s) = [700, 650, 652, 800]
    ∧ sp (R (.capWindow 19400) s) = [700, 650, 652, 800] ∧ sp (R (.capWindow 19399) s) = [705, 655, 657, 800]
    ∧ (R (.capWindow 21001) low).dev.fget pwrGateDuty 0 = 1 ∧ (R (.capWindow 21001) duty).dev.fget pwrGateDuty 0 = 15
    ∧ (R (.capWindow 19399) duty).dev.fget pwrGateDuty 0 = 14 ∧ sp (R (.capWindow 19399) duty) = [650, 650, 650, 650]
    ∧ (R (.capWindow 20000) low).dev.pwr.holding = false ∧ (R (.dutyHold true) duty).dev.pwr.dutyHold = true
    ∧ (R (.dutyHold true) s).dev.pwr.dutyHold = false := by decide +kernel

theorem test_admission_and_caps :
    let d := ({ dev0 with sensors := [(0x51, { Sensor.unread with value := 48000 })], pwr := { dev0.pwr with used := 5, credit := 0 } }.fset pwrBallastWatts 0 100)
    let s := st d
    let run := st (d.fset cadCtlRun 0 1)
    let w := st (on [(pPWR, 0)] dev0)
    let a := R .admissionInterval s
    (s.dev.fget cadCtlRun 0 ≠ 1 ∧ s.dev.pwr.direct = [] ∧ s.dev.tiles = [] ∧ w.dev.blockOpen pPWR 0 = true ∧ w.dev.answers = true)
    ∧ keeps .admissionInterval run = true ∧ a.dev.pwr.used = 0 ∧ a.dev.pwr.credit = min (25 * 48000 * 1000) (25 * 48000 * 2000)
    ∧ a.dev.fget pwrBallastWatts 0 = 100 - min (s.dev.fget pwrStepDnw 0) (8 * 30 * 48000 * 2000 / 10000000)
    ∧ (R (.capWrite false 0) w).dev.fget pwrCapWatts 0 = 1200 ∧ (R (.capWrite false 4095) w).dev.fget pwrCapWatts 0 = 2800
    ∧ (R (.capWrite true 1023) w).dev.fget pwrVsetVmaxMv 0 = 850 ∧ (R (.capWrite true 0) w).dev.pwr.capPending = true := by
  decide +kernel


/-! ### The event recorder -/

/-- A recorder at sequence number 4095 with a record of a code raised. -/
def recd (code : Nat) (e : Evr) : State :=
  st (on [(pEVR, 0)] { dev0 with evr := { e with raised := [⟨code, pSTK, 31, 1, 2 ^ 32 - 1, 2 ^ 32, true⟩] } })

/-- A recorder that flushed all but a few of 4095 records. -/
def at4095 (next : Nat) : Evr := { Evr.reset with seq := 4095, next := next }

theorem test_event_record :
    let s := recd 0x4001 (at4095 4096)
    let c := recd 0x1004 (at4095 4096)
    let u := recd 0x3001 (at4095 4096)
    let dry := recd 0x1004 { at4095 4096 with tokens := [(0x1004, 0)], suppressed := [(0x1004, 65535)] }
    let full := recd 0x6001 (at4095 0)
    let a := R (.eventRecord []) s
    (exempt 0x4001 = true ∧ exempt 0x6001 = true ∧ codeClass 0x6001 ≠ 4 ∧ exempt 0x1004 = false ∧ exempt 0x3001 = false
      ∧ codeClass 0x3001 = 3 ∧ s.dev.evr.unflushed = 0 ∧ full.dev.evr.unflushed = 4096 ∧ s.dev.fget evrStatNvok 0 = 1
      ∧ 0 < c.dev.tokens 0x1004 ∧ dry.dev.tokens 0x1004 = 0 ∧ (s.dev.unit pEVR 0).state ≠ .disabled)
    ∧ keeps (.eventRecord []) (st dev0) = true
    ∧ a.dev.evr.seq = 4096 ∧ (a.dev.unit pSTK 31).seq = 4096 ∧ a.dev.evr.flushed = 4096 ∧ a.dev.evr.next = 4097
    ∧ SMap.find 0 a.dev.evr.ring = some ⟨0x4001, 6 + 8 + 32, pSTK, 31, 4096, 0, 0, 0, 1, 2 ^ 32 - 1, 0⟩
    ∧ (R (.eventRecord []) c).dev.tokens 0x1004 = c.dev.tokens 0x1004 - 1 ∧ (R (.eventRecord []) c).dev.evr.flushed = 0
    ∧ (R (.eventRecord []) u).dev.evr.flushed = 4096
    ∧ SMap.get 0 0x1004 (R (.eventRecord []) dry).dev.evr.suppressed = 65536 ∧ (R (.eventRecord []) dry).dev.evr.seq = 4095
    ∧ (R (.eventRecord []) dry).dev.fget evrSupprCount 0 = 1
    ∧ (R (.eventRecord []) full).dev.evr.lostSince = 1 ∧ (R (.eventRecord []) full).dev.fget evrLostCount 0 = 1 := by decide +kernel

/-- A record that waits since second 5. -/
def oneRec (d : Dev) : Dev :=
  let x : Rec := ⟨0x1004, 2, pSTK, 0, 9, 0, 5, 0, 0, 0, 0⟩
  { d with evr := { Evr.reset with seq := 9, next := 9, ring := [(9, x)] } }

theorem test_flushes :
    let d := on [(pEVR, 0)] (oneRec (dev0.fset evrCtlFlushsec 0 10))
    let s (n : Nat) := st (d.fset glbOpsecSeconds 0 n)
    let lost (a b : Nat) := st { d with evr := { d.evr with lostSince := a, lostUcc := b } }
    ((s 15).dev.evr.pendingRecs.length = 1 ∧ (s 15).dev.fget evrStatNvok 0 = 1 ∧ (s 15).dev.blockOpen pEVR 0 = true
      ∧ (s 15).dev.answers = true)
    ∧ (R (.timedFlush []) (s 15)).dev.evr.flushed = 9 ∧ keeps (.timedFlush []) (s 14) = true
    ∧ keeps (.timedFlush []) (st dev0) = true
    ∧ (R (.flush (1 + 255 * 2 ^ 8) []) (s 0)).dev.evr.next = 10 ∧ (R (.flush (1 + 255 * 2 ^ 8) []) (s 0)).dev.fget evrCtlFlushsec 0 = 255
    ∧ keeps (.recordsLost []) (s 0) = true
    ∧ (R (.recordsLost []) (lost 7 0)).dev.evr.lostSince = 0
    ∧ (SMap.find 10 (R (.recordsLost []) (lost 7 0)).dev.evr.ring).map (fun x => (x.code, x.p0, x.p1)) = some (0x8001, 7, 0)
    ∧ (SMap.find 10 (R (.recordsLost []) (lost 7 3)).dev.evr.ring).map (fun x => (x.code, x.p0, x.p1)) = some (0x8001, 3, 2)
    ∧ (R (.tokenRefill) (s 0)).dev.fget glbOpsecSeconds 0 = (s 0).dev.fget evrRlcfgRefillsec 0
    ∧ (R .tokenRefill (recd 1 { Evr.reset with tokens := [(1, 0)] })).dev.tokens 1 = 1 := by decide +kernel

theorem test_dump :
    let d := (region5 .active (on [(pEVR, 0), (pSTK, 0)] dev0)).fset evrDumpregHandle 0 5
    let s (n : Nat) := st (d.fset evrDumpselCount 0 n)
    ((s 1).dev.blockOpen pEVR 0 = true ∧ (s 1).dev.fget evrDumpselCount 0 = 1
      ∧ ((s 1).dev.writeRegion 5 0 ((List.range 1).flatMap (fun i => nvSlotBytes (s 1).dev i)) false).isSome = true
      ∧ ((s 16384).dev.writeRegion 6 0 [] false).isNone = true)
    ∧ (R (.dumpgo 2) (s 0)).dev.fget evrStatDumpstat 0 = 2 ∧ (R (.dumpgo 2) (s 16385)).dev.fget evrStatDumpstat 0 = 2
    ∧ (R (.dumpgo 2) (st ((s 1).dev.fset evrDumpregHandle 0 6))).dev.fget evrStatDumpstat 0 = 1 := by decide +kernel


/-! ### Security -/

/-- A public key of OpenSSL 3.0.13, which made every signature below. -/
def key1 : List Nat :=
  4 :: toBE 48 0x52995bcae1a734a7f2a42992856f362e9ed11b576ffa6aac17e6c782cbf2b75afa4c2545cfbf4875b8e022b1ce45255b
    ++ toBE 48 0x306b6534b9cf4d6e7f160a6a76705db27cf03fdc98f5b56fb39b3f3133709b32221c9c4326659144f60d72c42199824d

/-- A signature of "abc". -/
theorem test_signature :
    let g := toBE 48 0x014241C2BB7E5A55D6C4883FC8EA36D2670A68CA42C95733F868E7F170667033AA49BA69ADC806647D229814C1E878AD
      ++ toBE 48 0x688D54C69DA82C4411FBF3BFB787BB7F227BF6E9980AFA51EBD509F193FB9CA2EAB3B6EF050BD30C56A66DC432AA5AC2
    verifySig key1 [0x61, 0x62, 0x63] g = true ∧ verifySig key1 [0x61, 0x62, 0x64] g = false := by decide +kernel

/-- Bytes in stack 0 from the start of region 5, zeros unlisted. -/
def stored (bs : List Nat) : Mem := ((List.range bs.length).map (fun i => (0x1000 + i, BitVec.ofNat 8 (bs.getD i 0)))).filter (fun c => c.2 != 0)

/-- The security page with its argument in region 5; the boot ROM's keys are all `key1`. -/
def sec (x : Sec) (bs : List Nat) : State :=
  let rom : RomKeys := ⟨key1, key1, key1, key1⟩
  let d : Dev := { dev0 with sec := { x with rom := rom, fw0 := [], fw1 := [], certificate := [1] } }
  { st ((region5 .active (on [(pSEC, 0), (pLIC, 0), (pSTK, 0)] d)).fset secArgregHandle 0 5 |>.fset licSrcregHandle 0 5) with mem := stored bs }

/-- The token of a KIND for serial number 0: kind 1 for power cycle 0. -/
def token (kind : Nat) : List Nat :=
  toLE 4 0x544B4E31 ++ [kind, 0, 0, 0] ++ toLE 8 0 ++ toLE 2 (if kind = 1 then 0 else 65535) ++ List.replicate 46 0
    ++ (if kind = 1 then
      toBE 48 0x610A64703606A6107A49DC5F018986126F667DF2A65AE6771C3C7E2BA78938A72FAD0CD3B6E2226B854A044E034BAD46
      ++ toBE 48 0x24A2E7A077E4E69FFA5720CCD708064A9EB47621BF19661EF8AD9E9D10C008D8FEE30A16E731274F7081F29F1B3EEC52
    else if kind = 3 then
      toBE 48 0x7C4271C6B45C97BAF70195C26BF165F3A6BFC53C7FFE1E9417C7F433A3256745ABD6FD5A553F04286C4EB66FD180E472
      ++ toBE 48 0x2A0F184ED7FD2EB0110E163D5642D6F22E501BA005682728EACD57B89BAED473D3222D2AC5711A266F4F4A320A7E4502
    else
      toBE 48 0x743E843BA187BBD1E9F0886B9A7EF98A170781783081BF45529421478F3013784287830B068944161CCEE8582AB726E1
      ++ toBE 48 0x29AF233E048EFF337F18342B9C6672FB74C5C60DC66A3871398E0A578822F0D5F7150328F977667E6FD1A7ECB0FCE7CF)

/-- SEC.CMD with GO. -/
def go (n : Nat) : Nat := 2 ^ 31 + n

/-- SEC.RESULT.STATUS after a command. -/
def stat (c : Instr) (s : State) : Nat := (R c s).dev.fget secResultStatus 0

theorem test_transitions :
    let s (x : Nat) (b : List Nat) := sec { Sec.reset with fused := x } b
    let t := token 3
    let other := st ((s 4 t).dev.fset glbSerialLoSerial 0 1)
    let c := Instr.lcTransition (go (1 + 5 * 2 ^ 4))
    ((s 4 t).dev.answers = true ∧ (s 4 t).dev.blockOpen pSEC 0 = true ∧ (s 4 t).dev.secRead (s 4 t).mem 160 = some t
      ∧ (s 4 t).dev.transitionKind 5 = some 3 ∧ (s 4 t).dev.checkToken t (fun j => j == 3) = .accepted
      ∧ other.dev.checkToken t (fun j => j == 3) = .status 3
      ∧ (st dev0).dev.secRead [] 160 = none ∧ (s 0 []).dev.transitionKind 2 = none)
    ∧ (R c (s 4 t)).dev.sec.pendingLcs = some 5 ∧ stat c { other with mem := (s 4 t).mem } = 3
    ∧ stat (.lcTransition (go (1 + 2 * 2 ^ 4))) (s 0 []) = 5
    ∧ (R (.lcTransition (go (1 + 2 * 2 ^ 4))) (s 1 [])).dev.sec.pendingLcs = some 2
    ∧ stat c (sec { Sec.reset with fused := 4, pendingLcs := some 1 } t) = 5
    ∧ stat c (st ((s 4 t).dev.fset secArgregHandle 0 6)) = 6 := by decide +kernel

theorem test_security_commands :
    let t := token 1
    let s := sec { Sec.reset with fused := 2, svnCounter := 3, svnRunning := 64 } t
    let p (b : List Nat) := sec { Sec.reset with fused := 1 } b
    let ret := sec { Sec.reset with fused := 4, fieldMap := [(0, (1, 1))] } []
    let lost := st (s.dev.fset secArgregHandle 0 6)
    (s.dev.checkToken t (fun j => j == 1 && s.dev.sec.fused == 2) = .accepted ∧ lost.dev.secRead [] 160 = none
      ∧ (p key1).dev.secRead (p key1).mem 97 = some key1 ∧ (s.dev.secWrite 0 s.dev.sec.certificate).isSome = true)
    ∧ (R (.fieldDebug (go 2)) s).dev.sec.fieldDebug = true ∧ stat (.fieldDebug (go 2)) lost = 6
    ∧ (R (.ownerKey (go 3)) (p key1)).dev.sec.owner = some key1 ∧ stat (.ownerKey (go 3)) (p [5]) = 1 ∧ stat (.ownerKey (go 3)) s = 5
    ∧ stat (.certExport (go 5)) s = 0 ∧ Memory.read (R (.certExport (go 5)) s).mem 0x1000 = 1 ∧ stat (.certExport (go 5)) lost = 6
    ∧ (R (.svnCommit (go (7 + 64 * 2 ^ 8))) s).dev.sec.svnCounter = 64 ∧ stat (.svnCommit (go (7 + 65 * 2 ^ 8))) s = 7
    ∧ stat (.svnCommit (go (7 + 3 * 2 ^ 8))) s = 7
    ∧ (R (.clearFieldmap (go 8)) ret).dev.sec.fieldMap = [] ∧ stat (.clearFieldmap (go 8)) s = 5 := by decide +kernel

/-- ATTEST reads the nonce behind the argument's offset and has room for the report. -/
theorem test_attest :
    let s := sec { Sec.reset with fused := 2 } (List.replicate 48 7)
    let x := sec { Sec.reset with fused := 5 } []
    (s.dev.secRead s.mem 48 = some (List.replicate 48 7)
      ∧ (s.dev.secWrite 64 (List.replicate 512 0)).isSome = true ∧ s.dev.sec.fused ≠ 5)
    ∧ stat (.attest (go 4)) x = 5 := by decide +kernel

/-- An image with no payload: KEYID 0, SVN 5, build 9. -/
def fwImage : List Nat :=
  toLE 4 0x434C5746 ++ toLE 2 1 ++ [0, 5] ++ toLE 4 0 ++ toLE 4 9 ++ sha384 [] ++ List.replicate 64 0
    ++ (toBE 48 0x85DD2EAB78AEC6BF76547A2CCC3BD9F9BDAC31DB1E24F0BF04DAA89546C3C132815D39AE32CC89F6CB4D5E55185DECE9
      ++ toBE 48 0x3807B353BA1E08CA4F85744254F68C53FF8388D6E6A1056485A61100BBFF85CA7A6D5162440AC7D8136DADF0404CDA14)
    ++ List.replicate 32 0

theorem test_firmware :
    let s (x r : Nat) : State := { st ((sec { Sec.reset with fused := 2, svnCounter := x, revoked := r } []).dev.fset secArglenBytes 0 256) with
      mem := stored fwImage }
    let unsigned := fwImage.take 128 ++ List.replicate 128 0
    let boot := seq 2 .boot { (s 5 0).dev with sec := { (s 5 0).dev.sec with fw1 := fwImage } }
    (s 5 0).dev.secRead (s 5 0).mem 256 = some fwImage ∧ (s 5 0).dev.sec.imageFault fwImage = none
    ∧ (s 5 1).dev.sec.imageFault fwImage = some 2 ∧ (s 5 0).dev.sec.imageFault unsigned = some 3
    ∧ (s 6 0).dev.sec.imageFault fwImage = some 4
    ∧ stat (.fwStage (go 6)) (st ((s 5 0).dev.fset secArgregHandle 0 6)) = 6
    ∧ boot.dev.fget secFwctlPref 0 = 0 ∧ (boot.dev.fset secFwctlPref 0 1).fget secFwctlPref 0 = 1
    ∧ (R (.powerOn .firmware) boot).dev.fget glbRevisionBuild 0 = 9 := by decide +kernel

/-- A licence for variant 2 and serial number 0. -/
def licence : List Nat :=
  toLE 4 0x4C494331 ++ toLE 2 1 ++ [2, 0] ++ toLE 8 0 ++ List.replicate 48 0
    ++ (toBE 48 0x1B310D1D8439A932D77FC2D8A95CD2DB04A14904657B9D9ADF4ABCF9524D64D2DDA174F2E7C2810004C7C441DB338A61
      ++ toBE 48 0x7FE8963CDB31E122643AD80D103FD91AF6CA875C24A379061A2888CC106FAA26395185BB71E1A7A7AE01CBFEEA526730)

theorem test_licences :
    let s (b : List Nat) := sec { Sec.reset with fused := 2 } b
    let res (c : Instr) (s : State) : Nat := (R c s).dev.fget licResultStatus 0
    let unsigned := licence.take 64 ++ List.replicate 96 0
    let dead := sec { Sec.reset with fused := 5 } []
    let other : State := { s licence with dev := (s licence).dev.fset glbSerialLoSerial 0 1 }
    ((s licence).dev.blockOpen pLIC 0 = true ∧ licenceFormat licence = true ∧ licenceSigned key1 licence = true
      ∧ licenceFormat unsigned = true ∧ licenceSigned key1 unsigned = false)
    ∧ res (.install 3) (s licence) = 0
    ∧ res (.install 1) (s []) = 1 ∧ res (.install 1) (s unsigned) = 2 ∧ res (.install 1) other = 3
    ∧ res (.install 1) (st ((s []).dev.fset licSrcregHandle 0 6)) = 6 ∧ res (.install 1) dead = 5
    ∧ res (.remove 2) dead = 5 ∧ (R (.remove 2) (sec { Sec.reset with fused := 2, licence := [1] } [])).dev.sec.licence = [] := by
  decide +kernel

/-- Life-cycle state 4 comes from its pending state at a power-on, and the count of returns grows with the edge to state 1. -/
theorem test_life_cycle :
    let t := token 4
    let s := sec { Sec.reset with fused := 4, retcnt := 2 } t
    let a := R (.lcTransition (go (1 + 1 * 2 ^ 4))) s
    let b := R (.powerOn .fuses) { a with dev := { a.dev with phase := .boot, bootEvent := 1 } }
    a.dev.sec.fused = 4 ∧ a.dev.sec.pendingLcs = some 1 ∧ a.dev.sec.retcnt = 3 ∧ b.dev.sec.fused = 1 ∧ b.dev.sec.pendingLcs = none
    ∧ (sec { Sec.reset with fused := 4, retcnt := 3 } t).dev.transitionKind 1 = none := by decide +kernel

/-- Commands with and without stores. -/
theorem test_footprints :
    Part.wout ∉ (Instr.tokenRefill).touches ∧ (dev0.newPower (.regulated 48000 0)) = false ∧ dev0.wout = []
    ∧ (Dev.reset.newPower (.regulated 40000 0)) = true ∧ Part.wout ∈ (Instr.thmSnapshot).touches := by decide +kernel

end Sys2Proof.Tests
end

section
/-! PROOFS. Register pages (chapter 2): what a bad access captures (R36, R40, Tables 2-7 and 16-5), and which pages answer
(R35, Table 2-1). -/

namespace Sys2Proof.Machine

/-! ### Accesses of BAR 0 and BAR 2 -/

theorem regAt_iff (bar off : Nat) : regAt bar off = true ↔ off % 4 = 0 ∧ off < barSize bar := by
  simp only [regAt, Bool.and_eq_true, beq_iff_eq, decide_eq_true_eq]

/-- Registers lie in the 64 MiB of BAR 0 and in BAR 2: BADADDR holds their offset, and BADACC.SOURCE half their BAR. -/
theorem regAt_captures {bar off : Nat} (h : regAt bar off = true) : off < 2 ^ 26 ∧ bar / 2 < 4 := by
  obtain ⟨-, hlt⟩ := (regAt_iff ..).mp h
  unfold barSize at hlt
  split at hlt
  · omega
  · split at hlt <;> omega

/-- The place of a register of any page of BAR 0 (R34). -/
theorem regAt_page {cls inst o : Nat} (hc : cls < 64) (hi : inst < 256) (ho : o < 2 ^ 12) (h4 : o % 4 = 0) :
    regAt 0 (cls * 2 ^ 20 + inst * 2 ^ 12 + o) = true := by
  rw [regAt_iff, barSize, if_pos rfl]
  omega

theorem pageOf_page {cls inst o : Nat} (hi : inst < 256) (ho : o < 2 ^ 12) :
    pageOf (cls * 2 ^ 20 + inst * 2 ^ 12 + o) = (cls, inst, o) := by
  simp only [pageOf, Prod.mk.injEq]
  omega

theorem addressed_page {cls inst o : Nat} (hi : inst < 256) (ho : o < 2 ^ 12) :
    addressed 0 (cls * 2 ^ 20 + inst * 2 ^ 12 + o) = pageExists cls inst := by
  simp only [addressed, if_true, pageOf_page hi ho]

/-- The pages of Table 2-1 (R35). -/
theorem pageExists_iff (cls inst : Nat) : pageExists cls inst = true ↔
    (cls ≤ 0x0E ∧ inst = 0) ∨ (cls = 0x10 ∧ inst ≤ 67) ∨ (cls = 0x11 ∧ inst ≤ 7) ∨ (cls = 0x12 ∧ inst ≤ 31)
      ∨ (cls = 0x13 ∧ inst ≤ 4) ∨ (cls = 0x14 ∧ inst ≤ 17) ∨ (cls = 0x15 ∧ inst ≤ 5) := by
  rw [pageExists, decide_eq_true_eq]
  unfold instances
  split
  case h_7 h10 h11 h12 h13 h14 h15 =>
    have hcls : cls ≠ 0x10 ∧ cls ≠ 0x11 ∧ cls ≠ 0x12 ∧ cls ≠ 0x13 ∧ cls ≠ 0x14 ∧ cls ≠ 0x15 :=
      ⟨h10, h11, h12, h13, h14, h15⟩
    split <;> omega
  all_goals omega

/-! ### The capture of a bad access (R40) -/

theorem b2n_mod_two (b : Bool) : b2n b % 2 = b2n b := by cases b <;> rfl

theorem b2n_not (b : Bool) : b2n (!b) = if b then 0 else 1 := by cases b <;> rfl

@[simp] theorem Dev.raise_regs (d : Dev) (r : RawRec) : (d.raise r).regs = d.regs := by
  unfold Dev.raise; split <;> rfl

@[simp] theorem Dev.fget_record (d : Dev) (f : Field) (i code cls inst p0 p1 p2 : Nat) :
    (d.record code cls inst p0 p1 p2).fget f i = d.fget f i :=
  Dev.fget_congr (Dev.raise_regs ..) f i

/-- While the recorder admits records, one more joins those raised. -/
theorem Dev.record_raised {d : Dev} (h : d.evr.closed = false) (code cls inst p0 p1 p2 : Nat) :
    (d.record code cls inst p0 p1 p2).evr.raised = d.evr.raised ++ [⟨code, cls, inst, p0, p1, p2, false⟩] := by
  simp [Dev.record, Dev.raise, h]

/-- GLB.BADADDR and GLB.BADACC hold an access of the host. -/
structure Dev.Captured (e : Dev) (off source : Nat) (resv partial_ write : Bool) : Prop where
  valid : e.fget glbBadaccValid 0 = 1
  offset : e.fget glbBadaddrOffset 0 = off
  resvPage : e.fget glbBadaccResvPage 0 = b2n resv
  partialEnables : e.fget glbBadaccPartial 0 = b2n partial_
  isWrite : e.fget glbBadaccWrite 0 = b2n write
  source : e.fget glbBadaccSource 0 = source

/-- A later bad access is not captured. -/
theorem Dev.badAccess_of_valid {d : Dev} (h : d.fget glbBadaccValid 0 = 1) (off source barrier : Nat)
    (resv partial_ write : Bool) : d.badAccess off source barrier resv partial_ write = d := by
  simp [Dev.badAccess, Dev.fbit, h]

/-- The first bad access is captured. -/
theorem Dev.badAccess_captured {d : Dev} (h : d.fget glbBadaccValid 0 ≠ 1) {off source : Nat} (hoff : off < 2 ^ 26)
    (hsrc : source < 4) (resv partial_ write : Bool) :
    (d.badAccess off source 0 resv partial_ write).Captured off source resv partial_ write := by
  have hv : d.fbit glbBadaccValid 0 = false := by simpa [Dev.fbit] using h
  constructor <;> simp (disch := decide) only [Dev.badAccess, hv, Bool.false_eq_true, if_false, Dev.fget_record,
    Dev.fget_fset_ne, Dev.fget_fset_same]
  case valid => decide
  case offset => exact Nat.mod_eq_of_lt hoff
  case source => exact Nat.mod_eq_of_lt hsrc
  all_goals exact b2n_mod_two _

/-- The first bad access raises a BAD_ACCESS record that carries BADADDR and BADACC (Table 16-5). -/
theorem Dev.badAccess_raised {d : Dev} (h : d.fget glbBadaccValid 0 ≠ 1) (hopen : d.evr.closed = false)
    (off source : Nat) (resv partial_ write : Bool) :
    (d.badAccess off source 0 resv partial_ write).evr.raised = d.evr.raised
      ++ [⟨0x0001, 0, 0, off, 1 + 2 * b2n resv + 4 * b2n partial_ + 8 * b2n write + 16 * source, 0, false⟩] := by
  have hv : d.fbit glbBadaccValid 0 = false := by simpa [Dev.fbit] using h
  simp [Dev.badAccess, hv, Dev.record_raised, hopen, pGLB]

/-- After a bad access BADACC.VALID is set. -/
theorem Dev.badAccess_valid (d : Dev) {off source : Nat} (hoff : off < 2 ^ 26) (hsrc : source < 4)
    (resv partial_ write : Bool) : (d.badAccess off source 0 resv partial_ write).fget glbBadaccValid 0 = 1 := by
  by_cases h : d.fget glbBadaccValid 0 = 1
  · rwa [Dev.badAccess_of_valid h]
  · exact (Dev.badAccess_captured h hoff hsrc ..).valid

@[simp] theorem Dev.badAccess_wout (d : Dev) (off source barrier : Nat) (resv partial_ write : Bool) :
    (d.badAccess off source barrier resv partial_ write).wout = d.wout :=
  Dev.wout_of_mask (F := 40) (by decide) (Dev.badAccess_mask (by decide) ..)

@[simp] theorem Dev.badAccess_pci (d : Dev) (off source barrier : Nat) (resv partial_ write : Bool) :
    (d.badAccess off source barrier resv partial_ write).pci = d.pci :=
  Dev.pci_of_mask (F := 40) (by decide) (Dev.badAccess_mask (by decide) ..)

/-- A bad access changes GLB.BADADDR, GLB.BADACC and the recorder alone. -/
theorem Dev.badAccess_onlyChanges (d : Dev) (off source barrier : Nat) (resv partial_ write : Bool) :
    d.OnlyChanges (d.badAccess off source barrier resv partial_ write) [.regs, .evr] :=
  Dev.OnlyChanges.of_mask 40 _ (Dev.badAccess_mask (by decide) ..) (by intro p; cases p <;> decide)

/-! ### Writes with partial byte enables (R36) -/

theorem Dev.regWrite_partial (d : Dev) (m : Mem) (bar off v : Nat) {be : Nat} (h : be < 15) :
    d.regWrite m bar off be v = d.badAccess off (bar / 2) 0 (!addressed bar off) true true := by
  rw [Dev.regWrite, if_pos (by omega), Dev.wordWrite, if_pos (by omega)]

theorem exec_regWrite_partial_of_valid {s : State} {bar off be : Nat} (v : Nat) (hr : regAt bar off = true) (hbe : be < 15)
    (hw : s.dev.wout = []) (ha : s.dev.answers = true) (hv : s.dev.fget glbBadaccValid 0 = 1) :
    exec (.regWrite bar off be v) s = .next s :=
  runIf_same hr hw <| by rw [Dev.host_on ha, Dev.regWrite_partial _ _ _ _ _ hbe, Dev.badAccess_of_valid hv]

/-- A partial write does no more than the capture of a bad access. -/
theorem answers_regWrite_partial {s : State} {bar off be v : Nat} {P : State → Prop} (hr : regAt bar off = true)
    (hbe : be < 15) (hw : s.dev.wout = []) (ha : s.dev.answers = true)
    (hp : P { s with dev := s.dev.badAccess off (bar / 2) 0 (!addressed bar off) true true }) :
    Answers (.regWrite bar off be v) s P :=
  Answers.access (g := fun m d => d.regWrite m bar off be v) rfl hr ha (Dev.regWrite_partial _ _ _ _ _ hbe)
    (by rw [Dev.badAccess_wout, hw]) hp

/-! ### Accesses of reserved pages and places (R40) -/

@[simp] theorem Dev.answer_reply (d : Dev) (v : Nat) : (d.answer v).pci.reply = .value v := rfl

theorem Dev.reservedAccess_read (d : Dev) {bar off : Nat} (h : addressed bar off = false) :
    d.reservedAccess bar off false = (d.badAccess off (bar / 2) 0 true false false).answer 0 := by
  simp [Dev.reservedAccess, h]

theorem Dev.reservedAccess_write (d : Dev) {bar off : Nat} (h : addressed bar off = false) :
    d.reservedAccess bar off true = d.badAccess off (bar / 2) 0 true false true := by
  simp [Dev.reservedAccess, h]

/-- The registers and the recorder after an access of a reserved place are those after its capture, for a read too. -/
theorem Dev.reservedAccess_capture (d : Dev) {bar off : Nat} (w : Bool) (h : addressed bar off = false) :
    (d.reservedAccess bar off w).regs = (d.badAccess off (bar / 2) 0 true false w).regs
    ∧ (d.reservedAccess bar off w).evr = (d.badAccess off (bar / 2) 0 true false w).evr := by
  cases w
  · rw [Dev.reservedAccess_read d h]; exact ⟨rfl, rfl⟩
  · rw [Dev.reservedAccess_write d h]; exact ⟨rfl, rfl⟩

theorem Dev.reservedAccess_wout (d : Dev) (bar off : Nat) (w : Bool) : (d.reservedAccess bar off w).wout = d.wout :=
  Dev.wout_of_mask (F := 4194344) (by decide) (Dev.reservedAccess_mask (by decide) ..)

theorem Dev.reservedAccess_onlyChanges (d : Dev) (bar off : Nat) (w : Bool) :
    d.OnlyChanges (d.reservedAccess bar off w) [.regs, .evr, .pci] :=
  Dev.OnlyChanges.of_mask 4194344 _ (Dev.reservedAccess_mask (by decide) ..) (by intro p; cases p <;> decide)

/-- A field reads after an access of a reserved place as after its capture. -/
theorem Dev.reservedAccess_fget (d : Dev) {bar off : Nat} (w : Bool) (h : addressed bar off = false) (f : Field) (i : Nat) :
    (d.reservedAccess bar off w).fget f i = (d.badAccess off (bar / 2) 0 true false w).fget f i :=
  Dev.fget_congr (Dev.reservedAccess_capture d w h).1 f i

/-- Settles O9. A partial write and an access of a reserved place each come down to one capture (`Dev.badAccess`), which
the first access makes and a later one does not. -/
theorem badAccesses : Obligations.BadAccesses := by
  refine ⟨fun s bar off be v hr hbe hw ha => ⟨fun hv => ?_, fun hv => ?_⟩, fun s bar off w hr hn hw ha => ?_⟩
  · exact exec_regWrite_partial_of_valid v hr hbe hw ha hv
  · obtain ⟨hoff, hsrc⟩ := regAt_captures hr
    obtain ⟨cvalid, coff, cresv, cpart, cwrite, csrc⟩ :=
      Dev.badAccess_captured hv hoff hsrc (!addressed bar off) true true
    refine answers_regWrite_partial hr hbe hw ha
      ⟨coff, cvalid, cpart, cwrite, csrc, cresv.trans (b2n_not _), fun hopen => ?_,
        Dev.badAccess_onlyChanges _ _ _ _ _ _ _, rfl, rfl⟩
    rw [Dev.badAccess_raised hv hopen, b2n_not, mul_ite]
    rfl
  · obtain ⟨hoff, hsrc⟩ := regAt_captures hr
    obtain ⟨hregs, hevr⟩ := Dev.reservedAccess_capture s.dev w hn
    have hfget := Dev.reservedAccess_fget s.dev w hn
    refine Answers.access (g := fun _ d => d.reservedAccess bar off w) rfl hr ha rfl
      (by rw [Dev.reservedAccess_wout, hw])
      ⟨?_, ?_, ?_, fun hv => ?_, fun hv => ?_, Dev.reservedAccess_onlyChanges _ _ _ _, rfl, rfl⟩
    · rintro rfl
      simp only [Dev.reservedAccess_read s.dev hn, Dev.answer_reply]
    · rintro rfl
      simp only [Dev.reservedAccess_write s.dev hn, Dev.badAccess_pci]
    · exact (hfget ..).trans (Dev.badAccess_valid _ hoff hsrc ..)
    · rw [Dev.badAccess_of_valid hv] at hregs hevr
      exact ⟨hregs, hevr⟩
    · obtain ⟨cvalid, coff, cresv, cpart, cwrite, csrc⟩ :=
        Dev.badAccess_captured hv hoff hsrc true false w
      simp only [hfget]
      refine ⟨coff, cresv, cpart, cwrite, csrc, fun hopen => ?_⟩
      rw [hevr]
      exact Dev.badAccess_raised hv hopen ..

/-! ### Reads of a page (R35, R36) -/

theorem ofLE_toLE (k n : Nat) : ofLE (toLE k n) = n % 256 ^ k := by
  induction k generalizing n with
  | zero => simp [toLE, ofLE, Nat.mod_one]
  | succ k ih => rw [toLE, ofLE, ih, Nat.mod_mod, Nat.pow_succ', Nat.mod_mul]

/-- With every byte enabled a read answers the whole word. -/
theorem enabledBytes_all {v : Nat} (h : v < 2 ^ 32) : enabledBytes 15 v = v := by
  have hb : enabledBytes 15 v = ofLE (toLE 4 v) := by simp [enabledBytes, toLE, bit]
  rw [hb, ofLE_toLE, Nat.mod_eq_of_lt (by omega)]

/-- A 32-bit read answers what its word reads. -/
theorem Dev.rcRead_reply (d : Dev) (m : Mem) (bar off : Nat) {be : Nat} (h : be < 16) :
    (d.rcRead m bar off be).pci.reply = .value (d.wordRead m bar off be).1 := by
  simp [Dev.rcRead, h, Nat.mod_eq_of_lt h]

theorem Dev.wordRead_reserved (d : Dev) (m : Mem) {bar off : Nat} (be : Nat) (h : addressed bar off = false) :
    (d.wordRead m bar off be).1 = 0 := by
  simp [Dev.wordRead, h]

theorem Dev.wordRead_page (d : Dev) (m : Mem) {cls inst o : Nat} (be : Nat) (hi : inst < 256) (ho : o < 2 ^ 12)
    (h : pageExists cls inst = true) :
    (d.wordRead m 0 (cls * 2 ^ 20 + inst * 2 ^ 12 + o) be).1 = enabledBytes be (d.regWord m cls inst o) := by
  simp only [Dev.wordRead, addressed_page hi ho, pageOf_page hi ho, h, Bool.not_true, if_true, Bool.false_eq_true,
    if_false]

/-- PG_ID names its page, and its layout is 1 (Table 2-3). -/
theorem Dev.regWord_pgId (d : Dev) (m : Mem) (cls inst : Nat) :
    d.regWord m cls inst 0 = cls * 2 ^ 24 + inst * 2 ^ 16 + 0x100 := by
  show 0x100 + inst * 2 ^ 16 + cls * 2 ^ 24 = _
  omega

theorem Dev.rcRead_wout (d : Dev) (m : Mem) (bar off be : Nat) : (d.rcRead m bar off be).wout = d.wout :=
  Dev.wout_of_mask (F := 4325432) (by decide) (Dev.rcRead_mask (by decide) ..)

theorem Dev.rcRead_onlyChanges (d : Dev) (m : Mem) (bar off be : Nat) :
    d.OnlyChanges (d.rcRead m bar off be) [.regs, .units, .cad, .evr, .pci] :=
  Dev.OnlyChanges.of_mask 4325432 _ (Dev.rcRead_mask (by decide) ..) (by intro p; cases p <;> decide)

/-- Settles O6: a read of PG_ID on a page of Table 2-1 answers its word, and one of any register of another page 0. -/
theorem implementedPages : Obligations.ImplementedPages := by
  intro s cls inst o hc hi ho h4 hw ha
  refine Answers.access (g := fun m d => d.rcRead m 0 (cls * 2 ^ 20 + inst * 2 ^ 12 + o) 15) rfl (regAt_page hc hi ho h4)
    ha rfl (by rw [Dev.rcRead_wout, hw]) ⟨?_, Dev.rcRead_onlyChanges _ _ _ _ _, rfl, rfl⟩
  simp only [← pageExists_iff, Dev.rcRead_reply _ _ _ _ (show 15 < 16 by decide)]
  split
  · next hp =>
    refine ⟨hp, ?_⟩
    rintro rfl
    rw [Dev.wordRead_page _ _ _ hi ho hp, Dev.regWord_pgId, enabledBytes_all (by omega)]
  · next hp =>
    have hp := Bool.eq_false_of_not_eq_true hp
    exact ⟨hp, by rw [Dev.wordRead_reserved _ _ _ ((addressed_page hi ho).trans hp)]⟩

end Sys2Proof.Machine
end


section
/-! PROOFS. The shape of every command: what it can name, what it leaves alone (`Instr.touches`), and the form of the
stacks' bytes that every step keeps. -/

namespace Sys2Proof.Machine

/-! ### A step and the queue -/

theorem step_cons (c : Instr) (rest : List Instr) (s : State) :
    step { s with pending := c :: rest } = exec c { s with pending := rest } := rfl

theorem step_idle {s : State} (h : s.pending = []) : step s = .next s := by
  unfold step
  rw [h]

/-- Settles O1. -/
theorem stepRunsFront : Obligations.StepRunsFront := ⟨step_cons, fun _ => step_idle⟩

/-- Settles O2: the state before the first power-on lists no field, page, port, channel, entry or tile, so each reads its
reset value. -/
theorem resetValues : Obligations.ResetValues :=
  ⟨fun _ _ => rfl, fun _ _ => rfl, rfl, rfl, rfl, rfl, fun _ => rfl, fun _ _ => rfl, fun _ => rfl, fun _ => rfl, rfl, rfl⟩

/-- Settles O3. -/
theorem resetIsSound : Obligations.ResetIsSound := ⟨⟨rfl, rfl⟩, fun _ h => nomatch h⟩

/-! ### The one form that a command has -/

/-- The command performs the meaning `f` over the device where the part has the unit that it names (`ok`). -/
def RunsAs (c : Instr) (ok : Bool) (f : Mem → Dev → Dev) : Prop := ∀ s, exec c s = runIf ok f s

/-- Every command but POWER_ON performs one meaning on a unit that it names, and one that is well formed names a unit
that the part has. -/
theorem exec_runs (c : Instr) : (∃ ok f, RunsAs c ok f ∧ (c.wf = true → ok = true)) ∨ ∃ e, c = .powerOn e := by
  cases c
  case powerOn e => exact .inr ⟨e, rfl⟩
  all_goals
    refine .inl ?_
    first
    | exact ⟨true, _, fun _ => rfl, fun _ => rfl⟩
    | exact ⟨_, _, fun _ => rfl, by simp +contextual [Instr.wf]⟩

/-- A command that answers has performed its meaning; a power cycle empties the memory as well. -/
theorem exec_next {c : Instr} {s t : State} (h : exec c s = .next t) :
    (∃ f, t = s.after f) ∨ ∃ f, t = { s.after f with mem := [] } := by
  rcases exec_runs c with ⟨ok, f, hr, -⟩ | ⟨e, rfl⟩
  · exact .inl ⟨f, runIf_next ((hr s).symm.trans h)⟩
  · have h : Host.Outcome.next _ = Host.Outcome.next t := h
    injection h with h
    subst h
    cases s.dev.newPower e
    · exact .inl ⟨fun _ d => d.powerOn e, rfl⟩
    · exact .inr ⟨fun _ d => d.powerOn e, rfl⟩

theorem exec_pending {c : Instr} {s t : State} (h : exec c s = .next t) : t.pending = s.pending := by
  rcases exec_next h with ⟨f, rfl⟩ | ⟨f, rfl⟩ <;> rfl

/-- Every command keeps the canonical form of the memory and leaves an empty outbox. -/
theorem exec_memOk {c : Instr} {s t : State} (hs : Memory.wf s.mem = true) (h : exec c s = .next t) : t.MemOk := by
  rcases exec_next h with ⟨f, rfl⟩ | ⟨f, rfl⟩
  · exact ⟨Memory.wf_writeAll _ hs, rfl⟩
  · exact ⟨rfl, rfl⟩

/-- Settles O4: the step takes the front command, whose meaning writes its bytes through `Memory.writeAll`. -/
theorem stepKeepsSound : Obligations.StepKeepsSound := by
  intro s t hm hq h
  cases hp : s.pending with
  | nil =>
    rw [step_idle hp] at h
    cases h
    exact ⟨hm, hq, by rw [hp]; rfl⟩
  | cons c rest =>
    have h : exec c { s with pending := rest } = .next t := by
      unfold step at h
      rwa [hp] at h
    have hpend : t.pending = rest := exec_pending h
    refine ⟨exec_memOk (s := { s with pending := rest }) hm.1 h, fun x hx => hq x ?_, hpend⟩
    rw [hp]
    exact List.mem_cons_of_mem _ (hpend ▸ hx)

/-! ### Which commands answer (log entry 99) -/

theorem runIf_true {ok : Bool} (h : ok = true) (f : Mem → Dev → Dev) (s : State) : runIf ok f s = .next (s.after f) := by
  rw [h]; rfl

theorem runIf_false {ok : Bool} (h : ok = false) (f : Mem → Dev → Dev) (s : State) :
    runIf ok f s = .fault .noSuchUnit := by
  rw [h]; rfl

theorem runIf_ne_refused (ok : Bool) (f : Mem → Dev → Dev) (s : State) (r : Refusal) : runIf ok f s ≠ .refused r := by
  cases ok <;> nofun

theorem exec_of_wellFormed {c : Instr} (s : State) (h : c.WellFormed) : ∃ t, exec c s = .next t := by
  rcases exec_runs c with ⟨ok, f, hr, hok⟩ | ⟨e, rfl⟩
  · exact ⟨_, (hr s).trans (runIf_true (hok h) f s)⟩
  · exact ⟨_, rfl⟩

theorem exec_ne_refused (c : Instr) (s : State) (r : Refusal) : exec c s ≠ .refused r := by
  rcases exec_runs c with ⟨ok, f, hr, -⟩ | ⟨e, rfl⟩
  · rw [hr s]; exact runIf_ne_refused ok f s r
  · nofun

theorem tileOk_false {p : Nat} (h : 68 ≤ p) : tileOk p = false := decide_eq_false (by omega)
theorem slvOk_false {e : Nat} (h : 8 ≤ e) : slvOk e = false := decide_eq_false (by omega)
theorem stkOk_false {k : Nat} (h : 32 ≤ k) : stkOk k = false := decide_eq_false (by omega)
theorem portOk_false {p : Nat} (h : 18 ≤ p) : portOk p = false := decide_eq_false (by omega)
theorem bzeOk_false {e : Nat} (h : 6 ≤ e) : bzeOk e = false := decide_eq_false (by omega)
theorem chanOk_false {c : Nat} (h : 4096 ≤ c) : chanOk c = false := decide_eq_false (by omega)
theorem barOk_false {b : Nat} (h : 256 ≤ b) : barOk b = false := decide_eq_false (by omega)
theorem ringOk_false {q : Nat} (h : 64 ≤ q) : ringOk q = false := decide_eq_false (by omega)

/-- Settles O5: a well-formed command names units of the part, and one that names another stops before its meaning. -/
theorem wellFormedRuns : Obligations.WellFormedRuns :=
  ⟨fun _ s h => exec_of_wellFormed s h, exec_ne_refused,
    fun s _ _ _ h => ⟨runIf_false h _ s, runIf_false h _ s, runIf_false h _ s, runIf_false h _ s⟩,
    fun s _ _ _ h => ⟨runIf_false (tileOk_false h) _ s, runIf_false (tileOk_false h) _ s⟩,
    fun s _ h => runIf_false (slvOk_false h) _ s,
    fun s _ _ _ h => runIf_false (by rw [stkOk_false h, Bool.false_and]) _ s,
    fun s _ _ _ h => runIf_false (portOk_false h) _ s,
    fun s _ h => runIf_false (bzeOk_false h) _ s,
    fun s _ _ h => runIf_false (by rw [chanOk_false h, Bool.and_false]) _ s,
    fun s _ h => runIf_false (barOk_false h) _ s,
    fun s _ h => runIf_false (ringOk_false h) _ s⟩

/-! ### Accesses of the host -/

/-- An access of the host performs its meaning through `Dev.host`. -/
theorem exec_byHost {c : Instr} (h : c.byHost = true) :
    ∃ (ok : Bool) (g : Mem → Dev → Dev), RunsAs c ok (fun m d => d.host (g m)) ∧ (c.wf = true → ok = true) := by
  cases c
  all_goals first
    | exact absurd h Bool.false_ne_true
    | exact ⟨true, _, fun _ => rfl, fun _ => rfl⟩
    | exact ⟨_, _, fun _ => rfl, by simp +contextual [Instr.wf]⟩

/-- Settles O7. -/
theorem unansweredAccess : Obligations.UnansweredAccess := by
  intro c s hb hwf hw ha
  obtain ⟨ok, g, hr, hok⟩ := exec_byHost hb
  exact (hr s).trans (runIf_same (hok hwf) hw (Dev.host_off ha _))

/-! ### What a command leaves alone -/

/-- The bit that stands for a part in the masks of `Dev.mask`. -/
def Part.bit : Part → Nat
  | .phase => 1 | .variant => 2 | .bootEvent => 4 | .regs => 8 | .units => 16 | .evr => 32 | .sensors => 64
  | .links => 128 | .tiles => 256 | .posts => 512 | .stks => 1024 | .linePoison => 2048 | .deckle => 4096
  | .solvers => 8192 | .launches => 16384 | .deltasSent => 32768 | .syn => 65536 | .cad => 131072 | .stp => 262144
  | .brezin => 524288 | .col => 1048576 | .hbx => 2097152 | .pci => 4194304 | .sec => 8388608 | .pwr => 16777216
  | .hours => 33554432 | .wout => 67108864 | .free => 134217728

theorem Part.ctorIdx_injective : Function.Injective Part.ctorIdx :=
  Function.LeftInverse.injective Part.ofNat_ctorIdx

theorem Part.bit_eq (p : Part) : p.bit = 2 ^ p.ctorIdx := by cases p <;> rfl

/-- The mask that forgets the listed parts. -/
def partsMask (l : List Part) : Nat := l.foldr (fun p n => p.bit ||| n) 0

theorem testBit_partsMask {p : Part} {l : List Part} (h : p ∉ l) : (partsMask l).testBit p.ctorIdx = false := by
  induction l with
  | nil => simp [partsMask]
  | cons q l ih =>
    rw [List.mem_cons, not_or] at h
    obtain ⟨hq, hl⟩ := h
    have hne : q.ctorIdx ≠ p.ctorIdx := fun he => hq (Part.ctorIdx_injective he.symm)
    have ih := ih hl
    simp only [partsMask, List.foldr_cons, Nat.testBit_or, Part.bit_eq] at ih ⊢
    rw [ih, Nat.testBit_two_pow_of_ne hne]
    rfl

/-- The mask that forgets every part. -/
theorem Dev.mask_all (d e : Dev) : d.mask 268435455 = e.mask 268435455 := rfl

/-- The meaning of a command changes no more than the parts that the command touches. -/
theorem exec_mask (c : Instr) :
    (∃ ok f, RunsAs c ok f ∧ ∀ m d, (f m d).mask (partsMask c.touches) = d.mask (partsMask c.touches))
      ∨ ∃ e, c = .powerOn e := by
  cases c
  case powerOn e => exact .inr ⟨e, rfl⟩
  case powerFail | inputOvervoltage =>
    exact .inl ⟨true, _, fun _ => rfl, fun _ _ => Dev.mask_all _ _⟩
  all_goals
    refine .inl ?_
    first
    | refine ⟨true, _, fun _ => rfl, fun m d => ?_⟩
    | refine ⟨_, _, fun _ => rfl, fun m d => ?_⟩
    simp only [Instr.touches, partsMask, List.foldr, Part.bit, Nat.reduceOr]
    simp [Dev.colPacket_mask]

/-- What a meaning changes once its bytes are in the stacks: the outbox is empty before and after. -/
theorem State.after_onlyChanges {s : State} {f : Mem → Dev → Dev} {l : List Part} (hw : s.dev.wout = [])
    (h : (f s.mem s.dev).mask (partsMask l) = s.dev.mask (partsMask l)) : s.dev.OnlyChanges (s.after f).dev l := by
  have hf : s.dev.OnlyChanges (f s.mem s.dev) l := Dev.OnlyChanges.of_mask _ l h fun _ => testBit_partsMask
  intro p hp
  cases p
  case wout => exact hw.symm
  all_goals exact hf _ hp

/-- A command that does not touch the outbox stores nothing. -/
theorem State.after_mem_of_mask {s : State} {f : Mem → Dev → Dev} {l : List Part} (hw : s.dev.wout = [])
    (h : (f s.mem s.dev).mask (partsMask l) = s.dev.mask (partsMask l)) (hl : Part.wout ∉ l) :
    (s.after f).mem = s.mem :=
  State.after_mem_same ((Dev.wout_of_mask (testBit_partsMask hl) h).trans hw)

/-- POWER_ON may change every part. -/
theorem exec_powerOn_onlyChanges (e : PowerEvent) (s : State) (d : Dev) :
    s.dev.OnlyChanges d (Instr.powerOn e).touches := by
  intro p hp
  cases p <;> exact absurd (by simp [Instr.touches]) hp

/-- Settles O60: each command's meaning by its mask (Laws/Frames.lean), over the parts that it touches. -/
theorem commandFootprint : Obligations.CommandFootprint := by
  intro c s t hw h
  rcases exec_mask c with ⟨ok, f, hr, hm⟩ | ⟨e, rfl⟩
  · obtain rfl := runIf_next ((hr s).symm.trans h)
    exact ⟨State.after_onlyChanges hw (hm ..), rfl, fun hp _ => State.after_mem_of_mask hw (hm ..) hp⟩
  · refine ⟨exec_powerOn_onlyChanges e s _, exec_pending h, fun hp => absurd ?_ hp⟩
    simp [Instr.touches]

end Sys2Proof.Machine
end


section
/-! PROOFS. What of the security state outlives every operation (chapter 17): the fused life-cycle state with the one that
awaits the power cycle, the firmware counter, the count of returns, the erased device key, the blown fuses and the boot
ROM's keys. -/

namespace Sys2Proof.Machine

/-! ### The life cycle, and the device but for its security -/

/-- What Table 17-2 and the fuses hold, with the rest of the security state forgotten. -/
def Sec.life (s : Sec) : Sec :=
  { Sec.reset with fused := s.fused, pendingLcs := s.pendingLcs, svnCounter := s.svnCounter, retcnt := s.retcnt
                   keyErased := s.keyErased, fusedBad := s.fusedBad, rom := s.rom }

def Dev.life (d : Dev) : Sec := d.sec.life

/-- The device with all but its security forgotten: what a mask of Laws/Frames.lean leaves where an operation does not
touch the security state. -/
abbrev Dev.bare (d : Dev) : Dev := d.mask 260046847

theorem Dev.bare_life (d : Dev) : d.bare.life = d.life := rfl

@[simp] theorem Dev.bare_sec (d : Dev) : d.bare.sec = d.sec := rfl

@[simp] theorem Dev.life_ite (c : Prop) [Decidable c] (a b : Dev) :
    (if c then a else b).life = if c then a.life else b.life := apply_ite _ _ _ _

@[simp] theorem Dev.life_foldl {α : Type} (f : Dev → α → Dev) (h : ∀ d x, (f d x).bare.life = d.bare.life) (l : List α)
    (d : Dev) : (l.foldl f d).bare.life = d.bare.life := by
  induction l generalizing d with
  | nil => rfl
  | cons x l ih => rw [List.foldl_cons, ih, h]

@[simp] theorem Dev.life_foldl_fst {α β : Type} (g : Dev × β → α → Dev × β)
    (h : ∀ b x, (g b x).1.bare.life = b.1.bare.life) (l : List α) (b : Dev × β) :
    (l.foldl g b).1.bare.life = b.1.bare.life := by
  induction l generalizing b with
  | nil => rfl
  | cons x l ih => rw [List.foldl_cons, ih, h]

/-! ### Writes of the security state that leave the life cycle alone -/

@[simp] theorem Dev.life_bins (d : Dev) (x : SMap StoredBins) :
    ({ d with sec := { d.sec with bins := x } } : Dev).bare.life = d.bare.life := rfl
@[simp] theorem Dev.life_fieldMap (d : Dev) (x : SMap (Nat × Nat)) :
    ({ d with sec := { d.sec with fieldMap := x } } : Dev).bare.life = d.bare.life := rfl
@[simp] theorem Dev.life_fieldDebug (d : Dev) (x : Bool) :
    ({ d with sec := { d.sec with fieldDebug := x } } : Dev).bare.life = d.bare.life := rfl
@[simp] theorem Dev.life_owner (d : Dev) (x : Option (List Nat)) :
    ({ d with sec := { d.sec with owner := x } } : Dev).bare.life = d.bare.life := rfl
@[simp] theorem Dev.life_fw0 (d : Dev) (x : List Nat) :
    ({ d with sec := { d.sec with fw0 := x } } : Dev).bare.life = d.bare.life := rfl
@[simp] theorem Dev.life_fw1 (d : Dev) (x : List Nat) :
    ({ d with sec := { d.sec with fw1 := x } } : Dev).bare.life = d.bare.life := rfl
@[simp] theorem Dev.life_licence (d : Dev) (x : List Nat) (p : Bool) :
    ({ d with sec := { d.sec with licence := x, licPending := p } } : Dev).bare.life = d.bare.life := rfl
@[simp] theorem Dev.life_licEval (d : Dev) (n e : Nat) (p : Bool) (x : List Nat) :
    ({ d with variant := n, sec := { d.sec with licEval := e, licPending := p, licEffect := x } } : Dev).bare.life
      = d.bare.life := rfl
@[simp] theorem Dev.life_booted (d : Dev) (n : Nat) :
    ({ d with sec := { d.sec with booted := n } } : Dev).bare.life = d.bare.life := rfl
@[simp] theorem Dev.life_bootSlot (d : Dev) (n v : Nat) :
    ({ d with sec := { d.sec with booted := n, svnRunning := v } } : Dev).bare.life = d.bare.life := rfl
@[simp] theorem Dev.life_bootEvent_booted (d : Dev) (e n : Nat) :
    ({ d with bootEvent := e, sec := { d.sec with booted := n } } : Dev).bare.life = d.bare.life := rfl

/-! ### Operations that leave the life cycle alone -/

@[simp] theorem Dev.host_life (d : Dev) (f : Dev → Dev) (hf : ∀ d, (f d).bare.life = d.bare.life) : (d.host f).bare.life = d.bare.life := by
  simp [Dev.host, hf]

@[simp] theorem Dev.lowerBin_life (d : Dev) (s : Nat) (row : Nat) :
    (Dev.lowerBin d s row).bare.life = d.bare.life := by
  unfold Dev.lowerBin
  simp; (repeat' split) <;> simp

@[simp] theorem Dev.correctedRead_life (d : Dev) (a : Nat) (symbols : Nat) (row : Nat) (retention : Bool) (scrub : Bool) :
    (Dev.correctedRead d a symbols row retention scrub).bare.life = d.bare.life := by
  unfold Dev.correctedRead
  simp

@[simp] theorem Dev.noteRead_life (d : Dev) (a : Nat) (scrub : Bool) :
    (Dev.noteRead d a scrub).1.bare.life = d.bare.life := by
  unfold Dev.noteRead
  (repeat' split) <;> simp

@[simp] theorem Dev.dieRead_life (d : Dev) (m : Mem) (a : Nat) (ecc : Ecc) (scrub : Bool) :
    (Dev.dieRead d m a ecc scrub).1.bare.life = d.bare.life := by
  unfold Dev.dieRead
  simp

@[simp] theorem Dev.dieModify_life (d : Dev) (a : Nat) (scrub : Bool) :
    (Dev.dieModify d a scrub).1.bare.life = d.bare.life := by
  unfold Dev.dieModify
  simp; (repeat' split) <;> simp

@[simp] theorem Dev.openLine_life (d : Dev) (a : Nat) (whole : Bool) :
    (Dev.openLine d a whole).1.bare.life = d.bare.life := by
  unfold Dev.openLine
  simp

@[simp] theorem Dev.writeLine_life (d : Dev) (a : Nat) (bs : List Nat) (poison : Bool) :
    (Dev.writeLine d a bs poison).bare.life = d.bare.life := by
  unfold Dev.writeLine
  simp

@[simp] theorem Dev.writeBytes_life (d : Dev) (a : Nat) (bs : List Nat) (poison : Bool) :
    (Dev.writeBytes d a bs poison).bare.life = d.bare.life := by
  unfold Dev.writeBytes
  simp

@[simp] theorem Dev.noteBytes_life (d : Dev) (a : Nat) (n : Nat) :
    (Dev.noteBytes d a n).bare.life = d.bare.life := by
  unfold Dev.noteBytes
  simp

@[simp] theorem Dev.noteRegion_life (d : Dev) (name : Nat) (o : Nat) (n : Nat) :
    (Dev.noteRegion d name o n).bare.life = d.bare.life := by
  unfold Dev.noteRegion
  simp

@[simp] theorem Dev.writeUnit_life (d : Dev) (h : Nat) (o : Nat) (bs : List Nat) (poison : Bool) :
    (Dev.writeUnit d h o bs poison).bare.life = d.bare.life := by
  unfold Dev.writeUnit
  (repeat' split) <;> simp

theorem Dev.writeEntry_life {d d' : Dev} {h o : Nat} {bs : List Nat} {poison : Bool}
    (hd : d.writeEntry h o bs poison = some d') : d'.bare.life = d.bare.life := by
  simp only [Dev.writeEntry] at hd
  split at hd
  · cases hd; simp
  · cases hd

@[simp] theorem Dev.writeEntry_getD_life (d : Dev) (h o : Nat) (bs : List Nat) (poison : Bool) (e : Dev) (he : e.bare.life = d.bare.life) :
    ((d.writeEntry h o bs poison).getD e).bare.life = d.bare.life := by
  cases hd : d.writeEntry h o bs poison with
  | none => simpa using he
  | some d' => simpa using Dev.writeEntry_life hd

theorem Dev.writeRegion_life {d d' : Dev} {h o : Nat} {bs : List Nat} {poison : Bool}
    (hd : d.writeRegion h o bs poison = some d') : d'.bare.life = d.bare.life := by
  exact Dev.writeEntry_life hd

@[simp] theorem Dev.writeRegion_getD_life (d : Dev) (h o : Nat) (bs : List Nat) (poison : Bool) (e : Dev) (he : e.bare.life = d.bare.life) :
    ((d.writeRegion h o bs poison).getD e).bare.life = d.bare.life := by
  cases hd : d.writeRegion h o bs poison with
  | none => simpa using he
  | some d' => simpa using Dev.writeRegion_life hd

@[simp] theorem Dev.dump_life (d : Dev) :
    (Dev.dump d).bare.life = d.bare.life := by
  unfold Dev.dump
  dsimp only
  split
  · simp
  · split
    next hd => simpa using Dev.writeRegion_life hd
    next => simp

@[simp] theorem Dev.snapshot_life (d : Dev)  :
    (d.snapshot).bare.life = d.bare.life := by
  unfold Dev.snapshot
  dsimp only
  split
  · rfl
  · split
    · split
      · rename_i hd
        simpa using Dev.writeRegion_life hd
      · simp
    · simp

@[simp] theorem Dev.performWrite_life (d : Dev) (m : Mem) (r : Req) (as : List Nat) :
    (Dev.performWrite d m r as).bare.life = d.bare.life := by
  unfold Dev.performWrite
  simp; (repeat' split) <;> simp

@[simp] theorem Dev.performAdd_life (d : Dev) (m : Mem) (r : Req) (as : List Nat) :
    (d.performAdd m r as).1.bare.life = d.bare.life := by
  have key : ∀ (l : List Nat) (g : Dev × Nat → Nat → Dev × Nat), (∀ b i, (g b i).1.bare.life = b.1.bare.life) →
      (l.foldl g (d, 0)).1.bare.life = d.bare.life := fun l g hg =>
    Dev.foldl_keep (fun (x : Dev × Nat) => x.1.bare.life = d.bare.life) _ (fun x i hx => (hg x i).trans hx) _ _ rfl
  have h := key (linesOf as) (fun (d, k) a =>
    let (d, j) := d.dieModify a false
    (d, max k j)) (fun b i => by simp)
  unfold Dev.performAdd
  dsimp only at h ⊢
  repeat' split
  all_goals simp [h]

@[simp] theorem Dev.endRequests_life (d : Dev) (m : Mem) (rs : List Req) (status : Nat) :
    (Dev.endRequests d m rs status).bare.life = d.bare.life := by
  unfold Dev.endRequests
  refine Dev.life_foldl _ (fun e r => ?_) _ _
  dsimp only
  (repeat' split) <;> simp [Dev.fresh]

@[simp] theorem Dev.failRequests_life (d : Dev) (m : Mem) (s : Nat) (moving : List Nat) :
    (Dev.failRequests d m s moving).bare.life = d.bare.life := by
  unfold Dev.failRequests
  simp

@[simp] theorem Dev.failStack_life (d : Dev) (m : Mem) (s : Nat) (bits : Nat) (sub : Nat) (p0 : Nat) (p1 : Nat) (p2 : Nat) :
    (Dev.failStack d m s bits sub p0 p1 p2).bare.life = d.bare.life := by
  unfold Dev.failStack
  simp

theorem Dev.begin_life {d d' : Dev} {m : Mem} {s i : Nat} {ecc : Ecc} {p : ReqKind → Bool} {r : Req}
    (hd : d.begin m s i ecc p = some (r, d')) : d'.bare.life = d.bare.life := by
  simp only [Dev.begin] at hd
  split at hd
  · cases hd
  · obtain ⟨x, _, hx⟩ := Option.bind_eq_some_iff.1 hd
    obtain ⟨q, rest⟩ := x
    dsimp only at hx
    split at hx
    · cases hx; simp
    · cases hx

@[simp] theorem Dev.stackRead_life (d : Dev) (m : Mem) (s : Nat) (i : Nat) (ecc : Ecc) :
    (Dev.stackRead d m s i ecc).bare.life = d.bare.life := by
  unfold Dev.stackRead
  split
  next hd => simpa using Dev.begin_life hd
  next => rfl

@[simp] theorem Dev.stackWrite_life (d : Dev) (m : Mem) (s : Nat) (i : Nat) (ecc : Ecc) :
    (Dev.stackWrite d m s i ecc).bare.life = d.bare.life := by
  unfold Dev.stackWrite
  split
  next hd => simpa using Dev.begin_life hd
  next => rfl

@[simp] theorem Dev.atomicAdd_life (d : Dev) (m : Mem) (s : Nat) (i : Nat) (ecc : Ecc) :
    (Dev.atomicAdd d m s i ecc).bare.life = d.bare.life := by
  unfold Dev.atomicAdd
  split
  next hd => simpa using Dev.begin_life hd
  next => rfl

@[simp] theorem Dev.copyRow_life (d : Dev) (s : Nat) (row : Nat) :
    (Dev.copyRow d s row).bare.life = d.bare.life := by
  unfold Dev.copyRow
  simp

@[simp] theorem Dev.spareRow_life (d : Dev) (s : Nat) (r : Nat) :
    (Dev.spareRow d s r).bare.life = d.bare.life := by
  unfold Dev.spareRow
  simp

@[simp] theorem Dev.rowRepair_life (d : Dev) (s : Nat) :
    (Dev.rowRepair d s).bare.life = d.bare.life := by
  unfold Dev.rowRepair
  (repeat' split) <;> simp

@[simp] theorem Dev.scrub_life (d : Dev) (m : Mem) (a : Nat) (ecc : Ecc) :
    (Dev.scrub d m a ecc).1.bare.life = d.bare.life := by
  unfold Dev.scrub
  simp

@[simp] theorem Dev.patrolScrub_life (d : Dev) (m : Mem) (s : Nat) (ecc : Ecc) :
    (Dev.patrolScrub d m s ecc).bare.life = d.bare.life := by
  unfold Dev.patrolScrub
  simp

@[simp] theorem Dev.demandScrub_life (d : Dev) (m : Mem) (s : Nat) (ecc : Ecc) :
    (Dev.demandScrub d m s ecc).bare.life = d.bare.life := by
  unfold Dev.demandScrub
  (repeat' split) <;> simp

@[simp] theorem Dev.stackNoAnswer_life (d : Dev) (m : Mem) (s : Nat) :
    (Dev.stackNoAnswer d m s).bare.life = d.bare.life := by
  unfold Dev.stackNoAnswer
  simp

@[simp] theorem Dev.withHead_life (d : Dev) (e op : Nat) (f : Dev → Packet → Dev) (hf : ∀ d p, (f d p).bare.life = d.bare.life) :
    (d.withHead e op f).bare.life = d.bare.life := by
  unfold Dev.withHead
  split
  · split
    · simp [hf]
    · rfl
  · rfl

theorem Dev.sequence_life {d d' : Dev} {e : Nat} {p : Packet}
    (hd : d.sequence e p = .error d') : d'.bare.life = d.bare.life := by
  simp only [Dev.sequence] at hd
  split at hd
  · cases hd; simp
  · split at hd
    · cases hd; simp
    · split at hd
      · cases hd; simp
      · split at hd
        · cases hd
        · cases hd; split <;> simp

theorem Dev.receive_life (d : Dev) (e : Nat) (p : Packet) (f : Dev → Nat → Except Nat Dev)
    (hf : ∀ c d', f d c = .ok d' → d'.bare.life = d.bare.life) : (d.receive e p f).bare.life = d.bare.life := by
  unfold Dev.receive
  split
  · exact Dev.sequence_life ‹_›
  · split
    · simpa using hf _ _ ‹_›
    · simp

theorem Dev.performWritePacket_life {d d' : Dev} {e : Nat} {p : Packet} {c : Nat}
    (hd : d.performWritePacket e p c = .ok d') : d'.bare.life = d.bare.life := by
  simp only [Dev.performWritePacket] at hd
  split at hd
  · cases hd; exact Dev.writeRegion_life ‹_›
  · cases hd

@[simp] theorem Dev.addElements_life (d : Dev) (m : Mem) (h o : Nat) (f : Format) (poison : Bool) (xs : List (List Nat)) :
    (d.addElements m h o f poison xs).bare.life = d.bare.life := by
  induction xs generalizing d o with
  | nil => rfl
  | cons x xs ih =>
    unfold Dev.addElements
    dsimp only
    rw [ih]
    split <;> simp

theorem Dev.performAddPacket_life {d d' : Dev} {m : Mem} {e : Nat} {p : Packet} {c : Nat}
    (hd : d.performAddPacket m e p c = .ok d') : d'.bare.life = d.bare.life := by
  simp only [Dev.performAddPacket] at hd
  split at hd
  · cases hd
  · split at hd
    · cases hd
    · split at hd
      · cases hd
      · cases hd; simp

@[simp] theorem Dev.writePacket_life (d : Dev) (e : Nat) :
    (d.writePacket e).bare.life = d.bare.life := by
  unfold Dev.writePacket
  refine Dev.withHead_life _ _ _ _ ?_
  intro d p
  refine Dev.receive_life _ _ _ _ ?_
  intro c d' h
  exact Dev.performWritePacket_life h

@[simp] theorem Dev.addPacket_life (d : Dev) (m : Mem) (e : Nat) :
    (d.addPacket m e).bare.life = d.bare.life := by
  unfold Dev.addPacket
  refine Dev.withHead_life _ _ _ _ ?_
  intro d p
  refine Dev.receive_life _ _ _ _ ?_
  intro c d' h
  exact Dev.performAddPacket_life h

@[simp] theorem Dev.noteSlots_life (d : Dev) (working : Bool) :
    (Dev.noteSlots d working).bare.life = d.bare.life := by
  unfold Dev.noteSlots
  simp

@[simp] theorem Dev.setLedgerLive_life (d : Dev) (working : Bool) (n : Nat) :
    (Dev.setLedgerLive d working n).bare.life = d.bare.life := by
  unfold Dev.setLedgerLive
  simp

@[simp] theorem Dev.freeSlot_life (d : Dev) (m : Mem) (s : Nat) :
    (Dev.freeSlot d m s).bare.life = d.bare.life := by
  unfold Dev.freeSlot
  simp

@[simp] theorem Dev.colComplete_life (d : Dev) (k : Nat) (ab : Option AbortRec) (notAgreed : Bool) :
    (Dev.colComplete d k ab notAgreed).bare.life = d.bare.life := by
  unfold Dev.colComplete
  split
  · rfl
  next i hi =>
    dsimp only
    cases hw : d.writeRegion (i.handle 3) (i.off 3) (i.record ab notAgreed d.cad.mark) false with
    | none =>
      dsimp only
      (repeat' split) <;> simp
    | some d' =>
      have hd := Dev.writeRegion_life hw
      dsimp only
      (repeat' split) <;> simp [hd]

@[simp] theorem Dev.colDecide_life (d : Dev) (k : Nat) (ab : Option AbortRec) :
    (Dev.colDecide d k ab).bare.life = d.bare.life := by
  unfold Dev.colDecide
  (repeat' split) <;> simp

@[simp] theorem Dev.colAbort_life (d : Dev) (k : Nat) (code : Nat) (rank : Nat) (chunk : Nat) :
    (Dev.colAbort d k code rank chunk).bare.life = d.bare.life := by
  unfold Dev.colAbort
  (repeat' split) <;> simp

@[simp] theorem Dev.colSent_life (x : Dev × Bool) (k r : Nat) : (Dev.colSent x k r).bare.life = x.1.bare.life := by
  simp [Dev.colSent]

@[simp] theorem Dev.colRead_life (d : Dev) (m : Mem) (i : Inst) (o : Nat) (n : Nat) (chunk : Nat) :
    (Dev.colRead d m i o n chunk).1.bare.life = d.bare.life := by
  unfold Dev.colRead
  (repeat' split) <;> simp

@[simp] theorem Dev.colWrite_life (d : Dev) (k : Nat) (block : Nat) (j : Nat) (o : Nat) (data : List Nat) :
    (Dev.colWrite d k block j o data).bare.life = d.bare.life := by
  unfold Dev.colWrite
  split
  · rfl
  · split
    · simp
    next hd => simpa using Dev.writeRegion_life hd

@[simp] theorem Dev.sendResult_life (d : Dev) (k : Nat) (j : Nat) (data : List Nat) (s : ChunkStat) :
    (Dev.sendResult d k j data s).bare.life = d.bare.life := by
  unfold Dev.sendResult
  split
  · rfl
  · refine Dev.life_foldl _ (fun e r => ?_) _ _
    split <;> simp

@[simp] theorem Dev.sendStats_life (d : Dev) (k : Nat) (j : Nat) (s : ChunkStat) (from_ : Option Nat) :
    (Dev.sendStats d k j s from_).bare.life = d.bare.life := by
  unfold Dev.sendStats
  (repeat' split) <;> simp

@[simp] theorem Dev.reduceChunk_life (d : Dev) (m : Mem) (k j : Nat) :
    (d.reduceChunk m k j).bare.life = d.bare.life := by
  unfold Dev.reduceChunk
  split
  · rfl
  · rename_i i _
    dsimp only
    split
    · rfl
    · generalize hx : (if i.isExcl (i.bucketOf j) = true then (d, none) else d.colRead m i (j * i.cb) (i.chunkLen j) j) = x
      have h : x.1.bare.life = d.bare.life := by rw [← hx]; split <;> simp
      obtain ⟨d1, own⟩ := x
      dsimp only at h ⊢
      rw [← h]
      split
      · rfl
      · split
        · split
          all_goals simp
        · simp

@[simp] theorem Dev.takeFolds_life (d : Dev) (m : Mem) (k : Nat) :
    (d.takeFolds m k).bare.life = d.bare.life := by
  unfold Dev.takeFolds
  split
  · rfl
  · dsimp only
    split
    · rfl
    · split
      · simp
      · refine (Dev.life_foldl _ ?_ _ _).trans (by simp)
        intro d x
        split
        · rfl
        · split
          · rfl
          · split <;> simp

@[simp] theorem Dev.sendBlocks_life (d : Dev) (m : Mem) (k j : Nat) :
    (d.sendBlocks m k j).bare.life = d.bare.life := by
  unfold Dev.sendBlocks
  split
  · rfl
  · dsimp only
    split
    · rfl
    · split
      · refine (Dev.life_foldl _ ?_ _ _).trans (by simp)
        intro d x
        split
        · split
          · rename_i hp; cases Dev.fst_of_eq hp; simp
          · rename_i hp; cases Dev.fst_of_eq hp; split <;> simp
        · rfl
      · split
        · rename_i hp; cases Dev.fst_of_eq hp; simp
        · rename_i hp; cases Dev.fst_of_eq hp; simp

@[simp] theorem Dev.beginMoves_life (d : Dev) (m : Mem) (k : Nat) :
    (Dev.beginMoves d m k).bare.life = d.bare.life := by
  unfold Dev.beginMoves
  split
  · rfl
  · split
    · rfl
    · dsimp only
      split
      · simp
      · split
        · simp
        · refine (Dev.life_foldl _ (fun e q => ?_) _ _).trans (by simp)
          split
          · rfl
          · split
            · simp
            · refine Dev.life_foldl _ (fun f c => ?_) _ _
              split
              · rfl
              · split <;> simp

@[simp] theorem Dev.stageMove_life (d : Dev) (m : Mem) (k : Nat) :
    (Dev.stageMove d m k).bare.life = d.bare.life := by
  unfold Dev.stageMove
  simp; (repeat' split) <;> simp

@[simp] theorem Dev.writeMove_life (d : Dev) (k : Nat) (x : Xfer) :
    (d.writeMove k x).bare.life = d.bare.life := by
  unfold Dev.writeMove
  split
  · rfl
  · rename_i i _
    dsimp only
    split
    · simp
    · rename_i d' hd
      rw [show (d'.onInst _ _).bare = d'.bare from Dev.onInst_mask (by decide) ..]
      refine Dev.foldl_keep (fun (b : Option Dev) => ∀ d', b = some d' → d'.bare.life = d.bare.life) _ ?_ _ _ ?_ _ hd
      · intro b x hb d' h
        split at h
        · exact hb _ h
        · cases b with
          | none => cases h
          | some d1 => exact (Dev.writeRegion_life h).trans (hb d1 rfl)
      · intro d' h; cases h; rfl

@[simp] theorem Dev.grantMoves_life (d : Dev) (k : Nat) :
    (Dev.grantMoves d k).bare.life = d.bare.life := by
  unfold Dev.grantMoves
  split
  · rfl
  · split
    · rfl
    · refine (Dev.life_foldl _ (fun e x => ?_) _ _).trans (Dev.life_foldl _ (fun e x => ?_) _ _)
      · split
        · rfl
        · dsimp only
          split <;> simp
      · split <;> simp

@[simp] theorem Dev.voteNow_life (d : Dev) (k : Nat) :
    (Dev.voteNow d k).bare.life = d.bare.life := by
  unfold Dev.voteNow
  (repeat' split) <;> simp

@[simp] theorem Dev.colPass_life (d : Dev) (m : Mem) (k : Nat) :
    (Dev.colPass d m k).bare.life = d.bare.life := by
  unfold Dev.colPass
  (repeat' split) <;> simp

@[simp] theorem Dev.colPasses_life (d : Dev) (m : Mem) (k n : Nat) :
    (d.colPasses m k n).bare.life = d.bare.life := by
  induction n generalizing d with
  | zero => rfl
  | succ n ih =>
    unfold Dev.colPasses
    dsimp only
    split
    · rw [ih]; exact Dev.colPass_life ..
    · exact Dev.colPass_life ..

@[simp] theorem Dev.colAdvance_life (d : Dev) (m : Mem) (k : Nat) :
    (Dev.colAdvance d m k).bare.life = d.bare.life := by
  unfold Dev.colAdvance
  (repeat' split) <;> simp

@[simp] theorem Dev.colAdvanceAll_life (d : Dev) (m : Mem) :
    (Dev.colAdvanceAll d m).bare.life = d.bare.life := by
  unfold Dev.colAdvanceAll
  simp

@[simp] theorem Dev.replayExcl_life (d : Dev) (m : Mem) (i : Inst) :
    (d.replayExcl m i).1.bare.life = d.bare.life := by
  unfold Dev.replayExcl
  split
  · refine Dev.foldl_keep (fun (b : Dev × List (Nat × Nat)) => b.1.bare.life = d.bare.life) _ ?_ _ _ rfl
    intro b x hb
    dsimp only
    rw [← hb]
    simp
  · rfl

@[simp] theorem Dev.colStart_life (d : Dev) (m : Mem) (k : Nat) (raw : List Nat) (step : Option Nat) :
    (d.colStart m k raw step).bare.life = d.bare.life := by
  unfold Dev.colStart
  dsimp only
  split
  · simp
  · split
    · simp
    · split
      · simp
      · split
        · simp
        · simp

@[simp] theorem Dev.lateChunk_life (d : Dev) (m : Mem) (i : Inst) (j : Nat) :
    (Dev.lateChunk d m i j).bare.life = d.bare.life := by
  unfold Dev.lateChunk
  (repeat' split) <;> simp

@[simp] theorem Dev.colReady_life (d : Dev) (m : Mem) (k : Nat) (b : Nat) (step : Option Nat) :
    (Dev.colReady d m k b step).bare.life = d.bare.life := by
  unfold Dev.colReady
  simp; (repeat' split) <;> simp

theorem Dev.lateReady_life {d d' : Dev} {m : Mem} {k b : Nat} {step : Option Nat}
    (hd : d.lateReady m k b step = some d') : d'.bare.life = d.bare.life := by
  simp only [Dev.lateReady] at hd
  split at hd
  · cases hd
  · split at hd
    · cases hd; simp
    · cases hd; simp

@[simp] theorem Dev.colPostReady_life (d : Dev) (m : Mem) (v : Nat) (step : Option Nat) :
    (d.colPostReady m v step).bare.life = d.bare.life := by
  unfold Dev.colPostReady
  dsimp only
  split
  · simp
  · split
    · exact Dev.lateReady_life ‹_›
    · split <;> simp

@[simp] theorem Dev.colPost_life (d : Dev) (m : Mem) (v : Nat) (step : Option Nat) :
    (Dev.colPost d m v step).bare.life = d.bare.life := by
  unfold Dev.colPost
  (repeat' split) <;> simp

theorem Dev.colControl_life (d : Dev) (e c : Nat) (p : Packet) (b1 direct quiet : Bool)
    (f : Dev → Nat → Dev) (hf : ∀ d k, (f d k).bare.life = d.bare.life) : (d.colControl e c p b1 direct quiet f).bare.life = d.bare.life := by
  have h {e : Dev} (he : e.bare.life = d.bare.life) : e.bare.life = d.bare.life := he
  unfold Dev.colControl
  dsimp only
  split
  · exact h (by simp)
  · split
    · exact h (by simp)
    · split
      · exact hf ..
      · split
        · rfl
        · exact h (by simp)
      · exact h (by simp)
      · split
        · rfl
        · exact h (by simp)

@[simp] theorem Dev.colBegin_life (d : Dev) (e : Nat) (c : Nat) (p : Packet) :
    (Dev.colBegin d e c p).bare.life = d.bare.life := by
  unfold Dev.colBegin
  refine Dev.colControl_life _ _ _ _ _ _ _ _ fun e k => ?_
  (repeat' split) <;> simp

@[simp] theorem Dev.colDataIn_life (d : Dev) (e : Nat) (c : Nat) (p : Packet) :
    (Dev.colDataIn d e c p).bare.life = d.bare.life := by
  unfold Dev.colDataIn
  (repeat' split) <;> simp

@[simp] theorem Dev.colConsume_life (d : Dev) (k : Nat) (x : Xfer) :
    (Dev.colConsume d k x).bare.life = d.bare.life := by
  unfold Dev.colConsume
  (repeat' split) <;> simp

@[simp] theorem Dev.colEndIn_life (d : Dev) (m : Mem) (e : Nat) (c : Nat) (p : Packet) :
    (Dev.colEndIn d m e c p).bare.life = d.bare.life := by
  unfold Dev.colEndIn
  (repeat' split) <;> simp

@[simp] theorem Dev.colVoteIn_life (d : Dev) (m : Mem) (e : Nat) (c : Nat) (p : Packet) :
    (Dev.colVoteIn d m e c p).bare.life = d.bare.life := by
  unfold Dev.colVoteIn
  exact Dev.colControl_life _ _ _ _ _ _ _ _ fun e k => by simp

@[simp] theorem Dev.colDecideIn_life (d : Dev) (e : Nat) (c : Nat) (p : Packet) :
    (Dev.colDecideIn d e c p).bare.life = d.bare.life := by
  unfold Dev.colDecideIn
  exact Dev.colControl_life _ _ _ _ _ _ _ _ fun e k => by simp

@[simp] theorem Dev.colAbortIn_life (d : Dev) (e : Nat) (c : Nat) (p : Packet) :
    (Dev.colAbortIn d e c p).bare.life = d.bare.life := by
  unfold Dev.colAbortIn
  refine Dev.colControl_life _ _ _ _ _ _ _ _ fun e k => ?_
  (repeat' split) <;> simp

@[simp] theorem Dev.colExclIn_life (d : Dev) (m : Mem) (e : Nat) (c : Nat) (p : Packet) :
    (Dev.colExclIn d m e c p).bare.life = d.bare.life := by
  unfold Dev.colExclIn
  refine Dev.colControl_life _ _ _ _ _ _ _ _ fun e k => ?_
  dsimp only
  (repeat' split) <;> simp

@[simp] theorem Dev.colGrantIn_life (d : Dev) (m : Mem) (e : Nat) (c : Nat) (p : Packet) :
    (Dev.colGrantIn d m e c p).bare.life = d.bare.life := by
  unfold Dev.colGrantIn
  refine Dev.colControl_life _ _ _ _ _ _ _ _ fun e k => ?_
  dsimp only
  (repeat' split) <;> simp

@[simp] theorem Dev.softDeadline_life (d : Dev) (m : Mem) (k : Nat) :
    (Dev.softDeadline d m k).bare.life = d.bare.life := by
  unfold Dev.softDeadline
  (repeat' split) <;> simp

@[simp] theorem Dev.colTimeout_life (d : Dev) (k : Nat) :
    (Dev.colTimeout d k).bare.life = d.bare.life := by
  unfold Dev.colTimeout
  (repeat' split) <;> simp

@[simp] theorem Dev.colAbortWhere_life (d : Dev) (p : Inst → Bool) (code : Nat) :
    (Dev.colAbortWhere d p code).bare.life = d.bare.life := by
  unfold Dev.colAbortWhere
  simp

@[simp] theorem Dev.colHostAbort_life (d : Dev) (colid : Nat) :
    (Dev.colHostAbort d colid).bare.life = d.bare.life := by
  unfold Dev.colHostAbort
  simp

@[simp] theorem Dev.colChannelFailed_life (d : Dev) (m : Mem) (c : Nat) :
    (Dev.colChannelFailed d m c).bare.life = d.bare.life := by
  unfold Dev.colChannelFailed
  refine Dev.life_foldl _ (fun e i => ?_) _ _
  split <;> simp

@[simp] theorem Dev.colRefused_life (d : Dev) (k : Nat) (c : Nat) :
    (Dev.colRefused d k c).bare.life = d.bare.life := by
  unfold Dev.colRefused
  (repeat' split) <;> simp

@[simp] theorem Dev.writeStepRecord_life (d : Dev) (spoiled : Bool) :
    (Dev.writeStepRecord d spoiled).bare.life = d.bare.life := by
  unfold Dev.writeStepRecord
  dsimp only
  split
  · simp
  · split
    · split
      next hd => simpa using Dev.writeRegion_life hd
      next => simp
    · simp

@[simp] theorem Dev.castVote_life (d : Dev) (m : Mem) :
    (Dev.castVote d m).bare.life = d.bare.life := by
  unfold Dev.castVote
  simp

@[simp] theorem Dev.castBadVote_life (d : Dev) (m : Mem) :
    (Dev.castBadVote d m).bare.life = d.bare.life := by
  unfold Dev.castBadVote
  simp

@[simp] theorem Dev.spoilNow_life (d : Dev) (m : Mem) (cause : Nat) (param : Nat) :
    (Dev.spoilNow d m cause param).bare.life = d.bare.life := by
  unfold Dev.spoilNow
  simp

@[simp] theorem Dev.spoilCause_life (d : Dev) (m : Mem) (cause : Nat) (param : Nat) :
    (Dev.spoilCause d m cause param).bare.life = d.bare.life := by
  unfold Dev.spoilCause
  (repeat' split) <;> simp

@[simp] theorem Dev.hostSpoil_life (d : Dev) (m : Mem) :
    (Dev.hostSpoil d m).bare.life = d.bare.life := by
  unfold Dev.hostSpoil
  simp

@[simp] theorem Dev.dropAged_life (d : Dev) (m : Mem) (k : Nat) :
    (d.dropAged m k).bare.life = d.bare.life := by
  unfold Dev.dropAged
  split
  · rfl
  · refine (Dev.life_foldl _ ?_ _ _).trans (by simp)
    intro d x
    split
    · split
      · simp
      · rfl
    · rfl

@[simp] theorem Dev.commitNow_life (d : Dev) (m : Mem) :
    (Dev.commitNow d m).bare.life = d.bare.life := by
  unfold Dev.commitNow
  simp only [Dev.postUnsolicited_mask (F := 260046847) (by decide), Dev.releaseCommits_mask (F := 260046847) (by decide),
    Dev.writeStepRecord_life, Dev.mask_stp (F := 260046847) (by decide), Dev.fset_mask (F := 260046847) (by decide),
    Dev.dropAged_life]

@[simp] theorem Dev.committing_life (d : Dev) (m : Mem) :
    (Dev.committing d m).bare.life = d.bare.life := by
  unfold Dev.committing
  simp

@[simp] theorem Dev.colSettle_life (d : Dev) (m : Mem) :
    (Dev.colSettle d m).bare.life = d.bare.life := by
  unfold Dev.colSettle
  simp

@[simp] theorem Dev.settled_life (d : Dev) (m : Mem) :
    (Dev.settled d m).bare.life = d.bare.life := by
  unfold Dev.settled
  simp

@[simp] theorem Dev.openMismatch_life (d : Dev) (m : Mem) (n : Nat) :
    (Dev.openMismatch d m n).bare.life = d.bare.life := by
  unfold Dev.openMismatch
  exact (Dev.spoilNow_life ..).trans rfl

@[simp] theorem Dev.stepOpenArrival_life (d : Dev) (m : Mem) (p : Nat) :
    (Dev.stepOpenArrival d m p).bare.life = d.bare.life := by
  unfold Dev.stepOpenArrival
  simp; (repeat' split) <;> simp

@[simp] theorem Dev.stepCommitArrival_life (d : Dev) (m : Mem) (p : Nat) :
    (Dev.stepCommitArrival d m p).bare.life = d.bare.life := by
  unfold Dev.stepCommitArrival
  simp; (repeat' split) <;> simp

@[simp] theorem Dev.commitTimeout_life (d : Dev) (m : Mem) :
    (Dev.commitTimeout d m).bare.life = d.bare.life := by
  unfold Dev.commitTimeout
  simp

@[simp] theorem Dev.cqHeader_life (d : Dev) (q : Nat) (tag : Option Nat) :
    (Dev.cqHeader d q tag).bare.life = d.bare.life := by
  unfold Dev.cqHeader
  (repeat' split) <;> simp

@[simp] theorem Dev.cqError_life (d : Dev) (m : Mem) (q : Nat) (err : Nat) (fails : Bool) :
    (Dev.cqError d m q err fails).bare.life = d.bare.life := by
  unfold Dev.cqError
  simp

@[simp] theorem Dev.cqConfigure_life (d : Dev) (v : Nat) :
    (d.cqConfigure v).bare.life = d.bare.life := by
  unfold Dev.cqConfigure
  dsimp only
  split
  · rfl
  · split
    · simp only [Dev.setCouch_mask (F := 260046847) (by decide)]
      simp
    · split
      · simp
      · split
        · simp only [Dev.setCouch_mask (F := 260046847) (by decide)]
          simp
        · refine (Dev.writeRegion_getD_life _ _ _ _ _ _ rfl).trans ?_
          simp only [Dev.setCouch_mask (F := 260046847) (by decide)]
          simp

theorem Dev.takePost_life {d d' : Dev} {t k : Nat} {p : Nat → Bool} {q : Post}
    (hd : d.takePost t k p = some (q, d')) : d'.bare.life = d.bare.life := by
  simp only [Dev.takePost] at hd
  split at hd
  · split at hd
    · cases hd; simp
    · cases hd
  · cases hd

@[simp] theorem Dev.spoilCauseIfOpen_life (d : Dev) (m : Mem) :
    (Dev.spoilCauseIfOpen d m).bare.life = d.bare.life := by
  unfold Dev.spoilCauseIfOpen
  simp

@[simp] theorem Dev.badPost_life (d : Dev) (m : Mem) (tile : Nat) :
    (Dev.badPost d m tile).bare.life = d.bare.life := by
  unfold Dev.badPost
  split
  next hd => simpa using Dev.takePost_life hd
  next => rfl

@[simp] theorem Dev.cqMisdirected_life (d : Dev) (m : Mem) (q : Nat) :
    (Dev.cqMisdirected d m q).bare.life = d.bare.life := by
  unfold Dev.cqMisdirected
  simp

@[simp] theorem Dev.cqNotice_life (d : Dev) (m : Mem) (q : Nat) (op : Nat) (tag : Nat) :
    (Dev.cqNotice d m q op tag).bare.life = d.bare.life := by
  unfold Dev.cqNotice
  simp; (repeat' split) <;> simp

@[simp] theorem Dev.cqPushed_life (d : Dev) (q : Nat) (tag : Nat) :
    (Dev.cqPushed d q tag).bare.life = d.bare.life := by
  unfold Dev.cqPushed
  simp

@[simp] theorem Dev.cqPush_life (d : Dev) (m : Mem) (tile : Nat) :
    (d.cqPush m tile).bare.life = d.bare.life := by
  unfold Dev.cqPush
  split
  · rfl
  · rename_i hd
    have h0 := Dev.takePost_life hd
    dsimp only
    split
    · exact h0
    · split
      · simpa using h0
      · split
        · simpa using h0
        · split
          · simpa using h0
          · split
            · simpa using h0
            · split <;> simpa using h0

@[simp] theorem Dev.cqPop_life (d : Dev) (m : Mem) (tile : Nat) :
    (Dev.cqPop d m tile).bare.life = d.bare.life := by
  unfold Dev.cqPop
  split
  · rfl
  next hd =>
    have hp := Dev.takePost_life hd
    dsimp only
    (repeat' split) <;> simpa using hp

@[simp] theorem Dev.cqSlotAcked_life (d : Dev) (m : Mem) (q : Nat) :
    (Dev.cqSlotAcked d m q).bare.life = d.bare.life := by
  unfold Dev.cqSlotAcked
  simp; (repeat' split) <;> simp

@[simp] theorem Dev.cqDataIn_life (d : Dev) (e : Nat) (same : Bool) :
    (d.cqDataIn e same).bare.life = d.bare.life := by
  unfold Dev.cqDataIn
  refine Dev.withHead_life _ _ _ _ ?_
  intro d p
  refine Dev.receive_life _ _ _ _ ?_
  intro c d' h
  dsimp only at h
  split at h
  · cases h
  · split at h
    next hd =>
      cases h
      exact Dev.writeRegion_life hd
    next => cases h

@[simp] theorem Dev.cqPushNotice_life (d : Dev) (m : Mem) (e : Nat) :
    (d.cqPushNotice m e).bare.life = d.bare.life := by
  unfold Dev.cqPushNotice
  refine Dev.withHead_life _ _ _ _ ?_
  intro d p
  refine Dev.receive_life _ _ _ _ ?_
  intro c d' h
  dsimp only at h
  split at h
  · cases h
  · (repeat' split at h) <;> cases h <;> simp

@[simp] theorem Dev.cqPopNotice_life (d : Dev) (m : Mem) (e : Nat) :
    (d.cqPopNotice m e).bare.life = d.bare.life := by
  unfold Dev.cqPopNotice
  refine Dev.withHead_life _ _ _ _ ?_
  intro d p
  refine Dev.receive_life _ _ _ _ ?_
  intro c d' h
  dsimp only at h
  split at h
  · cases h
  · (repeat' split at h) <;> cases h <;> simp

@[simp] theorem Dev.couchChannelFailed_life (d : Dev) (m : Mem) (c : Nat) :
    (Dev.couchChannelFailed d m c).bare.life = d.bare.life := by
  unfold Dev.couchChannelFailed
  simp

@[simp] theorem Dev.afterFailures_life (d : Dev) (m : Mem) (d' : Dev) :
    (d.afterFailures m d').bare.life = d'.bare.life := by
  simp [Dev.afterFailures]

@[simp] theorem Dev.refusedUpper_life (d : Dev) (m : Mem) (status : Nat) (p : Packet × Owner) :
    (Dev.refusedUpper d m status p).bare.life = d.bare.life := by
  unfold Dev.refusedUpper
  (repeat' split) <;> simp

@[simp] theorem Dev.ackSpoil_life (d : Dev) :
    (Dev.ackSpoil d).bare.life = d.bare.life := by
  unfold Dev.ackSpoil
  simp

@[simp] theorem Dev.ledgerCopy_life (d : Dev) (m : Mem) :
    (d.ledgerCopy m).bare.life = d.bare.life := by
  unfold Dev.ledgerCopy
  split
  · rfl
  · dsimp only
    split
    · rfl
    · split
      · simp
      · rename_i d' hd
        simp only [Dev.settled_life, Dev.colAdvanceAll_life, Dev.mask_stp (F := 260046847) (by decide)]
        refine Dev.foldl_keep (fun (b : Option Dev) => ∀ d', b = some d' → d'.bare.life = d.bare.life) _ ?_ _ _ ?_ _ hd
        · intro b x hb d' h
          cases b with
          | none => cases h
          | some d1 =>
            refine Eq.trans ?_ (hb d1 rfl)
            dsimp only [Option.bind] at h
            split at h
            · split at h
              · cases h
              · exact (Dev.writeRegion_life h).trans (by simp)
            · exact Dev.writeRegion_life h
        · intro d' h; exact (Dev.writeRegion_life h).trans (by simp)

@[simp] theorem Dev.lateContribution_life (d : Dev) (m : Mem) (good : Bool) :
    (Dev.lateContribution d m good).bare.life = d.bare.life := by
  unfold Dev.lateContribution
  split
  · rfl
  · dsimp only
    split
    · rfl
    · split
      · simp
      · split
        · simp
        · split
          · simp
          next hd =>
            have hp := Dev.writeRegion_life hd
            split <;> simpa using hp

@[simp] theorem Dev.phasePost_life (d : Dev) (m : Mem) (tile : Nat) :
    (Dev.phasePost d m tile).bare.life = d.bare.life := by
  unfold Dev.phasePost
  split
  · rfl
  next hd =>
    have hp := Dev.takePost_life hd
    dsimp only
    (repeat' split) <;> simpa using hp

theorem Dev.startCmd_life (d : Dev) (q op : Nat) (f : Dev → HostCmd → Dev)
    (hf : ∀ d c, (f d c).bare.life = d.bare.life) : (d.startCmd q op f).bare.life = d.bare.life := by
  unfold Dev.startCmd
  dsimp only
  split
  · split
    · rw [hf]; simp
    · simp
  · simp

@[simp] theorem Dev.bar4Read_life (d : Dev) (m : Mem) (o : Nat) (n : Nat) (ecc : Ecc) :
    (Dev.bar4Read d m o n ecc).bare.life = d.bare.life := by
  unfold Dev.bar4Read
  simp

@[simp] theorem Dev.bar4Write_life (d : Dev) (m : Mem) (o : Nat) (bs : List Nat) (ecc : Ecc) :
    (Dev.bar4Write d m o bs ecc).bare.life = d.bare.life := by
  unfold Dev.bar4Write
  simp

@[simp] theorem Dev.urgColAbort_life (d : Dev) (m : Mem) (v : Nat) :
    (Dev.urgColAbort d m v).bare.life = d.bare.life := by
  unfold Dev.urgColAbort
  simp

@[simp] theorem Dev.urgSpoil_life (d : Dev) (m : Mem) (v : Nat) :
    (Dev.urgSpoil d m v).bare.life = d.bare.life := by
  unfold Dev.urgSpoil
  simp

@[simp] theorem Dev.placeManifest_life (d : Dev) (m : Mem) (off : Nat) (len : Nat) :
    (Dev.placeManifest d m off len).1.bare.life = d.bare.life := by
  unfold Dev.placeManifest
  simp; (repeat' split) <;> simp

@[simp] theorem Dev.placeCommand_life (d : Dev) (m : Mem) (q : Nat) :
    (Dev.placeCommand d m q).bare.life = d.bare.life := by
  unfold Dev.placeCommand
  exact Dev.startCmd_life _ _ _ _ fun e c => by simp

theorem Dev.takeEvent_life {d d' : Dev} {p : DkEvent → Bool} {q : DkEvent}
    (hd : d.takeEvent p = some (q, d')) : d'.bare.life = d.bare.life := by
  simp only [Dev.takeEvent] at hd
  split at hd
  · cases hd; simp
  · cases hd

theorem Dev.takeRemap_life {d d' : Dev} {p : DkEvent → Bool} {q : DkEvent}
    (hd : d.takeRemap p = some (q, d')) : d'.bare.life = d.bare.life := by
  simp only [Dev.takeRemap] at hd
  split at hd
  · cases hd
  · exact Dev.takeEvent_life hd

@[simp] theorem Dev.tileRemap_life (d : Dev) (m : Mem) :
    (Dev.tileRemap d m).bare.life = d.bare.life := by
  unfold Dev.tileRemap
  split
  next hd _ =>
    have hp := Dev.takeRemap_life hd
    dsimp only
    split <;> simpa using hp
  next => rfl

@[simp] theorem Dev.remapped_life (d : Dev) (m : Mem) (bad : List Nat) :
    (Dev.remapped d m bad).bare.life = d.bare.life := by
  unfold Dev.remapped
  simp; (repeat' split) <;> simp

@[simp] theorem Dev.copyLine_life (d : Dev) (m : Mem) (src dst : Nat) (ecc : Option Ecc) :
    (d.copyLine m src dst ecc).bare.life = d.bare.life := by
  unfold Dev.copyLine
  cases ecc <;> simp

@[simp] theorem Dev.migrationCopy_life (d : Dev) (m : Mem) (line : Nat) (ecc : Ecc) :
    (Dev.migrationCopy d m line ecc).bare.life = d.bare.life := by
  unfold Dev.migrationCopy
  (repeat' split) <;> simp

@[simp] theorem Dev.loadImage_life (d : Dev) (m : Mem) (e : Nat) (s : Nat) (h : Nat) (o : Nat) :
    (Dev.loadImage d m e s h o).1.bare.life = d.bare.life := by
  unfold Dev.loadImage
  (repeat' split) <;> simp

@[simp] theorem Dev.slvLoadComplete_life (d : Dev) (m : Mem) (e : Nat) :
    (Dev.slvLoadComplete d m e).bare.life = d.bare.life := by
  unfold Dev.slvLoadComplete
  simp; (repeat' split) <;> simp

@[simp] theorem Dev.publishRecord_life (d : Dev) (l : Launch) (n : Nat) (stride : Nat) (hash : Nat) (rstat : Nat) (c : CycleSum) :
    (Dev.publishRecord d l n stride hash rstat c).bare.life = d.bare.life := by
  unfold Dev.publishRecord
  dsimp only
  split
  next hd => simpa using Dev.writeRegion_life hd
  next => simp

@[simp] theorem Dev.refuseLaunch_life (d : Dev) (l : Launch) (rstat : Nat) :
    (Dev.refuseLaunch d l rstat).bare.life = d.bare.life := by
  unfold Dev.refuseLaunch
  simp

@[simp] theorem Dev.solverLaunch_life (d : Dev) :
    (Dev.solverLaunch d).bare.life = d.bare.life := by
  unfold Dev.solverLaunch
  simp; (repeat' split) <;> simp

@[simp] theorem Dev.readHist_life (d : Dev) (m : Mem) (l : Launch) (s : Struct) (i : Nat) :
    (Dev.readHist d m l s i).1.bare.life = d.bare.life := by
  unfold Dev.readHist
  simp

@[simp] theorem Dev.readHalted_life (d : Dev) (m : Mem) (l : Launch) (s : Struct) (i : Nat) :
    (Dev.readHalted d m l s i).1.bare.life = d.bare.life := by
  unfold Dev.readHalted
  simp

@[simp] theorem Dev.writeHist_life (d : Dev) (l : Launch) (s : Struct) (i : Nat) (h : Hist) :
    (Dev.writeHist d l s i h).bare.life = d.bare.life := by
  unfold Dev.writeHist
  simp

@[simp] theorem Dev.noteFactor_life (d : Dev) (l : Launch) (s : Struct) (i : Nat) :
    (Dev.noteFactor d l s i).bare.life = d.bare.life := by
  unfold Dev.noteFactor
  simp

@[simp] theorem Dev.compute_life (d : Dev) (m : Mem) (e : Nat) (c : Cycle) (s : Struct) (i : Nat) :
    (Dev.compute d m e c s i).1.bare.life = d.bare.life := by
  unfold Dev.compute
  simp; (repeat' split) <;> simp

@[simp] theorem Dev.settleInstance_life (d : Dev) (m : Mem) (e : Nat) (l : Launch) (n : Nat) (misslim : Nat) (s : Struct) (i : Nat) (r : Option InstResult) (rest : Rest) (began : Bool) :
    (Dev.settleInstance d m e l n misslim s i r rest began).1.bare.life = d.bare.life := by
  unfold Dev.settleInstance
  simp; (repeat' split) <;> simp

@[simp] theorem Dev.publishValues_life (d : Dev) (l : Launch) (o : Nat) (xs : List Nat) (poison : Bool) :
    (Dev.publishValues d l o xs poison).bare.life = d.bare.life := by
  unfold Dev.publishValues
  simp

theorem Dev.keepFactors_life {d d' : Dev} {l : Launch} {n : Nat} {s : Struct} {rs : List InstResult}
    (hd : d.keepFactors l n s rs = some d') : d'.bare.life = d.bare.life := by
  simp only [Dev.keepFactors] at hd
  split at hd
  · cases hd
  · rename_i d1 h1
    rw [Dev.writeRegion_life hd, Dev.life_foldl, Dev.writeRegion_life h1]
    intro d x; split <;> simp

@[simp] theorem Dev.keepFactors_getD_life (d : Dev) (l : Launch) (n : Nat) (s : Struct) (rs : List InstResult) (e : Dev) (he : e.bare.life = d.bare.life) :
    ((d.keepFactors l n s rs).getD e).bare.life = d.bare.life := by
  cases hd : d.keepFactors l n s rs with
  | none => simpa using he
  | some d' => simpa using Dev.keepFactors_life hd

@[simp] theorem Dev.settleAll_life (d : Dev) (m : Mem) (e : Nat) (l : Launch) (n misslim : Nat)
    (s : Struct) (done : List InstResult) (rest : Rest) (began : Bool) :
    (d.settleAll m e l n misslim s done rest began).1.bare.life = d.bare.life := by
  unfold Dev.settleAll
  refine Dev.foldl_keep (fun (b : Dev × List InstResult × Bool) => b.1.bare.life = d.bare.life) _ ?_ _ _ rfl
  intro b x hb
  dsimp only
  rw [← hb]
  exact Dev.settleInstance_life ..

@[simp] theorem Dev.publishCycle_life (d : Dev) (m : Mem) (e : Nat) (l : Launch) (n : Nat) (misslim : Nat) (s : Struct) (done : List InstResult) (rest : Rest) (began : Bool) (rstat : Nat) (sealLate : Bool) (piv : Nat × Nat × Nat) :
    (Dev.publishCycle d m e l n misslim s done rest began rstat sealLate piv).bare.life = d.bare.life := by
  unfold Dev.publishCycle
  dsimp only
  generalize hv : List.foldl _ _ _ = v
  have hvalues : v.bare.life = d.bare.life := by
    rw [← hv]
    refine (Dev.life_foldl _ (fun e r => by simp) _ _).trans ((Dev.writeRegion_getD_life _ _ _ _ _ _ rfl).trans ?_)
    split
    · split
      next hd => simpa using Dev.keepFactors_life hd
      next => simp
    · simp
  simpa using hvalues

@[simp] theorem Dev.endRun_life (d : Dev) (m : Mem) (e : Nat) (rest : Rest) (rstat : Nat) :
    (Dev.endRun d m e rest rstat).bare.life = d.bare.life := by
  unfold Dev.endRun
  (repeat' split) <;> simp

@[simp] theorem Dev.cutRun_life (d : Dev) (m : Mem) (e : Nat) (rest : Rest) (rstat : Nat) :
    (Dev.cutRun d m e rest rstat).bare.life = d.bare.life := by
  unfold Dev.cutRun
  simp

@[simp] theorem Dev.takeDelta_life (d : Dev) (e : Nat) (l : Launch) (s : Struct) (p : Delta) :
    (Dev.takeDelta d e l s p).bare.life = d.bare.life := by
  unfold Dev.takeDelta
  (repeat' split) <;> simp

@[simp] theorem Dev.deltaApply_life (d : Dev) (e : Nat) (ces : Nat) :
    (Dev.deltaApply d e ces).bare.life = d.bare.life := by
  unfold Dev.deltaApply
  simp; (repeat' split) <;> simp

@[simp] theorem Dev.cycleStart_life (d : Dev) (e : Nat) :
    (Dev.cycleStart d e).bare.life = d.bare.life := by
  unfold Dev.cycleStart
  simp; (repeat' split) <;> simp

@[simp] theorem Dev.laneGroup_life (d : Dev) (m : Mem) (e cc ces : Nat) :
    (d.laneGroup m e cc ces).bare.life = d.bare.life := by
  unfold Dev.laneGroup
  split
  · rfl
  · dsimp only
    split
    · rfl
    · split
      · rfl
      · split <;> simp

@[simp] theorem Dev.deadlineMark_life (d : Dev) (m : Mem) (e : Nat) :
    (Dev.deadlineMark d m e).bare.life = d.bare.life := by
  unfold Dev.deadlineMark
  simp; (repeat' split) <;> simp

@[simp] theorem Dev.abortQueued_life (d : Dev) (m : Mem) (e : Nat) :
    (Dev.abortQueued d m e).bare.life = d.bare.life := by
  unfold Dev.abortQueued
  refine (Dev.life_foldl _ (fun f q => ?_) _ _).trans (by simp)
  dsimp only
  split
  · rfl
  · exact Dev.life_foldl _ (fun f k => by simp) _ _

@[simp] theorem Dev.solverDrain_life (d : Dev) (m : Mem) (e : Nat) :
    (Dev.solverDrain d m e).bare.life = d.bare.life := by
  unfold Dev.solverDrain
  simp

@[simp] theorem Dev.solverStop_life (d : Dev) (m : Mem) (e : Nat) :
    (Dev.solverStop d m e).bare.life = d.bare.life := by
  unfold Dev.solverStop
  simp

@[simp] theorem Dev.solverFault_life (d : Dev) (m : Mem) (e : Nat) :
    (Dev.solverFault d m e).bare.life = d.bare.life := by
  unfold Dev.solverFault
  simp

@[simp] theorem Dev.moveInstance_life (d : Dev) (m : Mem) (pl : Placement) (i : Nat) :
    (Dev.moveInstance d m pl i).bare.life = d.bare.life := by
  unfold Dev.moveInstance
  simp; (repeat' split) <;> simp

@[simp] theorem Dev.solverRemap_life (d : Dev) (m : Mem) :
    (Dev.solverRemap d m).bare.life = d.bare.life := by
  unfold Dev.solverRemap
  split
  · rfl
  · split
    · simp
    · split
      · rfl
      · split
        next hd =>
          have hp := Dev.takeRemap_life hd
          split <;> simpa using hp
        next => rfl

@[simp] theorem Dev.tileHalted_life (d : Dev) (m : Mem) (p : Nat) :
    (Dev.tileHalted d m p).bare.life = d.bare.life := by
  unfold Dev.tileHalted
  simp

@[simp] theorem Dev.tileDrain_life (d : Dev) (m : Mem) (p : Nat) :
    (Dev.tileDrain d m p).bare.life = d.bare.life := by
  unfold Dev.tileDrain
  simp

@[simp] theorem Dev.tileDiscard_life (d : Dev) (m : Mem) (p : Nat) :
    (Dev.tileDiscard d m p).bare.life = d.bare.life := by
  unfold Dev.tileDiscard
  simp

@[simp] theorem Dev.stopIntake_life (d : Dev) (m : Mem) (cls : Nat) (inst : Nat) :
    (Dev.stopIntake d m cls inst).bare.life = d.bare.life := by
  unfold Dev.stopIntake
  (repeat' split) <;> simp

@[simp] theorem Dev.discardWork_life (d : Dev) (m : Mem) (cls : Nat) (inst : Nat) (ucc : Bool) :
    (Dev.discardWork d m cls inst ucc).bare.life = d.bare.life := by
  unfold Dev.discardWork
  simp; (repeat' split) <;> simp

@[simp] theorem Dev.enterDisabled_life (d : Dev) (m : Mem) (cls : Nat) (inst : Nat) (reason : Nat) :
    (Dev.enterDisabled d m cls inst reason).bare.life = d.bare.life := by
  unfold Dev.enterDisabled
  (repeat' split) <;> simp

@[simp] theorem Dev.disableUnit_life (d : Dev) (m : Mem) (cls : Nat) (inst : Nat) (reason : Nat) (n : Nat) :
    (Dev.disableUnit d m cls inst reason n).bare.life = d.bare.life := by
  unfold Dev.disableUnit
  simp

@[simp] theorem Dev.drainUnit_life (d : Dev) (m : Mem) (cls : Nat) (inst : Nat) :
    (Dev.drainUnit d m cls inst).bare.life = d.bare.life := by
  unfold Dev.drainUnit
  simp

@[simp] theorem Dev.forceUnit_life (d : Dev) (m : Mem) (cls : Nat) (inst : Nat) :
    (Dev.forceUnit d m cls inst).bare.life = d.bare.life := by
  unfold Dev.forceUnit
  simp

@[simp] theorem Dev.pgCtrl_life (d : Dev) (m : Mem) (cls : Nat) (inst : Nat) (v : Nat) :
    (Dev.pgCtrl d m cls inst v).bare.life = d.bare.life := by
  unfold Dev.pgCtrl
  simp; (repeat' split) <;> simp

@[simp] theorem Dev.drainComplete_life (d : Dev) (m : Mem) (cls : Nat) (inst : Nat) :
    (Dev.drainComplete d m cls inst).bare.life = d.bare.life := by
  unfold Dev.drainComplete
  simp

@[simp] theorem Dev.drainExpiry_life (d : Dev) (m : Mem) (cls : Nat) (inst : Nat) :
    (Dev.drainExpiry d m cls inst).bare.life = d.bare.life := by
  unfold Dev.drainExpiry
  simp

@[simp] theorem Dev.uccUnit_life (d : Dev) (m : Mem) (cls : Nat) (inst : Nat) :
    (Dev.uccUnit d m cls inst).bare.life = d.bare.life := by
  unfold Dev.uccUnit
  (repeat' split) <;> simp

@[simp] theorem Dev.unitUcc_life (d : Dev) (m : Mem) (cls : Nat) (inst : Nat) (parity : Bool) (sub : Nat) (p0 : Nat) (p1 : Nat) (p2 : Nat) :
    (Dev.unitUcc d m cls inst parity sub p0 p1 p2).bare.life = d.bare.life := by
  unfold Dev.unitUcc
  simp

@[simp] theorem Dev.tileUcc_life (d : Dev) (m : Mem) (p : Nat) (cause : Nat) (addr : Nat) :
    (Dev.tileUcc d m p cause addr).bare.life = d.bare.life := by
  unfold Dev.tileUcc
  simp

@[simp] theorem Dev.storeFault_life (d : Dev) (m : Mem) (p : Nat) (ecc : Nat) (word : Nat) :
    (Dev.storeFault d m p ecc word).bare.life = d.bare.life := by
  unfold Dev.storeFault
  simp

@[simp] theorem Dev.excHalt_life (d : Dev) (m : Mem) (p : Nat) :
    (Dev.excHalt d m p).bare.life = d.bare.life := by
  unfold Dev.excHalt
  simp

@[simp] theorem Dev.exception_life (d : Dev) (m : Mem) (p : Nat) (e : Exc) :
    (Dev.exception d m p e).bare.life = d.bare.life := by
  unfold Dev.exception
  simp

@[simp] theorem Dev.completeBundle_life (d : Dev) (m : Mem) (p : Nat) (slots : List Slot) (effs : List Eff) :
    (Dev.completeBundle d m p slots effs).bare.life = d.bare.life := by
  unfold Dev.completeBundle
  simp

@[simp] theorem Dev.issue_life (d : Dev) (m : Mem) (p : Nat) (ecc : Nat) (word : Nat) (fresh : Bool) :
    (Dev.issue d m p ecc word fresh).bare.life = d.bare.life := by
  unfold Dev.issue
  simp; (repeat' split) <;> simp

@[simp] theorem Dev.bundleIssue_life (d : Dev) (m : Mem) (p : Nat) (ecc : Nat) (word : Nat) :
    (Dev.bundleIssue d m p ecc word).bare.life = d.bare.life := by
  unfold Dev.bundleIssue
  simp

@[simp] theorem Dev.stalledIssue_life (d : Dev) (m : Mem) (p : Nat) (ecc : Nat) (word : Nat) :
    (Dev.stalledIssue d m p ecc word).bare.life = d.bare.life := by
  unfold Dev.stalledIssue
  simp

@[simp] theorem Dev.watchdog_life (d : Dev) (m : Mem) (p : Nat) :
    (Dev.watchdog d m p).bare.life = d.bare.life := by
  unfold Dev.watchdog
  simp; (repeat' split) <;> simp

@[simp] theorem Dev.regionAccess_life (d : Dev) (m : Mem) (p : Nat) (ecc : Nat) (word : Nat) :
    (Dev.regionAccess d m p ecc word).bare.life = d.bare.life := by
  unfold Dev.regionAccess
  simp; (repeat' split) <;> simp

@[simp] theorem Dev.mxOpStart_life (d : Dev) (m : Mem) (p : Nat) (array : Bool) (ecc : Nat) (word : Nat) :
    (Dev.mxOpStart d m p array ecc word).bare.life = d.bare.life := by
  unfold Dev.mxOpStart
  simp

@[simp] theorem Dev.vectorStart_life (d : Dev) (m : Mem) (p : Nat) (ecc : Nat) (word : Nat) :
    (Dev.vectorStart d m p ecc word).bare.life = d.bare.life := by
  unfold Dev.vectorStart
  simp

@[simp] theorem Dev.stopTile_life (d : Dev) (m : Mem) (p : Nat) :
    (Dev.stopTile d m p).bare.life = d.bare.life := by
  unfold Dev.stopTile
  simp

@[simp] theorem Dev.runctl_life (d : Dev) (m : Mem) (p : Nat) (v : Nat) :
    (Dev.runctl d m p v).bare.life = d.bare.life := by
  unfold Dev.runctl
  (repeat' split) <;> simp

@[simp] theorem Dev.progLoad_life (d : Dev) (m : Mem) (q : Nat) :
    (Dev.progLoad d m q).bare.life = d.bare.life := by
  unfold Dev.progLoad
  refine Dev.startCmd_life _ _ _ _ fun e c => ?_
  dsimp only
  (repeat' split) <;> simp

@[simp] theorem Dev.tileStop_life (d : Dev) (m : Mem) (q : Nat) :
    (Dev.tileStop d m q).bare.life = d.bare.life := by
  unfold Dev.tileStop
  refine Dev.startCmd_life _ _ _ _ fun e c => ?_
  dsimp only
  (repeat' split) <;> simp

@[simp] theorem Dev.secNoted_life (d : Dev) (n : Nat) :
    (Dev.secNoted d n).bare.life = d.bare.life := by
  unfold Dev.secNoted
  simp

theorem Dev.secWrite_life {d d' : Dev} {o : Nat} {bs : List Nat}
    (hd : d.secWrite o bs = some d') : d'.bare.life = d.bare.life := by
  exact Dev.writeRegion_life hd

@[simp] theorem Dev.secWrite_getD_life (d : Dev) (o : Nat) (bs : List Nat) (e : Dev) (he : e.bare.life = d.bare.life) :
    ((d.secWrite o bs).getD e).bare.life = d.bare.life := by
  cases hd : d.secWrite o bs with
  | none => simpa using he
  | some d' => simpa using Dev.secWrite_life hd

theorem Dev.withToken_life (d : Dev) (m : Mem) (st : Nat → Bool) (f : Dev → Dev)
    (hf : ∀ d, (f d).bare.life = d.bare.life) : (d.withToken m st f).bare.life = d.bare.life := by
  have h {e e' : Dev} (he : e.bare.life = e'.bare.life) : e.bare.life = e'.bare.life := he
  unfold Dev.withToken
  split
  · exact h (by simp)
  · dsimp only
    split
    · rw [show ((f (d.secNoted 160)).secResult sOK 0).bare.life = (f (d.secNoted 160)).bare.life from h (by simp), hf]
      exact h (by simp)
    · exact h (by simp)
    · exact h (by simp)

@[simp] theorem Dev.fieldDebugToken_life (d : Dev) (m : Mem) :
    (Dev.fieldDebugToken d m).bare.life = d.bare.life := by
  unfold Dev.fieldDebugToken
  exact Dev.withToken_life _ _ _ _ fun e => by simp

@[simp] theorem Dev.ownerKey_life (d : Dev) (m : Mem) :
    (Dev.ownerKey d m).bare.life = d.bare.life := by
  unfold Dev.ownerKey
  (repeat' split) <;> simp

@[simp] theorem Dev.clearFieldmap_life (d : Dev) :
    (Dev.clearFieldmap d).bare.life = d.bare.life := by
  unfold Dev.clearFieldmap
  simp

@[simp] theorem Dev.fwStage_life (d : Dev) (m : Mem) :
    (Dev.fwStage d m).bare.life = d.bare.life := by
  unfold Dev.fwStage
  simp; (repeat' split) <;> simp

@[simp] theorem Dev.attest_life (d : Dev) (m : Mem) :
    (Dev.attest d m).bare.life = d.bare.life := by
  unfold Dev.attest
  split
  · simp
  · split
    · simp
    · dsimp only
      split
      next hd => simpa using Dev.secWrite_life hd
      next => simp

@[simp] theorem Dev.certExport_life (d : Dev) :
    (Dev.certExport d).bare.life = d.bare.life := by
  unfold Dev.certExport
  split
  next hd => simpa using Dev.secWrite_life hd
  next => simp

@[simp] theorem Dev.licInstall_life (d : Dev) (m : Mem) :
    (Dev.licInstall d m).bare.life = d.bare.life := by
  unfold Dev.licInstall
  simp; (repeat' split) <;> simp

@[simp] theorem Dev.licRemove_life (d : Dev) :
    (Dev.licRemove d).bare.life = d.bare.life := by
  unfold Dev.licRemove
  simp

@[simp] theorem Dev.licCtl_life (d : Dev) (m : Mem) (v : Nat) :
    (Dev.licCtl d m v).bare.life = d.bare.life := by
  unfold Dev.licCtl
  simp

@[simp] theorem Dev.evaluateLicence_life (d : Dev) :
    (Dev.evaluateLicence d).bare.life = d.bare.life := by
  unfold Dev.evaluateLicence
  simp

@[simp] theorem Dev.runKat_life (d : Dev) (fails : List KatFail) (i : Nat) :
    (Dev.runKat d fails i).bare.life = d.bare.life := by
  unfold Dev.runKat
  (repeat' split) <;> simp

@[simp] theorem Dev.reconcile_life (d : Dev) (fails : List KatFail) :
    (Dev.reconcile d fails).bare.life = d.bare.life := by
  unfold Dev.reconcile
  simp

@[simp] theorem Dev.bootSlot_life (d : Dev) (slot : Nat) (fallback : Bool) :
    (Dev.bootSlot d slot fallback).bare.life = d.bare.life := by
  unfold Dev.bootSlot
  simp

@[simp] theorem Dev.bootFirmware_life (d : Dev) :
    (Dev.bootFirmware d).bare.life = d.bare.life := by
  unfold Dev.bootFirmware
  simp

@[simp] theorem Dev.testStack_life (d : Dev) (stored : Option StoredBins) (t : StackTest) :
    (Dev.testStack d stored t).bare.life = d.bare.life := by
  unfold Dev.testStack
  (repeat' split) <;> simp

@[simp] theorem Dev.testGroup_life (d : Dev) (tests : List StackTest) :
    (Dev.testGroup d tests).bare.life = d.bare.life := by
  unfold Dev.testGroup
  simp

@[simp] theorem Dev.computeUp_life (d : Dev) (fails : List KatFail) :
    (Dev.computeUp d fails).bare.life = d.bare.life := by
  unfold Dev.computeUp
  simp

@[simp] theorem Dev.resetEvents_life (d : Dev) (m : Mem) :
    (Dev.resetEvents d m).bare.life = d.bare.life := by
  unfold Dev.resetEvents
  simp

@[simp] theorem Dev.resetStart_life (d : Dev) (m : Mem) :
    (Dev.resetStart d m).bare.life = d.bare.life := by
  unfold Dev.resetStart
  simp

@[simp] theorem Dev.reloadPrograms_life (d : Dev) (m : Mem) :
    (Dev.reloadPrograms d m).bare.life = d.bare.life := by
  unfold Dev.reloadPrograms
  split
  · rfl
  · refine Dev.life_foldl _ (fun e x => ?_) _ _
    dsimp only
    (repeat' split) <;> simp

@[simp] theorem Dev.resetTest_life (d : Dev) (m : Mem) (fails : List KatFail) :
    (Dev.resetTest d m fails).bare.life = d.bare.life := by
  unfold Dev.resetTest
  simp

@[simp] theorem Dev.computeReset_life (d : Dev) (m : Mem) (e : ResetEvent) :
    (Dev.computeReset d m e).bare.life = d.bare.life := by
  unfold Dev.computeReset
  (repeat' split) <;> simp

@[simp] theorem Dev.functionReset_life (d : Dev) (m : Mem) (kind : Nat) :
    (Dev.functionReset d m kind).bare.life = d.bare.life := by
  unfold Dev.functionReset
  simp

@[simp] theorem Dev.commonWrite_life (d : Dev) (m : Mem) (cls : Nat) (inst : Nat) (off : Nat) (v : Nat) :
    (Dev.commonWrite d m cls inst off v).bare.life = d.bare.life := by
  unfold Dev.commonWrite
  (repeat' split) <;> simp

@[simp] theorem Dev.stpWrite_life (d : Dev) (m : Mem) (off : Nat) (v : Nat) :
    (Dev.stpWrite d m off v).bare.life = d.bare.life := by
  unfold Dev.stpWrite
  (repeat' split) <;> simp

@[simp] theorem Dev.colRegWrite_life (d : Dev) (m : Mem) (off : Nat) (v : Nat) :
    (Dev.colRegWrite d m off v).bare.life = d.bare.life := by
  unfold Dev.colRegWrite
  simp

@[simp] theorem Dev.evrCtl_life (d : Dev) (failing : List Nat) (v : Nat) :
    (Dev.evrCtl d failing v).bare.life = d.bare.life := by
  unfold Dev.evrCtl
  simp

@[simp] theorem Dev.bzeWrite_life (d : Dev) (m : Mem) (e : Nat) (off : Nat) (v : Nat) :
    (Dev.bzeWrite d m e off v).bare.life = d.bare.life := by
  unfold Dev.bzeWrite
  (repeat' split) <;> simp

@[simp] theorem Dev.urgentWrite_life (d : Dev) (m : Mem) (o : Nat) (v : Nat) :
    (Dev.urgentWrite d m o v).bare.life = d.bare.life := by
  unfold Dev.urgentWrite
  (repeat' split) <;> simp

@[simp] theorem Dev.bar2Write_life (d : Dev) (m : Mem) (off : Nat) (v : Nat) :
    (Dev.bar2Write d m off v).bare.life = d.bare.life := by
  unfold Dev.bar2Write
  simp

@[simp] theorem Dev.refusePacket_life (d : Dev) (m : Mem) (e : Nat) :
    (d.refusePacket m e).bare.life = d.bare.life := by
  unfold Dev.refusePacket
  refine Dev.withHead_life _ _ _ _ ?_
  intro d p
  split
  · rename_i hp; cases Dev.fst_of_eq hp; simp
  · rename_i hp; cases Dev.fst_of_eq hp; simp

theorem Dev.colPacket_life (d : Dev) (m : Mem) (e op : Nat) (f : Dev → Nat → Packet → Dev)
    (hf : ∀ d c p, (f d c p).bare.life = d.bare.life) : (d.colPacket m e op f).bare.life = d.bare.life := by
  unfold Dev.colPacket
  rw [Dev.afterFailures_life]
  refine Dev.withHead_life _ _ _ _ ?_
  intro d p
  refine Dev.receive_life _ _ _ _ ?_
  intro c d' h
  cases h
  exact hf ..

@[simp] theorem Dev.colTakes_life (d : Dev) (m : Mem) (tile : Nat) (p : Nat → Bool) :
    (Dev.colTakes d m tile p).bare.life = d.bare.life := by
  unfold Dev.colTakes
  split
  · rfl
  next hd =>
    have hp := Dev.takePost_life hd
    split <;> simpa using hp

@[simp] theorem Dev.readyPost_life (d : Dev) (m : Mem) (tile : Nat) :
    (Dev.readyPost d m tile).bare.life = d.bare.life := by
  unfold Dev.readyPost
  simp

@[simp] theorem Dev.abortPost_life (d : Dev) (m : Mem) (tile : Nat) :
    (Dev.abortPost d m tile).bare.life = d.bare.life := by
  unfold Dev.abortPost
  simp

@[simp] theorem Dev.colLaunch_life (d : Dev) (m : Mem) (q : Nat) :
    (Dev.colLaunch d m q).bare.life = d.bare.life := by
  unfold Dev.colLaunch
  refine Dev.startCmd_life _ _ _ _ fun e c => ?_
  dsimp only
  (repeat' split) <;> simp

end Sys2Proof.Machine
end


section
/-! PROOFS. The life cycle (chapter 17, Table 17-2): the one operation of the host that moves it, the fuses read at
power-on, and every other command, which leaves it alone. -/

namespace Sys2Proof.Machine

/-- From `a` to `b` the life cycle went at most along one edge of Table 17-2 to a state that awaits the power cycle, and
no counter fell. -/
structure Sec.Follows (a b : Sec) : Prop where
  fused : b.fused = a.fused
  pending : b.pendingLcs = a.pendingLcs ∨ a.pendingLcs = none
    ∧ ∃ x, b.pendingLcs = some x ∧ (a.fused, x) ∈ [(0, 1), (1, 2), (2, 4), (4, 1), (2, 5), (4, 5)]
  svn : a.svnCounter ≤ b.svnCounter
  returns : a.retcnt ≤ b.retcnt
  returnsMax : b.retcnt ≤ max 3 a.retcnt
  key : b.keyErased = a.keyErased
  fuses : b.fusedBad = a.fusedBad
  rom : b.rom = a.rom

theorem Sec.of_life {α : Type} {a b : Sec} (p : Sec → α) (h : b.life = a.life) (hp : ∀ s : Sec, p s.life = p s) :
    p b = p a := (hp b).symm.trans ((congrArg p h).trans (hp a))

theorem Sec.Follows.of_life {a b : Sec} (h : b.life = a.life) : a.Follows b where
  fused := Sec.of_life Sec.fused h fun _ => rfl
  pending := .inl (Sec.of_life Sec.pendingLcs h fun _ => rfl)
  svn := (Sec.of_life Sec.svnCounter h fun _ => rfl).ge
  returns := (Sec.of_life Sec.retcnt h fun _ => rfl).ge
  returnsMax := (Sec.of_life Sec.retcnt h fun _ => rfl).le.trans (Nat.le_max_right ..)
  key := Sec.of_life Sec.keyErased h fun _ => rfl
  fuses := Sec.of_life Sec.fusedBad h fun _ => rfl
  rom := Sec.of_life Sec.rom h fun _ => rfl

theorem Sec.Follows.trans {a b c : Sec} (h : a.Follows b) (k : b.Follows c) : a.Follows c where
  fused := k.fused.trans h.fused
  pending := by
    rcases k.pending with hk | ⟨hn, x, hx, he⟩
    · rw [hk]; exact h.pending
    · rcases h.pending with hb | ⟨-, y, hy, -⟩
      · exact .inr ⟨hb ▸ hn, x, hx, h.fused ▸ he⟩
      · rw [hy] at hn; cases hn
  svn := h.svn.trans k.svn
  returns := h.returns.trans k.returns
  returnsMax := by
    have := h.returnsMax
    have := k.returnsMax
    omega
  key := k.key.trans h.key
  fuses := k.fuses.trans h.fuses
  rom := k.rom.trans h.rom

/-- The life cycle from one device to another. -/
def Dev.Follows (d e : Dev) : Prop := d.sec.Follows e.sec

theorem Dev.Follows.of_life {d e : Dev} (h : e.bare.life = d.bare.life) : d.Follows e := Sec.Follows.of_life h

theorem Dev.Follows.refl (d : Dev) : d.Follows d := .of_life rfl

theorem Dev.Follows.trans {d e f : Dev} (h : d.Follows e) (k : e.Follows f) : d.Follows f := Sec.Follows.trans h k

/-- An operation that leaves the life cycle alone may come before. -/
theorem Dev.Follows.after_life {d e f : Dev} (h : e.bare.life = d.bare.life) (k : e.Follows f) : d.Follows f :=
  (Dev.Follows.of_life h).trans k

/-- An operation that leaves the life cycle alone may come afterwards. -/
theorem Dev.Follows.before_life {d e f : Dev} (h : d.Follows e) (k : f.bare.life = e.bare.life) : d.Follows f :=
  h.trans (.of_life k)

theorem Dev.Follows.ite {d a b : Dev} (c : Prop) [Decidable c] (ha : d.Follows a) (hb : d.Follows b) :
    d.Follows (if c then a else b) := by split <;> assumption

theorem Dev.Follows.host {d : Dev} {f : Dev → Dev} (h : ∀ d, Dev.Follows d (f d)) : d.Follows (d.host f) :=
  .ite _ (h d) (.refl d)

/-! ### SEC.CMD -/

@[simp] theorem Dev.secStore_life (d : Dev) (v : Nat) : (d.secStore v).bare.life = d.bare.life := by
  simp [Dev.secStore]

/-- The edges that Table 17-2 gives (R446, R448). -/
theorem Dev.edge_of_transitionKind {d : Dev} {x k : Nat} (h : d.transitionKind x = some k) :
    (d.sec.fused, x) ∈ [(0, 1), (1, 2), (2, 4), (4, 1), (2, 5), (4, 5)]
      ∧ (d.sec.fused = 4 → x = 1 → d.sec.retcnt < 3) := by
  unfold Dev.transitionKind at h
  split at h <;> rename_i hf
  case h_4 =>
    split at h
    · next hr => exact ⟨by simp [hf], fun _ _ => hr⟩
    · cases h
  case h_7 => cases h
  all_goals exact ⟨by simp [hf], by omega⟩

/-- Fuses are blown along an edge of Table 17-2 while none awaits the power cycle. -/
theorem Dev.blow_follows {d : Dev} {x : Nat} (hp : d.sec.pendingLcs = none)
    (hedge : (d.sec.fused, x) ∈ [(0, 1), (1, 2), (2, 4), (4, 1), (2, 5), (4, 5)])
    (hret : d.sec.fused = 4 → x = 1 → d.sec.retcnt < 3) : d.Follows (d.blow x) := by
  have hsec : (d.record 0x6001 pSEC 0 x d.sec.fused 0).sec = d.sec :=
    Dev.sec_of_mask (F := 32) (by decide) (Dev.record_mask (by decide) ..)
  have hr : (d.blow x).sec.retcnt = if d.sec.fused = 4 ∧ x = 1 then d.sec.retcnt + 1 else d.sec.retcnt := by
    simp only [Dev.blow, hsec]
  constructor
  case pending => exact .inr ⟨hp, x, rfl, hedge⟩
  case returns => rw [hr]; split <;> omega
  case returnsMax =>
    rw [hr]
    split
    · next hc => have := hret hc.1 hc.2; omega
    · omega
  all_goals simp only [Dev.blow, hsec, Nat.le_refl]

/-- A token that is accepted acts once, on a device with the same life cycle. -/
theorem Dev.withToken_follows {d : Dev} {f : Dev → Dev} (m : Mem) (state : Nat → Bool)
    (h : ∀ e : Dev, e.bare.life = d.bare.life → e.Follows (f e)) : d.Follows (d.withToken m state f) := by
  unfold Dev.withToken
  split
  · exact .of_life (by simp)
  · dsimp only
    split
    · have hn := Dev.secNoted_life d 160
      exact .after_life hn ((h _ hn).before_life (by simp))
    · exact .of_life (by simp)
    · exact .of_life (by simp)

theorem Dev.lcTransition_follows (d : Dev) (m : Mem) : d.Follows (d.lcTransition m) := by
  unfold Dev.lcTransition
  dsimp only
  split
  · exact .of_life (by simp)
  · next hp =>
    have hp : d.sec.pendingLcs = none := by simpa using hp
    split
    · exact .of_life (by simp)
    · next hk =>
      obtain ⟨hedge, hret⟩ := Dev.edge_of_transitionKind hk
      exact (Dev.blow_follows hp hedge hret).before_life (by simp)
    · next hk =>
      obtain ⟨hedge, hret⟩ := Dev.edge_of_transitionKind hk
      refine Dev.withToken_follows m _ fun e he => ?_
      have hfused : e.sec.fused = d.sec.fused := Sec.of_life Sec.fused he fun _ => rfl
      have hpend : e.sec.pendingLcs = d.sec.pendingLcs := Sec.of_life Sec.pendingLcs he fun _ => rfl
      have hcnt : e.sec.retcnt = d.sec.retcnt := Sec.of_life Sec.retcnt he fun _ => rfl
      exact Dev.blow_follows (hpend.trans hp) (hfused ▸ hedge) (hfused ▸ hcnt ▸ hret)

theorem Dev.svnCommit_follows (d : Dev) : d.Follows d.svnCommit := by
  unfold Dev.svnCommit
  dsimp only
  split
  · next h => exact ⟨rfl, .inl rfl, h.1.le, Nat.le_refl _, Nat.le_max_right .., rfl, rfl, rfl⟩
  · exact .of_life (by simp)

theorem Dev.secCmd_follows (d : Dev) (m : Mem) (v : Nat) : d.Follows (d.secCmd m v) := by
  unfold Dev.secCmd
  dsimp only
  have hs := Dev.secStore_life d v
  split
  · exact .of_life hs
  · refine .after_life hs ?_
    split
    case h_1 => exact Dev.lcTransition_follows ..
    case h_7 => exact Dev.svnCommit_follows _
    all_goals exact .of_life (by simp)

/-! ### Writes of the host -/

theorem Dev.blockWrite_follows (d : Dev) (m : Mem) (cls inst off v : Nat) : d.Follows (d.blockWrite m cls inst off v) := by
  unfold Dev.blockWrite
  split
  case h_2 => exact Dev.secCmd_follows ..
  all_goals exact .of_life (by simp)

theorem Dev.pageWrite_follows (d : Dev) (m : Mem) (cls inst off v : Nat) : d.Follows (d.pageWrite m cls inst off v) := by
  unfold Dev.pageWrite
  exact .ite _ (.refl d) (.ite _ (.of_life (by simp)) (.ite _ (Dev.blockWrite_follows ..) (.refl d)))

theorem Dev.wordWrite_follows (d : Dev) (m : Mem) (bar off be v : Nat) : d.Follows (d.wordWrite m bar off be v) := by
  unfold Dev.wordWrite Dev.hostWrite
  exact .ite _ (.of_life (by simp)) (.ite _ (.of_life (by simp))
    (.ite _ (Dev.pageWrite_follows ..) (.of_life (by simp))))

theorem Dev.regWrite_follows (d : Dev) (m : Mem) (bar off be v : Nat) : d.Follows (d.regWrite m bar off be v) := by
  unfold Dev.regWrite
  exact .ite _ (Dev.wordWrite_follows ..) ((Dev.wordWrite_follows ..).trans (Dev.wordWrite_follows ..))

/-! ### Power -/

@[simp] theorem Dev.dark_life (d : Dev) : d.dark.bare.life = d.bare.life := rfl

@[simp] theorem Dev.powerUp_life (d : Dev) (mv slot : Nat) : (d.powerUp mv slot).bare.life = d.bare.life := by
  unfold Dev.powerUp
  dsimp only
  split
  · rfl
  · split
    · simp
    · split <;> simp

@[simp] theorem Dev.inputFail_life (d : Dev) (cause mv : Nat) : (d.inputFail cause mv).bare.life = d.bare.life := by
  unfold Dev.inputFail
  split <;> split <;> simp

@[simp] theorem Dev.overvoltage_life (d : Dev) (mv : Nat) : (d.overvoltage mv).bare.life = d.bare.life := by
  unfold Dev.overvoltage
  simp

/-! ### Every command -/

/-- Every command but POWER_ON moves the life cycle at most as SEC.CMD does. -/
theorem exec_follows (c : Instr) :
    (∃ ok f, RunsAs c ok f ∧ ∀ m d, Dev.Follows d (f m d)) ∨ ∃ e, c = .powerOn e := by
  cases c
  case powerOn e => exact .inr ⟨e, rfl⟩
  case regWrite => exact .inl ⟨_, _, fun _ => rfl, fun m d => .host fun d => Dev.regWrite_follows ..⟩
  case chcfgEn => exact .inl ⟨_, _, fun _ => rfl, fun m d => .host fun d => Dev.pageWrite_follows ..⟩
  case barcfgWrite | arrive | periodWrite | dklRedraw | hostabort | ringEnable | capWrite =>
    exact .inl ⟨true, _, fun _ => rfl, fun m d => .host fun d => Dev.pageWrite_follows ..⟩
  case enable | disableReq | forceStop | start | stop | resume | accdbgGo | retrain | trainEn | chflush =>
    exact .inl ⟨_, _, fun _ => rfl, fun m d => .host fun d => .ite _ (Dev.pageWrite_follows ..) (.refl d)⟩
  case barReset | run | load | ack | cqEnable | dumpgo | lcTransition | fieldDebug | ownerKey | attest | certExport
      | fwStage | svnCommit | clearFieldmap | install | remove =>
    exact .inl ⟨true, _, fun _ => rfl, fun m d => .host fun d => .ite _ (Dev.pageWrite_follows ..) (.refl d)⟩
  case spoil =>
    exact .inl ⟨true, _, fun _ => rfl, fun m d => .host fun d =>
      .ite _ ((Dev.pageWrite_follows ..).before_life (Dev.settled_life ..)) (.refl d)⟩
  all_goals
    refine .inl ?_
    first
    | refine ⟨true, _, fun _ => rfl, fun m d => .of_life ?_⟩
    | refine ⟨_, _, fun _ => rfl, fun m d => .of_life ?_⟩
    simp [Dev.colPacket_life]

/-- What the fuses that event 2 reads leave: a transition that awaited the power cycle takes effect (R447). -/
theorem Dev.readFuses_sec (d : Dev) :
    (d.sec.pendingLcs = none ∧ d.readFuses.bare.life = d.bare.life)
    ∨ ∃ x, d.sec.pendingLcs = some x ∧ ∃ e : Bool, (d.sec.keyErased = true → e = true)
      ∧ d.readFuses.sec.life = { d.sec.life with fused := x, pendingLcs := none, keyErased := e } := by
  unfold Dev.readFuses
  dsimp only
  split
  · next hp => exact .inl ⟨hp, by simp⟩
  · next x hp =>
    refine .inr ⟨x, hp, d.sec.keyErased || decide (x = 5), by simp +contextual, ?_⟩
    rw [Dev.sec_of_mask (F := 32) (by decide) (Dev.record_mask (by decide) ..)]
    split <;> split <;> simp_all [Sec.life]

/-- Every event of POWER_ON but the reading of the fuses leaves the life cycle alone. -/
theorem Dev.powerOn_life {d : Dev} {e : PowerEvent} (h : e ≠ .fuses) : (d.powerOn e).bare.life = d.bare.life := by
  cases e
  case fuses => exact absurd rfl h
  all_goals simp [Dev.powerOn]

/-- The statement of O59 over two security states. -/
def Sec.Lives (a b : Sec) : Prop :=
  (b.fused = a.fused ∨ a.pendingLcs = some b.fused ∧ b.pendingLcs = none)
  ∧ (b.pendingLcs = a.pendingLcs ∨ b.pendingLcs = none ∧ a.pendingLcs = some b.fused
    ∨ a.pendingLcs = none ∧ b.fused = a.fused
      ∧ ∃ x, b.pendingLcs = some x ∧ (a.fused, x) ∈ [(0, 1), (1, 2), (2, 4), (4, 1), (2, 5), (4, 5)])
  ∧ a.svnCounter ≤ b.svnCounter ∧ a.retcnt ≤ b.retcnt ∧ b.retcnt ≤ max 3 a.retcnt
  ∧ (a.keyErased = true → b.keyErased = true) ∧ b.fusedBad = a.fusedBad ∧ b.rom = a.rom

theorem Sec.Follows.lives {a b : Sec} (h : a.Follows b) : a.Lives b :=
  ⟨.inl h.fused, h.pending.imp_right fun ⟨hp, hx⟩ => .inr ⟨hp, h.fused, hx⟩, h.svn, h.returns, h.returnsMax,
    fun hk => h.key.trans hk, h.fuses, h.rom⟩

theorem Dev.readFuses_lives (d : Dev) : d.sec.Lives d.readFuses.sec := by
  rcases Dev.readFuses_sec d with ⟨-, h⟩ | ⟨x, hx, e, he, h⟩
  · exact (Sec.Follows.of_life h).lives
  · have field {α : Type} (p : Sec → α) (hp : ∀ s : Sec, p s.life = p s) :
        p d.readFuses.sec = p { d.sec.life with fused := x, pendingLcs := none, keyErased := e } := by
      rw [← hp, h]
    have hfused := field Sec.fused fun _ => rfl
    have hpend := field Sec.pendingLcs fun _ => rfl
    have hret := field Sec.retcnt fun _ => rfl
    exact ⟨.inr ⟨by rw [hx, hfused], hpend⟩, .inr (.inl ⟨hpend, by rw [hx, hfused]⟩),
      (field Sec.svnCounter fun _ => rfl).ge, hret.ge, hret.le.trans (Nat.le_max_right ..),
      fun hk => (field Sec.keyErased fun _ => rfl).trans (he hk), field Sec.fusedBad fun _ => rfl,
      field Sec.rom fun _ => rfl⟩

theorem Dev.powerOn_lives (d : Dev) (e : PowerEvent) : d.sec.Lives (d.powerOn e).sec := by
  by_cases he : e = .fuses
  · subst he
    unfold Dev.powerOn
    dsimp only
    split
    · exact Dev.readFuses_lives d
    · exact (Sec.Follows.of_life rfl).lives
  · exact (Sec.Follows.of_life (Dev.powerOn_life he)).lives

/-- Settles O59: only SEC.CMD moves the life cycle to a state that awaits the power cycle, only the fuses read at event 2
put it into effect, and the rest of it is kept by every other operation. -/
theorem lifeCycleEdges : Obligations.LifeCycleEdges := by
  intro c s t h
  show s.dev.sec.Lives t.dev.sec
  rcases exec_follows c with ⟨ok, f, hr, hf⟩ | ⟨e, rfl⟩
  · obtain rfl := runIf_next ((hr s).symm.trans h)
    exact (hf s.mem s.dev).lives
  · have h : Host.Outcome.next _ = Host.Outcome.next t := h
    injection h with h
    subst h
    exact Dev.powerOn_lives s.dev e

end Sys2Proof.Machine
end


section
/-! PROOFS. Register fields: where they lie, what a write or a read of a register does to each (chapter 2, R9, R36), and
what a read latches (R41). -/

namespace Sys2Proof.Machine

/-! ### Where a field lies -/

/-- The place of a field within the fields of one unit. -/
def Field.place (f : Field) : Nat := (f.cls * 4096 + f.off) * 32 + f.lo

theorem Field.key_eq (f : Field) (i : Nat) : f.key i = i * 2 ^ 23 + f.place := by
  unfold Field.key Field.place
  omega

/-- Fields at different places never share a key, whatever their units. -/
theorem Field.key_ne {f g : Field} (i j : Nat) (h : f.place < 2 ^ 23 ∧ g.place < 2 ^ 23 ∧ g.place ≠ f.place) :
    g.key j ≠ f.key i := by
  rw [Field.key_eq, Field.key_eq]
  omega

theorem Field.key_unit_ne (f : Field) {i j : Nat} (h : j ≠ i) : f.key j ≠ f.key i := by
  rw [Field.key_eq, Field.key_eq]
  omega

/-- A field at another place keeps its value. -/
theorem Dev.fget_fset_place (d : Dev) {f g : Field} (i j v : Nat)
    (h : f.place < 2 ^ 23 ∧ g.place < 2 ^ 23 ∧ g.place ≠ f.place) : (d.fset f i v).fget g j = d.fget g j :=
  Dev.fget_fset_ne d v (Field.key_ne i j h)

/-- What every field of a page's map satisfies: its class is the page's, and its register lies in the page. -/
def Field.fits (cls : Nat) (f : Field) : Bool :=
  f.cls == cls && decide (cls < 64) && decide (0x40 ≤ f.off) && decide (f.off < 4096) && f.off % 4 == 0 && decide (f.lo < 32)

theorem fieldsOf_fits {cls : Nat} {f : Field} (h : f ∈ fieldsOf cls) : f.fits cls = true := by
  have all : (fieldsOf cls).all (fun f => f.fits cls) = true := by
    unfold fieldsOf
    split <;> rfl
  exact List.all_eq_true.mp all f h

theorem Field.fits_iff {cls : Nat} {f : Field} : f.fits cls = true ↔
    f.cls = cls ∧ cls < 64 ∧ 0x40 ≤ f.off ∧ f.off < 4096 ∧ f.off % 4 = 0 ∧ f.lo < 32 := by
  simp [Field.fits, and_assoc]

theorem fieldsOf_place_lt {cls : Nat} {f : Field} (h : f ∈ fieldsOf cls) : f.place < 2 ^ 23 := by
  obtain ⟨hc, hcls, -, hoff, -, hlo⟩ := Field.fits_iff.mp (fieldsOf_fits h)
  unfold Field.place
  omega

/-- The fields of one page lie at different places. -/
theorem fieldsOf_pairwise (cls : Nat) : (fieldsOf cls).Pairwise (fun f g => f.place ≠ g.place) := by
  unfold fieldsOf
  split <;> decide

theorem mem_fieldsAt {cls off : Nat} {f : Field} : f ∈ fieldsAt cls off ↔ f ∈ fieldsOf cls ∧ f.off = off := by
  simp [fieldsAt]

theorem fieldsAt_pairwise (cls off i : Nat) : (fieldsAt cls off).Pairwise (fun f g => f.key i ≠ g.key i) := by
  refine ((fieldsOf_pairwise cls).filter _).imp_of_mem ?_
  intro f g hf hg hne
  exact Field.key_ne i i ⟨fieldsOf_place_lt (mem_fieldsAt.mp hg).1, fieldsOf_place_lt (mem_fieldsAt.mp hf).1, hne⟩

/-! ### Folding over the fields of a register -/

/-- A pass over fields that writes each field `f` of the list under the key of unit `i`, if at all. -/
def Dev.Writes (i : Nat) (w : Dev → Field → Dev) : Prop :=
  ∀ (d : Dev) (f g : Field) (j : Nat), g.key j ≠ f.key i → (w d f).fget g j = d.fget g j

theorem Dev.fget_foldl_other {i : Nat} {w : Dev → Field → Dev} (hw : Dev.Writes i w) {l : List Field} {g : Field} {j : Nat}
    (h : ∀ f ∈ l, g.key j ≠ f.key i) (d : Dev) : (l.foldl w d).fget g j = d.fget g j := by
  induction l generalizing d with
  | nil => rfl
  | cons f l ih =>
    rw [List.foldl_cons, ih (fun f hf => h f (List.mem_cons_of_mem _ hf)), hw _ _ _ _ (h f (List.mem_cons_self ..))]

/-- In a pass over fields with different keys each field is written once, on what it held before. -/
theorem Dev.fget_foldl_mem {i : Nat} {w : Dev → Field → Dev} (hw : Dev.Writes i w) {l : List Field}
    (hl : l.Pairwise (fun f g => f.key i ≠ g.key i)) {f : Field} (hf : f ∈ l) (d : Dev) :
    ∃ e : Dev, e.fget f i = d.fget f i ∧ (l.foldl w d).fget f i = (w e f).fget f i := by
  induction l generalizing d with
  | nil => cases hf
  | cons g l ih =>
    obtain ⟨hg, hl⟩ := List.pairwise_cons.mp hl
    rcases List.mem_cons.mp hf with rfl | hf
    · exact ⟨d, rfl, Dev.fget_foldl_other hw (fun x hx => hg x hx) _⟩
    · obtain ⟨e, he, h⟩ := ih hl hf (w d g)
      exact ⟨e, he.trans (hw _ _ _ _ (hg f hf).symm), h⟩

/-! ### Writes of the plain registers of the THM, CAL, DOC, SLV, STK and FLT pages -/

/-- The pages whose registers only store. -/
def plainPages : List Nat := [0x05, 0x0C, 0x0D, 0x11, 0x12, 0x13]

theorem plainPages_not_rwl {cls : Nat} {f : Field} (hc : cls ∈ plainPages) (hf : f ∈ fieldsOf cls) : f.acc ≠ .rwl := by
  have all : plainPages.all (fun c => (fieldsOf c).all (fun f => decide (f.acc ≠ .rwl))) = true := rfl
  exact of_decide_eq_true (List.all_eq_true.mp (List.all_eq_true.mp all cls hc) f hf)

theorem Dev.fieldInst_plainPages (d : Dev) {cls : Nat} (inst off : Nat) (hc : cls ∈ plainPages) :
    d.fieldInst cls inst off = inst := by
  fin_cases hc <;> rfl

theorem Dev.blockWrite_plainPages (d : Dev) (m : Mem) {cls : Nat} (inst off v : Nat) (hc : cls ∈ plainPages) :
    d.blockWrite m cls inst off v = d.plainWrite cls inst off v := by
  fin_cases hc <;> rfl

/-- A page of the part has its place in BAR 0. -/
theorem page_lt {cls inst : Nat} (h : inst < instances cls) : cls < 64 ∧ inst < 256 := by
  have hp : pageExists cls inst = true := decide_eq_true h
  rw [pageExists_iff] at hp
  omega

theorem Dev.hostWrite_page (d : Dev) (m : Mem) {cls inst o : Nat} (v : Nat) (hi : inst < instances cls) (ho : o < 2 ^ 12) :
    d.hostWrite m 0 (cls * 2 ^ 20 + inst * 2 ^ 12 + o) v = d.pageWrite m cls inst o v := by
  obtain ⟨-, hi'⟩ := page_lt hi
  have hp : pageExists cls inst = true := decide_eq_true hi
  simp only [Dev.hostWrite, addressed_page hi' ho, pageOf_page hi' ho, hp, Bool.not_true, Bool.false_eq_true, if_false, if_true]

theorem Dev.wordWrite_page (d : Dev) (m : Mem) {cls inst o : Nat} (v : Nat) (hi : inst < instances cls) (ho : o < 2 ^ 12) :
    d.wordWrite m 0 (cls * 2 ^ 20 + inst * 2 ^ 12 + o) 15 v = d.pageWrite m cls inst o (v % 2 ^ 32) := by
  rw [Dev.wordWrite, if_neg (by decide), Dev.hostWrite_page d m _ hi ho]

/-- What a write of a plain register does: the page keeps out a write of an absent unit and, on SLV, of one in reset. -/
theorem Dev.pageWrite_plainPages (d : Dev) (m : Mem) {cls inst o : Nat} (v : Nat) (hc : cls ∈ plainPages) (ho : 0x40 ≤ o) :
    d.pageWrite m cls inst o v
      = if d.pageReset cls = false ∧ d.blockOpen cls inst = true then d.plainWrite cls inst o v else d := by
  rw [Dev.pageWrite, if_neg (by omega : ¬ o < 0x40), Dev.blockWrite_plainPages d m _ _ _ hc]
  cases d.pageReset cls <;> cases d.blockOpen cls inst <;> rfl

theorem Dev.fieldWrite_mask8 (d : Dev) (f : Field) (i v : Nat) : (d.fieldWrite f i v).mask 8 = d.mask 8 :=
  Dev.fieldWrite_mask (by decide) ..

theorem Dev.plainWrite_mask8 (d : Dev) (cls inst off v : Nat) : (d.plainWrite cls inst off v).mask 8 = d.mask 8 :=
  Dev.plainWrite_mask (by decide) ..

theorem Dev.writes_fieldWrite (i v : Nat) : Dev.Writes i (fun d f => d.fieldWrite f i v) := by
  intro d f g j h
  unfold Dev.fieldWrite
  dsimp only
  split
  case h_4 =>
    split
    · exact Dev.fget_fset_ne d _ h
    · rfl
  case h_5 | h_6 | h_7 => rfl
  all_goals exact Dev.fget_fset_ne d _ h

/-- Each field by its access code (Table 0-2). -/
theorem Dev.fget_fieldWrite_same (d : Dev) (f : Field) (i v : Nat) (h : f.acc ≠ .rwl) :
    (d.fieldWrite f i v).fget f i = match f.acc with
      | .rw => f.stored (bits v f.lo f.width) % 2 ^ f.width
      | .w1c => (d.fget f i - (d.fget f i &&& bits v f.lo f.width)) % 2 ^ f.width
      | .w1s => (d.fget f i ||| bits v f.lo f.width) % 2 ^ f.width
      | .rwl | .ro | .wo | .rc => d.fget f i := by
  unfold Dev.fieldWrite
  cases ha : f.acc
  case rwl => exact absurd ha h
  all_goals simp

theorem Dev.plainWrite_plainPages (d : Dev) {cls : Nat} (inst off v : Nat) (hc : cls ∈ plainPages) :
    d.plainWrite cls inst off v = (fieldsAt cls off).foldl (fun d f => d.fieldWrite f inst v) d := by
  simp only [Dev.plainWrite, Dev.fieldInst_plainPages _ _ _ hc]

/-- A field of another page, and every field of another register, keeps its value. -/
theorem Dev.fget_plainWrite_other (d : Dev) {cls : Nat} (inst off v : Nat) (hc : cls ∈ plainPages) {g : Field} {j : Nat}
    (h : ∀ f ∈ fieldsOf cls, f.off = off → g.key j ≠ f.key inst) : (d.plainWrite cls inst off v).fget g j = d.fget g j := by
  rw [Dev.plainWrite_plainPages d _ _ _ hc]
  exact Dev.fget_foldl_other (Dev.writes_fieldWrite inst v) (fun f hf => h f (mem_fieldsAt.mp hf).1 (mem_fieldsAt.mp hf).2) d

/-- A field of the register acts by its access code. -/
theorem Dev.fget_plainWrite_mem (d : Dev) {cls : Nat} (inst v : Nat) (hc : cls ∈ plainPages) {f : Field}
    (hf : f ∈ fieldsOf cls) : (d.plainWrite cls inst f.off v).fget f inst = match f.acc with
      | .rw => f.stored (bits v f.lo f.width) % 2 ^ f.width
      | .w1c => (d.fget f inst - (d.fget f inst &&& bits v f.lo f.width)) % 2 ^ f.width
      | .w1s => (d.fget f inst ||| bits v f.lo f.width) % 2 ^ f.width
      | .rwl | .ro | .wo | .rc => d.fget f inst := by
  rw [Dev.plainWrite_plainPages d _ _ _ hc]
  obtain ⟨e, he, h⟩ := Dev.fget_foldl_mem (Dev.writes_fieldWrite inst v) (fieldsAt_pairwise cls f.off inst)
    (mem_fieldsAt.mpr ⟨hf, rfl⟩) d
  rw [h, Dev.fget_fieldWrite_same e f inst v (plainPages_not_rwl hc hf), he]

/-! ### Accesses that the endpoint answers -/

/-- The endpoint answers by the link, the power-on sequence and the state of the device. -/
theorem Dev.answers_congr {d e : Dev} (hphase : e.phase = d.phase) (hboot : e.bootEvent = d.bootEvent)
    (hpci : e.pci.perst = d.pci.perst) (hpwr : e.pwr = d.pwr)
    (hrate : e.fget pciLinkstatRate 0 = d.fget pciLinkstatRate 0) : e.answers = d.answers := by
  simp only [Dev.answers, Dev.linkUp, hphase, hboot, hpci, hpwr, hrate]

/-- PCI.LINKSTAT.RATE is no field of a page other than PCI. -/
theorem linkRate_key_ne {cls : Nat} {f : Field} (i : Nat) (hc : cls ∈ plainPages) (hf : f ∈ fieldsOf cls) :
    pciLinkstatRate.key 0 ≠ f.key i := by
  refine Field.key_ne i 0 ⟨fieldsOf_place_lt hf, by decide, fun h => ?_⟩
  obtain ⟨hcls, -, -, hoff, -, hlo⟩ := Field.fits_iff.mp (fieldsOf_fits hf)
  have hne : cls ≠ 9 := by rintro rfl; exact absurd hc (by decide)
  simp only [Field.place, pciLinkstatRate] at h
  omega

theorem Dev.answers_plainWrite (d : Dev) {cls : Nat} (inst off v : Nat) (hc : cls ∈ plainPages) :
    (d.plainWrite cls inst off v).answers = d.answers := by
  have hm := Dev.plainWrite_mask8 d cls inst off v
  exact Dev.answers_congr (Dev.phase_of_mask (by decide) hm) (Dev.bootEvent_of_mask (by decide) hm)
    (congrArg Pcie.perst (Dev.pci_of_mask (by decide) hm)) (Dev.pwr_of_mask (by decide) hm)
    (Dev.fget_plainWrite_other d inst off v hc fun f hf _ => linkRate_key_ne inst hc hf)

theorem Dev.pageWrite_plainPages_mask (d : Dev) (m : Mem) {cls inst o : Nat} (v : Nat) (hc : cls ∈ plainPages)
    (ho : 0x40 ≤ o) : (d.pageWrite m cls inst o v).mask 8 = d.mask 8
      ∧ (d.pageWrite m cls inst o v).answers = d.answers := by
  rw [Dev.pageWrite_plainPages d m v hc ho]
  split
  · exact ⟨Dev.plainWrite_mask8 .., Dev.answers_plainWrite d inst o v hc⟩
  · exact ⟨rfl, rfl⟩

/-- An access of the host that is answered and stores nothing. -/
theorem exec_access {c : Instr} {ok : Bool} {g : Mem → Dev → Dev} {s : State} {d' : Dev}
    (he : exec c s = runIf ok (fun m d => d.host (g m)) s) (h : ok = true) (ha : s.dev.answers = true)
    (hf : g s.mem s.dev = d') (hw : d'.wout = []) : exec c s = .next { s with dev := d' } := by
  have hd : s.dev.host (g s.mem) = d' := (Dev.host_on ha _).trans hf
  rw [he, runIf_true h, State.after_eq (show (s.dev.host (g s.mem)).wout = [] by rw [hd, hw])]
  simp only [hd]

theorem plainPages_regAt {cls inst o : Nat} (hi : inst < instances cls) (ho : o < 2 ^ 12) (h4 : o % 4 = 0) :
    regAt 0 (cls * 2 ^ 20 + inst * 2 ^ 12 + o) = true :=
  regAt_page (page_lt hi).1 (page_lt hi).2 ho h4

/-- The frame of a meaning that stores nothing, from its mask. -/
theorem State.onlyParts_of_mask {s : State} {d : Dev} (l : List Part) (h : d.mask (partsMask l) = s.dev.mask (partsMask l)) :
    s.OnlyParts { s with dev := d } l :=
  ⟨Dev.OnlyChanges.of_mask _ l h fun _ => testBit_partsMask, rfl, rfl⟩

/-- Settles O8: each register of these pages is written by one pass over its fields (`Dev.plainWrite`), which have
different keys. -/
theorem plainRegisterWrite : Obligations.PlainRegisterWrite := by
  constructor
  · intro s cls inst o v hc hi ho ho' h8 hv hw ha
    have hc : cls ∈ plainPages := hc
    have hi' := (page_lt hi).2
    -- the two 32-bit writes
    have lo := Dev.pageWrite_plainPages_mask s.dev s.mem (inst := inst) (v % 2 ^ 32 % 2 ^ 32) hc ho
    generalize hd : s.dev.pageWrite s.mem cls inst o (v % 2 ^ 32 % 2 ^ 32) = d at lo
    have hwd : d.wout = [] := (Dev.wout_of_mask (by decide) lo.1).trans hw
    have hi4 : o + 4 < 2 ^ 12 := by omega
    have up := Dev.pageWrite_plainPages_mask d s.mem (inst := inst) (v / 2 ^ 32 % 2 ^ 32) hc (o := o + 4) (by omega)
    generalize he : d.pageWrite s.mem cls inst (o + 4) (v / 2 ^ 32 % 2 ^ 32) = e at up
    have hwe : e.wout = [] := (Dev.wout_of_mask (by decide) up.1).trans hwd
    have hlo : ∀ x, s.dev.regWrite s.mem 0 (cls * 2 ^ 20 + inst * 2 ^ 12 + o) 15 x
        = s.dev.pageWrite s.mem cls inst o (x % 2 ^ 32) := fun x => by
      rw [Dev.regWrite, if_pos (by decide), Dev.wordWrite_page _ _ _ hi ho']
    refine ⟨{ s with dev := d }, { s with dev := e }, ?_, ?_, ?_⟩
    · exact exec_access (g := fun m d => d.regWrite m 0 _ 15 _) rfl (plainPages_regAt hi ho' (by omega)) ha
        ((hlo _).trans hd) hwd
    · refine exec_access (s := { s with dev := d }) (g := fun m d => d.regWrite m 0 _ 15 _) rfl
        (plainPages_regAt hi hi4 (by omega)) (lo.2.trans ha) ?_ hwe
      rw [Dev.regWrite, if_pos (by decide), Dev.wordWrite_page _ _ _ hi hi4, he]
    · refine exec_access (g := fun m d => d.regWrite m 0 _ 255 _) rfl (plainPages_regAt hi ho' (by omega)) ha ?_ hwe
      have hmod : v % 2 ^ 32 % 2 ^ 32 = v % 2 ^ 32 := Nat.mod_mod ..
      rw [Dev.regWrite, if_neg (by decide), Dev.wordWrite_page _ _ _ hi ho', ← hmod, hd, Nat.add_assoc,
        Dev.wordWrite_page _ _ _ hi hi4, he]
  · intro s cls inst v f hc hi hf hv hw ha hopen hreset
    have hc : cls ∈ plainPages := hc
    obtain ⟨-, -, hlo, hoff, h4, -⟩ := Field.fits_iff.mp (fieldsOf_fits hf)
    have hm := Dev.plainWrite_mask8 s.dev cls inst f.off v
    have hd : s.dev.regWrite s.mem 0 (cls * 2 ^ 20 + inst * 2 ^ 12 + f.off) 15 v = s.dev.plainWrite cls inst f.off v := by
      rw [Dev.regWrite, if_pos (by decide), Dev.wordWrite_page _ _ _ hi hoff, Nat.mod_eq_of_lt hv,
        Dev.pageWrite_plainPages _ _ _ hc hlo, if_pos ⟨hreset, hopen⟩]
    exact Answers.access (g := fun m d => d.regWrite m 0 _ 15 v) rfl (plainPages_regAt hi hoff h4) ha hd
      ((Dev.wout_of_mask (by decide) hm).trans hw)
      ⟨Dev.fget_plainWrite_mem _ _ _ hc hf, fun g j h => Dev.fget_plainWrite_other _ _ _ _ hc h,
        State.onlyParts_of_mask [.regs] hm⟩

end Sys2Proof.Machine
end


section
/-! PROOFS. What a command that stores nothing answers, by its meaning and its mask; and what each register field reads
after the operations that all chapters share. -/

namespace Sys2Proof.Machine

/-! ### Commands that store nothing -/

/-- A command whose meaning changes the listed parts only, none of them the outbox. -/
theorem Answers.parts {c : Instr} {ok : Bool} {f : Mem → Dev → Dev} {s : State} {P : State → Prop} (l : List Part)
    (he : exec c s = runIf ok f s) (h : ok = true) (hw : s.dev.wout = [])
    (hm : (f s.mem s.dev).mask (partsMask l) = s.dev.mask (partsMask l)) (hl : (partsMask l).testBit 26 = false)
    (hp : s.OnlyParts { s with dev := f s.mem s.dev } l → P { s with dev := f s.mem s.dev }) : Answers c s P :=
  Answers.quiet he h rfl ((Dev.wout_of_mask hl hm).trans hw) (hp (State.onlyParts_of_mask l hm))

/-- The same of an access of the host. -/
theorem Answers.hostParts {c : Instr} {ok : Bool} {g : Mem → Dev → Dev} {s : State} {P : State → Prop} (l : List Part)
    (he : exec c s = runIf ok (fun m d => d.host (g m)) s) (h : ok = true) (ha : s.dev.answers = true)
    (hw : s.dev.wout = []) (hm : (g s.mem s.dev).mask (partsMask l) = s.dev.mask (partsMask l))
    (hl : (partsMask l).testBit 26 = false)
    (hp : s.OnlyParts { s with dev := g s.mem s.dev } l → P { s with dev := g s.mem s.dev }) : Answers c s P :=
  Answers.access he h ha rfl ((Dev.wout_of_mask hl hm).trans hw) (hp (State.onlyParts_of_mask l hm))

/-- An access of the host that changes nothing. -/
theorem exec_access_same {c : Instr} {ok : Bool} {g : Mem → Dev → Dev} {s : State}
    (he : exec c s = runIf ok (fun m d => d.host (g m)) s) (h : ok = true) (hw : s.dev.wout = [])
    (hg : g s.mem s.dev = s.dev) : exec c s = .next s := by
  rw [he]
  refine runIf_same h hw ?_
  show s.dev.host (g s.mem) = s.dev
  unfold Dev.host
  rw [hg, ite_self]

/-! ### What a field reads -/

@[simp] theorem Dev.fget_mk (d : Dev) (f : Field) (i : Nat) (x0 x1 x2 x4 x5 x6 x7 x8 x9 x10 x11 x12 x13 x14 x15 x16 x17 x18 x19 x20 x21 x22 x23 x24 x25 x26 x27) :
    Dev.fget (Dev.mk x0 x1 x2 d.regs x4 x5 x6 x7 x8 x9 x10 x11 x12 x13 x14 x15 x16 x17 x18 x19 x20 x21 x22 x23 x24 x25 x26 x27) f i = d.fget f i := rfl

@[simp] theorem Dev.fget_ite (c : Prop) [Decidable c] (d e : Dev) (f : Field) (i : Nat) :
    (if c then d else e).fget f i = if c then d.fget f i else e.fget f i := apply_ite (fun d : Dev => d.fget f i) c d e

/-- An operation that leaves the registers alone leaves every field. -/
theorem Dev.fget_of_mask {d e : Dev} {F : Nat} (hF : F.testBit 3 = false) (h : e.mask F = d.mask F) (f : Field) (i : Nat) :
    e.fget f i = d.fget f i :=
  Dev.fget_congr (Dev.regs_of_mask hF h) f i

theorem Dev.fget_fcount_place (d : Dev) {f g : Field} (i j n : Nat)
    (h : f.place < 2 ^ 23 ∧ g.place < 2 ^ 23 ∧ g.place ≠ f.place) : (d.fcount f i n).fget g j = d.fget g j :=
  Dev.fget_fset_place d i j _ h

theorem Dev.fget_fwrap_place (d : Dev) {f g : Field} (i j : Nat)
    (h : f.place < 2 ^ 23 ∧ g.place < 2 ^ 23 ∧ g.place ≠ f.place) : (d.fwrap f i).fget g j = d.fget g j :=
  Dev.fget_fset_place d i j _ h

@[simp] theorem Dev.fget_pgErr (d : Dev) (cls inst bs code p0 p1 p2 : Nat) (f : Field) (i : Nat) :
    (d.pgErr cls inst bs code p0 p1 p2).fget f i = d.fget f i :=
  Dev.fget_of_mask (F := 4194352) (by decide) (Dev.pgErr_mask (by decide) ..) f i

theorem Dev.fbit_iff {d : Dev} {f : Field} {i : Nat} : d.fbit f i = true ↔ d.fget f i = 1 := beq_iff_eq

theorem Dev.fbit_eq_false {d : Dev} {f : Field} {i : Nat} : d.fbit f i = false ↔ d.fget f i ≠ 1 := by
  simp [Dev.fbit]

theorem b2n_bit_zero (v : Nat) : b2n (bit v 0) = v % 2 := by
  have : v % 2 = 0 ∨ v % 2 = 1 := by omega
  rcases this with h | h <;> simp [bit, b2n, h]

/-- What a saturating count of a field leaves is less than the field's limit. -/
theorem satAdd_mod (w a n : Nat) : satAdd (2 ^ w - 1) a n % 2 ^ w = satAdd (2 ^ w - 1) a n :=
  Nat.mod_eq_of_lt (Nat.lt_of_le_of_lt (Nat.min_le_left ..) (Nat.sub_lt (Nat.two_pow_pos _) Nat.one_pos))

@[simp] theorem Dev.fget_fcount_sat (d : Dev) (f : Field) (i n : Nat) :
    (d.fcount f i n).fget f i = satAdd (2 ^ f.width - 1) (d.fget f i) n := by
  rw [Dev.fcount, Dev.fget_fset_same, satAdd_mod]

end Sys2Proof.Machine
end


section
/-! PROOFS. The Cadence generator and the calibration sweeps (chapters 8 and 16). -/

namespace Sys2Proof.Machine

/-! ### Writes of the CAD page -/

/-- A block register of a page whose block is open, of a class that no compute reset keeps out. -/
theorem Dev.pageWrite_block (d : Dev) (m : Mem) {cls inst off : Nat} (v : Nat) (hr : d.pageReset cls = false)
    (ho : 0x40 ≤ off) (hb : d.blockOpen cls inst = true) : d.pageWrite m cls inst off v = d.blockWrite m cls inst off v := by
  rw [Dev.pageWrite, hr, if_neg (by decide), if_neg (by omega), if_pos hb]

/-- Only TIL and SLV pages are kept out by a compute reset. -/
theorem Dev.pageReset_other (d : Dev) {cls : Nat} (h : (cls == pTIL || cls == pSLV) = false) : d.pageReset cls = false := by
  rw [Dev.pageReset, h, Bool.and_false]

theorem Dev.pageWrite_cadCtl (d : Dev) (m : Mem) (v : Nat) (hb : d.blockOpen pCAD 0 = true) :
    d.pageWrite m pCAD 0 0x40 v = d.cadCtl v := Dev.pageWrite_block d m v (Dev.pageReset_other d rfl) (by decide) hb

theorem Dev.pageWrite_cadPeriod (d : Dev) (m : Mem) (v : Nat) (hb : d.blockOpen pCAD 0 = true) :
    d.pageWrite m pCAD 0 0x44 v = d.cadPeriod v := Dev.pageWrite_block d m v (Dev.pageReset_other d rfl) (by decide) hb

theorem Dev.cadCtl_regs (d : Dev) (v : Nat) :
    (d.cadCtl v).regs = ((d.fset cadCtlRun 0 (b2n (bit v 0))).fset cadStatRunning 0 (b2n (bit v 0))).regs := by
  unfold Dev.cadCtl
  dsimp only
  split <;> rfl

/-- CAD.CTL starts or stops the generator, and of the fields it changes RUN and RUNNING alone. -/
theorem Dev.fget_cadCtl (d : Dev) (v : Nat) :
    (d.cadCtl v).fget cadCtlRun 0 = v % 2 ∧ (d.cadCtl v).fget cadStatRunning 0 = v % 2
      ∧ (d.cadCtl v).fget cadPeriodNs 0 = d.fget cadPeriodNs 0 := by
  have hr : v % 2 % 2 ^ cadCtlRun.width = v % 2 := Nat.mod_mod ..
  have hs : v % 2 % 2 ^ cadStatRunning.width = v % 2 := Nat.mod_mod ..
  simp (disch := decide) only [Dev.fget_congr (Dev.cadCtl_regs d v), Dev.fget_fset_place, Dev.fget_fset_same,
    b2n_bit_zero, hr, hs, and_self]

/-- LOAD takes CAD.COUNTSET where RUN is 0. -/
theorem Dev.cadCtl_cad (d : Dev) (v : Nat) :
    (d.cadCtl v).cad = if bit v 1 && !bit v 0 then
      { d.cad with count := d.fget cadCountsetLoSetLo 0 + d.fget cadCountsetHiSetHi 0 * 2 ^ 32 } else d.cad := by
  unfold Dev.cadCtl
  dsimp only
  split <;> simp (disch := decide) [Dev.fget_fset_place]

/-- A write without LOAD keeps the count. -/
theorem Dev.cadCtl_mask8 (d : Dev) {v : Nat} (h : bit v 1 = false) : (d.cadCtl v).mask 8 = d.mask 8 := by
  simp [Dev.cadCtl, h]

theorem cadPeriod_stored (v : Nat) : cadPeriodNs.stored v % 2 ^ 20 = max 50 (min 1000000 (v % 2 ^ 20)) := by
  have hw : cadPeriodNs.width = 20 := rfl
  have hlo : cadPeriodNs.least = 50 := rfl
  have hhi : cadPeriodNs.greatest = 1000000 := rfl
  simp only [Field.stored, hw, hlo, hhi]
  split_ifs <;> omega

/-- CAD.PERIOD pends while the generator runs. -/
theorem Dev.cadPeriod_running {d : Dev} (v : Nat) (h : d.fget cadCtlRun 0 = 1) :
    d.cadPeriod v = (d.fset cadPeriodNs 0 (cadPeriodNs.stored v)).fset cadStatPerpend 0 1 := by
  have hb : (d.fset cadPeriodNs 0 (cadPeriodNs.stored v)).fbit cadCtlRun 0 = true :=
    Dev.fbit_iff.mpr ((Dev.fget_fset_place _ _ _ _ (by decide)).trans h)
  rw [Dev.cadPeriod, if_pos hb]

/-- CAD.PERIOD is in force at once while the generator is stopped. -/
theorem Dev.cadPeriod_stopped {d : Dev} (v : Nat) (h : d.fget cadCtlRun 0 ≠ 1) :
    (d.cadPeriod v).regs = (d.fset cadPeriodNs 0 (cadPeriodNs.stored v)).regs
      ∧ (d.cadPeriod v).cad = { d.cad with period := (d.cadPeriod v).fget cadPeriodNs 0 } := by
  have hb : ¬ (d.fset cadPeriodNs 0 (cadPeriodNs.stored v)).fbit cadCtlRun 0 = true := fun hb =>
    h ((Dev.fget_fset_place _ _ _ _ (by decide)).symm.trans (Dev.fbit_iff.mp hb))
  rw [Dev.cadPeriod, if_neg hb]
  exact ⟨rfl, rfl⟩

theorem Dev.cadPeriod_spec (d : Dev) (v : Nat) :
    (d.cadPeriod v).fget cadPeriodNs 0 = max 50 (min 1000000 (v % 2 ^ 20))
    ∧ (d.fget cadCtlRun 0 = 1 → (d.cadPeriod v).fget cadStatPerpend 0 = 1 ∧ (d.cadPeriod v).cad = d.cad)
    ∧ (d.fget cadCtlRun 0 ≠ 1 → (d.cadPeriod v).fget cadStatPerpend 0 = d.fget cadStatPerpend 0
      ∧ (d.cadPeriod v).cad = { d.cad with period := (d.cadPeriod v).fget cadPeriodNs 0 }) := by
  by_cases h : d.fget cadCtlRun 0 = 1
  · rw [Dev.cadPeriod_running v h, Dev.fget_fset_place _ _ _ _ (by decide), Dev.fget_fset_same]
    exact ⟨cadPeriod_stored v, fun _ => ⟨Dev.fget_fset_same .., rfl⟩, fun hn => absurd h hn⟩
  · obtain ⟨hregs, hcad⟩ := Dev.cadPeriod_stopped v h
    rw [Dev.fget_congr hregs, Dev.fget_congr hregs, Dev.fget_fset_same]
    exact ⟨cadPeriod_stored v, fun hr => absurd hr h, fun _ => ⟨Dev.fget_fset_place _ _ _ _ (by decide),
      hcad.trans (by rw [Dev.fget_congr hregs, Dev.fget_fset_same])⟩⟩

/-! ### Marks -/

/-- Not one of the two fields that show the ballast. -/
abbrev Field.offBallast (g : Field) : Prop :=
  g.place < 2 ^ 23 ∧ g.place ≠ pwrBallastWatts.place ∧ g.place ≠ pwrStatBallast.place

theorem Dev.fget_setBallast (d : Dev) (w : Nat) {g : Field} (j : Nat) (h : g.offBallast) :
    (d.setBallast w).fget g j = d.fget g j := by
  obtain ⟨hp, hw, hs⟩ := h
  rw [Dev.setBallast, Dev.fget_fset_place _ _ _ _ ⟨by decide, hp, hs⟩, Dev.fget_fset_place _ _ _ _ ⟨by decide, hp, hw⟩]

theorem Dev.fget_startFree (d : Dev) (l : Load) {g : Field} (j : Nat) (h : g.offBallast) :
    (d.startFree l).fget g j = d.fget g j := by
  unfold Dev.startFree
  split
  · rfl
  · exact Dev.fget_setBallast d _ j h

theorem Dev.fget_startCandidate (d : Dev) (c : Candidate) (g : Field) (j : Nat) :
    (d.startCandidate c).fget g j = d.fget g j :=
  Dev.fget_of_mask (F := 16793856) (by decide) (Dev.startCandidate_mask (by decide) ..) g j

theorem Dev.fget_admitLoad (d : Dev) (l : Load) (g : Field) (j : Nat) : (d.admitLoad l).fget g j = d.fget g j :=
  Dev.fget_of_mask (F := 16777216) (by decide) (Dev.admitLoad_mask (by decide) ..) g j

/-- Admission changes no field but the ballast's. -/
theorem Dev.fget_admitWaiting (d : Dev) {g : Field} (j : Nat) (h : g.offBallast) :
    d.admitWaiting.fget g j = d.fget g j := by
  unfold Dev.admitWaiting
  refine Dev.foldl_keep (fun b : Dev × Bool × List (Nat × Nat) => b.1.fget g j = d.fget g j) _ ?_ _ _ rfl
  intro b c hb
  dsimp only
  rw [← hb]
  split
  · rfl
  · split
    · exact Dev.fget_startCandidate ..
    · split
      · simp only [Dev.fget_startCandidate, Dev.fget_startFree _ _ j h]
      · split
        · simp only [Dev.fget_startCandidate, Dev.fget_admitLoad]
        · rfl

theorem Dev.fget_interval (d : Dev) (ns : Nat) {g : Field} (j : Nat) (h : g.offBallast) :
    (d.interval ns).fget g j = d.fget g j :=
  (Dev.fget_admitWaiting _ j h).trans (Dev.fget_setBallast _ _ j h)

theorem Dev.cadenceMark_stopped {d : Dev} (h : d.fget cadCtlRun 0 ≠ 1 ∨ d.pwr.on = false) : d.cadenceMark = d := by
  unfold Dev.cadenceMark
  rw [if_pos]
  rcases h with h | h
  · simp [Dev.fbit_eq_false.mpr h]
  · simp [h]

/-- A mark of the running generator. -/
theorem Dev.cadenceMark_running {d : Dev} (h : d.fget cadCtlRun 0 = 1) (hon : d.pwr.on = true) :
    d.cadenceMark.cad = { d.cad with
      count := (d.cad.count + 1) % 2 ^ 48, mark := (d.cad.count + 1) % 2 ^ 48, period := d.fget cadPeriodNs 0
      ticks := d.cad.ticks + 1 }
    ∧ d.cadenceMark.fget cadStatPerpend 0 = 0 := by
  have hb := Dev.fbit_iff.mpr h
  unfold Dev.cadenceMark
  simp only [hb, hon, Bool.not_true, Bool.or_self, Bool.false_eq_true, if_false]
  refine ⟨(Dev.cad_of_mask (F := 16793864) (by decide) (Dev.interval_mask (by decide) ..)).trans rfl, ?_⟩
  rw [Dev.fget_interval _ _ _ (by decide)]
  simp (disch := decide) [Dev.fget_fcount_place]

/-- Settles O27. -/
theorem cadenceGenerator : Obligations.CadenceGenerator := by
  intro s v hv hw
  refine ⟨fun ha hb => ⟨fun h1 => ?_, fun h1 => ?_, ?_⟩, fun hrun hon => ?_, fun h => ?_⟩
  · have hg : (if !bit v 1 then s.dev.pageWrite s.mem pCAD 0 0x40 v else s.dev) = s.dev.cadCtl v := by
      rw [h1, Dev.pageWrite_cadCtl _ _ _ hb]; rfl
    obtain ⟨hr, hs, hp⟩ := Dev.fget_cadCtl s.dev v
    have hm := Dev.cadCtl_mask8 s.dev h1
    exact Answers.access' rfl ha hg ((Dev.wout_of_mask (by decide) hm).trans hw)
      ⟨hr, hs, hp, State.onlyParts_of_mask [.regs] hm⟩
  · have hg : (if bit v 1 then s.dev.pageWrite s.mem pCAD 0 0x40 v else s.dev) = s.dev.cadCtl v := by
      rw [h1, Dev.pageWrite_cadCtl _ _ _ hb]; rfl
    obtain ⟨hr, hs, -⟩ := Dev.fget_cadCtl s.dev v
    have hm : (s.dev.cadCtl v).mask 131080 = s.dev.mask 131080 := Dev.cadCtl_mask (by decide) ..
    refine Answers.access' rfl ha hg ((Dev.wout_of_mask (by decide) hm).trans hw)
      ⟨hr, hs, ?_, State.onlyParts_of_mask [.regs, .cad] hm⟩
    rw [Dev.cadCtl_cad, h1, Bool.true_and]
    have hz : bit v 0 = (v % 2 == 1) := by simp [bit]
    rcases Nat.mod_two_eq_zero_or_one v with h0 | h0 <;> simp [hz, h0]
  · have hm : (s.dev.cadPeriod v).mask 131080 = s.dev.mask 131080 := Dev.cadPeriod_mask (by decide) ..
    obtain ⟨hp, hrun, hstop⟩ := Dev.cadPeriod_spec s.dev v
    exact Answers.access' rfl ha (Dev.pageWrite_cadPeriod s.dev s.mem v hb) ((Dev.wout_of_mask (by decide) hm).trans hw)
      ⟨hp, hrun, hstop, State.onlyParts_of_mask [.regs, .cad] hm⟩
  · obtain ⟨hcad, hpend⟩ := Dev.cadenceMark_running hrun hon
    refine Answers.parts [.regs, .cad, .tiles, .launches, .pwr] (ok := true) rfl rfl hw (Dev.cadenceMark_mask (by decide) _)
      (by decide) fun ho => ⟨?_, ?_, ?_, hpend, ho⟩
    · exact congrArg Cad.count hcad
    · exact congrArg Cad.mark hcad
    · exact congrArg Cad.period hcad
  · exact runIf_same (ok := true) rfl hw (Dev.cadenceMark_stopped h)

/-! ### Calibration -/

/-- Neither calibration command does anything while CAL is not ACTIVE. -/
theorem Dev.cal_inactive {d : Dev} (h : d.active pCAL 0 = false) :
    (∀ kind skew sensor failed, d.calSweep kind skew sensor failed = d) ∧ ∀ ps, d.ccMeasure ps = d := by
  refine ⟨fun kind skew sensor failed => ?_, fun ps => ?_⟩
  · rw [Dev.calSweep, h]; rfl
  · rw [Dev.ccMeasure, h]; rfl

theorem Dev.fget_ccMeasure {d : Dev} (h : d.active pCAL 0 = true) (c0 c1 c2 c3 c4 : Nat) :
    let e := d.ccMeasure [c0, c1, c2, c3, c4]
    e.fget calCc0Ps 0 = c0 % 2 ^ 16 ∧ e.fget calCc1Ps 0 = c1 % 2 ^ 16 ∧ e.fget calCc2Ps 0 = c2 % 2 ^ 16
      ∧ e.fget calCc3Ps 0 = c3 % 2 ^ 16 ∧ e.fget calCchbPs 0 = c4 % 2 ^ 16 := by
  have e : d.ccMeasure [c0, c1, c2, c3, c4] = ((((d.fset calCc0Ps 0 c0).fset calCc1Ps 0 c1).fset calCc2Ps 0 c2).fset
      calCc3Ps 0 c3).fset calCchbPs 0 c4 := by rw [Dev.ccMeasure, h]; rfl
  simp (disch := decide) only [e, Dev.fget_fset_place, Dev.fget_fset_same]
  exact ⟨rfl, rfl, rfl, rfl, rfl⟩

/-- The counts and results of an enabled sweep. -/
theorem Dev.fget_calSweep {d : Dev} {kind : Nat} (skew sensor : Nat) (failed : Bool) (h : d.active pCAL 0 = true)
    (he : (if kind = 1 then d.fget calCtlCadence 0 else d.fget calCtlSensor 0) = 1) :
    let e := d.calSweep kind skew sensor failed
    e.fget calSweepcntCount 0 = satAdd (2 ^ 32 - 1) (d.fget calSweepcntCount 0) 1
    ∧ (kind = 1 → e.fget cadSkewMaxskew 0 = min skew 255
      ∧ e.fget cadSkewCalcnt 0 = (d.fget cadSkewCalcnt 0 + 1) % 2 ^ 16
      ∧ e.fget cadStatSkewerr 0 = (if 60 < skew then 1 else d.fget cadStatSkewerr 0))
    ∧ e.fget calFailcntCount 0 = (if failed then satAdd (2 ^ 32 - 1) (d.fget calFailcntCount 0) 1
        else d.fget calFailcntCount 0)
    ∧ e.fget calStatFailed 0 = (if failed then 1 else d.fget calStatFailed 0) := by
  have hskew : min skew 0xFF % 2 ^ cadSkewMaxskew.width = min skew 255 := Nat.mod_eq_of_lt (by
    show min skew 0xFF < 2 ^ 8
    omega)
  have hen : (!d.active pCAL 0 || !(if kind = 1 then d.fbit calCtlCadence 0 else d.fbit calCtlSensor 0)) = false := by
    rw [h]
    by_cases hk : kind = 1
    · simp only [hk, if_true] at he ⊢; simp [Dev.fbit_iff.mpr he]
    · simp only [hk, if_false] at he ⊢; simp [Dev.fbit_iff.mpr he]
  simp (disch := decide) only [Dev.calSweep, hen, Bool.false_eq_true, if_false, Dev.fget_ite, Dev.fget_record,
    Dev.fget_fset_place, Dev.fget_fset_same, Dev.fget_fcount_place, Dev.fget_fcount_sat, Dev.fget_pgErr,
    Dev.fget_fwrap_place, Dev.fget_fwrap_same, ite_self, hskew]
  refine ⟨rfl, ?_, ?_, ?_⟩
  · rintro rfl
    simp only [true_and, if_true]
    exact ⟨rfl, rfl⟩
  · rfl
  · rfl

/-- Settles O28. -/
theorem calibrationSweeps : Obligations.CalibrationSweeps := by
  intro s kind skew sensor c0 c1 c2 c3 c4 failed hw hk hps
  refine ⟨fun hact => ⟨fun hen => ?_, ?_⟩, fun hact => ?_⟩
  · obtain ⟨hn, hskew, hfail, hstat⟩ := Dev.fget_calSweep skew sensor failed hact hen
    exact Answers.parts [.regs, .units, .evr, .pci] (ok := true) rfl rfl hw (Dev.calSweep_mask (by decide) ..) (by decide)
      fun ho => ⟨hn, hskew, hfail, hstat, ho⟩
  · obtain ⟨h0, h1, h2, h3, h4⟩ := Dev.fget_ccMeasure hact c0 c1 c2 c3 c4
    exact Answers.parts [.regs] (ok := true) rfl rfl hw (Dev.ccMeasure_mask (by decide) ..) (by decide)
      fun ho => ⟨h0, h1, h2, h3, h4, ho⟩
  · obtain ⟨hsweep, hmeasure⟩ := Dev.cal_inactive hact
    exact ⟨runIf_same (ok := true) rfl hw (hsweep ..), runIf_same (ok := true) rfl hw (hmeasure _)⟩

end Sys2Proof.Machine
end


section
/-! PROOFS. One tile (chapter 3): the writes that land, the DMAs that end, and bundles that issue. -/

namespace Sys2Proof.Machine

/-! ### A command that changes one tile -/

theorem State.onlyTile_setTile (s : State) (p : Nat) (T : Tile) : s.OnlyTile { s with dev := s.dev.setTile p T } p :=
  ⟨fun _ hq => Dev.tile_setTile_ne _ _ hq, State.onlyParts_of_mask [.tiles] (Dev.setTile_mask (by decide) ..)⟩

theorem State.onlyTile_refl (s : State) (p : Nat) : s.OnlyTile s p :=
  ⟨fun _ _ => rfl, fun q _ => by cases q <;> rfl, rfl, rfl⟩

/-- A command whose meaning sets one tile. -/
theorem Answers.tile {c : Instr} {ok : Bool} {f : Mem → Dev → Dev} {s : State} {P : State → Prop} (p : Nat) (T : Tile)
    (he : exec c s = runIf ok f s) (h : ok = true) (hw : s.dev.wout = []) (hf : f s.mem s.dev = s.dev.setTile p T)
    (hp : (s.dev.setTile p T).tile p = T → s.OnlyTile { s with dev := s.dev.setTile p T } p →
      P { s with dev := s.dev.setTile p T }) : Answers c s P :=
  Answers.quiet he h hf ((Dev.setTile_wout ..).trans hw) (hp (Dev.tile_setTile_same ..) (State.onlyTile_setTile ..))

theorem tileOk_true {p : Nat} (h : p < 68) : tileOk p = true := decide_eq_true h

/-- A command that answers has performed its meaning. -/
theorem exec_runIf_next {c : Instr} {ok : Bool} {f : Mem → Dev → Dev} {s t : State} (he : exec c s = runIf ok f s)
    (h : exec c s = .next t) : t = s.after f := runIf_next (he.symm.trans h)

/-! ### Writes that land -/

theorem Tile.landUpTo_of_pend_nil {t : Tile} (h : t.core.pend = []) (c : Nat) : t.landUpTo c = t := by
  obtain ⟨core, store, mx, vx⟩ := t
  cases core
  obtain rfl : _ = [] := h
  rfl

theorem Tile.landAll_of_pend_nil {t : Tile} (h : t.core.pend = []) : t.landAll = t := Tile.landUpTo_of_pend_nil h _

theorem Tile.landUpTo_one {t : Tile} {w : Write} (h : t.core.pend = [w]) {c : Nat} (hc : w.due ≤ c) :
    t.landUpTo c = { t.land w with core := { (t.land w).core with pend := [] } } := by
  have hs : sortNat [w.due] = [w.due] := rfl
  simp only [Tile.landUpTo, h, List.filter_cons, hc, decide_true, if_true, List.filter_nil, List.map_cons, List.map_nil, hs,
    Nat.not_lt.mpr hc, decide_false, Bool.false_eq_true, if_false]
  cases hspr : w.isSpr <;> simp [List.eraseDups, List.eraseDupsBy, List.eraseDupsBy.loop, hspr]

theorem Tile.landUpTo_later {t : Tile} {w : Write} (h : t.core.pend = [w]) {c : Nat} (hc : c < w.due) :
    t.landUpTo c = t := by
  obtain ⟨core, store, mx, vx⟩ := t
  cases core
  obtain rfl : _ = [w] := h
  simp [Tile.landUpTo, hc, Nat.not_le.mpr hc, sortNat, sortBy]

/-- A write of an X register, as it lands. -/
theorem Tile.land_x (t : Tile) (due n v : Nat) (u : Bool) :
    let t' := t.land ⟨due, .x n, v, 0, u⟩
    t'.xr n = (if n = 0 then 0 else v % 2 ^ 64) ∧ (∀ r, r ≠ n → t'.xr r = t.xr r)
      ∧ t'.core.pend = t.core.pend ∧ t'.core.div = t.core.div ∧ t'.store = t.store ∧ t'.mx = t.mx ∧ t'.vx = t.vx := by
  by_cases h : n = 0
  · simp [Tile.land, Tile.xr, h]
  · refine ⟨?_, fun r hr => ?_, ?_, ?_, ?_, ?_, ?_⟩
    · simp [Tile.land, Tile.xr, h]
    · simp [Tile.land, Tile.xr, h, SMap.get_put_ne _ _ hr]
    all_goals simp [Tile.land, h]

theorem Tile.schedule_of_not_stalled {t : Tile} (h : t.core.stallWhy = 0) (p : Write → Bool) : t.schedule p = t := by
  simp [Tile.schedule, Tile.heldSerial, h]

/-- Settles O16. -/
theorem writesLand : Obligations.WritesLand := by
  intro s p T n v due hp hw hT
  refine ⟨fun hs hpend => ⟨fun hdue => ?_, fun hdue => ?_⟩, fun rest hdiv => ?_⟩
  · obtain ⟨hx, hne, -, -, hstore, hmx, hvx⟩ := Tile.land_x T due n v false
    refine Answers.tile p { T.land ⟨due, .x n, v, 0, false⟩ with
        core := { (T.land ⟨due, .x n, v, 0, false⟩).core with pend := [] } } rfl (tileOk_true hp) hw ?_ ?_
    · rw [← Tile.landUpTo_one hpend hdue]
      simp only [Dev.writeLands, Dev.onTile, hT, Tile.schedule_of_not_stalled hs]
    · intro ht ho
      simp only [ht]
      exact ⟨trivial, hx, hne, hstore, hmx, hvx, ho⟩
  · refine Answers.tile p T rfl (tileOk_true hp) hw ?_ fun ht ho => ⟨ht, ho⟩
    simp only [Dev.writeLands, Dev.onTile, hT, Tile.schedule_of_not_stalled hs,
      Tile.landUpTo_later (w := ⟨due, .x n, v, 0, false⟩) hpend hdue]
  · generalize hU : ({ T with core := { T.core with div := rest } } : Tile) = U
    obtain ⟨hx, hne, hpend, hd, hstore, -, -⟩ := Tile.land_x U T.core.cc n v true
    refine Answers.tile p (U.land ⟨T.core.cc, .x n, v, 0, true⟩) rfl (tileOk_true hp) hw ?_ fun ht ho => ?_
    · simp only [Dev.divideComplete, Dev.onTile, hT, hdiv, ← hU]
      rfl
    · simp only [ht]
      subst hU
      exact ⟨hd, hx, hne, hpend, hstore, ho⟩

/-! ### DMAs that end, credits that come back -/

/-- The tile once a tag has ended with a status. -/
def Tile.endTag (t : Tile) (tag state status : Nat) : Tile :=
  { t with store := { t.store with
      dmas := SMap.remove tag t.store.dmas
      tagState := SMap.put 0 tag state t.store.tagState
      tagStatus := SMap.put 0 tag status t.store.tagStatus } }

theorem Tile.endTag_spec (t : Tile) (tag state status : Nat) :
    SMap.find tag (t.endTag tag state status).store.dmas = none
      ∧ SMap.get 0 tag (t.endTag tag state status).store.tagStatus = status
      ∧ SMap.get 0 tag (t.endTag tag state status).store.tagState = state
      ∧ (∀ g, g ≠ tag → SMap.get 0 g (t.endTag tag state status).store.tagState = SMap.get 0 g t.store.tagState)
      ∧ (t.endTag tag state status).core = t.core :=
  ⟨SMap.find_remove_same .., SMap.get_put_same .., SMap.get_put_same .., fun _ hg => SMap.get_put_ne _ _ hg .., rfl⟩

/-- A DMA with nothing outstanding ends its tag; another stays. -/
theorem Dev.dmaComplete_eq {d : Dev} {p tag : Nat} {q : Dma} (hq : SMap.find tag (d.tile p).store.dmas = some q) :
    d.dmaComplete p tag = if q.phase = 0 ∨ q.left ≠ 0 ∨ !q.mirror.isEmpty then d else
      d.setTile p ((d.tile p).endTag tag (if (if q.status = 0 then b2n q.poison else q.status) ≤ 1 then 0 else 2)
        (if q.status = 0 then b2n q.poison else q.status)) := by
  rw [Dev.dmaComplete, hq]
  rfl

theorem Dev.dmaTimeout_eq {d : Dev} {p tag : Nat} {q : Dma} (hq : SMap.find tag (d.tile p).store.dmas = some q) :
    d.dmaTimeout p tag = d.endDma p tag 2 5 := by
  rw [Dev.dmaTimeout, hq]
  rfl

theorem Dev.endDma_spec (d : Dev) (p tag state status : Nat) :
    (d.endDma p tag state status).tile p = (d.tile p).endTag tag state status
      ∧ ∀ x ∈ (d.endDma p tag state status).deltasSent, ¬ (x.tile = p ∧ x.tag = tag) := by
  refine ⟨Dev.tile_setTile_same .., fun x hx hxp => ?_⟩
  have := (List.mem_filter.mp (show x ∈ d.deltasSent.filter _ from hx)).2
  simp [hxp.1, hxp.2] at this

theorem bit_allOnes2048 : bit allOnes2048 0 = true := by decide +kernel

/-- Predicate M0 enables every slot (R56). -/
theorem Tile.slotOn_m0 (t : Tile) (k : Nat) (op : SlotOp) : t.slotOn ⟨k, 0, op⟩ = true := by
  unfold Tile.slotOn
  split
  · rfl
  · rfl
  · exact bit_allOnes2048

theorem status_tagState (q : Dma) : (if (if q.status = 0 then b2n q.poison else q.status) ≤ 1 then 0 else 2)
    = if q.status ≤ 1 then 0 else 2 := by
  by_cases h : q.status = 0
  · cases hp : q.poison <;> simp [h, b2n]
  · rw [if_neg h]

/-- Settles O19. -/
theorem dmaEnds : Obligations.DmaEnds := by
  rintro s p _ hp hw rfl
  refine ⟨fun tag q hq => ⟨fun hph hl hm => ?_, fun h => ?_, ?_⟩, fun k c a hs hdec => ?_, fun g hg => ?_⟩
  · obtain ⟨hnone, hstatus, hstate, hother, hcore⟩ := Tile.endTag_spec (s.dev.tile p) tag
      (if (if q.status = 0 then b2n q.poison else q.status) ≤ 1 then 0 else 2) (if q.status = 0 then b2n q.poison else q.status)
    refine Answers.tile p _ rfl (tileOk_true hp) hw
      ((Dev.dmaComplete_eq hq).trans (if_neg (by simp [hph, hl, hm]))) fun ht ho => ?_
    simp only [ht]
    exact ⟨hnone, hstatus, hstate.trans (status_tagState q), hother, hcore, ho⟩
  · exact Answers.quiet rfl (tileOk_true hp) ((Dev.dmaComplete_eq hq).trans (if_pos (by rcases h with h | h <;> simp [h]))) hw rfl
  · obtain ⟨ht, hd⟩ := Dev.endDma_spec s.dev p tag 2 5
    obtain ⟨hnone, hstatus, hstate, -, hcore⟩ := Tile.endTag_spec (s.dev.tile p) tag 2 5
    refine Answers.parts [.tiles, .stks, .deltasSent] rfl (tileOk_true hp) hw (Dev.dmaTimeout_mask (by decide) ..) (by decide)
      fun ho => ?_
    simp only [Dev.dmaTimeout_eq hq, ht] at ho ⊢
    exact ⟨hnone, hstatus, hstate, hd, hcore, ho⟩
  · refine Answers.tile p { s.dev.tile p with core := { (s.dev.tile p).core with stallStatus := some 4 } } rfl
      (tileOk_true hp) hw ?_ fun ht ho => ⟨ht, ho⟩
    simp only [Dev.fenceTimeout, Dev.onTile, hs, if_true, hdec, fencePOf, List.findSome?, Tile.slotOn_m0, Option.isSome]
  · have hf : s.dev.creditReturn p g = s.dev.setTile p { s.dev.tile p with store := { (s.dev.tile p).store with
        creditOwed := SMap.modify 0 g (· - 1) (s.dev.tile p).store.creditOwed
        creditUsed := SMap.modify 0 g (· - 1) (s.dev.tile p).store.creditUsed } } := by
      rw [Dev.creditReturn, Dev.onTile, if_neg hg]
    refine Answers.tile p _ rfl (tileOk_true hp) hw hf fun ht ho => ?_
    simp only [ht]
    exact ⟨SMap.get_put_same .., SMap.get_put_same .., fun j hj => SMap.get_put_ne _ _ hj .., trivial, ho⟩

/-! ### Bundles that wait for an ERET's writes (R84) -/

/-- The bundle decodes to one slot, without SER. -/
def decodesTo (b : Nat) (x : Slot) : Bool :=
  match decodeBundle b with
  | .ok (l, ser) => decide (l = [x]) && !ser
  | .error _ => false

theorem decodeBundle_of_decodesTo {b : Nat} {x : Slot} (h : decodesTo b x = true) : decodeBundle b = .ok ([x], false) := by
  unfold decodesTo at h
  split at h
  · simp_all
  · exact absurd h (by decide)

theorem bits_zero (lo w : Nat) : bits 0 lo w = 0 := by rw [bits, Nat.zero_div, Nat.zero_mod]

theorem bit_zero_left (i : Nat) : bit 0 i = false := by simp [bit]

/-- The empty bundle. -/
theorem decodeBundle_zero : decodeBundle 0 = .ok ([], false) := by
  simp [decodeBundle, bundleHeader, bits_zero, bit_zero_left]

/-- A running tile whose next bundle is the one that ERET returns to: it waits for the writes of ERET's own. -/
def Tile.returned (bundle : Nat) (mx : Matrix) : Tile :=
  { Tile.reset with core := { Core.reset with run := .running, eretWait := true, prog := [(0, bundle)] }, mx := mx }

/-- A device whose tile 0 is `T`, and whose Sheets run. -/
def State.withTile (T : Tile) : State :=
  { State.reset with dev := { State.reset.dev with
      tiles := [(0, T)], pwr := { State.reset.dev.pwr with gated := false, dutyHold := false } } }

/-- Refutes O15: the bundle that ERET returns to ends the wait of R84, which the statement has it keep. -/
theorem not_bundleIssues : ¬ Obligations.BundleIssues := by
  intro h
  obtain ⟨t, ht, hT, -⟩ := (h (State.withTile (.returned 0 .reset)) 0 (.returned 0 .reset) (by decide) rfl rfl rfl rfl rfl
    rfl rfl rfl (by decide) rfl rfl rfl).1 decodeBundle_zero
  obtain rfl := exec_runIf_next (ok := tileOk 0) (f := fun m d => d.bundleIssue m 0 0 0) rfl ht
  have he : (((State.withTile (.returned 0 .reset)).after fun m d => d.bundleIssue m 0 0 0).dev.tile 0).core.eretWait
      = false := by decide +kernel
  rw [hT] at he
  exact Bool.noConfusion he

/-- `WAITEV X4, 6` in slot 7, as R55 places its fields. -/
def waitevBundle : Nat := 2 ^ 511 + (0x028 * 2 ^ 52 + 4 * 2 ^ 42 + 6) * 2 ^ (62 * 7)

/-- A matrix engine with a transfer on its port. -/
def busyMatrix : Matrix :=
  { Matrix.reset with port := some ⟨.accst, 0, 0, false, 0, 0, 0, 0, 0, 0, 0, 0, 0, 0, false, 0, 0, 0, [], []⟩ }

/-- Refutes O18: the bundle that ERET returns to waits as under SER (R84), so with a matrix operation of an earlier bundle
still at work WAITEV stalls with STALL_WHY 9, not 6. -/
theorem not_stalledBundleIssues : ¬ Obligations.StalledBundleIssues := by
  intro h
  have hdec : decodesTo waitevBundle ⟨7, 0, .control (.waitev 4 6)⟩ = true := by decide +kernel
  obtain ⟨t, ht, hwhy, -⟩ := (h (State.withTile (.returned waitevBundle busyMatrix)) 0 (.returned waitevBundle busyMatrix)
    7 4 6 (by decide) rfl rfl rfl rfl rfl rfl rfl (by decide) rfl rfl rfl rfl (by decide)
    (decodeBundle_of_decodesTo hdec)).1 rfl rfl
  obtain rfl := exec_runIf_next (ok := tileOk 0) (f := fun m d => d.bundleIssue m 0 0 0) rfl ht
  have he : (((State.withTile (.returned waitevBundle busyMatrix)).after fun m d => d.bundleIssue m 0 0 0).dev.tile 0).core.stallWhy
      = 9 := by decide +kernel
  rw [hwhy] at he
  exact absurd he (by decide)

end Sys2Proof.Machine
end


section
/-! PROOFS. Exceptions of a tile (R82 to R85). -/

namespace Sys2Proof.Machine

/-! ### A meaning that sets one tile, in several steps -/

/-- From `d` to `e` tile `p` becomes `T`, and nothing else changes. -/
def Dev.SetsTile (d e : Dev) (p : Nat) (T : Tile) : Prop :=
  e.mask 256 = d.mask 256 ∧ e.tile p = T ∧ ∀ q, q ≠ p → e.tile q = d.tile q

theorem Dev.setsTile_setTile (d : Dev) (p : Nat) (T : Tile) : d.SetsTile (d.setTile p T) p T :=
  ⟨Dev.setTile_mask (by decide) .., Dev.tile_setTile_same .., fun _ hq => Dev.tile_setTile_ne _ _ hq⟩

theorem Dev.SetsTile.trans {d e f : Dev} {p : Nat} {T U : Tile} (h : d.SetsTile e p T) (g : e.SetsTile f p U) :
    d.SetsTile f p U :=
  ⟨g.1.trans h.1, g.2.1, fun q hq => (g.2.2 q hq).trans (h.2.2 q hq)⟩

theorem Dev.SetsTile.setTile {d e : Dev} {p : Nat} {T : Tile} (h : d.SetsTile e p T) (U : Tile) :
    d.SetsTile (e.setTile p U) p U := h.trans (Dev.setsTile_setTile ..)

theorem Answers.setsTile {c : Instr} {ok : Bool} {f : Mem → Dev → Dev} {s : State} {P : State → Prop} {p : Nat} {T : Tile}
    (he : exec c s = runIf ok f s) (h : ok = true) (hw : s.dev.wout = []) (hf : s.dev.SetsTile (f s.mem s.dev) p T)
    (hp : (f s.mem s.dev).tile p = T → s.OnlyTile { s with dev := f s.mem s.dev } p → P { s with dev := f s.mem s.dev }) :
    Answers c s P :=
  Answers.quiet he h rfl ((Dev.wout_of_mask (by decide) hf.1).trans hw)
    (hp hf.2.1 ⟨hf.2.2, State.onlyParts_of_mask [.tiles] hf.1⟩)

/-! ### Taking an exception -/

theorem Dev.dropDirect_of_nil {d : Dev} (h : d.pwr.direct = []) (p : Nat) : d.dropDirect p = d := by
  unfold Dev.dropDirect
  rw [h, List.filter_nil, ← h]

/-- The tile enters its handler. -/
def Tile.enterHandler (t : Tile) (e : Exc) : Tile :=
  let t := (t.abandon.setExc e.cause e.slot e.addr).info e.cause e.slot e.addr
  { t with core := { t.core with run := .handler, inHandler := true, pc := t.core.evec % 2 ^ 14 } }

/-- The tile as EXC_HALT leaves it. -/
def Tile.excHalt (t : Tile) : Tile :=
  { t.clearPrepared with core := { t.clearPrepared.core with run := .excHalt, inHandler := false } }

/-- The tile halts with an exception. -/
def Tile.excHalted (t : Tile) (cause slot addr : Nat) : Tile :=
  ((t.abandon.setExc cause slot addr).info cause slot addr).excHalt

/-- The exceptions that take the tile out of ACTIVE are those of its stores. -/
def Exc.ofStore (e : Exc) : Prop := e.cause = cPsEcc ∨ e.cause = cTsEcc

section
variable {d : Dev} {m : Mem} {p : Nat} {T : Tile} {e : Exc}

/-- An exception is taken in two steps of its tile: the writes land, then the handler is entered or the tile halts. -/
theorem Dev.exception_eq (hT : d.tile p = T) (hpend : T.core.pend = []) (hdir : d.pwr.direct = []) (hc : ¬ e.ofStore) :
    d.exception m p e = if T.core.inHandler then
        ((d.setTile p T.abandon).setTile p
          ((T.abandon.setExc cNested e.slot e.cause).info cNested e.slot e.cause)).excHalt m p
      else if bit T.core.evec 63 then (d.setTile p T.abandon).setTile p (T.enterHandler e)
      else ((d.setTile p T.abandon).setTile p
          ((T.abandon.setExc e.cause e.slot e.addr).info e.cause e.slot e.addr)).excHalt m p := by
  have hd : (d.setTile p T.abandon).dropDirect p = d.setTile p T.abandon :=
    Dev.dropDirect_of_nil (show (d.setTile p T.abandon).pwr.direct = [] from hdir) p
  have hc' : ¬ (e.cause = cPsEcc ∨ e.cause = cTsEcc) := hc
  simp only [Dev.exception, hT, Tile.landAll_of_pend_nil hpend, hd, if_neg hc']
  rfl

/-- With a handler at EVEC. -/
theorem Dev.exception_handler (hT : d.tile p = T) (hpend : T.core.pend = []) (hdir : d.pwr.direct = []) (hc : ¬ e.ofStore)
    (hh : T.core.inHandler = false) (hv : bit T.core.evec 63 = true) :
    d.SetsTile (d.exception m p e) p (T.enterHandler e) := by
  rw [Dev.exception_eq hT hpend hdir hc, if_neg (by rw [hh]; decide), if_pos hv]
  exact (Dev.setsTile_setTile ..).setTile _

theorem Tile.clearPrepared_eq (t : Tile) : ∃ es, t.clearPrepared = { t with core := { t.core with entries := es } } := by
  unfold Tile.clearPrepared
  refine Dev.foldl_keep (fun u : Tile => ∃ es, u = { t with core := { t.core with entries := es } }) _ ?_ _ _ ⟨_, rfl⟩
  rintro u i ⟨es, rfl⟩
  dsimp only
  split
  · exact ⟨_, rfl⟩
  · exact ⟨es, rfl⟩

theorem Dev.tileHalted_of_no_step (h : (d.tile p).store.openStep = none) : d.tileHalted m p = d := by
  rw [Dev.tileHalted, h]
  simp

/-- EXC_HALT of a tile without a step open changes its tile and completes. -/
theorem Dev.excHalt_spec {t : Tile} (ho : t.store.openStep = none) :
    ((d.setTile p t).excHalt m p).wout = d.wout
      ∧ ∀ q, ((d.setTile p t).excHalt m p).tile q = if q = p then t.excHalt else d.tile q := by
  have hx : t.excHalt.store.openStep = none := by
    obtain ⟨es, hes⟩ := t.clearPrepared_eq
    rw [Tile.excHalt, hes]
    exact ho
  have ht : ∀ x : Dev, ∀ a b c, (x.tileCompletion p a b c).tiles = x.tiles := fun x a b c =>
    Dev.tiles_of_mask (F := 2097192) (by decide) (Dev.tileCompletion_mask (by decide) ..)
  obtain ⟨a, b, h⟩ : ∃ a b, (d.setTile p t).excHalt m p = ((d.setTile p t).setTile p t.excHalt).tileCompletion p 1 a b := by
    unfold Dev.excHalt
    dsimp only
    rw [Dev.tileHalted_of_no_step]
    · simp only [Dev.onTile, Dev.tile_setTile_same]
      exact ⟨_, _, rfl⟩
    · rw [Dev.tile, ht]
      simp only [Dev.onTile, Dev.tile_setTile_same]
      exact (congrArg (·.store.openStep) (Dev.tile_setTile_same (d.setTile p t) p t.excHalt)).trans hx
  rw [h]
  refine ⟨Dev.wout_of_mask (F := 2097448) (by decide) ?_, fun q => ?_⟩
  · rw [Dev.tileCompletion_mask (by decide), Dev.setTile_mask (by decide), Dev.setTile_mask (by decide)]
  · rw [Dev.tile, ht]
    split
    · next hq => rw [hq]; exact Dev.tile_setTile_same ..
    · next hq => exact (Dev.tile_setTile_ne _ _ hq).trans (Dev.tile_setTile_ne _ _ hq)

/-- What tile `p` and the others read after an exception that halts it. -/
theorem Dev.exception_halt (hT : d.tile p = T) (hpend : T.core.pend = []) (hdir : d.pwr.direct = []) (hc : ¬ e.ofStore)
    (ho : T.store.openStep = none) (hh : T.core.inHandler = true ∨ bit T.core.evec 63 = false) :
    (d.exception m p e).tile p = (if T.core.inHandler then T.excHalted cNested e.slot e.cause
        else T.excHalted e.cause e.slot e.addr)
      ∧ (∀ q, q ≠ p → (d.exception m p e).tile q = d.tile q) ∧ (d.exception m p e).wout = d.wout := by
  have halts := fun cause slot addr => Dev.excHalt_spec (d := d.setTile p T.abandon) (m := m) (p := p)
    (show ((T.abandon.setExc cause slot addr).info cause slot addr).store.openStep = none from ho)
  have hne := fun q (hq : q ≠ p) => Dev.tile_setTile_ne d T.abandon hq
  rw [Dev.exception_eq hT hpend hdir hc]
  split
  · obtain ⟨hwout, ht⟩ := halts cNested e.slot e.cause
    exact ⟨(ht p).trans (if_pos rfl), fun q hq => ((ht q).trans (if_neg hq)).trans (hne q hq), hwout⟩
  · next hi =>
    obtain ⟨hwout, ht⟩ := halts e.cause e.slot e.addr
    rw [if_neg fun h => absurd ((hh.resolve_left hi).symm.trans h) (by decide)]
    exact ⟨(ht p).trans (if_pos rfl), fun q hq => ((ht q).trans (if_neg hq)).trans (hne q hq), hwout⟩

end

/-- The exception registers after an exception that halts the tile. -/
theorem Tile.excHalted_core (t : Tile) (cause slot addr : Nat) :
    let c := (t.excHalted cause slot addr).core
    c.run = .excHalt ∧ c.pc = t.core.pc ∧ c.excCause = cause ∧ c.excSlot = slot ∧ c.excPc = t.core.pc
      ∧ c.excAddr = addr ∧ c.infoCause = cause := by
  obtain ⟨es, hes⟩ := ((t.abandon.setExc cause slot addr).info cause slot addr).clearPrepared_eq
  simp only [Tile.excHalted, Tile.excHalt, hes]
  exact ⟨trivial, rfl, rfl, rfl, rfl, rfl, rfl⟩

theorem decodeBundle_reserved {b : Nat} (h : (bundleHeader b).reserved ≠ 0) :
    decodeBundle b = .error ⟨cIllegalOp, 8, 0⟩ := by rw [decodeBundle, if_pos h]

/-- A bundle with a reserved header bit raises ILLEGAL_OP for the bundle as a whole (R83). -/
theorem Dev.bundleIssue_reserved {d : Dev} {p : Nat} {T : Tile} (m : Mem) (hT : d.tile p = T)
    (hi : T.core.run.issuing = true) (hpend : T.core.pend = []) (hs : d.sheetsRun = true) (hw : T.core.stallWhy = 0)
    (hr : (bundleHeader (SMap.get 0 T.core.pc T.core.prog)).reserved ≠ 0) :
    d.bundleIssue m p 0 0 = (d.setTile p T).exception m p ⟨cIllegalOp, 8, 0⟩ := by
  have hg : ¬ (!T.core.run.issuing || !d.sheetsRun || true != (T.core.stallWhy == 0)) = true := by
    rw [hi, hs, hw]; decide
  simp only [Dev.bundleIssue, Dev.issue, hT, hg, Tile.landUpTo_of_pend_nil hpend, decodeBundle_reserved hr]
  rfl

theorem Tile.enterHandler_eq {t : Tile} (h : t.core.stallWhy = 0) (e : Exc) : t.enterHandler e = { t with
    core := { t.core with
      stallSeq := 0, stallMark := 0, stallStatus := none, eretWait := false
      run := .handler, inHandler := true, pc := t.core.evec % 2 ^ 14
      excCause := e.cause, excSlot := e.slot, excPc := t.core.pc, excAddr := e.addr
      infoCause := e.cause, infoSlot := e.slot, infoPc := t.core.pc, infoAddr := e.addr }
    store := { t.store with commit := .none } } := by
  obtain ⟨core, store, mx, vx⟩ := t
  cases core
  cases h
  rfl

theorem Answers.imp {c : Instr} {s : State} {P Q : State → Prop} (h : Answers c s P) (hpq : ∀ t, P t → Q t) :
    Answers c s Q := by
  obtain ⟨t, ht, hP⟩ := h
  exact ⟨t, ht, hpq t hP⟩

/-- A command that ends in an exception which halts tile `p`. -/
theorem Answers.excHalted {c : Instr} {f : Mem → Dev → Dev} {s : State} {p : Nat} {T : Tile} {cause slot addr : Nat}
    (he : exec c s = runIf (tileOk p) f s) (hp : p < 68) (hw : s.dev.wout = [])
    (ht : (f s.mem s.dev).tile p = T.excHalted cause slot addr)
    (hne : ∀ q, q ≠ p → (f s.mem s.dev).tile q = s.dev.tile q) (hwout : (f s.mem s.dev).wout = s.dev.wout) :
    Answers c s fun t => (t.dev.tile p).core.run = .excHalt ∧ (t.dev.tile p).core.pc = T.core.pc
      ∧ (t.dev.tile p).core.excCause = cause ∧ (t.dev.tile p).core.excSlot = slot
      ∧ (t.dev.tile p).core.excPc = T.core.pc ∧ (t.dev.tile p).core.excAddr = addr
      ∧ (t.dev.tile p).core.infoCause = cause ∧ ∀ q, q ≠ p → t.dev.tile q = s.dev.tile q := by
  obtain ⟨h1, h2, h3, h4, h5, h6, h7⟩ := T.excHalted_core cause slot addr
  refine Answers.quiet he (tileOk_true hp) rfl (hwout.trans hw) ?_
  simp only [ht]
  exact ⟨h1, h2, h3, h4, h5, h6, h7, hne⟩

/-- Settles O17. -/
theorem tileTakesException : Obligations.TileTakesException := by
  intro s p T hp hw hT hi hpend hdir
  refine ⟨fun hs hwhy hr => ?_, fun hwhy hdog hh hv ⟨sl, ser, hdec⟩ => ?_⟩
  · have he := Dev.bundleIssue_reserved s.mem hT hi hpend hs hwhy hr
    have hset := Dev.setsTile_setTile s.dev p T
    have hcause : ¬ Exc.ofStore ⟨cIllegalOp, 8, 0⟩ := by simp only [Exc.ofStore]; decide
    have halt : T.store.openStep = none → T.core.inHandler = true ∨ bit T.core.evec 63 = false → _ := fun ho hh =>
      Dev.exception_halt (m := s.mem) hset.2.1 hpend hdir hcause ho hh
    have hne := hset.2.2
    refine ⟨fun hh hv => ?_, fun hh hv ho => ?_, fun hh ho => ?_⟩
    · refine Answers.setsTile (f := fun m d => d.bundleIssue m p 0 0) rfl (tileOk_true hp) hw ?_ fun ht ho => ⟨ht, ho⟩
      rw [he, ← Tile.enterHandler_eq hwhy ⟨cIllegalOp, 8, 0⟩]
      exact hset.trans (Dev.exception_handler hset.2.1 hpend hdir hcause hh hv)
    · obtain ⟨ht, hother, hwout⟩ := halt ho (.inr hv)
      rw [hh, ← he] at ht
      rw [← he] at hother hwout
      refine (Answers.excHalted (f := fun m d => d.bundleIssue m p 0 0) rfl hp hw ht
        (fun q hq => (hother q hq).trans (hne q hq)) (hwout.trans (Dev.setTile_wout ..))).imp ?_
      rintro t ⟨h1, h2, h3, h4, h5, -, h7, h8⟩
      exact ⟨h1, h2, h3, h4, h5, h7, h8⟩
    · obtain ⟨ht, hother, hwout⟩ := halt ho (.inl hh)
      rw [hh, ← he] at ht
      rw [← he] at hother hwout
      refine (Answers.excHalted (f := fun m d => d.bundleIssue m p 0 0) rfl hp hw ht
        (fun q hq => (hother q hq).trans (hne q hq)) (hwout.trans (Dev.setTile_wout ..))).imp ?_
      rintro t ⟨h1, h2, h3, -, h5, h6, h7, h8⟩
      exact ⟨h1, h2, h3, h6, h5, h7, h8⟩
  · have he : s.dev.watchdog s.mem p = s.dev.exception s.mem p
        ⟨cWatchdog, T.stalledSlot (s.dev.issueEnv p T sl) sl, 0⟩ := by
      have hg : ¬ (T.core.stallWhy = 0 ∨ s.dev.fget tilWdogMs p = 0 ∨ (!T.core.run.issuing) = true) := by
        simp [hwhy, hdog, hi]
      simp only [Dev.watchdog, hT, hg, if_false, hdec]
    have hcause : ∀ slot, ¬ Exc.ofStore ⟨cWatchdog, slot, 0⟩ := fun slot => by simp only [Exc.ofStore]; decide
    refine Answers.setsTile (f := fun m d => d.watchdog m p) rfl (tileOk_true hp) hw
      (by rw [he]; exact Dev.exception_handler hT hpend hdir (hcause _) hh hv) fun ht ho => ?_
    simp only [ht]
    exact ⟨rfl, rfl, rfl, rfl, rfl, rfl, rfl, rfl, rfl, rfl, rfl, rfl, ho⟩

end Sys2Proof.Machine
end


section
/-! PROOFS. A tile is started and stopped, and its vector unit works (chapters 3 and 6). -/

namespace Sys2Proof.Machine

/-! ### Writes of TIL.RUNCTL -/

theorem Dev.pageWrite_runctl (d : Dev) (m : Mem) {p : Nat} (v : Nat) (hr : d.pageReset pTIL = false)
    (hb : d.blockOpen pTIL p = true) : d.pageWrite m pTIL p 0x40 v = d.runctl m p v :=
  Dev.pageWrite_block d m v hr (by decide) hb

theorem Core.setSpr_pc (c : Core) (n v : Nat) : (c.setSpr n v).pc = c.pc := by
  unfold Core.setSpr
  split <;> rfl

/-- A write that lands moves neither the PC nor anything of the tile store. -/
theorem Tile.land_pc_store (t : Tile) (w : Write) : (t.land w).core.pc = t.core.pc ∧ (t.land w).store = t.store := by
  unfold Tile.land
  cases w.target with
  | x n => dsimp only; split <;> exact ⟨rfl, rfl⟩
  | spr n => exact ⟨Core.setSpr_pc .., rfl⟩
  | f n => exact ⟨rfl, rfl⟩
  | m n => dsimp only; unfold Tile.writeM; split <;> exact ⟨rfl, rfl⟩
  | ds n => exact ⟨rfl, rfl⟩

theorem Tile.landUpTo_pc_store (t : Tile) (c : Nat) :
    (t.landUpTo c).core.pc = t.core.pc ∧ (t.landUpTo c).store = t.store := by
  have hone : ∀ (ws : List Write) (u : Tile), u.core.pc = t.core.pc ∧ u.store = t.store →
      (ws.foldl Tile.land u).core.pc = t.core.pc ∧ (ws.foldl Tile.land u).store = t.store := fun ws u hu =>
    Dev.foldl_keep (fun u : Tile => u.core.pc = t.core.pc ∧ u.store = t.store) _
      (fun u w hu => ⟨(u.land_pc_store w).1.trans hu.1, (u.land_pc_store w).2.trans hu.2⟩) ws u hu
  exact Dev.foldl_keep (fun u : Tile => u.core.pc = t.core.pc ∧ u.store = t.store) _ (fun u _ hu => hone _ u hu) _ _ ⟨rfl, rfl⟩

theorem Write.due_le_foldl_max (ws : List Write) (n : Nat) :
    n ≤ ws.foldl (fun a w => max a w.due) n ∧ ∀ w ∈ ws, w.due ≤ ws.foldl (fun a w => max a w.due) n := by
  induction ws generalizing n with
  | nil => exact ⟨le_rfl, fun _ h => absurd h List.not_mem_nil⟩
  | cons w ws ih =>
    obtain ⟨hn, hws⟩ := ih (max n w.due)
    refine ⟨(le_max_left ..).trans hn, fun x hx => ?_⟩
    rcases List.mem_cons.mp hx with rfl | hx
    · exact (le_max_right ..).trans hn
    · exact hws x hx

/-- Once everything has landed nothing is pending. -/
theorem Tile.landAll_spec (t : Tile) :
    t.landAll.core.pend = [] ∧ t.landAll.core.pc = t.core.pc ∧ t.landAll.store = t.store := by
  obtain ⟨hpc, hstore⟩ := t.landUpTo_pc_store (t.core.pend.foldl (fun a w => max a w.due) t.core.cc)
  refine ⟨List.filter_eq_nil_iff.mpr fun w hw => ?_, hpc, hstore⟩
  simpa using (Write.due_le_foldl_max t.core.pend t.core.cc).2 w hw

/-- What STOP leaves of a tile. -/
theorem Tile.stopped_spec (t : Tile) :
    let u := t.landAll.halted.clearPrepared
    u.core.run = .halted ∧ u.core.inHandler = false ∧ u.core.pend = [] ∧ u.core.pc = t.core.pc ∧ u.core.stallWhy = 0
      ∧ u.store.openStep = t.store.openStep := by
  obtain ⟨hpend, hpc, hstore⟩ := t.landAll_spec
  obtain ⟨es, hes⟩ := t.landAll.halted.clearPrepared_eq
  simp only [hes]
  exact ⟨rfl, rfl, hpend, hpc, rfl, congrArg (·.openStep) hstore⟩

@[simp] theorem Dev.tile_dropDirect (d : Dev) (p q : Nat) : (d.dropDirect p).tile q = d.tile q := rfl

@[simp] theorem Dev.tile_fset (d : Dev) (f : Field) (i v q : Nat) : (d.fset f i v).tile q = d.tile q := rfl

/-- STOP of a tile that issues, without a step open. -/
theorem Dev.stopTile_eq {d : Dev} {p : Nat} (m : Mem) (hi : (d.tile p).core.run.issuing = true)
    (ho : (d.tile p).store.openStep = none) :
    d.stopTile m p = (d.setTile p (d.tile p).landAll.halted.clearPrepared).dropDirect p := by
  rw [Dev.stopTile, if_pos hi, Dev.tileHalted_of_no_step]
  · rfl
  · obtain ⟨-, -, -, -, -, hopen⟩ := (d.tile p).stopped_spec
    rw [Dev.tile_dropDirect, Dev.onTile, Dev.tile_setTile_same, hopen, ho]

theorem runctl_entry (v : Nat) : bits v 16 14 % 2 ^ tilRunctlEntry.width = bits v 16 14 := Nat.mod_mod ..

/-- Settles O21. -/
theorem startStopResume : Obligations.StartStopResume := by
  rintro s p v _ hp hw rfl ha - hr hb
  refine ⟨fun hv hact hi => ?_, fun hv hi ho => ?_, fun hv hdbg hrun hact => ?_⟩
  · have he : s.dev.host (fun d => if v % 8 = 1 then d.pageWrite s.mem pTIL p 0x40 v else d)
        = (s.dev.fset tilRunctlEntry p (bits v 16 14)).setTile p ((s.dev.tile p).start (bits v 16 14)) := by
      have hst : (s.dev.fset tilRunctlEntry p (bits v 16 14)).startable p = true := by
        show (s.dev.active pTIL p && !(s.dev.tile p).core.run.issuing) = true
        rw [hact, hi]; rfl
      rw [Dev.host_on ha, if_pos hv, Dev.pageWrite_runctl _ _ _ hr hb, Dev.runctl, hv]
      show Dev.startTile _ p = _
      rw [Dev.startTile, if_pos hst, Dev.fget_fset_same, runctl_entry]
      rfl
    refine Answers.parts [.regs, .tiles] rfl (tileOk_true hp) hw ?_ (by decide) fun ho => ?_
    · rw [he, Dev.setTile_mask (by decide), Dev.fset_mask (by decide)]
    · simp only [he] at ho ⊢
      simp only [Dev.tile_setTile_same]
      exact ⟨rfl, rfl, rfl, rfl, rfl, rfl, rfl, rfl, rfl, rfl, rfl,
        (Dev.fget_fset_same ..).trans (runctl_entry v), fun q hq => Dev.tile_setTile_ne _ _ hq, ho⟩
  · have he : s.dev.host (fun d => if v % 8 = 2 then d.pageWrite s.mem pTIL p 0x40 v else d)
        = ((s.dev.fset tilRunctlEntry p (bits v 16 14)).setTile p (s.dev.tile p).landAll.halted.clearPrepared).dropDirect p := by
      rw [Dev.host_on ha, if_pos hv, Dev.pageWrite_runctl _ _ _ hr hb, Dev.runctl, hv]
      show Dev.stopTile _ s.mem p = _
      rw [Dev.stopTile_eq _ (by rw [Dev.tile_fset]; exact hi) (by rw [Dev.tile_fset]; exact ho), Dev.tile_fset]
    refine Answers.parts [.regs, .tiles, .pwr] rfl (tileOk_true hp) hw ?_ (by decide) fun ho => ?_
    · rw [he, Dev.dropDirect_mask (by decide), Dev.setTile_mask (by decide), Dev.fset_mask (by decide)]
    · obtain ⟨h1, h2, h3, h4, h5, -⟩ := (s.dev.tile p).stopped_spec
      simp only [he] at ho ⊢
      simp only [Dev.tile_dropDirect, Dev.tile_setTile_same]
      exact ⟨h1, h2, h3, h4, h5, fun q hq => Dev.tile_setTile_ne _ _ hq, rfl, ho⟩
  · have he : s.dev.host (fun d => if v % 8 = 4 then d.pageWrite s.mem pTIL p 0x40 v else d)
        = (s.dev.fset tilRunctlEntry p (bits v 16 14)).setTile p
          { s.dev.tile p with core := { (s.dev.tile p).core with run := .running } } := by
      rw [Dev.host_on ha, if_pos hv, Dev.pageWrite_runctl _ _ _ hr hb, Dev.runctl, hv]
      refine if_pos (c := (s.dev.debugOpen && (s.dev.tile p).core.run == .halted && s.dev.active pTIL p) = true) ?_
      rw [hdbg, hrun, hact]; rfl
    refine Answers.parts [.regs, .tiles] rfl (tileOk_true hp) hw ?_ (by decide) fun ho => ?_
    · rw [he, Dev.setTile_mask (by decide), Dev.fset_mask (by decide)]
    · simp only [he] at ho ⊢
      exact ⟨Dev.tile_setTile_same .., fun q hq => Dev.tile_setTile_ne _ _ hq, ho⟩

/-! ### The vector unit -/

/-- The end of an operation: counts of TIL alone follow what the tile takes. -/
theorem Dev.vectorComplete_tile {d : Dev} {p : Nat} {it : VItem} (h : (d.tile p).vx.run = some it) :
    let r := vExec { d.tile p with vx := { (d.tile p).vx with run := none } } it
    (∃ vstat, (d.vectorComplete p).tile p = { r.tile with
      vx := { r.tile.vx with busyCc := r.tile.vx.busyCc + it.datapathCc, hold := r.tile.vx.hold && !it.isGather }
      core := { r.tile.core with
        vstat := vstat
        vres := if it.isGather then it.faultAt.getD 0 else r.tile.core.vres } })
      ∧ ∀ q, q ≠ p → (d.vectorComplete p).tile q = d.tile q := by
  have hc : ∀ (x : Dev) n de q, (x.countVx p n de).tile q = x.tile q := fun x n de q => by
    rw [Dev.tile, Dev.tiles_of_mask (F := 138412088) (by decide) (Dev.countVx_mask (by decide) ..)]
    rfl
  have hb : ∀ (x : Dev) f a b q, (x.busy f p a b).tile q = x.tile q := fun x f a b q => by
    rw [Dev.tile, Dev.tiles_of_mask (F := 8) (by decide) (Dev.busy_mask (by decide) ..)]
    rfl
  rw [Dev.vectorComplete, h]
  simp only [hc, hb, Dev.tile_setTile_same]
  exact ⟨⟨_, rfl⟩, fun q hq => Dev.tile_setTile_ne _ _ hq⟩

/-- Settles O23. -/
theorem vectorOps : Obligations.VectorOps := by
  rintro s p _ it rest hp hw rfl
  refine ⟨fun hrun hq hg => ?_, fun hrun => ?_⟩
  · have hs : (s.dev.tile p).vStart
        = { s.dev.tile p with vx := { (s.dev.tile p).vx with queue := rest, run := some it } } := by
      rw [Tile.vStart, hrun, hq]
    have hgo : ¬ ((s.dev.tile p).vx.run.isSome || (s.dev.tile p).vx.queue.isEmpty || s.dev.pwr.gated) = true := by
      rw [hrun, hq, hg]; exact Bool.false_ne_true
    refine Answers.tile p _ rfl (tileOk_true hp) hw ?_ fun ht ho => ⟨ht, ho⟩
    rw [← hs]
    exact if_neg hgo
  · obtain ⟨⟨vstat, ht⟩, hne⟩ := Dev.vectorComplete_tile hrun
    refine Answers.parts [.regs, .units, .evr, .tiles, .pci, .free] rfl (tileOk_true hp) hw
      (Dev.vectorComplete_mask (by decide) ..) (by decide) fun ho => ?_
    simp only [ht]
    exact ⟨trivial, trivial, hne, ho⟩

end Sys2Proof.Machine
end


section
/-! PROOFS. What leaves a tile: the accesses of a DMA and the work of a launch entry (chapters 3 and 9). -/

namespace Sys2Proof.Machine

/-! ### Requests on their way to the stacks -/

theorem SMap.insert_single {α : Type} (k : Nat) (v w : α) : SMap.insert k v [(k, w)] = [(k, v)] := by
  simp [SMap.insert]

theorem SMap.find_single {α : Type} (k : Nat) (v : α) : SMap.find k [(k, v)] = some v := if_pos rfl

theorem SMap.get_single {α : Type} (d v : α) (k j : Nat) : SMap.get d j [(k, v)] = if k = j then v else d := by
  by_cases h : k = j <;> simp [SMap.get, SMap.find, h]

theorem SMap.put_single {α : Type} [DecidableEq α] {d v : α} (h : v ≠ d) (k : Nat) (w : α) :
    SMap.put d k v [(k, w)] = [(k, v)] := by
  rw [SMap.put, if_neg h, SMap.insert_single]

/-- The stack of a request takes it. -/
def Dev.takes (d : Dev) (r : Req) : Prop :=
  d.fget stkStatHealth (stackOf (r.addrs.headD 0)) ≠ 3 ∧ d.active pSTK (stackOf (r.addrs.headD 0)) = true

/-- A request that its stack takes joins the end of the stack's queue. -/
theorem Dev.sendRequest_eq {d : Dev} {r : Req} (h : d.takes r) :
    d.sendRequest r = d.onStack (stackOf (r.addrs.headD 0)) (fun x => { x with reqs := x.reqs ++ [r] }) := by
  have ha : ¬ (!d.active pSTK (stackOf (r.addrs.headD 0))) = true := by rw [h.2]; exact Bool.false_ne_true
  exact (if_neg h.1).trans (if_neg ha)

theorem Dev.stack_onStack (d : Dev) (i j : Nat) (f : Stack → Stack) :
    (d.onStack i f).stack j = if i = j then f (d.stack i) else d.stack j := by
  by_cases h : i = j
  · subst h
    rw [if_pos rfl]
    exact SMap.get_put_same ..
  · rw [if_neg h]
    exact SMap.get_put_ne _ _ (Ne.symm h) ..

/-- Requests that their stacks take join the queues in their order. -/
theorem Dev.sendRequests {d : Dev} {rs : List Req} (h : ∀ r ∈ rs, d.takes r) :
    (rs.foldl (fun (d : Dev) r => d.sendRequest r) d).mask 1024 = d.mask 1024
      ∧ ∀ k, ((rs.foldl (fun (d : Dev) r => d.sendRequest r) d).stack k).reqs
        = (d.stack k).reqs ++ rs.filter (fun r => stackOf (r.addrs.headD 0) == k) := by
  induction rs generalizing d with
  | nil => exact ⟨rfl, fun k => (List.append_nil _).symm⟩
  | cons r rs ih =>
    obtain ⟨hr, hrs⟩ := List.forall_mem_cons.mp h
    rw [List.foldl_cons, Dev.sendRequest_eq hr]
    obtain ⟨hm, hk⟩ := ih (d := d.onStack (stackOf (r.addrs.headD 0)) (fun x => { x with reqs := x.reqs ++ [r] })) hrs
    refine ⟨hm.trans (Dev.onStack_mask (by decide) ..), fun k => (hk k).trans ?_⟩
    rw [Dev.stack_onStack, List.filter_cons]
    generalize stackOf (r.addrs.headD 0) = j
    by_cases hs : j = k
    · simp [hs]
    · simp [hs]

/-- The tile with its only DMA changed. -/
def Tile.withDma (t : Tile) (q : Dma) : Tile := { t with store := { t.store with dmas := [(q.tag, q)] } }

theorem Dev.setDma_only {d : Dev} {p : Nat} {q q' : Dma} (h : (d.tile p).store.dmas = [(q.tag, q)]) (hq : q'.tag = q.tag) :
    d.setDma p q' = d.setTile p ((d.tile p).withDma q') := by
  rw [Dev.setDma, Dev.onTile, h, ← hq, SMap.insert_single]
  rfl

/-- The end of the region bytes that a DMA reaches (R96, R244). -/
def Dma.top (q : Dma) : Nat :=
  ((Desc.ofBits q.desc).pieces q.ts q.start q.ext).foldl (fun n x => max n (x.off + x.len))
    (if (Desc.ofBits q.desc).fmt.blockScaled then (Desc.ofBits q.desc).scaleStart + (Desc.ofBits q.desc).scaleSize else 0)

/-- The requests of a DMA to its stacks. -/
def Dev.dmaRequests (d : Dev) (p : Nat) (q : Dma) : List Req :=
  d.requests p (d.tile p) q (d.resolve (Desc.ofBits q.desc).region) (Desc.ofBits q.desc).fmt.width
    ((Desc.ofBits q.desc).pieces q.ts q.start q.ext)

section
variable {d : Dev} {p : Nat} {q : Dma} (hd : (d.tile p).store.dmas = [(q.tag, q)]) (hph : q.phase = 0)
  (hp : d.deltaPort (Desc.ofBits q.desc).region = none)
include hd hph hp

/-- REGION_ACCESS of a tile's only DMA, whose region the check refuses. -/
theorem Dev.regionAccess_refused (m : Mem) {st : Nat}
    (hc : d.checkEntry (d.resolve (Desc.ofBits q.desc).region) q.top = .descInvalid ∧ st = 6
      ∨ d.checkEntry (d.resolve (Desc.ofBits q.desc).region) q.top = .regionFailed ∧ st = 2) :
    d.regionAccess m p 0 0 = d.setTile p ((d.tile p).withDma (q.settled st)) := by
  rw [← Dev.setDma_only hd (q' := q.settled st) rfl]
  have hw : ((d.tile p).store.dmas.filter (fun e => e.2.phase == 0)).map (fun e => e.2) = [q] := by
    rw [hd]; simp [hph]
  unfold Dma.top at hc
  unfold Dev.regionAccess
  rw [hw]
  rcases hc with ⟨hc, rfl⟩ | ⟨hc, rfl⟩ <;> simp [hp, hc, Dev.storeError, Dev.storeFault]

/-- REGION_ACCESS of a tile's only DMA, where the check of its region passes and nothing mirrors what it stores. -/
theorem Dev.regionAccess_sent (m : Mem) (hm : q.kind = .rd ∨ d.mirrorsOf (d.resolve (Desc.ofBits q.desc).region) = [])
    (hc : d.checkEntry (d.resolve (Desc.ofBits q.desc).region) q.top = .ok) :
    d.regionAccess m p 0 0 = (d.dmaRequests p q).foldl (fun (d : Dev) r => d.sendRequest r)
      (d.setTile p ((d.tile p).withDma { q with phase := 1, left := (d.dmaRequests p q).length, mirror := [] })) := by
  rw [← Dev.setDma_only hd (q' := { q with phase := 1, left := (d.dmaRequests p q).length, mirror := [] }) rfl]
  have hw : ((d.tile p).store.dmas.filter (fun e => e.2.phase == 0)).map (fun e => e.2) = [q] := by
    rw [hd]; simp [hph]
  unfold Dma.top at hc
  unfold Dev.regionAccess Dev.dmaRequests
  rw [hw]
  rcases hm with hm | hm <;> simp [hp, hc, Dev.storeError, Dev.storeFault, hm]

end

/-- Settles O20. -/
theorem regionAccess : Obligations.RegionAccess := by
  rintro s p _ q hp hw rfl hd hph hport desc pieces top h rs at_
  refine ⟨fun hm hc hup => ?_, fun hc => ?_, fun hc => ?_⟩
  · have he := Dev.regionAccess_sent hd hph hport s.mem hm hc
    obtain ⟨hmask, hreqs⟩ := Dev.sendRequests (d := s.dev.setTile p ((s.dev.tile p).withDma
      { q with phase := 1, left := (s.dev.dmaRequests p q).length, mirror := [] })) (rs := s.dev.dmaRequests p q) hup
    have htiles : ∀ g, (s.dev.regionAccess s.mem p 0 0).tile g = (s.dev.setTile p ((s.dev.tile p).withDma
        { q with phase := 1, left := (s.dev.dmaRequests p q).length, mirror := [] })).tile g := fun g => by
      rw [he, Dev.tile, Dev.tiles_of_mask (F := 1024) (by decide) hmask]
      rfl
    refine Answers.parts [.tiles, .stks] rfl (tileOk_true hp) hw ?_ (by decide) fun ho => ⟨fun k => ?_, ?_, fun g hg => ?_, ho⟩
    · rw [he]
      exact (Dev.mask_sub (P := 1024) (by decide) hmask).trans (Dev.setTile_mask (by decide) ..)
    · simp only [he]
      exact hreqs k
    · exact (htiles p).trans (Dev.tile_setTile_same ..)
    · exact (htiles g).trans (Dev.tile_setTile_ne _ _ hg)
  · exact Answers.tile p _ rfl (tileOk_true hp) hw (Dev.regionAccess_refused hd hph hport s.mem (.inl ⟨hc, rfl⟩))
      fun ht ho => ⟨ht, ho⟩
  · exact Answers.tile p _ rfl (tileOk_true hp) hw (Dev.regionAccess_refused hd hph hport s.mem (.inr ⟨hc, rfl⟩))
      fun ht ho => ⟨ht, ho⟩

/-! ### Launch entries that fire -/

/-- Entry `i` fires where it is armed for a mark that the units have reached. -/
def Dev.fireEntry (d : Dev) (t : Tile) (i : Nat) : Tile :=
  match t.entry i with
  | .armed x mark => if reached d.cad.mark mark then t.setEntry i (.fired x d.cad.ticks) else t
  | _ => t

/-- The tile with one launch entry. -/
def Tile.withEntry (t : Tile) (i : Nat) (e : Entry) : Tile := { t with core := { t.core with entries := [(i, e)] } }

section
variable {t : Tile} {i : Nat} {e : Entry}

theorem Tile.entry_withEntry (j : Nat) : (t.withEntry i e).entry j = if i = j then e else .empty := SMap.get_single ..

theorem Tile.setEntry_withEntry {f : Entry} (h : f ≠ .empty) : (t.withEntry i e).setEntry i f = t.withEntry i f := by
  simp only [Tile.setEntry, Tile.withEntry, SMap.put_single h]

/-- The tile's only entry, armed for a mark that the units have reached, fires. -/
theorem Dev.fireEntry_same {d : Dev} {x : Payload} {mark : Nat} (hr : reached d.cad.mark mark = true) :
    d.fireEntry (t.withEntry i (.armed x mark)) i = t.withEntry i (.fired x d.cad.ticks) := by
  rw [Dev.fireEntry, Tile.entry_withEntry, if_pos rfl]
  exact (if_pos hr).trans (Tile.setEntry_withEntry (by simp))

theorem Dev.fireEntry_other {d : Dev} {j : Nat} (h : i ≠ j) : d.fireEntry (t.withEntry i e) j = t.withEntry i e := by
  rw [Dev.fireEntry, Tile.entry_withEntry, if_neg h]

theorem Dev.fireEntries_armed {d : Dev} {x : Payload} {mark : Nat} (hi : i < 4) (hr : reached d.cad.mark mark = true) :
    (List.range 4).foldl d.fireEntry (t.withEntry i (.armed x mark)) = t.withEntry i (.fired x d.cad.ticks) := by
  have hrange : List.range 4 = [0, 1, 2, 3] := rfl
  simp only [hrange, List.foldl_cons, List.foldl_nil]
  obtain rfl | rfl | rfl | rfl : i = 0 ∨ i = 1 ∨ i = 2 ∨ i = 3 := by omega
  all_goals simp [Dev.fireEntry_same hr, Dev.fireEntry_other]

/-- The one candidate of a device whose only tile has one fired DMA. -/
theorem Dev.candidates_one {d : Dev} {p mark : Nat} {q : Dma} (hi : i < 4) (ht : d.tiles = [(p, t.withEntry i (.fired (.dma q) mark))])
    (hd : d.pwr.direct = []) : d.candidates = [⟨mark, p, some i, some (.dma p)⟩] := by
  have hrange : List.range 4 = [0, 1, 2, 3] := rfl
  have hf : d.firedOf p (t.withEntry i (.fired (.dma q) mark)) = [⟨mark, p, some i, some (.dma p)⟩] := by
    obtain rfl | rfl | rfl | rfl : i = 0 ∨ i = 1 ∨ i = 2 ∨ i = 3 := by omega
    all_goals simp [Dev.firedOf, hrange, Tile.entry_withEntry, Dev.payloadLoad]
  simp [Dev.candidates, hd, ht, hf]

end

/-- The one candidate of a loaded unit starts at once (R469). -/
theorem Dev.admitWaiting_loaded {d : Dev} {c : Candidate} {l : Load} (hc : d.candidates = [c]) (hcl : c.load = some l)
    (hl : d.loaded l = true) : d.admitWaiting = d.startCandidate c := by
  have hfree : d.startsFree l = true := by rw [Dev.startsFree, hl, Bool.true_or]
  have hsame : d.startFree l = d := if_pos hl
  simp [Dev.admitWaiting, hc, hcl, hfree, hsame]

/-- The tile as the DMA of entry `i` starts. -/
def Tile.startFired (t : Tile) (i late : Nat) (q : Dma) : Tile :=
  Tile.startDma { t.setEntry i .empty with core := { (t.setEntry i .empty).core with lastDelay := min 0xFFFF late } } q

theorem Tile.startFired_spec (t : Tile) (i late : Nat) (q : Dma) :
    (t.startFired i late q).entry i = .empty
      ∧ SMap.find q.tag (t.startFired i late q).store.dmas = some { q with seq := t.store.seq }
      ∧ SMap.get 0 q.tag (t.startFired i late q).store.tagState = 1
      ∧ (t.startFired i late q).core.lastDelay = min 0xFFFF late ∧ (t.startFired i late q).core.pc = t.core.pc := by
  simp only [Tile.startFired, Tile.startDma, Tile.setEntry, Tile.entry]
  exact ⟨SMap.get_put_same .., SMap.find_insert_same .., SMap.get_put_same .., trivial, trivial⟩

/-- A fired entry whose DMA starts. -/
theorem Dev.startEntry_dma {d : Dev} {p i mark : Nat} {q : Dma} (h : (d.tile p).entry i = .fired (.dma q) mark) (late : Nat) :
    d.startEntry p i late = d.setTile p ((d.tile p).startFired i late q) := by
  rw [Dev.startEntry, h]
  rfl

/-- Settles O24. -/
theorem launchEntryFires : Obligations.LaunchEntryFires := by
  intro s p mark T q i hw hts hi hdir he hr hl hne
  have hT : s.dev.tile p = T := by rw [Dev.tile, hts, SMap.get_single, if_pos rfl]
  have hTe : T = T.withEntry i (.armed (.dma q) mark) := by rw [Tile.withEntry, ← he]
  generalize hF : T.withEntry i (.fired (.dma q) s.dev.cad.ticks) = F
  have hFe : F.entry i = .fired (.dma q) s.dev.cad.ticks := by
    rw [← hF, Tile.entry_withEntry, if_pos rfl]
  have hfire : (List.range 4).foldl s.dev.fireEntry T = F := by
    rw [hTe, Dev.fireEntries_armed hi hr, ← hF]
  have hFne : F ≠ Tile.reset := fun h => by
    rw [h] at hFe
    exact absurd hFe (by simp [Tile.entry, Tile.reset, Core.reset])
  have hset : (s.dev.setTile p F).tiles = [(p, F)] := by
    show SMap.put .reset p F s.dev.tiles = _
    rw [hts, SMap.put_single hFne]
  have hcand := Dev.candidates_one (d := s.dev.setTile p F) (t := T) (mark := s.dev.cad.ticks) hi
    (by rw [hset, hF]) hdir
  have hf : s.dev.launchEntryFire = (s.dev.setTile p F).startEntry p i 0 := by
    have hon : s.dev.launchEntryFire = (s.dev.setTile p F).admitWaiting := by
      rw [← hfire, ← hT]
      unfold Dev.launchEntryFire
      rw [hts]
      rfl
    rw [hon, Dev.admitWaiting_loaded hcand rfl hl, Dev.startCandidate]
    exact congrArg ((s.dev.setTile p F).startEntry p i) (Nat.sub_self _)
  rw [Dev.startEntry_dma (by rw [Dev.tile_setTile_same]; exact hFe), Dev.tile_setTile_same] at hf
  refine Answers.parts (ok := true) (f := fun _ d => d.launchEntryFire) [.regs, .tiles] rfl rfl hw ?_ (by decide) fun ho => ?_
  · rw [hf, Dev.setTile_mask (by decide), Dev.setTile_mask (by decide)]
  · simp only [hf] at ho ⊢
    obtain ⟨hentry, hdma, htag, hdelay, hpc⟩ := F.startFired_spec i 0 q
    simp only [Dev.tile_setTile_same]
    have hstore : F.store = T.store := by rw [← hF]; rfl
    have hcore : F.core.pc = T.core.pc := by rw [← hF]; rfl
    exact ⟨hentry, hstore ▸ hdma, htag, hdelay, hpc.trans hcore, ho⟩

end Sys2Proof.Machine
end


section
/-! PROOFS. The matrix engine (chapter 5). -/

namespace Sys2Proof.Machine

/-! ### Operations start and complete -/

/-- The front of the queue starts where nothing is at work. -/
theorem Tile.mxStart_front {t : Tile} {o : MxItem} {rest : List MxItem} (hq : t.mx.queue = o :: rest)
    (ha : t.mx.array = none) (hp : t.mx.port = none) (ht : t.mx.tail = []) (hw : t.mx.waitEntry = []) :
    t.mxStart o.usesArray = { t with mx := { t.mx with
      queue := rest
      array := if o.usesArray then some (t.captureMma o) else none
      port := if o.usesArray then none else some o } } := by
  have hf : firstFor o.usesArray [] t.mx.queue = some ([], o, rest) := by rw [hq, firstFor, if_pos rfl]; rfl
  have hm : t.mx.mayStart [] o = true := by simp [Matrix.mayStart, ha, hp, ht]
  rw [Tile.mxStart, hf]
  cases hu : o.usesArray <;> simp [hm, ha, hp, ht, hw]

/-- A transfer of the tile store's matrix unit goes; its accumulators stay. -/
def Tile.portFree (t : Tile) : Tile := { t with mx := { t.mx with port := none } }

theorem tagStore_same (valid : SMap Bool) (mode row : Nat) : SMap.get false (rowKey mode row) (tagStore valid mode row) = true :=
  SMap.get_put_same ..

theorem tagInvalidate_same (valid : SMap Bool) (mode row : Nat) :
    SMap.get false (rowKey mode row) (tagInvalidate valid mode row) = false := SMap.get_put_same ..

theorem Matrix.accMode_setAcc (x : Matrix) (acc mode : Nat) (cells : SMap Cell) :
    (x.setAcc acc mode cells).accMode acc = mode := by
  unfold Matrix.setAcc Matrix.accMode
  split <;> rfl

theorem Matrix.setAcc_keeps (x : Matrix) (acc mode : Nat) (cells : SMap Cell) :
    (x.setAcc acc mode cells).array = x.array ∧ (x.setAcc acc mode cells).rows = x.rows := by
  unfold Matrix.setAcc
  split <;> exact ⟨rfl, rfl⟩

/-- An MMA gives its accumulator its mode, and changes nothing but the accumulators. -/
theorem Tile.mmaDone_spec (t : Tile) (o : MxItem) :
    (t.mmaDone o).1.mx.accMode o.acc = o.modeOf.2 ∧ (t.mmaDone o).1.mx.array = t.mx.array
      ∧ (t.mmaDone o).1.mx.rows = t.mx.rows ∧ (t.mmaDone o).1.core = t.core ∧ (t.mmaDone o).1.vx = t.vx :=
  ⟨Matrix.accMode_setAcc .., (Matrix.setAcc_keeps ..).1, (Matrix.setAcc_keeps ..).2, rfl, rfl⟩

theorem Dev.tile_queueDe (d : Dev) (p : Nat) (de : Bool) (q : Nat) : (d.queueDe p de).tile q = d.tile q := by
  rw [Dev.tile, Dev.tiles_of_mask (F := 138412080) (by decide) (Dev.queueDe_mask (by decide) ..)]
  rfl

theorem Dev.tile_busy (d : Dev) (f : Field) (p a b q : Nat) : (d.busy f p a b).tile q = d.tile q := by
  rw [Dev.tile, Dev.tiles_of_mask (F := 8) (by decide) (Dev.busy_mask (by decide) ..)]
  rfl

/-- The MMA in the array ends. -/
theorem Dev.mmaComplete_tile {d : Dev} {p : Nat} {o : MxItem} (ht : (d.tile p).mx.tail = []) (ha : (d.tile p).mx.array = some o) :
    (∃ n, (d.mmaComplete p).tile p =
      let u := (Tile.mmaDone { d.tile p with mx := { (d.tile p).mx with array := none } } o).1
      { u with mx := { u.mx with busyCc := n } })
      ∧ ∀ q, q ≠ p → (d.mmaComplete p).tile q = d.tile q := by
  have hn : (d.tile p).mx.nextMma = some (o, { (d.tile p).mx with array := none }) := by simp [Matrix.nextMma, ht, ha]
  rw [Dev.mmaComplete, hn]
  simp only [Dev.tile_queueDe, Dev.tile_busy, Dev.tile_setTile_same]
  exact ⟨⟨_, rfl⟩, fun q hq => Dev.tile_setTile_ne _ _ hq⟩

/-- The transfer on the port ends. -/
theorem Dev.transferComplete_eq {d : Dev} {p : Nat} {o : MxItem} (hp : (d.tile p).mx.port = some o) :
    (o.kind = .accst → d.transferComplete p [] [] = d.setTile p ((d.tile p).portFree.accst o))
      ∧ (o.kind = .accinv → d.transferComplete p [] [] = d.setTile p ((d.tile p).portFree.accinv o)) := by
  refine ⟨fun hk => ?_, fun hk => ?_⟩ <;> simp only [Dev.transferComplete, hp, hk] <;> rfl

section
variable {s : State} {p : Nat} {o : MxItem}

theorem Answers.mxOpStart {rest : List MxItem} (hp : p < 68) (hw : s.dev.wout = []) (hs : s.dev.sheetsRun = true)
    (ht : (s.dev.tile p).mx.tail = []) (hwe : (s.dev.tile p).mx.waitEntry = []) (hq : (s.dev.tile p).mx.queue = o :: rest)
    (ha : (s.dev.tile p).mx.array = none) (hpo : (s.dev.tile p).mx.port = none) (hact : s.dev.active pTIL p = true) :
    Answers (.mxOpStart p o.usesArray 0 0) s fun t =>
      t.dev.tile p = { s.dev.tile p with mx := { (s.dev.tile p).mx with
        queue := rest
        array := if o.usesArray then some ((s.dev.tile p).captureMma o) else none
        port := if o.usesArray then none else some o } }
      ∧ s.OnlyTile t p := by
  have hgo : ¬ (!s.dev.sheetsRun || !(s.dev.active pTIL p || (s.dev.unit pTIL p).state == .draining)) = true := by
    rw [hs, hact, Bool.true_or]; exact Bool.false_ne_true
  refine Answers.tile p ((s.dev.tile p).mxStart o.usesArray) rfl (tileOk_true hp) hw ?_ fun htile ho => ⟨?_, ho⟩
  · have hne : ¬ (((s.dev.setTile p ((s.dev.tile p).mxStart o.usesArray)).tile p).mx.queue = (s.dev.tile p).mx.queue
        ∧ ((s.dev.setTile p ((s.dev.tile p).mxStart o.usesArray)).tile p).mx.waitEntry = (s.dev.tile p).mx.waitEntry) := by
      rw [Dev.tile_setTile_same, Tile.mxStart_front hq ha hpo ht hwe, hq]
      simp
    show s.dev.mxOpStart s.mem p o.usesArray 0 0 = _
    unfold Dev.mxOpStart
    rw [if_neg hgo]
    cases hu : o.usesArray <;> rw [hu] at hne <;> exact if_neg hne
  · rw [htile, Tile.mxStart_front hq ha hpo ht hwe]

/-- A transfer ends that sets its tile only. -/
theorem Answers.transferDone {T : Tile} (hp : p < 68) (hw : s.dev.wout = []) (hs : s.dev.sheetsRun = true)
    (hT : s.dev.transferComplete p [] [] = s.dev.setTile p T) :
    Answers (.mxOpComplete p false ⟨[], []⟩) s fun t => t.dev.tile p = T ∧ s.OnlyTile t p := by
  refine Answers.tile p T rfl (tileOk_true hp) hw (((if_neg ?_).trans (if_neg ?_)).trans hT) fun ht ho => ⟨ht, ho⟩
  · rw [hs]; exact Bool.false_ne_true
  · exact Bool.false_ne_true

theorem Answers.mmaDone (hp : p < 68) (hw : s.dev.wout = []) (hs : s.dev.sheetsRun = true)
    (ht : (s.dev.tile p).mx.tail = []) (ha : (s.dev.tile p).mx.array = some o) :
    Answers (.mxOpComplete p true ⟨[], []⟩) s fun t =>
      (t.dev.tile p).mx.array = none ∧ (t.dev.tile p).mx.accMode o.acc = o.modeOf.2
      ∧ (t.dev.tile p).mx.rows = (s.dev.tile p).mx.rows ∧ (t.dev.tile p).core = (s.dev.tile p).core
      ∧ (t.dev.tile p).vx = (s.dev.tile p).vx
      ∧ (∀ q, q ≠ p → t.dev.tile q = s.dev.tile q) ∧ s.OnlyParts t [.regs, .units, .evr, .tiles, .pci, .free] := by
  have he : s.dev.mxOpComplete p true [] [] = s.dev.mmaComplete p := by
    unfold Dev.mxOpComplete
    rw [hs]; rfl
  obtain ⟨⟨n, htile⟩, hne⟩ := Dev.mmaComplete_tile ht ha
  obtain ⟨hmode, harray, hrows, hcore, hvx⟩ :=
    Tile.mmaDone_spec { s.dev.tile p with mx := { (s.dev.tile p).mx with array := none } } o
  refine Answers.parts [.regs, .units, .evr, .tiles, .pci, .free] rfl (tileOk_true hp) hw
    (Dev.mxOpComplete_mask (by decide) ..) (by decide) fun ho => ?_
  simp only [he] at ho ⊢
  simp only [htile]
  exact ⟨harray, hmode, hrows, hcore, hvx, hne, ho⟩

end

/-! ### Debug reads of the accumulators -/

theorem Dev.pageWrite_accdbg (d : Dev) (m : Mem) {p : Nat} (v : Nat) (hr : d.pageReset pTIL = false)
    (hb : d.blockOpen pTIL p = true) : d.pageWrite m pTIL p 0x8C v = d.accdbg p v :=
  Dev.pageWrite_block d m v hr (by decide) hb

@[simp] theorem Dev.fget_setTile (d : Dev) (p : Nat) (T : Tile) (f : Field) (i : Nat) :
    (d.setTile p T).fget f i = d.fget f i := rfl

/-- TIL.ACCDBG_CTL with GO, where debugging is open. -/
theorem Dev.accdbg_go {d : Dev} {p v : Nat} (ho : d.debugOpen = true) (hv : bit v 31 = true) :
    (d.accdbg p v).fget tilAccdbgCtlRow p = bits v 0 8 ∧ (d.accdbg p v).fget tilAccdbgCtlCell p = bits v 8 12
      ∧ (d.accdbg p v).fget tilAccdbgCtlPart p = bits v 20 1 ∧ (d.accdbg p v).fget tilAccdbgCtlSrc p = bits v 21 2
      ∧ (d.accdbg p v).fget tilAccdbgStatDone p = 0
      ∧ (d.accdbg p v).tile p = { d.tile p with mx := { (d.tile p).mx with dbgPending := true } } := by
  have hbits : ∀ lo w, bits v lo w % 2 ^ w = bits v lo w := fun lo w => Nat.mod_mod ..
  have ho' : ¬ (!d.debugOpen) = true := by rw [ho]; exact Bool.false_ne_true
  unfold Dev.accdbg
  rw [if_neg ho']
  dsimp only
  rw [if_pos hv]
  simp only [List.foldl_cons, List.foldl_nil, Dev.onTile, Dev.tile_setTile_same, Dev.tile_fset]
  refine ⟨?_, ?_, ?_, ?_, ?_, trivial⟩
  all_goals
    simp (disch := decide) only [Dev.fget_setTile, Dev.fget_fset_place, Dev.fget_fset_same]
  · exact hbits 0 8
  · exact hbits 8 12
  · exact hbits 20 1
  · exact hbits 21 2
  · rfl

/-- A debug read that is pending is answered. -/
theorem Dev.accdbgDone_spec {d : Dev} {p : Nat} (hp : (d.tile p).mx.dbgPending = true) :
    (d.accdbgDone p).fget tilAccdbgStatDone p = 1
      ∧ (d.accdbgDone p).fget tilAccdbgStatInvalid p = (if d.debugCell p = none then 1 else 0)
      ∧ (∀ m c, d.debugCell p = some (m, c) →
          (d.accdbgDone p).fget tilAccdbgDataLoDataLo p
            = (if d.fget tilAccdbgCtlPart p = 0 then c.v else c.c) % 2 ^ 32
          ∧ (d.accdbgDone p).fget tilAccdbgStatNan p = c.flags % 2)
      ∧ (d.accdbgDone p).tile p = { d.tile p with mx := { (d.tile p).mx with dbgPending := false } } := by
  have hp' : ¬ (!(d.tile p).mx.dbgPending) = true := by rw [hp]; exact Bool.false_ne_true
  unfold Dev.accdbgDone
  rw [if_neg hp']
  simp (disch := decide) only [Dev.fget_fset_place, Dev.fget_fset_same, Dev.tile_fset, Dev.onTile, Dev.tile_setTile_same,
    Dev.fget_setTile]
  refine ⟨rfl, ?_, fun m c hc => ?_, trivial⟩
  · cases d.debugCell p <;> rfl
  · rw [hc]
    exact ⟨Nat.mod_mod .., Nat.mod_mod ..⟩

/-- Settles O22. -/
theorem matrixOps : Obligations.MatrixOps := by
  refine ⟨?_, ?_, ?_⟩
  · rintro s p _ o rest hp hw rfl hs ht hwe
    refine ⟨fun hq ha hpo hact => Answers.mxOpStart hp hw hs ht hwe hq ha hpo hact, fun hpo hk _ _ => ?_,
      fun hpo hk => ?_, fun ha _ => Answers.mmaDone hp hw hs ht ha⟩
    · refine (Answers.transferDone hp hw hs ((Dev.transferComplete_eq hpo).1 hk)).imp fun t ⟨htile, ho⟩ => ?_
      simp only [htile]
      exact ⟨rfl, tagStore_same .., rfl, rfl, rfl, ho⟩
    · refine (Answers.transferDone hp hw hs ((Dev.transferComplete_eq hpo).2 hk)).imp fun t ⟨htile, ho⟩ => ?_
      simp only [htile]
      exact ⟨rfl, tagInvalidate_same .., rfl, rfl, ho⟩
  · rintro s p v _ hp hw rfl ha - hv hr hb hopen
    have he : s.dev.host (fun d => if bit v 31 then d.pageWrite s.mem pTIL p 0x8C v else d) = s.dev.accdbg p v := by
      rw [Dev.host_on ha, if_pos hv, Dev.pageWrite_accdbg _ _ _ hr hb]
    obtain ⟨h1, h2, h3, h4, h5, h6⟩ := Dev.accdbg_go (p := p) hopen hv
    refine Answers.parts [.regs, .tiles] rfl (tileOk_true hp) hw ?_ (by decide) fun ho => ?_
    · rw [he, Dev.accdbg_mask (by decide)]
    · simp only [he] at ho ⊢
      exact ⟨h1, h2, h3, h4, h5, h6, ho⟩
  · rintro s p _ hp hw rfl hpend
    obtain ⟨h1, h2, h3, h4⟩ := Dev.accdbgDone_spec hpend
    exact Answers.parts [.regs, .tiles] rfl (tileOk_true hp) hw (Dev.accdbgDone_mask (by decide) ..) (by decide)
      fun ho => ⟨h1, h2, h3, h4, ho⟩

end Sys2Proof.Machine
end


section
/-! PROOFS. The power governor (chapter 18, R465 to R470). -/

namespace Sys2Proof.Machine

/-- A command that changes nothing of this state. -/
theorem exec_run_same {c : Instr} {f : Mem → Dev → Dev} {s : State} (he : exec c s = run f s) (hw : s.dev.wout = [])
    (hf : f s.mem s.dev = s.dev) : exec c s = .next s := by
  rw [he]
  exact runIf_same (ok := true) rfl hw hf

/-! ### Admission and ballast -/

theorem Dev.setBallast_spec (d : Dev) (w : Nat) :
    (d.setBallast w).pwr = d.pwr ∧ (d.setBallast w).fget pwrBallastWatts 0 = w % 2 ^ 16 := by
  refine ⟨rfl, ?_⟩
  rw [Dev.setBallast, Dev.fget_fset_place _ _ _ _ (by decide), Dev.fget_fset_same]
  rfl

/-- With nothing that waits the governor admits nothing. -/
theorem Dev.admitWaiting_none {d : Dev} (hd : d.pwr.direct = []) (ht : d.tiles = []) : d.admitWaiting = d := by
  have hc : d.candidates = [] := by simp [Dev.candidates, hd, ht]
  rw [Dev.admitWaiting, hc]
  rfl

/-- An admission interval with nothing that waits. -/
theorem Dev.interval_idle {d : Dev} (ns : Nat) (hd : d.pwr.direct = []) (ht : d.tiles = []) :
    (d.interval ns).pwr = { d.pwr with
        vin := (d.sensor 0x51).value, used := 0
        credit := min (creditCap (d.sensor 0x51).value) (d.pwr.credit + creditGrowth d.pwr.vin ns) }
      ∧ (d.interval ns).fget pwrBallastWatts 0 = (d.fget pwrBallastWatts 0
          - min (d.fget pwrStepDnw 0) (8 * 30 * (d.sensor 0x51).value * ns / 10000000)) % 2 ^ 16
      ∧ (d.interval ns).mask 16777224 = d.mask 16777224 := by
  unfold Dev.interval
  dsimp only
  rw [Dev.admitWaiting_none]
  · refine ⟨(Dev.setBallast_spec ..).1, (Dev.setBallast_spec ..).2, ?_⟩
    rw [Dev.setBallast_mask (by decide)]
    rfl
  · exact hd
  · exact ht

theorem Dev.release_none {d : Dev} {l : Load} (h : d.loaded l = false) : d.release l = d := by
  have : d.pwr.held.find? (fun h => h.1 == l) = none := List.find?_eq_none.mpr fun x hx hxl =>
    absurd (List.any_eq_false.mp h x hx) (by simpa using hxl)
  rw [Dev.release, this]

/-- The only loaded unit passes its weight to ballast. -/
theorem Dev.release_only {d : Dev} {l : Load} {w : Nat} (h : d.pwr.held = [(l, w)]) :
    (d.release l).pwr = { d.pwr with held := [] }
      ∧ (d.release l).fget pwrBallastWatts 0 = (d.fget pwrBallastWatts 0 + w) % 2 ^ 16 := by
  have hf : d.pwr.held.find? (fun h => h.1 == l) = some (l, w) := by simp [h]
  rw [Dev.release, hf]
  exact ⟨by simp [h, Dev.setBallast_spec], (Dev.setBallast_spec ..).2⟩

/-! ### The cap's window -/

/-- What the measured mean does to setpoints, duty and admission. -/
def Dev.windowStep (d : Dev) (mean : Nat) : Dev :=
  let cap := d.pwr.capInForce
  let duty := d.fget pwrGateDuty 0
  if cap * 21 < mean * 2 then
    let e := { d with pwr := { d.pwr.lower 25 with holding := true } }
    let e := (e.fset pwrStatCapped 0 1).fset pwrStatSettling 0 1
    if d.pwr.atFloor then e.fset pwrGateDuty 0 (min 15 (duty + 1)) else e
  else if decide (cap * 10 < mean) then { d with pwr := d.pwr.lower 5 }.fset pwrStatCapped 0 1
  else
    let e := { d with pwr := { d.pwr with holding := false } }.fset pwrStatSettling 0 0
    if mean * 10 < cap * 97 then
      let e := if duty ≠ 0 then e.fset pwrGateDuty 0 (duty - 1)
        else { e with pwr := { e.pwr with setpoints := e.pwr.setpoints.map (fun v => min e.pwr.vmaxInForce (v + 5)) } }
      let e := e.fset pwrStatFloor 0 0
      if e.fget pwrGateDuty 0 = 0 ∧ e.pwr.setpoints.all (fun v => v == e.pwr.vmaxInForce) then e.fset pwrStatCapped 0 0 else e
    else e

/-- What the window leaves for the next: the windows at the floor, FLOOR and the time capped. -/
def Dev.windowEnd (d : Dev) (high floored : Bool) : Dev :=
  let windows : Nat := if high && floored then d.pwr.floorWindows + 1 else 0
  let d := { d with pwr := { d.pwr with floorWindows := windows, lastMeanHigh := high } }
  let d := if 10 ≤ windows then d.fset pwrStatFloor 0 1 else d
  if d.fbit pwrStatCapped 0 then d.fcount pwrCaptimeMs 0 1 else d

theorem Dev.capWindow_eq {d : Dev} (mean : Nat) (hon : d.pwr.on = true) (hf : d.pwr.failing = false)
    (hc : d.pwr.capPending = false) :
    d.capWindow mean = (d.windowStep mean).windowEnd (decide (d.pwr.capInForce * 10 < mean)) d.pwr.atFloor := by
  have hgo : ¬ (!d.pwr.on || d.pwr.failing) = true := by rw [hon, hf]; exact Bool.false_ne_true
  have htake : d.takeCap = d := if_pos (by rw [hc]; rfl)
  unfold Dev.capWindow
  rw [if_neg hgo]
  simp only [htake]
  rfl

/-- The end of a window moves no setpoint, and of the fields FLOOR and CAPTIME alone. -/
theorem Dev.windowEnd_spec (d : Dev) (high floored : Bool) :
    (d.windowEnd high floored).pwr.setpoints = d.pwr.setpoints ∧ (d.windowEnd high floored).pwr.holding = d.pwr.holding
      ∧ (d.windowEnd high floored).fget pwrStatCapped 0 = d.fget pwrStatCapped 0
      ∧ (d.windowEnd high floored).fget pwrStatSettling 0 = d.fget pwrStatSettling 0
      ∧ (d.windowEnd high floored).fget pwrGateDuty 0 = d.fget pwrGateDuty 0 := by
  unfold Dev.windowEnd
  generalize (if (high && floored) = true then d.pwr.floorWindows + 1 else 0) = windows
  dsimp only
  refine ⟨?_, ?_, ?_, ?_, ?_⟩
  · split <;> split <;> rfl
  · split <;> split <;> rfl
  all_goals
    split <;> split <;> simp (disch := decide) only [Dev.fget_fcount_place, Dev.fget_fset_place, Dev.fget_mk]

theorem min_duty_mod (n : Nat) : min 15 (n + 1) % 2 ^ pwrGateDuty.width = min 15 (n + 1) :=
  Nat.mod_eq_of_lt (Nat.lt_of_le_of_lt (Nat.min_le_left ..) (by decide))

/-- A mean more than 5 % above the cap. -/
theorem Dev.windowStep_over {d : Dev} {mean : Nat} (h : d.pwr.capInForce * 21 < mean * 2) :
    (d.windowStep mean).pwr.setpoints = d.pwr.setpoints.map (fun v => max 650 (v - 25))
      ∧ (d.windowStep mean).pwr.holding = true
      ∧ (d.windowStep mean).fget pwrStatCapped 0 = 1 ∧ (d.windowStep mean).fget pwrStatSettling 0 = 1
      ∧ ((∀ v ∈ d.pwr.setpoints, v = 650) → (d.windowStep mean).fget pwrGateDuty 0 = min 15 (d.fget pwrGateDuty 0 + 1)) := by
  unfold Dev.windowStep
  dsimp only
  rw [if_pos h]
  refine ⟨?_, ?_, ?_, ?_, fun hv => ?_⟩
  · split <;> rfl
  · split <;> rfl
  · split <;> simp (disch := decide) only [Dev.fget_fset_place, Dev.fget_fset_same] <;> rfl
  · split <;> simp (disch := decide) only [Dev.fget_fset_place, Dev.fget_fset_same] <;> rfl
  · have hfl : d.pwr.atFloor = true := List.all_eq_true.mpr fun v hm => beq_iff_eq.mpr (hv v hm)
    rw [if_pos hfl, Dev.fget_fset_same, min_duty_mod]

/-- A mean above the cap by no more than 5 %. -/
theorem Dev.windowStep_high {d : Dev} {mean : Nat} (h : mean * 2 ≤ d.pwr.capInForce * 21) (hh : d.pwr.capInForce * 10 < mean) :
    d.windowStep mean = { d with pwr := d.pwr.lower 5 }.fset pwrStatCapped 0 1 :=
  (if_neg (Nat.not_lt.mpr h)).trans (if_pos (decide_eq_true hh))

/-- A mean within the cap, and no less than 97 % of it. -/
theorem Dev.windowStep_within {d : Dev} {mean : Nat} (h : mean ≤ d.pwr.capInForce * 10)
    (hl : d.pwr.capInForce * 97 ≤ mean * 10) :
    d.windowStep mean = { d with pwr := { d.pwr with holding := false } }.fset pwrStatSettling 0 0 :=
  (if_neg (by omega)).trans ((if_neg (by simpa using h)).trans (if_neg (Nat.not_lt.mpr hl)))

/-- A mean below 97 % of the cap. -/
theorem Dev.windowStep_below {d : Dev} {mean : Nat} (h : mean * 10 < d.pwr.capInForce * 97) (hd : d.fget pwrGateDuty 0 < 16) :
    (d.windowStep mean).pwr.holding = false
      ∧ (d.windowStep mean).fget pwrGateDuty 0 = d.fget pwrGateDuty 0 - 1
      ∧ (d.windowStep mean).pwr.setpoints = (if d.fget pwrGateDuty 0 = 0
          then d.pwr.setpoints.map (fun v => min d.pwr.vmaxInForce (v + 5)) else d.pwr.setpoints) := by
  have hh : ¬ decide (d.pwr.capInForce * 10 < mean) = true := by rw [decide_eq_true_eq]; omega
  unfold Dev.windowStep
  dsimp only
  rw [if_neg (by omega), if_neg hh, if_pos h]
  by_cases h0 : d.fget pwrGateDuty 0 = 0
  · rw [if_neg (not_not.mpr h0), if_pos h0]
    refine ⟨?_, ?_, ?_⟩
    · split <;> rfl
    · split <;> simp (disch := decide) only [Dev.fget_fset_place, Dev.fget_mk, h0]
    · split <;> rfl
  · rw [if_pos h0, if_neg h0]
    have hm : (d.fget pwrGateDuty 0 - 1) % 2 ^ pwrGateDuty.width = d.fget pwrGateDuty 0 - 1 :=
      Nat.mod_eq_of_lt (Nat.lt_of_le_of_lt (Nat.sub_le ..) hd)
    refine ⟨?_, ?_, ?_⟩
    · split <;> rfl
    · split <;> simp (disch := decide) only [Dev.fget_fset_place, Dev.fget_fset_same, hm]
    · split <;> rfl

/-! ### Writes of PWR.CAP and PWR.VSET -/

theorem Dev.pageWrite_cap (d : Dev) (m : Mem) (v : Nat) (hb : d.blockOpen pPWR 0 = true) :
    d.pageWrite m pPWR 0 0x44 v = d.capWrite pwrCapWatts v :=
  Dev.pageWrite_block d m v (Dev.pageReset_other d rfl) (by decide) hb

theorem Dev.pageWrite_vset (d : Dev) (m : Mem) (v : Nat) (hb : d.blockOpen pPWR 0 = true) :
    d.pageWrite m pPWR 0 0x48 v = d.capWrite pwrVsetVmaxMv v :=
  Dev.pageWrite_block d m v (Dev.pageReset_other d rfl) (by decide) hb

theorem capWatts_stored {v : Nat} (h : v < 2 ^ 12) : pwrCapWatts.stored v % 2 ^ pwrCapWatts.width = max 1200 (min 2800 v) := by
  have hw : pwrCapWatts.width = 12 := rfl
  have hlo : pwrCapWatts.least = 1200 := rfl
  have hhi : pwrCapWatts.greatest = 2800 := rfl
  simp only [Field.stored, hw, hlo, hhi]
  split_ifs <;> omega

theorem vmax_stored {v : Nat} (h : v < 2 ^ 10) : pwrVsetVmaxMv.stored v % 2 ^ pwrVsetVmaxMv.width = max 650 (min 850 v) := by
  have hw : pwrVsetVmaxMv.width = 10 := rfl
  have hlo : pwrVsetVmaxMv.least = 650 := rfl
  have hhi : pwrVsetVmaxMv.greatest = 850 := rfl
  simp only [Field.stored, hw, hlo, hhi]
  split_ifs <;> omega

/-- Settles O56. -/
theorem powerGovernor : Obligations.PowerGovernor := by
  intro s hw ballast vin
  refine ⟨fun hrun => ?_, fun hrun hd ht => ?_, fun kind n w _ => ⟨fun h => ?_, fun hi hh => ?_⟩,
    fun mean hon hf hc => ?_, fun begins => ?_, fun v ha hb => ⟨fun hv => ?_, fun hv => ?_⟩⟩
  · exact exec_run_same rfl hw (if_pos (Dev.fbit_iff.mpr hrun))
  · obtain ⟨hpwr, hball, hmask⟩ := Dev.interval_idle 2000 hd ht
    have he : s.dev.admissionInterval = s.dev.interval 2000 := if_neg (by rw [Dev.fbit_eq_false.mpr hrun]; exact Bool.false_ne_true)
    refine Answers.parts (ok := true) (f := fun _ d => d.admissionInterval) [.regs, .pwr] rfl rfl hw (he ▸ hmask) (by decide)
      fun ho => ?_
    simp only [he] at ho ⊢
    exact ⟨hpwr, hball, ho⟩
  · refine exec_run_same rfl hw ?_
    rcases h with h | h
    · exact if_neg (by rw [h]; exact Bool.false_ne_true)
    · exact (ite_congr rfl (fun _ => Dev.release_none h) fun _ => rfl).trans (ite_self _)
  · obtain ⟨hpwr, hball⟩ := Dev.release_only hh
    have he : s.dev.unitIdle kind n = s.dev.release (loadOf kind n) := if_pos hi
    refine Answers.parts (ok := true) (f := fun _ d => d.unitIdle kind n) [.regs, .pwr] rfl rfl hw
      (Dev.unitIdle_mask (by decide) ..) (by decide) fun ho => ?_
    simp only [he] at ho ⊢
    exact ⟨hpwr, hball, ho⟩
  · have he := Dev.capWindow_eq mean hon hf hc
    obtain ⟨hset, hhold, hcap, hsettle, hduty⟩ := Dev.windowEnd_spec (s.dev.windowStep mean)
      (decide (s.dev.pwr.capInForce * 10 < mean)) s.dev.pwr.atFloor
    rw [← he] at hset hhold hcap hsettle hduty
    have answers : ∀ {P : State → Prop}, (s.OnlyParts { s with dev := s.dev.capWindow mean } [.regs, .pwr] →
        P { s with dev := s.dev.capWindow mean }) → Answers (.capWindow mean) s P := fun hp =>
      Answers.parts (ok := true) (f := fun _ d => d.capWindow mean) [.regs, .pwr] rfl rfl hw (Dev.capWindow_mask (by decide) ..)
        (by decide) hp
    refine ⟨fun h => answers fun ho => ?_, fun h hh => answers fun ho => ?_, fun h hl => answers fun ho => ?_,
      fun h hd => answers fun ho => ?_⟩
    · obtain ⟨h1, h2, h3, h4, h5⟩ := Dev.windowStep_over h
      exact ⟨hset.trans h1, hhold.trans h2, hcap.trans h3, hsettle.trans h4, fun hv => hduty.trans (h5 hv), ho⟩
    · rw [Dev.windowStep_high h hh] at hset hhold hcap hduty
      simp (disch := decide) only [Dev.fget_fset_place, Dev.fget_fset_same] at hcap hduty
      exact ⟨hset, hhold, hcap, hduty, ho⟩
    · rw [Dev.windowStep_within h hl] at hset hhold hduty
      simp (disch := decide) only [Dev.fget_fset_place] at hduty
      exact ⟨hset, hhold, hduty, ho⟩
    · obtain ⟨h1, h2, h3⟩ := Dev.windowStep_below h hd
      exact ⟨hhold.trans h1, hduty.trans h2, hset.trans h3, ho⟩
  · exact Answers.parts (ok := true) (f := fun _ d => d.dutyHold begins) [.pwr] rfl rfl hw (Dev.dutyHold_mask (by decide) ..)
      (by decide) fun ho => ⟨rfl, ho⟩
  · refine Answers.hostParts (ok := true) (g := fun m d => d.pageWrite m pPWR 0 0x44 v) [.regs, .pwr] rfl rfl ha hw ?_ (by decide)
      fun ho => ?_
    · rw [Dev.pageWrite_cap _ _ _ hb, Dev.capWrite_mask (by decide)]
    · simp only [Dev.pageWrite_cap _ _ _ hb] at ho ⊢
      exact ⟨(Dev.fget_fset_same ..).trans (capWatts_stored hv), rfl, ho⟩
  · refine Answers.hostParts (ok := true) (g := fun m d => d.pageWrite m pPWR 0 0x48 v) [.regs, .pwr] rfl rfl ha hw ?_ (by decide)
      fun ho => ?_
    · rw [Dev.pageWrite_vset _ _ _ hb, Dev.capWrite_mask (by decide)]
    · simp only [Dev.pageWrite_vset _ _ _ hb] at ho ⊢
      exact ⟨(Dev.fget_fset_same ..).trans (vmax_stored hv), rfl, ho⟩

end Sys2Proof.Machine
end


section
/-! PROOFS. Which fields an operation may change, by the classes of their pages. -/

namespace Sys2Proof.Machine

/-! ### Fields kept but those of some classes -/

/-- Every field of a page whose class is not listed reads in `e` as in `d`. -/
structure Dev.KeepsBut (cs : List Nat) (d e : Dev) : Prop where
  keeps : ∀ (g : Field) (j : Nat), g.place < 2 ^ 23 → g.place / 2 ^ 17 ∉ cs → e.fget g j = d.fget g j

namespace Dev.KeepsBut
variable {cs : List Nat} {d e : Dev}

theorem refl (cs : List Nat) (d : Dev) : d.KeepsBut cs d := ⟨fun _ _ _ _ => rfl⟩

theorem trans {f : Dev} (h : d.KeepsBut cs e) (k : e.KeepsBut cs f) : d.KeepsBut cs f :=
  ⟨fun g j hg hc => (k.keeps g j hg hc).trans (h.keeps g j hg hc)⟩

theorem of_regs (h : e.regs = d.regs) : d.KeepsBut cs e := ⟨fun g j _ _ => Dev.fget_congr h g j⟩

theorem of_mask {F : Nat} (hF : F.testBit 3 = false) (h : e.mask F = d.mask F) : d.KeepsBut cs e :=
  of_regs (Dev.regs_of_mask hF h)

theorem fset (h : d.KeepsBut cs e) (x : Field) (i v : Nat) (hx : x.place < 2 ^ 23 ∧ x.place / 2 ^ 17 ∈ cs := by decide) :
    d.KeepsBut cs (e.fset x i v) :=
  h.trans ⟨fun _ _ hg hgc => Dev.fget_fset_place _ _ _ _ ⟨hx.1, hg, fun he => hgc (by rw [he]; exact hx.2)⟩⟩

theorem fcount (h : d.KeepsBut cs e) (x : Field) (i n : Nat) (hx : x.place < 2 ^ 23 ∧ x.place / 2 ^ 17 ∈ cs := by decide) :
    d.KeepsBut cs (e.fcount x i n) := h.fset x i _ hx

theorem fwrap (h : d.KeepsBut cs e) (x : Field) (i : Nat) (hx : x.place < 2 ^ 23 ∧ x.place / 2 ^ 17 ∈ cs := by decide) :
    d.KeepsBut cs (e.fwrap x i) := h.fset x i _ hx

theorem ite {c : Prop} [Decidable c] {f : Dev} (h : c → d.KeepsBut cs e) (k : ¬ c → d.KeepsBut cs f) :
    d.KeepsBut cs (if c then e else f) := by
  by_cases hc : c
  · rw [if_pos hc]; exact h hc
  · rw [if_neg hc]; exact k hc

theorem foldl {α : Type} {f : Dev → α → Dev} (h : ∀ (e : Dev) x, e.KeepsBut cs (f e x)) (l : List α) (hd : d.KeepsBut cs e) :
    d.KeepsBut cs (l.foldl f e) := Dev.foldl_keep (fun e => d.KeepsBut cs e) f (fun e x he => he.trans (h e x)) l e hd

theorem record (h : d.KeepsBut cs e) (code cls inst p0 p1 p2 : Nat) : d.KeepsBut cs (e.record code cls inst p0 p1 p2) :=
  h.trans (.of_mask (F := 32) (by decide) (Dev.record_mask (by decide) ..))

theorem onStack (h : d.KeepsBut cs e) (s : Nat) (f : Stack → Stack) : d.KeepsBut cs (e.onStack s f) :=
  h.trans (.of_mask (F := 1024) (by decide) (Dev.onStack_mask (by decide) ..))

theorem pgErr (h : d.KeepsBut cs e) (cls inst bs code p0 p1 p2 : Nat) :
    d.KeepsBut cs (e.pgErr cls inst bs code p0 p1 p2) :=
  h.trans (.of_mask (F := 4194352) (by decide) (Dev.pgErr_mask (by decide) ..))

theorem cellsGone (h : d.KeepsBut cs e) (a : Nat) : d.KeepsBut cs (e.cellsGone a) :=
  h.trans (.of_mask (F := 1024) (by decide) (Dev.cellsGone_mask (by decide) ..))

theorem pokeBytes (h : d.KeepsBut cs e) (a : Nat) (bs : List Nat) : d.KeepsBut cs (e.pokeBytes a bs) :=
  h.trans (.of_mask (F := 67108864) (by decide) (Dev.pokeBytes_mask (by decide) ..))

end Dev.KeepsBut

/-! ### The stacks' dies -/

/-- The classes whose fields an access to stack memory may change: STK, DOC and DKL. -/
abbrev memClasses : List Nat := [pSTK, pDOC, pDKL]

section
variable (d : Dev)

theorem Dev.rehealth_keeps (i : Nat) : d.KeepsBut memClasses (d.rehealth i) := by
  unfold Dev.rehealth
  dsimp only
  split
  · exact .refl ..
  · refine .record (.fwrap ?_ ..) ..
    exact .of_regs rfl

theorem Dev.checkDegraded_keeps {cs : List Nat} : d.KeepsBut cs d.checkDegraded :=
  .of_mask (F := 33) (by decide) (Dev.checkDegraded_mask (by decide) ..)

theorem Dev.worsen_keeps (s h : Nat) : d.KeepsBut memClasses (d.worsen s h) := by
  unfold Dev.worsen
  dsimp only
  refine .ite (fun _ => .refl ..) fun _ => .trans ?_ (Dev.checkDegraded_keeps _)
  have hset : d.KeepsBut memClasses ((d.fset stkStatHealth s h).rehealth (0x100 + s)) :=
    .trans (.fset (.refl ..) ..) (Dev.rehealth_keeps ..)
  have hrec : d.KeepsBut memClasses (if ((d.fset stkStatHealth s h).rehealth (0x100 + s)).health (0x100 + s)
        = (d.fset stkStatHealth s h).health (0x100 + s)
      then ((d.fset stkStatHealth s h).rehealth (0x100 + s)).record 0x5001 pSTK s (0x100 + s) h (d.fget stkStatHealth s)
      else (d.fset stkStatHealth s h).rehealth (0x100 + s)) := .ite (fun _ => hset.record ..) fun _ => hset
  exact .ite (fun _ => hrec.trans (.of_mask (F := 4096) (by decide) (Dev.dkEvent_mask (by decide) ..))) fun _ => hrec

theorem Dev.lowerBin_keeps (s row : Nat) : d.KeepsBut memClasses (d.lowerBin s row) := by
  unfold Dev.lowerBin
  dsimp only
  refine .ite (fun _ => .refl ..) fun _ => ?_
  have hb : ∀ f : Stack → Stack, d.KeepsBut memClasses (if SMap.get 3 row (d.stack s).bins = 1
      then (d.onStack s f).fcount stkRefbinB0rows s 1 else d.onStack s f) := fun f =>
    .ite (fun _ => .fcount (.onStack (.refl ..) ..) ..) fun _ => .onStack (.refl ..) ..
  split
  · exact (hb _).trans (.of_regs rfl)
  · exact hb _

theorem Dev.requestScrub_keeps (s line : Nat) : d.KeepsBut memClasses (d.requestScrub s line) := by
  unfold Dev.requestScrub
  dsimp only
  exact .ite (fun _ => .refl ..) fun _ => .ite (fun _ => .fcount (.refl ..) ..) fun _ =>
    .of_regs rfl

theorem Dev.correctedRead_keeps (a symbols row : Nat) (retention scrub : Bool) :
    d.KeepsBut memClasses (d.correctedRead a symbols row retention scrub) := by
  unfold Dev.correctedRead
  dsimp only
  have h1 : d.KeepsBut memClasses
      (((d.fcount stkCecntCount (stackOf a) 1).pgErr pSTK (stackOf a) bCE 0x1002 (lineOf a) symbols 0).activateRow (stackOf a) row) :=
    .onStack (.pgErr (.fcount (.refl ..) ..) ..) ..
  have h2 := KeepsBut.ite (c := retention = true) (fun _ => h1.trans (Dev.lowerBin_keeps _ (stackOf a) row)) fun _ => h1
  have h3 := fun f => KeepsBut.ite (c := scrub = true)
    (fun _ => (h2.onStack (stackOf a) f).trans (Dev.requestScrub_keeps _ (stackOf a) (lineOf a))) fun _ => h2.onStack (stackOf a) f
  exact .ite (fun _ => (h3 _).trans (Dev.worsen_keeps ..)) fun _ => h3 _

theorem Dev.uncorrectableRead_keeps (a row : Nat) : d.KeepsBut memClasses (d.uncorrectableRead a row) := by
  unfold Dev.uncorrectableRead
  dsimp only
  have h1 : d.KeepsBut memClasses (((d.setLine (a / 64) true).stackPoison a 0).fcount stkUecntCount (stackOf a) 1) :=
    .fcount (.pgErr (.of_mask (F := 2048) (by decide) (Dev.setLine_mask (by decide) ..)) ..) ..
  generalize ((d.setLine (a / 64) true).stackPoison a 0).fcount stkUecntCount (stackOf a) 1 = e at h1 ⊢
  have h2 := KeepsBut.ite (c := e.fbit stkUeaddrHiValid (stackOf a) = true) (fun _ => h1) fun _ =>
    ((h1.fset stkUeaddrLoOffLo (stackOf a) (bits (lineOf a * 64) 6 26)).fset stkUeaddrHiOffHi (stackOf a)
      (bits (lineOf a * 64) 32 4)).fset stkUeaddrHiValid (stackOf a) 1
  generalize (ite (e.fbit stkUeaddrHiValid (stackOf a) = true) _ _ : Dev) = f at h2 ⊢
  exact .ite (fun _ => (h2.onStack ..).trans (Dev.worsen_keeps ..)) fun _ => h2.onStack ..

theorem Dev.noteRead_keeps (a : Nat) (scrub : Bool) : d.KeepsBut memClasses (d.noteRead a scrub).1 := by
  unfold Dev.noteRead
  cases d.cellsAt a with
  | none => exact .refl _ d
  | some x =>
    dsimp only
    cases d.decodeCells (stackOf a) x with
    | clean => exact .refl _ d
    | corrected n change =>
      dsimp only
      split
      · exact .refl _ d
      · exact d.correctedRead_keeps a n x.row x.retention scrub
    | detected =>
      dsimp only
      exact d.uncorrectableRead_keeps a x.row

theorem Dev.dieModify_keeps (a : Nat) (scrub : Bool) : d.KeepsBut memClasses (d.dieModify a scrub).1 := by
  unfold Dev.dieModify
  split
  · exact .refl ..
  · exact .cellsGone (.pokeBytes (Dev.noteRead_keeps ..) ..) _

theorem Dev.openLine_keeps (a : Nat) (whole : Bool) : d.KeepsBut memClasses (d.openLine a whole).1 := by
  unfold Dev.openLine
  split
  · exact .cellsGone (.refl ..) _
  · exact Dev.dieModify_keeps ..

theorem Dev.writeLine_keeps (a : Nat) (bs : List Nat) (poison : Bool) : d.KeepsBut memClasses (d.writeLine a bs poison) := by
  unfold Dev.writeLine
  exact .pokeBytes ((Dev.openLine_keeps ..).trans (.of_mask (F := 4196400) (by decide) (Dev.markWrite_mask (by decide) ..))) ..

theorem Dev.writeBytes_keeps (a : Nat) (bs : List Nat) (poison : Bool) : d.KeepsBut memClasses (d.writeBytes a bs poison) :=
  .foldl (fun e _ => Dev.writeLine_keeps e ..) _ (.refl ..)

theorem Dev.writeUnit_keeps (h o : Nat) (bs : List Nat) (poison : Bool) : d.KeepsBut memClasses (d.writeUnit h o bs poison) := by
  unfold Dev.writeUnit
  dsimp only
  split
  · exact (Dev.writeBytes_keeps ..).trans (Dev.writeBytes_keeps ..)
  · exact Dev.writeBytes_keeps ..

/-- A write of a region changes no field but those of the stacks, of DOC and of Deckle's health map. -/
theorem Dev.writeRegion_keeps {d e : Dev} {h o : Nat} {bs : List Nat} {poison : Bool} (he : d.writeRegion h o bs poison = some e) :
    d.KeepsBut memClasses e := by
  unfold Dev.writeRegion Dev.writeEntry at he
  split at he
  · cases he
    exact .foldl (fun e _ => Dev.writeUnit_keeps e ..) _ (.refl ..)
  · exact absurd he (by simp)

end

end Sys2Proof.Machine
end


section
/-! PROOFS. The input, the sensors and the sideband (chapters 16 and 18). -/

namespace Sys2Proof.Machine

/-! ### Power fail -/

/-- The recorder without its NV log, and without how far it is flushed. -/
def Evr.withoutLog (e : Evr) : Evr := { e with nv := [], wrptr := 0, badBlocks := [], erases := [], next := 0, flushed := 0 }

/-- From `d` to `e` the NV log changes, and with it EVR.STAT.NVOK and RINGFULL. -/
structure Dev.WritesLog (d e : Dev) : Prop where
  evr : e.evr.withoutLog = d.evr.withoutLog
  fields : ∀ (f : Field) i, f.place < 2 ^ 23 ∧ f.place ∉ [evrStatNvok.place, evrStatRingfull.place] → e.fget f i = d.fget f i

namespace Dev.WritesLog

theorem refl (d : Dev) : d.WritesLog d := ⟨rfl, fun _ _ _ => rfl⟩

theorem trans {d e f : Dev} (h : d.WritesLog e) (k : e.WritesLog f) : d.WritesLog f :=
  ⟨k.evr.trans h.evr, fun x i hx => (k.fields x i hx).trans (h.fields x i hx)⟩

theorem of_regs {d e : Dev} (h : e.regs = d.regs) (he : e.evr.withoutLog = d.evr.withoutLog) : d.WritesLog e :=
  ⟨he, fun f i _ => Dev.fget_congr h f i⟩

/-- A write of one of the two fields. -/
theorem fset (d : Dev) {x : Field} (hx : x = evrStatNvok ∨ x = evrStatRingfull) (v : Nat) : d.WritesLog (d.fset x 0 v) := by
  refine ⟨rfl, fun f i hf => Dev.fget_fset_place _ _ _ _ ?_⟩
  obtain ⟨hlt, hne⟩ := hf
  simp only [List.mem_cons, List.not_mem_nil, or_false, not_or] at hne
  rcases hx with rfl | rfl
  · exact ⟨by decide, hlt, hne.1⟩
  · exact ⟨by decide, hlt, hne.2⟩

theorem closed {d e : Dev} (h : d.WritesLog e) : e.evr.closed = d.evr.closed :=
  (congrArg Evr.closed h.evr).trans rfl

theorem keeps {d e : Dev} (h : d.WritesLog e) : d.KeepsBut [pEVR] e := by
  refine ⟨fun g j hg hc => h.fields g j ⟨hg, fun hm => hc ?_⟩⟩
  simp only [List.mem_cons, List.not_mem_nil, or_false] at hm
  rcases hm with hm | hm <;> rw [hm] <;> decide

end Dev.WritesLog

theorem Dev.retireBlock_log (d : Dev) (b : Nat) : d.WritesLog (d.retireBlock b) := by
  have hb : d.WritesLog { d with evr := { d.evr with badBlocks := d.evr.badBlocks ++ [b] } } := .of_regs rfl rfl
  unfold Dev.retireBlock
  dsimp only
  split
  · exact hb.trans (.fset _ (.inl rfl) _)
  · exact hb

theorem Dev.eraseBlock_log (d : Dev) (failing : List Nat) (b : Nat) : d.WritesLog (d.eraseBlock failing b) := by
  unfold Dev.eraseBlock
  split
  · exact .refl d
  · split
    · exact d.retireBlock_log b
    · exact .of_regs rfl rfl

theorem Dev.eraseAhead_log (d : Dev) (failing : List Nat) (k b : Nat) : d.WritesLog (d.eraseAhead failing k b) := by
  induction k generalizing d b with
  | zero => exact .refl d
  | succ k ih =>
    rw [Dev.eraseAhead]
    split
    · exact (d.eraseBlock_log failing b).trans (ih ..)
    · exact d.eraseBlock_log failing b

theorem Dev.writeReam_log (d : Dev) (failing : List Nat) (r : Ream) : d.WritesLog (d.writeReam failing r) := by
  unfold Dev.writeReam
  dsimp only
  generalize hb : (if (failing.contains (d.evr.wrptr / 64) && !d.evr.badBlocks.contains (d.evr.wrptr / 64)) = true
    then d.retireBlock (d.evr.wrptr / 64) else d) = e
  have he : d.WritesLog e := by
    rw [← hb]
    split
    · exact d.retireBlock_log _
    · exact .refl d
  split
  · exact he
  · split
    · exact he.trans (.of_regs rfl rfl)
    · refine he.trans (.trans ?_ (Dev.eraseAhead_log ..))
      exact .of_regs rfl rfl

theorem Dev.powerFailReam_log (d : Dev) (rs : List Rec) (n : Nat) : d.WritesLog (d.powerFailReam rs n) := by
  unfold Dev.powerFailReam
  split
  · exact .refl d
  · exact (d.writeReam_log ..).trans (.of_regs rfl rfl)

/-- Table 16-7 changes fields of EVR alone, and closes admission. -/
theorem Dev.powerFailFlush_keeps (d : Dev) (mv : Nat) :
    d.KeepsBut [pEVR] (d.powerFailFlush mv) ∧ (d.powerFailFlush mv).evr.closed = true := by
  unfold Dev.powerFailFlush
  dsimp only
  generalize hx : (ite (ringSize ≤ _) _ _ : Dev) = x
  have hk : d.KeepsBut [pEVR] x := by
    rw [← hx]
    split
    · refine .trans (.fcount ?_ evrLostCount 0 1) (.of_regs rfl)
      exact .of_regs rfl
    · exact .of_regs rfl
  have hx' : d.KeepsBut [pEVR] { x with evr := { x.evr with closed := true } } := hk.trans (.of_regs rfl)
  have hreams : ∀ a b n, ({ x with evr := { x.evr with closed := true } } : Dev).WritesLog
      ((({ x with evr := { x.evr with closed := true } } : Dev).powerFailReam a 0).powerFailReam b n) := fun a b n =>
    (Dev.powerFailReam_log ..).trans (Dev.powerFailReam_log ..)
  by_cases hc : (({ x with evr := { x.evr with closed := true } } : Dev).fbit evrStatHoldupOk 0
      && ({ x with evr := { x.evr with closed := true } } : Dev).fbit evrStatNvok 0) = true
  · rw [if_pos hc]
    exact ⟨hx'.trans (hreams ..).keeps, (hreams ..).closed⟩
  · rw [if_neg hc]
    exact ⟨hx'.trans (.of_regs rfl), rfl⟩

theorem SMap.find_map {α : Type} (f : α → α) (k : Nat) (m : SMap α) :
    SMap.find k (m.map fun e => (e.1, f e.2)) = (SMap.find k m).map f := by
  induction m with
  | nil => rfl
  | cons e m ih =>
    rw [List.map_cons, SMap.find, SMap.find, ih]
    split <;> rfl

/-- A tile that has stopped with its Sheet (Table 15-6). -/
def Tile.sheetOff (t : Tile) : Tile := { Tile.reset with
  core := { Core.reset with prog := t.core.prog, ltile := t.core.ltile, ltileValid := t.core.ltileValid }
  store := { Store.reset with
    ts := t.store.ts, tsPoison := t.store.tsPoison, launchNmode := t.store.launchNmode, launchCq := t.store.launchCq }
  mx := { Matrix.reset with ledgerRole := t.mx.ledgerRole, accmem := t.mx.accmem } }

theorem Dev.stopSheets_tile (d : Dev) (p : Nat) : d.stopSheets.tile p = (d.tile p).sheetOff := by
  have h : SMap.find p d.stopSheets.tiles = (SMap.find p d.tiles).map Tile.sheetOff :=
    SMap.find_map Tile.sheetOff p d.tiles
  rw [Dev.tile, SMap.get, h, Dev.tile, SMap.get]
  cases SMap.find p d.tiles <;> rfl

/-- A power fail, of a module that has power and has not failed. -/
theorem Dev.powerFail_spec {d : Dev} (mv : Nat) (hon : d.pwr.on = true) (hf : d.pwr.failing = false) :
    (d.powerFail mv).pwr.failing = true ∧ (d.powerFail mv).pwr.gated = true ∧ (d.powerFail mv).evr.closed = true
      ∧ (d.powerFail mv).fget pwrBallastWatts 0 = 0 ∧ ∀ p, ((d.powerFail mv).tile p).core.run = .idle := by
  have hgo : ¬ (!d.pwr.on || d.pwr.failing) = true := by rw [hon, hf]; exact Bool.false_ne_true
  unfold Dev.powerFail
  rw [if_neg hgo]
  dsimp only
  generalize hg : ((({ d with pwr := { d.pwr with failing := true } } : Dev).stopSheets.gate).setBallast 0) = e
  have hpwr : (e.powerFailFlush mv).pwr = e.pwr := Dev.pwr_of_mask (F := 56) (by decide) (Dev.powerFailFlush_mask (by decide) ..)
  have htiles : (e.powerFailFlush mv).tiles = e.tiles :=
    Dev.tiles_of_mask (F := 56) (by decide) (Dev.powerFailFlush_mask (by decide) ..)
  obtain ⟨hkeeps, hclosed⟩ := e.powerFailFlush_keeps mv
  have hball : e.fget pwrBallastWatts 0 = 0 := by
    rw [← hg, (Dev.setBallast_spec ..).2, Nat.zero_mod]
  refine ⟨?_, ?_, hclosed, (hkeeps.keeps pwrBallastWatts 0 (by decide) (by decide)).trans hball, fun p => ?_⟩
  · rw [hpwr, ← hg]; rfl
  · rw [hpwr, ← hg]; rfl
  · rw [Dev.tile, htiles, ← hg]
    exact (congrArg (·.core.run) (Dev.stopSheets_tile { d with pwr := { d.pwr with failing := true } } p)).trans rfl

theorem Dev.powerFail_wout (d : Dev) (mv : Nat) : (d.powerFail mv).wout = d.wout :=
  Dev.wout_of_mask (F := 17164088) (by decide) (Dev.powerFail_mask (by decide) ..)

/-! ### Thermal trips -/

theorem Dev.dropCompletions_keeps (d : Dev) (n : Nat) : d.KeepsBut [pHBX] (d.dropCompletions n) := by
  unfold Dev.dropCompletions
  split
  · exact .refl ..
  · refine .record (.fcount ?_ ..) ..
    exact .refl ..

theorem Dev.postCq_keeps (d : Dev) (q : Nat) (e : CqEntry) : d.KeepsBut [pHBX] (d.postCq q e) := by
  unfold Dev.postCq
  split
  · exact .of_regs rfl
  · exact d.dropCompletions_keeps 1

/-- A completion changes fields of HBX alone. -/
theorem Dev.complete_keeps (d : Dev) (c : HostCmd) (status p0 p1 : Nat) : d.KeepsBut [pHBX] (d.complete c status p0 p1) := by
  unfold Dev.complete
  dsimp only
  generalize hx : (if status = 0 then _ else _ : Dev) = x
  have hk : d.KeepsBut [pHBX] x := by
    rw [← hx]
    split
    · exact .of_regs rfl
    · refine .fcount ?_ ..
      exact .of_regs rfl
  split
  · exact hk
  · exact hk.trans (Dev.postCq_keeps ..)

theorem Dev.dropLoads_keeps (d : Dev) (status : Nat) : d.KeepsBut [pHBX] (d.dropLoads status) :=
  .foldl (fun e _ => e.complete_keeps ..) _ (.refl ..)

/-- The device that fails keeps every field but those of HBX and the ballast's. -/
theorem Dev.fget_failDevice (d : Dev) {g : Field} (j : Nat) (h : g.offBallast) (hg : g.place / 2 ^ 17 ∉ [pHBX]) :
    d.failDevice.fget g j = d.fget g j := by
  unfold Dev.failDevice
  split
  · rfl
  · refine (Dev.fget_of_mask (F := 33) (by decide) (Dev.setPhase_mask (by decide) ..) ..).trans ?_
    refine ((Dev.fget_congr (e := (d.dropLoads 7).stopSheets.setBallast _) rfl ..).trans (Dev.fget_setBallast _ _ j h)).trans ?_
    exact (d.dropLoads_keeps 7).keeps g j h.1 hg

theorem Dev.setPhase_phase (d : Dev) (x : DevPhase) : (d.setPhase x).phase = x := by
  unfold Dev.setPhase
  split
  · assumption
  · exact Dev.phase_of_mask (F := 32) (by decide) (Dev.record_mask (by decide) ..)

theorem Dev.failDevice_spec (d : Dev) : d.failDevice.phase = .failed ∧ d.failDevice.pwr.thermtrip = d.pwr.thermtrip := by
  unfold Dev.failDevice
  split
  · next h => exact ⟨h, rfl⟩
  · refine ⟨Dev.setPhase_phase .., ?_⟩
    rw [Dev.pwr_of_mask (F := 33) (by decide) (Dev.setPhase_mask (by decide) ..)]
    exact congrArg (·.thermtrip) (Dev.pwr_of_mask (F := 2097192) (by decide) (Dev.dropLoads_mask (by decide) d 7))

/-- A thermal trip fails the device. -/
theorem Dev.thermalTrip_spec {d : Dev} (sensor v : Nat) (hon : d.pwr.on = true) (ht : d.fbit pwrStatTripped 0 = false) :
    (d.thermalTrip sensor v).fget pwrStatTripped 0 = 1 ∧ (d.thermalTrip sensor v).pwr.thermtrip = true
      ∧ (d.thermalTrip sensor v).phase = .failed := by
  have hgo : ¬ (!d.pwr.on || d.fbit pwrStatTripped 0) = true := by rw [hon, ht]; exact Bool.false_ne_true
  unfold Dev.thermalTrip
  rw [if_neg hgo]
  dsimp only
  refine ⟨?_, ?_, (Dev.failDevice_spec _).1⟩
  · rw [Dev.fget_failDevice _ _ (by decide) (by decide), Dev.fget_pgErr]
    exact (Dev.fget_of_mask (F := 134217728) (by decide) (Dev.fresh_mask (by decide) _) ..).trans
      ((Dev.fget_of_mask (F := 134217728) (by decide) (Dev.fresh_mask (by decide) _) ..).trans (Dev.fget_fset_same ..))
  · rw [(Dev.failDevice_spec _).2, Dev.pwr_of_mask (F := 4194352) (by decide) (Dev.pgErr_mask (by decide) ..)]
    rfl

/-! ### Samples -/

/-- Samples at or above the trip limit in a row, after one more. -/
def sampleOvers (i v overs : Nat) : Nat :=
  match tripLimit i with
  | some l => if l ≤ signed 24 v then overs + 1 else 0
  | none => 0

theorem sampleOvers_junction {i v : Nat} (overs : Nat) (hi : i < 0x14) (hv : 1680 ≤ signed 24 v) :
    sampleOvers i v overs = overs + 1 := by
  have hl : tripLimit i = some 1680 := if_pos hi
  rw [sampleOvers, hl]
  exact if_pos hv

theorem sampleOvers_below {i v : Nat} (overs : Nat) (hv : signed 24 v < 1600) : sampleOvers i v overs = 0 := by
  unfold sampleOvers tripLimit
  split
  · next l h =>
    refine if_neg (not_le.mpr ?_)
    split_ifs at h with h1 h2
    · obtain rfl := Option.some.inj h; omega
    · obtain rfl := Option.some.inj h; omega
  · rfl

/-- One sample sets its sensor. -/
theorem Dev.sample_spec (d : Dev) (i v : Nat) :
    (∃ w, (d.sample i v).sensors = SMap.put .unread i ⟨v % 2 ^ 24, 0, w, sampleOvers i v (d.sensor i).overs⟩ d.sensors)
      ∧ (d.sample i v).mask 96 = d.mask 96 := by
  refine ⟨?_, Dev.sample_mask (by decide) ..⟩
  have hrec : ∀ (e : Dev) a b c x y z, (e.record a b c x y z).sensors = e.sensors := fun e a b c x y z =>
    Dev.sensors_of_mask (F := 32) (by decide) (Dev.record_mask (by decide) ..)
  unfold Dev.sample
  dsimp only
  split
  · exact ⟨_, rfl⟩
  · split
    · exact ⟨_, rfl⟩
    · split
      · rw [hrec]; exact ⟨_, rfl⟩
      · exact ⟨_, rfl⟩

/-- Every sensor one period older. -/
def Dev.aged (d : Dev) : Dev := { d with sensors := d.sensors.map (fun e => (e.1, { e.2 with age := e.2.age + 1 })) }

theorem Dev.aged_sensor (d : Dev) (j : Nat) :
    (d.aged.sensor j).value = (d.sensor j).value ∧ (d.aged.sensor j).overs = (d.sensor j).overs := by
  have h : SMap.find j d.aged.sensors = (SMap.find j d.sensors).map (fun x : Sensor => { x with age := x.age + 1 }) :=
    SMap.find_map (fun x : Sensor => { x with age := x.age + 1 }) j d.sensors
  rw [Dev.sensor, SMap.get, h, Dev.sensor, SMap.get]
  cases SMap.find j d.sensors <;> exact ⟨rfl, rfl⟩

theorem Dev.sampleAll_one (d : Dev) {i : Nat} (v : Nat) (hi : isSensor i = true) : d.sampleAll [(i, v)] = d.aged.sample i v :=
  if_pos hi

theorem SMap.mem_insert_self {α : Type} (k : Nat) (v : α) (m : SMap α) : (k, v) ∈ SMap.insert k v m := by
  induction m with
  | nil => exact List.mem_singleton.mpr rfl
  | cons e m ih =>
    rw [SMap.insert]
    split
    · exact List.mem_cons_self
    · split
      · exact List.mem_cons_self
      · exact List.mem_cons_of_mem _ ih

theorem SMap.mem_insert {α : Type} {k : Nat} {v : α} {m : SMap α} {e : Nat × α} (h : e ∈ SMap.insert k v m) :
    e = (k, v) ∨ e ∈ m := by
  induction m with
  | nil => exact .inl (List.mem_singleton.mp h)
  | cons x m ih =>
    rw [SMap.insert] at h
    split at h
    · exact (List.mem_cons.mp h)
    · split at h
      · exact (List.mem_cons.mp h).imp_right (List.mem_cons_of_mem _)
      · rcases List.mem_cons.mp h with h | h
        · exact .inr (h ▸ List.mem_cons_self)
        · exact (ih h).imp_right (List.mem_cons_of_mem _)

theorem SMap.mem_put {α : Type} [DecidableEq α] {d v : α} {k : Nat} {m : SMap α} {e : Nat × α} (h : e ∈ SMap.put d k v m) :
    e = (k, v) ∨ e ∈ m := by
  unfold SMap.put at h
  split at h
  · exact .inr (List.mem_filter.mp h).1
  · exact SMap.mem_insert h

/-- The second sample in a row at its limit trips some sensor. -/
theorem Dev.tripped_isSome {d : Dev} {i : Nat} {x : Sensor} {m : SMap Sensor} (h : d.sensors = SMap.put .unread i x m)
    (hx : 2 ≤ x.overs) : ∃ j, d.tripped = some j := by
  have hne : x ≠ .unread := fun he => absurd hx (by rw [he]; decide)
  have hmem : (i, x) ∈ d.sensors := by
    rw [h, SMap.put, if_neg hne]
    exact SMap.mem_insert_self ..
  obtain ⟨y, hy⟩ := Option.isSome_iff_exists.mp
    (List.find?_isSome (p := fun e : Nat × Sensor => decide (2 ≤ e.2.overs)).mpr ⟨_, hmem, decide_eq_true hx⟩)
  exact ⟨y.1, by rw [Dev.tripped, hy]; rfl⟩

theorem Dev.tripped_none {d : Dev} (h : ∀ e ∈ d.sensors, e.2.overs = 0) : d.tripped = none := by
  rw [Dev.tripped, List.find?_eq_none.mpr fun e he => by rw [h e he]; decide]
  rfl

section
variable {d : Dev} {i : Nat} (v : Nat) (hon : d.pwr.on = true) (ha : d.active pTHM 0 = true) (hi : isSensor i = true)
include hon ha hi

/-- A period's only sample, where nothing trips. -/
theorem Dev.thmSample_quiet (ht : (d.aged.sample i v).tripped = none) : d.thmSample [(i, v)] = d.aged.sample i v := by
  have hgo : ¬ (!d.pwr.on || !d.active pTHM 0) = true := by rw [hon, ha]; exact Bool.false_ne_true
  rw [Dev.thmSample, if_neg hgo, Dev.sampleAll_one d v hi]
  simp only [ht]

/-- A period's only sample, where a sensor trips. -/
theorem Dev.thmSample_trips {j : Nat} (ht : (d.aged.sample i v).tripped = some j) :
    d.thmSample [(i, v)] = (d.aged.sample i v).thermalTrip j ((d.aged.sample i v).sensor j).value := by
  have hgo : ¬ (!d.pwr.on || !d.active pTHM 0) = true := by rw [hon, ha]; exact Bool.false_ne_true
  rw [Dev.thmSample, if_neg hgo, Dev.sampleAll_one d v hi]
  simp only [ht]

end

/-! ### Snapshots -/

theorem toLE_length (n v : Nat) : (toLE n v).length = n := by
  induction n generalizing v with
  | zero => rfl
  | succ n ih => rw [toLE, List.length_cons, ih]

/-- A telemetry slot: the mark, the times, and every sensor (Table 16-14). -/
def Dev.snapshotBody (d : Dev) : List Nat :=
  toLE 6 d.cad.mark ++ [0, 0] ++ toLE 4 (d.fget glbOpsecSeconds 0) ++ toLE 2 (d.fget glbPwrcycCount 0)
    ++ List.replicate 50 0 ++ (List.range 128).flatMap (fun i => toLE 4 (d.sensorWord i)) ++ List.replicate 448 0

theorem length_flatMap_toLE (n k : Nat) (f : Nat → Nat) : ((List.range n).flatMap fun i => toLE k (f i)).length = n * k := by
  rw [List.length_flatMap]
  simp [toLE_length]

theorem Dev.snapshotBody_length (d : Dev) : d.snapshotBody.length = 1024 := by
  simp only [Dev.snapshotBody, List.length_append, toLE_length, length_flatMap_toLE, List.length_replicate]
  rfl

section
variable {d : Dev} (hp : d.fget thmSnapperMs 0 ≠ 0) (hn : d.fget thmSnapregNsnap 0 ≠ 0) (hh : d.fget thmSnapregHandle 0 ≠ 0)
include hp hn hh

theorem Dev.snapshot_refused (hr : d.plainRegion (d.fget thmSnapregHandle 0) (1024 * d.fget thmSnapregNsnap 0) = false) :
    d.snapshot = d.record 0x0005 pTHM 0 (d.fget thmSnapregHandle 0) 0 0 := by
  unfold Dev.snapshot
  simp [hp, hn, hh, hr]

theorem Dev.snapshot_taken {e : Dev} (hr : d.plainRegion (d.fget thmSnapregHandle 0) (1024 * d.fget thmSnapregNsnap 0) = true)
    (he : d.writeRegion (d.fget thmSnapregHandle 0) (d.fget thmSnapheadCount 0 % d.fget thmSnapregNsnap 0 * 1024)
      d.snapshotBody false = some e) : d.snapshot = e.fwrap thmSnapheadCount 0 := by
  unfold Dev.snapshotBody at he
  unfold Dev.snapshot
  simp only [hp, hn, hh, or_self, if_false, hr, if_true, he]

end

/-- Settles O55. -/
theorem powerAndSensors : Obligations.PowerAndSensors := by
  intro s hw dark trip failing
  refine ⟨fun mv => ⟨fun h => ?_, fun hon hf => ?_⟩, fun i v hon ha hi => ⟨fun hv ho => ?_, fun hj hv ho ht => ?_⟩,
    fun i v hon ht hi => ⟨fun hv => ?_, fun hv => ?_⟩, ⟨fun h => ?_, fun hp hn hh => ⟨fun hr => ?_, fun hr hall => ?_⟩⟩,
    fun h => ?_, fun h => ?_, fun code hon => ?_⟩
  · exact exec_run_same rfl hw (if_neg (Nat.not_lt.mpr h))
  · have hsec : (s.dev.powerFail mv).sec = s.dev.sec :=
      Dev.sec_of_mask (F := 17164088) (by decide) (Dev.powerFail_mask (by decide) ..)
    have dim : ∀ {c : Instr} {f : Mem → Dev → Dev}, exec c s = run f s → f s.mem s.dev = (s.dev.powerFail mv).dark → Answers c s dark :=
      fun he hd => Answers.quiet' he hd ((Dev.powerFail_wout ..).trans hw) ⟨rfl, rfl, rfl, rfl, rfl, rfl,
        (congrArg Sec.fused hsec : (s.dev.powerFail mv).sec.fused = _), rfl⟩
    refine ⟨fun h => ?_, ?_, ?_, fun h => ?_, fun h => ?_⟩
    · exact Answers.quiet' rfl (if_pos h) ((Dev.powerFail_wout ..).trans hw) (Dev.powerFail_spec mv hon hf)
    · exact Answers.quiet' (d' := (s.dev.fset pwrStatPwrfailIn 0 1).powerFail mv) rfl (if_pos hon)
        ((Dev.powerFail_wout ..).trans hw) (Dev.powerFail_spec mv hon hf)
    · exact dim rfl (if_pos hon)
    · exact dim rfl (if_pos ⟨hon, h⟩)
    · exact exec_run_same rfl hw (if_neg fun h' => absurd h'.2 (Nat.not_lt.mpr h))
  · obtain ⟨⟨w, hs⟩, hm⟩ := s.dev.aged.sample_spec i v
    have hquiet : (s.dev.aged.sample i v).tripped = none := Dev.tripped_none fun e he => by
      rw [hs] at he
      rcases SMap.mem_put he with rfl | he
      · exact sampleOvers_below _ hv
      · obtain ⟨x, hx, rfl⟩ := List.mem_map.mp he
        exact ho x hx
    have he := Dev.thmSample_quiet v hon ha hi hquiet
    have hget : ∀ j, (s.dev.aged.sample i v).sensor j = SMap.get .unread j (s.dev.aged.sample i v).sensors := fun _ => rfl
    refine Answers.parts (ok := true) (f := fun _ d => d.thmSample [(i, v)]) [.evr, .sensors] rfl rfl hw ?_ (by decide) fun ho => ?_
    · exact (congrArg (Dev.mask 96) he).trans (hm.trans (Dev.mask_sub (P := 64) (by decide) rfl))
    · simp only [he] at ho ⊢
      simp only [hget, hs]
      refine ⟨by rw [SMap.get_put_same], by rw [SMap.get_put_same], fun j hj => ?_, ho⟩
      rw [SMap.get_put_ne _ _ hj]
      exact (s.dev.aged_sensor j).1
  · obtain ⟨⟨w, hs⟩, hm⟩ := s.dev.aged.sample_spec i v
    have hsix : 2 ≤ sampleOvers i v (s.dev.aged.sensor i).overs := by
      rw [sampleOvers_junction _ hj hv, (s.dev.aged_sensor i).2, ho]
    obtain ⟨j, htrip⟩ := Dev.tripped_isSome hs hsix
    have he := Dev.thmSample_trips v hon ha hi htrip
    have hpwr : (s.dev.aged.sample i v).pwr = s.dev.pwr := Dev.pwr_of_mask (F := 96) (by decide) hm
    have hreg : (s.dev.aged.sample i v).fbit pwrStatTripped 0 = s.dev.fbit pwrStatTripped 0 :=
      congrArg (· == 1) (Dev.fget_of_mask (F := 96) (by decide) hm ..)
    obtain ⟨h1, h2, h3⟩ := Dev.thermalTrip_spec j ((s.dev.aged.sample i v).sensor j).value (by rw [hpwr]; exact hon) (hreg.trans ht)
    rw [← he] at h1 h2 h3
    exact Answers.of_run (f := fun _ d => d.thmSample [(i, v)]) rfl ⟨h1, h2, h3⟩
  · obtain ⟨h1, h2, h3⟩ := Dev.thermalTrip_spec i v hon ht
    have he : s.dev.hardwareTrip i v = s.dev.thermalTrip i v := if_pos ⟨hi, hv⟩
    rw [← he] at h1 h2 h3
    exact Answers.of_run (f := fun _ d => d.hardwareTrip i v) rfl ⟨h1, h2, h3⟩
  · exact exec_run_same rfl hw (if_neg fun h => absurd h.2 (not_le.mpr hv))
  · exact exec_run_same rfl hw (if_pos h)
  · refine Answers.parts (ok := true) (f := fun _ d => d.snapshot) [.evr] rfl rfl hw ?_ (by decide) fun ho => ho
    exact (congrArg (Dev.mask 32) (Dev.snapshot_refused hp hn hh hr)).trans (Dev.record_mask (by decide) ..)
  · have hlt := Nat.mod_lt (s.dev.fget thmSnapheadCount 0) (Nat.pos_of_ne_zero hn)
    obtain ⟨e, he⟩ := Option.isSome_iff_exists.mp (hall (s.dev.fget thmSnapheadCount 0 % s.dev.fget thmSnapregNsnap 0 * 1024)
      s.dev.snapshotBody (by rw [Dev.snapshotBody_length]; omega))
    have hsnap := Dev.snapshot_taken hp hn hh hr he
    refine Answers.of_run (f := fun _ d => d.snapshot) rfl ⟨?_, rfl⟩
    refine (congrArg (fun d : Dev => d.fget thmSnapheadCount 0) hsnap).trans ?_
    refine (Dev.fget_fset_same ..).trans ?_
    rw [(Dev.writeRegion_keeps he).keeps _ _ (by decide) (by decide)]
    rfl
  · have he : s.dev.errorInterval = { s.dev.signal (s.dev.fget hbxErrvecVector 0) with
        evr := { s.dev.evr with errPending := false } } := if_pos h
    refine Answers.parts (ok := true) (f := fun _ d => d.errorInterval) [.evr, .pci] rfl rfl hw
      (Dev.errorInterval_mask (by decide) ..) (by decide) fun ho => ?_
    simp only [he] at ho ⊢
    refine ⟨trivial, fun hb => ?_, fun hb => ?_, ho⟩
    · unfold Dev.signal; rw [if_pos hb]
    · unfold Dev.signal; rw [if_neg (by rw [hb]; exact Bool.false_ne_true)]
  · exact Answers.quiet' rfl (if_neg (by rw [h]; exact Bool.false_ne_true)) hw ⟨rfl, rfl, rfl⟩
  · have he : ∀ r : Reply, s.OnlyParts { s with dev := { s.dev with pci := { s.dev.pci with reply := r } } } [.pci] := fun r =>
      State.onlyParts_of_mask [.pci] rfl
    refine Answers.quiet' (f := fun _ d => d.smbusRead code) rfl (if_neg ?_) hw ⟨rfl, he _⟩
    rw [hon]; exact Bool.false_ne_true

end Sys2Proof.Machine
end


section
/-! PROOFS. Security (chapter 17): what reading an argument does at the dies. -/

namespace Sys2Proof.Machine

/-- A device whose host link is up, with region 1 on stack 0; one check byte of the region's first line has changed. -/
def Dev.withWornRegion : Dev := { State.reset.dev with
  phase := .ready
  bootEvent := 9
  regs := [(secArgregHandle.key 0, 1), (pciLinkstatRate.key 0, 5)]
  units := [(pSTK * 256, { UnitPage.reset with state := .active })]
  deckle := { Deckle.reset with regions := [(1, ⟨.active, false, 1, 0, 4096, 0⟩)] }
  stks := [(0, { Stack.reset with cells := [(0, ⟨0, [(70, 1)], false, List.replicate 64 0⟩)] })]
  pci := { Pcie.reset with perst := false }
  sec := { State.reset.dev.sec with fused := 1, owner := none }
  pwr := { State.reset.dev.pwr with on := true } }

def State.withWornRegion : State := { State.reset with dev := Dev.withWornRegion }

/-- Refutes O58: OWNER_KEY reads its argument at the dies, where a line that it corrects counts (R247), so a refusal can
change more than registers. -/
theorem not_securityCommands : ¬ Obligations.SecurityCommands := by
  intro h
  obtain ⟨hsec, -⟩ := h State.withWornRegion (2 ^ 31 + 3) rfl (by decide +kernel)
  obtain ⟨-, -, howner, -⟩ := hsec (by decide +kernel) (by decide +kernel)
  have harg : State.withWornRegion.dev.secRead State.withWornRegion.mem 97 = some (List.replicate 97 0) := by decide +kernel
  obtain ⟨t, ht, -, ho⟩ := ((howner (by decide +kernel)).2 rfl rfl _ harg).2 (by decide +kernel)
  obtain rfl := exec_runIf_next (ok := true) (f := fun m d => d.host fun d =>
    if bit (2 ^ 31 + 3) 31 && (2 ^ 31 + 3) % 16 == 3 then d.pageWrite m pSEC 0 0x44 (2 ^ 31 + 3) else d) rfl ht
  have hstks := ho.1 .stks (by decide)
  have hcount : ((State.withWornRegion.after fun m d => d.host fun d =>
    if bit (2 ^ 31 + 3) 31 && (2 ^ 31 + 3) % 16 == 3 then d.pageWrite m pSEC 0 0x44 (2 ^ 31 + 3) else d).dev.stack 0).hourCe = 1 := by
    decide +kernel
  rw [Dev.stack, show _ = State.withWornRegion.dev.stks from hstks] at hcount
  exact absurd hcount (by decide +kernel)

end Sys2Proof.Machine
end


section
/-! PROOFS. Host commands (chapter 14): what PROG_LOAD does at the dies. -/

namespace Sys2Proof.Machine

/-- PROG_LOAD of one bundle at the start of region 1 for logical tile 0. -/
def loadCommand : HostCmd :=
  { sq := 0, op := 1, fence := false, quiet := false, cid := 0, error := none
    bytes := [1, 0, 0, 0, 0, 0, 0, 0, 0, 0, 1, 0, 1, 0] ++ List.replicate 50 0 }

/-- A placement of logical tile 0 on tile 0. -/
def onePlacement : Placement := ⟨⟨0, 0, [], [], [], []⟩, [], [], [], [(0, 0)], [], [], []⟩

/-- The device with a worn region, whose ring 0 holds the command. -/
def State.loadWaits : State := { State.reset with dev := { Dev.withWornRegion with
  deckle := { Dev.withWornRegion.deckle with placement := some onePlacement }
  tiles := [(0, { Tile.reset with core := { Core.reset with ltileValid := true } })]
  hbx := { State.reset.dev.hbx with sq := [(0, { Sq.reset with fetched := [loadCommand] })] } } }

/-- Refutes O51: PROG_LOAD reads its image at the dies, where a line that it corrects counts in its stack (R247). -/
theorem not_hostCommands : ¬ Obligations.HostCommands := by
  intro h
  obtain ⟨-, hload, -⟩ := h State.loadWaits 0 0 0 loadCommand [] (by decide) rfl
  have hfront : State.loadWaits.dev.Front 0 1 loadCommand [] := by
    refine ⟨?_, ?_, ?_, ?_, ?_⟩ <;> decide +kernel
  obtain ⟨-, hcar⟩ := hload hfront (by decide +kernel)
  obtain ⟨-, -, hrun⟩ := hcar (by decide +kernel)
  obtain ⟨-, himage⟩ := hrun (by decide +kernel) (by decide +kernel)
  have hread : State.loadWaits.dev.readImage State.loadWaits.mem (loadCommand.f 10 2) (loadCommand.f 16 8) (loadCommand.f 12 2)
      = some [] := by decide +kernel
  obtain ⟨t, ht, -, -, -, -, ho⟩ := himage [] onePlacement hread rfl
  obtain rfl := exec_runIf_next (ok := ringOk 0) (f := fun m d => d.progLoad m 0) rfl ht
  have hstks := ho.1 .stks (by decide)
  have hcount : ((State.loadWaits.after fun m d => d.progLoad m 0).dev.stack 0).hourCe = 1 := by decide +kernel
  rw [Dev.stack, show _ = State.loadWaits.dev.stks from hstks] at hcount
  exact absurd hcount (by decide +kernel)

end Sys2Proof.Machine
end


section
/-! PROOFS. The barriers of SYN (chapter 8). -/

namespace Sys2Proof.Machine

/-! ### Arrivals of a tile -/

theorem Tile.releaseArrival_find {t : Tile} {b : Nat} {a : Arrival} (status : Nat) (h : SMap.find b t.store.arrivals = some a) :
    SMap.find b (t.releaseArrival b status).store.arrivals = some { a with released := some status } := by
  rw [Tile.releaseArrival, h]
  exact SMap.find_insert_same ..

theorem SMap.insert_insert_same {α : Type} (k : Nat) (v w : α) (m : SMap α) :
    SMap.insert k v (SMap.insert k w m) = SMap.insert k v m := by
  induction m with
  | nil => exact SMap.insert_single k v w
  | cons e m ih =>
    obtain ⟨j, u⟩ := e
    simp only [SMap.insert]
    split
    · simp [SMap.insert]
    · split
      · simp [SMap.insert]
      · next hlt hne => simp [SMap.insert, hlt, hne, ih]

theorem Tile.releaseArrival_twice (t : Tile) (b status : Nat) :
    (t.releaseArrival b status).releaseArrival b status = t.releaseArrival b status := by
  cases h : SMap.find b t.store.arrivals with
  | none =>
    have e : t.releaseArrival b status = t := by rw [Tile.releaseArrival, h]
    rw [e, e]
  | some a =>
    have h2 := Tile.releaseArrival_find status h
    have e : t.releaseArrival b status = { t with store := { t.store with
        arrivals := SMap.insert b { a with released := some status } t.store.arrivals } } := by
      rw [Tile.releaseArrival, h]
    rw [Tile.releaseArrival, h2, e]
    simp only [SMap.insert_insert_same]

/-- The same change made to each tile of a list, where making it twice is making it once. -/
theorem Dev.tile_foldl_onTile (d : Dev) (l : List Nat) {f : Tile → Tile} (hf : ∀ t, f (f t) = f t) (q : Nat) :
    (l.foldl (fun d p => d.onTile p f) d).tile q = if q ∈ l then f (d.tile q) else d.tile q := by
  induction l generalizing d with
  | nil => rfl
  | cons p l ih =>
    rw [List.foldl_cons, ih, Dev.onTile]
    by_cases hq : q = p
    · subst hq
      rw [Dev.tile_setTile_same, hf, ite_self, if_pos (List.mem_cons_self ..)]
    · rw [Dev.tile_setTile_ne _ _ hq]
      simp only [List.mem_cons, hq, false_or]

/-- A release of arrivals is a change of the tiles, and of HOSTPEND where the host is one of them. -/
theorem Dev.releaseArrivals_tile (d : Dev) (b status : Nat) (tiles : List Nat) (host : Bool) (q : Nat) :
    (d.releaseArrivals b status tiles host).tile q
      = if q ∈ tiles then (d.tile q).releaseArrival b status else d.tile q := by
  rw [← Dev.tile_foldl_onTile d tiles (f := fun t => t.releaseArrival b status)
    (fun t => Tile.releaseArrival_twice t b status)]
  cases host <;> rfl

theorem Dev.releaseArrivals_bar (d : Dev) (b status : Nat) (tiles : List Nat) (host : Bool) (c : Nat) :
    (d.releaseArrivals b status tiles host).bar c
      = if c = b ∧ host = true then { d.bar b with hostpend := false } else d.bar c := by
  have hb : ∀ c, (tiles.foldl (fun d p => d.onTile p (fun t => t.releaseArrival b status)) d).bar c = d.bar c :=
    fun c => Dev.foldl_keep (fun e : Dev => e.bar c = d.bar c) (fun d p => d.onTile p (fun t => t.releaseArrival b status))
      (fun _ _ he => he) tiles d rfl
  unfold Dev.releaseArrivals
  dsimp only
  cases host
  · simp [hb]
  · by_cases hc : c = b
    · subst hc; simp [hb]
    · simp [Dev.bar_setBar_ne _ _ hc, hb, hc]

/-- What a release leaves of SYN's other state. -/
theorem Dev.releaseArrivals_inflight (d : Dev) (b status : Nat) (tiles : List Nat) (host : Bool) :
    (d.releaseArrivals b status tiles host).syn.inflight = d.syn.inflight
      ∧ (d.releaseArrivals b status tiles host).syn.host = d.syn.host := by
  have hs : (tiles.foldl (fun d p => d.onTile p (fun t => t.releaseArrival b status)) d).syn = d.syn :=
    Dev.foldl_keep (fun e : Dev => e.syn = d.syn) (fun d p => d.onTile p (fun t => t.releaseArrival b status))
      (fun _ _ he => he) tiles d rfl
  unfold Dev.releaseArrivals
  cases host <;> simp [Dev.setBar, hs]

/-! ### A generation completes -/

@[simp] theorem Dev.tile_setBar (d : Dev) (b : Nat) (x : Barrier) (q : Nat) : (d.setBar b x).tile q = d.tile q := rfl

theorem Dev.releaseBar_bar_same (d : Dev) (b : Nat) :
    (d.releaseBar b).bar b = { d.bar b with
      arrived := 0, tiles := [], host := false, hostpend := (d.bar b).hostpend && !(d.bar b).host
      gen := ((d.bar b).gen + 1) % 2 ^ 16 } := by
  rw [Dev.releaseBar, Dev.releaseArrivals_bar]
  cases h : (d.bar b).host <;> simp

theorem Dev.releaseBar_bar_other (d : Dev) {b c : Nat} (h : c ≠ b) : (d.releaseBar b).bar c = d.bar c := by
  rw [Dev.releaseBar, Dev.releaseArrivals_bar, if_neg (fun hc => h hc.1), Dev.bar_setBar_ne _ _ h]

theorem Dev.releaseBar_tile (d : Dev) (b q : Nat) :
    (d.releaseBar b).tile q = if q ∈ (d.bar b).tiles then (d.tile q).releaseArrival b 0 else d.tile q := by
  rw [Dev.releaseBar, Dev.releaseArrivals_tile, Dev.tile_setBar]

theorem Dev.releaseBar_inflight (d : Dev) (b : Nat) :
    (d.releaseBar b).syn.inflight = d.syn.inflight ∧ (d.releaseBar b).syn.host = d.syn.host :=
  Dev.releaseArrivals_inflight ..

/-- The barrier once an arrival is counted. -/
def Barrier.with (x : Barrier) (who : Option Nat) : Barrier :=
  { x with arrived := x.arrived + 1, tiles := x.tiles ++ who.toList, host := x.host || who.isNone }

/-- An arrival at a barrier that is not the phase fence. -/
theorem Dev.countArrival_eq {d : Dev} {b : Nat} (who : Option Nat) (h : d.isFence b = false) :
    d.countArrival b who = if (d.bar b).arrived + 1 < (d.bar b).count then d.setBar b ((d.bar b).with who)
      else (d.setBar b ((d.bar b).with who)).releaseBar b := by
  unfold Dev.countArrival
  simp only [h, Bool.false_eq_true, if_false]
  rfl

theorem Dev.isFence_congr {d e : Dev} (h : e.regs = d.regs) (b : Nat) : e.isFence b = d.isFence b := by
  rw [Dev.isFence, Dev.isFence, Dev.fbit, Dev.fbit, Dev.fget_congr h, Dev.fget_congr h]

/-- Counting an arrival. -/
theorem Dev.countArrival_spec {d : Dev} {b : Nat} (who : Option Nat) (h : d.isFence b = false) :
    (if (d.bar b).arrived + 1 < (d.bar b).count then
      (d.countArrival b who).bar b = (d.bar b).with who ∧ (d.countArrival b who).tiles = d.tiles
    else
      (d.countArrival b who).bar b = { d.bar b with
        arrived := 0, tiles := [], host := false, hostpend := (d.bar b).hostpend && !((d.bar b).host || who.isNone)
        gen := ((d.bar b).gen + 1) % 2 ^ 16 }
      ∧ ∀ q, (d.countArrival b who).tile q
          = if q ∈ (d.bar b).tiles ++ who.toList then (d.tile q).releaseArrival b 0 else d.tile q)
    ∧ (∀ c, c ≠ b → (d.countArrival b who).bar c = d.bar c)
    ∧ (d.countArrival b who).syn.inflight = d.syn.inflight ∧ (d.countArrival b who).syn.host = d.syn.host := by
  rw [Dev.countArrival_eq who h]
  split
  · exact ⟨⟨Dev.bar_setBar_same .., rfl⟩, fun c hc => Dev.bar_setBar_ne _ _ hc, rfl, rfl⟩
  · refine ⟨⟨?_, fun q => ?_⟩, fun c hc => ?_, Dev.releaseBar_inflight ..⟩
    · rw [Dev.releaseBar_bar_same, Dev.bar_setBar_same]; rfl
    · rw [Dev.releaseBar_tile, Dev.bar_setBar_same]; rfl
    · rw [Dev.releaseBar_bar_other _ hc, Dev.bar_setBar_ne _ _ hc]

/-- Counting an arrival in a device whose tiles and barriers are those of `d`. -/
theorem Dev.countArrival_counted {d e : Dev} {b : Nat} (who : Option Nat) (ht : e.tiles = d.tiles)
    (hx : e.syn.bars = d.syn.bars) (h : e.isFence b = false) :
    if (d.bar b).arrived + 1 < (d.bar b).count then
      (e.countArrival b who).bar b = (d.bar b).with who ∧ (e.countArrival b who).tiles = d.tiles
    else
      (e.countArrival b who).bar b = { d.bar b with
        arrived := 0, tiles := [], host := false, hostpend := (d.bar b).hostpend && !((d.bar b).host || who.isNone)
        gen := ((d.bar b).gen + 1) % 2 ^ 16 }
      ∧ (∀ q ∈ (d.bar b).tiles ++ who.toList, ∀ a, SMap.find b (d.tile q).store.arrivals = some a →
          SMap.find b ((e.countArrival b who).tile q).store.arrivals = some { a with released := some 0 })
      ∧ ∀ q, q ∉ (d.bar b).tiles ++ who.toList → (e.countArrival b who).tile q = d.tile q := by
  have hbar : e.bar b = d.bar b := congrArg (SMap.get Barrier.reset b) hx
  have htile : ∀ q, e.tile q = d.tile q := fun q => congrArg (SMap.get Tile.reset q) ht
  obtain ⟨hspec, -⟩ := Dev.countArrival_spec who h
  rw [hbar] at hspec
  split
  next hlt =>
    rw [if_pos hlt] at hspec
    exact ⟨hspec.1, hspec.2.trans ht⟩
  next hlt =>
    rw [if_neg hlt] at hspec
    obtain ⟨hb, hq⟩ := hspec
    refine ⟨hb, fun q hin a ha => ?_, fun q hout => ?_⟩
    · rw [hq, if_pos hin, htile]; exact Tile.releaseArrival_find 0 ha
    · rw [hq, if_neg hout, htile]

/-! ### The parts that an arrival changes -/

theorem Dev.countArrival_parts {d : Dev} {b : Nat} (who : Option Nat) (h : d.isFence b = false) :
    (d.countArrival b who).mask 65792 = d.mask 65792 := by
  rw [Dev.countArrival_eq who h]
  split <;> simp

theorem Dev.tile_releaseArrival_freed {d e : Dev} {b st q : Nat} (h : e.tile q = (d.tile q).releaseArrival b st) :
    ∀ a, SMap.find b (d.tile q).store.arrivals = some a →
      SMap.find b (e.tile q).store.arrivals = some { a with released := some st } := fun a ha => by
  rw [h]; exact Tile.releaseArrival_find st ha

theorem Dev.tile_onTile_same (d : Dev) (p : Nat) (f : Tile → Tile) : (d.onTile p f).tile p = f (d.tile p) :=
  Dev.tile_setTile_same ..

theorem Dev.tile_onTile_ne (d : Dev) {p q : Nat} (f : Tile → Tile) (h : q ≠ p) : (d.onTile p f).tile q = d.tile q :=
  Dev.tile_setTile_ne _ _ h

/-! ### The commands -/

/-- SYN without an arrival that was on its way. -/
def Dev.received (d : Dev) (e : Nat × Nat) : Dev := { d with syn := { d.syn with inflight := d.syn.inflight.erase e } }

/-- SYN without a host arrival that was not counted. -/
def Dev.hostCounted (d : Dev) (b : Nat) : Dev := { d with syn := { d.syn with host := d.syn.host.erase b } }

theorem Dev.barArrival_eq {d : Dev} {p b : Nat} (h : (p, b) ∈ d.syn.inflight) :
    d.barArrival p b = if (d.bar b).count = 0 then (d.received (p, b)).onTile p (fun t => t.releaseArrival b 2)
      else if (d.bar b).broken then (d.received (p, b)).onTile p (fun t => t.releaseArrival b 1)
      else (d.received (p, b)).countArrival b (some p) := by
  unfold Dev.barArrival
  simp only [List.contains_iff_mem.mpr h, Bool.not_true, Bool.false_eq_true, if_false]
  rfl

theorem Dev.hostArrivalCount_eq {d : Dev} {b : Nat} (h : b ∈ d.syn.host) :
    d.hostArrivalCount b = if (d.bar b).count = 0 ∨ (d.bar b).broken then
        (d.hostCounted b).setBar b { d.bar b with hostpend := false }
      else (d.hostCounted b).countArrival b none := by
  unfold Dev.hostArrivalCount
  simp only [List.contains_iff_mem.mpr h, Bool.not_true, Bool.false_eq_true, if_false]
  rfl

theorem Dev.received_fence (d : Dev) (e : Nat × Nat) (b : Nat) : (d.received e).isFence b = d.isFence b := rfl
theorem Dev.hostCounted_fence (d : Dev) (c b : Nat) : (d.hostCounted c).isFence b = d.isFence b := rfl

theorem Dev.barArrival_parts {d : Dev} {p b : Nat} (h : d.isFence b = false) :
    (d.barArrival p b).mask 65792 = d.mask 65792 := by
  unfold Dev.barArrival
  have hc := Dev.countArrival_parts (d := d.received (p, b)) (some p) h
  dsimp only
  split
  · rfl
  · split
    · simp
    · split
      · simp
      · exact hc.trans (Dev.mask_syn (by decide) ..)

theorem Dev.hostArrivalCount_parts {d : Dev} {b : Nat} (h : d.isFence b = false) :
    (d.hostArrivalCount b).mask 65792 = d.mask 65792 := by
  unfold Dev.hostArrivalCount
  have hc := Dev.countArrival_parts (d := d.hostCounted b) none h
  dsimp only
  split
  · rfl
  · split
    · simp
    · exact hc.trans (Dev.mask_syn (by decide) ..)

theorem Dev.pageWrite_syn (d : Dev) (m : Mem) {off : Nat} (v : Nat) (ho : 0x40 ≤ off) (hb : d.blockOpen pSYN 0 = true) :
    d.pageWrite m pSYN 0 off v = d.blockWrite m pSYN 0 off v :=
  Dev.pageWrite_block d m v (Dev.pageReset_other d rfl) ho hb

/-- The tile has sent its arrival. -/
def Tile.sendArrival (b : Nat) (a : Arrival) (t : Tile) : Tile :=
  { t with store := { t.store with arrivals := SMap.insert b { a with sent := true } t.store.arrivals } }

theorem Dev.barArriveSend_ready {d : Dev} {p b : Nat} {a : Arrival} (ha : SMap.find b (d.tile p).store.arrivals = some a)
    (hs : a.sent = false) (hr : a.released = none) (hf : d.fenceDone p a.seq = true) :
    d.barArriveSend p b = { d.onTile p (Tile.sendArrival b a) with
      syn := { d.syn with inflight := d.syn.inflight ++ [(p, b)] } } := by
  obtain ⟨seq, sent, released⟩ := a
  dsimp only at hs hr hf
  subst hs hr
  rw [Dev.barArriveSend, ha]
  simp only [hf]
  rfl

theorem Dev.barArriveSend_waits {d : Dev} {p b : Nat} {a : Arrival} (ha : SMap.find b (d.tile p).store.arrivals = some a)
    (hf : d.fenceDone p a.seq = false) : d.barArriveSend p b = d := by
  rw [Dev.barArriveSend, ha]
  simp only [hf, Bool.not_false, Bool.or_true, if_true]

theorem Dev.badAccess_sets_valid (d : Dev) (off source barrier : Nat) (resv partial_ write : Bool) :
    (d.badAccess off source barrier resv partial_ write).fget glbBadaccValid 0 = 1 := by
  by_cases h : d.fget glbBadaccValid 0 = 1
  · rwa [Dev.badAccess_of_valid h]
  · rw [Dev.badAccess, if_neg (fun hb => h (Dev.fbit_iff.mp hb))]
    simp (disch := decide) only [Dev.fget_record, Dev.fget_fset_place, Dev.fget_fset_same]
    rfl

theorem Dev.hostArrive_first {d : Dev} {v : Nat} (h : (d.bar (v % 256)).hostpend = false) :
    d.hostArrive v = { d.setBar (v % 256) { d.bar (v % 256) with hostpend := true } with
      syn := { (d.setBar (v % 256) { d.bar (v % 256) with hostpend := true }).syn with
        host := d.syn.host ++ [v % 256] } } := by
  unfold Dev.hostArrive
  simp only [h]
  rfl

theorem Dev.hostArrive_again {d : Dev} {v : Nat} (h : (d.bar (v % 256)).hostpend = true) :
    d.hostArrive v = d.badAccess 0xE0004C 2 (v % 256) false false true := by
  unfold Dev.hostArrive
  simp only [h, if_true]

/-- Settles O25: an arrival is counted (`Dev.countArrival_spec`) or released at once. -/
theorem barrierGenerations : Obligations.BarrierGenerations := by
  intro s p b v hp hb hv hw hfence
  have hpb : (tileOk p && barOk b) = true := by simp [tileOk, barOk, hp, hb]
  refine ⟨fun a ha hs hr => ⟨fun hf => ?_, fun hf => runIf_same hpb hw (Dev.barArriveSend_waits ha hf)⟩, fun hin => ?_,
    fun hin => ?_, fun hans hopen => ⟨fun hh => ?_, fun hh => ?_⟩⟩
  · refine Answers.parts [.tiles, .syn] (f := fun _ d => d.barArriveSend p b) rfl hpb hw
      (Dev.barArriveSend_mask (by decide) ..) (by decide) fun ho => ?_
    dsimp only at ho ⊢
    rw [Dev.barArriveSend_ready ha hs hr hf] at ho ⊢
    refine ⟨?_, rfl, rfl, ?_, fun q hq => Dev.tile_setTile_ne _ _ hq, ho⟩
    · refine (congrArg (fun t => SMap.find b (Tile.store t).arrivals)
        (Dev.tile_onTile_same s.dev p (Tile.sendArrival b a))).trans (SMap.find_insert_same ..)
    · have hcore : (Tile.sendArrival b a (s.dev.tile p)).core = (s.dev.tile p).core := rfl
      exact Eq.trans (congrArg Tile.core (Dev.tile_onTile_same s.dev p (Tile.sendArrival b a))) hcore
  · refine Answers.parts [.tiles, .syn] (f := fun _ d => d.barArrival p b) rfl hpb hw
      (Dev.barArrival_parts hfence) (by decide) fun ho => ?_
    dsimp only at ho ⊢
    rw [Dev.barArrival_eq hin] at ho ⊢
    obtain ⟨hcount, hother, hinfl, -⟩ := Dev.countArrival_spec (d := s.dev.received (p, b)) (some p) hfence
    split
    next h0 =>
      refine ⟨rfl, fun _ _ => rfl, fun _ => ⟨?_, rfl⟩, fun h => absurd h0 h, fun h => absurd h0 h, ?_⟩
      · exact Dev.tile_releaseArrival_freed (d := s.dev) (Dev.tile_onTile_same (s.dev.received (p, b)) p _)
      · rwa [if_pos h0] at ho
    next h0 =>
      split
      next hbr =>
        refine ⟨rfl, fun _ _ => rfl, fun h => absurd h h0, fun _ _ => ⟨?_, rfl⟩,
          fun _ h => absurd (hbr.symm.trans h) (by decide), ?_⟩
        · exact Dev.tile_releaseArrival_freed (d := s.dev) (Dev.tile_onTile_same (s.dev.received (p, b)) p _)
        · rwa [if_neg h0, if_pos hbr] at ho
      next hbr =>
        refine ⟨hinfl, hother, fun h => absurd h h0, fun _ h => absurd h hbr, fun _ _ => ?_, ?_⟩
        · exact Dev.countArrival_counted (d := s.dev) (e := s.dev.received (p, b)) (some p) rfl rfl hfence
        · rwa [if_neg h0, if_neg hbr] at ho
  · refine Answers.parts [.tiles, .syn] (f := fun _ d => d.hostArrivalCount b) rfl (decide_eq_true hb) hw
      (Dev.hostArrivalCount_parts hfence) (by decide) fun ho => ?_
    dsimp only at ho ⊢
    rw [Dev.hostArrivalCount_eq hin] at ho ⊢
    obtain ⟨-, hother, -, hhost⟩ := Dev.countArrival_spec (d := s.dev.hostCounted b) none hfence
    split
    next h0 =>
      refine ⟨rfl, fun c hc => Dev.bar_setBar_ne _ _ hc, fun _ => ⟨Dev.bar_setBar_same .., rfl⟩, fun hc hbr => ?_, ?_⟩
      · exact absurd h0 (not_or.mpr ⟨hc, by rw [hbr]; decide⟩)
      · rwa [if_pos h0] at ho
    next h0 =>
      refine ⟨hhost, hother, fun h => absurd h h0, fun _ _ => ?_, ?_⟩
      · exact Dev.countArrival_counted (d := s.dev) (e := s.dev.hostCounted b) none rfl rfl hfence
      · rwa [if_neg h0] at ho
  · subst hv
    have hg := (Dev.pageWrite_syn s.dev s.mem v (off := 0x4C) (by decide) hopen).trans (Dev.hostArrive_first hh)
    refine Answers.access' rfl hans hg hw ⟨?_, fun c hc => ?_, rfl, ?_⟩
    · exact Dev.bar_setBar_same ..
    · exact Dev.bar_setBar_ne _ _ hc
    · refine State.onlyParts_of_mask [.syn] ?_
      rfl
  · subst hv
    have hg := (Dev.pageWrite_syn s.dev s.mem v (off := 0x4C) (by decide) hopen).trans (Dev.hostArrive_again hh)
    refine Answers.access' rfl hans hg ((Dev.badAccess_wout ..).trans hw) ⟨Dev.badAccess_sets_valid .., ?_⟩
    exact State.onlyParts_of_mask [.regs, .evr] (Dev.badAccess_mask (by decide) ..)

/-! ### A barrier breaks -/

theorem Dev.breakBar_tiles (d : Dev) (b cause : Nat) :
    (d.breakBar b cause).tiles = (d.releaseArrivals b 1 (d.waitingAt b) false).tiles := by
  unfold Dev.breakBar
  dsimp only
  rw [Dev.tiles_of_mask (F := 32) (by decide) (Dev.record_mask (by decide) ..)]
  split <;> split <;> rfl

theorem Dev.breakBar_syn (d : Dev) (b cause : Nat) :
    (d.breakBar b cause).syn = { d.syn with
      bars := SMap.put .reset b { d.bar b with
        arrived := 0, tiles := [], host := false, held := [], hostpend := false, broken := true } d.syn.bars
      host := d.syn.host.filter (fun h => h != b), inflight := d.syn.inflight.filter (fun e => e.2 != b) } := by
  have hs : (d.releaseArrivals b 1 (d.waitingAt b) false).syn = d.syn :=
    Dev.foldl_keep (fun e : Dev => e.syn = d.syn) (fun d p => d.onTile p (fun t => t.releaseArrival b 1))
      (fun _ _ he => he) _ d rfl
  unfold Dev.breakBar
  dsimp only
  rw [Dev.syn_of_mask (F := 32) (by decide) (Dev.record_mask (by decide) ..)]
  split <;> split <;> simp only [Dev.setBar, Dev.bar, hs]

theorem Dev.breakBar_raised {d : Dev} (b cause : Nat) (h : d.evr.closed = false) :
    (d.breakBar b cause).evr.raised = d.evr.raised ++ [⟨0x5004, pSYN, 0, b, (d.bar b).arrived, cause, false⟩] := by
  have he : (d.releaseArrivals b 1 (d.waitingAt b) false).evr = d.evr :=
    Dev.evr_of_mask (F := 65792) (by decide) (Dev.releaseArrivals_mask (by decide) ..)
  unfold Dev.breakBar
  dsimp only
  split <;> split <;> simp [Dev.record_raised, Dev.setBar, he, h]

/-- A barrier breaks. -/
theorem Dev.breakBar_spec (d : Dev) (b cause : Nat) :
    (d.breakBar b cause).bar b = { d.bar b with
        arrived := 0, tiles := [], host := false, held := [], hostpend := false, broken := true }
    ∧ (∀ q, (d.breakBar b cause).tile q = if q ∈ d.waitingAt b then (d.tile q).releaseArrival b 1 else d.tile q)
    ∧ ∀ c, c ≠ b → (d.breakBar b cause).bar c = d.bar c := by
  have hs := congrArg Syn.bars (Dev.breakBar_syn d b cause)
  refine ⟨?_, fun q => ?_, fun c hc => ?_⟩
  · exact (congrArg (SMap.get Barrier.reset b) hs).trans (SMap.get_put_same ..)
  · exact (congrArg (SMap.get Tile.reset q) (Dev.breakBar_tiles d b cause)).trans (Dev.releaseArrivals_tile ..)
  · exact (congrArg (SMap.get Barrier.reset c) hs).trans (SMap.get_put_ne _ _ hc ..)

/-- What every break does, whatever COUNT and BROKEN are set to after it. -/
def Dev.Broke (d e : Dev) (b cause : Nat) : Prop :=
  (∀ q ∈ d.waitingAt b, ∀ a, SMap.find b (d.tile q).store.arrivals = some a →
    SMap.find b (e.tile q).store.arrivals = some { a with released := some 1 })
  ∧ (∀ q, q ∉ d.waitingAt b → e.tile q = d.tile q) ∧ (∀ c, c ≠ b → e.bar c = d.bar c)
  ∧ e.syn.inflight = d.syn.inflight.filter (fun e => e.2 != b)
  ∧ e.syn.host = d.syn.host.filter (fun h => h != b)
  ∧ (d.evr.closed = false → e.evr.raised = d.evr.raised ++ [⟨0x5004, pSYN, 0, b, (d.bar b).arrived, cause, false⟩])

theorem Dev.breakBar_broke (d : Dev) (b cause : Nat) : d.Broke (d.breakBar b cause) b cause := by
  obtain ⟨-, htile, hbar⟩ := Dev.breakBar_spec d b cause
  have hs := Dev.breakBar_syn d b cause
  refine ⟨fun q hq a ha => ?_, fun q hq => ?_, hbar, congrArg Syn.inflight hs, congrArg Syn.host hs,
    Dev.breakBar_raised b cause⟩
  · rw [htile, if_pos hq]; exact Tile.releaseArrival_find 1 ha
  · rw [htile, if_neg hq]

/-- Another value for the broken barrier leaves the rest. -/
theorem Dev.Broke.setBar {d e : Dev} {b cause : Nat} (h : d.Broke e b cause) (x : Barrier) :
    d.Broke (e.setBar b x) b cause := by
  obtain ⟨hin, hout, hbar, hrest⟩ := h
  exact ⟨hin, hout, fun c hc => (Dev.bar_setBar_ne _ _ hc).trans (hbar c hc), hrest⟩

/-- Settles O26: each way a barrier breaks is `Dev.breakBar`, with COUNT or BROKEN set afterwards. -/
theorem barriersBreak : Obligations.BarriersBreak := by
  intro s b v hb hw
  have hbreak : ∀ cause, (s.dev.breakBar b cause).bar b = _ := fun cause => (Dev.breakBar_spec s.dev b cause).1
  refine ⟨⟨fun h => ?_, fun ht hx => ?_⟩, fun hsel hans hopen => ⟨fun hx => ?_, fun hx => ?_, fun hv => ?_⟩⟩
  · refine runIf_same (decide_eq_true hb) hw ?_
    rw [Dev.barTimeout, if_neg (fun hc => h.elim hc.1 hc.2)]
  · refine Answers.parts [.tiles, .syn, .stp, .evr, .deckle] (f := fun _ d => d.barTimeout b) rfl (decide_eq_true hb) hw
      (Dev.barTimeout_mask (by decide) ..) (by decide) fun ho => ?_
    dsimp only at ho ⊢
    rw [Dev.barTimeout, if_pos ⟨ht, hx⟩] at ho ⊢
    obtain ⟨h1, h2, h3, h4, h5, h6⟩ := Dev.breakBar_broke s.dev b 0
    exact ⟨hbreak 0, h1, h2, h3, h4, h5, h6, ho⟩
  · have hg := Dev.pageWrite_syn s.dev s.mem v (off := 0x44) (by decide) hopen
    have hc : s.dev.barConfigure v = s.dev.setBar b { s.dev.bar b with count := min 65 (v % 128) } := by
      unfold Dev.barConfigure
      simp only [hsel, hx, ne_eq, not_true_eq_false, if_false]
    refine Answers.access' rfl hans (hg.trans hc) hw ⟨Dev.bar_setBar_same .., fun c hc => Dev.bar_setBar_ne _ _ hc, ?_⟩
    exact State.onlyParts_of_mask [.syn] (Dev.setBar_mask (by decide) ..)
  · have hg := Dev.pageWrite_syn s.dev s.mem v (off := 0x44) (by decide) hopen
    have hc : s.dev.barConfigure v = (s.dev.breakBar b 1).setBar b
        { (s.dev.breakBar b 1).bar b with count := min 65 (v % 128) } := by
      unfold Dev.barConfigure
      simp only [hsel, hx, ne_eq, not_false_eq_true, if_true]
    refine Answers.hostParts [.tiles, .syn, .stp, .evr, .deckle] (g := fun m d => d.pageWrite m pSYN 0 0x44 v) (ok := true)
      rfl rfl hans hw ((congrArg (Dev.mask _) hg).trans (Dev.barConfigure_mask (by decide) ..)) (by decide) fun ho => ?_
    dsimp only at ho ⊢
    rw [hg.trans hc] at ho ⊢
    obtain ⟨h1, h2, h3, h4, h5, h6⟩ := (Dev.breakBar_broke s.dev b 1).setBar
      { (s.dev.breakBar b 1).bar b with count := min 65 (v % 128) }
    exact ⟨(Dev.bar_setBar_same ..).trans (by rw [hbreak 1]), h1, h2, h3, h4, h5, h6, ho⟩
  · have hg := Dev.pageWrite_syn s.dev s.mem v (off := 0x54) (by decide) hopen
    have hbit : bit v 0 = true := by rw [bit]; simp [hv]
    have hc : s.dev.barReset v = (s.dev.breakBar b 2).setBar b { (s.dev.breakBar b 2).bar b with broken := false } := by
      unfold Dev.barReset
      simp only [hsel, hbit, Bool.not_true, Bool.false_eq_true, if_false]
    refine Answers.hostParts [.tiles, .syn, .stp, .evr, .deckle]
      (g := fun m d => if bit v 0 then d.pageWrite m pSYN 0 0x54 v else d) (ok := true) rfl rfl hans hw
      (by simp only [hbit, if_true]; exact (congrArg (Dev.mask _) hg).trans (Dev.barReset_mask (by decide) ..)) (by decide)
      fun ho => ?_
    simp only [hbit, if_true] at ho ⊢
    rw [hg.trans hc] at ho ⊢
    obtain ⟨h1, h2, h3, h4, h5, h6⟩ := (Dev.breakBar_broke s.dev b 2).setBar
      { (s.dev.breakBar b 2).bar b with broken := false }
    exact ⟨(Dev.bar_setBar_same ..).trans (by rw [hbreak 2]), h1, h2, h3, h4, h5, h6, ho⟩

end Sys2Proof.Machine
end


section
/-! PROOFS. The host's rings: doorbells, command fetch and completions (chapter 14). -/

namespace Sys2Proof.Machine

/-! ### A command completes -/

theorem Dev.dropCompletions_hbx (d : Dev) (n : Nat) : (d.dropCompletions n).hbx = d.hbx :=
  Dev.hbx_of_mask (F := 40) (by decide) (Dev.dropCompletions_mask (by decide) ..)

theorem Dev.postCq_sq (d : Dev) (q : Nat) (e : CqEntry) : (d.postCq q e).hbx.sq = d.hbx.sq := by
  unfold Dev.postCq
  split
  · rfl
  · exact congrArg Hbx.sq (d.dropCompletions_hbx 1)

theorem Dev.fget_dropCompletions (d : Dev) (n : Nat) {g : Field} (j : Nat)
    (h : g.place < 2 ^ 23 ∧ g.place ≠ hbxUcdropCount.place) : (d.dropCompletions n).fget g j = d.fget g j := by
  unfold Dev.dropCompletions
  split
  · rfl
  · rw [Dev.fget_record, Dev.fget_fcount_place _ _ _ _ ⟨by decide, h⟩]

theorem Dev.fget_postCq (d : Dev) (q : Nat) (e : CqEntry) {g : Field} (j : Nat)
    (h : g.place < 2 ^ 23 ∧ g.place ≠ hbxUcdropCount.place) : (d.postCq q e).fget g j = d.fget g j := by
  unfold Dev.postCq
  split
  · rfl
  · exact Dev.fget_dropCompletions d 1 j h

/-- An entry waits for an enabled CQ. -/
theorem Dev.postCq_enabled {d : Dev} {q : Nat} (e : CqEntry) (h : d.fget hbxCqcfgEn q = 1) :
    ((d.postCq q e).cq q).waiting = (d.cq q).waiting ++ [e] ∧ ∀ j, j ≠ q → (d.postCq q e).cq j = d.cq j := by
  rw [Dev.postCq, if_pos (Dev.fbit_iff.mpr h)]
  exact ⟨congrArg Cq.waiting (Dev.cq_setCq_same ..), fun j hj => Dev.cq_setCq_ne _ _ hj⟩

/-- The command has left those that have started, and HBX.BADCMD has counted a status other than OK. -/
def Dev.ended (d : Dev) (c : HostCmd) (status : Nat) : Dev :=
  let d := d.setSq c.sq { d.sq c.sq with started := (d.sq c.sq).started.erase c }
  if status = 0 then d else d.fcount hbxBadcmdCount 0 1

theorem Dev.complete_eq (d : Dev) (c : HostCmd) (status p0 p1 : Nat) :
    d.complete c status p0 p1 = if c.quiet && status == 0 then d.ended c status
      else (d.ended c status).postCq ((d.ended c status).fget hbxSqcfgCq c.sq) ⟨c.cid, c.sq, 0, status, p0, p1, 0⟩ := rfl

theorem Dev.ended_hbx (d : Dev) (c : HostCmd) (status : Nat) :
    (d.ended c status).hbx = (d.setSq c.sq { d.sq c.sq with started := (d.sq c.sq).started.erase c }).hbx := by
  unfold Dev.ended
  dsimp only
  split <;> rfl

theorem Dev.fget_ended (d : Dev) (c : HostCmd) (status : Nat) {g : Field} (j : Nat)
    (h : g.place < 2 ^ 23 ∧ g.place ≠ hbxBadcmdCount.place) : (d.ended c status).fget g j = d.fget g j := by
  unfold Dev.ended
  dsimp only
  split
  · rfl
  · exact Dev.fget_fcount_place _ _ _ _ ⟨by decide, h⟩

theorem Dev.fget_ended_badcmd (d : Dev) (c : HostCmd) (status : Nat) :
    (d.ended c status).fget hbxBadcmdCount 0 = if status = 0 then d.fget hbxBadcmdCount 0
      else satAdd (2 ^ 32 - 1) (d.fget hbxBadcmdCount 0) 1 := by
  unfold Dev.ended
  dsimp only
  split
  · rfl
  · exact Dev.fget_fcount_sat ..

/-- What a completion leaves of the submission rings. -/
theorem Dev.complete_sq (d : Dev) (c : HostCmd) (status p0 p1 : Nat) :
    (d.complete c status p0 p1).sq c.sq = { d.sq c.sq with started := (d.sq c.sq).started.erase c }
    ∧ ∀ r, r ≠ c.sq → (d.complete c status p0 p1).sq r = d.sq r := by
  have h : (d.complete c status p0 p1).hbx.sq
      = (d.setSq c.sq { d.sq c.sq with started := (d.sq c.sq).started.erase c }).hbx.sq := by
    rw [Dev.complete_eq]
    split
    · rw [Dev.ended_hbx]
    · rw [Dev.postCq_sq, Dev.ended_hbx]
  refine ⟨?_, fun r hr => ?_⟩
  · exact (congrArg (SMap.get Sq.reset c.sq) h).trans (Dev.sq_setSq_same ..)
  · exact (congrArg (SMap.get Sq.reset r) h).trans (Dev.sq_setSq_ne _ _ hr)

/-- A completion posts its entry, as `Dev.Posts` says it. -/
theorem Dev.complete_posts (d : Dev) (c : HostCmd) (status p0 p1 : Nat) :
    d.Posts (d.complete c status p0 p1) c.sq c status p0 p1 := by
  have hcq : ∀ j, (d.ended c status).cq j = d.cq j := fun j =>
    (congrArg (fun x => SMap.get Cq.reset j (Hbx.cq x)) (d.ended_hbx c status)).trans rfl
  have hk := d.fget_ended c status c.sq (g := hbxSqcfgCq) (by decide)
  refine ⟨?_, fun hq hs => ?_, fun hq hen => ?_⟩
  · rw [← d.fget_ended_badcmd c status, Dev.complete_eq]
    split
    · rfl
    · exact Dev.fget_postCq _ _ _ 0 (by decide)
  · rw [Dev.complete_eq, if_pos (by simp [hq, hs])]
    exact (congrArg Hbx.cq (d.ended_hbx c status)).trans rfl
  · have hn : ¬ (c.quiet && status == 0) = true := by
      rcases hq with hq | hq <;> simp [hq]
    rw [Dev.complete_eq, if_neg hn, hk]
    have hen' : (d.ended c status).fget hbxCqcfgEn (d.fget hbxSqcfgCq c.sq) = 1 :=
      (d.fget_ended c status _ (by decide)).trans hen
    obtain ⟨hw, ho⟩ := Dev.postCq_enabled ⟨c.cid, c.sq, 0, status, p0, p1, 0⟩ hen'
    exact ⟨hw.trans (by rw [hcq]), fun j hj => (ho j hj).trans (hcq j)⟩

/-- Posting depends on HBX's fields and rings alone. -/
theorem Dev.Posts.congr {d d' e : Dev} {q : Nat} {c : HostCmd} {status p0 p1 : Nat} (h : d'.Posts e q c status p0 p1)
    (hq : d'.fget hbxSqcfgCq q = d.fget hbxSqcfgCq q) (hn : d'.fget hbxBadcmdCount 0 = d.fget hbxBadcmdCount 0)
    (he : d'.fget hbxCqcfgEn (d.fget hbxSqcfgCq q) = d.fget hbxCqcfgEn (d.fget hbxSqcfgCq q))
    (hc : d'.hbx.cq = d.hbx.cq) : d.Posts e q c status p0 p1 := by
  have hcq : ∀ j, d'.cq j = d.cq j := fun j => congrArg (SMap.get Cq.reset j) hc
  obtain ⟨h1, h2, h3⟩ := h
  rw [hq, he] at h3
  refine ⟨?_, fun a b => (h2 a b).trans hc, fun a b => ?_⟩
  · rw [h1, hn]
  · obtain ⟨hw, ho⟩ := h3 a b
    exact ⟨by rw [hw, hcq], fun j hj => (ho j hj).trans (hcq j)⟩

/-! ### A command starts -/

/-- The command at the front of its ring has started. -/
def Dev.begun (d : Dev) (q : Nat) (c : HostCmd) (rest : List HostCmd) : Dev :=
  d.setSq q { d.sq q with fetched := rest, started := (d.sq q).started ++ [c] }

theorem Dev.settleSq_front {d : Dev} {q op : Nat} {c : HostCmd} {rest : List HostCmd} (h : d.Front q op c rest) (n : Nat) :
    d.settleSq q n = d := by
  obtain ⟨hf, -, -, hm, hr⟩ := h
  cases n with
  | zero => rfl
  | succ n =>
    rw [Dev.settleSq, hf]
    simp only [hm, hr, if_true]

/-- The unit performs the command at the front of its ring. -/
theorem Dev.startCmd_front {d : Dev} {q op : Nat} {c : HostCmd} {rest : List HostCmd} (h : d.Front q op c rest)
    (f : Dev → HostCmd → Dev) : d.startCmd q op f = f (d.begun q c rest) c := by
  unfold Dev.startCmd
  rw [Dev.settleSq_front h]
  obtain ⟨hf, -, ho, hm, hr⟩ := h
  simp only [hf, ho, hm, hr, Option.isNone_none, and_self, if_true]
  rfl

/-- A command that has begun completes, after whatever its unit did that leaves the rings and their fields alone. -/
theorem Dev.completes_of_fields {d e : Dev} {q op : Nat} {c : HostCmd} {rest : List HostCmd} (h : d.Front q op c rest)
    (hh : e.hbx = (d.begun q c rest).hbx)
    (hr : ∀ g : Field, g ∈ [hbxSqcfgCq, hbxBadcmdCount, hbxCqcfgEn] → ∀ j, e.fget g j = d.fget g j)
    (status p0 p1 : Nat) : d.Completes (e.complete c status p0 p1) q c rest status p0 p1 := by
  obtain ⟨-, rfl, -, -, -⟩ := h
  have hsq : ∀ r, e.sq r = (d.begun c.sq c rest).sq r := fun r => congrArg (fun x => SMap.get Sq.reset r (Hbx.sq x)) hh
  have hb : (d.begun c.sq c rest).sq c.sq = _ := Dev.sq_setSq_same ..
  obtain ⟨hs, ho⟩ := Dev.complete_sq e c status p0 p1
  rw [hsq, hb] at hs
  have hp : ((d.sq c.sq).started ++ [c]).erase c |>.Perm (d.sq c.sq).started := by
    have hx : ((d.sq c.sq).started ++ [c]).Perm (c :: (d.sq c.sq).started) := List.perm_append_singleton ..
    have := hx.erase c
    rwa [List.erase_cons_head] at this
  refine ⟨congrArg Sq.fetched hs, ?_, (congrArg Sq.head hs).trans rfl, (congrArg Sq.tail hs).trans rfl, fun r hr => ?_, ?_⟩
  · rw [congrArg Sq.started hs]; exact hp
  · exact (ho r hr).trans ((hsq r).trans (Dev.sq_setSq_ne _ _ hr))
  · exact (Dev.complete_posts e c status p0 p1).congr (hr _ (by simp) _) (hr _ (by simp) _) (hr _ (by simp) _)
      ((congrArg Hbx.cq hh).trans rfl)

/-- The same of a unit that leaves every field of HBX alone. -/
theorem Dev.completes_of {d e : Dev} {q op : Nat} {c : HostCmd} {rest : List HostCmd} (h : d.Front q op c rest)
    (hh : e.hbx = (d.begun q c rest).hbx) (hr : ∀ g : Field, g.cls = pHBX → ∀ j, e.fget g j = d.fget g j)
    (status p0 p1 : Nat) : d.Completes (e.complete c status p0 p1) q c rest status p0 p1 := by
  refine Dev.completes_of_fields h hh (fun g hg j => hr g ?_ j) status p0 p1
  simp only [List.mem_cons, List.not_mem_nil, or_false] at hg
  rcases hg with rfl | rfl | rfl <;> rfl

/-! ### Doorbells -/

/-- A tail doorbell that moves the tail. -/
theorem Dev.sqTail_good {d : Dev} {q v : Nat} (he : d.fbit hbxSqcfgEn q = true) (h : v % 2 ^ 16 < d.sqSize q) :
    d.sqTail q v = (d.keepDoorbell (8 * q) v).setSq q { d.sq q with tail := v % 2 ^ 16 } := by
  unfold Dev.sqTail
  dsimp only
  refine if_neg ?_
  have hx : (d.keepDoorbell (8 * q) v).fbit hbxSqcfgEn q = true := he
  have hn : ¬ (d.keepDoorbell (8 * q) v).sqSize q ≤ v % 2 ^ 16 := Nat.not_le.mpr h
  rw [hx, decide_eq_false hn]
  exact Bool.false_ne_true

theorem Dev.sqTail_bad {d : Dev} {q v : Nat} (h : d.fbit hbxSqcfgEn q = false ∨ d.sqSize q ≤ v % 2 ^ 16) :
    d.sqTail q v = (d.keepDoorbell (8 * q) v).badDoorbell := by
  unfold Dev.sqTail
  dsimp only
  refine if_pos ?_
  rcases h with h | h
  · have hx : (d.keepDoorbell (8 * q) v).fbit hbxSqcfgEn q = false := h
    rw [hx]; rfl
  · have hn : (d.keepDoorbell (8 * q) v).sqSize q ≤ v % 2 ^ 16 := h
    rw [decide_eq_true hn, Bool.or_true]

theorem Dev.cqHead_good {d : Dev} {q v : Nat} (h : v % 2 ^ 16 < d.cqSize q)
    (hl : (v % 2 ^ 16 + d.cqSize q - (d.cq q).head % d.cqSize q) % d.cqSize q
      ≤ ((d.cq q).tail + d.cqSize q - (d.cq q).head % d.cqSize q) % d.cqSize q) :
    d.cqHead q v = (d.keepDoorbell (0x1000 + 8 * q) v).setCq q
      { d.cq q with head := v % 2 ^ 16, resignal := v % 2 ^ 16 != (d.cq q).tail } :=
  if_neg (not_or.mpr ⟨Nat.not_le.mpr h, Nat.not_lt.mpr hl⟩)

theorem Dev.cqHead_bad {d : Dev} {q v : Nat} (h : d.cqSize q ≤ v % 2 ^ 16
    ∨ ((d.cq q).tail + d.cqSize q - (d.cq q).head % d.cqSize q) % d.cqSize q
      < (v % 2 ^ 16 + d.cqSize q - (d.cq q).head % d.cqSize q) % d.cqSize q) :
    d.cqHead q v = (d.keepDoorbell (0x1000 + 8 * q) v).badDoorbell := if_pos h

/-- A bad doorbell counts in HBX.BADCMD and moves nothing. -/
theorem Dev.badDoorbell_spec (d : Dev) (off v : Nat) :
    ((d.keepDoorbell off v).badDoorbell).fget hbxBadcmdCount 0 = satAdd (2 ^ 32 - 1) (d.fget hbxBadcmdCount 0) 1
    ∧ ((d.keepDoorbell off v).badDoorbell).hbx = d.hbx
    ∧ ((d.keepDoorbell off v).badDoorbell).mask 4194312 = d.mask 4194312 :=
  ⟨Dev.fget_fcount_sat .., rfl, (Dev.fcount_mask (by decide) ..).trans (Dev.mask_pci (by decide) ..)⟩

theorem bit_or_two_pow (n i : Nat) : bit (n ||| 2 ^ i) i = true := by simp

theorem Dev.tile_onTile (d : Dev) (p q : Nat) (f : Tile → Tile) :
    (d.onTile p f).tile q = if q = p then f (d.tile q) else d.tile q := by
  split
  next h => subst h; exact Dev.tile_onTile_same ..
  next h => exact Dev.tile_onTile_ne _ _ h

/-- The change that one bound event makes. -/
def Dev.bindStep (kind src : Nat) (tmap : SMap Nat) (d : Dev) (b : ManBind) : Dev :=
  if b.kind = kind ∧ b.src = src then
    match SMap.find b.tile tmap with
    | some p => d.onTile p (fun t => t.orTev (2 ^ b.bit))
    | none => d
  else d

theorem Dev.doorbell_placed {d : Dev} {pl : Placement} (h : d.deckle.placement = some pl) (kind src : Nat) :
    d.doorbell kind src = pl.man.binds.foldl (Dev.bindStep kind src pl.tmap) d := by
  rw [Dev.doorbell, h]
  rfl

/-- A TEV bit that is set stays set. -/
theorem Dev.bindStep_keeps {d : Dev} {p n : Nat} (kind src : Nat) (tmap : SMap Nat) (b : ManBind)
    (h : bit (d.tile p).core.tev n = true) : bit ((d.bindStep kind src tmap b).tile p).core.tev n = true := by
  unfold Dev.bindStep
  split
  · split
    · rw [Dev.tile_onTile]
      split
      · simp [Tile.orTev, h]
      · exact h
    · exact h
  · exact h

theorem Dev.bindSteps_keep {p n : Nat} (kind src : Nat) (tmap : SMap Nat) (l : List ManBind) {d : Dev}
    (h : bit (d.tile p).core.tev n = true) :
    bit ((l.foldl (Dev.bindStep kind src tmap) d).tile p).core.tev n = true :=
  Dev.foldl_keep (fun e : Dev => bit (e.tile p).core.tev n = true) _ (fun _ b he => Dev.bindStep_keeps kind src tmap b he) l d h

/-- Every bind of the event that names a placed tile has set its bit. -/
theorem Dev.bindSteps_set {kind src p : Nat} {tmap : SMap Nat} {l : List ManBind} {b : ManBind} (hb : b ∈ l) (hk : b.kind = kind)
    (hs : b.src = src) (hp : SMap.find b.tile tmap = some p) (d : Dev) :
    bit ((l.foldl (Dev.bindStep kind src tmap) d).tile p).core.tev b.bit = true := by
  induction l generalizing d with
  | nil => exact absurd hb (List.not_mem_nil)
  | cons x l ih =>
    rw [List.foldl_cons]
    rcases List.mem_cons.mp hb with rfl | hb
    · refine Dev.bindSteps_keep kind src tmap l ?_
      rw [Dev.bindStep, if_pos ⟨hk, hs⟩, hp]
      dsimp only
      rw [Dev.tile_onTile_same]
      exact bit_or_two_pow ..
    · exact ih hb _

theorem Dev.bindSteps_none {kind src : Nat} {tmap : SMap Nat} {l : List ManBind} (h : ∀ b ∈ l, b.kind = kind → b.src ≠ src)
    (d : Dev) : l.foldl (Dev.bindStep kind src tmap) d = d := by
  induction l generalizing d with
  | nil => rfl
  | cons x l ih =>
    obtain ⟨hx, hl⟩ := List.forall_mem_cons.mp h
    rw [List.foldl_cons, Dev.bindStep, if_neg (fun hc => hx hc.1 hc.2)]
    exact ih hl d

/-! ### Rings -/

theorem Dev.pageWrite_hbx (d : Dev) (m : Mem) {off : Nat} (v : Nat) (ho : 0x40 ≤ off) (hb : d.blockOpen pHBX 0 = true) :
    d.pageWrite m pHBX 0 off v = d.blockWrite m pHBX 0 off v :=
  Dev.pageWrite_block d m v (Dev.pageReset_other d rfl) ho hb

theorem ringLog2_stored (v : Nat) :
    hbxSqcfgLog2size.stored (bits v 1 4) % 2 ^ hbxSqcfgLog2size.width = max 4 (bits v 1 4)
    ∧ hbxCqcfgLog2size.stored (bits v 1 4) % 2 ^ hbxCqcfgLog2size.width = max 4 (bits v 1 4) := by
  have hlt : bits v 1 4 < 16 := bits_lt v 1 4
  have h : ∀ f : Field, f.width = 4 → f.least = 4 → f.greatest = 15 →
      f.stored (bits v 1 4) % 2 ^ f.width = max 4 (bits v 1 4) := by
    intro f hw hlo hhi
    simp only [Field.stored, hw, hlo, hhi]
    split_ifs <;> omega
  exact ⟨h _ rfl rfl rfl, h _ rfl rfl rfl⟩

/-- SQCFG with EN set for a ring that was disabled. -/
theorem Dev.sqConfigure_enable {d : Dev} {q v : Nat} (hq : d.fget hbxRingselRing 0 = q) (hv : bit v 0 = true)
    (he : d.fget hbxSqcfgEn q = 0) :
    d.sqConfigure v = (((d.fset hbxSqcfgCq q (bits v 8 6)).fset hbxSqcfgLog2size q
      (hbxSqcfgLog2size.stored (bits v 1 4))).fset hbxSqcfgEn q 1).setSq q { d.sq q with head := 0, tail := 0 } := by
  have hen : d.fbit hbxSqcfgEn q = false := Dev.fbit_eq_false.mpr (by omega)
  unfold Dev.sqConfigure
  simp only [hq, hen, hv, Bool.not_false, Bool.and_self, if_true, Bool.false_eq_true, if_false]
  rfl

/-- CQCFG with EN set for a ring that was disabled. -/
theorem Dev.cqRingConfigure_enable {d : Dev} {q v : Nat} (hq : d.fget hbxRingselRing 0 = q) (hv : bit v 0 = true)
    (he : d.fget hbxCqcfgEn q = 0) :
    d.cqRingConfigure v = ((((d.fset hbxCqcfgVector q (bits v 8 8)).fset hbxCqcfgCoalcnt q (bits v 16 8)).fset
      hbxCqcfgLog2size q (hbxCqcfgLog2size.stored (bits v 1 4))).fset hbxCqcfgEn q 1).setCq q .reset := by
  have hen : d.fbit hbxCqcfgEn q = false := Dev.fbit_eq_false.mpr (by omega)
  unfold Dev.cqRingConfigure
  simp only [hq, hen, hv, Bool.not_false, Bool.and_self, if_true, Bool.false_eq_true, if_false]
  rfl

@[simp] theorem Dev.fget_setSq (d : Dev) (q : Nat) (x : Sq) (f : Field) (i : Nat) : (d.setSq q x).fget f i = d.fget f i := rfl
@[simp] theorem Dev.fget_setCq (d : Dev) (q : Nat) (x : Cq) (f : Field) (i : Nat) : (d.setCq q x).fget f i = d.fget f i := rfl

theorem bits_mod (v lo w : Nat) : bits v lo w % 2 ^ w = bits v lo w := Nat.mod_eq_of_lt (bits_lt ..)

/-! ### The fetch of a command -/

/-- The command that 64 bytes make. -/
def fetchedCmd (q : Nat) (bytes : List Nat) (bad : Bool) : HostCmd :=
  { sq := q, op := ofLE ((bytes.drop 0).take 1), fence := bit (ofLE ((bytes.drop 1).take 1)) 0
    quiet := bit (ofLE ((bytes.drop 1).take 1)) 1, cid := ofLE ((bytes.drop 2).take 2), bytes := bytes
    error := if bad then some (8, 0) else none }

/-- The ring with the command at its head fetched. -/
def Dev.afterFetch (d : Dev) (q : Nat) (c : HostCmd) : Dev :=
  d.setSq q { d.sq q with head := ((d.sq q).head + 1) % d.sqSize q, fetched := [c] }

/-- The part may fetch the command at the head of ring `q`. -/
structure Dev.Fetches (d : Dev) (q : Nat) : Prop where
  phase : d.phase = .ready ∨ d.phase = .degraded ∨ d.phase = .computeReset
  enabled : d.fbit hbxSqcfgEn q = true
  going : bit d.hbx.sqStop q = false
  waits : (d.sq q).head ≠ (d.sq q).tail
  empty : (d.sq q).fetched = []

theorem Dev.commandFetch_eq {d : Dev} {q : Nat} {bytes : List Nat} (bad : Bool) (h : d.Fetches q) (hl : bytes.length = 64) :
    d.commandFetch q bytes bad = (d.afterFetch q (fetchedCmd q bytes bad)).settleSq q 2 := by
  obtain ⟨hp, he, hg, hw, hf⟩ := h
  have hb : (bytes ++ List.replicate (64 - bytes.length) 0).take 64 = bytes := by
    rw [hl, Nat.sub_self, List.replicate_zero, List.append_nil, ← hl, List.take_length]
  have hx : ((d.sq q).head == (d.sq q).tail) = false := beq_eq_false_iff_ne.mpr hw
  unfold Dev.commandFetch
  rcases hp with hp | hp | hp <;>
    simp only [hp, he, hg, hx, hb, hf, Bool.not_true, Bool.or_self, Bool.false_eq_true, if_false, Dev.sq_setSq_same,
      List.nil_append, List.length_singleton] <;> rfl

theorem Dev.mayStart_afterFetch (d : Dev) (q : Nat) (c x : HostCmd) : (d.afterFetch q c).mayStart q x = d.mayStart q x := by
  have hs : ((d.afterFetch q c).sq q).started = (d.sq q).started := (congrArg Sq.started (Dev.sq_setSq_same ..)).trans rfl
  unfold Dev.mayStart
  dsimp only
  rw [hs]
  rfl

theorem Dev.cmdRefusal_afterFetch (d : Dev) (q : Nat) (c x : HostCmd) : (d.afterFetch q c).cmdRefusal x = d.cmdRefusal x :=
  rfl

/-- A fetched command that may not start yet, or that nothing refuses, stays at the front of its ring. -/
theorem Dev.settleSq_stays {d : Dev} {q : Nat} {c : HostCmd} (h : d.cmdRefusal c = none ∨ d.mayStart q c = false) :
    (d.afterFetch q c).settleSq q 2 = d.afterFetch q c := by
  have hf : ((d.afterFetch q c).sq q).fetched = [c] := (congrArg Sq.fetched (Dev.sq_setSq_same ..)).trans rfl
  rw [Dev.settleSq, hf]
  simp only [Dev.mayStart_afterFetch, Dev.cmdRefusal_afterFetch]
  rcases h with h | h
  · simp [h]
  · simp [h]

/-- A fetched command that its ring may start, and that is refused, completes at once. -/
theorem Dev.settleSq_refused {d : Dev} {q st p0 : Nat} {c : HostCmd} (hq : c.sq = q) (hr : d.cmdRefusal c = some (st, p0))
    (hm : d.mayStart q c = true) :
    (d.afterFetch q c).settleSq q 2
      = ((d.afterFetch q c).setSq q { (d.afterFetch q c).sq q with fetched := [] }).complete c st p0 0 := by
  have hf : ((d.afterFetch q c).sq q).fetched = [c] := (congrArg Sq.fetched (Dev.sq_setSq_same ..)).trans rfl
  rw [Dev.settleSq, hf]
  simp only [Dev.mayStart_afterFetch, Dev.cmdRefusal_afterFetch, hm, hr, if_true]
  generalize hx : (d.afterFetch q c).setSq q { (d.afterFetch q c).sq q with fetched := [] } = x
  have he : ((x.complete c st p0 0).sq q).fetched = [] := by
    rw [← hq, (Dev.complete_sq x c st p0 0).1, hq, ← hx, Dev.sq_setSq_same]
  rw [Dev.settleSq, he]

/-! ### The write of a completion -/

/-- Numbered bytes put into host memory from address `a`. -/
@[irreducible] def hostPut (a : Nat) (bs : List (Nat × Nat)) (m : SMap Nat) : SMap Nat :=
  bs.foldl (fun m (b, i) => SMap.insert (a + i) b m) m

/-- Bytes put into host memory one after another. -/
theorem find_hostPut (bs : List Nat) (a n k : Nat) (m : SMap Nat) :
    SMap.find k (hostPut a (bs.zipIdx n) m)
      = if a + n ≤ k ∧ k < a + n + bs.length then bs[k - (a + n)]? else SMap.find k m := by
  induction bs generalizing n m with
  | nil => rw [if_neg (by simp), List.zipIdx_nil, hostPut, List.foldl_nil]
  | cons b bs ih =>
    rw [List.zipIdx_cons, hostPut, List.foldl_cons, ← hostPut, ih]
    by_cases hk : k = a + n
    · subst hk
      rw [if_neg (by omega), if_pos (by simp), SMap.find_insert_same, Nat.sub_self]
      rfl
    · rw [SMap.find_insert_ne hk]
      by_cases hin : a + n ≤ k ∧ k < a + n + (b :: bs).length
      · rw [List.length_cons] at hin
        rw [if_pos (by omega), if_pos (by rw [List.length_cons]; omega)]
        have e : k - (a + n) = (k - (a + (n + 1))) + 1 := by omega
        rw [e, List.getElem?_cons_succ]
      · rw [List.length_cons] at hin
        rw [if_neg (by omega), if_neg (by rw [List.length_cons]; omega)]

theorem CqEntry.bytes_length (e : CqEntry) (phase : Nat) : (e.bytes phase).length = 32 := by
  simp [CqEntry.bytes, toLE_length]

/-- What a signal of vector `k` leaves of the function. -/
theorem Dev.signal_spec (d : Dev) (k : Nat) :
    (bit (d.msixWord (4 * k + 3)) 0 = false → (d.signal k).pci = { d.pci with msixSent := d.pci.msixSent ++ [k] })
    ∧ (bit (d.msixWord (4 * k + 3)) 0 = true → (d.signal k).pci = { d.pci with pba := d.pci.pba ||| 2 ^ k })
    ∧ (d.signal k).hbx = d.hbx := by
  unfold Dev.signal
  cases h : bit (d.msixWord (4 * k + 3)) 0 <;> simp

/-- The ring of CQ `q` in host memory with an entry written at its tail. -/
def Dev.entryWritten (d : Dev) (q : Nat) (e : CqEntry) : Dev :=
  { d with pci := { d.pci with
      hostMem := hostPut (d.cqBase q + 32 * (d.cq q).tail) (e.bytes (d.cq q).phase).zipIdx d.pci.hostMem } }

/-- A CQ that signals every entry: its oldest waiting entry is written and its vector signalled. -/
theorem Dev.completionWrite_eq {d : Dev} {q : Nat} {e : CqEntry} {rest : List CqEntry} (hw : (d.cq q).waiting = e :: rest)
    (he : d.fbit hbxCqcfgEn q = true) (hr : d.cqRoom q = true) (hc : d.fget hbxCqcfgCoalcnt q ≤ 1) :
    d.completionWrite q =
      ((d.entryWritten q e).setCq q { d.cq q with
          tail := ((d.cq q).tail + 1) % d.cqSize q
          phase := if ((d.cq q).tail + 1) % d.cqSize q = 0 then 1 - (d.cq q).phase else (d.cq q).phase
          waiting := rest, unsignalled := 0 }).signal (d.fget hbxCqcfgVector q) := by
  have hx : decide (max 1 (d.fget hbxCqcfgCoalcnt q) ≤ (d.cq q).unsignalled + 1) = true := by
    refine decide_eq_true ?_
    omega
  have hn : ∀ x, Dev.fget { d with pci := x } hbxCqcfgCoalcnt q = d.fget hbxCqcfgCoalcnt q := fun _ => rfl
  unfold Dev.completionWrite Dev.entryWritten hostPut
  dsimp only
  rw [hw]
  dsimp only
  rw [he, hr, Bool.not_true, Bool.or_self, if_neg Bool.false_ne_true]
  simp only [hn, hx, if_true]
  rfl

/-- How the vector of a CQ was signalled, whatever else of the function and HBX has changed. -/
theorem Dev.signal_signalled {d e : Dev} {k : Nat} (ht : e.pci.msixTable = d.pci.msixTable)
    (hs : e.pci.msixSent = d.pci.msixSent) (hp : e.pci.pba = d.pci.pba) :
    (bit (d.msixWord (4 * k + 3)) 0 = false → (e.signal k).pci.msixSent = d.pci.msixSent ++ [k]
      ∧ (e.signal k).pci.pba = d.pci.pba)
    ∧ (bit (d.msixWord (4 * k + 3)) 0 = true → (e.signal k).pci.pba = d.pci.pba ||| 2 ^ k
      ∧ (e.signal k).pci.msixSent = d.pci.msixSent) := by
  have hw : e.msixWord (4 * k + 3) = d.msixWord (4 * k + 3) := by rw [Dev.msixWord, Dev.msixWord, ht]
  obtain ⟨hopen, hmasked, -⟩ := Dev.signal_spec e k
  rw [hw] at hopen hmasked
  refine ⟨fun h => ?_, fun h => ?_⟩
  · rw [hopen h]; exact ⟨by rw [← hs], hp⟩
  · rw [hmasked h]; exact ⟨by rw [← hp], hs⟩

theorem Dev.cq_signal (d : Dev) (k q : Nat) : (d.signal k).cq q = d.cq q :=
  congrArg (fun x => SMap.get Cq.reset q (Hbx.cq x)) (Dev.signal_spec d k).2.2

theorem Dev.hostMem_signal (d : Dev) (k : Nat) : (d.signal k).pci.hostMem = d.pci.hostMem := by
  unfold Dev.signal
  split <;> rfl

theorem fetchedCmd_error (q : Nat) (bytes : List Nat) (bad : Bool) :
    (fetchedCmd q bytes bad).error = if bad then some (8, 0) else none := rfl

theorem Dev.cmdRefusal_of_error {d : Dev} {c : HostCmd} {e : Nat × Nat} (h : c.error = some e) : d.cmdRefusal c = some e := by
  rw [Dev.cmdRefusal, h]

/-- What a fetch that failed leaves: the command has completed FETCH_ERROR. -/
theorem Dev.fetch_failed {d : Dev} {q : Nat} {bytes : List Nat} (h : d.Fetches q) (hl : bytes.length = 64)
    (hm : d.mayStart q (fetchedCmd q bytes true) = true) :
    ((d.commandFetch q bytes true).sq q).head = ((d.sq q).head + 1) % d.sqSize q
    ∧ ((d.commandFetch q bytes true).sq q).fetched = []
    ∧ d.Posts (d.commandFetch q bytes true) q (fetchedCmd q bytes true) 8 0 0 := by
  have hr : d.cmdRefusal (fetchedCmd q bytes true) = some (8, 0) := Dev.cmdRefusal_of_error rfl
  have hsq : (fetchedCmd q bytes true).sq = q := rfl
  rw [Dev.commandFetch_eq true h hl]
  generalize fetchedCmd q bytes true = c at hr hm hsq ⊢
  rw [Dev.settleSq_refused hsq hr hm]
  subst hsq
  generalize hx : (d.afterFetch c.sq c).setSq c.sq { (d.afterFetch c.sq c).sq c.sq with fetched := [] } = x
  have he : x.sq c.sq = { (d.afterFetch c.sq c).sq c.sq with fetched := [] } := by rw [← hx]; exact Dev.sq_setSq_same ..
  have ha : (d.afterFetch c.sq c).sq c.sq = _ := Dev.sq_setSq_same ..
  have hc : x.hbx.cq = d.hbx.cq := by rw [← hx]; rfl
  have hg : ∀ f i, x.fget f i = d.fget f i := fun f i => by rw [← hx]; rfl
  rw [ha] at he
  refine ⟨?_, ?_, (Dev.complete_posts x c 8 0 0).congr (hg ..) (hg ..) (hg ..) hc⟩
  · rw [(Dev.complete_sq x c 8 0 0).1, he]
  · rw [(Dev.complete_sq x c 8 0 0).1, he]

/-- The fields of SQCFG once a ring is enabled. -/
theorem Dev.fget_sqConfigure_enable {d : Dev} {q v : Nat} (hq : d.fget hbxRingselRing 0 = q) (hv : bit v 0 = true)
    (he : d.fget hbxSqcfgEn q = 0) :
    (d.sqConfigure v).fget hbxSqcfgEn q = 1 ∧ (d.sqConfigure v).fget hbxSqcfgCq q = bits v 8 6
    ∧ (d.sqConfigure v).fget hbxSqcfgLog2size q = max 4 (bits v 1 4) := by
  rw [Dev.sqConfigure_enable hq hv he]
  simp (disch := decide) only [Dev.fget_setSq, Dev.fget_fset_place, Dev.fget_fset_same]
  exact ⟨rfl, bits_mod v 8 6, (ringLog2_stored v).1⟩

/-- The fields of CQCFG once a ring is enabled. -/
theorem Dev.fget_cqRingConfigure_enable {d : Dev} {q v : Nat} (hq : d.fget hbxRingselRing 0 = q) (hv : bit v 0 = true)
    (he : d.fget hbxCqcfgEn q = 0) :
    (d.cqRingConfigure v).fget hbxCqcfgEn q = 1 ∧ (d.cqRingConfigure v).fget hbxCqcfgVector q = bits v 8 8
    ∧ (d.cqRingConfigure v).fget hbxCqcfgCoalcnt q = bits v 16 8
    ∧ (d.cqRingConfigure v).fget hbxCqcfgLog2size q = max 4 (bits v 1 4) := by
  rw [Dev.cqRingConfigure_enable hq hv he]
  simp (disch := decide) only [Dev.fget_setCq, Dev.fget_fset_place, Dev.fget_fset_same]
  exact ⟨rfl, bits_mod v 8 8, bits_mod v 16 8, (ringLog2_stored v).2⟩

/-- What an entry written leaves of the rings. -/
theorem Dev.cq_entryWritten (d : Dev) (q r : Nat) (e : CqEntry) (x : Cq) (k : Nat) :
    (((d.entryWritten q e).setCq q x).signal k).cq r = if r = q then x else d.cq r := by
  rw [Dev.cq_signal]
  split
  next h => subst h; exact Dev.cq_setCq_same ..
  next h =>
    have hc : (d.entryWritten q e).cq r = d.cq r := rfl
    rw [Dev.cq_setCq_ne _ _ h, hc]

/-- What an entry written leaves of host memory. -/
theorem Dev.hostMem_entryWritten (d : Dev) (q : Nat) (e : CqEntry) (x : Cq) (k : Nat) :
    (((d.entryWritten q e).setCq q x).signal k).pci.hostMem
      = hostPut (d.cqBase q + 32 * (d.cq q).tail) (e.bytes (d.cq q).phase).zipIdx d.pci.hostMem :=
  (Dev.hostMem_signal ..).trans rfl

/-- Settles O50. -/
theorem hostRings : Obligations.HostRings := by
  intro s q v bytes bad e rest hw
  refine ⟨fun hq ha => ⟨fun he hh => ?_, fun h => ?_, fun hh hl => ?_, fun h => ?_⟩, fun k pl hk ha hpl => ?_,
    fun hq ha hb hv => ⟨fun he => ?_, fun he => ?_⟩, fun hq hph hen hgo hne hf hl => ⟨fun h => ?_, ?_⟩,
    fun hq hen hwt hr hc => ?_, fun hq hen hu => ?_⟩
  · refine Answers.access (ok := ringOk q) rfl (decide_eq_true hq) ha (Dev.sqTail_good he hh) hw
      ⟨Dev.sq_setSq_same .., fun r hr => Dev.sq_setSq_ne _ _ hr, rfl, ?_⟩
    exact State.onlyParts_of_mask [.hbx, .pci] rfl
  · obtain ⟨hn, hx, hm⟩ := Dev.badDoorbell_spec s.dev (8 * q) v
    exact Answers.access (ok := ringOk q) rfl (decide_eq_true hq) ha (Dev.sqTail_bad h) hw
      ⟨hn, hx, State.onlyParts_of_mask [.regs, .pci] hm⟩
  · refine Answers.access (ok := ringOk q) rfl (decide_eq_true hq) ha (Dev.cqHead_good hh hl) hw
      ⟨Dev.cq_setCq_same .., fun r hr => Dev.cq_setCq_ne _ _ hr, ?_⟩
    exact State.onlyParts_of_mask [.hbx, .pci] rfl
  · obtain ⟨hn, hx, hm⟩ := Dev.badDoorbell_spec s.dev (0x1000 + 8 * q) v
    exact Answers.access (ok := ringOk q) rfl (decide_eq_true hq) ha (Dev.cqHead_bad h) hw
      ⟨hn, hx, State.onlyParts_of_mask [.regs, .pci] hm⟩
  · have hbell : s.dev.hostEvent k v
        = pl.man.binds.foldl (Dev.bindStep 0 k pl.tmap) (s.dev.keepDoorbell (0x2000 + 4 * k) v) :=
      Dev.doorbell_placed (d := s.dev.keepDoorbell (0x2000 + 4 * k) v) hpl 0 k
    refine Answers.hostParts [.tiles, .pci] (g := fun _ d => d.hostEvent k v) (ok := bellOk k) rfl (decide_eq_true hk) ha hw
      (Dev.hostEvent_mask (by decide) ..) (by decide) fun ho => ⟨fun b p hb hk hs hp => ?_, fun hn => ?_, ho⟩
    · dsimp only
      rw [hbell]
      exact Dev.bindSteps_set hb hk hs hp _
    · dsimp only
      rw [hbell, Dev.bindSteps_none hn]
      rfl
  · have hg := Dev.pageWrite_hbx s.dev s.mem v (off := 0x4C) (by decide) hb
    have hc := Dev.sqConfigure_enable hq.symm hv he
    obtain ⟨hen, hcq, hlog⟩ := Dev.fget_sqConfigure_enable hq.symm hv he
    refine Answers.hostParts [.regs, .hbx] (g := fun m d => d.pageWrite m pHBX 0 0x4C v) (ok := true) rfl rfl ha hw
      ((congrArg (Dev.mask _) hg).trans (Dev.sqConfigure_mask (by decide) ..)) (by decide) fun ho => ?_
    dsimp only at ho ⊢
    have hg : s.dev.pageWrite s.mem pHBX 0 0x4C v = s.dev.sqConfigure v := hg
    rw [hg] at ho ⊢
    refine ⟨?_, fun r hr => ?_, hen, hcq, hlog, ho⟩
    · rw [hc]; exact Dev.sq_setSq_same ..
    · rw [hc]; exact Dev.sq_setSq_ne _ _ hr
  · have hg := Dev.pageWrite_hbx s.dev s.mem v (off := 0x5C) (by decide) hb
    have hc := Dev.cqRingConfigure_enable hq.symm hv he
    obtain ⟨hen, hvec, hcoal, hlog⟩ := Dev.fget_cqRingConfigure_enable hq.symm hv he
    refine Answers.access' rfl ha (hg.trans hc) hw
      ⟨Dev.cq_setCq_same .., fun r hr => Dev.cq_setCq_ne _ _ hr, ?_⟩
    rw [← hc]
    refine ⟨hen, hvec, hcoal, hlog, State.onlyParts_of_mask [.regs, .hbx] ?_⟩
    rw [hc]
    simp [partsMask, Part.bit, Dev.setCq]
  · have hfetch : s.dev.Fetches q := ⟨hph, hen, hgo, hne, hf⟩
    have he := (Dev.commandFetch_eq bad hfetch hl).trans (Dev.settleSq_stays (c := fetchedCmd q bytes bad) h)
    refine Answers.quiet (ok := ringOk q) (f := fun _ d => d.commandFetch q bytes bad) rfl (decide_eq_true hq) he hw
      ⟨Dev.sq_setSq_same .., fun r hr => Dev.sq_setSq_ne _ _ hr, ?_⟩
    exact State.onlyParts_of_mask [.hbx] rfl
  · rintro rfl hm
    have hfetch : s.dev.Fetches q := ⟨hph, hen, hgo, hne, hf⟩
    obtain ⟨hhead, hfd, hposts⟩ := Dev.fetch_failed hfetch hl hm
    exact Answers.parts [.regs, .evr, .hbx] (ok := ringOk q) (f := fun _ d => d.commandFetch q bytes true) rfl
      (decide_eq_true hq) hw (Dev.commandFetch_mask (by decide) ..) (by decide) fun ho => ⟨hhead, hfd, hposts, ho⟩
  · refine Answers.parts [.hbx, .pci] (ok := ringOk q) (f := fun _ d => d.completionWrite q) rfl (decide_eq_true hq) hw
      (Dev.completionWrite_mask (by decide) ..) (by decide) fun ho => ?_
    dsimp only at ho ⊢
    rw [Dev.completionWrite_eq hwt hen hr hc] at ho ⊢
    refine ⟨(Dev.cq_entryWritten ..).trans (if_pos rfl), fun r hr => (Dev.cq_entryWritten ..).trans (if_neg hr),
      fun i hi => ?_, fun a ha => ?_, ?_, ho⟩
    · rw [Dev.hostMem_entryWritten]
      refine (find_hostPut _ _ 0 _ _).trans ?_
      rw [CqEntry.bytes_length, if_pos (by omega), Nat.add_zero, Nat.add_sub_cancel_left, List.getD_eq_getElem?_getD]
      rw [List.getElem?_eq_getElem (by rw [CqEntry.bytes_length]; exact hi)]
      rfl
    · rw [Dev.hostMem_entryWritten]
      refine (find_hostPut _ _ 0 _ _).trans ?_
      rw [CqEntry.bytes_length, if_neg (by omega)]
    · exact Dev.signal_signalled rfl rfl rfl
  · have he : s.dev.msixSignal q = (s.dev.setCq q { s.dev.cq q with unsignalled := 0, resignal := false }).signal
        (s.dev.fget hbxCqcfgVector q) := by
      refine if_pos ?_
      rcases hu with hu | hu <;> simp [hen, hu]
    refine Answers.parts [.hbx, .pci] (ok := ringOk q) (f := fun _ d => d.msixSignal q) rfl (decide_eq_true hq) hw
      (Dev.msixSignal_mask (by decide) ..) (by decide) fun ho => ?_
    dsimp only at ho ⊢
    rw [he] at ho ⊢
    exact ⟨(Dev.cq_signal ..).trans (Dev.cq_setCq_same ..), Dev.signal_signalled rfl rfl rfl, ho⟩

end Sys2Proof.Machine
end


section
/-! PROOFS. The states of a port (chapter 12). -/

namespace Sys2Proof.Machine

/-! ### A port moves -/

/-- From `d` to `e` port `p` has become `y`, and no other port and no channel has changed. -/
structure Dev.PortMoved (d e : Dev) (p : Nat) (y : Port) : Prop where
  port : e.port p = y
  others : ∀ q, q ≠ p → e.port q = d.port q
  chans : e.brezin.chans = d.brezin.chans

theorem Dev.PortMoved.of_brezin {d d' e : Dev} {p : Nat} {y : Port} (h : d'.PortMoved e p y) (hb : d'.brezin = d.brezin) :
    d.PortMoved e p y :=
  ⟨h.port, fun q hq => (h.others q hq).trans (congrArg (fun b => SMap.get Port.reset q (Brezin.ports b)) hb),
    h.chans.trans (congrArg Brezin.chans hb)⟩

theorem Dev.PortMoved.to_brezin {d e e' : Dev} {p : Nat} {y : Port} (h : d.PortMoved e p y) (hb : e'.brezin = e.brezin) :
    d.PortMoved e' p y :=
  ⟨(congrArg (fun b => SMap.get Port.reset p (Brezin.ports b)) hb).trans h.port,
    fun q hq => (congrArg (fun b => SMap.get Port.reset q (Brezin.ports b)) hb).trans (h.others q hq),
    (congrArg Brezin.chans hb).trans h.chans⟩

theorem Dev.PortMoved.trans {d e f : Dev} {p : Nat} {y z : Port} (h : d.PortMoved e p y) (k : e.PortMoved f p z) :
    d.PortMoved f p z :=
  ⟨k.port, fun q hq => (k.others q hq).trans (h.others q hq), k.chans.trans h.chans⟩

theorem Dev.setPort_moved (d : Dev) (p : Nat) (y : Port) : d.PortMoved (d.setPort p y) p y :=
  ⟨Dev.port_setPort_same .., fun _ hq => Dev.port_setPort_ne _ _ hq, rfl⟩

theorem Dev.movePort_moved (d : Dev) (p : Nat) (f : Port → Port) : d.PortMoved (d.movePort p f) p (f (d.port p)) := by
  unfold Dev.movePort
  dsimp only
  split
  · exact Dev.setPort_moved ..
  · exact (Dev.setPort_moved ..).to_brezin (Dev.brezin_of_mask (F := 4136) (by decide) (Dev.portChanged_mask (by decide) ..))

/-- Moving a port changes no field but Deckle's. -/
theorem Dev.movePort_keeps (d : Dev) (p : Nat) (f : Port → Port) : d.KeepsBut memClasses (d.movePort p f) := by
  unfold Dev.movePort
  dsimp only
  split
  · exact .of_regs rfl
  · unfold Dev.portChanged
    have h : ∀ e : Dev, d.KeepsBut memClasses e → d.KeepsBut memClasses (e.rehealth (0x200 + p)) :=
      fun e he => he.trans (Dev.rehealth_keeps ..)
    have hs : d.KeepsBut memClasses ((d.setPort p (f (d.port p))).rehealth (0x200 + p)) := h _ (.of_regs rfl)
    exact .ite (fun _ => hs.record ..) fun _ => hs

/-- A field of a port's page reads the same after the port has moved. -/
theorem Dev.fget_movePort (d : Dev) (p : Nat) (f : Port → Port) {g : Field} (j : Nat)
    (h : g.place < 2 ^ 23 ∧ g.place / 2 ^ 17 ∉ memClasses) : (d.movePort p f).fget g j = d.fget g j :=
  (d.movePort_keeps p f).keeps g j h.1 h.2

/-- What the discard of transit frames leaves of a port. -/
theorem Dev.port_dropTransit (d : Dev) (p q : Nat) :
    (d.dropTransit p).port q = { d.port q with queue := (d.port q).queue.filter (fun g => g.from_ != some p) } := by
  have h := SMap.find_map (fun x : Port => { x with queue := x.queue.filter (fun g => g.from_ != some p) }) q d.brezin.ports
  have hp : (d.dropTransit p).port q = ((SMap.find q d.brezin.ports).map
      (fun x : Port => { x with queue := x.queue.filter (fun g => g.from_ != some p) })).getD .reset :=
    congrArg (fun o : Option Port => o.getD .reset) h
  rw [hp]
  unfold Dev.port SMap.get
  cases SMap.find q d.brezin.ports <;> rfl

/-! ### Training -/

/-- The port that a training has brought up. -/
def Port.trained (w lanes peerId peerPort peerSeq : Nat) (x : Port) : Port :=
  let x := { x with width := w, lanes := lanes, peerId := peerId % 2 ^ 20, peerPort := peerPort % 32
                    peerValid := true, retryMs := 0, credit := fullCredit, owed := [0, 0, 0, 0], fecUnc := 0
                    nak := false, nakSent := false }
  if x.state = .retraining then
    let keep := (x.replay.dropWhile (fun r => r.seq != peerSeq)).drop 1
    let keep := if x.replay.any (fun r => r.seq == peerSeq) then keep else x.replay
    { x with state := .up, replay := keep, resend := keep.length }
  else { x with state := .up, txSeq := 0, rxSeq := 4095, replay := [], resend := 0 }

theorem Port.trained_spec (w lanes peerId peerPort peerSeq : Nat) (x : Port) :
    let y := x.trained w lanes peerId peerPort peerSeq
    y.state = .up ∧ y.width = w ∧ y.lanes = lanes ∧ y.peerId = peerId % 2 ^ 20 ∧ y.peerPort = peerPort % 32
    ∧ y.peerValid = true ∧ y.credit = fullCredit
    ∧ (x.state = .training → y.txSeq = 0 ∧ y.rxSeq = 4095 ∧ y.replay = [])
    ∧ (x.state = .retraining → y.txSeq = x.txSeq ∧ y.rxSeq = x.rxSeq) ∧ y.queue = x.queue := by
  unfold Port.trained
  by_cases h : x.state = .retraining
  · simp [h]
  · simp [h]

theorem Dev.portTraining_up {d : Dev} {p pass w lanes : Nat} (peerId peerPort peerSeq : Nat)
    (hx : (d.port p).state = .training ∨ (d.port p).state = .retraining)
    (hl : laneSet (d.fget bzpCtlMaxwidth p) pass = some (w, lanes)) :
    d.portTraining p pass peerId peerPort peerSeq
      = (d.fcount bzpTraincntOk p 1).movePort p (Port.trained w lanes peerId peerPort peerSeq) := by
  unfold Dev.portTraining
  rcases hx with hx | hx <;> simp only [hx, hl] <;> rfl

theorem Dev.portTraining_failed {d : Dev} {p pass : Nat} (peerId peerPort peerSeq : Nat)
    (hx : (d.port p).state = .training ∨ (d.port p).state = .retraining)
    (hl : laneSet (d.fget bzpCtlMaxwidth p) pass = none) :
    d.portTraining p pass peerId peerPort peerSeq = d.trainFailed p := by
  unfold Dev.portTraining
  rcases hx with hx | hx <;> simp only [hx, hl]

/-- A training that failed. -/
theorem Dev.trainFailed_spec (d : Dev) (p : Nat) :
    ((d.trainFailed p).port p).state = .retryWait ∧ ((d.trainFailed p).port p).width = 0
    ∧ ((d.trainFailed p).port p).retryMs = d.nextRetry p ∧ ((d.trainFailed p).port p).replay = []
    ∧ (d.trainFailed p).fget bzpTraincntFail p
        = satAdd (2 ^ bzpTraincntFail.width - 1) (d.fget bzpTraincntFail p) 1 := by
  have hp := (Dev.movePort_moved (d.fcount bzpTraincntFail p 1) p
    (fun x => { x.lost .retryWait with retryMs := d.nextRetry p })).port
  have ht : (d.trainFailed p).port p = _ := Dev.port_dropTransit ..
  rw [hp] at ht
  rw [ht]
  refine ⟨rfl, rfl, rfl, rfl, ?_⟩
  exact (Dev.fget_movePort _ p _ p (g := bzpTraincntFail) (by decide)).trans (Dev.fget_fcount_sat ..)

/-! ### The host's writes of BZP.CTL -/

theorem Dev.pageWrite_bzp (d : Dev) (m : Mem) (p v : Nat) (hb : d.blockOpen pBZP p = true) :
    d.pageWrite m pBZP p 0x40 v = d.bzpCtl p v :=
  Dev.pageWrite_block d m v (Dev.pageReset_other d rfl) (by decide) hb

/-- The fields that a write of BZP.CTL stores. -/
def Dev.bzpSet (d : Dev) (p v : Nat) : Dev :=
  (d.fset bzpCtlMaxwidth p (bzpCtlMaxwidth.stored (bits v 2 2))).fset bzpCtlTrainEn p (b2n (bit v 0))

theorem Dev.bzpCtl_eq (d : Dev) (p v : Nat) :
    d.bzpCtl p v = if bit v 1 then (if bit v 0 then (d.bzpSet p v).portOn p else (d.bzpSet p v).portOff p).retrain p
      else if bit v 0 then (d.bzpSet p v).portOn p else (d.bzpSet p v).portOff p := rfl

theorem Dev.fget_bzpSet (d : Dev) (p v : Nat) : (d.bzpSet p v).fget bzpCtlTrainEn p = b2n (bit v 0) := by
  rw [Dev.bzpSet, Dev.fget_fset_same]
  cases bit v 0 <;> rfl

theorem Dev.portOn_off {d : Dev} {p : Nat} (h : (d.port p).state = .off) (ha : d.active pBZP p = true)
    (ht : d.fget bzpCtlTrainEn p = 1) : d.portOn p = d.movePort p (fun x => { x with state := .training }) :=
  if_pos ⟨h, ha, Dev.fbit_iff.mpr ht⟩

theorem Dev.portOn_same {d : Dev} {p : Nat} (h : (d.port p).state ≠ .off) : d.portOn p = d := if_neg fun hc => h hc.1

theorem Dev.portOff_state (d : Dev) (p : Nat) : ((d.portOff p).port p).state = .off := by
  unfold Dev.portOff
  split
  · assumption
  · rw [Dev.port_dropTransit, (Dev.movePort_moved ..).port]; rfl

theorem Dev.fget_portOff (d : Dev) (p : Nat) {g : Field} (j : Nat) (h : g.place < 2 ^ 23 ∧ g.place / 2 ^ 17 ∉ memClasses) :
    (d.portOff p).fget g j = d.fget g j := by
  unfold Dev.portOff
  split
  · rfl
  · exact Dev.fget_movePort _ p _ j h

theorem Dev.startRetrain_up {d : Dev} {p : Nat} (h : (d.port p).state = .up) :
    d.startRetrain p = d.movePort p (fun x => { x with state := .retraining, width := 0, lanes := 0 }) := if_pos h

theorem Dev.startTraining_waiting {d : Dev} {p : Nat} (h : (d.port p).state = .retryWait) :
    d.startTraining p = d.movePort p (fun x => { x with state := .training }) := if_pos h

/-! ### Codewords that FEC could not correct -/

theorem Dev.fecUncorrectable_up {d : Dev} {p : Nat} (w : Bool) (h : (d.port p).state = .up) :
    let n := if w then 1 else (d.port p).fecUnc + 1
    let e := (d.fcount bzpFecuncCount p 1).setPort p { d.port p with fecUnc := n }
    d.fecUncorrectable p w = if 16 ≤ n then e.startRetrain p else e := by
  intro n e
  unfold Dev.fecUncorrectable
  have hp : (d.fcount bzpFecuncCount p 1).port p = d.port p := rfl
  dsimp only
  rw [hp, if_pos h]
  rfl

theorem Dev.fecUncorrectable_spec {d : Dev} {p : Nat} (w : Bool) (h : (d.port p).state = .up) :
    (d.fecUncorrectable p w).fget bzpFecuncCount p = satAdd (2 ^ bzpFecuncCount.width - 1) (d.fget bzpFecuncCount p) 1
    ∧ ∃ y, d.PortMoved (d.fecUncorrectable p w) p y ∧ y.fecUnc = (if w then 1 else (d.port p).fecUnc + 1)
      ∧ y.state = (if w = false ∧ 15 ≤ (d.port p).fecUnc then .retraining else .up) := by
  rw [Dev.fecUncorrectable_up w h]
  have hm := Dev.setPort_moved (d.fcount bzpFecuncCount p 1) p
    { d.port p with fecUnc := if w then 1 else (d.port p).fecUnc + 1 }
  by_cases hn : 16 ≤ (if w then 1 else (d.port p).fecUnc + 1)
  · have hc : w = false ∧ 15 ≤ (d.port p).fecUnc := by cases w <;> simp at hn ⊢; omega
    rw [if_pos hn, if_pos hc, Dev.startRetrain_up (by rw [hm.port]; exact h)]
    refine ⟨?_, _, (hm.trans (Dev.movePort_moved ..)).of_brezin rfl, by rw [hm.port], rfl⟩
    exact (Dev.fget_movePort _ p _ p (g := bzpFecuncCount) (by decide)).trans (Dev.fget_fcount_sat ..)
  · have hc : ¬ (w = false ∧ 15 ≤ (d.port p).fecUnc) := by
      rintro ⟨rfl, h15⟩
      exact hn (by simp; omega)
    rw [if_neg hn, if_neg hc]
    exact ⟨Dev.fget_fcount_sat .., _, hm.of_brezin rfl, rfl, h⟩

/-- A write of BZP.CTL without RETRAIN. -/
theorem Dev.trainWrite (d : Dev) (m : Mem) {p v : Nat} (hb : d.blockOpen pBZP p = true) (h1 : bit v 1 = false) :
    (if !bit v 1 then d.pageWrite m pBZP p 0x40 v else d)
      = (if bit v 0 then (d.bzpSet p v).portOn p else (d.bzpSet p v).portOff p)
    ∧ (if !bit v 1 then d.pageWrite m pBZP p 0x40 v else d).mask 528424 = d.mask 528424 := by
  have hd : (if !bit v 1 then d.pageWrite m pBZP p 0x40 v else d) = d.bzpCtl p v := by
    rw [h1, Dev.pageWrite_bzp d m p v hb]; rfl
  rw [hd]
  refine ⟨?_, Dev.bzpCtl_mask (by decide) ..⟩
  rw [Dev.bzpCtl_eq, h1, if_neg Bool.false_ne_true]

/-- A write of BZP.CTL with RETRAIN and TRAIN_EN, of a port that is not OFF. -/
theorem Dev.retrainWrite (d : Dev) (m : Mem) {p v : Nat} (hb : d.blockOpen pBZP p = true) (h1 : bit v 1 = true)
    (h0 : bit v 0 = true) (hx : (d.port p).state ≠ .off) :
    (if bit v 1 then d.pageWrite m pBZP p 0x40 v else d) = (d.bzpSet p v).retrain p
    ∧ (if bit v 1 then d.pageWrite m pBZP p 0x40 v else d).mask 528424 = d.mask 528424 := by
  have hd : (if bit v 1 then d.pageWrite m pBZP p 0x40 v else d) = d.bzpCtl p v := by
    rw [h1, Dev.pageWrite_bzp d m p v hb]; rfl
  rw [hd]
  refine ⟨?_, Dev.bzpCtl_mask (by decide) ..⟩
  rw [Dev.bzpCtl_eq, if_pos h1, if_pos h0, Dev.portOn_same (d := d.bzpSet p v) hx]

/-- Settles O42: each clause is one move of the port (`Dev.movePort_moved`). -/
theorem portStates : Obligations.PortStates := by
  intro s p v pass peerId peerPort peerSeq w hp hw
  have hok : portOk p = true := decide_eq_true hp
  refine ⟨fun hx => ⟨fun wd lanes hl => ?_, fun hl => ?_⟩, fun hx => ?_, fun hx => ?_, fun ha hb =>
    ⟨fun h1 h0 hx hact => ?_, fun h1 h0 => ?_, fun h1 h0 hx => ?_, fun h1 h0 hx => ?_⟩,
    fun hx => ⟨?_, ?_, ?_⟩, fun hx => ⟨?_, ?_⟩⟩
  · refine Answers.parts [.regs, .evr, .deckle, .brezin]
      (f := fun _ d => d.portTraining p pass peerId peerPort peerSeq) rfl hok hw (Dev.portTraining_mask (by decide) ..)
      (by decide) fun ho => ?_
    dsimp only at ho ⊢
    rw [Dev.portTraining_up peerId peerPort peerSeq hx hl] at ho ⊢
    obtain ⟨hport, hothers, hchans⟩ := (Dev.movePort_moved (s.dev.fcount bzpTraincntOk p 1) p
      (Port.trained wd lanes peerId peerPort peerSeq)).of_brezin (d := s.dev) rfl
    have hsp := Port.trained_spec wd lanes peerId peerPort peerSeq (s.dev.port p)
    have hport' : ((s.dev.fcount bzpTraincntOk p 1).movePort p (Port.trained wd lanes peerId peerPort peerSeq)).port p
        = (s.dev.port p).trained wd lanes peerId peerPort peerSeq := hport
    rw [hport']
    obtain ⟨h1, h2, h3, h4, h5, h6, h7, h8, h9, h10⟩ := hsp
    exact ⟨h1, h2, h3, h4, h5, h6, h7, h8, h9, h10, hothers, hchans, ho⟩
  · refine Answers.parts [.regs, .evr, .deckle, .brezin]
      (f := fun _ d => d.portTraining p pass peerId peerPort peerSeq) rfl hok hw (Dev.portTraining_mask (by decide) ..)
      (by decide) fun ho => ?_
    dsimp only
    rw [Dev.portTraining_failed peerId peerPort peerSeq hx hl]
    exact Dev.trainFailed_spec s.dev p
  · refine Answers.parts [.regs, .evr, .deckle, .brezin] (f := fun _ d => d.startTraining p) rfl hok hw
      (Dev.startTraining_mask (by decide) ..) (by decide) fun ho => ?_
    dsimp only at ho ⊢
    rw [Dev.startTraining_waiting hx] at ho ⊢
    obtain ⟨hport, hothers, hchans⟩ := Dev.movePort_moved s.dev p (fun x => { x with state := .training })
    exact ⟨hport, hothers, hchans, ho⟩
  · exact runIf_same hok hw (if_neg hx)
  · obtain ⟨hwrite, hm⟩ := Dev.trainWrite s.dev s.mem (p := p) hb h1
    refine Answers.hostParts [.regs, .evr, .deckle, .brezin]
      (g := fun m d => if !bit v 1 then d.pageWrite m pBZP p 0x40 v else d) rfl hok ha hw hm (by decide) fun ho => ?_
    have hen : (s.dev.bzpSet p v).fget bzpCtlTrainEn p = 1 := (s.dev.fget_bzpSet p v).trans (by rw [h0]; rfl)
    dsimp only at ho ⊢
    rw [hwrite, if_pos h0, Dev.portOn_off (d := s.dev.bzpSet p v) hx hact hen] at ho ⊢
    obtain ⟨hport, hothers, hchans⟩ :=
      (Dev.movePort_moved (s.dev.bzpSet p v) p (fun x => { x with state := .training })).of_brezin (d := s.dev) rfl
    exact ⟨hport, (Dev.fget_movePort _ p _ p (by decide)).trans hen, hothers, hchans, ho⟩
  · obtain ⟨hwrite, hm⟩ := Dev.trainWrite s.dev s.mem (p := p) hb h1
    refine Answers.hostParts [.regs, .evr, .deckle, .brezin]
      (g := fun m d => if !bit v 1 then d.pageWrite m pBZP p 0x40 v else d) rfl hok ha hw hm (by decide) fun ho => ?_
    dsimp only
    rw [hwrite, if_neg (by rw [h0]; exact Bool.false_ne_true)]
    exact ⟨Dev.portOff_state .., (Dev.fget_portOff _ p p (by decide)).trans ((s.dev.fget_bzpSet p v).trans (by rw [h0]; rfl))⟩
  · obtain ⟨hwrite, hm⟩ := Dev.retrainWrite s.dev s.mem (p := p) hb h1 h0 (by rw [hx]; decide)
    refine Answers.hostParts [.regs, .evr, .deckle, .brezin]
      (g := fun m d => if bit v 1 then d.pageWrite m pBZP p 0x40 v else d) rfl hok ha hw hm (by decide) fun ho => ?_
    have hr : (s.dev.bzpSet p v).retrain p = (s.dev.bzpSet p v).movePort p
        (fun x => { x with state := .retraining, width := 0, lanes := 0 }) :=
      (if_pos hx).trans (Dev.startRetrain_up (d := s.dev.bzpSet p v) hx)
    dsimp only at ho ⊢
    rw [hwrite, hr] at ho ⊢
    obtain ⟨hport, hothers, hchans⟩ := (Dev.movePort_moved (s.dev.bzpSet p v) p
      (fun x => { x with state := .retraining, width := 0, lanes := 0 })).of_brezin (d := s.dev) rfl
    exact ⟨hport, hothers, hchans, ho⟩
  · obtain ⟨hwrite, hm⟩ := Dev.retrainWrite s.dev s.mem (p := p) hb h1 h0 (by rw [hx]; decide)
    refine Answers.hostParts [.regs, .evr, .deckle, .brezin]
      (g := fun m d => if bit v 1 then d.pageWrite m pBZP p 0x40 v else d) rfl hok ha hw hm (by decide) fun ho => ?_
    have hup : ¬ ((s.dev.bzpSet p v).port p).state = .up := fun hc => PortState.noConfusion (hx.symm.trans hc)
    have hr : (s.dev.bzpSet p v).retrain p = (s.dev.bzpSet p v).movePort p (fun x => { x with state := .training }) :=
      (if_neg hup).trans (Dev.startTraining_waiting (d := s.dev.bzpSet p v) hx)
    dsimp only at ho ⊢
    rw [hwrite, hr] at ho ⊢
    obtain ⟨hport, hothers, hchans⟩ :=
      (Dev.movePort_moved (s.dev.bzpSet p v) p (fun x => { x with state := .training })).of_brezin (d := s.dev) rfl
    exact ⟨hport, hothers, hchans, ho⟩
  · refine Answers.parts [.regs, .evr, .deckle, .brezin] (f := fun _ d => d.startRetrain p) rfl hok hw
      (Dev.startRetrain_mask (by decide) ..) (by decide) fun ho => ?_
    dsimp only at ho ⊢
    rw [Dev.startRetrain_up hx] at ho ⊢
    obtain ⟨hport, hothers, hchans⟩ :=
      Dev.movePort_moved s.dev p (fun x => { x with state := .retraining, width := 0, lanes := 0 })
    exact ⟨hport, hothers, hchans, ho⟩
  · have he : s.dev.llTimeout p = s.dev.setPort p { s.dev.port p with resend := (s.dev.port p).replay.length } := if_pos hx
    obtain ⟨hport, hothers, hchans⟩ := Dev.setPort_moved s.dev p
      { s.dev.port p with resend := (s.dev.port p).replay.length }
    exact Answers.quiet (f := fun _ d => d.llTimeout p) rfl hok he hw ⟨hport, hothers, hchans,
      State.onlyParts_of_mask [.regs, .evr, .deckle, .brezin] rfl⟩
  · obtain ⟨hcount, y, ⟨hport, hothers, hchans⟩, hn, hst⟩ := Dev.fecUncorrectable_spec w hx
    refine Answers.parts [.regs, .evr, .deckle, .brezin] (f := fun _ d => d.fecUncorrectable p w) rfl hok hw
      (Dev.fecUncorrectable_mask (by decide) ..) (by decide) fun ho => ?_
    dsimp only at ho ⊢
    rw [hport]
    exact ⟨hcount, hn, hst, hothers, hchans, ho⟩
  · exact runIf_same hok hw (if_neg hx)
  · exact runIf_same hok hw (if_neg hx)

end Sys2Proof.Machine
end


section
/-! PROOFS. The window of BAR 4 (chapter 14): what a read does at the dies. -/

namespace Sys2Proof.Machine

/-- Stack 0 lists the changed cells of its first line twice. -/
def Stack.listsTwice : Stack := { Stack.reset with
  cells := [(0, ⟨0, [(70, 1)], false, List.replicate 64 0⟩), (0, ⟨0, [(70, 1)], false, List.replicate 64 0⟩)] }

def State.listsTwice : State :=
  { State.withWornRegion with dev := { Dev.withWornRegion with stks := [(0, Stack.listsTwice)] } }

/-- Refutes O49: the statement takes any state, so one whose stack lists a line's changed cells twice; a read of that line
by the window decodes it once for each entry, and STK.CECNT counts two corrected reads. -/
theorem not_hostWindow : ¬ Obligations.HostWindow := by
  intro h
  obtain ⟨-, hcells, -⟩ := h State.listsTwice 0 [0] Ecc.clean rfl rfl rfl (by decide) (by decide +kernel)
  obtain ⟨-, hcorrected⟩ := hcells (by decide +kernel) (by decide +kernel) ⟨0, [(70, 1)], false, List.replicate 64 0⟩
    (by decide +kernel) (by decide +kernel)
  obtain ⟨t, ht, -, -, hcount⟩ := hcorrected 1 [] (by decide +kernel) (by decide) (by decide +kernel)
  obtain rfl := exec_runIf_next (ok := rowOk Ecc.clean.row)
    (f := fun m d => d.host fun d => d.bar4Read m 0 [0].length Ecc.clean) rfl ht
  exact absurd hcount (by decide +kernel)

end Sys2Proof.Machine
end


section
/-! PROOFS. The states of units and their faults (chapters 2 and 16). -/

namespace Sys2Proof.Machine

/-! ### Pages -/

theorem Dev.unit_congr {d e : Dev} (h : e.units = d.units) (c i : Nat) : e.unit c i = d.unit c i := by
  rw [Dev.unit, Dev.unit, h]

theorem Dev.unit_of_mask {d e : Dev} {F : Nat} (hF : F.testBit 4 = false) (h : e.mask F = d.mask F) (c i : Nat) :
    e.unit c i = d.unit c i := Dev.unit_congr (Dev.units_of_mask hF h) c i

theorem Dev.unit_onUnit_same (d : Dev) (c i : Nat) (f : UnitPage → UnitPage) : (d.onUnit c i f).unit c i = f (d.unit c i) :=
  Dev.unit_setUnit_same ..

theorem Dev.unit_onUnit_ne (d : Dev) {c i c' i' : Nat} (f : UnitPage → UnitPage) (h : c' * 256 + i' ≠ c * 256 + i) :
    (d.onUnit c i f).unit c' i' = d.unit c' i' := Dev.unit_setUnit_ne _ _ h

/-- Pages have different numbers where their classes or instances differ. -/
theorem unitKey_ne {c i c' i' : Nat} (hi : i < 256) (hi' : i' < 256) (h : (c', i') ≠ (c, i)) :
    c' * 256 + i' ≠ c * 256 + i := fun he => h (by
  have h1 : c' = c := by omega
  have h2 : i' = i := by omega
  rw [h1, h2])

theorem instances_lt {cls inst : Nat} (h : inst < instances cls) : inst < 256 :=
  Nat.lt_of_lt_of_le h (by
    unfold instances
    split <;> (try split) <;> decide)

/-- What an error sets in its page besides its counts and its capture. -/
theorem UnitPage.setErr_spec (u : UnitPage) (bs code sub p0 p1 p2 : Nat) :
    let v := u.setErr bs code sub p0 p1 p2
    v.err = u.err ||| bs ∧ v.state = u.state ∧ v.reason = u.reason ∧ v.forced = u.forced ∧ v.forceReq = u.forceReq
    ∧ v.mask = u.mask := by
  unfold UnitPage.setErr
  dsimp only
  split <;> exact ⟨rfl, rfl, rfl, rfl, rfl, rfl⟩

theorem Dev.pgErrSub_units (d : Dev) (cls inst bs code sub p0 p1 p2 : Nat) (always : Bool) :
    (d.pgErrSub cls inst bs code sub p0 p1 p2 always).units
      = (d.setUnit cls inst ((d.unit cls inst).setErr bs code sub p0 p1 p2)).units := by
  have hr : ∀ (e : Dev) r, (e.raise r).units = e.units := fun e r =>
    Dev.units_of_mask (F := 32) (by decide) (Dev.raise_mask (by decide) ..)
  have hs : ∀ (e : Dev) b, (e.errorSignal b).units = e.units := fun e b =>
    Dev.units_of_mask (F := 4194336) (by decide) (Dev.errorSignal_mask (by decide) ..)
  unfold Dev.pgErrSub
  dsimp only
  split <;> split <;> (try split) <;> simp only [hr, hs]

theorem Dev.uccErr_units (d : Dev) (cls inst bs sub p0 p1 p2 : Nat) :
    (d.uccErr cls inst bs sub p0 p1 p2).units
      = (d.setUnit cls inst ((d.unit cls inst).setErr bs 0x3001 sub p0 p1 p2)).units := by
  have hr : ∀ (e : Dev) r, (e.raise r).units = e.units := fun e r =>
    Dev.units_of_mask (F := 32) (by decide) (Dev.raise_mask (by decide) ..)
  have hs : ∀ (e : Dev) b, (e.errorSignal b).units = e.units := fun e b =>
    Dev.units_of_mask (F := 4194336) (by decide) (Dev.errorSignal_mask (by decide) ..)
  unfold Dev.uccErr
  dsimp only
  split <;> split <;> simp only [hr, hs]

theorem Dev.unit_pgErr_same (d : Dev) (cls inst bs code p0 p1 p2 : Nat) :
    (d.pgErr cls inst bs code p0 p1 p2).unit cls inst = (d.unit cls inst).setErr bs code 0 p0 p1 p2 :=
  (Dev.unit_congr (Dev.pgErrSub_units ..) ..).trans (Dev.unit_setUnit_same ..)

theorem Dev.unit_pgErr_ne (d : Dev) {cls inst c i : Nat} (bs code p0 p1 p2 : Nat) (h : c * 256 + i ≠ cls * 256 + inst) :
    (d.pgErr cls inst bs code p0 p1 p2).unit c i = d.unit c i :=
  (Dev.unit_congr (Dev.pgErrSub_units ..) ..).trans (Dev.unit_setUnit_ne _ _ h)

/-! ### ENABLE -/

theorem Dev.refreshUnit_units (d : Dev) (cls inst : Nat) : (d.refreshUnit cls inst).units = d.units :=
  Dev.units_of_mask (F := 4137) (by decide) (Dev.refreshUnit_mask (by decide) ..)

theorem Dev.activate_units (d : Dev) (cls inst : Nat) : (d.activate cls inst).units
    = (d.onUnit cls inst (fun u => { u with state := .active, forced := false, reason := 0 })).units := by
  have hp : ∀ e : Dev, (e.portOn inst).units = e.units := fun e =>
    Dev.units_of_mask (F := 528424) (by decide) (Dev.portOn_mask (by decide) ..)
  unfold Dev.activate
  rw [Dev.refreshUnit_units]
  split
  · exact hp _
  · rfl

theorem Dev.pageWrite_ctrl {d : Dev} (m : Mem) {cls inst : Nat} (v : Nat) (hr : d.pageReset cls = false) :
    d.pageWrite m cls inst 0x08 v = d.pgCtrl m cls inst v := by
  rw [Dev.pageWrite, hr, if_neg Bool.false_ne_true, if_pos (by decide)]
  rfl

/-- The bits of PG_CTRL as a write stores them. -/
def UnitPage.ctrlStored (cls v : Nat) (u : UnitPage) : UnitPage := { u with
  enable := bit v 0
  disReq := if drainable cls then bit v 1 else u.disReq
  forceReq := if drainable cls && bit v 2 && u.state != .disabled then true else u.forceReq }

theorem Dev.ctrlOpen_not_ignored {d : Dev} {cls inst : Nat} (h : d.ctrlOpen cls inst = true) : d.ctrlIgnored cls = false := by
  unfold Dev.ctrlOpen at h
  cases hi : d.ctrlIgnored cls
  · rfl
  · rw [hi] at h; exact absurd h (by simp)

/-- A write of PG_CTRL that moves its unit: the row of Table 2-4 that matches. -/
theorem Dev.pgCtrl_open {d : Dev} (m : Mem) {cls inst : Nat} (v : Nat) (h0 : cls ≠ 0) (h : d.ctrlOpen cls inst = true) :
    d.pgCtrl m cls inst v =
      let e := d.onUnit cls inst (UnitPage.ctrlStored cls v)
      match (d.unit cls inst).state with
      | .off => if bit v 0 && !(drainable cls && bit v 1) && (d.unit cls inst).allowed && (d.unit cls inst).testPassed
          then e.activate cls inst else e
      | .active =>
        if !drainable cls then e
        else if bit v 2 then e.forceUnit m cls inst
        else if bit v 1 || !bit v 0 then e.drainUnit m cls inst
        else e
      | .draining => if drainable cls && bit v 2 then e.forceUnit m cls inst else e
      | .disabled =>
        if bit v 0 && !(drainable cls && bit v 1) && !(drainable cls && bit v 2) && !(d.unit cls inst).fault
            && (d.unit cls inst).allowed then e.activate cls inst else e := by
  have ho : ∀ f, (d.onUnit cls inst f).ctrlOpen cls inst = true := fun _ => h
  unfold Dev.pgCtrl
  rw [if_neg (by rw [Dev.ctrlOpen_not_ignored h]; exact Bool.false_ne_true)]
  dsimp only
  rw [if_neg (by rw [ho]; simp [h0, pGLB])]
  rfl

/-- Settles O11. -/
theorem enableActivates : Obligations.EnableActivates := by
  intro s cls inst v hi h0 hv hw ha hopen hreset hallowed hst
  have hb0 : bit v 0 = true := by simp [bit]; omega
  have hb1 : bit v 1 = false := by simp [bit]; omega
  have hb2 : bit v 2 = false := by simp [bit]; omega
  have hgo : s.dev.pgCtrl s.mem cls inst v = (s.dev.onUnit cls inst (UnitPage.ctrlStored cls v)).activate cls inst := by
    rw [Dev.pgCtrl_open s.mem v h0 hopen]
    rcases hst with ⟨hst, htest⟩ | ⟨hst, hfault⟩
    · simp [hst, hb0, hb1, hallowed, htest]
    · simp [hst, hb0, hb1, hb2, hallowed, hfault]
  have hg : (if v % 8 = 1 then s.dev.pageWrite s.mem cls inst 0x08 v else s.dev)
      = (s.dev.onUnit cls inst (UnitPage.ctrlStored cls v)).activate cls inst := by
    rw [if_pos hv, Dev.pageWrite_ctrl s.mem v hreset, hgo]
  have hm : ((s.dev.onUnit cls inst (UnitPage.ctrlStored cls v)).activate cls inst).mask 528441 = s.dev.mask 528441 := by
    simp
  have hu := Dev.activate_units (s.dev.onUnit cls inst (UnitPage.ctrlStored cls v)) cls inst
  have hsame := (Dev.unit_congr hu cls inst).trans (Dev.unit_onUnit_same ..)
  rw [Dev.unit_onUnit_same] at hsame
  refine Answers.access (ok := pageExists cls inst) rfl (decide_eq_true hi) ha hg ((Dev.wout_of_mask (by decide) hm).trans hw)
    ⟨by rw [hsame], by rw [hsame]; exact hb0, by rw [hsame], by rw [hsame], by rw [hsame]; rfl, fun c i hi hi' hne => ?_, ?_, rfl⟩
  · have hk := unitKey_ne hi' hi hne
    exact (Dev.unit_congr hu c i).trans ((Dev.unit_onUnit_ne _ _ hk).trans (Dev.unit_onUnit_ne _ _ hk))
  · exact (State.onlyParts_of_mask [.phase, .regs, .units, .evr, .deckle, .brezin] hm).1

/-! ### Draining and stopping -/

/-- What the end of a drain by reason leaves of the pages: the bound sets PG_ERR.TIMEOUT. -/
theorem Dev.drainEnd_units (d : Dev) (cls inst reason n : Nat) : (d.drainEnd cls inst reason n).units =
    if reason = 5 then (d.setUnit cls inst ((d.unit cls inst).setErr bTIMEOUT 0x0014 0 5 n 0)).units else d.units := by
  unfold Dev.drainEnd
  split
  · exact Dev.pgErrSub_units ..
  · split
    · exact Dev.units_of_mask (F := 32) (by decide) (Dev.record_mask (by decide) ..)
    · rfl

theorem Dev.portOff_units (d : Dev) (p : Nat) : (d.portOff p).units = d.units :=
  Dev.units_of_mask (F := 528424) (by decide) (Dev.portOff_mask (by decide) ..)

/-- The page of a unit of a class whose entry to DISABLED changes no page. -/
def UnitPage.stopped (reason n : Nat) (u : UnitPage) : UnitPage :=
  let u := { u with state := .disabled, reason := reason, forced := n != 0, forceReq := false }
  if reason = 5 then u.setErr bTIMEOUT 0x0014 0 5 n 0 else u

theorem Dev.disableUnit_units (d : Dev) (m : Mem) {cls inst : Nat} (reason n : Nat)
    (hq : ∀ e : Dev, (e.enterDisabled m cls inst reason).units = e.units) :
    (d.disableUnit m cls inst reason n).unit cls inst = (d.unit cls inst).stopped reason n
    ∧ ∀ c i, c * 256 + i ≠ cls * 256 + inst → (d.disableUnit m cls inst reason n).unit c i = d.unit c i := by
  have hu : (d.disableUnit m cls inst reason n).units = ((d.onUnit cls inst (fun u => { u with
      state := .disabled, reason := reason, forced := n != 0, forceReq := false })).drainEnd cls inst reason n).units :=
    (Dev.refreshUnit_units ..).trans (hq _)
  rw [Dev.drainEnd_units] at hu
  unfold UnitPage.stopped
  by_cases h5 : reason = 5
  · rw [if_pos h5] at hu
    refine ⟨?_, fun c i hne => ?_⟩
    · rw [Dev.unit_congr hu, Dev.unit_setUnit_same, Dev.unit_onUnit_same]
      exact (if_pos h5).symm
    · rw [Dev.unit_congr hu, Dev.unit_setUnit_ne _ _ hne, Dev.unit_onUnit_ne _ _ hne]
  · rw [if_neg h5] at hu
    refine ⟨?_, fun c i hne => ?_⟩
    · rw [Dev.unit_congr hu, Dev.unit_onUnit_same]
      exact (if_neg h5).symm
    · rw [Dev.unit_congr hu, Dev.unit_onUnit_ne _ _ hne]

theorem UnitPage.stopped_spec (u : UnitPage) (reason n : Nat) :
    (u.stopped reason n).state = .disabled ∧ (u.stopped reason n).reason = reason ∧ (u.stopped reason n).forced = (n != 0)
    ∧ (u.stopped reason n).forceReq = false ∧ (u.stopped reason n).err = if reason = 5 then u.err ||| bTIMEOUT else u.err := by
  unfold UnitPage.stopped
  dsimp only
  split
  · obtain ⟨herr, hst, hre, hfo, hfr, -⟩ := UnitPage.setErr_spec
      { u with state := .disabled, reason := reason, forced := n != 0, forceReq := false } bTIMEOUT 0x0014 0 5 n 0
    exact ⟨hst, hre, hfo, hfr, herr⟩
  · exact ⟨rfl, rfl, rfl, rfl, rfl⟩

/-- The classes of O12. -/
theorem Dev.enterDisabled_drains (m : Mem) {cls : Nat} (inst reason : Nat) (h : cls = 0x12 ∨ cls = 0x14) (e : Dev) :
    (e.enterDisabled m cls inst reason).units = e.units := by
  rcases h with rfl | rfl
  · rfl
  · exact Dev.portOff_units ..

theorem Dev.stopIntake_drains (d : Dev) (m : Mem) {cls : Nat} (inst : Nat) (h : cls = 0x12 ∨ cls = 0x14) :
    d.stopIntake m cls inst = d := by
  rcases h with rfl | rfl <;> rfl

/-- What a stack or a port holds does not depend on the pages. -/
theorem Dev.inFlight_onUnit (d : Dev) {cls : Nat} (inst : Nat) (h : cls = 0x12 ∨ cls = 0x14) (c i : Nat)
    (f : UnitPage → UnitPage) : (d.onUnit c i f).inFlight cls inst = d.inFlight cls inst := by
  rcases h with rfl | rfl <;> rfl

theorem drainable_drains {cls : Nat} (h : cls = 0x12 ∨ cls = 0x14) : drainable cls = true := by
  rcases h with rfl | rfl <;> rfl

/-- A disable request of an ACTIVE stack or port. -/
theorem Dev.drainUnit_spec (d : Dev) (m : Mem) {cls : Nat} (inst : Nat) (h : cls = 0x12 ∨ cls = 0x14) :
    if d.inFlight cls inst = 0 then
      ((d.drainUnit m cls inst).unit cls inst).state = .disabled ∧ ((d.drainUnit m cls inst).unit cls inst).reason = 1
        ∧ ((d.drainUnit m cls inst).unit cls inst).forced = false
    else ((d.drainUnit m cls inst).unit cls inst).state = .draining := by
  unfold Dev.drainUnit
  dsimp only
  rw [Dev.stopIntake_drains _ m inst h, Dev.inFlight_onUnit _ inst h]
  split
  · obtain ⟨hst, hre, hfo, -, -⟩ := UnitPage.stopped_spec
      ((d.onUnit cls inst (fun u => { u with state := .draining })).unit cls inst) 1 0
    rw [(Dev.disableUnit_units _ m 1 0 (Dev.enterDisabled_drains m inst 1 h)).1]
    exact ⟨hst, hre, hfo⟩
  · rw [Dev.unit_congr (Dev.refreshUnit_units ..), Dev.unit_onUnit_same]

/-- A forced stop of an ACTIVE stack or port. -/
theorem Dev.forceUnit_spec (d : Dev) (m : Mem) {cls : Nat} (inst : Nat) (h : cls = 0x12 ∨ cls = 0x14) :
    ((d.forceUnit m cls inst).unit cls inst).state = .disabled ∧ ((d.forceUnit m cls inst).unit cls inst).reason = 6
      ∧ ((d.forceUnit m cls inst).unit cls inst).forceReq = false
      ∧ ((d.forceUnit m cls inst).unit cls inst).forced = decide (d.inFlight cls inst ≠ 0) := by
  unfold Dev.forceUnit
  dsimp only
  generalize Dev.discardWork _ m cls inst false = e
  obtain ⟨hst, hre, hfo, hfr, -⟩ := UnitPage.stopped_spec (e.unit cls inst) 6 (d.inFlight cls inst)
  rw [(Dev.disableUnit_units e m 6 _ (Dev.enterDisabled_drains m inst 6 h)).1]
  refine ⟨hst, hre, hfr, hfo.trans ?_⟩
  by_cases hz : d.inFlight cls inst = 0 <;> simp [hz]

/-- Settles O12. -/
theorem drainAndForce : Obligations.DrainAndForce := by
  intro s cls inst hcls hi hw
  have h0 : cls ≠ 0 := by rcases hcls with rfl | rfl <;> decide
  have hpage : pageExists cls inst = true := decide_eq_true hi
  have hreset : s.dev.pageReset cls = false := Dev.pageReset_other _ (by rcases hcls with rfl | rfl <;> rfl)
  have hdr := drainable_drains hcls
  refine ⟨fun v hv ha hopen hact => ⟨fun h2 h01 => ?_, fun h2 => ?_⟩, fun hst => ⟨fun h => ?_, fun h => ?_⟩⟩
  · refine Answers.of_runIf (f := fun m d => d.host fun d => if !bit v 2 && (bit v 1 || !bit v 0)
      then d.pageWrite m cls inst 0x08 v else d) rfl hpage ?_
    have hor : (bit v 1 || !bit v 0) = true := by rcases h01 with h | h <;> simp [h]
    have hg : (s.dev.host fun d => if !bit v 2 && (bit v 1 || !bit v 0) then d.pageWrite s.mem cls inst 0x08 v else d)
        = (s.dev.onUnit cls inst (UnitPage.ctrlStored cls v)).drainUnit s.mem cls inst := by
      rw [Dev.host_on ha, h2, hor, Dev.pageWrite_ctrl s.mem v hreset, Dev.pgCtrl_open s.mem v h0 hopen]
      simp [hact, hdr, h2, hor]
    have hspec := (s.dev.onUnit cls inst (UnitPage.ctrlStored cls v)).drainUnit_spec s.mem inst hcls
    rw [Dev.inFlight_onUnit _ inst hcls, ← hg] at hspec
    exact hspec
  · refine Answers.of_runIf (f := fun m d => d.host fun d => if bit v 2 then d.pageWrite m cls inst 0x08 v else d)
      rfl hpage ?_
    have hg : (s.dev.host fun d => if bit v 2 then d.pageWrite s.mem cls inst 0x08 v else d)
        = (s.dev.onUnit cls inst (UnitPage.ctrlStored cls v)).forceUnit s.mem cls inst := by
      rw [Dev.host_on ha, if_pos h2, Dev.pageWrite_ctrl s.mem v hreset, Dev.pgCtrl_open s.mem v h0 hopen]
      simp [hact, hdr, h2]
    have hspec := (s.dev.onUnit cls inst (UnitPage.ctrlStored cls v)).forceUnit_spec s.mem inst hcls
    rw [Dev.inFlight_onUnit _ inst hcls, ← hg] at hspec
    exact hspec
  · refine Answers.of_runIf (f := fun m d => d.drainComplete m cls inst) rfl hpage ?_
    have hg : s.dev.drainComplete s.mem cls inst = s.dev.disableUnit s.mem cls inst 1 0 := if_pos ⟨hst, h⟩
    obtain ⟨h1, h2, h3, -, h5⟩ := UnitPage.stopped_spec (s.dev.unit cls inst) 1 0
    rw [← (Dev.disableUnit_units s.dev s.mem 1 0 (Dev.enterDisabled_drains s.mem inst 1 hcls)).1, ← hg] at h1 h2 h3 h5
    exact ⟨h1, h2, h3, h5⟩
  · refine Answers.of_runIf (f := fun m d => d.drainExpiry m cls inst) rfl hpage ?_
    have hg : s.dev.drainExpiry s.mem cls inst
        = (s.dev.discardWork s.mem cls inst false).disableUnit s.mem cls inst 5 (s.dev.inFlight cls inst) := by
      unfold Dev.drainExpiry
      rw [if_neg (not_not.mpr hst)]
      exact if_neg h
    obtain ⟨h1, h2, h3, -, h5⟩ := UnitPage.stopped_spec ((s.dev.discardWork s.mem cls inst false).unit cls inst) 5
      (s.dev.inFlight cls inst)
    rw [← (Dev.disableUnit_units _ s.mem 5 _ (Dev.enterDisabled_drains s.mem inst 5 hcls)).1, ← hg] at h1 h2 h3 h5
    refine ⟨h1, h2, h3.trans (bne_iff_ne.mpr h), ?_⟩
    have hbit : bit ((s.dev.discardWork s.mem cls inst false).unit cls inst).err 5 = true
        ∨ bit bTIMEOUT 5 = true := .inr (by decide)
    exact (congrArg (fun n => bit n 5) h5).trans (by rw [if_pos rfl, bit_or]; simp [hbit])

end Sys2Proof.Machine
end


section
/-! PROOFS. Containment of faults, and Felt retries (chapters 1 and 16). -/

namespace Sys2Proof.Machine

/-! ### Faults of a unit -/

/-- The classes whose fault concerns no other unit. -/
abbrev aloneClasses : List Nat := [pFLT, pBZP, pEVR, pDOC, pCAL, pTHM]

theorem Dev.enterDisabled_alone (m : Mem) {cls : Nat} (inst reason : Nat) (h : cls ∈ aloneClasses) (e : Dev) :
    (e.enterDisabled m cls inst reason).mask 528424 = e.mask 528424 := by
  simp only [List.mem_cons, List.not_mem_nil, or_false] at h
  rcases h with rfl | rfl | rfl | rfl | rfl | rfl
  · rfl
  · exact Dev.portOff_mask (by decide) ..
  all_goals rfl

theorem Dev.discardWork_alone (d : Dev) (m : Mem) {cls : Nat} (inst : Nat) (ucc : Bool) (h : cls ∈ aloneClasses) :
    (d.discardWork m cls inst ucc).mask 524288 = d.mask 524288 := by
  simp only [List.mem_cons, List.not_mem_nil, or_false] at h
  rcases h with rfl | rfl | rfl | rfl | rfl | rfl
  · rfl
  · exact Dev.dropQueued_mask (by decide) ..
  all_goals rfl

/-- A unit of such a class that holds a UCC is DISABLED; no other page and no tile changes. -/
theorem Dev.uccUnit_spec {d : Dev} (m : Mem) {cls inst : Nat} (h : cls ∈ aloneClasses)
    (hst : (d.unit cls inst).state = .active ∨ (d.unit cls inst).state = .draining) :
    (∃ n, (d.uccUnit m cls inst).unit cls inst = (d.unit cls inst).stopped 7 n)
    ∧ (∀ c i, c * 256 + i ≠ cls * 256 + inst → (d.uccUnit m cls inst).unit c i = d.unit c i)
    ∧ (d.uccUnit m cls inst).mask 4722745 = d.mask 4722745
    ∧ (cls = pBZP → ((d.uccUnit m cls inst).port inst).state = .off) := by
  have htil : cls ≠ pTIL := by rintro rfl; exact absurd h (by decide)
  generalize hx : (d.discardWork m cls inst true).disableUnit m cls inst 7 (d.inFlight cls inst) = x
  have he : d.uccUnit m cls inst = if cls = pEVR then x.evrLose else x := by
    unfold Dev.uccUnit
    rcases hst with hst | hst <;> simp only [hst, htil, false_and, if_false, hx]
  have hlose : (d.uccUnit m cls inst).mask 40 = x.mask 40 := by
    rw [he]
    split
    · exact Dev.evrLose_mask (by decide) ..
    · rfl
  have hdis := Dev.discardWork_alone d m inst true h
  have hq : ∀ e : Dev, (e.enterDisabled m cls inst 7).units = e.units := fun e =>
    Dev.units_of_mask (F := 528424) (by decide) (Dev.enterDisabled_alone m inst 7 h e)
  obtain ⟨hsame, hother⟩ := Dev.disableUnit_units (d.discardWork m cls inst true) m (cls := cls) (inst := inst) 7
    (d.inFlight cls inst) hq
  rw [hx] at hsame hother
  have hunit : ∀ c i, (d.discardWork m cls inst true).unit c i = d.unit c i := fun c i =>
    Dev.unit_of_mask (F := 524288) (by decide) hdis c i
  have hux : ∀ c i, (d.uccUnit m cls inst).unit c i = x.unit c i := fun c i => Dev.unit_of_mask (F := 40) (by decide) hlose c i
  have hxm : x.mask 4722745 = (d.discardWork m cls inst true).mask 4722745 := by
    rw [← hx]
    unfold Dev.disableUnit
    dsimp only
    rw [Dev.refreshUnit_mask (by decide), Dev.mask_sub (P := 528424) (by decide) (Dev.enterDisabled_alone m inst 7 h _),
      Dev.drainEnd_mask (by decide), Dev.onUnit_mask (by decide)]
  refine ⟨⟨d.inFlight cls inst, ?_⟩, fun c i hne => ?_, ?_, ?_⟩
  · rw [hux, hsame, hunit]
  · rw [hux, hother c i hne, hunit]
  · rw [Dev.mask_sub (P := 40) (by decide) hlose, hxm, Dev.mask_sub (P := 524288) (by decide) hdis]
  · rintro rfl
    have hb : (d.uccUnit m pBZP inst).brezin = x.brezin := Dev.brezin_of_mask (F := 40) (by decide) hlose
    have hp : (d.uccUnit m pBZP inst).port inst = x.port inst :=
      congrArg (fun b => SMap.get Port.reset inst (Brezin.ports b)) hb
    rw [hp, ← hx]
    unfold Dev.disableUnit
    dsimp only
    generalize Dev.drainEnd _ pBZP inst 7 _ = e
    have hr : ((e.enterDisabled m pBZP inst 7).refreshUnit pBZP inst).brezin = (e.portOff inst).brezin :=
      Dev.brezin_of_mask (F := 4137) (by decide) (Dev.refreshUnit_mask (by decide) (e.portOff inst) pBZP inst)
    exact (congrArg (fun b => (SMap.get Port.reset inst (Brezin.ports b)).state) hr).trans (Dev.portOff_state ..)

/-! ### Faults of the device -/

/-- A change of each entry by its key. -/
theorem SMap.find_mapKey {α : Type} (f : Nat × α → Nat × α) (g : α → α) (k : Nat) (m : SMap α) (hk : ∀ e, (f e).1 = e.1)
    (hg : ∀ v, (f (k, v)).2 = g v) : SMap.find k (m.map f) = (SMap.find k m).map g := by
  induction m with
  | nil => rfl
  | cons e m ih =>
    obtain ⟨j, v⟩ := e
    have hf : f (j, v) = (j, (f (j, v)).2) := Prod.ext (hk (j, v)) rfl
    rw [List.map_cons, hf, SMap.find, SMap.find, ih]
    by_cases h : j = k
    · subst h; rw [if_pos rfl, if_pos rfl, hg]; rfl
    · rw [if_neg h, if_neg h]

/-- A page turned OFF with its Sheet. -/
def UnitPage.sheetOff (u : UnitPage) : UnitPage := { u with state := .off, forced := false, reason := 0, forceReq := false }

/-- A Sheet that stops turns its pages OFF and keeps what they hold of errors. -/
theorem Dev.stopSheets_unit_err (d : Dev) (c i : Nat) : (d.stopSheets.unit c i).err = (d.unit c i).err := by
  have h : SMap.find (c * 256 + i) d.stopSheets.units
      = (SMap.find (c * 256 + i) d.units).map (fun u => if computePage (c * 256 + i) then u.sheetOff else u) :=
    SMap.find_mapKey _ _ _ _ (fun e => by split <;> rfl) (fun v => by split <;> rfl)
  rw [Dev.unit, SMap.get, h, Dev.unit, SMap.get]
  cases SMap.find (c * 256 + i) d.units with
  | none => rfl
  | some u =>
    show (if computePage (c * 256 + i) then u.sheetOff else u).err = u.err
    split <;> rfl

/-- The device that fails from another phase. -/
theorem Dev.failDevice_failed {d : Dev} (h : d.phase ≠ .failed) :
    d.failDevice.phase = .failed ∧ d.failDevice.pwr.gated = true ∧ d.failDevice.launches = [] ∧ d.failDevice.posts = []
    ∧ ∀ c i, (d.failDevice.unit c i).err = (d.unit c i).err := by
  have hf : d.failDevice = (((d.dropLoads 7).stopSheets).gate).setPhase .failed := if_neg h
  have hset : ∀ e : Dev, (e.setPhase .failed).mask 33 = e.mask 33 := fun e => Dev.setPhase_mask (by decide) ..
  have hgate : ∀ e : Dev, e.gate.mask 16777224 = e.mask 16777224 := fun e => Dev.gate_mask (by decide) ..
  have hdrop : (d.dropLoads 7).mask 2097192 = d.mask 2097192 := Dev.dropLoads_mask (by decide) ..
  refine ⟨d.failDevice_spec.1, ?_, ?_, ?_, fun c i => ?_⟩
  · rw [hf, Dev.pwr_of_mask (F := 33) (by decide) (hset _)]; rfl
  · rw [hf, Dev.launches_of_mask (F := 33) (by decide) (hset _), Dev.launches_of_mask (F := 16777224) (by decide) (hgate _)]
    rfl
  · rw [hf, Dev.posts_of_mask (F := 33) (by decide) (hset _), Dev.posts_of_mask (F := 16777224) (by decide) (hgate _)]
    rfl
  · rw [hf, Dev.unit_of_mask (F := 33) (by decide) (hset _), Dev.unit_of_mask (F := 16777224) (by decide) (hgate _),
      Dev.stopSheets_unit_err, Dev.unit_of_mask (F := 2097192) (by decide) hdrop]

/-- Settles O13: `Dev.uccUnit_spec` for a unit, `Dev.failDevice_failed` for the device. -/
theorem faultContainment : Obligations.FaultContainment := by
  refine ⟨fun s cls inst sub p0 p1 p2 parity hcls hi hcon hw hst => ?_, fun s cls inst cause p hi hcon hw hon hph => ?_⟩
  · have hoff : (s.dev.unit cls inst).state ≠ .off := by rcases hst with h | h <;> rw [h] <;> decide
    have hstk : cls ≠ pSTK := by rintro rfl; exact absurd hcls (by decide)
    generalize hb : bUCC + (if parity then bPARITY else 0) = bits
    generalize hd : s.dev.uccErr cls inst bits sub p0 p1 p2 = d
    have hg : s.dev.unitUcc s.mem cls inst parity sub p0 p1 p2 = d.uccUnit s.mem cls inst := by
      unfold Dev.unitUcc
      rw [if_neg (by rw [hcon]; simp [hoff])]
      dsimp only
      rw [if_neg hstk, hb, hd]
    obtain ⟨herr, hstate, -, -, -, -⟩ := UnitPage.setErr_spec (s.dev.unit cls inst) bits 0x3001 sub p0 p1 p2
    have hu : d.unit cls inst = (s.dev.unit cls inst).setErr bits 0x3001 sub p0 p1 p2 := by
      rw [← hd]; exact (Dev.unit_congr (Dev.uccErr_units ..) ..).trans (Dev.unit_setUnit_same ..)
    have hne : ∀ c i, c * 256 + i ≠ cls * 256 + inst → d.unit c i = s.dev.unit c i := fun c i hn => by
      rw [← hd]; exact (Dev.unit_congr (Dev.uccErr_units ..) ..).trans (Dev.unit_setUnit_ne _ _ hn)
    have hm : d.mask 4722745 = s.dev.mask 4722745 := by rw [← hd]; exact Dev.uccErr_mask (by decide) ..
    obtain ⟨⟨n, hsame⟩, hother, hmask, hport⟩ := Dev.uccUnit_spec (d := d) s.mem hcls (by rw [hu, hstate]; exact hst)
    obtain ⟨h1, h2, -, -, h5⟩ := UnitPage.stopped_spec (d.unit cls inst) 7 n
    rw [← hsame] at h1 h2 h5
    rw [if_neg (by decide), hu, herr] at h5
    have hmw := hmask.trans hm
    have h2bit : bit bits 2 = true := by rw [← hb]; cases parity <;> decide
    refine Answers.quiet (ok := pageExists cls inst) (f := fun m d => d.unitUcc m cls inst parity sub p0 p1 p2) rfl
      (decide_eq_true hi) hg ((Dev.wout_of_mask (by decide) hmw).trans hw) ⟨h1, h2, ?_, ?_, fun hp => ?_, hport, fun c i hi' hn => ?_,
        Dev.tiles_of_mask (by decide) hmw, rfl⟩
    · show bit _ 2 = true
      rw [h5, bit_or, h2bit, Bool.or_true]
    · show (bit _ 2 || bit _ 3) = true
      rw [h5, bit_or, h2bit, Bool.or_true, Bool.true_or]
    · show bit _ 4 = true
      rw [h5, bit_or, ← hb, hp]
      exact Bool.or_true _
    · have hk := unitKey_ne (instances_lt hi) hi' hn
      exact (hother c i hk).trans (hne c i hk)
  · generalize hd : s.dev.pgErr cls inst bUCF 0x4001 cls cause p = d
    have hg : s.dev.deviceUcf cls inst cause p = d.failDevice := by
      unfold Dev.deviceUcf
      rw [if_neg (by rw [hcon, hon]; exact Bool.false_ne_true), hd]
    have hm : d.mask 4194352 = s.dev.mask 4194352 := by rw [← hd]; exact Dev.pgErr_mask (by decide) ..
    have hphd : d.phase ≠ .failed := by rw [Dev.phase_of_mask (by decide) hm]; exact hph
    obtain ⟨h1, h2, h3, h4, herr⟩ := Dev.failDevice_failed hphd
    have hbit : bit (d.failDevice.unit cls inst).err 3 = true := by
      rw [herr, ← hd, Dev.unit_pgErr_same, (UnitPage.setErr_spec ..).1, bit_or]
      exact (Bool.or_eq_true ..).mpr (.inr (by decide))
    have hwf : d.failDevice.wout = [] := (Dev.wout_of_mask (F := 23455545) (by decide)
      ((congrArg (Dev.mask _) hg).symm.trans (Dev.deviceUcf_mask (by decide) ..))).trans hw
    refine Answers.quiet (ok := pageExists cls inst) (f := fun _ d => d.deviceUcf cls inst cause p) rfl (decide_eq_true hi)
      hg hwf ⟨h1, h2, hbit, ?_, h3, h4, rfl⟩
    show (bit _ 2 || bit _ 3) = true
    rw [hbit, Bool.or_true]

end Sys2Proof.Machine
end


section
/-! PROOFS. Felt retries and reroutes (chapter 1). -/

namespace Sys2Proof.Machine

/-! ### Links -/

theorem Dev.feltLink_setFelt_same (d : Dev) (a b : Nat) (x : FeltLink) : (d.setFelt a b x).feltLink a b = x :=
  SMap.get_put_same ..

theorem Dev.feltLink_setFelt_ne (d : Dev) {a b a' b' : Nat} (x : FeltLink) (h : linkIndex a' b' ≠ linkIndex a b) :
    (d.setFelt a b x).feltLink a' b' = d.feltLink a' b' := SMap.get_put_ne _ _ h ..

@[simp] theorem Dev.fget_setFelt (d : Dev) (a b : Nat) (x : FeltLink) (f : Field) (i : Nat) :
    (d.setFelt a b x).fget f i = d.fget f i := rfl

theorem Dev.feltLink_of_index (d : Dev) {a b a' b' : Nat} (h : linkIndex a b = linkIndex a' b') :
    d.feltLink a b = d.feltLink a' b' := by rw [Dev.feltLink, Dev.feltLink, h]

theorem Dev.feltLink_of_mask {d e : Dev} {F : Nat} (hF : F.testBit 7 = false) (h : e.mask F = d.mask F) (a b : Nat) :
    e.feltLink a b = d.feltLink a b := by rw [Dev.feltLink, Dev.feltLink, Dev.links_of_mask hF h]

theorem linkIndex_comm (a b : Nat) : linkIndex a b = linkIndex b a := by
  rw [linkIndex, linkIndex, Nat.min_comm, Nat.max_comm]

/-- The two links of a detour between Sheets over the hub are other links. -/
theorem linkIndex_over_hub : ∀ a < 4, ∀ b < 4, a ≠ b →
    linkIndex a 4 ≠ linkIndex a b ∧ linkIndex 4 b ≠ linkIndex a b := by decide

/-- The two links of a detour to the hub over another Sheet are other links. -/
theorem linkIndex_over_sheet : ∀ a < 4, ∀ k < 4, k ≠ a →
    linkIndex a k ≠ linkIndex a 4 ∧ linkIndex k 4 ≠ linkIndex a 4 := by decide

/-- Each link stands in Table 10-1 once. -/
theorem linkIndex_unique : ∀ p ∈ linkPairs, ∀ a < 5, ∀ b < 5, a ≠ b → linkIndex p.1 p.2 = linkIndex a b →
    p = (a, b) ∨ p = (b, a) := by decide

/-! ### Routes -/

theorem Dev.rerouted_comm (d : Dev) (a b : Nat) : d.rerouted a b = d.rerouted b a := by
  have hf : ∀ x y, d.feltLink x y = d.feltLink y x := fun x y => d.feltLink_of_index (linkIndex_comm x y)
  unfold Dev.rerouted
  dsimp only
  by_cases h : a < 4 ∧ b < 4
  · rw [if_pos h, if_pos h.symm, hf a 4, hf 4 b, Bool.and_comm]
  · rw [if_neg h, if_neg (fun hc => h hc.symm), Nat.min_comm]

/-- The route that takes over a link does not depend on that link. -/
theorem Dev.rerouted_congr {d e : Dev} {a b : Nat} (ha : a < 5) (hb : b < 5) (hab : a ≠ b)
    (h : ∀ x y, linkIndex x y ≠ linkIndex a b → e.feltLink x y = d.feltLink x y) : e.rerouted a b = d.rerouted a b := by
  unfold Dev.rerouted
  dsimp only
  by_cases h4 : a < 4 ∧ b < 4
  · obtain ⟨h1, h2⟩ := linkIndex_over_hub a h4.1 b h4.2 hab
    rw [if_pos h4, if_pos h4, h _ _ h1, h _ _ h2]
  · rw [if_neg h4, if_neg h4]
    have hs : min a b < 4 := by omega
    have hi : linkIndex (min a b) 4 = linkIndex a b := by
      have hm : max a b = 4 := by omega
      rw [← hm, linkIndex, linkIndex]
      congr 2
      funext p
      rw [Nat.min_eq_left (by omega : min a b ≤ max a b), Nat.max_eq_right (by omega : min a b ≤ max a b)]
    have hk : ∀ k ∈ List.range 4,
        (k != min a b && ((e.feltLink (min a b) k).carries && (e.feltLink k 4).carries))
          = (k != min a b && ((d.feltLink (min a b) k).carries && (d.feltLink k 4).carries)) := by
      intro k hk
      by_cases hne : k = min a b
      · rw [hne]; simp
      · obtain ⟨h1, h2⟩ := linkIndex_over_sheet (min a b) hs k (List.mem_range.mp hk) hne
        rw [hi] at h1 h2
        rw [h _ _ h1, h _ _ h2]
    rw [Bool.eq_iff_iff, List.any_eq_true, List.any_eq_true]
    simp only [Bool.and_assoc]
    constructor
    · rintro ⟨k, hm, ht⟩; exact ⟨k, hm, (hk k hm).symm.trans ht⟩
    · rintro ⟨k, hm, ht⟩; exact ⟨k, hm, (hk k hm).trans ht⟩

/-! ### A link that failed is settled -/

/-- A link takes a state, and the recorder logs it. -/
def Dev.settleLink (d : Dev) (p : Nat × Nat) (v : Nat) : Dev :=
  (d.setFelt p.1 p.2 { FeltLink.reset with state := v }).logLink p.1 p.2 (d.link p.1 p.2)

theorem Dev.feltLink_settleLink (d : Dev) (p : Nat × Nat) (v a b : Nat) :
    (d.settleLink p v).feltLink a b = if linkIndex a b = linkIndex p.1 p.2 then { FeltLink.reset with state := v }
      else d.feltLink a b := by
  unfold Dev.settleLink
  rw [Dev.feltLink_of_mask (F := 32) (by decide) (Dev.logLink_mask (by decide) ..)]
  split
  next h => rw [Dev.feltLink_of_index _ h]; exact Dev.feltLink_setFelt_same ..
  next h => exact Dev.feltLink_setFelt_ne _ _ h

theorem Dev.feltLink_settleAll (l : List (Nat × Nat)) (a b : Nat) (h : ∀ p ∈ l, linkIndex p.1 p.2 ≠ linkIndex a b) (d : Dev) :
    (l.foldl (fun (d : Dev) p => d.settleLink p 0) d).feltLink a b = d.feltLink a b := by
  induction l generalizing d with
  | nil => rfl
  | cons p l ih =>
    obtain ⟨hp, hl⟩ := List.forall_mem_cons.mp h
    rw [List.foldl_cons, ih hl, Dev.feltLink_settleLink, if_neg (Ne.symm hp)]

/-- The links that lose their route with the link (a, b) settled. -/
def Dev.lostRoutes (d : Dev) : List (Nat × Nat) := linkPairs.filter (fun p => d.link p.1 p.2 == 2 && !d.rerouted p.1 p.2)

theorem Dev.feltReroute_eq {d : Dev} {a b : Nat} (h : linkOk a b = true) (hf : (d.feltLink a b).failed = true) :
    let e := d.settleLink (a, b) (if d.rerouted a b then 2 else 0)
    d.feltReroute a b = ((e.lostRoutes.foldl (fun (d : Dev) p => d.settleLink p 0) e).rehealthAll
      ((List.range 10).map (· + 0x180) ++ (List.range 4).flatMap (fun k => Dev.healthOf pFLT k))).checkDegraded := by
  simp only [linkOk, Bool.and_eq_true, decide_eq_true_eq, bne_iff_ne] at h
  obtain ⟨⟨ha, hb⟩, hab⟩ := h
  have hn : ¬ (5 ≤ a ∨ 5 ≤ b ∨ a = b ∨ (!(d.feltLink a b).failed) = true) :=
    not_or.mpr ⟨by omega, not_or.mpr ⟨by omega, not_or.mpr ⟨hab, by rw [hf]; decide⟩⟩⟩
  exact if_neg hn

/-- A failed link is REROUTED where another route is up, and DOWN where none is. -/
theorem Dev.feltReroute_spec {d : Dev} {a b : Nat} (h : linkOk a b = true) (hf : (d.feltLink a b).failed = true) :
    (d.feltReroute a b).feltLink a b = { FeltLink.reset with state := if d.rerouted a b then 2 else 0 } := by
  rw [Dev.feltReroute_eq h hf]
  simp only [linkOk, Bool.and_eq_true, decide_eq_true_eq, bne_iff_ne] at h
  obtain ⟨⟨ha, hb⟩, hab⟩ := h
  generalize hv : (if d.rerouted a b then 2 else 0 : Nat) = v
  generalize he : d.settleLink (a, b) v = e
  have hown : e.feltLink a b = { FeltLink.reset with state := v } := by
    rw [← he, Dev.feltLink_settleLink, if_pos rfl]
  have hother : ∀ x y, linkIndex x y ≠ linkIndex a b → e.feltLink x y = d.feltLink x y := fun x y hne => by
    rw [← he, Dev.feltLink_settleLink, if_neg hne]
  have hroute : e.rerouted a b = d.rerouted a b := Dev.rerouted_congr ha hb hab hother
  have hlost : ∀ p ∈ e.lostRoutes, linkIndex p.1 p.2 ≠ linkIndex a b := by
    intro p hp hi
    obtain ⟨hmem, hcond⟩ := List.mem_filter.mp hp
    simp only [Bool.and_eq_true, beq_iff_eq, Bool.not_eq_true'] at hcond
    obtain ⟨hlink, hno⟩ := hcond
    have hsame : e.rerouted p.1 p.2 = d.rerouted a b := by
      rcases linkIndex_unique p hmem a ha b hb hab hi with rfl | rfl
      · exact hroute
      · exact (e.rerouted_comm b a).trans hroute
    rw [hsame] at hno
    rw [Dev.link, Dev.feltLink_of_index e hi, hown] at hlink
    rw [hno] at hv
    rw [← hv] at hlink
    exact absurd hlink (by decide)
  refine (Dev.feltLink_of_mask (F := 33) (by decide) (Dev.checkDegraded_mask (by decide) _) a b).trans ?_
  refine (Dev.feltLink_of_mask (F := 4136) (by decide) (Dev.rehealthAll_mask (by decide) ..) a b).trans ?_
  rw [Dev.feltLink_settleAll _ a b hlost, hown]

/-! ### A flit arrives -/

theorem Dev.raise_raised {d : Dev} (r : RawRec) (h : d.evr.closed = false) : (d.raise r).evr.raised = d.evr.raised ++ [r] := by
  simp [Dev.raise, h]

theorem Dev.errorSignal_raised (d : Dev) (b : Bool) : (d.errorSignal b).evr.raised = d.evr.raised := by
  have hs : ∀ v, (d.signal v).evr = d.evr := fun v =>
    Dev.evr_of_mask (F := 4194304) (by decide) (Dev.signal_mask (by decide) ..)
  unfold Dev.errorSignal
  dsimp only
  split
  · rw [hs]
  · split <;> rfl

/-- An error with a bit that its page does not mask writes its record (R42). -/
theorem Dev.pgErr_raised {d : Dev} {cls inst bs : Nat} (code p0 p1 p2 : Nat) (h : d.evr.closed = false)
    (ho : ∃ i < 6, bit bs i = true ∧ bit (d.unit cls inst).mask i = false) :
    (d.pgErr cls inst bs code p0 p1 p2).evr.raised = d.evr.raised ++ [⟨code, cls, inst, p0, p1, p2, true⟩] := by
  obtain ⟨i, hi, hb, hm⟩ := ho
  have hne : ((List.range 6).filter (fun i => bit bs i && !bit (d.unit cls inst).mask i)).isEmpty = false := by
    rw [List.isEmpty_eq_false_iff_exists_mem]
    exact ⟨i, List.mem_filter.mpr ⟨List.mem_range.mpr hi, by rw [hb, hm]; rfl⟩⟩
  unfold Dev.pgErr Dev.pgErrSub
  dsimp only
  rw [hne]
  have hr := Dev.raise_raised (d := d.setUnit cls inst ((d.unit cls inst).setErr bs code 0 p0 p1 p2))
    ⟨code, cls, inst, p0, p1, p2, true⟩ h
  split
  · rw [Dev.errorSignal_raised]; exact hr
  · exact hr

theorem Dev.fget_markFail_same (d : Dev) {node peer : Nat} (h : peer < 5) :
    bit ((d.markFail node peer).fget fltLinkfailFailed node) peer = true := by
  rw [Dev.markFail, Dev.fget_fset_same]
  have hw : fltLinkfailFailed.width = 5 := rfl
  rw [hw, bit_mod _ _ _ h, bit_or, bit_two_pow, Bool.or_true]

theorem Dev.fget_markFail_ne (d : Dev) {node peer : Nat} (h : peer ≠ node) :
    (d.markFail node peer).fget fltLinkfailFailed peer = d.fget fltLinkfailFailed peer :=
  Dev.fget_fset_ne _ _ (by unfold Field.key; simp only [fltLinkfailFailed]; omega)

theorem Dev.fget_markFail_count (d : Dev) (node peer k : Nat) :
    (d.markFail node peer).fget fltRetrycntCount k = d.fget fltRetrycntCount k :=
  Dev.fget_fset_place d (f := fltLinkfailFailed) node k _ (by decide)

/-- The receiver of a rejected flit, with its page and its count. -/
def Dev.rejected (d : Dev) (node peer attempt : Nat) : Dev :=
  (d.fcount fltRetrycntCount node 1).pgErr pFLT node (bPARITY + bCE) 0x1001 peer attempt 0

theorem Dev.flitReceive_bad {d : Dev} {node peer : Nat} (hl : linkOk node peer = true)
    (hc : (d.feltLink node peer).carries = true) :
    let attempt := (d.feltLink node peer).tries node peer + 1
    let e := d.rejected node peer attempt
    d.flitReceive node peer true = if attempt < 4 then e.setFelt node peer ((d.feltLink node peer).withTries node peer attempt)
      else ((e.markFail node peer).markFail peer node).setFelt node peer { FeltLink.up with failed := true } := by
  simp only [linkOk, Bool.and_eq_true, decide_eq_true_eq, bne_iff_ne] at hl
  have hne : (node == peer) = false := beq_eq_false_iff_ne.mpr hl.2
  unfold Dev.flitReceive
  dsimp only
  rw [hne, hc]
  rfl

theorem Dev.flitReceive_good {d : Dev} {node peer : Nat} (hl : linkOk node peer = true)
    (hc : (d.feltLink node peer).carries = true) :
    d.flitReceive node peer false = d.setFelt node peer ((d.feltLink node peer).withTries node peer 0) := by
  simp only [linkOk, Bool.and_eq_true, decide_eq_true_eq, bne_iff_ne] at hl
  have hne : (node == peer) = false := beq_eq_false_iff_ne.mpr hl.2
  unfold Dev.flitReceive
  dsimp only
  rw [hne, hc]
  rfl

/-- What a rejection counts and records. -/
theorem Dev.rejected_spec (d : Dev) {node peer : Nat} (attempt : Nat) (hne : node ≠ peer) :
    let e := d.rejected node peer attempt
    e.fget fltRetrycntCount node = min (2 ^ 32 - 1) (d.fget fltRetrycntCount node + 1)
    ∧ bit (e.unit pFLT node).err 4 = true ∧ bit (e.unit pFLT node).err 0 = true
    ∧ (d.evr.closed = false → bit (d.unit pFLT node).mask 0 = false ∨ bit (d.unit pFLT node).mask 4 = false →
        e.evr.raised = d.evr.raised ++ [⟨0x1001, pFLT, node, peer, attempt, 0, true⟩])
    ∧ e.unit pFLT peer = d.unit pFLT peer ∧ e.fget fltRetrycntCount peer = d.fget fltRetrycntCount peer
    ∧ ∀ k, e.fget fltLinkfailFailed k = d.fget fltLinkfailFailed k := by
  intro e
  have herr : (e.unit pFLT node).err = (d.unit pFLT node).err ||| (bPARITY + bCE) := by
    refine (congrArg UnitPage.err (Dev.unit_pgErr_same ..)).trans ((UnitPage.setErr_spec ..).1.trans rfl)
  refine ⟨?_, ?_, ?_, fun hc hm => ?_, ?_, ?_, fun k => ?_⟩
  · exact (Dev.fget_pgErr ..).trans (Dev.fget_fcount_sat ..)
  · rw [herr, bit_or]; exact (Bool.or_eq_true ..).mpr (.inr (by decide))
  · rw [herr, bit_or]; exact (Bool.or_eq_true ..).mpr (.inr (by decide))
  · refine Dev.pgErr_raised (d := d.fcount fltRetrycntCount node 1) 0x1001 peer attempt 0 hc ?_
    rcases hm with hm | hm
    · exact ⟨0, by decide, by decide, hm⟩
    · exact ⟨4, by decide, by decide, hm⟩
  · exact (Dev.unit_pgErr_ne _ _ _ _ _ _ (by omega)).trans rfl
  · refine (Dev.fget_pgErr ..).trans (Dev.fget_fset_ne _ _ ?_)
    unfold Field.key
    simp only [fltRetrycntCount]
    omega
  · exact (Dev.fget_pgErr ..).trans (Dev.fget_fcount_place _ _ _ _ (by decide))

/-- Settles O14. -/
theorem feltRetryAndReroute : Obligations.FeltRetryAndReroute := by
  refine ⟨fun s node peer bytes parity hl hw hc => ⟨fun hg => ?_, fun hg => ?_⟩, fun s a b hl hw hf => ?_⟩
  · have he : s.dev.flitReceive node peer (!flitGood bytes parity)
        = s.dev.setFelt node peer ((s.dev.feltLink node peer).withTries node peer 0) := by
      rw [hg]; exact Dev.flitReceive_good hl hc
    exact Answers.quiet (f := fun _ d => d.flitReceive node peer (!flitGood bytes parity)) rfl hl he hw
      ⟨Dev.feltLink_setFelt_same .., State.onlyParts_of_mask [.links] rfl⟩
  · have he := Dev.flitReceive_bad hl hc
    have hbad : (!flitGood bytes parity) = true := by rw [hg]; rfl
    have hl' := hl
    simp only [linkOk, Bool.and_eq_true, decide_eq_true_eq, bne_iff_ne] at hl'
    obtain ⟨⟨hn, hp⟩, hne⟩ := hl'
    generalize hatt : (s.dev.feltLink node peer).tries node peer + 1 = attempt at he ⊢
    obtain ⟨h1, h2, h3, h4, h5, h6, h7⟩ := s.dev.rejected_spec attempt hne
    refine Answers.parts [.regs, .units, .evr, .pci, .links]
      (f := fun _ d => d.flitReceive node peer (!flitGood bytes parity)) rfl hl hw (Dev.flitReceive_mask (by decide) ..)
      (by decide) fun ho => ?_
    dsimp only at he ho ⊢
    rw [hbad, he] at ho ⊢
    by_cases hlt : attempt < 4
    · simp only [hlt, if_true] at ho ⊢
      exact ⟨h1, h2, h3, h4, h5, h6, fun h => absurd h (Nat.not_le.mpr hlt),
        fun _ => ⟨Dev.feltLink_setFelt_same .., h7 node, h7 peer⟩, ho⟩
    · simp only [hlt, if_false] at ho ⊢
      generalize s.dev.rejected node peer attempt = e at h1 h2 h3 h4 h5 h6 h7 ho ⊢
      have hcnt : ∀ k, (((e.markFail node peer).markFail peer node).setFelt node peer
          { FeltLink.up with failed := true }).fget fltRetrycntCount k = e.fget fltRetrycntCount k := fun k =>
        (Dev.fget_markFail_count (e.markFail node peer) peer node k).trans (Dev.fget_markFail_count e node peer k)
      refine ⟨(hcnt node).trans h1, h2, h3, h4, h5, (hcnt peer).trans h6, fun _ => ⟨?_, ?_, ?_⟩, fun h => h.elim, ho⟩
      · exact congrArg FeltLink.failed (Dev.feltLink_setFelt_same ..)
      · have hsame := Dev.fget_markFail_ne (e.markFail node peer) (node := peer) (peer := node) hne
        rw [Dev.fget_setFelt, hsame]
        exact Dev.fget_markFail_same e hp
      · rw [Dev.fget_setFelt]
        exact Dev.fget_markFail_same _ hn
  · have hspec := Dev.feltReroute_spec hl hf
    refine Answers.parts [.phase, .regs, .evr, .links, .deckle] (f := fun _ d => d.feltReroute a b) rfl hl hw
      (Dev.feltReroute_mask (by decide) ..) (by decide) fun ho => ⟨?_, ?_, ho⟩
    · exact congrArg FeltLink.state hspec
    · exact congrArg FeltLink.failed hspec

end Sys2Proof.Machine
end


section
/-! PROOFS. What a register read answers, clears and latches (chapter 2, R36, R41). -/

namespace Sys2Proof.Machine

/-! ### An earlier answer changes no word -/

theorem Dev.viewWord_answer (d : Dev) (v : Nat) (m : Mem) (cls inst off : Nat) :
    (d.answer v).viewWord m cls inst off = d.viewWord m cls inst off := by
  unfold Dev.viewWord
  split <;> rfl

theorem Dev.regWord_answer (d : Dev) (v : Nat) (m : Mem) (cls inst off : Nat) :
    (d.answer v).regWord m cls inst off = d.regWord m cls inst off := by
  unfold Dev.regWord
  rw [Dev.viewWord_answer]
  rfl

theorem Dev.badAccess_answer (d : Dev) (v off source barrier : Nat) (resv partial_ write : Bool) :
    (d.answer v).badAccess off source barrier resv partial_ write
      = (d.badAccess off source barrier resv partial_ write).answer v := by
  have hrec : ∀ (e : Dev) (code cls inst p0 p1 p2 : Nat),
      (e.answer v).record code cls inst p0 p1 p2 = (e.record code cls inst p0 p1 p2).answer v := by
    intro e code cls inst p0 p1 p2
    unfold Dev.record Dev.raise
    have hc : (e.answer v).evr.closed = e.evr.closed := rfl
    rw [hc]
    split <;> rfl
  have hv : (d.answer v).fbit glbBadaccValid 0 = d.fbit glbBadaccValid 0 := rfl
  unfold Dev.badAccess
  rw [hv]
  split
  · rfl
  · exact hrec (((((((d.fset glbBadaddrOffset 0 off).fset glbBadaccValid 0 1).fset glbBadaccResvPage 0 (b2n resv)).fset
      glbBadaccPartial 0 (b2n partial_)).fset glbBadaccWrite 0 (b2n write)).fset glbBadaccSource 0 source).fset
      glbBadaccBarrier 0 barrier) 1 pGLB 0 off _ 0

/-! ### The fields that a read clears -/

/-- The places of the selectors and of the link's rate, which no read clears. -/
def steadyPlaces : List Nat :=
  [stpCqselQueue.place, bzeRtselLevel.place, bzeRtselIndex.place, colGrpselGroup.place, hbxRingselRing.place,
    pciLinkstatRate.place]

theorem steadyPlaces_lt : ∀ n ∈ steadyPlaces, n < 2 ^ 23 := by decide

theorem rc_not_steady {cls : Nat} {f : Field} (h : f ∈ fieldsOf cls) (hr : f.acc = .rc) : f.place ∉ steadyPlaces := by
  have all : (fieldsOf cls).all (fun f => decide (f.acc = .rc → f.place ∉ steadyPlaces)) = true := by
    unfold fieldsOf
    split <;> rfl
  exact of_decide_eq_true (List.all_eq_true.mp all f h) hr

/-- The same field values at the places that a read does not clear. -/
def Dev.Steady (d e : Dev) : Prop := ∀ (g : Field) (j : Nat), g.place ∈ steadyPlaces → e.fget g j = d.fget g j

theorem Dev.fieldInst_steady {d e : Dev} (h : d.Steady e) (cls inst off : Nat) :
    e.fieldInst cls inst off = d.fieldInst cls inst off := by
  unfold Dev.fieldInst
  rw [h stpCqselQueue 0 (by decide), h bzeRtselLevel 0 (by decide), h bzeRtselIndex 0 (by decide),
    h colGrpselGroup 0 (by decide), h hbxRingselRing 0 (by decide)]

/-- A read clears an RC field of unit `i`. -/
def Dev.clearField (i : Nat) (d : Dev) (f : Field) : Dev := if f.acc = .rc then d.fset f i 0 else d

theorem Dev.clearField_steady (d : Dev) {cls : Nat} {f : Field} (h : f ∈ fieldsOf cls) (i : Nat) :
    d.Steady (d.clearField i f) := by
  intro g j hg
  unfold Dev.clearField
  split
  next hr =>
    refine Dev.fget_fset_place _ _ _ _ ⟨fieldsOf_place_lt h, steadyPlaces_lt _ hg, fun he => ?_⟩
    exact rc_not_steady h hr (he ▸ hg)
  next => rfl

theorem Dev.writes_clearField (i : Nat) : Dev.Writes i (Dev.clearField i) := by
  intro d f g j h
  unfold Dev.clearField
  split
  · exact Dev.fget_fset_ne d _ h
  · rfl

/-- The pass over a register's fields that a read makes, with the unit that they belong to written once. -/
theorem Dev.clearPass_eq (cls inst off : Nat) {l : List Field} (hl : ∀ f ∈ l, f ∈ fieldsOf cls) (d : Dev) :
    l.foldl (fun (d : Dev) f => if f.acc = .rc then d.fset f (d.fieldInst cls inst off) 0 else d) d
      = l.foldl (Dev.clearField (d.fieldInst cls inst off)) d
    ∧ d.Steady (l.foldl (Dev.clearField (d.fieldInst cls inst off)) d) := by
  induction l generalizing d with
  | nil =>
    rw [List.foldl_nil, List.foldl_nil]
    exact ⟨rfl, fun _ _ _ => rfl⟩
  | cons f l ih =>
    obtain ⟨hf, hl⟩ := List.forall_mem_cons.mp hl
    have hs := d.clearField_steady hf (d.fieldInst cls inst off)
    obtain ⟨he, hst⟩ := ih hl (d.clearField (d.fieldInst cls inst off) f)
    rw [Dev.fieldInst_steady hs] at he hst
    have hfirst : (if f.acc = .rc then d.fset f (d.fieldInst cls inst off) 0 else d)
        = d.clearField (d.fieldInst cls inst off) f := rfl
    rw [List.foldl_cons, List.foldl_cons, hfirst]
    refine ⟨he, fun g j hg => ?_⟩
    rw [hst g j hg, hs g j hg]

theorem fieldsAt_fieldsOf {cls off : Nat} : ∀ f ∈ fieldsAt cls off, f ∈ fieldsOf cls := fun _ h => (mem_fieldsAt.mp h).1

/-- A read of a block register that its page shows. -/
theorem Dev.clearRead_block {d : Dev} {cls inst off : Nat} (ho : 0x40 ≤ off) (hb : d.blockOpen cls inst = true)
    (hr : d.pageReset cls = false) :
    d.clearRead cls inst off = (fieldsAt cls off).foldl (Dev.clearField (d.fieldInst cls inst off)) d := by
  unfold Dev.clearRead
  rw [if_neg (by omega), if_neg (by omega), hb, hr, if_pos (show (true && !false) = true from rfl)]
  exact (Dev.clearPass_eq cls inst off fieldsAt_fieldsOf d).1

theorem Dev.clearRead_steady (d : Dev) (cls inst off : Nat) : d.Steady (d.clearRead cls inst off) := by
  unfold Dev.clearRead
  split
  · exact fun _ _ _ => rfl
  · split
    · exact fun _ _ _ => rfl
    · split
      · rw [(Dev.clearPass_eq cls inst off fieldsAt_fieldsOf d).1]
        exact (Dev.clearPass_eq cls inst off fieldsAt_fieldsOf d).2
      · exact fun _ _ _ => rfl

/-- Every RC field of the register reads 0 afterwards, and every field with another key what it read before. -/
theorem Dev.fget_clearRead {d : Dev} {cls inst off : Nat} (ho : 0x40 ≤ off) (hb : d.blockOpen cls inst = true)
    (hr : d.pageReset cls = false) :
    (∀ f ∈ fieldsAt cls off, f.acc = .rc → (d.clearRead cls inst off).fget f (d.fieldInst cls inst off) = 0)
    ∧ ∀ (g : Field) (j : Nat), (∀ f ∈ fieldsAt cls off, f.acc = .rc → g.key j ≠ f.key (d.fieldInst cls inst off)) →
        (d.clearRead cls inst off).fget g j = d.fget g j := by
  rw [Dev.clearRead_block ho hb hr]
  generalize d.fieldInst cls inst off = i
  refine ⟨fun f hf hrc => ?_, fun g j hg => ?_⟩
  · obtain ⟨e, -, h⟩ := Dev.fget_foldl_mem (Dev.writes_clearField i) (fieldsAt_pairwise cls off i) hf d
    rw [h, Dev.clearField, if_pos hrc, Dev.fget_fset_same, Nat.zero_mod]
  · have key : ∀ (l : List Field), (∀ f ∈ l, f.acc = .rc → g.key j ≠ f.key i) → ∀ e : Dev,
        (l.foldl (Dev.clearField i) e).fget g j = e.fget g j := by
      intro l
      induction l with
      | nil => exact fun _ _ => rfl
      | cons f l ih =>
        intro h e
        obtain ⟨hf, hl⟩ := List.forall_mem_cons.mp h
        rw [List.foldl_cons, ih hl, Dev.clearField]
        split
        next hrc => exact Dev.fget_fset_ne e _ (hf hrc)
        next => rfl
    exact key _ hg d

/-! ### A read after an answer -/

theorem Dev.clearRead_answer (d : Dev) (v cls inst off : Nat) :
    (d.answer v).clearRead cls inst off = (d.clearRead cls inst off).answer v := by
  have hpass : ∀ (l : List Field) (d : Dev),
      l.foldl (fun (d : Dev) f => if f.acc = .rc then d.fset f (d.fieldInst cls inst off) 0 else d) (d.answer v)
        = (l.foldl (fun (d : Dev) f => if f.acc = .rc then d.fset f (d.fieldInst cls inst off) 0 else d) d).answer v := by
    intro l
    induction l with
    | nil => exact fun _ => rfl
    | cons f l ih =>
      intro d
      rw [List.foldl_cons, List.foldl_cons, ← ih]
      have hf : (d.answer v).fieldInst cls inst off = d.fieldInst cls inst off := rfl
      rw [hf]
      split <;> rfl
  have hc : ((d.answer v).blockOpen cls inst && !(d.answer v).pageReset cls) = (d.blockOpen cls inst && !d.pageReset cls) := rfl
  unfold Dev.clearRead
  rw [hc]
  split
  · rfl
  · split
    · rfl
    · split
      · exact hpass ..
      · rfl

theorem Dev.latch_answer (d : Dev) (v cls inst o : Nat) : (d.answer v).latch cls inst o = (d.latch cls inst o).answer v := by
  unfold Dev.latch
  split
  · rfl
  · split
    · rfl
    · split
      · rfl
      · split <;> rfl

/-- A read after an answer reads the same and leaves that answer. -/
theorem Dev.wordRead_answer (d : Dev) (v : Nat) (m : Mem) (bar off be : Nat) :
    ((d.answer v).wordRead m bar off be).1 = (d.wordRead m bar off be).1
    ∧ ((d.answer v).wordRead m bar off be).2 = (d.wordRead m bar off be).2.answer v := by
  unfold Dev.wordRead
  split
  · exact ⟨rfl, Dev.badAccess_answer ..⟩
  · split
    · dsimp only
      rw [Dev.regWord_answer, Dev.clearRead_answer, Dev.latch_answer]
      exact ⟨rfl, rfl⟩
    · exact ⟨rfl, rfl⟩

/-! ### What a read leaves -/

theorem Dev.answers_of {d e : Dev} (hp : e.pwr = d.pwr) (hc : e.pci = d.pci) (hb : e.bootEvent = d.bootEvent)
    (hph : e.phase = d.phase) (hr : e.fget pciLinkstatRate 0 = d.fget pciLinkstatRate 0) : e.answers = d.answers := by
  unfold Dev.answers Dev.linkUp
  rw [hp, hc, hb, hph, hr]

theorem Dev.fget_badAccess_rate (d : Dev) (off source barrier : Nat) (resv partial_ write : Bool) :
    (d.badAccess off source barrier resv partial_ write).fget pciLinkstatRate 0 = d.fget pciLinkstatRate 0 := by
  unfold Dev.badAccess
  split
  · rfl
  · simp (disch := decide) only [Dev.fget_record, Dev.fget_fset_place]

/-- A word's read leaves the outbox, and the host goes on being answered. -/
theorem Dev.wordRead_keeps (d : Dev) (m : Mem) (bar off be : Nat) :
    (d.wordRead m bar off be).2.wout = d.wout ∧ (d.wordRead m bar off be).2.answers = d.answers := by
  unfold Dev.wordRead
  split
  · have hm : (d.badAccess off (bar / 2) 0 true false false).mask 40 = d.mask 40 := Dev.badAccess_mask (by decide) ..
    exact ⟨Dev.wout_of_mask (by decide) hm, Dev.answers_of (Dev.pwr_of_mask (by decide) hm) (Dev.pci_of_mask (by decide) hm)
      (Dev.bootEvent_of_mask (by decide) hm) (Dev.phase_of_mask (by decide) hm) (Dev.fget_badAccess_rate ..)⟩
  · split
    · dsimp only
      generalize (pageOf off).1 = cls
      generalize (pageOf off).2.1 = inst
      generalize (pageOf off).2.2 = o
      have hm : ((d.clearRead cls inst o).latch cls inst o).mask 131128 = d.mask 131128 := by
        rw [Dev.mask_sub (P := 131120) (by decide) (Dev.latch_mask (F := 131120) (by decide) ..), Dev.mask_sub (P := 24) (by decide) (Dev.clearRead_mask (F := 24) (by decide) ..)]
      have hr : ((d.clearRead cls inst o).latch cls inst o).fget pciLinkstatRate 0 = d.fget pciLinkstatRate 0 :=
        (Dev.fget_of_mask (F := 131120) (by decide) (Dev.latch_mask (F := 131120) (by decide) ..) ..).trans (d.clearRead_steady cls inst o _ _ (by decide))
      exact ⟨Dev.wout_of_mask (by decide) hm, Dev.answers_of (Dev.pwr_of_mask (by decide) hm) (Dev.pci_of_mask (by decide) hm)
        (Dev.bootEvent_of_mask (by decide) hm) (Dev.phase_of_mask (by decide) hm) hr⟩
    · exact ⟨rfl, rfl⟩

/-! ### Reads -/

theorem Dev.rcRead_word (d : Dev) (m : Mem) (bar off : Nat) {be : Nat} (h : be < 16) :
    d.rcRead m bar off be = (d.wordRead m bar off be).2.answer (d.wordRead m bar off be).1 := by
  unfold Dev.rcRead
  rw [Nat.mod_eq_of_lt h]
  dsimp only
  rw [if_pos h]

theorem Dev.rcRead_pair (d : Dev) (m : Mem) (bar off : Nat) {be : Nat} (h : ¬ be < 16) :
    d.rcRead m bar off be =
      let x := d.wordRead m bar off (be % 16)
      let y := x.2.wordRead m bar (off + 4) (be / 16)
      y.2.answer (x.1 + 2 ^ 32 * y.1) := by
  unfold Dev.rcRead
  dsimp only
  rw [if_neg h]

/-- A read that the endpoint answers. -/
theorem exec_rcRead {s : State} {bar off be : Nat} (hr : regAt bar off = true) (ha : s.dev.answers = true)
    (hw : (s.dev.rcRead s.mem bar off be).wout = []) :
    exec (.rcRead bar off be) s = .next { s with dev := s.dev.rcRead s.mem bar off be } := by
  have hh : s.dev.host (fun d => d.rcRead s.mem bar off be) = s.dev.rcRead s.mem bar off be := Dev.host_on ha _
  refine (runIf_true hr (fun m d => d.host fun d => d.rcRead m bar off be) s).trans ?_
  rw [State.after_eq (f := fun m d => d.host fun d => d.rcRead m bar off be) (by rw [hh]; exact hw), hh]

theorem regAt_next {bar off : Nat} (h : regAt bar off = true) (h8 : off % 8 = 0) : regAt bar (off + 4) = true := by
  simp only [regAt, Bool.and_eq_true, beq_iff_eq, decide_eq_true_eq] at h ⊢
  obtain ⟨h4, hlt⟩ := h
  refine ⟨by omega, ?_⟩
  unfold barSize at hlt ⊢
  split_ifs at hlt ⊢ <;> omega

/-- An aligned 64-bit read is two reads, the lower offset first. -/
theorem rcRead_pair_answers {s : State} {bar off be : Nat} (hr : regAt bar off = true) (h8 : off % 8 = 0) (h16 : 16 ≤ be)
    (h256 : be < 256) (hw : s.dev.wout = []) (ha : s.dev.answers = true) :
    ∃ t u lo hi, exec (.rcRead bar off (be % 16)) s = .next t ∧ t.dev.pci.reply = .value lo
      ∧ exec (.rcRead bar (off + 4) (be / 16)) t = .next u ∧ u.dev.pci.reply = .value hi
      ∧ exec (.rcRead bar off be) s
        = .next { u with dev := { u.dev with pci := { u.dev.pci with reply := .value (lo + 2 ^ 32 * hi) } } } := by
  obtain ⟨hxw, hxa⟩ := s.dev.wordRead_keeps s.mem bar off (be % 16)
  have h1 := Dev.rcRead_word s.dev s.mem bar off (be := be % 16) (by omega)
  have hpair := Dev.rcRead_pair s.dev s.mem bar off (be := be) (by omega)
  generalize s.dev.wordRead s.mem bar off (be % 16) = x at h1 hxw hxa hpair
  obtain ⟨lo, d⟩ := x
  dsimp only at h1 hxw hxa hpair
  obtain ⟨hyw, -⟩ := d.wordRead_keeps s.mem bar (off + 4) (be / 16)
  have h2 := Dev.rcRead_word (d.answer lo) s.mem bar (off + 4) (be := be / 16) (by omega)
  obtain ⟨ha1, ha2⟩ := d.wordRead_answer lo s.mem bar (off + 4) (be / 16)
  rw [ha1, ha2] at h2
  generalize d.wordRead s.mem bar (off + 4) (be / 16) = y at h2 hyw hpair
  obtain ⟨hi, e⟩ := y
  dsimp only at h2 hyw hpair
  refine ⟨{ s with dev := d.answer lo }, { s with dev := (e.answer lo).answer hi }, lo, hi, ?_, rfl, ?_, rfl, ?_⟩
  · rw [exec_rcRead hr ha (by rw [h1]; exact hxw.trans hw), h1]
  · rw [exec_rcRead (s := { s with dev := d.answer lo }) (regAt_next hr h8) (hxa.trans ha)
      (by dsimp only; rw [h2]; exact hyw.trans (hxw.trans hw))]
    dsimp only
    rw [h2]
  · rw [exec_rcRead hr ha (by rw [hpair]; exact hyw.trans (hxw.trans hw)), hpair]
    rfl

/-- The read of a register of a page. -/
theorem Dev.rcRead_page (d : Dev) (m : Mem) {cls inst o be : Nat} (hi : inst < instances cls) (ho : o < 2 ^ 12) (hbe : be < 16) :
    d.rcRead m 0 (cls * 2 ^ 20 + inst * 2 ^ 12 + o) be
      = ((d.clearRead cls inst o).latch cls inst o).answer (enabledBytes be (d.regWord m cls inst o)) := by
  obtain ⟨-, hi'⟩ := page_lt hi
  have hp : pageExists cls inst = true := decide_eq_true hi
  rw [Dev.rcRead_word d m _ _ hbe]
  simp only [Dev.wordRead, addressed_page hi' ho, pageOf_page hi' ho, hp, Bool.not_true, Bool.false_eq_true, if_false, if_true]

theorem Dev.latchingRead_page (d : Dev) (m : Mem) {cls inst o : Nat} (hi : inst < instances cls) (ho : o < 2 ^ 12)
    (hl : latches cls o = true) :
    d.latchingRead m (cls * 2 ^ 20 + inst * 2 ^ 12 + o) = (d.latch cls inst o).answer (d.regWord m cls inst o) := by
  obtain ⟨-, hi'⟩ := page_lt hi
  have hp : pageExists cls inst = true := decide_eq_true hi
  simp only [Dev.latchingRead, pageOf_page hi' ho, hp, hl, Bool.not_true, Bool.false_eq_true, or_self, if_false]

theorem Dev.latch_block_mask (d : Dev) {cls inst o : Nat} (h : 0x40 ≤ o) :
    (d.latch cls inst o).mask 131104 = d.mask 131104 := by
  unfold Dev.latch
  rw [if_neg (by omega)]
  split
  · simp
  · split
    · simp
    · split <;> simp

theorem Dev.clearRead_block_mask (d : Dev) {cls inst o : Nat} (h : 0x40 ≤ o) :
    (d.clearRead cls inst o).mask 8 = d.mask 8 := by
  unfold Dev.clearRead
  rw [if_neg (by omega), if_neg (by omega)]
  simp

/-- The read of a block register leaves every page's own registers. -/
theorem Dev.readBlock_mask (d : Dev) {cls inst o : Nat} (h : 0x40 ≤ o) :
    ((d.clearRead cls inst o).latch cls inst o).mask 4325416 = d.mask 4325416 := by
  rw [Dev.mask_sub (P := 131104) (by decide) (Dev.latch_block_mask _ h),
    Dev.mask_sub (P := 8) (by decide) (Dev.clearRead_block_mask _ h)]

/-- The latches of PG_SEQ_READ. -/
theorem pgSeqRead_answers {s : State} {cls inst o : Nat} {P : State → Prop} (hi : inst < instances cls) (ho : o < 2 ^ 12)
    (h4 : o % 4 = 0) (hl : latches cls o = true) (hw : s.dev.wout = []) (ha : s.dev.answers = true)
    (hp : P { s with dev := (s.dev.latch cls inst o).answer (s.dev.regWord s.mem cls inst o) }) :
    Answers (.pgSeqRead (cls * 2 ^ 20 + inst * 2 ^ 12 + o)) s P :=
  Answers.access (ok := regAt 0 (cls * 2 ^ 20 + inst * 2 ^ 12 + o)) rfl
    (regAt_page (page_lt hi).1 (page_lt hi).2 ho h4) ha (Dev.latchingRead_page s.dev s.mem hi ho hl)
    ((Dev.wout_of_mask (F := 131120) (by decide) (Dev.latch_mask (F := 131120) (by decide) s.dev cls inst o)).trans hw) hp

theorem Dev.clearRead_counts (d : Dev) (cls inst : Nat) :
    (d.clearRead cls inst 0x18).latch cls inst 0x18 = d.clearCounts cls inst := by
  unfold Dev.clearRead Dev.latch
  rw [if_pos rfl, if_neg (by decide), if_neg (by simp), if_neg (by simp), if_neg (by simp)]

/-- Settles O10: a word's read keeps what a later read rests on (`Dev.wordRead_answer`), a block register's RC fields
are cleared by one pass over fields with keys of their own, and each latch is its register's high word. -/
theorem registerReads : Obligations.RegisterReads := by
  refine ⟨fun s bar off be hr h8 h16 h256 hw ha => rcRead_pair_answers hr h8 h16 h256 hw ha,
    fun s cls inst o be hi ho h4 hbe hw ha => ⟨fun h40 hb hr => ?_, fun h18 => ?_⟩,
    fun s hw ha => ⟨fun cls inst hi => ?_, ?_, ?_, ?_⟩⟩
  · have hg := Dev.rcRead_page s.dev s.mem hi ho hbe
    obtain ⟨hzero, hother⟩ := Dev.fget_clearRead h40 hb hr
    have hlat : ∀ (g : Field) (j : Nat), (((s.dev.clearRead cls inst o).latch cls inst o).answer
        (enabledBytes be (s.dev.regWord s.mem cls inst o))).fget g j = (s.dev.clearRead cls inst o).fget g j := fun g j =>
      Dev.fget_of_mask (F := 131120) (by decide) (Dev.latch_mask (F := 131120) (by decide) ..) g j
    have hm : (((s.dev.clearRead cls inst o).latch cls inst o).answer
        (enabledBytes be (s.dev.regWord s.mem cls inst o))).mask 4325416 = s.dev.mask 4325416 :=
      (Dev.answer_mask (by decide) _ _).trans (Dev.readBlock_mask s.dev h40)
    exact Answers.access (ok := regAt 0 (cls * 2 ^ 20 + inst * 2 ^ 12 + o)) rfl
      (regAt_page (page_lt hi).1 (page_lt hi).2 ho h4) ha hg
      ((Dev.wout_of_mask (by decide) hm).trans hw) ⟨rfl, fun f hf hrc => (hlat ..).trans (hzero f hf hrc),
        fun g j h => (hlat ..).trans (hother g j h), (State.onlyParts_of_mask [.regs, .cad, .evr, .pci] hm).1, rfl, rfl⟩
  · subst h18
    have hg := Dev.rcRead_page s.dev s.mem (o := 0x18) hi (by decide) hbe
    rw [Dev.clearRead_counts] at hg
    have hm := Dev.answer_mask (F := partsMask [.units, .pci]) (by decide) (s.dev.clearCounts cls inst)
      (enabledBytes be (s.dev.regWord s.mem cls inst 0x18))
    have hm := hm.trans (Dev.clearCounts_mask (by decide) s.dev cls inst)
    exact Answers.access (ok := regAt 0 (cls * 2 ^ 20 + inst * 2 ^ 12 + 0x18)) rfl
      (regAt_page (page_lt hi).1 (page_lt hi).2 (by decide) (by decide)) ha hg ((Dev.wout_of_mask (by decide) hm).trans hw)
      ⟨rfl, s.dev.unit_onUnit_same cls inst fun u => { u with ceCnt := 0, deCnt := 0, uccCnt := 0 },
        (State.onlyParts_of_mask [.units, .pci] hm).1, rfl, rfl⟩
  · have hm : (s.dev.latch cls inst 0x30).mask (partsMask [.units, .pci]) = s.dev.mask (partsMask [.units, .pci]) :=
      Dev.onUnit_mask (by decide) s.dev cls inst fun u => { u with seqHi := u.seq / 2 ^ 32 % 2 ^ 16 }
    refine pgSeqRead_answers hi (by decide) (by decide) rfl hw ha
      ⟨rfl, s.dev.unit_onUnit_same cls inst fun u => { u with seqHi := u.seq / 2 ^ 32 % 2 ^ 16 },
        (State.onlyParts_of_mask [.units, .pci] ?_).1, rfl, rfl⟩
    exact (Dev.answer_mask (by decide) _ _).trans hm
  · exact pgSeqRead_answers (cls := 6) (inst := 0) (o := 0x48) (by decide) (by decide) (by decide) rfl hw ha
      ⟨rfl, (State.onlyParts_of_mask (d := (s.dev.latch 6 0 0x48).answer (s.dev.regWord s.mem 6 0 0x48)) [.cad, .pci]
        ((Dev.answer_mask (by decide) _ _).trans rfl)).1⟩
  · exact pgSeqRead_answers (cls := 3) (inst := 0) (o := 0x48) (by decide) (by decide) (by decide) rfl hw ha
      ⟨rfl, (State.onlyParts_of_mask (d := (s.dev.latch 3 0 0x48).answer (s.dev.regWord s.mem 3 0 0x48)) [.evr, .pci]
        ((Dev.answer_mask (by decide) _ _).trans rfl)).1⟩
  · exact pgSeqRead_answers (cls := 3) (inst := 0) (o := 0x50) (by decide) (by decide) (by decide) rfl hw ha
      ⟨rfl, (State.onlyParts_of_mask (d := (s.dev.latch 3 0 0x50).answer (s.dev.regWord s.mem 3 0 0x50)) [.evr, .pci]
        ((Dev.answer_mask (by decide) _ _).trans rfl)).1⟩

end Sys2Proof.Machine
end


section
/-! PROOFS. Power-on (chapter 15): the test of a stack does not lower its health. -/

namespace Sys2Proof.Machine

/-- A device at event 5 of Table 15-1 whose stack 0 has health 2 (FAILING) and is not tested yet. -/
def State.withFailingStack : State := { State.reset with dev := { Dev.reset with
  bootEvent := 5
  regs := [(stkStatHealth.key 0, 2)]
  pwr := { Pwr.reset with on := true } } }

theorem stackTest_keeps_failing : ∃ t, exec (.powerOn (.memTest [])) State.withFailingStack = .next t
    ∧ t.dev.fget stkStatHealth 0 = 2 :=
  ⟨_, rfl, by decide +kernel⟩

/-- Refutes O53: event 6 only ever worsens a stack's health, so a stack that finds itself good keeps a health that is not 0. -/
theorem not_powerOnSequence : ¬ Obligations.PowerOnSequence := by
  intro h
  obtain ⟨-, -, -, -, -, hmem, -⟩ := h State.withFailingStack rfl
  obtain ⟨t, ht, -, -, hgood⟩ := hmem ⟨rfl, rfl, rfl, rfl⟩ (by decide +kernel)
  obtain ⟨u, hu, hhealth⟩ := stackTest_keeps_failing
  obtain rfl : t = u := Host.Outcome.next.inj (ht.symm.trans hu)
  exact absurd (hhealth.symm.trans (hgood 0 (by decide)).1) (by decide)

end Sys2Proof.Machine
end


section
/-! PROOFS. RELEASE (chapter 10): a tile that is listed twice. -/

namespace Sys2Proof.Machine

def releaseCommand : HostCmd :=
  { sq := 0, op := 5, fence := false, quiet := false, cid := 0, bytes := 5 :: List.replicate 63 0, error := none }

/-- A device with a placement, whose list of tiles names tile 0 twice; ring 0 holds RELEASE. -/
def State.withTileTwice : State := { State.reset with dev := { Dev.withWornRegion with
  deckle := { Dev.withWornRegion.deckle with placement := some onePlacement }
  tiles := [(0, { Tile.reset with core := { Core.reset with ltile := 7 } }),
    (0, { Tile.reset with core := { Core.reset with ltileValid := true } })]
  hbx := { State.reset.dev.hbx with sq := [(0, { Sq.reset with fetched := [releaseCommand] })] } } }

theorem release_keeps_second : ∃ t, exec (.release 0) State.withTileTwice = .next t ∧ t.dev.logicalOf 0 = some 0 :=
  ⟨_, rfl, by decide +kernel⟩

/-- Refutes O35: RELEASE rebuilds the list of tiles from every entry, so that of a tile listed twice the second entry,
which still carries its logical tile, replaces the first. -/
theorem not_placeAndRelease : ¬ Obligations.PlaceAndRelease := by
  intro h
  obtain ⟨-, hrelease⟩ := h State.withTileTwice 0 releaseCommand [] (by decide) rfl
  have hfront : State.withTileTwice.dev.Front 0 5 releaseCommand [] :=
    ⟨by decide +kernel, rfl, rfl, by decide +kernel, by decide +kernel⟩
  obtain ⟨t, ht, -, -, -, -, hnone, -⟩ := ((hrelease hfront).2 rfl).2 (by decide +kernel) (by decide +kernel) rfl
  obtain ⟨u, hu, hsome⟩ := release_keeps_second
  obtain rfl : t = u := Host.Outcome.next.inj (ht.symm.trans hu)
  exact absurd (hsome.symm.trans (hnone 0 (by decide)).1) (by decide)

end Sys2Proof.Machine
end


section
/-! PROOFS. Row repair (chapter 9): the cells that are listed at a line beyond the stack. -/

namespace Sys2Proof.Machine

/-- A device whose stack 0 has row 0 due for repair, with a changed cell of that row at a line beyond its last. -/
def State.withStrayCell : State := { State.reset with dev := { Dev.reset with
  stks := [(0, { Stack.reset with repairDue := [0], cells := [(stackLines, ⟨0, [(0, 1)], false, []⟩)] })] } }

theorem rowRepair_keeps_stray : ∃ t, exec (.rowRepair 0) State.withStrayCell = .next t
    ∧ (t.dev.stack 0).cells.all (fun c => c.2.row != 0) = false :=
  ⟨_, rfl, by decide +kernel⟩

/-- Refutes O34: the copy of a row goes from line to line of its stack, and leaves a cell that the state lists at a line
beyond the stack's last. -/
theorem not_stackHealth : ¬ Obligations.StackHealth := by
  intro h
  obtain ⟨-, -, -, -, hrepair, -⟩ := h State.withStrayCell 0 0 0 0 0 0 [] false ⟨0, [], false⟩ (by decide) rfl (by decide)
  obtain ⟨t, ht, -, -, -, -, hcells, -⟩ := (hrepair (by decide +kernel) (by decide +kernel)).1 (by decide +kernel)
  obtain ⟨u, hu, hstray⟩ := rowRepair_keeps_stray
  obtain rfl : t = u := Host.Outcome.next.inj (ht.symm.trans hu)
  exact absurd (hstray.symm.trans hcells) (by decide)

end Sys2Proof.Machine
end


section
/-! PROOFS. Remapping a tile (chapter 10): what the broken barriers drop. -/

namespace Sys2Proof.Machine

/-- A device whose placed tile 0 has left, with a re-draw that waits for the phase fence: barrier 0 holds a generation. -/
def State.remapWithFence : State := { State.reset with dev := { Dev.reset with
  deckle := { Deckle.reset with placement := some onePlacement, events := [.tile 0, .redraw 0 true] }
  tiles := [(0, { Tile.reset with core := { Core.reset with ltileValid := true } })]
  syn := { Dev.reset.syn with bars := [(0, { Barrier.reset with count := 1, held := [([], false)] })] } } }

theorem tileRemap_drops_redraw : ∃ t, exec .tileRemap State.remapWithFence = .next t ∧ t.dev.deckle.events = [] :=
  ⟨_, rfl, by decide +kernel⟩

/-- Refutes O36: the barriers that TILE_REMAP breaks drop the re-draw that their held generations asked for (R320), so
Deckle's other events do not all stay. -/
theorem not_remaps : ¬ Obligations.Remaps := by
  intro h
  obtain ⟨htile, -⟩ := h State.remapWithFence 0 0 0 onePlacement [] (by decide) rfl
  obtain ⟨t, ht, -, hevents, -⟩ := (htile [.redraw 0 true] rfl rfl rfl rfl).1 (by decide +kernel)
  obtain ⟨u, hu, hnone⟩ := tileRemap_drops_redraw
  obtain rfl : t = u := Host.Outcome.next.inj (ht.symm.trans hu)
  exact absurd (hnone.symm.trans hevents) (by decide)

end Sys2Proof.Machine
end


section
/-! PROOFS. What a channel sends (R338 to R343). -/

namespace Sys2Proof.Machine

/-! ### A channel moves -/

/-- From `d` to `d'` channel `c` of engine `e` has become `y`, and no other channel has changed. -/
structure Dev.ChanMoved (d d' : Dev) (e c : Nat) (y : Channel) : Prop where
  chan : d'.chan e c = y
  others : ∀ g k, (g, k) ≠ (e, c) → k < 4096 → d'.chan g k = d.chan g k

theorem chanKey_ne {e c g k : Nat} (hc : c < 4096) (hk : k < 4096) (h : (g, k) ≠ (e, c)) : g * 4096 + k ≠ e * 4096 + c := by
  intro hq
  exact h (Prod.ext (by omega) (by omega))

theorem Dev.chan_congr {d d' : Dev} (h : d'.brezin.chans = d.brezin.chans) (g k : Nat) : d'.chan g k = d.chan g k :=
  congrArg (SMap.get Channel.reset (chanKey g k)) h

theorem Dev.chan_of_mask {d d' : Dev} {F : Nat} (hF : F.testBit 19 = false) (h : d'.mask F = d.mask F) (g k : Nat) :
    d'.chan g k = d.chan g k := Dev.chan_congr (congrArg Brezin.chans (Dev.brezin_of_mask hF h)) g k

theorem Dev.setChan_moved (d : Dev) {e c : Nat} (hc : c < 4096) (y : Channel) : d.ChanMoved (d.setChan e c y) e c y :=
  ⟨Dev.chan_setChan_same .., fun _ _ h hk => Dev.chan_setChan_ne _ _ (chanKey_ne hc hk h)⟩

theorem Dev.ChanMoved.of_chans {d d' f : Dev} {e c : Nat} {y : Channel} (h : d'.ChanMoved f e c y)
    (hb : d'.brezin.chans = d.brezin.chans) : d.ChanMoved f e c y :=
  ⟨h.chan, fun g k hg hk => (h.others g k hg hk).trans (Dev.chan_congr hb g k)⟩

theorem Dev.ChanMoved.to_chans {d d' f : Dev} {e c : Nat} {y : Channel} (h : d.ChanMoved d' e c y)
    (hb : f.brezin.chans = d'.brezin.chans) : d.ChanMoved f e c y :=
  ⟨(Dev.chan_congr hb e c).trans h.chan, fun g k hg hk => (Dev.chan_congr hb g k).trans (h.others g k hg hk)⟩

/-! ### Failures that concern nobody -/

theorem Dev.couch_nil {d : Dev} (h : d.stp.couch = []) (q : Nat) : (d.couch q).state = .off :=
  congrArg (fun l => (SMap.get Couch.reset q l).state) h

theorem Dev.couchChannelFailed_nil {d : Dev} (m : Mem) (h : d.stp.couch = []) (c : Nat) : d.couchChannelFailed m c = d := by
  unfold Dev.couchChannelFailed
  refine Dev.foldl_keep (fun x : Dev => x = d) _ ?_ _ _ rfl
  rintro x q rfl
  exact if_neg fun hq => absurd hq.1 (by rw [Dev.couch_nil h]; decide)

theorem Dev.colChannelFailed_nil {d : Dev} (m : Mem) (h : d.col.insts = []) (c : Nat) : d.colChannelFailed m c = d := by
  unfold Dev.colChannelFailed
  rw [h, List.foldl_nil]

theorem Dev.colSettle_nil {d : Dev} (m : Mem) (h : d.col.events = []) : d.colSettle m = d := by
  unfold Dev.colSettle
  dsimp only
  rw [h, List.foldl_nil, ← h]

theorem Dev.settled_nil {d : Dev} (m : Mem) (h : d.col.events = []) : d.settled m = d := by
  unfold Dev.settled
  rw [Dev.colSettle_nil m h, Dev.colSettle_nil m h]

/-- Without couch queues and collectives, channels that fail concern nobody. -/
theorem Dev.afterFailures_nil (d : Dev) {d' : Dev} (m : Mem) (hq : d'.stp.couch = []) (hc : d'.col = Col.reset) :
    d.afterFailures m d' = d' := by
  have hi : d'.col.insts = [] := congrArg Col.insts hc
  have he : d'.col.events = [] := congrArg Col.events hc
  unfold Dev.afterFailures
  have hf : ∀ ks : List Nat, ks.foldl (fun (d : Dev) k =>
      (d.couchChannelFailed m (k % 4096)).colChannelFailed m (k % 4096)) d' = d' := by
    intro ks
    refine Dev.foldl_keep (fun x : Dev => x = d') _ ?_ _ _ rfl
    rintro x k rfl
    rw [Dev.couchChannelFailed_nil m hq, Dev.colChannelFailed_nil m hi]
  dsimp only
  rw [hf, Dev.settled_nil m he]

/-! ### A packet on its way -/

theorem Dev.emit_chans (d : Dev) (e vl : Nat) (p : Packet) : (d.emit e vl p).brezin.chans = d.brezin.chans := by
  unfold Dev.emit
  dsimp only
  split
  · unfold Dev.deliver
    split
    · rfl
    · exact congrArg Brezin.chans (Dev.brezin_of_mask (F := 8) (by decide) (Dev.fcount_mask (by decide) ..))
  · rfl
  · refine congrArg Brezin.chans (Dev.brezin_of_mask (F := 134217768) (by decide) ?_)
    simp [Dev.fresh]

theorem Dev.emit_routed (d : Dev) (e vl : Nat) (p : Packet) {g : Nat} (h : d.route p.dst p.src p.dchan = .port g) :
    ((d.emit e vl p).port g).queue = (d.port g).queue ++ [⟨vl, withTtl p (d.fget bzeTtlInit 0), none⟩] := by
  have hr : d.route (withTtl p (d.fget bzeTtlInit 0)).dst (withTtl p (d.fget bzeTtlInit 0)).src
      (withTtl p (d.fget bzeTtlInit 0)).dchan = .port g := h
  unfold Dev.emit
  dsimp only
  rw [hr]
  exact congrArg Port.queue (Dev.port_setPort_same ..)

/-- The router reads ports, units and the fields of BZE.DEVID and of the routing table. -/
theorem Dev.route_congr {d d' : Dev} (hp : ∀ g, d'.port g = d.port g) (hu : d'.units = d.units)
    (hi : d'.fget bzeDevidId 0 = d.fget bzeDevidId 0) (hv : ∀ i, d'.fget bzeRtentValid i = d.fget bzeRtentValid i)
    (hs : ∀ i, d'.fget bzeRtentPorts i = d.fget bzeRtentPorts i) (dst src dchan : Nat) :
    d'.route dst src dchan = d.route dst src dchan := by
  have hact : ∀ g, d'.active pBZP g = d.active pBZP g := fun g => by
    simp only [Dev.active, Dev.unit, hu]
  simp only [Dev.route, Dev.devId, Dev.fbit, hi, hv, hs, hp, hact]
  rfl

/-! ### Slices -/

/-- SLICECNT counts, and nothing that the router reads changes. -/
theorem Dev.countSlice_spec (d : Dev) (e : Nat) :
    (d.countSlice e).brezin.chans = d.brezin.chans ∧ (∀ g, (d.countSlice e).port g = d.port g)
    ∧ (d.countSlice e).units = d.units
    ∧ ∀ (f : Field) i, f.place < 2 ^ 23 ∧ f.place ≠ bzeSlicecntCount.place → (d.countSlice e).fget f i = d.fget f i := by
  have hs : ∀ x : Dev, x.brezin.chans = d.brezin.chans → x.brezin.ports = d.brezin.ports → x.units = d.units →
      x.regs = d.regs ∨ (∃ y : Dev, y.regs = d.regs ∧ x.regs = (y.fcount bzeSlicecntCount e 1).regs) →
      x.brezin.chans = d.brezin.chans ∧ (∀ g, x.port g = d.port g) ∧ x.units = d.units
      ∧ ∀ (f : Field) i, f.place < 2 ^ 23 ∧ f.place ≠ bzeSlicecntCount.place → x.fget f i = d.fget f i := by
    intro x hc hp hu hr
    refine ⟨hc, fun g => congrArg (SMap.get Port.reset g) hp, hu, fun f i hf => ?_⟩
    rcases hr with hr | ⟨y, hy, hr⟩
    · exact Dev.fget_congr hr f i
    · rw [Dev.fget_congr hr f i, Dev.fcount, Dev.fget_fset_place _ _ _ _ ⟨by decide, hf⟩, Dev.fget_congr hy f i]
  unfold Dev.countSlice
  dsimp only
  split
  · exact hs _ rfl rfl rfl (.inr ⟨_, rfl, rfl⟩)
  · exact hs _ rfl rfl rfl (.inl rfl)

/-- The router sends a packet to the same place after a slice has been counted and a channel has moved. -/
theorem Dev.slice_route (d : Dev) (e : Nat) {d' : Dev} (hp : d'.brezin.ports = (d.countSlice e).brezin.ports)
    (hu : d'.units = (d.countSlice e).units) (hr : d'.regs = (d.countSlice e).regs) (dst src dchan : Nat) :
    d'.route dst src dchan = d.route dst src dchan ∧ (∀ g, d'.port g = d.port g)
    ∧ d'.fget bzeTtlInit 0 = d.fget bzeTtlInit 0 := by
  obtain ⟨-, hport, hunit, hfield⟩ := d.countSlice_spec e
  have hq : ∀ g, d'.port g = d.port g := fun g => (congrArg (SMap.get Port.reset g) hp).trans (hport g)
  have hf : ∀ (f : Field) i, f.place < 2 ^ 23 ∧ f.place ≠ bzeSlicecntCount.place → d'.fget f i = d.fget f i :=
    fun f i h => (Dev.fget_congr hr f i).trans (hfield f i h)
  exact ⟨Dev.route_congr hq (hu.trans hunit) (hf _ _ (by decide)) (fun i => hf _ i (by decide))
    (fun i => hf _ i (by decide)) .., hq, hf _ _ (by decide)⟩

/-- What a slice of channel `c` leaves: the channel as `y`, and the packet on its way. -/
theorem Dev.slice_sends {d : Dev} {e c vl : Nat} (hc : c < 4096) (y : Channel) (pk : Packet) (last : SMap Nat) :
    let d₁ : Dev := { d.countSlice e with brezin := { (d.countSlice e).brezin with lastServed := last } }
    let d₂ := (d₁.setChan e c y).emit e vl pk
    d.ChanMoved d₂ e c y ∧ ∀ g, d.route pk.dst pk.src pk.dchan = .port g →
      (d₂.port g).queue = (d.port g).queue ++ [⟨vl, withTtl pk (d.fget bzeTtlInit 0), none⟩] := by
  intro d₁ d₂
  have hcs : d₁.brezin.chans = d.brezin.chans := (d.countSlice_spec e).1
  refine ⟨((d₁.setChan_moved hc y).of_chans hcs).to_chans (Dev.emit_chans ..), fun g hg => ?_⟩
  obtain ⟨hroute, hport, httl⟩ := d.slice_route e (d' := d₁.setChan e c y) rfl rfl rfl pk.dst pk.src pk.dchan
  have hem := Dev.emit_routed (d₁.setChan e c y) e vl pk (hroute.trans hg)
  rw [hport, httl] at hem
  exact hem

theorem nextServed_one (c : Nat) (last : Option Nat) : nextServed [c] last = some c := by
  cases last with
  | none => rfl
  | some l => by_cases h : l < c <;> simp [nextServed, h]

theorem nextServed_nil (last : Option Nat) : nextServed [] last = none := by
  cases last <;> rfl

section
variable {d : Dev} {e c vl place : Nat} {x : Channel} (hc : c < 4096) (hcs : d.brezin.chans = [(chanKey e c, x)])
  (hv : x.vl = vl) (hp : (d.route x.peerId d.devId x.peerChan).place = place) (hr : x.ready = true)
include hc hcs hv hp hr

/-- The one channel of its engine that is ready is served. -/
theorem Dev.slice_one : ∃ last, let d₁ : Dev := { d.countSlice e with brezin := { (d.countSlice e).brezin with lastServed := last } }
    d.slice e vl place = if 0 < x.again then
      match x.unacked[x.unacked.length - x.again]? with
      | some (p, _) => (d₁.setChan e c { x with again := x.again - 1 }).emit e vl p
      | none => d₁
    else match x.queue with
      | (p, o) :: rest => (d₁.setChan e c { x with queue := rest, unacked := x.unacked ++ [(p, o)] }).emit e vl p
      | [] => d₁ := by
  refine ⟨SMap.insert ((e * 19 + place) * 4 + vl) c d.brezin.lastServed, ?_⟩
  have hk : chanKey e c / 4096 = e := by unfold chanKey; omega
  have hm : chanKey e c % 4096 = c := by unfold chanKey; omega
  have hx : d.chan e c = x := by simp [Dev.chan, SMap.get, hcs, SMap.find]
  have hl : (d.countSlice e).brezin.lastServed = d.brezin.lastServed := by
    unfold Dev.countSlice
    dsimp only
    split <;> rfl
  unfold Dev.slice
  simp only [hcs, List.filter_cons, hk, hv, hr, hp, List.filter_nil, decide_true, beq_self_eq_true, Bool.and_self, if_true,
    List.map_cons, List.map_nil, hm, nextServed_one, hx, hl] <;> rfl

end

/-! ### Mirrored writes -/

section
variable {d : Dev} {e c p tag : Nat} {q : Dma} {pk : Packet} {more : List (Nat × Packet)}

theorem Dev.tile_setDma (d : Dev) (p : Nat) (q : Dma) : SMap.find q.tag ((d.setDma p q).tile p).store.dmas = some q := by
  unfold Dev.setDma
  rw [Dev.tile_onTile_same]
  exact SMap.find_insert_same ..

theorem Dev.setDma_setsTile (d : Dev) (p : Nat) (q : Dma) : d.SetsTile (d.setDma p q) p ((d.setDma p q).tile p) :=
  ⟨Dev.onTile_mask (by decide) .., rfl, fun _ hg => Dev.tile_onTile_ne _ _ hg⟩

/-- The next packet of a mirrored DMA, of channel `c` on engine `e`. -/
theorem Dev.mirroredWrite_next (hc : c < 4096) (hf : SMap.find tag (d.tile p).store.dmas = some q)
    (hq : q.mirror = (chanKey e c, pk) :: more) : d.mirroredWrite p tag =
      if !d.active pBZE e then d.setDma p { q with mirror := more, status := worse q.status 3 }
      else if (d.chan e c).state ≠ .opened then d.setDma p { q with mirror := more }
      else if engineBuffer < d.bufferUse e + 24 + pk.payload.length then d
      else ((d.setDma p { q with mirror := more }).submit e c pk.op pk.arg pk.payload (bit pk.flags 6) (.tile p q.seq)).1 := by
  have hk : chanKey e c / 4096 = e := by unfold chanKey; omega
  have hm : chanKey e c % 4096 = c := by unfold chanKey; omega
  unfold Dev.mirroredWrite
  simp only [hf, hq, hk, hm]

/-- The packet as the channel stores it. -/
def Channel.packet (x : Channel) (src c op arg : Nat) (payload : List Nat) (poison : Bool) : Packet :=
  { dst := x.peerId, src := src, op := op, flags := b2n poison * 64, dchan := x.peerChan, schan := c, seq := x.txSeq
    len := payload.length, arg := arg, payload := payload }

/-- An OPEN channel takes a packet. -/
theorem Dev.submit_open (hx : (d.chan e c).state = .opened) (ha : d.active pBZE e = true) (op arg : Nat)
    (payload : List Nat) (poison : Bool) (o : Owner) : (d.submit e c op arg payload poison o).1 =
      d.setChan e c { d.chan e c with
        queue := (d.chan e c).queue ++ [((d.chan e c).packet d.devId c op arg payload poison, o)]
        txSeq := ((d.chan e c).txSeq + 1) % 65536 } := by
  unfold Dev.submit
  dsimp only
  rw [if_neg (by simp [hx, ha])]
  rfl

end

/-! ### Flushes -/

theorem Dev.pageWrite_chflush (d : Dev) (m : Mem) (e v : Nat) (hb : d.blockOpen pBZE e = true) (hv : bit v 0 = true) :
    d.pageWrite m pBZE e 0x54 v = d.chflush e :=
  (Dev.pageWrite_block d m v (Dev.pageReset_other d rfl) (by decide) hb).trans (if_pos hv)

/-- A flush of a channel that holds nothing is done. -/
theorem Channel.settleFlush_idle {x : Channel} (s : Nat) (hu : x.unacked = []) (hq : x.queue = []) :
    ({ x with flushed := false, flushTo := some s } : Channel).settleFlush = { x with flushed := true, flushTo := none } := by
  simp [Channel.settleFlush, hu, hq]

/-- A flush waits for its last packet. -/
theorem Channel.settleFlush_held {x : Channel} {pk : Packet} {o : Owner} {l : List (Packet × Owner)}
    (h : x.unacked ++ x.queue = l ++ [(pk, o)]) :
    ({ x with flushed := false, flushTo := some pk.seq } : Channel).settleFlush
      = { x with flushed := false, flushTo := some pk.seq } := by
  simp [Channel.settleFlush, h]

/-! ### Settling the obligation -/

/-- Settles O46: the one channel that moves is named in each clause; the router reads nothing that a slice counts. -/
theorem channelSends : Obligations.ChannelSends := by
  unfold Obligations.ChannelSends
  intro s e c v p tag vl place q pk o more rest he hc hp hw hcol hcouch x others routed
  have htile : tileOk p = true := decide_eq_true hp
  have heng : bzeOk e = true := decide_eq_true he
  have hchan : (bzeOk e && chanOk c) = true := by rw [heng]; exact decide_eq_true hc
  refine ⟨fun h => ?_, fun hf hq hmir => ?_, fun hcs hxs hstop hxvl hplace => ?_, fun hcs => ?_, fun hst hun => ?_,
    fun hun => ?_, fun ha hb hsel hv => ?_⟩
  · -- no DMA, or one with nothing mirrored
    refine runIf_same (f := fun _ d => d.mirroredWrite p tag) htile hw ?_
    unfold Dev.mirroredWrite
    rcases h with h | ⟨h, hmir⟩
    · rw [h]
    · rw [h]; dsimp only; rw [hmir]
  · -- the next packet of a DMA
    intro room off
    subst hq
    have hnext := Dev.mirroredWrite_next hc hf hmir
    have hoff : ∀ st, s.dev.mirroredWrite p q.tag = s.dev.setDma p { q with mirror := more, status := st } →
        Answers (.mirroredWrite p q.tag) s fun t => off t st := fun st hd => by
      refine Answers.setsTile (f := fun _ d => d.mirroredWrite p q.tag) rfl htile hw
        (by rw [hd]; exact Dev.setDma_setsTile ..) fun _ ho => ⟨?_, ho⟩
      rw [hd]
      exact Dev.tile_setDma _ p { q with mirror := more, status := st }
    refine ⟨fun hact => hoff _ ?_, fun hact hx => hoff _ ?_, fun hact hx hroom => ?_, fun hact hx hroom => ?_⟩
    · rw [hnext, hact]; rfl
    · rw [hnext, hact, if_neg (by decide), if_pos hx]
    · refine runIf_same (f := fun _ d => d.mirroredWrite p q.tag) htile hw ?_
      rw [hnext, hact, if_neg (by decide), if_neg (not_not.mpr hx), if_pos (Nat.lt_of_not_le hroom)]
    · have hd : s.dev.mirroredWrite p q.tag = (s.dev.setDma p { q with mirror := more }).setChan e c { x with
          queue := x.queue ++ [(x.packet s.dev.devId c pk.op pk.arg pk.payload (bit pk.flags 6), .tile p q.seq)]
          txSeq := (x.txSeq + 1) % 65536 } := by
        rw [hnext, hact, if_neg (by decide), if_neg (not_not.mpr hx), if_neg (Nat.not_lt_of_le hroom)]
        exact Dev.submit_open (d := s.dev.setDma p { q with mirror := more }) hx hact ..
      have hmoved := ((s.dev.setDma p { q with mirror := more }).setChan_moved (e := e) hc { x with
          queue := x.queue ++ [(x.packet s.dev.devId c pk.op pk.arg pk.payload (bit pk.flags 6), .tile p q.seq)]
          txSeq := (x.txSeq + 1) % 65536 }).of_chans (d := s.dev) rfl
      refine Answers.parts [.tiles, .brezin] (f := fun _ d => d.mirroredWrite p q.tag) rfl htile hw
        (Dev.mirroredWrite_mask (by decide) ..) (by decide) fun ho => ?_
      dsimp only at ho ⊢
      rw [hd] at ho ⊢
      exact ⟨⟨_, congrArg Channel.queue hmoved.chan, rfl, rfl, rfl, rfl, rfl, rfl⟩, congrArg Channel.txSeq hmoved.chan,
        Dev.tile_setDma _ p { q with mirror := more }, hmoved.others,
        (s.dev.setDma_setsTile p { q with mirror := more }).2.2, ho⟩
  · -- a slice of the one channel
    have hparts : ∀ P : State → Prop, (s.OnlyParts { s with dev := s.dev.slice e vl place } [.regs, .evr, .brezin, .free] →
        P { s with dev := s.dev.slice e vl place }) → Answers (.slice e vl place) s P := fun P hP =>
      Answers.parts [.regs, .evr, .brezin, .free] (f := fun _ d => d.slice e vl place) rfl heng hw
        (Dev.slice_mask (by decide) ..) (by decide) hP
    refine ⟨fun hag hlen hqueue => ?_, fun hag hget => ?_⟩
    · have hr : x.ready = true := by simp [Channel.ready, hxs, hstop, hqueue, hlen]
      obtain ⟨last, hd⟩ := Dev.slice_one hc hcs hxvl hplace hr
      dsimp only at hd
      rw [if_neg (by omega), hqueue] at hd
      dsimp only at hd
      obtain ⟨hmoved, hrouted⟩ := Dev.slice_sends (d := s.dev) (e := e) (vl := vl) hc
        { x with queue := rest, unacked := x.unacked ++ [(pk, o)] } pk last
      refine hparts _ fun ho => ?_
      dsimp only at ho ⊢
      rw [hd] at ho ⊢
      exact ⟨congrArg Channel.queue hmoved.chan, congrArg Channel.unacked hmoved.chan, (congrArg Channel.txSeq hmoved.chan).trans rfl,
        hmoved.others, hrouted, ho⟩
    · have hr : x.ready = true := by simp [Channel.ready, hxs, hstop, hag]
      obtain ⟨last, hd⟩ := Dev.slice_one hc hcs hxvl hplace hr
      dsimp only at hd
      rw [if_pos hag, hget] at hd
      dsimp only at hd
      obtain ⟨hmoved, hrouted⟩ := Dev.slice_sends (d := s.dev) (e := e) (vl := vl) hc
        { x with again := x.again - 1 } pk last
      refine hparts _ fun ho => ?_
      dsimp only at ho ⊢
      rw [hd] at ho ⊢
      exact ⟨hmoved.chan, hmoved.others, hrouted, ho⟩
  · -- a slice with no channel
    refine runIf_same (f := fun _ d => d.slice e vl place) heng hw ?_
    unfold Dev.slice
    dsimp only
    rw [hcs, List.filter_nil, List.map_nil, nextServed_nil]
  · -- the resend timeout
    have hone : s.dev.chanTimeout e c = if 3 ≤ x.timeouts then s.dev.failChan e c 3
        else (s.dev.setChan e c { x with timeouts := x.timeouts + 1, again := x.unacked.length }).fcount bzeRetxcntCount e
          x.unacked.length := if_pos ⟨hst, by simpa using hun⟩
    have hm := Dev.chanTimeout_mask (F := 524296) (by decide) s.dev e c
    have hd : s.dev.afterFailures s.mem (s.dev.chanTimeout e c) = s.dev.chanTimeout e c :=
      Dev.afterFailures_nil _ _ ((congrArg Stp.couch (Dev.stp_of_mask (by decide) hm)).trans hcouch)
        ((Dev.col_of_mask (by decide) hm).trans hcol)
    have hparts : ∀ P : State → Prop, (s.OnlyParts { s with dev := s.dev.chanTimeout e c } [.regs, .brezin] →
        P { s with dev := s.dev.chanTimeout e c }) → Answers (.chrtoExpiry e c) s P := fun P hP => by
      refine Answers.parts [.regs, .brezin] (f := fun m d => d.afterFailures m (d.chanTimeout e c)) rfl hchan hw
        (by rw [hd]; exact Dev.chanTimeout_mask (by decide) ..) (by decide) fun ho => ?_
      rw [hd] at ho ⊢
      exact hP ho
    refine ⟨fun hlt => hparts _ fun ho => ?_, fun hge => hparts _ fun _ => ?_⟩
    · rw [if_neg (by omega)] at hone
      dsimp only at ho ⊢
      rw [hone] at ho ⊢
      have hmoved := (s.dev.setChan_moved (e := e) hc { x with timeouts := x.timeouts + 1, again := x.unacked.length })
      have hk := hmoved.to_chans (f := (s.dev.setChan e c { x with
        timeouts := x.timeouts + 1, again := x.unacked.length }).fcount bzeRetxcntCount e x.unacked.length) rfl
      exact ⟨hk.chan, hk.others, Dev.fget_fcount_sat .., ho⟩
    · rw [if_pos hge] at hone
      dsimp only
      rw [hone]
      have hmoved := s.dev.setChan_moved (e := e) hc { x with
        state := .failed, cause := 3, queue := [], unacked := [], again := 0, flushTo := none, timeouts := 0, ackOwed := 0 }
      exact ⟨congrArg Channel.state hmoved.chan, congrArg Channel.cause hmoved.chan, congrArg Channel.unacked hmoved.chan,
        congrArg Channel.queue hmoved.chan, hmoved.others⟩
  · -- nothing unacknowledged
    refine runIf_same (f := fun m d => d.afterFailures m (d.chanTimeout e c)) hchan hw ?_
    have hd : s.dev.chanTimeout e c = s.dev := if_neg fun h => by
      have hu : (s.dev.chan e c).unacked = [] := hun
      simp [hu] at h
    rw [hd]
    exact Dev.afterFailures_nil _ _ hcouch hcol
  · -- a flush
    have hflush : s.dev.chflush e = if x.state = .opened ∨ x.state = .closing then
        s.dev.setChan e c ({ x with flushed := false, flushTo := some ((x.txSeq + 65535) % 65536) } : Channel).settleFlush
        else s.dev.setChan e c { x with flushed := false } := by
      unfold Dev.chflush
      rw [hsel]
    have hset : ∀ y : Channel, s.dev.chflush e = s.dev.setChan e c y → Answers (.chflush e v) s fun t =>
        t.dev.chan e c = y ∧ others t ∧ s.OnlyParts t [.brezin] := fun y hy => by
      have hg : (if bit v 0 then s.dev.pageWrite s.mem pBZE e 0x54 v else s.dev) = s.dev.setChan e c y := by
        rw [if_pos hv, Dev.pageWrite_chflush _ _ _ _ hb hv, hy]
      refine Answers.hostParts [.brezin] (g := fun m d => if bit v 0 then d.pageWrite m pBZE e 0x54 v else d) rfl heng ha hw
        (by rw [hg]; exact Dev.setChan_mask (by decide) ..) (by decide) fun ho => ?_
      dsimp only at ho ⊢
      rw [hg] at ho ⊢
      have hmoved := s.dev.setChan_moved (e := e) hc y
      exact ⟨hmoved.chan, hmoved.others, ho⟩
    refine ⟨fun hst => ⟨fun hu hq => hset _ ?_, fun l hl hseq => hset _ ?_⟩, fun ho hcl => hset _ ?_⟩
    · rw [hflush, if_pos hst, Channel.settleFlush_idle _ hu hq]
    · rw [hflush, if_pos hst, ← hseq, Channel.settleFlush_held hl]
    · rw [hflush, if_neg (by simp [ho, hcl])]

end Sys2Proof.Machine
end


section
/-! PROOFS. Frames of a port (R328 to R332). -/

namespace Sys2Proof.Machine

/-! ### Frames that arrive -/

section
variable {d : Dev} {p fec : Nat} {bs : List Nat}

theorem Dev.countFec_up (h : (d.port p).state = .up) (fec : Nat) : d.countFec p fec = d.fcount bzpFeccorrCount p fec := if_pos h

theorem Dev.countFec_down (h : (d.port p).state ≠ .up) (fec : Nat) : d.countFec p fec = d := if_neg h

theorem Dev.dataFrame_down (h : (d.port p).state ≠ .up) : d.dataFrame p bs fec = d := by
  unfold Dev.dataFrame
  rw [Dev.countFec_down h]
  exact if_pos h

theorem Dev.lcf_down (h : (d.port p).state ≠ .up) : d.lcf p bs fec = d := by
  unfold Dev.lcf
  rw [Dev.countFec_down h]
  exact if_neg fun hc => h hc.1

/-- The header of a frame. -/
def frameHeader (bs : List Nat) : Nat := ofLE (bs.take 8)

/-- The packet that a frame carries. -/
def framePacket (bs : List Nat) : Packet := packetOf ((bs.drop 8).take (bs.length - 16))

/-- A port that has accepted the frame with header `h`. -/
def Port.accepts (x : Port) (h : Nat) : Port :=
  { x.header h with rxSeq := bits h 4 12, nakSent := false, nak := false, ackOwed := true }

/-- The device with the codewords counted and the frame accepted. -/
def Dev.accepts (d : Dev) (p fec : Nat) (bs : List Nat) : Dev :=
  (d.fcount bzpFeccorrCount p fec).setPort p ((d.port p).accepts (frameHeader bs))

/-- A discarded frame asks for a replay. -/
theorem Dev.dataFrame_refused (h : (d.port p).state = .up) (hr : frameGood bs = false
      ∨ bits (frameHeader bs) 0 2 = 1 ∧ bits (frameHeader bs) 4 12 ≠ ((d.port p).rxSeq + 1) % 4096) :
    d.dataFrame p bs fec = (d.fcount bzpFeccorrCount p fec).setPort p (d.port p).refuseFrame := by
  unfold frameHeader at hr
  unfold Dev.dataFrame
  rw [Dev.countFec_up h]
  have hp : (d.fcount bzpFeccorrCount p fec).port p = d.port p := rfl
  dsimp only
  rw [hp, if_neg (not_not.mpr h)]
  by_cases hg : frameGood bs = false
  · rw [hg]; rfl
  · obtain ⟨hk, hs⟩ := hr.resolve_left hg
    rw [Bool.not_eq_false] at hg
    rw [hg, if_neg (by decide), if_neg (not_not.mpr hk), if_pos hs]

/-- A frame in order is accepted. -/
theorem Dev.dataFrame_accepted (h : (d.port p).state = .up) (hg : frameGood bs = true) (hk : bits (frameHeader bs) 0 2 = 1)
    (hs : bits (frameHeader bs) 4 12 = ((d.port p).rxSeq + 1) % 4096) : d.dataFrame p bs fec =
      if (framePacket bs).dst % 2 ^ 20 = d.devId ∧ d.hasId then
        ((d.accepts p fec bs).deliver (p / 3) (bits (frameHeader bs) 2 2) (framePacket bs)).onPort p
          (fun x => x.freeBuffer (bits (frameHeader bs) 2 2))
      else (d.accepts p fec bs).transit p (bits (frameHeader bs) 2 2) (framePacket bs) := by
  have hp : (d.fcount bzpFeccorrCount p fec).port p = d.port p := rfl
  have hi : ∀ y, ((d.fcount bzpFeccorrCount p fec).setPort p y).devId = d.devId := fun y =>
    Dev.fget_fset_place _ (f := bzpFeccorrCount) (g := bzeDevidId) _ _ _ (by decide)
  have hid : ∀ y, ((d.fcount bzpFeccorrCount p fec).setPort p y).hasId = d.hasId := fun y => by
    unfold Dev.hasId; rw [hi]
  unfold frameHeader at hk hs
  unfold Dev.dataFrame
  rw [Dev.countFec_up h]
  dsimp only
  rw [hp, if_neg (not_not.mpr h), hg, if_neg (by decide), if_neg (not_not.mpr hk), if_neg (not_not.mpr hs), hi, hid]
  rfl

/-! ### What an accepted frame leaves -/

theorem Dev.accepts_moved (d : Dev) (p fec : Nat) (bs : List Nat) :
    d.PortMoved (d.accepts p fec bs) p ((d.port p).accepts (frameHeader bs)) :=
  (Dev.setPort_moved (d.fcount bzpFeccorrCount p fec) p _).of_brezin rfl

theorem Dev.accepts_counted (d : Dev) (p fec : Nat) (bs : List Nat) : (d.accepts p fec bs).fget bzpFeccorrCount p
    = satAdd (2 ^ bzpFeccorrCount.width - 1) (d.fget bzpFeccorrCount p) fec := Dev.fget_fcount_sat ..

theorem Dev.fget_accepts (d : Dev) (p fec : Nat) (bs : List Nat) {g : Field} (j : Nat)
    (h : g.place < 2 ^ 23 ∧ g.place ≠ bzpFeccorrCount.place) : (d.accepts p fec bs).fget g j = d.fget g j :=
  Dev.fget_fset_place _ (f := bzpFeccorrCount) _ _ _ ⟨by decide, h⟩

/-- A frame's buffer is freed on port `p`, whatever kept the ports and channels before. -/
theorem Dev.PortMoved.freed {d d' : Dev} {p : Nat} {y : Port} (h : d.PortMoved d' p y) (vl : Nat) :
    d.PortMoved (d'.onPort p (fun x => x.freeBuffer vl)) p (y.freeBuffer vl) := by
  have hm := h.trans (Dev.setPort_moved d' p ((d'.port p).freeBuffer vl))
  rw [h.port] at hm
  unfold Dev.onPort
  rw [h.port]
  exact hm

/-- What is handed to an engine moves no port and no channel. -/
theorem Dev.deliver_moved {d d' : Dev} {p : Nat} {y : Port} (h : d.PortMoved d' p y) (e vl : Nat) (pk : Packet) :
    d.PortMoved (d'.deliver e vl pk) p y := by
  unfold Dev.deliver
  split
  · exact ⟨h.port, h.others, h.chans⟩
  · exact h.to_brezin rfl

theorem Dev.deliver_good (d : Dev) {e vl : Nat} {pk : Packet} (h : packetOk vl pk = true) :
    SMap.get [] ((d.holder pk.dchan).getD e) (d.deliver e vl pk).brezin.inbox
      = SMap.get [] ((d.holder pk.dchan).getD e) d.brezin.inbox ++ [pk] := by
  unfold Dev.deliver
  rw [if_pos h]
  unfold SMap.get
  dsimp only
  rw [SMap.find_insert_same]
  rfl

theorem Dev.deliver_bad (d : Dev) {e vl : Nat} {pk : Packet} (h : packetOk vl pk = false) :
    d.deliver e vl pk = d.fcount bzeBadpktCount e 1 := if_neg (by rw [h]; decide)

/-- Delivering counts no corrected codeword. -/
theorem Dev.fget_deliver (d : Dev) (e vl : Nat) (pk : Packet) {g : Field} (j : Nat)
    (h : g.place < 2 ^ 23 ∧ g.place ≠ bzeBadpktCount.place) : (d.deliver e vl pk).fget g j = d.fget g j := by
  unfold Dev.deliver
  split
  · rfl
  · exact Dev.fget_fset_place _ (f := bzeBadpktCount) _ _ _ ⟨by decide, h⟩

/-- The state of its port is what the router sees of an accepted frame. -/
theorem Dev.route_accepts (d : Dev) (p fec : Nat) (bs : List Nat) (dst src dchan : Nat) :
    (d.accepts p fec bs).route dst src dchan = d.route dst src dchan := by
  have hm := d.accepts_moved p fec bs
  have hf : ∀ (g : Field) j, g.place < 2 ^ 23 ∧ g.place ≠ bzpFeccorrCount.place →
      (d.accepts p fec bs).fget g j = d.fget g j := fun g j h => d.fget_accepts p fec bs j h
  have hst : ∀ g, ((d.accepts p fec bs).port g).state = (d.port g).state := fun g => by
    by_cases hg : g = p
    · subst hg; rw [hm.port]; rfl
    · rw [hm.others g hg]
  have hact : ∀ g, (d.accepts p fec bs).active pBZP g = d.active pBZP g := fun g => rfl
  simp only [Dev.route, Dev.devId, Dev.fbit, hf bzeDevidId 0 (by decide), fun i => hf bzeRtentValid i (by decide),
    fun i => hf bzeRtentPorts i (by decide), hst, hact]
  rfl

theorem Dev.transit_forwarded {d : Dev} {p vl q : Nat} {pk : Packet} (ht : pk.flags % 64 ≠ 0)
    (hr : d.route pk.dst pk.src pk.dchan = .port q) : d.transit p vl pk = d.setPort q
      { d.port q with queue := (d.port q).queue ++ [⟨vl, withTtl pk (pk.flags % 64 - 1), some p⟩] } := by
  unfold Dev.transit
  dsimp only
  rw [if_neg ht, hr]
  rfl

theorem Dev.transit_expired {d : Dev} {p vl : Nat} {pk : Packet} (ht : pk.flags % 64 = 0) : d.transit p vl pk =
    ((d.fcount bzpTtldropTtl p 1).record 0x0012 pBZP p (pk.dst % 2 ^ 20) 0 p).onPort p (fun x => x.freeBuffer vl) := if_pos ht

theorem Dev.transit_nowhere {d : Dev} {p vl : Nat} {pk : Packet} (ht : pk.flags % 64 ≠ 0)
    (hr : d.route pk.dst pk.src pk.dchan = .nowhere) : d.transit p vl pk =
    ((d.fcount bzpTtldropNoroute p 1).record 0x0012 pBZP p (pk.dst % 2 ^ 20) 1 p).onPort p (fun x => x.freeBuffer vl) := by
  unfold Dev.transit
  dsimp only
  rw [if_neg ht, hr]

/-- A dropped frame is counted in `f`, and its buffer freed. -/
theorem Dev.dropped {d : Dev} {p fec vl a b c e : Nat} {f : Field} (hf : f.place < 2 ^ 23)
    (hne : bzpFeccorrCount.place ≠ f.place) (hc : f.place / 2 ^ 17 ∉ memClasses) :
    let d' := (((d.accepts p fec bs).fcount f p 1).record a pBZP b c e p).onPort p (fun x => x.freeBuffer vl)
    d.PortMoved d' p (((d.port p).accepts (frameHeader bs)).freeBuffer vl)
    ∧ d'.fget bzpFeccorrCount p = satAdd (2 ^ bzpFeccorrCount.width - 1) (d.fget bzpFeccorrCount p) fec
    ∧ d'.fget f p = satAdd (2 ^ f.width - 1) (d.fget f p) 1 := by
  intro d'
  have hk : ((d.accepts p fec bs).fcount f p 1).KeepsBut memClasses d' :=
    (Dev.KeepsBut.record (.refl ..) ..).trans (.of_regs rfl)
  refine ⟨?_, ?_, ?_⟩
  · exact ((d.accepts_moved p fec bs).to_brezin
      (Dev.brezin_of_mask (F := 40) (by decide) (by simp))).freed vl
  · rw [hk.keeps _ _ (by decide) (by decide), Dev.fcount, Dev.fget_fset_place _ _ _ _ ⟨hf, by decide, hne⟩,
      Dev.accepts_counted]
  · rw [hk.keeps _ _ hf hc, Dev.fget_fcount_sat, Dev.fget_accepts _ _ _ _ _ ⟨hf, hne.symm⟩]

end

/-! ### Frames that leave -/

section
variable {d : Dev} {p : Nat} {w : Bool}

theorem Dev.frameTransmit_down (h : (d.port p).state ≠ .up) : d.frameTransmit p w = d := if_pos h

theorem Dev.frameTransmit_resends (h : (d.port p).state = .up) (hr : 0 < (d.port p).resend) :
    d.frameTransmit p w = d.resendFrame p := (if_neg (not_not.mpr h)).trans (if_pos hr)

theorem Port.ready_nil {x : Port} (h : x.queue = []) (vl : Nat) : x.ready vl = false := by
  unfold Port.ready
  rw [h]
  rfl

theorem Dev.roundLane_nil (d : Dev) (p : Nat) {x : Port} (h : x.queue = []) (n vl left : Nat) :
    d.roundLane p x n vl left = none := by
  induction n generalizing vl left with
  | zero => rfl
  | succ n ih =>
    unfold Dev.roundLane
    rw [if_neg (by rw [Port.ready_nil h]; simp), ih]

theorem Dev.egressLane_nil (h : (d.port p).queue = []) : d.egressLane p w = none := by
  unfold Dev.egressLane
  dsimp only
  rw [if_neg (by rw [Port.ready_nil h]; decide), Dev.roundLane_nil _ _ h, ite_self]

/-- With nothing to send a port returns an LCF. -/
theorem Dev.frameTransmit_lcf (h : (d.port p).state = .up) (hr : (d.port p).resend = 0)
    (hq : (d.port p).queue = [] ∨ 1024 ≤ (d.port p).replay.length) :
    d.frameTransmit p w = d.setPort p ((d.port p).send 0 0 0 []) := by
  unfold Dev.frameTransmit
  dsimp only
  rw [if_neg (not_not.mpr h), if_neg (by omega)]
  by_cases hl : 1024 ≤ (d.port p).replay.length
  · exact if_pos hl
  · rw [if_neg hl, Dev.egressLane_nil (hq.resolve_right hl)]

/-- A port after it has sent the frame of its queue on CTL. -/
def Port.sent (x : Port) (g : Egress) : Port :=
  ({ x with queue := [], localNext := x.localNext.set 0 false, credit := x.credit.modify 0 (· - 1)
            replay := x.replay ++ [Replay.mk x.txSeq 0 g.packet 0], txSeq := (x.txSeq + 1) % 4096 } : Port).send
    1 0 x.txSeq (packetBytes g.packet)

/-- The one frame of a port, of its own device on CTL, goes against a credit. -/
theorem Dev.frameTransmit_sends {g : Egress} (h : (d.port p).state = .up) (hr : (d.port p).resend = 0)
    (hq : (d.port p).queue = [g]) (hv : g.vl = 0) (hg : g.from_ = none) (hl : (d.port p).replay.length < 1024)
    (hc : 1 ≤ (d.port p).credit.getD 0 0) (ht : (d.port p).txSeq < 4096) :
    d.frameTransmit p w = d.setPort p ((d.port p).sent g) := by
  have hlane : d.egressLane p w = some (0, 0) := if_pos (by
    unfold Port.ready
    rw [hq]
    simp only [List.any_cons, List.any_nil, hv, hc]
    rfl)
  have hnext : (d.port p).nextIn 0 = some g := by
    unfold Port.nextIn
    simp only [hq, List.find?_cons, List.find?_nil, hv, hg]
    cases (d.port p).localNext.getD 0 false <;> rfl
  have hseq : ((d.port p).txSeq + 1) % 4096 = (d.port p).txSeq + 1 ∧ (d.port p).txSeq + 1 < 4096
      ∨ (d.port p).txSeq = 4095 := by omega
  have hback : (((d.port p).txSeq + 1) % 4096 + 4095) % 4096 = (d.port p).txSeq := by omega
  have hone : (d.port p).queue.erase g = [] := by rw [hq]; simp
  unfold Dev.frameTransmit
  dsimp only
  rw [if_neg (not_not.mpr h), if_neg (by omega), if_neg (by omega), hlane]
  dsimp only
  rw [hnext]
  dsimp only
  rw [hg]
  simp only [if_true, hback, hone]
  rfl

/-- A port after it has resent the frame `r`. -/
def Port.resent (x : Port) (r : Replay) : Port :=
  ({ x with replay := x.replay.set (x.replay.length - x.resend) { r with resent := r.resent + 1 }
            resend := x.resend - 1 } : Port).send 1 r.vl r.seq (packetBytes r.packet)

/-- A frame sent again is counted, and the eighth time the port retrains. -/
theorem Dev.resendFrame_spec {r : Replay} (h : (d.port p).state = .up)
    (hr : (d.port p).replay[(d.port p).replay.length - (d.port p).resend]? = some r) :
    (∃ y, d.PortMoved (d.resendFrame p) p y ∧ y.wire = ((d.port p).resent r).wire
      ∧ y.resend = (d.port p).resend - 1 ∧ y.replay = ((d.port p).resent r).replay
      ∧ y.state = if r.resent = 7 then .retraining else .up)
    ∧ (d.resendFrame p).fget bzpReplaycntCount p
      = satAdd (2 ^ bzpReplaycntCount.width - 1) (d.fget bzpReplaycntCount p) 1
    ∧ bit ((d.resendFrame p).unit pBZP p).err 0 = true := by
  let d₁ := (d.setPort p ((d.port p).resent r)).fcount bzpReplaycntCount p 1
  let d₂ := d₁.pgErr pBZP p bCE 0x1006 1 0 0
  have hd : d.resendFrame p = if r.resent + 1 = 8 then d₂.startRetrain p else d₂ := by
    unfold Dev.resendFrame
    dsimp only
    rw [hr]
    rfl
  have hm : d.PortMoved d₂ p ((d.port p).resent r) :=
    ((Dev.setPort_moved d p _).to_brezin (e' := d₁) rfl).to_brezin
      (Dev.brezin_of_mask (F := 4194352) (by decide) (Dev.pgErr_mask (by decide) ..))
  have hcount : d₂.fget bzpReplaycntCount p = satAdd (2 ^ bzpReplaycntCount.width - 1) (d.fget bzpReplaycntCount p) 1 :=
    ((Dev.KeepsBut.pgErr (cs := memClasses) (.refl ..) ..).keeps _ _ (by decide) (by decide)).trans (Dev.fget_fcount_sat ..)
  have herr : bit (d₂.unit pBZP p).err 0 = true := by
    rw [Dev.unit_pgErr_same, (UnitPage.setErr_spec ..).1, bit_or]
    exact (Bool.or_eq_true ..).mpr (.inr (by decide))
  rw [hd]
  by_cases h8 : r.resent = 7
  · have hup : (d₂.port p).state = .up := (congrArg Port.state hm.port).trans h
    rw [if_pos (by omega), if_pos h8, Dev.startRetrain_up hup]
    refine ⟨⟨_, hm.trans (Dev.movePort_moved ..), ?_, ?_, ?_, rfl⟩, ?_, ?_⟩
    · rw [hm.port]
    · rw [hm.port]; rfl
    · rw [hm.port]
    · exact (Dev.fget_movePort _ p _ p (by decide)).trans hcount
    · rw [Dev.unit_of_mask (F := 528424) (by decide) (Dev.movePort_mask (by decide) ..)]
      exact herr
  · rw [if_neg (by omega), if_neg h8]
    exact ⟨⟨_, hm, rfl, rfl, rfl, h⟩, hcount, herr⟩

end

/-! ### Settling the obligation -/

/-- Settles O43: each clause is one move of port `p`, of what it accepted, sent or refused. -/
theorem portFrames : Obligations.PortFrames := by
  unfold Obligations.PortFrames
  intro s p fec bs w g r hp hw x h vl pk kept counted accepted inOrder own
  have hok : portOk p = true := decide_eq_true hp
  have hmask : (s.dev.dataFrame p bs fec).mask 524328 = s.dev.mask 524328 := Dev.dataFrame_mask (by decide) ..
  have hmoved : ∀ {d' : Dev} {y : Port}, s.dev.PortMoved d' p y → kept { s with dev := d' } := fun hm => ⟨hm.others, hm.chans⟩
  refine ⟨fun hx => ⟨?_, ?_, ?_⟩, fun hx => ⟨fun hbad => ?_, fun hin hown => ?_, fun hin hown => ⟨fun httl => ?_,
    fun o httl ho => ⟨fun q hq => ?_, fun hno => ?_⟩⟩, fun hg hl hk => ?_, fun hbad => ?_, fun hr hrep => ?_,
    fun hr hq => ?_, fun hr hq hv hf hl hc ht => ?_⟩⟩
  · exact runIf_same (f := fun _ d => d.dataFrame p bs fec) hok hw (Dev.dataFrame_down hx)
  · exact runIf_same (f := fun _ d => d.lcf p bs fec) hok hw (Dev.lcf_down hx)
  · exact runIf_same (f := fun _ d => d.frameTransmit p w) hok hw (Dev.frameTransmit_down hx)
  · -- a discarded frame
    have hd := Dev.dataFrame_refused (fec := fec) hx hbad
    refine Answers.quiet (f := fun _ d => d.dataFrame p bs fec) rfl hok hd hw ?_
    have hm := (Dev.setPort_moved (s.dev.fcount bzpFeccorrCount p fec) p x.refuseFrame).of_brezin (d := s.dev) rfl
    exact ⟨hm.port, hmoved hm, Dev.fget_fcount_sat .., rfl, State.onlyParts_of_mask [.regs, .brezin] rfl⟩
  · -- a frame for this device
    obtain ⟨hgood, hkind, hseq⟩ := hin
    have hd := (Dev.dataFrame_accepted (fec := fec) hx hgood hkind hseq).trans (if_pos hown)
    have hacc := s.dev.accepts_moved p fec bs
    have hm := (Dev.deliver_moved hacc (p / 3) vl pk).freed vl
    have hhold : (s.dev.accepts p fec bs).holder pk.dchan = s.dev.holder pk.dchan := by
      unfold Dev.holder
      simp only [Dev.chan, hacc.chans]
    have hinbox : (s.dev.accepts p fec bs).brezin.inbox = s.dev.brezin.inbox := rfl
    have hm' := (Dev.onPort_mask (F := 524296) (by decide) ((s.dev.accepts p fec bs).deliver (p / 3) vl pk) p
      (fun x => x.freeBuffer vl)).trans ((Dev.deliver_mask (by decide) ..).trans (show _ = s.dev.mask 524296 from rfl))
    refine Answers.quiet (f := fun _ d => d.dataFrame p bs fec) rfl hok hd ?_ ?_
    · exact (Dev.wout_of_mask (by decide) hm').trans hw
    · refine ⟨hm.port, hmoved hm, ?_, ⟨fun hgoodp => ?_, fun hbadp => ?_⟩,
        State.onlyParts_of_mask [.regs, .brezin] hm'⟩
      · exact (Dev.fget_deliver _ _ vl pk _ (by decide)).trans (Dev.accepts_counted ..)
      · have := Dev.deliver_good (s.dev.accepts p fec bs) (e := p / 3) hgoodp
        rw [hhold] at this
        exact this
      · have hb := Dev.deliver_bad (s.dev.accepts p fec bs) (e := p / 3) hbadp
        refine ⟨(congrArg (fun d : Dev => d.brezin.inbox) hb).trans rfl, ?_⟩
        refine (congrArg (fun d : Dev => d.fget bzeBadpktCount (p / 3)) hb).trans ?_
        rw [Dev.fget_fcount_sat, Dev.fget_accepts _ _ _ _ _ (by decide)]
  · -- a frame for another device that has no time to live
    obtain ⟨hgood, hkind, hseq⟩ := hin
    have hd := ((Dev.dataFrame_accepted (fec := fec) hx hgood hkind hseq).trans (if_neg hown)).trans
      (Dev.transit_expired httl)
    obtain ⟨hm, hcount, hdrop⟩ := Dev.dropped (d := s.dev) (fec := fec) (bs := bs) (p := p) (vl := vl) (a := 0x0012) (b := p)
      (c := pk.dst % 2 ^ 20) (e := 0) (f := bzpTtldropTtl) (by decide) (by decide) (by decide)
    refine Answers.quiet (f := fun _ d => d.dataFrame p bs fec) rfl hok hd ?_
      ⟨hm.port, hmoved hm, hcount, hdrop, State.onlyParts_of_mask [.regs, .evr, .brezin] ?_⟩
    · exact (Dev.wout_of_mask (F := 524328) (by decide) (by rw [← hd]; exact hmask)).trans hw
    · exact (Dev.onPort_mask (by decide) ..).trans ((Dev.record_mask (by decide) ..).trans
        ((Dev.fcount_mask (by decide) ..).trans rfl))
  · -- a frame that goes on
    obtain ⟨hgood, hkind, hseq⟩ := hin
    have hd := ((Dev.dataFrame_accepted (fec := fec) hx hgood hkind hseq).trans (if_neg hown)).trans
      (Dev.transit_forwarded (q := q) httl ((Dev.route_accepts ..).trans (ho.trans hq)))
    refine Answers.quiet (f := fun _ d => d.dataFrame p bs fec) rfl hok hd hw
      ⟨s.dev.accepts_counted p fec bs, ?_, ?_, State.onlyParts_of_mask [.regs, .brezin] rfl⟩
    · have hacc := s.dev.accepts_moved p fec bs
      have hqueue : ((s.dev.accepts p fec bs).port q).queue = (s.dev.port q).queue := by
        by_cases hqp : q = p
        · subst hqp; rw [hacc.port]; rfl
        · rw [hacc.others q hqp]
      refine (congrArg Port.queue (Dev.port_setPort_same ..)).trans ?_
      dsimp only
      rw [hqueue]
      rfl
    · have hacc := s.dev.accepts_moved p fec bs
      have hrx : ((s.dev.accepts p fec bs).port p).rxSeq = (x.rxSeq + 1) % 4096 := by
        rw [hacc.port]; exact hseq
      refine Eq.trans ?_ hrx
      by_cases hqp : p = q
      · subst hqp
        exact (congrArg Port.rxSeq (Dev.port_setPort_same ..)).trans rfl
      · exact congrArg Port.rxSeq (Dev.port_setPort_ne _ _ hqp)
  · -- a frame for a device that no route reaches
    obtain ⟨hgood, hkind, hseq⟩ := hin
    have hd := ((Dev.dataFrame_accepted (fec := fec) hx hgood hkind hseq).trans (if_neg hown)).trans
      (Dev.transit_nowhere httl ((Dev.route_accepts ..).trans (ho.trans hno)))
    obtain ⟨hm, hcount, hdrop⟩ := Dev.dropped (d := s.dev) (fec := fec) (bs := bs) (p := p) (vl := vl) (a := 0x0012) (b := p)
      (c := pk.dst % 2 ^ 20) (e := 1) (f := bzpTtldropNoroute) (by decide) (by decide) (by decide)
    refine Answers.quiet (f := fun _ d => d.dataFrame p bs fec) rfl hok hd ?_
      ⟨hm.port, hmoved hm, hcount, hdrop, State.onlyParts_of_mask [.regs, .evr, .brezin] ?_⟩
    · exact (Dev.wout_of_mask (F := 524328) (by decide) (by rw [← hd]; exact hmask)).trans hw
    · exact (Dev.onPort_mask (by decide) ..).trans ((Dev.record_mask (by decide) ..).trans
        ((Dev.fcount_mask (by decide) ..).trans rfl))
  · -- a link control frame
    have hd : s.dev.lcf p bs fec = (s.dev.fcount bzpFeccorrCount p fec).setPort p (x.header h) := by
      unfold Dev.lcf
      rw [Dev.countFec_up hx]
      exact if_pos ⟨hx, hl, hg, hk⟩
    have hm := (Dev.setPort_moved (s.dev.fcount bzpFeccorrCount p fec) p (x.header h)).of_brezin (d := s.dev) rfl
    exact Answers.quiet (f := fun _ d => d.lcf p bs fec) rfl hok hd hw
      ⟨hm.port, hmoved hm, Dev.fget_fcount_sat .., State.onlyParts_of_mask [.regs, .brezin] rfl⟩
  · -- a link control frame that is discarded
    have hd : s.dev.lcf p bs fec = s.dev.fcount bzpFeccorrCount p fec := by
      unfold Dev.lcf
      rw [Dev.countFec_up hx]
      refine if_neg ?_
      rintro ⟨-, hl, hg, -⟩
      rcases hbad with hbad | hbad
      · rw [hbad] at hg; exact absurd hg (by decide)
      · exact hbad hl
    exact Answers.quiet (f := fun _ d => d.lcf p bs fec) rfl hok hd hw
      ⟨Dev.fget_fcount_sat .., State.onlyParts_of_mask [.regs] rfl⟩
  · -- a frame sent again
    obtain ⟨⟨y, hm, hwire, hres, hreplay, hst⟩, hcount, herr⟩ := Dev.resendFrame_spec hx hrep
    have hd := Dev.frameTransmit_resends (w := w) hx hr
    refine Answers.quiet (f := fun _ d => d.frameTransmit p w) rfl hok hd ?_ ⟨?_, ?_, ?_, ?_, hcount, herr, hmoved hm⟩
    · exact (Dev.wout_of_mask (F := 4722744) (by decide) (Dev.resendFrame_mask (by decide) ..)).trans hw
    all_goals dsimp only; rw [hm.port]
    · exact hwire
    · exact hres
    · exact hreplay
    · exact hst
  · -- nothing to send
    have hd := Dev.frameTransmit_lcf (w := w) hx hr hq
    have hm := Dev.setPort_moved s.dev p (x.send 0 0 0 [])
    exact Answers.quiet (f := fun _ d => d.frameTransmit p w) rfl hok hd hw
      ⟨hm.port, hmoved hm, State.onlyParts_of_mask [.brezin] rfl⟩
  · -- a new frame
    have hd := Dev.frameTransmit_sends (w := w) hx hr hq hv hf hl hc ht
    have hm := Dev.setPort_moved s.dev p (x.sent g)
    refine Answers.quiet (f := fun _ d => d.frameTransmit p w) rfl hok hd hw
      ⟨?_, ?_, ?_, ?_, ?_, hmoved hm, State.onlyParts_of_mask [.brezin] rfl⟩
    all_goals dsimp only; rw [hm.port]; rfl

end Sys2Proof.Machine
end


section
/-! PROOFS. What of the device decides how the stacks' dies read and write, and which operations keep it. -/

namespace Sys2Proof.Machine

/-! ### What the dies see -/

/-- What of the device decides which bytes a read or a write of a stack reaches and what it makes of them, beside the
bytes themselves: the tables of Deckle, the states of the units, the stacks that have FAILED, TCORR and the bank. -/
structure DieState where
  deckle : Deckle
  state : Nat → Nat → UnitState
  failed : Nat → Bool
  tcorr : Nat → Nat
  bank : Nat

def Dev.dieState (d : Dev) : DieState :=
  { deckle := { d.deckle with health := [], events := [] }
    state := fun c i => (d.unit c i).state
    failed := fun s => d.fget stkStatHealth s == 3
    tcorr := fun s => d.fget stkEccctlTcorr s
    bank := d.fget stpBankSel 0 }

/-- The cells of the stacks that are not as they were written, and what the command has written. -/
def Dev.held (d : Dev) : (Nat → SMap LineCells) × SMap Byte := (fun s => (d.stack s).cells, d.wout)

/-- From `d` to `e` neither changes. -/
structure Dev.DieKeeps (d e : Dev) : Prop where
  state : e.dieState = d.dieState
  held : e.held = d.held

/-- Neither the fields of a page of these classes nor what else the mask forgets belongs to what the dies see. -/
theorem Dev.dieState_congr {d e : Dev} (hd : e.deckle = d.deckle) (hu : ∀ c i, (e.unit c i).state = (d.unit c i).state)
    (hr : ∀ (f : Field) i, f ∈ [stkStatHealth, stkEccctlTcorr, stpBankSel] → e.fget f i = d.fget f i) :
    e.dieState = d.dieState := by
  have hc : (fun c i => (e.unit c i).state) = fun c i => (d.unit c i).state := funext fun c => funext fun i => hu c i
  unfold Dev.dieState
  rw [hd, hc]
  simp only [hr stkStatHealth _ (by decide), hr stkEccctlTcorr _ (by decide), hr stpBankSel _ (by decide)]

theorem Dev.stack_congr {d e : Dev} (h : e.stks = d.stks) (s : Nat) : e.stack s = d.stack s :=
  congrArg (SMap.get Stack.reset s) h

theorem Dev.held_congr {d e : Dev} (hs : e.stks = d.stks) (hw : e.wout = d.wout) : e.held = d.held := by
  unfold Dev.held
  rw [hw]
  simp only [Dev.stack_congr hs]

namespace Dev.DieKeeps
variable {d e : Dev}

theorem refl (d : Dev) : d.DieKeeps d := ⟨rfl, rfl⟩

theorem trans {f : Dev} (h : d.DieKeeps e) (k : e.DieKeeps f) : d.DieKeeps f :=
  ⟨k.state.trans h.state, k.held.trans h.held⟩

/-- An operation that keeps the registers, the units, the stacks, Deckle and the outbox. -/
theorem of_mask {F : Nat} (hF : F.testBit 3 = false ∧ F.testBit 4 = false ∧ F.testBit 10 = false ∧ F.testBit 12 = false
    ∧ F.testBit 26 = false) (h : e.mask F = d.mask F) : d.DieKeeps e := by
  obtain ⟨h3, h4, h10, h12, h26⟩ := hF
  exact ⟨Dev.dieState_congr (Dev.deckle_of_mask h12 h) (fun c i => congrArg UnitPage.state (Dev.unit_of_mask h4 h c i))
    (fun f i _ => Dev.fget_of_mask h3 h f i), Dev.held_congr (Dev.stks_of_mask h10 h) (Dev.wout_of_mask h26 h)⟩

/-- A write of a field that the dies do not read. -/
theorem fset (h : d.DieKeeps e) (x : Field) (i v : Nat)
    (hx : x.place < 2 ^ 23 ∧ x.place ∉ [stkStatHealth.place, stkEccctlTcorr.place, stpBankSel.place] := by decide) :
    d.DieKeeps (e.fset x i v) := by
  refine h.trans ⟨Dev.dieState_congr rfl (fun _ _ => rfl) fun f j hf => ?_, rfl⟩
  simp only [List.mem_cons, List.not_mem_nil, or_false] at hf hx
  obtain ⟨hlt, hne⟩ := hx
  rw [not_or, not_or] at hne
  rcases hf with rfl | rfl | rfl
  · exact Dev.fget_fset_place _ _ _ _ ⟨hlt, by decide, Ne.symm hne.1⟩
  · exact Dev.fget_fset_place _ _ _ _ ⟨hlt, by decide, Ne.symm hne.2.1⟩
  · exact Dev.fget_fset_place _ _ _ _ ⟨hlt, by decide, Ne.symm hne.2.2⟩

theorem fcount (h : d.DieKeeps e) (x : Field) (i n : Nat)
    (hx : x.place < 2 ^ 23 ∧ x.place ∉ [stkStatHealth.place, stkEccctlTcorr.place, stpBankSel.place] := by decide) :
    d.DieKeeps (e.fcount x i n) := h.fset x i _ hx

theorem fwrap (h : d.DieKeeps e) (x : Field) (i : Nat)
    (hx : x.place < 2 ^ 23 ∧ x.place ∉ [stkStatHealth.place, stkEccctlTcorr.place, stpBankSel.place] := by decide) :
    d.DieKeeps (e.fwrap x i) := h.fset x i _ hx

theorem ite {c : Prop} [Decidable c] {f : Dev} (h : c → d.DieKeeps e) (k : ¬ c → d.DieKeeps f) :
    d.DieKeeps (if c then e else f) := by
  by_cases hc : c
  · rw [if_pos hc]; exact h hc
  · rw [if_neg hc]; exact k hc

theorem foldl {α : Type} {f : Dev → α → Dev} (h : ∀ (e : Dev) x, e.DieKeeps (f e x)) (l : List α) (hd : d.DieKeeps e) :
    d.DieKeeps (l.foldl f e) := Dev.foldl_keep (fun e => d.DieKeeps e) f (fun e x he => he.trans (h e x)) l e hd

theorem record (h : d.DieKeeps e) (code cls inst p0 p1 p2 : Nat) : d.DieKeeps (e.record code cls inst p0 p1 p2) :=
  h.trans (.of_mask (F := 32) (by decide) (Dev.record_mask (by decide) ..))

/-- A change of a stack that is not of its cells. -/
theorem onStack (h : d.DieKeeps e) (s : Nat) (f : Stack → Stack) (hf : ∀ x, (f x).cells = x.cells := by intros; rfl) :
    d.DieKeeps (e.onStack s f) := by
  refine h.trans ⟨rfl, Prod.ext (funext fun g => ?_) rfl⟩
  by_cases hg : g = s
  · subst hg
    exact (congrArg Stack.cells (SMap.get_put_same ..)).trans (hf _)
  · exact congrArg Stack.cells (SMap.get_put_ne _ _ hg _ _)

/-- An error of a page. -/
theorem pgErr (h : d.DieKeeps e) (cls inst bs code p0 p1 p2 : Nat) : d.DieKeeps (e.pgErr cls inst bs code p0 p1 p2) := by
  have hm := Dev.pgErr_mask (F := 4194352) (by decide) e cls inst bs code p0 p1 p2
  refine h.trans ⟨Dev.dieState_congr (Dev.deckle_of_mask (by decide) hm) (fun c i => ?_)
    (fun f i _ => Dev.fget_of_mask (by decide) hm f i),
    Dev.held_congr (Dev.stks_of_mask (by decide) hm) (Dev.wout_of_mask (by decide) hm)⟩
  by_cases hk : c * 256 + i = cls * 256 + inst
  · have hu : ∀ x : Dev, x.unit c i = x.unit cls inst := fun x => congrArg (fun k => SMap.get UnitPage.reset k x.units) hk
    rw [hu, hu, Dev.unit_pgErr_same]
    exact (UnitPage.setErr_spec ..).2.1
  · rw [Dev.unit_pgErr_ne _ _ _ _ _ _ hk]

end Dev.DieKeeps

/-! ### What a read does beside answering -/

section
variable (d : Dev)

theorem Dev.rehealth_dies (i : Nat) : d.DieKeeps (d.rehealth i) := by
  unfold Dev.rehealth
  dsimp only
  split
  · exact .refl ..
  · refine .record (.fwrap ?_ dklHmgenGen 0) ..
    exact ⟨rfl, rfl⟩

theorem Dev.checkDegraded_dies : d.DieKeeps d.checkDegraded :=
  .of_mask (F := 33) (by decide) (Dev.checkDegraded_mask (by decide) ..)

theorem Dev.dkEvent_dies (e : DkEvent) : d.DieKeeps (d.dkEvent e) := by
  unfold Dev.dkEvent
  split
  · exact ⟨rfl, rfl⟩
  · exact .refl ..

/-- A stack that has not FAILED becomes DEGRADED or FAILING: it goes on answering. -/
theorem Dev.worsen_dies (s : Nat) {h : Nat} (hh : h < 3) : d.DieKeeps (d.worsen s h) := by
  unfold Dev.worsen
  dsimp only
  refine .ite (fun _ => .refl ..) fun hold => .trans ?_ (Dev.checkDegraded_dies _)
  have hset : d.DieKeeps (d.fset stkStatHealth s h) := by
    refine ⟨?_, rfl⟩
    have hf : ∀ g, ((d.fset stkStatHealth s h).fget stkStatHealth g == 3) = (d.fget stkStatHealth g == 3) := fun g => by
      by_cases hg : g = s
      · subst hg
        have hw : h % 2 ^ stkStatHealth.width = h := Nat.mod_eq_of_lt (Nat.lt_trans hh (by decide))
        rw [Dev.fget_fset_same, hw, beq_eq_false_iff_ne.mpr (by omega), beq_eq_false_iff_ne.mpr (by omega)]
      · rw [Dev.fget_fset_ne _ _ (by unfold Field.key; omega)]
    have ht : ∀ g, (d.fset stkStatHealth s h).fget stkEccctlTcorr g = d.fget stkEccctlTcorr g := fun g =>
      Dev.fget_fset_place _ _ _ _ (by decide)
    have hb : (d.fset stkStatHealth s h).fget stpBankSel 0 = d.fget stpBankSel 0 := Dev.fget_fset_place _ _ _ _ (by decide)
    unfold Dev.dieState
    simp only [hf, ht, hb]
    rfl
  have hre := hset.trans (Dev.rehealth_dies (d.fset stkStatHealth s h) (0x100 + s))
  have hrec : d.DieKeeps (if ((d.fset stkStatHealth s h).rehealth (0x100 + s)).health (0x100 + s)
        = (d.fset stkStatHealth s h).health (0x100 + s)
      then ((d.fset stkStatHealth s h).rehealth (0x100 + s)).record 0x5001 pSTK s (0x100 + s) h (d.fget stkStatHealth s)
      else (d.fset stkStatHealth s h).rehealth (0x100 + s)) := .ite (fun _ => hre.record ..) fun _ => hre
  exact .ite (fun _ => hrec.trans (Dev.dkEvent_dies ..)) fun _ => hrec

theorem Dev.lowerBin_dies (s row : Nat) : d.DieKeeps (d.lowerBin s row) := by
  unfold Dev.lowerBin
  dsimp only
  refine .ite (fun _ => .refl ..) fun _ => ?_
  have hb : d.DieKeeps (if SMap.get 3 row (d.stack s).bins = 1
      then (d.onStack s fun x => { x with bins := SMap.put 3 row (SMap.get 3 row (d.stack s).bins - 1) x.bins }).fcount
        stkRefbinB0rows s 1
      else d.onStack s fun x => { x with bins := SMap.put 3 row (SMap.get 3 row (d.stack s).bins - 1) x.bins }) :=
    .ite (fun _ => .fcount (.onStack (.refl ..) ..) ..) fun _ => .onStack (.refl ..) ..
  split
  · exact hb.trans ⟨rfl, rfl⟩
  · exact hb

theorem Dev.requestScrub_dies (s line : Nat) : d.DieKeeps (d.requestScrub s line) := by
  unfold Dev.requestScrub
  dsimp only
  exact .ite (fun _ => .refl ..) fun _ => .ite (fun _ => .fcount (.refl ..) ..) fun _ =>
    .onStack (.refl ..) s fun x => { x with demand := x.demand ++ [line] }

theorem Dev.correctedRead_dies (a symbols row : Nat) (retention scrub : Bool) :
    d.DieKeeps (d.correctedRead a symbols row retention scrub) := by
  unfold Dev.correctedRead
  dsimp only
  have h1 : d.DieKeeps
      (((d.fcount stkCecntCount (stackOf a) 1).pgErr pSTK (stackOf a) bCE 0x1002 (lineOf a) symbols 0).activateRow (stackOf a) row) :=
    .onStack (.pgErr (.fcount (.refl ..) ..) ..) ..
  have h2 := DieKeeps.ite (c := retention = true) (fun _ => h1.trans (Dev.lowerBin_dies _ (stackOf a) row)) fun _ => h1
  generalize (ite (retention = true) _ _ : Dev) = e at h2 ⊢
  have h3 : ∀ f : Stack → Stack, (∀ x, (f x).cells = x.cells) → d.DieKeeps (if scrub = true then
      (e.onStack (stackOf a) f).requestScrub (stackOf a) (lineOf a) else e.onStack (stackOf a) f) := fun f hf =>
    .ite (fun _ => (h2.onStack (stackOf a) f hf).trans (Dev.requestScrub_dies ..)) fun _ => h2.onStack (stackOf a) f hf
  refine .ite (fun _ => (h3 _ ?_).trans (Dev.worsen_dies _ _ (by decide))) fun _ => h3 _ ?_
  all_goals
    intro x
    split <;> (try unfold Stack.due) <;> (try split) <;> rfl

theorem Dev.uncorrectableRead_dies (a row : Nat) : d.DieKeeps (d.uncorrectableRead a row) := by
  unfold Dev.uncorrectableRead
  dsimp only
  have h1 : d.DieKeeps (((d.setLine (a / 64) true).stackPoison a 0).fcount stkUecntCount (stackOf a) 1) :=
    .fcount (.pgErr (.of_mask (F := 2048) (by decide) (Dev.setLine_mask (by decide) ..)) ..) ..
  generalize ((d.setLine (a / 64) true).stackPoison a 0).fcount stkUecntCount (stackOf a) 1 = e at h1 ⊢
  have h2 := DieKeeps.ite (c := e.fbit stkUeaddrHiValid (stackOf a) = true) (fun _ => h1) fun _ =>
    ((h1.fset stkUeaddrLoOffLo (stackOf a) (bits (lineOf a * 64) 6 26)).fset stkUeaddrHiOffHi (stackOf a)
      (bits (lineOf a * 64) 32 4)).fset stkUeaddrHiValid (stackOf a) 1
  generalize (ite (e.fbit stkUeaddrHiValid (stackOf a) = true) _ _ : Dev) = f at h2 ⊢
  have hc : ∀ x : Stack, ((if x.hourRows.contains row then x else { x with hourRows := x.hourRows ++ [row] }).due row).cells
      = x.cells := by
    intro x
    unfold Stack.due
    split <;> split <;> rfl
  exact .ite (fun _ => (h2.onStack _ _ hc).trans (Dev.worsen_dies _ _ (by decide))) fun _ => h2.onStack _ _ hc

theorem Dev.noteRead_dies (a : Nat) (scrub : Bool) : d.DieKeeps (d.noteRead a scrub).1 := by
  unfold Dev.noteRead
  cases d.cellsAt a with
  | none => exact .refl d
  | some x =>
    dsimp only
    cases d.decodeCells (stackOf a) x with
    | clean => exact .refl d
    | corrected n change =>
      dsimp only
      split
      · exact .refl d
      · exact d.correctedRead_dies a n x.row x.retention scrub
    | detected =>
      dsimp only
      exact d.uncorrectableRead_dies a x.row

theorem Dev.noteBytes_dies (a n : Nat) : d.DieKeeps (d.noteBytes a n) := by
  unfold Dev.noteBytes
  exact .foldl (fun e _ => .ite (fun _ => Dev.noteRead_dies e ..) fun _ => .refl ..) _ (.refl ..)

theorem Dev.noteRegion_dies (name o n : Nat) : d.DieKeeps (d.noteRegion name o n) := by
  unfold Dev.noteRegion
  exact .ite (fun _ => .foldl (fun e _ => Dev.noteBytes_dies e ..) _ (.refl ..)) fun _ => .refl ..

theorem Dev.noteBytes_keeps (a n : Nat) : d.KeepsBut memClasses (d.noteBytes a n) := by
  unfold Dev.noteBytes
  exact .foldl (fun e _ => .ite (fun _ => Dev.noteRead_keeps e ..) fun _ => .refl ..) _ (.refl ..)

/-- Reading a region changes no field but those of the stacks, of DOC and of Deckle's health map. -/
theorem Dev.noteRegion_keeps (name o n : Nat) : d.KeepsBut memClasses (d.noteRegion name o n) := by
  unfold Dev.noteRegion
  exact .ite (fun _ => .foldl (fun e _ => Dev.noteBytes_keeps e ..) _ (.refl ..)) fun _ => .refl ..

theorem Dev.markWrite_dies (a : Nat) (whole poison : Bool) (found : Nat) : d.DieKeeps (d.markWrite a whole poison found) := by
  have hs : ∀ b, d.DieKeeps (d.setLine (a / 64) b) := fun b => .of_mask (F := 2048) (by decide) (Dev.setLine_mask (by decide) ..)
  unfold Dev.markWrite
  exact .ite (fun _ => .pgErr (hs _) ..) fun _ => .ite (fun _ => hs _) fun _ => .ite (fun _ => .pgErr (.refl ..) ..) fun _ => .refl ..

end

/-! ### What a write stores -/

section
variable {d d' : Dev} (h : d.DieKeeps d')
include h

theorem Dev.DieKeeps.cells (s : Nat) : (d'.stack s).cells = (d.stack s).cells := congrFun (congrArg Prod.fst h.held) s

theorem Dev.DieKeeps.wout : d'.wout = d.wout := congrArg Prod.snd h.held

theorem Dev.DieKeeps.cellsAt (a : Nat) : d'.cellsAt a = d.cellsAt a := by
  unfold Dev.cellsAt
  rw [h.cells]

theorem Dev.DieKeeps.decode (s : Nat) (x : LineCells) : d'.decodeCells s x = d.decodeCells s x := by
  have ht : d'.fget stkEccctlTcorr s = d.fget stkEccctlTcorr s := congrFun (congrArg DieState.tcorr h.state) s
  unfold Dev.decodeCells
  rw [ht]

theorem Dev.DieKeeps.seenLine (m : Mem) (a : Nat) : d'.seenLine m a = d.seenLine m a := by
  unfold Dev.seenLine
  rw [h.cellsAt]
  split
  · unfold Dev.bytesAt Dev.byteAt
    rw [h.wout]
  · rw [h.decode]

theorem Dev.DieKeeps.seenBytes (m : Mem) (a n : Nat) : d'.seenBytes m a n = d.seenBytes m a n := by
  unfold Dev.seenBytes
  rw [h.cells]
  simp only [h.seenLine]
  unfold Dev.bytesAt Dev.byteAt
  rw [h.wout]

theorem Dev.DieKeeps.cellsGone (a : Nat) : (d.cellsGone a).DieKeeps (d'.cellsGone a) := by
  unfold Dev.cellsGone
  rw [h.cellsAt]
  split
  · refine ⟨h.state, Prod.ext (funext fun g => ?_) h.wout⟩
    by_cases hg : g = stackOf a
    · subst hg
      refine (congrArg Stack.cells (SMap.get_put_same ..)).trans ((congrArg Stack.cells (SMap.get_put_same ..)).trans ?_).symm
      exact congrArg (SMap.remove (lineOf a)) (h.cells _).symm
    · refine (congrArg Stack.cells (SMap.get_put_ne _ _ hg _ _)).trans
        ((congrArg Stack.cells (SMap.get_put_ne _ _ hg _ _)).trans (h.cells g).symm).symm
  · exact h

theorem Dev.DieKeeps.pokeBytes (a : Nat) (bs : List Nat) : (d.pokeBytes a bs).DieKeeps (d'.pokeBytes a bs) := by
  refine ⟨h.state, Prod.ext (show d'.held.1 = d.held.1 from congrArg Prod.fst h.held) ?_⟩
  exact congrArg (fun w => bs.zipIdx.foldl (fun w (b, i) => SMap.insert (a + i) (BitVec.ofNat 8 b) w) w) h.wout

theorem Dev.DieKeeps.symm : d'.DieKeeps d := ⟨h.state.symm, h.held.symm⟩

theorem Dev.DieKeeps.both {e e' : Dev} (hd : d.DieKeeps e) (hd' : d'.DieKeeps e') : e.DieKeeps e' :=
  hd.symm.trans (h.trans hd')

theorem Dev.DieKeeps.dieModify (a : Nat) (scrub : Bool) : (d.dieModify a scrub).1.DieKeeps (d'.dieModify a scrub).1 := by
  unfold Dev.dieModify
  rw [h.cellsAt]
  split
  · exact h
  · dsimp only
    rw [h.decode]
    exact ((h.both (d.noteRead_dies a scrub) (d'.noteRead_dies a scrub)).pokeBytes ..).cellsGone _

theorem Dev.DieKeeps.openLine (a : Nat) (whole : Bool) : (d.openLine a whole).1.DieKeeps (d'.openLine a whole).1 := by
  unfold Dev.openLine
  split
  · exact h.cellsGone _
  · exact h.dieModify ..

theorem Dev.DieKeeps.writeLine (a : Nat) (bs : List Nat) (poison : Bool) :
    (d.writeLine a bs poison).DieKeeps (d'.writeLine a bs poison) := by
  unfold Dev.writeLine
  exact ((h.openLine ..).both (Dev.markWrite_dies ..) (Dev.markWrite_dies ..)).pokeBytes ..

theorem Dev.DieKeeps.writeBytes (a : Nat) (bs : List Nat) (poison : Bool) :
    (d.writeBytes a bs poison).DieKeeps (d'.writeBytes a bs poison) := by
  unfold Dev.writeBytes
  generalize lineSpans (bs.length / 64 + 2) a bs.length = l
  induction l generalizing d d' with
  | nil => exact h
  | cons x l ih => exact ih (h.writeLine ..)

theorem Dev.DieKeeps.tables : ({ d'.deckle with health := [], events := [] } : Deckle)
    = { d.deckle with health := [], events := [] } := congrArg DieState.deckle h.state

theorem Dev.DieKeeps.entry (g : Nat) : d'.entry g = d.entry g :=
  (congrArg (fun k : Deckle => SMap.get Region.none g k.regions) h.tables).trans rfl

theorem Dev.DieKeeps.mirrorOf (g o : Nat) : d'.mirrorOf g o = d.mirrorOf g o := by
  have hm : d'.deckle.migration = d.deckle.migration :=
    (congrArg Deckle.migration h.tables).trans rfl
  unfold Dev.mirrorOf
  rw [hm]

theorem Dev.DieKeeps.placement : d'.deckle.placement = d.deckle.placement :=
  (congrArg Deckle.placement h.tables).trans rfl

theorem Dev.DieKeeps.active (c i : Nat) : d'.active c i = d.active c i := by
  have hu : (d'.unit c i).state = (d.unit c i).state := congrFun (congrFun (congrArg DieState.state h.state) c) i
  unfold Dev.active
  rw [hu]

theorem Dev.DieKeeps.stackUp (s : Nat) : d'.stackUp s = d.stackUp s := by
  have hf : (d'.fget stkStatHealth s == 3) = (d.fget stkStatHealth s == 3) := congrFun (congrArg DieState.failed h.state) s
  unfold Dev.stackUp bne
  rw [hf, h.active]

theorem Dev.DieKeeps.resolve (g : Nat) : d'.resolve g = d.resolve g := by
  have hb : d'.fget stpBankSel 0 = d.fget stpBankSel 0 := congrArg DieState.bank h.state
  unfold Dev.resolve Dev.banked Dev.fbit
  rw [hb, h.placement]

theorem Dev.DieKeeps.reaches (g o n : Nat) : d'.reaches g o n = d.reaches g o n := by
  unfold Dev.reaches Dev.checkEntry
  simp only [h.entry, h.stackUp]

/-- The bytes that a read of a region returns. -/
theorem Dev.DieKeeps.readRegion (m : Mem) (g o n : Nat) :
    (d'.readRegion m g o n).map Prod.fst = (d.readRegion m g o n).map Prod.fst := by
  unfold Dev.readRegion
  dsimp only
  rw [h.resolve, h.reaches]
  split
  · simp only [Option.map_some, h.entry, h.seenBytes]
  · rfl

theorem Dev.DieKeeps.writeUnit (g o : Nat) (bs : List Nat) (poison : Bool) :
    (d.writeUnit g o bs poison).DieKeeps (d'.writeUnit g o bs poison) := by
  unfold Dev.writeUnit
  dsimp only
  rw [h.mirrorOf, h.entry]
  split
  · exact (h.writeBytes ..).writeBytes ..
  · exact h.writeBytes ..

/-- A write of a region: refused of both devices, or performed on both, which then again hold the same. -/
theorem Dev.DieKeeps.writeRegion (g o : Nat) (bs : List Nat) (poison : Bool) :
    (d.writeRegion g o bs poison = none ∧ d'.writeRegion g o bs poison = none)
    ∨ ∃ e e', d.writeRegion g o bs poison = some e ∧ d'.writeRegion g o bs poison = some e' ∧ e.DieKeeps e' := by
  unfold Dev.writeRegion Dev.writeEntry
  rw [h.resolve, h.reaches]
  split
  · refine .inr ⟨_, _, rfl, rfl, ?_⟩
    generalize unitSpans (bs.length / 4096 + 2) o bs.length = l
    generalize hg : d.resolve g = k
    clear * - h
    induction l generalizing d d' with
    | nil => exact h
    | cons x l ih => exact ih (h.writeUnit ..)
  · exact .inl ⟨rfl, rfl⟩

end

/-! ### What a write keeps -/

section
variable (d : Dev)

theorem Dev.cellsGone_state (a : Nat) : (d.cellsGone a).dieState = d.dieState := by
  unfold Dev.cellsGone
  split <;> rfl

theorem Dev.dieModify_state (a : Nat) (scrub : Bool) : (d.dieModify a scrub).1.dieState = d.dieState := by
  unfold Dev.dieModify
  split
  · rfl
  · exact (Dev.cellsGone_state ..).trans (Dev.noteRead_dies d a scrub).state

theorem Dev.openLine_state (a : Nat) (whole : Bool) : (d.openLine a whole).1.dieState = d.dieState := by
  unfold Dev.openLine
  split
  · exact Dev.cellsGone_state ..
  · exact Dev.dieModify_state ..

theorem Dev.writeLine_state (a : Nat) (bs : List Nat) (poison : Bool) : (d.writeLine a bs poison).dieState = d.dieState := by
  unfold Dev.writeLine
  exact (Dev.markWrite_dies ..).state.trans (Dev.openLine_state ..)

theorem Dev.writeBytes_state (a : Nat) (bs : List Nat) (poison : Bool) : (d.writeBytes a bs poison).dieState = d.dieState :=
  Dev.foldl_keep (fun e : Dev => e.dieState = d.dieState) _ (fun e _ he => (Dev.writeLine_state e ..).trans he) _ _ rfl

theorem Dev.writeUnit_state (h o : Nat) (bs : List Nat) (poison : Bool) : (d.writeUnit h o bs poison).dieState = d.dieState := by
  unfold Dev.writeUnit
  dsimp only
  split
  · exact (Dev.writeBytes_state ..).trans (Dev.writeBytes_state ..)
  · exact Dev.writeBytes_state ..

variable {d} in
/-- A write of a region leaves what decides about the next one. -/
theorem Dev.writeRegion_state {e : Dev} {h o : Nat} {bs : List Nat} {poison : Bool} (he : d.writeRegion h o bs poison = some e) :
    e.dieState = d.dieState := by
  unfold Dev.writeRegion Dev.writeEntry at he
  split at he
  · cases he
    exact Dev.foldl_keep (fun e : Dev => e.dieState = d.dieState) _ (fun e _ he => (Dev.writeUnit_state e ..).trans he) _ _ rfl
  · exact absurd he (by simp)

end

end Sys2Proof.Machine
end


section
/-! PROOFS. Loads of solver images (R187, R188). -/

namespace Sys2Proof.Machine

/-! ### A load begins -/

section
variable {d : Dev} {q e sl : Nat} {c : HostCmd} {rest : List HostCmd}

theorem Dev.slvLoad_waits (h : d.Front q 6 c rest) (he : d.engineOf (c.f 8 1) = some (e, sl))
    (hl : (d.solver e).loading ≠ none) : d.slvLoad q = d := by
  unfold Dev.slvLoad
  rw [h.1]
  simp only [he, Option.any_some, Option.isSome_iff_ne_none.mpr hl, if_true]

/-- The command begins, where no load of its engine is in progress. -/
theorem Dev.slvLoad_begins (h : d.Front q 6 c rest)
    (hl : ∀ e sl, d.engineOf (c.f 8 1) = some (e, sl) → (d.solver e).loading = none) :
    d.slvLoad q = match d.engineOf (c.f 8 1) with
      | none => (d.begun q c rest).complete c 3 0 0
      | some (e, sl) =>
        if !d.active pSLV e then ((d.begun q c rest).loadStat e sl 8).complete c 5 8 0
        else (d.begun q c rest).setSolver e
          (({ d.solver e with loading := some c } : Solver).setSlot sl (.loading ((d.solver e).slot sl).struct)) := by
  have hb : (d.engineOf (c.f 8 1)).any (fun x => (d.solver x.1).loading.isSome) = false := by
    cases he : d.engineOf (c.f 8 1) with
    | none => rfl
    | some x => rw [Option.any_some, hl x.1 x.2 he]; rfl
  unfold Dev.slvLoad
  rw [h.1]
  dsimp only
  rw [hb, if_neg (by decide), Dev.startCmd_front h]
  rfl

end

/-! ### A load ends -/

theorem Dev.fget_loadStat (d : Dev) (e sl st : Nat) : (d.loadStat e sl st).fget slvLoadstatStatus e = st % 2 ^ slvLoadstatStatus.width
    ∧ (d.loadStat e sl st).fget slvLoadstatSlot e = sl % 4 := by
  refine ⟨?_, Dev.fget_fset_same ..⟩
  unfold Dev.loadStat
  rw [Dev.fget_fset_place _ _ _ _ (by decide), Dev.fget_fset_same]

theorem Dev.loadStat_keeps (d : Dev) (e sl st : Nat) : d.KeepsBut [pSLV] (d.loadStat e sl st) := .fset (.fset (.refl ..) ..) ..

theorem Solver.slot_setSlot_same (x : Solver) (k : Nat) (v : SlotState) : (x.setSlot k v).slot k = v := SMap.get_put_same ..

theorem Solver.slot_setSlot_ne (x : Solver) {k j : Nat} (v : SlotState) (h : j ≠ k) : (x.setSlot k v).slot j = x.slot j :=
  SMap.get_put_ne _ _ h _ _

/-- What a slot that was loading holds where the load fails. -/
def heldSlot (old : Option Struct) : SlotState := match old with
  | some y => .resident y
  | none => .empty

section
variable {d : Dev} {m : Mem} {e sl h o : Nat} {old : Option Struct}

/-- Bytes of the engine's other resident images. -/
def Solver.otherBytes (x : Solver) (sl : Nat) : Nat :=
  (x.slots.filter (fun y => y.1 != sl)).foldl (fun n y => n + ((y.2.struct.map (fun z => z.size)).getD 0)) 0

theorem Dev.loadImage_refused (ho : (d.solver e).slot sl = .loading old) (h1 : d.readRegion m h o 256 = none) :
    d.loadImage m e sl h o = (d.setSolver e ((d.solver e).setSlot sl (heldSlot old)), none) := by
  unfold Dev.loadImage
  dsimp only
  rw [h1, ho]
  cases old <;> rfl

theorem Dev.loadImage_short {head : List Nat} {pz : Bool} (ho : (d.solver e).slot sl = .loading old)
    (h1 : d.readRegion m h o 256 = some (head, pz))
    (h2 : d.readRegion m h o (max 256 (ofLE ((head.drop 0x24).take 4))) = none) :
    d.loadImage m e sl h o = ((d.noteRegion h o 256).setSolver e ((d.solver e).setSlot sl (heldSlot old)), none) := by
  unfold Dev.loadImage
  dsimp only
  rw [h1]
  dsimp only
  rw [h2, ho]
  cases old <;> rfl

theorem Dev.loadImage_checked {head bytes : List Nat} {pz poison : Bool} (ho : (d.solver e).slot sl = .loading old)
    (h1 : d.readRegion m h o 256 = some (head, pz))
    (h2 : d.readRegion m h o (max 256 (ofLE ((head.drop 0x24).take 4))) = some (bytes, poison)) :
    let size := ofLE ((head.drop 0x24).take 4)
    let image := if size < 256 then bytes else bytes.take size
    let st := imageStatus image poison ((d.solver e).slotBusy sl) ((d.solver e).otherBytes sl)
    d.loadImage m e sl h o = (((d.noteRegion h o (max 256 size)).setSolver e ((d.solver e).setSlot sl
      (if st = 0 then .resident (parseImage image (imageHash image)) else heldSlot old))).loadStat e sl st, some st) := by
  unfold Dev.loadImage
  dsimp only
  rw [h1]
  dsimp only
  rw [h2, ho]
  cases old <;> rfl

end

/-- From `d` to `E` engine `e` has ended its load with slot `sl` as `v`, and of the fields only those of the stacks, of
DOC, of Deckle and of the engines have changed. -/
structure Dev.LoadEnds (d E : Dev) (e sl : Nat) (v : SlotState) : Prop where
  solvers : E.solvers = ((d.setSolver e { d.solver e with loading := none }).setSolver e
    (({ d.solver e with loading := none } : Solver).setSlot sl v)).solvers
  hbx : E.hbx = d.hbx
  keeps : d.KeepsBut (pSLV :: memClasses) E

namespace Dev.LoadEnds
variable {d E : Dev} {e sl : Nat} {v : SlotState} (h : d.LoadEnds E e sl v)
include h

/-- The engine after its command has completed. -/
theorem solver (c : HostCmd) (st p0 p1 : Nat) :
    (E.complete c st p0 p1).solver e = ({ d.solver e with loading := none } : Solver).setSlot sl v := by
  have hs : (E.complete c st p0 p1).solvers = _ :=
    (Dev.solvers_of_mask (F := 2097192) (by decide) (Dev.complete_mask (by decide) ..)).trans h.solvers
  exact (congrArg (SMap.get Solver.reset e) hs).trans (Dev.solver_setSolver_same ..)

theorem others (c : HostCmd) (st p0 p1 : Nat) {g : Nat} (hg : g ≠ e) : (E.complete c st p0 p1).solver g = d.solver g := by
  have hs : (E.complete c st p0 p1).solvers = _ :=
    (Dev.solvers_of_mask (F := 2097192) (by decide) (Dev.complete_mask (by decide) ..)).trans h.solvers
  exact (congrArg (SMap.get Solver.reset g) hs).trans
    ((Dev.solver_setSolver_ne _ _ hg).trans (Dev.solver_setSolver_ne _ _ hg))

theorem posts (c : HostCmd) (st p0 p1 : Nat) : d.Posts (E.complete c st p0 p1) c.sq c st p0 p1 :=
  (Dev.complete_posts E c st p0 p1).congr (h.keeps.keeps _ _ (by decide) (by decide))
    (h.keeps.keeps _ _ (by decide) (by decide)) (h.keeps.keeps _ _ (by decide) (by decide)) (congrArg Hbx.cq h.hbx)

end Dev.LoadEnds

/-- Deckle keeps where an image was. -/
def Dev.keepImage (d : Dev) (c : HostCmd) : Dev :=
  match d.deckle.placement with
  | some pl => { d with deckle := { d.deckle with
      placement := some { pl with images := SMap.insert (c.f 8 1) (c.f 10 2, c.f 16 8) pl.images } } }
  | none => d

theorem Dev.keepImage_placement {d : Dev} {pl : Placement} (c : HostCmd) (h : d.deckle.placement = some pl) :
    (d.keepImage c).deckle.placement = some { pl with images := SMap.insert (c.f 8 1) (c.f 10 2, c.f 16 8) pl.images } := by
  unfold Dev.keepImage
  rw [h]

section
variable {d : Dev} {m : Mem} {e sl : Nat} {c : HostCmd} {old : Option Struct}

/-- A load that neither waits for a cycle of another slot nor is absent. -/
theorem Dev.slvLoadComplete_ends (hl : (d.solver e).loading = some c)
    (hr : (d.solver e).run.any (fun r => r.launch.slot != (d.solver e).loadSlot) = false) (hs : (d.solver e).loadSlot = sl) :
    d.slvLoadComplete m e =
      match (d.setSolver e { d.solver e with loading := none }).loadImage m e sl (c.f 10 2) (c.f 16 8) with
      | (E, none) => E.complete c 9 0 0
      | (E, some 0) => (E.keepImage c).complete c 0 0 0
      | (E, some st) => E.complete c 0x0A st 0 := by
  subst hs
  unfold Dev.slvLoadComplete
  dsimp only
  rw [hl]
  dsimp only
  rw [hr, if_neg (by decide)]
  generalize Dev.loadImage _ m e _ _ _ = r
  obtain ⟨E, _ | _ | st⟩ := r <;> rfl

theorem Dev.slvLoadComplete_waits (h : (d.solver e).loading = none
    ∨ (d.solver e).run.any (fun r => r.launch.slot != (d.solver e).loadSlot) = true) : d.slvLoadComplete m e = d := by
  unfold Dev.slvLoadComplete
  dsimp only
  cases hl : (d.solver e).loading with
  | none => rfl
  | some c =>
    dsimp only
    rw [hl] at h
    exact if_pos (h.resolve_left (by simp))

/-- The engine's own read and what it does at the dies belong to what ends the load. -/
theorem Dev.noteRegion_ends (d : Dev) (e sl h o n : Nat) (v : SlotState) :
    d.LoadEnds (((d.setSolver e { d.solver e with loading := none }).noteRegion h o n).setSolver e
      (({ d.solver e with loading := none } : Solver).setSlot sl v)) e sl v := by
  have hm := Dev.noteRegion_mask (F := 12590137) (by decide) (d.setSolver e { d.solver e with loading := none }) h o n
  have hh := Dev.hbx_of_mask (F := 12590137) (by decide) hm
  refine ⟨?_, hh, ⟨fun g j hg hc => ?_⟩⟩
  · exact congrArg (SMap.put Solver.reset e (({ d.solver e with loading := none } : Solver).setSlot sl v))
      (Dev.solvers_of_mask (F := 12590137) (by decide) hm)
  · exact (Dev.noteRegion_keeps (d.setSolver e { d.solver e with loading := none }) h o n).keeps g j hg
      (fun hk => hc (List.mem_cons_of_mem _ hk))

theorem Dev.LoadEnds.loadStat {E : Dev} {v : SlotState} (h : d.LoadEnds E e sl v) (st : Nat) :
    d.LoadEnds (E.loadStat e sl st) e sl v :=
  ⟨h.solvers, h.hbx, h.keeps.trans ⟨fun g j hg hc =>
    (E.loadStat_keeps e sl st).keeps g j hg 
      (fun hk => hc (List.mem_cons.mpr (.inl (List.mem_singleton.mp hk))))⟩⟩

end

/-! ### Settling the obligation -/

/-- What the end of a load leaves, whatever its status. -/
theorem Dev.LoadEnds.kept {s : State} {E t : Dev} {e sl st p0 : Nat} {v : SlotState} {c : HostCmd}
    (h : s.dev.LoadEnds E e sl v) (hd : t = E.complete c st p0 0) :
    (t.solver e).slot sl = v ∧ s.dev.Posts t c.sq c st p0 0
    ∧ (∀ k, k ≠ sl → (t.solver e).slot k = (s.dev.solver e).slot k) ∧ (∀ g, g ≠ e → t.solver g = s.dev.solver g)
    ∧ (t.solver e).loading = none ∧ (t.solver e).run = (s.dev.solver e).run
    ∧ (t.solver e).queue = (s.dev.solver e).queue := by
  rw [hd, h.solver]
  exact ⟨Solver.slot_setSlot_same .., h.posts .., fun k hk => Solver.slot_setSlot_ne _ _ hk,
    fun g hg => h.others _ _ _ _ hg, rfl, rfl, rfl⟩

theorem Dev.LoadEnds.keepImage {d E : Dev} {e sl : Nat} {v : SlotState} (h : d.LoadEnds E e sl v) (c : HostCmd) :
    d.LoadEnds (E.keepImage c) e sl v := by
  obtain ⟨hs, hh, hk⟩ := h
  unfold Dev.keepImage
  split
  · exact ⟨hs, hh, hk.trans (.of_regs rfl)⟩
  · exact ⟨hs, hh, hk⟩

/-- Settles O29: a load begins at once or waits, and its end is one of three outcomes of `Dev.loadImage`. -/
theorem solverLoads : Obligations.SolverLoads := by
  unfold Obligations.SolverLoads
  intro s q e sl c rest hq he hw x
  have hring : ringOk q = true := decide_eq_true hq
  have hslv : slvOk e = true := decide_eq_true he
  refine ⟨fun hf => ⟨fun hnone => ?_, fun hsome hl => ?_, fun hsome hl => ⟨fun hact => ?_, fun hact => ?_⟩⟩, fun hwait => ?_, ?_⟩
  · have hd := Dev.slvLoad_begins hf (by rw [hnone]; intro _ _ h; cases h)
    rw [hnone] at hd
    have hm : ((s.dev.begun q c rest).complete c 3 0 0).mask 2097192 = s.dev.mask 2097192 :=
      (Dev.complete_mask (by decide) ..).trans (Dev.setSq_mask (by decide) ..)
    exact Answers.quiet (f := fun _ d => d.slvLoad q) rfl hring hd ((Dev.wout_of_mask (by decide) hm).trans hw)
      ⟨Dev.completes_of hf rfl (fun _ _ _ => rfl) .., State.onlyParts_of_mask [.regs, .evr, .hbx] hm⟩
  · exact runIf_same (f := fun _ d => d.slvLoad q) hring hw (Dev.slvLoad_waits hf hsome hl)
  · have hd := Dev.slvLoad_begins hf (by rw [hsome]; intro _ _ h; cases h; exact hl)
    rw [hsome] at hd
    dsimp only at hd
    rw [hact] at hd
    refine Answers.quiet (f := fun _ d => d.slvLoad q) rfl hring hd hw ⟨?_, fun g hg => ?_, ?_,
      State.onlyParts_of_mask [.solvers, .hbx] rfl⟩
    · exact Dev.solver_setSolver_same ..
    · exact Dev.solver_setSolver_ne _ _ hg
    · exact Dev.sq_setSq_same ..
  · have hd := Dev.slvLoad_begins hf (by rw [hsome]; intro _ _ h; cases h; exact hl)
    rw [hsome] at hd
    dsimp only at hd
    rw [hact] at hd
    have hm : (((s.dev.begun q c rest).loadStat e sl 8).complete c 5 8 0).mask 2097192 = s.dev.mask 2097192 :=
      (Dev.complete_mask (by decide) ..).trans ((Dev.loadStat_mask (by decide) ..).trans (Dev.setSq_mask (by decide) ..))
    have hstat := (s.dev.begun q c rest).fget_loadStat e sl 8
    have hk := ((s.dev.begun q c rest).loadStat e sl 8).complete_keeps c 5 8 0
    refine Answers.quiet (f := fun _ d => d.slvLoad q) rfl hring hd ((Dev.wout_of_mask (by decide) hm).trans hw) ⟨?_, ?_, ?_,
      State.onlyParts_of_mask [.regs, .evr, .hbx] hm⟩
    · exact (hk.keeps _ _ (by decide) (by decide)).trans hstat.1
    · exact (hk.keeps _ _ (by decide) (by decide)).trans hstat.2
    · refine Dev.completes_of_fields (e := (s.dev.begun q c rest).loadStat e sl 8) hf rfl (fun g hg j => ?_) ..
      simp only [List.mem_cons, List.not_mem_nil, or_false] at hg
      rcases hg with rfl | rfl | rfl <;>
        exact ((s.dev.begun q c rest).loadStat_keeps e sl 8).keeps _ j (by decide) (by decide)
  · exact runIf_same (f := fun m d => d.slvLoadComplete m e) hslv hw (Dev.slvLoadComplete_waits hwait)
  · intro old hcq hl hr hs hold held kept
    subst hcq
    have hends := Dev.slvLoadComplete_ends (m := s.mem) hl hr hs
    have hheld : heldSlot old = held := by cases old <;> rfl
    obtain ⟨d₁, hd₁⟩ : ∃ d₁, d₁ = s.dev.setSolver e { x with loading := none } := ⟨_, rfl⟩
    have hx : d₁.solver e = { x with loading := none } := by rw [hd₁]; exact Dev.solver_setSolver_same ..
    have hslot : (d₁.solver e).slot sl = .loading old := by rw [hx]; exact hold
    have hread : ∀ n, d₁.readRegion s.mem (c.f 10 2) (c.f 16 8) n = s.dev.readRegion s.mem (c.f 10 2) (c.f 16 8) n :=
      fun n => by rw [hd₁]; rfl
    have hends' : s.dev.slvLoadComplete s.mem e = match d₁.loadImage s.mem e sl (c.f 10 2) (c.f 16 8) with
        | (E, none) => E.complete c 9 0 0
        | (E, some 0) => (E.keepImage c).complete c 0 0 0
        | (E, some st) => E.complete c 0x0A st 0 := by rw [hends, ← hd₁]
    have hparts : s.OnlyParts { s with dev := s.dev.slvLoadComplete s.mem e }
        [.phase, .regs, .units, .evr, .stks, .linePoison, .deckle, .solvers, .hbx, .pci, .sec] :=
      State.onlyParts_of_mask [.phase, .regs, .units, .evr, .stks, .linePoison, .deckle, .solvers, .hbx, .pci, .sec]
        (Dev.slvLoadComplete_mask (by decide) ..)
    have hout : (s.dev.slvLoadComplete s.mem e).wout = [] :=
      (Dev.wout_of_mask (F := 14695481) (by decide) (Dev.slvLoadComplete_mask (by decide) ..)).trans hw
    have hans : ∀ P : State → Prop, P { s with dev := s.dev.slvLoadComplete s.mem e } → Answers (.slvLoadComplete e) s P :=
      fun P hP => Answers.quiet (f := fun m d => d.slvLoadComplete m e) rfl hslv rfl hout hP
    refine ⟨fun h1 => hans _ ?_, fun head pz h1 => ⟨fun h2 => hans _ ?_, fun bytes poison h2 => ?_⟩⟩
    · rw [Dev.loadImage_refused hslot ((hread _).trans h1)] at hends'
      have hload : s.dev.LoadEnds (d₁.setSolver e ((d₁.solver e).setSlot sl (heldSlot old))) e sl held := by
        rw [hx, hd₁, hheld]
        exact ⟨rfl, rfl, .of_regs rfl⟩
      obtain ⟨h1, h2, h3, h4, h5, h6, h7⟩ := hload.kept hends'
      exact ⟨h1, h2, h3, h4, h5, h6, h7, hparts⟩
    · rw [Dev.loadImage_short hslot ((hread _).trans h1) ((hread _).trans h2)] at hends'
      have hload : s.dev.LoadEnds ((d₁.noteRegion (c.f 10 2) (c.f 16 8) 256).setSolver e
          ((d₁.solver e).setSlot sl (heldSlot old))) e sl held := by
        rw [hx, hd₁, hheld]
        exact Dev.noteRegion_ends ..
      obtain ⟨h1, h2, h3, h4, h5, h6, h7⟩ := hload.kept hends'
      exact ⟨h1, h2, h3, h4, h5, h6, h7, hparts⟩
    · intro image others st
      refine hans _ ?_
      have himg := Dev.loadImage_checked hslot ((hread _).trans h1) ((hread _).trans h2)
      rw [hx, hheld] at himg
      have hload : s.dev.LoadEnds (((d₁.noteRegion (c.f 10 2) (c.f 16 8) (max 256 (ofLE ((head.drop 0x24).take 4)))).setSolver e
          (({ x with loading := none } : Solver).setSlot sl
            (if st = 0 then .resident (parseImage image (imageHash image)) else held))).loadStat e sl st) e sl
            (if st = 0 then .resident (parseImage image (imageHash image)) else held) := by
        rw [hd₁]
        exact (Dev.noteRegion_ends ..).loadStat st
      generalize hE : Dev.loadStat (Dev.setSolver _ _ _) e sl st = E at hload
      have hstat : E.fget slvLoadstatStatus e = st % 2 ^ slvLoadstatStatus.width ∧ E.fget slvLoadstatSlot e = sl % 4 := by
        rw [← hE]; exact Dev.fget_loadStat ..
      have hplace : E.deckle.placement = s.dev.deckle.placement := by
        rw [← hE]
        exact (Dev.noteRegion_dies d₁ ..).placement.trans (by rw [hd₁]; rfl)
      have hfields : ∀ (F : Dev) st' p0, F.fget slvLoadstatStatus e = E.fget slvLoadstatStatus e →
          F.fget slvLoadstatSlot e = E.fget slvLoadstatSlot e →
          (F.complete c st' p0 0).fget slvLoadstatStatus e = st % 2 ^ slvLoadstatStatus.width
          ∧ (F.complete c st' p0 0).fget slvLoadstatSlot e = sl % 4 := fun F st' p0 hF hF' =>
        ⟨((F.complete_keeps c st' p0 0).keeps _ _ (by decide) (by decide)).trans (hF.trans hstat.1),
          ((F.complete_keeps c st' p0 0).keeps _ _ (by decide) (by decide)).trans (hF'.trans hstat.2)⟩
      have hdeckle : ∀ (F : Dev) st' p0, (F.complete c st' p0 0).deckle = F.deckle := fun F st' p0 =>
        Dev.deckle_of_mask (F := 2097192) (by decide) (Dev.complete_mask (by decide) ..)
      have himg' : d₁.loadImage s.mem e sl (c.f 10 2) (c.f 16 8) = (E, some st) := himg.trans (by rw [← hE]; rfl)
      rw [himg'] at hends'
      by_cases hz : st = 0
      · have hend : s.dev.slvLoadComplete s.mem e = (E.keepImage c).complete c 0 st 0 := by
          rw [hz] at hends' ⊢; exact hends'
        obtain ⟨h1, h2, h3, h4, h5, h6, h7⟩ := (hload.keepImage c).kept hend
        have hregs : ∀ (g : Field), (E.keepImage c).fget g e = E.fget g e := fun g =>
          Dev.fget_congr (by unfold Dev.keepImage; split <;> rfl) g e
        obtain ⟨f1, f2⟩ := hfields (E.keepImage c) 0 st (hregs _) (hregs _)
        dsimp only
        rw [hend] at h1 h2 h3 h4 h5 h6 h7 hparts ⊢
        refine ⟨h1, f1, f2, fun pl hpl => ?_, ?_, h3, h4, h5, h6, h7, hparts⟩
        · rw [hdeckle, Dev.keepImage_placement c (hplace.trans hpl), if_pos hz]
        · rw [if_pos hz]; exact h2
      · have hend : s.dev.slvLoadComplete s.mem e = E.complete c 0x0A st 0 := by
          obtain ⟨n, hn⟩ := Nat.exists_eq_succ_of_ne_zero hz
          rw [hn] at hends' ⊢; exact hends'
        obtain ⟨h1, h2, h3, h4, h5, h6, h7⟩ := hload.kept hend
        obtain ⟨f1, f2⟩ := hfields E 0x0A st rfl rfl
        dsimp only
        rw [hend] at h1 h2 h3 h4 h5 h6 h7 hparts ⊢
        refine ⟨h1, f1, f2, fun pl hpl => ?_, ?_, h3, h4, h5, h6, h7, hparts⟩
        · rw [hdeckle, hplace, hpl, if_neg hz]
        · rw [if_neg hz]; exact h2

end Sys2Proof.Machine
end


section
/-! PROOFS. Delta packets (chapter 7): a count that the state holds beyond what its field can show. -/

namespace Sys2Proof.Machine

/-- A launch of slot 0 whose cycles start at tag 0. -/
def plainLaunch : Launch := ⟨[], 0, 0, none, 0⟩

/-- A structure with nothing in it. -/
def bareStruct : Struct := ⟨0, 0, 0, 0, 0, 0, [], [], [], [], []⟩

/-- A seal of slot 0 for tag 0. -/
def bareSeal : Delta := ⟨0, none, 0, 0, 0, false⟩

/-- A device whose engine 0 has taken the seal of its next cycle and holds a second one, and whose field DELTAERR.BADPKT
stands beyond its 16 bits. -/
def State.withWideCount : State := { State.reset with dev := { Dev.reset with
  regs := [(slvDeltaerrBadpkt.key 0, 70000)]
  solvers := [(0, { Solver.reset with
    slots := [(0, .resident bareStruct)], queue := [(plainLaunch, 0)], deltas := [bareSeal], seals := [(0, ⟨0, [], some 0, []⟩)] })] } }

theorem deltaApply_keeps_count : ∃ t, exec (.deltaApply ⟨0, 0⟩) State.withWideCount = .next t
    ∧ t.dev.fget slvDeltaerrBadpkt 0 = 70000 :=
  ⟨_, rfl, by decide +kernel⟩

/-- Refutes O30: the discard of a second seal does not count in BADPKT, and so it leaves a count that stands beyond the
field's largest value where it was, while the statement asks for the sum with 0 that stops at that value. -/
theorem not_deltaPackets : ¬ Obligations.DeltaPackets := by
  intro h
  obtain ⟨-, -, -, happly⟩ := h State.withWideCount 0 0 0 bareSeal plainLaunch bareStruct (by decide) rfl
  obtain ⟨hseal, -⟩ := happly (by decide +kernel) (by decide +kernel) (by decide +kernel)
  obtain ⟨t, ht, ⟨-, -, hbad, -⟩, -⟩ := (hseal rfl).1 (by decide +kernel)
  obtain ⟨u, hu, hcount⟩ := deltaApply_keeps_count
  obtain rfl : t = u := Host.Outcome.next.inj (ht.symm.trans hu)
  exact absurd (hcount.symm.trans hbad) (by decide +kernel)

end Sys2Proof.Machine
end


section
/-! PROOFS. Resets and the link (chapters 14 and 15): the write of RESETCTL in FAILED performs the function reset. -/

namespace Sys2Proof.Machine

/-- A FAILED device whose link is up, with BAR 4 resized to 1 GiB. -/
def State.failedWithSmallBar : State := { State.reset with dev := { Dev.reset.fset pciLinkstatRate 0 6 with
  phase := .failed, pwr := { Dev.reset.pwr with on := true }, pci := { Dev.reset.pci with perst := false, barLog2 := 30 } } }

theorem resetStart_failed_resets_bar : ∃ t, exec (.computeReset .start) State.failedWithSmallBar = .next t
    ∧ t.dev.pci.barLog2 = 41 :=
  ⟨_, rfl, by decide +kernel⟩

/-- Refutes O54: outside READY and READY_DEGRADED the write of RESETCTL is not always without effect; in FAILED it clears
the function, and BAR 4 has its size of reset again. -/
theorem not_resetsAndLink : ¬ Obligations.ResetsAndLink := by
  intro h
  obtain ⟨hreset, -⟩ := h State.failedWithSmallBar rfl
  have hsame := (hreset (by decide +kernel)).2 (by decide +kernel)
  obtain ⟨t, ht, hbar⟩ := resetStart_failed_resets_bar
  obtain rfl : State.failedWithSmallBar = t := Host.Outcome.next.inj (hsame.symm.trans ht)
  exact absurd hbar (by decide +kernel)

end Sys2Proof.Machine
end


section
/-! PROOFS. The outbox: what a command has written, and what of it reaches the stacks' bytes. -/

namespace Sys2Proof.Machine

/-! ### Maps in the order of their keys -/

/-- The keys rise strictly. -/
def SMap.Ordered {α : Type} (m : SMap α) : Prop := m.Pairwise (fun x y => x.1 < y.1)

theorem SMap.Ordered.insert {α : Type} {m : SMap α} (h : m.Ordered) (k : Nat) (v : α) : (SMap.insert k v m).Ordered := by
  induction m with
  | nil => exact List.pairwise_singleton ..
  | cons e m ih =>
    obtain ⟨j, w⟩ := e
    obtain ⟨hlt, hm⟩ := List.pairwise_cons.mp h
    unfold SMap.insert
    split
    next hk =>
      refine List.pairwise_cons.mpr ⟨fun x hx => ?_, h⟩
      rcases List.mem_cons.mp hx with rfl | hx
      · exact hk
      · exact Nat.lt_trans hk (hlt x hx)
    next hk =>
      split
      next hkj => exact List.pairwise_cons.mpr ⟨fun x hx => hkj ▸ hlt x hx, hm⟩
      next hkj =>
        refine List.pairwise_cons.mpr ⟨fun x hx => ?_, ih hm⟩
        rcases SMap.mem_insert hx with rfl | hx
        · show j < k
          omega
        · exact hlt x hx

theorem SMap.find_none_of_lt {α : Type} {m : SMap α} {k : Nat} (h : ∀ x ∈ m, k < x.1) : SMap.find k m = none := by
  induction m with
  | nil => rfl
  | cons e m ih =>
    exact (if_neg (Nat.ne_of_gt (h e (List.mem_cons_self ..)))).trans (ih fun x hx => h x (List.mem_cons_of_mem _ hx))

/-- The bytes of a list whose addresses rise reach the memory, and no other byte changes. -/
theorem Memory.read_writeAll {l : SMap Byte} (h : l.Ordered) (m : Mem) (a : Nat) :
    Memory.read (Memory.writeAll m l) a = (SMap.find a l).getD (Memory.read m a) := by
  induction l generalizing m with
  | nil => rfl
  | cons e l ih =>
    obtain ⟨hlt, hl⟩ := List.pairwise_cons.mp h
    have hstep : Memory.read (Memory.writeAll m (e :: l)) a = (SMap.find a l).getD (Memory.read (Memory.write m e.1 e.2) a) :=
      ih hl _
    rw [hstep]
    by_cases ha : e.1 = a
    · subst ha
      rw [SMap.find_none_of_lt hlt]
      have hf : SMap.find e.1 (e :: l) = some e.2 := if_pos rfl
      rw [hf]
      exact Memory.read_write_same ..
    · rw [Memory.read_write_ne _ _ (Ne.symm ha)]
      have hf : SMap.find a (e :: l) = SMap.find a l := if_neg ha
      rw [hf]

/-! ### The outbox rises -/

/-- The addresses of the bytes that the command has written rise. -/
def Dev.Rising (d : Dev) : Prop := d.wout.Ordered

theorem Dev.Rising.of_nil {d : Dev} (h : d.wout = []) : d.Rising := by
  unfold Dev.Rising
  rw [h]
  exact List.Pairwise.nil

theorem Dev.DieKeeps.rising {d e : Dev} (h : d.DieKeeps e) (hd : d.Rising) : e.Rising := by
  unfold Dev.Rising
  rw [h.wout]
  exact hd

namespace Dev.Rising
variable {d : Dev} (h : d.Rising)
include h

theorem pokeBytes (a : Nat) (bs : List Nat) : (d.pokeBytes a bs).Rising := by
  have hf : ∀ (l : List (Nat × Nat)) (w : SMap Byte), w.Ordered →
      (l.foldl (fun w (b, i) => SMap.insert (a + i) (BitVec.ofNat 8 b) w) w).Ordered := by
    intro l
    induction l with
    | nil => exact fun w hw => hw
    | cons x l ih => exact fun w hw => ih _ (hw.insert ..)
  exact hf _ _ h

theorem cellsGone (a : Nat) : (d.cellsGone a).Rising := by
  unfold Dev.cellsGone
  split
  · exact h
  · exact h

theorem dieModify (a : Nat) (scrub : Bool) : (d.dieModify a scrub).1.Rising := by
  unfold Dev.dieModify
  split
  · exact h
  · exact (((d.noteRead_dies a scrub).rising h).pokeBytes ..).cellsGone _

theorem openLine (a : Nat) (whole : Bool) : (d.openLine a whole).1.Rising := by
  unfold Dev.openLine
  split
  · exact h.cellsGone _
  · exact h.dieModify ..

theorem writeLine (a : Nat) (bs : List Nat) (poison : Bool) : (d.writeLine a bs poison).Rising := by
  unfold Dev.writeLine
  exact ((Dev.markWrite_dies ..).rising (h.openLine ..)).pokeBytes ..

theorem writeBytes (a : Nat) (bs : List Nat) (poison : Bool) : (d.writeBytes a bs poison).Rising :=
  Dev.foldl_keep Dev.Rising _ (fun _ _ he => Rising.writeLine he ..) _ _ h

theorem writeUnit (g o : Nat) (bs : List Nat) (poison : Bool) : (d.writeUnit g o bs poison).Rising := by
  unfold Dev.writeUnit
  dsimp only
  split
  · exact (h.writeBytes ..).writeBytes ..
  · exact h.writeBytes ..

theorem writeRegion {e : Dev} {g o : Nat} {bs : List Nat} {poison : Bool} (he : d.writeRegion g o bs poison = some e) :
    e.Rising := by
  unfold Dev.writeRegion Dev.writeEntry at he
  split at he
  · cases he
    exact Dev.foldl_keep Dev.Rising _ (fun _ _ he => Rising.writeUnit he ..) _ _ h
  · exact absurd he (by simp)

end Dev.Rising

/-! ### What a command stores -/

/-- From `m` to `m'` the bytes of an outbox have been written. -/
def Memory.Stored (w : SMap Byte) (m m' : Mem) : Prop :=
  (∀ a b, SMap.find a w = some b → Memory.read m' a = b) ∧ ∀ a, SMap.find a w = none → Memory.read m' a = Memory.read m a

theorem Memory.Stored.of_ordered {w : SMap Byte} (h : w.Ordered) (m : Mem) : Memory.Stored w m (Memory.writeAll m w) :=
  ⟨fun a b hb => by rw [Memory.read_writeAll h, hb]; rfl, fun a ha => by rw [Memory.read_writeAll h, ha]; rfl⟩

/-- A command that leaves its bytes in the outbox. -/
theorem Answers.stores {ok : Bool} {f : Mem → Dev → Dev} {s : State} {P : State → Prop} {c : Instr}
    (he : exec c s = runIf ok f s) (h : ok = true) (hr : (f s.mem s.dev).Rising)
    (hp : ∀ m', Memory.Stored (f s.mem s.dev).wout s.mem m' →
      P { s with dev := { f s.mem s.dev with wout := [] }, mem := m' }) : Answers c s P :=
  Answers.of_runIf he h (hp _ (Memory.Stored.of_ordered hr _))

end Sys2Proof.Machine
end


section
/-! PROOFS. The event recorder (chapter 16). -/

namespace Sys2Proof.Machine

/-! ### One unflushed record -/

/-- One record waits, the last that has its number. -/
def Evr.oneWaits (e : Evr) (x : Rec) : Prop := e.pendingRecs = [x] ∧ e.next = e.seq

theorem Evr.pendingRecs_flushed {e : Evr} (h : e.next = e.seq + 1) : e.pendingRecs = [] := by
  have hu : e.unflushed = 0 := Nat.sub_eq_zero_of_le (Nat.le_of_eq h.symm)
  unfold Evr.pendingRecs
  rw [hu]
  rfl

/-- One ream of the unflushed records is written out. -/
def Dev.reamOut (d : Dev) (failing : List Nat) (flags lostpf : Nat) (rs : List Rec) : Dev :=
  let last := d.evr.next + rs.length - 1
  let e := d.writeReam failing
    { firstSeq := d.evr.next, nrec := rs.length, lastSeq := d.evr.seq, pwrcyc := d.fget glbPwrcycCount 0
      lostpf := lostpf, flags := flags, recs := rs, good := true }
  ({ e with evr := { e.evr with next := last + 1, flushed := last } } : Dev).fset evrStatRingfull 0 0

theorem Dev.flushReams_succ (d : Dev) (failing : List Nat) (flags lostpf k : Nat) :
    d.flushReams failing flags lostpf (k + 1) = if (d.evr.pendingRecs.take 128).isEmpty then d
      else (d.reamOut failing flags lostpf (d.evr.pendingRecs.take 128)).flushReams failing flags lostpf k := rfl

theorem Dev.reamOut_log (d : Dev) (failing : List Nat) (flags lostpf : Nat) (rs : List Rec) :
    d.WritesLog (d.reamOut failing flags lostpf rs) := by
  unfold Dev.reamOut
  dsimp only
  refine .trans ?_ (.fset _ (.inr rfl) 0)
  generalize Ream.mk _ _ _ _ _ _ _ _ = r
  exact (Dev.writeReam_log d failing r).trans (.of_regs rfl rfl)

/-- A flush changes the NV log alone. -/
theorem Dev.flushReams_log (d : Dev) (failing : List Nat) (flags lostpf k : Nat) :
    d.WritesLog (d.flushReams failing flags lostpf k) := by
  induction k generalizing d with
  | zero => exact .refl d
  | succ k ih =>
    rw [Dev.flushReams_succ]
    split
    · exact .refl d
    · exact (Dev.reamOut_log ..).trans (ih _)

theorem Dev.flushAll_log (d : Dev) (failing : List Nat) (flags : Nat) : d.WritesLog (d.flushAll failing flags) := by
  unfold Dev.flushAll
  split
  · exact Dev.flushReams_log ..
  · exact .refl d

/-- A flush of the one record that waits. -/
theorem Dev.flushAll_one {d : Dev} {x : Rec} (h : d.evr.oneWaits x) (hv : d.fget evrStatNvok 0 = 1) (failing : List Nat)
    (flags : Nat) : (d.flushAll failing flags).evr.next = d.evr.seq + 1 ∧ (d.flushAll failing flags).evr.flushed = d.evr.seq := by
  obtain ⟨hx, hn⟩ := h
  have hbit : d.fbit evrStatNvok 0 = true := beq_iff_eq.mpr hv
  have htake : d.evr.pendingRecs.take 128 = [x] := by rw [hx]; rfl
  have hlast : d.evr.next + [x].length - 1 = d.evr.seq := by rw [hn]; rfl
  have hout : (d.reamOut failing flags 0 [x]).evr.next = d.evr.seq + 1 ∧ (d.reamOut failing flags 0 [x]).evr.flushed = d.evr.seq :=
    ⟨congrArg (· + 1) hlast, hlast⟩
  have hseq : (d.reamOut failing flags 0 [x]).evr.seq = d.evr.seq :=
    (congrArg Evr.seq (Dev.reamOut_log d failing flags 0 [x]).evr).trans rfl
  have hrest : (d.reamOut failing flags 0 [x]).evr.pendingRecs = [] := Evr.pendingRecs_flushed (by rw [hout.1, hseq])
  have hd : d.flushAll failing flags = d.reamOut failing flags 0 [x] := by
    unfold Dev.flushAll
    rw [if_pos hbit, Dev.flushReams_succ, htake, if_neg (show ¬ [x].isEmpty = true from Bool.false_ne_true), Dev.flushReams_succ, hrest]
    rfl
  rw [hd]
  exact hout

/-! ### Admission -/

/-- The record as the ring holds it, under the next number (Table 16-4). -/
def Dev.recordOf (d : Dev) (r : RawRec) (forced : Bool) : Rec :=
  { code := r.code, sev := severity r.code + 8 * b2n forced + 32 * b2n r.pgerr, cls := r.cls, inst := r.inst
    seq := (d.evr.seq + 1) % 2 ^ 48, pwrcyc := d.fget glbPwrcycCount 0, opsec := d.fget glbOpsecSeconds 0
    suppr := min 0xFFFF (SMap.get 0 r.code d.evr.suppressed), p0 := r.p0 % 2 ^ 32, p1 := r.p1 % 2 ^ 32, p2 := r.p2 % 2 ^ 32 }

/-- A record has its number; nothing has been flushed. -/
def Dev.numbered (d : Dev) (r : RawRec) (forced : Bool) : Dev :=
  { d with evr := { d.evr with
    seq := d.evr.seq + 1
    ring := SMap.insert ((d.evr.seq + 1) % 4096) (d.recordOf r forced) d.evr.ring
    suppressed := SMap.put 0 r.code 0 d.evr.suppressed } }.onUnit r.cls r.inst (fun u => { u with seq := d.evr.seq + 1 })

/-- The record has been admitted with the next number: into the ring, and into its page's PG_SEQ. -/
structure Dev.Admits (d t : Dev) (r : RawRec) (forced : Bool) : Prop where
  seq : t.evr.seq = d.evr.seq + 1
  page : (t.unit r.cls r.inst).seq = d.evr.seq + 1
  slot : SMap.find ((d.evr.seq + 1) % 4096) t.evr.ring = some (d.recordOf r forced)
  suppressed : SMap.get 0 r.code t.evr.suppressed = 0

theorem Dev.numbered_admits (d : Dev) (r : RawRec) (forced : Bool) : d.Admits (d.numbered r forced) r forced :=
  ⟨rfl, congrArg UnitPage.seq (Dev.unit_onUnit_same ..), SMap.find_insert_same ..,
    show SMap.get 0 r.code (SMap.put 0 r.code 0 d.evr.suppressed) = 0 from SMap.get_put_same ..⟩

theorem Dev.numbered_mask (d : Dev) (r : RawRec) (forced : Bool) :
    (d.numbered r forced).mask (partsMask [.units, .evr]) = d.mask (partsMask [.units, .evr]) :=
  (Dev.onUnit_mask (by decide) ..).trans (Dev.mask_evr (by decide) ..)

/-- A flush of the log takes no admission back. -/
theorem Dev.Admits.flushed {d t t' : Dev} {r : RawRec} {forced : Bool} (h : d.Admits t r forced) (hl : t.WritesLog t')
    (hu : t'.unit r.cls r.inst = t.unit r.cls r.inst) : d.Admits t' r forced where
  seq := ((congrArg Evr.seq hl.evr).trans rfl).trans h.seq
  page := (congrArg UnitPage.seq hu).trans h.page
  slot := (congrArg (SMap.find _) ((congrArg Evr.ring hl.evr).trans rfl)).trans h.slot
  suppressed := (congrArg (SMap.get 0 r.code) ((congrArg Evr.suppressed hl.evr).trans rfl)).trans h.suppressed

section
variable {d : Dev} {r : RawRec} (failing : List Nat) {forced : Bool}

/-- A record that causes no flush. -/
theorem Dev.number_waits (hw : d.evr.unflushed + 1 < 128) (h3 : codeClass r.code ≠ 3) (h4 : codeClass r.code ≠ 4) :
    d.number failing r forced false = d.numbered r forced := by
  have hu : (d.numbered r forced).evr.unflushed < 128 := by
    show d.evr.seq + 1 + 1 - d.evr.next < 128
    unfold Evr.unflushed at hw
    omega
  have hn : d.number failing r forced false = if codeClass r.code = 3 ∨ codeClass r.code = 4
      then (if (d.numbered r forced).evr.unflushed = ringSize then (d.numbered r forced).fset evrStatRingfull 0 1
        else d.numbered r forced).flushAll failing 4
      else if 128 ≤ (if (d.numbered r forced).evr.unflushed = ringSize then (d.numbered r forced).fset evrStatRingfull 0 1
        else d.numbered r forced).evr.unflushed
      then (if (d.numbered r forced).evr.unflushed = ringSize then (d.numbered r forced).fset evrStatRingfull 0 1
        else d.numbered r forced).flushAll failing 1
      else if (d.numbered r forced).evr.unflushed = ringSize then (d.numbered r forced).fset evrStatRingfull 0 1
        else d.numbered r forced := rfl
  have hr : (d.numbered r forced).evr.unflushed ≠ ringSize := Nat.ne_of_lt (Nat.lt_trans hu (by decide))
  rw [hn, if_neg (not_or.mpr ⟨h3, h4⟩), if_neg hr, if_neg (Nat.not_le_of_lt hu)]

/-- A record of a UCC or a UCF with nothing before it unflushed. -/
theorem Dev.number_fault (hn : d.evr.next = d.evr.seq + 1) (h : codeClass r.code = 3 ∨ codeClass r.code = 4) :
    d.number failing r forced false = (d.numbered r forced).flushAll failing 4
    ∧ (d.numbered r forced).evr.oneWaits (d.recordOf r forced) := by
  have hu : (d.numbered r forced).evr.unflushed = 1 := by
    show d.evr.seq + 1 + 1 - d.evr.next = 1
    omega
  constructor
  · have hd : d.number failing r forced false = if codeClass r.code = 3 ∨ codeClass r.code = 4
        then (if (d.numbered r forced).evr.unflushed = ringSize then (d.numbered r forced).fset evrStatRingfull 0 1
          else d.numbered r forced).flushAll failing 4
        else _ := rfl
    rw [hd, if_pos h, if_neg (by rw [hu]; decide)]
  · refine ⟨?_, hn⟩
    unfold Evr.pendingRecs
    rw [hu]
    have hnext : (d.numbered r forced).evr.next = d.evr.seq + 1 := hn
    simp only [List.range_one, List.filterMap_cons, List.filterMap_nil, hnext, Nat.add_zero]
    rw [show ringSize = 4096 from rfl, (d.numbered_admits r forced).slot]

end

/-! ### The bits of EVR.CTL -/

theorem Dev.evrCtl_plain (d : Dev) (v : Nat) :
    d.plainWrite pEVR 0 0x40 v = d.fset evrCtlFlushsec 0 (bits v 8 8) := by
  have hl : fieldsAt pEVR 0x40 = [evrCtlFlush, evrCtlDumpgo, evrCtlFlushsec] := by decide
  have hs : evrCtlFlushsec.stored (bits v 8 8) = bits v 8 8 := by
    have hb : bits v 8 8 < 2 ^ 8 := bits_lt ..
    have hw : bits v 8 8 % 2 ^ evrCtlFlushsec.width = bits v 8 8 := bits_mod v 8 8
    unfold Field.stored
    dsimp only
    rw [hw]
    exact (if_neg (Nat.not_lt_zero _)).trans (if_neg (Nat.not_lt.mpr (Nat.le_pred_of_lt hb)))
  unfold Dev.plainWrite
  rw [hl]
  show d.fset evrCtlFlushsec 0 (evrCtlFlushsec.stored (bits v 8 8)) = _
  rw [hs]

theorem bit_of_mod4 {v r : Nat} (h : v % 4 = r) : bit v 0 = (r % 2 == 1) ∧ bit v 1 = (r / 2 == 1) := by
  unfold bit
  have h0 : v / 2 ^ 0 % 2 = r % 2 := by omega
  have h1 : v / 2 ^ 1 % 2 = r / 2 := by omega
  exact ⟨by rw [h0], by rw [h1]⟩

theorem Dev.evrCtl_flush (d : Dev) (failing : List Nat) {v : Nat} (h : v % 4 = 1) :
    d.evrCtl failing v = (d.fset evrCtlFlushsec 0 (bits v 8 8)).flushAll failing 8 := by
  obtain ⟨h0, h1⟩ := bit_of_mod4 h
  unfold Dev.evrCtl
  rw [Dev.evrCtl_plain, h0, h1]
  rfl

theorem Dev.evrCtl_dump (d : Dev) (failing : List Nat) {v : Nat} (h : v % 4 = 2) :
    d.evrCtl failing v = (d.fset evrCtlFlushsec 0 (bits v 8 8)).dump := by
  obtain ⟨h0, h1⟩ := bit_of_mod4 h
  unfold Dev.evrCtl
  rw [Dev.evrCtl_plain, h0, h1]
  rfl

/-- A dump once FLUSHSEC has been written: it copies the same bytes to the same place. -/
theorem Dev.dump_flushsec (d : Dev) (w : Nat) :
    let d₁ := d.fset evrCtlFlushsec 0 w
    let count := d.fget evrDumpselCount 0
    let off := d.fget evrDumpoffLoOff 0 * 64 + d.fget evrDumpoffHiOff 0 * 2 ^ 32
    let bs := (List.range count).flatMap (fun i => nvSlotBytes d ((d.fget evrDumpselFirst 0 + i) % 16384))
    d₁.dump = if count = 0 ∨ 16384 < count then d₁.fset evrStatDumpstat 0 2
      else match d₁.writeRegion (d.fget evrDumpregHandle 0) off bs false with
        | some e => e.fset evrStatDumpstat 0 0
        | none => d₁.fset evrStatDumpstat 0 1 := by
  intro d₁ count off bs
  have hf : ∀ f : Field, f.place < 2 ^ 23 ∧ f.place ≠ evrCtlFlushsec.place → d₁.fget f 0 = d.fget f 0 := fun f h =>
    Dev.fget_fset_place _ _ _ _ ⟨by decide, h⟩
  unfold Dev.dump
  rw [hf evrDumpselCount (by decide), hf evrDumpselFirst (by decide), hf evrDumpregHandle (by decide),
    hf evrDumpoffLoOff (by decide), hf evrDumpoffHiOff (by decide)] <;> rfl

/-! ### Settling the obligation -/

section
variable {s : State} (hw : s.dev.wout = [])
include hw

/-- A record that is admitted without a flush. -/
theorem Answers.numbered {c : Instr} {f : Mem → Dev → Dev} {P : State → Prop} {d : Dev} {r : RawRec} {forced : Bool}
    (he : exec c s = run f s) (hf : f s.mem s.dev = d.numbered r forced)
    (hd : d.mask (partsMask [.units, .evr]) = s.dev.mask (partsMask [.units, .evr]))
    (hp : d.Admits (d.numbered r forced) r forced → s.OnlyParts { s with dev := d.numbered r forced } [.units, .evr] →
      P { s with dev := d.numbered r forced }) : Answers c s P := by
  have hm := (d.numbered_mask r forced).trans hd
  exact Answers.quiet' he hf ((Dev.wout_of_mask (by decide) hm).trans hw) (hp (d.numbered_admits r forced)
    (State.onlyParts_of_mask _ hm))

end

/-- The recorder with the front of what was raised taken. -/
def Dev.taken (d : Dev) (rest : List RawRec) : Dev := { d with evr := { d.evr with raised := rest } }

/-- The same with one token of the record's bucket taken. -/
def Dev.paid (d : Dev) (r : RawRec) (rest : List RawRec) : Dev :=
  { d.taken rest with evr := { (d.taken rest).evr with tokens := SMap.insert r.code (d.tokens r.code - 1) d.evr.tokens } }

theorem Dev.eventRecord_front {d : Dev} {r : RawRec} {rest : List RawRec} (failing : List Nat) (h : d.evr.raised = r :: rest)
    (hu : (d.unit pEVR 0).state ≠ .disabled) : d.eventRecord failing =
      if ringSize ≤ d.evr.unflushed then (d.taken rest).loseRecord 1
      else if exempt r.code then (d.taken rest).number failing r true false
      else if d.tokens r.code = 0 then
        { d.taken rest with evr := { (d.taken rest).evr with
          suppressed := SMap.put 0 r.code (SMap.get 0 r.code d.evr.suppressed + 1) d.evr.suppressed } }.fcount evrSupprCount 0 1
      else (d.paid r rest).number failing r false false := by
  have hc : (ringSize ≤ d.evr.unflushed ∨ (d.unit pEVR 0).state = .disabled) = (ringSize ≤ d.evr.unflushed) := by
    simp [hu]
  have hd : d.eventRecord failing = (d.taken rest).admitRec failing r := by
    unfold Dev.eventRecord
    rw [h]
    rfl
  have ha : (d.taken rest).admitRec failing r = if ringSize ≤ d.evr.unflushed ∨ (d.unit pEVR 0).state = .disabled
      then (d.taken rest).loseRecord 1
      else if exempt r.code then (d.taken rest).number failing r true false
      else if d.tokens r.code = 0 then
        { d.taken rest with evr := { (d.taken rest).evr with
          suppressed := SMap.put 0 r.code (SMap.get 0 r.code d.evr.suppressed + 1) d.evr.suppressed } }.fcount evrSupprCount 0 1
      else (d.paid r rest).number failing r false false := rfl
  rw [hd, ha]
  simp only [hc]

theorem Dev.tokens_paid (d : Dev) (r : RawRec) (rest : List RawRec) {t : Dev} (ht : t.evr.tokens = (d.paid r rest).evr.tokens)
    (hc : t.fget evrRlcfgCap 0 = d.fget evrRlcfgCap 0) : t.tokens r.code = d.tokens r.code - 1 := by
  have hf : SMap.get t.evr.tokBase r.code t.evr.tokens = d.tokens r.code - 1 := by
    rw [ht]
    show (SMap.find r.code (SMap.insert r.code (d.tokens r.code - 1) d.evr.tokens)).getD _ = _
    rw [SMap.find_insert_same]
    rfl
  have hle : d.tokens r.code ≤ d.fget evrRlcfgCap 0 := Nat.min_le_left ..
  rw [Dev.tokens, hf, hc]
  omega

theorem Dev.tokens_refill (d : Dev) (k : Nat) : d.tokenRefill.tokens k = min (d.fget evrRlcfgCap 0) (d.tokens k + 1) := by
  have hc : d.tokenRefill.fget evrRlcfgCap 0 = d.fget evrRlcfgCap 0 := Dev.fget_fset_place _ _ _ _ (by decide)
  have ht : d.tokenRefill.evr.tokens = d.evr.tokens.map fun e => (e.1, min (d.fget evrRlcfgCap 0) (e.2 + 1)) := rfl
  have hb : d.tokenRefill.evr.tokBase = min (d.fget evrRlcfgCap 0) (d.evr.tokBase + 1) := rfl
  unfold Dev.tokens SMap.get
  rw [hc, ht, hb, SMap.find_map (fun n => min (d.fget evrRlcfgCap 0) (n + 1))]
  cases SMap.find k d.evr.tokens with
  | none => simp only [Option.map_none, Option.getD_none]; omega
  | some n => simp only [Option.map_some, Option.getD_some]; omega

/-- A record of a UCC or a UCF, numbered from a state that has only taken the front and a token, is flushed at once. -/
theorem number_fault_answers {s : State} {d : Dev} {r : RawRec} {failing : List Nat} {forced : Bool}
    (hd : s.dev.eventRecord failing = d.number failing r forced false) (hn : d.evr.next = s.dev.evr.next)
    (hs : d.evr.seq = s.dev.evr.seq) (hr : d.regs = s.dev.regs) (hsup : d.evr.suppressed = s.dev.evr.suppressed) (hw : d.wout = [])
    (hnext : s.dev.evr.next = s.dev.evr.seq + 1) (huse : s.dev.fget evrStatNvok 0 = 1)
    (hc : codeClass r.code = 3 ∨ codeClass r.code = 4) : Answers (.eventRecord failing) s fun t =>
      s.dev.Admits t.dev r forced ∧ t.dev.evr.flushed = s.dev.evr.seq + 1 ∧ t.dev.evr.next = s.dev.evr.seq + 2 := by
  obtain ⟨hnum, hone⟩ := Dev.number_fault (d := d) (r := r) failing (forced := forced) (by rw [hn, hs]; exact hnext) hc
  have hnv : (d.numbered r forced).fget evrStatNvok 0 = 1 := (Dev.fget_congr (by exact hr) evrStatNvok 0).trans huse
  obtain ⟨hnx, hfl⟩ := Dev.flushAll_one hone hnv failing 4
  have hmask := Dev.flushAll_mask (F := 40) (by decide) (d.numbered r forced) failing 4
  have hadm := (d.numbered_admits r forced).flushed (Dev.flushAll_log ..) (Dev.unit_of_mask (by decide) hmask ..)
  have hrec : s.dev.recordOf r forced = d.recordOf r forced := by
    have hf : ∀ f : Field, s.dev.fget f 0 = d.fget f 0 := fun f => (Dev.fget_congr hr f 0).symm
    unfold Dev.recordOf
    rw [hf, hf, hs, hsup]
  refine Answers.quiet' rfl (hd.trans hnum) ((Dev.wout_of_mask (by decide) hmask).trans hw) ?_
  have hseq : (d.numbered r forced).evr.seq = s.dev.evr.seq + 1 := congrArg (· + 1) hs
  refine ⟨⟨hadm.seq.trans (congrArg (· + 1) hs), hadm.page.trans (congrArg (· + 1) hs), ?_, hadm.suppressed⟩,
    hfl.trans hseq, hnx.trans (congrArg (· + 1) hseq)⟩
  have hslot := hadm.slot
  rw [hs, ← hrec] at hslot
  exact hslot

/-- EVENT_RECORD of a record of a UCC or a UCF with nothing before it unflushed. -/
theorem eventRecord_fault {s : State} {r : RawRec} {rest : List RawRec} (failing : List Nat) (hraised : s.dev.evr.raised = r :: rest)
    (hunit : (s.dev.unit pEVR 0).state ≠ .disabled) (hnext : s.dev.evr.next = s.dev.evr.seq + 1)
    (huse : s.dev.fget evrStatNvok 0 = 1) (hw : s.dev.wout = []) (hc : codeClass r.code = 3 ∨ codeClass r.code = 4)
    (hadm : exempt r.code = true ∨ 0 < s.dev.tokens r.code) : Answers (.eventRecord failing) s fun t =>
      s.dev.Admits t.dev r (exempt r.code) ∧ t.dev.evr.flushed = s.dev.evr.seq + 1 ∧ t.dev.evr.next = s.dev.evr.seq + 2 := by
  have hun : ¬ ringSize ≤ s.dev.evr.unflushed := by
    have hu : s.dev.evr.unflushed = 0 := Nat.sub_eq_zero_of_le (Nat.le_of_eq hnext.symm)
    rw [hu]
    decide
  have hd := Dev.eventRecord_front failing hraised hunit
  rw [if_neg hun] at hd
  cases hex : exempt r.code with
  | true =>
    rw [hex, if_pos rfl] at hd
    exact number_fault_answers (d := s.dev.taken rest) hd rfl rfl rfl rfl hw hnext huse hc
  | false =>
    rw [hex] at hadm
    have htok : 0 < s.dev.tokens r.code := hadm.resolve_left (by decide)
    rw [hex, if_neg (by decide), if_neg (Nat.ne_of_gt htok)] at hd
    exact number_fault_answers (d := s.dev.paid r rest) hd rfl rfl rfl rfl hw hnext huse hc

/-- The device once a dump has taken its region, where the region took it. -/
def Dev.dumped (d : Dev) : Option Dev :=
  d.writeRegion (d.fget evrDumpregHandle 0) (d.fget evrDumpoffLoOff 0 * 64 + d.fget evrDumpoffHiOff 0 * 2 ^ 32)
    ((List.range (d.fget evrDumpselCount 0)).flatMap (fun i => nvSlotBytes d ((d.fget evrDumpselFirst 0 + i) % 16384))) false

/-- DUMPGO: a count out of range, a region that refuses, and the bytes in their place. -/
theorem dumpgo_answers {s : State} {v : Nat} (hw : s.dev.wout = []) (ha : s.dev.answers = true) (hb : s.dev.blockOpen pEVR 0 = true)
    (hv : v % 4 = 2) :
    (s.dev.fget evrDumpselCount 0 = 0 ∨ 16384 < s.dev.fget evrDumpselCount 0 → Answers (.dumpgo v) s fun t =>
      t.dev.fget evrStatDumpstat 0 = 2 ∧ s.OnlyParts t [.regs])
    ∧ (s.dev.fget evrDumpselCount 0 ≠ 0 → s.dev.fget evrDumpselCount 0 ≤ 16384 →
      (s.dev.dumped = none → Answers (.dumpgo v) s fun t => t.dev.fget evrStatDumpstat 0 = 1 ∧ s.OnlyParts t [.regs])
      ∧ ∀ d', s.dev.dumped = some d' → Answers (.dumpgo v) s fun t => t.dev.fget evrStatDumpstat 0 = 0
        ∧ (∀ a b, SMap.find a d'.wout = some b → Memory.read t.mem a = b)
        ∧ (∀ a, SMap.find a d'.wout = none → Memory.read t.mem a = Memory.read s.mem a) ∧ t.pending = s.pending) := by
  have hpage : (if v % 4 = 2 then s.dev.pageWrite s.mem pEVR 0 0x40 v else s.dev)
      = (s.dev.fset evrCtlFlushsec 0 (bits v 8 8)).dump := by
    rw [if_pos hv, Dev.pageWrite_block s.dev s.mem v (Dev.pageReset_other _ rfl) (by decide) hb]
    exact Dev.evrCtl_dump s.dev [] hv
  have hdump := s.dev.dump_flushsec (bits v 8 8)
  dsimp only at hdump
  have hstat : ∀ n, n < 256 → (s.dev.fset evrCtlFlushsec 0 (bits v 8 8)).dump
      = (s.dev.fset evrCtlFlushsec 0 (bits v 8 8)).fset evrStatDumpstat 0 n → Answers (.dumpgo v) s fun t =>
        t.dev.fget evrStatDumpstat 0 = n ∧ s.OnlyParts t [.regs] := by
    intro n hn hd
    have hm : ((s.dev.fset evrCtlFlushsec 0 (bits v 8 8)).fset evrStatDumpstat 0 n).mask (partsMask [.regs])
        = s.dev.mask (partsMask [.regs]) := (Dev.fset_mask (by decide) ..).trans (Dev.fset_mask (by decide) ..)
    exact Answers.access' rfl ha (hpage.trans hd) ((Dev.wout_of_mask (by decide) hm).trans hw)
      ⟨(Dev.fget_fset_same ..).trans (Nat.mod_eq_of_lt hn), State.onlyParts_of_mask _ hm⟩
  refine ⟨fun hc => hstat 2 (by decide) (hdump.trans (if_pos hc)), fun h0 hle => ?_⟩
  have hgood := hdump.trans (if_neg (not_or.mpr ⟨h0, Nat.not_lt.mpr hle⟩))
  have hdies : s.dev.DieKeeps (s.dev.fset evrCtlFlushsec 0 (bits v 8 8)) := .fset (.refl _) ..
  have htwo := hdies.writeRegion (s.dev.fget evrDumpregHandle 0)
    (s.dev.fget evrDumpoffLoOff 0 * 64 + s.dev.fget evrDumpoffHiOff 0 * 2 ^ 32) ((List.range (s.dev.fget evrDumpselCount 0)).flatMap
      (fun i => nvSlotBytes s.dev ((s.dev.fget evrDumpselFirst 0 + i) % 16384))) false
  refine ⟨fun hout => hstat 1 (by decide) ?_, fun d' hout => ?_⟩
  · rcases htwo with ⟨-, hnone⟩ | ⟨x, -, hx, -⟩
    · rw [hnone] at hgood
      exact hgood
    · exact absurd (hx.symm.trans hout) (by simp)
  · rcases htwo with ⟨hnone, -⟩ | ⟨x, y, hx, hy, hxy⟩
    · exact absurd (hnone.symm.trans hout) (by simp)
    · obtain rfl : x = d' := Option.some.inj (hx.symm.trans hout)
      rw [hy] at hgood
      have hf : (s.dev.host fun d => if v % 4 = 2 then d.pageWrite s.mem pEVR 0 0x40 v else d) = y.fset evrStatDumpstat 0 0 :=
        (Dev.host_on ha _).trans (hpage.trans hgood)
      have hrise : y.Rising := (Dev.Rising.of_nil (d := s.dev.fset evrCtlFlushsec 0 (bits v 8 8)) hw).writeRegion hy
      refine Answers.stores (ok := true) (f := fun m d => d.host fun d => if v % 4 = 2 then d.pageWrite m pEVR 0 0x40 v else d)
        rfl rfl (by rw [hf]; exact hrise) fun m' hm' => ?_
      rw [hf] at hm' ⊢
      have hwout : (y.fset evrStatDumpstat 0 0).wout = x.wout := hxy.wout
      rw [hwout] at hm'
      exact ⟨(Dev.fget_congr (e := y.fset evrStatDumpstat 0 0) rfl _ _).trans (Dev.fget_fset_same ..), hm'.1, hm'.2, rfl⟩

/-- Settles O57: an admitted record is numbered before any flush (`Dev.numbered`), and a flush changes the NV log alone. -/
theorem eventRecorder : Obligations.EventRecorder := by
  unfold Obligations.EventRecorder
  intro s r rest failing v hw e opsec admitted waits usable
  have hring : waits → ¬ ringSize ≤ e.unflushed := fun h => by
    have h' : e.unflushed + 1 < 128 := h
    have hr : ringSize = 4096 := rfl
    omega
  refine ⟨fun h => ?_, fun hraised hunit => ⟨fun hwait hex hc => ?_, fun hwait hex hc htok => ?_, fun hun hex htok => ?_,
    fun hnext huse hc hadm => ?_, fun hun => ?_⟩, ?_, fun x hx hnext => ⟨fun hage => ?_, fun hsec hage huse => ?_,
    fun ha hb hv huse => ?_⟩, fun hx => ?_, fun h1 h2 => ?_, fun hwait hclosed hunit => ⟨fun h1 h2 => ?_, fun h1 => ?_⟩,
    fun ha hb hv => ?_⟩
  · -- nothing raised
    refine exec_run_same (f := fun _ d => d.eventRecord failing) rfl hw ?_
    show s.dev.eventRecord failing = s.dev
    unfold Dev.eventRecord
    rw [h]
  · -- a record that needs no token
    have hd : s.dev.eventRecord failing = (s.dev.taken rest).numbered r true := by
      rw [Dev.eventRecord_front failing hraised hunit, if_neg (hring hwait), if_pos hex]
      refine Dev.number_waits failing hwait (fun h => ?_) hc
      simp [exempt, h] at hex
    refine Answers.numbered hw rfl hd (Dev.mask_evr (by decide) ..) fun hadm ho => ?_
    exact ⟨⟨hadm.seq, hadm.page, hadm.slot, hadm.suppressed⟩, rfl, rfl, ho⟩
  · -- a record that takes a token
    have hc4 : codeClass r.code ≠ 4 := fun h => by simp [exempt, h] at hex
    have hd : s.dev.eventRecord failing = (s.dev.paid r rest).numbered r false := by
      rw [Dev.eventRecord_front failing hraised hunit, if_neg (hring hwait), if_neg (by rw [hex]; decide),
        if_neg (Nat.ne_of_gt htok)]
      exact Dev.number_waits failing hwait hc hc4
    refine Answers.numbered hw rfl hd (Dev.mask_evr (by decide) ..) fun hadm ho => ?_
    exact ⟨⟨hadm.seq, hadm.page, hadm.slot, hadm.suppressed⟩, rfl, Dev.tokens_paid s.dev r rest rfl rfl, ho⟩
  · -- a record that finds no token
    have hd := Dev.eventRecord_front failing hraised hunit
    rw [if_neg (show ¬ ringSize ≤ s.dev.evr.unflushed from Nat.not_le_of_lt hun), if_neg (by rw [hex]; decide), if_pos htok] at hd
    refine Answers.parts [.regs, .evr] (ok := true) (f := fun _ d => d.eventRecord failing) rfl rfl hw
      ((congrArg (Dev.mask _) hd).trans (Dev.fcount_mask (by decide) ..)) (by decide) fun ho => ?_
    dsimp only at ho ⊢
    rw [hd] at ho ⊢
    exact ⟨rfl, Dev.fget_fcount_sat _ evrSupprCount 0 1, ho⟩
  · -- a record of a UCC or a UCF
    obtain ⟨t, ht, ha, hfl, hnx⟩ := eventRecord_fault failing hraised hunit hnext huse hw hc hadm
    exact ⟨t, ht, ⟨ha.seq, ha.page, ha.slot, ha.suppressed⟩, hfl, hnx⟩
  · -- a full ring
    have hd := Dev.eventRecord_front failing hraised hunit
    rw [if_pos (show ringSize ≤ s.dev.evr.unflushed from hun)] at hd
    refine Answers.parts [.regs, .evr] (ok := true) (f := fun _ d => d.eventRecord failing) rfl rfl hw
      ((congrArg (Dev.mask _) hd).trans (Dev.loseRecord_mask (by decide) ..)) (by decide) fun ho => ?_
    dsimp only at ho ⊢
    rw [hd] at ho ⊢
    exact ⟨rfl, Dev.fget_fcount_sat _ evrLostCount 0 1, ho⟩
  · -- the buckets are refilled
    refine Answers.parts [.regs, .evr] (ok := true) (f := fun _ d => d.tokenRefill) rfl rfl hw
      (Dev.tokenRefill_mask (by decide) ..) (by decide) fun ho => ⟨?_, Dev.tokens_refill s.dev, ho⟩
    exact Dev.fget_fset_same ..
  · -- the oldest record has not waited long enough
    refine exec_run_same (f := fun _ d => d.timedFlush failing) rfl hw ?_
    show s.dev.timedFlush failing = s.dev
    unfold Dev.timedFlush
    rw [hx]
    refine if_neg fun h => ?_
    rcases hage with hage | hage
    · exact h.1 hage
    · exact absurd h.2 (Nat.not_le_of_lt hage)
  · -- it has
    have hd : s.dev.timedFlush failing = s.dev.flushAll failing 2 := by
      unfold Dev.timedFlush
      rw [hx]
      exact if_pos ⟨hsec, hage⟩
    obtain ⟨hnx, hfl⟩ := Dev.flushAll_one ⟨hx, hnext⟩ huse failing 2
    refine Answers.parts [.regs, .evr] (ok := true) (f := fun _ d => d.timedFlush failing) rfl rfl hw
      (Dev.timedFlush_mask (by decide) ..) (by decide) fun ho => ?_
    dsimp only at ho ⊢
    rw [hd] at ho ⊢
    exact ⟨hfl, hnx, (congrArg Evr.seq (Dev.flushAll_log s.dev failing 2).evr).trans rfl, ho⟩
  · -- a flush that the host asks for
    obtain ⟨h0, -⟩ := bit_of_mod4 hv
    have hd : (if bit v 0 && s.dev.blockOpen pEVR 0 then s.dev.evrCtl failing v else s.dev)
        = (s.dev.fset evrCtlFlushsec 0 (bits v 8 8)).flushAll failing 8 := by
      rw [hb, h0]
      exact Dev.evrCtl_flush s.dev failing hv
    have hlog := Dev.flushAll_log (s.dev.fset evrCtlFlushsec 0 (bits v 8 8)) failing 8
    obtain ⟨hnx, hfl⟩ := Dev.flushAll_one (d := s.dev.fset evrCtlFlushsec 0 (bits v 8 8)) ⟨hx, hnext⟩
      ((Dev.fget_fset_place _ _ _ _ (by decide)).trans huse) failing 8
    have hm : ((s.dev.fset evrCtlFlushsec 0 (bits v 8 8)).flushAll failing 8).mask (partsMask [.regs, .evr])
        = s.dev.mask (partsMask [.regs, .evr]) :=
      (Dev.flushAll_mask (by decide) ..).trans (Dev.fset_mask (by decide) ..)
    refine Answers.access' rfl ha hd ((Dev.wout_of_mask (by decide) hm).trans hw)
      ⟨hfl, hnx, (congrArg Evr.seq hlog.evr).trans rfl, ?_, State.onlyParts_of_mask _ hm⟩
    exact (hlog.fields evrCtlFlushsec 0 (by decide)).trans ((Dev.fget_fset_same ..).trans (bits_mod v 8 8))
  · -- nothing unflushed
    refine exec_run_same (f := fun _ d => d.timedFlush failing) rfl hw ?_
    show s.dev.timedFlush failing = s.dev
    unfold Dev.timedFlush
    rw [hx]
  · -- nothing was lost
    refine exec_run_same (f := fun _ d => d.recordsLost failing) rfl hw ?_
    show s.dev.recordsLost failing = s.dev
    unfold Dev.recordsLost
    split
    · rfl
    · rw [if_neg (not_not.mpr h1)]
  · -- records lost to a full ring
    have hd : s.dev.recordsLost failing
        = ({ s.dev with evr := { s.dev.evr with lostSince := 0 } } : Dev).numbered ⟨0x8001, pEVR, 0, e.lostSince, 0, 0, false⟩ true := by
      unfold Dev.recordsLost
      rw [if_neg (not_or.mpr ⟨hring hwait, not_or.mpr ⟨by rw [hclosed]; decide, hunit⟩⟩), if_neg (not_not.mpr h1), if_neg h2]
      exact Dev.number_waits failing hwait (show codeClass 0x8001 ≠ 3 by decide)
        (show codeClass 0x8001 ≠ 4 by decide)
    refine Answers.numbered hw rfl hd (Dev.mask_evr (by decide) ..) fun hadm ho => ?_
    exact ⟨⟨hadm.seq, hadm.page, hadm.slot, hadm.suppressed⟩, rfl, ho⟩
  · -- records lost to a UCC
    have hd : s.dev.recordsLost failing
        = ({ s.dev with evr := { s.dev.evr with lostUcc := 0 } } : Dev).numbered ⟨0x8001, pEVR, 0, e.lostUcc, 2, 0, false⟩ true := by
      unfold Dev.recordsLost
      rw [if_neg (not_or.mpr ⟨hring hwait, not_or.mpr ⟨by rw [hclosed]; decide, hunit⟩⟩), if_pos h1]
      exact Dev.number_waits failing hwait (show codeClass 0x8001 ≠ 3 by decide)
        (show codeClass 0x8001 ≠ 4 by decide)
    refine Answers.numbered hw rfl hd (Dev.mask_evr (by decide) ..) fun hadm ho => ?_
    exact ⟨⟨hadm.seq, hadm.page, hadm.slot, hadm.suppressed⟩, rfl, ho⟩
  · -- a dump
    exact dumpgo_answers hw ha hb hv

end Sys2Proof.Machine
end


section
/-! PROOFS. Remote couch queues (R317, R318). -/

namespace Sys2Proof.Machine

/-! ### Failures that concern nobody -/

/-- Where no channel has newly failed and no collective has an event, nothing is settled. -/
theorem Dev.afterFailures_same (d : Dev) {d' : Dev} (m : Mem) (hf : ∀ k ∈ d'.failedChans, k ∈ d.failedChans)
    (he : d'.col.events = []) : d.afterFailures m d' = d' := by
  have hnew : d'.failedChans.filter (fun k => !d.failedChans.contains k) = [] :=
    List.filter_eq_nil_iff.mpr fun k hk => by simp [hf k hk]
  unfold Dev.afterFailures
  rw [hnew]
  exact Dev.settled_nil m he

theorem Dev.failedChans_congr {d d' : Dev} (h : d'.brezin.chans = d.brezin.chans) : d'.failedChans = d.failedChans := by
  unfold Dev.failedChans
  rw [h]

/-- A channel that becomes other than FAILED adds none to those that are. -/
theorem Dev.failedChans_put {d d' : Dev} {k : Nat} {y : Channel}
    (h : d'.brezin.chans = SMap.put .reset k y d.brezin.chans) (hy : y.state ≠ .failed) :
    ∀ j ∈ d'.failedChans, j ∈ d.failedChans := by
  intro j hj
  unfold Dev.failedChans at hj ⊢
  rw [h] at hj
  obtain ⟨e, he, rfl⟩ := List.mem_map.mp hj
  obtain ⟨hmem, hst⟩ := List.mem_filter.mp he
  rcases SMap.mem_put hmem with rfl | hmem
  · exact absurd (eq_of_beq hst) hy
  · exact List.mem_map.mpr ⟨e, List.mem_filter.mpr ⟨hmem, hst⟩, rfl⟩

theorem Dev.tile_congr {d d' : Dev} (h : d'.tiles = d.tiles) (p : Nat) : d'.tile p = d.tile p := by
  unfold Dev.tile
  rw [h]

/-! ### A packet in its turn -/

/-- The front of an engine's inbox has been taken. -/
def Dev.headTaken (d : Dev) (e : Nat) (more : List Packet) : Dev :=
  { d with brezin := { d.brezin with inbox := SMap.put [] e more d.brezin.inbox } }

theorem Dev.withHead_front {d : Dev} {e op : Nat} {pk : Packet} {more : List Packet}
    (h : SMap.get [] e d.brezin.inbox = pk :: more) (ho : pk.op = op) (f : Dev → Packet → Dev) :
    d.withHead e op f = f (d.headTaken e more) pk := by
  unfold Dev.withHead
  rw [h]
  exact if_pos ho

theorem Channel.skipRefused_state (x : Channel) (k : Nat) : (x.skipRefused k).state = x.state := by
  induction k generalizing x with
  | zero => rfl
  | succ k ih =>
    unfold Channel.skipRefused
    split
    · exact ih _
    · rfl

theorem Channel.pass_state (x : Channel) : x.pass.state = x.state := Channel.skipRefused_state ..

section
variable {d : Dev} {e c : Nat} {pk : Packet} (hd : d.engineDown e = false) (hp : d.phase ≠ .computeReset)
  (hc : pk.dchan = c) (hx : (d.chan e c).state = .opened) (hpairs : (d.chan e c).pairs pk = true)
  (hseq : pk.seq = (d.chan e c).rxSeq)
include hd hp hc hx hpairs hseq

/-- The next packet of an OPEN channel is performed, or refused with a status. -/
theorem Dev.receive_next (f : Dev → Nat → Except Nat Dev) : d.receive e pk f = match f d c with
    | .ok d' => d'.accepted e c
    | .error st => d.notPerformed e c pk st := by
  subst hc
  have hs : d.sequence e pk = .ok pk.dchan := by
    unfold Dev.sequence
    dsimp only
    rw [hd, if_neg (by decide), if_neg hp, if_neg (not_or.mpr ⟨not_not.mpr hx, by rw [hpairs]; decide⟩), if_pos hseq]
  unfold Dev.receive
  rw [hs] <;> rfl

end

theorem Channel.skipRefused_ackOwed (x : Channel) (k : Nat) : (x.skipRefused k).ackOwed = x.ackOwed := by
  induction k generalizing x with
  | zero => rfl
  | succ k ih =>
    unfold Channel.skipRefused
    split
    · exact ih _
    · rfl

/-- A packet performed before its acknowledgement is due. -/
theorem Dev.accepted_owed {d : Dev} {e c : Nat} (h : (d.chan e c).ackOwed < 15) :
    d.accepted e c = d.setChan e c { (d.chan e c).pass with ackOwed := (d.chan e c).ackOwed + 1 } := by
  have ha : (d.chan e c).pass.ackOwed = (d.chan e c).ackOwed := Channel.skipRefused_ackOwed ..
  have hd : d.accepted e c = if 16 ≤ ((d.onChan e c fun x => { x.pass with ackOwed := x.ackOwed + 1 }).chan e c).ackOwed
      then (d.onChan e c fun x => { x.pass with ackOwed := x.ackOwed + 1 }).sendAck e c
      else d.onChan e c fun x => { x.pass with ackOwed := x.ackOwed + 1 } := rfl
  have ho : (d.onChan e c fun x => { x.pass with ackOwed := x.ackOwed + 1 }).chan e c
      = { (d.chan e c).pass with ackOwed := (d.chan e c).ackOwed + 1 } := Dev.chan_setChan_same ..
  rw [hd, ho]
  exact if_neg (Nat.not_le.mpr (Nat.succ_lt_succ h))

/-! ### A packet that is refused -/

theorem Dev.fget_emit (d : Dev) (e vl : Nat) (p : Packet) {g : Field} (j : Nat)
    (h : g.place < 2 ^ 23 ∧ g.place ≠ bzeBadpktCount.place ∧ g.place ≠ bzeNorouteCount.place) :
    (d.emit e vl p).fget g j = d.fget g j := by
  unfold Dev.emit
  dsimp only
  split
  · exact Dev.fget_deliver _ _ _ _ _ ⟨h.1, h.2.1⟩
  · rfl
  · refine (Dev.fget_of_mask (F := 32) (by decide) (Dev.record_mask (by decide) ..) _ _).trans ?_
    exact Dev.fget_fset_place _ (f := bzeNorouteCount) _ _ _ ⟨by decide, h.1, h.2.2⟩

/-- REFUSE counts, and the expected SEQ passes the packet. -/
theorem Dev.notPerformed_spec (d : Dev) (e c : Nat) (pk : Packet) (st : Nat) :
    (d.notPerformed e c pk st).brezin.chans = SMap.put .reset (chanKey e c) (d.chan e c).pass d.brezin.chans
    ∧ (d.notPerformed e c pk st).fget bzeRefusecntSent e
      = satAdd (2 ^ bzeRefusecntSent.width - 1) (d.fget bzeRefusecntSent e) 1 := by
  have hb : (d.refuse e pk st).brezin.chans = d.brezin.chans := Dev.emit_chans ..
  constructor
  · show SMap.put .reset (chanKey e c) ((d.refuse e pk st).chan e c).pass (d.refuse e pk st).brezin.chans = _
    rw [Dev.chan_congr hb, hb]
  · refine (Dev.fget_fcount_sat ..).trans ?_
    rw [Dev.control, Dev.fget_emit _ _ _ _ _ (by decide)]

/-! ### The traffic of one channel -/

section
variable {s : State} {e c : Nat} {pk : Packet} {more : List Packet} (he : e < 6) (hc : c < 4096) (hw : s.dev.wout = [])
  (hev : s.dev.col.events = []) (hin : SMap.get [] e s.dev.brezin.inbox = pk :: more) (hch : pk.dchan = c)
  (hdown : s.dev.engineDown e = false) (hph : s.dev.phase ≠ .computeReset) (hx : (s.dev.chan e c).state = .opened)
  (hpairs : (s.dev.chan e c).pairs pk = true) (hseq : pk.seq = (s.dev.chan e c).rxSeq)
include hin hch hdown hph hx hpairs hseq

/-- What the packet at the front of its engine's inbox does, where it is the next one of its channel. -/
theorem Dev.front_next {op : Nat} (ho : pk.op = op) (f : Packet → Dev → Nat → Except Nat Dev) :
    s.dev.withHead e op (fun d p => d.receive e p (f p)) = match f pk (s.dev.headTaken e more) c with
      | .ok d' => d'.accepted e c
      | .error st => (s.dev.headTaken e more).notPerformed e c pk st :=
  (Dev.withHead_front hin ho _).trans
    (Dev.receive_next (d := s.dev.headTaken e more) hdown hph hch hx hpairs hseq (f pk))

include he hw hev

/-- A refused packet. -/
theorem Answers.refused {i : Instr} {op st : Nat} {f : Mem → Packet → Dev → Nat → Except Nat Dev}
    (hi : exec i s = runIf (bzeOk e) (fun m d => d.afterFailures m (d.withHead e op fun d p => d.receive e p (f m p))) s)
    (ho : pk.op = op) (hf : f s.mem pk (s.dev.headTaken e more) c = .error st) : Answers i s fun t =>
      ((t.dev.chan e c).rxSeq = (s.dev.chan e c).pass.rxSeq ∧ (t.dev.chan e c).state = .opened
        ∧ t.dev.fget bzeRefusecntSent e = satAdd (2 ^ bzeRefusecntSent.width - 1) (s.dev.fget bzeRefusecntSent e) 1
        ∧ t.mem = s.mem) ∧ t.dev.stp = s.dev.stp := by
  have hd := Dev.front_next hin hch hdown hph hx hpairs hseq ho (f s.mem)
  rw [hf] at hd
  obtain ⟨hchans, hcount⟩ := (s.dev.headTaken e more).notPerformed_spec e c pk st
  have hm := Dev.notPerformed_mask (F := 134742056) (by decide) (s.dev.headTaken e more) e c pk st
  have hpass : (s.dev.chan e c).pass.state = .opened := (Channel.pass_state _).trans hx
  have hchan : ((s.dev.headTaken e more).notPerformed e c pk st).chan e c = (s.dev.chan e c).pass :=
    (congrArg (SMap.get Channel.reset (chanKey e c)) hchans).trans (SMap.get_put_same ..)
  have hevents : ((s.dev.headTaken e more).notPerformed e c pk st).col.events = [] :=
    (congrArg Col.events (Dev.col_of_mask (by decide) hm)).trans hev
  have hsame := Dev.afterFailures_same s.dev s.mem
    (Dev.failedChans_put hchans (fun h => by rw [show (s.dev.headTaken e more).chan e c = s.dev.chan e c from rfl] at h; rw [hpass] at h; cases h))
    hevents
  refine Answers.quiet hi (decide_eq_true he) ((congrArg (s.dev.afterFailures s.mem) hd).trans hsame)
    ((Dev.wout_of_mask (by decide) hm).trans hw) ⟨⟨?_, ?_, hcount, rfl⟩, (Dev.stp_of_mask (by decide) hm).trans rfl⟩
  · exact congrArg Channel.rxSeq hchan
  · exact (congrArg Channel.state hchan).trans hpass

omit he hw in
/-- A packet that is performed before its channel's acknowledgement is due: what it does keeps the channels and the
collectives. -/
theorem Dev.front_performed {op : Nat} {f : Packet → Dev → Nat → Except Nat Dev} {d' : Dev} (ho : pk.op = op)
    (hf : f pk (s.dev.headTaken e more) c = .ok d') (howed : (s.dev.chan e c).ackOwed < 15)
    (hb : d'.brezin = (s.dev.headTaken e more).brezin) (hcol : d'.col = s.dev.col) :
    s.dev.afterFailures s.mem (s.dev.withHead e op fun d p => d.receive e p (f p))
      = d'.setChan e c { (s.dev.chan e c).pass with ackOwed := (s.dev.chan e c).ackOwed + 1 } := by
  have hd := Dev.front_next hin hch hdown hph hx hpairs hseq ho f
  rw [hf] at hd
  have hchans : d'.brezin.chans = s.dev.brezin.chans := (congrArg Brezin.chans hb).trans rfl
  have hchan : d'.chan e c = s.dev.chan e c := Dev.chan_congr hchans e c
  have hacc := Dev.accepted_owed (d := d') (e := e) (c := c) (by rw [hchan]; exact howed)
  rw [hchan] at hacc
  have hpass : (s.dev.chan e c).pass.state = .opened := (Channel.pass_state _).trans hx
  have hkeys : (d'.setChan e c { (s.dev.chan e c).pass with ackOwed := (s.dev.chan e c).ackOwed + 1 }).brezin.chans
      = SMap.put .reset (chanKey e c) { (s.dev.chan e c).pass with ackOwed := (s.dev.chan e c).ackOwed + 1 } s.dev.brezin.chans :=
    congrArg (SMap.put Channel.reset (chanKey e c)
      { (s.dev.chan e c).pass with ackOwed := (s.dev.chan e c).ackOwed + 1 }) hchans
  have hsame := Dev.afterFailures_same s.dev s.mem
    (Dev.failedChans_put hkeys fun h => by cases hpass.symm.trans h) ((congrArg Col.events hcol).trans hev)
  exact (congrArg (s.dev.afterFailures s.mem) (hd.trans hacc)).trans hsame

omit hev hin hch hdown hph hx hpairs hseq he hw in
/-- The channel after that, and the inbox. -/
theorem Dev.front_taken {d' : Dev} (hb : d'.brezin = (s.dev.headTaken e more).brezin) (y : Channel) :
    (d'.setChan e c y).chan e c = y ∧ SMap.get [] e (d'.setChan e c y).brezin.inbox = more :=
  ⟨Dev.chan_setChan_same .., (congrArg (fun b : Brezin => SMap.get [] e b.inbox) hb).trans (SMap.get_put_same ..)⟩

omit hw in
/-- The same as an answer, whatever the packet has written. -/
theorem Answers.performed {i : Instr} {op : Nat} {f : Mem → Packet → Dev → Nat → Except Nat Dev} {P : State → Prop} {d' : Dev}
    (hi : exec i s = runIf (bzeOk e) (fun m d => d.afterFailures m (d.withHead e op fun d p => d.receive e p (f m p))) s)
    (ho : pk.op = op) (hf : f s.mem pk (s.dev.headTaken e more) c = .ok d') (howed : (s.dev.chan e c).ackOwed < 15)
    (hb : d'.brezin = (s.dev.headTaken e more).brezin) (hcol : d'.col = s.dev.col) (hr : d'.Rising)
    (hp : ∀ t : State, t.dev.mask (partsMask [.brezin, .wout]) = d'.mask (partsMask [.brezin, .wout]) →
      Memory.Stored d'.wout s.mem t.mem →
      (t.dev.chan e c = { (s.dev.chan e c).pass with ackOwed := (s.dev.chan e c).ackOwed + 1 }
        ∧ SMap.get [] e t.dev.brezin.inbox = more ∧ t.pending = s.pending) → P t) : Answers i s P := by
  have hfin := Dev.front_performed hev hin hch hdown hph hx hpairs hseq (f := f s.mem) ho hf howed hb hcol
  obtain ⟨hchan, hinbox⟩ := Dev.front_taken (c := c) hb
    { (s.dev.chan e c).pass with ackOwed := (s.dev.chan e c).ackOwed + 1 }
  refine Answers.stores hi (decide_eq_true he) (by rw [hfin]; exact hr) fun m' hm' => ?_
  rw [hfin] at hm' ⊢
  exact hp _ ((Dev.mask_wout (by decide) ..).trans (Dev.setChan_mask (by decide) ..)) hm' ⟨hchan, hinbox, rfl⟩

end

/-! ### The ring and its notices -/

/-- A write of the ring header keeps STP, the tiles, the channels and what Deckle has placed. -/
theorem Dev.cqHeader_spec (d : Dev) (q : Nat) (tag : Option Nat) (h : d.Rising) :
    (d.cqHeader q tag).mask 79699001 = d.mask 79699001 ∧ (d.cqHeader q tag).dieState = d.dieState ∧ (d.cqHeader q tag).Rising := by
  have hw : ∀ (x : Dev) (o : Nat) (bs : List Nat), x.dieState = d.dieState → x.Rising →
      ((x.writeRegion (d.fget stpCqregRegion q) o bs false).getD x).dieState = d.dieState
      ∧ ((x.writeRegion (d.fget stpCqregRegion q) o bs false).getD x).Rising := by
    intro x o bs hs hr
    cases hx : x.writeRegion (d.fget stpCqregRegion q) o bs false with
    | none => exact ⟨hs, hr⟩
    | some y => exact ⟨(Dev.writeRegion_state hx).trans hs, hr.writeRegion hx⟩
  refine ⟨Dev.cqHeader_mask (by decide) .., ?_⟩
  unfold Dev.cqHeader
  dsimp only
  obtain ⟨hs, hr⟩ := hw d 0 (toLE 8 (d.couch q).pushed ++ toLE 8 (d.couch q).popped ++ toLE 4 d.curStep) rfl h
  cases tag with
  | none => exact ⟨hs, hr⟩
  | some t => exact hw _ _ _ hs hr

/-- A queue of the ring moves, its header is written, and an event is rung. -/
theorem Dev.ringMoved {d : Dev} {q : Nat} {y : Couch} {tag : Option Nat} {kind src : Nat} (hr : d.Rising)
    {d' : Dev} (hd : d' = ((d.setCouch q y).cqHeader q tag).doorbell kind src) :
    d'.brezin = d.brezin ∧ d'.col = d.col ∧ d'.Rising ∧ d'.couch q = y ∧ (∀ r, r ≠ q → d'.couch r = d.couch r)
    ∧ ∀ pl b p, d.deckle.placement = some pl → b ∈ pl.man.binds → b.kind = kind → b.src = src →
        SMap.find b.tile pl.tmap = some p → bit (d'.tile p).core.tev b.bit = true := by
  obtain ⟨hm, hs, hrise⟩ := Dev.cqHeader_spec (d.setCouch q y) q tag hr
  have hbell := Dev.doorbell_mask (F := 256) (by decide) ((d.setCouch q y).cqHeader q tag) kind src
  subst hd
  have hstp : (((d.setCouch q y).cqHeader q tag).doorbell kind src).stp = (d.setCouch q y).stp :=
    (Dev.stp_of_mask (by decide) hbell).trans (Dev.stp_of_mask (by decide) hm)
  refine ⟨(Dev.brezin_of_mask (by decide) hbell).trans ((Dev.brezin_of_mask (by decide) hm).trans rfl),
    (Dev.col_of_mask (by decide) hbell).trans ((Dev.col_of_mask (by decide) hm).trans rfl), ?_,
    (congrArg (fun x : Stp => SMap.get Couch.reset q x.couch) hstp).trans (SMap.get_put_same ..),
    fun r hne => (congrArg (fun x : Stp => SMap.get Couch.reset r x.couch) hstp).trans (SMap.get_put_ne _ _ hne ..),
    fun pl b p hpl hb hk hsrc hp => ?_⟩
  · have hwout := Dev.wout_of_mask (by decide) hbell
    unfold Dev.Rising
    rw [hwout]
    exact hrise
  · have hplace : ((d.setCouch q y).cqHeader q tag).deckle.placement = some pl :=
      ((congrArg (fun k : DieState => k.deckle.placement) hs).trans rfl).trans hpl
    rw [Dev.doorbell_placed hplace]
    exact Dev.bindSteps_set hb hk hsrc hp _

/-! ### What each packet does -/

/-- CQ_DATA, in its turn. -/
def Dev.dataPacket (same : Bool) (_ : Mem) (p : Packet) (d : Dev) (c : Nat) : Except Nat Dev :=
  if !d.cqTakes (p.arg % 64) c 2 || !same || decide (bits p.arg 16 48 < 4096)
      || decide (4096 + d.cqSlots (p.arg % 64) * d.cqSlotBytes (p.arg % 64) < bits p.arg 16 48 + p.payload.length) then
    .error 4
  else match d.writeRegion (d.fget stpCqregRegion (p.arg % 64)) (bits p.arg 16 48) p.payload (bit p.flags 6) with
    | some d' => .ok d'
    | none => .error 2

/-- CQ_PUSHN, in its turn. -/
def Dev.pushPacket (m : Mem) (p : Packet) (d : Dev) (c : Nat) : Except Nat Dev :=
  if !d.cqTakes (p.arg % 64) c 2 then .error 4
  else if !d.noticeNow p then .ok (d.fcount stpCqerrcntCount 0 1)
  else if d.cqSlots (p.arg % 64) ≤ (d.couch (p.arg % 64)).pushed - (d.couch (p.arg % 64)).popped then
    .ok (d.cqError m (p.arg % 64) 1 false)
  else .ok ((d.cqPushed (p.arg % 64) (bits p.arg 16 16)).doorbell 2 (p.arg % 64))

/-- CQ_POPN, in its turn. -/
def Dev.popPacket (m : Mem) (p : Packet) (d : Dev) (c : Nat) : Except Nat Dev :=
  if !d.cqTakes (p.arg % 64) c 1 then .error 4
  else if !d.noticeNow p then .ok (d.fcount stpCqerrcntCount 0 1)
  else if (d.couch (p.arg % 64)).pushed ≤ (d.couch (p.arg % 64)).popped then .ok (d.cqError m (p.arg % 64) 3 false)
  else .ok (((d.setCouch (p.arg % 64) { d.couch (p.arg % 64) with popped := (d.couch (p.arg % 64)).popped + 1 }).cqHeader
    (p.arg % 64) none).doorbell 2 (64 + p.arg % 64))

theorem exec_cqData (e : Nat) (same : Bool) (s : State) : exec (.cqData ⟨e, same⟩) s = runIf (bzeOk e) (fun m d =>
    d.afterFailures m (d.withHead e 0x18 fun d p => d.receive e p (Dev.dataPacket same m p))) s := rfl

theorem exec_cqPushn (e : Nat) (s : State) : exec (.cqPushn e) s = runIf (bzeOk e) (fun m d =>
    d.afterFailures m (d.withHead e 0x19 fun d p => d.receive e p (Dev.pushPacket m p))) s := rfl

theorem exec_cqPopn (e : Nat) (s : State) : exec (.cqPopn e) s = runIf (bzeOk e) (fun m d =>
    d.afterFailures m (d.withHead e 0x1A fun d p => d.receive e p (Dev.popPacket m p))) s := rfl

section
variable {d : Dev} {p : Packet} {c : Nat} {m : Mem} {same : Bool}

theorem Dev.dataPacket_refused (h : d.cqTakes (p.arg % 64) c 2 = false ∨ same = false) :
    Dev.dataPacket same m p d c = .error 4 := by
  refine if_pos ?_
  rcases h with h | h <;> simp [h]

theorem Dev.dataPacket_stored {d' : Dev} (ht : d.cqTakes (p.arg % 64) c 2 = true) (hs : same = true)
    (hlo : 4096 ≤ bits p.arg 16 48)
    (hhi : bits p.arg 16 48 + p.payload.length ≤ 4096 + d.cqSlots (p.arg % 64) * d.cqSlotBytes (p.arg % 64))
    (hd : d.writeRegion (d.fget stpCqregRegion (p.arg % 64)) (bits p.arg 16 48) p.payload (bit p.flags 6) = some d') :
    Dev.dataPacket same m p d c = .ok d' := by
  unfold Dev.dataPacket
  rw [ht, hs, decide_eq_false (Nat.not_lt.mpr hlo), decide_eq_false (Nat.not_lt.mpr hhi), if_neg (by decide), hd]

theorem Dev.pushPacket_refused (h : d.cqTakes (p.arg % 64) c 2 = false) : Dev.pushPacket m p d c = .error 4 :=
  if_pos (by rw [h]; rfl)

theorem Dev.popPacket_refused (h : d.cqTakes (p.arg % 64) c 1 = false) : Dev.popPacket m p d c = .error 4 :=
  if_pos (by rw [h]; rfl)

theorem Dev.pushPacket_late (ht : d.cqTakes (p.arg % 64) c 2 = true) (hn : d.noticeNow p = false) :
    Dev.pushPacket m p d c = .ok (d.fcount stpCqerrcntCount 0 1) := by
  unfold Dev.pushPacket
  rw [ht, hn, if_neg (by decide), if_pos (by decide)]

theorem Dev.pushPacket_pushed (ht : d.cqTakes (p.arg % 64) c 2 = true) (hn : d.noticeNow p = true)
    (hr : (d.couch (p.arg % 64)).pushed - (d.couch (p.arg % 64)).popped < d.cqSlots (p.arg % 64)) :
    Dev.pushPacket m p d c = .ok ((d.cqPushed (p.arg % 64) (bits p.arg 16 16)).doorbell 2 (p.arg % 64)) := by
  unfold Dev.pushPacket
  rw [ht, hn, if_neg (by decide), if_neg (by decide), if_neg (Nat.not_le.mpr hr)]

theorem Dev.popPacket_popped (ht : d.cqTakes (p.arg % 64) c 1 = true) (hn : d.noticeNow p = true)
    (hr : (d.couch (p.arg % 64)).popped < (d.couch (p.arg % 64)).pushed) : Dev.popPacket m p d c = .ok
      (((d.setCouch (p.arg % 64) { d.couch (p.arg % 64) with popped := (d.couch (p.arg % 64)).popped + 1 }).cqHeader
        (p.arg % 64) none).doorbell 2 (64 + p.arg % 64)) := by
  unfold Dev.popPacket
  rw [ht, hn, if_neg (by decide), if_neg (by decide), if_neg (Nat.not_le.mpr hr)]

end

/-! ### The push notice -/

theorem Dev.submit_taken {d : Dev} {e c : Nat} (hx : (d.chan e c).state = .opened) (ha : d.active pBZE e = true) (op arg : Nat)
    (payload : List Nat) (poison : Bool) (o : Owner) : (d.submit e c op arg payload poison o).2 = true := by
  unfold Dev.submit
  dsimp only
  rw [if_neg (by simp [hx, ha])]

/-- A slot copy none of whose packets is unacknowledged gives its notice to its channel. -/
theorem Dev.cqSlotAcked_notice {d : Dev} (m : Mem) {q g k tag : Nat} {rest : List (Nat × Nat)}
    (hcopies : (d.couch q).copies = (k, tag) :: rest) (hholder : d.holder (d.fget stpCqregChannel q) = some g)
    (hz : (d.chan g (d.fget stpCqregChannel q)).state = .opened) (hact : d.active pBZE g = true)
    (hown : ∀ p ∈ (d.chan g (d.fget stpCqregChannel q)).queue ++ (d.chan g (d.fget stpCqregChannel q)).unacked, p.2 ≠ .couch q) :
    d.cqSlotAcked m q = (d.setCouch q { d.couch q with copies := rest }).setChan g (d.fget stpCqregChannel q)
      { d.chan g (d.fget stpCqregChannel q) with
        queue := (d.chan g (d.fget stpCqregChannel q)).queue ++ [((d.chan g (d.fget stpCqregChannel q)).packet d.devId
          (d.fget stpCqregChannel q) 0x19 (d.fget stpCqpeerPeerq q + tag * 2 ^ 16 + d.curStep * 2 ^ 32) [] false, .couch q)]
        txSeq := ((d.chan g (d.fget stpCqregChannel q)).txSeq + 1) % 65536 } := by
  have hidle : ((d.holder (d.fget stpCqregChannel q)).any fun e =>
      ((d.chan e (d.fget stpCqregChannel q)).queue ++ (d.chan e (d.fget stpCqregChannel q)).unacked).any fun p =>
        p.2 == .couch q && p.1.op == 0x18 && decide (4096 + k * d.cqSlotBytes q ≤ bits p.1.arg 16 48)
          && decide (bits p.1.arg 16 48 < 4096 + (k + 1) * d.cqSlotBytes q)) = false := by
    rw [hholder]
    refine List.any_eq_false.mpr fun p hp => ?_
    rw [beq_eq_false_iff_ne.mpr (hown p hp)]
    simp
  have hsub := Dev.submit_open (d := d.setCouch q { d.couch q with copies := rest }) (e := g) (c := d.fget stpCqregChannel q)
    hz hact 0x19 (d.fget stpCqpeerPeerq q + tag * 2 ^ 16 + d.curStep * 2 ^ 32) [] false (.couch q)
  have htaken := Dev.submit_taken (d := d.setCouch q { d.couch q with copies := rest }) (e := g) (c := d.fget stpCqregChannel q)
    hz hact 0x19 (d.fget stpCqpeerPeerq q + tag * 2 ^ 16 + d.curStep * 2 ^ 32) [] false (.couch q)
  have hnotice : (d.setCouch q { d.couch q with copies := rest }).cqNotice m q 0x19 tag
      = if ((d.setCouch q { d.couch q with copies := rest }).submit g (d.fget stpCqregChannel q) 0x19
          (d.fget stpCqpeerPeerq q + tag * 2 ^ 16 + d.curStep * 2 ^ 32) [] false (.couch q)).2 = true
        then ((d.setCouch q { d.couch q with copies := rest }).submit g (d.fget stpCqregChannel q) 0x19
          (d.fget stpCqpeerPeerq q + tag * 2 ^ 16 + d.curStep * 2 ^ 32) [] false (.couch q)).1
        else ((d.setCouch q { d.couch q with copies := rest }).submit g (d.fget stpCqregChannel q) 0x19
          (d.fget stpCqpeerPeerq q + tag * 2 ^ 16 + d.curStep * 2 ^ 32) [] false (.couch q)).1.cqError m q 4 true := by
    unfold Dev.cqNotice
    dsimp only
    rw [show (d.setCouch q { d.couch q with copies := rest }).holder
      ((d.setCouch q { d.couch q with copies := rest }).fget stpCqregChannel q) = some g from hholder]
    rfl
  unfold Dev.cqSlotAcked
  dsimp only
  rw [hcopies]
  dsimp only
  rw [hidle, if_neg (by decide), hnotice, if_pos htaken, hsub]
  rfl

/-! ### Settling the obligation -/

/-- Settles O41: each packet is the next one of its channel, so it is performed or refused, and no other channel moves. -/
theorem remoteCouchQueues : Obligations.RemoteCouchQueues := by
  unfold Obligations.RemoteCouchQueues
  refine ⟨?_, ?_⟩
  · intro s e c q pk more he hc hw hev hin hch hq hdown hph x y taken refused event hx hpairs hseq howed
    subst hq
    have hrise : (s.dev.headTaken e more).Rising := .of_nil hw
    have htakes : ∀ k, (s.dev.headTaken e more).cqTakes (pk.arg % 64) c k = s.dev.cqTakes (pk.arg % 64) c k := fun _ => rfl
    have hnotice : (s.dev.headTaken e more).noticeNow pk = s.dev.noticeNow pk := rfl
    refine ⟨fun d' same hsame hop ht hlo hhi hd' => ?_, fun same hop hbad => ?_, fun hop ht => ⟨fun hnow hroom => ?_,
      fun hnow => ?_⟩, fun hop ht => ?_, fun hop ht => ?_, fun hop ht hnow hheld => ?_⟩
    · -- the bytes of a slot copy
      have hdies : s.dev.DieKeeps (s.dev.headTaken e more) :=
        .of_mask (F := 524288) (by decide) (Dev.mask_brezin (by decide) ..)
      rcases hdies.writeRegion (s.dev.fget stpCqregRegion (pk.arg % 64)) (bits pk.arg 16 48) pk.payload (bit pk.flags 6) with
        ⟨hnone, -⟩ | ⟨x', y', hx', hy', hxy⟩
      · exact absurd (hnone.symm.trans hd') (by simp)
      · obtain rfl : x' = d' := Option.some.inj (hx'.symm.trans hd')
        have hm := Dev.writeRegion_mask (F := 79699001) (by decide) hy'
        refine Answers.performed he hev hin hch hdown hph hx hpairs hseq (exec_cqData e same s) hop
          (Dev.dataPacket_stored (d := s.dev.headTaken e more) ht hsame hlo hhi hy') howed
          (Dev.brezin_of_mask (by decide) hm) ((Dev.col_of_mask (by decide) hm).trans rfl) (hrise.writeRegion hy')
          fun t hmask hstored htaken => ⟨htaken, ?_, ?_, ?_⟩
        · exact (Dev.stp_of_mask (by decide) hmask).trans ((Dev.stp_of_mask (by decide) hm).trans rfl)
        · exact (Dev.tiles_of_mask (by decide) hmask).trans ((Dev.tiles_of_mask (by decide) hm).trans rfl)
        · rw [hxy.wout] at hstored
          exact hstored
    · -- of another configuration
      exact Answers.refused he hw hev hin hch hdown hph hx hpairs hseq (exec_cqData e same s) hop
        (Dev.dataPacket_refused (d := s.dev.headTaken e more) hbad)
    · -- a push notice
      obtain ⟨hb, hcol, hr, hcouch, hothers, hbell⟩ := Dev.ringMoved (d := s.dev.headTaken e more) (q := pk.arg % 64)
        (y := { y with pushed := y.pushed + 1, tags := SMap.put 0 (y.pushed % s.dev.cqSlots (pk.arg % 64)) (bits pk.arg 16 16) y.tags })
        (tag := some (y.pushed % s.dev.cqSlots (pk.arg % 64))) (kind := 2) (src := pk.arg % 64) hrise rfl
      refine Answers.performed he hev hin hch hdown hph hx hpairs hseq (exec_cqPushn e s) hop
        (Dev.pushPacket_pushed (d := s.dev.headTaken e more) ht hnow hroom) howed hb hcol hr
        fun t hmask hstored htaken => ⟨htaken, ?_, fun r hne => ?_, fun pl b p hpl hbind hk hsrc hp => ?_⟩
      · exact (congrArg (fun x : Stp => SMap.get Couch.reset (pk.arg % 64) x.couch) (Dev.stp_of_mask (by decide) hmask)).trans hcouch
      · exact (congrArg (fun x : Stp => SMap.get Couch.reset r x.couch) (Dev.stp_of_mask (by decide) hmask)).trans (hothers r hne)
      · rw [Dev.tile_congr (Dev.tiles_of_mask (by decide) hmask)]
        exact hbell pl b p hpl hbind hk hsrc hp
    · -- a push notice of another step
      have hfin := Dev.front_performed hev hin hch hdown hph hx hpairs hseq (f := Dev.pushPacket s.mem) hop
        (Dev.pushPacket_late (d := s.dev.headTaken e more) ht hnow) howed rfl rfl
      obtain ⟨hchan, hinbox⟩ := Dev.front_taken (s := s) (e := e) (c := c) (more := more)
        (d' := (s.dev.headTaken e more).fcount stpCqerrcntCount 0 1) rfl { x.pass with ackOwed := x.ackOwed + 1 }
      refine Answers.quiet (exec_cqPushn e s) (decide_eq_true he) hfin hw
        ⟨⟨hchan, hinbox, rfl⟩, rfl, ?_, State.onlyParts_of_mask _ ?_⟩
      · exact Dev.fget_fcount_sat (s.dev.headTaken e more) stpCqerrcntCount 0 1
      · exact (Dev.setChan_mask (by decide) ..).trans ((Dev.fcount_mask (by decide) ..).trans (Dev.mask_brezin (by decide) ..))
    · exact Answers.refused he hw hev hin hch hdown hph hx hpairs hseq (exec_cqPushn e s) hop
        (Dev.pushPacket_refused (d := s.dev.headTaken e more) ht)
    · exact Answers.refused he hw hev hin hch hdown hph hx hpairs hseq (exec_cqPopn e s) hop
        (Dev.popPacket_refused (d := s.dev.headTaken e more) ht)
    · -- a pop notice
      obtain ⟨hb, hcol, hr, hcouch, hothers, hbell⟩ := Dev.ringMoved (d := s.dev.headTaken e more) (q := pk.arg % 64)
        (y := { y with popped := y.popped + 1 }) (tag := none) (kind := 2) (src := 64 + pk.arg % 64) hrise rfl
      refine Answers.performed he hev hin hch hdown hph hx hpairs hseq (exec_cqPopn e s) hop
        (Dev.popPacket_popped (d := s.dev.headTaken e more) ht hnow hheld) howed hb hcol hr
        fun t hmask hstored htaken => ⟨htaken, ?_, fun r hne => ?_, fun pl b p hpl hbind hk hsrc hp => ?_⟩
      · exact (congrArg (fun x : Stp => SMap.get Couch.reset (pk.arg % 64) x.couch) (Dev.stp_of_mask (by decide) hmask)).trans hcouch
      · exact (congrArg (fun x : Stp => SMap.get Couch.reset r x.couch) (Dev.stp_of_mask (by decide) hmask)).trans (hothers r hne)
      · rw [Dev.tile_congr (Dev.tiles_of_mask (by decide) hmask)]
        exact hbell pl b p hpl hbind hk hsrc hp
  · intro s q g k tag rest hq hw hev y c z
    have hok : ringOk q = true := decide_eq_true hq
    refine ⟨fun hcopies => ?_, fun hcopies hholder hz hact hown => ?_⟩
    · refine runIf_same (f := fun m d => (d.cqSlotAcked m q).settled m) hok hw ?_
      have hd : s.dev.cqSlotAcked s.mem q = s.dev := by
        unfold Dev.cqSlotAcked
        dsimp only
        rw [hcopies]
      exact (congrArg (Dev.settled · s.mem) hd).trans (Dev.settled_nil s.mem hev)
    · have hd := Dev.cqSlotAcked_notice s.mem hcopies hholder hz hact hown
      have hfin : (s.dev.cqSlotAcked s.mem q).settled s.mem = _ :=
        (congrArg (Dev.settled · s.mem) hd).trans (Dev.settled_nil s.mem hev)
      refine Answers.quiet (f := fun m d => (d.cqSlotAcked m q).settled m) rfl hok hfin hw
        ⟨SMap.get_put_same .., fun r hne => SMap.get_put_ne _ _ hne .., SMap.get_put_same .., State.onlyParts_of_mask _ ?_⟩
      exact (Dev.setChan_mask (by decide) ..).trans (Dev.setCouch_mask (by decide) ..)

end Sys2Proof.Machine
end


section
/-! PROOFS. URG.COUNT: an error, a read and a write of the stacks count no urgent write. -/

namespace Sys2Proof.Machine

/-- The device but for what the host's function holds: what a mask leaves where an operation does not touch it. -/
abbrev Dev.inner (d : Dev) : Dev := d.mask 264241151

/-- The urgent writes that have been performed. -/
def Dev.urgents (d : Dev) : Nat := d.pci.urgCount

@[simp] theorem Dev.inner_pci (d : Dev) : d.inner.pci = d.pci := rfl

theorem Dev.urgents_congr {d e : Dev} (h : e.inner.urgents = d.inner.urgents) : e.pci.urgCount = d.pci.urgCount := h

@[simp] theorem Dev.urgents_ite (c : Prop) [Decidable c] (a b : Dev) :
    (if c then a else b).urgents = if c then a.urgents else b.urgents := apply_ite _ _ _ _

@[simp] theorem Dev.urgents_foldl {α : Type} (f : Dev → α → Dev) (h : ∀ d x, (f d x).inner.urgents = d.inner.urgents) (l : List α)
    (d : Dev) : (l.foldl f d).inner.urgents = d.inner.urgents :=
  Dev.foldl_keep (fun e : Dev => e.inner.urgents = d.inner.urgents) f (fun e x he => (h e x).trans he) l d rfl

@[simp] theorem Dev.signal_urgents (d : Dev) (v : Nat) : (d.signal v).inner.urgents = d.inner.urgents := by
  unfold Dev.signal
  split <;> rfl

@[simp] theorem Dev.errorSignal_urgents (d : Dev) (ucf : Bool) : (d.errorSignal ucf).inner.urgents = d.inner.urgents := by
  unfold Dev.errorSignal
  simp

@[simp] theorem Dev.pgErrSub_urgents (d : Dev) (cls inst bs code sub p0 p1 p2 : Nat) (always : Bool) :
    (d.pgErrSub cls inst bs code sub p0 p1 p2 always).inner.urgents = d.inner.urgents := by
  unfold Dev.pgErrSub
  simp

@[simp] theorem Dev.pgErr_urgents (d : Dev) (cls inst bs code p0 p1 p2 : Nat) :
    (d.pgErr cls inst bs code p0 p1 p2).inner.urgents = d.inner.urgents := Dev.pgErrSub_urgents ..

@[simp] theorem Dev.stackPoison_urgents (d : Dev) (a n : Nat) : (d.stackPoison a n).inner.urgents = d.inner.urgents :=
  Dev.pgErr_urgents ..

@[simp] theorem Dev.correctedRead_urgents (d : Dev) (a symbols row : Nat) (retention scrub : Bool) :
    (d.correctedRead a symbols row retention scrub).inner.urgents = d.inner.urgents := by
  unfold Dev.correctedRead
  simp

@[simp] theorem Dev.uncorrectableRead_urgents (d : Dev) (a row : Nat) :
    (d.uncorrectableRead a row).inner.urgents = d.inner.urgents := by
  unfold Dev.uncorrectableRead
  simp

@[simp] theorem Dev.noteRead_urgents (d : Dev) (a : Nat) (scrub : Bool) :
    (d.noteRead a scrub).1.inner.urgents = d.inner.urgents := by
  unfold Dev.noteRead
  (repeat' split) <;> simp

@[simp] theorem Dev.noteBytes_urgents (d : Dev) (a n : Nat) : (d.noteBytes a n).inner.urgents = d.inner.urgents := by
  unfold Dev.noteBytes
  simp

@[simp] theorem Dev.noteRegion_urgents (d : Dev) (name o n : Nat) : (d.noteRegion name o n).inner.urgents = d.inner.urgents := by
  unfold Dev.noteRegion
  simp

@[simp] theorem Dev.dieModify_urgents (d : Dev) (a : Nat) (scrub : Bool) :
    (d.dieModify a scrub).1.inner.urgents = d.inner.urgents := by
  unfold Dev.dieModify
  simp; (repeat' split) <;> simp

@[simp] theorem Dev.openLine_urgents (d : Dev) (a : Nat) (whole : Bool) :
    (d.openLine a whole).1.inner.urgents = d.inner.urgents := by
  unfold Dev.openLine
  simp

@[simp] theorem Dev.markWrite_urgents (d : Dev) (a : Nat) (whole poison : Bool) (found : Nat) :
    (d.markWrite a whole poison found).inner.urgents = d.inner.urgents := by
  unfold Dev.markWrite
  simp

@[simp] theorem Dev.writeLine_urgents (d : Dev) (a : Nat) (bs : List Nat) (poison : Bool) :
    (d.writeLine a bs poison).inner.urgents = d.inner.urgents := by
  unfold Dev.writeLine
  simp

@[simp] theorem Dev.writeBytes_urgents (d : Dev) (a : Nat) (bs : List Nat) (poison : Bool) :
    (d.writeBytes a bs poison).inner.urgents = d.inner.urgents := by
  unfold Dev.writeBytes
  simp

@[simp] theorem Dev.writeUnit_urgents (d : Dev) (h o : Nat) (bs : List Nat) (poison : Bool) :
    (d.writeUnit h o bs poison).inner.urgents = d.inner.urgents := by
  unfold Dev.writeUnit
  (repeat' split) <;> simp

theorem Dev.writeRegion_urgents {d e : Dev} {h o : Nat} {bs : List Nat} {poison : Bool} (he : d.writeRegion h o bs poison = some e) :
    e.inner.urgents = d.inner.urgents := by
  unfold Dev.writeRegion Dev.writeEntry at he
  split at he
  · cases he
    simp
  · exact absurd he (by simp)

end Sys2Proof.Machine
end


section
/-! PROOFS. What a spoil leaves as it was (R298): the collectives that it aborts, the vote that it casts, its record and its
completion touch neither the decision of the step nor the couch queues, the posts and the credits of the tiles. -/

namespace Sys2Proof.Machine

/-! ### The relation -/

/-- What of STP the actions after a decision leave. -/
def Stp.kept (x : Stp) : Stp :=
  { Stp.reset with state := x.state, cause := x.cause, causeParam := x.causeParam, opens := x.opens, couch := x.couch }

/-- The fields that the actions may change: those of the stacks, of DOC, of Deckle, of HBX and of COL, and the head of the
step records. -/
def Field.ofSpoil (f : Field) : Bool := [pSTK, pDOC, pDKL, pHBX, pCOL].contains (f.place / 2 ^ 17) || f.place == stpRecheadCount.place

/-- From `d` to `e` no more has happened than the actions of a spoil. -/
structure Dev.SpoilKeeps (d e : Dev) : Prop where
  stp : e.stp.kept = d.stp.kept
  posts : e.posts = d.posts
  credits : ∀ p, (e.tile p).store.creditOwed = (d.tile p).store.creditOwed
  urgent : e.pci.urgCount = d.pci.urgCount
  fields : ∀ (f : Field) i, f.place < 2 ^ 23 → f.ofSpoil = false → e.fget f i = d.fget f i

namespace Dev.SpoilKeeps
variable {d e : Dev}

theorem refl (d : Dev) : d.SpoilKeeps d := ⟨rfl, rfl, fun _ => rfl, rfl, fun _ _ _ _ => rfl⟩

theorem trans {f : Dev} (h : d.SpoilKeeps e) (k : e.SpoilKeeps f) : d.SpoilKeeps f :=
  ⟨k.stp.trans h.stp, k.posts.trans h.posts, fun p => (k.credits p).trans (h.credits p), k.urgent.trans h.urgent,
    fun x i hx hs => (k.fields x i hx hs).trans (h.fields x i hx hs)⟩

/-- An operation that keeps STP, the posts and the tiles. -/
theorem of_parts {F : Nat} (hF : F.testBit 18 = false ∧ F.testBit 9 = false ∧ F.testBit 8 = false) (h : e.mask F = d.mask F)
    (hu : e.pci.urgCount = d.pci.urgCount) (hf : ∀ (f : Field) i, f.place < 2 ^ 23 → f.ofSpoil = false → e.fget f i = d.fget f i) :
    d.SpoilKeeps e := by
  obtain ⟨h18, h9, h8⟩ := hF
  refine ⟨congrArg Stp.kept (Dev.stp_of_mask h18 h), Dev.posts_of_mask h9 h, fun p => ?_, hu, hf⟩
  rw [Dev.tile_congr (Dev.tiles_of_mask h8 h)]

theorem of_mask {F : Nat} (hF : F.testBit 18 = false ∧ F.testBit 9 = false ∧ F.testBit 8 = false ∧ F.testBit 22 = false
    ∧ F.testBit 3 = false) (h : e.mask F = d.mask F) : d.SpoilKeeps e := by
  obtain ⟨h18, h9, h8, h22, h3⟩ := hF
  exact of_parts ⟨h18, h9, h8⟩ h (congrArg Pcie.urgCount (Dev.pci_of_mask h22 h)) fun f i _ _ => Dev.fget_of_mask h3 h f i

theorem of_keeps {F : Nat} {cs : List Nat} (hF : F.testBit 18 = false ∧ F.testBit 9 = false ∧ F.testBit 8 = false)
    (h : e.mask F = d.mask F) (hu : e.pci.urgCount = d.pci.urgCount) (hk : d.KeepsBut cs e)
    (hc : ∀ c ∈ cs, c ∈ [pSTK, pDOC, pDKL, pHBX, pCOL]) : d.SpoilKeeps e := by
  refine of_parts hF h hu fun f i hf hs => hk.keeps f i hf fun hm => ?_
  unfold Field.ofSpoil at hs
  rw [List.contains_iff_mem.mpr (hc _ hm)] at hs
  exact absurd hs (by simp)

theorem fset (h : d.SpoilKeeps e) (x : Field) (i v : Nat) (hx : x.place < 2 ^ 23 ∧ x.ofSpoil = true := by decide) :
    d.SpoilKeeps (e.fset x i v) := by
  refine h.trans ⟨rfl, rfl, fun _ => rfl, rfl, fun f j hf hs => Dev.fget_fset_place _ _ _ _ ⟨hx.1, hf, fun hq => ?_⟩⟩
  unfold Field.ofSpoil at hs hx
  rw [hq, hx.2] at hs
  exact absurd hs (by decide)

theorem fcount (h : d.SpoilKeeps e) (x : Field) (i n : Nat) (hx : x.place < 2 ^ 23 ∧ x.ofSpoil = true := by decide) :
    d.SpoilKeeps (e.fcount x i n) := h.fset x i _ hx

theorem fwrap (h : d.SpoilKeeps e) (x : Field) (i : Nat) (hx : x.place < 2 ^ 23 ∧ x.ofSpoil = true := by decide) :
    d.SpoilKeeps (e.fwrap x i) := h.fset x i _ hx

theorem record (h : d.SpoilKeeps e) (code cls inst p0 p1 p2 : Nat) : d.SpoilKeeps (e.record code cls inst p0 p1 p2) :=
  h.trans (.of_mask (F := 32) (by decide) (Dev.record_mask (by decide) ..))

theorem col (h : d.SpoilKeeps e) (c : Col) : d.SpoilKeeps { e with col := c } :=
  h.trans (.of_mask (F := 1048576) (by decide) (Dev.mask_col (by decide) ..))

theorem foldl {α : Type} {f : Dev → α → Dev} (h : ∀ (e : Dev) x, e.SpoilKeeps (f e x)) (l : List α) (hd : d.SpoilKeeps e) :
    d.SpoilKeeps (l.foldl f e) := Dev.foldl_keep (fun e => d.SpoilKeeps e) f (fun e x he => he.trans (h e x)) l e hd

theorem noteRegion (h : d.SpoilKeeps e) (name o n : Nat) : d.SpoilKeeps (e.noteRegion name o n) :=
  h.trans (.of_keeps (F := 12590137) (by decide) (Dev.noteRegion_mask (by decide) ..)
    (Dev.urgents_congr (Dev.noteRegion_urgents ..)) (Dev.noteRegion_keeps ..) (by decide))

theorem writeRegion {f : Dev} (h : d.SpoilKeeps e) {name o : Nat} {bs : List Nat} {poison : Bool}
    (he : e.writeRegion name o bs poison = some f) : d.SpoilKeeps f :=
  h.trans (.of_keeps (F := 79699001) (by decide) (Dev.writeRegion_mask (by decide) he)
    (Dev.urgents_congr (Dev.writeRegion_urgents he)) (Dev.writeRegion_keeps he) (by decide))

theorem postUnsolicited (h : d.SpoilKeeps e) (kind status p0 p1 p2 : Nat) :
    d.SpoilKeeps (e.postUnsolicited kind status p0 p1 p2) := by
  have hm := Dev.postUnsolicited_mask (F := 2097192) (by decide) e kind status p0 p1 p2
  refine h.trans (.of_keeps (cs := [pHBX]) (by decide) hm (congrArg Pcie.urgCount (Dev.pci_of_mask (by decide) hm)) ?_ (by decide))
  unfold Dev.postUnsolicited
  dsimp only
  split
  · exact Dev.dropCompletions_keeps ..
  · exact Dev.postCq_keeps ..

end Dev.SpoilKeeps

/-! ### Collectives that are aborted -/

section
variable {d : Dev}

theorem Dev.dropInst_spoil (d : Dev) (k : Nat) : d.SpoilKeeps (d.dropInst k) :=
  .of_mask (F := 524288) (by decide) (Dev.dropInst_mask (by decide) ..)

theorem Dev.onInst_spoil (d : Dev) (k : Nat) (f : Inst → Inst) : d.SpoilKeeps (d.onInst k f) :=
  .of_mask (F := 1048576) (by decide) (Dev.onInst_mask (by decide) ..)

theorem Dev.colTell_spoil (d : Dev) (i : Inst) (r op : Nat) (bs : List Nat) : d.SpoilKeeps (d.colTell i r op bs) :=
  .of_mask (F := 524288) (by decide) (Dev.colTell_mask (by decide) ..)

/-- A collective that ends aborted. -/
theorem Dev.colComplete_spoil (d : Dev) (k : Nat) (a : AbortRec) (na : Bool) : d.SpoilKeeps (d.colComplete k (some a) na) := by
  unfold Dev.colComplete
  cases d.inst k with
  | none => exact .refl d
  | some i =>
    dsimp only
    refine .col (.record (.fset (.fset (.fset (.fset (.fset (.fcount ?_ ..) ..) ..) ..) ..) ..) ..) _
    rw [if_neg (show ¬ ((some a).isNone = true ∧ (!decide (1024 ≤ k)) = true ∧ (!i.flag 0) = true) from fun h => by cases h.1)]
    split
    · exact .refl d
    · refine .postUnsolicited ?_ ..
      split
      next hw => exact (SpoilKeeps.refl d).writeRegion hw
      next => exact (SpoilKeeps.refl d).record ..

theorem Dev.colDecide_spoil (d : Dev) (k : Nat) (a : AbortRec) : d.SpoilKeeps (d.colDecide k (some a)) := by
  unfold Dev.colDecide
  split
  · exact .refl d
  · exact (SpoilKeeps.foldl (fun e _ => Dev.colTell_spoil e ..) _ (Dev.dropInst_spoil d k)).trans (Dev.colComplete_spoil ..)

theorem Dev.colAbort_spoil (d : Dev) (k code rank chunk : Nat) : d.SpoilKeeps (d.colAbort k code rank chunk) := by
  unfold Dev.colAbort
  cases d.inst k with
  | none => exact .refl d
  | some i =>
    dsimp only
    split
    · exact .refl d
    · have hd := (Dev.dropInst_spoil d k).trans (Dev.onInst_spoil _ k fun x =>
        { x with abort := some ⟨code, rank, chunk, i.rank⟩ })
      split
      · exact hd.trans (Dev.colDecide_spoil ..)
      · split
        · exact hd.trans (.of_mask (F := 524288) (by decide) (Dev.colHurry_mask (by decide) ..))
        · exact hd

theorem Dev.colAbortWhere_spoil (d : Dev) (p : Inst → Bool) (code : Nat) : d.SpoilKeeps (d.colAbortWhere p code) :=
  .foldl (fun e _ => Dev.colAbort_spoil e ..) _ (.refl d)

/-! ### The bad vote -/

theorem Dev.tellExcl_spoil (d : Dev) (k b : Nat) : d.SpoilKeeps (d.tellExcl k b) := by
  unfold Dev.tellExcl
  split
  · exact .refl d
  · dsimp only
    split
    · exact (SpoilKeeps.fcount (.refl d) ..).trans (Dev.colTell_spoil ..)
    · exact .fcount (.refl d) ..

theorem Dev.replayExcl_spoil (d : Dev) (m : Mem) (i : Inst) : d.SpoilKeeps (d.replayExcl m i).1 := by
  unfold Dev.replayExcl
  split
  · exact Dev.foldl_keep (fun st : Dev × List (Nat × Nat) => d.SpoilKeeps st.1) _ (fun _ _ h => h.noteRegion ..) _ _ (.refl d)
  · exact .refl d

/-- A collective of no step counts in no step's record. -/
theorem Dev.addInst_spoil (d : Dev) {i : Inst} (h : i.step = none) : d.SpoilKeeps (d.addInst i) := by
  have hd : d.addInst i = { d with col := { d.col with insts := d.col.insts ++ [i] } } := by
    unfold Dev.addInst
    rw [h]
    rfl
  rw [hd]
  exact .col (.refl d) _

theorem Dev.colStart_spoil (d : Dev) (m : Mem) (k : Nat) (raw : List Nat) : d.SpoilKeeps (d.colStart m k raw none) := by
  unfold Dev.colStart
  dsimp only
  have hd : ∀ i : Inst, i.step = none → d.SpoilKeeps (((d.noteRegion (d.fget colGrpregHandle (ofLE ((raw.drop 40).take 1)))
      (d.groupOff (ofLE ((raw.drop 40).take 1))) (16 * (d.fget colGrpcfgNm1 (ofLE ((raw.drop 40).take 1)) + 1))).addInst i).fset
      colGrpbankLastbank (ofLE ((raw.drop 40).take 1)) (d.fget colGrpbankNextbank (ofLE ((raw.drop 40).take 1)))) :=
    fun i hi => (((SpoilKeeps.refl d).noteRegion ..).trans (Dev.addInst_spoil _ hi)).fset ..
  split
  · exact (hd _ rfl).trans (Dev.colComplete_spoil ..)
  · split
    · exact (hd _ rfl).trans (Dev.colAbort_spoil ..)
    · split
      · exact (hd _ rfl).trans (Dev.colAbort_spoil ..)
      · have hn : ∀ (e : Dev) (i : Inst), d.SpoilKeeps e →
            d.SpoilKeeps (if i.op = 5 then e.noteRegion (i.handle 2) (i.off 2) (24 * i.f 96 4) else e) := by
          intro e i he
          split
          · exact he.noteRegion ..
          · exact he
        split
        · exact (hn _ _ (hd _ rfl)).trans (Dev.colAbort_spoil ..)
        · exact .foldl (fun e _ => Dev.tellExcl_spoil e ..) _
            (((hn _ _ (hd _ rfl)).trans (Dev.replayExcl_spoil ..)).trans (Dev.onInst_spoil ..))

theorem Dev.castBadVote_spoil (d : Dev) (m : Mem) : d.SpoilKeeps (d.castBadVote m) := by
  have hc : d.SpoilKeeps { d with stp := { d.stp with voteCast := true } } := ⟨rfl, rfl, fun _ => rfl, rfl, fun _ _ _ _ => rfl⟩
  unfold Dev.castBadVote
  dsimp only
  split
  · exact hc
  · exact (hc.trans (Dev.colStart_spoil ..)).trans (Dev.colAbort_spoil ..)

end

end Sys2Proof.Machine
end


section
/-! PROOFS. A step spoils (R298): the decision, the barriers that break, and what is left as it was. -/

namespace Sys2Proof.Machine

/-! ### Barriers -/

theorem Tile.releaseArrival_credit (t : Tile) (b status : Nat) :
    (t.releaseArrival b status).store.creditOwed = t.store.creditOwed := by
  unfold Tile.releaseArrival
  split <;> rfl

theorem Dev.breakBar_spoil (d : Dev) (b cause : Nat) : d.SpoilKeeps (d.breakBar b cause) := by
  have hm := Dev.breakBar_mask (F := 332064) (by decide) d b cause
  refine ⟨?_, Dev.posts_of_mask (by decide) hm, fun p => ?_, congrArg Pcie.urgCount (Dev.pci_of_mask (by decide) hm),
    fun f i _ _ => Dev.fget_of_mask (by decide) hm f i⟩
  · unfold Dev.breakBar
    dsimp only
    have hr : (d.releaseArrivals b 1 (d.waitingAt b) false).stp = d.stp :=
      Dev.stp_of_mask (F := 65792) (by decide) (Dev.releaseArrivals_mask (by decide) ..)
    refine (congrArg Stp.kept (Dev.stp_of_mask (F := 32) (by decide) (Dev.record_mask (by decide) ..))).trans ?_
    generalize d.releaseArrivals b 1 (d.waitingAt b) false = e at hr ⊢
    rw [← hr]
    split <;> split <;> rfl
  · rw [(Dev.breakBar_spec d b cause).2.1 p]
    split
    · exact Tile.releaseArrival_credit ..
    · rfl

/-- One barrier in its turn: it breaks where its COUNT is not 0. -/
def Dev.breakCounted (d : Dev) (b : Nat) : Dev :=
  if (d.bar b).count = 0 then d else d.fresh.2.breakBar b (d.fresh.1 % 2 ^ 32)

theorem Dev.breakAll_eq (d : Dev) : d.breakAll = (d.syn.bars.map (fun e => e.1)).foldl Dev.breakCounted d := rfl

theorem Dev.breakCounted_spoil (d : Dev) (b : Nat) : d.SpoilKeeps (d.breakCounted b) := by
  unfold Dev.breakCounted
  split
  · exact .refl d
  · have hf : d.SpoilKeeps d.fresh.2 := ⟨rfl, rfl, fun _ => rfl, rfl, fun _ _ _ _ => rfl⟩
    exact hf.trans (Dev.breakBar_spoil d.fresh.2 b _)

theorem Dev.breakCounted_bar (d : Dev) (b c : Nat) :
    ((d.breakCounted b).bar c).count = (d.bar c).count
    ∧ ((d.bar c).broken = true ∨ c = b ∧ (d.bar c).count ≠ 0 → ((d.breakCounted b).bar c).broken = true) := by
  unfold Dev.breakCounted
  by_cases h0 : (d.bar b).count = 0
  · rw [if_pos h0]
    refine ⟨rfl, fun h => h.resolve_right fun hc => hc.2 ?_⟩
    rw [hc.1, h0]
  · rw [if_neg h0]
    obtain ⟨hself, -, hother⟩ := Dev.breakBar_spec d.fresh.2 b (d.fresh.1 % 2 ^ 32)
    by_cases hc : c = b
    · subst hc
      exact ⟨(congrArg Barrier.count hself).trans rfl, fun _ => congrArg Barrier.broken hself⟩
    · have ho : (d.fresh.2.breakBar b (d.fresh.1 % 2 ^ 32)).bar c = d.bar c := hother c hc
      rw [ho]
      exact ⟨rfl, fun h => h.resolve_right fun hq => hc hq.1⟩

theorem SMap.mem_of_find {α : Type} {k : Nat} {v : α} {m : SMap α} (h : SMap.find k m = some v) : (k, v) ∈ m := by
  induction m with
  | nil => cases h
  | cons e m ih =>
    obtain ⟨j, w⟩ := e
    unfold SMap.find at h
    split at h
    next hj =>
      cases h
      exact hj ▸ List.mem_cons_self ..
    next => exact List.mem_cons_of_mem _ (ih h)

/-- Every barrier with a COUNT breaks. -/
theorem Dev.breakAll_broken (d : Dev) {b : Nat} (h : (d.bar b).count ≠ 0) : (d.breakAll.bar b).broken = true := by
  have hfold : ∀ (l : List Nat) (e : Dev), (e.bar b).count ≠ 0 → b ∈ l ∨ (e.bar b).broken = true →
      ((l.foldl Dev.breakCounted e).bar b).broken = true := by
    intro l
    induction l with
    | nil => exact fun e _ hb => hb.resolve_left (List.not_mem_nil)
    | cons c l ih =>
      intro e hc hb
      obtain ⟨hcount, hbroken⟩ := e.breakCounted_bar c b
      refine ih _ (by rw [hcount]; exact hc) ?_
      rcases hb with hb | hb
      · rcases List.mem_cons.mp hb with rfl | hb
        · exact .inr (hbroken (.inr ⟨rfl, hc⟩))
        · exact .inl hb
      · exact .inr (hbroken (.inl hb))
  rw [Dev.breakAll_eq]
  refine hfold _ d h (.inl ?_)
  cases hf : SMap.find b d.syn.bars with
  | none =>
    refine absurd ?_ h
    show (SMap.get Barrier.reset b d.syn.bars).count = 0
    unfold SMap.get
    rw [hf]
    rfl
  | some x => exact List.mem_map.mpr ⟨(b, x), SMap.mem_of_find hf, rfl⟩

theorem Dev.breakAll_spoil (d : Dev) : d.SpoilKeeps d.breakAll := by
  rw [Dev.breakAll_eq]
  exact .foldl Dev.breakCounted_spoil _ (.refl d)

/-! ### The waiting tiles and the record -/

theorem Tile.releaseCommit_credit (t : Tile) (status : Nat) : (t.releaseCommit status).store.creditOwed = t.store.creditOwed := by
  unfold Tile.releaseCommit
  split <;> rfl

theorem Dev.releaseCommits_spoil (d : Dev) (status : Nat) : d.SpoilKeeps (d.releaseCommits status) := by
  have htile : ∀ (e : Dev) (p : Nat), e.SpoilKeeps (e.onTile p fun t => t.releaseCommit status) := by
    refine fun e p => ⟨rfl, rfl, fun q => ?_, rfl, fun _ _ _ _ => rfl⟩
    rw [Dev.tile_onTile]
    split
    next hq => rw [hq]; exact Tile.releaseCommit_credit ..
    next => rfl
  unfold Dev.releaseCommits
  dsimp only
  exact .trans (.foldl htile d.stp.waiting (.refl d)) ⟨rfl, rfl, fun _ => rfl, rfl, fun _ _ _ _ => rfl⟩

theorem Dev.writeStepRecord_spoil (d : Dev) (spoiled : Bool) : d.SpoilKeeps (d.writeStepRecord spoiled) := by
  have hd : d.SpoilKeeps { d with stp := { d.stp with ndrop := 0, lateIn := 0 } } := ⟨rfl, rfl, fun _ => rfl, rfl, fun _ _ _ _ => rfl⟩
  unfold Dev.writeStepRecord
  dsimp only
  split
  · exact hd
  · split
    · split
      next hw => exact (hd.writeRegion hw).fwrap ..
      next => exact hd.record ..
    · exact hd.record ..

/-! ### The spoil -/

/-- A step has spoiled, from `d` to `e`. -/
structure Dev.Spoiled (d e : Dev) (cause param : Nat) : Prop where
  stp : e.stp.kept = { d.stp with state := .spoiled, cause := cause, causeParam := param }.kept
  posts : e.posts = d.posts
  credits : ∀ p, (e.tile p).store.creditOwed = (d.tile p).store.creditOwed
  urgent : e.pci.urgCount = d.pci.urgCount
  count : e.fget stpSpoilcntCount 0 = satAdd (2 ^ stpSpoilcntCount.width - 1) (d.fget stpSpoilcntCount 0) 1
  fields : ∀ (f : Field) i, f.place < 2 ^ 23 → f.ofSpoil = false → f.place ≠ stpSpoilcntCount.place → e.fget f i = d.fget f i
  bars : ∀ b, (d.bar b).count ≠ 0 → (e.bar b).broken = true

theorem Dev.spoilNow_spoiled (d : Dev) (m : Mem) (cause param : Nat) : d.Spoiled (d.spoilNow m cause param) cause param := by
  let d₁ : Dev := { d with stp := { d.stp with
    state := .spoiled, cause := cause, causeParam := param, ndrop := d.stp.ndrop + d.stp.lateIn, lateIn := 0
    copyPending := false } }
  let d₂ : Dev := d₁.fcount stpSpoilcntCount 0 1
  let d₃ : Dev := d₂.colAbortWhere (fun i => i.step == some d.curStep) 0x0A
  let vote := d.stp.state == .opened && d.fbit stpCmtgrpEn 0 && !d.stp.voteCast
  let d₄ : Dev := d₃.breakAll.releaseCommits 1
  let d₅ : Dev := (if vote then d₄.castBadVote m else d₄).writeStepRecord true
  have hd : d.spoilNow m cause param = (d₅.record 0x5006 pSTP 0 d.curStep cause param).postUnsolicited 3 1 d.curStep cause param := rfl
  have h34 : d₂.SpoilKeeps d₄ := ((Dev.colAbortWhere_spoil ..).trans (Dev.breakAll_spoil _)).trans (Dev.releaseCommits_spoil ..)
  have h4v : d₄.SpoilKeeps (if vote then d₄.castBadVote m else d₄) := by
    split
    · exact Dev.castBadVote_spoil ..
    · exact .refl _
  have h25 : d₂.SpoilKeeps d₅ := (h34.trans h4v).trans (Dev.writeStepRecord_spoil ..)
  have hall : d₂.SpoilKeeps (d.spoilNow m cause param) := by
    rw [hd]
    exact (h25.record ..).postUnsolicited ..
  have hsyn3 : d₃.syn = d.syn :=
    (Dev.syn_of_mask (F := 83369273) (by decide) (Dev.colAbortWhere_mask (F := 83369273) (by decide) ..)).trans rfl
  have hsyn : (d.spoilNow m cause param).syn = d₃.breakAll.syn := by
    have hcast : (if vote then d₄.castBadVote m else d₄).syn = d₄.syn := by
      split
      · exact Dev.syn_of_mask (F := 83631417) (by decide) (Dev.castBadVote_mask (by decide) ..)
      · rfl
    rw [hd]
    refine (Dev.syn_of_mask (F := 2097192) (by decide) (Dev.postUnsolicited_mask (by decide) ..)).trans ?_
    refine (Dev.syn_of_mask (F := 32) (by decide) (Dev.record_mask (by decide) ..)).trans ?_
    refine (Dev.syn_of_mask (F := 79961145) (by decide) (Dev.writeStepRecord_mask (by decide) ..)).trans ?_
    exact hcast.trans (Dev.syn_of_mask (F := 262400) (by decide) (Dev.releaseCommits_mask (by decide) ..))
  have hbar : ∀ b, d₃.bar b = d.bar b := fun b => congrArg (fun x : Syn => SMap.get Barrier.reset b x.bars) hsyn3
  refine ⟨hall.stp.trans rfl, hall.posts, hall.credits, hall.urgent, ?_, fun f i hf hs hne => ?_, fun b hb => ?_⟩
  · exact (hall.fields stpSpoilcntCount 0 (by decide) (by decide)).trans (Dev.fget_fcount_sat d₁ ..)
  · exact (hall.fields f i hf hs).trans (Dev.fget_fset_place d₁ _ _ _ ⟨by decide, hf, hne⟩)
  · have hb3 : (d₃.bar b).count ≠ 0 := by rw [hbar]; exact hb
    exact (congrArg (fun x : Syn => (SMap.get Barrier.reset b x.bars).broken) hsyn).trans (d₃.breakAll_broken hb3)

/-! ### Settling after a spoil -/

/-- What the collectives hand over concerns a spoiled step no more. -/
theorem Dev.colSettle_spoiled {d : Dev} (m : Mem) (h : d.stp.state = .spoiled) :
    d.colSettle m = { d with col := { d.col with events := [] } } := by
  unfold Dev.colSettle
  dsimp only
  refine Dev.foldl_keep (fun e : Dev => e = { d with col := { d.col with events := [] } }) _ ?_ _ _ rfl
  rintro e x rfl
  dsimp only
  rw [h]
  simp

theorem Dev.settled_spoiled {d : Dev} (m : Mem) (h : d.stp.state = .spoiled) :
    d.settled m = { d with col := { d.col with events := [] } } := by
  unfold Dev.settled
  rw [Dev.colSettle_spoiled m h]
  exact Dev.colSettle_spoiled m h

theorem Dev.Spoiled.state {d e : Dev} {cause param : Nat} (h : d.Spoiled e cause param) :
    e.stp.state = .spoiled ∧ e.stp.cause = cause ∧ e.stp.causeParam = param ∧ e.stp.opens = d.stp.opens ∧ e.stp.couch = d.stp.couch :=
  ⟨(congrArg Stp.state h.stp).trans rfl, (congrArg Stp.cause h.stp).trans rfl, (congrArg Stp.causeParam h.stp).trans rfl,
    (congrArg Stp.opens h.stp).trans rfl, (congrArg Stp.couch h.stp).trans rfl⟩

theorem Dev.Spoiled.settled {d e : Dev} {cause param : Nat} (h : d.Spoiled e cause param) (m : Mem) :
    d.Spoiled (e.settled m) cause param := by
  rw [Dev.settled_spoiled m h.state.1]
  exact ⟨h.stp, h.posts, h.credits, h.urgent, h.count, h.fields, h.bars⟩

end Sys2Proof.Machine
end


section
/-! PROOFS. The urgent page (R394). -/

namespace Sys2Proof.Machine

/-! ### Stopped channels -/

/-- A channel that an urgent write names. -/
def Channel.urgStopped (x : Channel) (v c : Nat) (stopped : Bool) : Channel :=
  if x.state ≠ .closed ∧ (bit v 12 = true ∨ c = v % 4096) then { x with stopped := stopped } else x

theorem Channel.urgStopped_key (x : Channel) (v j c : Nat) (stopped : Bool) (hj : j % 4096 = c) :
    (if x.state != .closed && (bit v 12 || j % 4096 == v % 4096) then (j, { x with stopped := stopped }) else (j, x))
      = (j, x.urgStopped v c stopped) := by
  unfold Channel.urgStopped
  rw [hj]
  simp only [Bool.and_eq_true, Bool.or_eq_true, bne_iff_ne, beq_iff_eq]
  split <;> rfl

theorem Dev.urgStop_chan (d : Dev) (v : Nat) (stopped : Bool) (e : Nat) {c : Nat} (hc : c < 4096) :
    (d.urgStop v stopped).chan e c = (d.chan e c).urgStopped v c stopped := by
  have hk : chanKey e c % 4096 = c := by unfold chanKey; omega
  have hm : SMap.find (chanKey e c) (d.urgStop v stopped).brezin.chans
      = (SMap.find (chanKey e c) d.brezin.chans).map fun x => x.urgStopped v c stopped := by
    refine SMap.find_mapKey _ _ _ _ (fun k => ?_) fun x => ?_
    · dsimp only
      split <;> rfl
    · exact congrArg Prod.snd (x.urgStopped_key v (chanKey e c) c stopped hk)
  have hr : Channel.reset.urgStopped v c stopped = .reset := if_neg fun h => h.1 rfl
  unfold Dev.chan SMap.get
  rw [hm]
  cases SMap.find (chanKey e c) d.brezin.chans with
  | none => exact hr.symm
  | some x => rfl

theorem Answers.urgStop {c : Instr} {s : State} {v : Nat} {stopped : Bool}
    (he : exec c s = run (fun _ d => d.host fun d => d.urgent.urgStop v stopped) s)
    (hw : s.dev.wout = []) (ha : s.dev.answers = true) : Answers c s fun t =>
      t.dev.pci = { s.dev.pci with urgCount := (s.dev.pci.urgCount + 1) % 2 ^ 32 }
      ∧ (∀ e c, c < 4096 → t.dev.chan e c = (s.dev.chan e c).urgStopped v c stopped) ∧ s.OnlyParts t [.brezin, .pci] :=
  Answers.hostParts [.brezin, .pci] (g := fun _ d => d.urgent.urgStop v stopped) (ok := true) he rfl ha hw
    ((Dev.urgStop_mask (by decide) ..).trans (Dev.urgent_mask (by decide) s.dev)) (by decide) fun ho =>
    ⟨rfl, fun e _ hc => Dev.urgStop_chan s.dev.urgent v stopped e hc, ho⟩

/-! ### STOP and RESUME to a device -/

/-- What is routed to a port joins its queue, and nothing else changes. -/
theorem Dev.emit_routed_mask {d : Dev} {e vl : Nat} {p : Packet} {g : Nat} (h : d.route p.dst p.src p.dchan = .port g) :
    (d.emit e vl p).mask (partsMask [.brezin]) = d.mask (partsMask [.brezin]) := by
  have hr : d.route (withTtl p (d.fget bzeTtlInit 0)).dst (withTtl p (d.fget bzeTtlInit 0)).src
      (withTtl p (d.fget bzeTtlInit 0)).dchan = .port g := h
  unfold Dev.emit
  dsimp only
  rw [hr]
  exact Dev.setPort_mask (by decide) ..

theorem Answers.urgPeer {c : Instr} {s : State} {v op p : Nat}
    (he : exec c s = run (fun _ d => d.host fun d => d.urgent.urgPeer v op) s)
    (hw : s.dev.wout = []) (ha : s.dev.answers = true) (hp : s.dev.route (v % 2 ^ 20) s.dev.devId 0xFFF = .port p) :
    Answers c s fun t =>
      t.dev.pci = { s.dev.pci with urgCount := (s.dev.pci.urgCount + 1) % 2 ^ 32 }
      ∧ (∃ k, k < 4096 ∧ (t.dev.port p).queue = (s.dev.port p).queue ++ [⟨0,
          withTtl { dst := v % 2 ^ 20, src := s.dev.devId, op := op, flags := 0, dchan := 0xFFF, schan := k, seq := 0, len := 0
                    arg := 0, payload := [] } (s.dev.fget bzeTtlInit 0), none⟩])
      ∧ s.OnlyParts t [.brezin, .pci, .free] := by
  have he' : (s.dev.urgent.urgPeer v op).mask (partsMask [.brezin]) = s.dev.urgent.fresh.2.mask (partsMask [.brezin]) :=
    Dev.emit_routed_mask (d := s.dev.urgent.fresh.2) hp
  have hm : (s.dev.urgent.urgPeer v op).mask (partsMask [.brezin, .pci, .free]) = s.dev.mask (partsMask [.brezin, .pci, .free]) :=
    (Dev.mask_sub (by decide) he').trans rfl
  refine Answers.hostParts [.brezin, .pci, .free] (g := fun _ d => d.urgent.urgPeer v op) (ok := true) he rfl ha hw hm (by decide) fun ho =>
    ⟨Dev.pci_of_mask (F := partsMask [.brezin]) (by decide) he', ⟨s.dev.fresh.1 % 4096, Nat.mod_lt _ (by decide), ?_⟩, ho⟩
  exact Dev.emit_routed s.dev.urgent.fresh.2 _ 0 _ hp

/-! ### Stopped queues -/

/-- The bits that an SQSTOP or SQGO value names. -/
def sqWord (high : Bool) (v : Nat) : Nat := v % 2 ^ 32 * (if high then 2 ^ 32 else 1)

/-- Taking away bits that are set clears them and no other bit. -/
theorem testBit_sub_and (i : Nat) : ∀ n w : Nat, (n - (n &&& w)).testBit i = (n.testBit i && !w.testBit i) := by
  have hlow : ∀ n w : Nat, (n &&& w) % 2 = n % 2 * (w % 2) := fun n w => by
    have hm : (n &&& w) % 2 = n % 2 &&& w % 2 := Nat.and_mod_two_pow (n := 1)
    rcases Nat.mod_two_eq_zero_or_one n with h | h <;> rcases Nat.mod_two_eq_zero_or_one w with h' | h' <;> simp [hm, h, h']
  have hhalf : ∀ n w : Nat, (n &&& w) / 2 = n / 2 &&& w / 2 := fun n w => Nat.and_div_two
  induction i with
  | zero =>
    intro n w
    have hle : n &&& w ≤ n := Nat.and_le_left
    have hl := hlow n w
    have hs : (n - (n &&& w)) % 2 = n % 2 * (1 - w % 2) := by
      rcases Nat.mod_two_eq_zero_or_one n with h | h <;> rcases Nat.mod_two_eq_zero_or_one w with h' | h' <;>
        rw [h, h'] at hl ⊢ <;> omega
    simp only [Nat.testBit_zero, hs]
    rcases Nat.mod_two_eq_zero_or_one n with h | h <;> rcases Nat.mod_two_eq_zero_or_one w with h' | h' <;> simp [h, h']
  | succ i ih =>
    intro n w
    have hle : n &&& w ≤ n := Nat.and_le_left
    have hle' : n / 2 &&& w / 2 ≤ n / 2 := Nat.and_le_left
    have hl := hlow n w
    have hh := hhalf n w
    have hs : (n - (n &&& w)) / 2 = n / 2 - (n / 2 &&& w / 2) := by
      rcases Nat.mod_two_eq_zero_or_one n with h | h <;> rcases Nat.mod_two_eq_zero_or_one w with h' | h' <;>
        rw [h, h'] at hl <;> omega
    rw [Nat.testBit_succ, Nat.testBit_succ, Nat.testBit_succ, hs, ih]

theorem bit_sub_and (n w i : Nat) : bit (n - (n &&& w)) i = (bit n i && !bit w i) := by
  simp only [bit_eq_testBit, testBit_sub_and]

/-! ### The obligation -/

/-- Settles O52: each write of the urgent page acts as its own lemma above says, and a spoil as every spoil does. -/
theorem urgentPage : Obligations.UrgentPage := by
  unfold Obligations.UrgentPage
  intro s v hw hev ha
  refine ⟨Answers.urgStop rfl hw ha, Answers.urgStop rfl hw ha, fun p hp => ⟨Answers.urgPeer rfl hw ha hp, Answers.urgPeer rfl hw ha hp⟩,
    fun high => ⟨?_, ?_⟩, fun hb hs => ?_, fun hb => ?_⟩
  · refine Answers.hostParts [.hbx, .pci] (g := fun _ d => d.urgSqStop high v) (ok := true) rfl rfl ha hw
      (Dev.urgSqStop_mask (by decide) ..) (by decide) fun ho => ⟨rfl, fun i => ?_, ho⟩
    refine (bit_or s.dev.hbx.sqStop (sqWord high v) i).trans ?_
    show _ = if bit (sqWord high v) i then true else _
    cases bit (sqWord high v) i <;> simp
  · refine Answers.hostParts [.hbx, .pci] (g := fun _ d => d.urgSqGo high v) (ok := true) rfl rfl ha hw
      (Dev.urgSqGo_mask (by decide) ..) (by decide) fun ho => ⟨rfl, fun i => ?_, ho⟩
    refine (bit_sub_and s.dev.hbx.sqStop (sqWord high v) i).trans ?_
    show _ = if bit (sqWord high v) i then false else _
    cases bit (sqWord high v) i <;> simp
  · have hf : s.dev.host (fun d => (d.urgSpoil s.mem v).settled s.mem) = (s.dev.urgent.spoilNow s.mem 1 0).settled s.mem := by
      rw [Dev.host_on ha]
      unfold Dev.urgSpoil Dev.hostSpoil
      rw [if_pos hb, if_pos (show s.dev.urgent.stp.state = .opened from hs)]
    have hsp := (s.dev.urgent.spoilNow_spoiled s.mem 1 0).settled s.mem
    refine Answers.of_run (f := fun m d => d.host fun d => (d.urgSpoil m v).settled m) rfl ?_
    unfold State.after
    dsimp only
    rw [hf]
    exact ⟨hsp.state.1, hsp.state.2.1, hsp.urgent⟩
  · have hf : (s.dev.urgSpoil s.mem v).settled s.mem = s.dev.urgent := by
      have hu : s.dev.urgSpoil s.mem v = s.dev.urgent := by
        unfold Dev.urgSpoil Dev.hostSpoil
        rcases hb with hb | hb
        · rw [hb]; rfl
        · rw [if_neg (show ¬ s.dev.urgent.stp.state = .opened from hb), ite_self]
      rw [hu]
      exact Dev.settled_nil s.mem hev
    refine Answers.hostParts [.pci] (g := fun m d => (d.urgSpoil m v).settled m) (ok := true) rfl rfl ha hw
      ((congrArg (Dev.mask _) hf).trans (Dev.urgent_mask (by decide) ..)) (by decide) fun ho => ?_
    dsimp only at ho ⊢
    rw [hf] at ho ⊢
    exact ⟨rfl, ho⟩

end Sys2Proof.Machine
end


section
/-! PROOFS. Couch queues and the posts to STP (R311 to R316, R320). -/

namespace Sys2Proof.Machine

/-- A command that may store: what holds of the device it leaves. -/
theorem Answers.ends {c : Instr} {ok : Bool} {f : Mem → Dev → Dev} {s : State} {P : State → Prop} {d' : Dev}
    (he : exec c s = runIf ok f s) (h : ok = true) (hf : f s.mem s.dev = d')
    (hp : ∀ t : State, t.dev = { d' with wout := [] } → P t) : Answers c s P :=
  Answers.of_runIf he h (hp _ (by subst hf; rfl))

/-! ### The post is taken -/

/-- The tile's only post, to STP, has been taken, and its credit is owed. -/
def Dev.stpTaken (d : Dev) (p : Nat) : Dev :=
  { d with posts := [] }.onTile p fun t =>
    { t with store := { t.store with creditOwed := SMap.modify 0 2 (· + 1) t.store.creditOwed } }

theorem Dev.takePost_only {d : Dev} {o : Post} {f : Nat → Bool} (h : d.posts = [o]) (ht : o.target = 2) (hf : f o.value = true) :
    d.takePost o.tile 2 f = some (o, d.stpTaken o.tile) := by
  have hfind : d.posts.find? (fun q => q.tile == o.tile && q.target == 2) = some o := by
    rw [h]
    exact List.find?_cons_of_pos (by simp [ht])
  have herase : d.posts.erase o = [] := by
    rw [h]
    exact List.erase_cons_head ..
  unfold Dev.takePost
  rw [hfind]
  dsimp only
  rw [if_pos hf, herase]
  rfl

/-- After a post of tile `p` was taken in `d`, and whatever kept the posts and the credits. -/
theorem Dev.stpTaken_credit (d : Dev) (p : Nat) :
    SMap.get 0 2 ((d.stpTaken p).tile p).store.creditOwed = SMap.get 0 2 (d.tile p).store.creditOwed + 1 := by
  unfold Dev.stpTaken
  rw [Dev.tile_onTile, if_pos rfl]
  dsimp only
  unfold SMap.modify
  rw [SMap.get_put_same]
  rfl

theorem Dev.stpTaken_owed (d : Dev) {e : Dev} {p : Nat}
    (h : (e.tile p).store.creditOwed = ((d.stpTaken p).tile p).store.creditOwed) :
    SMap.get 0 2 (e.tile p).store.creditOwed = SMap.get 0 2 (d.tile p).store.creditOwed + 1 := by
  rw [h, d.stpTaken_credit p]

/-! ### A queue that moves -/

/-- An event that is rung keeps what the tiles owe. -/
theorem Dev.doorbell_credit (d : Dev) (kind src p : Nat) :
    ((d.doorbell kind src).tile p).store.creditOwed = (d.tile p).store.creditOwed := by
  cases hpl : d.deckle.placement with
  | none => unfold Dev.doorbell; rw [hpl]
  | some pl =>
    rw [Dev.doorbell_placed hpl]
    refine Dev.foldl_keep (fun e : Dev => (e.tile p).store.creditOwed = (d.tile p).store.creditOwed) _ (fun e b he => ?_) _ _ rfl
    unfold Dev.bindStep
    split
    · split
      · rw [Dev.tile_onTile]
        split
        next hq => subst hq; exact he
        next => exact he
      · exact he
    · exact he

/-- A queue of the ring moves, its header is written and an event is rung: the posts, the credits and the rest of STP stay. -/
theorem Dev.ringMoved_stp (d : Dev) (q : Nat) (y : Couch) (tag : Option Nat) (kind src : Nat) :
    let d' := ((d.setCouch q y).cqHeader q tag).doorbell kind src
    d'.stp = (d.setCouch q y).stp ∧ d'.posts = d.posts ∧ d'.col = d.col
    ∧ ∀ p, (d'.tile p).store.creditOwed = (d.tile p).store.creditOwed := by
  have hm := Dev.cqHeader_mask (F := 79699001) (by decide) (d.setCouch q y) q tag
  have hbell := Dev.doorbell_mask (F := 256) (by decide) ((d.setCouch q y).cqHeader q tag) kind src
  refine ⟨(Dev.stp_of_mask (by decide) hbell).trans (Dev.stp_of_mask (by decide) hm),
    (Dev.posts_of_mask (by decide) hbell).trans ((Dev.posts_of_mask (by decide) hm).trans rfl),
    (Dev.col_of_mask (by decide) hbell).trans ((Dev.col_of_mask (by decide) hm).trans rfl), fun p => ?_⟩
  rw [Dev.doorbell_credit, Dev.tile_congr (Dev.tiles_of_mask (by decide) hm)]
  rfl

/-- The same of a tile's post, as its command ends. -/
theorem Answers.moved {c : Instr} {f : Mem → Dev → Dev} {s : State} {p q kind src : Nat} {y : Couch} {tag : Option Nat}
    (he : exec c s = runIf (tileOk p) (fun m d => (f m d).settled m) s) (hp : p < 68) (hev : s.dev.col.events = [])
    (hopen : s.dev.stp.state = .opened)
    (hf : f s.mem s.dev = (((s.dev.stpTaken p).setCouch q y).cqHeader q tag).doorbell kind src) :
    Answers c s fun t =>
      (t.dev.posts = []
        ∧ SMap.get 0 2 (t.dev.tile p).store.creditOwed = SMap.get 0 2 (s.dev.tile p).store.creditOwed + 1)
      ∧ t.dev.couch q = y ∧ (∀ r, r ≠ q → t.dev.couch r = s.dev.couch r) ∧ t.dev.stp.state = .opened := by
  obtain ⟨hstp, hposts, hcol, hcred⟩ := (s.dev.stpTaken p).ringMoved_stp q y tag kind src
  refine Answers.ends he (decide_eq_true hp) ((congrArg (Dev.settled · s.mem) hf).trans
    (Dev.settled_nil s.mem ((congrArg Col.events hcol).trans hev))) fun t ht => ?_
  rw [ht]
  refine ⟨⟨hposts, ?_⟩, (congrArg (fun x : Stp => SMap.get Couch.reset q x.couch) hstp).trans (SMap.get_put_same ..),
    fun r hr => (congrArg (fun x : Stp => SMap.get Couch.reset r x.couch) hstp).trans (SMap.get_put_ne _ _ hr ..),
    (congrArg Stp.state hstp).trans hopen⟩
  exact s.dev.stpTaken_owed (hcred p)

/-! ### A queue error -/

/-- A queue with its error, counted. -/
def Dev.cqErred (d : Dev) (q err : Nat) : Dev := (d.setCouch q { d.couch q with err := err }).fcount stpCqerrcntCount 0 1

theorem Dev.cqError_opened {d : Dev} (m : Mem) (q err : Nat) (h : d.stp.state = .opened) :
    d.cqError m q err false = (d.cqErred q err).spoilNow m 5 q := by
  have hd : d.cqError m q err false = (d.cqErred q err).spoilCause m 5 q := rfl
  rw [hd, Dev.spoilCause, show (d.cqErred q err).stp.state = .opened from h]

theorem Dev.cqErred_couch (d : Dev) (q err : Nat) : (d.cqErred q err).couch q = { d.couch q with err := err } :=
  SMap.get_put_same ..

/-- The error spoils the step; the queue keeps its counts. -/
theorem Dev.Spoiled.erred {d e : Dev} {q err : Nat} (h : (d.cqErred q err).Spoiled e 5 q) :
    (e.couch q).err = err ∧ (e.couch q).pushed = (d.couch q).pushed ∧ (e.couch q).popped = (d.couch q).popped
    ∧ e.stp.state = .spoiled ∧ e.stp.cause = 5 ∧ e.stp.causeParam = q
    ∧ e.fget stpCqerrcntCount 0 = satAdd (2 ^ stpCqerrcntCount.width - 1) (d.fget stpCqerrcntCount 0) 1 := by
  obtain ⟨hstate, hcause, hparam, -, hcouch⟩ := h.state
  have hq : e.couch q = { d.couch q with err := err } :=
    (congrArg (SMap.get Couch.reset q) hcouch).trans (d.cqErred_couch q err)
  rw [hq]
  exact ⟨rfl, rfl, rfl, hstate, hcause, hparam,
    (h.fields stpCqerrcntCount 0 (by decide) (by decide) (by decide)).trans (Dev.fget_fcount_sat ..)⟩

theorem Answers.erred {c : Instr} {f : Mem → Dev → Dev} {s : State} {p q err : Nat}
    (he : exec c s = runIf (tileOk p) (fun m d => (f m d).settled m) s) (hp : p < 68) (hopen : s.dev.stp.state = .opened)
    (hf : f s.mem s.dev = (s.dev.stpTaken p).cqError s.mem q err false) :
    Answers c s fun t =>
      (t.dev.posts = []
        ∧ SMap.get 0 2 (t.dev.tile p).store.creditOwed = SMap.get 0 2 (s.dev.tile p).store.creditOwed + 1)
      ∧ (t.dev.couch q).err = err ∧ (t.dev.couch q).pushed = (s.dev.couch q).pushed
      ∧ (t.dev.couch q).popped = (s.dev.couch q).popped ∧ t.dev.stp.state = .spoiled ∧ t.dev.stp.cause = 5
      ∧ t.dev.stp.causeParam = q
      ∧ t.dev.fget stpCqerrcntCount 0 = satAdd (2 ^ stpCqerrcntCount.width - 1) (s.dev.fget stpCqerrcntCount 0) 1 := by
  have hsp := (((s.dev.stpTaken p).cqErred q err).spoilNow_spoiled s.mem 5 q).settled s.mem
  have hend : (f s.mem s.dev).settled s.mem = (((s.dev.stpTaken p).cqErred q err).spoilNow s.mem 5 q).settled s.mem :=
    congrArg (Dev.settled · s.mem) (hf.trans (Dev.cqError_opened s.mem q err (d := s.dev.stpTaken p) hopen))
  generalize (((s.dev.stpTaken p).cqErred q err).spoilNow s.mem 5 q).settled s.mem = e at hsp hend
  refine Answers.ends he (decide_eq_true hp) hend fun t ht => ?_
  rw [ht]
  exact ⟨⟨hsp.posts, s.dev.stpTaken_owed (hsp.credits p)⟩, hsp.erred⟩

/-! ### Push and pop -/

section
variable {s : State} {o : Post}

/-- CQ_PUSH of an ACTIVE local queue. -/
theorem Dev.cqPush_local {d : Dev} (m : Mem) (h : d.posts = [o]) (ht : o.target = 2) (hv : d.stpPostIs 1 o.value = true)
    (hs : d.stp.state = .opened) (hk : d.fget stpCqcfgKind (bits o.value 52 6) = 0)
    (hx : (d.couch (bits o.value 52 6)).state = .active) :
    d.cqPush m o.tile =
      if d.cqSlots (bits o.value 52 6) ≤ (d.couch (bits o.value 52 6)).pushed - (d.couch (bits o.value 52 6)).popped then
        (d.stpTaken o.tile).cqError m (bits o.value 52 6) 1 false
      else ((d.stpTaken o.tile).cqPushed (bits o.value 52 6) (bits o.value 32 16)).doorbell 2 (bits o.value 52 6) := by
  have hs' : ¬ (d.stpTaken o.tile).stp.state ≠ .opened := not_not.mpr hs
  have hk' : (d.stpTaken o.tile).fget stpCqcfgKind (bits o.value 52 6) = 0 := hk
  have hx' : ((d.stpTaken o.tile).couch (bits o.value 52 6)).state = .active := hx
  unfold Dev.cqPush
  rw [Dev.takePost_only h ht hv]
  dsimp only
  rw [if_neg hs', hk', hx', if_neg (by decide), if_pos (show (0 : Nat) = 0 from rfl)]
  rfl

/-- CQ_POP of an ACTIVE local queue. -/
theorem Dev.cqPop_local {d : Dev} (m : Mem) (h : d.posts = [o]) (ht : o.target = 2) (hv : d.stpPostIs 2 o.value = true)
    (hs : d.stp.state = .opened) (hk : d.fget stpCqcfgKind (bits o.value 52 6) = 0)
    (hx : (d.couch (bits o.value 52 6)).state = .active) :
    d.cqPop m o.tile =
      if (d.couch (bits o.value 52 6)).pushed ≤ (d.couch (bits o.value 52 6)).popped then
        (d.stpTaken o.tile).cqError m (bits o.value 52 6) 3 false
      else if SMap.get 0 ((d.couch (bits o.value 52 6)).popped % d.cqSlots (bits o.value 52 6)) (d.couch (bits o.value 52 6)).tags
          ≠ bits o.value 32 16 then (d.stpTaken o.tile).cqError m (bits o.value 52 6) 2 false
      else (((d.stpTaken o.tile).setCouch (bits o.value 52 6)
          { d.couch (bits o.value 52 6) with popped := (d.couch (bits o.value 52 6)).popped + 1 }).cqHeader
            (bits o.value 52 6) none).doorbell 2 (64 + bits o.value 52 6) := by
  have hs' : ¬ (d.stpTaken o.tile).stp.state ≠ .opened := not_not.mpr hs
  have hk' : (d.stpTaken o.tile).fget stpCqcfgKind (bits o.value 52 6) = 0 := hk
  have hx' : ((d.stpTaken o.tile).couch (bits o.value 52 6)).state = .active := hx
  have hc : (d.stpTaken o.tile).couch (bits o.value 52 6) = d.couch (bits o.value 52 6) := rfl
  have hn : (d.stpTaken o.tile).cqSlots (bits o.value 52 6) = d.cqSlots (bits o.value 52 6) := rfl
  unfold Dev.cqPop
  rw [Dev.takePost_only h ht hv]
  dsimp only
  rw [if_neg hs', hk', hx', if_neg (by decide), if_pos (show (0 : Nat) = 0 from rfl), hc, hn, hx]

end

/-! ### PHASE and malformed values -/

/-- The first PHASE of a generation keeps its layout. -/
theorem Dev.phasePost_first {d : Dev} {o : Post} (m : Mem) (h : d.posts = [o]) (ht : o.target = 2)
    (hv : d.stpPostIs 3 o.value = true) (hn : d.stp.phaseLayout = none) :
    d.phasePost m o.tile = { d.stpTaken o.tile with stp := { d.stp with phaseLayout := some (o.value % 4) } } := by
  unfold Dev.phasePost
  rw [Dev.takePost_only h ht hv]
  dsimp only
  rw [show (d.stpTaken o.tile).stp.phaseLayout = none from hn]
  rfl

theorem Dev.badPost_counted {d : Dev} {o : Post} (m : Mem) (h : d.posts = [o]) (ht : o.target = 2) (hv : d.stpPostBad o.value = true) :
    d.badPost m o.tile =
      if d.stp.state = .opened then ((d.stpTaken o.tile).fcount stpBadpostCount 0 1).spoilNow m 5 0xFFFFFFFF
      else (d.stpTaken o.tile).fcount stpBadpostCount 0 1 := by
  unfold Dev.badPost
  rw [Dev.takePost_only h ht hv]
  rfl

theorem Dev.stpTaken_mask {F : Nat} (hF : 768 &&& F = 768) (d : Dev) (p : Nat) : (d.stpTaken p).mask F = d.mask F :=
  Dev.mask_sub hF ((Dev.onTile_mask (by decide) ..).trans (Dev.mask_posts (by decide) ..))

/-! ### CQ_ENABLE -/

/-- The configuration as CQCFG gives it. -/
def Dev.cqShaped (d : Dev) (q v : Nat) : Dev :=
  ((d.fset stpCqcfgKind q (bits v 1 2)).fset stpCqcfgNslotM1 q (bits v 8 8)).fset stpCqcfgSlot4k q (bits v 16 12)

/-- A queue that could not be enabled. -/
def Dev.cqRefused (d : Dev) (q : Nat) : Dev :=
  (d.fset stpCqcfgEn q 0).setCouch q { d.couch q with err := 6, state := .off, copies := [] }

/-- A queue as it is enabled, before its header. -/
def Dev.cqStarted (d : Dev) (q : Nat) : Dev := (d.fset stpCqcfgEn q 1).setCouch q { Couch.reset with state := .active }

/-- A queue that is enabled, with its header where the region takes it. -/
def Dev.cqEnabled (d : Dev) (q : Nat) : Dev :=
  ((d.cqStarted q).writeRegion ((d.cqStarted q).fget stpCqregRegion q) 0
    (toLE 16 0 ++ toLE 4 (d.cqStarted q).curStep ++ List.replicate (4096 - 20) 0) false).getD (d.cqStarted q)

theorem Dev.cqShaped_spec (d : Dev) (q v : Nat) :
    (d.cqShaped q v).fget stpCqcfgKind q = bits v 1 2 ∧ (d.cqShaped q v).cqSlots q = bits v 8 8 + 1
    ∧ (d.cqShaped q v).fget stpCqcfgSlot4k q = bits v 16 12 ∧ (d.cqShaped q v).fget stpCqcfgEn q = d.fget stpCqcfgEn q
    ∧ (d.cqShaped q v).fget stpCqregRegion q = d.fget stpCqregRegion q := by
  unfold Dev.cqShaped Dev.cqSlots
  refine ⟨?_, ?_, ?_, ?_, ?_⟩
  · rw [Dev.fget_fset_place _ _ _ _ (by decide), Dev.fget_fset_place _ _ _ _ (by decide), Dev.fget_fset_same]
    exact Nat.mod_eq_of_lt (bits_lt v 1 2)
  · rw [Dev.fget_fset_place _ _ _ _ (by decide), Dev.fget_fset_same]
    exact congrArg (· + 1) (Nat.mod_eq_of_lt (bits_lt v 8 8))
  · rw [Dev.fget_fset_same]
    exact Nat.mod_eq_of_lt (bits_lt v 16 12)
  · rw [Dev.fget_fset_place _ _ _ _ (by decide), Dev.fget_fset_place _ _ _ _ (by decide), Dev.fget_fset_place _ _ _ _ (by decide)]
  · rw [Dev.fget_fset_place _ _ _ _ (by decide), Dev.fget_fset_place _ _ _ _ (by decide), Dev.fget_fset_place _ _ _ _ (by decide)]

/-- EN is written over a 0 for a local queue. -/
theorem Dev.cqConfigure_local {d : Dev} {v : Nat} (hs : d.stp.state = .idle) (hv : bit v 0 = true)
    (he : d.fget stpCqcfgEn (d.fget stpCqselQueue 0) ≠ 1) (hk : bits v 1 2 = 0) :
    d.cqConfigure v =
      if bits v 16 12 = 0 ∨ d.plainRegion (d.fget stpCqregRegion (d.fget stpCqselQueue 0))
          (4096 + (bits v 8 8 + 1) * (bits v 16 12 * 4096)) = false
      then (d.cqShaped (d.fget stpCqselQueue 0) v).cqRefused (d.fget stpCqselQueue 0)
      else (d.cqShaped (d.fget stpCqselQueue 0) v).cqEnabled (d.fget stpCqselQueue 0) := by
  obtain ⟨hkind, hslots, hslot, -, hregion⟩ := d.cqShaped_spec (d.fget stpCqselQueue 0) v
  have hbytes : (d.cqShaped (d.fget stpCqselQueue 0) v).cqSlotBytes (d.fget stpCqselQueue 0) = bits v 16 12 * 4096 :=
    congrArg (· * 4096) hslot
  have hwas : d.fbit stpCqcfgEn (d.fget stpCqselQueue 0) = false := beq_eq_false_iff_ne.mpr he
  have hplain : ∀ h n, (d.cqShaped (d.fget stpCqselQueue 0) v).plainRegion h n = d.plainRegion h n := fun _ _ => rfl
  have hshape : ((d.fset stpCqcfgKind (d.fget stpCqselQueue 0) (bits v 1 2)).fset stpCqcfgNslotM1 (d.fget stpCqselQueue 0)
    (bits v 8 8)).fset stpCqcfgSlot4k (d.fget stpCqselQueue 0) (bits v 16 12) = d.cqShaped (d.fget stpCqselQueue 0) v := rfl
  unfold Dev.cqConfigure
  dsimp only
  rw [if_neg (not_not.mpr hs), hv, if_neg (by decide), hwas, if_neg (by decide), hshape, hkind, hslot, hbytes, hslots, hregion,
    hplain, hk]
  unfold Dev.cqRefused Dev.cqEnabled Dev.cqStarted
  refine if_congr ?_ rfl rfl
  simp

theorem Dev.setCouch_same (d : Dev) (q : Nat) (y : Couch) : (d.setCouch q y).couch q = y := SMap.get_put_same ..

theorem Dev.setCouch_ne (d : Dev) {q r : Nat} (y : Couch) (h : r ≠ q) : (d.setCouch q y).couch r = d.couch r :=
  SMap.get_put_ne _ _ h ..

/-- EN of a queue as it is enabled or refused. -/
theorem Dev.setEn_couch (d : Dev) (q v : Nat) (y : Couch) : ((d.fset stpCqcfgEn q v).setCouch q y).fget stpCqcfgEn q = v % 2 :=
  d.fget_fset_same stpCqcfgEn q v

theorem Dev.cqShaped_mask (d : Dev) (q v : Nat) :
    (d.cqShaped q v).mask (partsMask [.regs]) = d.mask (partsMask [.regs]) := by
  unfold Dev.cqShaped
  rw [Dev.fset_mask (by decide), Dev.fset_mask (by decide), Dev.fset_mask (by decide)]

theorem Dev.cqRefused_spec (d : Dev) (q v : Nat) :
    ((d.cqShaped q v).cqRefused q).fget stpCqcfgEn q = 0
    ∧ ((d.cqShaped q v).cqRefused q).couch q = { d.couch q with err := 6, state := .off, copies := [] }
    ∧ ((d.cqShaped q v).cqRefused q).mask (partsMask [.regs, .stp]) = d.mask (partsMask [.regs, .stp]) :=
  ⟨Dev.setEn_couch .., Dev.setCouch_same .., (Dev.setCouch_mask (by decide) ..).trans
    ((Dev.fset_mask (by decide) ..).trans (Dev.mask_sub (by decide) (d.cqShaped_mask q v)))⟩

theorem Dev.cqEnabled_spec (d : Dev) (q v : Nat) :
    ((d.cqShaped q v).cqEnabled q).fget stpCqcfgEn q = 1
    ∧ ((d.cqShaped q v).cqEnabled q).couch q = { Couch.reset with state := .active }
    ∧ (∀ r, r ≠ q → ((d.cqShaped q v).cqEnabled q).couch r = d.couch r)
    ∧ ((d.cqShaped q v).cqEnabled q).stp.state = d.stp.state := by
  have hstart : ((d.cqShaped q v).cqStarted q).fget stpCqcfgEn q = 1
      ∧ ((d.cqShaped q v).cqStarted q).couch q = { Couch.reset with state := .active }
      ∧ (∀ r, r ≠ q → ((d.cqShaped q v).cqStarted q).couch r = d.couch r)
      ∧ ((d.cqShaped q v).cqStarted q).stp.state = d.stp.state :=
    ⟨Dev.setEn_couch .., Dev.setCouch_same .., fun r hr => Dev.setCouch_ne _ _ hr, rfl⟩
  unfold Dev.cqEnabled
  generalize (d.cqShaped q v).cqStarted q = e at hstart ⊢
  cases hw : e.writeRegion (e.fget stpCqregRegion q) 0 (toLE 16 0 ++ toLE 4 e.curStep ++ List.replicate (4096 - 20) 0) false with
  | none => exact hstart
  | some e' =>
    obtain ⟨hen, hq, hr, hs⟩ := hstart
    have hstp : e'.stp = e.stp := Dev.stp_of_mask (by decide) (Dev.writeRegion_mask (F := 79699001) (by decide) hw)
    have hcouch : ∀ r, e'.couch r = e.couch r := fun r => congrArg (fun x : Stp => SMap.get Couch.reset r x.couch) hstp
    exact ⟨((Dev.writeRegion_keeps hw).keeps stpCqcfgEn q (by decide) (by decide)).trans hen, (hcouch q).trans hq,
      fun r hne => (hcouch r).trans (hr r hne), (congrArg Stp.state hstp).trans hs⟩

theorem Dev.cqEnable_host {d : Dev} (m : Mem) {v : Nat} (hb : d.blockOpen pSTP 0 = true) (hv : bit v 0 = true) :
    (if bit v 0 then d.pageWrite m pSTP 0 0x88 v else d) = d.cqConfigure v :=
  (if_pos hv).trans (Dev.pageWrite_block d m v (Dev.pageReset_other d rfl) (by decide) hb)

/-! ### The obligation -/

/-- Settles O39: a post is taken first, so that its credit is owed in every case; a queue that moves writes its header,
which leaves STP, and an error spoils the step as `Dev.Spoiled` says. -/
theorem couchQueues : Obligations.CouchQueues := by
  unfold Obligations.CouchQueues
  intro s p v o hp hw hev
  refine ⟨fun hposts htile htarget hvalue => ?_, fun ha hb hv => ?_⟩
  · subst htile hvalue
    intro q tag x taken failed
    refine ⟨fun hopen hk hx => ⟨fun hv => ⟨fun hroom => ?_, fun hfull => ?_⟩, fun hv => ⟨fun hheld htag => ?_, fun hempty => ?_⟩⟩,
      fun hv hn => ?_, fun hv => ?_⟩
    · refine Answers.moved (f := fun m d => d.cqPush m o.tile) (tag := some (x.pushed % s.dev.cqSlots q)) (kind := 2) (src := q) rfl hp hev hopen ?_
      exact (Dev.cqPush_local s.mem hposts htarget hv hopen hk hx).trans (if_neg (Nat.not_le.mpr hroom))
    · refine Answers.erred (f := fun m d => d.cqPush m o.tile) rfl hp hopen ?_
      exact (Dev.cqPush_local s.mem hposts htarget hv hopen hk hx).trans (if_pos hfull)
    · refine Answers.moved (f := fun m d => d.cqPop m o.tile) (tag := none) (kind := 2) (src := 64 + q) rfl hp hev hopen ?_
      exact (Dev.cqPop_local s.mem hposts htarget hv hopen hk hx).trans
        ((if_neg (Nat.not_le.mpr hheld)).trans (if_neg (not_not.mpr htag)))
    · refine Answers.erred (f := fun m d => d.cqPop m o.tile) rfl hp hopen ?_
      exact (Dev.cqPop_local s.mem hposts htarget hv hopen hk hx).trans (if_pos hempty)
    · have hf : (s.dev.phasePost s.mem o.tile).settled s.mem
          = { s.dev.stpTaken o.tile with stp := { s.dev.stp with phaseLayout := some (o.value % 4) } } := by
        rw [Dev.phasePost_first s.mem hposts htarget hv hn]
        exact Dev.settled_nil s.mem hev
      refine Answers.parts [.tiles, .posts, .stp] (f := fun m d => (d.phasePost m o.tile).settled m) rfl (decide_eq_true hp) hw
        ((congrArg (Dev.mask _) hf).trans rfl) (by decide) fun ho => ?_
      dsimp only at ho ⊢
      rw [hf] at ho ⊢
      exact ⟨⟨rfl, s.dev.stpTaken_credit o.tile⟩, rfl, ho⟩
    · have hbad := Dev.badPost_counted s.mem hposts htarget hv
      by_cases hopen : s.dev.stp.state = .opened
      · rw [if_pos hopen] at hbad
        have hsp := (((s.dev.stpTaken o.tile).fcount stpBadpostCount 0 1).spoilNow_spoiled s.mem 5 0xFFFFFFFF).settled s.mem
        have hend := congrArg (Dev.settled · s.mem) hbad
        generalize (((s.dev.stpTaken o.tile).fcount stpBadpostCount 0 1).spoilNow s.mem 5 0xFFFFFFFF).settled s.mem = e at hsp hend
        refine Answers.ends (f := fun m d => (d.badPost m o.tile).settled m) rfl (decide_eq_true hp) hend ?_
        rintro ⟨_, _, _⟩ rfl
        refine ⟨⟨hsp.posts, s.dev.stpTaken_owed (hsp.credits o.tile)⟩, ?_, fun _ => ⟨hsp.state.1, hsp.state.2.1, hsp.state.2.2.1⟩,
          fun h => absurd hopen h⟩
        exact (hsp.fields stpBadpostCount 0 (by decide) (by decide) (by decide)).trans (Dev.fget_fcount_sat ..)
      · rw [if_neg hopen] at hbad
        have hf : (s.dev.badPost s.mem o.tile).settled s.mem = (s.dev.stpTaken o.tile).fcount stpBadpostCount 0 1 := by
          rw [hbad]
          exact Dev.settled_nil s.mem hev
        refine Answers.parts [.regs, .tiles, .posts] (f := fun m d => (d.badPost m o.tile).settled m) rfl (decide_eq_true hp) hw
          ((congrArg (Dev.mask _) hf).trans rfl) (by decide) fun ho => ?_
        dsimp only at ho ⊢
        rw [hf] at ho ⊢
        exact ⟨⟨rfl, s.dev.stpTaken_credit o.tile⟩, Dev.fget_fcount_sat .., fun h => absurd h hopen, fun _ => ho⟩
  · intro q fits
    refine ⟨fun hs => ?_, fun hs he hk => ⟨fun hn hfit => ?_, fun hbad => ?_⟩⟩
    · refine exec_access_same (ok := true) (g := fun m d => if bit v 0 then d.pageWrite m pSTP 0 0x88 v else d) rfl rfl hw ?_
      exact (Dev.cqEnable_host s.mem hb hv).trans (if_pos hs)
    · have hf : s.dev.host (fun d => if bit v 0 then d.pageWrite s.mem pSTP 0 0x88 v else d) = (s.dev.cqShaped q v).cqEnabled q := by
        rw [Dev.host_on ha, Dev.cqEnable_host s.mem hb hv, Dev.cqConfigure_local hs hv he hk]
        exact if_neg fun h => h.elim hn fun h' => by cases hfit.symm.trans h'
      obtain ⟨hen, hq, hr, hst⟩ := s.dev.cqEnabled_spec q v
      generalize (s.dev.cqShaped q v).cqEnabled q = e at hf hen hq hr hst
      refine Answers.ends (ok := true) (f := fun m d => d.host fun d => if bit v 0 then d.pageWrite m pSTP 0 0x88 v else d) rfl rfl hf
        fun t ht => ?_
      rw [ht]
      exact ⟨hen, hq, hr, hst.trans hs⟩
    · have hf : (if bit v 0 then s.dev.pageWrite s.mem pSTP 0 0x88 v else s.dev) = (s.dev.cqShaped q v).cqRefused q := by
        rw [Dev.cqEnable_host s.mem hb hv, Dev.cqConfigure_local hs hv he hk]
        exact if_pos hbad
      obtain ⟨hen, hq, hm⟩ := s.dev.cqRefused_spec q v
      generalize (s.dev.cqShaped q v).cqRefused q = e at hf hen hq hm
      refine Answers.hostParts [.regs, .stp] (g := fun m d => if bit v 0 then d.pageWrite m pSTP 0 0x88 v else d) (ok := true) rfl rfl ha hw
        ((congrArg (Dev.mask _) hf).trans hm) (by decide) fun ho => ?_
      dsimp only at ho ⊢
      rw [hf] at ho ⊢
      exact ⟨hen, hq, ho⟩

end Sys2Proof.Machine
end


section
/-! PROOFS. The life of a training step (R292 to R299). -/

namespace Sys2Proof.Machine

/-! ### A step that spoils -/

/-- What every spoil of a step shows. -/
def State.StepSpoils (s t : State) (cause param : Nat) : Prop :=
  t.dev.stp.state = .spoiled ∧ t.dev.stp.cause = cause ∧ t.dev.stp.causeParam = param
  ∧ t.dev.fget stpSpoilcntCount 0 = satAdd (2 ^ stpSpoilcntCount.width - 1) (s.dev.fget stpSpoilcntCount 0) 1
  ∧ (∀ b, (s.dev.bar b).count ≠ 0 → (t.dev.bar b).broken = true)
  ∧ t.dev.fget stpBankSel 0 = s.dev.fget stpBankSel 0

/-- A command that ends in a spoil of `d`, a device with the barriers and the counts of before. -/
theorem Answers.spoils {c : Instr} {ok : Bool} {f : Mem → Dev → Dev} {s : State} {d : Dev} {cause param : Nat}
    (he : exec c s = runIf ok f s) (h : ok = true) (hf : f s.mem s.dev = (d.spoilNow s.mem cause param).settled s.mem)
    (hs : d.syn = s.dev.syn) (hc : d.fget stpSpoilcntCount 0 = s.dev.fget stpSpoilcntCount 0)
    (hb : d.fget stpBankSel 0 = s.dev.fget stpBankSel 0) :
    Answers c s fun t => s.StepSpoils t cause param ∧ t.dev.stp.opens = d.stp.opens := by
  have hsp := (d.spoilNow_spoiled s.mem cause param).settled s.mem
  generalize (d.spoilNow s.mem cause param).settled s.mem = e at hf hsp
  refine Answers.ends he h hf ?_
  rintro ⟨_, _, _⟩ rfl
  obtain ⟨hstate, hcause, hparam, hopens, -⟩ := hsp.state
  have hbar : ∀ b, d.bar b = s.dev.bar b := fun b => congrArg (fun x : Syn => SMap.get Barrier.reset b x.bars) hs
  refine ⟨⟨hstate, hcause, hparam, ?_, fun b hne => hsp.bars b (by rw [hbar]; exact hne), ?_⟩, hopens⟩
  · rw [← hc]; exact hsp.count
  · rw [← hb]; exact hsp.fields stpBankSel 0 (by decide) (by decide) (by decide)

/-! ### Opening -/

/-- STP has taken the oldest STEP.OPEN. -/
def Dev.openTaken (d : Dev) (rest : List (Nat × Nat)) : Dev := { d with stp := { d.stp with opens := rest } }

theorem Dev.stepOpenArrival_taken {d : Dev} (m : Mem) {p n : Nat} {rest : List (Nat × Nat)} (h : d.stp.opens = (p, n) :: rest) :
    d.stepOpenArrival m p = match (d.openTaken rest).stp.state with
      | .idle => if n = (d.openTaken rest).fget stpNextStep 0 then (d.openTaken rest).openDevice n
          else (d.openTaken rest).openMismatch m n
      | .opened => if n = (d.openTaken rest).curStep then d.openTaken rest else (d.openTaken rest).spoilNow m 7 n
      | _ => d.openTaken rest := by
  have hfind : d.stp.opens.find? (fun o => o.1 == p) = some (p, n) := by
    rw [h]
    exact List.find?_cons_of_pos (by simp)
  have herase : d.stp.opens.erase (p, n) = rest := by
    rw [h]
    exact List.erase_cons_head ..
  unfold Dev.stepOpenArrival
  rw [hfind]
  dsimp only
  rw [herase]
  rfl

section
variable {d : Dev} {m : Mem} {p n : Nat} {rest : List (Nat × Nat)}

theorem Dev.stepOpenArrival_opens (h : d.stp.opens = (p, n) :: rest) (hs : d.stp.state = .idle) (hn : n = d.fget stpNextStep 0) :
    d.stepOpenArrival m p = (d.openTaken rest).openDevice n := by
  rw [Dev.stepOpenArrival_taken m h, show (d.openTaken rest).stp.state = .idle from hs]
  exact if_pos hn

theorem Dev.stepOpenArrival_mismatch (h : d.stp.opens = (p, n) :: rest) (hs : d.stp.state = .idle) (hn : n ≠ d.fget stpNextStep 0) :
    d.stepOpenArrival m p = (d.openTaken rest).openMismatch m n := by
  rw [Dev.stepOpenArrival_taken m h, show (d.openTaken rest).stp.state = .idle from hs]
  exact if_neg hn

theorem Dev.stepOpenArrival_again (h : d.stp.opens = (p, n) :: rest) (hs : d.stp.state = .opened) :
    d.stepOpenArrival m p = if n = d.curStep then d.openTaken rest else (d.openTaken rest).spoilNow m 7 n := by
  rw [Dev.stepOpenArrival_taken m h, show (d.openTaken rest).stp.state = .opened from hs]
  rfl

end

/-- A step that could not open, before it spoils. -/
def Dev.mismatched (d : Dev) (n : Nat) : Dev :=
  { d.fset stpStepCur 0 n with stp := { d.stp with
    openMark := d.cad.mark, nphase := 0, terms := [], nexcl := 0, nfold := 0, ncoll := 0, lateIn := 0, arrived := []
    waiting := [] } }

theorem Dev.openMismatch_eq (d : Dev) (m : Mem) (n : Nat) : d.openMismatch m n = (d.mismatched n).spoilNow m 7 n := rfl

theorem Dev.mismatched_fields (d : Dev) (n : Nat) :
    (d.mismatched n).fget stpSpoilcntCount 0 = d.fget stpSpoilcntCount 0
    ∧ (d.mismatched n).fget stpBankSel 0 = d.fget stpBankSel 0 :=
  ⟨Dev.fget_fset_place d 0 0 n (by decide), Dev.fget_fset_place d 0 0 n (by decide)⟩

theorem Dev.openDevice_fields (d : Dev) {n : Nat} (h : n < 2 ^ 32) :
    (d.openDevice n).curStep = n ∧ (d.openDevice n).fget stpNextStep 0 = d.fget stpNextStep 0 :=
  ⟨(Dev.fget_fset_same d stpStepCur 0 n).trans (Nat.mod_eq_of_lt h), Dev.fget_fset_place d 0 0 n (by decide)⟩

/-! ### Committing -/

/-- A tile whose STEP.COMMIT waits at STP. -/
def Dev.commitHeld (d : Dev) (p n l : Nat) : Dev :=
  { d with stp := { d.stp with waiting := d.stp.waiting ++ [p], arrived := d.stp.arrived ++ [l] } }.onTile p fun t =>
    { t with store := { t.store with commit := .sent n } }

theorem Dev.stepCommitArrival_counted {d : Dev} (m : Mem) {p n l : Nat} (h : (d.tile p).store.commit = .waiting n)
    (hs : d.stp.state = .opened) (hf : d.fenceDone p (d.tile p).core.stallSeq = true)
    (ho : (d.tile p).store.openStep = some n) (hc : d.curStep = n) (hl : d.logicalOf p = some l) (hn : l ∉ d.stp.arrived) :
    d.stepCommitArrival m p = d.commitHeld p n l := by
  have harr : ¬ d.stp.arrived.contains l = true := by simpa using hn
  unfold Dev.stepCommitArrival Dev.commitHeld
  dsimp only
  rw [h]
  dsimp only
  rw [hf, if_neg (by decide), ho, hl]
  dsimp only [Option.getD]
  rw [if_neg (not_not.mpr rfl), hs, if_neg (by simp), if_pos rfl, if_pos hc, if_neg harr]

theorem Dev.stepCommitArrival_waits {d : Dev} (m : Mem) {p n : Nat} (h : (d.tile p).store.commit = .waiting n)
    (hf : d.fenceDone p (d.tile p).core.stallSeq = false) : d.stepCommitArrival m p = d := by
  unfold Dev.stepCommitArrival
  dsimp only
  rw [h]
  dsimp only
  rw [hf]
  exact if_pos rfl

/-- The decided step, its bank and its numbers. -/
def Dev.committed (d : Dev) : Dev :=
  { ((d.fset stpBankSel 0 (1 - d.fget stpBankSel 0)).fset stpLastcmtStep 0 d.curStep).fset stpNextStep 0 ((d.curStep + 1) % 2 ^ 32)
    with stp := { d.stp with state := .idle, ndrop := 0, lateIn := 0 } }

/-- Without a ledger and without a ring of records the commit is the decision, the release and the completion. -/
theorem Dev.commitNow_plain {d : Dev} (m : Mem) (hl : d.ledgerOn = false) (hr : d.fget stpRecregHandle 0 = 0) :
    d.commitNow m = (d.committed.releaseCommits 0).postUnsolicited 3 0 d.curStep 0 0 := by
  have haged : d.dropAged m ((d.curStep + 1) % 2 ^ 32) = d := by
    unfold Dev.dropAged
    rw [hl]
    exact if_pos rfl
  let d₁ : Dev := { ((d.fset stpBankSel 0 (1 - d.fget stpBankSel 0)).fset stpLastcmtStep 0 d.curStep).fset stpNextStep 0
    ((d.curStep + 1) % 2 ^ 32) with stp := { d.stp with state := .idle } }
  have hreg : d₁.fget stpRecregHandle 0 = 0 := by
    refine Eq.trans ?_ hr
    refine (Dev.fget_congr (e := ((d.fset stpBankSel 0 (1 - d.fget stpBankSel 0)).fset stpLastcmtStep 0 d.curStep).fset stpNextStep 0
      ((d.curStep + 1) % 2 ^ 32)) rfl ..).trans ?_
    rw [Dev.fget_fset_place _ _ _ _ (by decide), Dev.fget_fset_place _ _ _ _ (by decide), Dev.fget_fset_place _ _ _ _ (by decide)]
  have hrec : d₁.writeStepRecord false = d.committed := by
    unfold Dev.writeStepRecord
    dsimp only
    rw [hreg, if_pos (.inl rfl)]
    rfl
  unfold Dev.commitNow
  dsimp only
  rw [haged]
  exact congrArg (fun e : Dev => (e.releaseCommits 0).postUnsolicited 3 0 d.curStep 0 0) hrec

theorem Dev.committed_fields (d : Dev) :
    d.committed.fget stpBankSel 0 = (1 - d.fget stpBankSel 0) % 2
    ∧ d.committed.fget stpLastcmtStep 0 = d.curStep % 2 ^ 32
    ∧ d.committed.fget stpNextStep 0 = (d.curStep + 1) % 2 ^ 32 := by
  have hc : ∀ f i, d.committed.fget f i = (((d.fset stpBankSel 0 (1 - d.fget stpBankSel 0)).fset stpLastcmtStep 0 d.curStep).fset
    stpNextStep 0 ((d.curStep + 1) % 2 ^ 32)).fget f i := fun f i => Dev.fget_congr rfl f i
  refine ⟨?_, ?_, ?_⟩
  · rw [hc, Dev.fget_fset_place _ _ _ _ (by decide), Dev.fget_fset_place _ _ _ _ (by decide), Dev.fget_fset_same]
    rfl
  · rw [hc, Dev.fget_fset_place _ _ _ _ (by decide), Dev.fget_fset_same]
    rfl
  · rw [hc, Dev.fget_fset_same]
    exact Nat.mod_mod_of_dvd _ (dvd_refl _)

/-- The only waiting tile is released. -/
theorem Dev.releaseCommits_one {d : Dev} {p : Nat} (h : d.stp.waiting = [p]) (status : Nat) :
    d.releaseCommits status
      = { d.onTile p (fun t => t.releaseCommit status) with stp := { d.stp with waiting := [] } } := by
  unfold Dev.releaseCommits
  dsimp only
  rw [h]
  rfl

theorem Dev.committed_waiting (d : Dev) : d.committed.stp.waiting = d.stp.waiting := rfl

/-- The commit of a step with one tile waiting. -/
theorem Dev.commitNow_one {d : Dev} (m : Mem) {p n : Nat} (hl : d.ledgerOn = false) (hr : d.fget stpRecregHandle 0 = 0)
    (hw : d.stp.waiting = [p]) (hp : (d.tile p).store.commit = .sent n) :
    (d.commitNow m).stp.state = .idle ∧ (d.commitNow m).fget stpBankSel 0 = (1 - d.fget stpBankSel 0) % 2
    ∧ (d.commitNow m).fget stpLastcmtStep 0 = d.curStep % 2 ^ 32
    ∧ (d.commitNow m).fget stpNextStep 0 = (d.curStep + 1) % 2 ^ 32
    ∧ ((d.commitNow m).tile p).store.commit = .released 0 ∧ (d.commitNow m).stp.waiting = []
    ∧ (∀ q, q ≠ p → (d.commitNow m).tile q = d.tile q)
    ∧ (d.commitNow m).mask (partsMask [.regs, .evr, .tiles, .stp, .hbx]) = d.mask (partsMask [.regs, .evr, .tiles, .stp, .hbx]) := by
  have hm := Dev.postUnsolicited_mask (F := 2097192) (by decide) (d.committed.releaseCommits 0) 3 0 d.curStep 0 0
  have hk : (d.committed.releaseCommits 0).SpoilKeeps ((d.committed.releaseCommits 0).postUnsolicited 3 0 d.curStep 0 0) :=
    (Dev.SpoilKeeps.refl _).postUnsolicited ..
  rw [Dev.commitNow_plain m hl hr]
  have hone := Dev.releaseCommits_one (d := d.committed) ((d.committed_waiting).trans hw) 0
  have hregs : ∀ f i, (d.committed.releaseCommits 0).fget f i = d.committed.fget f i := fun f i =>
    Dev.fget_of_mask (F := 262400) (by decide) (Dev.releaseCommits_mask (by decide) ..) f i
  have hstp : (d.committed.releaseCommits 0).stp = { d.committed.stp with waiting := [] } := by rw [hone]
  have htile : ∀ q, (d.committed.releaseCommits 0).tile q = if q = p then (d.tile q).releaseCommit 0 else d.tile q := fun q => by
    rw [hone]
    exact Dev.tile_onTile d.committed p q fun t => t.releaseCommit 0
  have hmask : (d.committed.releaseCommits 0).mask (partsMask [.regs, .evr, .tiles, .stp, .hbx])
      = d.mask (partsMask [.regs, .evr, .tiles, .stp, .hbx]) := (Dev.releaseCommits_mask (by decide) ..).trans rfl
  generalize d.committed.releaseCommits 0 = e at hm hk hregs hstp htile hmask ⊢
  generalize e.postUnsolicited 3 0 d.curStep 0 0 = x at hm hk ⊢
  have hxs : x.stp = e.stp := Dev.stp_of_mask (by decide) hm
  have hxt : x.tiles = e.tiles := Dev.tiles_of_mask (by decide) hm
  obtain ⟨hbank, hlast, hnext⟩ := d.committed_fields
  refine ⟨?_, ?_, ?_, ?_, ?_, ?_, fun q hq => ?_, (Dev.mask_sub (by decide) hm).trans hmask⟩
  · rw [hxs, hstp]; rfl
  · exact (hk.fields stpBankSel 0 (by decide) (by decide)).trans ((hregs ..).trans hbank)
  · exact (hk.fields stpLastcmtStep 0 (by decide) (by decide)).trans ((hregs ..).trans hlast)
  · exact (hk.fields stpNextStep 0 (by decide) (by decide)).trans ((hregs ..).trans hnext)
  · rw [Dev.tile_congr hxt, htile, if_pos rfl]
    unfold Tile.releaseCommit
    rw [hp]
  · rw [hxs, hstp]
  · rw [Dev.tile_congr hxt, htile, if_neg hq]

/-! ### Acknowledging -/

/-- One queue in its turn: an ACTIVE one is empty again. -/
def Dev.queueCleared (d : Dev) (q : Nat) : Dev :=
  if (d.couch q).state = .active then
    (d.setCouch q { d.couch q with pushed := 0, popped := 0, err := 0, copies := [] }).cqHeader q none
  else d

theorem Dev.ackSpoil_quiet {d : Dev} (hs : d.stp.state = .spoiled) (hq : d.participants.all d.quietParticipant = true)
    (hr : d.remapping = false) :
    d.ackSpoil = { (d.stp.couch.map fun e => e.1).foldl Dev.queueCleared d with
      stp := { ((d.stp.couch.map fun e => e.1).foldl Dev.queueCleared d).stp with state := .idle } } := by
  unfold Dev.ackSpoil
  rw [if_neg (by simp [hs, hq, hr])]
  rfl

theorem Dev.queueCleared_mask {F : Nat} (hF : 79961145 &&& F = 79961145) (d : Dev) (q : Nat) :
    (d.queueCleared q).mask F = d.mask F := by
  refine Dev.mask_sub hF ?_
  unfold Dev.queueCleared
  split
  · exact (Dev.cqHeader_mask (by decide) ..).trans (Dev.setCouch_mask (by decide) ..)
  · rfl

/-- A queue after its own turn or another's. -/
theorem Dev.queueCleared_couch (d : Dev) (q r : Nat) :
    (d.queueCleared q).couch r =
      if r = q ∧ (d.couch q).state = .active then { d.couch q with pushed := 0, popped := 0, err := 0, copies := [] } else d.couch r := by
  unfold Dev.queueCleared
  by_cases ha : (d.couch q).state = .active
  · rw [if_pos ha]
    have hstp := Dev.stp_of_mask (by decide) (Dev.cqHeader_mask (F := 79699001) (by decide)
      (d.setCouch q { d.couch q with pushed := 0, popped := 0, err := 0, copies := [] }) q none)
    have hc : ∀ r, ((d.setCouch q { d.couch q with pushed := 0, popped := 0, err := 0, copies := [] }).cqHeader q none).couch r
        = (d.setCouch q { d.couch q with pushed := 0, popped := 0, err := 0, copies := [] }).couch r :=
      fun r => congrArg (fun x : Stp => SMap.get Couch.reset r x.couch) hstp
    rw [hc]
    by_cases hr : r = q
    · rw [if_pos ⟨hr, ha⟩, hr]
      exact Dev.setCouch_same ..
    · rw [if_neg (fun h => hr h.1)]
      exact Dev.setCouch_ne _ _ hr
  · rw [if_neg ha, if_neg (fun h => ha h.2)]

/-- Every ACTIVE queue whose turn has come is empty. -/
theorem Dev.queuesCleared_empty {r : Nat} (l : List Nat) (d : Dev) (ha : (d.couch r).state = .active)
    (h : r ∈ l ∨ (d.couch r).pushed = 0 ∧ (d.couch r).popped = 0) :
    ((l.foldl Dev.queueCleared d).couch r).pushed = 0 ∧ ((l.foldl Dev.queueCleared d).couch r).popped = 0 := by
  induction l generalizing d with
  | nil => exact h.resolve_left (List.not_mem_nil)
  | cons q l ih =>
    refine ih _ ?_ ?_
    · rw [Dev.queueCleared_couch]
      split
      next hq => exact hq.2
      next => exact ha
    · rw [Dev.queueCleared_couch]
      by_cases hq : r = q
      · subst hq
        rw [if_pos ⟨rfl, ha⟩]
        exact .inr ⟨rfl, rfl⟩
      · rw [if_neg fun h' => hq h'.1]
        exact h.imp_left fun hm => (List.mem_cons.mp hm).resolve_left hq

theorem Dev.couch_mem {d : Dev} {q : Nat} (h : (d.couch q).state = .active) : q ∈ d.stp.couch.map fun e => e.1 := by
  unfold Dev.couch SMap.get at h
  cases hf : SMap.find q d.stp.couch with
  | none => rw [hf] at h; cases h
  | some x => exact List.mem_map.mpr ⟨(q, x), SMap.mem_of_find hf, rfl⟩

/-! ### STP.CTL -/

theorem Dev.pageWrite_stpCtl (d : Dev) (m : Mem) (v : Nat) (hb : d.blockOpen pSTP 0 = true) :
    d.pageWrite m pSTP 0 0x40 v =
      if bit v 1 then (if bit v 0 then d.hostSpoil m else d).ackSpoil else (if bit v 0 then d.hostSpoil m else d) :=
  Dev.pageWrite_block d m v (Dev.pageReset_other d rfl) (by decide) hb

theorem ctl_bits {v : Nat} : (v % 4 = 1 → bit v 0 = true ∧ bit v 1 = false) ∧ (v % 4 = 2 → bit v 0 = false ∧ bit v 1 = true) := by
  unfold bit
  constructor <;> intro h <;> constructor <;> simp <;> omega

/-! ### The obligation -/

/-- Settles O38: each spoil is `Dev.Spoiled`, and where no step spoils the collectives have nothing to settle. -/
theorem stepLifecycle : Obligations.StepLifecycle := by
  unfold Obligations.StepLifecycle
  intro s p n l v rest hp hw hev spoiled
  refine ⟨fun hopens hn => ⟨fun hs hnext => ?_, fun hbad => ?_, fun hs hcur => ?_⟩, fun hcommit hs => ⟨fun hf => ?_, fun hf ho hc hl hnew => ?_⟩,
    fun hno => ?_, fun hmay hgrp hled hrec hwait hsent => ?_, fun hmay hgrp hcol => ?_, fun ⟨hs, htmo, harr, hmay⟩ => ?_, fun hno => ?_,
    fun ha hb => ⟨fun hv hs => ?_, fun hv hs => ?_, fun hv hs hq hr => ?_, fun hv hs => ?_⟩⟩
  · -- STEP.OPEN of the next step
    have hf : (s.dev.stepOpenArrival s.mem p).settled s.mem = (s.dev.openTaken rest).openDevice n := by
      rw [Dev.stepOpenArrival_opens hopens hs hnext]
      exact Dev.settled_nil s.mem hev
    obtain ⟨hcur, hnxt⟩ := (s.dev.openTaken rest).openDevice_fields hn
    refine Answers.parts [.regs, .stp] (f := fun m d => (d.stepOpenArrival m p).settled m) rfl (decide_eq_true hp) hw
      ((congrArg (Dev.mask _) hf).trans ((Dev.openDevice_mask (by decide) ..).trans rfl)) (by decide) fun ho => ?_
    dsimp only at ho ⊢
    rw [hf] at ho ⊢
    exact ⟨rfl, hcur, rfl, rfl, rfl, rfl, hnxt, ho⟩
  · -- of another step
    rcases hbad with ⟨hs, hne⟩ | ⟨hs, hne⟩
    · obtain ⟨hcnt, hbank⟩ := (s.dev.openTaken rest).mismatched_fields n
      refine Answers.spoils (f := fun m d => (d.stepOpenArrival m p).settled m) (d := (s.dev.openTaken rest).mismatched n) rfl
        (decide_eq_true hp) ?_ rfl hcnt hbank
      rw [Dev.stepOpenArrival_mismatch hopens hs hne]
      rfl
    · refine Answers.spoils (f := fun m d => (d.stepOpenArrival m p).settled m) (d := s.dev.openTaken rest) rfl
        (decide_eq_true hp) ?_ rfl rfl rfl
      rw [Dev.stepOpenArrival_again hopens hs, if_neg hne]
  · -- of the open step
    have hf : (s.dev.stepOpenArrival s.mem p).settled s.mem = s.dev.openTaken rest := by
      rw [Dev.stepOpenArrival_again hopens hs, if_pos hcur]
      exact Dev.settled_nil s.mem hev
    exact Answers.quiet (f := fun m d => (d.stepOpenArrival m p).settled m) rfl (decide_eq_true hp) hf hw ⟨rfl, rfl, rfl⟩
  · refine runIf_same (f := fun m d => (d.stepCommitArrival m p).settled m) (decide_eq_true hp) hw ?_
    rw [Dev.stepCommitArrival_waits s.mem hcommit hf]
    exact Dev.settled_nil s.mem hev
  · have hf : (s.dev.stepCommitArrival s.mem p).settled s.mem = s.dev.commitHeld p n l := by
      rw [Dev.stepCommitArrival_counted s.mem hcommit hs hf ho hc hl hnew]
      exact Dev.settled_nil s.mem hev
    refine Answers.parts [.tiles, .stp] (f := fun m d => (d.stepCommitArrival m p).settled m) rfl (decide_eq_true hp) hw
      ((congrArg (Dev.mask _) hf).trans ((Dev.onTile_mask (by decide) ..).trans rfl)) (by decide) fun ho' => ?_
    dsimp only at ho' ⊢
    rw [hf] at ho' ⊢
    refine ⟨?_, rfl, rfl, hs, fun q hq => (Dev.tile_onTile_ne _ _ hq).trans rfl, ho'⟩
    unfold Dev.commitHeld
    rw [Dev.tile_onTile_same]
  · refine exec_run_same (f := fun m d => (d.committing m).settled m) rfl hw ?_
    unfold Dev.committing
    rw [hno, if_pos (by rfl)]
    exact Dev.settled_nil s.mem hev
  · -- a commit
    obtain ⟨hst, hbank, hlast, hnxt, hrel, hwaiting, hothers, hm⟩ :=
      Dev.commitNow_one (d := { s.dev with stp := { s.dev.stp with state := .committing } }) s.mem hled hrec hwait hsent
    have hgo : s.dev.committing s.mem = Dev.commitNow { s.dev with stp := { s.dev.stp with state := .committing } } s.mem := by
      unfold Dev.committing
      rw [hmay, if_neg (by decide)]
      refine if_pos ?_
      show (!(s.dev.fget stpCmtgrpEn 0 == 1)) = true
      rw [hgrp]
      rfl
    rw [← hgo] at hst hbank hlast hnxt hrel hwaiting hothers hm
    have hf : (s.dev.committing s.mem).settled s.mem = s.dev.committing s.mem :=
      Dev.settled_nil s.mem ((congrArg Col.events (Dev.col_of_mask (by decide) hm)).trans hev)
    refine Answers.parts [.regs, .evr, .tiles, .stp, .hbx] (f := fun m d => (d.committing m).settled m) (ok := true) rfl rfl hw
      ((congrArg (Dev.mask _) hf).trans (hm.trans rfl)) (by decide) fun ho => ?_
    dsimp only at ho ⊢
    rw [hf] at ho ⊢
    exact ⟨hst, hbank, hlast, hnxt, hrel, hwaiting, hothers, ho⟩
  · -- no vote
    have hvote : ¬ (!(s.dev.fget stpCmtgrpEn 0 == 1)) = true := by rw [hgrp]; decide
    refine (Answers.spoils (f := fun m d => (d.committing m).settled m) (ok := true)
      (d := { s.dev with stp := { s.dev.stp with state := .committing } }) rfl rfl ?_ rfl rfl rfl).imp fun t h => h.1
    dsimp only
    unfold Dev.committing
    rw [hmay, if_neg (by decide)]
    dsimp only
    exact congrArg (Dev.settled · s.mem) ((if_neg hvote).trans (if_neg (show ¬ s.dev.active pCOL 0 = true by rw [hcol]; decide)))
  · refine (Answers.spoils (f := fun m d => (d.commitTimeout m).settled m) (ok := true) (d := s.dev) rfl rfl ?_ rfl rfl rfl).imp
      fun t h => h.1
    exact congrArg (Dev.settled · s.mem) (if_pos ⟨hs, htmo, harr, by rw [hmay]; rfl⟩)
  · refine exec_run_same (f := fun m d => (d.commitTimeout m).settled m) rfl hw ?_
    unfold Dev.commitTimeout
    rw [if_neg fun ⟨h₁, h₂, h₃, h₄⟩ => hno.elim (· h₁) fun h => h.elim h₂ fun h => h.elim h₃ fun h => by rw [h] at h₄; cases h₄]
    exact Dev.settled_nil s.mem hev
  · obtain ⟨h0, h1⟩ := ctl_bits.1 hv
    refine (Answers.spoils (f := fun m d => d.host fun d => if bit v 0 then (d.pageWrite m pSTP 0 0x40 v).settled m else d) (ok := true)
      (d := s.dev) rfl rfl ?_ rfl rfl rfl).imp fun t h => h.1
    rw [Dev.host_on ha, Dev.pageWrite_stpCtl _ _ _ hb, h0, h1, if_pos rfl, if_neg (by decide), if_pos rfl]
    exact congrArg (Dev.settled · s.mem) (if_pos hs)
  · obtain ⟨h0, h1⟩ := ctl_bits.1 hv
    refine exec_access_same (ok := true) (g := fun m d => if bit v 0 then (d.pageWrite m pSTP 0 0x40 v).settled m else d) rfl rfl hw ?_
    rw [Dev.pageWrite_stpCtl _ _ _ hb, h0, h1, if_pos rfl, if_neg (by decide), if_pos rfl]
    exact (congrArg (Dev.settled · s.mem) (if_neg hs)).trans (Dev.settled_nil s.mem hev)
  · obtain ⟨h0, h1⟩ := ctl_bits.2 hv
    have hf : s.dev.host (fun d => if v % 4 = 2 then d.pageWrite s.mem pSTP 0 0x40 v else d)
        = { (s.dev.stp.couch.map fun e => e.1).foldl Dev.queueCleared s.dev with
            stp := { ((s.dev.stp.couch.map fun e => e.1).foldl Dev.queueCleared s.dev).stp with state := .idle } } := by
      rw [Dev.host_on ha, if_pos hv, Dev.pageWrite_stpCtl _ _ _ hb, h0, h1, if_pos rfl, if_neg (by decide)]
      exact Dev.ackSpoil_quiet hs hq hr
    have hm : ((s.dev.stp.couch.map fun e => e.1).foldl Dev.queueCleared s.dev).mask 79961145 = s.dev.mask 79961145 :=
      Dev.mask_foldl _ (fun d q => d.queueCleared_mask (by decide) q) _ _
    have hempty := fun r hr' => Dev.queuesCleared_empty (s.dev.stp.couch.map fun e => e.1) s.dev (r := r) hr' (.inl (Dev.couch_mem hr'))
    generalize (s.dev.stp.couch.map fun e => e.1).foldl Dev.queueCleared s.dev = e at hf hm hempty
    refine Answers.ends (ok := true) (f := fun m d => d.host fun d => if v % 4 = 2 then d.pageWrite m pSTP 0 0x40 v else d) rfl rfl hf ?_
    rintro ⟨_, _, _⟩ rfl
    exact ⟨rfl, hempty, Dev.tiles_of_mask (by decide) hm, Dev.col_of_mask (by decide) hm, Dev.syn_of_mask (by decide) hm⟩
  · obtain ⟨h0, h1⟩ := ctl_bits.2 hv
    refine exec_access_same (ok := true) (g := fun m d => if v % 4 = 2 then d.pageWrite m pSTP 0 0x40 v else d) rfl rfl hw ?_
    rw [if_pos hv, Dev.pageWrite_stpCtl _ _ _ hb, h0, h1, if_pos rfl, if_neg (by decide)]
    unfold Dev.ackSpoil
    exact if_pos (by simp [hs])

end Sys2Proof.Machine
end


section
/-! PROOFS. Facts on a stack's accesses to one line whose cells are as they were written (R244, R249 to R251). -/

namespace Sys2Proof.Machine

/-! ### Addresses of one line -/

theorem stackOf_line {x a : Nat} (h : x / 64 = a / 64) : stackOf x = stackOf a := by
  unfold stackOf stackBytes
  omega

theorem lineOf_line {x a : Nat} (h : x / 64 = a / 64) : lineOf x = lineOf a := by
  unfold lineOf stackBytes
  omega

theorem Dev.cellsAt_line (d : Dev) {x a : Nat} (h : x / 64 = a / 64) : d.cellsAt x = d.cellsAt a := by
  unfold Dev.cellsAt
  rw [stackOf_line h, lineOf_line h]

theorem Dev.cellsAt_congr {d e : Dev} (h : e.stks = d.stks) (a : Nat) : e.cellsAt a = d.cellsAt a := by
  unfold Dev.cellsAt
  rw [Dev.stack_congr h]

theorem line_start (a : Nat) : a / 64 * 64 / 64 = a / 64 := Nat.mul_div_cancel _ (by decide)

theorem eraseDups_replicate {α : Type} [BEq α] [LawfulBEq α] (x : α) : ∀ n : Nat, (List.replicate (n + 1) x).eraseDups = [x]
  | 0 => rfl
  | n + 1 => by
    rw [List.replicate_succ, List.eraseDups_cons]
    have hf : (List.replicate (n + 1) x).filter (fun b => !b == x) = [] :=
      List.filter_eq_nil_iff.mpr fun y hy => by simp [List.eq_of_mem_replicate hy]
    rw [hf]
    rfl

/-- Addresses that lie in one line have that line. -/
theorem linesOf_line {as : List Nat} {a : Nat} (hne : as ≠ []) (h : ∀ x ∈ as, x / 64 = a / 64) : linesOf as = [a / 64 * 64] := by
  have hmap : as.map (fun x => x / 64 * 64) = List.replicate as.length (a / 64 * 64) :=
    List.eq_replicate_iff.mpr ⟨List.length_map .., fun y hy => by
      obtain ⟨x, hx, rfl⟩ := List.mem_map.mp hy
      rw [h x hx]⟩
  obtain ⟨n, hn⟩ := Nat.exists_eq_succ_of_ne_zero (fun h0 => hne (List.length_eq_zero_iff.mp h0))
  unfold linesOf
  rw [hmap, hn]
  exact eraseDups_replicate ..

/-! ### Bytes at listed addresses -/

/-- The outbox with one more byte at each listed address. -/
def scatter (as bs : List Nat) (w : SMap Byte) : SMap Byte :=
  (as.zip bs).foldl (fun w x => SMap.insert x.1 (BitVec.ofNat 8 x.2) w) w

theorem Dev.scatterBytes_eq (d : Dev) (as bs : List Nat) : d.scatterBytes as bs = { d with wout := scatter as bs d.wout } := by
  unfold Dev.scatterBytes scatter
  generalize as.zip bs = l
  induction l generalizing d with
  | nil => rfl
  | cons x l ih => exact ih _

theorem scatter_ordered {as bs : List Nat} {w : SMap Byte} (h : w.Ordered) : (scatter as bs w).Ordered := by
  unfold scatter
  generalize as.zip bs = l
  induction l generalizing w with
  | nil => exact h
  | cons x l ih => exact ih (h.insert ..)

theorem scatter_other {as bs : List Nat} {w : SMap Byte} {x : Nat} (h : x ∉ as) : SMap.find x (scatter as bs w) = SMap.find x w := by
  induction as generalizing bs w with
  | nil => rfl
  | cons a as ih =>
    obtain ⟨hx, has⟩ : x ≠ a ∧ x ∉ as := not_or.mp fun h' => h (List.mem_cons.mpr h')
    cases bs with
    | nil => rfl
    | cons b bs => exact (ih (bs := bs) has).trans (SMap.find_insert_ne hx ..)

theorem scatter_stored {as bs : List Nat} (w : SMap Byte) (hn : as.Nodup) (hl : as.length ≤ bs.length) {i x : Nat}
    (hi : as[i]? = some x) : SMap.find x (scatter as bs w) = some (BitVec.ofNat 8 (bs.getD i 0)) := by
  induction as generalizing bs w i with
  | nil => cases hi
  | cons a as ih =>
    obtain ⟨hx, hn⟩ := List.nodup_cons.mp hn
    cases bs with
    | nil => simp at hl
    | cons b bs =>
      cases i with
      | zero =>
        cases hi
        exact (scatter_other (bs := bs) hx).trans (SMap.find_insert_same ..)
      | succ i => exact ih _ hn (Nat.le_of_succ_le_succ hl) hi

theorem Dev.byteAt_of_find {d : Dev} {x : Nat} (h : SMap.find x d.wout = none) (m : Mem) : d.byteAt m x = (Memory.read m x).toNat := by
  unfold Dev.byteAt
  rw [h]
  rfl

/-! ### Marks of a line -/

theorem Dev.lineBad_congr {d e : Dev} (h : e.linePoison = d.linePoison) (l : Nat) : e.lineBad l = d.lineBad l := by
  unfold Dev.lineBad
  rw [h]

theorem Dev.stackPoison_lines (d : Dev) (a how l : Nat) : (d.stackPoison a how).lineBad l = d.lineBad l :=
  Dev.lineBad_congr (Dev.linePoison_of_mask (by decide) (Dev.stackPoison_mask (F := 4194352) (by decide) d a how)) l

/-- PG_ERR bits stay set. -/
theorem Dev.stackPoison_err {d : Dev} {c i j : Nat} (a how : Nat) (h : bit (d.unit c i).err j = true) :
    bit ((d.stackPoison a how).unit c i).err j = true := by
  unfold Dev.stackPoison
  by_cases hk : c * 256 + i = pSTK * 256 + stackOf a
  · have hu : ∀ e : Dev, e.unit c i = e.unit pSTK (stackOf a) := fun e => by unfold Dev.unit; rw [hk]
    rw [hu] at h ⊢
    rw [Dev.unit_pgErr_same, (UnitPage.setErr_spec ..).1, bit_or, h, Bool.true_or]
  · rw [Dev.unit_pgErr_ne _ _ _ _ _ _ hk]
    exact h

theorem Dev.stackPoison_de (d : Dev) (a how : Nat) : bit ((d.stackPoison a how).unit pSTK (stackOf a)).err 1 = true := by
  unfold Dev.stackPoison
  rw [Dev.unit_pgErr_same, (UnitPage.setErr_spec ..).1, bit_or]
  exact Bool.or_eq_true_iff.mpr (.inr (by decide))

/-! ### One line is written -/

/-- What a write or an add does at one line, the one of `a`: `stored` are the bytes it puts at the addresses `as`. -/
structure Dev.LineDone (d d' : Dev) (a : Nat) (as stored : List Nat) (bad : Bool) : Prop where
  mask : d'.mask (partsMask [.units, .evr, .linePoison, .pci, .wout]) = d.mask (partsMask [.units, .evr, .linePoison, .pci, .wout])
  line : d'.lineBad (a / 64) = bad
  lines : ∀ l, l ≠ a / 64 → d'.lineBad l = d.lineBad l
  errs : ∀ c i j, bit (d.unit c i).err j = true → bit (d'.unit c i).err j = true
  wout : d'.wout = scatter as stored d.wout

theorem Dev.LineDone.stks {d d' : Dev} {a : Nat} {as bs : List Nat} {bad : Bool} (h : d.LineDone d' a as bs bad) : d'.stks = d.stks :=
  Dev.stks_of_mask (by decide) h.mask

theorem Dev.LineDone.cells {d d' : Dev} {a b : Nat} {as bs : List Nat} {bad : Bool} (h : d.LineDone d' a as bs bad) :
    d'.cellsAt b = d.cellsAt b := Dev.cellsAt_congr h.stks b

/-- The poison that a write leaves, before its bytes. -/
theorem Dev.markWrite_done (d : Dev) (x a : Nat) (hx : x / 64 = a / 64) (whole poison : Bool) :
    d.LineDone (d.markWrite x whole poison 0) a [] [] (poison || !whole && d.lineBad (a / 64)) := by
  refine ⟨Dev.markWrite_mask (by decide) .., ?_, fun l hl => ?_, fun c i j hj => ?_,
    (Dev.wout_of_mask (by decide) (Dev.markWrite_mask (F := 4196400) (by decide) d x whole poison 0)).trans rfl⟩ <;>
    unfold Dev.markWrite <;> rw [hx]
  · cases poison with
    | true =>
      rw [if_pos rfl, Dev.stackPoison_lines, Dev.lineBad_setLine_same]
      rfl
    | false =>
      rw [if_neg (by decide)]
      cases whole with
      | true => rw [if_pos rfl, Dev.lineBad_setLine_same]; rfl
      | false =>
        rw [if_neg (by decide)]
        split
        · rw [Dev.stackPoison_lines]; rfl
        · rfl
  · split
    · rw [Dev.stackPoison_lines, Dev.lineBad_setLine_ne _ _ hl]
    · split
      · rw [Dev.lineBad_setLine_ne _ _ hl]
      · split
        · rw [Dev.stackPoison_lines]
        · rfl
  · split
    · exact Dev.stackPoison_err x 1 hj
    · split
      · exact hj
      · split
        · exact Dev.stackPoison_err x 2 hj
        · exact hj

theorem Dev.LineDone.nothing {d d' : Dev} {a : Nat} {bad : Bool} (h : d.LineDone d' a [] [] bad) (bs : List Nat) :
    d.LineDone d' a [] bs bad := ⟨h.mask, h.line, h.lines, h.errs, h.wout⟩

/-- Bytes after the mark. -/
theorem Dev.LineDone.scatterBytes {d d' : Dev} {a : Nat} {bad : Bool} (h : d.LineDone d' a [] [] bad) (as bs : List Nat) :
    d.LineDone (d'.scatterBytes as bs) a as bs bad := by
  refine ⟨(Dev.scatterBytes_mask (by decide) ..).trans h.mask, ?_, fun l hl => ?_, fun c i j hj => ?_, ?_⟩
  all_goals rw [Dev.scatterBytes_eq]
  · exact h.line
  · exact h.lines l hl
  · exact h.errs c i j hj
  · exact congrArg (scatter as bs) h.wout

section
variable {d : Dev} {m : Mem} {r : Req} {as : List Nat} {a : Nat} (hne : as ≠ []) (hl : ∀ x ∈ as, x / 64 = a / 64)
  (hc : d.cellsAt a = none)

/-- A line whose cells are as they were written needs no decoding. -/
theorem Dev.openLine_clean {x : Nat} (h : d.cellsAt x = none) (whole : Bool) : d.openLine x whole = (d, 0) := by
  unfold Dev.openLine Dev.cellsGone Dev.dieModify
  rw [h]
  cases whole <;> rfl

include hne hl hc

/-- STACK_WRITE at one of its places. -/
theorem Dev.performWrite_done : d.LineDone (d.performWrite m r as) a as (mergeBytes (d.gatherBytes m as) r.val r.mask)
    (r.poison || !r.whole && d.lineBad (a / 64)) := by
  cases as with
  | nil => exact absurd rfl hne
  | cons x as =>
    have hx : x / 64 = a / 64 := hl x (List.mem_cons_self ..)
    have hmark := d.markWrite_done x a hx r.whole r.poison
    have hgather : (d.markWrite x r.whole r.poison 0).gatherBytes m (x :: as) = d.gatherBytes m (x :: as) := by
      unfold Dev.gatherBytes Dev.byteAt
      rw [show (d.markWrite x r.whole r.poison 0).wout = d.wout from hmark.wout]
    unfold Dev.performWrite
    dsimp only
    rw [Dev.openLine_clean ((d.cellsAt_line hx).trans hc)]
    dsimp only
    rw [hgather]
    exact hmark.scatterBytes ..

/-- ATOMIC_ADD at one of its places, and whether it met poison there. -/
theorem Dev.performAdd_done :
    (d.performAdd m r as).2 = (r.poison || d.lineBad (a / 64))
    ∧ d.LineDone (d.performAdd m r as).1 a (if r.poison || d.lineBad (a / 64) then [] else as)
        (toLE as.length (addElement r.kind.format (ofLE (d.gatherBytes m as)) r.val)) (r.poison || d.lineBad (a / 64)) := by
  have hlines := linesOf_line hne hl
  have hstart : a / 64 * 64 / 64 = a / 64 := line_start a
  have hmod : d.dieModify (a / 64 * 64) false = (d, 0) := by
    unfold Dev.dieModify
    rw [(d.cellsAt_line hstart).trans hc]
  have hbad : d.anyBad as = d.lineBad (a / 64) := by
    unfold Dev.anyBad
    rw [hlines, List.any_cons, List.any_nil, Bool.or_false, hstart]
  have hfold : [a / 64 * 64].foldl (fun (x : Dev × Nat) y => ((x.1.dieModify y false).1, max x.2 (x.1.dieModify y false).2)) (d, 0)
      = (d, 0) := by
    rw [List.foldl_cons, List.foldl_nil, hmod]
    rfl
  unfold Dev.performAdd
  dsimp only
  rw [hlines, hfold]
  dsimp only
  cases hp : r.poison with
  | true =>
    refine ⟨rfl, ?_⟩
    have hmark := d.markWrite_done (a / 64 * 64) a hstart false true
    unfold Dev.markWrite at hmark
    rw [if_pos rfl] at hmark
    exact hmark.nothing _
  | false =>
    rw [if_neg (by decide), if_neg (by decide), hbad]
    cases hb : d.lineBad (a / 64) with
    | true =>
      rw [if_pos rfl]
      refine ⟨rfl, ?_⟩
      obtain ⟨x, hx⟩ : ∃ x, as.headD 0 = x := ⟨_, rfl⟩
      have hm := Dev.stackPoison_mask (F := 4194352) (by decide) d (as.headD 0) 2
      exact ⟨Dev.mask_sub (by decide) hm, (Dev.stackPoison_lines ..).trans hb, fun l _ => Dev.stackPoison_lines ..,
        fun c i j hj => Dev.stackPoison_err _ _ hj, Dev.wout_of_mask (by decide) hm⟩
    | false =>
      rw [if_neg (by decide)]
      refine ⟨rfl, ?_⟩
      have hd : d.LineDone d a [] [] false := ⟨rfl, hb, fun _ _ => rfl, fun _ _ _ h => h, rfl⟩
      exact hd.scatterBytes ..

end

/-! ### The request and its DMA -/

/-- A request of a DMA in its turn ends. -/
theorem Dev.finishReq_dma {d : Dev} {r : Req} {q : Dma} (h : SMap.find r.tag (d.tile r.tile).store.dmas = some q) (hs : q.seq = r.seq)
    (status : Nat) (poison : Bool) :
    d.finishReq r status poison = d.onTile r.tile fun t => { t with store := { t.store with
      dmas := SMap.insert r.tag { q with left := q.left - 1, status := worse q.status status, poison := q.poison || poison }
        t.store.dmas } } := by
  unfold Dev.finishReq Dev.onTile
  dsimp only
  rw [h]
  dsimp only
  rw [if_neg (not_not.mpr hs)]

theorem Dev.performRead_dma {d : Dev} {r : Req} {q : Dma} (h : SMap.find r.tag (d.tile r.tile).store.dmas = some q)
    (bs : List Nat) (poison : Bool) :
    d.performRead r bs poison = d.onTile r.tile fun t =>
      let ws := r.reads.map (fun x => (⟨x.tpos, x.len, bits (ofLE bs) x.pos x.len, poison⟩ : TsWrite))
      let t := t.writeMarked q.marks ws
      { t with store := { t.store with dmas := SMap.insert r.tag { q with marks := wordMarks q.marks ws } t.store.dmas } } := by
  unfold Dev.performRead Dev.onTile
  dsimp only
  rw [h]

/-- A request as its die takes it, with no cells changed. -/
theorem Dev.begin_clean {d : Dev} (m : Mem) {s i : Nat} {ecc : Ecc} {p : ReqKind → Bool} {r : Req} {rest : List Req}
    (he : ecc.errs = []) (hh : (d.stack s).hammered.contains ecc.row = false)
    (ht : takeReq (d.otherReqs s) (d.stack s).reqs i = some (r, rest)) (hp : p r.kind = true) :
    d.begin m s i ecc p = some (r, (d.onStack s fun x => { x with reqs := rest }).activateRow s ecc.row) := by
  unfold Dev.begin Dev.disturb
  rw [hh, if_neg (by decide), ht, he]
  exact if_pos hp

theorem Dev.begin_waits {d : Dev} (m : Mem) {s i : Nat} {ecc : Ecc} (p : ReqKind → Bool)
    (h : (d.stack s).hammered.contains ecc.row = true ∨ takeReq (d.otherReqs s) (d.stack s).reqs i = none) :
    d.begin m s i ecc p = none := by
  unfold Dev.begin
  rcases h with h | h
  · exact if_pos h
  · rw [h]
    exact ite_self _

end Sys2Proof.Machine
end


section
/-! PROOFS. The accesses of a stack to one line (R244, R249 to R251). -/

namespace Sys2Proof.Machine

/-! ### A request as its die takes it -/

/-- The request has left the queue, and its row is charged. -/
def Dev.takenReq (d : Dev) (k row : Nat) (rest : List Req) : Dev :=
  (d.onStack k fun x => { x with reqs := rest }).activateRow k row

/-- The stack after that. -/
def Stack.takenReq (x : Stack) (row : Nat) (rest : List Req) : Stack :=
  { x with reqs := rest, acts := SMap.modify 0 row (· + 1) x.acts }

theorem Dev.takenReq_stack (d : Dev) (k row j : Nat) (rest : List Req) :
    (d.takenReq k row rest).stack j = if k = j then (d.stack k).takenReq row rest else d.stack j := by
  unfold Dev.takenReq Dev.activateRow
  rw [Dev.stack_onStack, Dev.stack_onStack, Dev.stack_onStack]
  by_cases h : k = j
  · rw [if_pos h, if_pos h, if_pos rfl]
    rfl
  · rw [if_neg h, if_neg h, if_neg h]

theorem Dev.takenReq_cells (d : Dev) (k row x : Nat) (rest : List Req) : (d.takenReq k row rest).cellsAt x = d.cellsAt x := by
  unfold Dev.cellsAt
  rw [Dev.takenReq_stack]
  split
  next h => rw [← h]; rfl
  next => rfl

theorem Stack.takenReq_acts (x : Stack) (row : Nat) (rest : List Req) : SMap.get 0 row (x.takenReq row rest).acts = SMap.get 0 row x.acts + 1 := by
  unfold Stack.takenReq SMap.modify
  dsimp only
  rw [SMap.get_put_same]

theorem Dev.takenReq_mask (d : Dev) (k row : Nat) (rest : List Req) :
    (d.takenReq k row rest).mask (partsMask [.stks]) = d.mask (partsMask [.stks]) :=
  (Dev.activateRow_mask (by decide) ..).trans (Dev.onStack_mask (by decide) ..)

/-- An element add is counted, in units of 1,024. -/
def Stack.addCounted (x : Stack) : Stack := { x with adds := if x.adds = 1023 then 0 else x.adds + 1 }

theorem Dev.countAdd_stack (d : Dev) (k j : Nat) : (d.countAdd k).stack j = if k = j then (d.stack k).addCounted else d.stack j := by
  unfold Dev.countAdd Stack.addCounted
  dsimp only
  by_cases h : (d.stack k).adds = 1023
  · rw [if_pos (by omega), if_pos h]
    exact (Dev.stack_congr (d := d.onStack k fun x => { x with adds := 0 }) rfl j).trans (Dev.stack_onStack ..)
  · rw [if_neg (by omega), if_neg h]
    exact Dev.stack_onStack ..

theorem Dev.countAdd_count (d : Dev) (k : Nat) : (d.countAdd k).fget stkAddcntCount k = if (d.stack k).adds = 1023
    then satAdd (2 ^ stkAddcntCount.width - 1) (d.fget stkAddcntCount k) 1 else d.fget stkAddcntCount k := by
  unfold Dev.countAdd
  dsimp only
  by_cases h : (d.stack k).adds = 1023
  · rw [if_pos (by omega), if_pos h]
    exact Dev.fget_fcount_sat ..
  · rw [if_neg (by omega), if_neg h]
    rfl

theorem Dev.countAdd_cells (d : Dev) (k x : Nat) : (d.countAdd k).cellsAt x = d.cellsAt x := by
  unfold Dev.cellsAt
  rw [Dev.countAdd_stack]
  split
  next h => rw [← h]; rfl
  next => rfl

/-! ### Both places of a request -/

theorem mem_of_mem_unless {c : Bool} {as : List Nat} {x : Nat} (h : x ∈ (if c then [] else as)) : x ∈ as := by
  cases c with
  | true => cases h
  | false => exact h

/-- What a request does at its place and, while a region migrates, at its second place. -/
structure Dev.BothDone (d d' : Dev) (a b : Nat) (as bs as' bs' : List Nat) (bad bad' two : Bool) : Prop where
  mask : d'.mask (partsMask [.units, .evr, .linePoison, .pci, .wout]) = d.mask (partsMask [.units, .evr, .linePoison, .pci, .wout])
  line : d'.lineBad (a / 64) = bad
  line' : two = true → d'.lineBad (b / 64) = bad'
  lines : ∀ l, l ≠ a / 64 → l ≠ b / 64 ∨ two = false → d'.lineBad l = d.lineBad l
  errs : ∀ c i j, bit (d.unit c i).err j = true → bit (d'.unit c i).err j = true
  rising : d'.Rising
  stored : ∀ m m', Memory.Stored d'.wout m m' →
    (∀ i x, as[i]? = some x → Memory.read m' x = BitVec.ofNat 8 (bs.getD i 0))
    ∧ (∀ i x, as'[i]? = some x → Memory.read m' x = BitVec.ofNat 8 (bs'.getD i 0))
    ∧ ∀ x, x ∉ as → x ∉ as' → Memory.read m' x = Memory.read m x

theorem Dev.LineDone.both {d e d' : Dev} {a b : Nat} {as bs as' bs' : List Nat} {bad bad' two : Bool} (h : d.LineDone e a as bs bad)
    (h1 : two = true → e.LineDone d' b as' bs' bad') (h2 : two = false → d' = e ∧ as' = [])
    (ha : ∀ x ∈ as, x / 64 = a / 64) (hb : ∀ x ∈ as', x / 64 = b / 64) (hab : a / 64 ≠ b / 64) (hn : as.Nodup) (hn' : as'.Nodup)
    (hl : as.length ≤ bs.length) (hl' : as'.length ≤ bs'.length) (hw : d.wout = []) :
    d.BothDone d' a b as bs as' bs' bad bad' two := by
  have hout : d'.wout = scatter as' bs' (scatter as bs []) := by
    cases two with
    | true => rw [(h1 rfl).wout, h.wout, hw]
    | false =>
      obtain ⟨rfl, rfl⟩ := h2 rfl
      rw [h.wout, hw]
      rfl
  have hord : d'.Rising := by
    unfold Dev.Rising
    rw [hout]
    exact scatter_ordered (scatter_ordered List.Pairwise.nil)
  refine ⟨?_, ?_, fun ht => (h1 ht).line, fun l hla hlb => ?_, fun c i j hj => ?_, hord, fun m m' hm => ⟨fun i x hi => ?_, fun i x hi => ?_,
    fun x hx hx' => ?_⟩⟩
  · cases two with
    | true => exact (h1 rfl).mask.trans h.mask
    | false => rw [(h2 rfl).1]; exact h.mask
  · cases two with
    | true => exact ((h1 rfl).lines _ hab).trans h.line
    | false => rw [(h2 rfl).1]; exact h.line
  · cases two with
    | true => exact ((h1 rfl).lines l (hlb.resolve_right (by decide))).trans (h.lines l hla)
    | false => rw [(h2 rfl).1]; exact h.lines l hla
  · cases two with
    | true => exact (h1 rfl).errs c i j (h.errs c i j hj)
    | false => rw [(h2 rfl).1]; exact h.errs c i j hj
  · refine hm.1 x _ ?_
    have hx : x ∉ as' := fun hx' => hab ((ha x (List.mem_of_getElem? hi)).symm.trans (hb x hx'))
    rw [hout, scatter_other hx]
    exact scatter_stored _ hn hl hi
  · refine hm.1 x _ ?_
    rw [hout]
    exact scatter_stored _ hn' hl' hi
  · refine hm.2 x ?_
    rw [hout, scatter_other hx', scatter_other hx]
    rfl

/-! ### The end of a request -/

/-- The DMA whose line request has ended. -/
def Dma.lineEnded (q : Dma) (marks : SMap (Nat × Bool)) (poison : Bool) : Dma :=
  { q with left := q.left - 1, status := worse q.status 0, poison := q.poison || poison, marks := marks }

theorem Dev.finishReq_ended {d : Dev} {r : Req} {q : Dma} (h : SMap.find r.tag (d.tile r.tile).store.dmas = some q) (hs : q.seq = r.seq)
    (poison : Bool) :
    SMap.find r.tag ((d.finishReq r 0 poison).tile r.tile).store.dmas = some (q.lineEnded q.marks poison)
    ∧ ((d.finishReq r 0 poison).tile r.tile).core = (d.tile r.tile).core
    ∧ ((d.finishReq r 0 poison).tile r.tile).store.ts = (d.tile r.tile).store.ts
    ∧ ((d.finishReq r 0 poison).tile r.tile).store.tsPoison = (d.tile r.tile).store.tsPoison
    ∧ ∀ p, p ≠ r.tile → (d.finishReq r 0 poison).tile p = d.tile p := by
  rw [Dev.finishReq_dma h hs]
  refine ⟨?_, ?_, ?_, ?_, fun p hp => Dev.tile_onTile_ne _ _ hp⟩ <;> rw [Dev.tile_onTile_same]
  exact SMap.find_insert_same ..

/-- Every byte of an old line, as the command finds it. -/
theorem Dev.gatherBytes_old {d : Dev} {m : Mem} {as : List Nat} (h : ∀ x ∈ as, SMap.find x d.wout = none) :
    d.gatherBytes m as = as.map fun x => (Memory.read m x).toNat :=
  List.map_congr_left fun x hx => Dev.byteAt_of_find (h x hx) m

theorem mergeBytes_length (old : List Nat) (val mask : Nat) : (mergeBytes old val mask).length = old.length := by
  unfold mergeBytes
  rw [List.length_map, List.length_zipIdx]

/-- What is left once the bytes are in the stacks. -/
theorem Dev.onlyChanges_stored {d f : Dev} {l : List Part} (hw : d.wout = [])
    (h : f.mask (partsMask (.wout :: l)) = d.mask (partsMask (.wout :: l))) : d.OnlyChanges { f with wout := [] } l := by
  have hf : d.OnlyChanges f (.wout :: l) := Dev.OnlyChanges.of_mask _ _ h fun _ => testBit_partsMask
  intro p hp
  cases p
  case wout => exact hw.symm
  all_goals exact hf _ fun hm => hp ((List.mem_cons.mp hm).resolve_left (by decide))

/-! ### The three commands -/

/-- The bytes of the line of `a`. -/
def State.lineBytes (s : State) (a : Nat) : List Nat := (List.range 64).map fun i => (Memory.read s.mem (a / 64 * 64 + i)).toNat

/-- What a read request takes into the tile store. -/
def Req.words (r : Req) (line : List Nat) (bad : Bool) : List TsWrite :=
  r.reads.map fun x => ⟨x.tpos, x.len, bits (ofLE line) x.pos x.len, bad⟩

/-- A read request that has ended: its words are in the tile store, and its DMA counts it off. -/
theorem Dev.readEnds {e : Dev} {r : Req} {q : Dma} (hq : SMap.find r.tag (e.tile r.tile).store.dmas = some q) (hseq : q.seq = r.seq)
    (line : List Nat) (bad : Bool) :
    let f := (e.performRead r line bad).finishReq r 0 bad
    SMap.find r.tag (f.tile r.tile).store.dmas = some (q.lineEnded (wordMarks q.marks (r.words line bad)) bad)
    ∧ (f.tile r.tile).core = (e.tile r.tile).core
    ∧ (f.tile r.tile).store.ts = ((e.tile r.tile).writeMarked q.marks (r.words line bad)).store.ts
    ∧ (f.tile r.tile).store.tsPoison = ((e.tile r.tile).writeMarked q.marks (r.words line bad)).store.tsPoison
    ∧ (∀ p, p ≠ r.tile → f.tile p = e.tile p) ∧ f.mask (partsMask [.tiles]) = e.mask (partsMask [.tiles]) := by
  have hread := Dev.performRead_dma hq line bad
  have htile : (e.performRead r line bad).tile r.tile
      = { (e.tile r.tile).writeMarked q.marks (r.words line bad) with
          store := { ((e.tile r.tile).writeMarked q.marks (r.words line bad)).store with
            dmas := SMap.insert r.tag { q with marks := wordMarks q.marks (r.words line bad) }
              ((e.tile r.tile).writeMarked q.marks (r.words line bad)).store.dmas } } := by
    rw [hread, Dev.tile_onTile_same]
    rfl
  have hothers : ∀ p, p ≠ r.tile → (e.performRead r line bad).tile p = e.tile p := fun p hp => by
    rw [hread, Dev.tile_onTile_ne _ _ hp]
  have hmask : (e.performRead r line bad).mask (partsMask [.tiles]) = e.mask (partsMask [.tiles]) := Dev.performRead_mask (by decide) ..
  generalize e.performRead r line bad = f at htile hothers hmask
  have hdma : SMap.find r.tag (f.tile r.tile).store.dmas = some { q with marks := wordMarks q.marks (r.words line bad) } := by
    rw [htile]
    exact SMap.find_insert_same ..
  obtain ⟨hend, hcore, hts, htp, hoth⟩ := Dev.finishReq_ended hdma hseq bad
  refine ⟨hend, hcore.trans ?_, hts.trans ?_, htp.trans ?_, fun p hp => (hoth p hp).trans (hothers p hp),
    (Dev.finishReq_mask (by decide) ..).trans hmask⟩ <;> rw [htile]
  rfl

section
variable {s : State} {k n : Nat} {ecc : Ecc} {r : Req} {rest : List Req} {q : Dma} {a b : Nat}

/-- What every access to a line shows at its end. -/
def State.LineEnds (s t : State) (k : Nat) (ecc : Ecc) (r : Req) (rest : List Req) (q : Dma) (a b : Nat) (marks : SMap (Nat × Bool))
    (poison : Bool) : Prop :=
  SMap.find r.tag (t.dev.tile r.tile).store.dmas = some (q.lineEnded marks poison)
  ∧ (t.dev.tile r.tile).core = (s.dev.tile r.tile).core ∧ (∀ p, p ≠ r.tile → t.dev.tile p = s.dev.tile p)
  ∧ (∀ j, j ≠ k → t.dev.stack j = s.dev.stack j) ∧ (t.dev.stack k).reqs = rest
  ∧ SMap.get 0 ecc.row (t.dev.stack k).acts = SMap.get 0 ecc.row (s.dev.stack k).acts + 1
  ∧ (∀ l, l ≠ a / 64 → l ≠ b / 64 ∨ r.mirrors = [] → t.dev.lineBad l = s.dev.lineBad l) ∧ t.pending = s.pending

variable (hk : k < 32) (hrow : rowOk ecc.row = true) (herr : ecc.errs = []) (hw : s.dev.wout = [])
  (hh : (s.dev.stack k).hammered.contains ecc.row = false)
  (ht : takeReq (s.dev.otherReqs k) (s.dev.stack k).reqs n = some (r, rest))
  (hne : r.addrs ≠ []) (ha : ∀ x ∈ r.addrs, x / 64 = a / 64) (hca : s.dev.cellsAt a = none)
  (hq : SMap.find r.tag (s.dev.tile r.tile).store.dmas = some q) (hseq : q.seq = r.seq)

include hk hrow in
theorem line_ok : (stkOk k && rowOk ecc.row) = true := by
  rw [hrow, show stkOk k = true from decide_eq_true hk]
  rfl

include hk hrow herr hw hh ht hne ha hca hq hseq

/-- STACK_READ. -/
theorem Answers.lineRead (hkind : r.kind = .rd) : Answers (.stackRead k n ecc) s fun t =>
    s.LineEnds t k ecc r rest q a b (wordMarks q.marks (r.words (s.lineBytes a) (s.dev.lineBad (a / 64)))) (s.dev.lineBad (a / 64))
    ∧ (t.dev.tile r.tile).store.ts = ((s.dev.tile r.tile).writeMarked q.marks (r.words (s.lineBytes a) (s.dev.lineBad (a / 64)))).store.ts
    ∧ (t.dev.tile r.tile).store.tsPoison = ((s.dev.tile r.tile).writeMarked q.marks (r.words (s.lineBytes a) (s.dev.lineBad (a / 64)))).store.tsPoison
    ∧ s.OnlyParts t [.tiles, .stks] := by
  have hbegin := s.dev.begin_clean s.mem (p := fun k => k == .rd) herr hh ht (by rw [hkind]; rfl)
  have hx : r.addrs.headD 0 / 64 = a / 64 := by
    obtain ⟨x, l, hl⟩ := List.exists_cons_of_ne_nil hne
    rw [hl]
    exact ha x (by rw [hl]; exact List.mem_cons_self ..)
  have hcells : (s.dev.takenReq k ecc.row rest).cellsAt (r.addrs.headD 0) = none := by
    rw [Dev.takenReq_cells, Dev.cellsAt_line _ hx, hca]
  have hseen : (s.dev.takenReq k ecc.row rest).seenLine s.mem (r.addrs.headD 0) = s.lineBytes a := by
    unfold Dev.seenLine
    rw [hcells]
    dsimp only
    rw [hx]
    exact List.map_congr_left fun i _ => Dev.byteAt_of_find (by
      rw [show (s.dev.takenReq k ecc.row rest).wout = [] from hw]
      rfl) _
  have hbad : (s.dev.takenReq k ecc.row rest).anyBad r.addrs = s.dev.lineBad (a / 64) := by
    unfold Dev.anyBad
    rw [linesOf_line hne ha, List.any_cons, List.any_nil, Bool.or_false, line_start]
    rfl
  have hf : s.dev.stackRead s.mem k n ecc = (((s.dev.takenReq k ecc.row rest).performRead r (s.lineBytes a) (s.dev.lineBad (a / 64))).finishReq r 0
      (s.dev.lineBad (a / 64))) := by
    unfold Dev.stackRead Dev.noteRead
    rw [hbegin]
    dsimp only
    rw [show ((s.dev.onStack k fun x => { x with reqs := rest }).activateRow k ecc.row) = s.dev.takenReq k ecc.row rest from rfl, hcells]
    dsimp only
    rw [hseen, hbad]
  obtain ⟨hend, hcore, hts, htp, hoth, hfm⟩ := Dev.readEnds (e := s.dev.takenReq k ecc.row rest) hq hseq (s.lineBytes a) (s.dev.lineBad (a / 64))
  generalize ((s.dev.takenReq k ecc.row rest).performRead r (s.lineBytes a) (s.dev.lineBad (a / 64))).finishReq r 0
    (s.dev.lineBad (a / 64)) = e at hf hend hcore hts htp hoth hfm
  have hstk : ∀ j, e.stack j = (s.dev.takenReq k ecc.row rest).stack j := Dev.stack_congr (Dev.stks_of_mask (by decide) hfm)
  have hlines : ∀ l, e.lineBad l = s.dev.lineBad l :=
    Dev.lineBad_congr ((Dev.linePoison_of_mask (F := partsMask [.tiles]) (by decide) hfm).trans rfl)
  refine Answers.parts [.tiles, .stks] (f := fun m d => d.stackRead m k n ecc) rfl (line_ok hk hrow) hw
    ((congrArg (Dev.mask _) hf).trans ((Dev.mask_sub (by decide) hfm).trans (Dev.mask_sub (by decide) (s.dev.takenReq_mask k ecc.row rest))))
    (by decide) fun ho => ?_
  dsimp only at ho ⊢
  rw [hf] at ho ⊢
  refine ⟨⟨hend, hcore, hoth, fun j hj => ?_, ?_, ?_, fun l _ _ => hlines l, rfl⟩, hts, htp, ho⟩
  · rw [hstk, Dev.takenReq_stack, if_neg (Ne.symm hj)]
  · rw [hstk, Dev.takenReq_stack, if_pos rfl]; rfl
  · rw [hstk, Dev.takenReq_stack, if_pos rfl, Stack.takenReq_acts]

omit hrow hk herr hw hh ht hne ha hca in
/-- What both places of a request leave, and its end. -/
theorem State.LineEnds.of_both {e : Dev} {as bs as' bs' : List Nat} {bad bad' poison : Bool} {d : Dev}
    (hd : d.mask (partsMask [.regs, .stks]) = s.dev.mask (partsMask [.regs, .stks]))
    (hstk : ∀ j, j ≠ k → d.stack j = s.dev.stack j) (hreqs : (d.stack k).reqs = rest)
    (hacts : SMap.get 0 ecc.row (d.stack k).acts = SMap.get 0 ecc.row (s.dev.stack k).acts + 1)
    (h : d.BothDone e a b as bs as' bs' bad bad' (!r.mirrors.isEmpty)) (t : State)
    (htd : t.dev = { e.finishReq r 0 poison with wout := [] }) (htp : t.pending = s.pending) :
    s.LineEnds t k ecc r rest q a b q.marks poison
    ∧ t.dev.lineBad (a / 64) = bad ∧ (r.mirrors ≠ [] → t.dev.lineBad (b / 64) = bad')
    ∧ (∀ c i j, bit (d.unit c i).err j = true → bit (t.dev.unit c i).err j = true)
    ∧ (t.dev.stack k = d.stack k) ∧ (∀ f i, t.dev.fget f i = d.fget f i)
    ∧ (s.dev.wout = [] → s.dev.OnlyChanges t.dev [.regs, .units, .evr, .tiles, .stks, .linePoison, .pci]) := by
  have htiles : e.tiles = s.dev.tiles := (Dev.tiles_of_mask (by decide) h.mask).trans (Dev.tiles_of_mask (by decide) hd)
  have hdma : SMap.find r.tag (e.tile r.tile).store.dmas = some q := by rw [Dev.tile_congr htiles]; exact hq
  obtain ⟨hend, hcore, -, -, hoth⟩ := Dev.finishReq_ended hdma hseq poison
  have hm := Dev.finishReq_mask (F := 256) (by decide) e r 0 poison
  have hstks : (e.finishReq r 0 poison).stks = d.stks := (Dev.stks_of_mask (by decide) hm).trans (Dev.stks_of_mask (by decide) h.mask)
  have hlines : ∀ l, (e.finishReq r 0 poison).lineBad l = e.lineBad l := Dev.lineBad_congr (Dev.linePoison_of_mask (by decide) hm)
  have hunits : (e.finishReq r 0 poison).units = e.units := Dev.units_of_mask (by decide) hm
  have hregs : (e.finishReq r 0 poison).regs = d.regs := (Dev.regs_of_mask (by decide) hm).trans (Dev.regs_of_mask (by decide) h.mask)
  have hall : (e.finishReq r 0 poison).mask (partsMask [.wout, .regs, .units, .evr, .tiles, .stks, .linePoison, .pci])
      = s.dev.mask (partsMask [.wout, .regs, .units, .evr, .tiles, .stks, .linePoison, .pci]) :=
    (Dev.mask_sub (by decide) hm).trans ((Dev.mask_sub (by decide) h.mask).trans (Dev.mask_sub (by decide) hd))
  have htwo : ∀ {l : Nat}, l ≠ b / 64 ∨ r.mirrors = [] → l ≠ b / 64 ∨ (!r.mirrors.isEmpty) = false := fun hl =>
    hl.imp_right fun hm => by rw [hm]; rfl
  have hdl : ∀ l, d.lineBad l = s.dev.lineBad l := Dev.lineBad_congr (Dev.linePoison_of_mask (by decide) hd)
  obtain ⟨_, _, _⟩ := t
  subst htd
  generalize e.finishReq r 0 poison = f at hend hcore hoth hstks hlines hunits hregs hall
  refine ⟨⟨hend, hcore.trans (congrArg Tile.core (Dev.tile_congr htiles _)), fun p hp => (hoth p hp).trans (Dev.tile_congr htiles _),
    fun j hj => (Dev.stack_congr hstks j).trans (hstk j hj), (congrArg Stack.reqs (Dev.stack_congr hstks k)).trans hreqs,
    ?_, fun l hla hlb => (hlines l).trans ((h.lines l hla (htwo hlb)).trans (hdl l)), htp⟩, (hlines _).trans h.line,
    fun hne => (hlines _).trans (h.line' (by simpa using hne)), fun c i j hj => ?_, Dev.stack_congr hstks k,
    fun f i => Dev.fget_congr hregs f i, fun hw => Dev.onlyChanges_stored hw hall⟩
  · refine Eq.trans ?_ hacts
    exact congrArg (fun x : Stack => SMap.get 0 ecc.row x.acts) (Dev.stack_congr hstks k)
  · exact (congrArg (fun u : UnitPage => bit u.err j) (Dev.unit_congr hunits c i)).trans (h.errs c i j hj)

/-- The bytes at listed addresses, as the command finds them. -/
def State.oldBytes (s : State) (as : List Nat) : List Nat := as.map fun x => (Memory.read s.mem x).toNat

variable (hn : r.addrs.Nodup) (hn' : r.mirrors.Nodup) (hb : ∀ x ∈ r.mirrors, x / 64 = b / 64) (hab : a / 64 ≠ b / 64)
  (hcb : s.dev.cellsAt b = none)
include hn hn' hb hab hcb

/-- STACK_WRITE. -/
theorem Answers.lineWrite (hkind : r.kind = .wr) : Answers (.stackWrite k n ecc) s fun t =>
    s.LineEnds t k ecc r rest q a b q.marks r.poison
    ∧ (∀ l ∈ [r.addrs, r.mirrors], ∀ i x, l[i]? = some x →
        Memory.read t.mem x = BitVec.ofNat 8 ((mergeBytes (s.oldBytes l) r.val r.mask).getD i 0))
    ∧ (∀ x, x ∉ r.addrs → x ∉ r.mirrors → Memory.read t.mem x = Memory.read s.mem x)
    ∧ t.dev.lineBad (a / 64) = (r.poison || !r.whole && s.dev.lineBad (a / 64))
    ∧ (r.mirrors ≠ [] → t.dev.lineBad (b / 64) = (r.poison || !r.whole && (!r.mirrors.isEmpty && s.dev.lineBad (b / 64))))
    ∧ (r.poison = true → bit (t.dev.unit pSTK (stackOf a)).err 1 = true)
    ∧ s.dev.OnlyChanges t.dev [.regs, .units, .evr, .tiles, .stks, .linePoison, .pci] := by
  have hbegin := s.dev.begin_clean s.mem (p := fun k => k == .wr) herr hh ht (by rw [hkind]; rfl)
  have htm := s.dev.takenReq_mask k ecc.row rest
  have hdw : (s.dev.takenReq k ecc.row rest).wout = [] := hw
  have hda : (s.dev.takenReq k ecc.row rest).cellsAt a = none := (Dev.takenReq_cells ..).trans hca
  have hdb : (s.dev.takenReq k ecc.row rest).cellsAt b = none := (Dev.takenReq_cells ..).trans hcb
  have hf : s.dev.stackWrite s.mem k n ecc = ((((s.dev.takenReq k ecc.row rest).performWrite s.mem r r.addrs).performWrite s.mem r
      r.mirrors).finishReq r 0 r.poison) := by
    unfold Dev.stackWrite
    rw [hbegin]
    rfl
  have hstk : ∀ j, j ≠ k → (s.dev.takenReq k ecc.row rest).stack j = s.dev.stack j := fun j hj => by
    rw [Dev.takenReq_stack, if_neg (Ne.symm hj)]
  have hreqs : ((s.dev.takenReq k ecc.row rest).stack k).reqs = rest := by rw [Dev.takenReq_stack, if_pos rfl]; rfl
  have hacts : SMap.get 0 ecc.row ((s.dev.takenReq k ecc.row rest).stack k).acts = SMap.get 0 ecc.row (s.dev.stack k).acts + 1 := by
    rw [Dev.takenReq_stack, if_pos rfl, Stack.takenReq_acts]
  have hdl : ∀ l, (s.dev.takenReq k ecc.row rest).lineBad l = s.dev.lineBad l := fun _ => rfl
  generalize s.dev.takenReq k ecc.row rest = d at htm hdw hda hdb hf hstk hreqs hacts hdl
  have h1 := Dev.performWrite_done (m := s.mem) (r := r) hne ha hda
  have hold : d.gatherBytes s.mem r.addrs = s.oldBytes r.addrs := Dev.gatherBytes_old fun x _ => by rw [hdw]; rfl
  rw [hold, hdl] at h1
  have hperr : r.poison = true → bit ((d.performWrite s.mem r r.addrs).unit pSTK (stackOf a)).err 1 = true := fun hp => by
    obtain ⟨x, l, hl⟩ := List.exists_cons_of_ne_nil hne
    have hx : x / 64 = a / 64 := ha x (by rw [hl]; exact List.mem_cons_self ..)
    rw [hl]
    unfold Dev.performWrite
    dsimp only
    rw [Dev.openLine_clean ((d.cellsAt_line hx).trans hda), Dev.scatterBytes_eq]
    unfold Dev.markWrite
    rw [hp, if_pos rfl, ← stackOf_line hx]
    exact Dev.stackPoison_de ..
  generalize d.performWrite s.mem r r.addrs = e at h1 hf hperr
  have hx1 : ∀ x ∈ r.mirrors, SMap.find x e.wout = none := fun x hx => by
    rw [h1.wout, hdw]
    exact scatter_other fun hx' => hab ((ha x hx').symm.trans (hb x hx))
  have hboth : d.BothDone (e.performWrite s.mem r r.mirrors) a b r.addrs (mergeBytes (s.oldBytes r.addrs) r.val r.mask) r.mirrors
      (mergeBytes (s.oldBytes r.mirrors) r.val r.mask) (r.poison || !r.whole && s.dev.lineBad (a / 64))
      (r.poison || !r.whole && s.dev.lineBad (b / 64)) (!r.mirrors.isEmpty) := by
    refine h1.both (fun hm => ?_) (fun hm => ?_) ha hb hab hn hn' ?_ ?_ hdw
    · have h2 := Dev.performWrite_done (m := s.mem) (r := r) (as := r.mirrors) (by simpa using hm) hb (h1.cells.trans hdb)
      rw [Dev.gatherBytes_old hx1, h1.lines _ (Ne.symm hab), hdl] at h2
      exact h2
    · have hm : r.mirrors = [] := by simpa using hm
      rw [hm]
      exact ⟨rfl, rfl⟩
    · rw [mergeBytes_length, State.oldBytes, List.length_map]
    · rw [mergeBytes_length, State.oldBytes, List.length_map]
  have hperr' : r.poison = true → bit ((e.performWrite s.mem r r.mirrors).unit pSTK (stackOf a)).err 1 = true := fun hp => by
    by_cases hm : r.mirrors = []
    · rw [hm]
      exact hperr hp
    · exact (Dev.performWrite_done hm hb (h1.cells.trans hdb)).errs _ _ _ (hperr hp)
  refine Answers.stores (f := fun m d => d.stackWrite m k n ecc) rfl (line_ok hk hrow) ?_ fun m' hm' => ?_
  · have hwout := Dev.wout_of_mask (by decide) (Dev.finishReq_mask (F := 256) (by decide) (e.performWrite s.mem r r.mirrors) r 0 r.poison)
    unfold Dev.Rising
    rw [hf, hwout]
    exact hboth.rising
  · dsimp only at hm' ⊢
    rw [hf] at hm' ⊢
    rw [Dev.wout_of_mask (by decide) (Dev.finishReq_mask (F := 256) (by decide) (e.performWrite s.mem r r.mirrors) r 0 r.poison)] at hm'
    obtain ⟨hsa, hsb, hso⟩ := hboth.stored s.mem m' hm'
    obtain ⟨hends, hline, hline', herrs, -, -, honly⟩ := State.LineEnds.of_both hq hseq (Dev.mask_sub (by decide) htm) hstk hreqs hacts
      hboth { s with dev := { (e.performWrite s.mem r r.mirrors).finishReq r 0 r.poison with wout := [] }, mem := m' } rfl rfl
    refine ⟨hends, fun l hl i x hi => ?_, hso, hline, fun hm => (hline' hm).trans ?_, fun hp => ?_, honly hw⟩
    · rcases List.mem_cons.mp hl with rfl | hl
      · exact hsa i x hi
      · obtain rfl := List.mem_singleton.mp hl
        exact hsb i x hi
    · rw [show r.mirrors.isEmpty = false by simpa using hm]
      rfl
    · have hunits := Dev.units_of_mask (by decide) (Dev.finishReq_mask (F := 256) (by decide) (e.performWrite s.mem r r.mirrors) r 0 r.poison)
      exact (congrArg (fun u : UnitPage => bit u.err 1) (Dev.unit_congr hunits pSTK (stackOf a))).trans (hperr' hp)

omit hrow hk herr hw hca hcb hh ht hq hseq in
/-- Both additions of a request: what its two places hold, and whether any operand was poisoned. -/
theorem Dev.performAdd_both {d : Dev} (hdw : d.wout = []) (hda : d.cellsAt a = none) (hdb : d.cellsAt b = none)
    (hdl : ∀ l, d.lineBad l = s.dev.lineBad l) :
    ((d.performAdd s.mem r r.addrs).2 || ((d.performAdd s.mem r r.addrs).1.performAdd s.mem r r.mirrors).2)
      = (r.poison || s.dev.lineBad (a / 64) || !r.mirrors.isEmpty && s.dev.lineBad (b / 64))
    ∧ d.BothDone ((d.performAdd s.mem r r.addrs).1.performAdd s.mem r r.mirrors).1 a b
      (if r.poison || s.dev.lineBad (a / 64) then [] else r.addrs)
      (toLE r.addrs.length (addElement r.kind.format (ofLE (s.oldBytes r.addrs)) r.val))
      (if r.poison || (!r.mirrors.isEmpty && s.dev.lineBad (b / 64)) then [] else r.mirrors)
      (toLE r.mirrors.length (addElement r.kind.format (ofLE (s.oldBytes r.mirrors)) r.val)) (r.poison || s.dev.lineBad (a / 64))
      (r.poison || s.dev.lineBad (b / 64)) (!r.mirrors.isEmpty) := by
  obtain ⟨hp1, h1⟩ := Dev.performAdd_done (m := s.mem) (r := r) hne ha hda
  have hold : d.gatherBytes s.mem r.addrs = s.oldBytes r.addrs := Dev.gatherBytes_old fun x _ => by rw [hdw]; rfl
  rw [hdl] at hp1
  rw [hold, hdl] at h1
  rw [hp1]
  generalize (d.performAdd s.mem r r.addrs).1 = e at h1 ⊢
  have hx1 : ∀ x ∈ r.mirrors, SMap.find x e.wout = none := fun x hx => by
    rw [h1.wout, hdw]
    refine scatter_other fun hx' => ?_
    split at hx'
    · cases hx'
    · exact hab ((ha x hx').symm.trans (hb x hx))
  have hnsub : ∀ (c : Bool) {as : List Nat}, as.Nodup → (if c then [] else as).Nodup := fun c as h => by
    cases c with
    | true => exact List.nodup_nil
    | false => exact h
  have hlen : ∀ (c : Bool) (as : List Nat) (v : Nat), (if c then [] else as).length ≤ (toLE as.length v).length := fun c as v => by
    rw [toLE_length]
    cases c with
    | true => exact Nat.zero_le _
    | false => exact le_refl _
  have h2 : r.mirrors ≠ [] → (e.performAdd s.mem r r.mirrors).2 = (r.poison || s.dev.lineBad (b / 64))
      ∧ e.LineDone (e.performAdd s.mem r r.mirrors).1 b (if r.poison || s.dev.lineBad (b / 64) then [] else r.mirrors)
        (toLE r.mirrors.length (addElement r.kind.format (ofLE (s.oldBytes r.mirrors)) r.val)) (r.poison || s.dev.lineBad (b / 64)) := fun hm => by
    have h := Dev.performAdd_done (m := s.mem) (r := r) hm hb (h1.cells.trans hdb)
    rw [Dev.gatherBytes_old hx1, h1.lines _ (Ne.symm hab), hdl] at h
    exact h
  have hnone : r.mirrors = [] → e.performAdd s.mem r r.mirrors = (e, r.poison) := fun hm => by
    rw [hm]
    unfold Dev.performAdd
    cases r.poison <;> rfl
  constructor
  · by_cases hm : r.mirrors = []
    · rw [hnone hm, hm]
      cases r.poison <;> cases s.dev.lineBad (a / 64) <;> rfl
    · rw [(h2 hm).1, show r.mirrors.isEmpty = false by simpa using hm]
      cases r.poison <;> cases s.dev.lineBad (a / 64) <;> rfl
  · refine h1.both (fun hm => ?_) (fun hm => ?_) (fun x hx => ha x (mem_of_mem_unless hx)) (fun x hx => hb x (mem_of_mem_unless hx)) hab (hnsub _ hn) (hnsub _ hn')
      (hlen ..) (hlen ..) hdw
    · rw [hm, Bool.true_and]
      exact (h2 (by simpa using hm)).2
    · have hm : r.mirrors = [] := by simpa using hm
      rw [hnone hm, hm]
      exact ⟨rfl, ite_self _⟩

/-- ATOMIC_ADD. -/
theorem Answers.lineAdd (hkind : r.kind = .add32 ∨ r.kind = .add64) : Answers (.atomicAdd k n ecc) s fun t =>
    s.LineEnds t k ecc r rest q a b q.marks (r.poison || s.dev.lineBad (a / 64) || !r.mirrors.isEmpty && s.dev.lineBad (b / 64))
    ∧ (∀ e ∈ [(r.addrs, s.dev.lineBad (a / 64)), (r.mirrors, !r.mirrors.isEmpty && s.dev.lineBad (b / 64))], ∀ i x, e.1[i]? = some x →
        Memory.read t.mem x = if r.poison || e.2 then Memory.read s.mem x
          else BitVec.ofNat 8 ((toLE e.1.length (addElement r.kind.format (ofLE (s.oldBytes e.1)) r.val)).getD i 0))
    ∧ (∀ x, x ∉ r.addrs → x ∉ r.mirrors → Memory.read t.mem x = Memory.read s.mem x)
    ∧ t.dev.lineBad (a / 64) = (r.poison || s.dev.lineBad (a / 64))
    ∧ (t.dev.stack k).adds = (if (s.dev.stack k).adds = 1023 then 0 else (s.dev.stack k).adds + 1)
    ∧ t.dev.fget stkAddcntCount k = (if (s.dev.stack k).adds = 1023
        then satAdd (2 ^ stkAddcntCount.width - 1) (s.dev.fget stkAddcntCount k) 1 else s.dev.fget stkAddcntCount k)
    ∧ s.dev.OnlyChanges t.dev [.regs, .units, .evr, .tiles, .stks, .linePoison, .pci] := by
  have hbegin := s.dev.begin_clean s.mem (p := fun k => k != .rd && k != .wr) herr hh ht (by rcases hkind with h | h <;> rw [h] <;> rfl)
  have htm : ((s.dev.takenReq k ecc.row rest).countAdd k).mask (partsMask [.regs, .stks]) = s.dev.mask (partsMask [.regs, .stks]) :=
    (Dev.countAdd_mask (by decide) ..).trans (Dev.mask_sub (by decide) (s.dev.takenReq_mask k ecc.row rest))
  have hdw : ((s.dev.takenReq k ecc.row rest).countAdd k).wout = [] := (Dev.wout_of_mask (by decide) htm).trans hw
  have hda : ((s.dev.takenReq k ecc.row rest).countAdd k).cellsAt a = none :=
    (Dev.countAdd_cells ..).trans ((Dev.takenReq_cells ..).trans hca)
  have hdb : ((s.dev.takenReq k ecc.row rest).countAdd k).cellsAt b = none :=
    (Dev.countAdd_cells ..).trans ((Dev.takenReq_cells ..).trans hcb)
  have hf : s.dev.atomicAdd s.mem k n ecc = ((((s.dev.takenReq k ecc.row rest).countAdd k).performAdd s.mem r r.addrs).1.performAdd s.mem r
      r.mirrors).1.finishReq r 0 ((((s.dev.takenReq k ecc.row rest).countAdd k).performAdd s.mem r r.addrs).2
        || ((((s.dev.takenReq k ecc.row rest).countAdd k).performAdd s.mem r r.addrs).1.performAdd s.mem r r.mirrors).2) := by
    unfold Dev.atomicAdd
    rw [hbegin]
    rfl
  have hstk : ∀ j, j ≠ k → ((s.dev.takenReq k ecc.row rest).countAdd k).stack j = s.dev.stack j := fun j hj => by
    rw [Dev.countAdd_stack, if_neg (Ne.symm hj), Dev.takenReq_stack, if_neg (Ne.symm hj)]
  have hown : ((s.dev.takenReq k ecc.row rest).countAdd k).stack k = ((s.dev.stack k).takenReq ecc.row rest).addCounted := by
    rw [Dev.countAdd_stack, if_pos rfl, Dev.takenReq_stack, if_pos rfl]
  have hcount : ((s.dev.takenReq k ecc.row rest).countAdd k).fget stkAddcntCount k = (if (s.dev.stack k).adds = 1023
      then satAdd (2 ^ stkAddcntCount.width - 1) (s.dev.fget stkAddcntCount k) 1 else s.dev.fget stkAddcntCount k) := by
    rw [Dev.countAdd_count, Dev.takenReq_stack, if_pos rfl]
    rfl
  have hdl : ∀ l, ((s.dev.takenReq k ecc.row rest).countAdd k).lineBad l = s.dev.lineBad l :=
    Dev.lineBad_congr (Dev.linePoison_of_mask (by decide) htm)
  generalize (s.dev.takenReq k ecc.row rest).countAdd k = d at htm hdw hda hdb hf hstk hown hcount hdl
  obtain ⟨hpoison, hboth⟩ := Dev.performAdd_both (s := s) hne ha hn hn' hb hab hdw hda hdb hdl
  rw [hpoison] at hf
  generalize ((d.performAdd s.mem r r.addrs).1.performAdd s.mem r r.mirrors).1 = f at hf hboth
  have hsub : ∀ {c : Bool} {as : List Nat} {x : Nat}, x ∈ (if c then [] else as) → x ∈ as := mem_of_mem_unless
  have hwf := Dev.wout_of_mask (by decide) (Dev.finishReq_mask (F := 256) (by decide) f r 0
    (r.poison || s.dev.lineBad (a / 64) || !r.mirrors.isEmpty && s.dev.lineBad (b / 64)))
  refine Answers.stores (f := fun m d => d.atomicAdd m k n ecc) rfl (line_ok hk hrow) ?_ fun m' hm' => ?_
  · unfold Dev.Rising
    rw [hf, hwf]
    exact hboth.rising
  · dsimp only at hm' ⊢
    rw [hf] at hm' ⊢
    rw [hwf] at hm'
    obtain ⟨hsa, hsb, hso⟩ := hboth.stored s.mem m' hm'
    generalize (r.poison || s.dev.lineBad (a / 64) || !r.mirrors.isEmpty && s.dev.lineBad (b / 64)) = met
    obtain ⟨hends, hline, -, -, hstack, hfget, honly⟩ := State.LineEnds.of_both hq hseq htm hstk (congrArg Stack.reqs hown)
      ((congrArg (fun x : Stack => SMap.get 0 ecc.row x.acts) hown).trans (Stack.takenReq_acts (s.dev.stack k) ecc.row rest)) hboth
      { s with dev := { f.finishReq r 0 met with wout := [] }, mem := m' } rfl rfl
    refine ⟨hends, fun x hx i y hi => ?_, fun x hx hx' => hso x (fun h => hx (hsub h)) fun h => hx' (hsub h), hline, ?_,
      (hfget ..).trans hcount, honly hw⟩
    · rcases List.mem_cons.mp hx with rfl | hx
      · have hy : y ∈ r.addrs := List.mem_of_getElem? hi
        dsimp only
        cases hc : (r.poison || s.dev.lineBad (a / 64)) with
        | true =>
          rw [hc] at hso
          exact hso y (fun h => by cases h) fun h => hab ((ha y hy).symm.trans (hb y (hsub h)))
        | false =>
          rw [hc] at hsa
          exact hsa i y hi
      · obtain rfl := List.mem_singleton.mp hx
        have hy : y ∈ r.mirrors := List.mem_of_getElem? hi
        dsimp only
        cases hc : (r.poison || !r.mirrors.isEmpty && s.dev.lineBad (b / 64)) with
        | true =>
          rw [hc] at hso
          exact hso y (fun h => hab ((ha y (hsub h)).symm.trans (hb y hy))) fun h => by cases h
        | false =>
          rw [hc] at hsb
          exact hsb i y hi
    · rw [hstack, hown]
      rfl

end

/-! ### The obligation -/

/-- Settles O32: each place of a request is one line (`Dev.LineDone`), both together what the command stores, and the request's
DMA counts it off. -/
theorem lineAccesses : Obligations.LineAccesses := by
  unfold Obligations.LineAccesses
  intro s k n ecc hk hrow herr hw
  refine ⟨fun h => ⟨?_, ?_, ?_⟩, fun r rest q a b hh ht hne hn hn' ha hb hab hca hcb hq hseq => ?_⟩
  · refine runIf_same (f := fun m d => d.stackRead m k n ecc) (line_ok hk hrow) hw ?_
    unfold Dev.stackRead
    rw [Dev.begin_waits s.mem _ h]
  · refine runIf_same (f := fun m d => d.stackWrite m k n ecc) (line_ok hk hrow) hw ?_
    unfold Dev.stackWrite
    rw [Dev.begin_waits s.mem _ h]
  · refine runIf_same (f := fun m d => d.atomicAdd m k n ecc) (line_ok hk hrow) hw ?_
    unfold Dev.atomicAdd
    rw [Dev.begin_waits s.mem _ h]
  · exact ⟨Answers.lineRead hk hrow herr hw hh ht hne ha hca hq hseq,
      Answers.lineWrite hk hrow herr hw hh ht hne ha hca hq hseq hn hn' hb hab hcb,
      Answers.lineAdd hk hrow herr hw hh ht hne ha hca hq hseq hn hn' hb hab hcb⟩

end Sys2Proof.Machine
end


section
/-! PROOFS. Facts on reads of a line whose cells have changed (R246, R247, R249, R258). -/

namespace Sys2Proof.Machine

/-! ### Fields that a command leaves -/

/-- From `d` to `e` no field changes but those at the places `ps`. -/
structure Dev.FieldsBut (ps : List Nat) (d e : Dev) : Prop where
  same : ∀ (f : Field) i, f.place < 2 ^ 23 → f.place ∉ ps → e.fget f i = d.fget f i

namespace Dev.FieldsBut
variable {ps : List Nat} {d e : Dev}

theorem refl (ps : List Nat) (d : Dev) : FieldsBut ps d d := ⟨fun _ _ _ _ => rfl⟩

theorem trans {f : Dev} (h : FieldsBut ps d e) (k : FieldsBut ps e f) : FieldsBut ps d f :=
  ⟨fun x i hx hp => (k.same x i hx hp).trans (h.same x i hx hp)⟩

theorem fset (h : FieldsBut ps d e) (x : Field) (i v : Nat) (hlt : x.place < 2 ^ 23) (hx : x.place ∈ ps) :
    FieldsBut ps d (e.fset x i v) := by
  refine h.trans ⟨fun f j hf hp => Dev.fget_fset_place e i j v ⟨hlt, hf, fun hq => hp ?_⟩⟩
  rw [hq]
  exact hx

theorem of_regs (h : e.regs = d.regs) : FieldsBut ps d e := ⟨fun f i _ _ => Dev.fget_congr h f i⟩

theorem of_mask {F : Nat} (hF : F.testBit 3 = false) (h : e.mask F = d.mask F) : FieldsBut ps d e :=
  of_regs (Dev.regs_of_mask hF h)

theorem ite {c : Prop} [Decidable c] {f : Dev} (h : c → FieldsBut ps d e) (k : ¬ c → FieldsBut ps d f) :
    FieldsBut ps d (if c then e else f) := by
  by_cases hc : c
  · rw [if_pos hc]; exact h hc
  · rw [if_neg hc]; exact k hc

theorem sub {qs : List Nat} (h : FieldsBut ps d e) (hs : ∀ p ∈ ps, p ∈ qs) : FieldsBut qs d e :=
  ⟨fun f i hf hp => h.same f i hf fun hm => hp (hs _ hm)⟩

end Dev.FieldsBut

/-- The fields that a stack's health moves. -/
def healthPlaces : List Nat := [stkStatHealth.place, dklHmgenGen.place]

theorem Dev.worsen_fields (d : Dev) (s h : Nat) : d.FieldsBut healthPlaces (d.worsen s h) := by
  have hre : ∀ (e : Dev) i, e.FieldsBut healthPlaces (e.rehealth i) := fun e i => by
    unfold Dev.rehealth
    refine .ite (fun _ => .refl ..) fun _ => .trans (.fset ?_ dklHmgenGen 0 _ (by decide) (by decide))
      (.of_mask (F := 32) (by decide) (Dev.record_mask (by decide) ..))
    exact .of_regs rfl
  unfold Dev.worsen
  dsimp only
  refine .ite (fun _ => .refl ..) fun _ => .trans ?_ (.of_mask (F := 33) (by decide) (Dev.checkDegraded_mask (by decide) ..))
  have h1 := (FieldsBut.fset (.refl healthPlaces d) stkStatHealth s h (by decide) (by decide)).trans (hre _ (0x100 + s))
  have h2 : ∀ (c : Prop) [Decidable c] (e f : Dev), d.FieldsBut healthPlaces f →
      e.mask 32 = f.mask 32 → d.FieldsBut healthPlaces (if c then e else f) := fun c _ e f hf he =>
    .ite (fun _ => hf.trans (.of_mask (by decide) he)) fun _ => hf
  have h3 := h2 (((d.fset stkStatHealth s h).rehealth (0x100 + s)).health (0x100 + s) = (d.fset stkStatHealth s h).health (0x100 + s))
    _ _ h1 (Dev.record_mask (by decide) _ 0x5001 pSTK s (0x100 + s) h (d.fget stkStatHealth s))
  exact .ite (fun _ => h3.trans (.of_mask (F := 4096) (by decide) (Dev.dkEvent_mask (by decide) ..))) fun _ => h3

/-! ### Stacks that a read leaves -/

/-- The stack but for what its reads count. -/
def Stack.served (x : Stack) : SMap Nat × List Nat := (x.acts, x.demand)

/-- From `d` to `e` only stack `k` changes, and in it neither the activations nor the queue of the Doctor. -/
structure Dev.StackKeeps (k : Nat) (d e : Dev) : Prop where
  own : (e.stack k).served = (d.stack k).served
  others : ∀ j, j ≠ k → e.stack j = d.stack j

namespace Dev.StackKeeps
variable {k : Nat} {d e : Dev}

theorem refl (k : Nat) (d : Dev) : StackKeeps k d d := ⟨rfl, fun _ _ => rfl⟩

theorem trans {f : Dev} (h : StackKeeps k d e) (g : StackKeeps k e f) : StackKeeps k d f :=
  ⟨g.own.trans h.own, fun j hj => (g.others j hj).trans (h.others j hj)⟩

theorem of_stks (h : e.stks = d.stks) : StackKeeps k d e :=
  ⟨congrArg Stack.served (Dev.stack_congr h k), fun j _ => Dev.stack_congr h j⟩

theorem onStack (h : StackKeeps k d e) (f : Stack → Stack) (hf : ∀ x, (f x).served = x.served) :
    StackKeeps k d (e.onStack k f) := by
  refine h.trans ⟨?_, fun j hj => ?_⟩ <;> rw [Dev.stack_onStack]
  · rw [if_pos rfl, hf]
  · rw [if_neg (Ne.symm hj)]

theorem ite {c : Prop} [Decidable c] {f : Dev} (h : c → StackKeeps k d e) (g : ¬ c → StackKeeps k d f) :
    StackKeeps k d (if c then e else f) := by
  by_cases hc : c
  · rw [if_pos hc]; exact h hc
  · rw [if_neg hc]; exact g hc

end Dev.StackKeeps

theorem Dev.lowerBin_stacks (d : Dev) (s row : Nat) : d.StackKeeps s (d.lowerBin s row) := by
  unfold Dev.lowerBin
  dsimp only
  refine .ite (fun _ => .refl ..) fun _ => ?_
  have hb : ∀ v, d.StackKeeps s (d.onStack s fun x => { x with bins := SMap.put 3 row v x.bins }) := fun v =>
    .onStack (.refl ..) _ fun _ => rfl
  have hc : d.StackKeeps s (if SMap.get 3 row (d.stack s).bins = 1
      then (d.onStack s fun x => { x with bins := SMap.put 3 row (SMap.get 3 row (d.stack s).bins - 1) x.bins }).fcount
        stkRefbinB0rows s 1
      else d.onStack s fun x => { x with bins := SMap.put 3 row (SMap.get 3 row (d.stack s).bins - 1) x.bins }) :=
    .ite (fun _ => (hb _).trans (.of_stks rfl)) fun _ => hb _
  split
  · exact hc.trans (.of_stks rfl)
  · exact hc

theorem Dev.lowerBin_fields (d : Dev) (s row : Nat) : d.FieldsBut [stkRefbinB0rows.place] (d.lowerBin s row) := by
  unfold Dev.lowerBin
  dsimp only
  refine .ite (fun _ => .refl ..) fun _ => ?_
  have hb : ∀ f : Stack → Stack, FieldsBut [stkRefbinB0rows.place] d (d.onStack s f) := fun f =>
    .of_mask (F := 1024) (by decide) (Dev.onStack_mask (by decide) ..)
  have hc := FieldsBut.ite (c := SMap.get 3 row (d.stack s).bins = 1)
    (fun _ => (hb fun x => { x with bins := SMap.put 3 row (SMap.get 3 row (d.stack s).bins - 1) x.bins }).fset stkRefbinB0rows s
      (satAdd (2 ^ stkRefbinB0rows.width - 1) ((d.onStack s fun x => { x with
        bins := SMap.put 3 row (SMap.get 3 row (d.stack s).bins - 1) x.bins }).fget stkRefbinB0rows s) 1) (by decide) (by decide))
    (fun _ => hb fun x => { x with bins := SMap.put 3 row (SMap.get 3 row (d.stack s).bins - 1) x.bins })
  split
  · exact hc.trans (.of_regs rfl)
  · exact hc

/-! ### A scrub is requested -/

theorem Dev.requestScrub_demand (d : Dev) (s line : Nat) :
    ((d.requestScrub s line).stack s).demand =
      (if d.fget docCtlDemandEn 0 = 1 ∧ line ∉ (d.stack s).demand ∧ (d.stack s).demand.length < 256
        then (d.stack s).demand ++ [line] else (d.stack s).demand)
    ∧ ((d.requestScrub s line).stack s).acts = (d.stack s).acts
    ∧ ∀ j, j ≠ s → (d.requestScrub s line).stack j = d.stack j := by
  unfold Dev.requestScrub Dev.fbit
  dsimp only
  by_cases he : d.fget docCtlDemandEn 0 = 1
  · rw [he]
    by_cases hm : line ∈ (d.stack s).demand
    · rw [if_pos (by simp [hm]), if_neg fun h => h.2.1 hm]
      exact ⟨rfl, rfl, fun _ _ => rfl⟩
    · rw [if_neg (by simp [hm])]
      by_cases hl : (d.stack s).demand.length < 256
      · rw [if_neg (by simpa using hl), if_pos ⟨rfl, hm, hl⟩]
        refine ⟨?_, ?_, fun j hj => Dev.stack_setStack_ne _ _ hj⟩ <;> rw [Dev.stack_setStack_same]
      · rw [if_pos (by simpa using hl), if_neg fun h => hl h.2.2]
        exact ⟨rfl, rfl, fun _ _ => rfl⟩
  · rw [beq_eq_false_iff_ne.mpr he, if_neg (by simp), if_pos (by simp), if_neg fun h => he h.1]
    exact ⟨rfl, rfl, fun _ _ => rfl⟩

theorem Dev.requestScrub_fields (d : Dev) (s line : Nat) : d.FieldsBut [docDropcntCount.place] (d.requestScrub s line) := by
  unfold Dev.requestScrub
  dsimp only
  exact .ite (fun _ => .refl ..) fun _ => .ite (fun _ => .fset (.refl ..) docDropcntCount 0 _ (by decide) (by decide)) fun _ =>
    .of_mask (F := 1024) (by decide) (Dev.setStack_mask (by decide) ..)

/-! ### A corrected read -/

/-- The fields that a corrected read may change. -/
def correctedPlaces : List Nat :=
  [stkCecntCount.place, stkRefbinB0rows.place, docDropcntCount.place, stkStatHealth.place, dklHmgenGen.place]

/-- What a corrected read shows: it counts, its row is charged, and a scrub of its line is asked for. -/
structure Dev.Corrects (d e : Dev) (a row : Nat) : Prop where
  err : bit (e.unit pSTK (stackOf a)).err 0 = true
  count : e.fget stkCecntCount (stackOf a) = satAdd (2 ^ 32 - 1) (d.fget stkCecntCount (stackOf a)) 1
  acts : SMap.get 0 row (e.stack (stackOf a)).acts = SMap.get 0 row (d.stack (stackOf a)).acts + 1
  demand : (e.stack (stackOf a)).demand =
    (if d.fget docCtlDemandEn 0 = 1 ∧ lineOf a ∉ (d.stack (stackOf a)).demand ∧ (d.stack (stackOf a)).demand.length < 256
      then (d.stack (stackOf a)).demand ++ [lineOf a] else (d.stack (stackOf a)).demand)
  others : ∀ j, j ≠ stackOf a → e.stack j = d.stack j
  fields : d.FieldsBut correctedPlaces e

theorem Dev.onStack_fields (d : Dev) (s : Nat) (f : Stack → Stack) (ps : List Nat) : d.FieldsBut ps (d.onStack s f) := .of_regs rfl

/-- A read is counted, and its row is charged. -/
def Dev.readCorrected (d : Dev) (a symbols row : Nat) : Dev :=
  ((d.fcount stkCecntCount (stackOf a) 1).pgErr pSTK (stackOf a) bCE 0x1002 (lineOf a) symbols 0).activateRow (stackOf a) row

theorem Dev.readCorrected_spec (d : Dev) (a symbols row : Nat) :
    bit ((d.readCorrected a symbols row).unit pSTK (stackOf a)).err 0 = true
    ∧ (d.readCorrected a symbols row).fget stkCecntCount (stackOf a) = satAdd (2 ^ 32 - 1) (d.fget stkCecntCount (stackOf a)) 1
    ∧ SMap.get 0 row ((d.readCorrected a symbols row).stack (stackOf a)).acts = SMap.get 0 row (d.stack (stackOf a)).acts + 1
    ∧ ((d.readCorrected a symbols row).stack (stackOf a)).demand = (d.stack (stackOf a)).demand
    ∧ (∀ j, j ≠ stackOf a → (d.readCorrected a symbols row).stack j = d.stack j)
    ∧ d.FieldsBut [stkCecntCount.place] (d.readCorrected a symbols row) := by
  have hm := Dev.pgErr_mask (F := 4194352) (by decide) (d.fcount stkCecntCount (stackOf a) 1) pSTK (stackOf a) bCE 0x1002 (lineOf a) symbols 0
  have hu := Dev.unit_pgErr_same (d.fcount stkCecntCount (stackOf a) 1) pSTK (stackOf a) bCE 0x1002 (lineOf a) symbols 0
  have hregs := Dev.regs_of_mask (by decide) hm
  have hstks := (Dev.stks_of_mask (by decide) hm).trans (rfl : (d.fcount stkCecntCount (stackOf a) 1).stks = d.stks)
  unfold Dev.readCorrected
  generalize (d.fcount stkCecntCount (stackOf a) 1).pgErr pSTK (stackOf a) bCE 0x1002 (lineOf a) symbols 0 = e at hu hregs hstks
  have hs : ∀ j, (e.activateRow (stackOf a) row).stack j = if stackOf a = j
      then { d.stack (stackOf a) with acts := SMap.modify 0 row (· + 1) (d.stack (stackOf a)).acts } else d.stack j := fun j => by
    unfold Dev.activateRow
    rw [Dev.stack_onStack, Dev.stack_congr hstks, Dev.stack_congr hstks]
    rfl
  refine ⟨?_, ?_, ?_, ?_, fun j hj => ?_, ?_⟩
  · refine (congrArg (fun u : UnitPage => bit u.err 0) hu).trans ?_
    rw [(UnitPage.setErr_spec ..).1, bit_or]
    exact Bool.or_eq_true_iff.mpr (.inr (by decide))
  · exact (Dev.fget_congr hregs ..).trans (Dev.fget_fcount_sat ..)
  · rw [hs, if_pos rfl]
    unfold SMap.modify
    dsimp only
    rw [SMap.get_put_same]
  · rw [hs, if_pos rfl]
  · rw [hs, if_neg (Ne.symm hj)]
  · exact (FieldsBut.fset (.refl ..) stkCecntCount (stackOf a) _ (by decide) (by decide)).trans (.of_regs hregs)

/-- The corrections of the last day, and the row's repair where they are enough. -/
def Dev.correctionKept (d : Dev) (now s row : Nat) : Dev :=
  d.onStack s fun x =>
    let x := { x with hourCe := x.hourCe + 1
                      corrections := (x.corrections.filter (fun c => decide (now < c.2 + daySeconds))) ++ [(row, now)] }
    if d.fget stkRepairThresh s ≤ (x.corrections.filter (fun c => c.1 == row)).length then x.due row else x

theorem Dev.correctionKept_stacks (d : Dev) (now s row : Nat) : d.StackKeeps s (d.correctionKept now s row) := by
  refine .onStack (.refl ..) _ fun x => ?_
  dsimp only
  split
  · unfold Stack.due
    split <;> rfl
  · rfl

theorem Dev.correctedRead_eq (d : Dev) (a symbols row : Nat) (retention : Bool) :
    d.correctedRead a symbols row retention true =
      let e := d.readCorrected a symbols row
      let e := if retention then e.lowerBin (stackOf a) row else e
      let e := (e.correctionKept (d.fget glbOpsecSeconds 0) (stackOf a) row).requestScrub (stackOf a) (lineOf a)
      if 1000000 < (e.stack (stackOf a)).hourCe then e.worsen (stackOf a) 1 else e := by
  unfold Dev.correctedRead
  dsimp only
  rw [if_pos rfl]
  rfl

theorem Dev.correctedRead_corrects (d : Dev) (a symbols row : Nat) (retention : Bool) :
    d.Corrects (d.correctedRead a symbols row retention true) a row := by
  obtain ⟨herr, hcount, hacts, hdem, hoth, hfld⟩ := d.readCorrected_spec a symbols row
  rw [Dev.correctedRead_eq]
  dsimp only
  generalize d.readCorrected a symbols row = e at herr hcount hacts hdem hoth hfld ⊢
  have hu1 : (if retention then e.lowerBin (stackOf a) row else e).units = e.units := by
    split
    · exact Dev.units_of_mask (by decide) (Dev.lowerBin_mask (F := 8389640) (by decide) ..)
    · rfl
  have hs1 : e.StackKeeps (stackOf a) (if retention then e.lowerBin (stackOf a) row else e) :=
    .ite (fun _ => Dev.lowerBin_stacks ..) fun _ => .refl ..
  have hf1 : e.FieldsBut [stkRefbinB0rows.place] (if retention then e.lowerBin (stackOf a) row else e) :=
    .ite (fun _ => Dev.lowerBin_fields ..) fun _ => .refl ..
  generalize (if retention then e.lowerBin (stackOf a) row else e) = f at hu1 hs1 hf1 ⊢
  have hs2 := hs1.trans (f.correctionKept_stacks (d.fget glbOpsecSeconds 0) (stackOf a) row)
  have hf2 : e.FieldsBut [stkRefbinB0rows.place] (f.correctionKept (d.fget glbOpsecSeconds 0) (stackOf a) row) :=
    hf1.trans (.of_regs rfl)
  have hu2 : (f.correctionKept (d.fget glbOpsecSeconds 0) (stackOf a) row).units = e.units := hu1
  generalize f.correctionKept (d.fget glbOpsecSeconds 0) (stackOf a) row = g at hs2 hf2 hu2 ⊢
  obtain ⟨hdem3, hacts3, hoth3⟩ := g.requestScrub_demand (stackOf a) (lineOf a)
  have hf3 := g.requestScrub_fields (stackOf a) (lineOf a)
  have hu3 : (g.requestScrub (stackOf a) (lineOf a)).units = g.units :=
    Dev.units_of_mask (by decide) (Dev.requestScrub_mask (F := 1032) (by decide) ..)
  generalize g.requestScrub (stackOf a) (lineOf a) = h at hdem3 hacts3 hoth3 hf3 hu3 ⊢
  have hs4 : (if 1000000 < (h.stack (stackOf a)).hourCe then h.worsen (stackOf a) 1 else h).stks = h.stks := by
    split
    · exact Dev.stks_of_mask (by decide) (Dev.worsen_mask (F := 4137) (by decide) ..)
    · rfl
  have hu4 : (if 1000000 < (h.stack (stackOf a)).hourCe then h.worsen (stackOf a) 1 else h).units = h.units := by
    split
    · exact Dev.units_of_mask (by decide) (Dev.worsen_mask (F := 4137) (by decide) ..)
    · rfl
  have hf4 : h.FieldsBut healthPlaces (if 1000000 < (h.stack (stackOf a)).hourCe then h.worsen (stackOf a) 1 else h) :=
    .ite (fun _ => Dev.worsen_fields ..) fun _ => .refl ..
  generalize (if 1000000 < (h.stack (stackOf a)).hourCe then h.worsen (stackOf a) 1 else h) = x at hs4 hu4 hf4 ⊢
  have hfields : d.FieldsBut correctedPlaces x :=
    (hfld.sub (by decide)).trans ((hf2.sub (by decide)).trans ((hf3.sub (by decide)).trans (hf4.sub (by decide))))
  have hgd : (g.stack (stackOf a)).demand = (d.stack (stackOf a)).demand := (congrArg Prod.snd hs2.own).trans hdem
  have hga : (g.stack (stackOf a)).acts = (e.stack (stackOf a)).acts := congrArg Prod.fst hs2.own
  have hge : g.fget docCtlDemandEn 0 = d.fget docCtlDemandEn 0 :=
    (hf2.same docCtlDemandEn 0 (by decide) (by decide)).trans (hfld.same docCtlDemandEn 0 (by decide) (by decide))
  refine ⟨?_, ?_, ?_, ?_, fun j hj => ?_, hfields⟩
  · rw [Dev.unit_congr (hu4.trans (hu3.trans hu2))]
    exact herr
  · refine (((hf4.same stkCecntCount _ (by decide) (by decide)).trans (hf3.same stkCecntCount _ (by decide) (by decide))).trans
      (hf2.same stkCecntCount _ (by decide) (by decide))).trans hcount
  · rw [Dev.stack_congr hs4, hacts3, hga]
    exact hacts
  · rw [Dev.stack_congr hs4, hdem3, hgd, hge]
  · rw [Dev.stack_congr hs4, hoth3 j hj, hs2.others j hj, hoth j hj]

/-! ### An uncorrectable read -/

/-- The fields that an uncorrectable read may change. -/
def detectedPlaces : List Nat :=
  [stkUecntCount.place, stkUeaddrLoOffLo.place, stkUeaddrHiOffHi.place, stkUeaddrHiValid.place, stkStatHealth.place, dklHmgenGen.place]

/-- What an uncorrectable read shows: poison, PG_ERR.DE, the count, the first address, and its row, due for repair. -/
structure Dev.Detects (d e : Dev) (a row : Nat) : Prop where
  line : e.lineBad (a / 64) = true
  err : bit (e.unit pSTK (stackOf a)).err 1 = true
  count : e.fget stkUecntCount (stackOf a) = satAdd (2 ^ 32 - 1) (d.fget stkUecntCount (stackOf a)) 1
  valid : e.fget stkUeaddrHiValid (stackOf a) = 1
  offset : d.fget stkUeaddrHiValid (stackOf a) = 0 → e.fget stkUeaddrLoOffLo (stackOf a) = bits (lineOf a * 64) 6 26
    ∧ e.fget stkUeaddrHiOffHi (stackOf a) = bits (lineOf a * 64) 32 4
  due : row ∈ (e.stack (stackOf a)).repairDue
  hour : row ∈ (e.stack (stackOf a)).hourRows
  own : (e.stack (stackOf a)).served = (d.stack (stackOf a)).served
  others : ∀ j, j ≠ stackOf a → e.stack j = d.stack j
  fields : d.FieldsBut detectedPlaces e

theorem Stack.mem_due (x : Stack) (row : Nat) : row ∈ (x.due row).repairDue := by
  unfold Stack.due
  split
  next h => exact List.contains_iff_mem.mp h
  next => exact List.mem_append_right _ (List.mem_singleton_self _)

theorem Stack.due_rows (x : Stack) (row : Nat) : (x.due row).hourRows = x.hourRows ∧ (x.due row).served = x.served := by
  unfold Stack.due
  split <;> exact ⟨rfl, rfl⟩

/-- The row of an uncorrectable read, among those of the hour and due. -/
def Stack.readLost (x : Stack) (row : Nat) : Stack :=
  (if x.hourRows.contains row then x else { x with hourRows := x.hourRows ++ [row] }).due row

theorem Stack.readLost_spec (x : Stack) (row : Nat) :
    row ∈ (x.readLost row).repairDue ∧ row ∈ (x.readLost row).hourRows ∧ (x.readLost row).served = x.served := by
  unfold Stack.readLost
  refine ⟨Stack.mem_due .., ?_, ?_⟩
  · rw [(Stack.due_rows ..).1]
    split
    next h => exact List.contains_iff_mem.mp h
    next => exact List.mem_append_right _ (List.mem_singleton_self _)
  · rw [(Stack.due_rows ..).2]
    split <;> rfl

/-- The address of the first uncorrectable read is held. -/
def Dev.addressHeld (d : Dev) (s o : Nat) : Dev :=
  if d.fbit stkUeaddrHiValid s then d
  else ((d.fset stkUeaddrLoOffLo s (bits o 6 26)).fset stkUeaddrHiOffHi s (bits o 32 4)).fset stkUeaddrHiValid s 1

theorem Dev.addressHeld_spec (d : Dev) (s o : Nat) :
    (d.addressHeld s o).fget stkUeaddrHiValid s = 1
    ∧ (d.fget stkUeaddrHiValid s = 0 → (d.addressHeld s o).fget stkUeaddrLoOffLo s = bits o 6 26
      ∧ (d.addressHeld s o).fget stkUeaddrHiOffHi s = bits o 32 4)
    ∧ d.FieldsBut [stkUeaddrLoOffLo.place, stkUeaddrHiOffHi.place, stkUeaddrHiValid.place] (d.addressHeld s o)
    ∧ (d.addressHeld s o).mask 8 = d.mask 8 := by
  unfold Dev.addressHeld Dev.fbit
  by_cases hv : d.fget stkUeaddrHiValid s = 1
  · rw [if_pos (show (d.fget stkUeaddrHiValid s == 1) = true by rw [hv]; rfl)]
    exact ⟨hv, fun h => (Nat.one_ne_zero (hv.symm.trans h)).elim, .refl .., rfl⟩
  · rw [if_neg (by simpa using hv)]
    refine ⟨Dev.fget_fset_same .., fun _ => ⟨?_, ?_⟩, ?_, rfl⟩
    · rw [Dev.fget_fset_place _ _ _ _ (by decide), Dev.fget_fset_place _ _ _ _ (by decide), Dev.fget_fset_same]
      exact Nat.mod_eq_of_lt (bits_lt o 6 26)
    · rw [Dev.fget_fset_place _ _ _ _ (by decide), Dev.fget_fset_same]
      exact Nat.mod_eq_of_lt (bits_lt o 32 4)
    · exact .fset (.fset (.fset (.refl ..) _ _ _ (by decide) (by decide)) _ _ _ (by decide) (by decide)) _ _ _ (by decide) (by decide)

theorem Dev.uncorrectableRead_detects (d : Dev) (a row : Nat) : d.Detects (d.uncorrectableRead a row) a row := by
  have heq : d.uncorrectableRead a row =
      let e := ((((d.setLine (a / 64) true).stackPoison a 0).fcount stkUecntCount (stackOf a) 1).addressHeld (stackOf a)
        (lineOf a * 64)).onStack (stackOf a) fun x => x.readLost row
      if 8 ≤ (e.stack (stackOf a)).hourRows.length then e.worsen (stackOf a) 2 else e := rfl
  rw [heq]
  have hm1 := Dev.stackPoison_mask (F := 4194352) (by decide) (d.setLine (a / 64) true) a 0
  have hl1 : ((d.setLine (a / 64) true).stackPoison a 0).lineBad (a / 64) = true := by
    rw [Dev.stackPoison_lines, Dev.lineBad_setLine_same]
  have hu1 := (d.setLine (a / 64) true).stackPoison_de a 0
  have hs1 : ((d.setLine (a / 64) true).stackPoison a 0).stks = d.stks := (Dev.stks_of_mask (by decide) hm1).trans rfl
  have hr1 : ((d.setLine (a / 64) true).stackPoison a 0).regs = d.regs := (Dev.regs_of_mask (by decide) hm1).trans rfl
  generalize (d.setLine (a / 64) true).stackPoison a 0 = e at hl1 hu1 hs1 hr1 ⊢
  have hcnt : (e.fcount stkUecntCount (stackOf a) 1).fget stkUecntCount (stackOf a)
      = satAdd (2 ^ 32 - 1) (d.fget stkUecntCount (stackOf a)) 1 := by
    rw [← Dev.fget_congr hr1]
    exact Dev.fget_fcount_sat ..
  have hf2 : d.FieldsBut [stkUecntCount.place] (e.fcount stkUecntCount (stackOf a) 1) :=
    .fset (.of_regs hr1) _ _ _ (by decide) (by decide)
  have hl2 : (e.fcount stkUecntCount (stackOf a) 1).lineBad (a / 64) = true := hl1
  have hu2 : bit ((e.fcount stkUecntCount (stackOf a) 1).unit pSTK (stackOf a)).err 1 = true := hu1
  have hs2 : (e.fcount stkUecntCount (stackOf a) 1).stks = d.stks := hs1
  generalize e.fcount stkUecntCount (stackOf a) 1 = f at hcnt hf2 hl2 hu2 hs2 ⊢
  obtain ⟨hval, hoff, hf3, hm3⟩ := f.addressHeld_spec (stackOf a) (lineOf a * 64)
  generalize f.addressHeld (stackOf a) (lineOf a * 64) = g at hval hoff hf3 hm3 ⊢
  have hs3 : g.stks = d.stks := (Dev.stks_of_mask (by decide) hm3).trans hs2
  have hst : ∀ j, (g.onStack (stackOf a) fun x => x.readLost row).stack j
      = if stackOf a = j then (d.stack (stackOf a)).readLost row else d.stack j := fun j => by
    rw [Dev.stack_onStack, Dev.stack_congr hs3, Dev.stack_congr hs3]
  have hr4 : (g.onStack (stackOf a) fun x => x.readLost row).regs = g.regs := rfl
  have hl4 : (g.onStack (stackOf a) fun x => x.readLost row).lineBad (a / 64) = true :=
    (Dev.lineBad_congr ((rfl : _ = g.linePoison).trans (Dev.linePoison_of_mask (by decide) hm3)) _).trans hl2
  have hu4 : bit ((g.onStack (stackOf a) fun x => x.readLost row).unit pSTK (stackOf a)).err 1 = true :=
    (congrArg (fun u : UnitPage => bit u.err 1) (Dev.unit_congr ((rfl : _ = g.units).trans (Dev.units_of_mask (by decide) hm3)) _ _)).trans hu2
  generalize (g.onStack (stackOf a) fun x => x.readLost row) = h at hst hr4 hl4 hu4
  dsimp only
  have hm5 : (if 8 ≤ (h.stack (stackOf a)).hourRows.length then h.worsen (stackOf a) 2 else h).mask 4137 = h.mask 4137 := by
    split
    · exact Dev.worsen_mask (by decide) ..
    · rfl
  have hf5 : h.FieldsBut healthPlaces (if 8 ≤ (h.stack (stackOf a)).hourRows.length then h.worsen (stackOf a) 2 else h) :=
    .ite (fun _ => Dev.worsen_fields ..) fun _ => .refl ..
  generalize (if 8 ≤ (h.stack (stackOf a)).hourRows.length then h.worsen (stackOf a) 2 else h) = x at hm5 hf5 ⊢
  have hstx : ∀ j, x.stack j = if stackOf a = j then (d.stack (stackOf a)).readLost row else d.stack j := fun j => by
    rw [Dev.stack_congr (Dev.stks_of_mask (by decide) hm5), hst]
  obtain ⟨hdue, hhour, hserved⟩ := (d.stack (stackOf a)).readLost_spec row
  have hgx : ∀ (f : Field) i, f.place < 2 ^ 23 → f.place ∉ healthPlaces → x.fget f i = g.fget f i := fun f i hf hp =>
    (hf5.same f i hf hp).trans (Dev.fget_congr hr4 f i)
  refine ⟨?_, ?_, ?_, ?_, fun hv => ⟨?_, ?_⟩, ?_, ?_, ?_, fun j hj => ?_, ?_⟩
  · exact (Dev.lineBad_congr (Dev.linePoison_of_mask (by decide) hm5) _).trans hl4
  · exact (congrArg (fun u : UnitPage => bit u.err 1) (Dev.unit_congr (Dev.units_of_mask (by decide) hm5) _ _)).trans hu4
  · exact (hgx _ _ (by decide) (by decide)).trans ((hf3.same _ _ (by decide) (by decide)).trans hcnt)
  · exact (hgx _ _ (by decide) (by decide)).trans hval
  · exact (hgx _ _ (by decide) (by decide)).trans (hoff ((hf2.same _ _ (by decide) (by decide)).trans hv)).1
  · exact (hgx _ _ (by decide) (by decide)).trans (hoff ((hf2.same _ _ (by decide) (by decide)).trans hv)).2
  · rw [hstx, if_pos rfl]; exact hdue
  · rw [hstx, if_pos rfl]; exact hhour
  · rw [hstx, if_pos rfl]; exact hserved
  · rw [hstx, if_neg (Ne.symm hj)]
  · exact (hf2.sub (by decide)).trans ((hf3.sub (by decide)).trans
      (FieldsBut.trans (.of_regs hr4) (hf5.sub (by decide))))

end Sys2Proof.Machine
end


section
/-! PROOFS. Reads and scrubs of a line whose cells have changed (R246, R247, R249, R258). -/

namespace Sys2Proof.Machine

/-! ### The cells as they are found -/

/-- The cells of a line once `ecc` has changed some: of a line that was as written, `bytes` are the data. -/
def cellsFound (c : Option LineCells) (ecc : Ecc) (bytes : List Nat) : LineCells :=
  let before := c.getD ⟨ecc.row, [], false, bytes⟩
  if ecc.errs = [] then before else ⟨ecc.row, errorSymbols (before.errs ++ ecc.errs), ecc.retention, before.data⟩

theorem decodeLine_nil (t : Nat) : decodeLine t [] = .clean := rfl

/-- No copy of the poison bit changes where no cell beyond the 72 symbols does. -/
theorem poison_kept {errs : List (Nat × Nat)} (h : ∀ e ∈ errs, e.1 < 72) (c : Nat) :
    (List.range 3).foldl (fun n i => if errs.any (fun e => e.1 == 72 + i) then n ^^^ 2 ^ i else n) c = c := by
  have hno : ∀ i, errs.any (fun e => e.1 == 72 + i) = false := fun i =>
    List.any_eq_false.mpr fun e he => by
      have := h e he
      simp
      omega
  simp only [hno]
  exact List.foldl_fixed ..

theorem Dev.onStack_keeps (d : Dev) (k : Nat) (f : Stack → Stack) (hf : ∀ x, (f x).served = x.served) : d.StackKeeps k (d.onStack k f) :=
  .onStack (.refl ..) f hf

theorem Dev.cellsGone_stacks (d : Dev) (a : Nat) : d.StackKeeps (stackOf a) (d.cellsGone a) := by
  unfold Dev.cellsGone
  exact .ite (fun _ => d.onStack_keeps _ _ fun _ => rfl) fun _ => .refl ..

theorem Dev.cellsGone_none (d : Dev) (a : Nat) : (d.cellsGone a).cellsAt a = none := by
  unfold Dev.cellsGone
  cases h : d.cellsAt a with
  | none => exact h
  | some x =>
    rw [if_pos (show (some x).isSome = true from rfl)]
    unfold Dev.cellsAt
    rw [Dev.stack_onStack, if_pos rfl]
    exact SMap.find_remove_same ..

/-- The line after its cells have changed: as it was found, or as written again. -/
theorem Dev.disturb_cells (d : Dev) (m : Mem) (a : Nat) (ecc : Ecc) :
    (d.disturb m a ecc).cellsAt a = some (cellsFound (d.cellsAt a) ecc (d.bytesAt m a 64))
    ∨ (d.disturb m a ecc).cellsAt a = none ∧ (cellsFound (d.cellsAt a) ecc (d.bytesAt m a 64)).errs = [] := by
  unfold Dev.disturb cellsFound
  dsimp only
  by_cases he : ecc.errs = []
  · rw [he, if_pos (show ([] : List (Nat × Nat)).isEmpty = true from rfl), if_pos rfl]
    cases hc : d.cellsAt a with
    | none => exact .inr ⟨rfl, rfl⟩
    | some x => exact .inl rfl
  · rw [if_neg (by simpa using he), if_neg he]
    by_cases hs : errorSymbols (((d.cellsAt a).getD ⟨ecc.row, [], false, d.bytesAt m a 64⟩).errs ++ ecc.errs) = []
    · rw [if_pos hs]
      exact .inr ⟨Dev.cellsGone_none .., hs⟩
    · rw [if_neg hs]
      refine .inl ?_
      unfold Dev.cellsAt
      rw [Dev.stack_onStack, if_pos rfl]
      exact SMap.find_insert_same ..

/-- Nothing else that a read shows changes. -/
theorem Dev.disturb_spec (d : Dev) (m : Mem) (a : Nat) (ecc : Ecc) (he : ∀ e ∈ ecc.errs, e.1 < 72) :
    d.StackKeeps (stackOf a) (d.disturb m a ecc) ∧ (∀ l, (d.disturb m a ecc).lineBad l = d.lineBad l)
    ∧ (d.disturb m a ecc).mask (partsMask [.stks, .linePoison]) = d.mask (partsMask [.stks, .linePoison]) := by
  refine ⟨?_, fun l => ?_, Dev.disturb_mask (by decide) ..⟩
  · have hm : ∀ v, d.StackKeeps (stackOf a) { d with linePoison := v } := fun _ => .of_stks rfl
    unfold Dev.disturb
    refine .ite (fun _ => .refl ..) fun _ => .ite (fun _ => ?_) fun _ => ?_
    · exact (hm _).trans (Dev.cellsGone_stacks _ a)
    · exact (hm _).onStack _ fun _ => rfl
  · have hput : ∀ e : Dev, e.linePoison = SMap.put 0 (a / 64) (SMap.get 0 (a / 64) d.linePoison) d.linePoison → e.lineBad l = d.lineBad l :=
      fun e h => by
        unfold Dev.lineBad
        rw [h]
        by_cases hl : l = a / 64
        · rw [hl, SMap.get_put_same]
        · rw [SMap.get_put_ne _ _ hl]
    unfold Dev.disturb
    dsimp only
    rw [poison_kept he]
    split
    · rfl
    · split
      · refine hput _ ?_
        unfold Dev.cellsGone
        split <;> rfl
      · exact hput _ rfl

/-! ### The read -/

section
variable {d : Dev} {m : Mem} {a : Nat} {ecc : Ecc}

/-- What the decoder makes of the line. -/
def Dev.lineFound (d : Dev) (m : Mem) (a : Nat) (ecc : Ecc) : Decoded :=
  decodeLine (d.fget stkEccctlTcorr (stackOf a)) (cellsFound (d.cellsAt a) ecc (d.bytesAt m a 64)).errs

theorem Dev.disturb_found (h : d.lineFound m a ecc ≠ .clean) :
    (d.disturb m a ecc).cellsAt a = some (cellsFound (d.cellsAt a) ecc (d.bytesAt m a 64)) := by
  refine (d.disturb_cells m a ecc).resolve_right fun ⟨_, hn⟩ => h ?_
  unfold Dev.lineFound
  rw [hn, decodeLine_nil]

theorem Dev.disturb_decode (x : LineCells) : (d.disturb m a ecc).decodeCells (stackOf a) x = d.decodeCells (stackOf a) x := by
  unfold Dev.decodeCells
  rw [Dev.fget_of_mask (F := 3072) (by decide) (Dev.disturb_mask (by decide) ..)]

theorem Dev.noteRead_clean (h : d.lineFound m a ecc = .clean) : (d.disturb m a ecc).noteRead a true = (d.disturb m a ecc, 0) := by
  unfold Dev.noteRead
  rcases d.disturb_cells m a ecc with hc | ⟨hc, -⟩
  · rw [hc]
    dsimp only
    rw [Dev.disturb_decode, show d.decodeCells (stackOf a) (cellsFound (d.cellsAt a) ecc (d.bytesAt m a 64)) = .clean from h]
  · rw [hc]

theorem Dev.noteRead_corrected {n : Nat} {chg : List (Nat × Nat)} (h : d.lineFound m a ecc = .corrected n chg) (hn : n ≠ 0) :
    (d.disturb m a ecc).noteRead a true = ((d.disturb m a ecc).correctedRead a n
      (cellsFound (d.cellsAt a) ecc (d.bytesAt m a 64)).row (cellsFound (d.cellsAt a) ecc (d.bytesAt m a 64)).retention true, 1)
    ∧ (d.disturb m a ecc).seenLine m a = changeLine (cellsFound (d.cellsAt a) ecc (d.bytesAt m a 64)).data chg := by
  have hc := Dev.disturb_found (d := d) (m := m) (a := a) (ecc := ecc) (by rw [h]; simp)
  have hd : (d.disturb m a ecc).decodeCells (stackOf a) (cellsFound (d.cellsAt a) ecc (d.bytesAt m a 64)) = .corrected n chg :=
    Dev.disturb_decode _ |>.trans h
  unfold Dev.noteRead Dev.seenLine
  rw [hc]
  dsimp only
  rw [hd]
  exact ⟨if_neg hn, rfl⟩

theorem Dev.noteRead_detected (h : d.lineFound m a ecc = .detected) :
    (d.disturb m a ecc).noteRead a true
      = ((d.disturb m a ecc).uncorrectableRead a (cellsFound (d.cellsAt a) ecc (d.bytesAt m a 64)).row, 2)
    ∧ (d.disturb m a ecc).seenLine m a = changeLine (cellsFound (d.cellsAt a) ecc (d.bytesAt m a 64)).data
      (cellsFound (d.cellsAt a) ecc (d.bytesAt m a 64)).errs := by
  have hc := Dev.disturb_found (d := d) (m := m) (a := a) (ecc := ecc) (by rw [h]; simp)
  have hd : (d.disturb m a ecc).decodeCells (stackOf a) (cellsFound (d.cellsAt a) ecc (d.bytesAt m a 64)) = .detected :=
    Dev.disturb_decode _ |>.trans h
  unfold Dev.noteRead Dev.seenLine
  rw [hc]
  dsimp only
  rw [hd]
  exact ⟨rfl, rfl⟩

end

/-! ### What a command shows of a read -/

/-- A corrected read of a line, as a command leaves it. -/
def Dev.ShowsCorrected (d e : Dev) (k line row : Nat) (cells : LineCells) (queue : List Nat) : Prop :=
  bit (e.unit pSTK k).err 0 = true
  ∧ e.fget stkCecntCount k = satAdd (2 ^ 32 - 1) (d.fget stkCecntCount k) 1
  ∧ (cells.row = row → SMap.get 0 row (e.stack k).acts = SMap.get 0 row (d.stack k).acts + 2)
  ∧ (e.stack k).demand = (if d.fget docCtlDemandEn 0 = 1 ∧ line ∉ queue ∧ queue.length < 256 then queue ++ [line] else queue)

/-- A detected error of a line, as a command leaves it. -/
def Dev.ShowsDetected (d e : Dev) (k a line : Nat) (cells : LineCells) : Prop :=
  e.lineBad (a / 64) = true ∧ bit (e.unit pSTK k).err 1 = true
  ∧ e.fget stkUecntCount k = satAdd (2 ^ 32 - 1) (d.fget stkUecntCount k) 1
  ∧ e.fget stkUeaddrHiValid k = 1
  ∧ (d.fget stkUeaddrHiValid k = 0 → e.fget stkUeaddrLoOffLo k = bits (line * 64) 6 26
    ∧ e.fget stkUeaddrHiOffHi k = bits (line * 64) 32 4)
  ∧ cells.row ∈ (e.stack k).repairDue ∧ cells.row ∈ (e.stack k).hourRows

/-- The fields of the Doctor's own counts. -/
def doctorPlaces : List Nat :=
  [docDemandcntCount.place, docPatrolceCount.place, docPatrolueCount.place, docProgressPermille.place, docProgressPasses.place,
    docStatPatrolActive.place]

/-- What a read leaves in its stack. -/
def Stack.counted (x : Stack) : SMap Nat × List Nat × List Nat × List Nat := (x.acts, x.demand, x.repairDue, x.hourRows)

/-- What follows a read in its command changes nothing that the read shows. -/
structure Dev.ReadOver (k : Nat) (d e : Dev) : Prop where
  units : e.units = d.units
  lines : e.linePoison = d.linePoison
  fields : d.FieldsBut doctorPlaces e
  own : (e.stack k).counted = (d.stack k).counted
  others : ∀ j, j ≠ k → e.stack j = d.stack j

namespace Dev.ReadOver
variable {k : Nat} {d e : Dev}

theorem refl (k : Nat) (d : Dev) : ReadOver k d d := ⟨rfl, rfl, .refl .., rfl, fun _ _ => rfl⟩

theorem trans {f : Dev} (h : ReadOver k d e) (g : ReadOver k e f) : ReadOver k d f :=
  ⟨g.units.trans h.units, g.lines.trans h.lines, h.fields.trans g.fields, g.own.trans h.own,
    fun j hj => (g.others j hj).trans (h.others j hj)⟩

theorem of_mask {F : Nat} (hF : F.testBit 4 = false ∧ F.testBit 11 = false ∧ F.testBit 3 = false ∧ F.testBit 10 = false)
    (h : e.mask F = d.mask F) : ReadOver k d e := by
  obtain ⟨h4, h11, h3, h10⟩ := hF
  have hs := Dev.stks_of_mask h10 h
  exact ⟨Dev.units_of_mask h4 h, Dev.linePoison_of_mask h11 h, .of_mask h3 h, congrArg Stack.counted (Dev.stack_congr hs k),
    fun j _ => Dev.stack_congr hs j⟩

theorem fset (h : ReadOver k d e) (f : Field) (i v : Nat) (hlt : f.place < 2 ^ 23) (hf : f.place ∈ doctorPlaces) :
    ReadOver k d (e.fset f i v) :=
  ⟨h.units, h.lines, h.fields.fset f i v hlt hf, h.own, h.others⟩

theorem onStack (h : ReadOver k d e) (f : Stack → Stack) (hf : ∀ x, (f x).counted = x.counted) : ReadOver k d (e.onStack k f) := by
  refine ⟨h.units, h.lines, h.fields.trans (.of_regs rfl), ?_, fun j hj => ?_⟩ <;> rw [Dev.stack_onStack]
  · rw [if_pos rfl, hf]
    exact h.own
  · rw [if_neg (Ne.symm hj)]
    exact h.others j hj

theorem ite {c : Prop} [Decidable c] {f : Dev} (h : c → ReadOver k d e) (g : ¬ c → ReadOver k d f) :
    ReadOver k d (if c then e else f) := by
  by_cases hc : c
  · rw [if_pos hc]; exact h hc
  · rw [if_neg hc]; exact g hc

end Dev.ReadOver

/-- From `d` to `e` the row `row` of stack `k` has been charged once, and `queue` is the Doctor's. -/
structure Dev.RowCharged (k row : Nat) (queue : List Nat) (d e : Dev) : Prop where
  acts : SMap.get 0 row (e.stack k).acts = SMap.get 0 row (d.stack k).acts + 1
  demand : (e.stack k).demand = queue
  regs : e.regs = d.regs
  others : ∀ j, j ≠ k → e.stack j = d.stack j

theorem Dev.Corrects.shown {d b x e : Dev} {a row : Nat} {cells : LineCells} {queue : List Nat} (h : b.Corrects x a cells.row)
    (hb : Dev.RowCharged (stackOf a) row queue d b) (ho : Dev.ReadOver (stackOf a) x e) :
    d.ShowsCorrected e (stackOf a) (lineOf a) row cells queue := by
  have hr : ∀ f i, b.fget f i = d.fget f i := fun f i => Dev.fget_congr hb.regs f i
  refine ⟨?_, ?_, fun hrow => ?_, ?_⟩
  · rw [Dev.unit_congr ho.units]
    exact h.err
  · rw [ho.fields.same _ _ (by decide) (by decide), h.count, hr]
  · rw [show (e.stack (stackOf a)).acts = (x.stack (stackOf a)).acts from congrArg Prod.fst ho.own, ← hrow, h.acts, hrow, hb.acts]
  · rw [show (e.stack (stackOf a)).demand = (x.stack (stackOf a)).demand from congrArg (fun y => y.2.1) ho.own, h.demand, hb.demand, hr]

theorem Dev.Detects.shown {d b x e : Dev} {a : Nat} {cells : LineCells} (h : b.Detects x a cells.row)
    (hr : b.regs = d.regs) (ho : Dev.ReadOver (stackOf a) x e) : d.ShowsDetected e (stackOf a) a (lineOf a) cells := by
  have hr : ∀ f i, b.fget f i = d.fget f i := fun f i => Dev.fget_congr hr f i
  refine ⟨?_, ?_, ?_, ?_, fun hv => ?_, ?_, ?_⟩
  · rw [Dev.lineBad_congr ho.lines]
    exact h.line
  · rw [Dev.unit_congr ho.units]
    exact h.err
  · rw [ho.fields.same _ _ (by decide) (by decide), h.count, hr]
  · rw [ho.fields.same _ _ (by decide) (by decide), h.valid]
  · rw [ho.fields.same _ _ (by decide) (by decide), ho.fields.same _ _ (by decide) (by decide)]
    exact h.offset ((hr ..).trans hv)
  · rw [show (e.stack (stackOf a)).repairDue = (x.stack (stackOf a)).repairDue from congrArg (fun y => y.2.2.1) ho.own]
    exact h.due
  · rw [show (e.stack (stackOf a)).hourRows = (x.stack (stackOf a)).hourRows from congrArg (fun y => y.2.2.2) ho.own]
    exact h.hour

end Sys2Proof.Machine
end


section
/-! PROOFS. Line errors and scrubs: what the commands show (R246 to R249, R258). -/

namespace Sys2Proof.Machine

/-! ### Bytes of a run -/

theorem find_poked (a x : Nat) (bs : List Nat) : ∀ (n : Nat) (w : SMap Byte),
    SMap.find x ((bs.zipIdx n).foldl (fun w (b, i) => SMap.insert (a + i) (BitVec.ofNat 8 b) w) w)
      = if a + n ≤ x ∧ x < a + n + bs.length then some (BitVec.ofNat 8 (bs.getD (x - (a + n)) 0)) else SMap.find x w := by
  induction bs with
  | nil => exact fun n w => (if_neg (by simp)).symm
  | cons b bs ih =>
    intro n w
    rw [List.zipIdx_cons, List.foldl_cons, ih]
    by_cases hx : x = a + n
    · subst hx
      rw [if_neg (by omega), if_pos (by simp), Nat.sub_self]
      exact SMap.find_insert_same ..
    · by_cases hr : a + (n + 1) ≤ x ∧ x < a + (n + 1) + bs.length
      · obtain ⟨j, hj⟩ : ∃ j, x - (a + n) = j + 1 := ⟨x - (a + n) - 1, by omega⟩
        rw [if_pos hr, if_pos (by rw [List.length_cons]; omega), hj, show x - (a + (n + 1)) = j by omega]
        rfl
      · rw [if_neg hr, if_neg (by rw [List.length_cons]; omega)]
        exact SMap.find_insert_ne hx ..

/-- The bytes of a run that a command has written and those that it has not. -/
theorem Dev.pokeBytes_stored {d : Dev} (hw : d.wout = []) (a : Nat) (bs : List Nat) {m m' : Mem}
    (h : Memory.Stored (d.pokeBytes a bs).wout m m') :
    (∀ y, a ≤ y → y < a + bs.length → Memory.read m' y = BitVec.ofNat 8 (bs.getD (y - a) 0))
    ∧ ∀ y, y < a ∨ a + bs.length ≤ y → Memory.read m' y = Memory.read m y := by
  have hf : ∀ y, SMap.find y (d.pokeBytes a bs).wout = if a ≤ y ∧ y < a + bs.length
      then some (BitVec.ofNat 8 (bs.getD (y - a) 0)) else none := fun y => by
    have := find_poked a y bs 0 d.wout
    rw [hw] at this
    unfold Dev.pokeBytes
    rw [hw]
    exact this
  refine ⟨fun y hy hy' => h.1 y _ ?_, fun y hy => h.2 y ?_⟩
  · rw [hf, if_pos ⟨hy, hy'⟩]
  · rw [hf, if_neg (by omega)]

theorem changeLine_length (data : List Nat) (chg : List (Nat × Nat)) : (changeLine data chg).length = data.length := by
  unfold changeLine
  rw [List.length_map, List.length_zipIdx]

/-! ### The base of a read -/

/-- The cells of the line of `a` as a command of state `s` finds them. -/
def State.cells (s : State) (a : Nat) (ecc : Ecc) : LineCells :=
  cellsFound (s.dev.cellsAt a) ecc ((List.range 64).map fun i => (Memory.read s.mem (a + i)).toNat)

/-- What the decoder makes of them. -/
def State.found (s : State) (a : Nat) (ecc : Ecc) : Decoded := decodeLine (s.dev.fget stkEccctlTcorr (stackOf a)) (s.cells a ecc).errs

/-- The device as its die comes to read the line of `a`: the row is charged, and the cells are as they were. -/
structure Dev.ReadBase (s : State) (a row : Nat) (queue : List Nat) (b : Dev) : Prop where
  charged : Dev.RowCharged (stackOf a) row queue s.dev b
  cells : b.cellsAt a = s.dev.cellsAt a
  wout : b.wout = []
  lines : b.linePoison = s.dev.linePoison
  deckle : b.deckle = s.dev.deckle

namespace Dev.ReadBase
variable {s : State} {a : Nat} {ecc : Ecc} {queue : List Nat} {b : Dev}

theorem cells_eq (h : ReadBase s a ecc.row queue b) : cellsFound (b.cellsAt a) ecc (b.bytesAt s.mem a 64) = s.cells a ecc := by
  unfold State.cells Dev.bytesAt
  rw [h.cells]
  refine congrArg (cellsFound (s.dev.cellsAt a) ecc) (List.map_congr_left fun i _ => Dev.byteAt_of_find ?_ s.mem)
  rw [h.wout]
  rfl

theorem found_eq (h : ReadBase s a ecc.row queue b) : b.lineFound s.mem a ecc = s.found a ecc := by
  unfold Dev.lineFound State.found
  rw [h.cells_eq, Dev.fget_congr h.charged.regs]

/-- The cells have changed. -/
theorem disturbed (h : ReadBase s a ecc.row queue b) (he : ∀ e ∈ ecc.errs, e.1 < 72) :
    Dev.RowCharged (stackOf a) ecc.row queue s.dev (b.disturb s.mem a ecc)
    ∧ (∀ l, (b.disturb s.mem a ecc).lineBad l = s.dev.lineBad l) := by
  obtain ⟨hs, hl, hm⟩ := b.disturb_spec s.mem a ecc he
  refine ⟨⟨?_, ?_, (Dev.regs_of_mask (by decide) hm).trans h.charged.regs, fun j hj => (hs.others j hj).trans (h.charged.others j hj)⟩,
    fun l => (hl l).trans (Dev.lineBad_congr h.lines l)⟩
  · rw [show ((b.disturb s.mem a ecc).stack (stackOf a)).acts = (b.stack (stackOf a)).acts from congrArg Prod.fst hs.own]
    exact h.charged.acts
  · exact (congrArg Prod.snd hs.own).trans h.charged.demand

/-- What a read leaves of the parts that it does not show. -/
def Left (s : State) (b x : Dev) (a : Nat) : Prop :=
  x.mask 12590137 = b.mask 12590137 ∧ (∀ j, j ≠ stackOf a → x.stack j = s.dev.stack j) ∧ x.lineFailed a = s.dev.lineFailed a

theorem left (h : ReadBase s a ecc.row queue b) {x : Dev} (hx : ((b.disturb s.mem a ecc).noteRead a true).1 = x)
    (ho : ∀ j, j ≠ stackOf a → x.stack j = s.dev.stack j) : Left s b x a := by
  have hm : x.mask 12590137 = b.mask 12590137 := by
    rw [← hx]
    exact (Dev.noteRead_mask (by decide) ..).trans (Dev.disturb_mask (by decide) ..)
  refine ⟨hm, ho, ?_⟩
  have hd := Dev.noteRead_dies (b.disturb s.mem a ecc) a true
  rw [hx] at hd
  have hr : x.deckle.regions = s.dev.deckle.regions := by
    refine (congrArg (fun z : DieState => z.deckle.regions) hd.state).trans ?_
    have hdk := Dev.deckle_of_mask (by decide) (Dev.disturb_mask (F := 3072) (by decide) b s.mem a ecc)
    show (b.disturb s.mem a ecc).deckle.regions = s.dev.deckle.regions
    rw [hdk, h.deckle]
  unfold Dev.lineFailed
  rw [hr]

theorem clean (h : ReadBase s a ecc.row queue b) (hf : s.found a ecc = .clean) :
    (b.disturb s.mem a ecc).noteRead a true = (b.disturb s.mem a ecc, 0) := Dev.noteRead_clean (h.found_eq.trans hf)

theorem corrected (h : ReadBase s a ecc.row queue b) (he : ∀ e ∈ ecc.errs, e.1 < 72) {n : Nat} {chg : List (Nat × Nat)}
    (hf : s.found a ecc = .corrected n chg) (hn : n ≠ 0) : ∃ x, (b.disturb s.mem a ecc).noteRead a true = (x, 1)
      ∧ (b.disturb s.mem a ecc).seenLine s.mem a = changeLine (s.cells a ecc).data chg
      ∧ (∀ e, Dev.ReadOver (stackOf a) x e → s.dev.ShowsCorrected e (stackOf a) (lineOf a) ecc.row (s.cells a ecc) queue)
      ∧ (∀ l, x.lineBad l = s.dev.lineBad l) ∧ s.dev.FieldsBut correctedPlaces x ∧ Left s b x a := by
  obtain ⟨hread, hseen⟩ := Dev.noteRead_corrected (h.found_eq.trans hf) hn
  rw [h.cells_eq] at hread hseen
  obtain ⟨hrow, hlines⟩ := h.disturbed he
  have hcor := (b.disturb s.mem a ecc).correctedRead_corrects a n (s.cells a ecc).row (s.cells a ecc).retention
  refine ⟨_, hread, hseen, fun e ho => hcor.shown hrow ho, fun l => ?_,
    FieldsBut.trans (.of_regs hrow.regs) hcor.fields, h.left (congrArg Prod.fst hread) fun j hj => (hcor.others j hj).trans (hrow.others j hj)⟩
  exact (Dev.lineBad_congr (Dev.linePoison_of_mask (by decide) (Dev.correctedRead_mask (F := 12588089) (by decide) ..)) l).trans (hlines l)

theorem detected (h : ReadBase s a ecc.row queue b) (he : ∀ e ∈ ecc.errs, e.1 < 72) (hf : s.found a ecc = .detected) :
    ∃ x, (b.disturb s.mem a ecc).noteRead a true = (x, 2)
      ∧ (b.disturb s.mem a ecc).seenLine s.mem a = changeLine (s.cells a ecc).data (s.cells a ecc).errs
      ∧ (∀ e, Dev.ReadOver (stackOf a) x e → s.dev.ShowsDetected e (stackOf a) a (lineOf a) (s.cells a ecc))
      ∧ x.lineBad (a / 64) = true ∧ (x.stack (stackOf a)).demand = queue ∧ s.dev.FieldsBut detectedPlaces x ∧ Left s b x a := by
  obtain ⟨hread, hseen⟩ := Dev.noteRead_detected (h.found_eq.trans hf)
  rw [h.cells_eq] at hread hseen
  obtain ⟨hrow, -⟩ := h.disturbed he
  have hdet := (b.disturb s.mem a ecc).uncorrectableRead_detects a (s.cells a ecc).row
  generalize (b.disturb s.mem a ecc).uncorrectableRead a (s.cells a ecc).row = x at hread hdet
  exact ⟨x, hread, hseen, fun e ho => hdet.shown hrow.regs ho, hdet.line, (congrArg Prod.snd hdet.own).trans hrow.demand,
    FieldsBut.trans (.of_regs hrow.regs) hdet.fields, h.left (congrArg Prod.fst hread) fun j hj => (hdet.others j hj).trans (hrow.others j hj)⟩

end Dev.ReadBase

/-! ### A read request -/

theorem Dev.takenReq_base {s : State} {a : Nat} (ecc : Ecc) (rest : List Req) (hw : s.dev.wout = []) :
    ReadBase s a ecc.row (s.dev.stack (stackOf a)).demand (s.dev.takenReq (stackOf a) ecc.row rest) := by
  refine ⟨⟨?_, ?_, rfl, fun j hj => ?_⟩, Dev.takenReq_cells .., hw, rfl, rfl⟩ <;> rw [Dev.takenReq_stack]
  · rw [if_pos rfl, Stack.takenReq_acts]
  · rw [if_pos rfl]; rfl
  · rw [if_neg (Ne.symm hj)]

section
variable {s : State} {a n : Nat} {ecc : Ecc} {r : Req} {rest : List Req} {q : Dma}

/-- What a read request shows of its DMA and of the tile store. -/
def State.ReadReturns (s t : State) (r : Req) (q : Dma) (bad : Bool) (data : List Nat) : Prop :=
  SMap.find r.tag (t.dev.tile r.tile).store.dmas = some (q.lineEnded (wordMarks q.marks (r.words data bad)) bad)
  ∧ (t.dev.tile r.tile).store.ts = ((s.dev.tile r.tile).writeMarked q.marks (r.words data bad)).store.ts
  ∧ t.mem = s.mem ∧ t.pending = s.pending

/-- STACK_READ of a line whose cells have changed: `x` is the device after the read's own effects. -/
theorem Answers.readReturns (hk : stackOf a < 32) (hrow : rowOk ecc.row = true) (hw : s.dev.wout = [])
    (hh : (s.dev.stack (stackOf a)).hammered.contains ecc.row = false) (ha : a % 64 = 0)
    (ht : takeReq (s.dev.otherReqs (stackOf a)) (s.dev.stack (stackOf a)).reqs n = some (r, rest)) (hkind : r.kind = .rd)
    (hhead : r.addrs.head? = some a) (haddrs : ∀ y ∈ r.addrs, y / 64 * 64 = a)
    (hq : SMap.find r.tag (s.dev.tile r.tile).store.dmas = some q) (hseq : q.seq = r.seq) {x : Dev} {data : List Nat} {bad : Bool} {j : Nat}
    (hread : ((s.dev.takenReq (stackOf a) ecc.row rest).disturb s.mem a ecc).noteRead a true = (x, j))
    (hseen : ((s.dev.takenReq (stackOf a) ecc.row rest).disturb s.mem a ecc).seenLine s.mem a = data) (hbad : x.lineBad (a / 64) = bad)
    (hleft : Dev.ReadBase.Left s (s.dev.takenReq (stackOf a) ecc.row rest) x a) :
    Answers (.stackRead (stackOf a) n ecc) s fun t =>
      Dev.ReadOver (stackOf a) x t.dev ∧ s.ReadReturns t r q bad data := by
  obtain ⟨l, hl⟩ : ∃ l, r.addrs = a :: l := by
    cases hr : r.addrs with
    | nil => rw [hr] at hhead; cases hhead
    | cons y l => rw [hr] at hhead; cases hhead; exact ⟨l, rfl⟩
  have hstart : a / 64 * 64 = a := Nat.div_mul_cancel (Nat.dvd_of_mod_eq_zero ha)
  have hbegin : s.dev.begin s.mem (stackOf a) n ecc (fun k => k == .rd)
      = some (r, (s.dev.takenReq (stackOf a) ecc.row rest).disturb s.mem a ecc) := by
    unfold Dev.begin
    rw [hh, if_neg (by decide), ht, Option.bind_some]
    dsimp only
    rw [hkind, if_pos (by decide), hl, List.headD_cons, hstart]
    rfl
  have hany : x.anyBad r.addrs = bad := by
    unfold Dev.anyBad
    rw [linesOf_line (a := a) (by rw [hl]; simp) fun y hy => by rw [← haddrs y hy, Nat.mul_div_cancel _ (by decide)],
      List.any_cons, List.any_nil, Bool.or_false, line_start]
    exact hbad
  have hf : s.dev.stackRead s.mem (stackOf a) n ecc = (x.performRead r data bad).finishReq r 0 bad := by
    unfold Dev.stackRead
    rw [hbegin]
    dsimp only
    rw [show r.addrs.headD 0 = a by rw [hl]; rfl, hread, hseen]
    dsimp only
    rw [hany]
  have htiles : x.tiles = s.dev.tiles := (Dev.tiles_of_mask (by decide) hleft.1).trans rfl
  have hqx : SMap.find r.tag (x.tile r.tile).store.dmas = some q := by rw [Dev.tile_congr htiles]; exact hq
  obtain ⟨hend, -, hts, -, -, hfm⟩ := Dev.readEnds hqx hseq data bad
  rw [Dev.tile_congr htiles] at hts
  have hwout : x.wout = [] := (Dev.wout_of_mask (by decide) hleft.1).trans hw
  generalize (x.performRead r data bad).finishReq r 0 bad = e at hf hend hts hfm
  exact Answers.quiet (f := fun m d => d.stackRead m (stackOf a) n ecc) rfl (line_ok hk hrow) hf
    ((Dev.wout_of_mask (by decide) hfm).trans hwout) ⟨.of_mask (by decide) hfm, hend, hts, rfl, rfl⟩

end

/-! ### A scrub -/

theorem Dev.scrub_eq (d : Dev) (m : Mem) (a : Nat) (ecc : Ecc) : d.scrub m a ecc =
    (if (((d.activateRow (stackOf a) ecc.row).disturb m a ecc).noteRead a true).2 = 1
        ∧ !(((d.activateRow (stackOf a) ecc.row).disturb m a ecc).noteRead a true).1.lineBad (a / 64)
        ∧ !(((d.activateRow (stackOf a) ecc.row).disturb m a ecc).noteRead a true).1.lineFailed a then
      ((((d.activateRow (stackOf a) ecc.row).disturb m a ecc).noteRead a true).1.pokeBytes a
        (((d.activateRow (stackOf a) ecc.row).disturb m a ecc).seenLine m a)).cellsGone a
    else (((d.activateRow (stackOf a) ecc.row).disturb m a ecc).noteRead a true).1,
      (((d.activateRow (stackOf a) ecc.row).disturb m a ecc).noteRead a true).2) := rfl

/-- What a scrub writes back. -/
def State.WrittenBack (s t : State) (a : Nat) (data : List Nat) : Prop :=
  (∀ y, a ≤ y → y < a + 64 → Memory.read t.mem y = BitVec.ofNat 8 (data.getD (y - a) 0))
  ∧ (∀ y, y < a ∨ a + 64 ≤ y → Memory.read t.mem y = Memory.read s.mem y) ∧ t.dev.cellsAt a = none

/-- A line as it is written back. -/
def Dev.writtenBack (x : Dev) (a : Nat) (data : List Nat) : Dev := (x.pokeBytes a data).cellsGone a

theorem Dev.writtenBack_over (x : Dev) (a : Nat) (data : List Nat) : Dev.ReadOver (stackOf a) x (x.writtenBack a data) := by
  unfold Dev.writtenBack Dev.cellsGone
  have hp : Dev.ReadOver (stackOf a) x (x.pokeBytes a data) := .of_mask (F := 67108864) (by decide) (Dev.pokeBytes_mask (by decide) ..)
  exact .ite (fun _ => hp.onStack _ fun _ => rfl) fun _ => hp

theorem Dev.writtenBack_wout (x : Dev) (a : Nat) (data : List Nat) : (x.writtenBack a data).wout = (x.pokeBytes a data).wout := by
  unfold Dev.writtenBack Dev.cellsGone
  split <;> rfl

theorem Dev.writtenBack_regs (x : Dev) (a : Nat) (data : List Nat) : (x.writtenBack a data).regs = x.regs := by
  unfold Dev.writtenBack Dev.cellsGone
  split <;> rfl

section
variable {s : State} {a : Nat} {ecc : Ecc} {queue : List Nat} {d : Dev}
  (hb : Dev.ReadBase s a ecc.row queue (d.activateRow (stackOf a) ecc.row))
include hb

theorem Dev.scrub_clean (hf : s.found a ecc = .clean) :
    d.scrub s.mem a ecc = ((d.activateRow (stackOf a) ecc.row).disturb s.mem a ecc, 0) := by
  rw [Dev.scrub_eq, hb.clean hf]
  dsimp only
  rw [if_neg (by simp)]

variable (he : ∀ e ∈ ecc.errs, e.1 < 72)
include he

theorem Dev.scrub_detected (hf : s.found a ecc = .detected) : ∃ x, d.scrub s.mem a ecc = (x, 2)
    ∧ (∀ e, Dev.ReadOver (stackOf a) x e → s.dev.ShowsDetected e (stackOf a) a (lineOf a) (s.cells a ecc))
    ∧ (x.stack (stackOf a)).demand = queue ∧ s.dev.FieldsBut detectedPlaces x
    ∧ Dev.ReadBase.Left s (d.activateRow (stackOf a) ecc.row) x a := by
  obtain ⟨x, hread, -, hshow, -, hdem, hfld, hleft⟩ := hb.detected he hf
  refine ⟨x, ?_, hshow, hdem, hfld, hleft⟩
  rw [Dev.scrub_eq, hread]
  dsimp only
  rw [if_neg (by simp)]

theorem Dev.scrub_corrected {n : Nat} {chg : List (Nat × Nat)} (hf : s.found a ecc = .corrected n chg) (hn : n ≠ 0)
    (hbad : s.dev.lineBad (a / 64) = false) (hfail : s.dev.lineFailed a = false) :
    ∃ x, d.scrub s.mem a ecc = (x.writtenBack a (changeLine (s.cells a ecc).data chg), 1)
    ∧ (∀ e, Dev.ReadOver (stackOf a) x e → s.dev.ShowsCorrected e (stackOf a) (lineOf a) ecc.row (s.cells a ecc) queue)
    ∧ s.dev.FieldsBut correctedPlaces x ∧ Dev.ReadBase.Left s (d.activateRow (stackOf a) ecc.row) x a := by
  obtain ⟨x, hread, hseen, hshow, hlines, hfld, hleft⟩ := hb.corrected he hf hn
  refine ⟨x, ?_, hshow, hfld, hleft⟩
  rw [Dev.scrub_eq, hread, hseen]
  exact Prod.ext (if_pos ⟨rfl, by rw [hlines, hbad]; rfl, by rw [hleft.2.2, hfail]; rfl⟩) rfl

end

/-- A line that a scrub has written back, as a command ends. -/
theorem Answers.writesBack {i : Instr} {ok : Bool} {f : Mem → Dev → Dev} {s : State} {P : State → Prop} {x y : Dev} {a : Nat} {data : List Nat}
    (hi : exec i s = runIf ok f s) (hok : ok = true) (hf : f s.mem s.dev = y) (hwx : x.wout = []) (hl : data.length = 64)
    (hwy : y.wout = (x.writtenBack a data).wout) (hc : y.cellsAt a = none)
    (hp : ∀ t : State, t.dev = { y with wout := [] } → s.WrittenBack t a data → P t) : Answers i s P := by
  rw [Dev.writtenBack_wout] at hwy
  refine Answers.stores hi hok ?_ fun m' hm' => hp _ (by rw [hf]) ?_
  · unfold Dev.Rising
    rw [hf, hwy]
    exact (Dev.Rising.of_nil hwx).pokeBytes ..
  · rw [hf, hwy] at hm'
    obtain ⟨hin, hout⟩ := Dev.pokeBytes_stored hwx a data hm'
    rw [hl] at hin hout
    refine ⟨hin, hout, ?_⟩
    dsimp only
    rw [hf]
    exact hc

end Sys2Proof.Machine
end


section
/-! PROOFS. The Doctor's scrubs and the obligation on line errors (R246 to R249, R258). -/

namespace Sys2Proof.Machine

/-! ### The end of a patrol read -/

/-- Patrol goes on to the next line, once its read has been counted. -/
def Dev.patrolMoved (d : Dev) (k line : Nat) : Dev :=
  d.onStack k fun x => { x with patrol := (line + 1) % stackLines, passed := (line + 1) % stackLines == 0 }

/-- The read is counted by what it found. -/
def Dev.patrolCounted (d : Dev) (n : Nat) : Dev :=
  if n = 1 then d.fcount docPatrolceCount 0 1 else if n = 2 then d.fcount docPatrolueCount 0 1 else d

/-- How far the pass is, and its end. -/
def Dev.passShown (d : Dev) : Dev :=
  if (d.fset docProgressPermille 0 d.passDone).passOver then (d.fset docProgressPermille 0 d.passDone).endPass
  else d.fset docProgressPermille 0 d.passDone

/-- What patrol does after its read. -/
def Dev.patrolled (d : Dev) (k line n : Nat) : Dev := ((d.patrolCounted n).patrolMoved k line).passShown

theorem Dev.patrolScrub_reads {d : Dev} (m : Mem) {k : Nat} {ecc : Ecc} (he : d.fget docCtlPatrolEn 0 = 1) (hs : d.mayScrub k = true)
    (hh : (d.stack k).hammered.contains ecc.row = false) (ha : d.fget docStatPatrolActive 0 = 1) (ho : d.passOver = false) :
    d.patrolScrub m k ecc = if (d.stack k).passed then d
      else (d.scrub m (k * stackBytes + (d.stack k).patrol * 64) ecc).1.patrolled k (d.stack k).patrol
        (d.scrub m (k * stackBytes + (d.stack k).patrol * 64) ecc).2 := by
  have hen : d.fbit docCtlPatrolEn 0 = true := beq_iff_eq.mpr he
  have hac : d.fbit docStatPatrolActive 0 = true := beq_iff_eq.mpr ha
  unfold Dev.patrolScrub
  dsimp only
  rw [hen, hs, hh, hac, ho]
  rw [if_neg (show ¬ (!true || !true || false) = true by decide), if_neg (show ¬ (true && false) = true by decide), hac, if_pos rfl]
  rfl

theorem Dev.passShown_spec (d : Dev) (k : Nat) :
    Dev.ReadOver k d d.passShown ∧ d.passShown.mask (partsMask [.regs]) = d.mask (partsMask [.regs])
    ∧ d.passShown.fget docPatrolceCount 0 = d.fget docPatrolceCount 0 ∧ d.passShown.fget docPatrolueCount 0 = d.fget docPatrolueCount 0 := by
  have hset : ∀ (e : Dev) (f : Field) v, f = docProgressPermille ∨ f = docProgressPasses ∨ f = docStatPatrolActive →
      (Dev.ReadOver k d e ∧ e.mask (partsMask [.regs]) = d.mask (partsMask [.regs])
        ∧ e.fget docPatrolceCount 0 = d.fget docPatrolceCount 0 ∧ e.fget docPatrolueCount 0 = d.fget docPatrolueCount 0) →
      (Dev.ReadOver k d (e.fset f 0 v) ∧ (e.fset f 0 v).mask (partsMask [.regs]) = d.mask (partsMask [.regs])
        ∧ (e.fset f 0 v).fget docPatrolceCount 0 = d.fget docPatrolceCount 0
        ∧ (e.fset f 0 v).fget docPatrolueCount 0 = d.fget docPatrolueCount 0) := by
    rintro e f v hf ⟨ho, hm, hc, hu⟩
    have hp : f.place < 2 ^ 23 ∧ f.place ∈ doctorPlaces ∧ docPatrolceCount.place ≠ f.place ∧ docPatrolueCount.place ≠ f.place := by
      rcases hf with rfl | rfl | rfl <;> decide
    obtain ⟨hlt, hmem, hne, hne'⟩ := hp
    exact ⟨ho.fset f 0 v hlt hmem, (Dev.fset_mask (by decide) ..).trans hm,
      (Dev.fget_fset_place _ _ _ _ ⟨hlt, by decide, hne⟩).trans hc, (Dev.fget_fset_place _ _ _ _ ⟨hlt, by decide, hne'⟩).trans hu⟩
  have h0 := hset d docProgressPermille d.passDone (.inl rfl) ⟨.refl .., rfl, rfl, rfl⟩
  unfold Dev.passShown
  generalize d.fset docProgressPermille 0 d.passDone = e at h0
  split
  · unfold Dev.endPass Dev.fwrap
    exact hset _ docStatPatrolActive 0 (.inr (.inr rfl)) (hset e docProgressPasses _ (.inr (.inl rfl)) h0)
  · exact h0

theorem Dev.patrolCounted_spec (d : Dev) (k n : Nat) :
    Dev.ReadOver k d (d.patrolCounted n) ∧ (d.patrolCounted n).mask (partsMask [.regs]) = d.mask (partsMask [.regs])
    ∧ (n = 1 → (d.patrolCounted n).fget docPatrolceCount 0 = satAdd (2 ^ 32 - 1) (d.fget docPatrolceCount 0) 1)
    ∧ (n = 2 → (d.patrolCounted n).fget docPatrolueCount 0 = satAdd (2 ^ 32 - 1) (d.fget docPatrolueCount 0) 1) := by
  unfold Dev.patrolCounted
  by_cases h1 : n = 1
  · rw [if_pos h1]
    exact ⟨.fset (.refl ..) _ _ _ (by decide) (by decide), Dev.fset_mask (by decide) .., fun _ => Dev.fget_fcount_sat ..,
      fun h => by omega⟩
  · rw [if_neg h1]
    by_cases h2 : n = 2
    · rw [if_pos h2]
      exact ⟨.fset (.refl ..) _ _ _ (by decide) (by decide), Dev.fset_mask (by decide) .., fun h => absurd h h1,
        fun _ => Dev.fget_fcount_sat ..⟩
    · rw [if_neg h2]
      exact ⟨.refl .., rfl, fun h => absurd h h1, fun h => absurd h h2⟩

/-- The patrol has gone on. -/
def State.PatrolGone (s t : State) (k line : Nat) : Prop :=
  (t.dev.stack k).patrol = (line + 1) % stackLines ∧ (t.dev.stack k).passed = decide ((line + 1) % stackLines = 0)
  ∧ ∀ j, j ≠ k → t.dev.stack j = s.dev.stack j

theorem Dev.patrolled_spec (d : Dev) (k line n : Nat) :
    Dev.ReadOver k d (d.patrolled k line n)
    ∧ (d.patrolled k line n).mask (partsMask [.regs, .stks]) = d.mask (partsMask [.regs, .stks])
    ∧ ((d.patrolled k line n).stack k).patrol = (line + 1) % stackLines
    ∧ ((d.patrolled k line n).stack k).passed = decide ((line + 1) % stackLines = 0)
    ∧ (∀ a, (d.patrolled k line n).cellsAt a = d.cellsAt a)
    ∧ (n = 1 → (d.patrolled k line n).fget docPatrolceCount 0 = satAdd (2 ^ 32 - 1) (d.fget docPatrolceCount 0) 1)
    ∧ (n = 2 → (d.patrolled k line n).fget docPatrolueCount 0 = satAdd (2 ^ 32 - 1) (d.fget docPatrolueCount 0) 1) := by
  obtain ⟨ho1, hm1, hce1, hue1⟩ := d.patrolCounted_spec k n
  unfold Dev.patrolled
  generalize d.patrolCounted n = e at ho1 hm1 hce1 hue1 ⊢
  have ho2 : Dev.ReadOver k d (e.patrolMoved k line) := ho1.onStack _ fun _ => rfl
  have hs2 : ∀ j, (e.patrolMoved k line).stack j
      = if k = j then { d.stack k with patrol := (line + 1) % stackLines, passed := (line + 1) % stackLines == 0 } else d.stack j := fun j => by
    unfold Dev.patrolMoved
    rw [Dev.stack_onStack, Dev.stack_congr (Dev.stks_of_mask (by decide) hm1), Dev.stack_congr (Dev.stks_of_mask (by decide) hm1)]
  have hm2 : (e.patrolMoved k line).mask (partsMask [.regs, .stks]) = d.mask (partsMask [.regs, .stks]) :=
    (Dev.onStack_mask (by decide) ..).trans (Dev.mask_sub (by decide) hm1)
  have hr2 : ∀ f i, (e.patrolMoved k line).fget f i = e.fget f i := fun _ _ => rfl
  generalize e.patrolMoved k line = g at ho2 hs2 hm2 hr2 ⊢
  obtain ⟨ho3, hm3, hce3, hue3⟩ := g.passShown_spec k
  have hs3 : ∀ j, g.passShown.stack j = g.stack j := Dev.stack_congr (Dev.stks_of_mask (by decide) hm3)
  refine ⟨ho2.trans ho3, (Dev.mask_sub (by decide) hm3).trans hm2, ?_, ?_, fun a => ?_, fun h => ?_, fun h => ?_⟩
  · rw [hs3, hs2, if_pos rfl]
  · rw [hs3, hs2, if_pos rfl]
    rfl
  · unfold Dev.cellsAt
    rw [hs3, hs2]
    split
    next hk => rw [hk]
    next => rfl
  · rw [hce3, hr2, hce1 h]
  · rw [hue3, hr2, hue1 h]

/-! ### The bases of the scrubs -/

theorem Dev.activateRow_base {s : State} {a : Nat} (row : Nat) (hw : s.dev.wout = []) :
    ReadBase s a row (s.dev.stack (stackOf a)).demand (s.dev.activateRow (stackOf a) row) := by
  have hs : ∀ j, (s.dev.activateRow (stackOf a) row).stack j = if stackOf a = j
      then { s.dev.stack (stackOf a) with acts := SMap.modify 0 row (· + 1) (s.dev.stack (stackOf a)).acts } else s.dev.stack j :=
    fun j => Dev.stack_onStack ..
  refine ⟨⟨?_, ?_, rfl, fun j hj => ?_⟩, ?_, hw, rfl, rfl⟩
  · rw [hs, if_pos rfl]
    unfold SMap.modify
    dsimp only
    rw [SMap.get_put_same]
  · rw [hs, if_pos rfl]
  · rw [hs, if_neg (Ne.symm hj)]
  · unfold Dev.cellsAt
    rw [hs, if_pos rfl]

/-- The oldest line of the Doctor's queue is taken. -/
def Dev.demandTaken (d : Dev) (k : Nat) (rest : List Nat) : Dev := d.onStack k fun x => { x with demand := rest }

theorem Dev.demandTaken_base {s : State} {a : Nat} (row : Nat) (rest : List Nat) (hw : s.dev.wout = []) :
    ReadBase s a row rest ((s.dev.demandTaken (stackOf a) rest).activateRow (stackOf a) row) := by
  have hs : ∀ j, ((s.dev.demandTaken (stackOf a) rest).activateRow (stackOf a) row).stack j = if stackOf a = j
      then { s.dev.stack (stackOf a) with demand := rest, acts := SMap.modify 0 row (· + 1) (s.dev.stack (stackOf a)).acts }
      else s.dev.stack j := fun j => by
    unfold Dev.demandTaken Dev.activateRow
    rw [Dev.stack_onStack, Dev.stack_onStack, Dev.stack_onStack]
    by_cases h : stackOf a = j
    · rw [if_pos h, if_pos h, if_pos rfl]
    · rw [if_neg h, if_neg h, if_neg h]
  refine ⟨⟨?_, ?_, rfl, fun j hj => ?_⟩, ?_, hw, rfl, rfl⟩
  · rw [hs, if_pos rfl]
    unfold SMap.modify
    dsimp only
    rw [SMap.get_put_same]
  · rw [hs, if_pos rfl]
  · rw [hs, if_neg (Ne.symm hj)]
  · unfold Dev.cellsAt
    rw [hs, if_pos rfl]

theorem Dev.demandScrub_takes {d : Dev} (m : Mem) {k line : Nat} {rest : List Nat} {ecc : Ecc} (h : (d.stack k).demand = line :: rest)
    (hs : d.mayScrub k = true) (hh : (d.stack k).hammered.contains ecc.row = false) :
    d.demandScrub m k ecc
      = ((d.demandTaken k rest).scrub m (k * stackBytes + line * 64) ecc).1.fcount docDemandcntCount 0 1 := by
  unfold Dev.demandScrub
  rw [h]
  dsimp only
  rw [hs, hh, if_neg (by decide)]
  rfl

theorem line_address {a k : Nat} (hk : stackOf a = k) (ha : a % 64 = 0) : k * stackBytes + lineOf a * 64 = a := by
  unfold stackOf at hk
  unfold lineOf
  unfold stackBytes at hk ⊢
  omega

/-! ### The obligation -/

theorem Dev.ReadOver.emptied {k : Nat} {d e : Dev} (h : ReadOver k d e) : ReadOver k d { e with wout := [] } :=
  h.trans (.of_mask (F := 67108864) (by decide) (Dev.mask_wout (by decide) ..))

theorem Dev.demandCount_over (x : Dev) (k : Nat) : Dev.ReadOver k x (x.fcount docDemandcntCount 0 1) :=
  .fset (.refl ..) _ _ _ (by decide) (by decide)

theorem Dev.demandCount_count {d x : Dev} {ps : List Nat} (h : d.FieldsBut ps x) (hp : docDemandcntCount.place ∉ ps) :
    (x.fcount docDemandcntCount 0 1).fget docDemandcntCount 0 = satAdd (2 ^ 32 - 1) (d.fget docDemandcntCount 0) 1 := by
  rw [← h.same docDemandcntCount 0 (by decide) hp]
  exact Dev.fget_fcount_sat ..

/-- Settles O33: the read of the line (`Dev.Corrects`, `Dev.Detects`) is the same in the three commands, and what each of them
does afterwards is not of what the read shows (`Dev.ReadOver`). -/
theorem lineErrorsAndScrubs : Obligations.LineErrorsAndScrubs := by
  unfold Obligations.LineErrorsAndScrubs
  intro s k n m ecc chg r rest q a hk hrow hw hh hka ha he
  subst hka
  intro x line before cells found detected corrected
  have hstart : a / 64 * 64 = a := Nat.div_mul_cancel (Nat.dvd_of_mod_eq_zero ha)
  refine ⟨?_, ?_, fun hno => ⟨?_, ?_⟩⟩
  · -- a read request
    intro ht hkind hhead haddrs hq hseq ended
    refine ⟨fun hf => ?_, fun hf hm => ?_⟩
    · obtain ⟨x', hread, hseen, hshow, hl, -, -, hleft⟩ := (Dev.takenReq_base (a := a) ecc rest hw).detected he hf
      exact (Answers.readReturns hk hrow hw hh ha ht hkind hhead haddrs hq hseq hread hseen hl hleft).imp fun t ⟨ho, hr⟩ => ⟨hshow _ ho, hr⟩
    · obtain ⟨x', hread, hseen, hshow, hl, -, hleft⟩ := (Dev.takenReq_base (a := a) ecc rest hw).corrected he hf hm
      exact (Answers.readReturns hk hrow hw hh ha ht hkind hhead haddrs hq hseq hread hseen (hl _) hleft).imp fun t ⟨ho, hr⟩ => ⟨hshow _ ho, hr⟩
  · -- the scrubs
    intro hs written open_
    refine ⟨fun rest' hdem => ⟨?_, fun hf => ?_, fun hf => ?_⟩, fun hnil => ?_, fun hen hact hover => ⟨fun hpass => ?_, ?_⟩⟩
    · -- a demand scrub that corrects
      rintro hf hm ⟨hbad, hfail, hlen⟩
      obtain ⟨x', hscrub, hshow, hfld, hleft⟩ := Dev.scrub_corrected (Dev.demandTaken_base (a := a) ecc.row rest' hw) he hf hm hbad hfail
      have hgo := Dev.demandScrub_takes s.mem hdem hs hh
      rw [line_address rfl ha, hscrub] at hgo
      refine Answers.writesBack (f := fun m d => d.demandScrub m (stackOf a) ecc) rfl (line_ok hk hrow) hgo
        ((Dev.wout_of_mask (by decide) hleft.1).trans hw) ((changeLine_length ..).trans hlen) rfl (Dev.cellsGone_none ..) fun t ht hwrt => ?_
      have ho := (x'.writtenBack_over a (changeLine (s.cells a ecc).data chg)).trans (Dev.demandCount_over ..)
      have hcnt := Dev.demandCount_count (hfld.trans (.of_regs (x'.writtenBack_regs a (changeLine (s.cells a ecc).data chg)))) (by decide)
      generalize (x'.writtenBack a (changeLine (s.cells a ecc).data chg)).fcount docDemandcntCount 0 1 = y at ht ho hcnt
      obtain ⟨_, _, _⟩ := t
      subst ht
      exact ⟨hshow _ ho.emptied, hwrt, hcnt⟩
    · obtain ⟨x', hscrub, hshow, hqueue, hfld, hleft⟩ := Dev.scrub_detected (Dev.demandTaken_base (a := a) ecc.row rest' hw) he hf
      have hgo := Dev.demandScrub_takes s.mem hdem hs hh
      rw [line_address rfl ha, hscrub] at hgo
      refine Answers.quiet (f := fun m d => d.demandScrub m (stackOf a) ecc) rfl (line_ok hk hrow) hgo
        ((Dev.wout_of_mask (by decide) hleft.1).trans hw) ⟨hshow _ (Dev.demandCount_over ..), hqueue, rfl,
          Dev.demandCount_count hfld (by decide)⟩
    · have hbase := Dev.demandTaken_base (s := s) (a := a) ecc.row rest' hw
      have hgo := Dev.demandScrub_takes s.mem hdem hs hh
      rw [line_address rfl ha, Dev.scrub_clean hbase hf] at hgo
      obtain ⟨hrow', -⟩ := hbase.disturbed he
      have hwo := Dev.wout_of_mask (by decide) (Dev.disturb_mask (F := 3072) (by decide)
        ((s.dev.demandTaken (stackOf a) rest').activateRow (stackOf a) ecc.row) s.mem a ecc)
      refine Answers.quiet (f := fun m d => d.demandScrub m (stackOf a) ecc) rfl (line_ok hk hrow) hgo (hwo.trans hw)
        ⟨hrow'.demand, rfl, Dev.demandCount_count (ps := []) (.of_regs hrow'.regs) (by decide)⟩
    · refine runIf_same (f := fun m d => d.demandScrub m (stackOf a) ecc) (line_ok hk hrow) hw ?_
      unfold Dev.demandScrub
      rw [show (s.dev.stack (stackOf a)).demand = [] from hnil]
    · refine runIf_same (f := fun m d => d.patrolScrub m (stackOf a) ecc) (line_ok hk hrow) hw ?_
      exact (Dev.patrolScrub_reads s.mem hen hs hh hact hover).trans (if_pos hpass)
    · intro hpass hline gone
      have hpat : (s.dev.stack (stackOf a)).patrol = lineOf a := hline
      have hgo := (Dev.patrolScrub_reads s.mem hen hs hh hact hover).trans (if_neg (by rw [show (s.dev.stack (stackOf a)).passed = false from hpass]; decide))
      rw [hpat, line_address rfl ha] at hgo
      have hbase := Dev.activateRow_base (s := s) (a := a) ecc.row hw
      refine ⟨fun hf => ?_, ?_, fun hf => ?_⟩
      · rw [Dev.scrub_clean hbase hf] at hgo
        obtain ⟨hrow', -⟩ := hbase.disturbed he
        have hm := Dev.disturb_mask (F := 3072) (by decide) (s.dev.activateRow (stackOf a) ecc.row) s.mem a ecc
        obtain ⟨ho, hmask, hp, hpd, -, -, -⟩ := Dev.patrolled_spec ((s.dev.activateRow (stackOf a) ecc.row).disturb s.mem a ecc) (stackOf a) (lineOf a) 0
        refine Answers.parts [.regs, .stks, .linePoison] (f := fun m d => d.patrolScrub m (stackOf a) ecc) rfl (line_ok hk hrow) hw
          ((congrArg (Dev.mask _) hgo).trans ((Dev.mask_sub (by decide) hmask).trans ((Dev.mask_sub (by decide) hm).trans
            (Dev.activateRow_mask (by decide) ..)))) (by decide) fun ho' => ?_
        rw [hgo] at ho' ⊢
        exact ⟨⟨hp, hpd, fun j hj => (ho.others j hj).trans (hrow'.others j hj)⟩, ho'⟩
      · rintro hf hm ⟨hbad, hfail, hlen⟩
        obtain ⟨x', hscrub, hshow, hfld, hleft⟩ := Dev.scrub_corrected hbase he hf hm hbad hfail
        rw [hscrub] at hgo
        have hback := x'.writtenBack_over a (changeLine (s.cells a ecc).data chg)
        have hregs := x'.writtenBack_regs a (changeLine (s.cells a ecc).data chg)
        have hnone : (x'.writtenBack a (changeLine (s.cells a ecc).data chg)).cellsAt a = none := Dev.cellsGone_none ..
        obtain ⟨ho, hmask, hp, hpd, hcells, hce, -⟩ :=
          Dev.patrolled_spec (x'.writtenBack a (changeLine (s.cells a ecc).data chg)) (stackOf a) (lineOf a) 1
        refine Answers.writesBack (f := fun m d => d.patrolScrub m (stackOf a) ecc) rfl (line_ok hk hrow) hgo
          ((Dev.wout_of_mask (by decide) hleft.1).trans hw) ((changeLine_length ..).trans hlen) (Dev.wout_of_mask (by decide) hmask)
          ((hcells a).trans hnone) fun t ht hwrt => ?_
        have hcount := (hce rfl).trans (congrArg (satAdd (2 ^ 32 - 1) · 1) ((Dev.fget_congr hregs ..).trans
          (hfld.same docPatrolceCount 0 (by decide) (by decide))))
        generalize (x'.writtenBack a (changeLine (s.cells a ecc).data chg)).patrolled (stackOf a) (lineOf a) 1 = y at ht ho hp hpd hcount
        obtain ⟨_, _, _⟩ := t
        subst ht
        exact ⟨⟨hp, hpd, fun j hj => (ho.others j hj).trans ((hback.others j hj).trans (hleft.2.1 j hj))⟩, hshow _ (hback.trans ho).emptied, hwrt, hcount⟩
      · obtain ⟨x', hscrub, hshow, -, hfld, hleft⟩ := Dev.scrub_detected hbase he hf
        rw [hscrub] at hgo
        obtain ⟨ho, hmask, hp, hpd, -, -, hue⟩ := Dev.patrolled_spec x' (stackOf a) (lineOf a) 2
        refine Answers.quiet (f := fun m d => d.patrolScrub m (stackOf a) ecc) rfl (line_ok hk hrow) hgo
          ((Dev.wout_of_mask (by decide) hmask).trans ((Dev.wout_of_mask (by decide) hleft.1).trans hw))
          ⟨⟨hp, hpd, fun j hj => (ho.others j hj).trans (hleft.2.1 j hj)⟩, hshow _ ho, rfl,
            (hue rfl).trans (congrArg (satAdd (2 ^ 32 - 1) · 1) (hfld.same docPatrolueCount 0 (by decide) (by decide)))⟩
  · refine runIf_same (f := fun m d => d.demandScrub m (stackOf a) ecc) (line_ok hk hrow) hw ?_
    unfold Dev.demandScrub
    rw [hno]
    cases (s.dev.stack (stackOf a)).demand <;> rfl
  · refine runIf_same (f := fun m d => d.patrolScrub m (stackOf a) ecc) (line_ok hk hrow) hw ?_
    unfold Dev.patrolScrub
    rw [hno]
    exact if_pos (by simp)

end Sys2Proof.Machine
end


section
/-! PROOFS. A migration copies one unit, line by line (R282): the bytes and the poison that its lines leave. -/

namespace Sys2Proof.Machine

/-! ### One whole line is written -/

theorem Dev.byteAt_congr {d e : Dev} (h : e.wout = d.wout) (m : Mem) (a : Nat) : e.byteAt m a = d.byteAt m a := by
  unfold Dev.byteAt
  rw [h]

theorem Dev.byteAt_lt (d : Dev) (m : Mem) (a : Nat) : d.byteAt m a < 2 ^ 8 := BitVec.isLt _

/-- The bytes of an outbox as the memory holds them after the command. -/
theorem Dev.Rising.byteAt {d : Dev} (h : d.Rising) (m : Mem) (a : Nat) : (Memory.read (Memory.writeAll m d.wout) a).toNat = d.byteAt m a := by
  rw [Memory.read_writeAll h]
  rfl

theorem Dev.byteAt_poked (d : Dev) (m : Mem) (a x : Nat) (bs : List Nat) (hb : ∀ i, bs.getD i 0 < 2 ^ 8) :
    (d.pokeBytes a bs).byteAt m x = if a ≤ x ∧ x < a + bs.length then bs.getD (x - a) 0 else d.byteAt m x := by
  have hf := find_poked a x bs 0 d.wout
  unfold Dev.pokeBytes Dev.byteAt
  rw [Nat.add_zero] at hf
  dsimp only
  rw [hf]
  by_cases h : a ≤ x ∧ x < a + bs.length
  · rw [if_pos h, if_pos h, Option.getD_some, BitVec.toNat_ofNat, Nat.mod_eq_of_lt (hb _)]
  · rw [if_neg h, if_neg h]

/-- A whole line goes over what was there, its cells as they were written. -/
theorem Dev.writeBytes_line {d : Dev} {a : Nat} {bs : List Nat} (poison : Bool) (ha : a % 64 = 0) (hl : bs.length = 64)
    (hc : d.cellsAt a = none) : d.writeBytes a bs poison = (d.markWrite a true poison 0).pokeBytes a bs := by
  have hs : lineSpans (64 / 64 + 2) a 64 = [(a, 64)] := by
    simp only [lineSpans, ha]
    rfl
  unfold Dev.writeBytes
  rw [hl, hs, List.foldl_cons, List.foldl_nil]
  dsimp only
  rw [Nat.sub_self, List.drop_zero, List.take_of_length_le (by omega)]
  unfold Dev.writeLine
  rw [ha, hl]
  dsimp only
  rw [show ((0 : Nat) == 0 && (64 : Nat) == 64) = true from rfl, Dev.openLine_clean hc]

/-! ### The lines copied so far -/

/-- The first `n` lines of the unit at `src` have been copied to the one at `dst`. -/
structure Dev.Copied (d e : Dev) (m : Mem) (src dst n : Nat) : Prop where
  mask : e.mask (partsMask [.units, .evr, .stks, .linePoison, .pci, .wout]) = d.mask (partsMask [.units, .evr, .stks, .linePoison, .pci, .wout])
  cells : ∀ a, e.cellsAt a = d.cellsAt a
  lines : ∀ l, e.lineBad l = if dst / 64 ≤ l ∧ l < dst / 64 + n then d.lineBad (src / 64 + (l - dst / 64)) else d.lineBad l
  bytes : ∀ a, e.byteAt m a = if dst ≤ a ∧ a < dst + 64 * n then d.byteAt m (src + (a - dst)) else d.byteAt m a
  rising : e.Rising

theorem Dev.Copied.refl (d : Dev) (h : d.Rising) (m : Mem) (src dst : Nat) : d.Copied d m src dst 0 :=
  ⟨rfl, fun _ => rfl, fun l => (if_neg (by omega)).symm, fun a => (if_neg (by omega)).symm, h⟩

theorem Dev.activateRow_cells (d : Dev) (k row a : Nat) : (d.activateRow k row).cellsAt a = d.cellsAt a := by
  unfold Dev.cellsAt Dev.activateRow
  rw [Dev.stack_onStack]
  split
  next h => rw [h]
  next => rfl

/-- A line whose cells are as they were written is copied with its poison. -/
theorem Dev.copyLine_eq {d : Dev} (m : Mem) {src dst : Nat} {ecc : Option Ecc} (hsrc : src % 64 = 0) (hdst : dst % 64 = 0)
    (he : ∀ x, ecc = some x → x.errs = []) (hs : d.cellsAt src = none) (hd : d.cellsAt dst = none) :
    ∃ b : Dev, d.copyLine m src dst ecc = (b.markWrite dst true (b.lineBad (src / 64)) 0).pokeBytes dst (b.bytesAt m src 64)
      ∧ b.mask (partsMask [.stks]) = d.mask (partsMask [.stks]) ∧ ∀ a, b.cellsAt a = d.cellsAt a := by
  obtain ⟨b, hb, hm, hc⟩ : ∃ b : Dev, ecc.elim d (fun e => (d.activateRow (stackOf src) e.row).disturb m src e) = b
      ∧ b.mask (partsMask [.stks]) = d.mask (partsMask [.stks]) ∧ ∀ a, b.cellsAt a = d.cellsAt a := by
    cases ecc with
    | none => exact ⟨d, rfl, rfl, fun _ => rfl⟩
    | some x =>
      refine ⟨_, ?_, Dev.activateRow_mask (by decide) d (stackOf src) x.row, Dev.activateRow_cells d (stackOf src) x.row⟩
      dsimp only [Option.elim]
      unfold Dev.disturb
      rw [he x rfl]
      exact if_pos rfl
  refine ⟨b, ?_, hm, hc⟩
  have hseen : b.seenLine m src = b.bytesAt m src 64 := by
    unfold Dev.seenLine
    rw [hc, hs]
    dsimp only
    rw [Nat.div_mul_cancel (Nat.dvd_of_mod_eq_zero hsrc)]
  have hnote : (b.noteRead src true).1 = b := by
    unfold Dev.noteRead
    rw [hc, hs]
  unfold Dev.copyLine
  dsimp only
  rw [hb, hseen, hnote]
  exact Dev.writeBytes_line _ hdst (by unfold Dev.bytesAt; simp) ((hc _).trans hd)

section
variable {d e : Dev} {m : Mem} {src dst : Nat}

theorem Dev.Copied.line {n : Nat} (h : d.Copied e m src dst n) {ecc : Option Ecc} (hn : n < 64) (hsrc : src % 64 = 0) (hdst : dst % 64 = 0)
    (hfar : src + 4096 ≤ dst ∨ dst + 4096 ≤ src) (he : ∀ x, ecc = some x → x.errs = [])
    (hs : d.cellsAt (src + 64 * n) = none) (hd : d.cellsAt (dst + 64 * n) = none) :
    d.Copied (e.copyLine m (src + 64 * n) (dst + 64 * n) ecc) m src dst (n + 1) := by
  obtain ⟨b, heq, hm, hc⟩ := Dev.copyLine_eq (d := e) m (src := src + 64 * n) (dst := dst + 64 * n) (ecc := ecc) (by omega) (by omega) he
    ((h.cells _).trans hs) ((h.cells _).trans hd)
  have hbl : ∀ l, b.lineBad l = e.lineBad l := Dev.lineBad_congr (Dev.linePoison_of_mask (by decide) hm)
  have hbb : ∀ a, b.byteAt m a = e.byteAt m a := Dev.byteAt_congr (Dev.wout_of_mask (by decide) hm) m
  have hdone := b.markWrite_done (dst + 64 * n) (dst + 64 * n) rfl true (b.lineBad ((src + 64 * n) / 64))
  have hwout : (b.markWrite (dst + 64 * n) true (b.lineBad ((src + 64 * n) / 64)) 0).wout = b.wout := hdone.wout
  have hlen : (b.bytesAt m (src + 64 * n) 64).length = 64 := by unfold Dev.bytesAt; simp
  have hget : ∀ i, i < 64 → (b.bytesAt m (src + 64 * n) 64).getD i 0 = b.byteAt m (src + 64 * n + i) := fun i hi => by
    unfold Dev.bytesAt
    simp [hi]
  have hlt : ∀ i, (b.bytesAt m (src + 64 * n) 64).getD i 0 < 2 ^ 8 := fun i => by
    by_cases hi : i < 64
    · rw [hget i hi]
      exact Dev.byteAt_lt ..
    · rw [List.getD_eq_default _ _ (by omega)]
      decide
  rw [heq]
  generalize b.markWrite (dst + 64 * n) true (b.lineBad ((src + 64 * n) / 64)) 0 = x at hdone hwout ⊢
  generalize b.bytesAt m (src + 64 * n) 64 = bs at hlen hget hlt ⊢
  have hpoke : (x.pokeBytes (dst + 64 * n) bs).stks = x.stks ∧ (x.pokeBytes (dst + 64 * n) bs).linePoison = x.linePoison := ⟨rfl, rfl⟩
  refine ⟨?_, fun a => ?_, fun l => ?_, fun a => ?_, ?_⟩
  · refine (Dev.pokeBytes_mask (by decide) ..).trans ((Dev.mask_sub (P := partsMask [.units, .evr, .linePoison, .pci, .wout]) (by decide) hdone.mask).trans ?_)
    exact (Dev.mask_sub (P := partsMask [.stks]) (by decide) hm).trans h.mask
  · rw [Dev.cellsAt_congr hpoke.1, hdone.cells, hc, h.cells]
  · have hsl : (src + 64 * n) / 64 = src / 64 + n := by omega
    have hdl : (dst + 64 * n) / 64 = dst / 64 + n := by omega
    rw [Dev.lineBad_congr hpoke.2]
    by_cases hl : l = dst / 64 + n
    · rw [if_pos (by omega), hl, ← hdl, hdone.line, hbl, h.lines, hsl, if_neg (by omega), Bool.not_true, Bool.false_and, Bool.or_false]
      congr 1
      omega
    · rw [hdone.lines l (by rw [hdl]; exact hl), hbl, h.lines]
      by_cases hr : dst / 64 ≤ l ∧ l < dst / 64 + n
      · rw [if_pos hr, if_pos (by omega)]
      · rw [if_neg hr, if_neg (by omega)]
  · rw [Dev.byteAt_poked _ _ _ _ _ hlt, hlen, Dev.byteAt_congr hwout, hbb, h.bytes]
    by_cases ha : dst + 64 * n ≤ a ∧ a < dst + 64 * n + 64
    · rw [if_pos ha, if_pos (by omega), hget _ (by omega), hbb, h.bytes, if_neg (by omega)]
      congr 1
      omega
    · rw [if_neg ha]
      by_cases hr : dst ≤ a ∧ a < dst + 64 * n
      · rw [if_pos hr, if_pos (by omega)]
      · rw [if_neg hr, if_neg (by omega)]
  · refine Dev.Rising.pokeBytes ?_ ..
    unfold Dev.Rising
    rw [hwout, Dev.wout_of_mask (by decide) hm]
    exact h.rising

/-- The unit is copied. -/
theorem Dev.copied_unit (hr : d.Rising) (n : Nat) {ecc : Ecc} (he : ecc.errs = []) (hsrc : src % 64 = 0) (hdst : dst % 64 = 0)
    (hfar : src + 4096 ≤ dst ∨ dst + 4096 ≤ src)
    (hc : ∀ i, i < 64 → d.cellsAt (src + 64 * i) = none ∧ d.cellsAt (dst + 64 * i) = none) :
    d.Copied ((List.range 64).foldl (fun (d : Dev) k => d.copyLine m (src + 64 * k) (dst + 64 * k) (if k = n then some ecc else none)) d)
      m src dst 64 := by
  have hk : ∀ k, k ≤ 64 → d.Copied ((List.range k).foldl (fun (d : Dev) k =>
      d.copyLine m (src + 64 * k) (dst + 64 * k) (if k = n then some ecc else none)) d) m src dst k := by
    intro k
    induction k with
    | zero => exact fun _ => .refl d hr m src dst
    | succ k ih =>
      intro hle
      rw [List.range_succ, List.foldl_append]
      refine (ih (by omega)).line (by omega) hsrc hdst hfar (fun x hx => ?_) (hc k (by omega)).1 (hc k (by omega)).2
      by_cases hkn : k = n
      · rw [if_pos hkn] at hx
        cases hx
        exact he
      · rw [if_neg hkn] at hx
        cases hx
  exact hk 64 (by omega)

end

end Sys2Proof.Machine
end


section
/-! PROOFS. Deckle's reports, and its migrations and re-draws (R282 to R286, R320). -/

namespace Sys2Proof.Machine

/-! ### Reports -/

theorem Dev.postUnsolicited_keeps (d : Dev) (kind status p0 p1 p2 : Nat) :
    d.KeepsBut [pHBX] (d.postUnsolicited kind status p0 p1 p2) := by
  unfold Dev.postUnsolicited
  exact .ite (fun _ => Dev.dropCompletions_keeps ..) fun _ => Dev.postCq_keeps ..

/-- A report shows its code and its detail, and of the other fields changes those of HBX alone. -/
theorem Dev.deckleReport_fields (d : Dev) (code detail : Nat) (post : Bool) :
    (d.deckleReport code detail post).fget dklLaststatCode 0 = code % 2 ^ 8
    ∧ (d.deckleReport code detail post).fget dklLaststatDetail 0 = detail % 2 ^ 24
    ∧ ∀ (f : Field) i, f.place < 2 ^ 23 → f.place / 2 ^ 17 ∉ [pHBX] → f.place ≠ dklLaststatCode.place →
      f.place ≠ dklLaststatDetail.place → (d.deckleReport code detail post).fget f i = d.fget f i := by
  have hk : ((d.deckleStat code detail).record 0x5007 pDKL 0 code detail 0).KeepsBut [pHBX] (d.deckleReport code detail post) := by
    cases post
    · exact .refl ..
    · exact Dev.postUnsolicited_keeps ..
  have hs : (d.deckleStat code detail).KeepsBut [pHBX] (d.deckleReport code detail post) :=
    Dev.KeepsBut.trans (.record (.refl ..) ..) hk
  refine ⟨?_, ?_, fun f i hf hc h1 h2 => ?_⟩
  · rw [hs.keeps dklLaststatCode 0 (by decide) (by decide), Dev.deckleStat, Dev.fget_fset_place _ _ _ _ (by decide), Dev.fget_fset_same]
    rfl
  · rw [hs.keeps dklLaststatDetail 0 (by decide) (by decide), Dev.deckleStat, Dev.fget_fset_same]
    rfl
  · rw [hs.keeps f i hf hc, Dev.deckleStat, Dev.fget_fset_place _ _ _ _ ⟨by decide, hf, h2⟩, Dev.fget_fset_place _ _ _ _ ⟨by decide, hf, h1⟩]

theorem Dev.deckleReport_deckle (d : Dev) (code detail : Nat) (post : Bool) : (d.deckleReport code detail post).deckle = d.deckle :=
  Dev.deckle_of_mask (by decide) (Dev.deckleReport_mask (F := 2097192) (by decide) ..)

/-- The oldest event of a kind is taken. -/
theorem Dev.takeEvent_found {d : Dev} {p : DkEvent → Bool} {q : DkEvent} (h : d.deckle.events.find? p = some q) :
    d.takeEvent p = some (q, { d with deckle := { d.deckle with events := d.deckle.events.erase q } }) := by
  unfold Dev.takeEvent
  rw [h]

/-! ### Migrations -/

/-- The place that a migration finds for a region. -/
def Dev.movesTo (d : Dev) (k h : Nat) (tgt : Region) : Prop :=
  ∃ pl mr, d.deckle.placement = some pl ∧ d.manRegion h = some mr ∧
    placeRegion (d.occupied d.deckle.regions) (nearStacks pl.man pl.tmap pl.order mr.stage (d.usableStacks (some k)))
      (d.usableStacks (some k)) (mr.rule d.deckle.layout) mr.size stackBytes = some tgt

/-- The region `h` is MIGRATING by `g`. -/
def Dev.migrating (d : Dev) (h : Nat) (g : Migration) : Dev :=
  { d with deckle := { d.deckle with
      regions := SMap.put .none h { d.entry h with state := .migrating } d.deckle.regions, migration := some g } }

/-- The first region of a stack that has a place elsewhere. -/
theorem Dev.nextMigration_moves {d : Dev} {g : Migration} {h : Nat} {rest : List Nat} {tgt : Region}
    (hs : (d.entry h).state = .active) (hb : bit (d.entry h).stks g.stack = true) (ht : d.movesTo g.stack h tgt) :
    d.nextMigration g (h :: rest) = d.migrating h
      { g with todo := rest, handle := h, target := { tgt with gen := ((d.entry h).gen + 1) % 2 ^ 16 }, done := 0 } := by
  obtain ⟨pl, mr, hpl, hmr, hspot⟩ := ht
  rw [Dev.nextMigration, if_neg (by rw [hs, hb]; decide), hpl, hmr]
  dsimp only
  rw [hspot]
  rfl

/-- Nothing is left to move: the report. -/
theorem Dev.nextMigration_ends (d : Dev) (g : Migration) :
    (d.nextMigration g []).deckle = { d.deckle with migration := none }
    ∧ (d.nextMigration g []).fget dklLaststatCode 0 = (if g.short = 0 then 0x12 else 0x13)
    ∧ (g.short ≠ 0 → (d.nextMigration g []).fget dklLaststatDetail 0 = g.short % 2 ^ 24) := by
  rw [Dev.nextMigration]
  dsimp only
  by_cases h : g.short = 0
  · rw [if_pos h, if_pos h]
    exact ⟨Dev.deckleReport_deckle .., (Dev.deckleReport_fields ..).1, fun hn => absurd h hn⟩
  · rw [if_neg h, if_neg h]
    exact ⟨Dev.deckleReport_deckle .., (Dev.deckleReport_fields ..).1, fun _ => (Dev.deckleReport_fields ..).2.1⟩

/-- A migration begins on the oldest stack that fails. -/
theorem Dev.stackMigration_begins {d : Dev} {k : Nat} {rest : List DkEvent} (hm : d.deckle.migration = none) (hr : d.remapRuns = false)
    (he : d.deckle.events = .stack k :: rest) (hn : rest.any DkEvent.isRemap = false) :
    d.stackMigration = ({ d with deckle := { d.deckle with events := rest } } : Dev).nextMigration
      ⟨k, (d.deckle.regions.filter (fun e => bit e.2.stks k)).map (fun e => e.1), 0, .none, 0, 0, .none⟩
      ((d.deckle.regions.filter (fun e => bit e.2.stks k)).map (fun e => e.1)) := by
  have hany : d.deckle.events.any DkEvent.isRemap = false := by
    rw [he, List.any_cons, hn]
    rfl
  have htake : d.takeEvent DkEvent.isStack = some (.stack k, { d with deckle := { d.deckle with events := rest } }) := by
    rw [Dev.takeEvent_found (q := .stack k) (by rw [he]; rfl), he, List.erase_cons_head]
  unfold Dev.stackMigration
  rw [hm]
  dsimp only
  rw [hr, hany, htake]
  rfl

/-! ### A unit of a migration -/

/-- A stack whose requests of a region have lost their second places. -/
def Stack.dropMirrors (h : Nat) (x : Stack) : Stack :=
  { x with reqs := x.reqs.map (fun r => if r.region = h then { r with mirrors := [] } else r) }

/-- The requests of a region have lost their second places. -/
theorem Dev.dropMirrors_spec (d : Dev) (h j : Nat) : ∀ r ∈ ((d.dropMirrors h).stack j).reqs, r.region = h → r.mirrors = [] := by
  have hf : SMap.find j (d.dropMirrors h).stks = (SMap.find j d.stks).map (Stack.dropMirrors h) :=
    SMap.find_map (Stack.dropMirrors h) j d.stks
  unfold Dev.stack SMap.get
  rw [hf]
  cases SMap.find j d.stks with
  | none => exact fun r hr => absurd hr List.not_mem_nil
  | some x =>
    intro r hr hreg
    obtain ⟨q, -, rfl⟩ := List.mem_map.mp hr
    by_cases hq : q.region = h
    · rw [if_pos hq]
    · rw [if_neg hq] at hreg
      exact absurd hreg hq

/-- The entry after its last unit. -/
def Dev.switched (d : Dev) (g : Migration) (e : Region) : Dev :=
  (({ d.setEntry g.handle g.target with deckle := { (d.setEntry g.handle g.target).deckle with
      migration := some { g with handle := 0, done := 0, old := e } } } : Dev).fcount dklMigcntCount 0 1).fwrap dklPlgenGen 0

theorem Dev.switched_spec (d : Dev) (g : Migration) (e : Region) :
    (d.switched g e).entry g.handle = g.target ∧ (d.switched g e).deckle.migration = some { g with handle := 0, done := 0, old := e }
    ∧ (d.switched g e).fget dklMigcntCount 0 = satAdd (2 ^ 32 - 1) (d.fget dklMigcntCount 0) 1
    ∧ (d.switched g e).fget dklPlgenGen 0 = (d.fget dklPlgenGen 0 + 1) % 2 ^ 32 := by
  refine ⟨Dev.entry_setEntry_same .., rfl, ?_, ?_⟩
  · rw [Dev.switched, Dev.fget_fwrap_place _ _ _ (by decide), Dev.fget_fcount_sat]
    rfl
  · rw [Dev.switched, Dev.fget_fwrap_same, Dev.fget_fcount_place _ _ _ _ (by decide)]
    rfl

/-! ### Re-draws -/

/-- A fence's release leaves every generation that it releases out of `held`. -/
theorem Dev.releaseFence_held {d : Dev} (h : d.deckle.events.any DkEvent.isFence = false) (b : Nat) : (d.releaseFence.bar b).held = [] := by
  have hgo : ∀ (go : List (List Nat × Bool)) (c x : Nat) (e : Dev),
      ((go.foldl (fun (d : Dev) g => d.releaseArrivals c 0 g.1 g.2) e).bar x).held = (e.bar x).held := fun go c x e =>
    Dev.foldl_keep (fun e' : Dev => (e'.bar x).held = (e.bar x).held) _ (fun e' g he => by
      rw [Dev.releaseArrivals_bar]
      split
      next hx =>
        obtain ⟨rfl, -⟩ := hx
        exact he
      next => exact he) go e rfl
  have hfold : ∀ (keys : List Nat) (e : Dev), (((keys.foldl (fun (d : Dev) b =>
        ((d.bar b).held).foldl (fun (d : Dev) g => d.releaseArrivals b 0 g.1 g.2) (d.setBar b { d.bar b with
          held := (d.bar b).held.drop (d.bar b).held.length, gen := ((d.bar b).gen + (d.bar b).held.length) % 2 ^ 16 })) e).bar b).held
      = if b ∈ keys then [] else (e.bar b).held) := by
    intro keys
    induction keys with
    | nil => exact fun e => (if_neg List.not_mem_nil).symm
    | cons c keys ih =>
      intro e
      rw [List.foldl_cons, ih, hgo]
      by_cases hb : b ∈ keys
      · rw [if_pos hb, if_pos (List.mem_cons_of_mem _ hb)]
      · rw [if_neg hb]
        by_cases hc : b = c
        · rw [hc, if_pos (List.mem_cons_self ..), Dev.bar_setBar_same, List.drop_length]
        · rw [if_neg (by rw [List.mem_cons]; exact fun hm => hm.elim hc hb), Dev.bar_setBar_ne _ _ hc]
  have heq : d.releaseFence = (d.syn.bars.map (fun e => e.1)).foldl (fun (d : Dev) b =>
      ((d.bar b).held).foldl (fun (d : Dev) g => d.releaseArrivals b 0 g.1 g.2) (d.setBar b { d.bar b with
        held := (d.bar b).held.drop (d.bar b).held.length, gen := ((d.bar b).gen + (d.bar b).held.length) % 2 ^ 16 })) d := by
    unfold Dev.releaseFence
    rw [h]
    rfl
  rw [heq, hfold]
  split
  next => rfl
  next hb =>
    unfold Dev.bar SMap.get
    cases hf : SMap.find b d.syn.bars with
    | none => rfl
    | some x => exact absurd (List.mem_map_of_mem (f := fun e => e.1) (SMap.mem_of_find hf)) hb

end Sys2Proof.Machine
end


section
/-! PROOFS. Settles the obligation on migrations and re-draws (R282 to R286, R320). -/

namespace Sys2Proof.Machine

/-! ### A re-draw -/

/-- The re-draw is taken, with grades afresh. -/
def Dev.redrawBegun (d : Dev) (left : List DkEvent) : Dev :=
  let e := ({ d with deckle := { d.deckle with events := left } } : Dev).takeGrades
  { e with free := e.free + 1 }

/-- The region table of the layout is in force. -/
def Dev.redrawn (b : Dev) (tbl : SMap Region) (lay x : Nat) : Dev :=
  (({ b with deckle := { b.deckle with regions := tbl, layout := lay } } : Dev).fwrap dklPlgenGen 0).deckleReport 0x14 x true

/-- The layout does not fit. -/
def Dev.notRedrawn (b : Dev) (fence : Bool) (x : Nat) : Dev :=
  (if fence then { b with stp := { b.stp with redrawFail := true } } else b).deckleReport 0x15 x true

theorem Dev.redrawBegun_table (d : Dev) (left : List DkEvent) (pl : Placement) (lay : Nat) :
    (d.redrawBegun left).redrawTable pl lay = d.takeGrades.redrawTable pl lay := rfl

theorem Dev.redraw_eq {d : Dev} {pl : Placement} {lay : Nat} {fence : Bool} (hw : d.redrawWaits = false)
    (hpl : d.deckle.placement = some pl) (he : d.deckle.events.find? DkEvent.isRedraw = some (.redraw lay fence)) :
    ∃ x, d.redraw = if fence then (match d.takeGrades.redrawTable pl lay with
        | some t => (d.redrawBegun (d.deckle.events.erase (.redraw lay fence))).redrawn t lay x
        | none => (d.redrawBegun (d.deckle.events.erase (.redraw lay fence))).notRedrawn fence x).releaseFence
      else match d.takeGrades.redrawTable pl lay with
        | some t => (d.redrawBegun (d.deckle.events.erase (.redraw lay fence))).redrawn t lay x
        | none => (d.redrawBegun (d.deckle.events.erase (.redraw lay fence))).notRedrawn fence x := by
  refine ⟨Config.freeNat ({ d with deckle := { d.deckle with events := d.deckle.events.erase (.redraw lay fence) } } : Dev).takeGrades.free
    % 2 ^ 24, ?_⟩
  rw [← d.redrawBegun_table (d.deckle.events.erase (.redraw lay fence)) pl lay]
  unfold Dev.redraw
  rw [if_neg (by rw [hw]; decide), hpl, Dev.takeEvent_found he]
  rfl

/-- What a re-draw leaves but for the fence's release. -/
structure Dev.Redraws (d t : Dev) (left : List DkEvent) (tbl : SMap Region) (lay code gen : Nat) (failed : Bool) : Prop where
  regions : t.deckle.regions = tbl
  layout : t.deckle.layout = lay
  events : t.deckle.events = left
  code : t.fget dklLaststatCode 0 = code
  gen : t.fget dklPlgenGen 0 = gen
  failed : t.stp.redrawFail = failed
  kept : t.mask (partsMask [.regs, .evr, .deckle, .stp, .hbx, .free]) = d.mask (partsMask [.regs, .evr, .deckle, .stp, .hbx, .free])

theorem Dev.redrawn_spec (d : Dev) (left : List DkEvent) (tbl : SMap Region) (lay x : Nat) :
    d.Redraws ((d.redrawBegun left).redrawn tbl lay x) left tbl lay 0x14 ((d.fget dklPlgenGen 0 + 1) % 2 ^ 32) d.stp.redrawFail := by
  have hm : ∀ (b : Dev) r, (b.deckleReport 0x14 r true).mask (partsMask [.regs, .evr, .hbx]) = b.mask (partsMask [.regs, .evr, .hbx]) :=
    fun b r => Dev.deckleReport_mask (by decide) ..
  unfold Dev.redrawn
  refine ⟨?_, ?_, ?_, (Dev.deckleReport_fields ..).1, ?_, ?_, ?_⟩
  · rw [Dev.deckleReport_deckle]; rfl
  · rw [Dev.deckleReport_deckle]; rfl
  · rw [Dev.deckleReport_deckle]; rfl
  · rw [(Dev.deckleReport_fields ..).2.2 _ _ (by decide) (by decide) (by decide) (by decide), Dev.fget_fwrap_same]
    rfl
  · rw [Dev.stp_of_mask (by decide) (hm _ x)]
    rfl
  · rw [Dev.mask_sub (P := partsMask [.regs, .evr, .hbx]) (by decide) (hm _ x)]
    rfl

theorem Dev.notRedrawn_spec (d : Dev) (left : List DkEvent) (fence : Bool) (x : Nat) :
    d.Redraws ((d.redrawBegun left).notRedrawn fence x) left d.deckle.regions d.deckle.layout 0x15 (d.fget dklPlgenGen 0)
      (fence || d.stp.redrawFail) := by
  have hm : ∀ (b : Dev) r, (b.deckleReport 0x15 r true).mask (partsMask [.regs, .evr, .hbx]) = b.mask (partsMask [.regs, .evr, .hbx]) :=
    fun b r => Dev.deckleReport_mask (by decide) ..
  unfold Dev.notRedrawn
  refine ⟨?_, ?_, ?_, (Dev.deckleReport_fields ..).1, ?_, ?_, ?_⟩
  · rw [Dev.deckleReport_deckle]; cases fence <;> rfl
  · rw [Dev.deckleReport_deckle]; cases fence <;> rfl
  · rw [Dev.deckleReport_deckle]; cases fence <;> rfl
  · rw [(Dev.deckleReport_fields ..).2.2 _ _ (by decide) (by decide) (by decide) (by decide)]
    cases fence <;> rfl
  · rw [Dev.stp_of_mask (by decide) (hm _ x)]
    cases fence <;> rfl
  · rw [Dev.mask_sub (P := partsMask [.regs, .evr, .hbx]) (by decide) (hm _ x)]
    cases fence <;> rfl

/-- The re-draw with the release of the fences that waited for it. -/
theorem Answers.redraws {s : State} {pl : Placement} {lay code gen nlay : Nat} {fence failed : Bool} {tbl : SMap Region}
    (hw : s.dev.wout = []) (hwait : s.dev.redrawWaits = false) (hpl : s.dev.deckle.placement = some pl)
    (he : s.dev.deckle.events.find? DkEvent.isRedraw = some (.redraw lay fence))
    (hd : ∀ x, s.dev.Redraws (match s.dev.takeGrades.redrawTable pl lay with
        | some t => (s.dev.redrawBegun (s.dev.deckle.events.erase (.redraw lay fence))).redrawn t lay x
        | none => (s.dev.redrawBegun (s.dev.deckle.events.erase (.redraw lay fence))).notRedrawn fence x)
      (s.dev.deckle.events.erase (.redraw lay fence)) tbl nlay code gen failed) :
    Answers .redraw s fun t => t.dev.deckle.regions = tbl ∧ t.dev.deckle.layout = nlay
      ∧ t.dev.deckle.events = s.dev.deckle.events.erase (.redraw lay fence) ∧ t.dev.fget dklLaststatCode 0 = code
      ∧ t.dev.fget dklPlgenGen 0 = gen ∧ t.dev.stp.redrawFail = failed
      ∧ ((fence = true → (s.dev.deckle.events.erase (.redraw lay fence)).any DkEvent.isFence = false → ∀ b, (t.dev.bar b).held = [])
        ∧ (fence = false → t.dev.syn = s.dev.syn ∧ t.dev.tiles = s.dev.tiles))
      ∧ s.OnlyParts t [.regs, .evr, .tiles, .deckle, .syn, .stp, .hbx, .free] := by
  obtain ⟨x, hx⟩ := Dev.redraw_eq hwait hpl he
  specialize hd x
  refine Answers.parts [.regs, .evr, .tiles, .deckle, .syn, .stp, .hbx, .free] (f := fun _ d => d.redraw) (ok := true) rfl rfl hw
    (Dev.redraw_mask (by decide) _) (by decide) fun ho => ?_
  dsimp only at ho ⊢
  rw [hx] at ho ⊢
  generalize (match s.dev.takeGrades.redrawTable pl lay with
    | some t => (s.dev.redrawBegun (s.dev.deckle.events.erase (.redraw lay fence))).redrawn t lay x
    | none => (s.dev.redrawBegun (s.dev.deckle.events.erase (.redraw lay fence))).notRedrawn fence x) = e at hd ho ⊢
  obtain ⟨h1, h2, h3, h4, h5, h6, h7⟩ := hd
  cases fence with
  | false => exact ⟨h1, h2, h3, h4, h5, h6, ⟨fun h => absurd h (by decide), fun _ =>
      ⟨Dev.syn_of_mask (by decide) h7, Dev.tiles_of_mask (by decide) h7⟩⟩, ho⟩
  | true =>
    rw [if_pos rfl] at ho ⊢
    have hm := Dev.releaseFence_mask (F := 65792) (by decide) e
    have hdk : e.releaseFence.deckle = e.deckle := Dev.deckle_of_mask (by decide) hm
    refine ⟨?_, ?_, ?_, ?_, ?_, ?_, ⟨fun _ hn b => ?_, fun h => absurd h (by decide)⟩, ho⟩
    · rw [hdk, h1]
    · rw [hdk, h2]
    · rw [hdk, h3]
    · rw [Dev.fget_of_mask (by decide) hm, h4]
    · rw [Dev.fget_of_mask (by decide) hm, h5]
    · rw [Dev.stp_of_mask (by decide) hm, h6]
    · exact Dev.releaseFence_held (by rw [h3]; exact hn) b

/-! ### DKL.REDRAW -/

theorem Dev.pageWrite_redraw (d : Dev) (m : Mem) (v : Nat) (hb : d.blockOpen pDKL 0 = true) :
    d.pageWrite m pDKL 0 0x9C v = d.requestRedraw v :=
  Dev.pageWrite_block d m v (Dev.pageReset_other d rfl) (by decide) hb

theorem Dev.redrawing_events {d : Dev} (h : d.redrawing = false) (lay : Nat) (fence : Bool) :
    d.deckle.events.contains (.redraw lay fence) = false := by
  unfold Dev.redrawing at h
  rw [Bool.or_eq_false_iff] at h
  rw [Bool.eq_false_iff]
  intro hc
  exact absurd rfl (List.any_eq_false.mp h.2 _ (List.contains_iff_mem.mp hc))

theorem Dev.requestRedraw_asked {d : Dev} {v : Nat} (hv : bit v 31 = true) (hpl : d.deckle.placement.isSome = true)
    (hm : d.deckle.migration = none) (hr : d.remapping = false) (hd : d.redrawing = false) (hq : d.placedQuiet = true) :
    d.requestRedraw v = { d with deckle := { d.deckle with events := d.deckle.events ++ [.redraw (v % 4) false] } } := by
  unfold Dev.requestRedraw Dev.dkEvent
  rw [hv, hpl, hm, hr, hd, hq, Dev.redrawing_events hd]
  rfl

theorem Dev.requestRedraw_busy {d : Dev} {v : Nat} (h : bit v 31 = false ∨ d.deckle.placement = none ∨ d.deckle.migration.isSome = true
    ∨ d.remapping = true ∨ d.redrawing = true ∨ d.placedQuiet = false) : d.requestRedraw v = d := by
  unfold Dev.requestRedraw
  refine if_neg ?_
  rcases h with h | h | h | h | h | h <;> rw [h] <;> simp

/-! ### A unit of a migration -/

section
variable {s : State} {n : Nat} {ecc : Ecc} {g : Migration} (hw : s.dev.wout = []) (hrow : rowOk ecc.row = true)
  (hg : s.dev.deckle.migration = some g) (hh : g.handle ≠ 0)
include hg hh

/-- What copies the unit, where nothing stands in its way. -/
theorem Dev.migrationCopy_goes (hst : (s.dev.entry g.handle).state = .migrating)
    (hf : (setBits 32 g.target.stks).any (fun j => s.dev.fget stkStatHealth j == 3) = false) :
    s.dev.migrationCopy s.mem n ecc =
      (let src := (s.dev.entry g.handle).locate (g.done * 4096)
      let dst := g.target.locate (g.done * 4096)
      if s.dev.stks.any (fun x => x.2.reqs.any (fun q => q.kind != .rd && q.addrs.any (fun a => a / 4096 == src / 4096))) then s.dev
      else
        let d := (List.range 64).foldl (fun (d : Dev) k =>
          d.copyLine s.mem (src + 64 * k) (dst + 64 * k) (if k = n then some ecc else none)) s.dev
        if (g.done + 1) * 4096 < (s.dev.entry g.handle).size then
          { d with deckle := { d.deckle with migration := some { g with done := g.done + 1 } } }
        else d.switched g (s.dev.entry g.handle)) := by
  unfold Dev.migrationCopy
  rw [hg]
  dsimp only
  rw [if_neg hh, if_neg (not_not_intro hst), if_neg (by rw [hf]; decide)]
  rfl

include hw hrow

theorem Answers.copyLeft (hst : (s.dev.entry g.handle).state ≠ .migrating) : Answers (.migrationCopy n ecc) s fun t =>
    t.dev.deckle = { s.dev.deckle with migration := some { g with handle := 0, done := 0, old := .none } }
    ∧ s.OnlyParts t [.deckle] := by
  have hf : s.dev.migrationCopy s.mem n ecc = { s.dev with deckle := { s.dev.deckle with
      migration := some { g with handle := 0, done := 0, old := .none } } } := by
    unfold Dev.migrationCopy
    rw [hg]
    dsimp only
    rw [if_neg hh, if_pos hst]
  exact Answers.quiet (f := fun m d => d.migrationCopy m n ecc) rfl hrow hf hw
    ⟨rfl, State.onlyParts_of_mask _ (Dev.mask_deckle (by decide) ..)⟩

theorem Answers.copyFails (hst : (s.dev.entry g.handle).state = .migrating)
    (hf : (setBits 32 g.target.stks).any (fun j => s.dev.fget stkStatHealth j == 3) = true) : Answers (.migrationCopy n ecc) s fun t =>
    (∀ j, ∀ r ∈ (t.dev.stack j).reqs, r.region = g.handle → r.mirrors = []) ∧ t.mem = s.mem := by
  have hd : s.dev.migrationCopy s.mem n ecc = ((s.dev.dropMirrors g.handle).setEntry g.handle
      { s.dev.entry g.handle with state := .active }).nextMigration { g with handle := 0, done := 0, old := .none } (g.handle :: g.todo) := by
    unfold Dev.migrationCopy
    rw [hg]
    dsimp only
    rw [if_neg hh, if_neg (not_not_intro hst), if_pos hf]
  have hm := Dev.nextMigration_mask (F := 136319016) (by decide) ((s.dev.dropMirrors g.handle).setEntry g.handle
    { s.dev.entry g.handle with state := .active }) { g with handle := 0, done := 0, old := .none } (g.handle :: g.todo)
  refine Answers.quiet (f := fun m d => d.migrationCopy m n ecc) rfl hrow hd ((Dev.wout_of_mask (by decide) hm).trans hw)
    ⟨fun j => ?_, rfl⟩
  dsimp only
  rw [Dev.stack_congr ((Dev.stks_of_mask (by decide) hm).trans (rfl : _ = (s.dev.dropMirrors g.handle).stks))]
  exact Dev.dropMirrors_spec s.dev g.handle j

/-- The unit is copied. -/
theorem Answers.copies {src dst : Nat} (hst : (s.dev.entry g.handle).state = .migrating)
    (hf : (setBits 32 g.target.stks).any (fun j => s.dev.fget stkStatHealth j == 3) = false)
    (hs : (s.dev.entry g.handle).locate (g.done * 4096) = src) (hd : g.target.locate (g.done * 4096) = dst)
    (hp : s.dev.stks.any (fun x => x.2.reqs.any (fun q => q.kind != .rd && q.addrs.any (fun a => a / 4096 == src / 4096))) = false)
    (he : ecc.errs = []) (hs64 : src % 64 = 0) (hd64 : dst % 64 = 0) (hfar : src + 4096 ≤ dst ∨ dst + 4096 ≤ src)
    (hc : ∀ i, i < 64 → s.dev.cellsAt (src + 64 * i) = none ∧ s.dev.cellsAt (dst + 64 * i) = none) :
    Answers (.migrationCopy n ecc) s fun t =>
      (∀ i, i < 4096 → Memory.read t.mem (dst + i) = Memory.read s.mem (src + i))
      ∧ (∀ a, a < dst ∨ dst + 4096 ≤ a → Memory.read t.mem a = Memory.read s.mem a)
      ∧ (∀ i, i < 64 → t.dev.lineBad (dst / 64 + i) = s.dev.lineBad (src / 64 + i))
      ∧ (∀ l, l < dst / 64 ∨ dst / 64 + 64 ≤ l → t.dev.lineBad l = s.dev.lineBad l)
      ∧ ((g.done + 1) * 4096 < (s.dev.entry g.handle).size →
        t.dev.deckle = { s.dev.deckle with migration := some { g with done := g.done + 1 } })
      ∧ ((s.dev.entry g.handle).size ≤ (g.done + 1) * 4096 → t.dev.entry g.handle = g.target
        ∧ t.dev.deckle.migration = some { g with handle := 0, done := 0, old := s.dev.entry g.handle }
        ∧ t.dev.fget dklMigcntCount 0 = satAdd (2 ^ 32 - 1) (s.dev.fget dklMigcntCount 0) 1
        ∧ t.dev.fget dklPlgenGen 0 = (s.dev.fget dklPlgenGen 0 + 1) % 2 ^ 32)
      ∧ s.dev.OnlyChanges t.dev [.regs, .units, .evr, .stks, .linePoison, .deckle, .pci] := by
  have hcopy := Dev.copied_unit (d := s.dev) (m := s.mem) (.of_nil hw) n he hs64 hd64 hfar hc
  have hgo := Dev.migrationCopy_goes (n := n) (ecc := ecc) hg hh hst hf
  dsimp only at hgo
  rw [hs, hd, if_neg (by rw [hp]; decide)] at hgo
  generalize (List.range 64).foldl (fun (d : Dev) k =>
    d.copyLine s.mem (src + 64 * k) (dst + 64 * k) (if k = n then some ecc else none)) s.dev = e at hcopy hgo
  obtain ⟨hmask, -, hlines, hbytes, hrising⟩ := hcopy
  have hold : ∀ a, s.dev.byteAt s.mem a = (Memory.read s.mem a).toNat := fun _ => Dev.byteAt_of_find (by rw [hw]; rfl) _
  have hmem : ∀ w, w = e.wout → (∀ i, i < 4096 → Memory.read (Memory.writeAll s.mem w) (dst + i) = Memory.read s.mem (src + i))
      ∧ ∀ a, a < dst ∨ dst + 4096 ≤ a → Memory.read (Memory.writeAll s.mem w) a = Memory.read s.mem a := by
    rintro w rfl
    refine ⟨fun i hi => BitVec.eq_of_toNat_eq ?_, fun a ha => BitVec.eq_of_toNat_eq ?_⟩
    · rw [hrising.byteAt, hbytes, if_pos (by omega), Nat.add_sub_cancel_left, hold]
    · rw [hrising.byteAt, hbytes, if_neg (by omega), hold]
  have hdk : e.deckle = s.dev.deckle := Dev.deckle_of_mask (by decide) hmask
  have hline : ∀ t : Dev, t.linePoison = e.linePoison → (∀ i, i < 64 → t.lineBad (dst / 64 + i) = s.dev.lineBad (src / 64 + i))
      ∧ ∀ l, l < dst / 64 ∨ dst / 64 + 64 ≤ l → t.lineBad l = s.dev.lineBad l := fun t ht => by
    refine ⟨fun i hi => ?_, fun l hl => ?_⟩
    · rw [Dev.lineBad_congr ht, hlines, if_pos (by omega), Nat.add_sub_cancel_left]
    · rw [Dev.lineBad_congr ht, hlines, if_neg (by omega)]
  by_cases hlast : (g.done + 1) * 4096 < (s.dev.entry g.handle).size
  · rw [if_pos hlast] at hgo
    refine Answers.of_runIf (f := fun m d => d.migrationCopy m n ecc) rfl hrow ?_
    unfold State.after
    dsimp only
    rw [hgo]
    obtain ⟨m1, m2⟩ := hmem _ rfl
    obtain ⟨l1, l2⟩ := hline { e with deckle := { e.deckle with migration := some { g with done := g.done + 1 } }, wout := [] } rfl
    refine ⟨m1, m2, l1, l2, fun _ => by rw [hdk], fun h => absurd hlast (by omega), ?_⟩
    refine Dev.onlyChanges_stored hw (f := { e with deckle := { e.deckle with migration := some { g with done := g.done + 1 } } }) ?_
    exact (Dev.mask_deckle (by decide) ..).trans (Dev.mask_sub (by decide) hmask)
  · rw [if_neg hlast] at hgo
    obtain ⟨w1, w2, w3, w4⟩ := e.switched_spec g (s.dev.entry g.handle)
    have hsw : (e.switched g (s.dev.entry g.handle)).mask (partsMask [.regs, .deckle]) = e.mask (partsMask [.regs, .deckle]) := rfl
    rw [Dev.fget_of_mask (by decide) hmask] at w3 w4
    generalize e.switched g (s.dev.entry g.handle) = x at hgo w1 w2 w3 w4 hsw
    refine Answers.of_runIf (f := fun m d => d.migrationCopy m n ecc) rfl hrow ?_
    unfold State.after
    dsimp only
    rw [hgo]
    obtain ⟨m1, m2⟩ := hmem x.wout (Dev.wout_of_mask (by decide) hsw)
    have hlp : x.linePoison = e.linePoison := Dev.linePoison_of_mask (by decide) hsw
    obtain ⟨l1, l2⟩ := hline { x with wout := [] } hlp
    refine ⟨m1, m2, l1, l2, fun h => absurd h hlast, fun _ => ⟨w1, w2, w3, w4⟩, ?_⟩
    exact Dev.onlyChanges_stored hw ((Dev.mask_sub (P := partsMask [.regs, .deckle]) (by decide) hsw).trans (Dev.mask_sub (by decide) hmask))

end

/-! ### The obligation -/

/-- Settles O37. -/
theorem migrationAndRedraw : Obligations.MigrationAndRedraw := by
  unfold Obligations.MigrationAndRedraw
  intro s k h v n e tgt pl mr g ecc rest more hw hrow
  have hparts : ∀ P : State → Prop, (s.OnlyParts { s with dev := s.dev.stackMigration } [.regs, .evr, .deckle, .hbx, .free] →
      P { s with dev := s.dev.stackMigration }) → Answers .stackMigration s P := fun P =>
    Answers.parts [.regs, .evr, .deckle, .hbx, .free] (f := fun _ d => d.stackMigration) (ok := true) rfl rfl hw
      (Dev.stackMigration_mask (by decide) _) (by decide)
  refine ⟨fun hm => ⟨fun hr => ?_, fun hr he hn => ?_⟩, fun hg => ⟨fun hb => ?_, fun hh hq htodo => ?_⟩, fun hm => ?_,
    fun hg hh hent => ?_, fun ha hb => ⟨fun hv hpl hm hr hd hq => ?_, fun hbusy => ?_⟩, fun hwait => ?_, fun lay fence hwait hpl hev => ?_⟩
  · refine exec_run_same (f := fun _ d => d.stackMigration) rfl hw ?_
    unfold Dev.stackMigration
    rw [hm]
    dsimp only
    rw [if_pos (by rcases hr with hr | hr <;> rw [hr] <;> simp)]
  · have hbegin := Dev.stackMigration_begins hm hr he hn
    refine ⟨fun hhs hent hact hbit hpl hmr hplace => ?_, fun hhs => ?_⟩
    · rw [hhs] at hbegin
      have hnext := Dev.nextMigration_moves (d := { s.dev with deckle := { s.dev.deckle with events := rest } })
        (g := ⟨k, h :: more, 0, .none, 0, 0, .none⟩) (h := h) (rest := more) (tgt := tgt)
        ((congrArg Region.state hent).trans hact) ((congrArg (fun r => bit r.stks k) hent).trans hbit) ⟨pl, mr, hpl, hmr, hplace⟩
      refine Answers.quiet' (f := fun _ d => d.stackMigration) rfl (hbegin.trans hnext) hw ⟨?_, rfl, ?_, ?_⟩
      · rw [← hent]
        rfl
      · rw [← hent]
        rfl
      · exact State.onlyParts_of_mask _ (Dev.mask_deckle (by decide) ..)
    · rw [hhs] at hbegin
      obtain ⟨hdk, hcode, -⟩ := Dev.nextMigration_ends { s.dev with deckle := { s.dev.deckle with events := rest } } ⟨k, [], 0, .none, 0, 0, .none⟩
      rw [← hbegin] at hdk hcode
      refine hparts _ fun ho => ⟨?_, ?_, hcode, ?_, ho⟩ <;> dsimp only <;> rw [hdk]
  · refine exec_run_same (f := fun _ d => d.stackMigration) rfl hw ?_
    unfold Dev.stackMigration
    rw [hg]
    dsimp only
    refine if_neg fun hc => ?_
    rcases hb with hb | hb
    · exact hb hc.1
    · rw [hb] at hc
      exact absurd hc.2 (by decide)
  · have hd : s.dev.stackMigration = s.dev.nextMigration { g with old := .none } [] := by
      unfold Dev.stackMigration
      rw [hg]
      dsimp only
      rw [if_pos ⟨hh, by rw [hq]; rfl⟩, htodo]
    obtain ⟨hdk, hcode, hdetail⟩ := Dev.nextMigration_ends s.dev { g with old := .none }
    rw [← hd] at hdk hcode hdetail
    exact hparts _ fun ho => ⟨hdk, hcode, hdetail, ho⟩
  · refine (rfl : exec (.migrationCopy n ecc) s = runIf (rowOk ecc.row) (fun m d => d.migrationCopy m n ecc) s).trans
      (runIf_same hrow hw ?_)
    unfold Dev.migrationCopy
    rcases hm with hm | ⟨hm, h0⟩ <;> rw [hm]
    exact if_pos h0
  · subst hent
    refine ⟨fun hst => Answers.copyLeft hw hrow hg hh hst, fun hst hf => Answers.copyFails hw hrow hg hh hst hf,
      fun hst hf hp => ?_, fun hst hf hp he hs64 hd64 hfar hc => Answers.copies hw hrow hg hh hst hf rfl rfl hp he hs64 hd64 hfar hc⟩
    refine (rfl : exec (.migrationCopy n ecc) s = runIf (rowOk ecc.row) (fun m d => d.migrationCopy m n ecc) s).trans
      (runIf_same hrow hw ?_)
    rw [Dev.migrationCopy_goes hg hh hst hf]
    dsimp only
    rw [if_pos hp]
  · exact Answers.access' (g := fun m d => d.pageWrite m pDKL 0 0x9C v) rfl ha
      ((Dev.pageWrite_redraw _ _ _ hb).trans (Dev.requestRedraw_asked hv hpl hm hr hd hq)) hw
      ⟨rfl, State.onlyParts_of_mask _ (Dev.mask_deckle (by decide) ..)⟩
  · exact exec_access_same (ok := true) (g := fun m d => d.pageWrite m pDKL 0 0x9C v) rfl rfl hw
      ((Dev.pageWrite_redraw _ _ _ hb).trans (Dev.requestRedraw_busy hbusy))
  · exact exec_run_same (f := fun _ d => d.redraw) rfl hw (if_pos hwait)
  · refine ⟨fun tbl htbl => ?_, fun hnone => ?_⟩
    · refine Answers.redraws hw hwait hpl hev fun x => ?_
      rw [htbl]
      exact Dev.redrawn_spec ..
    · refine Answers.redraws hw hwait hpl hev fun x => ?_
      rw [hnone]
      exact Dev.notRedrawn_spec ..

end Sys2Proof.Machine
end


section
/-! PROOFS. What a collective's advance leaves as it was (R355 to R376): the READYs that its instances have counted, whether
their soft deadline has passed, the exclusions already made, the posts and credits of the tiles, and the host's commands. -/

namespace Sys2Proof.Machine

/-! ### The relation -/

/-- From `i` to `j` an entry has advanced: its READYs stand, and its exclusions only grow. -/
structure Inst.Kept (i j : Inst) : Prop where
  desc : j.desc = i.desc
  step : j.step = i.step
  ready : j.ready = i.ready
  soft : j.softDone = i.softDone
  excl : ∀ x ∈ i.excl, x ∈ j.excl

theorem Inst.Kept.refl (i : Inst) : i.Kept i := ⟨rfl, rfl, rfl, rfl, fun _ h => h⟩

theorem Inst.Kept.trans {i j k : Inst} (h : i.Kept j) (g : j.Kept k) : i.Kept k :=
  ⟨g.desc.trans h.desc, g.step.trans h.step, g.ready.trans h.ready, g.soft.trans h.soft, fun x hx => g.excl x (h.excl x hx)⟩

/-- From `d` to `e` no more has happened than collectives that advance, abort or complete. -/
structure Dev.ColKeeps (d e : Dev) : Prop where
  insts : ∀ j ∈ e.col.insts, ∃ i ∈ d.col.insts, i.Kept j
  events : ∀ v ∈ e.col.events, v ∈ d.col.events ∨ ∃ i ∈ d.col.insts, v.step = i.step ∧ v.vote = decide (1024 ≤ i.desc)
  posts : e.posts = d.posts
  credits : ∀ p, (e.tile p).store.creditOwed = (d.tile p).store.creditOwed
  rings : e.hbx.sq = d.hbx.sq
  badcmd : e.fget hbxBadcmdCount 0 = d.fget hbxBadcmdCount 0

namespace Dev.ColKeeps
variable {d e : Dev}

theorem refl (d : Dev) : d.ColKeeps d := ⟨fun j hj => ⟨j, hj, .refl j⟩, fun _ h => .inl h, rfl, fun _ => rfl, rfl, rfl⟩

theorem trans {f : Dev} (h : d.ColKeeps e) (g : e.ColKeeps f) : d.ColKeeps f := by
  refine ⟨fun j hj => ?_, fun v hv => ?_, g.posts.trans h.posts, fun p => (g.credits p).trans (h.credits p), g.rings.trans h.rings,
    g.badcmd.trans h.badcmd⟩
  · obtain ⟨x, hx, hxj⟩ := g.insts j hj
    obtain ⟨i, hi, hix⟩ := h.insts x hx
    exact ⟨i, hi, hix.trans hxj⟩
  · rcases g.events v hv with hv | ⟨x, hx, hs, hd⟩
    · exact h.events v hv
    · obtain ⟨i, hi, hix⟩ := h.insts x hx
      exact .inr ⟨i, hi, hs.trans hix.step, by rw [hd, hix.desc]⟩

/-- An operation that keeps the entries, the posts, the tiles and HBX. -/
theorem of_parts {F : Nat} (hF : F.testBit 8 = false ∧ F.testBit 9 = false ∧ F.testBit 21 = false) (h : e.mask F = d.mask F)
    (hi : e.col.insts = d.col.insts) (he : e.col.events = d.col.events) (hb : e.fget hbxBadcmdCount 0 = d.fget hbxBadcmdCount 0) :
    d.ColKeeps e := by
  obtain ⟨h8, h9, h21⟩ := hF
  refine ⟨fun j hj => ⟨j, hi ▸ hj, .refl j⟩, fun v hv => .inl (he ▸ hv), Dev.posts_of_mask h9 h, fun p => ?_,
    congrArg Hbx.sq (Dev.hbx_of_mask h21 h), hb⟩
  rw [Dev.tile_congr (Dev.tiles_of_mask h8 h)]

theorem of_mask {F : Nat} (hF : F.testBit 8 = false ∧ F.testBit 9 = false ∧ F.testBit 21 = false ∧ F.testBit 20 = false
    ∧ F.testBit 3 = false) (h : e.mask F = d.mask F) : d.ColKeeps e := by
  obtain ⟨h8, h9, h21, h20, h3⟩ := hF
  have hcol := Dev.col_of_mask h20 h
  exact of_parts ⟨h8, h9, h21⟩ h (congrArg Col.insts hcol) (congrArg Col.events hcol) (Dev.fget_of_mask h3 h _ _)

theorem of_keeps {F : Nat} {cs : List Nat} (hF : F.testBit 8 = false ∧ F.testBit 9 = false ∧ F.testBit 21 = false ∧ F.testBit 20 = false)
    (h : e.mask F = d.mask F) (hk : d.KeepsBut cs e) (hc : hbxBadcmdCount.place / 2 ^ 17 ∉ cs) : d.ColKeeps e := by
  obtain ⟨h8, h9, h21, h20⟩ := hF
  have hcol := Dev.col_of_mask h20 h
  exact of_parts ⟨h8, h9, h21⟩ h (congrArg Col.insts hcol) (congrArg Col.events hcol) (hk.keeps _ _ (by decide) hc)

theorem fset (h : d.ColKeeps e) (x : Field) (i v : Nat)
    (hx : x.place < 2 ^ 23 ∧ hbxBadcmdCount.place < 2 ^ 23 ∧ hbxBadcmdCount.place ≠ x.place := by decide) : d.ColKeeps (e.fset x i v) :=
  h.trans ⟨fun j hj => ⟨j, hj, .refl j⟩, fun _ hv => .inl hv, rfl, fun _ => rfl, rfl, Dev.fget_fset_place _ _ _ _ hx⟩

theorem fcount (h : d.ColKeeps e) (x : Field) (i n : Nat)
    (hx : x.place < 2 ^ 23 ∧ hbxBadcmdCount.place < 2 ^ 23 ∧ hbxBadcmdCount.place ≠ x.place := by decide) : d.ColKeeps (e.fcount x i n) :=
  h.fset x i _ hx

theorem record (h : d.ColKeeps e) (code cls inst p0 p1 p2 : Nat) : d.ColKeeps (e.record code cls inst p0 p1 p2) :=
  h.trans (.of_mask (F := 32) (by decide) (Dev.record_mask (by decide) ..))

theorem stp (h : d.ColKeeps e) (x : Stp) : d.ColKeeps { e with stp := x } :=
  ⟨h.insts, h.events, h.posts, h.credits, h.rings, h.badcmd⟩

theorem ite {c : Prop} [Decidable c] {f : Dev} (h : c → d.ColKeeps e) (g : ¬ c → d.ColKeeps f) : d.ColKeeps (if c then e else f) := by
  by_cases hc : c
  · rw [if_pos hc]; exact h hc
  · rw [if_neg hc]; exact g hc

theorem foldl {α : Type} {f : Dev → α → Dev} (h : ∀ (e : Dev) x, e.ColKeeps (f e x)) (l : List α) (hd : d.ColKeeps e) :
    d.ColKeeps (l.foldl f e) := Dev.foldl_keep (fun e => d.ColKeeps e) f (fun e x he => he.trans (h e x)) l e hd

theorem noteRegion (h : d.ColKeeps e) (name o n : Nat) : d.ColKeeps (e.noteRegion name o n) :=
  h.trans (.of_keeps (F := 12590137) (by decide) (Dev.noteRegion_mask (by decide) ..) (Dev.noteRegion_keeps ..) (by decide))

theorem writeRegion {f : Dev} (h : d.ColKeeps e) {name o : Nat} {bs : List Nat} {poison : Bool}
    (he : e.writeRegion name o bs poison = some f) : d.ColKeeps f :=
  h.trans (.of_keeps (F := 79699001) (by decide) (Dev.writeRegion_mask (by decide) he) (Dev.writeRegion_keeps he) (by decide))

theorem written (h : d.ColKeeps e) (name o : Nat) (bs : List Nat) (poison : Bool) :
    d.ColKeeps ((e.writeRegion name o bs poison).getD e) := by
  cases hw : e.writeRegion name o bs poison with
  | none => exact h
  | some f => exact h.writeRegion hw

theorem dropCompletions (h : d.ColKeeps e) (n : Nat) : d.ColKeeps (e.dropCompletions n) := by
  unfold Dev.dropCompletions
  exact .ite (fun _ => h) fun _ => .record (.fcount h ..) ..

theorem postUnsolicited (h : d.ColKeeps e) (kind status p0 p1 p2 : Nat) : d.ColKeeps (e.postUnsolicited kind status p0 p1 p2) := by
  unfold Dev.postUnsolicited Dev.postCq
  refine .ite (fun _ => h.dropCompletions 1) fun _ => .ite (fun _ => h.trans ?_) fun _ => h.dropCompletions 1
  exact ⟨fun j hj => ⟨j, hj, .refl j⟩, fun _ hv => .inl hv, rfl, fun _ => rfl, rfl, rfl⟩

theorem doorbell (h : d.ColKeeps e) (kind src : Nat) : d.ColKeeps (e.doorbell kind src) := by
  have hm := Dev.doorbell_mask (F := 256) (by decide) e kind src
  have hcol := Dev.col_of_mask (by decide) hm
  exact h.trans ⟨fun j hj => ⟨j, hcol ▸ hj, .refl j⟩, fun v hv => .inl (hcol ▸ hv), Dev.posts_of_mask (by decide) hm,
    fun p => Dev.doorbell_credit ..,
    congrArg Hbx.sq (Dev.hbx_of_mask (by decide) hm), Dev.fget_of_mask (by decide) hm _ _⟩

/-- The entries of one descriptor advance. -/
theorem onInst (h : d.ColKeeps e) (k : Nat) (f : Inst → Inst) (hf : ∀ x : Inst, x.Kept (f x)) : d.ColKeeps (e.onInst k f) := by
  refine h.trans ⟨fun j hj => ?_, fun _ hv => .inl hv, rfl, fun _ => rfl, rfl, rfl⟩
  obtain ⟨x, hx, rfl⟩ := List.mem_map.mp hj
  refine ⟨x, hx, ?_⟩
  split
  · exact hf x
  · exact .refl x

/-- An entry that was there before is put back advanced. -/
theorem setInst (h : d.ColKeeps e) {i i' : Inst} (hi : i ∈ d.col.insts) (hk : i.Kept i') : d.ColKeeps (e.setInst i') := by
  refine ⟨fun j hj => ?_, h.events, h.posts, h.credits, h.rings, h.badcmd⟩
  obtain ⟨x, hx, rfl⟩ := List.mem_map.mp hj
  split
  · exact ⟨i, hi, hk⟩
  · exact h.insts x hx

/-- An entry completes. -/
theorem completed (h : d.ColKeeps e) {i : Inst} (hi : i ∈ d.col.insts) (p : Inst → Bool) (fin : List Finished) (v : ColEvent)
    (hv : v.step = i.step ∧ v.vote = decide (1024 ≤ i.desc)) :
    d.ColKeeps { e with col := { e.col with insts := e.col.insts.filter p, finished := fin, events := e.col.events ++ [v] } } := by
  refine ⟨fun j hj => h.insts j (List.mem_of_mem_filter hj), fun w hw => ?_, h.posts, h.credits, h.rings, h.badcmd⟩
  rcases List.mem_append.mp hw with hw | hw
  · exact h.events w hw
  · rw [List.mem_singleton] at hw
    exact .inr ⟨i, hi, hw ▸ hv⟩

end Dev.ColKeeps

theorem Dev.inst_mem {d : Dev} {k : Nat} {i : Inst} (h : d.inst k = some i) : i ∈ d.col.insts ∧ i.desc = k :=
  ⟨List.mem_of_find?_eq_some h, by simpa using List.find?_some h⟩

/-! ### Sends and ends -/

theorem Dev.dropInst_col (d : Dev) (k : Nat) : d.ColKeeps (d.dropInst k) :=
  .of_mask (F := 524288) (by decide) (Dev.dropInst_mask (by decide) ..)

theorem Dev.colTell_col (d : Dev) (i : Inst) (r op : Nat) (bs : List Nat) : d.ColKeeps (d.colTell i r op bs) :=
  .of_mask (F := 524288) (by decide) (Dev.colTell_mask (by decide) ..)

theorem Dev.colSend_col (d : Dev) (i : Inst) (r op arg : Nat) (bs : List Nat) : d.ColKeeps (d.colSend i r op arg bs).1 :=
  .of_mask (F := 524288) (by decide) (Dev.colSend_mask (by decide) ..)

theorem Dev.colComplete_col (d : Dev) (k : Nat) (ab : Option AbortRec) (na : Bool) : d.ColKeeps (d.colComplete k ab na) := by
  unfold Dev.colComplete
  cases hinst : d.inst k with
  | none => exact .refl d
  | some i =>
    obtain ⟨hi, hk⟩ := Dev.inst_mem hinst
    dsimp only
    refine .completed ?_ hi _ _ _ ⟨rfl, by rw [hk]⟩
    have hwrite : d.ColKeeps (if decide (1024 ≤ k) = true then d else
        match d.writeRegion (i.handle 3) (i.off 3) (i.record ab na d.cad.mark) false with
        | some d' => d'
        | none => d.record 0x0005 pCOL 0 (i.handle 3) i.stepWord 0) := by
      refine .ite (fun _ => .refl d) fun _ => ?_
      cases hw : d.writeRegion (i.handle 3) (i.off 3) (i.record ab na d.cad.mark) false with
      | none => exact (ColKeeps.refl d).record ..
      | some x => exact (ColKeeps.refl d).writeRegion hw
    generalize (if decide (1024 ≤ k) = true then d else
        match d.writeRegion (i.handle 3) (i.off 3) (i.record ab na d.cad.mark) false with
        | some d' => d'
        | none => d.record 0x0005 pCOL 0 (i.handle 3) i.stepWord 0) = x at hwrite ⊢
    have hbell : d.ColKeeps (if ab.isNone = true ∧ (!decide (1024 ≤ k)) = true ∧ (!i.flag 0) = true then
        (List.range i.nbucket).foldl (fun d b => d.doorbell 1 (i.bellOf b)) x else x) :=
      .ite (fun _ => .foldl (fun e b => (ColKeeps.refl e).doorbell ..) _ hwrite) fun _ => hwrite
    generalize (if ab.isNone = true ∧ (!decide (1024 ≤ k)) = true ∧ (!i.flag 0) = true then
        (List.range i.nbucket).foldl (fun d b => d.doorbell 1 (i.bellOf b)) x else x) = y at hbell ⊢
    have hpost : d.ColKeeps (if decide (1024 ≤ k) = true then y
        else y.postUnsolicited 4 (b2n ab.isSome) i.colid ((ab.map (fun a => a.code)).getD 0) i.stepWord) :=
      .ite (fun _ => hbell) fun _ => hbell.postUnsolicited ..
    generalize (if decide (1024 ≤ k) = true then y
        else y.postUnsolicited 4 (b2n ab.isSome) i.colid ((ab.map (fun a => a.code)).getD 0) i.stepWord) = z at hpost ⊢
    cases ab with
    | none => exact hpost.fcount ..
    | some a => exact .record (.fset (.fset (.fset (.fset (.fset (.fcount hpost ..) ..) ..) ..) ..) ..) ..

theorem Dev.colDecide_col (d : Dev) (k : Nat) (ab : Option AbortRec) : d.ColKeeps (d.colDecide k ab) := by
  unfold Dev.colDecide
  split
  · exact .refl d
  · exact .trans (.foldl (fun e _ => Dev.colTell_col e ..) _ (.ite (fun _ => Dev.dropInst_col d k) fun _ => .refl d))
      (Dev.colComplete_col ..)

theorem Dev.colAbort_col (d : Dev) (k code rank chunk : Nat) : d.ColKeeps (d.colAbort k code rank chunk) := by
  unfold Dev.colAbort
  split
  · exact .refl d
  next i _ =>
    refine .ite (fun _ => .refl d) fun _ => ?_
    have hd : d.ColKeeps ((d.dropInst k).onInst k fun x => { x with abort := some ⟨code, rank, chunk, i.rank⟩ }) :=
      .onInst (Dev.dropInst_col d k) _ _ fun _ => ⟨rfl, rfl, rfl, rfl, fun _ h => h⟩
    refine .ite (fun _ => hd.trans (Dev.colDecide_col ..)) fun _ => ?_
    split
    · exact hd.trans (.of_mask (F := 524288) (by decide) (Dev.colHurry_mask (by decide) ..))
    · exact hd

theorem Dev.ColKeeps.sent {d : Dev} {x : Dev × Bool} (h : d.ColKeeps x.1) (k r : Nat) : d.ColKeeps (Dev.colSent x k r) := by
  unfold Dev.colSent
  exact .ite (fun _ => h) fun _ => h.trans (Dev.colAbort_col ..)

/-! ### Transfers -/

theorem Dev.colData_col (i : Inst) (r xfer : Nat) (l : List (List Nat)) : ∀ (d : Dev) (o : Nat), d.ColKeeps (d.colData i r xfer o l).1 := by
  induction l with
  | nil => exact fun d _ => .refl d
  | cons bs l ih =>
    intro d o
    have hs := Dev.colSend_col d i r 0x11 (xfer + o * 2 ^ 16) bs
    rw [Dev.colData]
    split
    next d' ok hd =>
      rw [hd] at hs
      split
      · exact hs.trans (ih ..)
      · exact hs

theorem Dev.colOpen_col (d : Dev) (i : Inst) (r kind tree chunk bytes dst : Nat) : d.ColKeeps (d.colOpen i r kind tree chunk bytes dst).1 :=
  ColKeeps.trans (e := { d with col := { d.col with nextXfer := (d.col.nextXfer + 1) % 65536 } })
    ⟨fun j hj => ⟨j, hj, .refl j⟩, fun _ hv => .inl hv, rfl, fun _ => rfl, rfl, rfl⟩ (Dev.colSend_col ..)

theorem Dev.colClose_col (d : Dev) (i : Inst) (r xfer : Nat) (data : List Nat) (s : ChunkStat) :
    d.ColKeeps (d.colClose i r xfer data s).1 := by
  have hs := Dev.colData_col i r xfer (chunks 256 data.length data) d 0
  unfold Dev.colClose
  split
  next d' ok hd =>
    rw [hd] at hs
    split
    · exact hs.trans (Dev.colSend_col ..)
    · exact hs

theorem Dev.colTransfer_col (d : Dev) (i : Inst) (r kind tree chunk dst : Nat) (data : List Nat) (s : ChunkStat) :
    d.ColKeeps (d.colTransfer i r kind tree chunk dst data s).1 := by
  have ho := Dev.colOpen_col d i r kind tree chunk data.length dst
  unfold Dev.colTransfer
  split
  next d' x ok hd =>
    rw [hd] at ho
    split
    · exact ho.trans (Dev.colClose_col ..)
    · exact ho

/-! ### Reads and writes -/

theorem Dev.colRead_col (d : Dev) (m : Mem) (i : Inst) (o n chunk : Nat) : d.ColKeeps (d.colRead m i o n chunk).1 := by
  have hn := (ColKeeps.refl d).noteRegion (i.handle 0) (i.off 0 + o) n
  unfold Dev.colRead
  dsimp only
  split
  · exact hn.trans (Dev.colAbort_col ..)
  · split
    · exact hn.trans (Dev.colAbort_col ..)
    · exact hn

theorem Dev.earlyBell_col (d : Dev) (k b : Nat) : d.ColKeeps (d.earlyBell k b) := by
  unfold Dev.earlyBell
  split
  next i hi =>
    refine .ite (fun _ => .doorbell (.setInst (.refl d) (Dev.inst_mem hi).1 ?_) ..) fun _ => .refl d
    exact ⟨rfl, rfl, rfl, rfl, fun _ h => h⟩
  next => exact .refl d

theorem Dev.colWrite_col (d : Dev) (k block j o : Nat) (data : List Nat) : d.ColKeeps (d.colWrite k block j o data) := by
  unfold Dev.colWrite
  split
  · exact .refl d
  · split
    · exact Dev.colAbort_col ..
    next x hx =>
      refine .trans (.onInst (.writeRegion (.refl d) hx) _ _ ?_) (Dev.earlyBell_col ..)
      exact fun _ => ⟨rfl, rfl, rfl, rfl, fun _ h => h⟩

theorem Dev.lateChunk_col (d : Dev) (m : Mem) (i : Inst) (j : Nat) : d.ColKeeps (d.lateChunk m i j) := by
  unfold Dev.lateChunk
  split
  · exact .fcount (.stp (.noteRegion (.refl d) ..) _) ..
  · exact .refl d

theorem Dev.tellExcl_col (d : Dev) (k b : Nat) : d.ColKeeps (d.tellExcl k b) := by
  unfold Dev.tellExcl
  split
  · exact .refl d
  · dsimp only
    split
    · exact .trans (.fcount (.refl d) ..) (Dev.colTell_col ..)
    · exact .fcount (.refl d) ..

end Sys2Proof.Machine
end


section
/-! PROOFS. An advance of a collective, from its chunks to its vote (R355 to R374). -/

namespace Sys2Proof.Machine

/-! ### Results and blocks -/

/-- A send to a rank, while the collective runs. -/
theorem Dev.ColKeeps.sends {d : Dev} (k r : Nat) {x : Dev × Bool} (h : d.ColKeeps x.1) :
    d.ColKeeps (if d.running k = true then Dev.colSent x k r else d) := .ite (fun _ => h.sent k r) fun _ => .refl d

theorem Dev.sendResult_col (d : Dev) (k j : Nat) (data : List Nat) (s : ChunkStat) : d.ColKeeps (d.sendResult k j data s) := by
  unfold Dev.sendResult
  split
  · exact .refl d
  · exact .foldl (fun e r => .sends k r (Dev.colTransfer_col ..)) _ (.refl d)

theorem Dev.sendStats_col (d : Dev) (k j : Nat) (s : ChunkStat) (r : Option Nat) : d.ColKeeps (d.sendStats k j s r) := by
  unfold Dev.sendStats
  split
  · exact .refl d
  · exact .ite (fun _ => .foldl (fun e r => .sends k r (Dev.colTransfer_col ..)) _ (.refl d)) fun _ => .refl d

theorem Dev.reduceChunk_col (d : Dev) (m : Mem) (k j : Nat) : d.ColKeeps (d.reduceChunk m k j) := by
  unfold Dev.reduceChunk
  split
  · exact .refl d
  next i _ =>
    dsimp only
    refine .ite (fun _ => .refl d) fun _ => ?_
    generalize hr : (if i.isExcl (i.bucketOf j) = true then (d, none) else d.colRead m i (j * i.cb) (i.chunkLen j) j) = x
    have hread : d.ColKeeps x.1 := by
      rw [← hr]
      split
      · exact .refl d
      · exact Dev.colRead_col ..
    refine .ite (fun _ => hread) fun _ => ?_
    have hmark : d.ColKeeps (x.1.onInst k (fun i => { i with sent := i.sent ++ [(0, j)], got := i.got.filter (fun x => x.chunk != j) })) :=
      hread.onInst _ _ fun _ => ⟨rfl, rfl, rfl, rfl, fun _ h => h⟩
    split
    · refine .trans (.foldl (fun e f => .sends k _ (Dev.colTransfer_col ..)) _ hmark) (.sends k _ (Dev.colTransfer_col ..))
    · refine .trans (.trans ?_ (Dev.sendResult_col ..)) (Dev.sendStats_col ..)
      refine .ite (fun _ => .trans (.onInst hmark _ _ ?_) (Dev.colWrite_col ..)) fun _ => .onInst hmark _ _ ?_ <;>
        exact fun _ => ⟨rfl, rfl, rfl, rfl, fun _ h => h⟩

theorem Dev.setLedgerLive_col (d : Dev) (working : Bool) (n : Nat) : d.ColKeeps (d.setLedgerLive working n) := .written (.refl d) ..

theorem Dev.freeSlot_col (d : Dev) (m : Mem) (s : Nat) : d.ColKeeps (d.freeSlot m s) :=
  .trans (.written (.refl d) ..) (Dev.setLedgerLive_col ..)

theorem Dev.noteSlots_col (d : Dev) (working : Bool) : d.ColKeeps (d.noteSlots working) :=
  .foldl (fun e _ => .noteRegion (.refl e) ..) _ (.noteRegion (.refl d) ..)

theorem Dev.takeFolds_col (d : Dev) (m : Mem) (k : Nat) : d.ColKeeps (d.takeFolds m k) := by
  unfold Dev.takeFolds
  split
  · exact .refl d
  next i _ =>
    refine .ite (fun _ => .refl d) fun _ => ?_
    have hd : d.ColKeeps (d.onInst k (fun i => { i with foldsTaken := true })) :=
      .onInst (.refl d) _ _ fun _ => ⟨rfl, rfl, rfl, rfl, fun _ h => h⟩
    refine .ite (fun _ => hd) fun _ => .foldl (fun e s => ?_) _ (hd.trans (Dev.noteSlots_col ..))
    split
    · exact .refl e
    next h _ =>
      refine .ite (fun _ => .refl e) fun _ => ?_
      dsimp only
      split
      · refine .trans (.fcount (.onInst (.noteRegion (.refl e) ..) _ _ ?_) ..) (Dev.freeSlot_col ..)
        exact fun _ => ⟨rfl, rfl, rfl, rfl, fun _ h => h⟩
      · exact .stp (.trans (.fcount (.refl e) ..) (Dev.freeSlot_col ..)) _

theorem Dev.sendBlocks_col (d : Dev) (m : Mem) (k j : Nat) : d.ColKeeps (d.sendBlocks m k j) := by
  unfold Dev.sendBlocks
  split
  · exact .refl d
  next i _ =>
    refine .ite (fun _ => .refl d) fun _ => ?_
    have hd : d.ColKeeps (d.onInst k (fun i => { i with sent := i.sent ++ [(0, j)] })) :=
      .onInst (.refl d) _ _ fun _ => ⟨rfl, rfl, rfl, rfl, fun _ h => h⟩
    refine .ite (fun _ => .foldl (fun e r => .ite (fun _ => ?_) fun _ => .refl e) _ hd) fun _ => ?_
    · have hr := Dev.colRead_col e m i (r * i.length + j * i.cb) (i.chunkLen j) j
      split
      next x hx => rw [hx] at hr; exact hr
      next x bs hx =>
        rw [hx] at hr
        exact .ite (fun _ => hr.trans (Dev.colWrite_col ..)) fun _ => hr.trans (.sent (Dev.colTransfer_col ..) ..)
    · have hr := hd.trans (Dev.colRead_col _ m i (j * i.cb) (i.chunkLen j) j)
      split
      next x hx => rw [hx] at hr; exact hr
      next x bs hx =>
        rw [hx] at hr
        exact .foldl (fun e r => .sends k r (Dev.colTransfer_col ..)) _ (hr.trans (Dev.colWrite_col ..))

/-! ### Moves -/

theorem Dev.beginMoves_col (d : Dev) (m : Mem) (k : Nat) : d.ColKeeps (d.beginMoves m k) := by
  unfold Dev.beginMoves
  split
  · exact .refl d
  next i _ =>
    refine .ite (fun _ => .refl d) fun _ => ?_
    have hd : d.ColKeeps ((d.onInst k (fun i => { i with movesBegun := true })).noteRegion (i.handle 2) (i.off 2) (24 * i.f 96 4)) := by
      refine .noteRegion (.onInst (.refl d) _ _ ?_) ..
      exact fun _ => ⟨rfl, rfl, rfl, rfl, fun _ h => h⟩
    dsimp only
    split
    · exact hd.trans (Dev.colAbort_col ..)
    · refine .ite (fun _ => hd.trans (Dev.colAbort_col ..)) fun _ => .foldl (fun e q => ?_) _ hd
      refine .ite (fun _ => .refl e) fun _ => .ite (fun _ => Dev.colAbort_col ..) fun _ => .foldl (fun e' c => ?_) _ (.refl e)
      refine .ite (fun _ => .refl e') fun _ => .sent (.onInst ?_ _ _ ?_) ..
      · split
        · exact .refl e'
        · exact Dev.colOpen_col ..
      · exact fun _ => ⟨rfl, rfl, rfl, rfl, fun _ h => h⟩

theorem Dev.stageMove_col (d : Dev) (m : Mem) (k : Nat) : d.ColKeeps (d.stageMove m k) := by
  unfold Dev.stageMove
  split
  · exact .refl d
  next i hi =>
    refine .ite (fun _ => .refl d) fun _ => ?_
    split
    · exact .refl d
    next x rest _ =>
      have hd := (ColKeeps.refl d).noteRegion (i.handle 0) x.src x.len
      dsimp only
      split
      · exact hd.trans (Dev.colAbort_col ..)
      · refine .ite (fun _ => hd.trans (Dev.colAbort_col ..)) fun _ => .ite (fun _ => ?_) fun _ => ?_
        · refine .setInst hd (Dev.inst_mem hi).1 ?_
          exact ⟨rfl, rfl, rfl, rfl, fun _ h => h⟩
        · refine .setInst hd (Dev.inst_mem hi).1 ?_
          exact ⟨rfl, rfl, rfl, rfl, fun _ h => h⟩

theorem Dev.writeMove_col (d : Dev) (k : Nat) (x : Xfer) : d.ColKeeps (d.writeMove k x) := by
  unfold Dev.writeMove
  split
  · exact .refl d
  next i _ =>
    dsimp only
    generalize hr : List.foldl _ (some d) x.data.zipIdx = r
    have hkeeps : ∀ e, r = some e → d.ColKeeps e := by
      rw [← hr]
      refine Dev.foldl_keep (fun acc : Option Dev => ∀ e, acc = some e → d.ColKeeps e) _ (fun acc b h => ?_) _ _ (by rintro e ⟨⟩; exact .refl d)
      intro e he
      split at he
      · exact h e he
      · obtain ⟨y, hy, hw⟩ := Option.bind_eq_some_iff.mp he
        exact (h y hy).writeRegion hw
    cases r with
    | none => exact Dev.colAbort_col ..
    | some e => exact .onInst (hkeeps e rfl) _ _ fun _ => ⟨rfl, rfl, rfl, rfl, fun _ h => h⟩

theorem Dev.grantMoves_col (d : Dev) (k : Nat) : d.ColKeeps (d.grantMoves k) := by
  unfold Dev.grantMoves
  split
  · exact .refl d
  next i _ =>
    refine .ite (fun _ => .refl d) fun _ => .foldl (fun e x => ?_) _ (.foldl (fun e x => ?_) _ (.refl d))
    · split
      · exact .refl e
      · refine .ite (fun _ => .sent (.trans (.onInst (.refl e) _ _ ?_) (Dev.colSend_col ..)) ..) fun _ => .refl e
        exact fun _ => ⟨rfl, rfl, rfl, rfl, fun _ h => h⟩
    · exact .ite (fun _ => Dev.writeMove_col ..) fun _ => .refl e

/-! ### Maps and votes -/

theorem Dev.sendPiece_col (d : Dev) (k b first : Nat) (bytes : List Nat) : d.ColKeeps (d.sendPiece k b first bytes) := by
  unfold Dev.sendPiece
  split
  · exact .refl d
  · exact .foldl (fun e _ => Dev.colTell_col ..) _ (.refl d)

theorem Dev.sendMaps_col (d : Dev) (k : Nat) : d.ColKeeps (d.sendMaps k) := by
  unfold Dev.sendMaps
  split
  · exact .refl d
  · refine .ite (fun _ => .foldl (fun e _ => Dev.sendPiece_col ..) _ (.onInst (.refl d) _ _ ?_)) fun _ => .refl d
    exact fun _ => ⟨rfl, rfl, rfl, rfl, fun _ h => h⟩

theorem Dev.voteNow_col (d : Dev) (k : Nat) : d.ColKeeps (d.voteNow k) := by
  unfold Dev.voteNow
  split
  · exact .refl d
  next i hi =>
    refine .ite (fun _ => .refl d) fun _ => ?_
    have hd : d.ColKeeps (d.setInst { i with voted := true }) := .setInst (.refl d) (Dev.inst_mem hi).1 ⟨rfl, rfl, rfl, rfl, fun _ h => h⟩
    dsimp only
    split
    · exact hd.trans (Dev.colDecide_col ..)
    · exact hd.trans (.sent (Dev.colSend_col ..) ..)

/-! ### The advance -/

theorem Dev.colPass_col (d : Dev) (m : Mem) (k : Nat) : d.ColKeeps (d.colPass m k) := by
  unfold Dev.colPass
  split
  · exact .refl d
  next i _ =>
    refine .trans (.trans (.foldl (fun e _ => Dev.earlyBell_col ..) _ ?_) (Dev.sendMaps_col ..)) (Dev.voteNow_col ..)
    have hreduce : d.ColKeeps ((List.range i.nchunk).foldl (fun (d : Dev) j => d.reduceChunk m k j) (d.takeFolds m k)) :=
      .foldl (fun e _ => Dev.reduceChunk_col ..) _ (Dev.takeFolds_col ..)
    have hblocks : d.ColKeeps ((List.range i.nchunk).foldl (fun (d : Dev) j => d.sendBlocks m k j) d) :=
      .foldl (fun e _ => Dev.sendBlocks_col ..) _ (.refl d)
    split
    · exact hreduce
    · exact hreduce
    · exact hblocks
    · exact hblocks
    · exact hblocks
    · exact ((Dev.beginMoves_col ..).trans (Dev.stageMove_col ..)).trans (Dev.grantMoves_col ..)
    · exact .refl d

theorem Dev.colPasses_col (m : Mem) (k n : Nat) : ∀ d : Dev, d.ColKeeps (d.colPasses m k n) := by
  induction n with
  | zero => exact .refl
  | succ n ih =>
    intro d
    rw [Dev.colPasses]
    exact .ite (fun _ => (Dev.colPass_col d m k).trans (ih _)) fun _ => Dev.colPass_col d m k

theorem Dev.colAdvance_col (d : Dev) (m : Mem) (k : Nat) : d.ColKeeps (d.colAdvance m k) := by
  unfold Dev.colAdvance
  split
  · exact .refl d
  · exact Dev.colPasses_col ..

end Sys2Proof.Machine
end


section
/-! PROOFS. Settles the obligation on what drives a collective from this device (R354, R355, R368 to R371, R377, R378). -/

namespace Sys2Proof.Machine

/-! ### The post is taken -/

/-- The tile's only post has been taken, and its credit is owed. -/
def Dev.postTaken (d : Dev) (p target : Nat) : Dev :=
  { d with posts := [] }.onTile p fun t =>
    { t with store := { t.store with creditOwed := SMap.modify 0 target (· + 1) t.store.creditOwed } }

theorem Dev.takePost_sole {d : Dev} {o : Post} {f : Nat → Bool} (h : d.posts = [o]) (hf : f o.value = true) :
    d.takePost o.tile o.target f = some (o, d.postTaken o.tile o.target) := by
  have hfind : d.posts.find? (fun q => q.tile == o.tile && q.target == o.target) = some o := by
    rw [h]
    exact List.find?_cons_of_pos (by simp)
  have herase : d.posts.erase o = [] := by
    rw [h]
    exact List.erase_cons_head ..
  unfold Dev.takePost
  rw [hfind]
  dsimp only
  rw [if_pos hf, herase]
  rfl

theorem Dev.postTaken_credit (d : Dev) (p target : Nat) :
    SMap.get 0 target ((d.postTaken p target).tile p).store.creditOwed = SMap.get 0 target (d.tile p).store.creditOwed + 1 := by
  unfold Dev.postTaken
  rw [Dev.tile_onTile, if_pos rfl]
  unfold SMap.modify
  dsimp only
  rw [SMap.get_put_same]
  rfl

theorem Dev.colTakes_sole {d : Dev} {o : Post} {f : Nat → Bool} (m : Mem) (h : d.posts = [o]) (ht : o.target = 1) (hf : f o.value = true) :
    d.colTakes m o.tile f = if d.active pCOL 0 then ((d.postTaken o.tile 1).colPost m o.value o.step).settled m else d.postTaken o.tile 1 := by
  have htake := Dev.takePost_sole h hf
  rw [ht] at htake
  unfold Dev.colTakes
  rw [htake]
  rfl

/-! ### One collective -/

theorem Dev.inst_one {d : Dev} {i : Inst} (h : d.col.insts = [i]) : d.inst i.desc = some i := by
  unfold Dev.inst
  rw [h]
  exact List.find?_cons_of_pos (by simp)

/-- Collectives of no step concern STP in nothing. -/
theorem Dev.settled_idle {d : Dev} (m : Mem) (h : ∀ v ∈ d.col.events, v.step = none ∧ v.vote = false) :
    d.settled m = { d with col := { d.col with events := [] } } := by
  have hs : d.colSettle m = { d with col := { d.col with events := [] } } := by
    unfold Dev.colSettle
    dsimp only
    generalize { d with col := { d.col with events := [] } } = e
    generalize d.col.events = evs at h
    induction evs with
    | nil => rfl
    | cons v evs ih =>
      obtain ⟨hstep, hvote⟩ := h v (List.mem_cons_self ..)
      rw [List.foldl_cons, hvote, hstep, if_neg (by decide), if_neg (by simp)]
      exact ih fun w hw => h w (List.mem_cons_of_mem _ hw)
  unfold Dev.settled
  rw [hs]
  exact Dev.colSettle_nil m rfl

section
variable {d e : Dev} {m : Mem} {i : Inst}

theorem Dev.ColKeeps.settled (h : d.ColKeeps e) (hi : d.col.insts = [i]) (hev : d.col.events = []) (hs : i.step = none)
    (hk : i.desc < 1024) : e.settled m = { e with col := { e.col with events := [] } } := by
  refine Dev.settled_idle m fun v hv => ?_
  rcases h.events v hv with hv | ⟨x, hx, hstep, hvote⟩
  · rw [hev] at hv
    exact absurd hv List.not_mem_nil
  · rw [hi, List.mem_singleton] at hx
    rw [hstep, hvote, hx, hs]
    exact ⟨rfl, decide_eq_false (by omega)⟩

theorem Dev.ColKeeps.each (h : d.ColKeeps e) (hi : d.col.insts = [i]) : ∀ j ∈ e.col.insts, i.Kept j := fun j hj => by
  obtain ⟨x, hx, hk⟩ := h.insts j hj
  rw [hi, List.mem_singleton] at hx
  exact hx ▸ hk

/-- The abort of a member that is not the root: its record goes up. -/
theorem Dev.colAbort_up (hi : d.col.insts = [i]) (ha : i.abort = none) (hn : 1 < i.n) (hr : i.rank ≠ 0) (code rank chunk : Nat) :
    (d.colAbort i.desc code rank chunk).col = { d.col with insts := [{ i with abort := some ⟨code, rank, chunk, i.rank⟩ }] }
    ∧ (d.colAbort i.desc code rank chunk).mask (partsMask [.brezin, .col]) = d.mask (partsMask [.brezin, .col]) := by
  have hup : ∀ x : Dev, (match i.parent 0 i.rank with
        | some r => x.colHurry i r (i.header i.rank 0 0 ++ decisionBytes (some ⟨code, rank, chunk, i.rank⟩))
        | none => x).mask (partsMask [.brezin]) = x.mask (partsMask [.brezin]) := fun x => by
    split
    · exact Dev.colHurry_mask (by decide) ..
    · rfl
  have hone : ((d.dropInst i.desc).onInst i.desc fun x => { x with abort := some ⟨code, rank, chunk, i.rank⟩ }).col
      = { d.col with insts := [{ i with abort := some ⟨code, rank, chunk, i.rank⟩ }] } := by
    unfold Dev.onInst Dev.dropInst
    dsimp only
    rw [hi, List.map_cons, if_pos rfl]
    rfl
  unfold Dev.colAbort
  rw [Dev.inst_one hi]
  dsimp only
  rw [if_neg (by rw [ha]; decide), if_neg (by omega)]
  refine ⟨(Dev.col_of_mask (by decide) (hup _)).trans hone, (Dev.mask_sub (P := partsMask [.brezin]) (by decide) (hup _)).trans ?_⟩
  exact (Dev.mask_col (by decide) ..).trans (Dev.dropInst_mask (by decide) ..)

/-- A READY counts its bucket, and the advance that follows leaves the count. -/
theorem Dev.colPost_ready (hi : d.col.insts = [i]) (hs : i.step = none) (ha : i.abort = none) {v : Nat} (hb : colPostBad v = false)
    (hc : bits v 60 4 = 1) (hk : bits v 50 10 = i.desc) :
    (d.onInst i.desc (fun i => { i with ready := SMap.insert (v % 2 ^ 16) (SMap.get 0 (v % 2 ^ 16) i.ready + 1) i.ready })).ColKeeps
      (d.colPost m v none) := by
  unfold Dev.colPost Dev.colPostReady
  rw [if_neg (by rw [hb]; decide), if_pos hc, hk]
  dsimp only
  rw [if_pos (by rw [Dev.inst_one hi]; rfl)]
  unfold Dev.colReady
  rw [Dev.inst_one hi]
  dsimp only
  rw [if_neg (by rw [ha]; decide), hs, if_neg (by simp)]
  generalize d.onInst i.desc _ = x
  refine .trans ?_ (Dev.colAdvance_col ..)
  split
  · exact .ite (fun _ => .foldl (fun e j => Dev.lateChunk_col ..) _ (.refl x)) fun _ => .refl x
  · exact .refl x

theorem Dev.counted_insts (hi : d.col.insts = [i]) (f : Inst → Inst) : (d.onInst i.desc f).col.insts = [f i] := by
  unfold Dev.onInst
  dsimp only
  rw [hi, List.map_cons, if_pos rfl]
  rfl

/-- The registers and the record of an entry that ends aborted, after its completion. -/
def Dev.abortShown (y : Dev) (i : Inst) (a : AbortRec) (na : Bool) : Dev :=
  ((((((((y.postUnsolicited 4 1 i.colid a.code i.stepWord).fcount colAbortcntCount 0 1).fset colLasterrCode 0 a.code).fset
    colLasterrNotAgreed 0 (b2n na)).fset colLasterridColid 0 i.colid).fset colLasterrrankRank 0 a.rank).fset
    colLasterrchunkChunk 0 a.chunk).record 0x5005 pCOL 0 i.colid (a.code + a.origin * 256) a.rank)

theorem Dev.abortShown_spec {y : Dev} (hk : d.KeepsBut memClasses y) (hc : y.col = d.col) (a : AbortRec) :
    (y.abortShown i a true).col = d.col ∧ (y.abortShown i a true).fget colLasterrNotAgreed 0 = 1
    ∧ (y.abortShown i a true).fget colAbortcntCount 0 = satAdd (2 ^ 32 - 1) (d.fget colAbortcntCount 0) 1 := by
  have hm := Dev.postUnsolicited_mask (F := 2097192) (by decide) y 4 1 i.colid a.code i.stepWord
  have hpost := (Dev.postUnsolicited_keeps y 4 1 i.colid a.code i.stepWord).keeps colAbortcntCount 0 (by decide) (by decide)
  have hcount := hk.keeps colAbortcntCount 0 (by decide) (by decide)
  unfold Dev.abortShown
  generalize y.postUnsolicited 4 1 i.colid a.code i.stepWord = z at hm hpost ⊢
  refine ⟨(Dev.col_of_mask (F := 32) (by decide) (Dev.record_mask (by decide) ..)).trans ((Dev.col_of_mask (by decide) hm).trans hc),
    (Dev.fget_of_mask (F := 32) (by decide) (Dev.record_mask (by decide) ..) ..).trans ?_,
    (Dev.fget_of_mask (F := 32) (by decide) (Dev.record_mask (by decide) ..) ..).trans ?_⟩
  · simp (disch := decide) only [Dev.fget_fset_place, Dev.fget_fset_same]
    rfl
  · simp (disch := decide) only [Dev.fget_fset_place, Dev.fget_fcount_sat]
    rw [hpost, hcount]
    rfl

/-- An entry that had aborted ends. -/
theorem Dev.colTimeout_ends (hi : d.col.insts = [i]) (hk : i.desc < 1024) {a : AbortRec} (ha : i.abort = some a) :
    (d.colTimeout i.desc).col.insts = [] ∧ (∃ g ∈ (d.colTimeout i.desc).col.finished, g.desc = i.desc ∧ g.abort = some a)
    ∧ (d.colTimeout i.desc).fget colLasterrNotAgreed 0 = 1
    ∧ (d.colTimeout i.desc).fget colAbortcntCount 0 = satAdd (2 ^ 32 - 1) (d.fget colAbortcntCount 0) 1 := by
  have hdrop := Dev.dropInst_mask (F := 524288) (by decide) d i.desc
  have hcol : (d.dropInst i.desc).col = d.col := Dev.col_of_mask (by decide) hdrop
  have hkeep : d.KeepsBut memClasses (d.dropInst i.desc) := .of_mask (by decide) hdrop
  have hshown : ∀ y : Dev, d.KeepsBut memClasses y → y.col = d.col → ∀ (fs : List Finished) (fin : Finished) (evs : List ColEvent) (t : Dev),
      fin.desc = i.desc → fin.abort = some a →
      t = { y.abortShown i a true with col := { (y.abortShown i a true).col with
        insts := (y.abortShown i a true).col.insts.filter (fun x => x.desc != i.desc), finished := fs ++ [fin], events := evs } } →
        t.col.insts = [] ∧ (∃ g ∈ t.col.finished, g.desc = i.desc ∧ g.abort = some a)
        ∧ t.fget colLasterrNotAgreed 0 = 1 ∧ t.fget colAbortcntCount 0 = satAdd (2 ^ 32 - 1) (d.fget colAbortcntCount 0) 1 := by
    intro y hky hcy fs fin evs t hd hab ht
    obtain ⟨h1, h2, h3⟩ := Dev.abortShown_spec (i := i) hky hcy a
    generalize y.abortShown i a true = w at h1 h2 h3 ht
    subst ht
    refine ⟨?_, ⟨fin, List.mem_append_right _ (List.mem_singleton_self _), hd, hab⟩, h2, h3⟩
    dsimp only
    rw [h1, hi]
    simp
  unfold Dev.colTimeout
  rw [Dev.inst_one hi]
  dsimp only
  rw [ha]
  dsimp only
  unfold Dev.colComplete
  rw [Dev.inst_one (hcol ▸ hi)]
  dsimp only
  rw [if_neg (by simp; omega), if_neg (by simp), if_neg (by simp; omega)]
  split
  next y hy =>
    exact hshown y (hkeep.trans (Dev.writeRegion_keeps hy))
      ((Dev.col_of_mask (by decide) (Dev.writeRegion_mask (F := 79699001) (by decide) hy)).trans hcol) _ _ _ _ rfl rfl rfl
  next =>
    exact hshown _ (hkeep.record ..) ((Dev.col_of_mask (F := 32) (by decide) (Dev.record_mask (by decide) ..)).trans hcol) _ _ _ _ rfl rfl rfl

end

/-! ### Answers -/

section
variable {s : State} {i : Inst} (hw : s.dev.wout = []) (hi : s.dev.col.insts = [i]) (hev : s.dev.col.events = [])
include hw hi hev

/-- A command that ends with the abort of the only collective. -/
theorem Answers.aborts {c : Instr} {ok : Bool} {f : Mem → Dev → Dev} {P : State → Prop} {b : Dev} {code rank : Nat}
    (he : exec c s = runIf ok f s) (hok : ok = true)
    (hf : f s.mem s.dev = (b.colAbort i.desc code rank noChunk).settled s.mem) (hb : b.col = s.dev.col) (hbw : b.wout = s.dev.wout)
    (ha : i.abort = none) (hn : 1 < i.n) (hr : i.rank ≠ 0)
    (hp : ∀ e : Dev, e.mask (partsMask [.brezin, .col]) = b.mask (partsMask [.brezin, .col]) →
      e.col.insts = [{ i with abort := some ⟨code, rank, noChunk, i.rank⟩ }] → P { s with dev := e }) : Answers c s P := by
  obtain ⟨hcol, hm⟩ := Dev.colAbort_up (d := b) (hb ▸ hi) ha hn hr code rank noChunk
  rw [Dev.settled_nil s.mem (by rw [hcol, hb]; exact hev)] at hf
  exact Answers.quiet he hok hf ((Dev.wout_of_mask (by decide) hm).trans (hbw.trans hw)) (hp _ hm (congrArg Col.insts hcol))

end

/-! ### HOSTABORT -/

theorem Dev.pageWrite_hostabort (d : Dev) (m : Mem) (v : Nat) (hb : d.blockOpen pCOL 0 = true) :
    d.pageWrite m pCOL 0 0x78 v = (d.colHostAbort v).settled m :=
  Dev.pageWrite_block d m v (Dev.pageReset_other d rfl) (by decide) hb

theorem Dev.pageWrite_closed (d : Dev) (m : Mem) (cls inst off v : Nat) (ho : 0x40 ≤ off) (hb : d.blockOpen cls inst = false) :
    d.pageWrite m cls inst off v = d := by
  unfold Dev.pageWrite
  rw [if_neg (Nat.not_lt.mpr ho), hb]
  exact (ite_self _ : (if d.pageReset cls = true then d else d) = d)

theorem Dev.colHostAbort_one {d : Dev} {i : Inst} (hi : d.col.insts = [i]) (hk : i.desc < 1024) :
    d.colHostAbort i.colid = d.colAbort i.desc 0x0B i.rank noChunk := by
  unfold Dev.colHostAbort Dev.colAbortWhere
  rw [hi, List.filter_cons_of_pos (by simp [hk])]
  rfl

theorem Dev.colHostAbort_other {d : Dev} {i : Inst} {v : Nat} (hi : d.col.insts = [i]) (hv : i.colid ≠ v) : d.colHostAbort v = d := by
  unfold Dev.colHostAbort Dev.colAbortWhere
  rw [hi, List.filter_cons_of_neg (by simp [hv])]
  rfl

end Sys2Proof.Machine
end


section
/-! PROOFS. Settles the obligation on what drives a collective from this device: the obligation. -/

namespace Sys2Proof.Machine

section
variable {s : State} {i : Inst} (hw : s.dev.wout = []) (hact : s.dev.active pCOL 0 = true) (hi : s.dev.col.insts = [i])
  (hev : s.dev.col.events = []) (hstep : i.step = none) (hk : i.desc < 1024)

/-! ### POST values -/

section
variable {p v : Nat} {o : Post} (hp : p < 68) (hposts : s.dev.posts = [o]) (hot : o.tile = p) (htar : o.target = 1)

/-- The posts and the credit once a tile's only post, to COL, has been taken. -/
def State.ColTaken (s t : State) (p : Nat) : Prop :=
  t.dev.posts = [] ∧ SMap.get 0 1 (t.dev.tile p).store.creditOwed = SMap.get 0 1 (s.dev.tile p).store.creditOwed + 1

theorem State.colTaken_of {s t : State} {p : Nat} (hp : t.dev.posts = [])
    (hc : (t.dev.tile p).store.creditOwed = ((s.dev.postTaken p 1).tile p).store.creditOwed) : s.ColTaken t p :=
  ⟨hp, by rw [hc]; exact Dev.postTaken_credit ..⟩

include hw hact hposts hot htar hp

theorem Answers.badReady (hev : s.dev.col.events = []) (hval : o.value = v) (hb : colPostBad v = true) : Answers (.ready p) s fun t =>
    s.ColTaken t p ∧ t.dev.col = s.dev.col ∧ t.dev.fget colBadpostCount 0 = satAdd 0xFFFF (s.dev.fget colBadpostCount 0) 1 := by
  subst hot hval
  have hf : s.dev.readyPost s.mem o.tile = (s.dev.postTaken o.tile 1).fcount colBadpostCount 0 1 := by
    unfold Dev.readyPost
    rw [Dev.colTakes_sole s.mem hposts htar (by rw [hb]; rfl), if_pos hact]
    unfold Dev.colPost
    rw [if_pos hb]
    exact Dev.settled_nil _ hev
  exact Answers.quiet (f := fun m d => d.readyPost m o.tile) rfl (decide_eq_true hp) hf hw
    ⟨State.colTaken_of rfl rfl, rfl, Dev.fget_fcount_sat ..⟩

include hi hev hstep hk

omit hw in
theorem Answers.ready (hval : o.value = v) (host : o.step = none) (hb : colPostBad v = false) (hd : bits v 50 10 = i.desc) (ha : i.abort = none) (hc : bits v 60 4 = 1) : Answers (.ready p) s fun t =>
    s.ColTaken t p ∧ ∀ j ∈ t.dev.col.insts, j.desc = i.desc →
      SMap.get 0 (v % 2 ^ 16) j.ready = SMap.get 0 (v % 2 ^ 16) i.ready + 1 := by
  subst hot hval
  have hkeeps := Dev.colPost_ready (d := s.dev.postTaken o.tile 1) (m := s.mem) hi hstep ha hb hc hd
  have hone := Dev.counted_insts (d := s.dev.postTaken o.tile 1) hi
    (fun i => { i with ready := SMap.insert (o.value % 2 ^ 16) (SMap.get 0 (o.value % 2 ^ 16) i.ready + 1) i.ready })
  have hset := hkeeps.settled (m := s.mem) hone hev hstep hk
  have hf : s.dev.readyPost s.mem o.tile = ((s.dev.postTaken o.tile 1).colPost s.mem o.value none).settled s.mem := by
    unfold Dev.readyPost
    rw [Dev.colTakes_sole s.mem hposts htar (by rw [hc, Bool.or_eq_true]; exact .inr rfl), if_pos hact, host]
  rw [hset] at hf
  generalize (s.dev.postTaken o.tile 1).colPost s.mem o.value none = e at hkeeps hf
  refine Answers.ends (f := fun m d => d.readyPost m o.tile) rfl (decide_eq_true hp) hf ?_
  rintro ⟨_, _, _⟩ rfl
  refine ⟨State.colTaken_of (hkeeps.posts.trans rfl) (hkeeps.credits _), fun j hj _ => ?_⟩
  rw [(hkeeps.each hone j hj).ready]
  unfold SMap.get
  dsimp only
  rw [SMap.find_insert_same]
  rfl

omit hstep hk in
theorem Answers.abort (hval : o.value = v) (hb : colPostBad v = false) (hd : bits v 50 10 = i.desc) (ha : i.abort = none)
    (hc : bits v 60 4 = 2) (hn : 1 < i.n) (hr : i.rank ≠ 0) : Answers (.abort p) s fun t =>
    s.ColTaken t p ∧ t.dev.col.insts = [{ i with abort := some ⟨0x0C, i.rank, noChunk, i.rank⟩ }] := by
  subst hot hval
  have hf : s.dev.abortPost s.mem o.tile = ((s.dev.postTaken o.tile 1).colAbort i.desc 0x0C i.rank noChunk).settled s.mem := by
    unfold Dev.abortPost
    rw [Dev.colTakes_sole s.mem hposts htar (by rw [hb, hc]; rfl), if_pos hact]
    unfold Dev.colPost
    rw [if_neg (by rw [hb]; decide), if_neg (by rw [hc]; decide), hd, Dev.inst_one (d := s.dev.postTaken o.tile 1) hi]
  refine Answers.aborts hw hi hev (f := fun m d => d.abortPost m o.tile) rfl (decide_eq_true hp) hf rfl rfl ha hn hr fun e hm hone =>
    ⟨State.colTaken_of ((Dev.posts_of_mask (by decide) hm).trans rfl) ?_, hone⟩
  exact congrArg (fun t : Tile => t.store.creditOwed) (Dev.tile_congr (Dev.tiles_of_mask (by decide) hm) _)

end

/-! ### COL_LAUNCH -/

section
variable {q : Nat} {c : HostCmd} {rest : List HostCmd} (hq : q < 64) (hf : s.dev.Front q 7 c rest)
include hw hact hq hf

theorem Answers.badLaunch (hev : s.dev.col.events = []) (hb : colPostBad (c.f 8 8) = true) : Answers (.colLaunch q) s fun t =>
    s.dev.Completes t.dev q c rest 2 8 0 ∧ t.dev.col = s.dev.col := by
  have hx : s.dev.colLaunch s.mem q = ((s.dev.begun q c rest).fcount colBadpostCount 0 1).complete c 2 8 0 := by
    unfold Dev.colLaunch
    rw [Dev.startCmd_front hf]
    dsimp only
    have hon : (s.dev.begun q c rest).active pCOL 0 = true := hact
    rw [hon, if_neg (by decide), if_pos hb]
    unfold Dev.colPost
    rw [if_pos hb, Dev.settled_nil _ (by exact hev)]
  have hm := Dev.complete_mask (F := 2097192) (by decide) ((s.dev.begun q c rest).fcount colBadpostCount 0 1) c 2 8 0
  have hdone : s.dev.Completes (((s.dev.begun q c rest).fcount colBadpostCount 0 1).complete c 2 8 0) q c rest 2 8 0 := by
    refine Dev.completes_of_fields (e := (s.dev.begun q c rest).fcount colBadpostCount 0 1) hf rfl (fun g hg j => ?_) ..
    refine (Dev.fget_fcount_place (s.dev.begun q c rest) 0 j 1 ?_).trans (Dev.fget_congr rfl g j)
    simp only [List.mem_cons, List.not_mem_nil, or_false] at hg
    rcases hg with rfl | rfl | rfl <;> decide
  have hcol := (Dev.col_of_mask (by decide) hm).trans (rfl : ((s.dev.begun q c rest).fcount colBadpostCount 0 1).col = s.dev.col)
  have hwout := (Dev.wout_of_mask (by decide) hm).trans ((rfl : ((s.dev.begun q c rest).fcount colBadpostCount 0 1).wout = s.dev.wout).trans hw)
  generalize ((s.dev.begun q c rest).fcount colBadpostCount 0 1).complete c 2 8 0 = x at hx hdone hcol hwout
  exact Answers.quiet (f := fun m d => d.colLaunch m q) rfl (decide_eq_true hq) hx hwout ⟨hdone, hcol⟩

include hi hev hstep hk

omit hw in
theorem Answers.launch (hb : colPostBad (c.f 8 8) = false) (hc : bits (c.f 8 8) 60 4 = 1) (hd : bits (c.f 8 8) 50 10 = i.desc)
    (ha : i.abort = none) : Answers (.colLaunch q) s fun t =>
    (t.dev.sq q).fetched = rest ∧ t.dev.fget hbxBadcmdCount 0 = s.dev.fget hbxBadcmdCount 0
    ∧ ∀ j ∈ t.dev.col.insts, j.desc = i.desc →
      SMap.get 0 (c.f 8 8 % 2 ^ 16) j.ready = SMap.get 0 (c.f 8 8 % 2 ^ 16) i.ready + 1 := by
  have hkeeps := Dev.colPost_ready (d := s.dev.begun q c rest) (m := s.mem) hi hstep ha hb hc hd
  have hone := Dev.counted_insts (d := s.dev.begun q c rest) hi
    (fun i => { i with ready := SMap.insert (c.f 8 8 % 2 ^ 16) (SMap.get 0 (c.f 8 8 % 2 ^ 16) i.ready + 1) i.ready })
  have hset := hkeeps.settled (m := s.mem) hone hev hstep hk
  have hx : s.dev.colLaunch s.mem q = (((s.dev.begun q c rest).colPost s.mem (c.f 8 8) none).settled s.mem).complete c 0 0 0 := by
    unfold Dev.colLaunch
    rw [Dev.startCmd_front hf]
    dsimp only
    have hon : (s.dev.begun q c rest).active pCOL 0 = true := hact
    rw [hon, if_neg (by decide), if_neg (by rw [hb]; decide)]
  rw [hset] at hx
  generalize (s.dev.begun q c rest).colPost s.mem (c.f 8 8) none = e at hkeeps hx
  obtain ⟨-, hcq, -⟩ := hf
  have hsq := (Dev.complete_sq { e with col := { e.col with events := [] } } c 0 0 0).1
  have hbad := (Dev.complete_posts { e with col := { e.col with events := [] } } c 0 0 0).1
  have hm := Dev.complete_mask (F := 2097192) (by decide) { e with col := { e.col with events := [] } } c 0 0 0
  generalize Dev.complete { e with col := { e.col with events := [] } } c 0 0 0 = x at hx hsq hbad hm
  refine Answers.ends (f := fun m d => d.colLaunch m q) rfl (decide_eq_true hq) hx ?_
  rintro ⟨_, _, _⟩ rfl
  refine ⟨?_, ?_, fun j hj _ => ?_⟩
  · subst hcq
    refine (congrArg Sq.fetched hsq).trans ?_
    have hrings : e.sq c.sq = (s.dev.begun c.sq c rest).sq c.sq := congrArg (SMap.get Sq.reset c.sq) hkeeps.rings
    exact (congrArg Sq.fetched hrings).trans (congrArg Sq.fetched (Dev.sq_setSq_same ..))
  · exact hbad.trans hkeeps.badcmd
  · have hcol : x.col = { e.col with events := [] } := Dev.col_of_mask (by decide) hm
    have hj' : j ∈ e.col.insts := by
      have : j ∈ x.col.insts := hj
      rw [hcol] at this
      exact this
    rw [(hkeeps.each hone j hj').ready]
    unfold SMap.get
    dsimp only
    rw [SMap.find_insert_same]
    rfl

end

/-! ### Deadlines -/

/-- The entry once its soft deadline has passed. -/
def Inst.pastSoft (i : Inst) : Inst :=
  { i with softDone := true, excl := i.excl ++ ((List.range i.nbucket).filter (fun b => !i.isReady b)).map (fun b => (b, i.rank)) }

include hi hev hstep hk

theorem Answers.softDeadline (hfl : i.flag 1 = true) (hs : i.softDone = false) (ha : i.abort = none)
    (hm : s.dev.markReached (i.start + i.f 44 2) = true) : Answers (.softDeadline i.desc) s fun t =>
    ∀ j ∈ t.dev.col.insts, j.desc = i.desc →
      j.softDone = true ∧ ∀ k, k < i.nbucket → i.isReady k = false → (k, i.rank) ∈ j.excl := by
  have hf : s.dev.softDeadline s.mem i.desc = ((((List.range i.nbucket).filter (fun b => !i.isReady b)).foldl (fun d b => d.tellExcl i.desc b)
      (s.dev.setInst i.pastSoft))).colAdvance s.mem i.desc := by
    unfold Dev.softDeadline
    rw [Dev.inst_one hi]
    dsimp only
    rw [if_neg (by rw [hfl, hs, ha, hm]; decide)]
    rfl
  have hone : (s.dev.setInst i.pastSoft).col.insts = [i.pastSoft] := by
    unfold Dev.setInst
    dsimp only
    rw [hi, List.map_cons, if_pos (show i.desc = i.pastSoft.desc from rfl)]
    rfl
  have hevents : (s.dev.setInst i.pastSoft).col.events = [] := hev
  generalize s.dev.setInst i.pastSoft = x at hf hone hevents
  have hkeeps : x.ColKeeps (s.dev.softDeadline s.mem i.desc) := by
    rw [hf]
    exact .trans (.foldl (fun e b => Dev.tellExcl_col ..) _ (.refl x)) (Dev.colAdvance_col ..)
  have hset := hkeeps.settled (m := s.mem) hone hevents hstep hk
  refine Answers.ends (f := fun m d => (d.softDeadline m i.desc).settled m) (ok := true) rfl rfl hset ?_
  generalize s.dev.softDeadline s.mem i.desc = e at hkeeps
  rintro ⟨_, _, _⟩ rfl
  intro j hj _
  have hj' := hkeeps.each hone j hj
  refine ⟨hj'.soft, fun k hkb hready => hj'.excl _ (List.mem_append_right _ (List.mem_map.mpr ⟨k, ?_, rfl⟩))⟩
  rw [List.mem_filter, List.mem_range, hready]
  exact ⟨hkb, rfl⟩

theorem Answers.notAgreed {a : AbortRec} (ha : i.abort = some a) : Answers (.colTmoExpiry i.desc) s fun t =>
    t.dev.col.insts = [] ∧ (∃ g ∈ t.dev.col.finished, g.desc = i.desc ∧ g.abort = some a)
    ∧ t.dev.fget colLasterrNotAgreed 0 = 1
    ∧ t.dev.fget colAbortcntCount 0 = satAdd (2 ^ 32 - 1) (s.dev.fget colAbortcntCount 0) 1 := by
  obtain ⟨h1, h2, h3, h4⟩ := Dev.colTimeout_ends (d := s.dev) hi hk ha
  have hkeeps : s.dev.ColKeeps (s.dev.colTimeout i.desc) := by
    unfold Dev.colTimeout
    rw [Dev.inst_one hi]
    dsimp only
    rw [ha]
    exact (Dev.dropInst_col ..).trans (Dev.colComplete_col ..)
  have hset := hkeeps.settled (m := s.mem) hi hev hstep hk
  refine Answers.ends (f := fun m d => (d.colTimeout i.desc).settled m) (ok := true) rfl rfl hset ?_
  generalize s.dev.colTimeout i.desc = e at h1 h2 h3 h4
  rintro ⟨_, _, _⟩ rfl
  exact ⟨h1, h2, h3, h4⟩

end

/-! ### COL is down -/

section
variable {s : State} (hw : s.dev.wout = []) (hoff : s.dev.active pCOL 0 = false)
include hw hoff

theorem Answers.launchDown {q : Nat} {c : HostCmd} {rest : List HostCmd} (hq : q < 64) (hf : s.dev.Front q 7 c rest) :
    Answers (.colLaunch q) s fun t => s.dev.Completes t.dev q c rest 5 0 0 ∧ s.OnlyParts t [.regs, .evr, .hbx] := by
  have hx : s.dev.colLaunch s.mem q = (s.dev.begun q c rest).complete c 5 0 0 := by
    unfold Dev.colLaunch
    rw [Dev.startCmd_front hf]
    dsimp only
    have hon : (s.dev.begun q c rest).active pCOL 0 = false := hoff
    rw [hon]
    rfl
  have hm := Dev.complete_mask (F := partsMask [.regs, .evr, .hbx]) (by decide) (s.dev.begun q c rest) c 5 0 0
  have hm' : ((s.dev.begun q c rest).complete c 5 0 0).mask (partsMask [.regs, .evr, .hbx]) = s.dev.mask (partsMask [.regs, .evr, .hbx]) := hm
  exact Answers.quiet (f := fun m d => d.colLaunch m q) rfl (decide_eq_true hq) hx ((Dev.wout_of_mask (by decide) hm').trans hw)
    ⟨Dev.completes_of hf rfl (fun _ _ _ => rfl) .., State.onlyParts_of_mask _ hm'⟩

theorem Answers.readyDown {p : Nat} {o : Post} (hp : p < 68) (hposts : s.dev.posts = [o]) (hot : o.tile = p) (htar : o.target = 1)
    (hv : (colPostBad o.value || bits o.value 60 4 == 1) = true) : Answers (.ready p) s fun t =>
    s.ColTaken t p ∧ s.OnlyParts t [.tiles, .posts] := by
  subst hot
  have hf : s.dev.readyPost s.mem o.tile = s.dev.postTaken o.tile 1 := by
    unfold Dev.readyPost
    rw [Dev.colTakes_sole s.mem hposts htar hv, hoff]
    rfl
  exact Answers.quiet (f := fun m d => d.readyPost m o.tile) rfl (decide_eq_true hp) hf hw
    ⟨State.colTaken_of rfl rfl, State.onlyParts_of_mask [.tiles, .posts] rfl⟩

end

/-! ### The obligation -/

/-- Settles O48: what an advance may change is `Dev.ColKeeps`. -/
theorem collectiveControl : Obligations.CollectiveControl := by
  unfold Obligations.CollectiveControl
  refine ⟨fun s p v q o i a c rest hp hq hw hact hi hev hstep hk => ?_, fun s p q o c rest hp hq hw hoff =>
    ⟨fun hf => Answers.launchDown hw hoff hq hf, fun hposts hot htar hv =>
      (Answers.readyDown hw hoff hp hposts hot htar hv).imp fun t h => ⟨h.1.1, h.1.2, h.2⟩⟩⟩
  refine ⟨fun hposts hot htar hval host => ⟨fun hb => Answers.badReady hw hact hp hposts hot htar hev hval hb, fun hb hd ha =>
      ⟨fun hc => Answers.ready hact hi hev hstep hk hp hposts hot htar hval host hb hd ha hc,
        fun hc hn hr => Answers.abort hw hact hi hev hp hposts hot htar hval hb hd ha hc hn hr⟩⟩,
    fun hf hv => ?_, fun hfl hs ha hm => Answers.softDeadline hi hev hstep hk hfl hs ha hm, fun hs => ?_, fun ha hn hr => ⟨?_, ?_⟩,
    fun hans hv hne => ?_, fun ha => Answers.notAgreed hi hev hstep hk ha⟩
  · subst hv
    exact ⟨fun hb => Answers.badLaunch hw hact hq hf hev hb, fun hb hc hd ha => Answers.launch hact hi hev hstep hk hq hf hb hc hd ha⟩
  · refine exec_run_same (f := fun m d => (d.softDeadline m i.desc).settled m) rfl hw ?_
    have hd : s.dev.softDeadline s.mem i.desc = s.dev := by
      unfold Dev.softDeadline
      rw [Dev.inst_one hi]
      dsimp only
      rw [if_pos (by rw [hs]; simp)]
    rw [hd]
    exact Dev.settled_nil _ hev
  · refine Answers.aborts hw hi hev (b := s.dev) (f := fun m d => (d.colTimeout i.desc).settled m) (ok := true) rfl rfl ?_ rfl rfl ha hn hr
      fun e _ hone => hone
    unfold Dev.colTimeout
    rw [Dev.inst_one hi]
    dsimp only
    rw [ha]
  · intro hans hb hv hcol
    subst hcol
    refine ⟨Answers.aborts hw hi hev (b := s.dev) (f := fun m d => d.host fun d => d.pageWrite m pCOL 0 0x78 i.colid) (ok := true) rfl rfl ?_
      rfl rfl ha hn hr fun e _ hone => hone, Answers.aborts hw hi hev (b := s.dev.urgent)
      (f := fun m d => d.host fun d => d.urgColAbort m i.colid) (ok := true) rfl rfl ?_ rfl rfl ha hn hr fun e hm hone =>
        ⟨hone, (congrArg Pcie.urgCount (Dev.pci_of_mask (by decide) hm)).trans rfl⟩⟩
    · exact (Dev.host_on hans _).trans ((Dev.pageWrite_hostabort _ _ _ hb).trans (by rw [Dev.colHostAbort_one hi hk]))
    · refine (Dev.host_on hans _).trans ?_
      unfold Dev.urgColAbort
      rw [Nat.mod_eq_of_lt hv, Dev.colHostAbort_one (d := s.dev.urgent) hi hk]
  · refine exec_access_same (ok := true) (g := fun m d => d.pageWrite m pCOL 0 0x78 v) rfl rfl hw ?_
    by_cases hb : s.dev.blockOpen pCOL 0 = true
    · rw [Dev.pageWrite_hostabort _ _ _ hb, Dev.colHostAbort_other hi hne]
      exact Dev.settled_nil _ hev
    · exact Dev.pageWrite_closed _ _ _ _ _ _ (by decide) (Bool.eq_false_iff.mpr hb)

end Sys2Proof.Machine
end


section
/-! PROOFS. What a solver's cycle changes as it computes and publishes (R194 to R207): of the registers those of the stacks, of
DOC and of Deckle, of the solvers' pages no count of corrected errors, and no solver but its own. -/

namespace Sys2Proof.Machine

/-! ### The relation -/

/-- From `d` to `e` regions have been read and written, and errors that were detected reported. -/
structure Dev.CycleKeeps (d e : Dev) : Prop where
  solvers : e.solvers = d.solvers
  keeps : d.KeepsBut memClasses e
  ce : ∀ k, k < 256 → (d.unit pSLV k).ceCnt ≤ 0xFFFF → (e.unit pSLV k).ceCnt = (d.unit pSLV k).ceCnt

theorem UnitPage.setErr_ceCnt (u : UnitPage) (bs code sub p0 p1 p2 : Nat) :
    (u.setErr bs code sub p0 p1 p2).ceCnt = satAdd 0xFFFF u.ceCnt (b2n (bit bs 0)) := by
  unfold UnitPage.setErr
  dsimp only
  split <;> rfl

namespace Dev.CycleKeeps
variable {d e : Dev}

theorem refl (d : Dev) : d.CycleKeeps d := ⟨rfl, .refl .., fun _ _ _ => rfl⟩

theorem trans {f : Dev} (h : d.CycleKeeps e) (g : e.CycleKeeps f) : d.CycleKeeps f :=
  ⟨g.solvers.trans h.solvers, h.keeps.trans g.keeps, fun k hk hd => by
    have he := h.ce k hk hd
    exact (g.ce k hk (by rw [he]; exact hd)).trans he⟩

/-- An operation that keeps the solvers and the pages. -/
theorem of_keeps {F : Nat} (hF : F.testBit 4 = false ∧ F.testBit 13 = false) (h : e.mask F = d.mask F) (hk : d.KeepsBut memClasses e) :
    d.CycleKeeps e := by
  obtain ⟨h4, h13⟩ := hF
  exact ⟨Dev.solvers_of_mask h13 h, hk, fun k _ _ => by rw [Dev.unit_congr (Dev.units_of_mask h4 h)]⟩

theorem of_mask {F : Nat} (hF : F.testBit 4 = false ∧ F.testBit 13 = false ∧ F.testBit 3 = false) (h : e.mask F = d.mask F) :
    d.CycleKeeps e := of_keeps ⟨hF.1, hF.2.1⟩ h (.of_mask hF.2.2 h)

theorem ite {c : Prop} [Decidable c] {f : Dev} (h : c → d.CycleKeeps e) (g : ¬ c → d.CycleKeeps f) : d.CycleKeeps (if c then e else f) := by
  by_cases hc : c
  · rw [if_pos hc]; exact h hc
  · rw [if_neg hc]; exact g hc

theorem foldl {α : Type} {f : Dev → α → Dev} (h : ∀ (e : Dev) x, e.CycleKeeps (f e x)) (l : List α) (hd : d.CycleKeeps e) :
    d.CycleKeeps (l.foldl f e) := Dev.foldl_keep (fun e => d.CycleKeeps e) f (fun e x he => he.trans (h e x)) l e hd

theorem fset (h : d.CycleKeeps e) (x : Field) (i v : Nat) (hx : x.place < 2 ^ 23 ∧ x.place / 2 ^ 17 ∈ memClasses := by decide) :
    d.CycleKeeps (e.fset x i v) := ⟨h.solvers, h.keeps.fset x i v hx, h.ce⟩

theorem fcount (h : d.CycleKeeps e) (x : Field) (i n : Nat) (hx : x.place < 2 ^ 23 ∧ x.place / 2 ^ 17 ∈ memClasses := by decide) :
    d.CycleKeeps (e.fcount x i n) := h.fset x i _ hx

theorem onStack (h : d.CycleKeeps e) (s : Nat) (f : Stack → Stack) : d.CycleKeeps (e.onStack s f) :=
  h.trans (.of_mask (F := 1024) (by decide) (Dev.onStack_mask (by decide) ..))

theorem record (h : d.CycleKeeps e) (code cls inst p0 p1 p2 : Nat) : d.CycleKeeps (e.record code cls inst p0 p1 p2) :=
  h.trans (.of_mask (F := 32) (by decide) (Dev.record_mask (by decide) ..))

theorem fresh (d : Dev) : d.CycleKeeps d.fresh.2 := .of_mask (F := 134217728) (by decide) (Dev.fresh_mask (by decide) d)

/-- An error of a page whose corrected errors it does not count, or that is no solver's. -/
theorem pgErr (h : d.CycleKeeps e) (cls inst bs code p0 p1 p2 : Nat) (hb : bit bs 0 = false ∨ pSLV < cls := by decide) :
    d.CycleKeeps (e.pgErr cls inst bs code p0 p1 p2) := by
  have hm := Dev.pgErr_mask (F := 4194352) (by decide) e cls inst bs code p0 p1 p2
  refine h.trans ⟨Dev.solvers_of_mask (by decide) hm, .of_mask (by decide) hm, fun k hk hle => ?_⟩
  by_cases hc : pSLV * 256 + k = cls * 256 + inst
  · have hu : ∀ x : Dev, x.unit pSLV k = x.unit cls inst := fun x => by unfold Dev.unit; rw [hc]
    rw [hu, hu, Dev.unit_pgErr_same, UnitPage.setErr_ceCnt, hb.resolve_right (by omega), ← hu]
    exact Nat.min_eq_right hle
  · rw [Dev.unit_pgErr_ne _ _ _ _ _ _ hc]

end Dev.CycleKeeps

/-! ### Reads and writes of regions -/

section
variable (d : Dev)

theorem Dev.worsen_cycle (s h : Nat) : d.CycleKeeps (d.worsen s h) :=
  .of_keeps (F := 4137) (by decide) (Dev.worsen_mask (by decide) ..) (Dev.worsen_keeps ..)

theorem Dev.correctedRead_cycle (a symbols row : Nat) (retention scrub : Bool) :
    d.CycleKeeps (d.correctedRead a symbols row retention scrub) := by
  have hlow : ∀ (e : Dev) s row, e.CycleKeeps (e.lowerBin s row) := fun e s row =>
    .of_keeps (F := 8389640) (by decide) (Dev.lowerBin_mask (by decide) ..) (Dev.lowerBin_keeps ..)
  have hscrub : ∀ (e : Dev) s line, e.CycleKeeps (e.requestScrub s line) := fun e s line =>
    .of_keeps (F := 1032) (by decide) (Dev.requestScrub_mask (by decide) ..) (Dev.requestScrub_keeps ..)
  unfold Dev.correctedRead
  dsimp only
  have h1 : d.CycleKeeps
      (((d.fcount stkCecntCount (stackOf a) 1).pgErr pSTK (stackOf a) bCE 0x1002 (lineOf a) symbols 0).activateRow (stackOf a) row) :=
    .onStack (.pgErr (.fcount (.refl d) ..) ..) ..
  have h2 := CycleKeeps.ite (c := retention = true) (fun _ => h1.trans (hlow _ (stackOf a) row)) fun _ => h1
  have h3 := fun f => CycleKeeps.ite (c := scrub = true)
    (fun _ => (h2.onStack (stackOf a) f).trans (hscrub _ (stackOf a) (lineOf a))) fun _ => h2.onStack (stackOf a) f
  exact .ite (fun _ => (h3 _).trans (Dev.worsen_cycle ..)) fun _ => h3 _

theorem Dev.uncorrectableRead_cycle (a row : Nat) : d.CycleKeeps (d.uncorrectableRead a row) := by
  unfold Dev.uncorrectableRead
  dsimp only
  have h1 : d.CycleKeeps (((d.setLine (a / 64) true).stackPoison a 0).fcount stkUecntCount (stackOf a) 1) :=
    .fcount (.pgErr (.of_mask (F := 2048) (by decide) (Dev.setLine_mask (by decide) ..)) ..) ..
  generalize ((d.setLine (a / 64) true).stackPoison a 0).fcount stkUecntCount (stackOf a) 1 = e at h1 ⊢
  have h2 := CycleKeeps.ite (c := e.fbit stkUeaddrHiValid (stackOf a) = true) (fun _ => h1) fun _ =>
    ((h1.fset stkUeaddrLoOffLo (stackOf a) (bits (lineOf a * 64) 6 26)).fset stkUeaddrHiOffHi (stackOf a)
      (bits (lineOf a * 64) 32 4)).fset stkUeaddrHiValid (stackOf a) 1
  generalize (ite (e.fbit stkUeaddrHiValid (stackOf a) = true) _ _ : Dev) = f at h2 ⊢
  have h3 := fun g => h2.onStack (stackOf a) g
  exact .ite (fun _ => (h3 _).trans (Dev.worsen_cycle ..)) fun _ => h3 _

theorem Dev.noteRead_cycle (a : Nat) (scrub : Bool) : d.CycleKeeps (d.noteRead a scrub).1 := by
  unfold Dev.noteRead
  cases d.cellsAt a with
  | none => exact .refl d
  | some x =>
    dsimp only
    cases d.decodeCells (stackOf a) x with
    | clean => exact .refl d
    | corrected n change =>
      dsimp only
      split
      · exact .refl d
      · exact d.correctedRead_cycle a n x.row x.retention scrub
    | detected =>
      dsimp only
      exact d.uncorrectableRead_cycle a x.row

theorem Dev.noteRegion_cycle (name o n : Nat) : d.CycleKeeps (d.noteRegion name o n) := by
  unfold Dev.noteRegion Dev.noteBytes
  exact .ite (fun _ => .foldl (fun e _ => .foldl (fun e _ => .ite (fun _ => Dev.noteRead_cycle e ..) fun _ => .refl e) _ (.refl e)) _
    (.refl d)) fun _ => .refl d

theorem Dev.cellsGone_cycle (a : Nat) : d.CycleKeeps (d.cellsGone a) :=
  .of_mask (F := 1024) (by decide) (Dev.cellsGone_mask (by decide) ..)

theorem Dev.pokeBytes_cycle (a : Nat) (bs : List Nat) : d.CycleKeeps (d.pokeBytes a bs) :=
  .of_mask (F := 67108864) (by decide) (Dev.pokeBytes_mask (by decide) ..)

theorem Dev.openLine_cycle (a : Nat) (whole : Bool) : d.CycleKeeps (d.openLine a whole).1 := by
  unfold Dev.openLine Dev.dieModify
  split
  · exact Dev.cellsGone_cycle ..
  · split
    · exact .refl d
    · exact ((Dev.noteRead_cycle ..).trans (Dev.pokeBytes_cycle ..)).trans (Dev.cellsGone_cycle ..)

theorem Dev.markWrite_cycle (a : Nat) (whole poison : Bool) (found : Nat) : d.CycleKeeps (d.markWrite a whole poison found) := by
  have hs : ∀ b, d.CycleKeeps (d.setLine (a / 64) b) := fun b => .of_mask (F := 2048) (by decide) (Dev.setLine_mask (by decide) ..)
  unfold Dev.markWrite
  exact .ite (fun _ => .pgErr (hs _) ..) fun _ => .ite (fun _ => hs _) fun _ => .ite (fun _ => .pgErr (.refl d) ..) fun _ => .refl d

theorem Dev.writeBytes_cycle (a : Nat) (bs : List Nat) (poison : Bool) : d.CycleKeeps (d.writeBytes a bs poison) :=
  .foldl (fun e _ => ((Dev.openLine_cycle e ..).trans (Dev.markWrite_cycle ..)).trans (Dev.pokeBytes_cycle ..)) _ (.refl d)

theorem Dev.writeUnit_cycle (h o : Nat) (bs : List Nat) (poison : Bool) : d.CycleKeeps (d.writeUnit h o bs poison) := by
  unfold Dev.writeUnit
  dsimp only
  split
  · exact (Dev.writeBytes_cycle ..).trans (Dev.writeBytes_cycle ..)
  · exact Dev.writeBytes_cycle ..

end

namespace Dev.CycleKeeps
variable {d e : Dev}

theorem noteRegion (h : d.CycleKeeps e) (name o n : Nat) : d.CycleKeeps (e.noteRegion name o n) := h.trans (Dev.noteRegion_cycle ..)

theorem writeRegion {f : Dev} (h : d.CycleKeeps e) {name o : Nat} {bs : List Nat} {poison : Bool}
    (he : e.writeRegion name o bs poison = some f) : d.CycleKeeps f := by
  unfold Dev.writeRegion Dev.writeEntry at he
  split at he
  · cases he
    exact h.trans (.foldl (fun e _ => Dev.writeUnit_cycle e ..) _ (.refl _))
  · exact absurd he (by simp)

theorem written (h : d.CycleKeeps e) (name o : Nat) (bs : List Nat) (poison : Bool) :
    d.CycleKeeps ((e.writeRegion name o bs poison).getD e) := by
  cases hw : e.writeRegion name o bs poison with
  | none => exact h
  | some f => exact h.writeRegion hw

end Dev.CycleKeeps

/-! ### Instances and their state -/

section
variable (d : Dev) (m : Mem) (l : Launch) (s : Struct)

theorem Dev.stateBytes_cycle (o n : Nat) : d.CycleKeeps (d.stateBytes m l o n).1 := by
  unfold Dev.stateBytes
  split
  · exact .refl d
  · exact .fresh d

theorem Dev.readHist_cycle (i : Nat) : d.CycleKeeps (d.readHist m l s i).1 :=
  (Dev.stateBytes_cycle d m l (l.stateOff s i) (64 + 16 * s.n)).noteRegion ..

theorem Dev.readHalted_cycle (i : Nat) : d.CycleKeeps (d.readHalted m l s i).1 :=
  (Dev.stateBytes_cycle d m l (l.stateOff s i) 64).noteRegion ..

theorem Dev.writeHist_cycle (i : Nat) (h : Hist) : d.CycleKeeps (d.writeHist l s i h) := .written (.refl d) ..

theorem Dev.noteFactor_cycle (i : Nat) : d.CycleKeeps (d.noteFactor l s i) := .noteRegion (.noteRegion (.refl d) ..) ..

theorem Dev.compute_cycle (e : Nat) (c : Cycle) (i : Nat) : d.CycleKeeps (d.compute m e c s i).1 := by
  unfold Dev.compute
  dsimp only
  generalize hx : (if c.launch.adjoint = true then d.readHalted m c.launch s i
    else ((d.readHist m c.launch s i).1, (c.launch.startHist s c.n (d.readHist m c.launch s i).2.1).1.halted,
      (d.readHist m c.launch s i).2.2)) = x
  have h1 : d.CycleKeeps x.1 := by
    rw [← hx]
    split
    · exact Dev.readHalted_cycle ..
    · exact Dev.readHist_cycle ..
  have h2 := h1.trans (Dev.stateBytes_cycle x.1 m c.launch (c.launch.stateOff s i + 64 + 16 * s.n) (8 * s.nv))
  generalize x.1.stateBytes m c.launch (c.launch.stateOff s i + 64 + 16 * s.n) (8 * s.nv) = y at h2 ⊢
  generalize hz : List.foldl (fun (d : Dev) k => d.noteRegion c.launch.stateRegion (64 * k) 64) y.1 _ = z
  have h3 : d.CycleKeeps z := hz ▸ h2.trans (.foldl (fun e _ => Dev.noteRegion_cycle e ..) _ (.refl _))
  split
  · exact h3
  · split
    · exact h3
    · split
      · exact h3.pgErr ..
      · split
        · have h4 := h3.trans (Dev.noteFactor_cycle z c.launch s i)
          split
          · exact h4
          · split
            · exact h4
            · exact h4
        · exact .ite (fun _ => h3.written ..) fun _ => h3

end

end Sys2Proof.Machine
end


section
/-! PROOFS. A cycle settles its entries, publishes and is recorded (R204 to R207). -/

namespace Sys2Proof.Machine

section
variable (d : Dev) (m : Mem) (e : Nat) (l : Launch) (n misslim : Nat) (s : Struct)

theorem Dev.settleInstance_cycle (i : Nat) (r : Option InstResult) (rest : Rest) (began : Bool) :
    d.CycleKeeps (d.settleInstance m e l n misslim s i r rest began).1 := by
  have h0 := Dev.readHist_cycle d m l s i
  unfold Dev.settleInstance
  dsimp only
  generalize d.readHist m l s i = x at h0 ⊢
  have hkeep : ∀ (y : Dev) (h' : Hist), d.CycleKeeps y → d.CycleKeeps (if l.adjoint = true ∨ h' = x.2.1 then y else y.writeHist l s i h') :=
    fun y h' hy => .ite (fun _ => hy) fun _ => hy.trans (Dev.writeHist_cycle ..)
  generalize (if began = true then l.startHist s n x.2.1 else (x.2.1, false)) = h
  split
  · split
    · exact hkeep _ _ h0
    · exact hkeep _ _ h0
  · split
    · exact hkeep _ _ h0
    · split
      · exact (hkeep _ _ h0).pgErr ..
      · split
        · exact hkeep _ _ h0
        · split
          · exact hkeep _ _ h0
          · refine hkeep _ _ ?_
            split
            · exact h0.trans (.fresh _)
            · exact h0

theorem Dev.settleAll_cycle (done : List InstResult) (rest : Rest) (began : Bool) :
    d.CycleKeeps (d.settleAll m e l n misslim s done rest began).1 :=
  Dev.foldl_keep (fun acc : Dev × List InstResult × Bool => d.CycleKeeps acc.1) _
    (fun acc i h => h.trans (Dev.settleInstance_cycle acc.1 m e l n misslim s i done[i]? rest began)) _ _ (.refl d)

theorem Dev.keepFactors_cycle {t : Dev} {rs : List InstResult} (h : d.keepFactors l n s rs = some t) : d.CycleKeeps t := by
  unfold Dev.keepFactors at h
  dsimp only at h
  split at h
  · cases h
  next x hx =>
    refine .writeRegion (.trans (.writeRegion (.refl d) hx) (.foldl (fun y r => ?_) _ (.refl _))) h
    exact .ite (fun _ => .refl y) fun _ => .written (.refl y) ..

theorem Dev.publishValues_cycle (o : Nat) (xs : List Nat) (poison : Bool) : d.CycleKeeps (d.publishValues l o xs poison) := by
  unfold Dev.publishValues
  exact .ite (fun _ => .refl d) fun _ => .written (.refl d) ..

/-! ### The record -/

/-- The fields of LASTREC. -/
def lastrecPlaces : List Nat := [slvLastrecTag.place, slvLastrecRstat.place, slvLastrecSi.place]

/-- What a cycle record leaves. -/
structure Dev.Recorded (d t : Dev) (r tag rstat : Nat) : Prop where
  tag : t.fget slvLastrecTag r = tag % 2 ^ 16
  rstat : t.fget slvLastrecRstat r = rstat % 2 ^ 8
  solvers : t.solvers = d.solvers
  fields : ∀ (f : Field) i, f.place < 2 ^ 23 → f.place / 2 ^ 17 ∉ memClasses → f.place ∉ lastrecPlaces → t.fget f i = d.fget f i
  ce : ∀ k, k < 256 → (d.unit pSLV k).ceCnt ≤ 0xFFFF → (t.unit pSLV k).ceCnt = (d.unit pSLV k).ceCnt

theorem Dev.publishRecord_spec (stride hash rstat : Nat) (c : CycleSum) :
    d.Recorded (d.publishRecord l n stride hash rstat c) (d.reportEngine l) (l.tag n) rstat := by
  unfold Dev.publishRecord
  dsimp only
  generalize d.reportEngine l = r
  have h1 : (((d.fset slvLastrecTag r (l.tag n)).fset slvLastrecRstat r rstat).fset slvLastrecSi r l.si).fget slvLastrecTag r
      = l.tag n % 2 ^ 16 := by
    rw [Dev.fget_fset_place _ _ _ _ (by decide), Dev.fget_fset_place _ _ _ _ (by decide), Dev.fget_fset_same]
    rfl
  have h2 : (((d.fset slvLastrecTag r (l.tag n)).fset slvLastrecRstat r rstat).fset slvLastrecSi r l.si).fget slvLastrecRstat r
      = rstat % 2 ^ 8 := by
    rw [Dev.fget_fset_place _ _ _ _ (by decide), Dev.fget_fset_same]
    rfl
  have h3 : ∀ (f : Field) i, f.place < 2 ^ 23 → f.place ∉ lastrecPlaces →
      (((d.fset slvLastrecTag r (l.tag n)).fset slvLastrecRstat r rstat).fset slvLastrecSi r l.si).fget f i = d.fget f i := by
    intro f i hf hn
    unfold lastrecPlaces at hn
    simp only [List.mem_cons, List.not_mem_nil, or_false, not_or] at hn
    obtain ⟨n1, n2, n3⟩ := hn
    rw [Dev.fget_fset_place _ _ _ _ ⟨by decide, hf, n3⟩, Dev.fget_fset_place _ _ _ _ ⟨by decide, hf, n2⟩,
      Dev.fget_fset_place _ _ _ _ ⟨by decide, hf, n1⟩]
  have hsol : (((d.fset slvLastrecTag r (l.tag n)).fset slvLastrecRstat r rstat).fset slvLastrecSi r l.si).solvers = d.solvers := rfl
  have hun : ∀ k, (((d.fset slvLastrecTag r (l.tag n)).fset slvLastrecRstat r rstat).fset slvLastrecSi r l.si).unit pSLV k = d.unit pSLV k :=
    fun _ => rfl
  generalize (((d.fset slvLastrecTag r (l.tag n)).fset slvLastrecRstat r rstat).fset slvLastrecSi r l.si) = x at h1 h2 h3 hsol hun ⊢
  have hend : ∀ t, x.CycleKeeps t → d.Recorded t r (l.tag n) rstat := fun t ht =>
    ⟨(ht.keeps.keeps _ _ (by decide) (by decide)).trans h1, (ht.keeps.keeps _ _ (by decide) (by decide)).trans h2,
      ht.solvers.trans hsol, fun f i hf hc hn => (ht.keeps.keeps f i hf hc).trans (h3 f i hf hn), fun k hk hle => by
        have := ht.ce k hk (by rw [hun]; exact hle)
        rw [hun] at this
        exact this⟩
  split
  next y hy => exact hend _ ((CycleKeeps.writeRegion (.refl x) hy).trans (.of_mask (F := 256) (by decide) (Dev.doorbell_mask (by decide) ..)))
  next => exact hend _ (.record (.refl x) ..)

/-! ### The cycle -/

/-- What a published cycle leaves of its solver and its counts. -/
structure Dev.Published (d t : Dev) (e : Nat) : Prop where
  solver : ∃ h z, t.solver e = { d.solver e with halt := h, seals := z }
  others : ∀ g, g ≠ e → t.solver g = d.solver g
  count : t.fget slvCyccntCount e = satAdd (2 ^ 32 - 1) (d.fget slvCyccntCount e) 1
  ce : ∀ k, k < 256 → (d.unit pSLV k).ceCnt ≤ 0xFFFF → (t.unit pSLV k).ceCnt = (d.unit pSLV k).ceCnt

theorem Dev.solver_congr {d e : Dev} (h : e.solvers = d.solvers) (g : Nat) : e.solver g = d.solver g := by
  unfold Dev.solver
  rw [h]

theorem Dev.publishCycle_spec (done : List InstResult) (rest : Rest) (began : Bool) (rstat : Nat) (sealLate : Bool) (piv : Nat × Nat × Nat) :
    d.Published (d.publishCycle m e l n misslim s done rest began rstat sealLate piv) e := by
  have hall := Dev.settleAll_cycle d m e l n misslim s done rest began
  unfold Dev.publishCycle
  dsimp only
  generalize d.settleAll m e l n misslim s done rest began = a at hall ⊢
  generalize hk : (if (l.flag 4 && !l.adjoint) = true then
      match a.1.keepFactors l n s a.2.1 with
      | some d => (d, true)
      | none => (a.1, false)
    else (a.1, false)) = k
  have hkept : d.CycleKeeps k.1 := by
    rw [← hk]
    split
    · split
      next t ht => exact hall.trans (Dev.keepFactors_cycle _ l n s ht)
      next => exact hall
    · exact hall
  clear hk
  generalize hw : (k.1.writeRegion l.outRegion _ _ false).getD k.1 = w
  have hwritten : d.CycleKeeps w := hw ▸ hkept.written ..
  clear hw
  generalize hv : List.foldl _ w a.2.1.zipIdx = v
  have hvalues : d.CycleKeeps v := hv ▸ hwritten.trans (.foldl (fun y r => (Dev.publishValues_cycle ..).trans (Dev.publishValues_cycle ..)) _ (.refl w))
  clear hv
  generalize hc : Dev.fcount _ slvPivcnt2Nonfinite e _ = c
  have hcount : c.fget slvCyccntCount e = satAdd (2 ^ 32 - 1) (d.fget slvCyccntCount e) 1 := by
    rw [← hc]
    simp (disch := decide) only [Dev.fget_fcount_place, Dev.fget_fcount_sat]
    rw [hvalues.keeps.keeps _ _ (by decide) (by decide)]
    rfl
  have hsol : c.solvers = d.solvers := by
    rw [← hc]
    exact hvalues.solvers
  have hun : ∀ k, c.unit pSLV k = v.unit pSLV k := fun k => by
    rw [← hc]
    rfl
  clear hc
  generalize hset : c.setSolver e _ = x
  obtain ⟨halt', seals', hx⟩ : ∃ h z, c.setSolver e { c.solver e with halt := h, seals := z } = x := ⟨_, _, hset⟩
  clear hset
  have hrec := fun q sm => Dev.publishRecord_spec x l n q s.hash rstat sm
  refine ⟨⟨halt', seals', (Dev.solver_congr (hrec _ _).solvers e).trans ?_⟩, fun g hg => (Dev.solver_congr (hrec _ _).solvers g).trans ?_,
    ((hrec _ _).fields _ _ (by decide) (by decide) (by decide)).trans ?_, fun k hk hle => ?_⟩
  · rw [← hx, Dev.solver_setSolver_same, Dev.solver_congr hsol]
  · rw [← hx, Dev.solver_setSolver_ne _ _ hg, Dev.solver_congr hsol]
  · rw [← hx]
    exact hcount
  · have hvc := hvalues.ce k hk hle
    have hxu : x.unit pSLV k = v.unit pSLV k := by
      rw [← hx]
      exact hun k
    exact ((hrec _ _).ce k hk (by rw [hxu, hvc]; exact hle)).trans (by rw [hxu, hvc])

end

end Sys2Proof.Machine
end


section
/-! PROOFS. Lane groups, ends of cycles and starts (R191, R192, R202 to R204). -/

namespace Sys2Proof.Machine

/-! ### Core clocks and single-bit errors -/

theorem Dev.countRun_spec (d : Dev) (e cc : Nat) :
    (d.countRun e cc).solver e = { d.solver e with busyCc := (d.solver e).busyCc + cc }
    ∧ (∀ g, g ≠ e → (d.countRun e cc).solver g = d.solver g) ∧ (d.countRun e cc).units = d.units
    ∧ (d.countRun e cc).fget slvCyccntCount e = d.fget slvCyccntCount e := by
  refine ⟨Dev.solver_setSolver_same .., fun g hg => Dev.solver_setSolver_ne _ _ hg, rfl, ?_⟩
  exact Dev.fget_fcount_place _ _ _ _ (by decide)

theorem Dev.storeCe_ceCnt (d : Dev) (e : Nat) {ces : Nat} (h : ces ≠ 0) :
    ((d.storeCe e ces).unit pSLV e).ceCnt = satAdd 0xFFFF (d.unit pSLV e).ceCnt ces := by
  have hs : ∀ x : Dev, (x.errorSignal false).units = x.units := fun x =>
    Dev.units_of_mask (F := 4194336) (by decide) (Dev.errorSignal_mask (by decide) ..)
  unfold Dev.storeCe
  dsimp only
  rw [if_neg h]
  split
  · rw [Dev.unit_setUnit_same]
  · rw [Dev.unit_congr (hs _), Dev.unit_setUnit_same]

/-! ### A group of 16 -/

/-- A result that is late in a STRICT cycle. -/
def InstResult.timed (r : InstResult) (late : Bool) (l : Launch) : InstResult :=
  if r.status = 0 ∧ late ∧ l.strict ∧ !l.replay then { r with status := 9 } else r

theorem InstResult.timed_late (r : InstResult) {late : Bool} {l : Launch} (hl : late = true) (hs : (l.strict && !l.replay) = true) :
    (r.timed late l).status ≠ 0 := by
  rw [Bool.and_eq_true] at hs
  unfold InstResult.timed
  by_cases h : r.status = 0
  · rw [if_pos ⟨h, hl, hs.1, hs.2⟩]
    exact (by decide : (9 : Nat) ≠ 0)
  · rw [if_neg fun hc => h hc.1]
    exact h

/-- One computation of a lane group. -/
def Dev.laneStep (m : Mem) (e : Nat) (c : Cycle) (z : Struct) (late : Bool) (acc : Dev × Cycle) (i : Nat) : Dev × Cycle :=
  ((acc.1.compute m e c z i).1, { acc.2 with
    results := acc.2.results ++ [(acc.1.compute m e c z i).2.1.timed late c.launch], zpiv := acc.2.zpiv + (acc.1.compute m e c z i).2.2.1,
    spiv := acc.2.spiv + (acc.1.compute m e c z i).2.2.2.1, opiv := acc.2.opiv + (acc.1.compute m e c z i).2.2.2.2 })

/-- What the computations of a lane group leave. -/
structure Dev.LanesDone (m : Mem) (e : Nat) (c : Cycle) (z : Struct) (late : Bool) (acc : Dev × Cycle) (l : List Nat) (t : Dev × Cycle) :
    Prop where
  keeps : acc.1.CycleKeeps t.1
  launch : t.2.launch = acc.2.launch ∧ t.2.n = acc.2.n
  results : ∃ rs, t.2.results = acc.2.results ++ rs ∧ rs.length = l.length ∧ (∀ r ∈ rs, ∃ q : InstResult, r = q.timed late c.launch)
    ∧ ∀ i is, l = i :: is → rs[0]? = some ((acc.1.compute m e c z i).2.1.timed late c.launch)

theorem Dev.lanes_done (m : Mem) (e : Nat) (c : Cycle) (z : Struct) (late : Bool) (l : List Nat) : ∀ acc : Dev × Cycle,
    Dev.LanesDone m e c z late acc l (l.foldl (Dev.laneStep m e c z late) acc) := by
  induction l with
  | nil => exact fun acc => ⟨.refl _, ⟨rfl, rfl⟩, [], (List.append_nil _).symm, rfl, fun r hr => absurd hr List.not_mem_nil,
      fun i is h => absurd h (by simp)⟩
  | cons i l ih =>
    intro acc
    obtain ⟨hk, ⟨hl, hn⟩, rs, hrs, hlen, hall, -⟩ := ih (Dev.laneStep m e c z late acc i)
    refine ⟨(Dev.compute_cycle acc.1 m z e c i).trans hk, ⟨hl, hn⟩, (acc.1.compute m e c z i).2.1.timed late c.launch :: rs, ?_, ?_, ?_, ?_⟩
    · rw [List.foldl_cons, hrs]
      exact List.append_assoc ..
    · rw [List.length_cons, List.length_cons, hlen]
    · intro r hr
      rcases List.mem_cons.mp hr with rfl | hr
      · exact ⟨_, rfl⟩
      · exact hall r hr
    · intro j js hj
      cases hj
      rfl

/-! ### Ends -/

section
variable {d : Dev} {m : Mem} {e : Nat} {c : Cycle} {z : Struct}

/-- The running cycle has ended. -/
structure Dev.RunEnds (d t : Dev) (e : Nat) : Prop where
  run : (t.solver e).run = none
  queue : (t.solver e).queue = (d.solver e).queue
  busy : (t.solver e).busyCc = (d.solver e).busyCc
  others : ∀ g, g ≠ e → t.solver g = d.solver g
  count : t.fget slvCyccntCount e = satAdd (2 ^ 32 - 1) (d.fget slvCyccntCount e) 1
  ce : ∀ k, k < 256 → (d.unit pSLV k).ceCnt ≤ 0xFFFF → (t.unit pSLV k).ceCnt = (d.unit pSLV k).ceCnt

theorem Dev.endRun_ends (hr : (d.solver e).run = some c) (hz : d.launchStruct e c.launch = some z) (rest : Rest) (rstat : Nat) :
    d.RunEnds (d.endRun m e rest rstat) e := by
  unfold Dev.endRun
  rw [hr]
  dsimp only
  rw [hz]
  dsimp only
  obtain ⟨⟨h, s, hsolver⟩, hothers, hcount, hce⟩ := Dev.publishCycle_spec (d.setSolver e { d.solver e with run := none }) m e c.launch c.n
    c.misslim z c.results rest true rstat false (c.zpiv, c.spiv, c.opiv)
  generalize (d.setSolver e { d.solver e with run := none }).publishCycle m e c.launch c.n c.misslim z c.results rest true rstat false
    (c.zpiv, c.spiv, c.opiv) = t at hsolver hothers hcount hce
  rw [Dev.solver_setSolver_same] at hsolver
  refine ⟨?_, ?_, ?_, fun g hg => (hothers g hg).trans (Dev.solver_setSolver_ne _ _ hg), hcount, hce⟩ <;> rw [hsolver]

/-- The rest of a lane group, after its core clocks and its errors. -/
theorem Dev.laneGroup_eq (hr : (d.solver e).run = some c) (hz : ((d.solver e).slot c.launch.slot).struct = some z)
    (hs : d.sheetsRun = true)
    (hl : beyond d.cad.mark (c.launch.deadline c.n) = false ∨ c.launch.strict = true ∨ c.launch.replay = true) (cc ces : Nat) :
    d.laneGroup m e cc ces =
      (let t := ((List.range (min c.launch.goal (16 * (c.results.length / 16 + 1)) - c.results.length)).map (· + c.results.length)).foldl
        (Dev.laneStep m e c z (beyond d.cad.mark (c.launch.deadline c.n))) ((d.countRun e cc).storeCe e ces, c)
      if t.2.results.length < c.launch.goal then t.1.setSolver e { t.1.solver e with run := some t.2 }
      else (t.1.setSolver e { t.1.solver e with run := some t.2 }).endRun m e .stale 0) := by
  have hgo : ¬ (!d.sheetsRun || (beyond d.cad.mark (c.launch.deadline c.n) && !c.launch.strict && !c.launch.replay)) = true := by
    rw [hs]
    rcases hl with hl | hl | hl <;> rw [hl] <;> simp
  unfold Dev.laneGroup Dev.launchStruct
  rw [hr]
  dsimp only
  rw [hz]
  dsimp only
  rw [if_neg hgo]
  rfl

theorem Dev.laneGroup_waits (hz : ((d.solver e).slot c.launch.slot).struct = some z) (hr : (d.solver e).run = some c)
    (h : d.sheetsRun = false ∨ beyond d.cad.mark (c.launch.deadline c.n) = true ∧ c.launch.strict = false ∧ c.launch.replay = false)
    (cc ces : Nat) : d.laneGroup m e cc ces = d := by
  unfold Dev.laneGroup Dev.launchStruct
  rw [hr]
  dsimp only
  rw [hz]
  refine if_pos ?_
  rcases h with h | ⟨h1, h2, h3⟩
  · rw [h]; rfl
  · rw [h1, h2, h3]; simp

/-- A cycle that runs at its deadline. -/
theorem Dev.deadlineMark_runs (hr : (d.solver e).run = some c) (hz : ((d.solver e).slot c.launch.slot).struct = some z)
    (hd : reached d.cad.mark (c.launch.deadline c.n) = true) (hs : c.launch.strict = false) (hp : c.launch.replay = false) :
    ∃ cc, ((d.fresh.2).countRun e cc).RunEnds (d.deadlineMark m e) e := by
  refine ⟨d.fresh.1, ?_⟩
  have heq : d.deadlineMark m e = ((d.fresh.2).countRun e d.fresh.1).endRun m e .stale 0 := by
    unfold Dev.deadlineMark
    dsimp only
    rw [hr, Option.any_some, hd, hs, hp]
    unfold Dev.cutRun
    rw [hr]
    rfl
  have hsolver := (Dev.countRun_spec d.fresh.2 e d.fresh.1).1
  rw [heq]
  refine Dev.endRun_ends (c := c) (z := z) ?_ ?_ _ _
  · rw [hsolver]
    exact hr
  · unfold Dev.launchStruct
    rw [hsolver]
    exact hz

/-- A cycle that is queued at its deadline. -/
theorem Dev.deadlineMark_queued {l : Launch} {n : Nat} {rest : List (Launch × Nat)} (hr : (d.solver e).run = none)
    (hq : (d.solver e).queue = (l, n) :: rest) (hz : ((d.solver e).slot l.slot).struct = some z)
    (hd : reached d.cad.mark (l.deadline n) = true) (hp : l.replay = false) :
    (d.setSolver e { d.solver e with queue := if n < l.rpt then (l, n + 1) :: rest else rest }).Published (d.deadlineMark m e) e := by
  have hadv : (d.solver e).advance 0 = { d.solver e with queue := if n < l.rpt then (l, n + 1) :: rest else rest } := by
    unfold Solver.advance
    rw [hq]
    rfl
  have hidx : (d.solver e).queue.findIdx? (fun q => reached d.cad.mark (q.1.deadline q.2) && !(q.1.replay && q.1.goal != 0)) = some 0 := by
    rw [hq, List.findIdx?_cons, if_pos (by dsimp only; rw [hd, hp]; rfl)]
  have hrun : (d.solver e).run.any (fun c => reached d.cad.mark (c.launch.deadline c.n) && !c.launch.strict && !c.launch.replay) = false := by
    rw [hr]
    rfl
  rw [← hadv]
  unfold Dev.deadlineMark
  dsimp only
  rw [hrun, if_neg (show ¬ (false = true) by decide), hidx]
  dsimp only
  rw [show (d.solver e).queue[0]? = some (l, n) by rw [hq]; rfl]
  dsimp only
  unfold Dev.launchStruct
  rw [hz]
  dsimp only
  split
  · exact Dev.publishCycle_spec ..
  · exact Dev.publishCycle_spec ..

theorem Dev.deadlineMark_waits (hr : (d.solver e).run.all (fun r => !reached d.cad.mark (r.launch.deadline r.n)) = true)
    (hq : (d.solver e).queue.all (fun q => !reached d.cad.mark (q.1.deadline q.2)) = true) : d.deadlineMark m e = d := by
  have hrun : (d.solver e).run.any (fun c => reached d.cad.mark (c.launch.deadline c.n) && !c.launch.strict && !c.launch.replay) = false := by
    cases hc : (d.solver e).run with
    | none => rfl
    | some c =>
      rw [hc, Option.all_some, Bool.not_eq_true'] at hr
      rw [Option.any_some, hr]
      rfl
  have hidx : (d.solver e).queue.findIdx? (fun q => reached d.cad.mark (q.1.deadline q.2) && !(q.1.replay && q.1.goal != 0)) = none := by
    rw [List.findIdx?_eq_none_iff]
    intro q hm
    have := List.all_eq_true.mp hq q hm
    rw [Bool.not_eq_true'] at this
    rw [this]
    rfl
  unfold Dev.deadlineMark
  dsimp only
  rw [hrun, if_neg (by decide), hidx]

end

end Sys2Proof.Machine
end


section
/-! PROOFS. A cycle starts: the queued packets of its own tag are surplus to its seal, and those of earlier tags go (R191, R202). -/

namespace Sys2Proof.Machine

theorem SMap.remove_insert_same {α : Type} (k : Nat) (v : α) (m : SMap α) : SMap.remove k (SMap.insert k v m) = SMap.remove k m := by
  induction m with
  | nil => simp [SMap.insert, SMap.remove]
  | cons x m ih =>
    obtain ⟨j, w⟩ := x
    unfold SMap.remove at ih ⊢
    unfold SMap.insert
    by_cases h : k < j
    · simp [h]
    · by_cases hj : k = j
      · simp [hj]
      · simp only [h, hj, if_false, List.filter_cons, ih]

theorem List.diff_filter_self {α : Type} [BEq α] [LawfulBEq α] (p : α → Bool) (l : List α) :
    l.diff (l.filter p) = l.filter (fun a => !p a) := by
  induction l with
  | nil => rfl
  | cons a l ih =>
    cases h : p a with
    | true =>
      rw [List.filter_cons_of_pos h, List.filter_cons_of_neg (by simp [h]), List.diff_cons, List.erase_cons_head]
      exact ih
    | false =>
      rw [List.filter_cons_of_neg (by simp [h]), List.filter_cons_of_pos (by simp [h]), ← ih]
      have hn : a ∉ l.filter p := fun hm => by simp [h] at hm
      generalize l.filter p = f at hn
      clear ih
      induction f generalizing l with
      | nil => rfl
      | cons b f ihf =>
        rw [List.mem_cons, not_or] at hn
        rw [List.diff_cons, List.diff_cons, List.erase_cons_tail (by simpa using hn.1)]
        exact ihf (l.erase b) hn.2

/-- A seal that has come. -/
def Solver.sealCame (x : Solver) (slot tag : Nat) : Bool := (x.sealState slot tag).total.isSome

theorem Solver.sealCame_insert (x : Solver) (ds : List Delta) (slot : Nat) (z : SealState) (m : SMap SealState) (h : z.total.isSome = true) :
    ({ x with deltas := ds, seals := SMap.insert slot z m } : Solver).sealCame slot z.tag = true := by
  unfold Solver.sealCame Solver.sealState
  dsimp only
  rw [SMap.find_insert_same]
  dsimp only
  rw [if_pos rfl]
  exact h

theorem Solver.sealState_tag (x : Solver) (slot tag : Nat) : (x.sealState slot tag).tag = tag := by
  unfold Solver.sealState
  split
  · split
    · assumption
    · rfl
  · rfl

/-- The fields that count the packets an engine does not take. -/
def deltaerrPlaces : List Nat := [slvDeltaerrDiscarded.place, slvDeltaerrBadpkt.place]

theorem ne_discarded {f : Field} (h : f.place ∉ deltaerrPlaces) : f.place ≠ slvDeltaerrDiscarded.place :=
  fun hp => h (by rw [hp]; exact List.mem_cons_self)

theorem ne_badpkt {f : Field} (h : f.place ∉ deltaerrPlaces) : f.place ≠ slvDeltaerrBadpkt.place :=
  fun hp => h (by rw [hp]; exact List.mem_cons_of_mem _ List.mem_cons_self)

/-- The packets `gone` of a slot whose seal has come are taken: a second seal is discarded and counted. -/
structure Dev.OwnTaken (d t : Dev) (e slot tag : Nat) (gone : List Delta) : Prop where
  solver : ∃ z, t.solver e = { d.solver e with deltas := (d.solver e).deltas.diff gone, seals := z }
    ∧ SMap.remove slot z = SMap.remove slot (d.solver e).seals
  came : (t.solver e).sealCame slot tag = true
  others : ∀ g, g ≠ e → t.solver g = d.solver g
  discarded : ∀ n, satAdd (2 ^ slvDeltaerrDiscarded.width - 1) (t.fget slvDeltaerrDiscarded e) n
    = satAdd (2 ^ slvDeltaerrDiscarded.width - 1) (d.fget slvDeltaerrDiscarded e) ((gone.filter (fun p => p.index.isNone)).length + n)
  fields : ∀ (f : Field) i, f.place < 2 ^ 23 → f.place / 2 ^ 17 ∉ memClasses → f.place ∉ deltaerrPlaces → t.fget f i = d.fget f i

theorem satAdd_satAdd (top a b c : Nat) : satAdd top (satAdd top a b) c = satAdd top a (b + c) := by
  unfold satAdd
  omega

section
variable {d t u : Dev} {e slot tag : Nat} {p : Delta} {gone : List Delta}

theorem Dev.OwnTaken.none (h : (d.solver e).sealCame slot tag = true) : d.OwnTaken d e slot tag [] :=
  ⟨⟨_, rfl, rfl⟩, h, fun _ _ => rfl, fun n => by rw [List.filter_nil, List.length_nil, Nat.zero_add], fun _ _ _ _ _ => rfl⟩

theorem Dev.OwnTaken.cons (h : d.OwnTaken t e slot tag [p]) (g : t.OwnTaken u e slot tag gone) : d.OwnTaken u e slot tag (p :: gone) := by
  obtain ⟨z, hz, hrem⟩ := h.solver
  obtain ⟨y, hy, hrem'⟩ := g.solver
  refine ⟨⟨y, ?_, ?_⟩, g.came, fun k hk => (g.others k hk).trans (h.others k hk), fun n => ?_, fun f i hf hc hn =>
    (g.fields f i hf hc hn).trans (h.fields f i hf hc hn)⟩
  · rw [hy, hz, List.diff_cons (d.solver e).deltas gone p, List.diff_cons, List.diff_nil]
  · rw [hrem', hz]
    exact hrem
  · rw [g.discarded, h.discarded, ← Nat.add_assoc, ← List.length_append, ← List.filter_append]
    rfl

/-- One packet of a slot whose seal has come. -/
theorem Dev.takeDelta_sealed (h : (d.solver e).sealCame p.slot p.tag = true) (l : Launch) (s : Struct) :
    d.OwnTaken (d.takeDelta e l s p) e p.slot p.tag [p] := by
  unfold Solver.sealCame at h
  have hin : ∀ x : Dev, x.solvers = d.solvers → ∀ z : SealState, z.tag = p.tag → z.total.isSome = true →
      (∃ z', (x.putSeal e p z).solver e = { d.solver e with deltas := (d.solver e).deltas.diff [p], seals := z' }
        ∧ SMap.remove p.slot z' = SMap.remove p.slot (d.solver e).seals)
      ∧ ((x.putSeal e p z).solver e).sealCame p.slot p.tag = true ∧ ∀ g, g ≠ e → (x.putSeal e p z).solver g = d.solver g := by
    intro x hx z hz ht
    have hs : (x.putSeal e p z).solver e
        = { d.solver e with deltas := (d.solver e).deltas.erase p, seals := SMap.insert p.slot z (d.solver e).seals } := by
      unfold Dev.putSeal
      rw [Dev.solver_setSolver_same, Dev.solver_congr hx]
    refine ⟨⟨SMap.insert p.slot z (d.solver e).seals, hs.trans ?_, SMap.remove_insert_same ..⟩, ?_, fun g hg => ?_⟩
    · rw [List.diff_cons, List.diff_nil]
    · rw [hs, ← hz]
      exact Solver.sealCame_insert _ _ _ _ _ ht
    · unfold Dev.putSeal
      rw [Dev.solver_setSolver_ne _ _ hg, Dev.solver_congr hx]
  have hput : ∀ (x : Dev) (z : SealState) (f : Field) i, (x.putSeal e p z).fget f i = x.fget f i := fun _ _ _ _ => rfl
  unfold Dev.takeDelta
  dsimp only
  have htag := Solver.sealState_tag (d.solver e) p.slot p.tag
  generalize (d.solver e).sealState p.slot p.tag = z at h htag ⊢
  cases hidx : p.index with
  | none =>
    dsimp only
    unfold Dev.takeSeal
    rw [if_pos h]
    obtain ⟨hsol, hcame, hoth⟩ := hin d rfl z htag h
    refine ⟨hsol, hcame, hoth, fun n => ?_, fun f i hf hc hn => ?_⟩
    · rw [Dev.fget_fcount_sat, hput, satAdd_satAdd, List.filter_cons_of_pos (by rw [hidx]; rfl)]
      rfl
    · rw [Dev.fget_fcount_place (f := slvDeltaerrDiscarded) _ _ _ _ ⟨by decide, hf, ne_discarded hn⟩, hput]
  | some idx =>
    dsimp only
    generalize (decide (p.inst < 4096) && _ && _ : Bool) = good
    generalize hw : (if good = true then (d.writeRegion l.stateRegion _ _ p.poison).getD d else d) = w
    have hkw : d.CycleKeeps w := by
      rw [← hw]
      exact .ite (fun _ => .written (.refl d) ..) fun _ => .refl d
    clear hw
    generalize hv : (if (z.full || !good) = true then w.fcount slvDeltaerrBadpkt e 1 else w) = v
    have hvs : v.solvers = d.solvers := by
      rw [← hkw.solvers, ← hv]
      split <;> rfl
    have hvf : ∀ (f : Field) i, f.place < 2 ^ 23 → f.place / 2 ^ 17 ∉ memClasses → f.place ≠ slvDeltaerrBadpkt.place →
        v.fget f i = d.fget f i := by
      intro f i hf hc hn
      rw [← hkw.keeps.keeps f i hf hc, ← hv]
      split
      · exact Dev.fget_fcount_place _ _ _ _ ⟨by decide, hf, hn⟩
      · rfl
    clear hv
    generalize hy : ({ z with taken := _, bad := _ } : SealState) = y
    have hyt : y.tag = p.tag ∧ y.total.isSome = true := by
      rw [← hy]
      exact ⟨htag, h⟩
    obtain ⟨hsol, hcame, hoth⟩ := hin v hvs y hyt.1 hyt.2
    refine ⟨hsol, hcame, hoth, fun n => ?_, fun f i hf hc hn => ?_⟩
    · rw [hput, hvf _ _ (by decide) (by decide) (by decide), List.filter_cons_of_neg (by rw [hidx]; simp), List.filter_nil,
        List.length_nil, Nat.zero_add]
    · rw [hput, hvf f i hf hc (ne_badpkt hn)]

theorem Dev.takeDeltas_sealed (l : Launch) (s : Struct) : ∀ (gone : List Delta) (d : Dev), (d.solver e).sealCame slot tag = true →
    (∀ p ∈ gone, p.slot = slot ∧ p.tag = tag) → d.OwnTaken (gone.foldl (fun d p => d.takeDelta e l s p) d) e slot tag gone := by
  intro gone
  induction gone with
  | nil => exact fun d h _ => .none h
  | cons p gone ih =>
    intro d h hg
    obtain ⟨rfl, rfl⟩ := hg p List.mem_cons_self
    have h1 := Dev.takeDelta_sealed h l s
    exact h1.cons (ih _ h1.came fun q hq => hg q (List.mem_cons_of_mem _ hq))

end

/-! ### The start -/

/-- A packet of the cycle that starts. -/
def Delta.ownOf (l : Launch) (n : Nat) (p : Delta) : Bool := p.slot == l.slot && p.tag == l.tag n

/-- A packet of an earlier tag (R191). -/
def Delta.olderThan (l : Launch) (n : Nat) (p : Delta) : Bool :=
  let t := (l.tag n + 2 ^ 16 - p.tag % 2 ^ 16) % 2 ^ 16
  decide (1 ≤ t) && decide (t ≤ 32767)

theorem Delta.olderThan_own {l : Launch} {n : Nat} {p : Delta} (h : p.ownOf l n = true) : p.olderThan l n = false := by
  unfold Delta.ownOf at h
  rw [Bool.and_eq_true, beq_iff_eq, beq_iff_eq] at h
  have hlt : l.tag n < 2 ^ 16 := Nat.mod_lt _ (by decide)
  unfold Delta.olderThan
  rw [h.2, Nat.mod_eq_of_lt hlt]
  generalize l.tag n = k at hlt
  have : (k + 2 ^ 16 - k) % 2 ^ 16 = 0 := by omega
  rw [this]
  rfl

/-- The packets that are discarded as a cycle starts: its own seals, and older ones. -/
theorem Delta.gone_length (l : Launch) (n : Nat) (ps : List Delta) :
    ((ps.filter (Delta.ownOf l n)).filter (fun p => p.index.isNone)).length
        + ((ps.filter (fun p => !p.ownOf l n)).filter (Delta.olderThan l n)).length
      = (ps.filter (fun p => p.ownOf l n && p.index.isNone || p.olderThan l n)).length := by
  induction ps with
  | nil => rfl
  | cons p ps ih =>
    cases ho : p.ownOf l n with
    | true =>
      have hold := Delta.olderThan_own ho
      rw [List.filter_cons_of_pos ho, List.filter_cons_of_neg (p := fun p : Delta => !p.ownOf l n) (by simp [ho])]
      cases hi : p.index.isNone with
      | true =>
        rw [List.filter_cons_of_pos (p := fun p : Delta => p.index.isNone) hi, List.filter_cons_of_pos (by simp [ho, hi]), List.length_cons, List.length_cons]
        omega
      | false => rw [List.filter_cons_of_neg (p := fun p : Delta => p.index.isNone) (by simp [hi]), List.filter_cons_of_neg (by simp [hi, hold]), ih]
    | false =>
      rw [List.filter_cons_of_neg (by simp [ho]), List.filter_cons_of_pos (p := fun p : Delta => !p.ownOf l n) (by simp [ho])]
      cases hold : p.olderThan l n with
      | true =>
        rw [List.filter_cons_of_pos hold, List.filter_cons_of_pos (by simp [hold]), List.length_cons, List.length_cons]
        omega
      | false => rw [List.filter_cons_of_neg (by simp [hold]), List.filter_cons_of_neg (by simp [ho, hold]), ih]

/-- The conditions of CYCLE_START (R202). -/
def Dev.cycleStarts (d : Dev) (e : Nat) (l : Launch) (n : Nat) : Bool :=
  d.sheetsRun && d.active pSLV e && (d.solver e).run.isNone && (d.solver e).loading.isNone && reached d.cad.mark (l.startMark n)
    && (d.solver e).sealed l.slot (l.tag n) && (!reached d.cad.mark (l.deadline n) || (l.replay && l.goal != 0))

theorem Dev.cycleStarts_iff {d : Dev} {e : Nat} {l : Launch} {n : Nat} : d.cycleStarts e l n = true ↔
    d.sheetsRun = true ∧ d.active pSLV e = true ∧ (d.solver e).run = none ∧ (d.solver e).loading = none
      ∧ reached d.cad.mark (l.startMark n) = true ∧ (d.solver e).sealed l.slot (l.tag n) = true
      ∧ (reached d.cad.mark (l.deadline n) = false ∨ l.replay = true ∧ l.goal ≠ 0) := by
  unfold Dev.cycleStarts
  simp only [Bool.and_eq_true, Bool.or_eq_true, Bool.not_eq_true', Option.isNone_iff_eq_none, bne_iff_ne]
  tauto

section
variable {d : Dev} {e n : Nat} {l : Launch} {rest : List (Launch × Nat)} {z : Struct}

theorem Dev.cycleStart_waits (hq : (d.solver e).queue = (l, n) :: rest) (h : d.cycleStarts e l n = false) : d.cycleStart e = d := by
  unfold Dev.cycleStart
  dsimp only
  rw [hq]
  dsimp only
  refine if_pos ?_
  rw [Bool.not_eq_true']
  exact h

theorem Dev.cycleStart_empty (hq : (d.solver e).queue = []) : d.cycleStart e = d := by
  unfold Dev.cycleStart
  dsimp only
  rw [hq]

/-- The device once the packets of a cycle's own tag have been taken. -/
def Dev.ownTaken (d : Dev) (e : Nat) (l : Launch) (n : Nat) (z : Struct) : Dev :=
  ((d.solver e).deltas.filter (Delta.ownOf l n)).foldl (fun d p => d.takeDelta e l z p) d

/-- The cycle that starts. -/
def Dev.startedCycle (d : Dev) (e : Nat) (l : Launch) (n : Nat) : Cycle :=
  ⟨l, n, d.fget slvRegDelta e, d.fget slvRegTiny e, d.fget slvCycMisslim e, ((d.solver e).sealState l.slot (l.tag n)).bad, [], 0, 0, 0⟩

theorem Dev.cycleStart_eq (hq : (d.solver e).queue = (l, n) :: rest) (hz : ((d.solver e).slot l.slot).struct = some z)
    (h : d.cycleStarts e l n = true) :
    d.cycleStart e = ((d.ownTaken e l n z).setSolver e { ((d.ownTaken e l n z).solver e).advance 0 with
        run := some ((d.ownTaken e l n z).startedCycle e l n)
        deltas := ((d.ownTaken e l n z).solver e).deltas.filter (fun p => !p.olderThan l n)
        seals := SMap.remove l.slot ((d.ownTaken e l n z).solver e).seals }).fcount slvDeltaerrDiscarded e
      (((d.ownTaken e l n z).solver e).deltas.filter (Delta.olderThan l n)).length := by
  unfold Dev.cycleStart
  dsimp only
  rw [hq]
  dsimp only
  rw [hz]
  refine (if_neg ?_).trans rfl
  rw [Bool.not_eq_true', Bool.not_eq_false]
  exact h

theorem Dev.ownTaken_spec (h : (d.solver e).sealed l.slot (l.tag n) = true) :
    d.OwnTaken (d.ownTaken e l n z) e l.slot (l.tag n) ((d.solver e).deltas.filter (Delta.ownOf l n)) := by
  refine Dev.takeDeltas_sealed _ _ _ _ ?_ fun p hp => ?_
  · unfold Solver.sealed SealState.full at h
    unfold Solver.sealCame
    cases ht : ((d.solver e).sealState l.slot (l.tag n)).total with
    | none => rw [ht] at h; exact absurd h Bool.false_ne_true
    | some t => rfl
  · have := List.of_mem_filter hp
    unfold Delta.ownOf at this
    rw [Bool.and_eq_true, beq_iff_eq, beq_iff_eq] at this
    exact this

/-- What a cycle's start leaves. -/
structure Dev.Started (d t : Dev) (e : Nat) (l : Launch) (n : Nat) (rest : List (Launch × Nat)) : Prop where
  run : ∃ bad, (t.solver e).run = some ⟨l, n, d.fget slvRegDelta e, d.fget slvRegTiny e, d.fget slvCycMisslim e, bad, [], 0, 0, 0⟩
    ∧ ((d.solver e).deltas.any (Delta.ownOf l n) = false → bad = ((d.solver e).sealState l.slot (l.tag n)).bad)
  queue : (t.solver e).queue = if n < l.rpt then (l, n + 1) :: rest else rest
  deltas : (t.solver e).deltas = (d.solver e).deltas.filter (fun p => !p.ownOf l n && !p.olderThan l n)
  seals : (t.solver e).seals = SMap.remove l.slot (d.solver e).seals
  discarded : t.fget slvDeltaerrDiscarded e = satAdd (2 ^ slvDeltaerrDiscarded.width - 1) (d.fget slvDeltaerrDiscarded e)
    ((d.solver e).deltas.filter (fun p => p.ownOf l n && p.index.isNone || p.olderThan l n)).length
  others : ∀ g, g ≠ e → t.solver g = d.solver g
  parts : (d.solver e).deltas.any (Delta.ownOf l n) = false → t.mask (partsMask [.regs, .solvers]) = d.mask (partsMask [.regs, .solvers])

theorem Dev.ownTaken_none (h : (d.solver e).deltas.any (Delta.ownOf l n) = false) : d.ownTaken e l n z = d := by
  unfold Dev.ownTaken
  rw [List.filter_eq_nil_iff.mpr fun p hp => ?_]
  · rfl
  · have := List.any_eq_false.mp h p hp
    exact this

theorem Dev.cycleStart_starts (hq : (d.solver e).queue = (l, n) :: rest) (hz : ((d.solver e).slot l.slot).struct = some z)
    (h : d.cycleStarts e l n = true) : d.Started (d.cycleStart e) e l n rest := by
  obtain ⟨⟨seals', hsol, hrem⟩, -, hoth, hdis, hfld⟩ := Dev.ownTaken_spec (z := z) (Dev.cycleStarts_iff.mp h).2.2.2.2.2.1
  have hnone := Dev.ownTaken_none (d := d) (e := e) (l := l) (n := n) (z := z)
  rw [Dev.cycleStart_eq hq hz h]
  generalize d.ownTaken e l n z = y at *
  rw [List.diff_filter_self] at hsol
  have hsame : ∀ x : Solver, ((y.setSolver e x).fcount slvDeltaerrDiscarded e
      ((y.solver e).deltas.filter (Delta.olderThan l n)).length).solver e = x := fun x => Dev.solver_setSolver_same ..
  have hadv : ((y.solver e).advance 0).queue = if n < l.rpt then (l, n + 1) :: rest else rest := by
    rw [hsol]
    unfold Solver.advance
    dsimp only
    rw [hq]
    rfl
  refine ⟨⟨((y.solver e).sealState l.slot (l.tag n)).bad, ?_, fun hn => by rw [hnone hn]⟩, ?_, ?_, ?_, ?_, fun g hg => ?_, fun hn => ?_⟩
  · rw [hsame]
    unfold Dev.startedCycle
    rw [hfld _ _ (by decide) (by decide) (by decide), hfld _ _ (by decide) (by decide) (by decide),
      hfld _ _ (by decide) (by decide) (by decide)]
  · rw [hsame]
    exact hadv
  · rw [hsame, hsol]
    dsimp only
    rw [List.filter_filter]
    exact List.filter_congr fun p _ => Bool.and_comm ..
  · rw [hsame, hsol]
    exact hrem
  · rw [Dev.fget_fcount_sat, ← Delta.gone_length, ← hdis, hsol]
    rfl
  · exact (Dev.solver_setSolver_ne _ _ hg).trans (hoth g hg)
  · rw [hnone hn]
    rfl

end

end Sys2Proof.Machine
end


section
/-! PROOFS. Launches queue, cycles start, compute their groups and end (R201 to R205). -/

namespace Sys2Proof.Machine

section
variable {d : Dev} {m : Mem} {e n : Nat} {c : Cycle} {z : Struct} {l : Launch}

/-! ### Lane groups -/

theorem InstResult.timed_eq (r : InstResult) (late : Bool) (l : Launch) : r.timed late l =
    if r.status = 0 ∧ late = true ∧ (l.strict && !l.replay) = true then { r with status := 9 } else r := by
  unfold InstResult.timed
  simp only [Bool.and_eq_true]

/-- The device as a lane group's computations begin. -/
def Dev.laneBegun (d : Dev) (e cc ces : Nat) : Dev := (d.countRun e cc).storeCe e ces

theorem Dev.laneBegun_solvers (d : Dev) (e cc ces : Nat) : (d.laneBegun e cc ces).solvers = (d.countRun e cc).solvers :=
  Dev.solvers_of_mask (F := 4194352) (by decide) (Dev.storeCe_mask (by decide) ..)

theorem Dev.laneBegun_count (d : Dev) (e cc ces : Nat) : (d.laneBegun e cc ces).fget slvCyccntCount e = d.fget slvCyccntCount e :=
  (Dev.fget_of_mask (F := 4194352) (by decide) (Dev.storeCe_mask (by decide) ..) ..).trans (Dev.countRun_spec d e cc).2.2.2

theorem Dev.laneBegun_ce (d : Dev) (e cc : Nat) {ces : Nat} (h : ces ≠ 0) :
    ((d.laneBegun e cc ces).unit pSLV e).ceCnt = satAdd 0xFFFF (d.unit pSLV e).ceCnt ces := by
  unfold Dev.laneBegun
  rw [Dev.storeCe_ceCnt _ _ h, Dev.unit_congr (Dev.countRun_spec d e cc).2.2.1]

/-- What a group of 16 leaves of its solver, its counts and the other solvers. -/
structure Dev.GroupEnds (d t : Dev) (e cc ces : Nat) : Prop where
  busy : (t.solver e).busyCc = (d.solver e).busyCc + cc
  ce : ces ≠ 0 → (t.unit pSLV e).ceCnt = satAdd 0xFFFF (d.unit pSLV e).ceCnt ces
  queue : (t.solver e).queue = (d.solver e).queue
  others : ∀ g, g ≠ e → t.solver g = d.solver g

/-- The cycle after a group: `k` results more than before, of which the first is `first`. -/
structure Cycle.Grown (c c' : Cycle) (k : Nat) (late : Bool) (first : InstResult) : Prop where
  length : c'.results.length = c.results.length + k
  launch : c'.launch = c.launch
  n : c'.n = c.n
  kept : c'.results.take c.results.length = c.results
  first : c'.results[c.results.length]? = some (first.timed late c.launch)
  late : late = true → (c.launch.strict && !c.launch.replay) = true → ∀ r ∈ c'.results.drop c.results.length, r.status ≠ 0

theorem Dev.LanesDone.grown {d : Dev} {late : Bool} {t : Dev × Cycle} {i : Nat} {is : List Nat}
    (h : Dev.LanesDone m e c z late (d, c) (i :: is) t) : c.Grown t.2 (i :: is).length late (d.compute m e c z i).2.1 := by
  obtain ⟨-, ⟨hl, hn⟩, rs, hrs, hlen, hall, hfirst⟩ := h
  dsimp only at hrs hfirst hl hn
  refine ⟨?_, hl, hn, ?_, ?_, fun hlate hs r hr => ?_⟩
  · rw [hrs, List.length_append, hlen]
  · rw [hrs, List.take_left]
  · rw [hrs, List.getElem?_append_right (Nat.le_refl _), Nat.sub_self]
    exact hfirst i is rfl
  · rw [hrs, List.drop_left] at hr
    obtain ⟨q, rfl⟩ := hall r hr
    exact q.timed_late hlate hs

/-- The next group of the running cycle. -/
theorem Dev.laneGroup_spec (he : e < 8) (hr : (d.solver e).run = some c) (hz : ((d.solver e).slot c.launch.slot).struct = some z)
    (hs : d.sheetsRun = true)
    (hl : beyond d.cad.mark (c.launch.deadline c.n) = false ∨ c.launch.strict = true ∨ c.launch.replay = true)
    (hlen : c.results.length < c.launch.goal) (cc ces : Nat) :
    d.GroupEnds (d.laneGroup m e cc ces) e cc ces
    ∧ (min c.launch.goal (16 * (c.results.length / 16 + 1)) < c.launch.goal →
      ∃ c', ((d.laneGroup m e cc ces).solver e).run = some c'
        ∧ c.Grown c' (min c.launch.goal (16 * (c.results.length / 16 + 1)) - c.results.length)
          (beyond d.cad.mark (c.launch.deadline c.n)) ((d.laneBegun e cc ces).compute m e c z c.results.length).2.1)
    ∧ (min c.launch.goal (16 * (c.results.length / 16 + 1)) = c.launch.goal →
      ((d.laneGroup m e cc ces).solver e).run = none
        ∧ (d.laneGroup m e cc ces).fget slvCyccntCount e = satAdd (2 ^ 32 - 1) (d.fget slvCyccntCount e) 1) := by
  obtain ⟨k, hk⟩ : ∃ k, min c.launch.goal (16 * (c.results.length / 16 + 1)) - c.results.length = k + 1 :=
    ⟨min c.launch.goal (16 * (c.results.length / 16 + 1)) - c.results.length - 1, by omega⟩
  have hrange : (List.range (k + 1)).map (· + c.results.length)
      = c.results.length :: (List.range k).map (fun i => i + 1 + c.results.length) := by
    rw [List.range_succ_eq_map, List.map_cons, List.map_map, Nat.zero_add]
    rfl
  rw [Dev.laneGroup_eq hr hz hs hl, hk, hrange]
  dsimp only
  have hdone := Dev.lanes_done m e c z (beyond d.cad.mark (c.launch.deadline c.n))
    (c.results.length :: (List.range k).map (fun i => i + 1 + c.results.length)) (d.laneBegun e cc ces, c)
  have hbegun : (d.countRun e cc).storeCe e ces = d.laneBegun e cc ces := rfl
  rw [hbegun]
  generalize List.foldl (Dev.laneStep m e c z (beyond d.cad.mark (c.launch.deadline c.n))) (d.laneBegun e cc ces, c) _ = t at hdone ⊢
  have hgrown := hdone.grown
  obtain ⟨hkeeps, -, -⟩ := hdone
  dsimp only at hkeeps
  obtain ⟨hcs, hco, -, -⟩ := Dev.countRun_spec d e cc
  have hsol : t.1.solver e = { d.solver e with busyCc := (d.solver e).busyCc + cc } := by
    rw [Dev.solver_congr (hkeeps.solvers.trans (Dev.laneBegun_solvers ..)), hcs]
  have hoth : ∀ g, g ≠ e → t.1.solver g = d.solver g := fun g hg => by
    rw [Dev.solver_congr (hkeeps.solvers.trans (Dev.laneBegun_solvers ..)), hco g hg]
  have hce : ces ≠ 0 → (t.1.unit pSLV e).ceCnt = satAdd 0xFFFF (d.unit pSLV e).ceCnt ces := fun h => by
    rw [← Dev.laneBegun_ce d e cc h]
    refine hkeeps.ce e (by omega) ?_
    rw [Dev.laneBegun_ce d e cc h]
    exact Nat.min_le_left ..
  have hcount : t.1.fget slvCyccntCount e = d.fget slvCyccntCount e :=
    (hkeeps.keeps.keeps _ _ (by decide) (by decide)).trans (Dev.laneBegun_count ..)
  have hlength : t.2.results.length = min c.launch.goal (16 * (c.results.length / 16 + 1)) := by
    have := hgrown.length
    simp only [List.length_cons, List.length_map, List.length_range] at this
    omega
  rw [List.length_cons, List.length_map, List.length_range] at hgrown
  clear hkeeps hcs hco hbegun
  rw [hlength]
  have hset : (t.1.setSolver e { t.1.solver e with run := some t.2 }).solver e = { t.1.solver e with run := some t.2 } :=
    Dev.solver_setSolver_same ..
  by_cases hg : min c.launch.goal (16 * (c.results.length / 16 + 1)) < c.launch.goal
  · rw [if_pos hg]
    refine ⟨⟨?_, hce, ?_, fun g hne => (Dev.solver_setSolver_ne _ _ hne).trans (hoth g hne)⟩, fun _ => ⟨t.2, ?_, hgrown⟩,
      fun h => absurd h (Nat.ne_of_lt hg)⟩
    · rw [hset, hsol]
    · rw [hset, hsol]
    · rw [hset]
  · rw [if_neg hg]
    have hends := Dev.endRun_ends (d := t.1.setSolver e { t.1.solver e with run := some t.2 }) (m := m) (e := e) (c := t.2) (z := z)
      (by rw [hset]) (by unfold Dev.launchStruct; rw [hset, hgrown.launch, hsol]; exact hz) .stale 0
    generalize (t.1.setSolver e { t.1.solver e with run := some t.2 }).endRun m e .stale 0 = u at hends ⊢
    refine ⟨⟨?_, fun h => ?_, ?_, fun g hne => ((hends.others g hne).trans (Dev.solver_setSolver_ne _ _ hne)).trans (hoth g hne)⟩,
      fun h => absurd h hg, fun _ => ⟨hends.run, ?_⟩⟩
    · rw [hends.busy, hset, hsol]
    · rw [← hce h]
      refine hends.ce e (by omega) ?_
      have := hce h
      exact (show (t.1.unit pSLV e).ceCnt ≤ 0xFFFF by rw [this]; exact Nat.min_le_left ..)
    · rw [hends.queue, hset, hsol]
    · rw [hends.count, ← hcount]
      rfl

theorem Dev.laneGroup_idle (hr : (d.solver e).run = none) (cc ces : Nat) : d.laneGroup m e cc ces = d := by
  unfold Dev.laneGroup
  rw [hr]

/-! ### Launches -/

/-- The launch has left the launches that wait. -/
def Dev.launchTaken (d : Dev) (l : Launch) : Dev := { d with launches := d.launches.erase l }

theorem Dev.solverLaunch_refused {r : Nat} (hn : d.nextLaunch = some l) (h : d.launchRefusal l = some r) :
    d.solverLaunch = (d.launchTaken l).refuseLaunch l r := by
  unfold Dev.solverLaunch
  rw [hn]
  dsimp only
  rw [show ({ d with launches := d.launches.erase l } : Dev).launchRefusal l = some r from h]
  rfl

theorem Dev.solverLaunch_taken {sl : Nat} (hn : d.nextLaunch = some l) (h : d.launchRefusal l = none)
    (he : d.engineOf l.si = some (e, sl)) : d.solverLaunch =
      if 4 ≤ (d.solver e).queue.length then (d.launchTaken l).refuseLaunch l 3
      else (d.launchTaken l).setSolver e { d.solver e with queue := (d.solver e).queue ++ [({ l with slot := sl }, 0)] } := by
  unfold Dev.solverLaunch
  rw [hn]
  dsimp only
  rw [show ({ d with launches := d.launches.erase l } : Dev).launchRefusal l = none from h]
  dsimp only
  rw [show ({ d with launches := d.launches.erase l } : Dev).engineOf l.si = some (e, sl) from he]
  rfl

theorem Dev.refuseLaunch_spec (d : Dev) (l : Launch) (r : Nat) :
    ((d.launchTaken l).refuseLaunch l r).launches = d.launches.erase l
    ∧ (d.launchTaken l).Recorded ((d.launchTaken l).refuseLaunch l r) (d.reportEngine l) (l.tag 0) r :=
  ⟨Dev.launches_of_mask (F := 79699257) (by decide) (Dev.publishRecord_mask (by decide) ..), Dev.publishRecord_spec ..⟩

end

/-- Settles O31: a launch that is refused is recorded (`Dev.publishRecord_spec`), and one that is taken waits in its queue; a cycle
starts after it has taken the packets of its tag (`Dev.cycleStart_starts`), grows by groups (`Dev.laneGroup_spec`) and is published
at its last group or at its deadline (`Dev.endRun_ends`, `Dev.publishCycle_spec`). -/
theorem solverCycles : Obligations.SolverCycles := by
  intro s e sl n cc ces l c z he hw x now
  have hok : slvOk e = true := decide_eq_true he
  refine ⟨fun hn => ?_, fun hn => ⟨fun r hr => ?_, fun hr hen hlen => ?_⟩, fun rest hq hz => ?_, fun hq => ?_, fun hr hz => ?_, fun hr => ?_,
    fun hr rest hq hz hd hp => ?_, fun hr hq => ?_⟩
  · exact exec_run_same rfl hw (by unfold Dev.solverLaunch; rw [hn])
  · have heq : s.dev.solverLaunch = (s.dev.launchTaken l).refuseLaunch l r := by
      rcases hr with hr | ⟨rfl, hr, hen, hlen⟩
      · exact Dev.solverLaunch_refused hn hr
      · rw [Dev.solverLaunch_taken hn hr hen, if_pos hlen]
    obtain ⟨hla, hrec⟩ := Dev.refuseLaunch_spec s.dev l r
    refine Answers.ends (ok := true) rfl rfl heq ?_
    rintro ⟨_, _, _⟩ rfl
    exact ⟨hla, hrec.solvers, hrec.rstat, hrec.tag.trans (Nat.mod_eq_of_lt (Nat.mod_lt _ (by decide)))⟩
  · refine Answers.quiet' rfl (Dev.solverLaunch_taken hn hr hen) ?_ ?_
    · rw [if_neg (Nat.not_le.mpr hlen)]
      exact hw
    · rw [if_neg (Nat.not_le.mpr hlen)]
      exact ⟨rfl, Dev.solver_setSolver_same .., fun g hg => Dev.solver_setSolver_ne _ _ hg,
        State.onlyParts_of_mask [.launches, .solvers] rfl⟩
  · intro starts own older
    refine ⟨fun hs => ?_, fun hs => ?_⟩
    · obtain ⟨hrun, hque, hdel, hsea, hdis, hoth, hpar⟩ := Dev.cycleStart_starts hq hz (Dev.cycleStarts_iff.mpr hs)
      cases hown : x.deltas.any own with
      | true =>
        refine Answers.ends (d' := s.dev.cycleStart e) rfl hok rfl ?_
        rintro ⟨_, _, _⟩ rfl
        obtain ⟨bad, hbad, -⟩ := hrun
        exact ⟨⟨bad, hbad, fun h => absurd h Bool.false_ne_true.symm⟩, hque, hdel, hsea, hdis, hoth,
          fun h => absurd h Bool.false_ne_true.symm⟩
      | false =>
        have hmask := hpar hown
        obtain ⟨bad, hbad, hsame⟩ := hrun
        exact Answers.quiet rfl hok rfl ((Dev.wout_of_mask (by decide) hmask).trans hw)
          ⟨⟨bad, hbad, fun _ => hsame hown⟩, hque, hdel, hsea, hdis, hoth,
            fun _ => State.onlyParts_of_mask [.regs, .solvers] hmask⟩
    · exact runIf_same hok hw (Dev.cycleStart_waits hq (Bool.eq_false_iff.mpr fun h => hs (Dev.cycleStarts_iff.mp h)))
  · exact runIf_same hok hw (Dev.cycleStart_empty hq)
  · intro late strict
    refine ⟨fun hs hl hlen => ?_, fun h => ?_, fun hd hs hp => ?_⟩
    · intro upto first
      obtain ⟨hgrp, hmore, hlast⟩ := Dev.laneGroup_spec (m := s.mem) he hr hz hs hl hlen cc ces
      refine Answers.ends (d' := s.dev.laneGroup s.mem e cc ces) rfl hok rfl ?_
      rintro ⟨_, _, _⟩ rfl
      refine ⟨fun hu => ?_, fun hu => hlast hu, hgrp.busy, hgrp.ce, hgrp.queue, hgrp.others⟩
      obtain ⟨c', hc', hg⟩ := hmore hu
      refine ⟨c', hc', hg.length.trans ?_, hg.launch, hg.n, hg.kept, hg.first.trans ?_, hg.late⟩
      · omega
      · rw [InstResult.timed_eq]
        rfl
    · exact runIf_same hok hw (Dev.laneGroup_waits hz hr h cc ces)
    · obtain ⟨k, hends⟩ := Dev.deadlineMark_runs (m := s.mem) hr hz hd hs hp
      obtain ⟨hcs, hco, -, hcc⟩ := Dev.countRun_spec s.dev.fresh.2 e k
      refine Answers.ends (d' := s.dev.deadlineMark s.mem e) rfl hok rfl ?_
      rintro ⟨_, _, _⟩ rfl
      refine ⟨hends.run, hends.queue.trans (by rw [hcs]; rfl), hends.count.trans (by rw [hcc]; rfl), fun g hg =>
        ((hends.others g hg).trans (hco g hg)).trans rfl⟩
  · exact runIf_same hok hw (Dev.laneGroup_idle hr cc ces)
  · obtain ⟨⟨h, y, hsol⟩, hoth, hcount, -⟩ := Dev.deadlineMark_queued (m := s.mem) hr hq hz hd hp
    rw [Dev.solver_setSolver_same] at hsol
    refine Answers.ends (d' := s.dev.deadlineMark s.mem e) rfl hok rfl ?_
    rintro ⟨_, _, _⟩ rfl
    refine ⟨(congrArg Solver.run hsol).trans hr, congrArg Solver.queue hsol, hcount, fun g hg =>
      (hoth g hg).trans (Dev.solver_setSolver_ne _ _ hg)⟩
  · exact runIf_same hok hw (Dev.deadlineMark_waits hr hq)

end Sys2Proof.Machine
end
